-- ==== Sys2Proof/Word.lean ====
section
/-! DEFINITION. The word types of the K1 and its sparse tables (plain lists of key and value). -/

namespace Sys2Proof

/-- A byte of memory or of a record. -/
abbrev Byte := BitVec 8
/-- A 16-bit field (versions, generations, context numbers). -/
abbrev W16 := BitVec 16
/-- A lane of a v register, a predicate mask, a ring count (R163, R301). -/
abbrev W32 := BitVec 32
/-- A TQI register, a uniform register, a device register (R286, R163, R221). -/
abbrev W64 := BitVec 64
/-- A 64-byte descriptor read as one little-endian number (R311). -/
abbrev Desc := BitVec 512

/-- A sparse table: keys strictly rising; a key that is not listed has the table's default. -/
abbrev Tbl (α : Type) := List (Nat × α)

end Sys2Proof
end

