-- ==== Sys2Proof/Config.lean ====
section
/-! DEFINITION. What one K1 fixes and the spec does not state: the free values. None has a body, so no proof can see
a value; every claim holds for every choice. -/

namespace Sys2Proof.Config

/-- A fresh value of `w` bits that the spec leaves open, applied to the state's counter of free values (log 4). -/
opaque freeBits : (w : Nat) → Nat → BitVec w
/-- A byte of exposed memory that nothing has written since its unit's key was drawn, by key epoch and address
(R466: reads of unwritten memory return undefined data; log 5). -/
opaque undefByte : Nat → Nat → BitVec 8
/-- A byte of host or remote memory that the block has neither read nor written (surroundings; log 6). -/
opaque extByte : Nat → BitVec 8
/-- The DRBG's n-th 64-bit output (R517; log 4). -/
opaque drbg : Nat → BitVec 64
/-- Stepping (0x1000:05): 0x00 A0 or 0x10 B0. -/
opaque stepping : BitVec 8
/-- IANA enterprise number (0x1000:06). -/
opaque iana : BitVec 32
/-- Sytaba's JEDEC manufacturer code (R577). -/
opaque jedec : BitVec 11
/-- Version word of the firmware image in a slot (0x1000:07). -/
opaque fwVersion : Nat → BitVec 32
/-- Firmware's source list of a group (0x1030:g). -/
opaque sourceList : Nat → BitVec 128
/-- What the word of a foreign engine's reply holds where the manual leaves it to the engine (R564). -/
opaque engineByte : Nat → BitVec 8
/-- An entry of the integrator's KOD range as the config store's table describes it (R485): type code, size in bytes,
access 0 CONST, 1 RO, 2 RW, 3 WO, persistence, kind 0 live, 1 hide-restart, 2 block-restart, and value before a write. -/
structure Entry where
  ty : Nat
  size : Nat
  acc : Nat
  persist : Bool
  kind : Nat
  dflt : Nat

/-- The integrator's table of entries 0xF000 to 0xFFFF (R485). -/
opaque integratorEntry : Nat → Nat → Option Entry
/-- A special-purpose reading of the current regulator over AVSBus when it has not been read yet (R504). -/
opaque regulator : Nat → Nat
/-- The result of an operation on operands for which the manual states none, by operation and operands (log 11). -/
opaque unstated : (w : Nat) → Nat → Nat → Nat → Nat → BitVec w
/-- The default value of a KOD entry whose default the manual does not give (R486, marked by a dash). -/
opaque kodUnstatedDefault : Nat → Nat → Nat

/-- The flash on the Config Port reads with quad I/O (R568). -/
opaque flashQuad : Bool
/-- The body of a profile copy in the config store, of which R493 gives only the frame: its stored values as bytes (log 25). -/
opaque profileBody : List (Nat × List (Nat × Nat)) → List (BitVec 8)
/-- The body of a header copy: the firmware slot named next, BOOT_SOURCE and the profile last active (R493, R494; log 25). -/
opaque headerBody : Nat → Nat → Nat → List (BitVec 8)

/-- CRC-32 of a link map: the manual does not give the bytes that it covers (R542). -/
opaque mapCrc : List (Nat × List (Nat × Nat × Nat)) → BitVec 32

end Sys2Proof.Config
end

