-- ==== Sys2Proof/Syntax.lean ====
section
/-! DEFINITION. The commands of the block: one constructor per row of spec/opcode_table.json, with the row's operands.
The rows give no bits; the operands are what the row's rule says the step is about (log 2). -/

namespace Sys2Proof

/-- A chain: its core (furlong·17 + position for compute cores 0 to 271; 272 to 275 are CC0 to CC3) and its slot
(R152, R203). -/
structure ChainRef where
  core : Fin 276
  slot : Fin 64
deriving DecidableEq, Repr

/-- Operands of the V3 form (R174). -/
structure V3 where
  pred : Fin 8 := 7
  pneg : Bool := false
  vd : BitVec 8 := 0
  va : BitVec 8 := 0
  vb : BitVec 8 := 0
  vc : BitVec 8 := 0
  ty : BitVec 4 := 0
  round : BitVec 2 := 0
  sat : Bool := false
  ub : Bool := false
  usel : BitVec 6 := 0
deriving DecidableEq, Repr

/-- Operands of the VI form (R174). -/
structure VI where
  pred : Fin 8 := 7
  pneg : Bool := false
  vd : BitVec 8 := 0
  va : BitVec 8 := 0
  imm : BitVec 32 := 0
deriving DecidableEq, Repr

/-- Operands of the MEM form (R174). -/
structure MemI where
  pred : Fin 8 := 7
  pneg : Bool := false
  vds : BitVec 8 := 0
  voff : BitVec 8 := 0xFF
  ubase : BitVec 6 := 0
  ord : BitVec 2 := 0
  buf : BitVec 4 := 0
  size : BitVec 3 := 2
  na : Bool := false
  imm : BitVec 16 := 0
deriving DecidableEq, Repr

/-- Operands of the BR form (R174). -/
structure BrI where
  pred : Fin 8 := 7
  pneg : Bool := false
  target : BitVec 24 := 0
  rpc : BitVec 24 := 0
deriving DecidableEq, Repr

/-- Operands of the U form (R174). -/
structure UI where
  pred : Fin 8 := 7
  pneg : Bool := false
  ud : BitVec 6 := 0
  ua : BitVec 6 := 0
  useImm : Bool := false
  ub : BitVec 6 := 0
  imm : BitVec 32 := 0
deriving DecidableEq, Repr

/-- Operands of the MX form (R174). -/
structure MxI where
  pred : Fin 8 := 7
  pneg : Bool := false
  fmtA : BitVec 5 := 0
  fmtB : BitVec 5 := 0
  modeA : BitVec 3 := 0
  modeB : BitVec 3 := 0
  uaddr : BitVec 6 := 0
  uaux : BitVec 6 := 0
  rows : BitVec 5 := 0
deriving DecidableEq, Repr

/-- Operands of the SYS form (R174). -/
structure SysI where
  pred : Fin 8 := 7
  pneg : Bool := false
  vd : BitVec 8 := 0
  ud : BitVec 6 := 0
  sreg : BitVec 12 := 0
  imm : BitVec 16 := 0
deriving DecidableEq, Repr

/-- The special functions of V3 28 to 2D (R178). -/
inductive SpecFn | rcp | rsq | sqrt | ex2 | lg2 | tanh
deriving DecidableEq, Repr

/-- The atomics of MEM 08 to 0F and 10 to 17, in OPC order (R178). -/
inductive AtomOp | add | min | max | and | or | xor | exch | cas
deriving DecidableEq, Repr

/-- The operations U 00 to 08 (R178). -/
inductive UOp | add | sub | mul | and | or | xor | shl | shr | mov
deriving DecidableEq, Repr

/-- The bitwise operations V3 08 to 0B (R178). -/
inductive BitOp | and | or | xor | andn
deriving DecidableEq, Repr

/-- The shifts V3 0C to 0E (R178). -/
inductive ShOp | shl | shr | sar
deriving DecidableEq, Repr

/-- V3 0F to 11 (R178). -/
inductive CntOp | popc | clz | brev
deriving DecidableEq, Repr

/-- V3 20 to 22 (R178). -/
inductive FOp | fadd | fmul | ffma
deriving DecidableEq, Repr

/-- VI 00 to 04 (R178). -/
inductive ViOp | iaddi | movi | andi | ori | xori
deriving DecidableEq, Repr

/-- Which registers an access reaches: BAR0 of a function (with the TRUST attribute of R555), or the control cores'
device registers at local-node offset 0xFF_0000_0000 (R220). -/
inductive RegView
  | bar0 (fn : Fin 513) (trust : Bool)
  | dev
deriving DecidableEq, Repr

/-- A record destination (R443). -/
inductive Dest
  | event (fn : Fin 513)
  | error (fn : Fin 513)
  | journal
deriving DecidableEq, Repr

/-- Who sends a KOD request (R480, R497), with its requester ID. -/
inductive KodSrc
  | window
  | vdm (rid : BitVec 16)
  | i3c
  | firmware
deriving DecidableEq, Repr

/-- The fields of a KOD request (R478): profile 0 to 3 or 7, entry name, type, offset, tag and the data bytes. -/
structure KodReq where
  src : KodSrc := .window
  prof : Nat := 7
  idx : Nat := 0
  sub : Nat := 0
  ty : Nat := 0
  len : Nat := 0
  off : Nat := 0
  tag : BitVec 32 := 0
  data : List Byte := []
deriving DecidableEq, Repr

/-- A link message (R532): header fields and LEN data bytes. -/
structure LMsg where
  kind : BitVec 8 := 0
  vc : BitVec 2 := 0
  epoch : Bool := false
  len : Nat := 0
  hide : BitVec 4 := 0
  dst : BitVec 14 := 0
  src : BitVec 14 := 0
  tag : BitVec 16 := 0
  aux : BitVec 8 := 0
  addr : BitVec 40 := 0
  data : List Byte := []
deriving DecidableEq, Repr

/-- A link-state record (R539): node, SEQ and, for each UP port, the port, the peer's node and the peer's port. -/
structure LmRec where
  node : Nat := 0
  seq : BitVec 32 := 0
  links : List (Nat × Nat × Nat) := []
deriving DecidableEq, Repr

/-- A port that returns flow-control credits (R427, R559). -/
inductive PortId
  | host (n : Fin 2)
  | stack (n : Fin 12)
  | link (n : Fin 32)
deriving DecidableEq, Repr

/-- What a home is asked to do with a line (R224, R227, R229). -/
inductive HomeKind
  | read
  | write (data : List (Nat × Byte))
  | shared
  | exclusive
  | upgrade
  | writeBack (data : List (Nat × Byte))
deriving DecidableEq, Repr

/-- Who asks a home (R229): a Link Port with the node it asks for, or a core of this node with its chain slot (64 more for
a load); 0xFFFF is the home itself. -/
structure HomeWho where
  remote : Bool := false
  id : Nat := 0
  node : Nat := 0
deriving DecidableEq, Repr

/-- A request on an engine's request channel (R564). -/
inductive EngOp
  | read (len : Nat)
  | write (data : List Byte)
  | atomic (op : AtomOp) (wide : Bool) (val cmp : W64)
deriving DecidableEq, Repr

/-- What an outbound host request was for (R553, R557). -/
inductive HostWho
  | sideRecord (cid : Nat)
  | load (c : ChainRef) (idx : Nat)
  | mover (m : Fin 16) (c : Fin 32)
  | other
deriving DecidableEq, Repr

/-- The commands of the block, in the order of spec/opcode_table.json. -/
inductive Instr
  -- queue interface (ch. 7)
  | registerWrite (v : RegView) (off size : Nat) (val : W64)
  | verSelectWrite (fn : Fin 513) (val : W16)
  | functionReset (fn : Fin 513)
  | flrReport (fn : Fin 513)
  | functionResetEnd (fn : Fin 513)
  | queueEnable (fn : Fin 513) (q : Fin 64) (ctrl : W64)
  | queueDisable (fn : Fin 513) (q : Fin 64) (ctrl : W64)
  | queueDrainEnd (fn : Fin 513) (q : Fin 64)
  | doorbell (fn : Fin 513) (q : Fin 64) (tail : W32)
  | pushSlotWrite (fn : Fin 513) (q : Fin 64) (off len : Nat) (data : Desc)
  | contextLoad (ctx : Fin 16384)
  | descriptorFetchResponse (fn : Fin 513) (q : Fin 64) (count : W32) (desc : Desc)
  | ringFetchError (fn : Fin 513) (q : Fin 64)
  | commandAccept (fn : Fin 513) (q : Fin 64)
  | migrationCopyDone (ctx : Fin 16384) (va : BitVec 52)
  | atsTranslationCompletion (fn : Fin 513) (io : W64) (len : Nat) (ta : BitVec 55) (r w : Bool)
  | reservationAdmit (fn : Fin 513) (q : Fin 64)
  | commandDispatch (h : Fin 8)
  | endOfCommandReport (cid : Nat) (gen : W16) (st : Byte)
  | cqWriteError (fn : Fin 513) (q : Fin 64)
  | completionHeadWrite (fn : Fin 513) (q : Fin 64) (val : W32)
  | completionInterruptTimeout (fn : Fin 513) (q : Fin 64)
  | qAbort (fn : Fin 513) (q : Fin 64)
  | eventQueueEnable (fn : Fin 513) (err : Bool) (cfg : W64)
  | eventQueueDisable (fn : Fin 513) (err : Bool) (cfg : W64)
  | eventQueueHeadWrite (fn : Fin 513) (err : Bool) (val : W32)
  | recordWriteError (fn : Fin 513) (err : Bool)
  | stagedRecordWrite (d : Dest)
  -- commands executed by the Gate and the engines (ch. 7, 8)
  | nop (cid : Nat)
  | fence (cid : Nat)
  | signal (cid : Nat)
  | wait (cid : Nat)
  | ctxCreate (cid : Nat)
  | ctxDestroy (cid : Nat)
  | map (cid : Nat)
  | unmap (cid : Nat)
  | invalidate (cid : Nat)
  | atsInvalidateRequest (fn : Fin 513) (io : W64) (len : Nat)
  | invalidationAck (ctx : Fin 16384)
  | query (cid : Nat)
  | copy (cid : Nat)
  | fill (cid : Nat)
  | kernel (cid : Nat)
  | acre (cid : Nat)
  | foreign (cid : Nat)
  -- serving engine (ch. 6)
  | planLoad (cid : Nat)
  | seqOpen (cid : Nat)
  | seqStep (cid : Nat)
  | seqClose (cid : Nat)
  | stepBuild (plan : Fin 256)
  | stageIssue (plan : Fin 256)
  | servingReserveStaging (plan : Fin 256)
  | stepCommit (plan : Fin 256)
  -- the acre (ch. 3)
  | acreOperationStart (h : Fin 8)
  | acreStepAbandon (h : Fin 8)
  | acreResume (h : Fin 8)
  | acreBBlockLoaded (h : Fin 8)
  | acreSliceEnd (h : Fin 8) (bad : List (Fin 16 × Fin 16))
  | acreReadoutStep (h : Fin 8)
  | acreStoreStep (h : Fin 8)
  | acreOperationEnd (h : Fin 8)
  | coreErr (core : Fin 276)
  -- chain groups (ch. 4)
  | groupPlacement (cid : Nat) (core : Fin 272)
  | groupSaveComplete (cid g : Nat)
  | groupResume (cid g : Nat) (core : Fin 272)
  -- Riku ISA (ch. 4)
  | iaddIsub (c : ChainRef) (sub : Bool) (i : V3)
  | imulImulh (c : ChainRef) (high : Bool) (i : V3)
  | imad (c : ChainRef) (i : V3)
  | iminImax (c : ChainRef) (max : Bool) (i : V3)
  | mov (c : ChainRef) (i : V3)
  | andOrXorAndn (c : ChainRef) (op : BitOp) (i : V3)
  | shlShrSar (c : ChainRef) (op : ShOp) (i : V3)
  | popcClzBrev (c : ChainRef) (op : CntOp) (i : V3)
  | bfeBfi (c : ChainRef) (insert : Bool) (i : V3)
  | faddFmulFfma (c : ChainRef) (op : FOp) (i : V3)
  | fminFmax (c : ChainRef) (max : Bool) (i : V3)
  | specialFunction (c : ChainRef) (op : SpecFn) (i : V3)
  | cmp (c : ChainRef) (i : V3)
  | sel (c : ChainRef) (i : V3)
  | cvt (c : ChainRef) (i : V3)
  | oscl (c : ChainRef) (i : V3)
  | qnt (c : ChainRef) (fmt : Fin 12) (i : V3)
  | dq (c : ChainRef) (fmt : Fin 12) (i : V3)
  | shfl (c : ChainRef) (i : V3)
  | vote (c : ChainRef) (i : V3)
  | redu (c : ChainRef) (i : V3)
  | rdln (c : ChainRef) (i : V3)
  | viImmediate (c : ChainRef) (op : ViOp) (i : VI)
  | ldg (c : ChainRef) (i : MemI)
  | stg (c : ChainRef) (i : MemI)
  | ldl (c : ChainRef) (i : MemI)
  | stl (c : ChainRef) (i : MemI)
  | ldu (c : ChainRef) (i : MemI)
  | atomg (c : ChainRef) (op : AtomOp) (i : MemI)
  | atoml (c : ChainRef) (op : AtomOp) (i : MemI)
  | pref (c : ChainRef) (i : MemI)
  | bra (c : ChainRef) (i : BrI)
  | braD (c : ChainRef) (i : BrI)
  | join (c : ChainRef) (i : BrI)
  | call (c : ChainRef) (i : BrI)
  | ret (c : ChainRef) (i : BrI)
  | exit (c : ChainRef) (i : BrI)
  | uArithmetic (c : ChainRef) (op : UOp) (i : UI)
  | ucmp (c : ChainRef) (i : UI)
  | mld (c : ChainRef) (i : MxI)
  | mmul (c : ChainRef) (i : MxI) (bad : Fin 3)
  | mrd (c : ChainRef) (i : MxI)
  | mclr (c : ChainRef) (i : MxI)
  | mrel (c : ChainRef) (i : MxI)
  | nopInstruction (c : ChainRef) (i : SysI)
  | s2vS2u (c : ChainRef) (uni : Bool) (i : SysI)
  | u2s (c : ChainRef) (i : SysI)
  | fenceInstruction (c : ChainRef) (i : SysI)
  | fenceComplete (c : ChainRef)
  | fenceIo (c : ChainRef) (i : SysI)
  | bar (c : ChainRef) (i : SysI)
  | evwait (c : ChainRef) (i : SysI)
  | evsig (c : ChainRef) (i : SysI)
  | sleep (c : ChainRef) (i : SysI)
  | yield (c : ChainRef) (i : SysI)
  | trap (c : ChainRef) (i : SysI)
  -- ordering and coherence (ch. 5)
  | storeBufferEntryLeave (core : Fin 276)
  | loadDataReturn (c : ChainRef) (idx : Nat) (err : Bool)
  | homeRequest (who : HomeWho) (line : BitVec 56) (k : HomeKind)
  | homeTransactionEnd (line : BitVec 56)
  | deadlockRaise (ctx : Fin 16384)
  -- sharing and scheduling (ch. 9)
  | furlongMoveRequest (src : KodSrc) (f : Fin 16) (val : Byte)
  | drainWindowExpiry (f : Fin 16)
  | furlongJoin (f : Fin 16)
  | vfManagementWrite (vf : Fin 513) (off size : Nat) (val : W64)
  | spanStart (h : Fin 8)
  | coreSliceExpiry (cid g : Nat)
  | slowdownWindowEnd (h : Fin 8) (hindered : List (Nat × Nat))
  | migrationFenceEnd (ctx : Fin 16384)
  -- streaming movers (ch. 10)
  | moverRestart (m : Fin 16)
  | channelEnable (m : Fin 16) (c : Fin 32) (ctrl : W64)
  | channelDisable (m : Fin 16) (c : Fin 32)
  | channelAbort (m : Fin 16) (c : Fin 32)
  | channelStop (m : Fin 16) (c : Fin 32)
  | channelContinue (m : Fin 16) (c : Fin 32)
  | kick (m : Fin 16) (c : Fin 32)
  | moverDescriptorFetch (m : Fin 16) (c : Fin 32)
  | moverRunStart (m : Fin 16)
  | moverBurstComplete (m : Fin 16) (c : Fin 32)
  | inputStall (m : Fin 16) (c : Fin 32)
  | moverHalt (m : Fin 16) (c : Fin 32) (addr : BitVec 56)
  | moverPermissionError (m : Fin 16) (c : Fin 32)
  -- Event Gatherer, watermarks, mailboxes (ch. 11)
  | sourceLatch (src : Fin 1024)
  | srcSetpWrite (host : Bool) (w : Fin 16) (bits : W64)
  | srcPendWrite (w : Fin 16) (bits : W64)
  | holdOffExpiry (g : Fin 64)
  | coalesceExpiry (g : Fin 64)
  | acknowledge (t : Fin 4)
  | endOfInterrupt (t : Fin 4) (src : BitVec 10)
  | watermarkStickyClear (n : Fin 512) (host : Bool)
  | mailboxInWrite (ch : Fin 16) (trust : Bool) (val : W64)
  | mailboxOutWrite (ch : Fin 16) (val : W64)
  | mailboxTakeInbound (ch : Fin 16)
  | mailboxTakeOutbound (ch : Fin 16) (trust : Bool)
  -- hangs, faults and recovery (ch. 12)
  | watchdogExpiry (cid : Nat)
  | deadlineExpiry (cid : Nat)
  | stopTimeout (cid : Nat)
  | fenceDrainExpiry (h : Fin 8)
  | computePartReset (h : Fin 8) (trigger : Fin 5)
  | selfTestEnd (h : Fin 8) (failing : List (Fin 272))
  | computePartResetEnd (h : Fin 8)
  | computePartResetTimeout (h : Fin 8)
  | hideKeyGenerated (h : Fin 8)
  | hideScrubEnd (h : Fin 8)
  -- object dictionary (ch. 13)
  | kodRead (r : KodReq)
  | kodWrite (r : KodReq)
  | kodDescribe (r : KodReq)
  | mctpControl (eid : Option Byte)
  | profileSwitch (src : KodSrc) (val : Byte)
  | profileCopy (src : KodSrc) (val : W16)
  | firmwareStage (src : KodSrc) (off : Nat) (data : List Byte)
  | firmwareCommit (src : KodSrc) (crc : W32)
  | shiftProgramStage (src : KodSrc) (h : Fin 8) (off : Nat) (data : List Byte)
  | shiftProgramCommit (src : KodSrc) (h : Fin 8) (val : W32)
  | shiftProgramStore (src : KodSrc) (h : Fin 8)
  | hideReset (src : KodSrc) (h : Fin 8) (kind : Byte)
  | pendingLiveApply (idx sub : Nat)
  | configStoreCommit (ok : Bool)
  | journalMirrorCopy (ok : Bool)
  -- pace, power and protection (ch. 14)
  | paceMeasurement (rates : List Nat)
  | avsRequest (ok : Bool)
  | avsReadback (ok : Bool) (volt cur stat : Nat) (temp : Option Int)
  | avsRetry (ok : Bool)
  | powerCapAdjust (rest : Nat)
  | thermalSample (tj : Int)
  | furlongSleep (f : Fin 16)
  | furlongWake (f : Fin 16)
  | clockedTestMode (mult : Option (Fin 10))
  -- bring-up and ports (ch. 15, 16)
  | powerOnReset (profsel : BitVec 2)
  | warmReset (profsel : BitVec 2)
  | hideStart (h : Fin 8)
  | firmwareRestart (cc : Fin 4)
  | stackPortReady (p : Fin 12)
  | stackPortDown (p : Fin 12)
  | stackReadResponse (p : Fin 12) (lane : Fin 16) (wack : Bool) (resp : BitVec 2) (addr : BitVec 56) (who : HostWho)
  | hostReadCompletion (who : HostWho) (addr : Nat) (data : List Byte) (err : Bool)
  | cxlMemRequest (dpa : Nat) (wr : Option (List Byte))
  | engineAttach (e : Fin 4) (id : W64)
  | engineDetach (e : Fin 4)
  | engineRequest (e : Fin 4) (cid : Nat) (slot : Fin 16) (off : Nat) (op : EngOp)
  | engineProgress (cid : Nat)
  | engineHeld (cid : Nat)
  | engineReleased (cid : Nat)
  | enginePaused (e : Fin 4) (ctx : Fin 16384)
  | engineDrainTimeout (e : Fin 4) (cid : Nat)
  -- links (ch. 15)
  | linkPhyUp (p : Fin 32)
  | linkPhyDown (p : Fin 32)
  | flitReceive (p : Fin 32) (flit : BitVec 2048) (bad : Bool)
  | linkAckTimeout (p : Fin 32)
  | helloTimer (p : Fin 32)
  | hello (p : Fin 32) (node : BitVec 14) (port : Fin 32) (crc : W32)
  | linkmap (p : Fin 32) (r : LmRec)
  | ready (p : Fin 32) (crc : W32) (count : Nat)
  | go (p : Fin 32) (crc : W32)
  | rd (p : Fin 32) (m : LMsg)
  | wr (p : Fin 32) (m : LMsg)
  | atom (p : Fin 32) (m : LMsg)
  | coh (p : Fin 32) (m : LMsg)
  | mvw (p : Fin 32) (m : LMsg)
  | remoteEvsig (p : Fin 32) (m : LMsg)
  | remoteEvwait (p : Fin 32) (m : LMsg)
  | snp (p : Fin 32) (m : LMsg)
  | rdRsp (p : Fin 32) (m : LMsg)
  | wrAck (p : Fin 32) (m : LMsg)
  | atomRsp (p : Fin 32) (m : LMsg)
  | cohRsp (p : Fin 32) (m : LMsg)
  | snpAck (p : Fin 32) (m : LMsg)
  | reservedOk (p : Fin 32) (m : LMsg)
  | wake (p : Fin 32) (m : LMsg)
  | errRsp (p : Fin 32) (m : LMsg)
  | remoteRequestTimeout (tag : W16)
  -- further rows of the table
  | flowControlCreditReturn (p : PortId)
  | creditSilenceExpiry (m : Fin 16) (c : Fin 32)
  | illegalEncoding (c : ChainRef)
  | entdaa (addr : BitVec 7)
  | vfEnableChange (vf : Fin 513) (on : Bool)
  -- commands without operands, of all chapters
  | seqAdmit
  | deadlockEvaluationTick
  | grainChargeTick
  | rebalancePeriodEnd
  | floorMiss
  | rtcTrim
  | timeRefLoss
  | powerLossAlarm
  | vbatLow
  | tamper
  | alarmPosting
  | entropyReady
  | entropyHealthFailure
  | debugRequest
  | debugOpen
  | tapBypass
  | tapIdcode
  | firmwareStart
  | routeCompute
  | routesInPlace
  | epochTableExpiry
  | alwaysOnPowerUp
  | warmrstAssertion
deriving DecidableEq, Repr

end Sys2Proof
end

