-- ==== Sys2Proof/WellFormed.lean ====
section
/-! DEFINITION. What a command's operands must satisfy to be one the surroundings can send: data lists have the length
that the command's header gives. A command that fails a check is no row of the table's. -/

namespace Sys2Proof

/-- A KOD request's data: at most 4,096 bytes, at the length its header gives (R478, R479). -/
def KodReq.wf (r : KodReq) : Bool :=
  decide (r.len ≤ 4096) && decide (r.data.length ≤ r.len) && (decide (r.prof ≤ 3) || r.prof == 7)
    && decide (r.idx < 65536) && decide (r.sub < 256)

/-- A link message's data has the length LEN, at most 128 bytes (R532). -/
def LMsg.wf (m : LMsg) : Bool := decide (m.len ≤ 128) && m.data.length == m.len

/-- A link-state record names ports 0 to 31 and nodes below 16,384 (R539). -/
def LmRec.wf (r : LmRec) : Bool :=
  decide (r.node < 16384)
    && r.links.all (fun l => decide (l.1 < 32) && decide (l.2.1 < 16384) && decide (l.2.2 < 32))

/-- A register access is of 1, 2, 4 or 8 bytes (R286). -/
def accessSizeOk (size : Nat) : Bool := size == 1 || size == 2 || size == 4 || size == 8

/-- A U instruction has IMM32 or UB, not both: the other operand is zero (R174). -/
def UI.wf (i : UI) : Bool := if i.useImm then i.ub == 0 else i.imm == 0

/-- The operands of a command fit its row. -/
def Instr.wf : Instr → Bool
  | .registerWrite _ off size _ => accessSizeOk size && off % size == 0
  | .vfManagementWrite _ off size _ => accessSizeOk size && off % size == 0
  | .pushSlotWrite _ _ off len _ => decide (0 < len) && decide (off + len ≤ 1024)
  | .uArithmetic _ _ i => i.wf
  | .ucmp _ i => i.wf
  | .kodRead r => r.wf
  | .kodWrite r => r.wf
  | .kodDescribe r => r.wf
  | .linkmap _ r => r.wf
  | .rd _ m => m.wf
  | .wr _ m => m.wf
  | .atom _ m => m.wf
  | .coh _ m => m.wf
  | .mvw _ m => m.wf
  | .remoteEvsig _ m => m.wf
  | .remoteEvwait _ m => m.wf
  | .snp _ m => m.wf
  | .rdRsp _ m => m.wf
  | .wrAck _ m => m.wf
  | .atomRsp _ m => m.wf
  | .cohRsp _ m => m.wf
  | .snpAck _ m => m.wf
  | .reservedOk _ m => m.wf
  | .wake _ m => m.wf
  | .errRsp _ m => m.wf
  | _ => true

end Sys2Proof
end

