-- ==== Sys2Proof/Decode.lean ====
section
/-! DEFINITION. No row of the command table gives bits: a word spells no command. Beside it the 64-bit encodings of the
Riku ISA (R173 to R175, R178): what instruction of a chain an instruction word is, and the word of an instruction. -/

namespace Sys2Proof

/-- The command that a word spells by the table's bits: the table gives no row any bits. -/
def decodeTableWord (nbits w : Nat) : Option Instr := none

/-! ## Reading an instruction word (R173, R174) -/

/-- OPC. -/
def opcOf (w : BitVec 64) : Nat := (w.extractLsb' 4 8).toNat

/-- PRED as a predicate number. -/
def predOf (w : BitVec 64) : Fin 8 := (w.extractLsb' 12 3).toFin

/-- The operands of the V3 form. -/
def v3Of (w : BitVec 64) : V3 :=
  { pred := predOf w, pneg := w.getLsbD 15, vd := w.extractLsb' 16 8, va := w.extractLsb' 24 8, vb := w.extractLsb' 32 8,
    vc := w.extractLsb' 40 8, ty := w.extractLsb' 48 4, round := w.extractLsb' 52 2, sat := w.getLsbD 54,
    ub := w.getLsbD 55, usel := w.extractLsb' 56 6 }

/-- The operands of the VI form. -/
def viOf (w : BitVec 64) : VI :=
  { pred := predOf w, pneg := w.getLsbD 15, vd := w.extractLsb' 16 8, va := w.extractLsb' 24 8, imm := w.extractLsb' 32 32 }

/-- The operands of the MEM form. -/
def memOf (w : BitVec 64) : MemI :=
  { pred := predOf w, pneg := w.getLsbD 15, vds := w.extractLsb' 16 8, voff := w.extractLsb' 24 8,
    ubase := w.extractLsb' 32 6, ord := w.extractLsb' 38 2, buf := w.extractLsb' 40 4, size := w.extractLsb' 44 3,
    na := w.getLsbD 47, imm := w.extractLsb' 48 16 }

/-- The operands of the BR form. -/
def brOf (w : BitVec 64) : BrI :=
  { pred := predOf w, pneg := w.getLsbD 15, target := w.extractLsb' 16 24, rpc := w.extractLsb' 40 24 }

/-- The operands of the U form: under IMM bits 63:32 are IMM32, else the low ones are UB. -/
def uiOf (w : BitVec 64) : UI :=
  { pred := predOf w, pneg := w.getLsbD 15, ud := w.extractLsb' 16 6, ua := w.extractLsb' 24 6, useImm := w.getLsbD 31,
    ub := if w.getLsbD 31 then 0 else w.extractLsb' 32 6, imm := if w.getLsbD 31 then w.extractLsb' 32 32 else 0 }

/-- The operands of the MX form. -/
def mxOf (w : BitVec 64) : MxI :=
  { pred := predOf w, pneg := w.getLsbD 15, fmtA := w.extractLsb' 16 5, fmtB := w.extractLsb' 24 5,
    modeA := w.extractLsb' 32 3, modeB := w.extractLsb' 35 3, uaddr := w.extractLsb' 40 6, uaux := w.extractLsb' 48 6,
    rows := w.extractLsb' 56 5 }

/-- The operands of the SYS form. -/
def sysOf (w : BitVec 64) : SysI :=
  { pred := predOf w, pneg := w.getLsbD 15, vd := w.extractLsb' 16 8, ud := w.extractLsb' 24 6, sreg := w.extractLsb' 32 12,
    imm := w.extractLsb' 48 16 }

/-! ## Operations by OPC (R178); an unassigned OPC or a reserved FORM is ILLEGAL (R175) -/

/-- V3 40 to 4B and 50 to 5B: the format is OPC less the first. -/
def fmtOf (opc first : Nat) : Fin 12 := Fin.ofNat 12 (opc - first)

/-- FORM 0. -/
def decodeV3 (c : ChainRef) (opc : Nat) (i : V3) : Instr :=
  match opc with
  | 0x00 => .iaddIsub c false i
  | 0x01 => .iaddIsub c true i
  | 0x02 => .imulImulh c false i
  | 0x03 => .imulImulh c true i
  | 0x04 => .imad c i
  | 0x05 => .iminImax c false i
  | 0x06 => .iminImax c true i
  | 0x07 => .mov c i
  | 0x08 => .andOrXorAndn c .and i
  | 0x09 => .andOrXorAndn c .or i
  | 0x0A => .andOrXorAndn c .xor i
  | 0x0B => .andOrXorAndn c .andn i
  | 0x0C => .shlShrSar c .shl i
  | 0x0D => .shlShrSar c .shr i
  | 0x0E => .shlShrSar c .sar i
  | 0x0F => .popcClzBrev c .popc i
  | 0x10 => .popcClzBrev c .clz i
  | 0x11 => .popcClzBrev c .brev i
  | 0x12 => .bfeBfi c false i
  | 0x13 => .bfeBfi c true i
  | 0x20 => .faddFmulFfma c .fadd i
  | 0x21 => .faddFmulFfma c .fmul i
  | 0x22 => .faddFmulFfma c .ffma i
  | 0x23 => .fminFmax c false i
  | 0x24 => .fminFmax c true i
  | 0x28 => .specialFunction c .rcp i
  | 0x29 => .specialFunction c .rsq i
  | 0x2A => .specialFunction c .sqrt i
  | 0x2B => .specialFunction c .ex2 i
  | 0x2C => .specialFunction c .lg2 i
  | 0x2D => .specialFunction c .tanh i
  | 0x30 => .cmp c i
  | 0x31 => .sel c i
  | 0x38 => .cvt c i
  | 0x39 => .oscl c i
  | 0x60 => .shfl c i
  | 0x61 => .vote c i
  | 0x62 => .redu c i
  | 0x63 => .rdln c i
  | n =>
    if 0x40 ≤ n ∧ n ≤ 0x4B then .qnt c (fmtOf n 0x40) i
    else if 0x50 ≤ n ∧ n ≤ 0x5B then .dq c (fmtOf n 0x50) i
    else .illegalEncoding c

/-- FORM 1. -/
def decodeVi (c : ChainRef) (opc : Nat) (i : VI) : Instr :=
  match opc with
  | 0x00 => .viImmediate c .iaddi i
  | 0x01 => .viImmediate c .movi i
  | 0x02 => .viImmediate c .andi i
  | 0x03 => .viImmediate c .ori i
  | 0x04 => .viImmediate c .xori i
  | _ => .illegalEncoding c

/-- FORM 2. -/
def decodeMem (c : ChainRef) (opc : Nat) (i : MemI) : Instr :=
  match opc with
  | 0x00 => .ldg c i
  | 0x01 => .stg c i
  | 0x02 => .ldl c i
  | 0x03 => .stl c i
  | 0x04 => .ldu c i
  | 0x08 => .atomg c .add i
  | 0x09 => .atomg c .min i
  | 0x0A => .atomg c .max i
  | 0x0B => .atomg c .and i
  | 0x0C => .atomg c .or i
  | 0x0D => .atomg c .xor i
  | 0x0E => .atomg c .exch i
  | 0x0F => .atomg c .cas i
  | 0x10 => .atoml c .add i
  | 0x11 => .atoml c .min i
  | 0x12 => .atoml c .max i
  | 0x13 => .atoml c .and i
  | 0x14 => .atoml c .or i
  | 0x15 => .atoml c .xor i
  | 0x16 => .atoml c .exch i
  | 0x17 => .atoml c .cas i
  | 0x18 => .pref c i
  | _ => .illegalEncoding c

/-- FORM 3. -/
def decodeBr (c : ChainRef) (opc : Nat) (i : BrI) : Instr :=
  match opc with
  | 0x00 => .bra c i
  | 0x01 => .braD c i
  | 0x02 => .join c i
  | 0x03 => .call c i
  | 0x04 => .ret c i
  | 0x05 => .exit c i
  | _ => .illegalEncoding c

/-- FORM 4. -/
def decodeU (c : ChainRef) (opc : Nat) (i : UI) : Instr :=
  match opc with
  | 0x00 => .uArithmetic c .add i
  | 0x01 => .uArithmetic c .sub i
  | 0x02 => .uArithmetic c .mul i
  | 0x03 => .uArithmetic c .and i
  | 0x04 => .uArithmetic c .or i
  | 0x05 => .uArithmetic c .xor i
  | 0x06 => .uArithmetic c .shl i
  | 0x07 => .uArithmetic c .shr i
  | 0x08 => .uArithmetic c .mov i
  | 0x09 => .ucmp c i
  | _ => .illegalEncoding c

/-- FORM 5: the result of mmul's check (R188) is no part of its word. -/
def decodeMx (c : ChainRef) (opc : Nat) (i : MxI) : Instr :=
  match opc with
  | 0x00 => .mld c i
  | 0x01 => .mmul c i 0
  | 0x02 => .mrd c i
  | 0x03 => .mclr c i
  | 0x04 => .mrel c i
  | _ => .illegalEncoding c

/-- FORM 6. -/
def decodeSys (c : ChainRef) (opc : Nat) (i : SysI) : Instr :=
  match opc with
  | 0x00 => .nopInstruction c i
  | 0x01 => .s2vS2u c false i
  | 0x02 => .s2vS2u c true i
  | 0x03 => .u2s c i
  | 0x08 => .fenceInstruction c i
  | 0x09 => .fenceIo c i
  | 0x0A => .bar c i
  | 0x0B => .evwait c i
  | 0x0C => .evsig c i
  | 0x0D => .sleep c i
  | 0x0E => .yield c i
  | 0x0F => .trap c i
  | _ => .illegalEncoding c

/-- The command that an instruction word is for the chain that issues it (R173, R175). -/
def decodeRiku (c : ChainRef) (w : BitVec 64) : Instr :=
  match (w.extractLsb' 0 4).toNat with
  | 0 => decodeV3 c (opcOf w) (v3Of w)
  | 1 => decodeVi c (opcOf w) (viOf w)
  | 2 => decodeMem c (opcOf w) (memOf w)
  | 3 => decodeBr c (opcOf w) (brOf w)
  | 4 => decodeU c (opcOf w) (uiOf w)
  | 5 => decodeMx c (opcOf w) (mxOf w)
  | 6 => decodeSys c (opcOf w) (sysOf w)
  | _ => .illegalEncoding c

/-! ## Writing an instruction word (R173, R174); reserved bits are zero -/

/-- A field at its lowest bit of a word. -/
def put {n : Nat} (x : BitVec n) (lo : Nat) : BitVec 64 := x.setWidth 64 <<< lo

/-- One bit at its place in a word. -/
def putBit (b : Bool) (lo : Nat) : BitVec 64 := put (BitVec.ofBool b) lo

/-- Bits 15:0. -/
def headWord (form opc : Nat) (pred : Fin 8) (pneg : Bool) : BitVec 64 :=
  put (BitVec.ofNat 4 form) 0 ||| put (BitVec.ofNat 8 opc) 4 ||| put (BitVec.ofNat 3 pred.val) 12 ||| putBit pneg 15

/-- A V3 word. -/
def wordV3 (opc : Nat) (i : V3) : BitVec 64 :=
  headWord 0 opc i.pred i.pneg ||| put i.vd 16 ||| put i.va 24 ||| put i.vb 32 ||| put i.vc 40 ||| put i.ty 48
    ||| put i.round 52 ||| putBit i.sat 54 ||| putBit i.ub 55 ||| put i.usel 56

/-- A VI word. -/
def wordVi (opc : Nat) (i : VI) : BitVec 64 :=
  headWord 1 opc i.pred i.pneg ||| put i.vd 16 ||| put i.va 24 ||| put i.imm 32

/-- A MEM word. -/
def wordMem (opc : Nat) (i : MemI) : BitVec 64 :=
  headWord 2 opc i.pred i.pneg ||| put i.vds 16 ||| put i.voff 24 ||| put i.ubase 32 ||| put i.ord 38 ||| put i.buf 40
    ||| put i.size 44 ||| putBit i.na 47 ||| put i.imm 48

/-- A BR word. -/
def wordBr (opc : Nat) (i : BrI) : BitVec 64 := headWord 3 opc i.pred i.pneg ||| put i.target 16 ||| put i.rpc 40

/-- A U word. -/
def wordU (opc : Nat) (i : UI) : BitVec 64 :=
  headWord 4 opc i.pred i.pneg ||| put i.ud 16 ||| put i.ua 24 ||| putBit i.useImm 31
    ||| (if i.useImm then put i.imm 32 else put i.ub 32)

/-- An MX word. -/
def wordMx (opc : Nat) (i : MxI) : BitVec 64 :=
  headWord 5 opc i.pred i.pneg ||| put i.fmtA 16 ||| put i.fmtB 24 ||| put i.modeA 32 ||| put i.modeB 35 ||| put i.uaddr 40
    ||| put i.uaux 48 ||| put i.rows 56

/-- A SYS word. -/
def wordSys (opc : Nat) (i : SysI) : BitVec 64 :=
  headWord 6 opc i.pred i.pneg ||| put i.vd 16 ||| put i.ud 24 ||| put i.sreg 32 ||| put i.imm 48

/-- OPC of the bitwise operations. -/
def bitOpc (op : BitOp) : Nat :=
  match op with
  | .and => 0x08
  | .or => 0x09
  | .xor => 0x0A
  | .andn => 0x0B

/-- OPC of the shifts. -/
def shOpc (op : ShOp) : Nat :=
  match op with
  | .shl => 0x0C
  | .shr => 0x0D
  | .sar => 0x0E

/-- OPC of the counts and the bit reversal. -/
def cntOpc (op : CntOp) : Nat :=
  match op with
  | .popc => 0x0F
  | .clz => 0x10
  | .brev => 0x11

/-- OPC of the floating-point sums and products. -/
def fOpc (op : FOp) : Nat :=
  match op with
  | .fadd => 0x20
  | .fmul => 0x21
  | .ffma => 0x22

/-- OPC of the special functions. -/
def specOpc (op : SpecFn) : Nat :=
  match op with
  | .rcp => 0x28
  | .rsq => 0x29
  | .sqrt => 0x2A
  | .ex2 => 0x2B
  | .lg2 => 0x2C
  | .tanh => 0x2D

/-- OPC of the VI form. -/
def viOpc (op : ViOp) : Nat :=
  match op with
  | .iaddi => 0x00
  | .movi => 0x01
  | .andi => 0x02
  | .ori => 0x03
  | .xori => 0x04

/-- An atomic's place in OPC order. -/
def atomicIdx (op : AtomOp) : Nat :=
  match op with
  | .add => 0
  | .min => 1
  | .max => 2
  | .and => 3
  | .or => 4
  | .xor => 5
  | .exch => 6
  | .cas => 7

/-- OPC of the uniform arithmetic. -/
def uOpc (op : UOp) : Nat :=
  match op with
  | .add => 0x00
  | .sub => 0x01
  | .mul => 0x02
  | .and => 0x03
  | .or => 0x04
  | .xor => 0x05
  | .shl => 0x06
  | .shr => 0x07
  | .mov => 0x08

/-- The chain and the instruction word of an instruction; none for a command that is no instruction. -/
def encodeRiku : Instr → Option (ChainRef × BitVec 64)
  | .iaddIsub c sub i => some (c, wordV3 (if sub then 0x01 else 0x00) i)
  | .imulImulh c high i => some (c, wordV3 (if high then 0x03 else 0x02) i)
  | .imad c i => some (c, wordV3 0x04 i)
  | .iminImax c max i => some (c, wordV3 (if max then 0x06 else 0x05) i)
  | .mov c i => some (c, wordV3 0x07 i)
  | .andOrXorAndn c op i => some (c, wordV3 (bitOpc op) i)
  | .shlShrSar c op i => some (c, wordV3 (shOpc op) i)
  | .popcClzBrev c op i => some (c, wordV3 (cntOpc op) i)
  | .bfeBfi c ins i => some (c, wordV3 (if ins then 0x13 else 0x12) i)
  | .faddFmulFfma c op i => some (c, wordV3 (fOpc op) i)
  | .fminFmax c max i => some (c, wordV3 (if max then 0x24 else 0x23) i)
  | .specialFunction c op i => some (c, wordV3 (specOpc op) i)
  | .cmp c i => some (c, wordV3 0x30 i)
  | .sel c i => some (c, wordV3 0x31 i)
  | .cvt c i => some (c, wordV3 0x38 i)
  | .oscl c i => some (c, wordV3 0x39 i)
  | .qnt c fmt i => some (c, wordV3 (0x40 + fmt.val) i)
  | .dq c fmt i => some (c, wordV3 (0x50 + fmt.val) i)
  | .shfl c i => some (c, wordV3 0x60 i)
  | .vote c i => some (c, wordV3 0x61 i)
  | .redu c i => some (c, wordV3 0x62 i)
  | .rdln c i => some (c, wordV3 0x63 i)
  | .viImmediate c op i => some (c, wordVi (viOpc op) i)
  | .ldg c i => some (c, wordMem 0x00 i)
  | .stg c i => some (c, wordMem 0x01 i)
  | .ldl c i => some (c, wordMem 0x02 i)
  | .stl c i => some (c, wordMem 0x03 i)
  | .ldu c i => some (c, wordMem 0x04 i)
  | .atomg c op i => some (c, wordMem (0x08 + atomicIdx op) i)
  | .atoml c op i => some (c, wordMem (0x10 + atomicIdx op) i)
  | .pref c i => some (c, wordMem 0x18 i)
  | .bra c i => some (c, wordBr 0x00 i)
  | .braD c i => some (c, wordBr 0x01 i)
  | .join c i => some (c, wordBr 0x02 i)
  | .call c i => some (c, wordBr 0x03 i)
  | .ret c i => some (c, wordBr 0x04 i)
  | .exit c i => some (c, wordBr 0x05 i)
  | .uArithmetic c op i => some (c, wordU (uOpc op) i)
  | .ucmp c i => some (c, wordU 0x09 i)
  | .mld c i => some (c, wordMx 0x00 i)
  | .mmul c i bad => if bad = 0 then some (c, wordMx 0x01 i) else none
  | .mrd c i => some (c, wordMx 0x02 i)
  | .mclr c i => some (c, wordMx 0x03 i)
  | .mrel c i => some (c, wordMx 0x04 i)
  | .nopInstruction c i => some (c, wordSys 0x00 i)
  | .s2vS2u c uni i => some (c, wordSys (if uni then 0x02 else 0x01) i)
  | .u2s c i => some (c, wordSys 0x03 i)
  | .fenceInstruction c i => some (c, wordSys 0x08 i)
  | .fenceIo c i => some (c, wordSys 0x09 i)
  | .bar c i => some (c, wordSys 0x0A i)
  | .evwait c i => some (c, wordSys 0x0B i)
  | .evsig c i => some (c, wordSys 0x0C i)
  | .sleep c i => some (c, wordSys 0x0D i)
  | .yield c i => some (c, wordSys 0x0E i)
  | .trap c i => some (c, wordSys 0x0F i)
  | _ => none

end Sys2Proof
end

