-- ==== Sys2Proof/Machine/State.lean ====
section
/-! DEFINITION. The state of the block as plain data, and the state right after reset. Numbers that the manual counts,
indexes or addresses with are Nat; register contents are bit vectors. Every field's reset value is its default here. -/

namespace Sys2Proof.Machine

/-- Why a step stops with a fault. -/
inductive Fault
  /-- Raised by an access of a control core (LOAD_DATA_RETURN, STORE_BUFFER_ENTRY_LEAVE, REGISTER_WRITE) to the device register window at 0xFF_0000_0000 to 0xFF_FFFF_FFFF
  whose registers the manual does not describe (R220). Stopping there is safe: no claim about such a device is proved. -/
  | deviceWindow (off : Nat)
deriving DecidableEq, Repr

/-- Why a command has no meaning in the model. -/
inductive Refusal
  /-- Raised only by an arm of exec whose command has no meaning yet. Stopping there is safe. -/
  | notModelled (mnemonic : String)
deriving DecidableEq, Repr

/-- Local device memory, and what is known of host and remote memory: address and byte, in the canonical form of
`Memory.wf` (Machine/Table.lean). -/
abbrev Memory := List Host.Cell

/-! ## Records and queues (ch. 7, 11) -/

/-- A record, or a lead record with its CONT records (R473): its size in bytes, and each record's bytes as one
little-endian number without the valid marker. -/
structure Rec where
  /-- size of the record in bytes, R443, R473 -/
  size : Nat := 32
  /-- the records of it as little-endian numbers, R472, R473 -/
  words : List Nat := []
deriving DecidableEq, Repr

/-- An event queue, an error queue or the journal as a record destination (R323, R330, R443 to R445). -/
structure RecQueue where
  /-- EVQ_BASE / ERQ_BASE, R323, reset 0 -/
  base : W64 := 0
  /-- LOG2 of EVQ_CFG / ERQ_CFG, R323, reset 0 -/
  log2 : Nat := 0
  /-- ENABLE of EVQ_CFG / ERQ_CFG, R323, reset 0 -/
  cfgEnable : Bool := false
  /-- ENABLED, R323, reset 0 -/
  enabled : Bool := false
  /-- CFG_ERR, R323, R324, reset 0 -/
  cfgErr : Bool := false
  /-- HEAD, R323, reset 0 -/
  head : W32 := 0
  /-- TAIL, R323, reset 0 -/
  tail : W32 := 0
  /-- LOST_TOTAL, R323, R325, reset 0, sticks at 0xFFFF_FFFF -/
  lostTotal : Nat := 0
  /-- the vector is armed, R330, reset 0 -/
  armed : Bool := false
  /-- staging buffer of 16 entries, R444, reset empty -/
  staged : List Rec := []
  /-- loss count, R445, reset 0 -/
  loss : Nat := 0
  /-- coalesced counter, R444, 0x6A00:d, reset 0 -/
  coalesced : Nat := 0
  /-- lost counter, 0x6A00:d, reset 0 -/
  lost : Nat := 0
  /-- records of the newest write, which may still be answered with an error, R581, reset 0 (log 7) -/
  wrOpen : Nat := 0
  /-- the newest write sent the vector, R330, reset false -/
  vecOpen : Bool := false
deriving DecidableEq, Repr

/-- A side record kept in the class-0 record store (R389): its queue, place, length and bytes as one number. -/
structure SideRec where
  /-- function of the queue, R389 -/
  fn : Nat
  /-- queue, R389 -/
  q : Nat
  /-- physical address of the record, R389 -/
  pa : Nat
  /-- length in bytes, R389 -/
  len : Nat
  /-- its bytes as one number, R389 -/
  bits : Nat
deriving DecidableEq, Repr

/-- A completion record as its status was decided (R44, R319). -/
structure CqRec where
  /-- SSN, R319 -/
  ssn : Nat
  /-- STATUS, R319 -/
  st : Nat
  /-- GEN, R319 -/
  gen : Nat
  /-- STAMP, R44, R319 -/
  stamp : Nat
  /-- ERR_REC, R319 -/
  errRec : Bool
deriving DecidableEq, Repr

/-- A place in the order in which the statuses of a queue were decided (R321): the command, its record once it has
completed, and whether the address of the record's slot has been asked of the translation agent (R304). -/
structure CqEnt where
  /-- the command, R321 -/
  cid : Nat
  /-- its record, R319 -/
  rec_ : Option CqRec := none
  /-- ATS has been asked, R304 -/
  asked : Bool := false
deriving DecidableEq, Repr

/-- A queue block (R295 to R309). -/
structure Queue where
  /-- Q_CTRL, R296, reset 0 -/
  ctrl : W64 := 0
  /-- Q_CTX, R295, reset 0xFFFF -/
  ctx : W16 := 0xFFFF
  /-- Q_SCHED, R297, reset 0 -/
  sched : W64 := 0
  /-- Q_RESERVE, R297, reset 0 -/
  reserve : W64 := 0
  /-- SQ_BASE, R295, reset 0 -/
  sqBase : W64 := 0
  /-- SQ_TAIL, R295, reset 0 -/
  sqTail : W32 := 0
  /-- SQ_HEAD, R295, reset 0 -/
  sqHead : W32 := 0
  /-- CQ_BASE, R295, reset 0 -/
  cqBase : W64 := 0
  /-- CQ_HEAD, R295, reset 0 -/
  cqHead : W32 := 0
  /-- CQ_TAIL, R295, reset 0 -/
  cqTail : W32 := 0
  /-- CQ_INT, R298, reset 0 -/
  cqInt : W64 := 0
  /-- Q_STATUS.ENABLED, R298, reset 0 -/
  enabled : Bool := false
  /-- Q_STATUS.CTX_GONE, R298, R309, reset 0 -/
  ctxGone : Bool := false
  /-- Q_STATUS.STOPPED, R298, reset 0 -/
  stopped : Bool := false
  /-- Q_STATUS.DB_PENDING, R298, R343, reset 0 -/
  dbPending : Bool := false
  /-- Q_STATUS.ERR_CODE, R298, reset 0 -/
  errCode : Nat := 0
  /-- Q_STATUS.PUSH_DROP, R298, R303, reset 0, sticks at 0xFFFF -/
  pushDrop : Nat := 0
  /-- Q_SSN, R295, R306, reset 0 -/
  ssn : W32 := 0
  /-- push slots, 16 of 64 bytes, R295, R303, reset DESIGN CHOICE 0 (log 3) -/
  push : Tbl Desc := []
  /-- descriptors fetched from the ring, by count, R303, reset none -/
  fetched : Tbl Desc := []
  /-- count of the next descriptor to ask for, R303, reset 0 -/
  asked : W32 := 0
  /-- completion records owed, in the order of their decisions, R321, reset none -/
  order : List CqEnt := []
  /-- the queue is disabling and drains, R300, reset false -/
  draining : Bool := false
  /-- an enable is held until the drain ends, R300, reset false -/
  heldEnable : Bool := false
  /-- unsignalled completion records, R322, reset 0 -/
  unsig : Nat := 0
  /-- block time from which TIME of the unsignalled records runs, R322, reset 0 -/
  unsigFrom : Nat := 0
  /-- completion records not written because of a stop, R304, reset 0 -/
  notWritten : Nat := 0
  /-- the QUEUE error record of a stop is still owed, R304, reset false -/
  stopDue : Bool := false
  /-- the write of the newest completion record may still be answered with an error, R304, reset false (log 7) -/
  wrOpen : Bool := false
  /-- block times of the admissions of the reservation window, newest first, R387, reset none -/
  admits : List Nat := []
  /-- virtual time, R397, reset 0 -/
  v : Nat := 0
  /-- the queue was dispatchable at the last look of the scheduler, R397, reset false -/
  active : Bool := false
deriving DecidableEq, Repr

/-- A function, PF or VF (R282 to R293, R323, R381). -/
structure Fn where
  /-- VER_SELECT, R287, reset 0 -/
  verSelect : W16 := 0
  /-- FN_GEN, R287, reset 0 -/
  gen : W16 := 0
  /-- FN_STATUS.RESETTING, R290, reset 0 -/
  resetting : Bool := false
  /-- FN_STATUS.READY, R290, R529, reset 0 until start-up sets it -/
  ready : Bool := false
  /-- event queue, R323 -/
  evq : RecQueue := {}
  /-- error queue, R323 -/
  erq : RecQueue := {}
  /-- NOTICE_MASK, R323, reset 0 -/
  noticeMask : W64 := 0
  /-- ERQ_CFG.MIRROR_VF (PF only), R323, reset 0 -/
  mirrorVf : Bool := false
  /-- queue blocks, R295 -/
  queues : Tbl Queue := []
  /-- VF_STATUS.ENABLED, R381, reset 0 -/
  sriov : Bool := false
  /-- VF_STATUS.REFUSED, R381, reset 0 -/
  refused : Bool := false
  /-- virtual time of the function, R397, reset 0 -/
  v : Nat := 0
  /-- the function had a dispatchable class-2 queue at the last look, R397, reset false -/
  active : Bool := false
deriving DecidableEq, Repr

/-! ## Commands (R42, R306, R357) -/

/-- A piece of a translated extent (R357, R358). -/
structure Piece where
  /-- which extent of the command -/
  ext : Nat
  /-- first byte, from the extent's start -/
  off : Nat
  /-- bytes, R358 -/
  len : Nat
  /-- context virtual address of the first byte -/
  va : Nat
  /-- 56-bit physical address of the first byte (R46) -/
  pa : Nat
  /-- read-only, R349 -/
  ro : Bool
  /-- I/O attribute, R349 -/
  io : Bool
  /-- target hide of a REMOTE piece (R362) -/
  hide : Nat
  /-- tag of the hide (R374) -/
  tag : Nat
  /-- generation of the context (R358) -/
  gen : Nat
  /-- kind of its mapping, R349, R357 -/
  kind : Nat := 0
deriving DecidableEq, Repr

/-- An error record to write with a command's status: its TYPE and its body bytes from offset 28 (R472). -/
structure ErrInfo where
  /-- TYPE of the error record, R472 -/
  typ : Nat
  /-- its body from byte 28, R472 -/
  body : Nat
deriving DecidableEq, Repr

/-- Where a command stands (R42). -/
inductive Phase
  /-- held in the front end by its reservation (R387) -/
  | held
  /-- waits for an ATS answer (R361) -/
  | waitAts (io : Nat)
  /-- waits for a side record in host memory (R583) -/
  | waitHost (key len : Nat)
  /-- waits for a migration copy (R363) -/
  | migrating (va : Nat)
  /-- waits for an invalidation handshake that covers a range it names (R367 step 1) -/
  | waitShake
  /-- validated and translated, not dispatched -/
  | ready
  /-- dispatched to its engine queue -/
  | dispatched
  /-- started on its engine -/
  | running
  /-- waits on an object or for a plan (R313, R265) -/
  | waiting
  /-- stops as R195 gives -/
  | stopping
  /-- its status is decided, its completion record is still owed -/
  | ended
deriving DecidableEq, Repr

/-- An accepted command (R306), or a stage that the serving engine issues (R271). -/
structure Cmd where
  /-- handle of the command in the model (log 17) -/
  cid : Nat := 0
  /-- function, R306 -/
  fn : Nat := 0
  /-- queue, R306 -/
  q : Nat := 0
  /-- SSN, R306 -/
  ssn : Nat := 0
  /-- bound context, 0xFFFF for none -/
  ctx : Nat := 0xFFFF
  /-- hide of its context, R372 -/
  hide : Nat := 0
  /-- class, R382 -/
  cls : Nat := 0
  /-- first 64 bytes of the descriptor, R311 -/
  d0 : Desc := 0
  /-- second 64 bytes of a two-slot descriptor, R311 -/
  d1 : Desc := 0
  /-- accepted, waiting, dispatched, running, ended, R306 -/
  phase : Phase := .ready
  /-- translated extents, R357, R358 -/
  pieces : List Piece := []
  /-- side records read during validation, as little-endian numbers -/
  ext : Nat := 0
  /-- translated address of its argument block or result, R357 -/
  arg : Nat := 0
  /-- buffer table as one number, R167 -/
  buftab : Nat := 0
  /-- marked for retranslation at dispatch (R367 step 3) -/
  marked : Bool := false
  /-- block time of acceptance, R458 -/
  accAt : Nat := 0
  /-- block time of dispatch, R458 -/
  dispAt : Nat := 0
  /-- watchdog timer: runs, since when, and what it held when it was frozen (R458) -/
  tOn : Bool := false
  /-- watchdog timer: since when it runs, R458 -/
  tFrom : Nat := 0
  /-- watchdog timer: what it held when frozen, R458 -/
  tAcc : Nat := 0
  /-- block time of the last progress, 0 for none (R457) -/
  lastProg : Nat := 0
  /-- a foreign engine reports the command as held (R459) -/
  engHeld : Bool := false
  /-- status decided first (R197) -/
  status : Option Nat := none
  /-- error record to be written with the status, R472 -/
  err : Option ErrInfo := none
  /-- further exceptions (R196) -/
  more : Nat := 0
  /-- block time at which stopping began, R461 -/
  stopAt : Nat := 0
  /-- plan slot and stage index of a stage (R271) -/
  stage : Option (Nat × Nat) := none
  /-- SR or sampling seed drawn by the Gate (R94, R121) -/
  seed : W64 := 0
  /-- the seed has been drawn, R94, R121 -/
  seedDrawn : Bool := false
  /-- next chain group to place, R154 -/
  nextGroup : Nat := 0
  /-- groups that have ended -/
  doneGroups : Nat := 0
  /-- mover channels in use (mover, channel), R113, R411 -/
  chans : List (Nat × Nat) := []
  /-- a request outside the bound slots was made (R564) -/
  slotFault : Bool := false
  /-- generation of its context at dispatch, R166 -/
  genAt : Nat := 0
  /-- steps of a SEQ_STEP that have run (R265) -/
  stepsDone : Nat := 0
  /-- parts of host and remote side records that have been received for it: address and length (R389, R583) -/
  got : List (Nat × Nat) := []
deriving DecidableEq, Repr

/-! ## Contexts and translation (ch. 8) -/

/-- One mapped run of a context: virtually and physically contiguous (R349, R354). -/
structure Mapping where
  /-- context virtual address, R349 -/
  va : Nat
  /-- bytes, R349 -/
  len : Nat
  /-- 0 HOST, 1 DEV, 2 SHARE, 3 REMOTE, 4 MIGR (R349) -/
  kind : Nat
  /-- RO attribute, R349 -/
  ro : Bool
  /-- IO attribute, R349 -/
  io : Bool
  /-- page size in bytes (R349) -/
  psize : Nat
  /-- DEV, SHARE: local offset; HOST, MIGR: function I/O address; REMOTE: offset at the node -/
  base : Nat
  /-- device page of a MIGR page in device state (R363) -/
  dev : Option Nat
  /-- node of a REMOTE mapping, R349 -/
  node : Nat
  /-- target hide of a REMOTE mapping, R362 -/
  hide : Nat
  /-- memory object of DEV and SHARE (R348) -/
  obj : Nat
  /-- block time of the last translation (R364) -/
  used : Nat
deriving DecidableEq, Repr

/-- A run of allocated device pages (R347, R348). -/
structure Alloc where
  /-- first device byte, R347 -/
  base : Nat
  /-- bytes, R347 -/
  len : Nat
  /-- hide charged, R347 -/
  hide : Nat
  /-- function and context charged (R347) -/
  fn : Nat
  /-- context charged, R347 -/
  ctx : Nat
  /-- memory object, R348 -/
  obj : Nat
deriving DecidableEq, Repr

/-- A translation-buffer entry (R355). -/
structure TlbEnt where
  /-- hide, R355 -/
  hide : Nat
  /-- context, R355 -/
  ctx : Nat
  /-- first virtual address of the run, R355 -/
  va : Nat
  /-- bytes of the run, R355 -/
  len : Nat
  /-- locked against eviction, R355 -/
  locked : Bool
deriving DecidableEq, Repr

/-- An ATS cache entry (R361). -/
structure AtsEnt where
  /-- function, R361 -/
  fn : Nat
  /-- I/O address, R361 -/
  io : Nat
  /-- bytes, R361 -/
  len : Nat
  /-- translated address, R361 -/
  ta : Nat
  /-- read permission, R361 -/
  r : Bool
  /-- write permission, R361 -/
  w : Bool
deriving DecidableEq, Repr

/-- An invalidation handshake under way for a context (R367). -/
structure Shake where
  /-- the command it belongs to, none for a request from ATS -/
  cid : Option Nat
  /-- function, R367 -/
  fn : Nat
  /-- first virtual address, R367 -/
  va : Nat
  /-- bytes, R367 -/
  len : Nat
  /-- the range is unmapped, R367 -/
  unmap : Bool
  /-- ATS range (I/O address, length) -/
  io : Option (Nat × Nat)
  /-- steps 2 to 4 have been taken -/
  begun : Bool := false
  /-- step 5 has been taken -/
  backed : Bool := false
  /-- device-state MIGR pages of an unmapped range, still to be written back -/
  pages : List Mapping := []
  /-- memory objects whose mappings the range has lost, held until step 4 has been taken, R353 -/
  objs : List Nat := []
deriving DecidableEq, Repr

/-- A context (R336 to R345, R370). -/
structure Ctx where
  /-- owning function, R336 -/
  fn : Nat := 0
  /-- hide, R372 -/
  hide : Nat := 0
  /-- generation, R337, 1 at creation -/
  gen : Nat := 1
  /-- range mode, R354 -/
  range : Bool := false
  /-- save area in bytes and its device address, R338, R339 -/
  saveLen : Nat := 0
  /-- device address of the save area, R339 -/
  saveBase : Nat := 0
  /-- DEADLINE_US, R338 -/
  deadline : Nat := 0
  /-- MEM_LIMIT, R338 -/
  memLimit : Nat := 0
  /-- mappings, R349 to R354 -/
  maps : List Mapping := []
  /-- migrations under way: page address and its device page, R363 -/
  copying : List (Nat × Nat) := []
  /-- resident, R341 -/
  resident : Bool := false
  /-- block time of the last use, for the choice of R343 -/
  lastUse : Nat := 0
  /-- fenced for migration or recovery, R405, and whether by context recovery, R464 -/
  fenced : Bool := false
  /-- in context recovery, R464 -/
  recovering : Bool := false
  /-- block time since which the fence drains, R405 -/
  fenceFrom : Nat := 0
  /-- handshakes in acceptance order, the first one under way, R367 -/
  shakes : List Shake := []
  /-- counters of R370; grains in units of 1/1024 -/
  grainsCore : Nat := 0
  /-- acre grains, R370 -/
  grainsAcre : Nat := 0
  /-- mover grains, R370 -/
  grainsMover : Nat := 0
  /-- foreign-engine grains, R370 -/
  grainsForeign : Nat := 0
  /-- foreign-engine time, R370 -/
  foreignNs : Nat := 0
  /-- completed commands, R370 -/
  cmds : Nat := 0
  /-- fault count, R340, R370 -/
  faults : Nat := 0
  /-- SLOWDOWN, R401, 0x100 at creation -/
  slowdown : Nat := 0x100
  /-- parks, R370 -/
  parks : Nat := 0
  /-- migration faults, R370 -/
  migrFaults : Nat := 0
  /-- write-backs, R370 -/
  writebacks : Nat := 0
  /-- last faulting address, R340, R370 -/
  lastFaultVa : Nat := 0
  /-- STALE_GEN, R407, and lost signals, R234 -/
  staleGen : Nat := 0
  /-- signals lost to saturation, R234 -/
  lostSignals : Nat := 0
  /-- quiet time of R244 -/
  quietSince : Nat := 0
  /-- busy ticks of the measurement window, R401, and whether the last window ended above the threshold, R402 -/
  busy : Nat := 0
  /-- the last window ended above the threshold, R402 -/
  above : Bool := false
deriving DecidableEq, Repr

/-! ## Riku cores (ch. 4, 5) -/

/-- A reconvergence stack entry (R183). -/
structure StkEnt where
  /-- MASK, R183 -/
  mask : W32
  /-- instruction index, R183 -/
  pc : Nat
  /-- 0 reconverge, 1 path, 2 call -/
  kind : Nat
deriving DecidableEq, Repr

/-- What an instruction finds of its chain: the registers, masks and stack before it, to which an exception that it raises
later goes back (R193). -/
structure Regs where
  /-- v registers, R163 -/
  v : Tbl W32 := []
  /-- u registers, R163 -/
  u : Tbl W64 := []
  /-- predicate registers, R163 -/
  p : Tbl W32 := []
  /-- index of the instruction itself, R196 -/
  pc : Nat := 0
  /-- active mask, R152 -/
  active : W32 := 0
  /-- exited threads, R183 -/
  exited : W32 := 0
  /-- reconvergence stack, R183 -/
  stack : List StkEnt := []
deriving DecidableEq, Repr

/-- An outstanding load or atomic of a chain: per lane its physical address (R210, R224). -/
structure Load where
  /-- number of the load within its chain -/
  idx : Nat
  /-- first destination v register; none for ldu, which writes a u register -/
  vd : Option Nat
  /-- destination u register of ldu, R178 -/
  ud : Nat
  /-- log2 of the bytes, R174 -/
  size : Nat
  /-- NA, R174 -/
  na : Bool
  /-- acquire mark, R213 -/
  acq : Bool
  /-- thread and physical address of each access, R206 -/
  lanes : List (Nat × Nat)
  /-- an atomic in the store buffer, not a load -/
  atomic : Bool
  /-- a device-register access, R220 -/
  dev : Bool
  /-- answers of the host or of remote homes still to come -/
  await : Nat
  /-- the chain as the instruction found it, R193 -/
  before : Regs := {}
  /-- a prefetch, which writes no register and raises nothing, R178 -/
  pref : Bool := false
  /-- number of the first load of its instruction: accesses to device registers and to memory are loads of their own, R220 -/
  first : Nat := 0
deriving DecidableEq, Repr

/-- What a chain waits for in the states of R200. -/
inductive ChainSt
  | ready
  | atBarrier (id : Nat)
  | eventWait
  | mxWait
  | sleeping
  /-- a fence or fence.io that has not completed (R218, R222); the scope, 4 for fence.io -/
  | fence (scope : Nat)
deriving DecidableEq, Repr

/-- A chain (R163, R165, R200). -/
structure Chain where
  /-- command of the chain, R153 -/
  cid : Nat := 0
  /-- group of the command, R153 -/
  group : Nat := 0
  /-- CHAINIG, R166 -/
  inGroup : Nat := 0
  /-- allocated v registers, R163 -/
  vregs : Nat := 8
  /-- v registers: register n of thread t at 32·n + t, R163, start 0 -/
  v : Tbl W32 := []
  /-- u0 to u63, R163, R165 -/
  u : Tbl W64 := []
  /-- p0 to p6, R163, start 0 -/
  p : Tbl W32 := []
  /-- index of the next instruction, R165 -/
  pc : Nat := 0
  /-- active mask, R152, all ones where every thread starts -/
  active : W32 := 0xFFFFFFFF
  /-- exited threads, R183 -/
  exited : W32 := 0
  /-- reconvergence stack, newest first, R183 -/
  stack : List StkEnt := []
  /-- STATE: ready, at a barrier, waiting on an event, waiting for a matrix unit, in a fence, asleep, R200 -/
  st : ChainSt := .ready
  /-- WAIT_ID with WPHASE, R232, R237 -/
  waitId : W64 := 0
  /-- outstanding loads, R210 -/
  loads : List Load := []
  /-- next load number -/
  loadIdx : Nat := 0
  /-- an acquire that has not been performed holds back later accesses, R216 -/
  acquiring : Bool := false
  /-- the group is being saved: no further issue, R198 -/
  halted : Bool := false
deriving DecidableEq, Repr

/-- An atomic operation on its way to its home (R180, R208). -/
structure SbAtom where
  /-- operation, R178 -/
  op : AtomOp
  /-- log2 of the size in bytes -/
  size : Nat
  /-- physical address, R208 -/
  addr : Nat
  /-- operand, R178 -/
  val : W64
  /-- comparand, R178 -/
  cmp : W64
  /-- load number and lane that takes the old value -/
  load : Nat
  /-- thread that takes the old value, R224 -/
  lane : Nat
deriving DecidableEq, Repr

/-- A store-buffer entry: what one chain instruction writes within one line, or its atomics there (R208). -/
structure SbEnt where
  /-- chain slot, R208 -/
  slot : Nat
  /-- group and CHAINIG of the chain, so that a later chain of the slot is told from it, R209 -/
  part : Nat × Nat := (0, 0)
  /-- index of its instruction and the lanes it acts for, which an error response names, R196 -/
  pc : Nat := 0
  /-- lanes, R196 -/
  mask : W32 := 0
  /-- command, R208 -/
  cid : Nat
  /-- context, R405 -/
  ctx : Nat
  /-- generation of the context, R405 -/
  gen : Nat
  /-- hide tag, R374 -/
  tag : Nat
  /-- target hide at a remote node (R362) -/
  hide : Nat
  /-- address and byte of each byte written -/
  data : List (Nat × Byte)
  /-- atomic operations instead of bytes, in ascending lane order, R172 -/
  atoms : List SbAtom
  /-- a device-register access, R220 -/
  dev : Bool
  /-- received a retry, R230 -/
  retried : Bool
deriving DecidableEq, Repr

/-- A line of a data cache with its bytes (R171, R217). -/
structure CLine where
  /-- line number: physical address over 128, R171 -/
  line : Nat
  /-- its 128 bytes, R171 -/
  bytes : List Byte
deriving DecidableEq, Repr

/-- The five counters of R77. -/
structure Cnt where
  /-- SPEC, R77 -/
  spec : Nat := 0
  /-- UNDP, R77 -/
  undp : Nat := 0
  /-- SATP, R77 -/
  satp : Nat := 0
  /-- SATS, R77 -/
  sats : Nat := 0
  /-- QSAT, R77 -/
  qsat : Nat := 0
deriving DecidableEq, Repr

/-- A B register of a private unit: codes by column·512 + k, scale codes by column·32 + stone (R186, R189). -/
structure BReg where
  /-- format of the block, R186 -/
  fmt : Nat := 0
  /-- scale mode, R186 -/
  mode : Nat := 0
  /-- depth, R99 -/
  d : Nat := 1
  /-- element codes, R189 -/
  codes : Tbl Nat := []
  /-- stone-scale codes, R186 -/
  scales : Tbl Nat := []
deriving DecidableEq, Repr

/-- A matrix unit in private use (R186 to R192). -/
structure MxUnit where
  /-- owning context, R190, reset none -/
  owner : Option Nat := none
  /-- address of the owner's matrix-state slot, R192 -/
  slotAt : Nat := 0
  /-- B register in use, R186 -/
  b0 : BReg := {}
  /-- idle B register, R186 -/
  b1 : BReg := {}
  /-- the idle register holds a block not yet swapped in, R186 -/
  loaded : Bool := false
  /-- accumulators: row·128 + column, R188 -/
  acc : Tbl Int := []
  /-- MXSPEC to MXQSAT, R166, reset 0 -/
  cnt : Cnt := {}
deriving DecidableEq, Repr

/-- A core position (R152, R22, R469). -/
structure Core where
  /-- chain slots 0 to 63, R152 -/
  chains : Tbl Chain := []
  /-- store buffer, oldest first, 64 entries, R208 -/
  sb : List SbEnt := []
  /-- data cache, newest line first, R171 -/
  dcache : List CLine := []
  /-- instruction cache, newest line first: context tag and line number of the code, R171, reset empty -/
  icache : List (Nat × Nat) := []
  /-- chain slots that wait for the matrix unit, in issue order, R191, reset none -/
  mxq : List Nat := []
  /-- local store, R27, reset DESIGN CHOICE 0 (log 3) -/
  ls : Tbl Byte := []
  /-- matrix unit, R186 -/
  unit : MxUnit := {}
  /-- fused out at manufacture, R22, R151, reset DESIGN CHOICE false (log 3) -/
  fused : Bool := false
  /-- retired at run time, R146, R469, reset false -/
  retired : Bool := false
  /-- marked suspect, R469, reset false -/
  suspect : Bool := false
  /-- an uncorrectable error retires it at the self-test's end, R146, reset false -/
  failed : Bool := false
  /-- block times of the passed suspect tests, newest first, R469, reset none -/
  passes : List Nat := []
  /-- suspect count, 0x1020+f:c bits 1:0, reset 0 -/
  suspects : Nat := 0
deriving DecidableEq, Repr

/-- A placed or saved chain group (R153, R198 to R202). -/
structure Group where
  /-- command, R153 -/
  cid : Nat := 0
  /-- number of the group, R153 -/
  g : Nat := 0
  /-- context -/
  ctx : Nat := 0
  /-- class, R382 -/
  cls : Nat := 0
  /-- core it is placed on; none while it is saved -/
  core : Option Nat := none
  /-- chain slots, R153 -/
  slots : List Nat := []
  /-- base of its local-store allocation, R169 -/
  lsBase : Nat := 0
  /-- bytes of it, R170 -/
  lsSize : Nat := 0
  /-- SPILL_DEPTH, R185 -/
  spill : Nat := 0
  /-- VREGS, R163 -/
  vregs : Nat := 8
  /-- chains of the group, R153 -/
  chains : Nat := 1
  /-- pending barrier and the chains that have arrived, R231 -/
  barId : Option Nat := none
  /-- chains that have arrived at the pending barrier, R231 -/
  arrived : List Nat := []
  /-- block time of its placement, R399 -/
  since : Nat := 0
  /-- its save is under way, R198 -/
  saving : Bool := false
  /-- its record goes to the hide's reset save area, R339 -/
  toReset : Bool := false
  /-- saved chains in ascending CHAINIG, local-store image, matrix state, R199 -/
  savedChains : List Chain := []
  /-- saved local-store image, R199 -/
  savedLs : Tbl Byte := []
  /-- saved matrix state, R199; of a resumed group, the state that waits for a unit which another one still has, R190 -/
  savedMx : Option MxUnit := none
  /-- matrix-state slot reserved at resumption for a state that waits for its unit, R190 -/
  mxSlot : Option Nat := none
  /-- place of its record from the save area's start, and its bytes, R199, R200 -/
  recAt : Nat := 0
  /-- bytes of its record, R200 -/
  recLen : Nat := 0
deriving DecidableEq, Repr

/-- A registered waiter on a counting event or barrier object (R234, R235). -/
structure Waiter where
  /-- object in a core's local store (some core) or in global memory (none), and its address -/
  lsCore : Option Nat
  /-- address of the object, R234 -/
  addr : Nat
  /-- 0 counting event, 1 barrier object -/
  kind : Nat
  /-- phase to leave (barrier) -/
  phase : Nat
  /-- who waits: a chain, a WAIT command, or a remote node with its tag -/
  chain : Option (Nat × Nat)
  /-- WAIT command that waits, R313 -/
  cid : Option Nat
  /-- remote node and tag that wait, R235 -/
  remote : Option (Nat × Nat)
  /-- EXT or remote object: excludes its context from detection, R243 -/
  ext : Bool
deriving DecidableEq, Repr

/-! ## Homes (R226 to R230) -/

/-- State of the node's own copy of a line (R227). -/
inductive LineSt | inv | shared | excl | modified | owned
deriving DecidableEq, Repr

/-- A request for a line at its home (R229): who asks, what for, and the link message that it answers. -/
structure HomeTx where
  /-- requester, R229 -/
  who : HomeWho
  /-- read, write, atomic or coherent request, R229 -/
  kind : HomeKind
  /-- link message that it answers, R545 -/
  msg : Option LMsg := none
  /-- atomics of a core of this node, in ascending lane order, R172 -/
  atoms : List SbAtom := []
  /-- command that it works for, 0 for none, R43 -/
  cid : Nat := 0
  /-- signals to a counting event: its address, how many, and the context that a lost one counts in, R234 -/
  sig : Option (Nat × Nat × Nat) := none
  /-- it allocates no copy in the shared cache, R113, R416 -/
  na : Bool := false
  /-- it holds the reserve credit of the line's first reserved requester, R230 -/
  credit : Bool := false
  /-- a CXL.mem access, answered once performed: its address, R556 -/
  cxl : Option Nat := none
deriving DecidableEq, Repr

/-- The record of a line in the shared cache (R29): of a line of this node its own copy, directory entry, transaction and
reserved requesters (R228 to R230); of another node's line the state in which this node holds it. A line's bytes are those
of State.mem, or of State.ext for another node's (log 21). -/
structure Line where
  /-- state of this node's copy, R227 -/
  st : LineSt := .inv
  /-- nodes that hold the line: up to four pointers -/
  holders : List Nat := []
  /-- coarse vector, R228 -/
  coarse : Option W64 := none
  /-- the transaction in progress; the request is performed once no snoop is awaited -/
  cur : Option HomeTx := none
  /-- the request of the transaction has been performed -/
  performed : Bool := false
  /-- requesters with a reserved credit, in order, R230 -/
  reserved : List HomeTx := []
  /-- requests queued in their ordinary credit, R230 -/
  queued : List HomeTx := []
  /-- nodes whose snoop acknowledgement is awaited -/
  snoops : List Nat := []
  /-- order of last use, of the directory entry and of the copy, R228 -/
  dirUse : Nat := 0
deriving DecidableEq, Repr

/-- An outstanding remote request of this node (R545, R546). -/
structure RReq where
  /-- TAG, R546 -/
  tag : Nat
  /-- target node, R546 -/
  node : Nat
  /-- KIND, R535 -/
  kind : Nat
  /-- requesting core and slot with the load number, or mover channel, or none -/
  core : Option (Nat × Nat × Nat)
  /-- mover and channel that ask -/
  chan : Option (Nat × Nat)
  /-- the command it works for, 0 for none, and its context -/
  cid : Nat
  /-- context it works for -/
  ctx : Nat
  /-- block time of sending, R546 -/
  at_ : Nat
  /-- address -/
  addr : Nat
  /-- route epoch it was sent in, R543 -/
  epoch : Bool
  /-- the message, to be sent again after a retry, and a retry has been received, R230 -/
  msg : LMsg
  /-- a retry has been received, R230 -/
  retried : Bool := false
  /-- group and CHAINIG of the chain that asks, R237 -/
  part : Nat × Nat := (0, 0)
  /-- index of its instruction, R196 -/
  pc : Nat := 0
  /-- lanes, R196 -/
  mask : W32 := 0
  /-- a wait that nothing waits for any more, R237 -/
  withdrawn : Bool := false
  /-- a wait at a barrier object whose chain is in a save record, R237 -/
  saved : Bool := false
  /-- a snoop for the line has come before the answer, which then leaves no copy, R228 -/
  snooped : Bool := false
  /-- error-completed at a fence of a hide, whose late-response counter its answer goes to, R463 -/
  late : Option Nat := none
deriving DecidableEq, Repr

/-! ## The acre (ch. 3) -/

/-- A shift program image in a bank (R135, R136). -/
structure Shift where
  /-- SHIFT_ID, R135 -/
  id : Nat
  /-- program words, R135 -/
  words : List W64
deriving DecidableEq, Repr

/-- What the acre does next with an operation (R109 to R112). -/
inductive AcreStep
  | load
  | slice
  | readout
  | store
  | done
deriving DecidableEq, Repr

/-- An acre operation started and unfinished (R109). -/
structure AcreOp where
  /-- command -/
  cid : Nat := 0
  /-- class -/
  cls : Nat := 0
  /-- accumulator set, R100 -/
  set : Nat := 0
  /-- geometry: furlongs and width, R25 -/
  k : Nat := 1
  /-- width in units, R25 -/
  w : Nat := 16
  /-- position: column block, row group, pass, first row of the slice or step within the group, R109 -/
  n : Nat := 0
  /-- row group, R109 -/
  g : Nat := 0
  /-- pass, R109 -/
  p : Nat := 0
  /-- first row of the slice or step within the group, R109 -/
  s : Nat := 0
  /-- load, slice, readout, R109, R112 -/
  step : AcreStep := .load
  /-- column tile of the block that is stored, R109 -/
  tj : Nat := 0
  /-- B registers in use: codes of the pass's B block by column·2^20 + k, R100, R101 -/
  b0 : Tbl Nat := []
  /-- idle B registers, R101 -/
  b1 : Tbl Nat := []
  /-- pass whose block the idle registers hold: column block, pass, shadow run, R101 -/
  idle : Option (Nat × Nat × Bool) := none
  /-- recomputing these tiles (ti, tj) with the shadows, R111 -/
  shadow : Bool := false
  /-- tiles that escalated in the group, R86 -/
  esc : List (Nat × Nat) := []
  /-- edge accumulators by row·2^24 + column: 128-bit sums, or F32 codes for 16-bit operands, R73, R81 -/
  acc : Tbl Int := []
  /-- counters of the group's tiles by ti·2^24 + tj, R77 -/
  cnt : Tbl Cnt := []
  /-- readout results (F32 codes) of the group, R76; for I32 output the integers -/
  y : Tbl Int := []
  /-- kept report entries: counters, ESC, FLAG by tile, R123 -/
  rep : Tbl (Cnt × Bool × Bool) := []
  /-- the slice in progress is a rerun, and the units that mismatched first, R128 -/
  rerun : Bool := false
  /-- units that mismatched first, R128 -/
  bad : List (Nat × Nat) := []
  /-- seed of stochastic rounding, R94 -/
  seed : W64 := 0
  /-- SHIFT_ID in use, R137 -/
  shiftId : Nat := 0
  /-- CHK_RETRIES, R123 -/
  chkRetries : Nat := 0
  /-- UNCHECKED, R123 -/
  unchecked : Nat := 0
  /-- PREEMPTS, R123 -/
  preempts : Nat := 0
  /-- the factor table has been checked, R586 -/
  factorsOk : Bool := false
  /-- channels of its streams that have completed a burst in its step, R421, R427 -/
  fed : List (Nat × Nat) := []
  /-- it is asked to stop at its next tile boundary, R344, R367, R377, R405, R465 -/
  hold : Bool := false
  /-- status that ended it, none while it runs -/
  status : Option Nat := none
  /-- error record with the status -/
  err : Option ErrInfo := none
deriving DecidableEq, Repr

/-- The acre of a hide. -/
structure Acre where
  /-- operation on the acre, R131 -/
  run : Option AcreOp := none
  /-- the pre-empted operation, R131 -/
  pre : Option AcreOp := none
  /-- dispatched operations in issue order, R385 -/
  wait : List Nat := []
  /-- the acre starts no further operation (move drain R377, reset R465) -/
  blocked : Bool := false
  /-- block time of the end of the last operation, R510 -/
  idleFrom : Nat := 0
  /-- active and inactive shift program bank, R136 -/
  bankA : Option Shift := none
  /-- inactive shift program bank, R136 -/
  bankI : Option Shift := none
deriving DecidableEq, Repr

/-! ## Hides (ch. 9, 12, 14) -/

/-- A pending record of a deferred open (R260): its command, its function and order. -/
structure PendSeq where
  /-- the SEQ_OPEN, R260 -/
  cmd : Cmd
  /-- translated SSB, ring and prompt -/
  ssb : Nat
  /-- translated token ring, R260 -/
  ring : Nat
  /-- translated prompt, R260 -/
  prompt : Nat
  /-- plan slot, R260 -/
  plan : Nat
  /-- order of arrival, R261 -/
  order : Nat
deriving DecidableEq, Repr

/-- A hide (R372). -/
structure Hide where
  /-- the hide has started, R527, reset false -/
  started : Bool := false
  /-- key state 0 none, 1 waiting, 2 loaded, 0x4020:h, reset 0 -/
  key : Nat := 0
  /-- which DRBG draw the key pair is, R520, reset 0 -/
  keyDraw : Nat := 0
  /-- epoch of the hide's tag, R374, reset DESIGN CHOICE 0 (log 3) -/
  epoch : BitVec 8 := 0
  /-- HIDE_RECOVERY, R290, reset 0 -/
  recovery : Bool := false
  /-- 0 none, 1 compute-part reset, 2 full hide reset, R465, R466 -/
  recKind : Nat := 0
  /-- block time at which recovery began, R472 -/
  recFrom : Nat := 0
  /-- trigger of the RECOVERY record, R472 -/
  recTrigger : Nat := 0
  /-- unit that failed, R472 -/
  recFailed : Nat := 0
  /-- step of a full hide reset: 0 none, 1 waits for the key, 2 scrubs, 3 waits for its ports to run again (R579) -/
  fullStep : Nat := 0
  /-- the fence at the edges drains since, R463 -/
  fenceFrom : Option Nat := none
  /-- held out of service until PORST_N, R516, or stopped by a trip or debug -/
  heldOut : Bool := false
  /-- the hide's engine queues, in issue order; each command names its engine, R20, R384 -/
  engQ : List Nat := []
  /-- acre, R99 -/
  acre : Acre := {}
  /-- shift program staging, R486 0x3030+h:01 -/
  shiftStage : Tbl Byte := []
  /-- active span length and cyclic table, R393, R395 -/
  spanLen : Nat := 4
  /-- active cyclic table, R393, R395 -/
  table : Tbl Nat := []
  /-- last queue served by tag (class 1) and in class 3, as fn·64 + q, R394, R398 -/
  rr1 : Tbl Nat := []
  /-- class-3 queue last served, R398 -/
  rr3 : Option Nat := none
  /-- pending list, R260 -/
  pendSeqs : List PendSeq := []
  /-- hide counters 0x6000+h, R486, reset 0 -/
  staleGen : Nat := 0
  /-- isolation violations, R486 -/
  isolation : Nat := 0
  /-- late responses, R486 -/
  lateRsp : Nat := 0
  /-- grains spent in switches, R486 -/
  switchGrains : Nat := 0
  /-- lost signals, R486 -/
  lostSignals : Nat := 0
  /-- rebalancing: furlong-ticks busy and grains that waited in the period, R403 -/
  busyTicks : Nat := 0
  /-- grains that waited in the rebalancing period, R403 -/
  waited : Nat := 0
  /-- ticks of the rebalancing period, R403 -/
  ticks : Nat := 0
  /-- APPLY's reset waits for the recovery under way, R499 -/
  applyDue : Bool := false
  /-- bytes used of the reset save area, R346 -/
  resetSave : Nat := 0
deriving DecidableEq, Repr

/-- A furlong move under way (R377). -/
structure Move where
  /-- furlong, R377 -/
  f : Nat
  /-- hide it leaves, R377 -/
  src : Nat
  /-- hide it joins, none for none, R377 -/
  dst : Option Nat
  /-- block time of the request, R377 -/
  from_ : Nat
  /-- 0 waits for a recovery, 1 draining, 2 left and scrubbed -/
  step : Nat
  /-- requested by the manager, R379 -/
  byManager : Bool
deriving DecidableEq, Repr

/-! ## The serving engine (ch. 6) -/

/-- A stage of a loaded plan (R250). -/
structure Stage where
  /-- KIND, R250 -/
  kind : Nat
  /-- rows of the stage per build, R250 -/
  rowsPer : Nat
  /-- first byte of the KV extent, R250 -/
  kvOff : Nat
  /-- bytes of it, R250 -/
  kvLen : Nat
  /-- embedded descriptor, R250 -/
  d0 : Desc
  /-- its second half, R250 -/
  d1 : Desc
  /-- translated extents, R249 -/
  pieces : List Piece
  /-- side records, R249 -/
  ext : Nat
  /-- buffer table, R249 -/
  buftab : Nat
  /-- argument block, R249 -/
  arg : Nat
deriving DecidableEq, Repr

/-- A row of the running step: sequence entry, position, token, kind, index within the sequence (R267). -/
structure RowEnt where
  /-- sequence entry, R267 -/
  entry : Nat
  /-- position, R267 -/
  pos : Nat
  /-- token, R267 -/
  token : Nat
  /-- prompt, last token or draft, R267 -/
  kind : Nat
  /-- index within the sequence, R267 -/
  idx : Nat
deriving DecidableEq, Repr

/-- A sequence-table entry (R256). -/
structure Seq where
  /-- STATE, R256 -/
  state : Nat := 0
  /-- IN_STEP, R256 -/
  inStep : Bool := false
  /-- URGENCY, R256 -/
  urgency : Nat := 0
  /-- AUTOCLOSE, R256 -/
  autoClose : Bool := false
  /-- NOTIFY, R256 -/
  notify : Bool := false
  /-- draft limit, R256 -/
  draftMax : Nat := 0
  /-- HOLD, R256 -/
  hold : Nat := 0
  /-- context, R256 -/
  ctx : Nat := 0
  /-- plan, R256 -/
  plan : Nat := 0
  /-- ring size, R256 -/
  ringLog2 : Nat := 0
  /-- waited builds, R256, R266 -/
  waited : Nat := 0
  /-- tag, R257 -/
  tag : Nat := 0
  /-- POS, R256 -/
  pos : Nat := 0
  /-- PROMPT_LEFT, R256 -/
  promptLeft : Nat := 0
  /-- EMITTED, R256 -/
  emitted : Nat := 0
  /-- MAX_NEW, R256 -/
  maxNew : Nat := 0
  /-- stop token, R256 -/
  stopToken : Nat := 0
  /-- stopped by the stop token, R256 -/
  stopped : Bool := false
  /-- pool pages held, page 0 first -/
  pages : List Nat := []
  /-- last token, R256 -/
  lastToken : Nat := 0
  /-- sampling seed, R262 -/
  seed : W64 := 0
  /-- address of the SSB, R258 -/
  ssbPa : Nat := 0
  /-- address of the token ring, R258 -/
  ringPa : Nat := 0
  /-- address of the prompt, R258 -/
  promptPa : Nat := 0
  /-- tokens of the prompt, R258 -/
  promptLen : Nat := 0
  /-- kept drafts, R276 -/
  kdrafts : List Nat := []
  /-- a close waits for the commit, R280 -/
  closing : Option Nat := none
deriving DecidableEq, Repr

/-- A selected sequence of the running step: entry, first row, rows, pages taken, drafts (R266, R276). -/
structure SelEnt where
  /-- sequence entry, R266 -/
  entry : Nat
  /-- first row, R266 -/
  row : Nat
  /-- rows, R266 -/
  rows : Nat
  /-- pages taken, R268 -/
  took : List Nat
  /-- draft tokens, R276 -/
  drafts : List Nat
deriving DecidableEq, Repr

/-- The running step of a plan (R271). -/
structure Step where
  /-- SEQ_STEP, R265 -/
  cid : Nat
  /-- rows of the build; 0 before the build -/
  rows : Nat
  /-- the build is done, R271 -/
  built : Bool
  /-- selected sequences, R266 -/
  sel : List SelEnt
  /-- next stage to issue, the stage's command, and whether the stage runs -/
  next : Nat
  /-- command of the stage, R271 -/
  stageCid : Option Nat
  /-- the stage is one that runs, R271 -/
  rerun : Bool
  /-- bytes staged into the serving reserve, by stage, R272 -/
  stagedUpTo : Nat
  /-- what the build changed: each entry that it considered, as it was, and its SSB's 64 bytes, R275 -/
  undo : List (Nat × Seq × List Byte) := []
deriving DecidableEq, Repr

/-- A loaded plan (R248, R249). -/
structure Plan where
  /-- context, R248 -/
  ctx : Nat
  /-- plan number, R248 -/
  num : Nat
  /-- function -/
  fn : Nat
  /-- MAX_ROWS, R249 -/
  maxRows : Nat
  /-- PAGE_LOG2, R249 -/
  pageLog2 : Nat
  /-- DRAFT_MAX, R249 -/
  draftMax : Nat
  /-- page bytes, R249 -/
  pageBytes : Nat
  /-- POOL_PAGES, R249 -/
  poolPages : Nat
  /-- MAX_PAGES, R249 -/
  maxPages : Nat
  /-- CHUNK, R249 -/
  chunk : Nat
  /-- POOL_LOW, R249 -/
  poolLow : Nat
  /-- pool address, R249 -/
  poolAddr : Nat
  /-- page list pieces, R249 -/
  plist : List Piece
  /-- row table pieces, R249 -/
  rowtab : List Piece
  /-- token output pieces, R249 -/
  tokout : List Piece
  /-- page pool pieces, R249 -/
  pool : List Piece
  /-- stages, R250 -/
  stages : List Stage
  /-- free-page stack, top first, R251 -/
  free : List Nat
  /-- running step, R265 -/
  step : Option Step
  /-- SEQ_STEP commands waiting for the plan, R265 -/
  queue : List Nat
  /-- an invalidation waits for the step, R252 -/
  stale : Bool
deriving DecidableEq, Repr

/-! ## Movers (ch. 10) -/

/-- A mover descriptor (R416). -/
structure MDesc where
  /-- SRC, R416 -/
  src : Nat := 0
  /-- DST, R416 -/
  dst : Nat := 0
  /-- COUNT, R416 -/
  count : Nat := 0
  /-- WS, R416 -/
  ws : Nat := 5
  /-- WD, R416 -/
  wd : Nat := 5
  /-- SIGNED, R416 -/
  signed : Bool := false
  /-- SHUF, R416 -/
  shuf : Nat := 0
  /-- G16, R416 -/
  g16 : Bool := false
  /-- FILL, R416 -/
  fill : Bool := false
  /-- PATTERN, R416 -/
  pattern : W64 := 0
  /-- NA, R416 -/
  na : Bool := false
  /-- PULSE, R416 -/
  pulse : Bool := false
  /-- SIG, R416 -/
  sig : Bool := false
  /-- JOIN, R416 -/
  join : Bool := false
  /-- SRC_WRAP, R422 -/
  srcWrap : Nat := 0
  /-- DST_WRAP, R422 -/
  dstWrap : Nat := 0
  /-- OWN, R416 -/
  own : Bool := true
  /-- placed by the Gate for the channel's command: SRC and DST are offsets in the command's extents 0 and 1 -/
  gate : Bool := false
deriving DecidableEq, Repr

/-- Channel states of R414. -/
inductive ChSt | idle | waiting | running | held | stopped | halted
deriving DecidableEq, Repr

/-- A mover channel (R413, R414). -/
structure Chan where
  /-- CH_CTRL.ENABLE, reset 0 -/
  enable : Bool := false
  /-- CH_CTRL.STOP, reset 0 -/
  stop : Bool := false
  /-- CH_CTRL.DRAIN, reset 0 -/
  drain : Bool := false
  /-- CH_CTRL.RING_LOG2, reset 0 -/
  ringLog2 : Nat := 0
  /-- CH_CTRL.PULSE_TO, reset 0 -/
  pulseTo : Nat := 0
  /-- CH_OWNER, reset 0 -/
  owner : W64 := 0
  /-- RING_BASE, reset 0 -/
  ringBase : W64 := 0
  /-- RING_HEAD, reset 0 -/
  head : W32 := 0
  /-- WATCH, reset 0 -/
  watch : W64 := 0
  /-- MARKS, reset 0 -/
  marks : W64 := 0
  /-- SIG_ADDR, reset 0 -/
  sigAddr : W64 := 0
  /-- CH_STATUS.STATE, reset IDLE -/
  st : ChSt := .idle
  /-- CH_STATUS.CFG_ERR, reset 0 -/
  cfgErr : Bool := false
  /-- CH_STATUS.HELD_BYTES, reset 0 -/
  heldBytes : Nat := 0
  /-- CH_BURSTS, reset 0 -/
  bursts : Nat := 0
  /-- command that the channel serves, R409, R428 -/
  cid : Option Nat := none
  /-- descriptors that the Gate has queued, R409 -/
  gate : List MDesc := []
  /-- descriptor in transfer, the source elements written, and its source and destination bit positions, R421 -/
  cur : Option MDesc := none
  /-- elements written of the descriptor in transfer, R421 -/
  done : Nat := 0
  /-- source bit position, R421 -/
  srcBit : Nat := 0
  /-- destination bit position, R421 -/
  dstBit : Nat := 0
  /-- bursts issued and not completed: end element of each, R424, R426 -/
  issued : List Nat := []
  /-- SATC count, R421 -/
  satc : Nat := 0
  /-- pacing has made the channel ready, R420 -/
  paced : Bool := false
  /-- block times: HELD since, and the last credits of its port, R427 -/
  heldFrom : Nat := 0
  /-- the stall of a HELD channel has been posted, R427 -/
  stallPosted : Bool := false
  /-- block time of its port's last credits, R427 -/
  creditAt : Nat := 0
deriving DecidableEq, Repr

/-- A mover (R412). -/
structure Mover where
  /-- MV_STATUS.HALTED, reset 0 -/
  halted : Bool := false
  /-- MV_ERRADDR, reset 0 -/
  errAddr : BitVec 56 := 0
  /-- MV_HALTS, reset 0 -/
  halts : Nat := 0
  /-- channels 0 to 31, R413 -/
  chans : Tbl Chan := []
  /-- channel last served, R424 -/
  last : Nat := 31
deriving DecidableEq, Repr

/-! ## Event Gatherer, watermarks and mailboxes (ch. 11) -/

/-- An Event Gatherer source (R435). -/
structure Src where
  /-- SRC_CFG.LEVEL, reset 0 -/
  level : Nat := 0
  /-- SRC_CFG.ENABLE, reset 0 -/
  enable : Bool := false
  /-- pending bit, reset 0 -/
  pending : Bool := false
  /-- SRC_CFG.INSVC, reset 0 -/
  insvc : Bool := false
  /-- SRC_CFG.TARGET, reset 0 -/
  target : Nat := 0
  /-- presented at its target, R437, reset false -/
  presented : Bool := false
deriving DecidableEq, Repr

/-- A group of sources (R435, R442). -/
structure Grp where
  /-- GRP_CFG.TGT_EN, reset 0 -/
  tgtEn : BitVec 4 := 0
  /-- GRP_CFG.RR_LAST, reset 0 -/
  rrLast : Nat := 0
  /-- GRP_CFG.COAL_CNT, reset 0 -/
  coalCnt : Nat := 0
  /-- GRP_CFG.COAL_TIME, reset 0 -/
  coalTime : Nat := 0
  /-- GRP_CFG.HOLD, reset 0 -/
  hold : Bool := false
  /-- GRP_CFG.HOLD_US, reset 0 -/
  holdUs : Nat := 0
  /-- latches since the last presentation and the block time of the first, R442 -/
  latches : Nat := 0
  /-- block time of the first latch since the last presentation, R442 -/
  first : Nat := 0
deriving DecidableEq, Repr

/-- A target (R436). -/
structure Tgt where
  /-- TGT_MASK.MASK, reset 1 -/
  mask : Bool := true
  /-- running-priority stack, newest first: source and level, reset empty -/
  stack : List (Nat × Nat) := []
deriving DecidableEq, Repr

/-- A watermark (R446, R448). -/
structure Wm where
  /-- WM_MARK of a plan's watermark, R447; the others are KOD entries -/
  mark : Nat := 0
  /-- WM_CTRL.STICKY, R446, reset 0 -/
  sticky : Bool := false
  /-- WM_CTRL.ENABLE, R446, reset 0 -/
  enable : Bool := false
  /-- WM_CTRL.ABOVE, R446, reset 0 -/
  above : Bool := false
  /-- WM_CTRL.HYST, R446, reset 0 -/
  hyst : Nat := 0
  /-- WM_COUNT, R446, reset 0 -/
  count : Nat := 0
deriving DecidableEq, Repr

/-- A mailbox channel (R449). -/
structure Mbox where
  /-- MB_IN, reset 0 -/
  inWord : W64 := 0
  /-- MB_OUT, reset 0 -/
  outWord : W64 := 0
  /-- MB_STATUS.IN_FULL, R449, reset 0 -/
  inFull : Bool := false
  /-- MB_STATUS.IN_DISC, R449, reset 0 -/
  inDiscarded : Bool := false
  /-- MB_STATUS.OUT_FULL, R449, reset 0 -/
  outFull : Bool := false
  /-- MB_STATUS.OUT_DISC, R449, reset 0 -/
  outDiscarded : Bool := false
  /-- MB_STATUS input generation, R449, reset 0 -/
  inGen : W16 := 0
  /-- MB_STATUS output generation, R449, reset 0 -/
  outGen : W16 := 0
  /-- drops counter, 0x6A00:d -/
  drops : Nat := 0
deriving DecidableEq, Repr

/-- The Event Gatherer (R434). -/
structure EG where
  /-- sources 0 to 1,023, R434, R435 -/
  srcs : Tbl Src := []
  /-- groups 0 to 63, R434, R435 -/
  grps : Tbl Grp := []
  /-- targets 0 to 3, R436 -/
  tgts : Tbl Tgt := []
  /-- EG_MODE, R434, reset 1 (STARTUP) -/
  mode : Nat := 1
  /-- EG_STAT, R434, reset 0 -/
  mismatches : Nat := 0
  /-- sources whose signal is high, R432, R530 -/
  high : List Nat := []
deriving DecidableEq, Repr

/-! ## Object dictionary (ch. 13) -/

/-- One stored copy of a profile in the config store (R493). -/
structure ProfCopy where
  /-- the copy is valid, R493 -/
  valid : Bool := true
  /-- sequence number, R493 -/
  seq : W32 := 0
  /-- EVSEQ of the newest journal entry at its commit, R495 -/
  lastEvseq : Nat := 0
  /-- stored values, R493 -/
  vals : Tbl Nat := []
deriving DecidableEq, Repr

/-- The object dictionary, its window, the profiles and the config store. -/
structure Kod where
  /-- running values by index·256 + subindex where they differ from the default, R477 -/
  run : Tbl Nat := []
  /-- stored values of profiles 0 to 3 -/
  stored : Tbl (Tbl Nat) := []
  /-- profiles with no valid copy, R495 -/
  invalid : List Nat := []
  /-- ACTIVE, R488, reset 0 -/
  active : Nat := 0
  /-- PINS, R488, sampled at reset -/
  pins : BitVec 2 := 0
  /-- BOOT_SOURCE in the config-store header, R488, DESIGN CHOICE 0 (log 3) -/
  bootSource : Nat := 0
  /-- the profile last active, R488, DESIGN CHOICE 0 (log 3) -/
  lastActive : Nat := 0
  /-- the profile active when the config store was last committed, and EVSEQ of the newest journal entry then (R495;
  log 25) -/
  hdrActive : Nat := 0
  /-- EVSEQ of the newest journal entry at the last commit, R495 -/
  hdrEvseq : Nat := 0
  /-- live values held by R491, by entry -/
  heldLive : Tbl Nat := []
  /-- stored values changed and not yet committed, R495 -/
  dirty : List Nat := []
  /-- config-store copies A and B of profile p at 2p and 2p + 1, R492, R493 -/
  copies : Tbl ProfCopy := []
  /-- KW_STATUS.BUSY and DONE and CODE, R481, reset 0 -/
  busy : Bool := false
  /-- KW_STATUS.DONE, R481, reset 0 -/
  done : Bool := false
  /-- KW_STATUS.CODE, R481, reset 0 -/
  code : Nat := 0
  /-- KW_REQ, R481, reset 0 -/
  kwReq : BitVec 128 := 0
  /-- KW_RSP, R481, reset 0 -/
  kwRsp : BitVec 128 := 0
  /-- KW_DATA, R481, reset 0 -/
  kwData : Tbl Byte := []
  /-- request store of 16, R482 -/
  reqs : List (Nat × KodReq) := []
  /-- firmware staging BLOB, R494 -/
  fwStage : Tbl Byte := []
  /-- firmware slots of the config store hold a checked image, and the slots running and named next, R494 -/
  fwOk0 : Bool := true
  /-- firmware slot 1 holds a checked image, R494 -/
  fwOk1 : Bool := false
  /-- slot running, R494 -/
  fwRun : Nat := 0
  /-- slot named next, R494 -/
  fwNext : Nat := 0
  /-- identity of the image in each slot: the slot's first image, or 2 and the CRC of a committed one, R494 -/
  fwImg0 : Nat := 0
  /-- image in slot 1, R494 -/
  fwImg1 : Nat := 1
  /-- shift program slots of the config store, R492 -/
  shiftSlots : Tbl Shift := []
  /-- header copy in use, 0 A or 1 B, R492, R493 -/
  hdrAt : Nat := 0
  /-- SEQ of the header copy in use, R493 -/
  hdrSeq : W32 := 0
  /-- the SFDP table gives quad read, R568; none until it has been read -/
  flashQuad : Option Bool := none
  /-- the flash takes 4-byte addresses, R568 -/
  flashAddr4 : Bool := false
  /-- I3C dynamic address, R569, and MCTP endpoint ID, R480 -/
  i3cAddr : BitVec 7 := 0
  /-- MCTP endpoint ID, R480 -/
  eid : Option Byte := none
deriving DecidableEq, Repr

/-! ## Always-on domain (R511) -/

/-- An alarm log entry (R498). -/
structure Alarm where
  /-- RTC stamp, R498 -/
  rtc : W64 := 0
  /-- CODE, R498 -/
  code : Nat := 0
  /-- posted after bring-up, R498 -/
  posted : Bool := false
  /-- data, R498 -/
  data : W32 := 0
  /-- the entry is valid, R498 -/
  valid : Bool := false
deriving DecidableEq, Repr

/-- PD_AO (R511). -/
structure AO where
  /-- EVSEQ, R471, 1 when PD_AO is first powered -/
  evseq : W64 := 1
  /-- firmware generation, R451, DESIGN CHOICE 0 (log 3) -/
  fwGen : W16 := 0
  /-- real-time clock in µs, R512, DESIGN CHOICE 0 (log 3) -/
  rtc : W64 := 0
  /-- nanoseconds towards the next microsecond of the clock -/
  rtcSub : Nat := 0
  /-- alarm log of 64 entries, R498, empty -/
  alarms : Tbl Alarm := []
  /-- alarm overflow counter, 0x9200:0x40, reset 0 -/
  overflow : Nat := 0
  /-- journal slots of 64 bytes, R496, R497, empty -/
  journal : Tbl (BitVec 512) := []
  /-- journal destination: free-running counts, staging and losses, R443 to R445 -/
  jq : RecQueue := {}
  /-- EVSEQ of the newest journal entry and of the newest mirrored, 0x9000:01, :02 -/
  newest : W64 := 0
  /-- EVSEQ of the newest mirrored entry, 0x9000:02, R496 -/
  mirrored : W64 := 0
  /-- journal mirror in the config store, R492 -/
  mirror : Tbl (BitVec 512) := []
  /-- next slot of the mirror, R492 -/
  mirrorPos : Nat := 0
  /-- copies of 0x4010:02 and 0x4010:03, R511 -/
  wakeEn : Bool := false
  /-- copy of 0x4010:03, R511 -/
  tamperAct : Nat := 0
  /-- WAKE_N driven low, R514, reset false -/
  wakeLow : Bool := false
deriving DecidableEq, Repr

/-! ## Pace and power (ch. 14) -/

/-- The pace governor (R500 to R508). Rates are M beats/s, voltages mV, power W. -/
structure Gov where
  /-- measured pace, 0x4000:05, DESIGN CHOICE 1500 (log 3) -/
  pace : Nat := 1500
  /-- pace that the cap allows, R502, R506, reset 2400 -/
  capPace : Nat := 2400
  /-- thermal pace limit, R508, reset 2400 -/
  thermPace : Nat := 2400
  /-- VDD_CORE request, 0x4000:07, boot voltage of R574 -/
  vdd : Nat := 750
  /-- throttle in 64ths, 0x4000:08, reset 0 -/
  throttle : Nat := 0
  /-- thermal throttle of R508 in force -/
  hot : Bool := false
  /-- trip in force, R508 -/
  tripped : Bool := false
  /-- block power of the last 1 ms, 0x4000:06, DESIGN CHOICE 0 (log 3) -/
  power : Nat := 0
  /-- hottest Tj, 0x4000:09, DESIGN CHOICE 25 (log 3) -/
  tj : Int := 25
  /-- AVSBus failures in a row, stopped after the third, R504 -/
  avsFails : Nat := 0
  /-- the governor has stopped using AVSBus, R504 -/
  avsStopped : Bool := false
  /-- target held while AVSBus has failed, R504 -/
  heldTarget : Nat := 1500
  /-- last values read back, R504 -/
  volt : Nat := 0
  /-- current read back, R504 -/
  cur : Nat := 0
  /-- status read back, R504 -/
  stat : Nat := 0
  /-- the regulator's temperature, where it gives one, R504 -/
  regTemp : Option Int := none
  /-- FLOOR_MISS, R503, reset 0, and block times of falling below and of returning to the floor -/
  floorMiss : Bool := false
  /-- block time of falling below the floor, R503 -/
  belowFrom : Option Nat := none
  /-- block time of returning to the floor, R503 -/
  aboveFrom : Option Nat := none
  /-- block time of a cap write or profile switch, R505 -/
  capFrom : Nat := 0
  /-- milliseconds below 0.95 × cap -/
  underCap : Nat := 0
  /-- 100 µs steps of the thermal limit, R508 -/
  thermTicks : Nat := 0
  /-- counters 0x4000:0A -/
  floorMisses : Nat := 0
  /-- counter, 0x4000:0A, R505 -/
  capExceeded : Nat := 0
  /-- milliseconds of thermal throttle, 0x4000:0A, R508 -/
  hotMs : Nat := 0
  /-- steps towards the next such millisecond, R508 -/
  hotTicks : Nat := 0
  /-- AVSBus errors, 0x4000:0A, R504 -/
  avsErrors : Nat := 0
  /-- thousandths of core beats since reset, at the measured pace, R166 (log 49), reset 0 -/
  beatSub : Nat := 0
deriving DecidableEq, Repr

/-- Start-up of the block (R527). -/
inductive Boot
  /-- PORST_N asserted: on the cell or unpowered -/
  | off
  /-- WARMRST_N asserted -/
  | warmHeld
  /-- after t0, before firmware starts -/
  | image
  /-- firmware runs, not every hide has started -/
  | starting
  /-- EG_MODE is SERVICE -/
  | service
deriving DecidableEq, Repr

/-- Power, reset, pins, entropy and test access. -/
structure Power where
  /-- stage of bring-up, R525 to R530 -/
  boot : Boot := .image
  /-- firmware is running; false during a firmware restart, R530 -/
  fwUp : Bool := false
  /-- VDD_AO present -/
  aoUp : Bool := true
  /-- PD_Fnn on: furlongs, R35 -/
  fOn : List Nat := []
  /-- PD_Lnn: on, and in retention -/
  lOn : List Nat := []
  /-- PD_Lnn in retention, R35, R36 -/
  lRet : List Nat := []
  /-- PD_Snn on -/
  sOn : List Nat := []
  /-- furlongs being woken, R510 -/
  waking : List Nat := []
  /-- attachment HP1 is connected beside HP0, R554, reset DESIGN CHOICE false (log 3) -/
  hp1 : Bool := false
  /-- PD_LKA, PD_LKB on -/
  lka : Bool := false
  /-- PD_LKB on, R35 -/
  lkb : Bool := false
  /-- TAMPER_N and VBAT_OK as last seen -/
  tamperLow : Bool := false
  /-- VBAT_OK as last seen, R513 -/
  vbatOk : Bool := true
  /-- TIME_REF stopped, R571 -/
  timeRefLost : Bool := false
  /-- entropy source delivers, 0x4010:04, reset 0 -/
  entropy : Bool := false
  /-- draws from the DRBG so far, R517 -/
  draws : Nat := 0
  /-- the hides are held out of service until PORST_N, R516, R523 -/
  zeroised : Bool := false
  /-- debug: 0 closed, 1 scrubbing, 2 open, R523 -/
  debug : Nat := 0
  /-- clocked test mode: none off, some none TCK, some (some n) TIME_REF × (n + 1), R578 -/
  testMode : Option (Option (Fin 10)) := none
  /-- data register between TDI and TDO: none at first, some 0 BYPASS, otherwise IDCODE's 32 bits, R577 -/
  tapBypass : Bool := false
  /-- IDCODE bits left to shift, R577 -/
  tapId : Option (BitVec 32) := none
deriving DecidableEq, Repr

/-! ## Ports and links (ch. 15, 16) -/

/-- A foreign engine's port (R564 to R567). -/
structure Engine where
  /-- something is attached, R19, R564 -/
  present : Bool := false
  /-- type identifier, R564 -/
  typ : W16 := 0
  /-- drain time, R564 -/
  drainUs : Nat := 0
  /-- commands it holds at most, R564 -/
  maxCmd : Nat := 0
  /-- commands held by the engine -/
  cmds : List Nat := []
  /-- contexts paused, and pauses not yet acknowledged, R564 -/
  pausing : List Nat := []
  /-- contexts whose pause has been acknowledged, R564 -/
  paused : List Nat := []
  /-- aborts sent and not answered, by command, with the block time -/
  aborting : List (Nat × Nat) := []
  /-- protocol-error counter, R334 -/
  protoErr : Nat := 0
deriving DecidableEq, Repr

/-- A Stack Port (R558 to R561). -/
structure SPort where
  /-- trained and ready, R558, R579 -/
  ready : Bool := false
  /-- corrections per lane, R560 -/
  corrected : Tbl Nat := []
  /-- credits granted, counted as returns -/
  creditAt : Option Nat := none
deriving DecidableEq, Repr

/-- Link states of 0x8010:n. -/
inductive LkSt | down | training | hello | up | miswired
deriving DecidableEq, Repr

/-- A Link Port (R531 to R538). -/
structure Link where
  /-- state of the port, R536 -/
  st : LkSt := .down
  /-- the PHY reports the link up, R536 -/
  phy : Bool := false
  /-- peer's node identity, R537 -/
  peer : Nat := 0
  /-- peer's port, R537 -/
  peerPort : Nat := 0
  /-- our hello has been answered: the peer's hello was good -/
  heardOk : Bool := false
  /-- next SEQ to send and next SEQ expected, R531 -/
  txSeq : BitVec 12 := 0
  /-- next SEQ expected, R531 -/
  rxSeq : BitVec 12 := 0
  /-- retry buffer: SEQ and messages, oldest first, 512 flits, R534 -/
  retry : List (Nat × List LMsg) := []
  /-- messages waiting for credits -/
  txq : List LMsg := []
  /-- discarding until a NAK's replay, R534 -/
  nakSent : Bool := false
  /-- NAKs received for one SEQ, R534 -/
  nakSeq : Nat := 0
  /-- NAKs received for it, R534 -/
  naks : Nat := 0
  /-- block time of the last advance of ACK -/
  ackAt : Nat := 0
  /-- credits available by channel and epoch, R533 -/
  credits : Tbl Nat := []
  /-- credits owed to the peer by virtual channel, R531, R533 -/
  owed : Tbl Nat := []
  /-- received messages not yet taken -/
  rx : List LMsg := []
  /-- replays since the block time of the first of a millisecond, R534 -/
  replayWin : Nat := 0
  /-- block time of the first replay of the window, R534 -/
  replayFrom : Nat := 0
  /-- counters 0x8010:n -/
  replays : Nat := 0
  /-- protocol errors, 0x8010:n -/
  protoErr : Nat := 0
  /-- late responses, 0x8010:n, R546 -/
  lateRsp : Nat := 0
deriving DecidableEq, Repr

/-- The link fabric (R536 to R547). -/
structure Fabric where
  /-- Link Ports 0 to 31, R531 -/
  links : Tbl Link := []
  /-- link-state records by node, R539 -/
  map : Tbl LmRec := []
  /-- own SEQ, R539, 1 after each deassertion -/
  seq : W32 := 1
  /-- newer records seen under the own identity: SEQ and block time, R539 -/
  dups : List (Nat × Nat) := []
  /-- all links are down until the next reset, R539 -/
  dupDown : Bool := false
  /-- block time of the last change of the map, R540 -/
  mapAt : Nat := 0
  /-- computed routes that are not in place yet, and those in place for the next GO: the map's CRC and the next node by
  destination, R540, R542 -/
  computed : Option (W32 × Tbl Nat) := none
  /-- routes in place for the next GO, R542 -/
  placed : Option (W32 × Tbl Nat) := none
  /-- routes in use and of the old epoch, R540, R543 -/
  next : Tbl Nat := []
  /-- routes of the old epoch, R543 -/
  oldNext : Option (Tbl Nat) := none
  /-- fabric state 0x8000:06, reset 0 -/
  state : Nat := 0
  /-- fabric-ready has been reached since the last reset, R543 -/
  wasReady : Bool := false
  /-- CRC of the map in use, 0x8000:07, reset 0 -/
  mapCrc : W32 := 0
  /-- nodes covered by the READYs counted for the routes in place, R542 -/
  readyCount : Nat := 0
  /-- READYs held until the own routes are in place, R542 -/
  heldReady : List (W32 × Nat) := []
  /-- route epoch, R543, reset 0 -/
  epoch : Bool := false
  /-- block time of the last GO, R543 -/
  goAt : Nat := 0
  /-- next request tag -/
  tag : W16 := 0
  /-- outstanding remote requests, R546 -/
  reqs : List RReq := []
deriving DecidableEq, Repr

/-- What the Config Port does on the flash (R568): the SFDP table in single-SPI mode at a rate in MHz, the change to 4-byte
addressing, a read in quad or single-SPI mode, the erase of a 4 KiB sector, the program of at most one 256-byte page. -/
inductive CfgOp
  | sfdp (mhz : Nat)
  | addr4
  | read (quad : Bool) (mhz addr len : Nat)
  | erase (addr : Nat)
  | program (addr : Nat) (data : List Byte)
deriving DecidableEq, Repr

/-- What the block puts on its ports towards the surroundings, in order (log 16). -/
inductive Out
  | msix (fn vec : Nat)
  | atsRequest (fn io : Nat)
  | invalidateCompletion (fn : Nat)
  /-- descriptor reads at their translated addresses, R303, R304 -/
  | fetch (fn q : Nat) (addrs : List Nat)
  /-- a request of function fn to host memory leaves on attachment hp of the Host Port, R47, R554 -/
  | hostRead (fn hp addr len : Nat)
  | hostWrite (fn hp addr : Nat) (data : List Byte)
  | hostAtomic (fn hp addr : Nat) (op : AtomOp) (size : Nat) (val cmp : W64)
  | hostError (fn : Nat)
  /-- control channel of an engine: ABORT, PAUSE or RESUME, R564 -/
  | engine (e : Nat) (word : Nat) (cid : Nat)
  /-- command channel of an engine: handle, class, header, EOP, EPARAM and the 48 bytes of PAYLOAD, R332, R564 -/
  | engineCmd (e cid cls header eop eparam : Nat) (payload : List Byte)
  | engineRsp (e : Nat) (err : Bool) (data : List Byte)
  | kodRsp (src : KodSrc) (header : BitVec 128) (data : List Byte)
  /-- an error response of a transport, none the MCTP or I3C bus owner's, R454, R499 -/
  | transportError (src : Option KodSrc)
  | mctp (eid : Option Byte)
  | avs (mv : Nat)
  | link (port : Nat) (m : LMsg) (cred : Nat)
  | replay (port : Nat) (seq : Nat) (ms : List LMsg)
  | hello (port node : Nat) (crc : W32)
  | linkmap (port : Nat) (r : LmRec)
  | ready (port : Nat) (crc : W32) (count : Nat)
  | go (port : Nat) (crc : W32)
  | nak (port : Nat) (ack : Nat)
  | stackReset (port : Nat)
  | cxl (err : Bool) (data : List Byte)
  | tgtAck (t : Nat) (word : W32)
  | tdo (word : Nat)
  /-- an operation on the config-store flash, R568 -/
  | cfg (op : CfgOp)
deriving DecidableEq, Repr

/-- The state of the block. -/
structure State where
  /-- commands that wait, first in first out -/
  pending : List Instr := []
  /-- block time counter, R41, R571, 0 when PORST_N deasserts -/
  btime : W64 := 0
  /-- the model's own counter of free values (log 4), DESIGN CHOICE 0 -/
  free : Nat := 0
  /-- local device memory by node offset, R46, R49 (log 5) -/
  mem : Memory := []
  /-- exposed units written since their key was drawn, R50, R556 (log 5) -/
  exposed : Tbl Byte := []
  /-- exposed units scrubbed to zero under the present key, R466 -/
  scrubbed : List Nat := []
  /-- host and remote memory as seen by the block (log 6) -/
  ext : Tbl Byte := []
  /-- functions 0 to 512, R282 -/
  fns : Tbl Fn := []
  /-- class-0 record store: sixteen entries a queue, most recently used first, R389, reset none -/
  store : List SideRec := []
  /-- accepted commands, oldest first -/
  cmds : List Cmd := []
  /-- next command handle; 0 names no command -/
  nextCid : Nat := 1
  /-- contexts by number, R336 -/
  ctxs : Tbl Ctx := []
  /-- live context numbers, ascending, R336 -/
  live : List Nat := []
  /-- allocated device pages, R347 -/
  allocs : List Alloc := []
  /-- next memory object -/
  nextObj : Nat := 1
  /-- translation buffers, R355 -/
  tlb : List TlbEnt := []
  /-- ATS cache, R361 -/
  ats : List AtsEnt := []
  /-- core positions 0 to 275: compute cores 17f + c, control cores 272 to 275, R22, R26 -/
  cores : Tbl Core := []
  /-- placed and saved chain groups, R153 -/
  groups : List Group := []
  /-- waiters at counting events and barrier objects, R234 -/
  waiters : List Waiter := []
  /-- homes' records by line, R228 -/
  lines : Tbl Line := []
  /-- order number of the next directory use, R228 -/
  dirClock : Nat := 0
  /-- hides 0 to 7, R372 -/
  hides : Tbl Hide := []
  /-- furlong moves under way, R377 -/
  moves : List Move := []
  /-- the manager has requested a move in the present rebalancing period, R403 -/
  mgrMoved : Bool := false
  /-- plan slots 0 to 255, R248 -/
  plans : Tbl Plan := []
  /-- sequence table, R256 -/
  seqs : Tbl Seq := []
  /-- order number of the next deferred open, R261 -/
  pendOrder : Nat := 0
  /-- movers 0 to 15, R32, R412 -/
  movers : Tbl Mover := []
  /-- Event Gatherer, R434 -/
  eg : EG := {}
  /-- watermarks 0 to 511, R446 -/
  wms : Tbl Wm := []
  /-- mailbox channels 0 to 15, R449 -/
  boxes : Tbl Mbox := []
  /-- object dictionary, R474 -/
  kod : Kod := {}
  /-- PD_AO, R511 -/
  ao : AO := {}
  /-- pace governor, R500 -/
  gov : Gov := {}
  /-- power, reset, pins, R35, R525 -/
  pow : Power := {}
  /-- foreign engines 1 to 4, R18, R564 -/
  engines : Tbl Engine := []
  /-- Stack Ports 0 to 11, R558 -/
  sports : Tbl SPort := []
  /-- link fabric, R536 -/
  fab : Fabric := {}
  /-- what has left on the ports, newest first (log 16) -/
  out : List Out := []
deriving DecidableEq, Repr

/-- The machine right after reset: PORST_N has just deasserted on a block whose PD_AO has just been powered for the
first time (R527, R471); firmware has not started, no function is ready, no memory is listed (log 3). -/
def State.reset : State := {}

end Sys2Proof.Machine
end

