-- ==== Sys2Proof/Machine/Table.lean ====
section
/-! DEFINITION. The sparse tables and memories: reading, writing, canonical form; bytes and numbers; CRC-32. -/

namespace Sys2Proof.Machine

/-! ## Sparse tables: keys strictly rising -/

/-- The entry of a key, if the table lists it. -/
def tfind {α : Type} (t : Tbl α) (k : Nat) : Option α :=
  match t with
  | [] => none
  | (j, a) :: r => if j = k then some a else tfind r k

/-- The entry of a key, or the default. -/
def tget {α : Type} (t : Tbl α) (k : Nat) (d : α) : α := (tfind t k).getD d

/-- Write an entry, keeping the keys strictly rising. -/
def tset {α : Type} (t : Tbl α) (k : Nat) (a : α) : Tbl α :=
  match t with
  | [] => [(k, a)]
  | (j, b) :: r => if k < j then (k, a) :: (j, b) :: r else if k = j then (k, a) :: r else (j, b) :: tset r k a

/-- Remove an entry. -/
def terase {α : Type} (t : Tbl α) (k : Nat) : Tbl α :=
  match t with
  | [] => []
  | (j, b) :: r => if j = k then r else (j, b) :: terase r k

/-- Change an entry, from its default where the table does not list it. -/
def tupd {α : Type} (t : Tbl α) (k : Nat) (d : α) (f : α → α) : Tbl α := tset t k (f (tget t k d))

/-- Keys strictly rising. -/
def twf {α : Type} : Tbl α → Bool
  | [] => true
  | [_] => true
  | (j, _) :: (k, b) :: r => decide (j < k) && twf ((k, b) :: r)

/-! ## Memory: unlisted bytes read zero, no zero is listed (R347; log 5) -/

/-- One byte of memory. -/
def Memory.get (m : Memory) (a : Nat) : Byte :=
  match m with
  | [] => 0
  | (j, b) :: r => if j = a then b else Memory.get r a

/-- Put a listed byte (not zero) in place. -/
def Memory.put (m : Memory) (a : Nat) (b : Byte) : Memory :=
  match m with
  | [] => [(a, b)]
  | (j, c) :: r => if a < j then (a, b) :: (j, c) :: r else if a = j then (a, b) :: r else (j, c) :: Memory.put r a b

/-- Take a byte off the list. -/
def Memory.drop (m : Memory) (a : Nat) : Memory :=
  match m with
  | [] => []
  | (j, c) :: r => if a = j then r else if a < j then (j, c) :: r else (j, c) :: Memory.drop r a

/-- Write one byte: zero takes the byte off the list. -/
def Memory.set (m : Memory) (a : Nat) (b : Byte) : Memory := if b = 0 then m.drop a else m.put a b

/-- The canonical form: addresses strictly rising from a bound, and no listed zero. -/
def Memory.wfFrom (lo : Nat) : Memory → Bool
  | [] => true
  | (j, b) :: r => decide (lo ≤ j) && b != 0 && Memory.wfFrom (j + 1) r

/-- The canonical form of a memory. -/
def Memory.wf (m : Memory) : Bool := Memory.wfFrom 0 m

/-- Write bytes at consecutive addresses. -/
def Memory.setBytes (m : Memory) (a : Nat) : List Byte → Memory
  | [] => m
  | b :: bs => Memory.setBytes (m.set a b) (a + 1) bs

/-- Take every byte with an address in [a, a + n) off the list, so that it reads zero. -/
def Memory.clear (m : Memory) (a n : Nat) : Memory := m.filter (fun c => decide (c.1 < a) || decide (a + n ≤ c.1))

/-! ## Bytes and little-endian numbers -/

/-- n bytes of a number, least significant first. -/
def leBytes : Nat → Nat → List Byte
  | 0, _ => []
  | n + 1, v => BitVec.ofNat 8 v :: leBytes n (v / 256)

/-- The number that bytes spell, least significant first. -/
def leNat : List Byte → Nat
  | [] => 0
  | b :: bs => b.toNat + 256 * leNat bs

/-- The bits hi:lo of a number. -/
def nbits (v hi lo : Nat) : Nat := v / 2 ^ lo % 2 ^ (hi + 1 - lo)

/-- Bit i of a number. -/
def nbit (v i : Nat) : Bool := v / 2 ^ i % 2 == 1

/-- A two's-complement reading of the low w bits of a number. -/
def toSigned (w v : Nat) : Int := if v % 2 ^ w < 2 ^ (w - 1) then (v % 2 ^ w : Nat) else (v % 2 ^ w : Nat) - (2 ^ w : Nat)

/-- The low w bits of an integer. -/
def ofSigned (w : Nat) (i : Int) : Nat := (i % (2 ^ w : Nat)).toNat

/-- Replace the bits hi:lo of a number. -/
def setBits (v hi lo x : Nat) : Nat := v - nbits v hi lo * 2 ^ lo + x % 2 ^ (hi + 1 - lo) * 2 ^ lo

/-- Exclusive or of the 6-bit groups of a number, n of them (R28). -/
def xorGroups6 : Nat → Nat → Nat
  | 0, _ => 0
  | n + 1, v => (v % 64) ^^^ xorGroups6 n (v / 64)

/-! ## CRC-32 (R494, R531): reflected polynomial 0xEDB88320 -/

/-- Eight steps of a reflected CRC-32. -/
def crcSteps : Nat → BitVec 32 → BitVec 32
  | 0, c => c
  | n + 1, c => crcSteps n (if c.getLsbD 0 then (c >>> 1) ^^^ 0xEDB88320#32 else c >>> 1)

/-- CRC-32 register over bytes. -/
def crcReg (c : BitVec 32) : List Byte → BitVec 32
  | [] => c
  | b :: bs => crcReg (crcSteps 8 (c ^^^ b.setWidth 32)) bs

/-- CRC-32 of bytes, initial value and final inversion all ones. -/
def crc32 (bs : List Byte) : BitVec 32 := crcReg 0xFFFFFFFF bs ^^^ 0xFFFFFFFF

/-! ## Lists -/

/-- Change the i-th element. -/
def lmod {α : Type} (l : List α) (i : Nat) (f : α → α) : List α :=
  match l, i with
  | [], _ => []
  | a :: r, 0 => f a :: r
  | a :: r, i + 1 => a :: lmod r i f

/-- Insert by an order, behind equals. -/
def insertBy {α : Type} (before : α → α → Bool) (x : α) : List α → List α
  | [] => [x]
  | a :: r => if before x a then x :: a :: r else a :: insertBy before x r

/-- Sort by an order; equals keep their places. -/
def sortBy {α : Type} (before : α → α → Bool) (l : List α) : List α := l.foldl (fun r x => insertBy before x r) []

/-- Insert into a strictly rising list. -/
def linsert (l : List Nat) (n : Nat) : List Nat :=
  match l with
  | [] => [n]
  | a :: r => if n < a then n :: a :: r else if n = a then a :: r else a :: linsert r n

end Sys2Proof.Machine
end

