-- ==== Sys2Proof/Machine/Ops.lean ====
section
/-! DEFINITION. The named operations on the state that every family shares: the dictionary's values in effect, geometry,
memory, records and queues, the Event Gatherer's latches, completion. -/

namespace Sys2Proof.Machine

/-- A nanosecond of core beats at the measured pace (R166; DESIGN CHOICE, log 49). -/
def Gov.beat (g : Gov) : Gov := { g with beatSub := g.beatSub + g.pace }

/-! ## The object dictionary's running values (R477, R486, R525, R549) -/

/-- Default of an entry of a hide's range 0x3000 (R486). -/
def kodDefaultHide (h sub : Nat) : Nat :=
  match sub with
  | 0x01 => if h = 0 then 1 else 0
  | 0x02 => if h = 0 then 0x0FFF else 0
  | 0x03 => 1
  | 0x04 => 0xFFFF
  | 0x05 => 1
  | 0x06 => 16
  | 0x07 => 4
  | 0x08 => 256
  | 0x09 => 16
  | 0x0A => 1
  | 0x0C => 1024
  | 0x0F => 0xFFFFFFFF
  | _ => 0

/-- Default of an entry of a hide's scheduling range 0x5000 (R486). -/
def kodDefaultSched (sub : Nat) : Nat :=
  match sub with
  | 0x01 => 100
  | 0x02 => 100
  | 0x03 => 1000
  | 0x04 => 10000
  | 0x05 => 50
  | 0x06 => 100
  | 0x07 => 4
  | 0x08 => 1000
  | 0x09 => 1000
  | 0x0A => 4096
  | 0x0B => 4096
  | _ => 0

/-- Default value of an entry by index and subindex (R484, R486, R525, R549). -/
def kodDefault (idx sub : Nat) : Nat :=
  if 0x3000 ≤ idx ∧ idx < 0x3008 then kodDefaultHide (idx - 0x3000) sub
  else if idx = 0x3010 then 0x10
  else if idx = 0x3020 then 0x80
  else if idx = 0x2010 then 1
  else if idx = 0x4000 then (if sub = 1 then 1050 else if sub = 2 then 2400 else if sub = 3 then 1500 else if sub = 4 then 95 else 0)
  else if 0x5000 ≤ idx ∧ idx < 0x5008 then kodDefaultSched sub
  else if idx = 0x50FF then 100
  else if idx = 0x8000 then (if sub = 4 then 1000 else if sub = 5 then 64 else 0)
  else 0

/-- The table key of an entry. -/
def kodKey (idx sub : Nat) : Nat := idx * 256 + sub

/-- The value in effect of an entry (R477). -/
def State.kodRun (s : State) (idx sub : Nat) : Nat := tget s.kod.run (kodKey idx sub) (kodDefault idx sub)

/-- Change a value in effect. -/
def State.setRun (s : State) (idx sub v : Nat) : State :=
  { s with kod := { s.kod with run := tset s.kod.run (kodKey idx sub) v } }

/-! ## Free values and the DRBG (log 4) -/

/-- The next 64 bits of the DRBG (R517). -/
def State.drawVal (s : State) : W64 := Config.drbg s.pow.draws

/-- Use up one draw. -/
def State.drawNext (s : State) : State := { s with pow := { s.pow with draws := s.pow.draws + 1 } }

/-- A fresh value that the spec leaves open. -/
def State.freshVal (s : State) (w : Nat) : BitVec w := Config.freeBits w s.free

/-- Use up one free value. -/
def State.freshNext (s : State) : State := { s with free := s.free + 1 }

/-- Something leaves on a port. -/
def State.emit (s : State) (o : Out) : State := { s with out := o :: s.out }

/-- Main power is present and the block is out of reset: PD_GATE is powered (R35). -/
def State.running (s : State) : Bool := s.pow.boot != .off && s.pow.boot != .warmHeld

/-! ## Hides, functions, queues, contexts -/

/-- A hide's record. -/
def State.hide (s : State) (h : Nat) : Hide := tget s.hides h {}

/-- Change a hide's record. -/
def State.updHide (s : State) (h : Nat) (f : Hide → Hide) : State := { s with hides := tupd s.hides h {} f }

/-- The hide exists in the active profile (R372): it has at least one Stack Port. -/
def State.hideExists (s : State) (h : Nat) : Bool :=
  decide (h < 8) && s.kodRun (0x3000 + h) 1 == 1 && s.kodRun (0x3000 + h) 2 != 0

/-- The hides that exist, ascending. -/
def State.hideList (s : State) : List Nat := (List.range 8).filter s.hideExists

/-- A function's record. -/
def State.fn (s : State) (n : Nat) : Fn := tget s.fns n {}

/-- Change a function's record. -/
def State.updFn (s : State) (n : Nat) (f : Fn → Fn) : State := { s with fns := tupd s.fns n {} f }

/-- An entry of a function's range 0x7000 (R486). -/
def State.fnKod (s : State) (n sub : Nat) : Nat := s.kodRun (0x7000 + n) sub

/-- The function's hide, none while it has none (R283, R382). -/
def State.fnHide (s : State) (n : Nat) : Option Nat :=
  if s.fnKod n 2 = 1 ∧ s.hideExists (s.fnKod n 1) then some (s.fnKod n 1) else none

/-- Queues of a function: 64 for the PF, 16 for a VF (R284, R285). -/
def fnQueues (n : Nat) : Nat := if n = 0 then 64 else 16

/-- The function can be reached: the PF, or a VF that the profile has and SR-IOV enables (R282, R381). -/
def State.fnPresent (s : State) (n : Nat) : Bool :=
  n == 0 || (decide (n ≤ s.kodRun 0x7FFF 1) && (s.fn n).sriov)

/-- Permitted classes of a function (R381), a bit per class. -/
def State.fnClasses (s : State) (n : Nat) : Nat := s.fnKod n 3 % 16

/-- A queue block. -/
def State.queue (s : State) (n q : Nat) : Queue := tget (s.fn n).queues q {}

/-- Change a queue block. -/
def State.updQueue (s : State) (n q : Nat) (f : Queue → Queue) : State :=
  s.updFn n (fun r => { r with queues := tupd r.queues q {} f })

/-- Q_CTRL.MODE: push mode (R296). -/
def Queue.isPush (q : Queue) : Bool := q.ctrl.getLsbD 1

/-- Q_CTRL.CLASS (R296). -/
def Queue.cls (q : Queue) : Nat := (q.ctrl.extractLsb' 2 2).toNat

/-- Q_CTRL.SERIAL (R296). -/
def Queue.serial (q : Queue) : Bool := q.ctrl.getLsbD 4

/-- Q_CTRL.SQ_LOG2 (R296). -/
def Queue.sqLog2 (q : Queue) : Nat := (q.ctrl.extractLsb' 8 5).toNat

/-- Q_CTRL.CQ_LOG2 (R296). -/
def Queue.cqLog2 (q : Queue) : Nat := (q.ctrl.extractLsb' 16 5).toNat

/-- Ring size: 16 in push mode (R302). -/
def Queue.ringSize (q : Queue) : Nat := if q.isPush then 16 else 2 ^ q.sqLog2

/-- Q_SCHED.WEIGHT (R297). -/
def Queue.weight (q : Queue) : Nat := (q.sched.extractLsb' 0 16).toNat

/-- Q_SCHED.TABLE_TAG (R297). -/
def Queue.tableTag (q : Queue) : Nat := (q.sched.extractLsb' 16 8).toNat

/-- Q_RESERVE.RATE and WINDOW (R297). -/
def Queue.rate (q : Queue) : Nat := (q.reserve.extractLsb' 0 16).toNat
/-- Q_RESERVE.WINDOW in µs (R297). -/
def Queue.window (q : Queue) : Nat := (q.reserve.extractLsb' 16 16).toNat

/-- A context's record. -/
def State.ctx (s : State) (c : Nat) : Ctx := tget s.ctxs c {}

/-- Change a context's record. -/
def State.updCtx (s : State) (c : Nat) (f : Ctx → Ctx) : State := { s with ctxs := tupd s.ctxs c {} f }

/-- The context exists (R336). -/
def State.ctxLive (s : State) (c : Nat) : Bool := s.live.contains c

/-- The next generation: it skips 0 (R337). -/
def nextGen (g : Nat) : Nat := if 65535 ≤ g then 1 else g + 1

/-- The contexts that a function holds (R336). -/
def State.fnCtxs (s : State) (n : Nat) : List Nat := s.live.filter (fun c => (s.ctx c).fn == n)

/-- A command by its handle. -/
def State.cmd? (s : State) (cid : Nat) : Option Cmd := s.cmds.find? (fun c => c.cid == cid)

/-- Change a command. -/
def State.updCmd (s : State) (cid : Nat) (f : Cmd → Cmd) : State :=
  { s with cmds := s.cmds.map (fun c => if c.cid = cid then f c else c) }

/-- Take a command off the list of accepted, uncompleted commands. -/
def State.dropCmd (s : State) (cid : Nat) : State := { s with cmds := s.cmds.filter (fun c => c.cid != cid) }

/-- Accepted, uncompleted commands of a queue, oldest first. -/
def State.queueCmds (s : State) (n q : Nat) : List Cmd := s.cmds.filter (fun c => c.fn == n && c.q == q && c.stage.isNone)

/-- Accepted, uncompleted commands of a context. -/
def State.ctxCmds (s : State) (c : Nat) : List Cmd := s.cmds.filter (fun m => m.ctx == c)

/-- The generation that a record of a context carries: 0 without a context (R319). -/
def State.genOf (s : State) (c : Nat) : Nat := if c = 0xFFFF then 0 else (s.ctx c).gen

/-- The instance number of a hide: bits 3:0 the hide, bits 11:4 its epoch (R374). -/
def State.hideTag (s : State) (h : Nat) : Nat := h % 16 + 16 * (s.hide h).epoch.toNat

/-! ## Geometry (R22 to R25) -/

/-- Core index of furlong f, position c. -/
def coreIdx (f c : Nat) : Nat := f * 17 + c

/-- A core's record. -/
def State.core (s : State) (i : Nat) : Core := tget s.cores i {}

/-- Change a core's record. -/
def State.updCore (s : State) (i : Nat) (f : Core → Core) : State := { s with cores := tupd s.cores i {} f }

/-- Active positions of a furlong, ascending: the first sixteen that are neither fused out nor retired (R22, R148). -/
def State.activePos (s : State) (f : Nat) : List Nat :=
  ((List.range 17).filter (fun c => !(s.core (coreIdx f c)).fused && !(s.core (coreIdx f c)).retired)).take 16

/-- Positions of a furlong that are neither fused out nor retired. -/
def State.usable (s : State) (f : Nat) : Nat :=
  ((List.range 17).filter (fun c => !(s.core (coreIdx f c)).fused && !(s.core (coreIdx f c)).retired)).length

/-- The hide that a furlong belongs to: none while it is moving between hides, nor with fewer than 15 positions left, until
service (R24, R150, R377). -/
def State.furlongHide (s : State) (f : Nat) : Option Nat :=
  if s.moves.any (fun m => m.f == f && m.step == 2) then none
  else if nbit (s.kodRun 0x3020 f) 7 && s.hideExists (s.kodRun 0x3020 f % 16) && decide (15 ≤ s.usable f) then
    some (s.kodRun 0x3020 f % 16)
  else none

/-- The furlongs of a hide, ascending. -/
def State.furlongsOf (s : State) (h : Nat) : List Nat :=
  (List.range 16).filter (fun f => s.furlongHide f == some h)

/-- Width of a hide's acre (R25): 15 while any furlong of it runs with 15 cores. -/
def State.acreWidth (s : State) (h : Nat) : Nat :=
  if (s.furlongsOf h).any (fun f => decide ((s.activePos f).length < 16)) then 15 else 16

/-- The hide of a compute core's furlong. -/
def State.coreHide (s : State) (i : Nat) : Option Nat := if i < 272 then s.furlongHide (i / 17) else none

/-- A core position is active: it counts among its furlong's active positions. -/
def State.coreActive (s : State) (i : Nat) : Bool := decide (i < 272) && (s.activePos (i / 17)).contains (i % 17)

/-- Logical column of a core (R23). -/
def State.coreColumn (s : State) (i : Nat) : Nat := ((s.activePos (i / 17)).takeWhile (fun c => c != i % 17)).length

/-! ## Physical addresses and memory (R46 to R52, R347, R466) -/

/-- The block's node identity (R536). -/
def State.nodeId (s : State) : Nat := s.kodRun 0x8000 1 % 16384

/-- Bit 55: host memory (R46). -/
def isHostPa (pa : Nat) : Bool := nbit pa 55

/-- The node field of a device address (R46). -/
def paNode (pa : Nat) : Nat := nbits pa 53 40

/-- The offset within the node (R46). -/
def paOff (pa : Nat) : Nat := pa % 2 ^ 40

/-- A device address of this node (R48). -/
def State.isLocal (s : State) (pa : Nat) : Bool := decide (pa < 2 ^ 55) && paNode pa == s.nodeId

/-- A physical address of this node's device memory. -/
def State.localPa (s : State) (off : Nat) : Nat := s.nodeId * 2 ^ 40 + off

/-- The hide of a memory unit, and its kind: 0 none, 1 compute, 2 exposed (R50). -/
def State.unitHide (s : State) (u : Nat) : Nat := s.kodRun 0x3010 u % 16
/-- The kind of a memory unit (R50). -/
def State.unitKind (s : State) (u : Nat) : Nat := if u < 0xC0 then nbits (s.kodRun 0x3010 u) 5 4 else 0

/-- The compute units of a hide, ascending. -/
def State.computeUnits (s : State) (h : Nat) : List Nat :=
  (List.range 0xC0).filter (fun u => s.unitKind u == 1 && s.unitHide u == h)

/-- The firmware region: the lowest compute units of a hide (R346). -/
def State.fwUnits (s : State) (h : Nat) : List Nat := (s.computeUnits h).take (s.kodRun (0x3000 + h) 3)

/-- A local offset lies in a compute unit of the hide, outside its firmware region (R51). -/
def State.devAllowed (s : State) (h off : Nat) : Bool :=
  s.unitKind (off / 2 ^ 32) == 1 && s.unitHide (off / 2 ^ 32) == h && !(s.fwUnits h).contains (off / 2 ^ 32)

/-- One byte of local device memory: an exposed byte that nothing has written is undefined (R466). -/
def State.memByte (s : State) (off : Nat) : Byte :=
  if s.unitKind (off / 2 ^ 32) = 2 then
    match tfind s.exposed off with
    | some b => b
    | none =>
      if s.scrubbed.contains (off / 2 ^ 32) then 0
      else Config.undefByte (s.hide (s.unitHide (off / 2 ^ 32))).keyDraw off
  else s.mem.get off

/-- One byte at a physical address, or at a key of a function's I/O space (log 6). -/
def State.readPa (s : State) (pa : Nat) : Byte :=
  if s.isLocal pa then s.memByte (paOff pa) else (tfind s.ext pa).getD (Config.extByte pa)

/-- Write one byte at a physical address. -/
def State.writePa (s : State) (pa : Nat) (b : Byte) : State :=
  if s.isLocal pa then
    if s.unitKind (paOff pa / 2 ^ 32) = 2 then { s with exposed := tset s.exposed (paOff pa) b }
    else { s with mem := s.mem.set (paOff pa) b }
  else { s with ext := tset s.ext pa b }

/-- n bytes from a physical address on. -/
def State.readBytes (s : State) (pa : Nat) : Nat → List Byte
  | 0 => []
  | n + 1 => s.readPa pa :: State.readBytes s (pa + 1) n

/-- Write bytes at consecutive physical addresses. -/
def State.writeBytes (s : State) (pa : Nat) : List Byte → State
  | [] => s
  | b :: bs => State.writeBytes (s.writePa pa b) (pa + 1) bs

/-- Write single bytes at their addresses, in order. -/
def State.writeCells (s : State) : List (Nat × Byte) → State
  | [] => s
  | (a, b) :: r => State.writeCells (s.writePa a b) r

/-- An n-byte little-endian number at a physical address. -/
def State.readNum (s : State) (pa n : Nat) : Nat := leNat (s.readBytes pa n)

/-- The Host Port attachment on which outbound requests of a function leave: HP0, or with both connected f mod 2 (R47,
R554). -/
def State.hostPort (s : State) (fn : Nat) : Nat := if s.pow.hp1 then fn % 2 else 0

/-- The function that owns a context, the PF without one (R47). -/
def State.ctxFn (s : State) (c : Nat) : Nat := if c = 0xFFFF then 0 else (s.ctx c).fn

/-- Posted writes of runs of bytes to host memory, on their function's attachment (R47, R554). -/
def State.emitWrites (s : State) (fn : Nat) (runs : List (Nat × List Byte)) : State :=
  runs.foldl (fun t r => t.emit (.hostWrite fn (s.hostPort fn) r.1 r.2)) s

/-- The key under which a function's untranslated I/O address is held (log 6). -/
def ioKey (fn io : Nat) : Nat := 2 ^ 56 + fn * 2 ^ 64 + io

/-- The ATS cache entry that covers a function's I/O address (R361). -/
def State.atsAt (s : State) (fn io : Nat) : Option AtsEnt :=
  s.ats.find? (fun e => e.fn == fn && decide (e.io ≤ io) && decide (io < e.io + e.len))

/-- The address under which the byte at a function's I/O address is held: translated where the ATS cache covers it,
else by the I/O address (log 6). -/
def State.hostAddr (s : State) (fn io : Nat) : Nat :=
  match s.atsAt fn io with
  | some e => 2 ^ 55 + (e.ta + (io - e.io)) % 2 ^ 52
  | none => ioKey fn io

/-- What the ATS cache says of an access to a ring address: granted, to be asked for, or refused (R304, R581). -/
inductive RingAns
  | ok
  | ask (io : Nat)
  | refused
deriving DecidableEq, Repr

/-- An access to a ring of a function at an I/O address (R304). -/
def State.ringAt (s : State) (fn io : Nat) (write : Bool) : RingAns :=
  match s.atsAt fn io with
  | none => .ask io
  | some e => if (if write then e.w else e.r) then .ok else .refused

/-- A write to a ring at its translated address: it leaves on the function's attachment (R47, R304). -/
def State.ringPut (s : State) (fn io : Nat) (bs : List Byte) : State :=
  (s.writeBytes (s.hostAddr fn io) bs).emit (.hostWrite fn (s.hostPort fn) (s.hostAddr fn io) bs)

/-- Every byte of [a, a + n) has been seen or written by the block, where it lies outside local device memory. -/
def State.seen (s : State) (a n : Nat) : Bool :=
  s.isLocal a || (List.range n).all (fun i => (tfind s.ext (a + i)).isSome)

/-! ## Interrupts and event sequence (R310, R471) -/

/-- Send an MSI-X vector of a function. -/
def State.msix (s : State) (fn vec : Nat) : State := s.emit (.msix fn vec)

/-- The next EVSEQ is used up (R471). -/
def State.evseqNext (s : State) : State := { s with ao := { s.ao with evseq := s.ao.evseq + 1 } }

/-! ## The Event Gatherer's latches and presentation (R431 to R442) -/

/-- A source, with the fixed configuration of sources 1,008 to 1,011 (R440). -/
def State.src (s : State) (n : Nat) : Src :=
  if 1008 ≤ n ∧ n ≤ 1011 then { tget s.eg.srcs n {} with enable := true, level := 0 } else tget s.eg.srcs n {}

/-- Change a source. -/
def State.updSrc (s : State) (n : Nat) (f : Src → Src) : State :=
  { s with eg := { s.eg with srcs := tupd s.eg.srcs n {} f } }

/-- A group, with the fixed configuration of group 63 (R440). -/
def State.grp (s : State) (g : Nat) : Grp :=
  if g = 63 then { tget s.eg.grps g {} with tgtEn := 0xF, coalCnt := 0, coalTime := 0, hold := false }
  else tget s.eg.grps g {}

/-- Change a group. -/
def State.updGrp (s : State) (g : Nat) (f : Grp → Grp) : State :=
  { s with eg := { s.eg with grps := tupd s.eg.grps g {} f } }

/-- A target. -/
def State.tgt (s : State) (t : Nat) : Tgt := tget s.eg.tgts t {}

/-- Change a target. -/
def State.updTgt (s : State) (t : Nat) (f : Tgt → Tgt) : State :=
  { s with eg := { s.eg with tgts := tupd s.eg.tgts t {} f } }

/-- The next enabled target after the last one assigned (R437). -/
def nextTarget (en : BitVec 4) (last : Nat) : Option Nat :=
  ([1, 2, 3, 4].map (fun i => (last + i) % 4)).find? (fun t => en.getLsbD t)

/-- Chains in sleep on a control core become ready (R204, R441). -/
def State.wakeControl (s : State) (t : Nat) : State :=
  s.updCore (272 + t) (fun c =>
    { c with chains := c.chains.map (fun e => (e.1, if e.2.st = .sleeping then { e.2 with st := .ready } else e.2)) })

/-- Present one source if it is pending and enabled (R437, R440); one that already waits at an enabled target wakes the
chains asleep there (R441). -/
def State.presentSrc (s : State) (n : Nat) : State :=
  let r := s.src n
  let g := s.grp (n / 16)
  if !r.pending || !r.enable then s
  else if r.presented && g.tgtEn.getLsbD r.target then s.wakeControl r.target
  else if 1008 ≤ n ∧ n ≤ 1011 then
    (s.updSrc n (fun x => { x with presented := true, target := (n - 1008 + 1) % 4 })).wakeControl ((n - 1008 + 1) % 4)
  else
    match nextTarget g.tgtEn g.rrLast with
    | none => s
    | some t =>
      ((s.updSrc n (fun x => { x with presented := true, target := t })).updGrp (n / 16)
        (fun x => { x with rrLast := t })).wakeControl t

/-- Present every pending source of a group together, in ascending order (R437, R442). -/
def State.presentGrp (s : State) (g : Nat) : State :=
  ((List.range 16).foldl (fun a i => a.presentSrc (16 * g + i)) s).updGrp g (fun x => { x with latches := 0 })

/-- The group is in hold-off (R442). -/
def State.inHoldOff (s : State) (g : Nat) : Bool := g != 63 && (s.eg.mode != 0 || (s.grp g).hold)

/-- The group coalesces (R442). -/
def State.inCoalescing (s : State) (g : Nat) : Bool :=
  g != 63 && !s.inHoldOff g && (decide (2 ≤ (s.grp g).coalCnt) || (s.grp g).coalTime != 0)

/-- Present the group where its moderation allows it now (R442). -/
def State.moderate (s : State) (g : Nat) : State :=
  if s.inHoldOff g then s
  else if s.inCoalescing g then
    if 2 ≤ (s.grp g).coalCnt ∧ (s.grp g).coalCnt ≤ (s.grp g).latches then s.presentGrp g else s
  else s.presentGrp g

/-- A rising edge latches a source; a pending one merges (R432). -/
def State.latch (s : State) (n : Nat) : State :=
  if (s.src n).pending then s
  else
    ((s.updSrc n (fun x => { x with pending := true, presented := false })).updGrp (n / 16)
      (fun g => { g with latches := g.latches + 1,
                         first := if g.latches = 0 then s.btime.toNat else g.first })).moderate (n / 16)

/-! ## Records and their destinations (R320, R324 to R330, R443 to R445, R472) -/

/-- A function number as the index of a destination. -/
def fnFin (n : Nat) : Fin 513 := Fin.ofNat 513 n

/-- The state of a record destination. -/
def State.recq (s : State) (d : Dest) : RecQueue :=
  match d with
  | .event fn => (s.fn fn.val).evq
  | .error fn => (s.fn fn.val).erq
  | .journal => s.ao.jq

/-- Change a record destination. -/
def State.updRecq (s : State) (d : Dest) (f : RecQueue → RecQueue) : State :=
  match d with
  | .event fn => s.updFn fn.val (fun r => { r with evq := f r.evq })
  | .error fn => s.updFn fn.val (fun r => { r with erq := f r.erq })
  | .journal => { s with ao := { s.ao with jq := f s.ao.jq } }

/-- Slots of a destination, as a power of two: 512 for the journal (R324, R496). -/
def destLog2 (d : Dest) (q : RecQueue) : Nat :=
  match d with
  | .journal => 9
  | _ => q.log2

/-- A destination takes records: an event or error queue only while it is enabled (R325). -/
def destEnabled (d : Dest) (q : RecQueue) : Bool :=
  match d with
  | .journal => true
  | _ => q.enabled

/-- n further records fit (R324). -/
def destRoom (d : Dest) (q : RecQueue) (n : Nat) : Bool :=
  decide ((q.tail - q.head).toNat + n ≤ 2 ^ destLog2 d q)

/-- The valid marker of count c in a ring of 2^log2 slots (R320). -/
def phaseOf (c log2 : Nat) : Nat := 1 - c / 2 ^ log2 % 2

/-- The vector of a function's queue: 0 events, 1 errors (R310, R330). -/
def State.vectorOf (s : State) (d : Dest) : State :=
  match d with
  | .event fn => if (s.recq d).armed then (s.msix fn.val 0).updRecq d (fun q => { q with armed := false }) else s
  | .error fn => if (s.recq d).armed then (s.msix fn.val 1).updRecq d (fun q => { q with armed := false }) else s
  | .journal => s

/-- Bytes of a record of a destination (R324, R497). -/
def recSize (d : Dest) : Nat :=
  match d with
  | .event _ => 32
  | _ => 64

/-- The I/O address of a destination's record at a count (R324). -/
def recIo (d : Dest) (q : RecQueue) (c : Nat) : Nat := q.base.toNat + recSize d * (c % 2 ^ q.log2)

/-- The function whose ring a destination is; the journal is none's. -/
def destFn (d : Dest) : Option Nat :=
  match d with
  | .event fn => some fn.val
  | .error fn => some fn.val
  | .journal => none

/-- The first answer that is no grant. -/
def RingAns.and (a b : RingAns) : RingAns := match a with | .ok => b | x => x

/-- The next n slots of a destination may be written (R581). -/
def State.recAsk (s : State) (d : Dest) (n : Nat) : RingAns :=
  match destFn d with
  | none => .ok
  | some fn =>
    let q := s.recq d
    (List.range n).foldl (fun a i => a.and (s.ringAt fn (recIo d q ((q.tail + BitVec.ofNat 32 i).toNat)) true)) .ok

/-- Write one record at the tail of its destination, its marker last (R320, R324, R443). -/
def State.writeOneRec (s : State) (d : Dest) (size w : Nat) : State :=
  let q := s.recq d
  let c := q.tail.toNat
  let bytes := leBytes size (w + phaseOf c (destLog2 d q) * 2 ^ (8 * (size - 1)))
  let s1 :=
    match destFn d with
    | some fn => s.ringPut fn (recIo d q c) bytes
    | none =>
      { s with ao := { s.ao with journal := tset s.ao.journal (c % 512) (BitVec.ofNat 512 (w + 2 ^ 504)),
                                 newest := BitVec.ofNat 64 w } }
  s1.updRecq d (fun q => { q with tail := q.tail + 1 })

/-- Write a record, or a lead record with its CONT records, and raise the vector if it is armed (R330). -/
def State.writeRec (s : State) (d : Dest) (r : Rec) : State :=
  ((r.words.foldl (fun a w => a.writeOneRec d r.size w) s).updRecq d
    (fun q => { q with wrOpen := r.words.length, vecOpen := q.armed })).vectorOf d

/-- What of a record the coalescing compares: every byte but EVSEQ, STAMP and the marker, and of a WATERMARK notice
not DATA1 (R444). -/
def recKey (size w : Nat) : Nat :=
  if size = 32 ∧ nbits w 143 128 = 2 then setBits w 223 192 0 / 2 ^ 128 else w / 2 ^ 128

/-- Coalesce a record into an equal staged one, which takes the newer DATA1 of a WATERMARK notice (R444). -/
def coalesceInto (r : Rec) : List Rec → Option (List Rec)
  | [] => none
  | e :: es =>
    if e.size = r.size ∧ e.words.map (recKey e.size) = r.words.map (recKey r.size) then
      some ((if e.size = 32 then
        { e with words := List.zipWith (fun a b => if nbits a 143 128 = 2 then setBits a 223 192 (nbits b 223 192) else a)
                            e.words r.words } else e) :: es)
    else (coalesceInto r es).map (fun l => e :: l)

/-- A 32-bit total that sticks (R323). -/
def stick32 (n : Nat) : Nat := min n 0xFFFFFFFF

/-- Records staged, CONT records counted. -/
def stagedCount (l : List Rec) : Nat := (l.map (fun r => r.words.length)).sum

/-- Records of a destination that are not written because it is disabled or masks them (R325). -/
def State.dropRecs (s : State) (d : Dest) (n : Nat) : State :=
  s.updRecq d (fun q => { q with lost := q.lost + n, lostTotal := stick32 (q.lostTotal + n) })

/-- Records that are lost: a LOST record will mark the gap (R445, R581). -/
def State.loseRecs (s : State) (d : Dest) (n : Nat) : State :=
  s.updRecq d (fun q => { q with loss := q.loss + n, lost := q.lost + n, lostTotal := stick32 (q.lostTotal + n) })

/-- A record waits in the staging buffer while the address of its slot is asked for (R304, R444). -/
def State.stageAsk (s : State) (d : Dest) (l : List Rec) (io : Nat) : State :=
  (s.updRecq d (fun q => { q with staged := l })).emit (.atsRequest ((destFn d).getD 0) io)

/-- A decided record reaches its destination: written, staged, coalesced or lost (R325, R444, R445). -/
def State.postRec (s : State) (d : Dest) (r : Rec) : State :=
  let q := s.recq d
  let n := r.words.length
  if !destEnabled d q then s.dropRecs d n
  else if q.loss ≠ 0 then s.loseRecs d n
  else if q.staged.isEmpty && destRoom d q n then
    (match s.recAsk d n with
    | .ok => s.writeRec d r
    | .ask io => s.stageAsk d [r] io
    | .refused => s.loseRecs d n)
  else
    match coalesceInto r q.staged with
    | some l => s.updRecq d (fun q => { q with staged := l, coalesced := q.coalesced + n })
    | none =>
      if stagedCount q.staged + n ≤ 16 then s.updRecq d (fun q => { q with staged := q.staged ++ [r] })
      else s.loseRecs d n

/-- An event record's bytes as a number (R326). -/
def eventWord (evseq stamp code ctx d0 d1 queue : Nat) : Nat :=
  evseq % 2 ^ 64 + stamp % 2 ^ 64 * 2 ^ 64 + code % 2 ^ 16 * 2 ^ 128 + ctx % 2 ^ 16 * 2 ^ 144 + d0 % 2 ^ 32 * 2 ^ 160
    + d1 % 2 ^ 32 * 2 ^ 192 + queue % 64 * 2 ^ 224

/-- An error record's bytes as a number (R328). -/
def errorWord (evseq stamp typ ctx ssn queue status fn body : Nat) : Nat :=
  evseq % 2 ^ 64 + stamp % 2 ^ 64 * 2 ^ 64 + typ % 2 ^ 16 * 2 ^ 128 + ctx % 2 ^ 16 * 2 ^ 144 + ssn % 2 ^ 32 * 2 ^ 160
    + queue % 64 * 2 ^ 192 + status % 256 * 2 ^ 200 + fn % 1024 * 2 ^ 208 + body % 2 ^ 280 * 2 ^ 224

/-- Post a notice to a function (R325 to R327); a function being reset gets none (R455). -/
def State.postNotice (s : State) (fn code ctx d0 d1 queue : Nat) : State :=
  let w := eventWord s.ao.evseq.toNat s.btime.toNat code ctx d0 d1 queue
  let s1 := s.evseqNext
  let d := Dest.event (fnFin fn)
  if (s.fn fn).resetting then s1
  else if (s.fn fn).noticeMask.getLsbD code then
    s1.dropRecs d 1
  else s1.postRec d { size := 32, words := [w] }

/-- Post an error record, or a lead record with CONT records, to a function's error queue, with its copy for the PF
(R328, R329, R471, R473). Each part is a TYPE with its body from offset 28. -/
def State.postErrs (s : State) (fn ctx ssn queue status : Nat) (parts : List (Nat × Nat)) : State :=
  let ws := parts.mapIdx (fun i p =>
    errorWord (s.ao.evseq.toNat + i) s.btime.toNat p.1 ctx ssn queue status fn p.2)
  let s1 := parts.foldl (fun a _ => a.evseqNext) s
  let r : Rec := { size := 64, words := ws }
  let s2 := if (s.fn fn).resetting then s1 else s1.postRec (.error (fnFin fn)) r
  if fn ≠ 0 ∧ (s.fn 0).mirrorVf ∧ !(s.fn fn).resetting ∧ !(s.fn 0).resetting then s2.postRec (.error 0) r else s2

/-- Post one error record about a command, queue or context of a function. -/
def State.postErr (s : State) (fn ctx ssn queue status typ body : Nat) : State :=
  s.postErrs fn ctx ssn queue status [(typ, body)]

/-- Post one error record to the global error queue, which is the PF's (R329). -/
def State.postGlobal (s : State) (typ body : Nat) : State := s.postErrs 0 0xFFFF 0xFFFFFFFF 0 0 [(typ, body)]

/-- A body field of a record: value at a record offset of 28 or above. -/
def bodyAt (off v : Nat) : Nat := v * 2 ^ (8 * (off - 28))

/-- Write an entry to the journal (R496, R497). -/
def State.journal (s : State) (source prof req idx sub code old new : Nat) : State :=
  let w := s.ao.evseq.toNat + s.btime.toNat * 2 ^ 64 + s.ao.rtc.toNat * 2 ^ 128 + source % 16 * 2 ^ 192
    + prof % 8 * 2 ^ 200 + req % 2 ^ 16 * 2 ^ 208 + idx % 2 ^ 16 * 2 ^ 224 + sub % 256 * 2 ^ 240 + code % 256 * 2 ^ 248
    + old % 2 ^ 64 * 2 ^ 256 + new % 2 ^ 64 * 2 ^ 320
  s.evseqNext.postRec .journal { size := 64, words := [w] }

/-! ## Device memory of contexts (R347) -/

/-- Round up to a multiple. -/
def alignUp (a n : Nat) : Nat := (a + n - 1) / n * n

/-- [a, a + len) lies in compute units of the hide outside its firmware region and in no allocation. -/
def State.runFree (s : State) (h a len : Nat) : Bool :=
  (List.range ((a + len - 1) / 2 ^ 32 - a / 2 ^ 32 + 1)).all (fun i => s.devAllowed h ((a / 2 ^ 32 + i) * 2 ^ 32))
    && s.allocs.all (fun r => decide (r.base + r.len ≤ a) || decide (a + len ≤ r.base))

/-- The lowest free run of device memory of a hide, of a length and alignment (log 8). -/
def State.freeRun (s : State) (h len align : Nat) : Option Nat :=
  let starts := (s.computeUnits h).map (fun u => u * 2 ^ 32) ++ s.allocs.map (fun r => r.base + r.len)
  ((starts.map (fun a => alignUp a align)).filter (fun a => s.runFree h a len)).foldl
    (fun b a => match b with | none => some a | some x => some (min a x)) none

/-- Device bytes charged to a function, and to a context (R347). -/
def State.fnDev (s : State) (fn : Nat) : Nat := ((s.allocs.filter (fun r => r.fn == fn)).map (fun r => r.len)).sum
/-- Device bytes charged to a context (R347). -/
def State.ctxDev (s : State) (c : Nat) : Nat := ((s.allocs.filter (fun r => r.ctx == c)).map (fun r => r.len)).sum
/-- Device bytes allocated in a hide, in 4 KiB units (R447). -/
def State.hideDev (s : State) (h : Nat) : Nat :=
  ((s.allocs.filter (fun r => r.hide == h)).map (fun r => r.len)).sum / 4096

/-- The function's quota and the context's limit leave room for more bytes (R347, R382). -/
def State.devRoom (s : State) (fn c bytes : Nat) : Bool :=
  decide (s.fnDev fn + bytes ≤ s.fnKod fn 8 * 4096)
    && ((s.ctx c).memLimit == 0 || decide (s.ctxDev c + bytes ≤ (s.ctx c).memLimit * 4096))

/-- Zero device pages before they are mapped (R347). -/
def State.zeroRun (s : State) (a len : Nat) : State := { s with mem := s.mem.clear a len }

/-! ## Watermarks (R446 to R448) -/

/-- A loaded plan by block plan slot. -/
def State.plan? (s : State) (p : Nat) : Option Plan := tfind s.plans p

/-- The level that a watermark watches (R447). -/
def State.wmLevel (s : State) (n : Nat) : Nat :=
  if n < 256 then
    match s.plan? n with
    | some p => p.poolPages - p.free.length
    | none => 0
  else if n < 264 then s.hideDev (n - 256)
  else if n < 272 then
    (s.seqs.filter (fun e => e.2.state != 0 && (s.ctx e.2.ctx).hide == n - 264)).length
      + (s.hide (n - 264)).pendSeqs.length
  else 0

/-- A watermark's record. -/
def State.wm (s : State) (n : Nat) : Wm := tget s.wms n {}

/-- Change a watermark's record. -/
def State.updWm (s : State) (n : Nat) (f : Wm → Wm) : State := { s with wms := tupd s.wms n {} f }

/-- WM_MARK (R447). -/
def State.wmMark (s : State) (n : Nat) : Nat :=
  if n < 256 then (s.wm n).mark
  else if n < 264 then s.kodRun (0x3000 + (n - 256)) 0x0F
  else if n < 272 then s.kodRun (0x5000 + (n - 264)) 0x0B
  else 0

/-- Function and context that a watermark's notice goes to (R447). -/
def State.wmDest (s : State) (n : Nat) : Nat × Nat :=
  if n < 256 then
    match s.plan? n with
    | some p => (p.fn, p.ctx)
    | none => (0, 0xFFFF)
  else (0, 0xFFFF)

/-- A watched level has moved: set or clear ABOVE, count, latch and post (R448). -/
def State.wmCheck (s : State) (n : Nat) : State :=
  let w := s.wm n
  let lv := s.wmLevel n
  if n ≥ 272 || !w.enable then s
  else if !w.above && decide (s.wmMark n < lv) then
    let s1 := s.updWm n (fun w => { w with above := true, count := stick32 (w.count + 1), sticky := true })
    if w.sticky then s1 else s1.postNotice (s.wmDest n).1 2 (s.wmDest n).2 n (stick32 (w.count + 1)) 0
  else if w.above && decide (lv + w.hyst ≤ s.wmMark n) then s.updWm n (fun w => { w with above := false })
  else s

/-! ## Completion (R43 to R45, R304, R319 to R322, R331) -/

/-- Add, sticking at the largest value of w bits. -/
def stickAdd (w a b : Nat) : Nat := min (a + b) (2 ^ w - 1)

/-- The queue's QUEUE error record is written once no command accepted before the stop remains (R304). -/
def State.stopRecord (s : State) (fn q : Nat) : State :=
  let r := s.queue fn q
  if r.stopDue && (s.queueCmds fn q).isEmpty && r.order.isEmpty then
    (s.postErr fn r.ctx.toNat 0xFFFFFFFF q 0 0x000A (bodyAt 28 r.errCode + bodyAt 32 r.notWritten)).updQueue fn q
      (fun r => { r with stopDue := false })
  else s

/-- Stop a queue on an error (R299, R302, R304): it behaves as disabled, and the record is written at once for a bad doorbell
or configuration. -/
def State.stopQueue (s : State) (fn q code : Nat) : State :=
  let s1 := s.updQueue fn q (fun r => { r with stopped := true, errCode := code })
  if code ≤ 2 then s1.postErr fn (s.queue fn q).ctx.toNat 0xFFFFFFFF q 0 0x000A (bodyAt 28 code)
  else (s1.updQueue fn q (fun r => { r with stopDue := true, draining := true, fetched := [], dbPending := false })).stopRecord fn q

/-- Completion record bytes (R319, R320). -/
def cqWord (ssn st phase gen stamp : Nat) (errRec : Bool) : Nat :=
  ssn % 2 ^ 32 + st % 256 * 2 ^ 32 + phase * 2 ^ 40 + (if errRec then 1 else 0) * 2 ^ 41 + gen % 2 ^ 16 * 2 ^ 48
    + stamp % 2 ^ 64 * 2 ^ 64

/-- Send the completion vector when COUNT unsignalled records stand (R322). -/
def State.cqSignal (s : State) (fn q : Nat) : State :=
  let r := s.queue fn q
  let cnt := (r.cqInt.extractLsb' 0 8).toNat
  if cnt ≠ 0 ∧ cnt ≤ r.unsig then (s.msix fn (2 + q)).updQueue fn q (fun r => { r with unsig := 0 }) else s

/-- The I/O address of a queue's completion record at a count (R320). -/
def Queue.cqIo (r : Queue) (c : W32) : Nat := r.cqBase.toNat + 16 * (c.toNat % 2 ^ r.cqLog2)

/-- The queue writes no further completion record: it stopped on a ring error (R304). -/
def Queue.cqStopped (r : Queue) : Bool := r.stopped && decide (3 ≤ r.errCode)

/-- Write a completion record (R320 to R322); a stopped queue counts it instead (R304). -/
def State.writeCq (s : State) (fn q : Nat) (x : CqRec) : State :=
  let r := s.queue fn q
  if r.cqStopped then s.updQueue fn q (fun r => { r with notWritten := r.notWritten + 1 })
  else
    let w := cqWord x.ssn x.st (phaseOf r.cqTail.toNat r.cqLog2) x.gen x.stamp x.errRec
    ((s.ringPut fn (r.cqIo r.cqTail) (leBytes 16 w)).updQueue fn q
      (fun r => { r with cqTail := r.cqTail + 1, unsig := r.unsig + 1, wrOpen := true,
                         unsigFrom := if r.unsig = 0 then s.btime.toNat else r.unsigFrom })).cqSignal fn q

/-- A completion write that ATS refuses: as an error response to it (R304). -/
def State.cqRefused (s : State) (fn q : Nat) : State :=
  s.updQueue fn q (fun r => { r with stopped := true, errCode := 4, notWritten := r.notWritten + 1, stopDue := true,
                                     draining := true, fetched := [], dbPending := false })

/-- Write the completion records owed, in the order in which their statuses were decided, up to the first command that has
not completed or the first slot whose address must be asked for (R304, R321). -/
def State.flushCq (s : State) (fn q : Nat) : List CqEnt → State
  | [] => s.updQueue fn q (fun r => { r with order := [] })
  | e :: rest =>
    match e.rec_ with
    | none =>
      if (s.cmd? e.cid).isSome then s.updQueue fn q (fun r => { r with order := e :: rest }) else s.flushCq fn q rest
    | some x =>
      match (if (s.queue fn q).cqStopped then .ok else s.ringAt fn ((s.queue fn q).cqIo (s.queue fn q).cqTail) true) with
      | .ok => (s.writeCq fn q x).flushCq fn q rest
      | .refused => (s.cqRefused fn q).flushCq fn q rest
      | .ask io =>
        let t := s.updQueue fn q (fun r => { r with order := { e with asked := true } :: rest })
        if e.asked then t else t.emit (.atsRequest fn io)

/-- Write what a queue owes (R321). -/
def State.payCq (s : State) (fn q : Nat) : State := s.flushCq fn q (s.queue fn q).order

/-- A command's status is decided: its record has a place in its queue's order (R321). A plan stage has none. -/
def State.decided (s : State) (cid : Nat) : State :=
  match s.cmd? cid with
  | none => s
  | some c =>
    if c.stage.isSome then s
    else s.updQueue c.fn c.q (fun r =>
      if r.order.any (fun e => e.cid == cid) then r else { r with order := r.order ++ [{ cid := cid }] })

/-- The record of a command that completes takes the command's place. -/
def State.oweCq (s : State) (fn q cid : Nat) (x : CqRec) : State :=
  s.updQueue fn q (fun r => { r with order := r.order.map (fun e => if e.cid = cid then { e with rec_ := some x } else e) })

/-- Count a completion in its context (R370). -/
def State.countCompletion (s : State) (c st va : Nat) : State :=
  if c = 0xFFFF then s
  else
    s.updCtx c (fun x => { x with
      cmds := stickAdd 64 x.cmds 1,
      faults := if st = 0x12 ∨ st = 0x13 then stickAdd 32 x.faults 1 else x.faults,
      lastFaultVa := if st = 0x12 ∨ st = 0x13 then va else x.lastFaultVa })

/-- Remove every trace of a command from the engine queues. -/
def State.unqueue (s : State) (cid h : Nat) : State :=
  s.updHide h (fun x => { x with engQ := x.engQ.filter (fun i => i != cid),
                                 acre := { x.acre with wait := x.acre.wait.filter (fun i => i != cid) } })

/-- A command completes: its error record, its completion record and the counters (R44, R319 to R322, R331, R472). The one
record of a DEADLOCK was written when it was raised (R245).
An XLATE record's address is its body's first eight bytes. No record is written for a function being reset (R293). -/
def State.complete (s : State) (cid st : Nat) (err : Option ErrInfo) : State :=
  match s.cmd? cid with
  | none => s
  | some c =>
    let s1 :=
      match err with
      | some e => s.postErr c.fn c.ctx c.ssn c.q st e.typ e.body
      | none => s
    let va := match err with
      | some e => if e.typ = 2 then e.body % 2 ^ 64 else (s.ctx c.ctx).lastFaultVa
      | none => 0
    let s2 := if (s.fn c.fn).resetting then s1 else (s1.decided cid).oweCq c.fn c.q cid
      { ssn := c.ssn, st := st, gen := s.genOf c.ctx, stamp := s.btime.toNat, errRec := err.isSome || st == 0x1A }
    ((((s2.countCompletion c.ctx st va).dropCmd cid).unqueue cid c.hide).payCq c.fn c.q).stopRecord c.fn c.q

/-! ## Error bodies (R472) -/

/-- XLATE: address and condition. -/
def xlateErr (va cond : Nat) : ErrInfo := { typ := 2, body := bodyAt 28 va + bodyAt 36 cond }
/-- DESC: stage, field and bit (R580). -/
def descErr (stage field bit : Nat) : ErrInfo := { typ := 3, body := bodyAt 28 stage + bodyAt 29 bit + bodyAt 30 field }
/-- DESC with no single field. -/
def descNone (stage : Nat) : ErrInfo := descErr stage 0xFFFF 0
/-- COMMAND: reason and engine (R589). -/
def commandErr (reason engine : Nat) : ErrInfo := { typ := 0x18, body := bodyAt 28 reason + bodyAt 29 engine }
/-- HWFAIL: source, core and physical address. -/
def hwErr (source core pa : Nat) : ErrInfo := { typ := 8, body := bodyAt 28 source + bodyAt 30 core + bodyAt 32 pa }
/-- A core's place as records give it: furlong in bits 11:8, position in bits 4:0 (R472). -/
def coreField (i : Nat) : Nat := i / 17 * 256 + i % 17
/-- UNIT record body (R472). -/
def unitBody (core event hide spare : Nat) : Nat :=
  bodyAt 28 (coreField core) + bodyAt 30 event + bodyAt 31 hide + bodyAt 32 spare

/-- Block time in whole microseconds. -/
def State.us (s : State) : Nat := s.btime.toNat / 1000

end Sys2Proof.Machine
end

