-- ==== Sys2Proof/Machine/Dict.lean ====
section
/-! DEFINITION. The object dictionary's entries, their stored values and the values in effect, and the alarm log (R10,
R474 to R477, R484 to R488, R498, R525, R549, R582). -/

namespace Sys2Proof.Machine

/-! ## Entries (R474 to R476, R484 to R488, R525, R549) -/

/-- An entry: type code and size, access 0 CONST, 1 RO, 2 RW, 3 WO, persistence, kind 0 live, 1 hide-restart,
2 block-restart, the bits that are not reserved, and the values it takes. -/
structure KodEnt where
  ty : Nat
  size : Nat
  acc : Nat
  persist : Bool := false
  kind : Nat := 0
  lo : Nat := 0
  hi : Nat
  step : Nat := 1
  mask : Nat
deriving DecidableEq, Repr

/-- Size in bytes of a fixed-size type (R475). -/
def kodSize (ty : Nat) : Nat := if ty ≤ 1 then 1 else if ty = 2 then 2 else if ty = 4 then 8 else 4

/-- An entry of a fixed-size type whose whole range is allowed, not persistent. -/
def kodPlain (ty acc : Nat) : KodEnt :=
  { ty := ty, size := kodSize ty, acc := acc, hi := if ty = 0 then 1 else 2 ^ (8 * kodSize ty) - 1, mask := 2 ^ (8 * kodSize ty) - 1 }

/-- A persistent RW entry of a kind. -/
def kodPers (ty kind : Nat) : KodEnt := { kodPlain ty 2 with persist := true, kind := kind }

/-- A persistent RW entry with a range. -/
def kodRange (ty kind lo hi : Nat) : KodEnt := { kodPers ty kind with lo := lo, hi := hi }

/-- A BLOB. -/
def kodBlob (size acc : Nat) : KodEnt := { ty := 8, size := size, acc := acc, hi := 2 ^ (8 * size) - 1, mask := 2 ^ (8 * size) - 1 }

/-- Entries of the identity range (R486). -/
def entIdentity (idx sub : Nat) : Option KodEnt :=
  if idx = 0x1000 then
    (match sub with
      | 1 => some (kodPlain 2 0)
      | 2 => some (kodPlain 2 0)
      | 3 => some (kodPlain 2 0)
      | 4 => some (kodPlain 2 0)
      | 5 => some (kodPlain 1 0)
      | 6 => some (kodPlain 3 0)
      | 7 => some (kodPlain 3 1)
      | _ => none)
  else if idx = 0x1010 then (if sub < 16 then some (kodPlain 1 1) else none)
  else if 0x1020 ≤ idx ∧ idx < 0x1030 then (if sub ≤ 16 then some (kodPlain 1 1) else none)
  else if idx = 0x1030 then (if sub < 64 then some (kodBlob 16 0) else none)
  else if idx = 0x1040 then
    (if sub = 1 then some (kodBlob (12 * 2 ^ 20) 3) else if sub = 2 then some (kodPlain 3 3) else none)
  else none

/-- Entries of the profile range (R484, R488). -/
def entProfile (idx sub : Nat) : Option KodEnt :=
  if idx = 0x2000 then
    (match sub with
      | 1 => some (kodPlain 1 1)
      | 2 => some { kodPlain 1 3 with mask := 0x83 }
      | 3 => some (kodPlain 1 1)
      | 4 => some { kodPlain 1 2 with hi := 1 }
      | 5 => some (kodPlain 2 1)
      | 6 => some { kodPlain 2 3 with mask := 0x303 }
      | _ => none)
  else if idx = 0x2010 then
    (match sub with
      | 1 => some (kodPlain 0 0)
      | 2 => some (kodPers 0 0)
      | 3 => some (kodPers 0 0)
      | _ => none)
  else none

/-- Entries of a hide's range 0x3000 + h (R486). -/
def entHide (sub : Nat) : Option KodEnt :=
  match sub with
  | 0x01 => some (kodPers 0 1)
  | 0x02 => some { kodPers 2 1 with mask := 0xFFF }
  | 0x03 => some (kodRange 1 1 1 4)
  | 0x04 => some (kodPers 2 1)
  | 0x05 => some (kodRange 1 0 0 16)
  | 0x06 => some (kodRange 1 0 0 16)
  | 0x07 => some (kodRange 1 0 0 16)
  | 0x08 => some { kodRange 2 0 0 1024 with step := 8 }
  | 0x09 => some (kodRange 1 0 0 64)
  | 0x0A => some (kodPers 0 0)
  | 0x0B => some (kodRange 1 0 0 32)
  | 0x0C => some (kodPers 2 0)
  | 0x0D => some (kodPers 0 0)
  | 0x0E => some (kodPers 0 0)
  | 0x0F => some (kodPers 3 0)
  | 0x10 => some { kodPlain 1 3 with lo := 1, hi := 2 }
  | _ => none

/-- Entries of the hides and resources range (R486). -/
def entHides (idx sub : Nat) : Option KodEnt :=
  if idx < 0x3008 then entHide sub
  else if idx = 0x3010 then
    (if sub < 0xC0 then some { kodRange 1 1 0 0x2F with mask := 0x3F } else none)
  else if idx = 0x3020 then (if sub < 16 then some { kodPers 1 0 with mask := 0x8F } else none)
  else if 0x3030 ≤ idx ∧ idx < 0x3038 then
    (match sub with
      | 1 => some (kodBlob (16 * 2 ^ 10) 3)
      | 2 => some (kodPlain 3 3)
      | 3 => some (kodPlain 0 3)
      | _ => none)
  else none

/-- Entries of the pace range (R486, R525). -/
def entPace (idx sub : Nat) : Option KodEnt :=
  if idx = 0x4000 then
    (match sub with
      | 0x01 => some (kodRange 2 0 250 1050)
      | 0x02 => some (kodRange 2 0 1500 2400)
      | 0x03 => some (kodPlain 2 0)
      | 0x04 => some (kodRange 1 0 80 105)
      | 0x05 => some (kodPlain 2 1)
      | 0x06 => some (kodPlain 2 1)
      | 0x07 => some (kodPlain 2 1)
      | 0x08 => some (kodPlain 1 1)
      | 0x09 => some (kodPlain 5 1)
      | 0x0A => some (kodBlob 32 1)
      | 0x0B => some { kodBlob 16 2 with persist := true }
      | n => if n < 0x14 ∧ 0x0C ≤ n then some (kodPers 3 0) else none)
  else if idx = 0x4010 then
    (match sub with
      | 1 => some (kodPlain 4 2)
      | 2 => some (kodPers 0 0)
      | 3 => some (kodRange 1 0 0 1)
      | 4 => some (kodPlain 1 1)
      | _ => none)
  else if idx = 0x4020 then (if sub < 8 then some (kodPlain 1 1) else none)
  else none

/-- Entries of the scheduling range (R259, R393, R403, R456, R486, R582). -/
def entSched (idx sub : Nat) : Option KodEnt :=
  if idx < 0x5008 then
    (match sub with
      | 0x01 => some (kodRange 3 0 10 1000000)
      | 0x02 => some (kodRange 3 0 10 1000000)
      | 0x03 => some (kodRange 3 0 10 1000000)
      | 0x04 => some (kodRange 3 0 10 1000000)
      | 0x05 => some (kodRange 3 0 10 10000)
      | 0x06 => some (kodRange 3 0 10 10000)
      | 0x07 => some (kodRange 3 0 1 64)
      | 0x08 => some (kodRange 3 0 100 100000)
      | 0x09 => some (kodRange 3 0 100 100000)
      | 0x0A => some (kodPers 2 0)
      | 0x0B => some (kodPers 2 0)
      | _ => none)
  else if 0x5010 ≤ idx ∧ idx < 0x5018 then some { kodPers 2 0 with mask := 0x1FF }
  else if idx = 0x50FF then (if sub = 1 then some (kodRange 3 0 1 (2 ^ 32 - 1)) else none)
  else none

/-- Entries of the telemetry range (R486). -/
def entTele (idx sub : Nat) : Option KodEnt :=
  if idx < 0x6008 then (if sub = 0 then some (kodBlob 40 1) else none)
  else if 0x6400 ≤ idx ∧ idx < 0x6440 then some (kodBlob 136 1)
  else if 0x6800 ≤ idx ∧ idx < 0x6810 then some (kodBlob 128 1)
  else if idx = 0x6A00 then (if sub < 255 then some (kodBlob 24 1) else none)
  else none

/-- Entries of the per-function range (R381, R486). -/
def entFn (idx sub : Nat) : Option KodEnt :=
  if idx = 0x7FFF then (if sub = 1 then some (kodRange 2 2 0 512) else none)
  else if idx ≤ 0x7200 then
    (match sub with
      | 1 => some { kodPers 1 0 with mask := 0xF }
      | 2 => some (kodPers 0 0)
      | 3 => some { kodPers 1 0 with mask := 0xF }
      | 4 => some (kodPers 0 0)
      | 5 => some (kodPers 2 0)
      | 6 => some (kodPers 2 0)
      | 7 => some (kodPers 2 0)
      | 8 => some (kodPers 3 0)
      | _ => none)
  else none

/-- Entries of the link range (R486, R549). -/
def entLink (idx sub : Nat) : Option KodEnt :=
  if idx = 0x8000 then
    (match sub with
      | 1 => some (kodRange 2 2 0 16383)
      | 2 => some { kodBlob 4096 2 with persist := true, kind := 2 }
      | 3 => some (kodPers 3 2)
      | 4 => some (kodRange 3 0 100 100000)
      | 5 => some (kodPers 2 0)
      | 6 => some (kodPlain 1 1)
      | 7 => some (kodPlain 3 1)
      | 8 => some (kodPlain 2 1)
      | _ => none)
  else if idx = 0x8010 then (if sub < 32 then some (kodBlob 16 1) else none)
  else if 0x8020 ≤ idx ∧ idx < 0x8060 then some (kodPlain 1 1)
  else none

/-- Entries of the journal range (R486, R498; the type of 0x9200:0x40 the manual leaves open, log 26). -/
def entJournal (idx sub : Nat) : Option KodEnt :=
  if idx = 0x9000 then
    (match sub with
      | 1 => some (kodPlain 4 1)
      | 2 => some (kodPlain 4 1)
      | 3 => some (kodBlob (2 ^ 20) 1)
      | _ => none)
  else if idx = 0x9100 ∨ idx = 0x9101 then some (kodBlob 64 1)
  else if idx = 0x9200 then (if sub < 64 then some (kodBlob 32 1) else if sub = 64 then some (kodPlain 4 1) else none)
  else none

/-- Entries of the integrator's range (R485): their values are not interpreted. -/
def entInteg (idx sub : Nat) : Option KodEnt :=
  (Config.integratorEntry idx sub).map (fun e =>
    { ty := e.ty, size := e.size, acc := e.acc, persist := e.persist, kind := e.kind,
      hi := 2 ^ (8 * e.size) - 1, mask := 2 ^ (8 * e.size) - 1 })

/-- The entry of a name; a name that no entry carries is absent (R10, R474, R485). -/
def kodEntry (idx sub : Nat) : Option KodEnt :=
  if idx < 0x1000 then none
  else if idx < 0x2000 then entIdentity idx sub
  else if idx < 0x3000 then entProfile idx sub
  else if idx < 0x4000 then entHides idx sub
  else if idx < 0x5000 then entPace idx sub
  else if idx < 0x6000 then entSched idx sub
  else if idx < 0x7000 then entTele idx sub
  else if idx < 0x8000 then entFn idx sub
  else if idx < 0x9000 then entLink idx sub
  else if idx < 0xA000 then entJournal idx sub
  else if 0xF000 ≤ idx ∧ idx < 0x10000 then entInteg idx sub
  else none

/-- A value lies in the entry's range; reserved bits are not looked at (R9, R479). -/
def KodEnt.ok (e : KodEnt) (v : Nat) : Bool := decide (e.lo ≤ v) && decide (v ≤ e.hi) && v % e.step == 0

/-- The bits of a value that the entry keeps (R9). -/
def KodEnt.keep (e : KodEnt) (v : Nat) : Nat := if e.mask + 1 = 2 ^ (8 * e.size) then v else v &&& e.mask

/-! ## Stored values (R477, R487, R582) -/

/-- Default of any entry: the manual's, the integrator's, or unstated (R478; log 26). -/
def State.dfltOf (_ : State) (idx sub : Nat) : Nat :=
  if 0xF000 ≤ idx then (match Config.integratorEntry idx sub with | some e => e.dflt | none => 0)
  else kodDefault idx sub

/-- The stored value of an entry in a profile. -/
def State.storedVal (s : State) (p idx sub : Nat) : Nat :=
  tget (tget s.kod.stored p []) (kodKey idx sub) (s.dfltOf idx sub)

/-- Change a stored value; it is committed later (R495). -/
def State.setStored (s : State) (p idx sub v : Nat) : State :=
  { s with kod := { s.kod with stored := tset s.kod.stored p (tset (tget s.kod.stored p []) (kodKey idx sub) v)
                               dirty := linsert s.kod.dirty p } }

/-- What a profile gives an entry as a running value: its default where the stored value is out of range (R582). -/
def State.profVal (s : State) (p idx sub : Nat) : Nat :=
  match kodEntry idx sub with
  | some e => if e.ok (s.storedVal p idx sub) then s.storedVal p idx sub else s.dfltOf idx sub
  | none => s.dfltOf idx sub

/-- The journal entry for a stored value that is never used (R582). -/
def State.journalDefault (s : State) (p idx sub : Nat) : State :=
  if s.profVal p idx sub = s.storedVal p idx sub then s
  else s.journal 3 7 0 idx sub 0x13 (s.storedVal p idx sub) (s.profVal p idx sub)

/-- Names that a profile or the values in effect list; all others hold their defaults. -/
def State.listedKeys (s : State) (p : Nat) : List Nat :=
  ((tget s.kod.stored p []).map (fun e => e.1) ++ s.kod.run.map (fun e => e.1)).foldl linsert []

/-! ## Restart fields (R477, R488) -/

/-- Stack Ports of a hide. -/
def State.portsOfHide (s : State) (h : Nat) : List Nat :=
  (List.range 12).filter (fun p => nbit (s.kodRun (0x3000 + h) 2) p)

/-- PD_Snn is on exactly for the ports that belong to a hide (R35). -/
def State.powerPorts (s : State) : State :=
  { s with pow := { s.pow with sOn := (s.hideList.flatMap s.portsOfHide).foldl linsert [] } }

/-- Ports that a mask of 0x3000+h:02 names. -/
def portCount (mask : Nat) : Nat := ((List.range 12).filter (fun p => nbit mask p)).length

/-- The unit value gives a hide the unit. -/
def unitIn (h v : Nat) : Bool := nbits v 5 4 != 0 && v % 16 == h

/-- Units in effect for a hide. -/
def State.unitsHeld (s : State) (h : Nat) : List Nat := (List.range 0xC0).filter (fun u => unitIn h (s.kodRun 0x3010 u))

/-- The hide has its 16n units for n Stack Ports already: it takes no further one (R50). -/
def State.unitsFull (s : State) (h : Nat) : Bool :=
  decide (16 * portCount (s.kodRun (0x3000 + h) 2) ≤ (s.unitsHeld h).length)

/-- Units beyond 16n of a hide, in ascending index, are no hide's (R50; log 25). -/
def State.capUnits (s : State) (h : Nat) : State :=
  ((s.unitsHeld h).drop (16 * portCount (s.kodRun (0x3000 + h) 2))).foldl (fun t u => t.setRun 0x3010 u 0) s

/-- The hide of a unit's entry: the one that has the unit, else the one that the stored value gives it (log 25). -/
def State.unitOwner (s : State) (u : Nat) : Option Nat :=
  let v := s.kodRun 0x3010 u
  let w := s.storedVal s.kod.active 0x3010 u
  if nbits v 5 4 ≠ 0 then some (v % 16) else if nbits w 5 4 ≠ 0 then some (w % 16) else none

/-- Hide-restart names of a hide: 0x3000 + h : 01 to 04 and its units. -/
def State.hideKeys (s : State) (h : Nat) : List (Nat × Nat) :=
  [1, 2, 3, 4].map (fun i => (0x3000 + h, i))
    ++ ((List.range 0xC0).filter (fun u => s.unitOwner u == some h)).map (fun u => (0x3010, u))

/-- Hide-restart values of a hide differ from those in effect (R490). -/
def State.hidePending (s : State) (h : Nat) : Bool :=
  (s.hideKeys h).any (fun k => s.profVal s.kod.active k.1 k.2 != s.kodRun k.1 k.2)

/-- One restart value takes effect; a unit that changes hands loses its contents (R466, R477). A unit whose new hide has
its 16n already is no hide's until that hide's own reset (R50; log 25). -/
def State.applyRestart (s : State) (idx sub : Nat) : State :=
  let w := s.profVal s.kod.active idx sub
  let v := if idx = 0x3010 ∧ nbits w 5 4 ≠ 0 ∧ !unitIn (w % 16) (s.kodRun idx sub) ∧ s.unitsFull (w % 16) then 0 else w
  if s.kodRun idx sub = v then s
  else
    let s1 := (s.journalDefault s.kod.active idx sub).setRun idx sub v
    if idx = 0x3010 then
      { s1 with mem := s1.mem.clear (sub * 2 ^ 32) (2 ^ 32)
                exposed := s1.exposed.filter (fun e => e.1 / 2 ^ 32 != sub)
                scrubbed := s1.scrubbed.filter (fun u => u != sub) }
    else s1

/-- A full hide reset makes the hide's restart values take effect (R373, R477): ports first, then the units that leave it,
then those that join; the power domains of the Stack Ports follow (R35). -/
def State.applyHide (s : State) (h : Nat) : State :=
  let leaves := fun (k : Nat × Nat) => k.1 == 0x3010 && !unitIn h (s.profVal s.kod.active k.1 k.2)
  let ks := s.hideKeys h
  (((ks.filter (fun k => k.1 != 0x3010) ++ ks.filter leaves
    ++ ks.filter (fun k => k.1 == 0x3010 && !leaves k)).foldl (fun t k => t.applyRestart k.1 k.2) s).capUnits h).powerPorts

/-! ## Readiness of functions (R290, R529) -/

/-- READY of a function: its hide has started, or it has none and EG_MODE is SERVICE. -/
def State.refreshReady (s : State) (n : Nat) : State :=
  if (s.fn n).resetting then s
  else
    let on := match s.fnHide n with
      | some h => (s.hide h).started
      | none => s.eg.mode == 0 && s.pow.boot == .service
    if (s.fn n).ready = on then s else s.updFn n (fun r => { r with ready := on })

/-- READY of every function. -/
def State.refreshAll (s : State) : State := (List.range 513).foldl (fun t n => t.refreshReady n) s

/-! ## The alarm log (R498, R513 to R515) -/

/-- An alarm entry. -/
def State.alarm (s : State) (i : Nat) : Alarm := tget s.ao.alarms i {}

/-- The slot that a new alarm takes: an empty one, else the oldest posted one. -/
def State.alarmSlot (s : State) : Option Nat :=
  match (List.range 64).find? (fun i => !(s.alarm i).valid) with
  | some i => some i
  | none =>
    ((List.range 64).filter (fun i => (s.alarm i).posted)).foldl (fun b i =>
      match b with
      | none => some i
      | some j => if (s.alarm i).rtc < (s.alarm j).rtc then some i else some j) none

/-- Log an alarm; its code-specific data the manual leaves open (log 4). -/
def State.logAlarm (s : State) (code : Nat) : State :=
  match s.alarmSlot with
  | some i =>
    let a : Alarm := { rtc := s.ao.rtc, code := code, posted := false, data := s.freshVal 32, valid := true }
    { s.freshNext with ao := { s.ao with alarms := tset s.ao.alarms i a } }
  | none => { s with ao := { s.ao with overflow := s.ao.overflow + 1 } }

/-- Unposted entries, in ascending real-time stamp, ties in ascending index (R515). -/
def State.unposted (s : State) : List Nat :=
  sortBy (fun i j => decide ((s.alarm i).rtc < (s.alarm j).rtc))
    ((List.range 64).filter (fun i => (s.alarm i).valid && !(s.alarm i).posted))

/-- Decide the ALARM record of an entry and set POSTED (R472, R515). -/
def State.postAlarm (s : State) (i : Nat) : State :=
  let a := s.alarm i
  let s1 := s.postGlobal 0x13 (bodyAt 28 a.code + bodyAt 29 i + bodyAt 32 a.rtc.toNat)
  { s1 with ao := { s1.ao with alarms := tupd s1.ao.alarms i {} (fun x => { x with posted := true }) } }

/-- Post every unposted alarm, once firmware runs and the PF error queue is enabled (R515). -/
def State.postAlarms (s : State) : State :=
  if s.pow.fwUp && (s.fn 0).erq.enabled then s.unposted.foldl (fun t i => t.postAlarm i) s else s

/-- A config store failure or a fallback: an alarm log entry and an ALARM error record (R495). -/
def State.storeAlarm (s : State) : State := (s.logAlarm 6).postAlarms

/-! ## The Config Port and the config store's layout (R492, R493, R568) -/

/-- The SFDP table is read in single-SPI mode at 25 MHz; from then on the flash takes 4-byte addresses (R568;
log 50). -/
def State.flashDiscover (s : State) : State :=
  (({ s with kod := { s.kod with flashQuad := some Config.flashQuad, flashAddr4 := true } } : State).emit
    (.cfg (.sfdp 25))).emit (.cfg .addr4)

/-- A read of the flash: quad I/O at 100 MHz where its table gives that, else single-SPI at 25 MHz (R568). -/
def State.flashRead (s : State) (addr len : Nat) : State :=
  s.emit (.cfg (if s.kod.flashQuad = some true then .read true 100 addr len else .read false 25 addr len))

/-- Every 4 KiB sector of [addr, addr + len) is erased (R568); addr is a sector's start. -/
def State.flashErase (s : State) (addr len : Nat) : State :=
  (List.range ((len + 4095) / 4096)).foldl (fun t i => t.emit (.cfg (.erase (addr + 4096 * i)))) s

/-- Bytes are programmed page by page of 256 bytes (R568); `fuel` bounds the pages. -/
def State.flashPages (s : State) (addr : Nat) (bs : List Byte) : Nat → State
  | 0 => s
  | n + 1 =>
    if bs.isEmpty then s
    else
      let k := 256 - addr % 256
      (s.emit (.cfg (.program addr (bs.take k)))).flashPages (addr + k) (bs.drop k) n

/-- Bytes are programmed (R568). -/
def State.flashProgram (s : State) (addr : Nat) (bs : List Byte) : State := s.flashPages addr bs (bs.length / 256 + 2)

/-- Erased, programmed and read back to be checked (R493, R495, R568). -/
def State.flashWrite (s : State) (addr : Nat) (bs : List Byte) : State :=
  ((s.flashErase addr bs.length).flashProgram addr bs).flashRead addr bs.length

/-- Where copy i of profile p lies (R492). -/
def profAt (p i : Nat) : Nat := 0x10000 + 0x20000 * p + 0x10000 * i

/-- Where a firmware slot lies (R492). -/
def fwAt (i : Nat) : Nat := if i = 0 then 0x400000 else 0x1000000

/-- Bytes of a firmware slot (R492). -/
def fwLen : Nat := 12 * 2 ^ 20

/-- Where hide h's shift program slot lies (R492). -/
def shiftAt (h : Nat) : Nat := 0x200000 + 0x4000 * h

/-- A header or profile copy: its frame of 32 bytes, then its body (R493). -/
def framed (prof : Nat) (seq : W32) (evseq : Nat) (body : List Byte) : List Byte :=
  leBytes 2 0x0100 ++ leBytes 2 prof ++ leBytes 4 seq.toNat ++ leBytes 4 body.length ++ leBytes 4 (crc32 body).toNat
    ++ leBytes 8 evseq ++ leBytes 8 0 ++ body

/-- The header's new copy goes over the other one; a failed program leaves the old one in use (R493, R494). -/
def State.writeHeader (s : State) (ok : Bool) : State :=
  let i := 1 - s.kod.hdrAt
  let q := s.kod.hdrSeq + 1
  let s1 := s.flashWrite (0x1000 * i) (framed 0 q s.ao.newest.toNat
    (Config.headerBody s.kod.fwNext s.kod.bootSource s.kod.lastActive))
  if ok then { s1 with kod := { s1.kod with hdrAt := i, hdrSeq := q } } else s1

/-- The image of a shift program as its slot holds it (R135). -/
def shiftImage (p : Shift) : List Byte :=
  let ws := p.words.flatMap (fun w => leBytes 8 w.toNat)
  leBytes 4 p.id ++ leBytes 2 0x0100 ++ leBytes 2 p.words.length ++ leBytes 4 (crc32 ws).toNat ++ leBytes 20 0 ++ ws

/-- The program in a hide's slot is read for its active bank (R135, R140, R492). -/
def State.readShift (s : State) (h : Nat) : State := s.flashRead (shiftAt h) 0x4000

end Sys2Proof.Machine
end

