-- ==== Sys2Proof/Machine/Numeric.lean ====
section
/-! DEFINITION. Number formats, rounding and floating-point arithmetic (ch. 2, R53 to R98, R179 to R182). -/

namespace Sys2Proof.Machine

/-- A value of a floating-point format: NaN, infinity, or a signed dyadic number. -/
inductive FV
  | nan
  | inf (neg : Bool)
  | fin (neg : Bool) (m : Nat) (e : Int)
deriving DecidableEq, Repr

/-- A quotient before rounding: NaN, infinity, or a signed n / d · 2^e. -/
inductive FQ
  | nan
  | inf (neg : Bool)
  | fin (neg : Bool) (n d : Nat) (e : Int)
deriving DecidableEq, Repr

/-- A floating-point format (R61): exponent and mantissa bits, bias, and its special codes: 0 none, 1 one NaN, 2 IEEE. -/
structure FFmt where
  eb : Nat
  mb : Nat
  bias : Nat
  kind : Nat
deriving DecidableEq, Repr

/-- F4 E2M1 (R61). -/
def fF4 : FFmt := { eb := 2, mb := 1, bias := 1, kind := 0 }
/-- F6a E3M2 (R61). -/
def fF6a : FFmt := { eb := 3, mb := 2, bias := 3, kind := 0 }
/-- F6b E2M3 (R61). -/
def fF6b : FFmt := { eb := 2, mb := 3, bias := 1, kind := 0 }
/-- F8a E4M3 (R61). -/
def fF8a : FFmt := { eb := 4, mb := 3, bias := 7, kind := 1 }
/-- F8b E5M2 (R61). -/
def fF8b : FFmt := { eb := 5, mb := 2, bias := 15, kind := 2 }
/-- BF16 (R61). -/
def fBF16 : FFmt := { eb := 8, mb := 7, bias := 127, kind := 2 }
/-- F16 (R61). -/
def fF16 : FFmt := { eb := 5, mb := 10, bias := 15, kind := 2 }
/-- F32 (R61). -/
def fF32 : FFmt := { eb := 8, mb := 23, bias := 127, kind := 2 }

/-- Width of a format code in bits (R53). -/
def fmtWidth (f : Nat) : Nat :=
  match f with
  | 0x0 => 1
  | 0x1 => 2
  | 0x2 => 2
  | 0x3 => 3
  | 0x4 => 4
  | 0x5 => 4
  | 0x6 => 4
  | 0x7 => 6
  | 0x8 => 6
  | 0x9 => 8
  | 0xA => 8
  | 0xB => 8
  | 0xC => 16
  | 0xD => 16
  | _ => 32

/-- The floating-point format of a format code. -/
def fmtFloat (f : Nat) : Option FFmt :=
  match f with
  | 0x5 => some fF4
  | 0x7 => some fF6a
  | 0x8 => some fF6b
  | 0xA => some fF8a
  | 0xB => some fF8b
  | 0xC => some fBF16
  | 0xD => some fF16
  | 0xE => some fF32
  | _ => none

/-- An exact format (R55). -/
def fmtExact (f : Nat) : Bool := decide (f ≤ 0x0B)
/-- May be an acre operand (R53). -/
def fmtOperand (f : Nat) : Bool := decide (f ≤ 0x0D)
/-- May be an acre output (R53). -/
def fmtOutput (f : Nat) : Bool := decide (f ≤ 0x0F) && f != 0 && f != 1 && f != 6
/-- Read in the bit-plane layout (R64). -/
def fmtPlanes (f : Nat) : Bool := decide (f ≤ 0x02)

/-! ## Decoding (R57 to R61, R69) -/

/-- The value of a code of a floating-point format. -/
def decodeFloat (f : FFmt) (c : Nat) : FV :=
  let neg := nbit c (f.eb + f.mb)
  let ex := nbits c (f.eb + f.mb - 1) f.mb
  let mn := c % 2 ^ f.mb
  if f.kind = 2 ∧ ex = 2 ^ f.eb - 1 then (if mn = 0 then .inf neg else .nan)
  else if f.kind = 1 ∧ ex = 2 ^ f.eb - 1 ∧ mn = 2 ^ f.mb - 1 then .nan
  else if ex = 0 then .fin neg mn (1 - (f.bias : Int) - f.mb)
  else .fin neg (2 ^ f.mb + mn) ((ex : Int) - f.bias - f.mb)

/-- An integer as a dyadic value. -/
def FV.ofInt (i : Int) : FV := .fin (decide (i < 0)) i.natAbs 0

/-- The value of a code of an exact or 16-bit format; LUT4 through a 16-byte codebook (R57 to R61). -/
def decodeFmt (f lut c : Nat) : FV :=
  match fmtFloat f with
  | some ff => decodeFloat ff c
  | none =>
    if f = 0 then FV.ofInt (if c % 2 = 0 then 1 else -1)
    else if f = 1 then (if nbit c 0 then FV.ofInt (if nbit c 1 then -1 else 1) else FV.ofInt 0)
    else if f = 6 then FV.ofInt (toSigned 8 (nbits lut (8 * (c % 16) + 7) (8 * (c % 16))))
    else FV.ofInt (toSigned (fmtWidth f) c)

/-- An E8M0 scale (R69). -/
def decodeE8M0 (c : Nat) : FV := if c = 0xFF then .nan else .fin false 1 ((c : Int) - 127)

/-! ## Exact arithmetic on dyadic values -/

/-- A finite value as an integer at an exponent at or below its own. -/
def alignInt (neg : Bool) (m : Nat) (e : Int) (at_ : Int) : Int :=
  (if neg then -1 else 1) * ((m * 2 ^ (e - at_).toNat : Nat) : Int)

/-- The sign of an exact zero sum: negative only when both are (IEEE 754, R75). -/
def exactAdd (a b : FV) : FV :=
  match a, b with
  | .nan, _ => .nan
  | _, .nan => .nan
  | .inf s, .inf t => if s = t then .inf s else .nan
  | .inf s, _ => .inf s
  | _, .inf t => .inf t
  | .fin s m e, .fin t n k =>
    let at_ := min e k
    let v := alignInt s m e at_ + alignInt t n k at_
    if v = 0 then .fin (s && t && decide (m = 0) && decide (n = 0)) 0 at_ else .fin (decide (v < 0)) v.natAbs at_

/-- Exact product; infinity times zero is NaN. -/
def exactMul (a b : FV) : FV :=
  match a, b with
  | .nan, _ => .nan
  | _, .nan => .nan
  | .inf s, .inf t => .inf (s != t)
  | .inf s, .fin t n _ => if n = 0 then .nan else .inf (s != t)
  | .fin s m _, .inf t => if m = 0 then .nan else .inf (s != t)
  | .fin s m e, .fin t n k => .fin (s != t) (m * n) (e + k)

/-- The same value as a quotient. -/
def FV.toQ (a : FV) : FQ :=
  match a with
  | .nan => .nan
  | .inf s => .inf s
  | .fin s m e => .fin s m 1 e

/-- Exact quotient (IEEE 754 special cases). -/
def exactDiv (a b : FV) : FQ :=
  match a, b with
  | .nan, _ => .nan
  | _, .nan => .nan
  | .inf _, .inf _ => .nan
  | .inf s, .fin t _ _ => .inf (s != t)
  | .fin s _ _, .inf t => .fin (s != t) 0 1 0
  | .fin s m e, .fin t n k =>
    if n = 0 then (if m = 0 then .nan else .inf (s != t)) else .fin (s != t) m n (e - k)

/-- Negate. -/
def FV.neg (a : FV) : FV :=
  match a with
  | .nan => .nan
  | .inf s => .inf (!s)
  | .fin s m e => .fin (!s) m e

/-- The sign of a value; a NaN has none. -/
def FV.isNeg (a : FV) : Bool :=
  match a with
  | .nan => false
  | .inf s => s
  | .fin s _ _ => s

/-- a < b as real numbers; false with a NaN. -/
def FV.lt (a b : FV) : Bool :=
  match a, b with
  | .nan, _ => false
  | _, .nan => false
  | .inf s, .inf t => s && !t
  | .inf s, _ => s
  | _, .inf t => !t
  | .fin s m e, .fin t n k => decide (alignInt s m e (min e k) < alignInt t n k (min e k))

/-- a = b as real numbers; false with a NaN. -/
def FV.eq (a b : FV) : Bool := a != .nan && b != .nan && !a.lt b && !b.lt a

/-- Magnitude. -/
def FV.abs (a : FV) : FV :=
  match a with
  | .nan => .nan
  | .inf _ => .inf false
  | .fin _ m e => .fin false m e

/-! ## Rounding (R89 to R93) -/

/-- A rounding mode; a stochastic one with its draw (R93). -/
inductive Rnd
  | rne
  | rtz
  | sr (draw : Nat)
deriving DecidableEq, Repr

/-- floor(log2(n / d)) for positive n and d. -/
def floorLog2Q (n d : Nat) : Int :=
  let k : Int := (Nat.log2 n : Int) - Nat.log2 d
  if (if 0 ≤ k then decide (d * 2 ^ k.toNat ≤ n) else decide (d ≤ n * 2 ^ (-k).toNat)) then k else k - 1

/-- n / d · 2^e over the unit 2^u, as numerator and denominator. -/
def overUnit (n d : Nat) (e u : Int) : Nat × Nat := (n * 2 ^ (e - u).toNat, d * 2 ^ (u - e).toNat)

/-- Round num / den up from its floor, or not. -/
def roundUp (r : Rnd) (num den : Nat) : Bool :=
  let rem := num % den
  match r with
  | .rne => decide (den < 2 * rem) || (2 * rem == den && num / den % 2 == 1)
  | .rtz => false
  | .sr draw => decide (draw < rem * 2 ^ 32 / den)

/-- Magnitude code of a positive quotient on a format's grid with no upper limit to its exponent (R90, R91). -/
def roundMag (f : FFmt) (r : Rnd) (n d : Nat) (e : Int) : Nat :=
  if n = 0 then 0
  else
    let low : Int := 1 - (f.bias : Int) - f.mb
    let u := max (floorLog2Q n d + e - f.mb) low
    let q := overUnit n d e u
    let t := q.1 / q.2 + (if roundUp r q.1 q.2 then 1 else 0)
    (u - low).toNat * 2 ^ f.mb + t

/-- The code of the largest finite magnitude. -/
def maxMag (f : FFmt) : Nat :=
  if f.kind = 0 then 2 ^ (f.eb + f.mb) - 1
  else if f.kind = 1 then 2 ^ (f.eb + f.mb) - 2
  else (2 ^ f.eb - 1) * 2 ^ f.mb - 1

/-- The canonical NaN (R62). -/
def canonNaN (f : FFmt) : Nat :=
  if f.kind = 1 ∨ f.mb = 2 then 0x7F else (2 ^ f.eb - 1) * 2 ^ f.mb + 2 ^ (f.mb - 1)

/-- n / d · 2^e is above the value of a magnitude code of a format. -/
def aboveMag (f : FFmt) (c n d : Nat) (e : Int) : Bool :=
  match decodeFloat f c with
  | .fin _ m k =>
    let at_ := min e k
    decide (m * 2 ^ (k - at_).toNat * d < n * 2 ^ (e - at_).toNat)
  | _ => false

/-- A sign and a magnitude code. -/
def signed (f : FFmt) (neg : Bool) (c : Nat) : Nat := (if neg then 2 ^ (f.eb + f.mb) else 0) + c

/-- Conversion to BF16, F16 and F32 (R91). -/
def roundIeee (f : FFmt) (r : Rnd) (x : FQ) : Nat :=
  match x with
  | .nan => canonNaN f
  | .inf s => signed f s ((2 ^ f.eb - 1) * 2 ^ f.mb)
  | .fin s n d e =>
    match r with
    | .sr _ =>
      if aboveMag f (maxMag f) n d e then signed f s ((2 ^ f.eb - 1) * 2 ^ f.mb) else signed f s (roundMag f r n d e)
    | .rne => signed f s (min (roundMag f .rne n d e) ((2 ^ f.eb - 1) * 2 ^ f.mb))
    | .rtz => signed f s (min (roundMag f .rtz n d e) (maxMag f))

/-- Round to an integer magnitude. -/
def roundInt (r : Rnd) (n d : Nat) (e : Int) : Nat :=
  let q := overUnit n d e 0
  q.1 / q.2 + (if roundUp r q.1 q.2 then 1 else 0)

/-- The largest magnitude of an integer format or T2, by sign. -/
def intMax (f : Nat) (neg : Bool) : Nat :=
  if f = 1 then 1 else if neg then 2 ^ (fmtWidth f - 1) else 2 ^ (fmtWidth f - 1) - 1

/-- The code of an integer in an integer format or T2 (R57, R58). -/
def intCode (f : Nat) (neg : Bool) (m : Nat) : Nat :=
  if f = 1 then (if m = 0 then 0 else if neg then 3 else 1)
  else ofSigned (fmtWidth f) (if neg then -(m : Int) else m)

/-- Round the quotient of a y by its scale into an exact format other than B1 and LUT4: code, and whether it saturated or
was replaced (R90, R93). A result of zero in a float format takes the sign of y, whatever the scale's sign (R90 item 3).
Item 2 names no code for a NaN in T2: qntLane gives that case a free value (log 11). -/
def roundExact (f : Nat) (r : Rnd) (yNeg : Bool) (x : FQ) : Nat × Bool :=
  match fmtFloat f with
  | some ff =>
    match x with
    | .nan => if ff.kind = 0 then (0, true) else (canonNaN ff, false)
    | .inf s => (signed ff s (maxMag ff), true)
    | .fin s n d e =>
      let past := match r with
        | .sr _ => aboveMag ff (maxMag ff) n d e
        | _ => decide (maxMag ff < roundMag ff r n d e)
      let c := roundMag ff r n d e
      if past then (signed ff s (maxMag ff), true) else (signed ff (if c = 0 then yNeg else s) c, false)
  | none =>
    match x with
    | .nan => (0, true)
    | .inf s => (intCode f s (intMax f s), true)
    | .fin s n d e =>
      let m := intMax f s
      let past := match r with
        | .sr _ => (let q := overUnit n d e 0; decide (m * q.2 < q.1))
        | _ => decide (m < roundInt r n d e)
      if past then (intCode f s m, true) else (intCode f s (roundInt r n d e), false)

/-- Quantise the quotient of a y of the given sign by its scale to any output format other than I32 (R90, R91). -/
def quantise (f : Nat) (r : Rnd) (yNeg : Bool) (x : FQ) : Nat × Bool :=
  if f = 0xC then (roundIeee fBF16 r x, false)
  else if f = 0xD then (roundIeee fF16 r x, false)
  else if f = 0xE then (roundIeee fF32 r x, false)
  else roundExact f r yNeg x

/-- y ÷ scale rounded once into an output format (R90, R91). -/
def quantiseBy (f : Nat) (r : Rnd) (y scale : FV) : Nat × Bool := quantise f r y.isNeg (exactDiv y scale)

/-- Quantise to B1, whose values are +1 (code 0) and −1 (code 1): a magnitude of 1 or above takes its sign (R90 item 1);
below 1, RNE gives the nearest value, and of a tie the even code (R89). RTZ and SR have no value of smaller magnitude to
take there, and item 2 names no code for a NaN: none, as the result is not stated (log 11). -/
def quantiseB1 (r : Rnd) (x : FQ) : Option Nat :=
  match x with
  | .nan => none
  | .inf s => some (if s then 1 else 0)
  | .fin s n d e =>
    let q := overUnit n d e 0
    if q.2 ≤ q.1 then some (if s then 1 else 0)
    else match r with
      | .rne => some (if s && n != 0 then 1 else 0)
      | _ => none

/-- Round to I32 with saturation: NaN becomes 0; whether it saturated or was replaced (R76). -/
def quantiseI32 (r : Rnd) (x : FQ) : Nat × Bool :=
  match x with
  | .nan => (0, true)
  | .inf s => (if s then 2 ^ 31 else 2 ^ 31 - 1, true)
  | .fin s n d e =>
    let m := if s then 2 ^ 31 else 2 ^ 31 - 1
    let past := match r with
      | .sr _ => (let q := overUnit n d e 0; decide (m * q.2 < q.1))
      | _ => decide (m < roundInt r n d e)
    let k := if past then m else roundInt r n d e
    (ofSigned 32 (if s then -(k : Int) else k), past)

/-- mix of R93. -/
def mix64 (x : W64) : W64 :=
  let a := (x ^^^ (x >>> 32)) * 0x8F1BB4C92D67E0A5#64
  let b := (a ^^^ (a >>> 29)) * 0xE35A7BD39C41F26D#64
  b ^^^ (b >>> 32)

/-- sr_draw of R93. -/
def srDraw (seed : W64) (row col : Nat) : Nat :=
  let key := mix64 (seed + 0x4B31535200000001#64)
  let ctr := BitVec.ofNat 64 (row % 2 ^ 32 * 2 ^ 32 + col % 2 ^ 32)
  (mix64 (key ^^^ ctr) >>> 32).toNat % 2 ^ 32

/-! ## F32 and packed arithmetic (R179) -/

/-- a + b in a format under a mode. -/
def fAdd (f : FFmt) (r : Rnd) (a b : Nat) : Nat := roundIeee f r (exactAdd (decodeFloat f a) (decodeFloat f b)).toQ
/-- a × b in a format under a mode. -/
def fMul (f : FFmt) (r : Rnd) (a b : Nat) : Nat := roundIeee f r (exactMul (decodeFloat f a) (decodeFloat f b)).toQ
/-- a × b + c with one rounding. -/
def fFma (f : FFmt) (r : Rnd) (a b c : Nat) : Nat :=
  roundIeee f r (exactAdd (exactMul (decodeFloat f a) (decodeFloat f b)) (decodeFloat f c)).toQ

/-- Sign of a code. -/
def fNeg (f : FFmt) (a : Nat) : Bool := nbit a (f.eb + f.mb)

/-- fmin and fmax (R179): a NaN operand yields the other, −0 orders below +0. -/
def fMinMax (f : FFmt) (max : Bool) (a b : Nat) : Nat :=
  let x := decodeFloat f a
  let y := decodeFloat f b
  if x = .nan then (if y = .nan then canonNaN f else b)
  else if y = .nan then a
  else
    let aLess := x.lt y || (x.eq y && fNeg f a && !fNeg f b)
    if max then (if aLess then b else a) else if aLess then a else b

/-! ## Square roots and transcendental functions (R180; log 12) -/

/-- Integer square root by bisection on bits, from a bit down. -/
def isqrtFrom (n : Nat) (r : Nat) : Nat → Nat
  | 0 => r
  | k + 1 => isqrtFrom n (if (r + 2 ^ k) * (r + 2 ^ k) ≤ n then r + 2 ^ k else r) k

/-- floor(sqrt n). -/
def isqrt (n : Nat) : Nat := isqrtFrom n 0 (Nat.log2 n / 2 + 1)

/-- A magnitude t · 2^e that is exact, or lies strictly between t and t + 1 units. -/
def stickyQ (neg : Bool) (t : Nat) (e : Int) (exact : Bool) : FQ :=
  if exact then .fin neg t 1 e else .fin neg (2 * t + 1) 1 (e - 1)

/-- Square root of a finite positive m · 2^e. -/
def sqrtQ (m : Nat) (e : Int) : FQ :=
  let e1 := e - 200 - (e % 2)
  let n := m * 2 ^ (e - e1).toNat
  let t := isqrt n
  stickyQ false t (e1 / 2) (t * t == n)

/-- 1 / sqrt of a finite positive m · 2^e. -/
def rsqQ (m : Nat) (e : Int) : FQ :=
  let e1 := if e % 2 = 0 then e else e - 1
  let k := m * 2 ^ (e - e1).toNat
  let n := 2 ^ 600 / k
  let t := isqrt n
  stickyQ false t (-300 - e1 / 2) (t * t * k == 2 ^ 600)

/-- Fixed-point scale of the series: 2^256. -/
def fxOne : Nat := 2 ^ 256

/-- Partial sums of ln 2 = Σ 1 / (k 2^k), k from a number up. -/
def ln2Sum (k : Nat) : Nat → Nat
  | 0 => 0
  | n + 1 => fxOne / (k * 2 ^ k) + ln2Sum (k + 1) n

/-- ln 2 in fixed point. -/
def ln2Fx : Nat := ln2Sum 1 256

/-- Σ x^k / k! from term k on, in fixed point. -/
def expSum (x k term : Nat) : Nat → Nat
  | 0 => 0
  | n + 1 => term + expSum x (k + 1) (term * x / fxOne / (k + 1)) n

/-- 2^f for a fraction f in fixed point. -/
def exp2Fx (f : Nat) : Nat := expSum (f * ln2Fx / fxOne) 0 fxOne 70

/-- Fraction bits of log2 of a fixed-point number in [1, 2), by squaring. -/
def log2Bits (x acc : Nat) : Nat → Nat
  | 0 => acc
  | n + 1 =>
    let y := x * x / fxOne
    if 2 * fxOne ≤ y then log2Bits (y / 2) (2 * acc + 1) n else log2Bits y (2 * acc) n

/-- A finite value in fixed point, floored. -/
def toFx (neg : Bool) (m : Nat) (e : Int) : Int :=
  let n := m * 2 ^ (e + 256).toNat
  let d := 2 ^ (-(e + 256)).toNat
  if neg then -((n + d - 1) / d : Nat) else ((n / d : Nat) : Int)

/-- 2^x for a finite x. -/
def ex2Q (neg : Bool) (m : Nat) (e : Int) : FQ :=
  if m = 0 then .fin false 1 1 0
  else if (16 : Int) ≤ (Nat.log2 m : Int) + e then (if neg then .fin false 1 1 (-100000) else .fin false 1 1 100000)
  else
    let x := toFx neg m e
    let i := x / (fxOne : Int)
    let f := (x % (fxOne : Int)).toNat
    stickyQ false (exp2Fx f) (i - 256) (f == 0)

/-- log2 of a finite positive m · 2^e. -/
def lg2Q (m : Nat) (e : Int) : FQ :=
  let k := Nat.log2 m
  let x := m * 2 ^ (256 - k)
  let i : Int := (k : Int) + e
  if m = 2 ^ k then .fin (decide (i < 0)) i.natAbs 1 0
  else
    let v := i * (2 ^ 200 : Nat) + (log2Bits x 0 200 : Nat)
    if v < 0 then .fin true (2 * (-v).toNat - 1) 1 (-201) else .fin false (2 * v.toNat + 1) 1 (-201)

/-- tanh of a finite value: (1 − t) / (1 + t) with t = 2^(−2|x| / ln 2). -/
def tanhQ (neg : Bool) (m : Nat) (e : Int) : FQ :=
  if m = 0 then .fin neg 0 1 0
  else if (8 : Int) ≤ (Nat.log2 m : Int) + e then .fin neg (2 ^ 200 - 1) 1 (-200)
  else
    let y := (toFx false m e).toNat * 2 * fxOne / ln2Fx
    let i := y / fxOne
    let f := y % fxOne
    let t := exp2Fx (fxOne - f) / 2 ^ (i + 1)
    .fin neg (fxOne - t) (fxOne + t) 0

/-- A special function of a value (R178, R180), special operands as IEEE 754 gives. -/
def specialQ (op : SpecFn) (x : FV) : FQ :=
  match op, x with
  | _, .nan => .nan
  | .rcp, y => exactDiv (.fin false 1 0) y
  | .sqrt, .inf s => if s then .nan else .inf false
  | .sqrt, .fin s m e => if m = 0 then .fin s 0 1 0 else if s then .nan else sqrtQ m e
  | .rsq, .inf s => if s then .nan else .fin false 0 1 0
  | .rsq, .fin s m e => if m = 0 then .inf s else if s then .nan else rsqQ m e
  | .ex2, .inf s => if s then .fin false 0 1 0 else .inf false
  | .ex2, .fin s m e => ex2Q s m e
  | .lg2, .inf s => if s then .nan else .inf false
  | .lg2, .fin s m e => if m = 0 then .inf true else if s then .nan else lg2Q m e
  | .tanh, .inf s => .fin s 1 1 0
  | .tanh, .fin s m e => tanhQ s m e

/-! ## Output scales (R92) -/

/-- e_max of an exact output format (R92). -/
def eMax (f : Nat) : Int :=
  match f with
  | 0x2 => 0
  | 0x3 => 1
  | 0x4 => 2
  | 0x5 => 2
  | 0x8 => 2
  | 0x7 => 4
  | 0x9 => 6
  | 0xA => 8
  | 0xB => 15
  | _ => 0

/-- The largest finite positive value of an exact format. -/
def maxFinite (f : Nat) : FV :=
  match fmtFloat f with
  | some ff => decodeFloat ff (maxMag ff)
  | none => .fin false (intMax f false) 0

/-- E8M0 scale code of a stone (R92, S32). -/
def scaleS32 (f : Nat) (amax : FV) : Nat :=
  match amax with
  | .nan => 0xFE
  | .inf _ => 0xFE
  | .fin _ m e => if m = 0 then 0x7F else (max (-127) (min 127 ((Nat.log2 m : Int) + e - eMax f)) + 127).toNat

/-- F8a scale code of a stone: amax / m in F32, to F8a towards +infinity, clamped (R92, S16). -/
def scaleS16 (f : Nat) (amax : FV) : Nat :=
  match amax with
  | .nan => maxMag fF8a
  | .inf _ => maxMag fF8a
  | .fin _ m e =>
    if m = 0 then 0x38
    else
      match decodeFloat fF32 (roundIeee fF32 .rne (exactDiv (.fin false m e) (maxFinite f))) with
      | .fin _ n k =>
        let c := roundMag fF8a .rtz n 1 k
        max 1 (min (maxMag fF8a) (if aboveMag fF8a c n 1 k then c + 1 else c))
      | _ => maxMag fF8a

end Sys2Proof.Machine
end

