-- ==== Sys2Proof/Machine/LinkOps.lean ====
section
/-! DEFINITION. Sending a link message: the port it leaves on, its credits, the retry buffer (R531 to R534, R541). -/

namespace Sys2Proof.Machine

/-- A Link Port's record. -/
def State.link (s : State) (p : Nat) : Link := tget s.fab.links p {}

/-- Change a Link Port's record. -/
def State.updLink (s : State) (p : Nat) (f : Link → Link) : State :=
  { s with fab := { s.fab with links := tupd s.fab.links p {} f } }

/-- The home slice of a line: the exclusive or of the eight 6-bit groups of address bits 54:7 (R28). -/
def homeSlice (pa : Nat) : Nat := xorGroups6 8 (pa / 128 % 2 ^ 48)

/-- Credits that a message takes (R533). -/
def msgCost (m : LMsg) : Nat := (16 + m.len + 15) / 16

/-- The credit counter of a message: its channel and epoch (R533). -/
def msgChan (m : LMsg) : Nat := m.vc.toNat * 2 + (if m.epoch then 1 else 0)

/-- Credits of one epoch of a virtual channel of an empty receiver, 16 bytes each (R533). -/
def fullCredits (vc : Nat) : Nat :=
  match vc with
  | 0 => 3072
  | 1 => 1024
  | 2 => 3584
  | _ => 512

/-- The credits of a link that has just come up, by channel and epoch (R533). -/
def freshCredits : Tbl Nat := (List.range 8).map (fun k => (k, fullCredits (k / 2)))

/-- CRED of a flit, 8 bits a virtual channel, and what is owed after it (R531). -/
def credWord (owed : Tbl Nat) : Nat :=
  ((List.range 4).map (fun v => min 255 (tget owed v 0) * 256 ^ v)).sum
/-- What is owed after a flit has returned credits (R531). -/
def credRest (owed : Tbl Nat) : Tbl Nat := owed.map (fun e => (e.1, e.2 - 255))

/-- The message is addressed to a line, so that its port follows the line's home slice (R541). -/
def msgLine (m : LMsg) : Bool := decide (m.kind.toNat < 0x10)

/-- The table by which a message is forwarded: that of its epoch; the other epoch's is the table in place for the next
GO, else the old one (R543). -/
def State.routeTable (s : State) (epoch : Bool) : Tbl Nat :=
  if epoch = s.fab.epoch then s.fab.next
  else
    match s.fab.placed with
    | some r => r.2
    | none => s.fab.oldNext.getD s.fab.next

/-- The UP ports to a neighbour, ascending. -/
def State.portsTo (s : State) (n : Nat) : List Nat :=
  (List.range 32).filter (fun p => (s.link p).st == .up && (s.link p).peer == n)

/-- The port that a message leaves on (R541), none where its destination is unreachable. -/
def State.portFor (s : State) (m : LMsg) : Option Nat :=
  match tfind (s.routeTable m.epoch) m.dst.toNat with
  | none => none
  | some n =>
    let ps := s.portsTo n
    if ps.isEmpty then none
    else ps[(if msgLine m then homeSlice (m.dst.toNat * 2 ^ 40 + m.addr.toNat) else 0) % ps.length]?

/-- Transmit as many waiting messages of a port as its credits and retry buffer allow, oldest first. -/
def State.pump (s : State) (p : Nat) : Nat → State
  | 0 => s
  | n + 1 =>
    let l := s.link p
    match l.txq with
    | [] => s
    | m :: r =>
      if l.st ≠ .up ∨ tget l.credits (msgChan m) 0 < msgCost m ∨ 512 ≤ l.retry.length then s
      else
        State.pump ((s.updLink p (fun l => { l with
          txq := r, credits := tset l.credits (msgChan m) (tget l.credits (msgChan m) 0 - msgCost m),
          retry := l.retry ++ [(l.txSeq.toNat, [m])], txSeq := l.txSeq + 1, owed := credRest l.owed,
          ackAt := if l.retry.isEmpty then s.btime.toNat else l.ackAt })).emit (.link p m (credWord l.owed))) p n

/-- Queue a message on a port and transmit what can go. -/
def State.sendOn (s : State) (p : Nat) (m : LMsg) : State :=
  (s.updLink p (fun l => { l with txq := l.txq ++ [m] })).pump p ((s.link p).txq.length + 1)

/-- The epoch of a new message to a node: the old one while old requests to it are unanswered (R543). -/
def State.sendEpoch (s : State) (dst : Nat) : Bool :=
  if s.fab.reqs.any (fun r => r.node == dst && r.epoch != s.fab.epoch) then !s.fab.epoch else s.fab.epoch

/-- Send a message of this node; it is dropped where no port leads to its destination. -/
def State.sendMsg (s : State) (m : LMsg) : State :=
  let m1 := { m with src := BitVec.ofNat 14 s.nodeId, epoch := s.sendEpoch m.dst.toNat }
  match s.portFor m1 with
  | some p => s.sendOn p m1
  | none => s

/-- A node can be reached. -/
def State.reachable (s : State) (n : Nat) : Bool :=
  match tfind s.fab.next n with
  | some k => !(s.portsTo k).isEmpty
  | none => false

/-- The response to a request: same tag, back to its sender, on channel 2 (R535). -/
def reply (m : LMsg) (kind aux : Nat) (data : List Byte) : LMsg :=
  { kind := BitVec.ofNat 8 kind, vc := 2, len := data.length, hide := m.hide, dst := m.src, tag := m.tag,
    aux := BitVec.ofNat 8 aux, addr := m.addr, data := data }

/-- Group and CHAINIG of the chain in a slot. -/
def State.partOf (s : State) (core : Option (Nat × Nat × Nat)) : Nat × Nat :=
  match core with
  | some (i, j, _) =>
    match tfind (s.core i).chains j with
    | some c => (c.group, c.inGroup)
    | none => (0, 0)
  | none => (0, 0)

/-- Register an outstanding request of this node for a chain, a mover channel or a command, and send it (R545). -/
def State.sendReqOf (s : State) (m : LMsg) (core : Option (Nat × Nat × Nat)) (chan : Option (Nat × Nat)) (cid ctx : Nat)
    (part : Nat × Nat) (pc : Nat := 0) (mask : W32 := 0) : State :=
  let r : RReq := { tag := s.fab.tag.toNat, node := m.dst.toNat, kind := m.kind.toNat, core := core, chan := chan,
                    cid := cid, ctx := ctx, at_ := s.btime.toNat, addr := m.addr.toNat, epoch := s.sendEpoch m.dst.toNat,
                    msg := { m with tag := s.fab.tag }, part := part, pc := pc, mask := mask }
  { (s.sendMsg { m with tag := s.fab.tag }) with
      fab := { (s.sendMsg { m with tag := s.fab.tag }).fab with tag := s.fab.tag + 1, reqs := s.fab.reqs ++ [r] } }

/-- A request for the chain that stands in a slot now. -/
def State.sendReq (s : State) (m : LMsg) (core : Option (Nat × Nat × Nat)) (chan : Option (Nat × Nat)) (cid ctx : Nat) :
    State :=
  s.sendReqOf m core chan cid ctx (s.partOf core)

end Sys2Proof.Machine
end

