-- ==== Sys2Proof/Machine/Wait.lean ====
section
/-! DEFINITION. Counting events, barrier objects and their waiters, and the write that reaches a home (R226, R231 to
R237, R389). -/

namespace Sys2Proof.Machine

/-- A chain in a core's slot. -/
def State.chain? (s : State) (core slot : Nat) : Option Chain := tfind (s.core core).chains slot

/-- Change a chain, if the slot holds one. -/
def State.updChain (s : State) (core slot : Nat) (f : Chain → Chain) : State :=
  match s.chain? core slot with
  | some c => s.updCore core (fun k => { k with chains := tset k.chains slot (f c) })
  | none => s

/-- Drop every line of a core's data cache: an acquire at block or system scope (R216). -/
def State.invalidateDcache (s : State) (core : Nat) : State := s.updCore core (fun k => { k with dcache := [] })

/-- n bytes of a core's local store from an absolute address. -/
def State.lsBytes (s : State) (core a : Nat) : Nat → List Byte
  | 0 => []
  | n + 1 => tget (s.core core).ls a 0 :: State.lsBytes s core (a + 1) n

/-- Write bytes to a table of local-store bytes: zero takes the byte off the list. -/
def lsPut (t : Tbl Byte) (a : Nat) : List Byte → Tbl Byte
  | [] => t
  | b :: bs => lsPut (if b = 0 then terase t a else tset t a b) (a + 1) bs

/-- Write bytes to a core's local store. -/
def State.lsWrite (s : State) (core a : Nat) (bs : List Byte) : State :=
  s.updCore core (fun k => { k with ls := lsPut k.ls a bs })

/-- n bytes of an object's word: in a local store, or in global memory. -/
def State.objRead (s : State) (lsCore : Option Nat) (a n : Nat) : Nat :=
  match lsCore with
  | some i => leNat (s.lsBytes i a n)
  | none => s.readNum a n

/-- Drop the class-0 record-store entries that a write reaches by line (R389). -/
def State.dropStore (s : State) (as : List Nat) : State :=
  { s with store := s.store.filter (fun e =>
      !(as.any (fun a => decide (e.pa / 128 ≤ a / 128) && decide (a / 128 ≤ (e.pa + e.len - 1) / 128)))) }

/-- Write an object's word. -/
def State.objWrite (s : State) (lsCore : Option Nat) (a n v : Nat) : State :=
  match lsCore with
  | some i => s.lsWrite i a (leBytes n v)
  | none => (s.writeBytes a (leBytes n v)).dropStore [a]

/-- The first waiter on an object of a kind that a condition picks. -/
def State.firstWaiter (s : State) (lsCore : Option Nat) (a kind : Nat) (f : Waiter → Bool) : Option Waiter :=
  s.waiters.find? (fun w => w.lsCore == lsCore && w.addr == a && w.kind == kind && f w)

/-- Withdraw one waiter. -/
def State.dropWaiter (s : State) (w : Waiter) : State := { s with waiters := s.waiters.erase w }

/-- A waiter is released: its chain is ready and its acquire is performed, its WAIT command completes with OK, or a
WAKE leaves for its node (R234 to R236, R313, R535). -/
def State.release (s : State) (w : Waiter) : State :=
  let s1 := s.dropWaiter w
  match w.chain, w.cid, w.remote with
  | some (i, slot), _, _ =>
    let s2 := s1.updChain i slot (fun c => { c with st := .ready })
    if w.lsCore.isSome then s2 else s2.invalidateDcache i
  | none, some cid, _ => s1.complete cid 0 none
  | none, none, some (node, tag) =>
    s1.sendMsg { kind := 0x16, vc := 2, dst := BitVec.ofNat 14 node, tag := BitVec.ofNat 16 tag,
                 addr := BitVec.ofNat 40 w.addr }
  | none, none, none => s1

/-- Serve the waiters of a counting event, in registration order, one unit each (R234). -/
def State.serveCounting (s : State) (lsCore : Option Nat) (a : Nat) : Nat → State
  | 0 => s
  | n + 1 =>
    if s.objRead lsCore a 4 = 0 then s
    else
      match s.firstWaiter lsCore a 0 (fun _ => true) with
      | none => s
      | some w =>
        State.serveCounting ((s.objWrite lsCore a 4 (s.objRead lsCore a 4 - 1)).release w) lsCore a n

/-- Release every waiter of a barrier object that waits to leave another phase than the present one (R235). -/
def State.serveBarrier (s : State) (lsCore : Option Nat) (a : Nat) : Nat → State
  | 0 => s
  | n + 1 =>
    match s.firstWaiter lsCore a 1 (fun w => w.phase != nbits (s.objRead lsCore a 8) 63 56) with
    | none => s
    | some w => State.serveBarrier (s.release w) lsCore a n

/-- Serve the waiters of one object after a write to it. -/
def State.serveObj (s : State) (w : Waiter) : State :=
  if w.kind = 0 then s.serveCounting w.lsCore w.addr s.waiters.length
  else s.serveBarrier w.lsCore w.addr s.waiters.length

/-- Serve the waiters of every object that a write at some addresses touches (R234, R235). -/
def State.serveWrites (s : State) (lsCore : Option Nat) (as : List Nat) : State :=
  (s.waiters.filter (fun w => w.lsCore == lsCore
      && as.any (fun a => decide (w.addr ≤ a) && decide (a < w.addr + (if w.kind = 0 then 4 else 8))))).foldl
    (fun t w => if t.waiters.contains w then t.serveObj w else t) s

/-- A write is performed at its home: bytes, record store, waiters (R226, R234, R235, R389). -/
def State.homeWrite (s : State) (cells : List (Nat × Byte)) : State :=
  ((s.writeCells cells).dropStore (cells.map (fun c => c.1))).serveWrites none (cells.map (fun c => c.1))

/-- A write to a core's local store, seen by the waiters there (R212, R234). -/
def State.lsStore (s : State) (core a : Nat) (bs : List Byte) : State :=
  (s.lsWrite core a bs).serveWrites (some core) ((List.range bs.length).map (fun i => a + i))

/-- Count a signal lost to saturation (R234, 0x6000+h, 0x6400). -/
def State.lostSignal (s : State) (c : Nat) : State :=
  (s.updCtx c (fun x => { x with lostSignals := stickAdd 32 x.lostSignals 1 })).updHide (s.ctx c).hide
    (fun h => { h with lostSignals := stickAdd 64 h.lostSignals 1 })

/-- A counting event gets n signals; the word saturates, and a lost signal counts in the context (R234, R313). -/
def State.signalCount (s : State) (lsCore : Option Nat) (a n ctx : Nat) : State :=
  let v := s.objRead lsCore a 4
  let s1 := if 2 ^ 32 ≤ v + n then (if ctx = 0xFFFF then s else s.lostSignal ctx) else s
  (s1.objWrite lsCore a 4 (min (v + n) (2 ^ 32 - 1))).serveCounting lsCore a s.waiters.length

/-- One arrival at a barrier object (R235): the new word, and whether the barrier completes. -/
def barrierArrive (v : Nat) : Nat × Bool :=
  let expect := nbits v 27 0
  let arrived := nbits v 55 28 + 1
  if expect ≤ arrived ∨ expect = 0 then (setBits (setBits v 55 28 0) 63 56 (nbits v 63 56 + 1), true)
  else (setBits v 55 28 arrived, false)

/-- One arrival at a barrier object in memory (R235). -/
def State.arriveBarrier (s : State) (lsCore : Option Nat) (a : Nat) : State :=
  let r := barrierArrive (s.objRead lsCore a 8)
  let s1 := s.objWrite lsCore a 8 r.1
  if r.2 then s1.serveBarrier lsCore a s.waiters.length else s1

end Sys2Proof.Machine
end

