-- ==== Sys2Proof/Machine/Chains.lean ====
section
/-! DEFINITION. The registers of a chain, what an outstanding load puts back or fills, and the words that atomics leave
(R163, R172, R178, R193, R223, R224). -/

namespace Sys2Proof.Machine

/-! ## Registers (R163) -/

/-- v register n of thread t; 0xFF names vz. -/
def Chain.vreg (c : Chain) (n t : Nat) : W32 := if n = 0xFF then 0 else tget c.v (32 * n + t) 0
/-- Write v register n of thread t; a write to vz is discarded. -/
def Chain.setV (c : Chain) (n t : Nat) (x : W32) : Chain := if n = 0xFF then c else { c with v := tset c.v (32 * n + t) x }
/-- u register n. -/
def Chain.ureg (c : Chain) (n : Nat) : W64 := tget c.u (n % 64) 0
/-- Write u register n. -/
def Chain.setU (c : Chain) (n : Nat) (x : W64) : Chain := { c with u := tset c.u (n % 64) x }
/-- Predicate register n: p7 reads all ones. -/
def Chain.preg (c : Chain) (n : Nat) : W32 := if n = 7 then 0xFFFFFFFF else tget c.p n 0
/-- Write a predicate register; a write to p7 is discarded. -/
def Chain.setP (c : Chain) (n : Nat) (x : W32) : Chain := if n = 7 then c else { c with p := tset c.p n x }

/-- Write loaded bytes to a lane's registers, zero-extended. -/
def Chain.loadBytes (c : Chain) (v t : Nat) (bs : List Byte) : Chain :=
  if v = 0xFF then c
  else
    (List.range (max 1 (bs.length / 4))).foldl (fun k n =>
      k.setV (v + n) t (BitVec.ofNat 32 (leNat ((bs.drop (4 * n)).take 4)))) c

/-! ## Precise exceptions (R193) -/

/-- An exception: cause, faulting lanes, trap code (R194, R196). -/
structure Exc where
  cause : Nat
  lanes : W32 := 0
  trap : Nat := 0
deriving DecidableEq, Repr

/-- EXCEPTION body (R472). -/
def excErr (e : Exc) (core slot pc : Nat) : ErrInfo :=
  { typ := 1, body := bodyAt 28 e.cause + bodyAt 29 slot + bodyAt 30 (coreField core) + bodyAt 32 (pc % 2 ^ 32)
      + bodyAt 36 e.lanes.toNat + bodyAt 40 (e.trap % 2 ^ 16) }

/-- What an instruction finds of its chain. -/
def Chain.regs (c : Chain) : Regs :=
  { v := c.v, u := c.u, p := c.p, pc := c.pc, active := c.active, exited := c.exited, stack := c.stack }

/-- The chain as an instruction found it. -/
def Chain.back (c : Chain) (b : Regs) : Chain :=
  { c with v := b.v, u := b.u, p := b.p, pc := b.pc, active := b.active, exited := b.exited, stack := b.stack }

/-- A register of a load is written in one lane. -/
def Load.put (l : Load) (c : Chain) (t : Nat) (bs : List Byte) : Chain :=
  match l.vd with
  | some v => c.loadBytes v t bs
  | none => c.setU l.ud (BitVec.ofNat 64 (leNat bs))

/-- A load fills a lane: in the registers, and in what every later load has found, as an earlier instruction completes
whatever a later one raises (R193). -/
def Load.fill (l : Load) (c : Chain) (t : Nat) (bs : List Byte) : Chain :=
  { l.put c t bs with loads := c.loads.map (fun x =>
      if l.idx < x.first then { x with before := (l.put (c.back x.before) t bs).regs } else x) }

/-- Every earlier instruction of the chain that may still raise an exception has completed (R193); a prefetch raises none. -/
def Chain.settled (c : Chain) : Bool := c.loads.all (fun l => l.pref)

/-- The chain goes back to before one of its loads: later loads go with it, earlier ones complete (R193). -/
def Chain.undo (c : Chain) (l : Load) : Chain :=
  { c.back l.before with loads := c.loads.filter (fun x => decide (x.idx < l.first)) }

/-! ## Atomic operations (R178, R223) -/

/-- What an atomic leaves in the word of w bits: min and max are signed; cas stores `val` where the word equals `cmp`. -/
def atomNew (op : AtomOp) (w old val cmp : Nat) : Nat :=
  match op with
  | .add => (old + val) % 2 ^ w
  | .min => if toSigned w val < toSigned w old then val else old
  | .max => if toSigned w old < toSigned w val then val else old
  | .and => old &&& val
  | .or => old ||| val
  | .xor => old ^^^ val
  | .exch => val
  | .cas => if old = cmp then val else old

/-- One lane of an atomic has its old value; the last one ends it, and performs its acquire (R172, R216, R224). -/
def State.atomLane (s : State) (core slot idx lane : Nat) (bs : List Byte) : State :=
  match s.chain? core slot with
  | none => s
  | some c =>
    match c.loads.find? (fun l => l.idx == idx && l.atomic) with
    | none => s
    | some l =>
      let rest := l.lanes.filter (fun x => x.1 != lane)
      let c1 := l.fill c lane bs
      if rest.isEmpty then
        let left := c1.loads.filter (fun x => x.idx != idx)
        let s1 := s.updChain core slot (fun _ => { c1 with
          loads := left, acquiring := if l.acq then left.any (fun x => x.acq) else c1.acquiring })
        if l.acq then s1.invalidateDcache core else s1
      else s.updChain core slot (fun _ => { c1 with
        loads := c1.loads.map (fun x => if x.idx = idx then { x with lanes := rest } else x) })

end Sys2Proof.Machine
end

