-- ==== Sys2Proof/Machine/Home.lean ====
section
/-! DEFINITION. The shared cache: homes of lines with their transactions, retries and reserve credits, the directory,
snoops, the capacity of the slices, lines of other nodes that this node holds, the accesses of every requester, and the
requests of remote nodes that a home performs (R27 to R29, R48, R224 to R230, R362, R535). -/

namespace Sys2Proof.Machine

/-! ## Lines and directory entries (R227, R228) -/

/-- The record of a line, by physical address over 128. -/
def State.line (s : State) (l : Nat) : Line := tget s.lines l {}

/-- Change the record of a line. -/
def State.updLine (s : State) (l : Nat) (f : Line → Line) : State := { s with lines := tupd s.lines l {} f }

/-- The home slice of a line (R28). -/
def lineSlice (l : Nat) : Nat := homeSlice (l * 128)

/-- A remote node holds the line. -/
def Line.remote (x : Line) : Bool := !x.holders.isEmpty || x.coarse.isSome

/-- The nodes that a directory entry stands for: its pointers, or every node of every set bit of its coarse vector
(R228). -/
def State.lineNodes (s : State) (x : Line) : List Nat :=
  match x.coarse with
  | some v => (s.fab.map.map (fun e => e.1)).filter (fun n => v.getLsbD (n / 256))
  | none => x.holders

/-- Add a node to a directory entry: beyond four pointers it becomes a coarse vector (R228). -/
def Line.addHolder (x : Line) (n : Nat) : Line :=
  match x.coarse with
  | some v => { x with coarse := some (v ||| (1#64 <<< (n / 256))) }
  | none =>
    if x.holders.contains n then x
    else if x.holders.length < 4 then { x with holders := x.holders ++ [n] }
    else { x with holders := [], coarse := some ((x.holders ++ [n]).foldl (fun v k => v ||| (1#64 <<< (k / 256))) 0) }

/-- The directory entry is free. -/
def Line.noHolders (x : Line) : Line := { x with holders := [], coarse := none }

/-- Nodes to snoop for a request: the holders where only they are current, or the copies that a write invalidates
(R227, R228). -/
def State.snoopTargets (s : State) (x : Line) (tx : HomeTx) : List Nat :=
  let all := (s.lineNodes x).filter (fun n => n != s.nodeId && s.reachable n)
  let others := all.filter (fun n => !(tx.who.remote && tx.who.node == n))
  match tx.kind with
  | .read => if x.st = .inv then all else []
  | .shared => if x.st = .inv then others else []
  | .write _ => all
  | .exclusive => others
  | .upgrade => others
  | .writeBack _ => []

/-- A snoop invalidates; for a read it only asks for the data (R228; model's coding of AUX: 1 invalidate, 0 data). -/
def snoopAux (k : HomeKind) : Nat :=
  match k with
  | .read => 0
  | .shared => 0
  | _ => 1

/-- Own copy after a local read or a downgrade (R227). -/
def stRead (x : Line) : LineSt := if x.st = .inv then (if x.remote then .shared else .excl) else x.st

/-- Own copy once another node holds the line in S (R227). -/
def stShared (st : LineSt) : LineSt :=
  match st with
  | .modified => .owned
  | .excl => .shared
  | st => st

/-- A request that does not allocate the line in the shared cache: a mover write or stream of that kind (R113, R416,
R535). -/
def HomeTx.noAlloc (tx : HomeTx) : Bool := tx.na || (match tx.msg with | some m => m.kind == 5 | none => false)

/-- The line after its request (R227). -/
def Line.after (x : Line) (tx : HomeTx) : Line :=
  match tx.kind with
  | .read => if tx.noAlloc then x else { x with st := stRead x }
  | .write _ => { x.noHolders with st := if tx.noAlloc && x.st == .inv then .inv else .modified }
  | .shared => if tx.who.remote then { x with st := stShared (stRead x) }.addHolder tx.who.node else { x with st := stRead x }
  | .exclusive =>
    if tx.who.remote then { x.noHolders with st := .inv }.addHolder tx.who.node else { x.noHolders with st := stRead x.noHolders }
  | .upgrade =>
    if tx.who.remote then { x.noHolders with st := .inv }.addHolder tx.who.node else { x.noHolders with st := stRead x.noHolders }
  | .writeBack _ => { x with holders := x.holders.filter (fun n => n != tx.who.node) }

/-! ## Capacity (R27, R28): 64 slices of 2 MiB -/

/-- Lines that a slice of the shared cache holds. -/
def State.heldIn (s : State) (slice : Nat) : List (Nat × Line) :=
  s.lines.filter (fun e => e.2.st != .inv && lineSlice e.1 == slice)

/-- A copy leaves the shared cache: a dirty one of another node's line writes back to its home (R227). Local memory
holds the bytes of a local line already (log 21). -/
def State.evictCopy (s : State) (l : Nat) : State :=
  let x := s.line l
  let s1 := s.updLine l (fun y => { y with st := .inv })
  if s.isLocal (l * 128) || !(x.st == .modified || x.st == .owned) then s1
  else
    s1.sendReq { kind := 4, len := 128, dst := BitVec.ofNat 14 (paNode (l * 128)), aux := 3,
                 addr := BitVec.ofNat 40 (paOff (l * 128)), data := s.readBytes (l * 128) 128 } none none 0 0xFFFF

/-- A slice of 16,384 lines that holds one more gives up the least recently used other one (R27, R28; log 21). -/
def State.makeRoom (s : State) (l : Nat) : State :=
  let held := s.heldIn (lineSlice l)
  if held.length ≤ 16384 then s
  else
    match sortBy (fun a b => decide (a.2.dirUse < b.2.dirUse)) (held.filter (fun e => e.1 != l && e.2.cur.isNone)) with
    | v :: _ => s.evictCopy v.1
    | [] => s

/-- A line is used (R228). -/
def State.useLine (s : State) (l : Nat) : State :=
  { s.updLine l (fun x => { x with dirUse := s.dirClock }) with dirClock := s.dirClock + 1 }

/-! ## Requests of remote nodes (R234, R235, R362, R535) -/

/-- Every byte of a message lies in a compute unit of its target hide, outside the firmware region (R362). -/
def State.remoteAllowed (s : State) (m : LMsg) : Bool :=
  s.devAllowed m.hide.toNat m.addr.toNat && s.devAllowed m.hide.toNat (m.addr.toNat + (m.len - 1))

/-- The unit or the hide is absent, or the hide's edges are fenced by its full reset (R463, R535, R548). -/
def State.remoteAbsent (s : State) (m : LMsg) : Bool :=
  s.unitKind (m.addr.toNat / 2 ^ 32) == 0 || !s.hideExists m.hide.toNat || (s.hide m.hide.toNat).recKind == 2

/-- An error response to a request: AUX 1 permission, 2 absent, 3 unreachable (R535). -/
def State.errRsp (s : State) (m : LMsg) (aux : Nat) : State := s.sendMsg (reply m 0x1F aux [])

/-- Cells of a message's data at this node. -/
def State.msgCells (s : State) (m : LMsg) : List (Nat × Byte) :=
  m.data.mapIdx (fun i b => (s.localPa m.addr.toNat + i, b))

/-- The order of atomics in AUX bits 2:0 (R178, R535). -/
def atomOpOf (n : Nat) : AtomOp :=
  match n with
  | 0 => .add
  | 1 => .min
  | 2 => .max
  | 3 => .and
  | 4 => .or
  | 5 => .xor
  | 6 => .exch
  | _ => .cas

/-- AUX of ATOM: the operation, and bit 3 for 64 bits (R535). -/
def atomAux (x : SbAtom) : Nat :=
  (match x.op with
    | .add => 0
    | .min => 1
    | .max => 2
    | .and => 3
    | .or => 4
    | .xor => 5
    | .exch => 6
    | .cas => 7) + (if x.size = 3 then 8 else 0)

/-- An atomic at its home: the word after it, written; the previous value is what stood there (R224). -/
def State.homeAtom (s : State) (op : AtomOp) (size pa val cmp : Nat) : State :=
  let old := s.readNum pa (2 ^ size)
  s.homeWrite ((leBytes (2 ^ size) (atomNew op (8 * 2 ^ size) old val cmp)).mapIdx (fun i b => (pa + i, b)))

/-- An atomic of a core of this node is performed at its line's home: its lane takes the old value (R224). -/
def State.coreAtom (s : State) (core slot : Nat) (x : SbAtom) : State :=
  (s.homeAtom x.op x.size x.addr x.val.toNat x.cmp.toNat).atomLane core slot x.load x.lane
    (s.readBytes x.addr (2 ^ x.size))

/-- A remote waiter registers (R234, R235). -/
def State.addRemoteWaiter (s : State) (pa kind phase : Nat) (m : LMsg) : State :=
  { s with waiters := s.waiters ++ [{ lsCore := none, addr := pa, kind := kind, phase := phase, chain := none, cid := none,
                                      remote := some (m.src.toNat, m.tag.toNat), ext := true }] }

/-- The home performs a remote request and answers it. A write-back of a node that the directory no longer lists has been
overtaken by its snoop, and writes nothing (R228). -/
def State.performMsg (s : State) (m : LMsg) (grant : Nat) (holds : Bool) : State :=
  let pa := s.localPa m.addr.toNat
  let bar := m.aux.getLsbD 0
  match m.kind.toNat with
  | 0x01 => s.sendMsg (reply m 0x10 0 (s.readBytes pa m.len))
  | 0x02 => (s.homeWrite (s.msgCells m)).sendMsg (reply m 0x11 0 [])
  | 0x05 => (s.homeWrite (s.msgCells m)).sendMsg (reply m 0x11 0 [])
  | 0x03 =>
    let size := if m.aux.getLsbD 3 then 3 else 2
    let n := 2 ^ size
    (s.homeAtom (atomOpOf (m.aux.toNat % 8)) size pa (leNat (m.data.take n)) (leNat ((m.data.drop n).take n))).sendMsg
      (reply m 0x12 0 (s.readBytes pa n))
  | 0x04 =>
    if m.aux.toNat = 3 then (if holds then s.homeWrite (s.msgCells m) else s).sendMsg (reply m 0x13 0 [])
    else s.sendMsg (reply m 0x13 (2 * grant) (s.readBytes (pa / 128 * 128) 128))
  | 0x06 =>
    if bar then
      let a := barrierArrive (s.objRead none pa 8)
      let s1 := s.arriveBarrier none pa
      if a.2 then s1.sendMsg (reply m 0x16 0 [])
      else (s1.sendMsg (reply m 0x11 0 [])).addRemoteWaiter pa 1 (nbits a.1 63 56) m
    else (s.signalCount none pa (leNat m.data) 0xFFFF).sendMsg (reply m 0x11 0 [])
  | 0x07 =>
    if bar then s.addRemoteWaiter pa 1 (nbits (s.objRead none pa 8) 63 56) m
    else (s.addRemoteWaiter pa 0 0 m).serveCounting none pa (s.waiters.length + 1)
  | _ => s

/-! ## Transactions (R229, R230) -/

/-- State granted by a coherence request: 1 S, 2 E (R227; model's coding of COH_RSP's AUX bits 3:1). -/
def grantOf (k : HomeKind) : Nat :=
  match k with
  | .shared => 1
  | .exclusive => 2
  | .upgrade => 2
  | _ => 0

/-- Send the snoops of a line and wait for their acknowledgements (R228). -/
def State.sendSnoops (s : State) (l aux : Nat) (ts : List Nat) : State :=
  ts.foldl (fun t n => t.sendMsg { kind := 0x08, vc := 1, dst := BitVec.ofNat 14 n, aux := BitVec.ofNat 8 aux,
                                   addr := BitVec.ofNat 40 (paOff (l * 128)) }) (s.updLine l (fun x => { x with snoops := ts }))

/-- What a performed request does with memory: a message's effect and answer, signals, a core's atomics in ascending lane
order, or the bytes written (R172, R224, R226, R234). -/
def State.actTx (s : State) (tx : HomeTx) (holds : Bool) : State :=
  match tx.msg, tx.sig, tx.atoms with
  | some m, _, _ => s.performMsg m (grantOf tx.kind) holds
  | none, some (a, n, c), _ => s.signalCount none a n c
  | none, none, a :: as => (a :: as).foldl (fun t x => t.coreAtom tx.who.id (tx.who.node % 64) x) s
  | none, none, [] =>
    match tx.kind with
    | .write d => s.homeWrite d
    | .writeBack d => s.homeWrite d
    | _ => s

/-- The waiters on the objects of a line are served once this node alone holds it (R234, R235). -/
def State.serveLine (s : State) (l : Nat) : State :=
  (s.waiters.filter (fun w => w.lsCore.isNone && w.addr / 128 == l)).foldl
    (fun t w => if t.waiters.contains w then t.serveObj w else t) s

/-- A performed CXL.mem access is answered, a read with its 64 bytes (R556). -/
def State.cxlAnswer (s : State) (tx : HomeTx) : State :=
  match tx.cxl with
  | some a => s.emit (.cxl false (if tx.kind = .read then s.readBytes a 64 else []))
  | none => s

/-- The request of a line's transaction is performed (R229); the copy that it leaves may need room (R27). -/
def State.performTx (s : State) (l : Nat) (tx : HomeTx) : State :=
  let holds := (s.lineNodes (s.line l)).contains tx.who.node
  let s1 := (s.updLine l (fun x => { x.after tx with performed := true })).useLine l
  let s2 := ((if (s1.line l).st = .inv then s1 else s1.makeRoom l).actTx tx holds).cxlAnswer tx
  if tx.kind = .exclusive ∧ !tx.who.remote then s2.serveLine l else s2

/-- A request is accepted on a free line: snoops first, where it needs them (R228, R229). -/
def State.startTx (s : State) (l : Nat) (tx : HomeTx) : State :=
  let ts := s.snoopTargets (s.line l) tx
  let s1 := s.updLine l (fun x => { x with cur := some tx, performed := false })
  if ts.isEmpty then s1.performTx l tx else s1.sendSnoops l (snoopAux tx.kind) ts

/-- Directory entries of a slice in use (R228). -/
def State.dirUsed (s : State) (slice : Nat) : List (Nat × Line) :=
  s.lines.filter (fun e => e.2.remote && lineSlice e.1 == slice)

/-- The request makes a node the first holder of its line, which takes a directory entry (R228). -/
def Line.needsEntry (x : Line) (tx : HomeTx) : Bool :=
  tx.who.remote && !x.remote && (tx.kind == .shared || tx.kind == .exclusive || tx.kind == .upgrade)

/-- None of a slice's 32,768 directory entries is free (R228). -/
def State.dirFull (s : State) (slice : Nat) : Bool := decide (32768 ≤ (s.dirUsed slice).length)

/-- The oldest request of a slice that waits for a directory entry starts. -/
def State.startWaiting (s : State) (slice : Nat) : State :=
  match s.lines.find? (fun e => lineSlice e.1 == slice && e.2.cur.isNone && e.2.reserved.isEmpty && !e.2.queued.isEmpty) with
  | some e =>
    (match e.2.queued with
    | tx :: r => (s.updLine e.1 (fun x => { x with queued := r })).startTx e.1 tx
    | [] => s)
  | none => s

/-- The home's own request that frees a directory entry. -/
def evictTx : HomeTx := { who := { id := 0xFFFF }, kind := .exclusive }

/-- A slice frees its least recently used directory entry: every remote copy of that line is invalidated, and a dirty one
writes back with its acknowledgement (R228). -/
def State.evictEntry (s : State) (slice : Nat) : State :=
  let idle := (s.dirUsed slice).filter (fun e => e.2.cur.isNone && e.2.reserved.isEmpty && e.2.queued.isEmpty)
  match sortBy (fun a b => decide (a.2.dirUse < b.2.dirUse)) idle with
  | v :: _ =>
    let ts := s.snoopTargets v.2 evictTx
    if ts.isEmpty then (s.updLine v.1 Line.noHolders).startWaiting slice
    else (s.updLine v.1 (fun x => { x with cur := some evictTx, performed := false })).sendSnoops v.1 1 ts
  | [] => s

/-- A request on a free line starts, once the directory has an entry for it (R228). -/
def State.admitTx (s : State) (l : Nat) (tx : HomeTx) : State :=
  if (s.line l).needsEntry tx && s.dirFull (lineSlice l) then
    (s.updLine l (fun x => { x with queued := x.queued ++ [tx] })).evictEntry (lineSlice l)
  else s.startTx l tx

/-- Reserve credits of a slice in use: each until its request has been served (R230). -/
def State.reservedIn (s : State) (slice : Nat) : Nat :=
  ((s.lines.filter (fun e => lineSlice e.1 == slice)).map (fun e => e.2.reserved.length)).sum

/-- A request reaches its home: performed, retried with a reserved credit, or queued in its ordinary credit (R229,
R230). -/
def State.requestLine (s : State) (l : Nat) (tx : HomeTx) : State :=
  let x := s.line l
  if x.cur.isSome then
    if s.reservedIn (lineSlice l) < 32 then
      let s1 := s.updLine l (fun x => { x with reserved := x.reserved ++ [tx] })
      match tx.msg with
      | some m => s1.sendMsg (reply m 0x13 1 [])
      | none => s1
    else s.updLine l (fun x => { x with queued := x.queued ++ [tx] })
  else
    match x.reserved with
    | w :: _ =>
      if w.who = tx.who then s.admitTx l { tx with credit := true }
      else s.updLine l (fun x => { x with queued := x.queued ++ [tx] })
    | [] => s.admitTx l tx

/-- A requester of this node that is no core: it resends at once when its turn comes. -/
def engineWho (w : HomeWho) : Bool := !w.remote && decide (0x1000 ≤ w.id) && decide (w.id < 0xFFFF)

/-- The transaction on a line ends, with its reserve credit: the first reserved requester is told to resend, else the next
queued request starts, else one that waits for a directory entry (R228, R230). -/
def State.endTx (s : State) (l : Nat) : State :=
  match (s.line l).cur with
  | none => s
  | some tx =>
    if !(s.line l).performed then s
    else
      let rest := if tx.credit then (s.line l).reserved.drop 1 else (s.line l).reserved
      let s1 := s.updLine l (fun x => { x with cur := none, performed := false, reserved := rest })
      match rest, (s.line l).queued with
      | w :: _, _ =>
        (match w.msg with
        | some m => s1.sendMsg (reply m 0x15 0 [])
        | none => if engineWho w.who then s1.admitTx l { w with credit := true } else s1)
      | [], q :: r => (s1.updLine l (fun x => { x with queued := r })).admitTx l q
      | [], [] => s1.startWaiting (lineSlice l)

/-- A request whose transaction ends with it where no snoop is needed (log 21). -/
def State.requestOnce (s : State) (l : Nat) (tx : HomeTx) : State :=
  let s1 := s.requestLine l tx
  if (s1.line l).cur.any (fun t => t.who == tx.who) then s1.endTx l else s1

/-- A snoop acknowledgement, with the data of a dirty copy, which reaches memory as a write at the home (R228, R234,
R235, R535). -/
def State.snoopAck (s : State) (l node : Nat) (data : List (Nat × Byte)) : State :=
  let x := s.line l
  if !x.snoops.contains node then s
  else
    let rest := x.snoops.erase node
    let s1 := (if data.isEmpty then s else s.homeWrite data).updLine l (fun x => { x with snoops := rest })
    match x.cur with
    | some tx => if rest.isEmpty && !x.performed then s1.performTx l tx else s1
    | none => s1

/-- A transaction of a requester that its home has not performed. -/
def Line.owes (x : Line) (w : HomeWho) : Bool :=
  (match x.cur with
    | some tx => tx.who == w && !x.performed
    | none => false)
    || x.queued.any (fun tx => tx.who == w)

/-- A transaction for a command that its home has not performed (R43). -/
def Line.owesCmd (x : Line) (cid : Nat) : Bool :=
  (match x.cur with
    | some tx => tx.cid == cid && !x.performed
    | none => false)
    || x.queued.any (fun tx => tx.cid == cid) || (x.reserved.any (fun tx => tx.cid == cid && engineWho tx.who))

/-! ## Accesses of every requester (R29, R48, R226, R227) -/

/-- The memory of this node's line is current at the home: no remote holder may have changed it (R227). -/
def State.lineCurrent (s : State) (pa : Nat) : Bool :=
  let x := s.line (pa / 128)
  x.cur.isNone && !(x.st == .inv && x.remote)

/-- The home lets a requester read the line now. -/
def State.lineReady (s : State) (w : HomeWho) (line : Nat) : Bool :=
  let x := s.line line
  s.lineCurrent (line * 128)
    || (match x.cur with | some tx => tx.who == w && x.performed | none => false)

/-- A requester asks the home of a line; a reserved credit is used once its turn comes (R229, R230). -/
def State.askHome (s : State) (w : HomeWho) (kind : HomeKind) (line : Nat) : State :=
  let x := s.line line
  if x.owes w then s
  else
    match x.reserved with
    | h :: r =>
      if r.any (fun t => t.who == w) || (h.who == w && x.cur.isSome) then s
      else s.requestOnce line { who := w, kind := kind }
    | [] => s.requestOnce line { who := w, kind := kind }

/-- A load asks the home of a line that is busy or not current. -/
def State.askLine (s : State) (w : HomeWho) (line : Nat) : State :=
  if s.lineReady w line then s else s.askHome w .read line

/-- The line may be written at its home at once: free, and no other node holds it. -/
def State.lineOwn (s : State) (w : HomeWho) (line : Nat) : Bool :=
  s.lineReady w line && !(s.line line).remote

/-- A requester asks the home to invalidate the other copies of a line (R227). -/
def State.askOwn (s : State) (w : HomeWho) (line : Nat) : State :=
  if s.lineOwn w line then s else s.askHome w .exclusive line

/-- A core has sent a store or an atomic to a line whose home has not performed it (R210). -/
def State.storeOut (s : State) (core line : Nat) : Bool :=
  (List.range 64).any (fun k => (s.line line).owes { id := core, node := k })
    || s.fab.reqs.any (fun q => (q.kind == 2 || q.kind == 3) && (q.node * 2 ^ 40 + q.addr) / 128 == line
      && (match q.core with | some (i, _, _) => i == core | none => false))

/-- The requester changes a line that it may write at its home (R227). -/
def State.takeOwn (s : State) (line : Nat) : State :=
  ((s.updLine line (fun x => { x with st := .modified })).useLine line).makeRoom line

/-- For whom a request leaves on the links: core with slot and load, or mover channel; command and context; target hide
(R362, R545). -/
structure Asker where
  /-- core, slot and load -/
  core : Option (Nat × Nat × Nat) := none
  /-- mover and channel -/
  chan : Option (Nat × Nat) := none
  /-- command, 0 for none -/
  cid : Nat := 0
  /-- context -/
  ctx : Nat := 0xFFFF
  /-- hide at the other node -/
  hide : Nat := 0

/-- For whom a request for a line leaves: its target hide is that of the command's piece there, or of the context's
REMOTE mapping (R362). -/
def State.askerAt (s : State) (a : Asker) (line : Nat) : Asker :=
  match (s.cmd? a.cid).bind (fun k => k.pieces.find? (fun p =>
      decide (p.pa / 128 ≤ line) && decide (line * 128 < p.pa + p.len))) with
  | some p => { a with hide := p.hide }
  | none =>
    match (s.ctx a.ctx).maps.find? (fun m => m.kind == 3 && m.node == paNode (line * 128)
        && decide (m.base / 128 ≤ paOff (line * 128) / 128) && decide (paOff (line * 128) < m.base + m.len)) with
    | some m => { a with hide := m.hide }
    | none => a

/-- The function whose attachment a requester's host accesses use: its command's, else its context's (R47, R554). -/
def State.askerFn (s : State) (a : Asker) : Nat :=
  match s.cmd? a.cid with
  | some k => k.fn
  | none => s.ctxFn a.ctx

/-- A coherence request for a line of another node is unanswered. -/
def State.cohOut (s : State) (line : Nat) : Bool :=
  s.fab.reqs.any (fun r => r.kind == 4 && r.msg.aux != 3 && r.node == paNode (line * 128) && r.addr == paOff (line * 128))

/-- A requester may read a line now: host memory and the free lines of this node always, another node's where this node
holds it (R29, R227). -/
def State.canRead (s : State) (w : HomeWho) (line : Nat) : Bool :=
  if isHostPa (line * 128) then true
  else if s.isLocal (line * 128) then s.lineReady w line
  else (s.line line).st != .inv

/-- Ask for a line that cannot be read now: at its home here, or with a shared request to another node (R227, R535). -/
def State.askRead (s : State) (w : HomeWho) (a : Asker) (line : Nat) : State :=
  if s.canRead w line then s
  else if s.isLocal (line * 128) then s.askHome w .read line
  else if s.cohOut line then s
  else
    s.sendReq { kind := 4, len := 0, hide := BitVec.ofNat 4 (s.askerAt a line).hide,
                dst := BitVec.ofNat 14 (paNode (line * 128)), aux := 0,
                addr := BitVec.ofNat 40 (paOff (line * 128)) } a.core a.chan a.cid a.ctx

/-- Ask for several lines. -/
def State.askReads (s : State) (w : HomeWho) (a : Asker) (ls : List Nat) : State := ls.foldl (fun t l => t.askRead w a l) s

/-- The lines of [a, a + n). -/
def linesOf (a n : Nat) : List Nat := if n = 0 then [] else (List.range ((a + n - 1) / 128 - a / 128 + 1)).map (fun i => a / 128 + i)

/-- Runs of consecutive addresses of the bytes written. -/
def cellRuns : List (Nat × Byte) → List (Nat × List Byte)
  | [] => []
  | (a, b) :: r =>
    match cellRuns r with
    | (a', bs) :: t => if a' = a + 1 then (a, b :: bs) :: t else (a, [b]) :: (a', bs) :: t
    | [] => [(a, [b])]

/-- Add cells to those of one instruction or burst: one part a line, a later byte in place of an earlier one (R172,
R208). -/
def putCell (es : List (Nat × List (Nat × Byte))) (a : Nat) (b : Byte) : List (Nat × List (Nat × Byte)) :=
  match es with
  | [] => [(a / 128, [(a, b)])]
  | (l, cs) :: r => if l = a / 128 then (l, tset cs a b) :: r else (l, cs) :: putCell r a b

/-- The bytes of one store by line, in the order in which the lines are first touched (R208). -/
def storeLines (cells : List (Nat × Byte)) : List (List (Nat × Byte)) :=
  (cells.foldl (fun es c => putCell es c.1 c.2) []).map (fun e => e.2)

/-- This node holds another node's line in E or M, so that a write needs no request (R227). -/
def State.heldOwn (s : State) (line : Nat) : Bool := (s.line line).st == .excl || (s.line line).st == .modified

/-- A write to another node's line that this node holds in E or M; the copy is M (R227). -/
def State.writeHeld (s : State) (line : Nat) (cells : List (Nat × Byte)) : State :=
  ((s.writeCells cells).updLine line (fun x => { x with st := .modified })).useLine line

/-- The bytes of one line are written by a requester: to the host as posted writes, at a home of this node as a
transaction, or towards another node, whose home performs and acknowledges them (R29, R48, R226, R227, R535). `na` keeps
them from allocating in a shared cache (R416). -/
def State.postLine (s : State) (id : Nat) (a : Asker) (na : Bool) (cells : List (Nat × Byte)) : State :=
  let pa := (cells.map (fun c => c.1)).headD 0
  let line := pa / 128
  if cells.isEmpty then s
  else if isHostPa pa || decide (2 ^ 56 ≤ pa) then
    ((s.writeCells cells).dropStore (cells.map (fun c => c.1))).emitWrites (s.askerFn a) (cellRuns cells)
  else if s.isLocal pa then
    s.requestOnce line { who := { id := id }, kind := .write cells, cid := a.cid, na := na }
  else if s.heldOwn line then s.writeHeld line cells
  else
    (cellRuns cells).foldl (fun t r =>
      t.sendReq { kind := if na then 5 else 2, len := r.2.length,
                  hide := BitVec.ofNat 4 (s.askerAt a line).hide,
                  dst := BitVec.ofNat 14 (paNode r.1), addr := BitVec.ofNat 40 (paOff r.1), data := r.2 } a.core a.chan a.cid
        a.ctx) s

/-- Bytes are written by a requester, line by line. -/
def State.post (s : State) (id : Nat) (a : Asker) (na : Bool) (cells : List (Nat × Byte)) : State :=
  (storeLines cells).foldl (fun t cs => t.postLine id a na cs) s

/-- Consecutive bytes are written by a requester. -/
def State.postBytes (s : State) (id : Nat) (a : Asker) (na : Bool) (pa : Nat) (bs : List Byte) : State :=
  s.post id a na (bs.mapIdx (fun i b => (pa + i, b)))

/-- A requester holds a line so that it may read and write it at once: host memory always, a line of this node that no other
node holds, another node's line that this node holds in E or M (R227). -/
def State.holdsOwn (s : State) (w : HomeWho) (line : Nat) : Bool :=
  if isHostPa (line * 128) then true else if s.isLocal (line * 128) then s.lineOwn w line else s.heldOwn line

/-- Ask for a line to write: at its home here, or with an exclusive request to another node (R227, R535). -/
def State.askOwnOf (s : State) (w : HomeWho) (a : Asker) (line : Nat) : State :=
  if s.holdsOwn w line then s
  else if s.isLocal (line * 128) then s.askHome w .exclusive line
  else if s.cohOut line then s
  else
    s.sendReq { kind := 4, len := 0, hide := BitVec.ofNat 4 (s.askerAt a line).hide,
                dst := BitVec.ofNat 14 (paNode (line * 128)), aux := 1, addr := BitVec.ofNat 40 (paOff (line * 128)) } a.core
      a.chan a.cid a.ctx

/-- Ask for several lines to write. -/
def State.askOwns (s : State) (w : HomeWho) (a : Asker) (ls : List Nat) : State := ls.foldl (fun t l => t.askOwnOf w a l) s

/-- Signals of a requester to a counting event: at its home here, or as a message to another node (R226, R234, R535). -/
def State.postSignal (s : State) (id : Nat) (a : Asker) (pa n : Nat) : State :=
  if s.isLocal pa then
    s.requestOnce (pa / 128) { who := { id := id }, kind := .write [], sig := some (pa, n, a.ctx), cid := a.cid }
  else
    s.sendReq { kind := 6, len := 4, hide := BitVec.ofNat 4 (s.askerAt a (pa / 128)).hide, dst := BitVec.ofNat 14 (paNode pa),
                addr := BitVec.ofNat 40 (paOff pa), data := leBytes 4 n } a.core a.chan a.cid a.ctx

/-- Requester identities of a home: mover channels, acres, foreign engines, the Host Port, the Gate (R229; log 21). -/
def moverId (m c : Nat) : Nat := 0x1000 + 32 * m + c
/-- Requester identity of a hide's acre. -/
def acreId (h : Nat) : Nat := 0x2000 + h
/-- Requester identity of a foreign engine. -/
def engineId (e : Nat) : Nat := 0x3000 + e
/-- Requester identity of CXL.mem accesses. -/
def cxlId : Nat := 0x4000
/-- Requester identity of the Gate. -/
def gateId : Nat := 0x5000

/-- The Gate as a requester. -/
def gateWho : HomeWho := { id := gateId }

/-- For whom the Gate's accesses leave: a command, 0 for none, and a context. -/
def State.gateAsker (s : State) (cid c : Nat) : Asker := { cid := cid, ctx := c, hide := (s.ctx c).hide }

/-- The Gate writes consecutive bytes (R48, R226). -/
def State.gatePut (s : State) (cid c pa : Nat) (bs : List Byte) : State := s.postBytes gateId (s.gateAsker cid c) false pa bs

/-- The Gate may read some lines and write others now. -/
def State.gateHas (s : State) (reads owns : List Nat) : Bool :=
  reads.all (s.canRead gateWho) && owns.all (s.holdsOwn gateWho)

/-- The Gate asks for lines to read and lines to write. -/
def State.gateAsk (s : State) (cid c : Nat) (reads owns : List Nat) : State :=
  (s.askReads gateWho (s.gateAsker cid c) reads).askOwns gateWho (s.gateAsker cid c) owns

/-! ## The commands -/

/-- HOME_REQUEST (R229, R230): its line is of this node. -/
def execHomeRequest (who : HomeWho) (line : BitVec 56) (k : HomeKind) (s : State) : Host.Outcome State Fault Refusal :=
  .next (if s.isLocal line.toNat then s.requestLine (line.toNat / 128) { who := who, kind := k } else s)

/-- HOME_TRANSACTION_END (R230). -/
def execHomeTransactionEnd (line : BitVec 56) (s : State) : Host.Outcome State Fault Refusal :=
  .next (s.endTx (line.toNat / 128))

end Sys2Proof.Machine
end

