-- ==== Sys2Proof/Machine/MoverOps.lean ====
section
/-! DEFINITION. What a mover channel does with a descriptor: bursts, element widths, bit planes, wrap, fill, pacing,
completion, abort (R411, R416 to R426). -/

namespace Sys2Proof.Machine

/-- A mover's record. -/
def State.mover (s : State) (m : Nat) : Mover := tget s.movers m {}

/-- Change a mover. -/
def State.updMover (s : State) (m : Nat) (f : Mover → Mover) : State := { s with movers := tupd s.movers m {} f }

/-- A channel's record. -/
def State.chan (s : State) (m c : Nat) : Chan := tget (s.mover m).chans c {}

/-- Change a channel. -/
def State.updChan (s : State) (m c : Nat) (f : Chan → Chan) : State :=
  s.updMover m (fun r => { r with chans := tupd r.chans c {} f })

/-- Bits of an element width code (R416). -/
def widthBits (w : Nat) : Nat :=
  match w with
  | 0 => 1
  | 1 => 2
  | 2 => 3
  | 3 => 4
  | 4 => 6
  | 5 => 8
  | 6 => 16
  | _ => 32

/-- The descriptor that 32 bytes spell (R416). -/
def mdescOf (v : Nat) : MDesc :=
  { src := nbits v 55 0, pattern := BitVec.ofNat 64 v, dst := nbits v 119 64, count := nbits v 159 128,
    ws := nbits v 162 160, wd := nbits v 165 163, signed := nbit v 166, shuf := nbits v 169 168, g16 := nbit v 170,
    fill := nbit v 171, na := nbit v 172, pulse := nbit v 173, sig := nbit v 174, join := nbit v 175,
    srcWrap := nbits v 181 176, dstWrap := nbits v 189 184, own := nbit v 255, gate := false }

/-- A wrap value that the descriptor may hold (R416, R418). -/
def wrapOk (n : Nat) : Bool := n == 0 || (decide (12 ≤ n) && decide (n ≤ 40))

/-- The descriptor can be performed (R418). -/
def MDesc.ok (d : MDesc) : Bool :=
  decide (d.shuf < 3) && (d.shuf == 0 || (d.ws == d.wd && decide (d.ws ≤ 1))) && wrapOk d.srcWrap && wrapOk d.dstWrap
    && (!d.fill || (d.ws == 5 && d.wd == 5)) && d.count != 0

/-- Address of byte i from a base under a wrap (R422). -/
def wrapAddr (base wrap i : Nat) : Nat :=
  if wrap = 0 then base + i else base / 2 ^ wrap * 2 ^ wrap + (base + i) % 2 ^ wrap

/-- The physical address of byte off of an extent of a command, from its pieces. -/
def pieceAddr (ps : List Piece) (ext off : Nat) : Option Nat :=
  match ps.find? (fun p => p.ext == ext && decide (p.off ≤ off) && decide (off < p.off + p.len)) with
  | some p => some (p.pa + (off - p.off))
  | none => none

/-- The pieces that a channel's Gate descriptors are resolved through. -/
def State.chanPieces (s : State) (ch : Chan) : List Piece :=
  match ch.cid with
  | some cid => (match s.cmd? cid with | some c => c.pieces | none => [])
  | none => []

/-- Physical address of source byte i of a descriptor. -/
def State.srcAddr (s : State) (ch : Chan) (d : MDesc) (i : Nat) : Nat :=
  if d.gate then (pieceAddr (s.chanPieces ch) 0 (d.src + i)).getD 0 else wrapAddr d.src d.srcWrap i

/-- Physical address of destination byte i of a descriptor. -/
def State.dstAddr (s : State) (ch : Chan) (d : MDesc) (i : Nat) : Nat :=
  if d.gate then (pieceAddr (s.chanPieces ch) 1 (d.dst + i)).getD 0 else wrapAddr d.dst d.dstWrap i

/-- Elements of a bit-plane group (R64, R421). -/
def MDesc.group (d : MDesc) : Nat := if d.g16 then 16 else 32

/-- n bits of the source from a bit position on, least significant first. -/
def State.srcBits (s : State) (ch : Chan) (d : MDesc) (pos n : Nat) : Nat :=
  leNat ((List.range ((pos + n + 7) / 8 - pos / 8)).map (fun i => s.readPa (s.srcAddr ch d (pos / 8 + i))))
    / 2 ^ (pos % 8) % 2 ^ n

/-- Code of element i of the source: packed, or from its bit planes (R63, R64); of a fill, byte i of the pattern. -/
def State.srcCode (s : State) (ch : Chan) (d : MDesc) (i : Nat) : Nat :=
  let w := widthBits d.ws
  if d.fill then nbits d.pattern.toNat (8 * (i % 8) + 7) (8 * (i % 8))
  else if d.shuf = 2 then
    let j := ch.srcBit + i
    ((List.range w).map (fun p =>
      s.srcBits ch d (j / d.group * (w * d.group) + p * d.group + j % d.group) 1 * 2 ^ p)).sum
  else s.srcBits ch d (ch.srcBit + i * w) w

/-- An element brought to the destination width: extended, or saturated with a count of one (R421). -/
def convertWidth (d : MDesc) (v : Nat) : Nat × Nat :=
  let ws := widthBits d.ws
  let wd := widthBits d.wd
  if ws ≤ wd then (if d.signed then ofSigned wd (toSigned ws v) else v, 0)
  else if d.signed then
    let x := toSigned ws v
    if x < -(2 ^ (wd - 1) : Nat) then (2 ^ (wd - 1), 1)
    else if (2 ^ (wd - 1) : Nat) ≤ x then (2 ^ (wd - 1) - 1, 1)
    else (ofSigned wd x, 0)
  else if 2 ^ wd ≤ v then (2 ^ wd - 1, 1)
  else (v, 0)

/-- The codes of elements a to a + n − 1, packed least significant first at the destination width. -/
def State.packCodes (s : State) (ch : Chan) (d : MDesc) (a : Nat) : Nat → Nat
  | 0 => 0
  | n + 1 => (convertWidth d (s.srcCode ch d a)).1 % 2 ^ widthBits d.wd
      + 2 ^ widthBits d.wd * State.packCodes s ch d (a + 1) n

/-- Saturations among elements a to a + n − 1 (R421). -/
def State.countSat (s : State) (ch : Chan) (d : MDesc) (a : Nat) : Nat → Nat
  | 0 => 0
  | n + 1 => (convertWidth d (s.srcCode ch d a)).2 + State.countSat s ch d (a + 1) n

/-- Bytes that elements a to b − 1 write to a packed destination: the first byte keeps what lies below, the unused high
bits of the last are zero (R421). -/
def State.packedCells (s : State) (ch : Chan) (d : MDesc) (a b : Nat) : List (Nat × Byte) :=
  let w := widthBits d.wd
  let pos := ch.dstBit + a * w
  let low := (s.readPa (s.dstAddr ch d (pos / 8))).toNat % 2 ^ (pos % 8)
  let v := low + s.packCodes ch d a (b - a) * 2 ^ (pos % 8)
  (leBytes ((pos % 8 + (b - a) * w + 7) / 8) v).mapIdx (fun i x => (s.dstAddr ch d (pos / 8 + i), x))

/-- Bytes that elements a to b − 1 write to a bit-plane destination, absent elements zero (R64, R421). -/
def State.planeCells (s : State) (ch : Chan) (d : MDesc) (a b : Nat) : List (Nat × Byte) :=
  let w := widthBits d.wd
  let g := d.group
  let lo := ch.dstBit + a
  let hi := ch.dstBit + b
  (List.range ((hi - 1) / g - lo / g + 1)).flatMap (fun i =>
    (List.range w).flatMap (fun p =>
      (List.range (g / 8)).map (fun k =>
        let first := (lo / g + i) * g + 8 * k
        let at_ := s.dstAddr ch d ((lo / g + i) * (w * g / 8) + p * (g / 8) + k)
        let old := (s.readPa at_).toNat
        (at_, BitVec.ofNat 8 ((List.range 8).map (fun e =>
          (if first + e < lo then (if nbit old e then 1 else 0)
           else if first + e < hi then (if nbit (s.srcCode ch d (first + e - ch.dstBit)) p then 1 else 0)
           else 0) * 2 ^ e)).sum))))

/-- Bytes that elements a to b − 1 write. -/
def State.burstCells (s : State) (ch : Chan) (d : MDesc) (a b : Nat) : List (Nat × Byte) :=
  if b ≤ a then [] else if d.shuf = 1 then s.planeCells ch d a b else s.packedCells ch d a b

/-- The element after the burst that starts with element a: at a 16 KiB source boundary, a wrap boundary, a piece's end
or the descriptor's end (R421). -/
def State.burstEnd (s : State) (ch : Chan) (d : MDesc) (a : Nat) : Nat :=
  let w := widthBits d.ws
  if d.fill then min d.count ((a / 16384 + 1) * 16384)
  else
    let byte := (ch.srcBit + a * w) / 8
    let addr := s.srcAddr ch d byte
    let toBoundary := 16384 - addr % 16384
    let toWrap := if d.srcWrap = 0 then toBoundary else 2 ^ d.srcWrap - addr % 2 ^ d.srcWrap
    let n := ((byte + min toBoundary toWrap) * 8 - ch.srcBit) / w
    min d.count (max n (a + 1))

/-- Ring address of the descriptor at RING_HEAD (R416). -/
def chanDescAddr (ch : Chan) : Nat := ch.ringBase.toNat + 32 * (ch.head.toNat % 2 ^ ch.ringLog2)

/-- Stack Ports of a hide (R426). -/
def State.hidePorts (s : State) (h : Nat) : Nat :=
  ((List.range 12).filter (fun p => nbit (s.kodRun (0x3000 + h) 2) p)).length

/-- The hide that a channel works for, from its CH_OWNER tag (R413). -/
def chanHide (ch : Chan) : Nat := (ch.owner.extractLsb' 32 4).toNat
/-- CH_OWNER.CTX (R413). -/
def chanCtx (ch : Chan) : Nat := (ch.owner.extractLsb' 0 14).toNat
/-- CH_OWNER.GEN (R413). -/
def chanGen (ch : Chan) : Nat := (ch.owner.extractLsb' 16 16).toNat

/-- For whom a channel's requests leave: its command, its context and its hide (R362, R428). -/
def State.chanAsker (s : State) (m c : Nat) : Asker :=
  let ch := s.chan m c
  { chan := some (m, c), cid := ch.cid.getD 0, ctx := chanCtx ch, hide := chanHide ch }

/-- Bytes that a channel writes beside its bursts. -/
def State.chanWrite (s : State) (m c a : Nat) (bs : List Byte) : State :=
  s.postBytes (moverId m c) (s.chanAsker m c) false a bs

/-- The channel's descriptor ends: its status write, OWN = 0, RING_HEAD and the pulse (R417, R423). STATUS 1 DONE,
2 ABORTED, 3 HALTED, 4 BAD, 5 PERM. A Gate descriptor has no ring slot. -/
def State.endDesc (s : State) (m c st residue : Nat) : State :=
  let ch := s.chan m c
  match ch.cur with
  | none => s
  | some d =>
    let s1 :=
      if d.gate then s
      else
        (s.chanWrite m c (chanDescAddr ch + 24)
          (leBytes 8 (residue % 2 ^ 32 + st * 2 ^ 32 + min ch.satc 255 * 2 ^ 40))).updChan m c (fun ch => { ch with head := ch.head + 1 })
    let w := widthBits d.ws
    let s2 := s1.updChan m c (fun x => { x with
      cur := none, done := 0, issued := [], satc := 0, heldBytes := 0, stallPosted := false,
      srcBit := if d.shuf = 2 then (x.srcBit + d.count) % d.group else (x.srcBit + d.count * w) % 8,
      dstBit := if d.shuf = 1 then (x.dstBit + d.count) % d.group else (x.dstBit + d.count * widthBits d.wd) % 8 })
    if st = 1 ∧ d.pulse ∧ (s.chan m c).pulseTo = 2 then s2.latch (448 + 4 * m) else s2

/-- Fill level of a watched queue in memory (R419). -/
def State.fillLevel (s : State) (ch : Chan) : Nat :=
  if ch.watch.getLsbD 63 then (s.freshVal 32).toNat
  else
    let a := ch.watch.toNat % 2 ^ 56 / 8 * 8
    (s.readNum a 4 + 2 ^ 32 - s.readNum (a + 4) 4) % 2 ^ 32

/-- Whether pacing lets the channel run (R420). -/
def State.pacedNow (s : State) (ch : Chan) : Bool :=
  let low := ch.marks.toNat % 2 ^ 32
  let high := ch.marks.toNat / 2 ^ 32
  let lv := s.fillLevel ch
  if ch.watch = 0 then true
  else if ch.drain then (if ch.paced then decide (low < lv) else decide (high ≤ lv))
  else if ch.paced then decide (lv < high)
  else decide (lv ≤ low)

/-- Add a burst's bytes to PROD or CONS of a watched queue in memory (R420). -/
def State.paceCount (s : State) (m c : Nat) (srcBytes dstBytes : Nat) : State :=
  let ch := s.chan m c
  if ch.watch = 0 ∨ ch.watch.getLsbD 63 then s
  else
    let a := ch.watch.toNat % 2 ^ 56 / 8 * 8
    let at_ := if ch.drain then a + 4 else a
    let v := (s.readNum at_ 4 + (if ch.drain then srcBytes else dstBytes)) % 2 ^ 32
    s.chanWrite m c at_ (leBytes 4 v)

/-- Source bytes that elements a to b − 1 read, as first and end (R63, R64, R421). -/
def burstBytes (ch : Chan) (d : MDesc) (a b : Nat) : Nat × Nat :=
  let w := widthBits d.ws
  if d.fill then (0, 0)
  else if d.shuf = 2 then
    ((ch.srcBit + a) / d.group * (w * d.group) / 8, ((ch.srcBit + b - 1) / d.group + 1) * (w * d.group) / 8)
  else ((ch.srcBit + a * w) / 8, (ch.srcBit + b * w + 7) / 8)

/-- Lines that a burst must be able to read: its source, and the destination where a byte keeps some of its bits (R226). -/
def State.burstLines (s : State) (ch : Chan) (d : MDesc) (a b : Nat) : List Nat :=
  let r := burstBytes ch d a b
  let kept := if d.shuf = 1 ∨ (ch.dstBit + a * widthBits d.wd) % 8 ≠ 0 then (s.burstCells ch d a b).map (fun x => x.1 / 128) else []
  ((List.range (r.2 - r.1)).map (fun i => s.srcAddr ch d (r.1 + i) / 128) ++ kept).eraseDups

/-- The lines that the oldest issued burst of a channel reads. -/
def State.nextLines (s : State) (m c : Nat) : List Nat :=
  let ch := s.chan m c
  match ch.cur, ch.issued with
  | some d, e :: _ => s.burstLines ch d ch.done e
  | _, _ => []

/-- The oldest issued burst can read what it needs now: current lines here, lines of other nodes that this node holds
(R226, R227). -/
def State.burstReady (s : State) (m c : Nat) : Bool :=
  (s.nextLines m c).all (fun l => s.canRead { id := moverId m c } l)

/-- Ask for the lines of the oldest issued burst (R48, R226). -/
def State.askBurst (s : State) (m c : Nat) : State :=
  s.askReads { id := moverId m c } (s.chanAsker m c) (s.nextLines m c)

/-- The oldest issued burst is written: its bytes, pacing counts, the SIG event and CH_BURSTS (R420, R421, R423). A
channel whose generation is not its context's current one has its writes dropped at the filter (R405, R407). -/
def State.writeBurst (s : State) (m c : Nat) : State :=
  let ch := s.chan m c
  match ch.cur, ch.issued with
  | some d, e :: rest =>
    let sat := s.countSat ch d ch.done (e - ch.done)
    let srcBytes := (e * widthBits d.ws + 7) / 8 - (ch.done * widthBits d.ws + 7) / 8
    let dstBytes := (e * widthBits d.wd + 7) / 8 - (ch.done * widthBits d.wd + 7) / 8
    let stale := ch.cid.isSome && s.ctxLive (chanCtx ch) && (s.ctx (chanCtx ch)).gen != chanGen ch
    let s1 := if stale then s
      else (s.post (moverId m c) (s.chanAsker m c) d.na (s.burstCells ch d ch.done e)).paceCount m c srcBytes dstBytes
    let s2 := s1.updChan m c (fun x => { x with
      done := e, issued := rest, bursts := x.bursts + 1, satc := x.satc + sat, heldBytes := 0, stallPosted := false,
      st := if x.st = .held then .running else x.st })
    if d.sig && !stale then s2.postSignal (moverId m c) (s.chanAsker m c) (ch.sigAddr.toNat % 2 ^ 56 / 4 * 4) 1 else s2
  | _, _ => s

/-- Add a byte to those of its aligned 64-bit word. -/
def putWord (es : List (Nat × List (Nat × Byte))) (a : Nat) (b : Byte) : List (Nat × List (Nat × Byte)) :=
  match es with
  | [] => [(a / 8, [(a, b)])]
  | (l, cs) :: r => if l = a / 8 then (l, tset cs a b) :: r else (l, cs) :: putWord r a b

/-- Free values decide, aligned 64-bit word by word, which of a dropped descriptor's writes were performed: each word is
written whole or not at all (R207, R426; log 4). -/
def State.writeSome (s : State) (m c : Nat) (na : Bool) (cells : List (Nat × Byte)) : State :=
  (cells.foldl (fun es x => putWord es x.1 x.2) []).foldl (fun t w =>
    (if t.freshVal 1 = 1#1 then t.post (moverId m c) (s.chanAsker m c) na w.2 else t).freshNext) s

/-- End the current descriptor in the tracking mode of the channel's hide (R426): from the burst record in a hide of
fewer than twelve ports, dropped at once in full-stripe mode. -/
def State.abortChan (s : State) (m c : Nat) : State :=
  let ch := s.chan m c
  match ch.cur with
  | none => s.updChan m c (fun x => { x with gate := [] })
  | some d =>
    if s.hidePorts (chanHide ch) < 12 then
      let s1 := if ch.st = .held || !s.burstReady m c then s else s.writeBurst m c
      ((s1.updChan m c (fun x => { x with gate := [] })).endDesc m c 2
        (d.count - (s1.chan m c).done)).latch (448 + 4 * m)
    else
      let s1 := s.writeSome m c d.na (s.burstCells ch d ch.done d.count)
      ((s1.updChan m c (fun x => { x with gate := [], bursts := (s1.freshVal 64).toNat })).freshNext).endDesc m c 2
        0xFFFFFFFF

/-- Release a channel that the Gate placed. -/
def State.freeChan (s : State) (m c : Nat) : State :=
  s.updChan m c (fun x => { x with
    cid := none, gate := [], cur := none, done := 0, issued := [], st := .idle, owner := 0, heldBytes := 0, satc := 0,
    srcBit := 0, dstBit := 0, stop := false })

/-- The channels that serve a command (R428). -/
def State.chansOf (s : State) (cid : Nat) : List (Nat × Nat) :=
  s.movers.flatMap (fun m => (m.2.chans.filter (fun c => c.2.cid == some cid)).map (fun c => (m.1, c.1)))

/-- A channel kept for class-0 acre operations of a hide that has class-0 acre priority (R411). -/
def State.classZeroChan (s : State) (m c : Nat) : Bool :=
  (List.range 8).any (fun h => s.hideExists h && s.kodRun (0x3000 + h) 0x0A == 1 && c == 31 - h / 4 && m / 4 == h % 4)

/-- Channels of a mover that carry a stream or are programmed. -/
def State.chanBusy (s : State) (m c : Nat) : Bool := (s.chan m c).cid.isSome || (s.chan m c).enable

/-- The mover and channel that a new stream is placed on, movers in a list left out (R411). -/
def State.pickChan (s : State) (not_ : List Nat) : Option (Nat × Nat) :=
  let cands := (List.range 16).filterMap (fun m =>
    if not_.contains m || (s.mover m).halted then none
    else ((List.range 32).find? (fun c => !s.chanBusy m c && !s.classZeroChan m c)).map
      (fun c => (((List.range 32).filter (fun c => s.chanBusy m c)).length, m, c)))
  (cands.foldl (fun (b : Option (Nat × Nat × Nat)) x =>
    match b with
    | none => some x
    | some y => if x.1 < y.1 then some x else some y) none).map (fun x => x.2)

/-- Place a stream of a command on a channel with its descriptors (R410, R411). -/
def State.placeChan (s : State) (mc : Nat × Nat) (cmd : Cmd) (ds : List MDesc) : State :=
  (s.updChan mc.1 mc.2 (fun x => { x with
    cid := some cmd.cid, gate := ds, st := .waiting, cur := none, done := 0, issued := [], satc := 0, srcBit := 0,
    dstBit := 0,
    owner := BitVec.ofNat 64 (cmd.ctx % 2 ^ 14 + s.genOf cmd.ctx * 2 ^ 16 + s.hideTag cmd.hide * 2 ^ 32) })).updCmd
    cmd.cid (fun k => { k with chans := k.chans ++ [mc] })

end Sys2Proof.Machine
end

