-- ==== Sys2Proof/Machine/Engine.lean ====
section
/-! DEFINITION. Work on the engines as a whole: save areas and group records, leaving an engine, stopping, destroying
and migrating (R164, R190 to R202, R280, R339, R369, R404 to R407). -/

namespace Sys2Proof.Machine

/-! ## Placed groups -/

/-- A group of a command. -/
def State.group? (s : State) (cid g : Nat) : Option Group := s.groups.find? (fun x => x.cid == cid && x.g == g)

/-- Change a group. -/
def State.updGroup (s : State) (cid g : Nat) (f : Group → Group) : State :=
  { s with groups := s.groups.map (fun x => if x.cid = cid ∧ x.g = g then f x else x) }

/-- Groups placed on a core. -/
def State.groupsOn (s : State) (core : Nat) : List Group := s.groups.filter (fun x => x.core == some core)

/-- The hide's acre holds the matrix units (R141). -/
def State.acreHolds (s : State) (h : Nat) : Bool := (s.hide h).acre.run.isSome || (s.hide h).acre.pre.isSome

/-- Chains that wait for a core's matrix unit try again (R143, R190). -/
def State.wakeMx (s : State) (core : Nat) : State :=
  s.updCore core (fun k => { k with
    chains := k.chains.map (fun e => (e.1, if e.2.st = .mxWait then { e.2 with st := .ready } else e.2)) })

/-- The MX counters of a unit (R192, R199). -/
def cntBytes (k : Cnt) : List Byte :=
  leBytes 4 k.spec ++ leBytes 4 k.undp ++ leBytes 4 k.satp ++ leBytes 4 k.sats ++ leBytes 4 k.qsat

/-- A B register as 16,384 bytes: cells by column, then row (R189). -/
def bregBytes (b : BReg) : List Byte :=
  (List.range 128).flatMap (fun col => (List.range 128).flatMap (fun row =>
    leBytes 1 ((List.range b.d).map (fun e => tget b.codes (col * 512 + row * b.d + e) 0 * 2 ^ (8 / b.d * e))).sum))

/-- The private state of a unit (R189). -/
def mxBytes (u : MxUnit) : List Byte :=
  bregBytes u.b0 ++ bregBytes u.b1
    ++ (List.range 4096).flatMap (fun i => leBytes 16 (ofSigned 128 (tget u.acc i 0)))

/-- Physical address of the matrix-state slot of a unit that a context owns (R192). -/
def State.slotPa (s : State) (c : Nat) (u : MxUnit) : Nat := s.localPa ((s.ctx c).saveBase + u.slotAt)

/-- A core's unit in private use is written to its owner's slot (R142, R192). -/
def State.writeSlot (s : State) (core : Nat) : State :=
  match (s.core core).unit.owner with
  | none => s
  | some c =>
    s.writeBytes (s.slotPa c (s.core core).unit)
      (cntBytes (s.core core).unit.cnt ++ leBytes 2 (core / 17 * 256 + s.coreColumn core) ++ leBytes 42 0
        ++ mxBytes (s.core core).unit)

/-- The MX counters in 20 bytes from an address on (R192). -/
def State.readCnt (s : State) (pa : Nat) : Cnt :=
  { spec := s.readNum pa 4, undp := s.readNum (pa + 4) 4, satp := s.readNum (pa + 8) 4, sats := s.readNum (pa + 12) 4,
    qsat := s.readNum (pa + 16) 4 }

/-- The element codes of a B register as 16,384 bytes give them (R189). -/
def State.readCells (s : State) (pa : Nat) (b : BReg) : BReg :=
  { b with codes := (List.range 128).flatMap (fun col => (List.range (128 * b.d)).map (fun k =>
      (col * 512 + k, (s.readPa (pa + col * 128 + k / b.d)).toNat / 2 ^ (8 / b.d * (k % b.d)) % 2 ^ (8 / b.d)))) }

/-- A unit as its owner's slot holds it (R144, R192). Formats and stone scales, which no slot has, stay with the unit
(log 49). -/
def State.slotUnit (s : State) (u : MxUnit) : MxUnit :=
  match u.owner with
  | none => u
  | some c =>
    let pa := s.slotPa c u
    { u with cnt := s.readCnt pa, b0 := s.readCells (pa + 64) u.b0, b1 := s.readCells (pa + 16448) u.b1,
             acc := (List.range 4096).map (fun i => (i, toSigned 128 (s.readNum (pa + 32832 + 16 * i) 16))) }

/-- A resumed group's matrix state that waited for its core's unit takes the unit, which has been released (R190). -/
def State.installMx (s : State) (core : Nat) : State :=
  match (s.groupsOn core).find? (fun x => x.savedMx.isSome) with
  | none => s
  | some x =>
    let s1 := (s.updCore core (fun k => { k with
      unit := { x.savedMx.getD {} with owner := some x.ctx, slotAt := x.mxSlot.getD 0 } })).updGroup x.cid x.g
        (fun y => { y with savedMx := none, mxSlot := none })
    match s.coreHide core with
    | some h => if s.acreHolds h then s1.writeSlot core else s1
    | none => s1

/-- Release a unit: its state is zero, its slot free, and waiting chains try again (R190). -/
def State.releaseUnit (s : State) (core : Nat) : State :=
  ((s.updCore core (fun k => { k with unit := {} })).installMx core).wakeMx core

/-- An outstanding request is a wait at a remote object: an evwait, or an arrival at a barrier object (R235, R535). -/
def RReq.waits (r : RReq) : Bool := r.kind == 7 || (r.kind == 6 && r.msg.aux.getLsbD 0)

/-- An outstanding request is a chain's wait at a remote object (R235, R535). -/
def RReq.waitOf (r : RReq) (core slot : Nat) : Bool :=
  r.waits && !r.saved && (match r.core with | some (i, j, _) => i == core && j == slot | none => false)

/-- Nothing waits for a remote wait any more: the signal that it takes is given back (R237; log 21). -/
def RReq.withdraw (r : RReq) : RReq := { r with withdrawn := true, core := none, cid := 0 }

/-- Withdraw the registrations of a chain, and its waits at remote homes (R237). -/
def State.dropChainWaiters (s : State) (core slot : Nat) : State :=
  { s with waiters := s.waiters.filter (fun w => w.chain != some (core, slot))
           fab := { s.fab with reqs := s.fab.reqs.map (fun r => if r.waitOf core slot then r.withdraw else r) } }

/-- A chain waits no longer for the matrix unit. -/
def State.leaveMxq (s : State) (core slot : Nat) : State :=
  s.updCore core (fun k => { k with mxq := k.mxq.filter (fun j => j != slot) })

/-- Clear the slots of a group's chains, with their registrations and buffered loads. -/
def State.clearSlots (s : State) (core : Nat) : List Nat → State
  | [] => s
  | i :: is => State.clearSlots (((s.dropChainWaiters core i).leaveMxq core i).updCore core (fun k => { k with
      chains := terase k.chains i })) core is

/-- A group leaves its core for good: its slots, and the unit with its context's last group there (R190). -/
def State.dropGroup (s : State) (cid g : Nat) : State :=
  match s.group? cid g with
  | none => s
  | some x =>
    let s1 := { s with groups := s.groups.filter (fun y => !(y.cid == cid && y.g == g)) }
    match x.core with
    | none => s1
    | some i =>
      let s2 := s1.clearSlots i x.slots
      if (s2.core i).unit.owner = some x.ctx ∧ !(s2.groupsOn i).any (fun y => y.ctx == x.ctx && y.savedMx.isNone) then
        s2.releaseUnit i
      else s2

/-- The chains of a stopping command issue nothing further and wait for no object; its saved groups are gone (R195,
R197). -/
def State.stopGroups (s : State) (cid : Nat) : State :=
  (s.groups.filter (fun x => x.cid == cid)).foldl (fun t x =>
    match x.core with
    | none => t.dropGroup cid x.g
    | some i => (x.slots.foldl (fun u j => u.dropChainWaiters i j) t).updGroup cid x.g (fun y => { y with
        saving := false })) s

/-- Every group of a command leaves. -/
def State.dropGroups (s : State) (cid : Nat) : State :=
  (s.groups.filter (fun x => x.cid == cid)).foldl (fun t x => t.dropGroup x.cid x.g) s

/-! ## Save areas (R190, R192, R199, R200, R339) -/

/-- Bytes of a matrix-state slot (R192). -/
def mxSlotLen : Nat := 98368

/-- Matrix-state slots that a context holds, as offsets in its save area. -/
def State.slotsHeld (s : State) (c : Nat) : List Nat :=
  (s.cores.filter (fun k => k.2.unit.owner == some c)).map (fun k => k.2.unit.slotAt)
    ++ (s.groups.filter (fun x => x.ctx == c)).filterMap (fun x => x.mxSlot)

/-- Records saved in a context's save area: offset and length. -/
def State.recordsHeld (s : State) (c : Nat) : List (Nat × Nat) :=
  (s.groups.filter (fun x => x.ctx == c && x.core.isNone && !x.toReset)).map (fun x => (x.recAt, x.recLen))

/-- Where the records of a save area end. -/
def State.recordsEnd (s : State) (c : Nat) : Nat := (s.recordsHeld c).foldl (fun b r => max b (r.1 + r.2)) 0

/-- Where the matrix-state slots of a save area begin. -/
def State.slotsStart (s : State) (c : Nat) : Nat := (s.slotsHeld c).foldl min (s.ctx c).saveLen

/-- The highest free place for a matrix-state slot, taken from the top downwards (R192). -/
def State.freeSlot (s : State) (c : Nat) : Option Nat :=
  ((List.range ((s.ctx c).saveLen / mxSlotLen)).map (fun i => (s.ctx c).saveLen - mxSlotLen * (i + 1))).find?
    (fun a => decide (s.recordsEnd c ≤ a) && !(s.slotsHeld c).contains a)

/-- The lowest free place for a record of a length, below the slots (R192). -/
def State.freeRecord (s : State) (c len : Nat) : Option Nat :=
  ((0 :: (s.recordsHeld c).map (fun r => alignUp (r.1 + r.2) 64)).filter (fun a =>
    decide (a + len ≤ s.slotsStart c)
      && (s.recordsHeld c).all (fun r => decide (r.1 + r.2 ≤ a) || decide (a + len ≤ r.1)))).foldl
    (fun b a => match b with | none => some a | some x => some (min x a)) none

/-- The group is its context's last one on a core whose unit the context owns (R190). -/
def State.lastOwner (s : State) (x : Group) : Bool :=
  match x.core with
  | some i => (s.core i).unit.owner == some x.ctx
      && !(s.groupsOn i).any (fun y => y.ctx == x.ctx && y.savedMx.isNone && !(y.cid == x.cid && y.g == x.g))
  | none => false

/-- The group takes private matrix state into its record: the unit's, or what it still waits to return (R190). -/
def State.carriesMx (s : State) (x : Group) : Bool := x.savedMx.isSome || s.lastOwner x

/-- The matrix state that a group takes along: from the slot while the acre holds the unit (R190). -/
def State.groupMx (s : State) (x : Group) : Option MxUnit :=
  if x.savedMx.isSome then x.savedMx
  else
    match x.core with
    | some i =>
      if !s.lastOwner x then none
      else if (match s.coreHide i with | some h => s.acreHolds h | none => false) then some (s.slotUnit (s.core i).unit)
      else some (s.core i).unit
    | none => none

/-- Bytes of a group's save record (R199, R200). -/
def State.groupRecLen (s : State) (x : Group) : Nat :=
  64 + x.lsSize + (if s.carriesMx x then 98304 else 0) + x.chains * (1024 + 128 * x.vregs)

/-- A group's record fits the free part of its context's save area (R339). -/
def State.recordFits (s : State) (x : Group) : Bool := (s.freeRecord x.ctx (s.groupRecLen x)).isSome

/-- The records of placed groups all fit their context's save area beside one another (R339, R343). -/
def State.allFit (s : State) : List Group → Bool
  | [] => true
  | x :: r =>
    match s.freeRecord x.ctx (s.groupRecLen x) with
    | none => false
    | some a => (s.updGroup x.cid x.g (fun y => { y with
        core := none, recAt := a, recLen := s.groupRecLen x, toReset := false })).allFit r

/-- A group's pre-emption starts: its chains issue nothing further (R198). -/
def State.preempt (s : State) (cid g : Nat) (toReset : Bool) : State :=
  match s.group? cid g with
  | none => s
  | some x =>
    match x.core with
    | none => s
    | some i =>
      if x.saving then s
      else
        (x.slots.foldl (fun t j => t.updChain i j (fun c => { c with halted := true })) s).updGroup cid g
          (fun y => { y with saving := true, toReset := toReset })

/-- The code of a chain's state (R200). -/
def chainStCode (c : Chain) : Nat :=
  match c.st with
  | .ready => 0
  | .atBarrier _ => 1
  | .eventWait => 2
  | .mxWait => 3
  | .sleeping => 4
  | .fence _ => 0

/-- A reconvergence stack entry as 8 bytes (R183). -/
def stkWord (e : StkEnt) : Nat := e.mask.toNat + e.pc % 2 ^ 30 * 2 ^ 32 + e.kind * 2 ^ 62

/-- The on-chip stack entries, oldest first (R185). -/
def onChipStack (c : Chain) : List StkEnt := (c.stack.take 56).reverse
/-- The spilled stack entries, oldest first (R185). -/
def spilledStack (c : Chain) : List StkEnt := (c.stack.drop 56).reverse

/-- A chain record (R200). -/
def chainRecord (c : Chain) : List Byte :=
  leBytes 4 c.pc ++ leBytes 4 c.active.toNat ++ leBytes 4 c.exited.toNat ++ leBytes 2 c.stack.length
    ++ leBytes 1 (c.vregs / 8) ++ leBytes 1 (chainStCode c) ++ leBytes 8 c.waitId.toNat
    ++ (List.range 7).flatMap (fun i => leBytes 4 (tget c.p i 0).toNat) ++ leBytes 12 0
    ++ (List.range 64).flatMap (fun i => leBytes 8 (tget c.u i 0).toNat)
    ++ leBytes (448 - 8 * (onChipStack c).length) 0 ++ (onChipStack c).flatMap (fun e => leBytes 8 (stkWord e))
    ++ (List.range c.vregs).flatMap (fun n => (List.range 32).flatMap (fun t => leBytes 4 (tget c.v (32 * n + t) 0).toNat))

/-- The save area of a group (R199): record, local-store image with the spilled stack entries, matrix state, chains. -/
def groupRecord (x : Group) (chains : List Chain) (ls : List Byte) (mx : Option MxUnit) : List Byte :=
  leBytes 2 x.chains ++ leBytes 2 x.spill ++ leBytes 4 x.lsSize
    ++ leBytes 8 ((x.arrived.map (fun i => 2 ^ i)).sum) ++ leBytes 2 (x.barId.getD 0)
    ++ leBytes 2 (if mx.isSome then 1 else 0) ++ (match mx with | some u => cntBytes u.cnt | none => leBytes 20 0)
    ++ leBytes 24 0 ++ ls ++ (match mx with | some u => mxBytes u | none => [])
    ++ (List.range x.chains).flatMap (fun i =>
      match chains.find? (fun c => c.inGroup == i) with
      | some c => chainRecord c
      | none => leBytes 8 0 ++ leBytes 4 0xFFFFFFFF ++ leBytes (1012 + 128 * x.vregs) 0)

/-- The chains of a group on its core, in ascending CHAINIG. -/
def State.groupChains (s : State) (x : Group) : List Chain :=
  match x.core with
  | some i =>
    let cs := x.slots.filterMap (fun j => s.chain? i j)
    (List.range x.chains).filterMap (fun k => cs.find? (fun c => c.inGroup == k))
  | none => x.savedChains

/-- The phase that a chain's barrier wait is waiting to leave goes into WAIT_ID (R232, R237). -/
def State.waitPhase (s : State) (core slot : Nat) (c : Chain) : Chain :=
  match s.waiters.find? (fun w => w.chain == some (core, slot) && w.kind == 1) with
  | some w => { c with waitId := BitVec.ofNat 64 (setBits c.waitId.toNat 55 48 w.phase) }
  | none => c

/-- A store-buffer entry is a chain's own: a later chain of its slot is another one (R209). -/
def SbEnt.ownOf (e : SbEnt) (slot : Nat) (c : Chain) : Bool :=
  e.slot == slot && e.cid == c.cid && e.part == (c.group, c.inGroup)

/-- A request to another node that is a chain's store, atomic or signal (R215). -/
def RReq.accessOf (r : RReq) (core slot : Nat) (c : Chain) : Bool :=
  (r.kind == 2 || r.kind == 3 || r.kind == 6) && !r.waits && r.cid == c.cid && r.part == (c.group, c.inGroup)
    && (match r.core with | some (i, j, _) => i == core && j == slot | none => false)

/-- Every earlier access of a chain has been performed at a scope: 0 chain, 1 core, 2 block, 3 system (R215). -/
def State.released (s : State) (core slot : Nat) (c : Chain) (scope : Nat) : Bool :=
  (scope == 0 || (s.core core).sb.all (fun e => !e.ownOf slot c))
    && (decide (scope < 2) || (c.settled && s.lines.all (fun e => !e.2.owes { id := core, node := slot })))
    && (decide (scope < 3) || s.fab.reqs.all (fun q => !q.accessOf core slot c))

/-- Every issued instruction of a group has completed: no load is out, no fence stands, and its stores are performed, since
it may resume on another core (R198, R210). -/
def State.groupQuiet (s : State) (x : Group) : Bool :=
  match x.core with
  | some i => x.slots.all (fun j =>
      match s.chain? i j with
      | some c => s.released i j c 3 && (match c.st with | .fence _ => false | _ => true)
      | none => true)
  | none => true

/-- The local-store image of a group, spilled stack entries in place (R185, R199). -/
def State.lsImage (s : State) (x : Group) (i : Nat) (chains : List Chain) : Tbl Byte :=
  let base := ((s.core i).ls.filter (fun e => decide (x.lsBase ≤ e.1) && decide (e.1 < x.lsBase + x.lsSize))).map
    (fun e => (e.1 - x.lsBase, e.2))
  chains.foldl (fun t c =>
    lsPut t (x.lsSize - x.chains * x.spill * 8 + c.inGroup * x.spill * 8)
      ((spilledStack c).flatMap (fun e => leBytes 8 (stkWord e)))) base

/-- Waits at remote homes of a chain that is saved: at a barrier object the registration stands and its end is noted in the
chain's record; at a counting event it is withdrawn (R237; log 21). -/
def State.saveWaits (s : State) (core slot : Nat) : State :=
  { s with fab := { s.fab with reqs := s.fab.reqs.map (fun r =>
      if r.waitOf core slot && r.msg.aux.getLsbD 0 then { r with saved := true } else r) } }

/-- Where the record of a group goes: in its context's save area, or, in a reset for which it has no room there, in the
hide's reset save area at the start of the firmware region (R339, R346; log 49). -/
def State.recordPa (s : State) (x : Group) (at_ : Nat) : Nat :=
  if x.toReset then s.localPa ((s.fwUnits (s.ctx x.ctx).hide).headD 0 * 2 ^ 32 + at_)
  else s.localPa ((s.ctx x.ctx).saveBase + at_)

/-- The group's state goes into the save area, and the group leaves its core (R190, R198, R199, R237). -/
def State.saveGroup (s : State) (cid g : Nat) : State :=
  match s.group? cid g with
  | none => s
  | some x =>
    match x.core with
    | none => s
    | some i =>
      let chains := (x.slots.filterMap (fun j => (s.chain? i j).map (fun c => s.waitPhase i j c))).map
        (fun c => { c with halted := false, loads := [] })
      let ordered := (List.range x.chains).filterMap (fun k => chains.find? (fun c => c.inGroup == k))
      let mx := s.groupMx x
      let len := s.groupRecLen x
      let ls := s.lsImage x i ordered
      let bytes := groupRecord x ordered ((List.range x.lsSize).map (fun a => tget ls a 0)) mx
      let at_ := if x.toReset then (s.hide (s.ctx x.ctx).hide).resetSave else (s.freeRecord x.ctx len).getD 0
      let s1 := (x.slots.foldl (fun t j => t.saveWaits i j) s).clearSlots i x.slots
      let s2 := s1.updGroup cid g (fun y => { y with
        core := none, slots := [], saving := false, savedChains := ordered, savedLs := ls, savedMx := mx, mxSlot := none,
        recAt := at_, recLen := len })
      let s3 := if s.lastOwner x then s2.releaseUnit i else s2
      let s4 := if x.toReset then s3.updHide (s.ctx x.ctx).hide (fun h => { h with resetSave := h.resetSave + len }) else s3
      s4.writeBytes (s.recordPa x at_) bytes

/-! ## The acre -/

/-- Change a hide's acre. -/
def State.updAcre (s : State) (h : Nat) (f : Acre → Acre) : State := s.updHide h (fun x => { x with acre := f x.acre })

/-- Compute cores of a hide, ascending. -/
def State.hideCores (s : State) (h : Nat) : List Nat :=
  (s.furlongsOf h).flatMap (fun f => (s.activePos f).map (fun c => coreIdx f c))

/-- The acre has released its units: each takes its private state back from its owner's slot, and waiting chains try again
(R143, R144, R192). -/
def State.releaseUnits (s : State) (h : Nat) : State :=
  (s.hideCores h).foldl (fun t i => (t.updCore i (fun k => { k with unit := t.slotUnit k.unit })).wakeMx i) s

/-- An operation boundary of a hide's acre: the banks swap, and the inactive one is left empty, of which the manual says
nothing (R137; DESIGN CHOICE, log 49). -/
def State.acreBoundary (s : State) (h : Nat) : State :=
  if s.acreHolds h then s
  else s.updAcre h (fun a => if a.bankI.isSome then { a with bankA := a.bankI, bankI := none } else a)

/-- An operation has left the acre, which held the units: where none is left, they are released (R141). -/
def State.acreLeft (s : State) (h : Nat) : State :=
  if s.acreHolds h then s else (s.releaseUnits h).acreBoundary h

/-- A command's operation leaves the acre. -/
def State.dropAcre (s : State) (h cid : Nat) : State :=
  let mine := ((s.hide h).acre.run.toList ++ (s.hide h).acre.pre.toList).any (fun o => o.cid == cid)
  let s1 := s.updAcre h (fun a => { a with
    idleFrom := if mine then s.btime.toNat else a.idleFrom,
    run := a.run.filter (fun o => o.cid != cid), pre := a.pre.filter (fun o => o.cid != cid),
    wait := a.wait.filter (fun i => i != cid) })
  if mine then s1.acreLeft h else s1

/-! ## Channels, foreign engines, serving steps -/

/-- Abort and release every channel of a command (R426). -/
def State.dropChans (s : State) (cid : Nat) : State :=
  (s.chansOf cid).foldl (fun t mc => (t.abortChan mc.1 mc.2).freeChan mc.1 mc.2) s

/-- An engine port's record, ports 1 to 4. -/
def State.engine (s : State) (e : Nat) : Engine := tget s.engines e {}

/-- Change an engine port. -/
def State.updEngine (s : State) (e : Nat) (f : Engine → Engine) : State := { s with engines := tupd s.engines e {} f }

/-- Opcode of a command's first descriptor (R311). -/
def Cmd.opcode (c : Cmd) : Nat := c.d0.toNat % 256
/-- ENGINE of a command's first descriptor (R311). -/
def Cmd.engine (c : Cmd) : Nat := nbits c.d0.toNat 18 16
/-- A field of a command's first descriptor, by bits counted from its first byte. -/
def Cmd.fld (c : Cmd) (hi lo : Nat) : Nat := nbits c.d0.toNat hi lo
/-- A field of a command's second descriptor. -/
def Cmd.fld1 (c : Cmd) (hi lo : Nat) : Nat := nbits c.d1.toNat hi lo

/-- The command has been dispatched and has not ended. -/
def Cmd.onEngine (c : Cmd) : Bool :=
  match c.phase with
  | .dispatched => true
  | .running => true
  | .waiting => true
  | .stopping => true
  | _ => false

/-- Tell a foreign engine to abort a command (R564). Abort words: 2 (model's own code; the words are the port's). -/
def State.abortForeign (s : State) (c : Cmd) : State :=
  if c.opcode = 0x60 ∧ c.onEngine then
    (s.updEngine c.engine (fun e => { e with
      aborting := if e.aborting.any (fun a => a.1 == c.cid) then e.aborting else e.aborting ++ [(c.cid, s.btime.toNat)] })).emit
      (.engine c.engine 2 c.cid)
  else s

/-- Change a plan. -/
def State.updPlan (s : State) (p : Nat) (f : Plan → Plan) : State :=
  match tfind s.plans p with
  | some x => { s with plans := tset s.plans p (f x) }
  | none => s

/-- A sequence-table entry. -/
def State.seq (s : State) (e : Nat) : Seq := tget s.seqs e {}

/-- Change a sequence-table entry. -/
def State.updSeq (s : State) (e : Nat) (f : Seq → Seq) : State := { s with seqs := tupd s.seqs e {} f }

/-- Every access that a command has issued has been performed: loads of its chains, store buffers, homes, channels, requests
to other nodes (R43, R195). -/
def State.cmdQuiet (s : State) (cid : Nat) : Bool :=
  (s.groups.filter (fun g => g.cid == cid)).all (fun g => (s.groupChains g).all Chain.settled)
    && s.cores.all (fun k => k.2.sb.all (fun e => e.cid != cid)) && s.lines.all (fun e => !e.2.owesCmd cid)
    && (s.chansOf cid).isEmpty && s.fab.reqs.all (fun r => r.cid != cid || r.kind == 4)

/-- A command of the Gate ends: at once where what it has written is performed, else its end is reported then (R43). -/
def State.endWrites (s : State) (cid st : Nat) (err : Option ErrInfo) : State :=
  if s.cmdQuiet cid then s.complete cid st err
  else (s.updCmd cid (fun c => { c with phase := .ended, status := some st, err := err })).decided cid

/-! ### Sequences and steps (R253, R254, R263, R275, R280) -/

/-- SEQID: tag and entry (R253). -/
def seqId (e tag : Nat) : Nat := tag % 2 ^ 20 * 4096 + e % 4096

/-- STAMP: the block time, at byte 56 of an SSB (R253). -/
def State.stampCells (s : State) (pa : Nat) : List (Nat × Byte) := (leBytes 8 s.btime.toNat).mapIdx (fun i b => (pa + 56 + i, b))

/-- The Gate's write of an SSB, fields and STAMP in one line (R253, R254), for a command of a context. -/
def State.putSsb (s : State) (cid c pa id state hold pos emitted : Nat) (stopped : Bool) : State :=
  s.post gateId (s.gateAsker cid c) false
    ((leBytes 4 id ++ leBytes 1 state ++ leBytes 1 (hold + if stopped then 4 else 0)).mapIdx (fun i b => (pa + i, b))
      ++ (leBytes 4 pos ++ leBytes 4 emitted).mapIdx (fun i b => (pa + 8 + i, b)) ++ s.stampCells pa)

/-- Write an entry's SSB (R254). -/
def State.seqSsb (s : State) (cid e : Nat) : State :=
  let q := s.seq e
  s.putSsb cid q.ctx q.ssbPa (seqId e q.tag) q.state q.hold q.pos q.emitted q.stopped

/-- STATE = FREE in an SSB (R263). -/
def State.freeSsb (s : State) (cid c pa : Nat) : State :=
  s.post gateId (s.gateAsker cid c) false ((pa + 4, 0) :: s.stampCells pa)

/-- Close an entry: its pages go back, the highest first; the entry is free; STATE = FREE in its SSB (R263). -/
def State.closeSeq (s : State) (cid e : Nat) : State :=
  let q := s.seq e
  let s1 := s.updPlan q.plan (fun p => { p with free := q.pages ++ p.free })
  (((s1.freeSsb cid q.ctx q.ssbPa).updSeq e (fun q => { tag := q.tag })).wmCheck q.plan).wmCheck (264 + (s.ctx q.ctx).hide)

/-- A SEQ_CLOSE that waited for the end of a step closes its sequence (R280). -/
def State.closeWaiting (s : State) (e : Nat) : State :=
  match (s.seq e).closing with
  | some cid => if (s.cmd? cid).isSome then (s.closeSeq cid e).endWrites cid 0 none else s.updSeq e (fun q => { q with closing := none })
  | none => s

/-- A build's changes to an entry and its SSB are undone: the Gate's fields as they were, and DRAFT_CNT where the guest has
not written it since (R275, R276; log 52). -/
def State.undoOne (s : State) (cid : Nat) (x : Nat × Seq × List Byte) : State :=
  let q := s.seq x.1
  if q.state = 0 ∨ q.tag ≠ x.2.1.tag then s
  else
    let img := x.2.2
    let s1 := s.updSeq x.1 (fun y => { x.2.1 with closing := y.closing })
    let part := fun (a n : Nat) => ((img.drop a).take n).mapIdx (fun i b => (q.ssbPa + a + i, b))
    let own := if q.state = x.2.1.state ∧ q.hold = x.2.1.hold then [] else part 0 16 ++ part 56 8
    let cnt := img.getD 20 0
    s1.post gateId (s.gateAsker cid q.ctx) false
      (own ++ (if s.readPa (q.ssbPa + 20) = 0 ∧ cnt ≠ 0 then [(q.ssbPa + 20, cnt)] else []))

/-- The running step of a plan ends without commit: no entry and no SSB is changed by it, and the pages its build took go
back in the reverse order of taking; a close that waited for the step is performed (R275, R280). -/
def State.abandonStep (s : State) (p : Nat) : State :=
  match s.plan? p with
  | none => s
  | some pl =>
    match pl.step with
    | none => s
    | some st =>
      let took := st.sel.flatMap (fun e => e.took)
      let s1 := st.undo.foldl (fun t x => t.undoOne st.cid x) s
      let s2 := (s1.updPlan p (fun x => { x with step := none, free := took ++ x.free })).wmCheck p
      st.sel.foldl (fun t e => t.closeWaiting e.entry) s2

/-- The loaded plan whose running step a SEQ_STEP command drives. -/
def State.planOfStep (s : State) (cid : Nat) : Option Nat :=
  (s.plans.find? (fun p => match p.2.step with | some st => st.cid == cid | none => false)).map (fun p => p.1)

/-- Everything of a command leaves its engine, without a status. -/
def State.leaveEngine (s : State) (cid : Nat) : State :=
  match s.cmd? cid with
  | none => s
  | some c =>
    let s1 := ((s.dropGroups cid).dropAcre c.hide cid).dropChans cid
    let s2 := s1.abortForeign c
    { s2 with waiters := s2.waiters.filter (fun w => w.cid != some cid)
              fab := { s2.fab with reqs := s2.fab.reqs.map (fun r => if r.cid = cid ∧ r.waits then r.withdraw else r) } }

/-- A SEQ_STEP's running stage leaves its engine with the step, which does not commit (R275, R280). -/
def State.leaveStep (s : State) (cid : Nat) : State :=
  let s0 := { s with plans := s.plans.map (fun p => (p.1, { p.2 with queue := p.2.queue.filter (fun i => i != cid) })) }
  match s.planOfStep cid with
  | none => s0
  | some p =>
    let s1 :=
      match (s0.plan? p).bind (fun x => x.step.bind (fun st => st.stageCid)) with
      | some k =>
        let h := match s0.cmd? k with | some c => c.hide | none => 0
        ((s0.leaveEngine k).dropCmd k).unqueue k h
      | none => s0
    s1.abandonStep p

/-- A command ends at once: it leaves its engine and completes, with the status decided first (R197, R305, R369). -/
def State.killCmd (s : State) (cid st : Nat) (err : Option ErrInfo) : State :=
  let first := (s.cmd? cid).bind (fun c => if c.phase = .stopping then c.status.map (fun x => (x, c.err)) else none)
  ((s.leaveStep cid).leaveEngine cid).complete cid (first.map (fun x => x.1) |>.getD st)
    (match first with | some x => x.2 | none => err)

/-- A dispatched command stops as R195 gives: its status is decided once, its chains issue nothing further, its other
work leaves its engine; it completes once what it has issued has completed (R195 to R197). -/
def State.stopCmd (s : State) (cid st : Nat) (err : Option ErrInfo) : State :=
  match s.cmd? cid with
  | none => s
  | some c =>
    let s1 := ((s.leaveStep cid).updCmd cid (fun x => { x with
      status := if x.status.isSome then x.status else some st,
      err := if x.status.isSome then x.err else err,
      stopAt := if x.phase = .stopping then x.stopAt else s.btime.toNat,
      phase := .stopping })).decided cid
    if c.phase = .stopping then s1 else if c.opcode = 0x30 then s1.stopGroups cid else s1.leaveEngine cid

/-! ## Contexts: destruction, migration (R369, R371, R404 to R407) -/

/-- A context holds mappings of a memory object, or an UNMAP has yet to free its pages (R353). -/
def State.objMapped (s : State) (o : Nat) : Bool :=
  s.live.any (fun c => (s.ctx c).maps.any (fun m => m.obj == o) || (s.ctx c).shakes.any (fun k => k.objs.contains o))

/-- Give back the runs of objects that no mapping holds (R347, R348). Object 0 is no memory object. -/
def State.freeObjects (s : State) : State :=
  { s with allocs := s.allocs.filter (fun r => r.obj == 0 || s.objMapped r.obj) }

/-- Drop translation-buffer entries and record-store entries of a context. -/
def State.dropTlb (s : State) (c : Nat) : State := { s with tlb := s.tlb.filter (fun e => e.ctx != c) }

/-- The instruction caches drop the lines of a context (R171). -/
def State.dropCode (s : State) (c : Nat) : State :=
  { s with cores := s.cores.map (fun e => (e.1, { e.2 with icache := e.2.icache.filter (fun l => l.1 != c) })) }

/-- Unload a plan: its watermark clears (R280, R448). -/
def State.unloadPlan (s : State) (p : Nat) : State :=
  { s with plans := terase s.plans p, wms := terase s.wms p }

/-- Free the context's sequences, pending opens and plans without SSB writes (R280). -/
def State.dropServing (s : State) (c : Nat) : State :=
  let s1 := { s with seqs := s.seqs.map (fun (e : Nat × Seq) =>
    if e.2.ctx = c ∧ e.2.state ≠ 0 then (e.1, ({ tag := e.2.tag } : Seq)) else e) }
  let s2 := s1.updHide (s.ctx c).hide (fun h => { h with pendSeqs := h.pendSeqs.filter (fun r => r.cmd.ctx != c) })
  let s3 := (s2.plans.filter (fun p => p.2.ctx == c)).foldl (fun t p => t.unloadPlan p.1) s2
  s3.wmCheck (264 + (s.ctx c).hide)

/-- The sequences of a context that is destroyed go without SSB writes: nothing of a build is undone, and no close waits for
its step (R280). -/
def State.forgetBuild (s : State) (c : Nat) : State :=
  { s with plans := s.plans.map (fun p => (p.1, if p.2.ctx = c then { p.2 with step := p.2.step.map (fun st => { st with undo := [] }) }
                                                else p.2))
           seqs := s.seqs.map (fun e => (e.1, if e.2.ctx = c then { e.2 with closing := none } else e.2)) }

/-- Queues bound to a context show CTX_GONE (R309). -/
def State.markGone (s : State) (fn c : Nat) : State :=
  s.updFn fn (fun r => { r with queues := r.queues.map (fun q =>
    (q.1, if q.2.enabled ∧ q.2.ctx.toNat = c then { q.2 with ctxGone := true } else q.2)) })

/-- Destroy a context (R369): queues, generation, commands with a status, serving, mappings and memory. The command that
asked for it is left out. -/
def State.destroyCtx (s : State) (c st : Nat) (err : Option ErrInfo) (asked : Option Nat) : State :=
  let x := s.ctx c
  let s1 := ((s.markGone x.fn c).updCtx c (fun y => { y with gen := nextGen y.gen })).forgetBuild c
  let s2 := (s1.ctxCmds c).foldl (fun t k => if some k.cid = asked ∨ k.stage.isSome then t else t.killCmd k.cid st err) s1
  let s3 := x.shakes.foldl (fun t k =>
    match k.cid with
    | some i => if some i = asked then t else t.complete i 0x1B (some (commandErr 7 0))
    | none => t.emit (.invalidateCompletion k.fn)) s2
  let s4 := ((s3.dropServing c).dropTlb c).dropCode c
  let s5 := s4.updCtx c (fun y => { y with
    maps := [], shakes := [], resident := false, fenced := false, recovering := false, saveLen := 0 })
  let kept := s5.allocs.filter (fun (r : Alloc) => !(r.ctx == c && r.obj == 0))
  let s6 := { s5 with
    live := s5.live.filter (fun i => i != c)
    allocs := kept.map (fun (r : Alloc) => if r.ctx = c then { r with ctx := 0x10000 } else r)
    store := s5.store.filter (fun e => (s5.queue e.fn e.q).ctx.toNat != c) }
  s6.freeObjects.wmCheck (256 + x.hide)

/-- The generation of a context increments, skipping 0 (R337, R404). -/
def State.bumpGen (s : State) (c : Nat) : State := s.updCtx c (fun y => { y with gen := nextGen y.gen })

/-- HWFAIL of a command that a recovery or migration ends (R406, R472). -/
def recoveryErr : ErrInfo := hwErr 4 0 0

/-- A command leaves its engine and starts again from its beginning (R344, R406): it is dispatched again, a plan's stage
waits on its engine again. -/
def State.restartCmd (s : State) (c : Cmd) : State :=
  let s1 := (s.leaveEngine c.cid).unqueue c.cid c.hide
  let s2 := if c.stage.isSome then s1.updHide c.hide (fun h => { h with engQ := c.cid :: h.engQ }) else s1
  s2.updCmd c.cid (fun x => { x with
    phase := if c.stage.isSome then .dispatched else .ready, chans := [], nextGroup := 0, doneGroups := 0 })

/-- One command at a migration fence (R405 step 1, R406). -/
def State.fenceCmd (s : State) (c : Cmd) : State :=
  let decide_ (t : State) : State := t.updCmd c.cid (fun x => { x with
    status := if x.status.isSome then x.status else some 0x11, err := if x.status.isSome then x.err else some recoveryErr })
      |>.decided c.cid
  if !c.onEngine then s
  else if c.opcode = 0x30 then
    let gs := s.groups.filter (fun g => g.cid == c.cid && g.core.isSome)
    if s.allFit gs then gs.foldl (fun t g => t.preempt g.cid g.g false) s
    else decide_ (s.dropGroups c.cid)
  else if c.opcode = 0x40 ∨ c.opcode = 0x20 ∨ c.opcode = 0x21 then s.restartCmd c
  else if c.opcode = 0x60 then decide_ (s.abortForeign c)
  else if c.opcode = 0x52 then decide_ (s.leaveStep c.cid)
  else s

/-- A migration fences the context (R405 steps 1 and 2). -/
def State.fenceCtx (s : State) (c : Nat) (recovering : Bool) : State :=
  let s1 := ((s.ctxCmds c).filter (fun k => k.stage.isNone)).foldl (fun t k => t.fenceCmd k) s
  (s1.bumpGen c).updCtx c (fun y => { y with fenced := true, recovering := recovering, fenceFrom := s.btime.toNat })

/-- A report, completion or write with an old generation counts in its context and hide (R407). -/
def State.staleGen (s : State) (c : Nat) : State :=
  (s.updCtx c (fun x => { x with staleGen := stickAdd 32 x.staleGen 1 })).updHide (s.ctx c).hide
    (fun h => { h with staleGen := stickAdd 64 h.staleGen 1 })

/-! ## Resident and parked contexts (R341 to R344) -/

/-- The context is pinned: an enabled class-0 or class-1 queue is bound to it (R342). -/
def State.pinned (s : State) (c : Nat) : Bool :=
  (s.fn (s.ctx c).fn).queues.any (fun q => q.2.enabled && !q.2.ctxGone && q.2.ctx.toNat == c && decide (q.2.cls ≤ 1))

/-- The context is idle (R342). -/
def State.idle (s : State) (c : Nat) : Bool :=
  (s.ctxCmds c).isEmpty && !(s.groups.any (fun g => g.ctx == c && g.core.isSome))

/-- Number of resident contexts. -/
def State.residents (s : State) : List Nat := s.live.filter (fun c => (s.ctx c).resident)

/-- The context may be parked now: no handshake, no fence (R371, R408). -/
def State.parkable (s : State) (c : Nat) : Bool := (s.ctx c).shakes.isEmpty && !(s.ctx c).fenced && !s.pinned c

/-- The grains a context has consumed. -/
def Ctx.grains (c : Ctx) : Nat := c.grainsCore + c.grainsAcre + c.grainsMover + c.grainsForeign

/-- Every enabled queue bound to the context is of class 3 (R343). -/
def State.onlyBackground (s : State) (c : Nat) : Bool :=
  (s.fn (s.ctx c).fn).queues.all (fun q => !(q.2.enabled && !q.2.ctxGone && q.2.ctx.toNat == c) || q.2.cls == 3)

/-- The entry of a list with the least, or largest, value; the first of equals. -/
def pickBy (better : Nat → Nat → Bool) (f : Nat → Nat) (l : List Nat) : Option Nat :=
  l.foldl (fun b c => match b with
    | none => some c
    | some x => if better (f c) (f x) then some c else some x) none

/-- Park a context (R344): its groups are saved, its acre operation restarts later, its channels stop, PARKED is posted
to its function when it was not idle. -/
def State.park (s : State) (c : Nat) : State :=
  let wasIdle := s.idle c
  let s1 := (s.groups.filter (fun g => g.ctx == c && g.core.isSome)).foldl (fun t g => t.preempt g.cid g.g false) s
  let s2 := ((s.ctxCmds c).filter (fun k => k.opcode == 0x40 && k.onEngine)).foldl (fun t k => t.restartCmd k) s1
  let s3 := ((s.ctxCmds c).filter (fun k => k.onEngine)).foldl (fun t k =>
    (t.chansOf k.cid).foldl (fun t mc => t.updChan mc.1 mc.2 (fun x => { x with stop := true })) t) s2
  let s4 := s3.updCtx c (fun y => { y with resident := false, parks := stickAdd 32 y.parks 1 })
  if wasIdle then s4 else s4.postNotice (s.ctx c).fn 4 c 0 0 0

/-- The context that the Gate parks to free an entry (R343 steps 1 and 2). -/
def State.victim (s : State) : Option Nat :=
  let cs := s.residents.filter s.parkable
  match pickBy (fun a b => decide (a < b)) (fun c => (s.ctx c).lastUse) (cs.filter s.idle) with
  | some c => some c
  | none =>
    pickBy (fun a b => decide (b < a)) (fun c => (s.ctx c).grains)
      (cs.filter (fun c => s.onlyBackground c && s.allFit (s.groups.filter (fun g => g.ctx == c && g.core.isSome))))

/-- A context becomes resident; its stopped channels continue (R344, R430). -/
def State.load (s : State) (c : Nat) : State :=
  ((s.ctxCmds c).foldl (fun t k =>
    (t.chansOf k.cid).foldl (fun t mc => t.updChan mc.1 mc.2 (fun x => { x with stop := false })) t) s).updCtx c
    (fun y => { y with resident := true, lastUse := s.btime.toNat })

/-- Make a context resident, freeing an entry where the table is full; none when no entry can be freed (R343). -/
def State.makeResident (s : State) (c : Nat) : Option State :=
  if (s.ctx c).resident then some (s.updCtx c (fun y => { y with lastUse := s.btime.toNat }))
  else if s.residents.length < 1024 then some (s.load c)
  else (s.victim).map (fun v => (s.park v).load c)

end Sys2Proof.Machine
end

