-- ==== Sys2Proof/Machine/Translate.lean ====
section
/-! DEFINITION. Translation at submission: mappings, pieces, faults, ATS, the reading of side records (R46 to R51, R349,
R354, R357 to R364, R389, R583). -/

namespace Sys2Proof.Machine

/-- The outcome of a validation or translation: done, a deciding status, or what the command waits for. -/
inductive V (α : Type)
  | ok (a : α)
  | bad (st : Nat) (e : ErrInfo)
  | ats (io : Nat)
  | host (pa len : Nat)
  | migr (va : Nat)
deriving DecidableEq, Repr

/-- Go on with a result. -/
def vthen {α β : Type} (x : V α) (f : α → V β) : V β :=
  match x with
  | .ok a => f a
  | .bad st e => .bad st e
  | .ats io => .ats io
  | .host pa len => .host pa len
  | .migr va => .migr va

/-- A check with its deciding status. -/
def vcheck (c : Bool) (st : Nat) (e : ErrInfo) : V Unit := if c then .ok () else .bad st e

/-- The first failing check of a list. -/
def vchecks : List (Bool × Nat × ErrInfo) → V Unit
  | [] => .ok ()
  | (c, st, e) :: r => if c then vchecks r else .bad st e

/-- The mapping that covers a context address. -/
def State.mapAt (s : State) (c va : Nat) : Option Mapping :=
  (s.ctx c).maps.find? (fun m => decide (m.va ≤ va) && decide (va < m.va + m.len))

/-- An extent that a command names. -/
structure Ext where
  idx : Nat
  va : Nat
  len : Nat
  written : Bool := false
  /-- a KERNEL buffer slot: the only use of an IO piece (R359) -/
  slot : Bool := false

/-- Who translates: the function, context, hide and class. -/
structure Who where
  cid : Nat
  fn : Nat
  ctx : Nat
  hide : Nat
  cls : Nat

/-- A translation fault (R359, R361, R472). -/
def xfail {α : Type} (st va cond : Nat) : V α := .bad st (xlateErr va cond)

/-- Where a function I/O address leads: physical address and bytes to the end of its ATS entry (R47, R361). -/
def State.ioPa (s : State) (fn io : Nat) (written : Bool) (fault : Nat) : V (Nat × Nat) :=
  match s.atsAt fn io with
  | none => .ats io
  | some e =>
    let ta := e.ta + (io - e.io)
    if !e.r then xfail 0x12 fault 6
    else if 2 ^ 52 ≤ ta then xfail 0x12 fault 2
    else if written && !e.w then xfail 0x13 fault 6
    else .ok (2 ^ 55 + ta, e.io + e.len - io)

/-- A MIGR page can be given a device page now, or another page of its context can make room (R363, R364). -/
def State.migrVictim (s : State) (c : Nat) : Option Mapping :=
  (s.ctx c).maps.foldl (fun b m =>
    if m.kind = 4 ∧ m.dev.isSome ∧ !(s.ctxCmds c).any (fun k => k.pieces.any (fun p =>
        decide (p.va < m.va + m.len) && decide (m.va < p.va + p.len))) then
      match b with
      | none => some m
      | some x => if m.used < x.used then some m else some x
    else b) none

/-- The page of a mapping that covers an address. -/
def pageOf (m : Mapping) (va : Nat) : Nat := m.va + (va - m.va) / m.psize * m.psize

/-- A host-state page is migrated by a command of classes 1 to 3 where room can be had (R363, R364). -/
def State.canMigrate (s : State) (w : Who) (m : Mapping) : Bool :=
  w.cls != 0 && m.kind == 4 && m.dev.isNone
    && ((s.devRoom w.fn w.ctx m.psize && (s.freeRun w.hide m.psize m.psize).isSome)
        || (match s.migrVictim w.ctx with | some v => v.psize == m.psize | none => false))

/-- The longest piece from an address on (R357, R359): conditions in the table's order. -/
def State.pieceAt (s : State) (w : Who) (e : Ext) (off : Nat) : V Piece :=
  let va := e.va + off
  match s.mapAt w.ctx va with
  | none => xfail 0x12 va 0
  | some m =>
    if s.canMigrate w m then .migr (pageOf m va)
    else
      let o := va - m.va
      let rest := min (m.len - o) (e.len - off)
      let mk (pa n : Nat) (io : Bool) : Piece :=
        { ext := e.idx, off := off, len := n, va := va, pa := pa, ro := m.ro, io := io, hide := m.hide,
          tag := s.hideTag w.hide, gen := s.genOf w.ctx, kind := m.kind }
      let dev (a n : Nat) : V Piece :=
        if 0xC0 ≤ a / 2 ^ 32 then xfail 0x12 va 1
        else if e.written && m.ro then xfail 0x13 va 3
        else if !s.devAllowed w.hide a then xfail 0x13 va 4
        else if m.io && !e.slot then xfail 0x13 va 5
        else .ok (mk (s.localPa a) (min n (2 ^ 32 - a % 2 ^ 32)) m.io)
      match m.kind, m.dev with
      | 1, _ => dev (m.base + o) rest
      | 2, _ => dev (m.base + o) rest
      | 4, some d => dev (d + o) rest
      | 3, _ =>
        if m.node = s.nodeId then dev (m.base + o) rest
        else if 0xC0 ≤ (m.base + o) / 2 ^ 32 then xfail 0x12 va 1
        else if e.written && m.ro then xfail 0x13 va 3
        else .ok (mk (m.node * 2 ^ 40 + m.base + o) (min rest (2 ^ 32 - (m.base + o) % 2 ^ 32)) false)
      | _, _ =>
        match s.ioPa w.fn (m.base + o) e.written va with
        | .ok (pa, n) =>
          if e.written && m.ro then xfail 0x13 va 3
          else if m.io && !e.slot then xfail 0x13 va 5
          else .ok (mk pa (min rest n) m.io)
        | .bad st er => .bad st er
        | .ats io => .ats io
        | .host pa n => .host pa n
        | .migr v => .migr v

/-- Two pieces form one contiguous run with one kind and one set of attributes (R357). -/
def joinable (a b : Piece) : Bool :=
  a.ext == b.ext && a.off + a.len == b.off && a.pa + a.len == b.pa && a.ro == b.ro && a.io == b.io && a.hide == b.hide && a.kind == b.kind

/-- Add a piece behind others, joining it to the last where they are contiguous. -/
def addPiece (ps : List Piece) (p : Piece) : List Piece :=
  match ps.getLast? with
  | some q => if joinable q p then ps.dropLast ++ [{ q with len := q.len + p.len }] else ps ++ [p]
  | none => ps ++ [p]

/-- Translate an extent from an offset on. -/
def State.translateFrom (s : State) (w : Who) (e : Ext) (ps : List Piece) (off : Nat) : Nat → V (List Piece)
  | 0 => .bad 0x19 (commandErr 4 0)
  | n + 1 =>
    if e.len ≤ off then .ok ps
    else vthen (s.pieceAt w e off) (fun p => State.translateFrom s w e (addPiece ps p) (off + max p.len 1) n)

/-- Translate an extent whole (R357). -/
def State.translateExt (s : State) (w : Who) (e : Ext) : V (List Piece) := s.translateFrom w e [] 0 (e.len + 1)

/-- Translate extents in order; a command holds at most 4,096 pieces (R357). -/
def State.translateAll (s : State) (w : Who) (es : List Ext) (ps : List Piece) : V (List Piece) :=
  match es with
  | [] => if 4096 < ps.length then .bad 0x19 (commandErr 4 0) else .ok ps
  | e :: r => vthen (s.translateExt w e) (fun q => State.translateAll s w r (ps ++ q))

/-- Bytes [a, a + n) have been received for the command (R389, R583). -/
def covered (got : List (Nat × Nat)) (a n : Nat) : Bool :=
  (List.range n).all (fun i => got.any (fun g => decide (g.1 ≤ a + i) && decide (a + i < g.1 + g.2)))

/-- Bytes of a run that the Gate reads itself: device memory at once, host and remote memory once they have come. -/
def State.sideRun (s : State) (w : Who) (pa len : Nat) : V (List Byte) :=
  if s.isLocal pa then .ok (s.readBytes pa len)
  else
    match s.cmd? w.cid with
    | some c => if covered c.got pa len then .ok (s.readBytes pa len) else .host pa len
    | none => .host pa len

/-- The bytes of translated pieces. -/
def State.sideRuns (s : State) (w : Who) : List Piece → V (List Byte)
  | [] => .ok []
  | p :: r => vthen (s.sideRun w p.pa p.len) (fun a => vthen (State.sideRuns s w r) (fun b => .ok (a ++ b)))

/-- Translate and read a side record in context memory (R583): pieces and value. -/
def State.sideRecord (s : State) (w : Who) (e : Ext) : V (List Piece × Nat) :=
  vthen (s.translateExt w e) (fun ps => vthen (s.sideRuns w ps) (fun bs => .ok (ps, leNat bs)))

/-- Translate n bytes of a function's I/O space (R314, R583). -/
def State.ioPieces (s : State) (w : Who) (idx io len : Nat) (written : Bool) (off : Nat) : Nat → V (List Piece)
  | 0 => .ok []
  | n + 1 =>
    if len ≤ off then .ok []
    else
      vthen (s.ioPa w.fn (io + off) written (io + off)) (fun r =>
        let l := min r.2 (len - off)
        vthen (State.ioPieces s w idx io len written (off + max l 1) n) (fun ps =>
          .ok ({ ext := idx, off := off, len := l, va := io + off, pa := r.1, ro := false, io := false, hide := 0, tag := 0,
                 gen := 0 } :: ps)))

/-- Read a record at a function I/O address (R314, R583). -/
def State.ioRecord (s : State) (w : Who) (io len : Nat) : V Nat :=
  vthen (s.ioPieces w 14 io len false 0 len) (fun ps => vthen (s.sideRuns w ps) (fun bs => .ok (leNat bs)))

/-- A requester writes bytes over translated pieces of one extent, from an offset of it on (R48, R226). -/
def State.writeExt (s : State) (id : Nat) (a : Asker) (ps : List Piece) (ext off : Nat) (bs : List Byte) : State :=
  s.post id a false ((bs.mapIdx (fun i b => (pieceAddr ps ext (off + i), b))).filterMap
    (fun x => x.1.map (fun a => (a, x.2))))

/-- The lines of bytes [off, off + n) of a translated extent. -/
def extLines (ps : List Piece) (ext off n : Nat) : List Nat :=
  (ps.filter (fun p => p.ext == ext)).flatMap (fun p =>
    let lo := max off p.off
    let hi := min (off + n) (p.off + p.len)
    if lo < hi then linesOf (p.pa + (lo - p.off)) (hi - lo) else [])

/-- The Gate writes bytes over translated pieces of one extent. -/
def State.gateExt (s : State) (cid c : Nat) (ps : List Piece) (ext off : Nat) (bs : List Byte) : State :=
  s.writeExt gateId (s.gateAsker cid c) ps ext off bs

/-- One byte of a translated extent. -/
def State.extByte (s : State) (ps : List Piece) (ext off : Nat) : Byte :=
  match pieceAddr ps ext off with
  | some a => s.readPa a
  | none => 0

/-- n bytes of a translated extent as a number. -/
def State.extNum (s : State) (ps : List Piece) (ext off n : Nat) : Nat :=
  leNat ((List.range n).map (fun i => s.extByte ps ext (off + i)))

/-! ## The translation buffer (R355, R356) -/

/-- Runs of up to 16 pages that a mapping takes entries for, start and length: each starts at a multiple of 16 pages, so
pages ahead of a mapping's first such multiple are translated from the tables each time (R355; log 20). -/
def runsOf (m : Mapping) : List (Nat × Nat) :=
  let blk := 16 * m.psize
  let first := alignUp m.va blk
  (List.range ((m.va + m.len - first + blk - 1) / blk)).map (fun i =>
    (first + i * blk, min (m.va + m.len) (first + (i + 1) * blk) - (first + i * blk)))

/-- Locked entries of a hide. -/
def State.lockedOf (s : State) (h : Nat) : Nat := (s.tlb.filter (fun e => e.hide == h && e.locked)).length

/-- Locked entries that a hide may still add (R355, R491). -/
def State.lockRoom (s : State) (h : Nat) : Nat :=
  min (s.kodRun (0x3000 + h) 0x0C - s.lockedOf h) (8192 - (s.tlb.filter (fun e => e.locked)).length)

/-- Enter an entry; the oldest unlocked one gives way in a full buffer (log 20). -/
def State.tlbAdd (s : State) (e : TlbEnt) : State :=
  let same := fun (x : TlbEnt) => x.ctx == e.ctx && x.va == e.va
  let rest := s.tlb.filter (fun x => !same x)
  let was := s.tlb.any (fun x => same x && x.locked)
  let full := if rest.length < 16384 then rest else rest.reverse.eraseP (fun x => !x.locked) |>.reverse
  { s with tlb := { e with locked := e.locked || was } :: full }

/-- The entries that a command's pieces hit are in the buffer. -/
def State.tlbTouch (s : State) (c : Nat) (ps : List Piece) : State :=
  if (s.ctx c).range then s
  else
    ps.foldl (fun t p =>
      match t.mapAt c p.va with
      | none => t
      | some m =>
        (runsOf m).foldl (fun t r =>
          if p.va < r.1 + r.2 ∧ r.1 < p.va + p.len ∧ !t.tlb.any (fun x => x.ctx == c && x.va == r.1) then
            t.tlbAdd { hide := (t.ctx c).hide, ctx := c, va := r.1, len := r.2, locked := false }
          else t) t) s

/-- Every entry of a page-mode context is locked; a pinned range-mode context always is (R356). -/
def State.ctxLocked (s : State) (c : Nat) : Bool :=
  s.pinned c && ((s.ctx c).range || (s.ctx c).maps.all (fun m => (runsOf m).all (fun r =>
    s.tlb.any (fun x => x.ctx == c && x.va == r.1 && x.locked))))

/-- Entries of a context are loaded, locked or not (R356). -/
def State.loadRuns (s : State) (c : Nat) (locked : Bool) (runs : List (Nat × Nat)) : State :=
  runs.foldl (fun t r => t.tlbAdd { hide := (s.ctx c).hide, ctx := c, va := r.1, len := r.2, locked := locked }) s

/-- Runs of some mappings of a context that no locked entry holds. -/
def State.unlockedRuns (s : State) (c : Nat) (ms : List Mapping) : List (Nat × Nat) :=
  (ms.flatMap runsOf).filter (fun r => !s.tlb.any (fun x => x.ctx == c && x.va == r.1 && x.locked))

/-- A page-mode context becomes pinned: its entries are loaded, and locked within the budget; the excess stays unlocked
with a LOCK_BUDGET record (R356). -/
def State.lockCtx (s : State) (c : Nat) : State :=
  if (s.ctx c).range then s
  else
    let runs := s.unlockedRuns c (s.ctx c).maps
    let n := min runs.length (s.lockRoom (s.ctx c).hide)
    let s1 := (s.loadRuns c false (runs.drop n)).loadRuns c true (runs.take n)
    if n < runs.length then s1.postErr (s.ctx c).fn c 0xFFFFFFFF 0 0 0x0016 (bodyAt 28 (runs.length - n)) else s1

/-- Unpinning unlocks a context's entries (R356). -/
def State.unlockCtx (s : State) (c : Nat) : State :=
  if s.pinned c then s
  else { s with tlb := s.tlb.map (fun e => if e.ctx = c then { e with locked := false } else e) }

/-- Keep a side record of a class-0 command in the record store: sixteen entries a queue, the least recently used gives
way (R389). -/
def State.storeTouch (s : State) (fn q pa len bits : Nat) : State :=
  let rest := s.store.filter (fun e => !(e.fn == fn && e.q == q && e.pa == pa))
  let mine := rest.filter (fun e => e.fn == fn && e.q == q)
  let rest2 := if 16 ≤ mine.length then
      (rest.reverse.eraseP (fun e => e.fn == fn && e.q == q)).reverse
    else rest
  { s with store := { fn := fn, q := q, pa := pa, len := len, bits := bits } :: rest2 }

end Sys2Proof.Machine
end

