-- ==== Sys2Proof/Machine/Validate.lean ====
section
/-! DEFINITION. Validation of an accepted command: the checks in their order, and the extents it translates (R105 to
R108, R247 to R251, R257, R258, R294, R306, R311 to R318, R332, R357 to R359, R580, R585, R587). -/

namespace Sys2Proof.Machine

/-- What validation yields: pieces, and the side records it has read as numbers. -/
structure Val where
  pieces : List Piece := []
  ext : Nat := 0
  arg : Nat := 0
  buftab : Nat := 0
deriving DecidableEq, Repr

/-- Who translates for a command. -/
def Cmd.who (c : Cmd) : Who := { cid := c.cid, fn := c.fn, ctx := c.ctx, hide := c.hide, cls := c.cls }

/-- BAD_DESC naming the field whose lowest bit is a bit of the run of descriptor bytes (R580). -/
def badField {α : Type} (stage bit : Nat) : V α := .bad 0x14 (descErr stage (bit / 8) (bit % 8))

/-- A check that ends in BAD_DESC with a field. -/
def need (c : Bool) (stage bit : Nat) : Bool × Nat × ErrInfo := (c, 0x14, descErr stage (bit / 8) (bit % 8))

/-- A check that ends in BAD_DESC with no single field. -/
def needNone (c : Bool) (stage : Nat) : Bool × Nat × ErrInfo := (c, 0x14, descNone stage)

/-- A check that ends in FORMAT_DENIED with a field. -/
def needFmt (c : Bool) (bit : Nat) : Bool × Nat × ErrInfo := (c, 0x15, descErr 3 (bit / 8) (bit % 8))

/-- The opcodes of R312. -/
def opcodeKnown (o : Nat) : Bool :=
  [0x00, 0x01, 0x02, 0x03, 0x10, 0x11, 0x12, 0x13, 0x14, 0x15, 0x20, 0x21, 0x30, 0x40, 0x50, 0x51, 0x52, 0x53,
    0x60].contains o

/-- The opcodes that an admin queue accepts (R294). -/
def opcodeAdmin (o : Nat) : Bool := o == 0 || (decide (0x10 ≤ o) && decide (o ≤ 0x15))

/-- CONT of a descriptor (R311). -/
def contOf (d : Desc) : Bool := d.getLsbD 8

/-- Header checks (R585 step 3): opcode, admin queue, ENGINE, pairing. Stage 1 for an acre operation, else 0. -/
def headerChecks (c : Cmd) : V Unit :=
  let o := c.opcode
  let st := if o = 0x40 then 1 else 0
  vchecks ([need (opcodeKnown o) st 0, need (c.ctx != 0xFFFF || opcodeAdmin o) st 0,
    need (if o = 0x60 then decide (1 ≤ c.engine) && decide (c.engine ≤ 4) else c.engine == 0) st 16]
    ++ (if o = 0x40 then
      [need (contOf c.d0) 1 8, need (c.d1.toNat % 256 == 0x40) 1 512, need (!contOf c.d1) 1 520]
    else [need (!contOf c.d0) st 8]))

/-- Reserved codes in an opcode's own fields (R585 step 5). -/
def codeChecks (c : Cmd) : V Unit :=
  let o := c.opcode
  if o = 0x10 then vchecks [need (decide (c.fld 25 24 < 2)) 0 24]
  else if o = 0x15 then vchecks [need (decide (c.fld 27 24 < 2)) 0 24]
  else if o = 0x20 then vchecks [need (decide (c.fld 11 9 < 3)) 0 9,
    need (c.fld 11 9 == 0 || decide (c.fld 28 24 < 3)) 0 24]
  else .ok ()

/-- CTX of a context-management command (R314). -/
def Cmd.ctxField (c : Cmd) : Nat := c.fld 45 32

/-- The CTX field names a live context of the function (R585 step 6). -/
def State.ctxCheck (s : State) (c : Cmd) : V Unit :=
  if 0x11 ≤ c.opcode ∧ c.opcode ≤ 0x15 then
    vcheck (s.ctxLive c.ctxField && (s.ctx c.ctxField).fn == c.fn) 0x1B (commandErr 7 0)
  else .ok ()

/-! ## KERNEL (R315 to R317) -/

/-- Chain-registers of a chain: VREGS8 × 8 (R163, R315). -/
def Cmd.vregs (c : Cmd) : Nat := c.fld 109 104 * 8
/-- Chains of a kernel (R315). -/
def Cmd.chains (c : Cmd) : Nat := c.fld 55 32
/-- Chains per group (R315). -/
def Cmd.groupSize (c : Cmd) : Nat := c.fld 102 96
/-- Threads (R315). -/
def Cmd.threads (c : Cmd) : Nat := c.fld 95 64
/-- SPILL_DEPTH (R315). -/
def Cmd.spillDepth (c : Cmd) : Nat := c.fld 127 112
/-- LS_SIZE in bytes (R315). -/
def Cmd.lsSize (c : Cmd) : Nat := c.fld 134 128 * 4096
/-- CODE_LEN (R315). -/
def Cmd.codeLen (c : Cmd) : Nat := c.fld 191 160
/-- CODE_ADDR (R315). -/
def Cmd.codeAddr (c : Cmd) : Nat := c.fld 243 192
/-- ENTRY (R315). -/
def Cmd.entry (c : Cmd) : Nat := c.fld 285 256
/-- ARG_ADDR (R315). -/
def Cmd.argAddr (c : Cmd) : Nat := c.fld 371 320
/-- BUFTAB_ADDR of a KERNEL (R315). -/
def Cmd.buftabAddr (c : Cmd) : Nat := c.fld 435 384

/-- Class-0 reserves of a hide: chain slots, chain-registers, local-store bytes (R155). -/
def State.reserveSlots (s : State) (h : Nat) : Nat := s.kodRun (0x3000 + h) 7
/-- Reserved chain-registers (R155). -/
def State.reserveRegs (s : State) (h : Nat) : Nat := s.kodRun (0x3000 + h) 8
/-- Reserved local store (R155). -/
def State.reserveLs (s : State) (h : Nat) : Nat := s.kodRun (0x3000 + h) 9 * 4096

/-- One group can fit on a core of the hide (R317). -/
def State.groupCanFit (s : State) (h cls group vregs ls : Nat) : Bool :=
  let r := fun x => if cls = 0 then 0 else x
  decide (group ≤ 64 - r (s.reserveSlots h)) && decide (group * vregs ≤ 3584 - r (s.reserveRegs h))
    && decide (ls ≤ 2 ^ 20 - r (s.reserveLs h))

/-- Field and capacity checks of a KERNEL (R315, R317). -/
def State.kernelChecks (s : State) (c : Cmd) : V Unit :=
  vchecks [need (decide (1 ≤ c.chains)) 0 32,
    need (decide (1 ≤ c.threads) && decide (c.threads ≤ 32 * c.chains)) 0 64,
    need (decide (1 ≤ c.groupSize) && decide (c.groupSize ≤ 64)) 0 96,
    need (decide (8 ≤ c.vregs) && decide (c.vregs ≤ 256)) 0 104,
    need (decide (c.spillDepth ≤ 968)) 0 112,
    need (decide (c.lsSize ≤ 64 * 4096)) 0 128,
    need (c.codeLen != 0 && c.codeLen % 8 == 0) 0 160,
    need (c.codeAddr % 8 == 0) 0 192,
    need (decide (c.entry < c.codeLen / 8)) 0 256,
    needNone (decide (c.groupSize * c.spillDepth * 8 ≤ c.lsSize)) 0,
    need (c.argAddr % 64 == 0) 0 320,
    need (c.buftabAddr % 64 == 0) 0 384,
    (s.groupCanFit c.hide c.cls c.groupSize c.vregs c.lsSize, 0x19, commandErr 2 0)]

/-- Entry b of a buffer table (R316). -/
def bufEntry (t b : Nat) : Nat := nbits t (128 * b + 127) (128 * b)
/-- BOUND of a slot (R316). -/
def bufBound (t b : Nat) : Bool := nbit (bufEntry t b) 120
/-- RO of a slot (R316). -/
def bufRo (t b : Nat) : Bool := nbit (bufEntry t b) 121
/-- BASE of a slot (R316). -/
def bufBase (t b : Nat) : Nat := nbits (bufEntry t b) 51 0
/-- LEN of a slot (R316). -/
def bufLen (t b : Nat) : Nat := nbits (bufEntry t b) 111 64

/-- Extents of the bound slots, in ascending slot number. -/
def bufExts (t : Nat) (kernel : Bool) : List Ext :=
  ((List.range 16).filter (fun b => bufBound t b)).map (fun b =>
    { idx := b, va := bufBase t b, len := bufLen t b, written := !bufRo t b, slot := kernel })

/-- A buffer table is read, checked and its slots translated (R316, R359). -/
def State.bufVal (s : State) (w : Who) (addr : Nat) (kernel : Bool) : V Val :=
  if addr = 0 then .ok {}
  else
    vthen (s.sideRecord w { idx := 18, va := addr, len := 256 }) (fun r =>
      vthen (vchecks ((List.range 16).map (fun b => needNone (!bufBound r.2 b || bufLen r.2 b != 0) 0))) (fun _ =>
        vthen (s.translateAll w (bufExts r.2 kernel) r.1) (fun ps => .ok { pieces := ps, buftab := r.2 })))

/-- A KERNEL's validation: checks, then code extent, argument block, buffer table, slots (R359). -/
def State.kernelVal (s : State) (c : Cmd) (w : Who) : V Val :=
  vthen (s.kernelChecks c) (fun _ =>
    vthen (s.translateExt w { idx := 16, va := c.codeAddr, len := c.codeLen }) (fun p0 =>
      vthen (if c.argAddr = 0 then .ok ([], 0) else s.sideRecord w { idx := 17, va := c.argAddr, len := 128 }) (fun a =>
        vthen (s.bufVal w c.buftabAddr true) (fun b =>
          if 4096 < p0.length + a.1.length + b.pieces.length then .bad 0x19 (commandErr 4 0)
          else .ok { pieces := p0 ++ a.1 ++ b.pieces, arg := a.2, buftab := b.buftab }))))

/-! ## COPY and FILL (R318) -/

/-- LAYOUT of a COPY. -/
def Cmd.layout (c : Cmd) : Nat := c.fld 11 9
/-- Element width of a COPY with a layout change. -/
def Cmd.copyWidth (c : Cmd) : Nat := fmtWidth (c.fld 28 24)
/-- Bit-plane group of a COPY. -/
def Cmd.copyGroup (c : Cmd) : Nat := if nbit c.d0.toNat 29 then 16 else 32
/-- ROWS of a COPY. -/
def Cmd.rows (c : Cmd) : Nat := c.fld 63 32
/-- ROW_LEN of a COPY. -/
def Cmd.rowLen (c : Cmd) : Nat := c.fld 231 192

/-- Bytes of n packed elements of w bits (R63). -/
def packedBytes (n w : Nat) : Nat := (n * w + 7) / 8
/-- Bytes of n elements of w bits in bit planes of groups of g (R64). -/
def planeBytes (n w g : Nat) : Nat := (n + g - 1) / g * (w * g / 8)

/-- Bytes of a row at the source and at the destination of a COPY. -/
def Cmd.copyRowBytes (c : Cmd) : Nat × Nat :=
  let p := packedBytes c.rowLen c.copyWidth
  let b := planeBytes c.rowLen c.copyWidth c.copyGroup
  if c.layout = 1 then (p, b) else if c.layout = 2 then (b, p) else (c.rowLen, c.rowLen)

/-- Bytes from row 0 to the end of the last row. -/
def spanOf (rows stride rowBytes : Nat) : Nat := if rows = 0 ∨ rowBytes = 0 then 0 else (rows - 1) * stride + rowBytes

/-- Two extents overlap. -/
def overlap (a la b lb : Nat) : Bool := decide (a < b + lb) && decide (b < a + la)

/-- Extents of a COPY. -/
def Cmd.copyExts (c : Cmd) : List Ext :=
  [{ idx := 0, va := c.fld 115 64, len := spanOf c.rows (c.fld 287 256) c.copyRowBytes.1 },
   { idx := 1, va := c.fld 179 128, len := spanOf c.rows (c.fld 319 288) c.copyRowBytes.2, written := true }]

/-- A COPY's validation (R318). -/
def State.copyVal (s : State) (c : Cmd) (w : Who) : V Val :=
  let es := c.copyExts
  vthen (vchecks [need (decide (1 ≤ c.rows)) 0 32, need (c.fld 231 192 != 0) 0 192,
    needNone (match es with | [a, b] => !overlap a.va a.len b.va b.len | _ => true) 0]) (fun _ =>
    vthen (s.translateAll w es []) (fun ps => .ok { pieces := ps }))

/-- A FILL's validation; one of 0 bytes is a descriptor of no elements (R318, R418). -/
def State.fillVal (s : State) (c : Cmd) (w : Who) : V Val :=
  vthen (vchecks [need (c.fld 179 128 % 8 == 0 && c.fld 179 128 != 0) 0 128]) (fun _ =>
    vthen (s.translateAll w [{ idx := 1, va := c.fld 115 64, len := c.fld 179 128, written := true }] []) (fun ps =>
      .ok { pieces := ps }))

/-! ## SIGNAL and WAIT (R313) -/

/-- A SIGNAL's or WAIT's object extent: naturally aligned. -/
def State.objVal (s : State) (c : Cmd) (w : Who) : V Val :=
  let n := if nbit c.d0.toNat 24 then 8 else 4
  vthen (vchecks [need (c.opcode != 2 || nbit c.d0.toNat 24 || c.fld 63 32 != 0) 0 32,
    need (c.fld 115 64 % n == 0) 0 64]) (fun _ =>
    vthen (s.translateAll w [{ idx := 0, va := c.fld 115 64, len := n, written := true }] []) (fun ps =>
      .ok { pieces := ps }))

/-! ## ACRE (R102 to R108, R587) -/

/-- A field of the extension record (R105). -/
def extFld (x hi lo : Nat) : Nat := nbits x hi lo

/-- Stone size of a mode: 16 under S16 and S16X, else 32. -/
def stoneOf (mode : Nat) : Nat := if mode = 2 ∨ mode = 3 then 16 else 32
/-- The mode has stone scales. -/
def hasStones (mode : Nat) : Bool := mode == 1 || mode == 2 || mode == 3
/-- The mode has F32 factors (R104). -/
def hasFactors (mode : Nat) : Bool := mode == 0 || mode == 3 || mode == 4
/-- Bytes of one operand row (R64, R108). -/
def rowBytes (fmt mode n : Nat) : Nat :=
  if fmtPlanes fmt then planeBytes n (fmtWidth fmt) (if hasStones mode then stoneOf mode else 32)
  else packedBytes n (fmtWidth fmt)
/-- Stones of a row. -/
def stonesOf (mode n : Nat) : Nat := (n + stoneOf mode - 1) / stoneOf mode

/-- FMT_A, FMT_B, FMT_OUT (R102). -/
def Cmd.fmtA (c : Cmd) : Nat := c.fld 36 32
/-- FMT_B (R102). -/
def Cmd.fmtB (c : Cmd) : Nat := c.fld 41 37
/-- FMT_OUT (R102). -/
def Cmd.fmtOut (c : Cmd) : Nat := c.fld 46 42
/-- MODE_A (R102). -/
def Cmd.modeA (c : Cmd) : Nat := c.fld 49 47
/-- MODE_B (R102). -/
def Cmd.modeB (c : Cmd) : Nat := c.fld 52 50
/-- MODE_OUT (R102). -/
def Cmd.modeOut (c : Cmd) : Nat := c.fld 55 53
/-- ROUND (R102). -/
def Cmd.round (c : Cmd) : Nat := c.fld 57 56
/-- EPI (R102). -/
def Cmd.epi (c : Cmd) : Nat := c.fld 61 58
/-- M (R102). -/
def Cmd.dimM (c : Cmd) : Nat := c.fld 95 64
/-- N (R102). -/
def Cmd.dimN (c : Cmd) : Nat := c.fld 127 96
/-- K (R102). -/
def Cmd.dimK (c : Cmd) : Nat := c.fld 159 128
/-- ESC_THRESH (R102). -/
def Cmd.escThresh (c : Cmd) : Nat := c.fld 191 160
/-- A_ADDR, B_ADDR, OUT_ADDR (R102). -/
def Cmd.aAddr (c : Cmd) : Nat := c.fld 243 192
/-- B_ADDR (R102). -/
def Cmd.bAddr (c : Cmd) : Nat := c.fld 307 256
/-- OUT_ADDR (R102). -/
def Cmd.outAddr (c : Cmd) : Nat := c.fld 371 320
/-- A_STRIDE (R102). -/
def Cmd.aStride (c : Cmd) : Nat := c.fld 415 384
/-- B_STRIDE (R102). -/
def Cmd.bStride (c : Cmd) : Nat := c.fld 447 416
/-- OUT_STRIDE (R102). -/
def Cmd.outStride (c : Cmd) : Nat := c.fld 479 448
/-- OUT_SCALE (R102). -/
def Cmd.outScale (c : Cmd) : Nat := c.fld 511 480
/-- A_SC_STRIDE (R103). -/
def Cmd.aScStride (c : Cmd) : Nat := c.fld1 31 16
/-- B_SC_STRIDE (R103). -/
def Cmd.bScStride (c : Cmd) : Nat := c.fld1 47 32
/-- OUT_SC_STRIDE (R103). -/
def Cmd.outScStride (c : Cmd) : Nat := c.fld1 63 48
/-- A_SC_ADDR (R103). -/
def Cmd.aScAddr (c : Cmd) : Nat := c.fld1 115 64
/-- B_SC_ADDR (R103). -/
def Cmd.bScAddr (c : Cmd) : Nat := c.fld1 179 128
/-- OUT_SC_ADDR (R103). -/
def Cmd.outScAddr (c : Cmd) : Nat := c.fld1 243 192
/-- FACTOR_ADDR (R103). -/
def Cmd.factorAddr (c : Cmd) : Nat := c.fld1 307 256
/-- SEED (R103). -/
def Cmd.seedField (c : Cmd) : Nat := c.fld1 383 320
/-- BIAS_ADDR (R103). -/
def Cmd.biasAddr (c : Cmd) : Nat := c.fld1 435 384
/-- EXT_ADDR (R103). -/
def Cmd.extAddr (c : Cmd) : Nat := c.fld1 499 448
/-- FRESH_SEED of an acre operation (R102). -/
def Cmd.freshSeed (c : Cmd) : Bool := nbit c.d0.toNat 9
/-- The epilogue uses the bias (R119). -/
def epiBias (e : Nat) : Bool := e == 1 || e == 3 || e == 5
/-- The epilogue clamps (R119). -/
def epiClamp (e : Nat) : Bool := e == 4 || e == 5

/-- Shadow of an operand in the extension record: address, scale address, stride, scale stride, format, mode (R105). -/
structure Shadow where
  addr : Nat
  scAddr : Nat
  stride : Nat
  scStride : Nat
  fmt : Nat
  mode : Nat

/-- The shadow fields that start at a byte offset of the extension record. -/
def shadowAt (x off : Nat) : Shadow :=
  { addr := extFld x (8 * off + 51) (8 * off), scAddr := extFld x (8 * off + 115) (8 * off + 64),
    stride := extFld x (8 * off + 159) (8 * off + 128), scStride := extFld x (8 * off + 175) (8 * off + 160),
    fmt := extFld x (8 * off + 180) (8 * off + 176), mode := extFld x (8 * off + 186) (8 * off + 184) }

/-- REPORT_ADDR (R105). -/
def reportAddr (x : Nat) : Nat := extFld x 691 640
/-- EPI_PARAM (R105). -/
def epiParam (x : Nat) : Nat := extFld x 735 704
/-- LUT_A (R105). -/
def lutA (x : Nat) : Nat := extFld x 511 384
/-- LUT_B (R105). -/
def lutB (x : Nat) : Nat := extFld x 639 512

/-- Stage 2 of R107 with R587. -/
def acreStage2 (c : Cmd) (x : Nat) : List (Bool × Nat × ErrInfo) :=
  let sa := shadowAt x 0
  let sb := shadowAt x 24
  [need (decide (c.fmtA < 16)) 2 32, need (decide (c.fmtB < 16)) 2 37, need (decide (c.fmtOut < 16)) 2 42,
   need (decide (c.modeA ≤ 4)) 2 47, need (decide (c.modeB ≤ 4)) 2 50, need (decide (c.modeOut ≤ 4)) 2 53,
   need (decide (c.round ≤ 2)) 2 56, need (decide (c.epi ≤ 5)) 2 58,
   need (sa.addr == 0 || decide (sa.fmt < 16)) 2 (1024 + 176), need (sa.addr == 0 || decide (sa.mode ≤ 4)) 2 (1024 + 184),
   need (sb.addr == 0 || decide (sb.fmt < 16)) 2 (1024 + 368), need (sb.addr == 0 || decide (sb.mode ≤ 4)) 2 (1024 + 376)]

/-- Stage 3 of R107 with R587: each format permitted in the hide (R56). -/
def State.acreStage3 (s : State) (c : Cmd) (x : Nat) : List (Bool × Nat × ErrInfo) :=
  let ok := fun f => nbit (s.kodRun (0x3000 + c.hide) 4) f
  let sa := shadowAt x 0
  let sb := shadowAt x 24
  [needFmt (ok c.fmtA) 32, needFmt (ok c.fmtB) 37, needFmt (ok c.fmtOut) 42,
   needFmt (sa.addr == 0 || ok sa.fmt) (1024 + 176), needFmt (sb.addr == 0 || ok sb.fmt) (1024 + 368)]

/-- The mode rule of an operand: the 16-bit formats take only NONE and CHAN (R68). -/
def modeOk (fmt mode : Nat) : Bool := fmtExact fmt || mode == 0 || mode == 4

/-- A shadow's rules: exact, wider than its primary, its mode by R106 (R83, R85, R106). `base` is its first bit. -/
def shadowChecks (sh : Shadow) (fmt mode : Nat) (wide : Bool) (base k : Nat) : List (Bool × Nat × ErrInfo) :=
  if sh.addr = 0 then [need (sh.scAddr == 0) 4 (base + 64)]
  else
    [need (!wide) 4 base,
     need (fmtExact sh.fmt && decide (fmtWidth fmt < fmtWidth sh.fmt)) 4 (base + 176),
     need (if mode = 1 ∨ mode = 2 then sh.mode == 1 || sh.mode == 2 else sh.mode == mode) 4 (base + 184),
     need (decide (rowBytes sh.fmt sh.mode k ≤ sh.stride)) 4 (base + 128),
     need (!hasStones sh.mode || decide (stonesOf sh.mode k ≤ sh.scStride)) 4 (base + 160),
     need ((sh.scAddr != 0) == hasStones sh.mode) 4 (base + 64)]

/-- A finite F32, and a finite positive one. -/
def f32Finite (v : Nat) : Bool := nbits v 30 23 != 255

/-- The extents that an acre operation reads and writes, in the order of R359. -/
def acreExts (c : Cmd) (x : Nat) : List Ext :=
  let sa := shadowAt x 0
  let sb := shadowAt x 24
  let nf := fun mode rows => if mode = 0 then 1 else if hasFactors mode then rows else 0
  let all : List Ext :=
    [{ idx := 0, va := c.aAddr, len := spanOf c.dimM c.aStride (rowBytes c.fmtA c.modeA c.dimK) },
     { idx := 1, va := c.bAddr, len := spanOf c.dimN c.bStride (rowBytes c.fmtB c.modeB c.dimK) },
     { idx := 2, va := c.outAddr, len := spanOf c.dimM c.outStride (packedBytes c.dimN (fmtWidth c.fmtOut)),
       written := true },
     { idx := 3, va := c.aScAddr, len := spanOf c.dimM c.aScStride (stonesOf c.modeA c.dimK) },
     { idx := 4, va := c.bScAddr, len := spanOf c.dimN c.bScStride (stonesOf c.modeB c.dimK) },
     { idx := 5, va := c.outScAddr, len := spanOf c.dimM c.outScStride (stonesOf c.modeOut c.dimN), written := true },
     { idx := 6, va := c.factorAddr, len := 4 * (nf c.modeA c.dimM + nf c.modeB c.dimN) },
     { idx := 7, va := c.biasAddr, len := 4 * c.dimN },
     { idx := 8, va := sa.addr, len := spanOf c.dimM sa.stride (rowBytes sa.fmt sa.mode c.dimK) },
     { idx := 9, va := sa.scAddr, len := spanOf c.dimM sa.scStride (stonesOf sa.mode c.dimK) },
     { idx := 10, va := sb.addr, len := spanOf c.dimN sb.stride (rowBytes sb.fmt sb.mode c.dimK) },
     { idx := 11, va := sb.scAddr, len := spanOf c.dimN sb.scStride (stonesOf sb.mode c.dimK) },
     { idx := 12, va := reportAddr x, len := 64 + 32 * (((c.dimM + 127) / 128) * ((c.dimN + 127) / 128)),
       written := true }]
  all.filter (fun e => e.va != 0)

/-- No written output extent meets an extent that is read (R108 item 7). -/
def acreNoOverlap (c : Cmd) (x : Nat) : Bool :=
  let es := acreExts c x ++ (if c.extAddr = 0 then [] else [{ idx := 13, va := c.extAddr, len := 128 }])
  es.all (fun o => !(o.idx == 2 || o.idx == 5) || es.all (fun r => r.written || !overlap o.va o.len r.va r.len))

/-- Stage 4 of R107 (R108). -/
def acreStage4 (c : Cmd) (x : Nat) : List (Bool × Nat × ErrInfo) :=
  let sa := shadowAt x 0
  let sb := shadowAt x 24
  let wide := !fmtExact c.fmtA || !fmtExact c.fmtB
  let lut := c.fmtA == 6 || c.fmtB == 6
  let usesExt := lut || epiClamp c.epi || sa.addr != 0 || sb.addr != 0 || reportAddr x != 0
  let sc := decodeFloat fF32 (epiParam x)
  [need (fmtOperand c.fmtA) 4 32, need (fmtOperand c.fmtB) 4 37, need (fmtOutput c.fmtOut) 4 42,
   need (modeOk c.fmtA c.modeA) 4 47, need (modeOk c.fmtB c.modeB) 4 50,
   need (decide (c.modeOut ≤ 2) && (c.modeOut == 0 || fmtExact c.fmtOut)) 4 53,
   need (decide (1 ≤ c.dimM) && decide (c.dimM ≤ 2 ^ 24)) 4 64, need (decide (1 ≤ c.dimN) && decide (c.dimN ≤ 2 ^ 24)) 4 96,
   need (decide (1 ≤ c.dimK) && decide (c.dimK ≤ if wide then 2 ^ 20 else 65536)) 4 128,
   need (decide (rowBytes c.fmtA c.modeA c.dimK ≤ c.aStride)) 4 384,
   need (decide (rowBytes c.fmtB c.modeB c.dimK ≤ c.bStride)) 4 416,
   need (decide (packedBytes c.dimN (fmtWidth c.fmtOut) ≤ c.outStride)) 4 448,
   need (!hasStones c.modeA || decide (stonesOf c.modeA c.dimK ≤ c.aScStride)) 4 528,
   need (!hasStones c.modeB || decide (stonesOf c.modeB c.dimK ≤ c.bScStride)) 4 544,
   need (c.modeOut == 0 || decide (stonesOf c.modeOut c.dimN ≤ c.outScStride)) 4 560,
   need (c.aAddr != 0) 4 192, need (c.bAddr != 0) 4 256, need (c.outAddr != 0) 4 320,
   need ((c.aScAddr != 0) == hasStones c.modeA) 4 576, need ((c.bScAddr != 0) == hasStones c.modeB) 4 640,
   need ((c.outScAddr != 0) == (c.modeOut != 0)) 4 704,
   need ((c.factorAddr != 0) == (hasFactors c.modeA || hasFactors c.modeB)) 4 768,
   need ((c.biasAddr != 0) == epiBias c.epi) 4 896,
   need (c.extAddr % 64 == 0 && ((c.extAddr != 0) == usesExt)) 4 960]
  ++ shadowChecks sa c.fmtA c.modeA wide 1024 c.dimK ++ shadowChecks sb c.fmtB c.modeB wide 1216 c.dimK
  ++ [need (!c.freshSeed || c.round == 2) 4 9, need (c.epi == 0 || c.fmtOut != 15) 4 58,
   need (!epiClamp c.epi || (f32Finite (epiParam x) && (FV.fin false 0 0).lt sc)) 4 (1024 + 704),
   need (c.modeOut != 0 || c.fmtOut == 15 || (f32Finite c.outScale && c.outScale % 2 ^ 31 != 0)) 4 480,
   needNone (acreNoOverlap c x) 4]

/-- An acre operation's validation after stage 1: the extension record, stages 2 to 5 (R107, R587). -/
def State.acreVal (s : State) (c : Cmd) (w : Who) : V Val :=
  vthen (if c.extAddr = 0 ∨ c.extAddr % 64 ≠ 0 then .ok ([], 0)
    else s.sideRecord w { idx := 13, va := c.extAddr, len := 128 }) (fun x =>
    vthen (vchecks (acreStage2 c x.2 ++ s.acreStage3 c x.2 ++ acreStage4 c x.2)) (fun _ =>
      vthen (s.translateAll w (acreExts c x.2) x.1) (fun ps => .ok { pieces := ps, ext := x.2 })))

/-! ## Plans and sequences (R247 to R251, R257, R258) -/

/-- A field of a plan header (R249). -/
def planFld (x hi lo : Nat) : Nat := nbits x hi lo

/-- The plan header's ranges (R249). -/
def planChecks (x : Nat) : V Unit :=
  vchecks [needNone (planFld x 15 0 == 0x0100) 0,
    needNone (decide (1 ≤ planFld x 31 16) && decide (planFld x 31 16 ≤ 1024)) 0,
    needNone (decide (1 ≤ planFld x 47 32)) 0,
    needNone (decide (4 ≤ planFld x 55 48) && decide (planFld x 55 48 ≤ 7)) 0,
    needNone (planFld x 95 64 % 128 == 0 && decide (planFld x 95 64 ≤ 2 ^ 24)) 0,
    needNone (decide (1 ≤ planFld x 159 128) && decide (planFld x 159 128 ≤ 2 ^ 20)) 0,
    needNone (decide (1 ≤ planFld x 191 160) && decide (planFld x 191 160 ≤ 65535)) 0]

/-- Extents that a plan header names, in its own order (R249). -/
def planExts (x : Nat) : List Ext :=
  [{ idx := 0, va := planFld x 307 256, len := planFld x 127 96 * planFld x 95 64, written := true },
   { idx := 1, va := planFld x 371 320, len := 4096 * planFld x 159 128 * 4, written := true },
   { idx := 2, va := planFld x 435 384, len := planFld x 47 32 * 32, written := true },
   { idx := 3, va := planFld x 499 448, len := planFld x 47 32 * 64, written := true },
   { idx := 4, va := planFld x 563 512, len := planFld x 31 16 * 160 }]

/-- Groups of n chains for a number of rows. -/
def groupsFor (rows per : Nat) : Nat := (rows + per - 1) / per

/-- The command of a stage with M, or the chain count, set for a number of rows (R251, R271). -/
def stageCmd (c : Cmd) (rec rows : Nat) : Cmd :=
  let d0 := nbits rec 767 256
  let d1 := nbits rec 1279 768
  let per := nbits rec 31 16
  if nbits rec 7 0 = 0 then { c with d0 := BitVec.ofNat 512 (setBits d0 95 64 rows), d1 := BitVec.ofNat 512 d1 }
  else
    let chains := if per = 0 then nbits d0 55 32 else groupsFor rows per * nbits d0 102 96
    let threads := if per = 0 then nbits d0 95 64 else 32 * chains
    { c with d0 := BitVec.ofNat 512 (setBits (setBits d0 55 32 chains) 95 64 threads), d1 := 0 }

/-- One stage's command validated as its own submission would be (R251). -/
def State.stageVal (s : State) (c : Cmd) (rec rows : Nat) (w : Who) : V Val :=
  let k := stageCmd c rec rows
  let op := if nbits rec 7 0 = 0 then 0x40 else 0x30
  if k.opcode ≠ op then badField 0 0
  else
    vthen (headerChecks k) (fun _ => vthen (codeChecks k) (fun _ =>
      if (s.furlongsOf k.hide).isEmpty then .bad 0x19 (commandErr 6 0)
      else if op = 0x40 then s.acreVal k w else s.kernelVal k w))

/-- The stage records of a plan as loaded stages (R250, R251). -/
def State.stageVals (s : State) (c : Cmd) (rows x i : Nat) (w : Who) : Nat → V (List Stage)
  | 0 => .ok []
  | n + 1 =>
    let rec_ := nbits x (1280 * i + 1279) (1280 * i)
    vthen (vchecks [needNone (decide (nbits rec_ 7 0 ≤ 2)) 0, needNone ((nbits rec_ 7 0 == 2) == (n == 0)) 0]) (fun _ =>
      vthen (s.stageVal c rec_ rows w) (fun v =>
        vthen (State.stageVals s c rows x (i + 1) w n) (fun r =>
          let k := stageCmd c rec_ rows
          .ok ({ kind := nbits rec_ 7 0, rowsPer := nbits rec_ 31 16, kvOff := nbits rec_ 63 32, kvLen := nbits rec_ 95 64,
                 d0 := BitVec.ofNat 512 (nbits rec_ 767 256), d1 := k.d1, pieces := v.pieces, ext := v.ext,
                 buftab := v.buftab, arg := v.arg } :: r))))

/-- PLAN_LOAD's validation: header, its extents, its stages: pieces, header and stages (R249 to R251). -/
def State.planVal (s : State) (c : Cmd) (w : Who) : V (List Piece × Nat × List Stage) :=
  vthen (s.sideRecord w { idx := 13, va := c.fld 115 64, len := 128 }) (fun h =>
    vthen (planChecks h.2) (fun _ =>
      vthen (s.translateAll w (planExts h.2) h.1) (fun ps =>
        vthen (s.sideRuns w (ps.filter (fun p => p.ext == 4))) (fun bs =>
          vthen (s.stageVals c (planFld h.2 47 32) (leNat bs) 0 w (planFld h.2 31 16)) (fun st => .ok (ps, h.2, st))))))

/-- An extent lies within one page, or one range, of the context's translation (R258). -/
def State.onePage (s : State) (c va len : Nat) : Bool :=
  match s.mapAt c va with
  | none => true
  | some m =>
    if (s.ctx c).range then decide (va + len ≤ m.va + m.len) else pageOf m va == pageOf m (va + len - 1)

/-- Extents of a SEQ_OPEN: prompt, SSB, token ring (R257). -/
def seqExts (c : Cmd) : List Ext :=
  [{ idx := 0, va := c.fld 179 128, len := 4 * c.fld 63 32 },
   { idx := 1, va := c.fld 243 192, len := 64, written := true },
   { idx := 2, va := c.fld 307 256, len := 4 * 2 ^ c.fld 324 320, written := true }]

/-- A SEQ_OPEN's field ranges, translation and page rule (R253, R257, R258). -/
def State.seqVal (s : State) (c : Cmd) (w : Who) : V Val :=
  vthen (vchecks [need (decide (1 ≤ c.fld 63 32) && decide (c.fld 63 32 ≤ 2 ^ 24)) 0 32,
    need (decide (c.fld 95 64 ≤ 2 ^ 24)) 0 64,
    need (c.fld 243 192 % 64 == 0) 0 192,
    need (decide (4 ≤ c.fld 324 320) && decide (c.fld 324 320 ≤ 20)) 0 320]) (fun _ =>
    vthen (s.translateAll w (seqExts c) []) (fun ps =>
      vthen (vchecks ((seqExts c).map (fun e => needNone (s.onePage c.ctx e.va e.len) 0))) (fun _ => .ok { pieces := ps })))

/-! ## The whole validation (R585) -/

/-- The context-management commands' own fields and their parameter records, read in the function's I/O space: LENGTH is
at least 1, found before the map list is read (R314, R580, R583). -/
def State.paramVal (s : State) (c : Cmd) (w : Who) : V Val :=
  if c.opcode = 0x10 then
    vthen (s.ioRecord w (c.fld 127 64 / 64 * 64) 64) (fun x =>
      vthen (s.ioPieces w 15 (c.fld 191 128 / 8 * 8) 8 true 0 8) (fun ps => .ok { pieces := ps, ext := x }))
  else if c.opcode = 0x12 then
    vthen (vchecks [need (c.fld 179 128 != 0) 0 128]) (fun _ =>
      vthen (s.ioRecord w (c.fld 255 192 / 64 * 64) 16) (fun h =>
        vthen (vchecks [needNone (decide (1 ≤ h % 65536) && decide (h % 65536 ≤ 256)) 0]) (fun _ =>
          vthen (s.ioRecord w (c.fld 255 192 / 64 * 64) (16 + 32 * (h % 65536))) (fun x => .ok { ext := x }))))
  else if c.opcode = 0x13 ∨ c.opcode = 0x14 then
    vthen (vchecks [need (c.fld 179 128 != 0) 0 128]) (fun _ => .ok {})
  else if c.opcode = 0x15 then
    vthen (s.ioPieces w 15 (c.fld 127 64 / 64 * 64) 64 true 0 64) (fun ps => .ok { pieces := ps })
  else .ok {}

/-- The opcode's further checks and translation (R585 step 7). -/
def State.opVal (s : State) (c : Cmd) (w : Who) : V Val :=
  let o := c.opcode
  if o = 0x02 ∨ o = 0x03 then s.objVal c w
  else if 0x20 ≤ o ∧ o ≤ 0x40 ∧ (s.furlongsOf c.hide).isEmpty then .bad 0x19 (commandErr 6 0)
  else if o = 0x20 then s.copyVal c w
  else if o = 0x21 then s.fillVal c w
  else if o = 0x30 then s.kernelVal c w
  else if o = 0x40 then s.acreVal c w
  else if o = 0x50 then vthen (s.planVal c w) (fun _ => .ok {})
  else if o = 0x51 then s.seqVal c w
  else if o = 0x53 then
    vthen (s.translateAll w [{ idx := 1, va := c.fld 115 64, len := 64, written := true }] []) (fun ps => .ok { pieces := ps })
  else if o = 0x60 then
    if (s.engine c.engine).present then s.bufVal w (c.fld 115 64) false else .bad 0x19 (commandErr 1 c.engine)
  else s.paramVal c w

/-- The checks that need nothing of what the command names: hide, bound context, header, version, codes (R585 items 1 to 5). -/
def State.frontVal (s : State) (c : Cmd) : V Unit :=
  vthen (vcheck (s.fnHide c.fn).isSome 0x19 (commandErr 0 0)) (fun _ =>
    vthen (vcheck (!(s.queue c.fn c.q).ctxGone) 0x1B (commandErr 7 0)) (fun _ =>
      vthen (headerChecks c) (fun _ =>
        vthen (vcheck (c.opcode != 0x10 || (s.fn c.fn).verSelect != 0) 0x1C (commandErr 8 0)) (fun _ => codeChecks c))))

/-- Every check of a command in its order (R585). -/
def State.validate (s : State) (c : Cmd) : V Val :=
  vthen (s.frontVal c) (fun _ => vthen (s.ctxCheck c) (fun _ => s.opVal c c.who))

end Sys2Proof.Machine
end

