-- ==== Sys2Proof/Machine/Tqi.lean ====
section
/-! DEFINITION. The queue interface: versions, function reset, queues, doorbells, push slots, descriptor fetch, event and
error queues (R286 to R310, R322 to R330, R343, R380 to R388, R443 to R445, R581). -/

namespace Sys2Proof.Machine

/-- The function takes register writes and doorbells (R290, R292, R335). -/
def State.fnTakes (s : State) (n : Nat) : Bool := s.fnPresent n && (s.fn n).ready && !(s.fn n).resetting

/-- A host access to a function that does not take it: ignored, or answered with an error while PD_GATE is not powered
(R37, R292, R529). -/
def State.ignored (s : State) (n : Nat) : State := if s.running then s else s.emit (.hostError n)

/-- The function has a queue block of that number (R284, R285). -/
def hasQueue (n q : Nat) : Bool := decide (q < fnQueues n)

/-- Contexts that a function holds. -/
def State.fnCtxCount (s : State) (n : Nat) : Nat := (s.fnCtxs n).length

/-- The function's hide has changed: its commands go with it, and those of a function with no hide complete with
NO_RESOURCE (R283, R382). -/
def State.rehome (s : State) (n : Nat) : State :=
  (s.cmds.filter (fun c => c.fn == n && c.stage.isNone && c.phase != .ended && c.phase != .stopping)).foldl (fun t c =>
    match t.fnHide n with
    | none => t.complete c.cid 0x19 (some (commandErr 0 0))
    | some h => if c.hide = h then t else t.updCmd c.cid (fun k => { k with hide := h })) s

/-! ## Versions and function reset -/

/-- The versions that a function lists: VER_LIST of R287. -/
def verListed (v : W16) : Bool := v == 0x0100

/-- VER_SELECT takes a listed version while the function has no context (R7, R291). -/
def State.writeVerSelect (s : State) (n : Nat) (v : W16) : State :=
  if !s.fnTakes n then s.ignored n
  else if verListed v && decide (s.fnCtxCount n = 0) then s.updFn n (fun r => { r with verSelect := v })
  else s

/-- A reset of the PF discards every waiting outbound mailbox word and latches source 720 + ch (R452). -/
def State.discardOut (s : State) : State :=
  (List.range 16).foldl (fun t c =>
    if (tget t.boxes c {}).outFull then
      ({ t with boxes := tupd t.boxes c {} (fun b => { b with outFull := false, outDiscarded := true }) }).latch (720 + c)
    else t) s

/-- A function reset starts, steps 1 and 2 of R292: contexts are destroyed and commands leave without completion
records. A request during a reset is absorbed (R293). A reset of the PF discards outbound mailbox words (R452). -/
def State.startFnReset (s : State) (n : Nat) : State :=
  if (s.fn n).resetting then s
  else
    let s1 := s.updFn n (fun r => { r with
      resetting := true, ready := false, evq := { r.evq with staged := [] }, erq := { r.erq with staged := [] } })
    let s2 := (s1.fnCtxs n).foldl (fun t c => t.destroyCtx c 0x10 none none) s1
    let s3 := (s2.cmds.filter (fun c => c.fn == n && c.stage.isNone)).foldl (fun t c => t.killCmd c.cid 0x10 none) s2
    if n = 0 then s3.discardOut else s3

/-- Steps 3 to 5 of R292: queue blocks, the event and error queue page and VER_SELECT take their reset values; FN_GEN
increments; READY sets, if its hide has started (R529). -/
def State.endFnReset (s : State) (n : Nat) : State :=
  if !(s.fn n).resetting then s
  else
    let keep (q : RecQueue) : RecQueue := { coalesced := q.coalesced, lost := q.lost }
    ({ (s.updFn n (fun r => { r with
        verSelect := 0, gen := r.gen + 1, resetting := false, ready := false, evq := keep r.evq, erq := keep r.erq,
        noticeMask := 0, mirrorVf := false, queues := [] })) with
        store := s.store.filter (fun e => e.fn != n) } : State).refreshReady n

/-! ## Enabling and disabling queues -/

/-- Sum of RATE over the enabled class-0 queues of the block (R388). -/
def State.classZeroRate (s : State) : Nat :=
  ((s.fns.flatMap (fun f => f.2.queues)).map (fun q => if q.2.enabled && q.2.cls == 0 then q.2.rate else 0)).sum

/-- The checks of an enable (R299, R388). -/
def State.enableOk (s : State) (n q : Nat) : Bool :=
  let r := s.queue n q
  nbit (s.fnClasses n) r.cls
    && (r.cls != 0 || (match s.fnHide n with
        | some h => s.reserveSlots h != 0
        | none => false))
    && decide (4 ≤ r.cqLog2) && decide (r.cqLog2 ≤ 16)
    && (r.isPush || (decide (4 ≤ r.sqLog2) && decide (r.sqLog2 ≤ 16) && r.sqBase != 0))
    && r.cqBase != 0
    && (r.cls != 0 || (r.isPush && r.rate != 0 && r.window != 0 && decide (s.classZeroRate + r.rate ≤ 8)))
    && (r.cls != 2 || r.weight != 0)
    && (r.ctx == 0xFFFF || (s.ctxLive r.ctx.toNat && (s.ctx r.ctx.toNat).fn == n))

/-- A context that becomes pinned has its entries loaded and locked (R356). -/
def State.pinNow (s : State) (c : Nat) (was : Bool) : State := if s.ctxLive c && s.pinned c && !was then s.lockCtx c else s

/-- An enable is performed on the configuration that the queue holds (R299). -/
def State.performEnable (s : State) (n q : Nat) : State :=
  if s.enableOk n q then
    (s.updQueue n q (fun r => { r with
      enabled := true, stopped := false, errCode := 0, ctxGone := false, sqHead := 0, sqTail := 0, cqHead := 0,
      cqTail := 0, fetched := [], asked := 0, draining := false, heldEnable := false, notWritten := 0, stopDue := false,
      wrOpen := false, dbPending := false, active := false })).pinNow (s.queue n q).ctx.toNat
      (s.pinned (s.queue n q).ctx.toNat)
  else s.stopQueue n q 2

/-- Defined bits of Q_CTRL (R296). -/
def qctrlMask : W64 := 0x1F1F1F

/-- A write of Q_CTRL with ENABLE = 1 (R299, R300): configuration bits count only while the queue is not enabled; an
enable during the drain is held. -/
def State.writeEnable (s : State) (n q : Nat) (ctrl : W64) : State :=
  let r := s.queue n q
  if !s.fnTakes n then s.ignored n
  else if !hasQueue n q then s
  else if r.enabled then
    if r.draining then
      s.updQueue n q (fun r => { r with heldEnable := true, ctrl := r.ctrl ||| 1 })
    else s.updQueue n q (fun r => { r with ctrl := r.ctrl ||| 1 })
  else (s.updQueue n q (fun r => { r with ctrl := (ctrl &&& qctrlMask) ||| 1 })).performEnable n q

/-- A write of Q_CTRL with ENABLE = 0 (R300): the queue drains; a held enable is withdrawn. -/
def State.writeDisable (s : State) (n q : Nat) (ctrl : W64) : State :=
  let r := s.queue n q
  if !s.fnTakes n then s.ignored n
  else if !hasQueue n q then s
  else if r.enabled then
    s.updQueue n q (fun r => { r with
      ctrl := r.ctrl &&& ~~~1, draining := true, heldEnable := false, fetched := [], dbPending := false })
  else s.updQueue n q (fun r => { r with ctrl := ctrl &&& qctrlMask &&& ~~~1, heldEnable := false })

/-- The drain ends once every accepted command has completed: ENABLED clears, and a held enable is performed (R300). -/
def State.endDrain (s : State) (n q : Nat) : State :=
  let r := s.queue n q
  if r.enabled && r.draining && (s.queueCmds n q).isEmpty && r.order.isEmpty then
    let s1 := s.updQueue n q (fun r => { r with enabled := false, draining := false, heldEnable := false })
    let s2 := { s1 with store := s1.store.filter (fun e => !(e.fn == n && e.q == q)) }
    let s3 := s2.unlockCtx r.ctx.toNat
    if r.heldEnable then s3.performEnable n q else s3
  else s

/-! ## Doorbells and push slots -/

/-- The queue takes doorbells: enabled, not draining, not stopped (R302, R335). -/
def Queue.open (r : Queue) : Bool := r.enabled && !r.draining && !r.stopped

/-- The I/O address of a queue's descriptor of a count (R303). -/
def Queue.sqIo (r : Queue) (c : W32) : Nat := r.sqBase.toNat + 64 * (c.toNat % 2 ^ r.sqLog2)

/-- Translated addresses of up to k descriptors from a count on, as far as ATS grants reading them (R303, R304). -/
def State.ringRun (s : State) (n q : Nat) (c : W32) : Nat → List Nat
  | 0 => []
  | k + 1 =>
    match s.ringAt n ((s.queue n q).sqIo c) false with
    | .ok => s.hostAddr n ((s.queue n q).sqIo c) :: s.ringRun n q (c + 1) k
    | _ => []

/-- Ring-mode descriptors are asked for up to the tail, in ascending count; an address that the ATS cache does not cover is
asked for, one that it refuses stops the queue (R303, R304). -/
def State.askFetch (s : State) (n q : Nat) : State :=
  let r := s.queue n q
  let k := (r.sqTail - r.asked).toNat
  if r.isPush || !r.open || k = 0 then s
  else
    let as := s.ringRun n q r.asked k
    let c := r.asked + BitVec.ofNat 32 as.length
    let s1 := if as.isEmpty then s
              else (s.updQueue n q (fun r => { r with asked := c })).emit (.fetch n q as)
    if as.length = k then s1
    else
      match s.ringAt n (r.sqIo c) false with
      | .ok => s1
      | .ask io => s1.emit (.atsRequest n io)
      | .refused => s1.stopQueue n q 3

/-- The queues that waited for a context have it resident: DB_PENDING clears and their descriptors are asked for (R343). -/
def State.wakeQueues (s : State) (c : Nat) : State :=
  let fn := (s.ctx c).fn
  ((s.fn fn).queues.filter (fun q => q.2.dbPending && q.2.ctx.toNat == c)).foldl (fun t q =>
    (t.updQueue fn q.1 (fun r => { r with dbPending := false })).askFetch fn q.1) s

/-- A doorbell needs its context resident; when no entry can be freed it stays pending, with one RESIDENT_FULL notice
for the wait (R343). -/
def State.wantResident (s : State) (n q : Nat) : State :=
  let r := s.queue n q
  let c := r.ctx.toNat
  if r.ctx = 0xFFFF ∨ !s.ctxLive c then s.askFetch n q
  else
    match s.makeResident c with
    | some t => (t.wakeQueues c).askFetch n q
    | none =>
      if r.dbPending then s
      else (s.updQueue n q (fun r => { r with dbPending := true })).postNotice n 7 c 0 0 q

/-- The doorbell (R302). -/
def State.ringDoorbell (s : State) (n q : Nat) (tail : W32) : State :=
  let r := s.queue n q
  if !s.fnTakes n then s.ignored n
  else if !(hasQueue n q && r.open) || tail == r.sqTail then s
  else
    let s1 := s.updQueue n q (fun r => { r with sqTail := tail })
    if r.ringSize < (tail - r.sqHead).toNat then
      (s1.updQueue n q (fun r => { r with draining := true, fetched := [], dbPending := false })).stopQueue n q 1
    else s1.wantResident n q

/-- The Gate owns a push slot that lies in the range from SQ_HEAD to SQ_TAIL (R303). -/
def Queue.ownsSlot (r : Queue) (slot : Nat) : Bool :=
  decide ((slot + 16 - r.sqHead.toNat % 16) % 16 < (r.sqTail - r.sqHead).toNat) && r.enabled && !r.draining

/-- Put bytes into a slot of 64 bytes. -/
def slotPut (d : Desc) (off len : Nat) (data : Desc) : Desc :=
  BitVec.ofNat 512 (setBits d.toNat (8 * (off + len) - 1) (8 * off) data.toNat)

/-- A push-slot access is naturally aligned, of 4 to 64 bytes, within one slot (R286). -/
def pushAccessOk (off len : Nat) : Bool :=
  [4, 8, 16, 32, 64].contains len && off % len == 0 && decide (off + len ≤ 1024)

/-- A write to the push slots, at an offset from PUSH0 (R286, R303). -/
def State.writePush (s : State) (n q off len : Nat) (data : Desc) : State :=
  if !s.fnTakes n then s.ignored n
  else if !(hasQueue n q && pushAccessOk off len) then s
  else if (s.queue n q).isPush && (s.queue n q).ownsSlot (off / 64) then
    s.updQueue n q (fun r => { r with pushDrop := stickAdd 16 r.pushDrop 1 })
  else s.updQueue n q (fun r => { r with push := tupd r.push (off / 64) 0 (fun d => slotPut d (off % 64) len data) })

/-! ## Completion ring, interrupts, abort -/

/-- A write of CQ_HEAD (R295, R322): unsignalled records start their time again. -/
def State.writeCqHead (s : State) (n q : Nat) (v : W32) : State :=
  if !s.fnTakes n then s.ignored n
  else if !hasQueue n q then s
  else s.updQueue n q (fun r => { r with cqHead := v, unsigFrom := if r.unsig = 0 then r.unsigFrom else s.btime.toNat })

/-- A stopped command whose accesses are all performed completes with the status decided first; a foreign engine
reports the end itself (R43, R195, R197). -/
def State.settle (s : State) (cid : Nat) : State :=
  match s.cmd? cid with
  | none => s
  | some c =>
    if c.phase = .stopping ∧ c.opcode ≠ 0x60 ∧ s.cmdQuiet cid ∧ !(s.ctx c.ctx).fenced then
      (s.dropGroups cid).complete cid (c.status.getD 0x10) c.err
    else s

/-- End a command with a status: at once where it has not been dispatched, else as R195 gives. -/
def State.endCmd (s : State) (cid st : Nat) (err : Option ErrInfo) : State :=
  match s.cmd? cid with
  | none => s
  | some c =>
    if c.phase = .ended then s
    else if c.ctx ≠ 0xFFFF ∧ (s.ctx c.ctx).fenced then s.stopCmd cid st err
    else if c.onEngine then (s.stopCmd cid st err).settle cid
    else s.killCmd cid st err

/-- Q_ABORT: every accepted, uncompleted command of the queue completes with ABORTED (R305). -/
def State.abortQueue (s : State) (n q : Nat) : State :=
  if !s.fnTakes n then s.ignored n
  else if !hasQueue n q then s
  else (s.queueCmds n q).foldl (fun t c => t.endCmd c.cid 0x10 none) s

/-- The bytes of a write that was answered with an error are not known to have landed. -/
def State.forget (s : State) (a n : Nat) : State :=
  { s with ext := (List.range n).foldl (fun t i => terase t (a + i)) s.ext }

/-! ## Event and error queues -/

/-- The event or error queue of a function as a destination. -/
def eqDest (n : Nat) (err : Bool) : Dest := if err then .error (fnFin n) else .event (fnFin n)

/-- Defined LOG2 of EVQ_CFG and ERQ_CFG (R323). -/
def cfgLog2 (v : W64) : Nat := v.toNat % 32

/-- MIRROR_VF of the PF's ERQ_CFG (R323). -/
def State.writeMirror (s : State) (n : Nat) (err : Bool) (cfg : W64) : State :=
  if n = 0 ∧ err then s.updFn 0 (fun r => { r with mirrorVf := cfg.getLsbD 9 }) else s

/-- A write of EVQ_CFG or ERQ_CFG with ENABLE = 1 (R324, R325, R330). -/
def State.enableEq (s : State) (n : Nat) (err : Bool) (cfg : W64) : State :=
  if !s.fnTakes n then s.ignored n
  else
    let d := eqDest n err
    let s1 := s.writeMirror n err cfg
    let q := s1.recq d
    if q.enabled then s1
    else if q.base = 0 ∨ cfgLog2 cfg < 4 ∨ 16 < cfgLog2 cfg then
      s1.updRecq d (fun q => { q with log2 := cfgLog2 cfg, cfgEnable := true, cfgErr := true })
    else
      s1.updRecq d (fun q => { q with
        log2 := cfgLog2 cfg, cfgEnable := true, enabled := true, head := 0, tail := 0, armed := true, staged := [],
        loss := 0, wrOpen := 0, vecOpen := false })

/-- A write of EVQ_CFG or ERQ_CFG with ENABLE = 0 (R324, R325). -/
def State.disableEq (s : State) (n : Nat) (err : Bool) (cfg : W64) : State :=
  if !s.fnTakes n then s.ignored n
  else
    let d := eqDest n err
    let s1 := s.writeMirror n err cfg
    if (s1.recq d).enabled then
      s1.updRecq d (fun q => { q with
        cfgEnable := false, enabled := false, staged := [], loss := 0, armed := false, wrOpen := 0, vecOpen := false,
        lost := q.lost + stagedCount q.staged, lostTotal := stick32 (q.lostTotal + stagedCount q.staged) })
    else s1.updRecq d (fun q => { q with log2 := cfgLog2 cfg, cfgEnable := false })

/-- A write of EVQ_HEAD or ERQ_HEAD: it re-arms the vector, which is sent at once while records remain (R330). -/
def State.writeEqHead (s : State) (n : Nat) (err : Bool) (v : W32) : State :=
  if !s.fnTakes n then s.ignored n
  else
    let d := eqDest n err
    let s1 := s.updRecq d (fun q => { q with head := v, armed := true })
    if (s1.recq d).tail ≠ v then s1.vectorOf d else s1

/-- The newest record write of an event or error queue is answered with an error: the slots are not consumed, and the
records count as lost (R581). A vector that was sent with them leaves the queue armed for the first record that is written
(R330; log 7). -/
def State.failRecord (s : State) (n : Nat) (err : Bool) : State :=
  let d := eqDest n err
  let q := s.recq d
  let k := q.wrOpen
  if k = 0 ∨ !q.enabled then s
  else
    let t := q.tail - BitVec.ofNat 32 k
    let s1 := (List.range k).foldl (fun s i => s.forget (s.hostAddr n (recIo d q (t.toNat + i))) (recSize d)) s
    (s1.updRecq d (fun q => { q with tail := t, wrOpen := 0, armed := q.armed || q.vecOpen, vecOpen := false })).loseRecs d k

/-- The LOST record of a destination, with its count (R445). -/
def State.lostRecord (s : State) (d : Dest) (n : Nat) : Rec :=
  match d with
  | .event _ => { size := 32, words := [eventWord s.ao.evseq.toNat s.btime.toNat 5 0xFFFF n 0 0] }
  | .error fn => { size := 64, words := [errorWord s.ao.evseq.toNat s.btime.toNat 0x000B 0xFFFF 0xFFFFFFFF 0 0 fn.val
      (bodyAt 28 n)] }
  | .journal => { size := 64, words := [s.ao.evseq.toNat + s.btime.toNat * 2 ^ 64 + s.ao.rtc.toNat * 2 ^ 128
      + 8 * 2 ^ 192 + n % 2 ^ 64 * 2 ^ 320] }

/-- The destination's function is being reset: nothing decided before its end is written (R293). -/
def State.destResetting (s : State) (d : Dest) : Bool := match destFn d with | some n => (s.fn n).resetting | none => false

/-- The destination is an event queue whose function masks LOST notices (R325, R327). -/
def State.masksLost (s : State) (d : Dest) : Bool :=
  match d with
  | .event fn => (s.fn fn.val).noticeMask.getLsbD 5
  | _ => false

/-- A destination with room writes its oldest staged record; with none staged, its LOST record, unless it masks that
(R304, R325, R444, R445, R581). -/
def State.writeStaged (s : State) (d : Dest) : State :=
  let q := s.recq d
  if !destEnabled d q || s.destResetting d then s
  else
    match q.staged with
    | r :: rest =>
      if destRoom d q r.words.length then
        (match s.recAsk d r.words.length with
        | .ok => (s.updRecq d (fun q => { q with staged := rest })).writeRec d r
        | .ask io => s.stageAsk d q.staged io
        | .refused => (s.updRecq d (fun q => { q with staged := rest })).loseRecs d r.words.length)
      else s
    | [] =>
      if q.loss = 0 ∨ !destRoom d q 1 then s
      else if s.masksLost d then ((s.updRecq d (fun q => { q with loss := 0 })).evseqNext).dropRecs d 1
      else
        match s.recAsk d 1 with
        | .ok => ((s.updRecq d (fun q => { q with loss := 0 })).evseqNext).writeRec d (s.lostRecord d q.loss)
        | .ask io => s.stageAsk d [] io
        | .refused => s.evseqNext.loseRecs d 1

/-- The rings of a function go on after an answer of its translation agent: descriptors are asked for, completion records
and staged records are written (R304, R341, R581). -/
def State.ringsGoOn (s : State) (n : Nat) : State :=
  let s1 := (s.fn n).queues.foldl (fun t q =>
    let r := t.queue n q.1
    let t1 := if r.ctx == 0xFFFF || !t.ctxLive r.ctx.toNat || (t.ctx r.ctx.toNat).resident then t.askFetch n q.1 else t
    (t1.payCq n q.1).stopRecord n q.1) s
  (s1.writeStaged (.event (fnFin n))).writeStaged (.error (fnFin n))

/-! ## The commands -/

/-- VER_SELECT_WRITE (R291). -/
def execVerSelectWrite (fn : Fin 513) (val : W16) (s : State) : Host.Outcome State Fault Refusal :=
  .next (s.writeVerSelect fn.val val)

/-- FUNCTION_RESET: FN_CTRL.RESET is written to 1 (R292, R293). -/
def execFunctionReset (fn : Fin 513) (s : State) : Host.Outcome State Fault Refusal :=
  .next (if !s.running then s.emit (.hostError fn.val)
    else if s.fnPresent fn.val && (s.fn fn.val).ready then s.startFnReset fn.val else s)

/-- FLR_REPORT: the host link controller reports a Function Level Reset (R292, R293). -/
def execFlrReport (fn : Fin 513) (s : State) : Host.Outcome State Fault Refusal :=
  .next (if s.fnPresent fn.val then s.startFnReset fn.val else s)

/-- FUNCTION_RESET_END (R292). -/
def execFunctionResetEnd (fn : Fin 513) (s : State) : Host.Outcome State Fault Refusal := .next (s.endFnReset fn.val)

/-- QUEUE_ENABLE: a write of Q_CTRL with ENABLE = 1 (R299). -/
def execQueueEnable (fn : Fin 513) (q : Fin 64) (ctrl : W64) (s : State) : Host.Outcome State Fault Refusal :=
  .next (s.writeEnable fn.val q.val ctrl)

/-- QUEUE_DISABLE: a write of Q_CTRL with ENABLE = 0 (R300). -/
def execQueueDisable (fn : Fin 513) (q : Fin 64) (ctrl : W64) (s : State) : Host.Outcome State Fault Refusal :=
  .next (s.writeDisable fn.val q.val ctrl)

/-- QUEUE_DRAIN_END (R300). -/
def execQueueDrainEnd (fn : Fin 513) (q : Fin 64) (s : State) : Host.Outcome State Fault Refusal :=
  .next (s.endDrain fn.val q.val)

/-- DOORBELL: a write of SQ_TAIL (R302). -/
def execDoorbell (fn : Fin 513) (q : Fin 64) (tail : W32) (s : State) : Host.Outcome State Fault Refusal :=
  .next (s.ringDoorbell fn.val q.val tail)

/-- PUSH_SLOT_WRITE (R303). -/
def execPushSlotWrite (fn : Fin 513) (q : Fin 64) (off len : Nat) (data : Desc) (s : State) :
    Host.Outcome State Fault Refusal := .next (s.writePush fn.val q.val off len data)

/-- CONTEXT_LOAD: the Gate tries again to make a wanted context resident (R343, R344). -/
def execContextLoad (ctx : Fin 16384) (s : State) : Host.Outcome State Fault Refusal :=
  let fn := (s.ctx ctx.val).fn
  let qs := (s.fn fn).queues.filter (fun q => q.2.dbPending && q.2.ctx.toNat == ctx.val)
  .next (if s.ctxLive ctx.val && !(s.ctx ctx.val).resident && (!qs.isEmpty || !(s.ctxCmds ctx.val).isEmpty) then
    match s.makeResident ctx.val with
    | some t => t.wakeQueues ctx.val
    | none => s
  else s)

/-- DESCRIPTOR_FETCH_RESPONSE: a descriptor of the ring arrives (R303). -/
def execDescriptorFetchResponse (fn : Fin 513) (q : Fin 64) (count : W32) (desc : Desc) (s : State) :
    Host.Outcome State Fault Refusal :=
  let r := s.queue fn.val q.val
  .next (if r.open && !r.isPush && !(s.fn fn.val).resetting
      && decide ((count - r.sqHead).toNat < (r.sqTail - r.sqHead).toNat) then
    s.updQueue fn.val q.val (fun r => { r with fetched := tset r.fetched count.toNat desc })
  else s)

/-- RING_FETCH_ERROR: a descriptor fetch is answered with an error, or ATS grants no read (R304). -/
def execRingFetchError (fn : Fin 513) (q : Fin 64) (s : State) : Host.Outcome State Fault Refusal :=
  let r := s.queue fn.val q.val
  .next (if r.open && !r.isPush && r.sqTail != r.sqHead && !(s.fn fn.val).resetting then s.stopQueue fn.val q.val 3
    else s)

/-- CQ_WRITE_ERROR: the newest completion write is answered with an error, or ATS grants no write (R304). -/
def execCqWriteError (fn : Fin 513) (q : Fin 64) (s : State) : Host.Outcome State Fault Refusal :=
  let r := s.queue fn.val q.val
  let c := r.cqTail - 1
  .next (if r.wrOpen && !r.cqStopped && !(s.fn fn.val).resetting then
    ((s.forget (s.hostAddr fn.val (r.cqIo c)) 16).updQueue fn.val q.val
      (fun r => { r with cqTail := c, wrOpen := false, unsig := r.unsig - 1, notWritten := 1 })).stopQueue fn.val q.val 4
  else s)

/-- COMPLETION_HEAD_WRITE: a write of CQ_HEAD (R307, R322). -/
def execCompletionHeadWrite (fn : Fin 513) (q : Fin 64) (val : W32) (s : State) : Host.Outcome State Fault Refusal :=
  .next (s.writeCqHead fn.val q.val val)

/-- COMPLETION_INTERRUPT_TIMEOUT: TIME µs have passed since the first unsignalled record (R322). -/
def execCompletionInterruptTimeout (fn : Fin 513) (q : Fin 64) (s : State) : Host.Outcome State Fault Refusal :=
  let r := s.queue fn.val q.val
  let time := (r.cqInt.extractLsb' 8 10).toNat
  .next (if r.cqInt.extractLsb' 0 8 != 0 && time != 0 && r.unsig != 0
      && decide (r.unsigFrom + 1000 * time ≤ s.btime.toNat) then
    (s.msix fn.val (2 + q.val)).updQueue fn.val q.val (fun r => { r with unsig := 0 })
  else s)

/-- Q_ABORT (R305). -/
def execQAbort (fn : Fin 513) (q : Fin 64) (s : State) : Host.Outcome State Fault Refusal :=
  .next (s.abortQueue fn.val q.val)

/-- EVENT_QUEUE_ENABLE: a write of EVQ_CFG or ERQ_CFG with ENABLE = 1 (R324, R330). -/
def execEventQueueEnable (fn : Fin 513) (err : Bool) (cfg : W64) (s : State) : Host.Outcome State Fault Refusal :=
  .next (s.enableEq fn.val err cfg)

/-- EVENT_QUEUE_DISABLE: a write of EVQ_CFG or ERQ_CFG with ENABLE = 0 (R325). -/
def execEventQueueDisable (fn : Fin 513) (err : Bool) (cfg : W64) (s : State) : Host.Outcome State Fault Refusal :=
  .next (s.disableEq fn.val err cfg)

/-- EVENT_QUEUE_HEAD_WRITE (R330). -/
def execEventQueueHeadWrite (fn : Fin 513) (err : Bool) (val : W32) (s : State) : Host.Outcome State Fault Refusal :=
  .next (s.writeEqHead fn.val err val)

/-- RECORD_WRITE_ERROR (R581). -/
def execRecordWriteError (fn : Fin 513) (err : Bool) (s : State) : Host.Outcome State Fault Refusal :=
  .next (s.failRecord fn.val err)

/-- STAGED_RECORD_WRITE (R444, R445). -/
def execStagedRecordWrite (d : Dest) (s : State) : Host.Outcome State Fault Refusal := .next (s.writeStaged d)

end Sys2Proof.Machine
end

