-- ==== Sys2Proof/Machine/Gate.lean ====
section
/-! DEFINITION. The Gate's front end: acceptance, validation, migration between host and device, ATS answers, class-0
admission, the scheduler, and the commands that the Gate executes on a queue (R42, R306 to R308, R313, R343, R357 to
R365, R383 to R398, R457 to R459). -/

namespace Sys2Proof.Machine

/-! ## Progress timers (R456 to R459) -/

/-- The command is running (R458): a kernel from its first placed group, an acre operation from its first operand
request, a COPY or FILL from the moment it leaves the engine queue for a channel, in which R384 calls it unstarted
(DEDUCED, log 46), any other command from its dispatch. -/
def Cmd.started (c : Cmd) : Bool :=
  if c.opcode = 0x30 then c.onEngine && c.nextGroup != 0
  else if c.opcode = 0x40 ∨ c.opcode = 0x20 ∨ c.opcode = 0x21 then c.onEngine && c.phase != .dispatched
  else c.onEngine

/-- The timer is frozen (R458). -/
def State.cmdFrozen (s : State) (c : Cmd) : Bool :=
  (c.ctx != 0xFFFF && (!(s.ctx c.ctx).resident || (s.ctx c.ctx).fenced)) || (s.hide c.hide).recovery
    || (c.opcode == 0x30 && (s.groups.any (fun g => g.cid == c.cid))
        && !(s.groups.any (fun g => g.cid == c.cid && g.core.isSome)))
    || (c.opcode == 0x40 && (match (s.hide c.hide).acre.pre with | some o => o.cid == c.cid | none => false))

/-- The command is held (R459). -/
def State.cmdHeld (s : State) (c : Cmd) : Bool :=
  c.engHeld || (s.chansOf c.cid).any (fun mc => (s.chan mc.1 mc.2).st == .held)

/-- One command's timer follows what runs, what is frozen and what is held. -/
def State.retimeCmd (s : State) (c : Cmd) : Cmd :=
  if s.cmdHeld c then { c with tOn := false, tAcc := 0 }
  else if c.started && !s.cmdFrozen c then (if c.tOn then c else { c with tOn := true, tFrom := s.btime.toNat })
  else if c.tOn then { c with tOn := false, tAcc := c.tAcc + (s.btime.toNat - c.tFrom) }
  else c

/-- Every command's timer follows the state (R458, R459). -/
def State.retime (s : State) : State := { s with cmds := s.cmds.map s.retimeCmd }

/-- A command makes progress: its timer starts again from zero (R457, R458). -/
def State.progress (s : State) (cid : Nat) : State :=
  s.updCmd cid (fun c => { c with lastProg := s.btime.toNat, tAcc := 0, tFrom := s.btime.toNat })

/-! ## Migration between host and device (R363, R364) -/

/-- Bytes of a function's I/O space. -/
def State.hostBytes (s : State) (fn io n : Nat) : List Byte :=
  (List.range n).map (fun i => s.readPa (s.hostAddr fn (io + i)))

/-- Write bytes to a function's I/O space. -/
def State.hostPut (s : State) (fn io : Nat) (bs : List Byte) : State :=
  s.writeCells (bs.mapIdx (fun i b => (s.hostAddr fn (io + i), b)))

/-- A device-state page goes back to its I/O address and to host state; its device page is freed (R364, R367). -/
def State.writeBackPage (s : State) (c : Nat) (m : Mapping) : State :=
  match m.dev with
  | none => s
  | some d =>
    let bs := s.readBytes (s.localPa d) m.psize
    let s1 := s.hostPut (s.ctx c).fn m.base bs
    let s2 := s1.updCtx c (fun x => { x with
      maps := x.maps.map (fun y => if y.va = m.va then { y with dev := none } else y)
      writebacks := stickAdd 32 x.writebacks 1 })
    { s2 with allocs := s2.allocs.filter (fun r => !(r.base == d && r.obj == 0)) }

/-- A mapping of MIGR pages with one page split off into device state. -/
def splitPage (m : Mapping) (p d now : Nat) : List Mapping :=
  let o := p - m.va
  ((if o = 0 then [] else [{ m with len := o }])
    ++ [{ m with va := p, len := m.psize, base := m.base + o, dev := some d, used := now }])
    ++ (if o + m.psize < m.len then
        [{ m with va := p + m.psize, len := m.len - o - m.psize, base := m.base + o + m.psize }] else [])

/-- A migration fault: a device page is allocated, freeing the least recently translated one where there is no room, and
its copy starts (R363, R364). -/
def State.startMigration (s : State) (w : Who) (va : Nat) : State :=
  match s.mapAt w.ctx va with
  | none => s
  | some m =>
    let p := pageOf m va
    if (s.ctx w.ctx).copying.any (fun x => x.1 == p) then s
    else
      let s0 :=
        if s.devRoom w.fn w.ctx m.psize && (s.freeRun w.hide m.psize m.psize).isSome then s
        else
          match s.migrVictim w.ctx with
          | some v => s.writeBackPage w.ctx v
          | none => s
      match s0.freeRun w.hide m.psize m.psize with
      | none => s0
      | some a =>
        let s1 := { s0 with allocs := s0.allocs ++ [({ base := a, len := m.psize, hide := w.hide, fn := w.fn,
                                                        ctx := w.ctx, obj := 0 } : Alloc)] }
        (((s1.zeroRun a m.psize).updCtx w.ctx (fun x => { x with
          copying := x.copying ++ [(p, a)], migrFaults := stickAdd 32 x.migrFaults 1 }))).wmCheck (256 + w.hide)

/-! ## Validation and translation of an accepted command (R306, R357, R585) -/

/-- The mappings that a command's pieces use have been translated now (R364). -/
def State.touchMaps (s : State) (c : Nat) (ps : List Piece) : State :=
  if c = 0xFFFF then s
  else
    s.updCtx c (fun x => { x with maps := x.maps.map (fun m =>
      if ps.any (fun p => decide (p.va < m.va + m.len) && decide (m.va < p.va + p.len)) then
        { m with used := s.btime.toNat } else m) })

/-- Side records of a class-0 command that lie in device memory are kept in the record store (R389). -/
def State.keepSide (s : State) (c : Cmd) (v : Val) : State :=
  if c.cls ≠ 0 then s
  else
    let keep (t : State) (idx len bits : Nat) : State :=
      match v.pieces.find? (fun p => p.ext == idx) with
      | some p => if t.isLocal p.pa ∧ p.len = len then t.storeTouch c.fn c.q p.pa len bits else t
      | none => t
    keep (keep (keep s 13 128 v.ext) 18 256 v.buftab) 17 128 v.arg

/-- The first part of a run that a command still lacks, within one line: address and length. -/
def missingPart (got : List (Nat × Nat)) (pa len : Nat) : Nat × Nat :=
  let i := ((List.range len).takeWhile (fun i => covered got (pa + i) 1)).length
  (pa + i, min (128 - (pa + i) % 128) (len - i))

/-- Ask for a part of a side record: of host memory at the Host Port, of a remote node over the links (R583). -/
def State.askSide (s : State) (c : Cmd) (pa len : Nat) : State :=
  let r := missingPart c.got pa len
  if isHostPa r.1 then s.emit (.hostRead c.fn (s.hostPort c.fn) r.1 r.2)
  else
    let h := ((s.ctx c.ctx).maps.find? (fun m => m.kind == 3 && m.node == paNode r.1 && decide (m.base ≤ paOff r.1)
      && decide (paOff r.1 < m.base + m.len))).map (fun m => m.hide)
    s.sendReq { kind := 1, len := r.2, hide := BitVec.ofNat 4 (h.getD 0), dst := BitVec.ofNat 14 (paNode r.1),
                addr := BitVec.ofNat 40 (paOff r.1) } none none c.cid c.ctx

/-! ### Ranges of an invalidation handshake (R367) -/

/-- The part of a mapping within [va, va + len). -/
def portion (m : Mapping) (va len : Nat) : Option (Nat × Nat) :=
  let a := max m.va va
  let b := min (m.va + m.len) (va + len)
  if a < b then some (a, b - a) else none

/-- The mapping reads host memory: HOST, or MIGR in host state. -/
def Mapping.onHost (m : Mapping) : Bool := m.kind == 0 || (m.kind == 4 && m.dev.isNone)

/-- The context ranges that a handshake covers: its own, or those whose I/O address an ATS request names. -/
def State.shakeRanges (s : State) (c : Nat) (k : Shake) : List (Nat × Nat) :=
  match k.io with
  | none => [(k.va, k.len)]
  | some io => (s.ctx c).maps.filterMap (fun m =>
      if m.onHost then
        (portion { m with va := m.base } io.1 io.2).map (fun r => (m.va + (r.1 - m.base), r.2))
      else none)

/-- A piece of context memory touches one of some ranges; pieces of the function's I/O space do not. -/
def pieceIn (rs : List (Nat × Nat)) (p : Piece) : Bool :=
  p.ext != 14 && p.ext != 15 && rs.any (fun r => decide (p.va < r.1 + r.2) && decide (r.1 < p.va + p.len))

/-- A handshake of the context that has begun covers one of some ranges (R367 step 1). -/
def State.shakeCovers (s : State) (c : Nat) (f : List (Nat × Nat) → Bool) : Bool :=
  (s.ctx c).shakes.any (fun k => k.begun && f (s.shakeRanges c k))

/-- The command's context lives and is parked: it translates nothing (R341). -/
def State.cmdParked (s : State) (c : Cmd) : Bool :=
  c.ctx != 0xFFFF && s.ctxLive c.ctx && !(s.ctx c.ctx).resident

/-- Apply a command's validation: it is ready, it completes with the deciding status, or it waits (R42, R585). A command of
a parked context is looked at again when it reaches dispatch (R341). -/
def State.applyVal (s : State) (cid : Nat) : State :=
  match s.cmd? cid with
  | none => s
  | some c =>
    if s.cmdParked c then s.updCmd cid (fun k => { k with phase := .ready, marked := true })
    else
    match s.validate c with
    | .ok v =>
      if s.shakeCovers c.ctx (fun rs => v.pieces.any (pieceIn rs)) then
        s.updCmd cid (fun k => { k with phase := .waitShake })
      else
      ((((s.updCmd cid (fun k => { k with
        phase := .ready, marked := false, pieces := v.pieces, ext := v.ext, arg := v.arg, buftab := v.buftab })).touchMaps
        c.ctx v.pieces).tlbTouch c.ctx v.pieces).keepSide c v)
    | .bad st e => s.complete cid st (some e)
    | .ats io => (s.updCmd cid (fun k => { k with phase := .waitAts io })).emit (.atsRequest c.fn io)
    | .host pa len => (s.updCmd cid (fun k => { k with phase := .waitHost pa len })).askSide c pa len
    | .migr va =>
      if s.shakeCovers c.ctx (fun rs => rs.any (fun r => decide (r.1 ≤ va) && decide (va < r.1 + r.2))) then
        s.updCmd cid (fun k => { k with phase := .waitShake })
      else (s.updCmd cid (fun k => { k with phase := .migrating va })).startMigration c.who va

/-- A part of a side record has come back; a command whose validation waits for it goes on (R583). -/
def State.gotSide (s : State) (cid pa len : Nat) : State :=
  let s1 := s.updCmd cid (fun c => { c with got := c.got ++ [(pa, len)] })
  match s1.cmd? cid with
  | some c => (match c.phase with | .waitHost _ _ => s1.applyVal cid | _ => s1)
  | none => s1

/-- The next submission sequence number: 0xFFFF_FFFF is skipped (R306). -/
def nextSsn (n : W32) : W32 := if n = 0xFFFFFFFE then 0 else n + 1

/-- The descriptor of a count, if the Gate holds it (R303). -/
def Queue.desc (r : Queue) (c : W32) : Option Desc :=
  if r.isPush then some (tget r.push (c.toNat % 16) 0) else tfind r.fetched c.toNat

/-- The command at SQ_HEAD: its descriptors and how many it takes, if the Gate holds them all (R306). -/
def Queue.nextCmd (r : Queue) : Option (Desc × Desc × Nat) :=
  if r.sqHead = r.sqTail then none
  else
    match r.desc r.sqHead with
    | none => none
    | some d0 =>
      if d0.toNat % 256 = 0x40 ∧ contOf d0 then
        if r.sqHead + 1 = r.sqTail then none else (r.desc (r.sqHead + 1)).map (fun d1 => (d0, d1, 2))
      else some (d0, 0, 1)

/-- Room for one more completion record (R307). -/
def State.cqRoom (s : State) (n q : Nat) : Bool :=
  let r := s.queue n q
  decide ((s.queueCmds n q).length + (r.order.filter (fun e => e.rec_.isSome)).length + (r.cqTail - r.cqHead).toNat
    < 2 ^ r.cqLog2)

/-- The bound context of a queue is no bar to acceptance: there is none, it is gone, or it is resident (R309, R341). -/
def State.boundResident (s : State) (r : Queue) : Bool :=
  r.ctx == 0xFFFF || r.ctxGone || !s.ctxLive r.ctx.toNat || (s.ctx r.ctx.toNat).resident

/-- Commands of a class-0 queue held by its reservation, oldest first (R387). -/
def State.heldCmds (s : State) (n q : Nat) : List Cmd := (s.queueCmds n q).filter (fun c => c.phase == .held)

/-- The sliding window of a class-0 queue admits a command now (R387). -/
def State.windowOpen (s : State) (n q : Nat) : Bool :=
  let r := s.queue n q
  decide ((r.admits.filter (fun t => decide (s.btime.toNat < t + 1000 * r.window))).length < r.rate)

/-- Admit a command of a class-0 queue: it takes a place in the window and is validated (R387). -/
def State.letIn (s : State) (n q cid : Nat) : State :=
  (s.updQueue n q (fun r => { r with
    admits := s.btime.toNat :: r.admits.filter (fun t => decide (s.btime.toNat < t + 1000 * r.window)) })).applyVal cid

/-- Accept the command at a queue's head (R306, R307, R387). -/
def State.accept (s : State) (n q : Nat) : State :=
  let r := s.queue n q
  if !(r.open && s.fnTakes n && s.cqRoom n q && s.boundResident r) then s
  else
    match r.nextCmd with
    | none => s
    | some (d0, d1, k) =>
      let cid := s.nextCid
      let c : Cmd := { cid := cid, fn := n, q := q, ssn := r.ssn.toNat, ctx := r.ctx.toNat,
                       hide := (s.fnHide n).getD 0, cls := r.cls, d0 := d0, d1 := d1, phase := .held,
                       accAt := s.btime.toNat }
      let s1 := { s with cmds := s.cmds ++ [c], nextCid := cid + 1 }
      let s2 := s1.updQueue n q (fun r => { r with
        ssn := nextSsn r.ssn, sqHead := r.sqHead + BitVec.ofNat 32 k,
        fetched := terase (terase r.fetched r.sqHead.toNat) (r.sqHead + BitVec.ofNat 32 (k - 1)).toNat })
      let s3 := if s2.ctxLive c.ctx then s2.updCtx c.ctx (fun x => { x with lastUse := s.btime.toNat }) else s2
      if r.cls ≠ 0 then s3.applyVal cid
      else if (s.heldCmds n q).isEmpty && s.windowOpen n q then s3.letIn n q cid
      else s3

/-! ## The scheduler (R383 to R398) -/

/-- The oldest command of a queue that has not been dispatched. -/
def State.headCmd (s : State) (n q : Nat) : Option Cmd :=
  (s.queueCmds n q).find? (fun c => !c.onEngine && c.phase != .ended)

/-- The command asks for a fresh seed (R94, R257, R518). -/
def Cmd.wantsSeed (c : Cmd) : Bool :=
  (c.opcode == 0x40 && c.freshSeed) || (c.opcode == 0x51 && nbit c.d0.toNat 11)

/-- No earlier command of the queue holds this one back: an uncompleted FENCE or WAIT, or any under SERIAL (R296, R313). -/
def State.orderFree (s : State) (r : Queue) (c : Cmd) : Bool :=
  (s.queueCmds c.fn c.q).all (fun k => decide (c.cid ≤ k.cid) || !(r.serial || k.opcode == 1 || k.opcode == 3))

/-- The current span of a hide (R394). -/
def State.spanNow (s : State) (h : Nat) : Nat := s.btime.toNat / (1000 * (s.hide h).spanLen) % 256

/-- A class-1 tag is served in the current span (R393, R394). -/
def State.tagServed (s : State) (h tag : Nat) : Bool :=
  let e := tget (s.hide h).table (s.spanNow h) 0
  nbit e 8 && e % 256 == tag

/-- A queue's head command may be dispatched (R308, R341, R394, R405, R518). -/
def State.dispatchable (s : State) (h n q : Nat) : Bool :=
  let r := s.queue n q
  match s.headCmd n q with
  | none => false
  | some c =>
    r.enabled && c.phase == .ready && s.orderFree r c && (!c.wantsSeed || s.pow.entropy)
      && (c.ctx == 0xFFFF || ((s.ctx c.ctx).resident && !(s.ctx c.ctx).fenced))
      && (r.cls != 1 || s.tagServed h r.tableTag)

/-- Dispatched and not started; a kernel starts with its first placed group (R384, R458). -/
def Cmd.unstarted (c : Cmd) : Bool :=
  c.phase == .dispatched || (c.opcode == 0x30 && c.phase == .running && c.nextGroup == 0)

/-- A command may enter its engine queue: the limits of classes 1 to 3 (R384). -/
def State.canEnter (s : State) (c : Cmd) : Bool :=
  let waiting := s.cmds.filter (fun k => k.hide == c.hide && k.unstarted && k.cls != 0)
  if c.cls = 0 then true
  else if c.opcode = 0x40 then !waiting.any (fun k => k.opcode == 0x40)
  else if c.opcode = 0x20 ∨ c.opcode = 0x21 ∨ c.opcode = 0x30 then
    decide ((waiting.filter (fun k => k.opcode == 0x20 || k.opcode == 0x21 || k.opcode == 0x30)).length < 16)
  else true

/-- The queues of a hide of one class, in ascending (function, queue) order. -/
def State.hideQueues (s : State) (h cls : Nat) : List (Nat × Nat) :=
  s.fns.flatMap (fun f =>
    if s.fnHide f.1 = some h then
      (f.2.queues.filter (fun q => q.2.enabled && q.2.cls == cls)).map (fun q => (f.1, q.1))
    else [])

/-- Of those, the dispatchable ones. -/
def State.readyQueues (s : State) (h cls : Nat) : List (Nat × Nat) :=
  (s.hideQueues h cls).filter (fun x => s.dispatchable h x.1 x.2)

/-- The head command of a queue can enter its engine queue. -/
def State.headEnters (s : State) (x : Nat × Nat) : Bool :=
  match s.headCmd x.1 x.2 with
  | some c => s.canEnter c
  | none => false

/-- The least of a list of numbers. -/
def minList : List Nat → Option Nat
  | [] => none
  | a :: r => some (r.foldl min a)

/-- A virtual time raised to the least of others, if there are any. -/
def raiseV (v : Nat) (l : List Nat) : Nat := match minList l with | some m => max v m | none => v

/-- A class-2 queue becomes dispatchable (R397). -/
def State.activateQueue (s : State) (h n q : Nat) : State :=
  let others := ((s.fn n).queues.filter (fun x => x.2.active)).map (fun x => x.2.v)
  let s1 := s.updQueue n q (fun r => { r with v := raiseV r.v others, active := true })
  if (s.fn n).active then s1
  else
    s1.updFn n (fun r => { r with
      v := raiseV r.v (((s.fns.filter (fun f => s.fnHide f.1 == some h)).filter (fun f => f.2.active)).map (fun f => f.2.v)),
      active := true })

/-- The scheduler's look at the class-2 queues of a hide: those that became dispatchable are activated, those that no
longer are leave (R397). -/
def State.lookClass2 (s : State) (h : Nat) : State :=
  let now := s.readyQueues h 2
  let s1 := (s.hideQueues h 2).foldl (fun t x =>
    if now.contains x then (if (t.queue x.1 x.2).active then t else t.activateQueue h x.1 x.2)
    else t.updQueue x.1 x.2 (fun r => { r with active := false })) s
  { s1 with fns := s1.fns.map (fun f =>
      (f.1, if s1.fnHide f.1 = some h then { f.2 with active := f.2.queues.any (fun q => q.2.active) } else f.2)) }

/-- The next of an ascending list after the one last served, round robin. -/
def roundRobin (l : List (Nat × Nat)) (last : Option Nat) : Option (Nat × Nat) :=
  match last with
  | none => l.head?
  | some k => (l.find? (fun x => decide (k < x.1 * 64 + x.2))).orElse (fun _ => l.head?)

/-- Class-2 choice: the function, then the queue, of least virtual time; ties go to the lower number (R397). -/
def State.pick2 (s : State) (l : List (Nat × Nat)) : Option (Nat × Nat) :=
  match pickBy (fun a b => decide (a < b)) (fun n => (s.fn n).v) (l.map (fun x => x.1)) with
  | none => none
  | some n =>
    (pickBy (fun a b => decide (a < b)) (fun q => (s.queue n q).v)
      ((l.filter (fun x => x.1 == n)).map (fun x => x.2))).map (fun q => (n, q))

/-- The queue that the scheduler of a hide issues from next (R384, R394, R397, R398; log 19). -/
def State.pickQueue (s : State) (h : Nat) : Option (Nat × Nat) :=
  let c0 := (s.readyQueues h 0).filter s.headEnters
  let c1 := (s.readyQueues h 1).filter s.headEnters
  let c2 := (s.readyQueues h 2).filter s.headEnters
  let c3 := (s.readyQueues h 3).filter s.headEnters
  let age : Nat × Nat → Nat := fun x => match s.headCmd x.1 x.2 with | some c => c.cid | none => 0
  match c0.foldl (fun (b : Option (Nat × Nat)) x =>
      match b with
      | none => some x
      | some y => if age x < age y then some x else some y) none with
  | some x => some x
  | none =>
    match roundRobin c1 (tfind (s.hide h).rr1 (tget (s.hide h).table (s.spanNow h) 0 % 256)) with
    | some x => some x
    | none =>
      match s.pick2 c2 with
      | some x => some x
      | none => roundRobin c3 (s.hide h).rr3

/-- A seed is drawn at the command's first dispatch: an operation that starts again keeps the one it has, and with it its
stored bits (R94, R97, R121, R406). -/
def Cmd.drawsSeed (c : Cmd) : Bool := c.opcode == 0x40 && c.freshSeed && !c.seedDrawn

/-- A command enters its engine queue (R20, R42, R384). -/
def State.enterQueue (s : State) (c : Cmd) : State :=
  let s1 := s.updCmd c.cid (fun k => { k with
    phase := .dispatched, dispAt := s.btime.toNat, genAt := s.genOf c.ctx,
    seed := if c.drawsSeed then s.drawVal else if c.seedDrawn then k.seed else BitVec.ofNat 64 c.seedField,
    seedDrawn := c.seedDrawn || c.drawsSeed })
  let s2 := if c.drawsSeed then s1.drawNext else s1
  let s3 :=
    if (0x20 ≤ c.opcode ∧ c.opcode ≤ 0x40) ∨ c.opcode = 0x60 then
      s2.updHide c.hide (fun h => { h with engQ := h.engQ ++ [c.cid] })
    else s2
  s3.retime

/-- The scheduler of a hide issues one command; a marked one is validated and translated first (R367 step 3, R384). -/
def State.schedule (s : State) (h : Nat) : State :=
  let s0 := s.lookClass2 h
  match s0.pickQueue h with
  | none => s0
  | some x =>
    match s0.headCmd x.1 x.2 with
    | none => s0
    | some c =>
      let s1 := if c.marked then s0.applyVal c.cid else s0
      match s1.cmd? c.cid with
      | none => s1
      | some k =>
        if k.phase ≠ .ready then s1
        else
          let s2 := s1.enterQueue k
          if k.cls = 1 then
            s2.updHide h (fun y => { y with
              rr1 := tset y.rr1 (tget y.table (s.spanNow h) 0 % 256) (x.1 * 64 + x.2) })
          else if k.cls = 3 then s2.updHide h (fun y => { y with rr3 := some (x.1 * 64 + x.2) })
          else s2

/-- A command that its opcode's row runs: dispatched, of the opcode. -/
def State.onRow (s : State) (cid op : Nat) : Option Cmd :=
  (s.cmd? cid).filter (fun c => c.phase == .dispatched && c.opcode == op)

/-- Every earlier command of the queue has completed (R313). -/
def State.earlierDone (s : State) (c : Cmd) : Bool :=
  (s.queueCmds c.fn c.q).all (fun k => decide (c.cid ≤ k.cid))

/-- Address of a SIGNAL's or WAIT's object. -/
def Cmd.objPa (c : Cmd) : Nat := (pieceAddr c.pieces 0 0).getD 0

/-- Barrier object, else counting event (R313). -/
def Cmd.barrier (c : Cmd) : Bool := nbit c.d0.toNat 24

/-- An event message of a SIGNAL or WAIT to a remote home (R535): AUX bit 0 the kind, the amount as data. -/
def State.sendEvent (s : State) (c : Cmd) (kind : Nat) : State :=
  let pa := c.objPa
  let data := if kind = 6 ∧ !c.barrier then leBytes 4 (c.fld 63 32) else []
  s.sendReq { kind := BitVec.ofNat 8 kind, len := data.length, hide := BitVec.ofNat 4
                ((c.pieces.head?.map (fun p => p.hide)).getD 0), dst := BitVec.ofNat 14 (paNode pa),
              aux := if c.barrier then 1 else 0, addr := BitVec.ofNat 40 (paOff pa), data := data } none none c.cid c.ctx

/-! ## The commands -/

/-- COMMAND_ACCEPT (R306, R307). -/
def execCommandAccept (fn : Fin 513) (q : Fin 64) (s : State) : Host.Outcome State Fault Refusal :=
  .next (s.accept fn.val q.val)

/-- RESERVATION_ADMIT: the sliding window admits the oldest held command of a class-0 queue (R387). -/
def execReservationAdmit (fn : Fin 513) (q : Fin 64) (s : State) : Host.Outcome State Fault Refusal :=
  .next (match s.heldCmds fn.val q.val with
    | c :: _ => if s.windowOpen fn.val q.val then s.letIn fn.val q.val c.cid else s
    | [] => s)

/-- COMMAND_DISPATCH: the scheduler of a hide issues its next command into an engine queue (R384). -/
def execCommandDispatch (h : Fin 8) (s : State) : Host.Outcome State Fault Refusal := .next (s.schedule h.val)

/-- NOP: completes with OK at its dispatch (R312). -/
def execNop (cid : Nat) (s : State) : Host.Outcome State Fault Refusal :=
  .next (match s.onRow cid 0x00 with
    | some _ => s.complete cid 0 none
    | none => s)

/-- FENCE: completes when every earlier command of the queue has completed (R313). -/
def execFence (cid : Nat) (s : State) : Host.Outcome State Fault Refusal :=
  .next (match s.onRow cid 0x01 with
    | some c => if s.earlierDone c then s.complete cid 0 none else s
    | none => s)

/-- SIGNAL: once every earlier command of the queue has completed, evsig at system scope; at another node it is performed
when its home has acknowledged it (R43, R234, R235, R313). -/
def execSignal (cid : Nat) (s : State) : Host.Outcome State Fault Refusal :=
  .next (match s.onRow cid 0x02 with
    | some c =>
      let line := c.objPa / 128
      if !s.earlierDone c then s
      else if isHostPa c.objPa then s.complete cid 0x11 (some (hwErr 5 0 c.objPa))
      else if !s.isLocal c.objPa then (s.sendEvent c 6).updCmd cid (fun k => { k with phase := .waiting })
      else if !s.lineOwn gateWho line then s.askOwn gateWho line
      else
        let t := s.takeOwn line
        (if c.barrier then t.arriveBarrier none c.objPa else t.signalCount none c.objPa (c.fld 63 32) c.ctx).complete cid 0
          none
    | none => s)

/-- WAIT: evwait at system scope; it ends at once, or when the object is released (R234, R235, R313). -/
def execWait (cid : Nat) (s : State) : Host.Outcome State Fault Refusal :=
  .next (match s.onRow cid 0x03 with
    | some c =>
      let pa := c.objPa
      let w : Waiter := { lsCore := none, addr := pa, kind := if c.barrier then 1 else 0,
                          phase := nbits (s.objRead none pa 8) 63 56, chain := none, cid := some cid, remote := none,
                          ext := false }
      let waits := fun (t : State) => t.updCmd cid (fun k => { k with phase := .waiting })
      if isHostPa pa then s.complete cid 0x11 (some (hwErr 5 0 pa))
      else if !s.isLocal pa then waits (s.sendEvent c 7)
      else if !s.lineOwn gateWho (pa / 128) then s.askOwn gateWho (pa / 128)
      else if c.barrier then waits { s with waiters := s.waiters ++ [w] }
      else if s.objRead none pa 4 ≠ 0 then
        ((s.takeOwn (pa / 128)).objWrite none pa 4 (s.objRead none pa 4 - 1)).complete cid 0 none
      else waits { s with waiters := s.waiters ++ [w] }
    | none => s)

end Sys2Proof.Machine
end

