-- ==== Sys2Proof/Machine/Context.lean ====
section
/-! DEFINITION. Contexts, MAP and UNMAP, the invalidation handshake and queries (R314, R336 to R339, R347 to R356, R366 to
R371, R588). -/

namespace Sys2Proof.Machine

/-- PAUSE(context). -/
def engPause : Nat := 1
/-- ABORT(handle). -/
def engAbort : Nat := 2
/-- RESUME(context). -/
def engResume : Nat := 3

/-- A context-management command on its row whose CTX still names a live context of its function; a gone one completes
the command (R314). -/
def State.withCtx (s : State) (cid op : Nat) (f : Cmd → Nat → State) : State :=
  match s.onRow cid op with
  | none => s
  | some c =>
    if s.ctxLive c.ctxField && (s.ctx c.ctxField).fn == c.fn then f c c.ctxField
    else s.complete cid 0x1B (some (commandErr 7 0))

/-- Write bytes to a command's result word or block (R314). -/
def State.writeResult (s : State) (c : Cmd) (bs : List Byte) : State := s.gateExt c.cid c.ctx c.pieces 15 0 bs

/-! ## CTX_CREATE -/

/-- The lowest context number that is not live (R336). -/
def State.freeCtx (s : State) : Option Nat := (List.range 16384).find? (fun c => !s.ctxLive c)

/-- The context limit of a function: CTX_LIMIT, at most 16,384 (R381). -/
def State.ctxLimit (s : State) (n : Nat) : Nat := min (s.fnKod n 7) 16384

/-- CTX_CREATE's effect (R336 to R339): the context with its save area and its result word, or a refusal. It lies in the
function's hide (R283). -/
def State.createCtx (s : State) (c0 : Cmd) : State :=
  let c := { c0 with hide := (s.fnHide c0.fn).getD 8 }
  let save := nbits c.ext 15 0 * 4096
  let limit := nbits c.ext 95 64
  match s.freeCtx with
  | none => s.complete c.cid 0x19 (some (commandErr 3 0))
  | some k =>
    if (s.fnHide c.fn).isNone then s.complete c.cid 0x19 (some (commandErr 0 0))
    else if s.ctxLimit c.fn ≤ s.fnCtxCount c.fn then s.complete c.cid 0x19 (some (commandErr 3 0))
    else if (limit ≠ 0 ∧ limit * 4096 < save) ∨ s.fnKod c.fn 8 * 4096 < s.fnDev c.fn + save then
      s.complete c.cid 0x19 (some (commandErr 5 0))
    else
      match (if save = 0 then some 0 else s.freeRun c.hide save 4096) with
      | none => s.complete c.cid 0x19 (some (commandErr 5 0))
      | some a =>
        let x : Ctx := { fn := c.fn, hide := c.hide, range := c.fld 25 24 == 1, saveLen := save, saveBase := a,
                         deadline := nbits c.ext 63 32, memLimit := limit, lastUse := s.btime.toNat,
                         quietSince := s.btime.toNat }
        let s1 := { s with ctxs := tset s.ctxs k x, live := linsert s.live k }
        let s2 :=
          if save = 0 then s1
          else
            let r : Alloc := { base := a, len := save, hide := c.hide, fn := c.fn, ctx := k, obj := 0 }
            State.zeroRun { s1 with allocs := s1.allocs ++ [r] } a save
        ((s2.writeResult c (leBytes 8 (k + 2 ^ 16))).endWrites c.cid 0 none).wmCheck (256 + c.hide)

/-! ## MAP (R349 to R352, R588) -/

/-- A map-list entry (R349). -/
structure MapEnt where
  kind : Nat
  psize : Nat
  code : Nat
  ro : Bool
  io : Bool
  node : Nat
  hide : Nat
  len : Nat
  src : Nat
deriving DecidableEq, Repr

/-- Page size of a PSIZE code (R349). -/
def psizeOf (code : Nat) : Nat := if code = 0 then 2 ^ 12 else if code = 1 then 2 ^ 21 else 2 ^ 30

/-- Entry i of a map list; a range-mode context takes 4 KiB throughout. -/
def mapEnt (x : Nat) (range : Bool) (i : Nat) : MapEnt :=
  let e := nbits x (128 + 256 * i + 255) (128 + 256 * i)
  { kind := nbits e 2 0, psize := if range then 2 ^ 12 else psizeOf (nbits e 5 4), code := nbits e 5 4, ro := nbit e 8,
    io := nbit e 9 && nbits e 2 0 == 0, node := nbits e 29 16, hide := nbits e 35 32, len := nbits e 115 64,
    src := nbits e 191 128 }

/-- The entries of a MAP command's list. -/
def Cmd.mapEnts (c : Cmd) (range : Bool) : List MapEnt := (List.range (nbits c.ext 15 0)).map (mapEnt c.ext range)

/-- VA and LENGTH of MAP, UNMAP and INVALIDATE (R314). -/
def Cmd.mapVa (c : Cmd) : Nat := c.fld 115 64
/-- LENGTH (R314). -/
def Cmd.mapLen (c : Cmd) : Nat := c.fld 179 128

/-- One entry's own ranges and alignment at its start (R350). -/
def MapEnt.ok (e : MapEnt) (range : Bool) (va : Nat) : Bool :=
  e.len != 0 && decide (e.kind ≤ 4) && (range || decide (e.code < 3)) && va % e.psize == 0 && e.len % e.psize == 0
    && (e.kind == 1 || e.src % e.psize == 0)

/-- Every entry, each at its start. -/
def mapEntsOk (range : Bool) : List MapEnt → Nat → Bool
  | [], _ => true
  | e :: r, va => e.ok range va && mapEntsOk range r (va + e.len)

/-- No byte of a range is mapped. -/
def State.unmapped (s : State) (c va len : Nat) : Bool :=
  (s.ctx c).maps.all (fun m => decide (m.va + m.len ≤ va) || decide (va + len ≤ m.va))

/-- The conditions of R350. -/
def State.mapOk (s : State) (c : Cmd) (k : Nat) : Bool :=
  let range := (s.ctx k).range
  let es := c.mapEnts range
  mapEntsOk range es c.mapVa && (es.map (fun e => e.len)).sum == c.mapLen && c.mapLen != 0
    && decide (c.mapVa + c.mapLen ≤ 2 ^ 52) && s.unmapped k c.mapVa c.mapLen
    && (!range || (es.length == 1 && es.all (fun e => e.kind != 4)))

/-- Device pages of a page-mode DEV entry: one run where there is one, else page by page (log 8). -/
def State.allocPages (s : State) (k : Nat) (obj : Nat) (psize : Nat) : Nat → Option (State × List (Nat × Nat))
  | 0 => some (s, [])
  | n + 1 =>
    match s.freeRun (s.ctx k).hide psize psize with
    | none => none
    | some a =>
      let r : Alloc := { base := a, len := psize, hide := (s.ctx k).hide, fn := (s.ctx k).fn, ctx := k, obj := obj }
      (State.allocPages { s with allocs := s.allocs ++ [r] } k obj psize n).map (fun r => (r.1, (a, psize) :: r.2))

/-- Allocate a DEV entry's pages: state and runs. -/
def State.allocDev (s : State) (k : Nat) (e : MapEnt) : Option (State × List (Nat × Nat)) :=
  match s.freeRun (s.ctx k).hide e.len e.psize with
  | some a =>
    let r : Alloc := { base := a, len := e.len, hide := (s.ctx k).hide, fn := (s.ctx k).fn, ctx := k, obj := s.nextObj }
    some ({ s with allocs := s.allocs ++ [r] }, [(a, e.len)])
  | none => if (s.ctx k).range then none else s.allocPages k s.nextObj e.psize (e.len / e.psize)

/-- A mapping made by an entry at an address. -/
def MapEnt.mapping (e : MapEnt) (va len base obj : Nat) (now : Nat) : Mapping :=
  { va := va, len := len, kind := e.kind, ro := e.ro, io := e.io, psize := e.psize, base := base, dev := none,
    node := e.node, hide := e.hide, obj := obj, used := now }

/-- The source of a SHARE entry in its source context: physical runs with their objects, none where a byte is not DEV. -/
def State.shareRuns (s : State) (k va len : Nat) : Nat → Option (List (Nat × Nat × Nat))
  | 0 => none
  | n + 1 =>
    if len = 0 then some []
    else
      match s.mapAt k va with
      | none => none
      | some m =>
        if m.kind = 1 ∨ m.kind = 2 then
          let l := min len (m.va + m.len - va)
          (State.shareRuns s k (va + l) (len - l) n).map (fun r => (m.base + (va - m.va), l, m.obj) :: r)
        else none

/-- Mappings laid one after another. -/
def layRuns (f : Nat → Nat × Nat × Nat → Mapping) : Nat → List (Nat × Nat × Nat) → List Mapping
  | _, [] => []
  | va, r :: rs => f va r :: layRuns f (va + r.2.1) rs

/-- Runs that follow one another physically. -/
def oneRun : List (Nat × Nat × Nat) → Bool
  | a :: b :: r => a.1 + a.2.1 == b.1 && oneRun (b :: r)
  | _ => true

/-- Put mappings into a context. -/
def State.addMaps (s : State) (k : Nat) (ms : List Mapping) : State := s.updCtx k (fun x => { x with maps := x.maps ++ ms })

/-- One entry of a MAP at its address (R348, R351): the new state, or the deciding status. -/
def State.mapEntry (s : State) (c : Cmd) (k va : Nat) (e : MapEnt) : Sum State (Nat × ErrInfo) :=
  let now := s.btime.toNat
  if (s.ctx k).range ∧ 64 ≤ (s.ctx k).maps.length then .inr (0x19, commandErr 5 0)
  else
    match e.kind with
    | 1 =>
      if !s.devRoom c.fn k e.len then .inr (0x19, commandErr 5 0)
      else
        match s.allocDev k e with
        | none => .inr (0x19, commandErr 5 0)
        | some (t, runs) =>
          let t1 := runs.foldl (fun t r => t.zeroRun r.1 r.2) t
          let t2 : State := { t1 with nextObj := t1.nextObj + 1 }
          .inl (t2.addMaps k
            (layRuns (fun va r => e.mapping va r.2.1 r.1 r.2.2 now) va (runs.map (fun r => (r.1, r.2, s.nextObj)))))
    | 2 =>
      if !s.ctxLive e.node then .inr (0x1B, commandErr 7 0)
      else if (s.ctx e.node).fn ≠ c.fn then .inr (0x13, xlateErr va 8)
      else
        match s.shareRuns e.node e.src e.len (e.len / 4096 + 1) with
        | none => .inr (0x12, xlateErr va 9)
        | some runs =>
          if (s.ctx k).range && !oneRun runs then .inr (0x19, commandErr 5 0)
          else if (s.ctx k).range then
            .inl (s.addMaps k ((runs.head?.map (fun r => e.mapping va e.len r.1 r.2.2 now)).toList))
          else .inl (s.addMaps k (layRuns (fun va r => e.mapping va r.2.1 r.1 r.2.2 now) va runs))
    | 3 =>
      if s.fnKod c.fn 4 = 0 then .inr (0x13, xlateErr va 7)
      else .inl (s.addMaps k [e.mapping va e.len (e.src % 2 ^ 40) 0 now])
    | _ => .inl (s.addMaps k [e.mapping va e.len e.src 0 now])

/-- The entries of a MAP in order. -/
def State.mapEntries (s : State) (c : Cmd) (k : Nat) : List MapEnt → Nat → Sum State (Nat × ErrInfo)
  | [], _ => .inl s
  | e :: r, va =>
    match s.mapEntry c k va e with
    | .inl t => State.mapEntries t c k r (va + e.len)
    | .inr x => .inr x

/-- Entries that a MAP adds to a pinned page-mode context, all of which are locked: those of the mappings that `t` has and
`s` has not (R356). -/
def State.toLock (s t : State) (k : Nat) : List (Nat × Nat) :=
  if (t.ctx k).range || !t.pinned k then []
  else t.unlockedRuns k ((t.ctx k).maps.filter (fun m => !(s.ctx k).maps.contains m))

/-- MAP's effect: all or nothing (R352). -/
def State.mapCmd (s : State) (c : Cmd) (k : Nat) : State :=
  if !(s.ctx k).shakes.isEmpty then s
  else if !s.mapOk c k then s.complete c.cid 0x14 (some (descNone 0))
  else
    match s.mapEntries c k (c.mapEnts (s.ctx k).range) c.mapVa with
    | .inr (st, e) => s.complete c.cid st (some e)
    | .inl t =>
      if s.lockRoom (s.ctx k).hide < (s.toLock t k).length then s.complete c.cid 0x19 (some (commandErr 5 0))
      else ((t.loadRuns k true (s.toLock t k)).complete c.cid 0 none).wmCheck (256 + (s.ctx k).hide)

/-! ## The invalidation handshake (R366, R367) -/

/-- The command has a piece in some ranges. -/
def Cmd.touches (c : Cmd) (rs : List (Nat × Nat)) : Bool := c.pieces.any (pieceIn rs)

/-- Dispatched commands of the context with a piece in the ranges, plan stages and stopping ones left out. -/
def State.shakeCmds (s : State) (c : Nat) (rs : List (Nat × Nat)) : List Cmd :=
  (s.ctxCmds c).filter (fun k => k.onEngine && k.phase != .stopping && k.stage.isNone && k.touches rs)

/-- Plans of the context whose translations the ranges touch (R252). -/
def State.shakePlans (s : State) (c : Nat) (rs : List (Nat × Nat)) : List (Nat × Plan) :=
  s.plans.filter (fun p => p.2.ctx == c
    && (p.2.plist ++ p.2.rowtab ++ p.2.tokout ++ p.2.pool ++ p.2.stages.flatMap (fun g => g.pieces)).any (pieceIn rs))

/-- Drop the ATS-cache entries of a function that touch an I/O range. -/
def State.dropAts (s : State) (fn io len : Nat) : State :=
  { s with ats := s.ats.filter (fun e => !(e.fn == fn && decide (e.io < io + len) && decide (io < e.io + e.len))) }

/-- Device runs that the ranges map, as physical addresses. -/
def State.rangePas (s : State) (c : Nat) (rs : List (Nat × Nat)) : List (Nat × Nat) :=
  (s.ctx c).maps.flatMap (fun m => rs.filterMap (fun r => (portion m r.1 r.2).bind (fun p =>
    match m.kind, m.dev with
    | 1, _ => some (s.localPa (m.base + (p.1 - m.va)), p.2)
    | 2, _ => some (s.localPa (m.base + (p.1 - m.va)), p.2)
    | 4, some d => some (s.localPa (d + (p.1 - m.va)), p.2)
    | _, _ => none)))

/-- An invalidation that covers a code extent of a context drops the context's instruction-cache lines (R171). -/
def State.dropCodeIn (s : State) (c : Nat) (rs : List (Nat × Nat)) : State :=
  if (s.ctxCmds c).any (fun k => k.pieces.any (fun p => p.ext == 16 && pieceIn rs p)) then s.dropCode c else s

/-- Step 2: translation-buffer, ATS-cache and record-store entries that touch the ranges go (R367, R389). -/
def State.dropTranslations (s : State) (c : Nat) (rs : List (Nat × Nat)) : State :=
  let pas := s.rangePas c rs
  let s1 := (s.ctx c).maps.foldl (fun t m =>
    if m.kind = 0 ∨ m.kind = 4 then
      rs.foldl (fun t r => match portion m r.1 r.2 with
        | some p => t.dropAts (s.ctx c).fn (m.base + (p.1 - m.va)) p.2
        | none => t) t
    else t) s
  { s1 with
    tlb := s1.tlb.filter (fun e => !(e.ctx == c && rs.any (fun r => decide (e.va < r.1 + r.2) && decide (r.1 < e.va + e.len))))
    store := s1.store.filter (fun e => !((s1.queue e.fn e.q).ctx.toNat == c
      && pas.any (fun r => decide (e.pa < r.1 + r.2) && decide (r.1 < e.pa + e.len)))) }

/-- What is left of a mapping outside [va, va + len). -/
def cutMap (va len : Nat) (m : Mapping) : List Mapping :=
  match portion m va len with
  | none => [m]
  | some p =>
    let o := p.1 + p.2 - m.va
    (if m.va < p.1 then [{ m with len := p.1 - m.va }] else [])
      ++ (if p.1 + p.2 < m.va + m.len then [{ m with va := p.1 + p.2, len := m.len - o, base := m.base + o }] else [])

/-- Halt or release the placed chains of a command at an instruction boundary (R367 steps 4 and 6). -/
def State.haltChains (s : State) (cid : Nat) (on : Bool) : State :=
  (s.groups.filter (fun g => g.cid == cid && !g.saving)).foldl (fun t g =>
    match g.core with
    | some i => g.slots.foldl (fun t j => t.updChain i j (fun c => { c with halted := on })) t
    | none => t) s

/-- Hold or release a command's acre operation at its tile boundary. -/
def State.holdAcre (s : State) (h cid : Nat) (on : Bool) : State :=
  let f := fun (o : AcreOp) => if o.cid = cid then { o with hold := on } else o
  s.updAcre h (fun a => { a with run := a.run.map f, pre := a.pre.map f })

/-- Stop or continue a command's mover channels (R425). -/
def State.stopChans (s : State) (cid : Nat) (on : Bool) : State :=
  (s.chansOf cid).foldl (fun t mc => t.updChan mc.1 mc.2 (fun x => { x with
    stop := on, st := if !on && x.st = .stopped then .running else x.st })) s

/-- Ask a foreign engine to pause a context (R564, R566). -/
def State.pauseEngine (s : State) (e c : Nat) : State :=
  if (s.engine e).pausing.contains c || (s.engine e).paused.contains c then s
  else (s.updEngine e (fun x => { x with pausing := c :: x.pausing })).emit (.engine e engPause c)

/-- Let a foreign engine resume a context. -/
def State.resumeEngine (s : State) (e c : Nat) : State :=
  if (s.engine e).pausing.contains c || (s.engine e).paused.contains c then
    (s.updEngine e (fun x => { x with pausing := x.pausing.filter (fun y => y != c),
                                      paused := x.paused.filter (fun y => y != c) })).emit (.engine e engResume c)
  else s

/-- Step 4 for one command: its engine is asked to stop. -/
def State.askStop (s : State) (c : Cmd) : State :=
  let s1 := ((s.haltChains c.cid true).holdAcre c.hide c.cid true).stopChans c.cid true
  if c.opcode = 0x60 ∧ c.phase = .running then s1.pauseEngine c.engine c.ctx else s1

/-- Steps 2 to 4 of a handshake (R367). A parked context has no engine to ask (R371). -/
def State.beginShake (s : State) (c : Nat) (k : Shake) : State :=
  let rs := s.shakeRanges c k
  let gone := if k.unmap then ((s.ctx c).maps.filter (fun m => m.dev.isSome && (portion m k.va k.len).isSome)) else []
  let lost := if k.unmap then (((s.ctx c).maps.filter (fun m => (portion m k.va k.len).isSome)).map (fun m => m.obj)) else []
  let affected := s.shakeCmds c rs
  let plans := s.shakePlans c rs
  let s1 := (s.dropTranslations c rs).dropCodeIn c rs
  let s2 := s1.updCtx c (fun x => { x with
    maps := if k.unmap then x.maps.flatMap (cutMap k.va k.len) else x.maps
    shakes := match x.shakes with
      | _ :: r => { k with begun := true, pages := gone, objs := lost } :: r
      | [] => [] })
  let s3 := { s2 with cmds := s2.cmds.map (fun m =>
    if m.ctx = c ∧ !m.onEngine ∧ m.touches rs then { m with marked := true } else m) }
  let s4 := plans.foldl (fun t p => t.updPlan p.1 (fun x => { x with stale := true })) s3
  if (s.ctx c).resident then affected.foldl (fun t m => t.askStop m) s4 else s4

/-- The engines have stopped the affected commands and their accesses have completed (R367 step 4). -/
def State.shakeQuiet (s : State) (c : Nat) (rs : List (Nat × Nat)) : Bool :=
  (s.shakeCmds c rs).all (fun k =>
    (s.groups.filter (fun g => g.cid == k.cid && g.core.isSome)).all s.groupQuiet
      && s.cores.all (fun i => i.2.sb.all (fun e => e.cid != k.cid))
      && (s.chansOf k.cid).all (fun mc => (s.chan mc.1 mc.2).issued.isEmpty || (s.chan mc.1 mc.2).st == .held)
      && (k.opcode != 0x60 || !(s.engine k.engine).pausing.contains c))
    && (s.shakePlans c rs).all (fun p => !p.2.step.any (fun st => st.built))

/-- Step 5: device-state MIGR pages go back to host memory (INVALIDATE, UNMAP), UNMAP's pages are freed. -/
def State.backPages (s : State) (c : Nat) (k : Shake) : State :=
  if k.backed ∨ k.io.isSome then s
  else
    let s1 := ((s.ctx c).maps.filter (fun m => m.dev.isSome && (portion m k.va k.len).isSome)).foldl
      (fun t m => t.writeBackPage c m) s
    let s2 := k.pages.foldl (fun t m => t.writeBackPage c m) s1
    (s2.updCtx c (fun x => { x with shakes := match x.shakes with
      | y :: r => { y with backed := true, pages := [], objs := [] } :: r
      | [] => [] })).freeObjects.wmCheck (256 + (s.ctx c).hide)

/-- The commands that a context's handshake held go on (R367 step 1). -/
def State.freeWaiters (s : State) (c : Nat) : State :=
  ((s.ctxCmds c).filter (fun k => k.phase == .waitShake)).foldl (fun t k => t.applyVal k.cid) s

/-- What step 6 makes of one affected command. -/
def State.resumeCmd (s : State) (c : Cmd) : State :=
  match s.validate c with
  | .bad st e => (s.stopCmd c.cid st (some e)).settle c.cid
  | .ok v =>
    let s1 := (((s.updCmd c.cid (fun k => { k with
      pieces := v.pieces, ext := v.ext, arg := v.arg, buftab := v.buftab })).haltChains c.cid false).holdAcre c.hide c.cid
      false).stopChans c.cid false
    if c.opcode = 0x60 then s1.resumeEngine c.engine c.ctx else s1
  | _ => s

/-- Step 6 can be taken: every retranslation is decided. Otherwise what it waits for is asked. -/
def State.askRetranslate (s : State) (cs : List Cmd) : Bool × State :=
  cs.foldl (fun (b : Bool × State) c =>
    match b.2.validate c with
    | .ats io => (false, b.2.emit (.atsRequest c.fn io))
    | .migr va => (false, b.2.startMigration c.who va)
    | .host pa len => (false, b.2.askSide c pa len)
    | _ => b) (true, s)

/-- Another context of a function still has an ATS handshake for an I/O range. -/
def State.atsOpen (s : State) (fn : Nat) (io : Nat × Nat) : Bool :=
  (s.fnCtxs fn).any (fun c => (s.ctx c).shakes.any (fun k => k.io == some io))

/-- Step 7: the handshake's command completes, or the controller is told to send the Invalidate Completion. -/
def State.endShake (s : State) (c : Nat) (k : Shake) : State :=
  let s1 := s.updCtx c (fun x => { x with shakes := x.shakes.tail })
  match k.cid with
  | some cid => s1.complete cid 0 none
  | none =>
    match k.io with
    | some io => if s1.atsOpen k.fn io then s1 else s1.emit (.invalidateCompletion k.fn)
    | none => s1

/-- A page that a handshake covers is being copied: the copy finishes first (R371). -/
def State.shakeWaits (s : State) (c : Nat) (rs : List (Nat × Nat)) : Bool :=
  (s.ctx c).copying.any (fun x => rs.any (fun r => decide (x.1 < r.1 + r.2) && decide (r.1 < x.1 + 1)))

/-- Take the context's first handshake as far as it goes (R367); `fuel` bounds how many follow one another. -/
def State.runShakes (s : State) (c : Nat) : Nat → State
  | 0 => s
  | n + 1 =>
    match (s.ctx c).shakes with
    | [] => s
    | k :: _ =>
      if !k.begun && s.shakeWaits c (s.shakeRanges c k) then s
      else
        let rs := s.shakeRanges c k
        let s1 := if k.begun then s else s.beginShake c k
        if !s1.shakeQuiet c rs then s1
        else
          let s2 := s1.backPages c (((s1.ctx c).shakes.head?).getD k)
          let r := s2.askRetranslate (s2.shakeCmds c rs)
          if r.1 then
            let s3 := (s2.shakeCmds c rs).foldl (fun t m => t.resumeCmd m) s2
            State.runShakes ((s3.endShake c k).freeWaiters c) c n
          else r.2

/-- A handshake joins its context's, in acceptance order. -/
def State.addShake (s : State) (c : Nat) (k : Shake) : State :=
  let s1 := s.updCtx c (fun x => { x with shakes := x.shakes ++ [k] })
  s1.runShakes c ((s1.ctx c).shakes.length + 1)

/-- UNMAP's own checks (R353). -/
def State.unmapOk (s : State) (c : Cmd) (k : Nat) : Bool :=
  let a := c.mapVa
  let b := c.mapVa + c.mapLen
  let inside := fun (x : Nat) => (s.ctx k).maps.any (fun m =>
    decide (m.va < x) && decide (x < m.va + m.len) && x % m.psize != 0)
  c.mapLen != 0 && (if (s.ctx k).range then (s.ctx k).maps.any (fun m => m.va == a && m.len == c.mapLen)
    else !inside a && !inside b)

/-- The command waits for its handshake. -/
def State.awaitShake (s : State) (cid : Nat) : State := s.updCmd cid (fun c => { c with phase := .waiting })

/-! ## QUERY (R370) -/

/-- Bytes that a context maps with a kind. -/
def State.mappedBytes (s : State) (c kind : Nat) : Nat :=
  (((s.ctx c).maps.filter (fun m => m.kind == kind)).map (fun m => m.len)).sum

/-- Locked entries of a context, or its ranges (R370). -/
def State.lockedCount (s : State) (c : Nat) : Nat :=
  if (s.ctx c).range then (s.ctx c).maps.length else (s.tlb.filter (fun e => e.ctx == c && e.locked)).length

/-- The utilisation block, WHAT 0 (R370). -/
def State.queryUse (s : State) (c : Nat) : List Byte :=
  let x := s.ctx c
  leBytes 8 (x.grainsCore / 1024) ++ leBytes 8 (x.grainsAcre / 1024) ++ leBytes 8 x.foreignNs ++ leBytes 8 x.cmds
    ++ leBytes 4 x.faults ++ leBytes 2 x.slowdown
    ++ leBytes 2 ((if x.resident then 1 else 0) + (if s.pinned c then 2 else 0) + (if s.ctxLocked c then 4 else 0))
    ++ leBytes 4 x.parks ++ leBytes 4 0 ++ leBytes 8 (x.grainsMover / 1024) ++ leBytes 8 (x.grainsForeign / 1024)

/-- The memory-use block, WHAT 1 (R370). -/
def State.queryMem (s : State) (c : Nat) : List Byte :=
  let x := s.ctx c
  leBytes 8 (s.mappedBytes c 0) ++ leBytes 8 (s.ctxDev c) ++ leBytes 8 (s.mappedBytes c 2)
    ++ leBytes 8 (s.mappedBytes c 3)
    ++ leBytes 8 ((x.maps.filter (fun m => m.kind == 4 && m.dev.isSome)).map (fun m => m.len)).sum
    ++ leBytes 4 x.migrFaults ++ leBytes 4 x.writebacks ++ leBytes 2 (s.lockedCount c) ++ leBytes 6 0
    ++ leBytes 8 x.lastFaultVa

/-! ## The commands -/

/-- MIGRATION_COPY_DONE: the mover's copy of a host page has ended; the page is in device state and the commands that
wait for it go on (R363). -/
def execMigrationCopyDone (ctx : Fin 16384) (va : BitVec 52) (s : State) : Host.Outcome State Fault Refusal :=
  .next (match (s.ctx ctx.val).copying.find? (fun x => x.1 == va.toNat), s.mapAt ctx.val va.toNat with
    | some x, some m =>
      let s1 := s.writeBytes (s.localPa x.2) (s.hostBytes (s.ctx ctx.val).fn (m.base + (x.1 - m.va)) m.psize)
      let s2 := s1.updCtx ctx.val (fun y => { y with
        copying := y.copying.filter (fun z => z.1 != x.1)
        maps := y.maps.flatMap (fun z => if z.va = m.va then splitPage m x.1 x.2 s.btime.toNat else [z]) })
      ((s2.cmds.filter (fun c => c.ctx == ctx.val && (match c.phase with
        | .migrating v => decide (x.1 ≤ v) && decide (v < x.1 + m.psize)
        | _ => false))).foldl (fun t c => t.applyVal c.cid) s2).runShakes ctx.val ((s2.ctx ctx.val).shakes.length + 1)
    | _, _ => s)

/-- ATS_TRANSLATION_COMPLETION: an answer from the host's translation agent (R361): the cache keeps an answer that
grants access, and the rings and commands that wait for it go on (R304, R581). -/
def execAtsTranslationCompletion (fn : Fin 513) (io : W64) (len : Nat) (ta : BitVec 55) (r w : Bool) (s : State) :
    Host.Outcome State Fault Refusal :=
  let e : AtsEnt := { fn := fn.val, io := io.toNat, len := len, ta := ta.toNat, r := r, w := w }
  let rest := s.ats.filter (fun x => !(x.fn == fn.val && decide (x.io < io.toNat + len) && decide (io.toNat < x.io + x.len)))
  let s1 := { s with ats := e :: rest.take 4095 }
  let s2 := (s1.cmds.filter (fun c => c.fn == fn.val && (match c.phase with
      | .waitAts a => decide (io.toNat ≤ a) && decide (a < io.toNat + len)
      | _ => false))).foldl (fun t c => t.applyVal c.cid) (s1.ringsGoOn fn.val)
  let s3 := (s2.fnCtxs fn.val).foldl (fun t c => t.runShakes c ((t.ctx c).shakes.length + 1)) s2
  .next (if r then s3 else { s3 with ats := s3.ats.filter (fun x => x != e) })

/-- CTX_CREATE (R336 to R339). -/
def execCtxCreate (cid : Nat) (s : State) : Host.Outcome State Fault Refusal :=
  .next (match s.onRow cid 0x10 with
    | some c => s.createCtx c
    | none => s)

/-- CTX_DESTROY (R369). -/
def execCtxDestroy (cid : Nat) (s : State) : Host.Outcome State Fault Refusal :=
  .next (s.withCtx cid 0x11 (fun _ k => (s.destroyCtx k 0x10 none (some cid)).complete cid 0 none))

/-- MAP (R349 to R352). -/
def execMap (cid : Nat) (s : State) : Host.Outcome State Fault Refusal :=
  .next (s.withCtx cid 0x12 (fun c k => s.mapCmd c k))

/-- UNMAP (R353): through the invalidation handshake. -/
def execUnmap (cid : Nat) (s : State) : Host.Outcome State Fault Refusal :=
  .next (s.withCtx cid 0x13 (fun c k =>
    if s.unmapOk c k then
      (s.awaitShake cid).addShake k { cid := some cid, fn := c.fn, va := c.mapVa, len := c.mapLen, unmap := true, io := none }
    else s.complete cid 0x14 (some (descNone 0))))

/-- INVALIDATE (R366). -/
def execInvalidate (cid : Nat) (s : State) : Host.Outcome State Fault Refusal :=
  .next (s.withCtx cid 0x14 (fun c k =>
    if c.mapLen = 0 then s.complete cid 0x14 (some (descErr 0 16 0))
    else
      (s.awaitShake cid).addShake k { cid := some cid, fn := c.fn, va := c.mapVa, len := c.mapLen, unmap := false,
                                      io := none }))

/-- ATS_INVALIDATE_REQUEST: every context of the function that maps the I/O range (R366). -/
def execAtsInvalidateRequest (fn : Fin 513) (io : W64) (len : Nat) (s : State) : Host.Outcome State Fault Refusal :=
  let k : Shake := { cid := none, fn := fn.val, va := 0, len := 0, unmap := false, io := some (io.toNat, len) }
  let cs := (s.fnCtxs fn.val).filter (fun c => !(s.shakeRanges c k).isEmpty)
  let s1 := s.dropAts fn.val io.toNat len
  .next (if cs.isEmpty then s1.emit (.invalidateCompletion fn.val)
    else
      let s2 := cs.foldl (fun t c => t.updCtx c (fun x => { x with shakes := x.shakes ++ [k] })) s1
      cs.foldl (fun t c => t.runShakes c ((t.ctx c).shakes.length + 1)) s2)

/-- INVALIDATION_ACK: the engines have acknowledged; steps 5 to 7 of the handshake follow (R367). -/
def execInvalidationAck (ctx : Fin 16384) (s : State) : Host.Outcome State Fault Refusal :=
  .next (s.runShakes ctx.val ((s.ctx ctx.val).shakes.length + 1))

/-- QUERY (R370). -/
def execQuery (cid : Nat) (s : State) : Host.Outcome State Fault Refusal :=
  .next (s.withCtx cid 0x15 (fun c k =>
    (s.writeResult c (if c.fld 27 24 = 0 then s.queryUse k else s.queryMem k)).endWrites cid 0 none))

end Sys2Proof.Machine
end

