-- ==== Sys2Proof/Machine/Mover.lean ====
section
/-! DEFINITION. The streaming movers' commands: COPY and FILL, channels, runs, bursts, held input and bus errors (R318, R367,
R409 to R430). -/

namespace Sys2Proof.Machine

/-- The engine-0 part of a hide starts work: the hide has started and is in no recovery (R465, R466, R527). -/
def State.engineOpen (s : State) (h : Nat) : Bool :=
  (s.hide h).started && !(s.hide h).recovery && !(s.hide h).heldOut

/-- The furlong is powered and awake, or under test (R35, R510, R578). -/
def State.furlongOn (s : State) (f : Nat) : Bool := s.pow.fOn.contains f || s.pow.testMode.isSome

/-- A sleeping furlong is asked to wake (R510). -/
def State.wakeFurlong (s : State) (f : Nat) : State :=
  if s.furlongOn f || s.pow.waking.contains f then s else { s with pow := { s.pow with waking := s.pow.waking ++ [f] } }

/-- A command, or a plan stage, fails on its engine: a stage ends and is reported to its step, a command ends as R195
gives (R195, R280). -/
def State.failCmd (s : State) (cid st : Nat) (err : Option ErrInfo) : State :=
  match s.cmd? cid with
  | none => s
  | some c =>
    if c.stage.isSome then
      (if c.opcode = 0x30 then s.stopGroups cid else s.leaveEngine cid).updCmd cid (fun x => { x with
        status := if x.status.isSome then x.status else some st, err := if x.status.isSome then x.err else err,
        phase := .ended })
    else s.endCmd cid st err

/-- A command's work on its engine is done: its end is ready to be reported (R44). -/
def State.finish (s : State) (cid st : Nat) (err : Option ErrInfo) : State :=
  (s.updCmd cid (fun c => { c with
    phase := .ended, status := if c.status.isSome then c.status else some st,
    err := if c.status.isSome then c.err else err })).decided cid

/-! ## COPY and FILL as descriptors (R318, R421) -/

/-- Elements that one descriptor takes at most: COUNT has 32 bits, and chunks keep whole bit-plane groups. -/
def chunkLen : Nat := 2 ^ 30

/-- Descriptors that cover n elements, each made from its first element and its count. -/
def chunks (f : Nat → Nat → MDesc) (first n : Nat) : Nat → List MDesc
  | 0 => []
  | k + 1 => if n = 0 then [] else f first (min n chunkLen) :: chunks f (first + min n chunkLen) (n - min n chunkLen) k

/-- Descriptors of one row of a COPY. -/
def Cmd.copyRow (c : Cmd) (r : Nat) : List MDesc :=
  let w := if c.layout = 0 then 5 else if c.copyWidth = 1 then 0 else 1
  let bits := widthBits w
  chunks (fun a n => { src := r * c.fld 287 256 + a * bits / 8, dst := r * c.fld 319 288 + a * bits / 8, count := n,
                       ws := w, wd := w, shuf := c.layout, g16 := c.copyGroup == 16, gate := true })
    0 c.rowLen (c.rowLen / chunkLen + 1)

/-- Descriptors of a COPY, row by row. -/
def Cmd.copyDescs (c : Cmd) : List MDesc := (List.range c.rows).flatMap c.copyRow

/-- Descriptors of a FILL. -/
def Cmd.fillDescs (c : Cmd) : List MDesc :=
  chunks (fun a n => { dst := a, count := n, fill := true, pattern := BitVec.ofNat 64 (c.fld 255 192), gate := true })
    0 (c.fld 179 128) (c.fld 179 128 / chunkLen + 1)

/-- A mover command starts on a free channel; with nothing to move it is done at once (R409, R411). -/
def State.startMove (s : State) (c : Cmd) (ds : List MDesc) : State :=
  if !s.engineOpen c.hide then s
  else if ds.isEmpty then (s.unqueue c.cid c.hide).finish c.cid 0 none
  else
    match s.pickChan [] with
    | none => s
    | some mc =>
      (((s.unqueue c.cid c.hide).updCmd c.cid (fun k => { k with phase := .running })).placeChan mc c ds).retime

/-! ## Descriptor fetch and runs (R417, R424) -/

/-- The channel may take a descriptor: it is bound or enabled, has none in transfer, and is not stopped or halted. -/
def Chan.mayFetch (ch : Chan) : Bool :=
  (ch.enable || ch.cid.isSome) && ch.cur.isNone && !ch.stop && ch.st != .halted && ch.st != .stopped

/-- The command that a channel serves ends with a status. -/
def State.failChan (s : State) (ch : Chan) (st : Nat) (err : Option ErrInfo) : State :=
  match ch.cid with
  | some cid => s.failCmd cid st err
  | none => s

/-- The channel takes a descriptor, completes a malformed one with BAD, or waits (R417, R418). -/
def State.takeDesc (s : State) (m c : Nat) (d : MDesc) : State :=
  let s1 := s.updChan m c (fun x => { x with
    cur := some d, done := 0, issued := [], satc := 0, srcBit := if d.join then x.srcBit else 0,
    dstBit := if d.join then x.dstBit else 0, st := .running, paced := false })
  if d.ok then s1
  else ((s1.updChan m c (fun x => { x with st := .waiting })).endDesc m c 4 d.count).failChan (s.chan m c) 0x14
    (some (descNone 0))

/-- Read the descriptor at RING_HEAD, or take the next that the Gate has queued (R409, R417). -/
def State.fetchDesc (s : State) (m c : Nat) : State :=
  let ch := s.chan m c
  if !ch.mayFetch || (s.mover m).halted then s
  else
    match ch.gate with
    | d :: r => (s.updChan m c (fun x => { x with gate := r })).takeDesc m c d
    | [] =>
      if !ch.enable then s
      else
        let d := mdescOf (s.readNum (chanDescAddr ch) 32)
        if d.own then s.takeDesc m c d else s.updChan m c (fun x => { x with st := .waiting })

/-- The element after the last burst issued. -/
def Chan.issuedTo (ch : Chan) : Nat := ch.issued.getLast?.getD ch.done

/-- Issue up to n bursts of a channel's descriptor (R421, R424). -/
def State.issueBursts (s : State) (m c : Nat) : Nat → State
  | 0 => s
  | n + 1 =>
    let ch := s.chan m c
    match ch.cur with
    | none => s
    | some d =>
      if d.count ≤ ch.issuedTo then s
      else
        State.issueBursts (s.updChan m c (fun x => { x with issued := x.issued ++ [s.burstEnd ch d ch.issuedTo] })) m c n

/-- A channel has bursts to issue (R424). -/
def Chan.wantsRun (ch : Chan) : Bool :=
  (match ch.cur with | some d => decide (ch.issuedTo < d.count) | none => false)
    && !ch.stop && ch.st != .halted && ch.st != .stopped

/-- The level of an internal queue is the hardware's; reading it uses up a free value (R419; log 4). -/
def State.levelRead (s : State) (ch : Chan) : State := if ch.watch.getLsbD 63 then s.freshNext else s

/-- Channels of a mover that can start a run now, ascending (R420, R424). -/
def State.runnable (s : State) (m : Nat) : List Nat :=
  (List.range 32).filter (fun c => (s.chan m c).wantsRun && s.pacedNow (s.chan m c))

/-- The channel that a mover serves at a run boundary: a class-0 channel, else round robin (R424). -/
def State.pickRun (s : State) (m : Nat) : Option Nat :=
  let l := s.runnable m
  match l.find? (fun c => s.classZeroChan m c) with
  | some c => some c
  | none => (l.find? (fun c => decide ((s.mover m).last < c))).orElse (fun _ => l.head?)

/-- A command's channels have moved everything. -/
def State.chansDone (s : State) (cid : Nat) : Bool :=
  (s.chansOf cid).all (fun mc => (s.chan mc.1 mc.2).cur.isNone && (s.chan mc.1 mc.2).gate.isEmpty)

/-- A COPY or FILL whose channels have moved everything is done. -/
def State.endMove (s : State) (cid : Nat) : State :=
  match s.cmd? cid with
  | none => s
  | some c =>
    if (c.opcode = 0x20 ∨ c.opcode = 0x21) ∧ c.phase = .running ∧ s.chansDone cid then
      ((s.chansOf cid).foldl (fun t mc => t.freeChan mc.1 mc.2) s).finish cid 0 none
    else s

/-- The extents whose bytes an acre operation still takes from the stream of a place among its four, in its step: B
elements, A elements, side data, output (R109, R113; the place is DESIGN CHOICE, log 45). -/
def AcreOp.awaitExts (o : AcreOp) (place : Nat) : List Nat :=
  match place, o.step with
  | 0, .load => if o.shadow then [1, 10] else [1]
  | 1, .slice => if o.shadow then [0, 8] else [0]
  | 2, .load => if o.shadow then [4, 11] else [4]
  | 2, .slice => if o.shadow then [3, 9] else [3]
  | 2, .readout => [6]
  | 2, .store => [6, 7]
  | _, _ => []

/-- The channel carries a stream of the operation on its hide's acre (R113). -/
def State.acreChan (s : State) (m c : Nat) : Bool :=
  match (s.chan m c).cid.bind s.cmd? with
  | some k => k.opcode == 0x40 && ((s.hide k.hide).acre.run.any (fun o => o.cid == k.cid))
  | none => false

/-- The pieces that the operation on its hide's acre awaits on a mover channel (R113, R427). -/
def State.acreAwaits (s : State) (m c : Nat) : List Piece :=
  match (s.chan m c).cid.bind s.cmd? with
  | some k =>
    match (s.hide k.hide).acre.run with
    | some o =>
      if o.cid = k.cid ∧ !o.hold ∧ k.phase = .running then
        k.pieces.filter (fun p => (o.awaitExts (k.chans.findIdx (fun x => x == (m, c)))).contains p.ext && p.len != 0)
      else []
    | none => []
  | none => []

/-- A burst of a stream of the acre has come: the channel counts it, and is not HELD (R421, R427). -/
def State.acreBurst (s : State) (m c : Nat) : State :=
  let s1 : State := match (s.chan m c).cid.bind s.cmd? with
    | some k => s.updAcre k.hide (fun a => { a with run := a.run.map (fun o => { o with fed := (m, c) :: o.fed }) })
    | none => s
  s1.updChan m c (fun x => { x with
    bursts := x.bursts + 1, heldBytes := 0, stallPosted := false, st := if x.st = .held then .running else x.st })

/-- The channel carries a stream of the acre that has completed a burst in the operation's step. -/
def State.acreFedOn (s : State) (m c : Nat) : Bool :=
  match (s.chan m c).cid.bind s.cmd? with
  | some k => (s.hide k.hide).acre.run.any (fun o => o.fed.contains (m, c))
  | none => false

/-- The oldest burst of a channel completes; one of a stream of the operation on an acre is a progress of its
command (R420, R421, R423, R425, R457). -/
def State.burstDone (s : State) (m c : Nat) : State :=
  let ch := s.chan m c
  match ch.cur, ch.issued with
  | some d, _ :: _ =>
    if !s.burstReady m c then s.askBurst m c
    else
    let s1 := s.writeBurst m c
    let s2 := match ch.cid with | some cid => s1.progress cid | none => s1
    let s3 := if (s2.chan m c).done = d.count then s2.endDesc m c 1 0 else s2
    let ch3 := s3.chan m c
    let s4 :=
      if ch3.stop && ch3.issued.isEmpty then s3.updChan m c (fun x => { x with st := .stopped })
      else if ch3.cur.isSome && ch3.watch != (0 : W64) then
        (s3.updChan m c (fun x => { x with
          paced := s3.pacedNow ch3, st := if s3.pacedNow ch3 then x.st else .waiting })).levelRead ch3
      else s3
    let s5 := match ch.cid with | some cid => s4.endMove cid | none => s4
    s5.retime
  | none, _ =>
    match ch.cid with
    | some cid => if s.acreChan m c then ((s.acreBurst m c).progress cid).retime else s
    | none => s
  | _, _ => s

/-! ## Ports and held channels (R427) -/

/-- Where a byte of a hide's pool is stored: Stack Port, address at that port, lane (R52). -/
structure StackPlace where
  /-- Stack Port -/
  port : Nat
  /-- address at the port -/
  paddr : Nat
  /-- lane of its 64-byte request -/
  lane : Nat
deriving DecidableEq, Repr

/-- The place of a pool address on a hide's Stack Ports (R52). -/
def poolPlace (ports : List Nat) (a : Nat) : StackPlace :=
  let n := max 1 ports.length
  { port := (ports[a / 1024 % n]?).getD 0, paddr := a / 1024 / n * 1024 + a % 1024, lane := a / 64 % 16 }

/-- The pool address of a local offset: its hide's units in ascending order (R52). -/
def State.poolAddr (s : State) (off : Nat) : Nat :=
  let h := s.unitHide (off / 2 ^ 32)
  let units := (List.range 0xC0).filter (fun u => s.unitKind u != 0 && s.unitHide u == h)
  (units.takeWhile (fun u => u != off / 2 ^ 32)).length * 2 ^ 32 + off % 2 ^ 32

/-- The place of a local offset (R52). -/
def State.stackPlace (s : State) (off : Nat) : StackPlace :=
  let h := s.unitHide (off / 2 ^ 32)
  poolPlace ((List.range 12).filter (fun p => nbit (s.kodRun (0x3000 + h) 2) p)) (s.poolAddr off)

/-- The Stack Port that a local offset lies on. -/
def State.stackPortOf (s : State) (off : Nat) : Nat := (s.stackPlace off).port

/-- A port carries the requests of a function to an address: host memory on the function's attachment, local memory on its
Stack Port, another node's on a Link Port towards it (R47, R52, R362, R554). -/
def State.portCarries (s : State) (fn : Nat) (p : PortId) (a : Nat) : Bool :=
  match p with
  | .host n => isHostPa a && s.hostPort fn == n.val
  | .stack n => s.isLocal a && s.stackPortOf (paOff a) == n.val
  | .link n => decide (a < 2 ^ 55) && !s.isLocal a && (s.link n.val).peer == tget s.fab.next (paNode a) (2 ^ 14)

/-- A port carries a channel's current burst. -/
def State.chanOnPort (s : State) (ch : Chan) (p : PortId) : Bool :=
  match ch.cur, ch.issued with
  | some d, _ :: _ =>
    if d.fill then false else s.portCarries (s.ctxFn (chanCtx ch)) p (s.srcAddr ch d ((ch.srcBit + ch.done * widthBits d.ws) / 8))
  | _, _ => false

/-- A port carries bytes of a function's piece: local ones lie 1,024 by 1,024 on the ports of their hide (R52). -/
def State.portMeets (s : State) (fn : Nat) (p : PortId) (x : Piece) : Bool :=
  (List.range 12).any (fun i => decide (1024 * i < x.len) && s.portCarries fn p (x.pa + 1024 * i))

/-- A port carries data that the acre awaits on a channel (R427). -/
def State.acreOnPort (s : State) (m c : Nat) (p : PortId) : Bool := 
  (s.acreAwaits m c).any (s.portMeets (s.ctxFn (chanCtx (s.chan m c))) p)

/-- Most bytes that a channel's current burst can miss: its source bytes, for a stream of the acre at most 16 KiB (R421). -/
def Chan.burstBytes (ch : Chan) : Nat :=
  match ch.cur, ch.issued with
  | some d, e :: _ => ((e - ch.done) * widthBits d.ws + 7) / 8
  | _, _ => 16384

/-- A channel becomes HELD; the bytes not yet returned are the surroundings' (R414, R427; log 4). -/
def State.holdChan (s : State) (m c : Nat) : State :=
  let ch := s.chan m c
  if ch.st = .held then s.updChan m c (fun x => { x with creditAt := s.btime.toNat })
  else
    (s.updChan m c (fun x => { x with
      st := .held, heldFrom := s.btime.toNat, creditAt := s.btime.toNat,
      heldBytes := 1 + (s.freshVal 14).toNat % max 1 ch.burstBytes })).freshNext

/-- A port that carries a channel's data returns credits. Whether a stream of the acre that has completed a burst in the
operation's step has another outstanding is the surroundings' (log 45). -/
def State.creditChan (s : State) (m c : Nat) : State :=
  if s.acreFedOn m c && (s.chan m c).st != .held then
    (if s.freshVal 1 = 1#1 then s.freshNext.holdChan m c else s.freshNext)
  else s.holdChan m c

/-- Scheduling class of a context: the most urgent class among its enabled queues, 3 without one. -/
def State.ctxClass (s : State) (c : Nat) : Nat :=
  (s.fn (s.ctx c).fn).queues.foldl (fun b q => if q.2.enabled && q.2.ctx.toNat == c then min b q.2.cls else b) 3

/-- A class's watchdog window in a hide, in µs (R456). -/
def State.classWindow (s : State) (h cls : Nat) : Nat := s.kodRun (0x5000 + h) (1 + cls)

/-- The command that a channel's notice concerns: function, context, class, queue. -/
def State.chanWho (s : State) (ch : Chan) : Nat × Nat × Nat × Nat :=
  match ch.cid.bind s.cmd? with
  | some c => (c.fn, c.ctx, c.cls, c.q)
  | none => ((s.ctx (chanCtx ch)).fn, chanCtx ch, s.ctxClass (chanCtx ch), 0)

/-! ## Bus errors (R428) -/

/-- MOVER_HALT body (R472). -/
def haltErr (m c addr : Nat) : ErrInfo := { typ := 9, body := bodyAt 28 m + bodyAt 29 c + bodyAt 32 addr }

/-- One channel of a halted mover: a bound one ends its descriptor with HALTED and its command with MOVER_HALT; one
bound to no command only loses its outstanding data (R428, R429). -/
def State.haltChan (s : State) (addr m c : Nat) : State :=
  let ch := s.chan m c
  let s1 := s.updChan m c (fun x => { x with issued := [], heldBytes := 0 })
  match ch.cid with
  | none => if ch.st = .held then s1.updChan m c (fun x => { x with st := .running }) else s1
  | some cid =>
    let left := match ch.cur with | some d => d.count - ch.done | none => 0
    let s2 := (s1.updChan m c (fun x => { x with gate := [] })).endDesc m c 3 left
    (s2.failCmd cid 0x18 (some (haltErr m c addr))).updChan m c (fun x => { x with st := .halted })

/-- The mover halts (R428, R431). -/
def State.haltMover (s : State) (m addr : Nat) : State :=
  let s1 := s.updMover m (fun r => { r with
    halted := true, errAddr := BitVec.ofNat 56 addr, halts := stickAdd 64 r.halts 1 })
  let s2 := (List.range 32).foldl (fun t c => t.haltChan addr m c) s1
  (s2.postGlobal 9 (haltErr m 0xFF addr).body).latch (449 + 4 * m)

/-- Context address of the byte that a channel reads next. -/
def State.chanVa (s : State) (ch : Chan) : Nat :=
  match ch.cur with
  | some d =>
    let off := d.src + (ch.srcBit + ch.done * widthBits d.ws) / 8
    match (s.chanPieces ch).find? (fun p => p.ext == (if d.fill then 1 else 0) && decide (p.off ≤ off) && decide (off < p.off + p.len)) with
    | some p => p.va + (off - p.off)
    | none => 0
  | none => 0

/-- A permission error response to a request of a channel: its descriptor ends with PERM and its command, an acre
operation's too, with FAULT_PERM; COND 7 at another node (R362, R374, R428). -/
def State.chanPerm (s : State) (m c va : Nat) (far : Bool) : State :=
  let ch := s.chan m c
  let err := some (xlateErr va (if far then 7 else 4))
  match ch.cur with
  | some d =>
    ((s.updChan m c (fun x => { x with gate := [], st := .waiting })).endDesc m c 5 (d.count - ch.done)).failChan ch 0x13 err
  | none => s.failChan ch 0x13 err

/-! ## Channel registers (R413 to R415, R425, R426) -/

/-- The channel configuration lets it be enabled (R415). -/
def Chan.cfgOk (ch : Chan) : Bool :=
  ch.ringBase != 0 && decide (4 ≤ ch.ringLog2) && decide (ch.ringLog2 ≤ 12)
    && ch.ringBase.toNat % (32 * 2 ^ ch.ringLog2) == 0
    && (ch.watch == 0 || decide (ch.marks.toNat % 2 ^ 32 < ch.marks.toNat / 2 ^ 32)) && ch.pulseTo != 3

/-- A write of CH_CTRL with ENABLE = 1 (R414, R415): a channel that the Gate has placed keeps its command (log 8). -/
def State.enableChan (s : State) (m c : Nat) (ctrl : W64) : State :=
  let ch := s.chan m c
  if ch.enable || ch.cid.isSome then s
  else
    let s1 := s.updChan m c (fun x => { x with
      drain := ctrl.getLsbD 3, ringLog2 := (ctrl.extractLsb' 4 4).toNat, pulseTo := (ctrl.extractLsb' 8 2).toNat,
      stop := ctrl.getLsbD 2 })
    if (s1.chan m c).cfgOk && !(s.mover m).halted then
      (s1.updChan m c (fun x => { x with
        enable := true, cfgErr := false, head := 0, st := .waiting, cur := none, done := 0, issued := [], satc := 0,
        srcBit := 0, dstBit := 0, paced := false })).fetchDesc m c
    else s1.updChan m c (fun x => { x with cfgErr := true })

/-- An abort, by ABORT or ENABLE = 0 (R426); the command of a channel that the Gate has placed ends with ABORTED. -/
def State.abortWrite (s : State) (m c : Nat) : State :=
  let ch := s.chan m c
  match ch.cid with
  | some cid => s.failCmd cid 0x10 none
  | none => (s.abortChan m c).updChan m c (fun x => { x with st := if x.enable then .waiting else x.st })

/-- RESTART clears HALTED while every channel of the mover is disabled (R412, R429). -/
def State.restartMover (s : State) (m : Nat) : State :=
  if (List.range 32).any (fun c => (s.chan m c).enable || (s.chan m c).cid.isSome) then s
  else s.updMover m (fun r => { r with
    halted := false, chans := r.chans.map (fun e => (e.1, if e.2.st = .halted then { e.2 with st := .idle } else e.2)) })

/-- A disable aborts the current descriptor and releases the channel (R426). -/
def State.disableChan (s : State) (m c : Nat) : State :=
  (s.abortWrite m c).updChan m c (fun x => { x with
    enable := false, st := if x.cid.isSome then x.st else .idle, paced := false })

/-- STOP: the channel stops at its next burst boundary, once its requests have completed (R425). -/
def State.haltAtBurst (s : State) (m c : Nat) : State :=
  s.updChan m c (fun x => { x with
    stop := true, st := if x.issued.isEmpty && (x.st = .running || x.st = .waiting) then .stopped else x.st })

/-- A stopped channel goes on from its next burst (R425). -/
def State.goOn (s : State) (m c : Nat) : State :=
  s.updChan m c (fun x => { x with
    stop := false, st := if x.st = .stopped then (if x.cur.isSome then .running else .waiting) else x.st })

/-! ## The commands -/

/-- COPY (R318): its rows are given to a mover channel. -/
def execCopy (cid : Nat) (s : State) : Host.Outcome State Fault Refusal :=
  .next (match s.onRow cid 0x20 with
    | some c => s.startMove c c.copyDescs
    | none => s)

/-- FILL (R318): its range is given to a mover channel. -/
def execFill (cid : Nat) (s : State) : Host.Outcome State Fault Refusal :=
  .next (match s.onRow cid 0x21 with
    | some c => s.startMove c c.fillDescs
    | none => s)

/-- MOVER_RESTART: MV_CTRL.RESTART (R412, R429). -/
def execMoverRestart (m : Fin 16) (s : State) : Host.Outcome State Fault Refusal := .next (s.restartMover m.val)

/-- CHANNEL_ENABLE (R415). -/
def execChannelEnable (m : Fin 16) (c : Fin 32) (ctrl : W64) (s : State) : Host.Outcome State Fault Refusal :=
  .next (s.enableChan m.val c.val ctrl)

/-- CHANNEL_DISABLE (R426). -/
def execChannelDisable (m : Fin 16) (c : Fin 32) (s : State) : Host.Outcome State Fault Refusal :=
  .next (s.disableChan m.val c.val)

/-- CHANNEL_ABORT (R426). -/
def execChannelAbort (m : Fin 16) (c : Fin 32) (s : State) : Host.Outcome State Fault Refusal :=
  .next (s.abortWrite m.val c.val)

/-- CHANNEL_STOP (R425). -/
def execChannelStop (m : Fin 16) (c : Fin 32) (s : State) : Host.Outcome State Fault Refusal :=
  .next (s.haltAtBurst m.val c.val)

/-- CHANNEL_CONTINUE (R425). -/
def execChannelContinue (m : Fin 16) (c : Fin 32) (s : State) : Host.Outcome State Fault Refusal :=
  .next (s.goOn m.val c.val)

/-- KICK: the channel reads the descriptor at RING_HEAD again; no effect while it runs (R417, R430). -/
def execKick (m : Fin 16) (c : Fin 32) (s : State) : Host.Outcome State Fault Refusal :=
  .next (s.fetchDesc m.val c.val)

/-- MOVER_DESCRIPTOR_FETCH (R417). -/
def execMoverDescriptorFetch (m : Fin 16) (c : Fin 32) (s : State) : Host.Outcome State Fault Refusal :=
  .next (s.fetchDesc m.val c.val)

/-- MOVER_RUN_START: at a run boundary the mover serves a ready channel and issues up to four bursts (R424). -/
def execMoverRunStart (m : Fin 16) (s : State) : Host.Outcome State Fault Refusal :=
  .next (if (s.mover m.val).halted then s
    else
      match s.pickRun m.val with
      | none => s
      | some c =>
        (((s.updMover m.val (fun r => { r with last := c })).updChan m.val c (fun x => { x with
          st := if x.st = .held then x.st else .running, paced := true })).levelRead (s.chan m.val c)).issueBursts m.val c 4)

/-- MOVER_BURST_COMPLETE (R421). -/
def execMoverBurstComplete (m : Fin 16) (c : Fin 32) (s : State) : Host.Outcome State Fault Refusal :=
  .next (s.burstDone m.val c.val)

/-- INPUT_STALL: a channel HELD for its class's watchdog window posts one notice (R427). -/
def execInputStall (m : Fin 16) (c : Fin 32) (s : State) : Host.Outcome State Fault Refusal :=
  let ch := s.chan m.val c.val
  let w := s.chanWho ch
  .next (if ch.st = .held && !ch.stallPosted
      && decide (ch.heldFrom + 1000 * s.classWindow (chanHide ch) w.2.2.1 ≤ s.btime.toNat) then
    (s.updChan m.val c.val (fun x => { x with stallPosted := true })).postNotice w.1 1 w.2.1 (m.val * 256 + c.val)
      ch.heldBytes w.2.2.2
  else s)

/-- MOVER_HALT: an error response or uncorrectable data on a mover request (R428). -/
def execMoverHalt (m : Fin 16) (c : Fin 32) (addr : BitVec 56) (s : State) : Host.Outcome State Fault Refusal :=
  .next (if !(s.mover m.val).halted && s.chanBusy m.val c.val then s.haltMover m.val addr.toNat else s)

/-- MOVER_PERMISSION_ERROR: the descriptor ends with PERM and its command with FAULT_PERM (R428). -/
def execMoverPermissionError (m : Fin 16) (c : Fin 32) (s : State) : Host.Outcome State Fault Refusal :=
  let ch := s.chan m.val c.val
  .next (match ch.cur with
    | some d =>
      if ch.issued.isEmpty then s
      else
        let pos := (ch.srcBit + ch.done * widthBits d.ws) / 8
        let pas := [s.srcAddr ch d pos, s.dstAddr ch d ((ch.dstBit + ch.done * widthBits d.wd) / 8)]
        s.chanPerm m.val c.val (s.chanVa ch) (pas.any (fun a => !isHostPa a && !s.isLocal a))
    | none =>
      match s.acreAwaits m.val c.val with
      | p :: _ => s.chanPerm m.val c.val p.va (!isHostPa p.pa && !s.isLocal p.pa)
      | [] => s)

/-- FLOW_CONTROL_CREDIT_RETURN: a port returns credits; the channels that wait for data on it, an acre operation's
streams included, are HELD (R427, R559). -/
def execFlowControlCreditReturn (p : PortId) (s : State) : Host.Outcome State Fault Refusal :=
  let s1 := match p with
    | .stack n => { s with sports := tupd s.sports n.val {} (fun x => { x with creditAt := some s.btime.toNat }) }
    | _ => s
  let cs := (List.range 16).flatMap (fun m => ((List.range 32).filter (fun c =>
    s.chanOnPort (s.chan m c) p || s.acreOnPort m c p)).map (fun c => (m, c)))
  .next (cs.foldl (fun t mc => t.creditChan mc.1 mc.2) s1).retime

/-- CREDIT_SILENCE_EXPIRY: no credits for 10 µs; the channel ceases to be HELD (R427). -/
def execCreditSilenceExpiry (m : Fin 16) (c : Fin 32) (s : State) : Host.Outcome State Fault Refusal :=
  let ch := s.chan m.val c.val
  .next (if ch.st = .held && decide (ch.creditAt + 10000 ≤ s.btime.toNat) then
    (s.updChan m.val c.val (fun x => { x with st := .running })).retime
  else s)

end Sys2Proof.Machine
end

