-- ==== Sys2Proof/Machine/Serving.lean ====
section
/-! DEFINITION. The serving engine: plans, sequences, the build, the stages and the commit of a step (R247 to R280). -/

namespace Sys2Proof.Machine

/-! ## Plans (R247 to R252) -/

/-- The block plan slot of a context's plan number. -/
def State.planSlot (s : State) (c num : Nat) : Option Nat :=
  (s.plans.find? (fun p => p.2.ctx == c && p.2.num == num)).map (fun p => p.1)

/-- PLAN of a serving command: byte 3, bits 3:0 (R249, R257, R265). -/
def Cmd.planNum (c : Cmd) : Nat := c.fld 27 24

/-- BAD_DESC naming a field by its first bit (R580). -/
def badBit (bit : Nat) : ErrInfo := descErr 0 (bit / 8) (bit % 8)

/-- Sequences are bound to a plan slot, or deferred opens to its number (R248). -/
def State.planBound (s : State) (c slot num : Nat) : Bool :=
  s.seqs.any (fun e => e.2.state != 0 && e.2.plan == slot && e.2.ctx == c)
    || (s.hide (s.ctx c).hide).pendSeqs.any (fun r => r.cmd.ctx == c && r.cmd.planNum == num)

/-- The plan of a validated header and its stages (R249 to R251): free pages 0 up, the lowest on top. A SEQ_STEP that has
begun on the plan in its place, and those behind it, stay with the plan number (R265). -/
def planOf (c : Cmd) (x : Nat) (ps : List Piece) (st : List Stage) (old : Option Plan) : Plan :=
  { ctx := c.ctx, num := c.planNum, fn := c.fn, maxRows := planFld x 47 32, pageLog2 := planFld x 55 48,
    draftMax := planFld x 58 56, pageBytes := planFld x 95 64, poolPages := planFld x 127 96,
    maxPages := planFld x 159 128, chunk := planFld x 191 160, poolLow := planFld x 223 192,
    poolAddr := planFld x 307 256, plist := ps.filter (fun p => p.ext == 1), rowtab := ps.filter (fun p => p.ext == 2),
    tokout := ps.filter (fun p => p.ext == 3), pool := ps.filter (fun p => p.ext == 0), stages := st,
    free := List.range (planFld x 127 96), step := old.bind (fun p => p.step), queue := (old.map (fun p => p.queue)).getD [],
    stale := false }

/-- Put a plan in its slot, with its pool watermark (R447). -/
def State.putPlan (s : State) (slot : Nat) (p : Plan) : State :=
  ({ s with plans := tset s.plans slot p }).updWm slot (fun _ =>
    { mark := p.poolPages - p.poolLow, enable := true })

/-- PLAN_LOAD's effect (R248 to R251). -/
def State.loadPlan (s : State) (c : Cmd) : State :=
  match s.planVal c c.who with
  | .bad st e => s.complete c.cid st (some e)
  | .ok (ps, x, st) =>
    match s.planSlot c.ctx c.planNum with
    | some i =>
      if s.planBound c.ctx i c.planNum then s.complete c.cid 0x14 (some (badBit 24))
      else ((s.putPlan i (planOf c x ps st (s.plan? i))).complete c.cid 0 none).wmCheck i
    | none =>
      match (List.range 256).find? (fun i => (s.plan? i).isNone) with
      | none => s.complete c.cid 0x19 (some (commandErr 3 0))
      | some i => ((s.putPlan i (planOf c x ps st none)).complete c.cid 0 none).wmCheck i
  | _ => s.applyVal c.cid

/-- Extents that pieces of translated extents cover, first byte to last. -/
def extOf (ps : List Piece) (idx : Nat) (written : Bool) : List Ext :=
  match ps.find? (fun p => p.ext == idx) with
  | some p => [{ idx := idx, va := p.va - p.off, len := ((ps.filter (fun q => q.ext == idx)).map (fun q => q.len)).sum,
                 written := written }]
  | none => []

/-- The command of a loaded stage as its step issues it, for a row count (R251, R271). -/
def stageCmdOf (c : Cmd) (g : Stage) (rows : Nat) : Cmd :=
  let d0 := g.d0.toNat
  if g.kind = 0 then { c with d0 := BitVec.ofNat 512 (setBits d0 95 64 rows), d1 := g.d1 }
  else if g.rowsPer = 0 then { c with d0 := g.d0, d1 := 0 }
  else
    let chains := groupsFor rows g.rowsPer * nbits d0 102 96
    { c with d0 := BitVec.ofNat 512 (setBits (setBits d0 55 32 chains) 95 64 (32 * chains)), d1 := 0 }

/-- Extents of a loaded stage. -/
def stageExts (c : Cmd) (g : Stage) (rows : Nat) : List Ext :=
  let k := stageCmdOf c g rows
  if g.kind = 0 then extOf g.pieces 13 false ++ acreExts k g.ext
  else
    [({ idx := 16, va := k.codeAddr, len := k.codeLen } : Ext)] ++ extOf g.pieces 17 false ++ extOf g.pieces 18 false
      ++ bufExts g.buftab true

/-- Translate a plan's stages again. -/
def State.stagesAgain (s : State) (c : Cmd) (rows : Nat) : List Stage → V (List Stage)
  | [] => .ok []
  | g :: r => vthen (s.translateAll c.who (stageExts c g rows) []) (fun ps =>
      vthen (State.stagesAgain s c rows r) (fun q => .ok ({ g with pieces := ps } :: q)))

/-- Translate a plan again, for the command of its next step (R252). -/
def State.planAgain (s : State) (c : Cmd) (p : Plan) : V Plan :=
  vthen (s.translateAll c.who (extOf p.pool 0 true ++ extOf p.plist 1 true ++ extOf p.rowtab 2 true ++ extOf p.tokout 3 true)
    []) (fun ps =>
    vthen (s.stagesAgain c p.maxRows p.stages) (fun st =>
      .ok { p with pool := ps.filter (fun q => q.ext == 0), plist := ps.filter (fun q => q.ext == 1),
                   rowtab := ps.filter (fun q => q.ext == 2), tokout := ps.filter (fun q => q.ext == 3), stages := st,
                   stale := false }))

/-- Live entries of a hide. -/
def State.hideSeqs (s : State) (h : Nat) : Nat :=
  (s.seqs.filter (fun e => e.2.state != 0 && (s.ctx e.2.ctx).hide == h)).length

/-- The lowest free table entry (R256). -/
def State.freeEntry (s : State) : Option Nat := (List.range 4096).find? (fun e => (s.seq e).state == 0)

/-- The hide is below its sequence cap (R259). -/
def State.belowCap (s : State) (h : Nat) : Bool := decide (s.hideSeqs h < s.kodRun (0x5000 + h) 0x0A)

/-- FRESH_SEED of a SEQ_OPEN (R257). -/
def Cmd.freshOpen (c : Cmd) : Bool := nbit c.d0.toNat 11

/-- Admission fills an entry (R256, R259, R261). -/
def State.fillSeq (s : State) (c : Cmd) (e slot ssb ring prompt : Nat) : State :=
  let seed : W64 := if c.freshOpen then s.drawVal else BitVec.ofNat 64 (c.fld 447 384)
  let s1 := if c.freshOpen then s.drawNext else s
  ((s1.updSeq e (fun q => {
    state := 2, inStep := false, urgency := c.fld 29 28, autoClose := nbit c.d0.toNat 10, notify := nbit c.d0.toNat 9,
    draftMax := c.fld 330 328, hold := 0, ctx := c.ctx, plan := slot, ringLog2 := c.fld 324 320, waited := 0,
    tag := (q.tag + 1) % 2 ^ 20, pos := 0, promptLeft := c.fld 63 32, emitted := 0, maxNew := c.fld 95 64,
    stopToken := c.fld 127 96, stopped := false, pages := [], lastToken := 0, seed := seed, ssbPa := ssb, ringPa := ring,
    promptPa := prompt, promptLen := c.fld 63 32, kdrafts := [], closing := none })).seqSsb c.cid e).wmCheck
    (264 + (s.ctx c.ctx).hide)

/-- SEQ_OPEN's effect (R257 to R260). -/
def State.openSeq (s : State) (c : Cmd) : State :=
  let h := (s.ctx c.ctx).hide
  let ssb := (pieceAddr c.pieces 1 0).getD 0
  let ring := (pieceAddr c.pieces 2 0).getD 0
  let prompt := (pieceAddr c.pieces 0 0).getD 0
  match s.planSlot c.ctx c.planNum with
  | none => s.complete c.cid 0x14 (some (badBit 24))
  | some slot =>
    match s.plan? slot with
    | none => s.complete c.cid 0x14 (some (badBit 24))
    | some p =>
      if p.draftMax < c.fld 330 328 then s.complete c.cid 0x14 (some (badBit 328))
      else if c.freshOpen && !s.pow.entropy then s
      else
        match (if s.belowCap h && (s.hide h).pendSeqs.isEmpty then s.freeEntry else none) with
        | some e => (s.fillSeq c e slot ssb ring prompt).endWrites c.cid 0 none
        | none =>
          if 16384 ≤ (s.hide h).pendSeqs.length then s.complete c.cid 0x19 (some (commandErr 3 0))
          else
            let r : PendSeq := { cmd := c, ssb := ssb, ring := ring, prompt := prompt, plan := slot, order := s.pendOrder }
            let s1 := (s.putSsb c.cid c.ctx ssb 0 1 0 0 0 false).updHide h (fun x => { x with pendSeqs := x.pendSeqs ++ [r] })
            (({ s1 with pendOrder := s1.pendOrder + 1 }).endWrites c.cid 2 none).wmCheck (264 + h)

/-- The deferred open that is admitted next: deferred earliest among the hides below their cap (R261). -/
def State.nextPend (s : State) : Option (Nat × PendSeq) :=
  ((s.hideList.filter s.belowCap).filterMap (fun h => ((s.hide h).pendSeqs.head?).map (fun r => (h, r)))).foldl
    (fun (b : Option (Nat × PendSeq)) x => match b with
      | none => some x
      | some y => if x.2.order < y.2.order then some x else some y) none

/-- Admit a deferred open (R261, R262). -/
def State.admitPend (s : State) : State :=
  match s.nextPend, s.freeEntry with
  | some (h, r), some e =>
    if r.cmd.freshOpen && !s.pow.entropy then s
    else
      let s1 := s.updHide h (fun x => { x with pendSeqs := x.pendSeqs.tail })
      let s2 := s1.fillSeq r.cmd e r.plan r.ssb r.ring r.prompt
      if nbit r.cmd.d0.toNat 9 then s2.postNotice r.cmd.fn 6 r.cmd.ctx (seqId e (s2.seq e).tag) r.cmd.ssn r.cmd.q else s2
  | _, _ => s

/-- SEQ_CLOSE's effect (R263, R280). -/
def State.closeCmd (s : State) (c : Cmd) : State :=
  let h := (s.ctx c.ctx).hide
  let ssb := (pieceAddr c.pieces 1 0).getD 0
  let id := s.readNum ssb 4
  let e := id % 4096
  if !s.gateHas [] [ssb / 128] then s.gateAsk c.cid c.ctx [] [ssb / 128]
  else if (s.readPa (ssb + 4)).toNat % 8 = 1 then
    if (s.hide h).pendSeqs.any (fun r => r.cmd.ctx == c.ctx && r.ssb == ssb) then
      (((s.updHide h (fun x => { x with
        pendSeqs := x.pendSeqs.filter (fun r => !(r.cmd.ctx == c.ctx && r.ssb == ssb)) })).freeSsb c.cid c.ctx ssb).endWrites
        c.cid 0 none).wmCheck (264 + h)
    else s.complete c.cid 0x14 (some (descNone 0))
  else if (s.seq e).state ≠ 0 ∧ (s.seq e).ctx = c.ctx ∧ (s.seq e).tag = id / 4096 then
    if (s.seq e).inStep then
      if (s.seq e).closing.isSome then s
      else (s.updSeq e (fun q => { q with closing := some c.cid })).updCmd c.cid (fun k => { k with phase := .waiting })
    else (s.closeSeq c.cid e).endWrites c.cid 0 none
  else s.complete c.cid 0x14 (some (descNone 0))

/-! ## Steps (R265 to R276, R280) -/

/-- A step that has not been built. -/
def freshStep (cid : Nat) : Step :=
  { cid := cid, rows := 0, built := false, sel := [], next := 0, stageCid := none, rerun := false, stagedUpTo := 0 }

/-- A SEQ_STEP begins: it runs its plan's steps, or waits for the earlier one (R265). -/
def State.startStep (s : State) (c : Cmd) : State :=
  match s.planSlot c.ctx c.planNum with
  | none => s.complete c.cid 0x14 (some (badBit 24))
  | some slot =>
    match s.plan? slot with
    | none => s.complete c.cid 0x14 (some (badBit 24))
    | some p =>
      if p.step.isNone then
        (s.updPlan slot (fun x => { x with step := some (freshStep c.cid) })).updCmd c.cid (fun k => { k with
          phase := .running })
      else
        (s.updPlan slot (fun x => { x with queue := x.queue ++ [c.cid] })).updCmd c.cid (fun k => { k with
          phase := .waiting })

/-- The next SEQ_STEP of a plan begins once the earlier one has completed (R265). -/
def State.nextStepCmd (s : State) (slot : Nat) : State :=
  match s.plan? slot with
  | none => s
  | some p =>
    match p.step, p.queue with
    | none, cid :: r =>
      (s.updPlan slot (fun x => { x with step := some (freshStep cid), queue := r })).updCmd cid (fun k => { k with
        phase := .running })
    | _, _ => s

/-- A SEQ_STEP completes, and the next one of its plan begins. -/
def State.endStepCmd (s : State) (slot cid st : Nat) (err : Option ErrInfo) : State :=
  ((s.updPlan slot (fun x => { x with step := none })).endWrites cid st err).nextStepCmd slot

/-- A plan's step may go on: its context is resident and not fenced, its hide works (R344, R405, R465). -/
def State.stepOpen (s : State) (p : Plan) : Bool :=
  (s.ctx p.ctx).resident && !(s.ctx p.ctx).fenced && s.engineOpen (s.ctx p.ctx).hide

/-- Entries of a plan that a build considers, in its order (R266). -/
def State.buildOrder (s : State) (slot : Nat) : List Nat :=
  let es := s.seqs.filter (fun e => e.2.plan == slot && decide (2 ≤ e.2.state) && decide (e.2.state ≤ 4))
  (sortBy (fun (a b : Nat × Seq) =>
    if a.2.urgency ≠ b.2.urgency then decide (b.2.urgency < a.2.urgency)
    else if a.2.waited ≠ b.2.waited then decide (b.2.waited < a.2.waited)
    else decide (a.1 < b.1)) es).map (fun e => e.1)

/-- Drafts in the SSB: DRAFT_CNT of them (R253). -/
def State.ssbDrafts (s : State) (pa : Nat) : List Nat :=
  (List.range ((s.readPa (pa + 20)).toNat % 8)).map (fun i => s.readNum (pa + 24 + 4 * i) 4)

/-- Draft tokens of a generating entry, and the state after the build of a command has read them (R276). -/
def State.takeDrafts (s : State) (cid e : Nat) : List Nat × State :=
  let q := s.seq e
  let own := s.ssbDrafts q.ssbPa
  let offer := if own.isEmpty then q.kdrafts else own
  (offer.take (min q.draftMax (q.maxNew - q.emitted - 1)),
    if own.isEmpty then s else s.gatePut cid q.ctx (q.ssbPa + 20) [0])

/-- Hold an entry, which waits (R266). -/
def State.holdSeq (s : State) (cid e why : Nat) : State :=
  (s.updSeq e (fun q => { q with state := 4, hold := why, waited := min (q.waited + 1) 0xFFFF })).seqSsb cid e

/-- Pages that hold n tokens. -/
def pagesFor (p : Plan) (n : Nat) : Nat := (n + 2 ^ p.pageLog2 - 1) / 2 ^ p.pageLog2

/-- Give an entry pages from the top of the stack, and list them (R266, R268). -/
def State.takePages (s : State) (cid slot e n : Nat) : State :=
  match s.plan? slot with
  | none => s
  | some p =>
    let t := p.free.take n
    let s1 := s.gateExt cid p.ctx p.plist 1 (4 * p.maxPages * e + 4 * (s.seq e).pages.length) (t.flatMap (fun i => leBytes 4 i))
    (s1.updPlan slot (fun x => { x with free := x.free.drop n })).updSeq e (fun q => { q with pages := q.pages ++ t })

/-- Bytes of one row-table entry (R267). -/
def rowBytesOf (id pos token kind idx entry pages : Nat) (seed : W64) : List Byte :=
  leBytes 4 id ++ leBytes 4 pos ++ leBytes 4 token ++ leBytes 1 kind ++ leBytes 1 (idx % 256) ++ leBytes 2 entry
    ++ leBytes 4 pages ++ leBytes 4 0 ++ leBytes 8 seed.toNat

/-- Input token and kind of row i of a selected entry (R267, R276). -/
def State.rowToken (s : State) (e : Nat) (drafts : List Nat) (i : Nat) : Nat × Nat :=
  let q := s.seq e
  if q.promptLeft ≠ 0 then (s.readNum (q.promptPa + 4 * (q.promptLen - q.promptLeft + i)) 4, 1)
  else if i = 0 then (q.lastToken, 0)
  else (drafts.getD (i - 1) 0, 2)

/-- Write an entry's rows to the row table (R267). -/
def State.writeRows (s : State) (cid slot e row n : Nat) (drafts : List Nat) : State :=
  match s.plan? slot with
  | none => s
  | some p =>
    let q := s.seq e
    s.gateExt cid p.ctx p.rowtab 2 (32 * row) ((List.range n).flatMap (fun i =>
      let t := s.rowToken e drafts i
      rowBytesOf (seqId e q.tag) (q.pos + i) t.1 t.2 i e q.pages.length q.seed))

/-- The build as it goes: rows so far, the selection, and what it changed (R266, R275). -/
structure Build where
  rows : Nat := 0
  sel : List SelEnt := []
  undo : List (Nat × Seq × List Byte) := []

/-- The build's look at one entry (R266): the state, and the build. -/
def State.buildOne (cid slot : Nat) (p : Plan) (x : State × Build) (e : Nat) : State × Build :=
  let q := x.1.seq e
  let pre := q.promptLeft != 0
  let b := { x.2 with undo := x.2.undo ++ [(e, q, x.1.readBytes q.ssbPa 64)] }
  let d := if pre then ([], x.1) else x.1.takeDrafts cid e
  let n := if pre then min q.promptLeft (min p.chunk (p.maxRows - b.rows)) else 1 + d.1.length
  let s0 := d.2
  let free := ((s0.plan? slot).map (fun x => x.free)).getD []
  let emit := if pre then (if n = q.promptLeft ∧ 0 < q.maxNew then 1 else 0) else n
  let ringFree := 2 ^ q.ringLog2 - (q.emitted + 2 ^ 32 - s0.readNum (q.ssbPa + 16) 4) % 2 ^ 32
  let want := pagesFor p (q.pos + n) - q.pages.length
  if n = 0 ∨ p.maxRows < b.rows + n then
    (s0.updSeq e (fun q => { q with waited := min (q.waited + 1) 0xFFFF }), b)
  else if ringFree < emit then (s0.holdSeq cid e 2, b)
  else if 0 < want ∧ (free.length < want ∨ p.maxPages < q.pages.length + want) then (s0.holdSeq cid e 1, b)
  else
    let s1 := s0.takePages cid slot e want
    let s2 := s1.writeRows cid slot e b.rows n d.1
    let s3 := s2.updSeq e (fun q => { q with
      inStep := true, waited := 0, hold := 0, state := if pre then 2 else 3 })
    (s3, { b with rows := b.rows + n
                  sel := b.sel ++ [{ entry := e, row := b.rows, rows := n, took := free.take want, drafts := d.1 }] })

/-- Lines that a build reads and does not write: the prompts' next rows. -/
def State.buildReads (s : State) (slot : Nat) (p : Plan) : List Nat :=
  (s.buildOrder slot).flatMap (fun e =>
    let q := s.seq e
    linesOf (q.promptPa + 4 * (q.promptLen - q.promptLeft)) (4 * min q.promptLeft (min p.chunk p.maxRows)))

/-- Lines that a build may write: SSBs, the page lists' new elements, the row table. -/
def State.buildOwns (s : State) (slot : Nat) (p : Plan) : List Nat :=
  (s.buildOrder slot).flatMap (fun e =>
    let q := s.seq e
    let n := if q.promptLeft = 0 then 8 else min q.promptLeft (min p.chunk p.maxRows)
    q.ssbPa / 128 :: extLines p.plist 1 (4 * p.maxPages * e + 4 * q.pages.length)
      (4 * (pagesFor p (q.pos + n) - q.pages.length))) ++ extLines p.rowtab 2 0 (32 * p.maxRows)

/-- The build of a plan's next step (R266, R269): once the Gate has what it reads and writes, so that each of its writes is
performed as it is made (R254, R271). -/
def State.buildStep (s : State) (slot : Nat) (p : Plan) (st : Step) : State :=
  if !s.gateHas (s.buildReads slot p) (s.buildOwns slot p) then
    s.gateAsk st.cid p.ctx (s.buildReads slot p) (s.buildOwns slot p)
  else
    let b := (s.buildOrder slot).foldl (fun b e => State.buildOne st.cid slot p b e) (s, {})
    if b.2.rows = 0 then b.1.endStepCmd slot st.cid 0 none
    else
      (b.1.updPlan slot (fun x => { x with step := some { st with
        rows := b.2.rows, built := true, sel := b.2.sel, next := 0, stageCid := none, rerun := false,
        undo := b.2.undo } })).wmCheck slot

/-- STEP_BUILD's effect: a stale plan is translated again first, once no handshake of its context is under way (R252). -/
def State.stepBuild (s : State) (slot : Nat) : State :=
  match s.plan? slot with
  | none => s
  | some p =>
    match p.step with
    | none => s.nextStepCmd slot
    | some st =>
      if st.built || !s.stepOpen p then s
      else if !p.stale then s.buildStep slot p st
      else if !(s.ctx p.ctx).shakes.isEmpty then s
      else
        match s.cmd? st.cid with
        | none => s
        | some c =>
          match s.planAgain c p with
          | .ok q => (s.updPlan slot (fun _ => q)).buildStep slot q st
          | .bad k e => s.endStepCmd slot st.cid k (some e)
          | .ats io => s.emit (.atsRequest c.fn io)
          | .host pa n => s.askSide c pa n
          | .migr va => s.startMigration c.who va

/-- A stage of classes 1 to 3 enters as a submitted command would; one of class 0 takes a place in the reservation's
window (R278, R279). -/
def State.stageEnters (s : State) (c : Cmd) : Bool :=
  (!c.wantsSeed || s.pow.entropy) && s.canEnter c
    && (c.cls != 0 || s.windowOpen c.fn c.q)
    && (c.cls != 1 || s.tagServed c.hide (s.queue c.fn c.q).tableTag)

/-- The command of a step's next stage: the row count in M or the chain count, and in a kernel's argument block (R271). -/
def stageInstance (k : Cmd) (slot : Nat) (st : Step) (g : Stage) (cid now : Nat) : Cmd :=
  let c := stageCmdOf k g st.rows
  { cid := cid, fn := k.fn, q := k.q, ssn := k.ssn, ctx := k.ctx, hide := k.hide, cls := k.cls, d0 := c.d0, d1 := c.d1,
    pieces := g.pieces, ext := g.ext, arg := if g.kind = 0 then g.arg else setBits g.arg 31 0 st.rows, buftab := g.buftab,
    accAt := now, stage := some (slot, st.next) }

/-- STAGE_ISSUE's effect: the next stage is issued after the previous stage's completion point (R271). -/
def State.issueStage (s : State) (slot : Nat) : State :=
  match s.plan? slot with
  | none => s
  | some p =>
    match p.step with
    | none => s
    | some st =>
      match p.stages[st.next]?, s.cmd? st.cid with
      | some g, some k =>
        let c := stageInstance k slot st g s.nextCid s.btime.toNat
        if !st.built || st.stageCid.isSome || !s.stepOpen p || !s.stageEnters c then s
        else
          let s1 := { s with cmds := s.cmds ++ [c], nextCid := s.nextCid + 1 }
          let s2 := s1.updPlan slot (fun x => { x with step := some { st with stageCid := some c.cid } })
          let s3 := if c.cls = 0 then s2.updQueue c.fn c.q (fun r => { r with admits := s.btime.toNat :: r.admits }) else s2
          s3.enterQueue c
      | _, _ => s

/-- Bytes that staging brings into the reserve for one stage: B elements and scales, or the slabs of the selected
sequences' pages (R272). -/
def State.stageBytes (s : State) (st : Step) (g : Stage) : Nat :=
  if g.kind = 0 then ((g.pieces.filter (fun q => q.ext == 1 || q.ext == 4)).map (fun q => q.len)).sum
    + g.kvLen * (st.sel.map (fun e => (s.seq e.entry).pages.length)).sum
  else g.kvLen * (st.sel.map (fun e => (s.seq e.entry).pages.length)).sum

/-- SERVING_RESERVE_STAGING's effect: the next stage's data is staged while the reserve has room; slabs only after the
build; results never change (R272). -/
def State.stageAhead (s : State) (slot : Nat) : State :=
  match s.plan? slot with
  | none => s
  | some p =>
    match p.step with
    | none => s
    | some st =>
      let room := s.kodRun (0x3000 + (s.ctx p.ctx).hide) 0x0B * 2 ^ 21
      let held := ((p.stages.take (st.stagedUpTo + 1)).drop st.next).map (fun g => s.stageBytes st g)
      match p.stages[st.stagedUpTo]? with
      | some g =>
        if held.sum ≤ room ∧ room ≠ 0 ∧ (st.built ∨ g.kvLen = 0) then
          s.updPlan slot (fun x => { x with step := some { st with stagedUpTo := st.stagedUpTo + 1 } })
        else s
      | none => s

/-! ## The commit (R273 to R276) -/

/-- TOKOUT record of a row: token and drafts (R273). -/
def State.tokOut (s : State) (p : Plan) (row : Nat) : Nat × List Nat :=
  (s.extNum p.tokout 3 (64 * row) 4,
    (List.range ((s.extByte p.tokout 3 (64 * row + 4)).toNat % 8)).map (fun i => s.extNum p.tokout 3 (64 * row + 8 + 4 * i) 4))

/-- The number of drafts that the sampled tokens confirm (R276). -/
def acceptedCount : List Nat → List Nat → Nat
  | d :: ds, t :: ts => if d = t then 1 + acceptedCount ds ts else 0
  | _, _ => 0

/-- Emit one token of an entry: to the ring, and into EMITTED and LAST_TOKEN; the stop rules (R254, R274). -/
def State.emitToken (s : State) (cid e token : Nat) (advance : Bool) : State :=
  let q := s.seq e
  let s1 := s.gatePut cid q.ctx (q.ringPa + 4 * (q.emitted % 2 ^ q.ringLog2)) (leBytes 4 token)
  let stop := token == q.stopToken && q.stopToken != 0xFFFFFFFF
  s1.updSeq e (fun q => { q with
    pos := if advance then q.pos + 1 else q.pos, emitted := q.emitted + 1, lastToken := token,
    stopped := q.stopped || stop, state := if stop || decide (q.maxNew ≤ q.emitted + 1) then 5 else 3 })

/-- Emit tokens of consecutive rows until one ends the sequence; the drafts of the last emitting row are kept (R274,
R276). -/
def State.emitRows (s : State) (cid : Nat) (p : Plan) (e row : Nat) (advance : Bool) : Nat → State
  | 0 => s
  | n + 1 =>
    let t := s.tokOut p row
    let s1 := (s.emitToken cid e t.1 advance).updSeq e (fun q => { q with kdrafts := t.2 })
    if (s1.seq e).state = 5 then s1 else State.emitRows s1 cid p e (row + 1) advance n

/-- Return the pages above what POS needs, the highest first (R274). -/
def State.trimPages (s : State) (slot : Nat) (p : Plan) (e : Nat) : State :=
  let q := s.seq e
  let keep := pagesFor p q.pos
  (s.updPlan slot (fun x => { x with free := q.pages.drop keep ++ x.free })).updSeq e (fun q => { q with
    pages := q.pages.take keep })

/-- The commit of one selected sequence (R264, R274, R276, R280). -/
def State.commitOne (s : State) (cid slot : Nat) (p : Plan) (x : SelEnt) : State :=
  let q := s.seq x.entry
  let s1 :=
    if q.promptLeft ≠ 0 then
      let t := s.updSeq x.entry (fun q => { q with pos := q.pos + x.rows, promptLeft := q.promptLeft - x.rows })
      if q.promptLeft ≠ x.rows then t
      else if q.maxNew = 0 then t.updSeq x.entry (fun q => { q with state := 5 })
      else t.emitRows cid p x.entry (x.row + x.rows - 1) false 1
    else
      s.emitRows cid p x.entry x.row true (1 + acceptedCount x.drafts ((List.range x.rows).map (fun i =>
        (s.tokOut p (x.row + i)).1)))
  let s2 := ((s1.trimPages slot p x.entry).updSeq x.entry (fun q => { q with inStep := false })).seqSsb cid x.entry
  if (s2.seq x.entry).closing.isSome then s2.closeWaiting x.entry
  else if (s2.seq x.entry).state = 5 ∧ (s2.seq x.entry).autoClose then s2.closeSeq cid x.entry else s2

/-- Lines that a commit reads: the TOKOUT records of its rows. -/
def commitReads (p : Plan) (st : Step) : List Nat := extLines p.tokout 3 0 (64 * st.rows)

/-- Lines that a commit may write: the token rings and the SSBs of the selected sequences. -/
def State.commitOwns (s : State) (st : Step) : List Nat :=
  st.sel.flatMap (fun x =>
    let q := s.seq x.entry
    q.ssbPa / 128 :: (List.range (x.drafts.length + 1)).map (fun i => (q.ringPa + 4 * ((q.emitted + i) % 2 ^ q.ringLog2)) / 128))

/-- STEP_COMMIT's effect: after the SAMPLE stage the step commits as a whole; the next step of the command begins, or
the command completes (R265, R271, R274, R275). -/
def State.commitStep (s : State) (slot : Nat) : State :=
  match s.plan? slot with
  | none => s
  | some p =>
    match p.step with
    | none => s
    | some st =>
      if !st.built || st.stageCid.isSome || decide (st.next < p.stages.length) || !s.stepOpen p then s
      else if !s.gateHas (commitReads p st) (s.commitOwns st) then s.gateAsk st.cid p.ctx (commitReads p st) (s.commitOwns st)
      else
        let s1 := (st.sel.foldl (fun t x => t.commitOne st.cid slot p x) s).updCmd st.cid (fun c => { c with
          stepsDone := c.stepsDone + 1 })
        let s2 := s1.wmCheck slot
        match s2.cmd? st.cid with
        | none => s2
        | some c =>
          if c.fld 63 32 ≠ 0 ∧ c.fld 63 32 ≤ c.stepsDone then s2.endStepCmd slot st.cid 0 none
          else s2.updPlan slot (fun x => { x with step := some (freshStep st.cid) })

/-! ## The commands -/

/-- PLAN_LOAD (R248 to R251). -/
def execPlanLoad (cid : Nat) (s : State) : Host.Outcome State Fault Refusal :=
  .next (match s.onRow cid 0x50 with
    | some c => s.loadPlan c
    | none => s)

/-- SEQ_OPEN (R257 to R260). -/
def execSeqOpen (cid : Nat) (s : State) : Host.Outcome State Fault Refusal :=
  .next (match s.onRow cid 0x51 with
    | some c => s.openSeq c
    | none => s)

/-- SEQ_STEP (R265). -/
def execSeqStep (cid : Nat) (s : State) : Host.Outcome State Fault Refusal :=
  .next (match s.onRow cid 0x52 with
    | some c => s.startStep c
    | none => s)

/-- SEQ_CLOSE (R263). -/
def execSeqClose (cid : Nat) (s : State) : Host.Outcome State Fault Refusal :=
  .next (match s.onRow cid 0x53 with
    | some c => s.closeCmd c
    | none => s)

/-- SEQ_ADMIT (R261). -/
def execSeqAdmit (s : State) : Host.Outcome State Fault Refusal := .next s.admitPend

/-- STEP_BUILD (R266). -/
def execStepBuild (plan : Fin 256) (s : State) : Host.Outcome State Fault Refusal := .next (s.stepBuild plan.val)

/-- STAGE_ISSUE (R271). -/
def execStageIssue (plan : Fin 256) (s : State) : Host.Outcome State Fault Refusal := .next (s.issueStage plan.val)

/-- SERVING_RESERVE_STAGING (R272). -/
def execServingReserveStaging (plan : Fin 256) (s : State) : Host.Outcome State Fault Refusal :=
  .next (s.stageAhead plan.val)

/-- STEP_COMMIT (R274). -/
def execStepCommit (plan : Fin 256) (s : State) : Host.Outcome State Fault Refusal := .next (s.commitStep plan.val)

end Sys2Proof.Machine
end

