-- ==== Sys2Proof/Machine/Recovery.lean ====
section
/-! DEFINITION. Hangs, deadlines, fences at reset-domain edges, and the three recoveries (R146 to R151, R456 to R470). -/

namespace Sys2Proof.Machine

/-! ## Hangs and deadlines (R460, R461, R472) -/

/-- The timer of a running command, in nanoseconds (R458). -/
def State.timerOf (s : State) (c : Cmd) : Nat := c.tAcc + if c.tOn then s.btime.toNat - c.tFrom else 0

/-- ENGINE of a HANG record: 0xFF for a command that no engine runs (R472). -/
def Cmd.hangEngine (c : Cmd) : Nat :=
  if c.onEngine && ((decide (0x20 ≤ c.opcode) && decide (c.opcode ≤ 0x40)) || c.opcode == 0x52 || c.opcode == 0x60) then
    c.engine
  else 0xFF

/-- Chains of a command that are placed. -/
def State.cmdChains (s : State) (cid : Nat) : List Chain :=
  (s.groups.filter (fun g => g.cid == cid && g.core.isSome)).flatMap s.groupChains

/-- AWAIT of a HANG record (R472). -/
def State.awaits (s : State) (c : Cmd) : Nat :=
  let cs := s.cmdChains c.cid
  let lanes := cs.flatMap (fun k => k.loads.flatMap (fun l => l.lanes))
  let srcs := (s.chansOf c.cid).filterMap (fun mc =>
    let ch := s.chan mc.1 mc.2
    match ch.cur, ch.issued with
    | some d, _ :: _ => some (s.srcAddr ch d ((ch.srcBit + ch.done * widthBits d.ws) / 8))
    | _, _ => none)
  let acre := ((s.chansOf c.cid).flatMap (fun mc => s.acreAwaits mc.1 mc.2)).map (fun p => p.pa)
  let as := lanes.map (fun l => l.2) ++ srcs ++ acre
  (if as.any s.isLocal then 1 else 0) + (if as.any isHostPa then 2 else 0)
    + (if as.any (fun a => !isHostPa a && !s.isLocal a) then 4 else 0)
    + (if c.opcode == 0x60 && c.onEngine then 8 else 0)
    + (if cs.any (fun k => k.st == .eventWait) || c.opcode == 3 then 16 else 0)
    + (if cs.any (fun k => k.st == .mxWait) then 32 else 0)

/-- HANG body (R472): cause 0 watchdog, 1 deadline. -/
def State.hangErr (s : State) (c : Cmd) (cause window : Nat) : ErrInfo :=
  { typ := 4, body := bodyAt 28 cause + bodyAt 29 c.hangEngine + bodyAt 30 c.cls
      + bodyAt 31 (if s.cmdHeld c then 1 else 0) + bodyAt 32 (window % 2 ^ 32) + bodyAt 36 (c.lastProg % 2 ^ 64)
      + bodyAt 44 (s.awaits c) }

/-! ## Context recovery (R464) -/

/-- A context recovery starts; during a recovery of its hide it is absorbed, and it takes over a migration's fence
(R464, R468). The command that triggered it keeps its status. -/
def State.recoverCtx (s : State) (c : Nat) : State :=
  if c = 0xFFFF ∨ !s.ctxLive c ∨ (s.hide (s.ctx c).hide).recovery then s
  else if (s.ctx c).fenced then s.updCtx c (fun x => { x with recovering := true })
  else (s.fenceCtx c true).retime

/-! ## Drained fences (R463) -/

/-- The outstanding loads of the chains of a group are gone. -/
def State.dropLoads (s : State) (g : Group) : State :=
  match g.core with
  | some i => g.slots.foldl (fun t j => t.updChain i j (fun c => { c with loads := [] })) s
  | none => s

/-- An outstanding request of a chain is error-completed: its command fails, unless its status is decided (R225, R463). -/
def State.failOutstanding (s : State) (p : Cmd → Bool) : State :=
  let hit := s.cmds.filter (fun c => p c && c.opcode == 0x30 && (s.cmdChains c.cid).any (fun k => !k.loads.isEmpty))
  let s1 := hit.foldl (fun t c => if c.phase = .stopping then t else t.failCmd c.cid 0x11 (some recoveryErr)) s
  (s1.groups.filter (fun g => hit.any (fun c => c.cid == g.cid))).foldl State.dropLoads s1

/-- An outstanding request, no wait, belongs to a command of a set. -/
def State.reqMine (s : State) (mine : Nat → Bool) (r : RReq) : Bool :=
  !r.waits && match r.core, r.chan with
  | some _, _ => mine r.cid
  | none, some (m, c) => (match (s.chan m c).cid with | some i => mine i | none => false)
  | none, none => false

/-- A request that a fence has error-completed: its answer only counts (R463). -/
def RReq.cut (r : RReq) (h : Nat) : RReq :=
  { r with withdrawn := true, core := none, chan := none, cid := 0, ctx := 0xFFFF, late := some h }

/-- Every request of a set of commands still outstanding at the edges is error-completed: store-buffer entries, loads,
bursts and remote requests (R463 step 3). -/
def State.cutRequests (s : State) (h : Nat) (p : Cmd → Bool) : State :=
  let s1 := s.failOutstanding p
  let mine := fun (i : Nat) => s.cmds.any (fun c => c.cid == i && p c)
  let s2 : State := { s1 with
    cores := s1.cores.map (fun k => (k.1, { k.2 with sb := k.2.sb.filter (fun e => !mine e.cid) }))
    fab := { s1.fab with reqs := s1.fab.reqs.map (fun r => if s1.reqMine mine r then r.cut h else r) } }
  (s2.cmds.filter p).foldl (fun t c => (t.chansOf c.cid).foldl (fun t mc =>
    t.updChan mc.1 mc.2 (fun x => { x with issued := [], heldBytes := 0, st := if x.st = .held then .running else x.st })) t)
    s2

/-- A late response is discarded and adds 1 to the hide's counter (R463). -/
def State.lateFor (s : State) (h : Nat) : State := s.updHide h (fun x => { x with lateRsp := stickAdd 64 x.lateRsp 1 })

/-! ## Recoveries of a hide (R465, R466) -/

/-- Event Gatherer groups of a hide: its furlongs' and its Stack Ports' (R431). -/
def State.hideGroups (s : State) (h : Nat) : List Nat :=
  s.furlongsOf h ++ ((List.range 12).filter (fun p => nbit (s.kodRun (0x3000 + h) 2) p)).map (fun p => 16 + p)

/-- Put the groups of a hide in hold-off, or take them out: pending sources are then presented (R442). -/
def State.holdGroups (s : State) (h : Nat) (on : Bool) : State :=
  (s.hideGroups h).foldl (fun t g =>
    let t1 := t.updGrp g (fun x => { x with hold := on })
    if on || t1.inHoldOff g then t1 else t1.presentGrp g) s

/-- A source of a group latches; which of the group's sixteen it is the manual leaves open (R431; log 4). -/
def State.latchIn (s : State) (g : Nat) : State := (s.freshNext).latch (16 * g + (s.freshVal 4).toNat)

/-- The RECOVERY record (R472). -/
def State.recoveryRecord (s : State) (kind h trigger : Nat) (from_ failed : Nat) : State :=
  s.postGlobal 0x0C (bodyAt 28 kind + bodyAt 29 h + bodyAt 30 trigger
    + bodyAt 32 ((s.btime.toNat - from_) / 1000 % 2 ^ 32) + bodyAt 36 failed)

/-- Commands that run on a core at this moment: kernels with a group there, and its hide's running acre operation
(R146). -/
def State.cmdsOnCore (s : State) (core : Nat) : List Nat :=
  let ks := (s.groups.filter (fun g => g.core == some core)).map (fun g => g.cid)
  let ops := match s.coreHide core with
    | some h => ((s.hide h).acre.run.map (fun o => o.cid)).toList
    | none => []
  (ks ++ ops).eraseDups

/-- The record of a command that a failed position ends: CORE_ERR of a kernel's chain there, the lowest slot's, else
HWFAIL (R146, R194, R196; log 38). -/
def State.coreErr (s : State) (core cid : Nat) : ErrInfo :=
  match (s.core core).chains.find? (fun e => e.2.cid == cid) with
  | some (j, k) => excErr { cause := 0x0E, lanes := k.active } core j k.pc
  | none => hwErr 0 (coreField core) 0

/-- Commands on a failed position end with RETRY_HW; the generation of their contexts increments (R146, R194, R465). -/
def State.failOnCore (s : State) (h core : Nat) : State :=
  (s.cmdsOnCore core).foldl (fun t i =>
    match t.cmd? i with
    | none => t
    | some c =>
      let t1 := (t.failCmd i 0x11 (some (s.coreErr core i))).updHide h (fun x => { x with
        recFailed := x.recFailed + 1 })
      if (s.ctx c.ctx).gen = (t1.ctx c.ctx).gen then t1.bumpGen c.ctx else t1) s

/-- Acre operations of a hide go back to the head of its waiting operations, to start from their first column block; the
units that they held are released (R144, R147, R465). Such an operation counts as not started, so that the banks may swap
before it starts again (R137, R138, where the manual names no such case; DESIGN CHOICE, log 38). -/
def State.returnAcre (s : State) (h : Nat) : State :=
  let a := (s.hide h).acre
  let ids := ((a.run.map (fun o => o.cid)).toList ++ (a.pre.map (fun o => o.cid)).toList)
  let s1 := ids.foldl (fun t i => (t.dropChans i).updCmd i (fun c => { c with phase := .dispatched, chans := [] })) s
  let s2 := if s.acreHolds h then s1.releaseUnits h else s1
  s2.updAcre h (fun x => { x with run := none, pre := none, wait := ids ++ x.wait, blocked := true })

/-- Steps of a hide's plans under way end without commit; their SEQ_STEP completes with the recovery's status (R280). -/
def State.endSteps (s : State) (h : Nat) : State :=
  (s.plans.filterMap (fun p => if (s.ctx p.2.ctx).hide = h then p.2.step.map (fun st => st.cid) else none)).foldl
    (fun t i => t.endCmd i 0x11 (some recoveryErr)) s

/-- A compute-part reset starts (R465); during a recovery of the hide it is absorbed (R468). -/
def State.startReset (s : State) (h trigger : Nat) : State :=
  if (s.hide h).recovery then s
  else
    let s1 := (s.updHide h (fun x => { x with
      recovery := true, recKind := 1, recFrom := s.btime.toNat, recTrigger := trigger, recFailed := 0,
      fenceFrom := some s.btime.toNat })).holdGroups h true
    let bad := (s1.hideCores h).filter (fun i => (s1.core i).failed)
    let s2 := bad.foldl (fun t i => t.failOnCore h i) s1
    let s3 := (s2.returnAcre h).endSteps h
    let s4 := (s3.groups.filter (fun g => match g.core with | some i => s3.coreHide i == some h | none => false)).foldl
      (fun t g => t.preempt g.cid g.g (!t.recordFits g)) s3
    let s5 := (s4.cmds.filter (fun c => c.hide == h)).foldl (fun t c => t.stopChans c.cid true) s4
    s5.retime

/-- Spare state of a furlong (R151): 0 free, 1 used by fuse, 2 used at run time. -/
def State.spareState (s : State) (f : Nat) : Nat :=
  let ks := (List.range 17).map (fun c => s.core (coreIdx f c))
  if ks.any (fun k => k.fused) then 1 else if ks.any (fun k => k.retired) then 2 else 0

/-- A UNIT record (R469, R472). -/
def State.unitRecord (s : State) (core event h : Nat) : State :=
  s.postGlobal 0x10 (unitBody core event h (s.spareState (core / 17)))

/-- The cores of a furlong are zero (R36). -/
def State.scrubFurlong (s : State) (f : Nat) : State :=
  (List.range 17).foldl (fun t c => t.updCore (coreIdx f c) (fun k => { k with
    chains := [], sb := [], dcache := [], icache := [], mxq := [], ls := [], unit := {} })) s

/-- A hide without a furlong completes every engine-0 command with NO_RESOURCE (R150). -/
def State.endEngineZero (s : State) (h : Nat) : State :=
  if (s.furlongsOf h).isEmpty then
    (s.cmds.filter (fun c => c.hide == h && decide (0x20 ≤ c.opcode) && decide (c.opcode ≤ 0x40))).foldl
      (fun t c => t.failCmd c.cid 0x19 (some (commandErr 6 0))) s
  else s

/-- PD_Fnn and PD_Lnn of a furlong that belongs to no hide are off (R35). -/
def State.furlongOff (s : State) (f : Nat) : State :=
  { s with pow := { s.pow with
      fOn := s.pow.fOn.filter (fun x => x != f), lOn := s.pow.lOn.filter (fun x => x != f),
      lRet := s.pow.lRet.filter (fun x => x != f), waking := s.pow.waking.filter (fun x => x != f) } }

/-- A furlong leaves its hide for good; its domains power down (R35, R150). -/
def State.leaveHide (s : State) (f h : Nat) : State :=
  (((s.setRun 0x3020 f 0).scrubFurlong f).furlongOff f).endEngineZero h

/-- Retire a position: the spare takes its place, the furlong runs at width 15, or it leaves its hide (R146 to R150). -/
def State.retire (s : State) (h core : Nat) : State :=
  let f := core / 17
  let was := s.usable f
  let s1 := (s.updCore core (fun k => { k with retired := true, failed := false, suspect := false })).unitRecord core 2 h
  if was ≥ 17 then s1.unitRecord core 3 h
  else if was = 16 then s1.unitRecord core 4 h
  else (s1.leaveHide f h).unitRecord core 5 h

/-- A unit is marked suspect, which starts a compute-part reset of its hide (R469). -/
def State.markSuspect (s : State) (core : Nat) : State :=
  match s.coreHide core with
  | some h =>
    ((((s.latchIn (core / 17)).updCore core (fun k => { k with suspect := true })).unitRecord core 0 h)).startReset h 1
  | none => s

/-- 24 hours of block time (R469). -/
def dayNs : Nat := 86400000000000

/-- The self-test of one position ends (R469). -/
def State.testPosition (s : State) (h core : Nat) (fails : Bool) : State :=
  let k := s.core core
  if k.failed || (k.suspect && fails) then s.retire h core
  else if k.suspect then
    let ps := s.btime.toNat :: k.passes.filter (fun t => decide (s.btime.toNat < t + dayNs))
    let s1 := s.updCore core (fun x => { x with suspect := false, passes := ps, suspects := min 3 (x.suspects + 1) })
    let s2 := s1.unitRecord core 1 h
    if 3 ≤ ps.length then s2.retire h core else s2
  else s

/-- No group is placed in the hide. -/
def State.noGroups (s : State) (h : Nat) : Bool :=
  s.groups.all (fun g => match g.core with | some i => s.coreHide i != some h | none => true)

/-- Local stores, register files, caches and units of a hide are zero (R465). -/
def State.scrubCores (s : State) (h : Nat) : State :=
  (s.furlongsOf h).foldl (fun t f => t.scrubFurlong f) s

/-- A hide loses a furlong that drains for a move: its acre starts no further operation (R377 step 1). -/
def State.drainsFor (s : State) (h : Nat) : Bool := s.moves.any (fun m => m.src == h && m.step == 1)

/-- Moves that waited for recoveries start at their step 1 (R408). -/
def State.startMoves (s : State) : State :=
  let free := fun (m : Move) => !(s.hide m.src).recovery && !(match m.dst with | some d => (s.hide d).recovery | none => false)
  let s1 : State := { s with moves := s.moves.map (fun (m : Move) =>
    if m.step = 0 ∧ free m then { m with step := 1, from_ := s.btime.toNat } else m) }
  s1.moves.foldl (fun t m => if m.step = 1 then t.updAcre m.src (fun x => { x with blocked := true }) else t) s1

/-- The compute-part reset ends (R465). -/
def State.endReset (s : State) (h : Nat) : State :=
  let x := s.hide h
  let s1 := (s.scrubCores h).updHide h (fun y => { y with
    recovery := false, recKind := 0, fenceFrom := none, acre := { y.acre with blocked := s.drainsFor h } })
  let s2 := ((s1.acreBoundary h).cmds.filter (fun c => c.hide == h)).foldl (fun t c => t.stopChans c.cid false)
    (s1.acreBoundary h)
  (((s2.holdGroups h false).recoveryRecord 1 h x.recTrigger x.recFrom x.recFailed).startMoves).retime

/-- Functions assigned to a hide. -/
def State.fnsOf (s : State) (h : Nat) : List Nat := (List.range 513).filter (fun n => s.fnHide n == some h)

/-- A full hide reset starts: steps 1 to 5 and 7 of R466; the hide's restart values take effect (R373, R477) and it then
waits for the key. A compute-part reset under way is taken over (R468). With no image in the hide's config-store slot the
active bank is empty, and operations run with SHIFT_ID 0, of which R140 says nothing (DESIGN CHOICE, log 49). -/
def State.startFull (s : State) (h trigger : Nat) : State :=
  if (s.hide h).recKind = 2 ∨ s.pow.zeroised then s
  else
    let x := s.hide h
    let s1 := (s.updHide h (fun y => { y with
      recovery := true, recKind := 2, recFrom := if x.recovery then x.recFrom else s.btime.toNat, recTrigger := trigger,
      recFailed := if x.recovery then x.recFailed else 0, fullStep := 1, fenceFrom := none, key := 1 })).holdGroups h true
    let cs := s1.live.filter (fun c => (s1.ctx c).hide == h)
    let n := (s1.cmds.filter (fun c => c.hide == h && c.stage.isNone)).length
    let s2 := cs.foldl (fun t c => t.destroyCtx c 0x1B (some (commandErr 7 0)) none) s1
    let s3 := ((s2.fnsOf h).foldl (fun t n => t.rehome n) ((s2.scrubCores h).applyHide h)).updHide h (fun y => { y with
      recFailed := y.recFailed + n, epoch := y.epoch + 1, engQ := [], resetSave := 0, pendSeqs := [],
      acre := { bankA := tfind s.kod.shiftSlots h, bankI := none, blocked := true } })
    ((s3.portsOfHide h).foldl (fun t p => t.emit (.stackReset p)) (s3.readShift h)).refreshAll.retime

/-- Memory of a hide under a new key: what was stored is not recoverable (R467; log 5). -/
def State.rekey (s : State) (h : Nat) : State :=
  let us := (List.range 0xC0).filter (fun u => s.unitKind u != 0 && s.unitHide u == h)
  { s with mem := us.foldl (fun m u => m.clear (u * 2 ^ 32) (2 ^ 32)) s.mem
           exposed := s.exposed.filter (fun e => !us.contains (e.1 / 2 ^ 32))
           scrubbed := s.scrubbed.filter (fun u => !us.contains u) }

/-- The full hide reset ends (R466 steps 8 and 9): the hide has started if it exists. -/
def State.endFull (s : State) (h : Nat) : State :=
  let x := s.hide h
  let on := s.hideExists h
  ((((s.updHide h (fun y => { y with
    recovery := false, recKind := 0, fullStep := 0, started := on, key := if on then y.key else 0,
    acre := { y.acre with blocked := s.drainsFor h } })).holdGroups h
    false).recoveryRecord 2 h x.recTrigger x.recFrom x.recFailed).startMoves).refreshAll

/-- A recovery of the hide has ended: a reset that APPLY left waiting starts (R499). -/
def State.afterRecovery (s : State) (h : Nat) : State :=
  if (s.hide h).applyDue && !(s.hide h).recovery then (s.updHide h (fun y => { y with applyDue := false })).startFull h 1
  else s

/-- The key of a hide is drawn (R466 step 6, R520). -/
def State.drawKey (s : State) (h : Nat) : State :=
  ((s.updHide h (fun y => { y with key := 2, keyDraw := s.pow.draws })).drawNext).rekey h

/-! ## The commands -/

/-- WATCHDOG_EXPIRY: the timer of a command reaches its class's window (R460). -/
def execWatchdogExpiry (cid : Nat) (s : State) : Host.Outcome State Fault Refusal :=
  .next (match s.cmd? cid with
    | some c =>
      let w := s.classWindow c.hide c.cls
      if c.started && c.tOn && c.phase != .stopping && !s.cmdFrozen c && !s.cmdHeld c && c.stage.isNone
          && decide (1000 * w ≤ s.timerOf c) then
        (s.endCmd cid 0x16 (some (s.hangErr c 0 w))).retime
      else s
    | none => s)

/-- DEADLINE_EXPIRY: a command has not completed by its context's deadline (R461). -/
def execDeadlineExpiry (cid : Nat) (s : State) : Host.Outcome State Fault Refusal :=
  .next (match s.cmd? cid with
    | some c =>
      let d := (s.ctx c.ctx).deadline
      if c.ctx != 0xFFFF && d != 0 && c.phase != .stopping && c.phase != .ended && c.stage.isNone
          && decide (c.accAt + 1000 * d ≤ s.btime.toNat) then
        (s.endCmd cid 0x16 (some (s.hangErr c 1 d))).retime
      else s
    | none => s)

/-- STOP_TIMEOUT: a stop still unfinished after 2 µs starts context recovery (R460, R464). -/
def execStopTimeout (cid : Nat) (s : State) : Host.Outcome State Fault Refusal :=
  .next (match s.cmd? cid with
    | some c =>
      if c.phase == .stopping && !s.cmdQuiet cid && decide (c.stopAt + 2000 ≤ s.btime.toNat) then s.recoverCtx c.ctx else s
    | none => s)

/-- A group of a command that goes on is still placed in the hide: its save comes before the fence (R465). -/
def State.groupsLeft (s : State) (h : Nat) : Bool :=
  s.groups.any (fun g => (match g.core with | some i => s.coreHide i == some h | none => false)
    && (match s.cmd? g.cid with | some c => c.phase != .stopping | none => false))

/-- FENCE_DRAIN_EXPIRY: the drain time of the fences of a hide ends; what is still outstanding is error-completed
(R463): in a recovery first that of the commands that have stopped, of the whole hide once every other group is saved
(R146, R465), else that of its contexts in recovery. -/
def execFenceDrainExpiry (h : Fin 8) (s : State) : Host.Outcome State Fault Refusal :=
  let x := s.hide h.val
  .next (if x.recovery then
      match x.fenceFrom with
      | some t =>
        if t + 2000 ≤ s.btime.toNat then
          if s.groupsLeft h.val then s.cutRequests h.val (fun c => c.hide == h.val && c.phase == .stopping)
          else (s.cutRequests h.val (fun c => c.hide == h.val)).updHide h.val (fun y => { y with fenceFrom := none })
        else s
      | none => s
    else
      ((s.live.filter (fun c => (s.ctx c).hide == h.val && (s.ctx c).recovering
        && decide ((s.ctx c).fenceFrom + 2000 ≤ s.btime.toNat))).foldl (fun t i => t.cutRequests h.val (fun c => c.ctx == i)) s))

/-- COMPUTE_PART_RESET (R465): its trigger latches in the Event Gatherer. -/
def execComputePartReset (h : Fin 8) (trigger : Fin 5) (s : State) : Host.Outcome State Fault Refusal :=
  .next (if s.hideExists h.val && (s.hide h.val).started && !(s.hide h.val).recovery then
    (match (s.furlongsOf h.val).head? with | some f => s.latchIn f | none => s).startReset h.val trigger.val
  else s)

/-- SELF_TEST_END: the self-test of the suspect and failed positions of a hide in reset ends; `failing` are those that
fail it (R146, R148, R465, R469). -/
def execSelfTestEnd (h : Fin 8) (failing : List (Fin 272)) (s : State) : Host.Outcome State Fault Refusal :=
  .next (if (s.hide h.val).recovery && s.noGroups h.val then
    ((s.furlongsOf h.val).flatMap (fun f => (List.range 17).map (fun c => coreIdx f c))).foldl (fun t i =>
      t.testPosition h.val i (failing.any (fun x => x.val == i))) s
  else s)

/-- COMPUTE_PART_RESET_END (R465): once every group is saved and no position awaits its test. -/
def execComputePartResetEnd (h : Fin 8) (s : State) : Host.Outcome State Fault Refusal :=
  .next (if (s.hide h.val).recKind == 1 && s.noGroups h.val
      && (s.hideCores h.val).all (fun i => !(s.core i).failed && !(s.core i).suspect) then (s.endReset h.val).afterRecovery h.val
  else s)

/-- COMPUTE_PART_RESET_TIMEOUT: a compute-part reset that has not ended within 60 µs becomes a full hide reset (R466). -/
def execComputePartResetTimeout (h : Fin 8) (s : State) : Host.Outcome State Fault Refusal :=
  .next (if (s.hide h.val).recKind == 1 && decide ((s.hide h.val).recFrom + 60000 ≤ s.btime.toNat) then
    s.startFull h.val 3 else s)

/-- HIDE_KEY_GENERATED: the hide's key pair is drawn once the entropy source delivers; without the scrub the reset ends
(R466 step 6, R520). -/
def execHideKeyGenerated (h : Fin 8) (s : State) : Host.Outcome State Fault Refusal :=
  let x := s.hide h.val
  .next (if x.recKind == 2 && x.fullStep == 1 && s.pow.entropy then
    (if s.kodRun (0x3000 + h.val) 0x0D = 1 then
      (s.drawKey h.val).updHide h.val (fun y => { y with fullStep := 2 })
    else ((s.drawKey h.val).endFull h.val).afterRecovery h.val)
  else s)

/-- HIDE_SCRUB_END: the Stack Ports have been written with zero under the new key, and the reset ends (R466); the
ports are ready. -/
def execHideScrubEnd (h : Fin 8) (s : State) : Host.Outcome State Fault Refusal :=
  let us := (List.range 0xC0).filter (fun u => s.unitKind u == 2 && s.unitHide u == h.val)
  .next (if (s.hide h.val).recKind == 2 && (s.hide h.val).fullStep == 2
      && (s.portsOfHide h.val).all (fun p => (tget s.sports p {}).ready) then
    (({ s with scrubbed := s.scrubbed ++ us }).endFull h.val).afterRecovery h.val
  else s)

end Sys2Proof.Machine
end

