-- ==== Sys2Proof/Machine/Acre.lean ====
section
/-! DEFINITION. The acre: claiming units, the tile walk, slices with their checks, readout, escalation, store, report,
pre-emption (R70 to R95, R99 to R145, R584, R586). -/

namespace Sys2Proof.Machine

/-! ## Operands (R57 to R71, R79, R85, R86) -/

/-- An operand as a run uses it: its extents, strides, format, mode and codebook. -/
structure Opd where
  ext : Nat
  sc : Nat
  stride : Nat
  scStride : Nat
  fmt : Nat
  mode : Nat
  lut : Nat

/-- Operand A of a run: the primary, or its shadow where the recompute has one (R86). -/
def opdA (c : Cmd) (shadow : Bool) : Opd :=
  let h := shadowAt c.ext 0
  if shadow && h.addr != 0 then
    { ext := 8, sc := 9, stride := h.stride, scStride := h.scStride, fmt := h.fmt, mode := h.mode, lut := lutA c.ext }
  else { ext := 0, sc := 3, stride := c.aStride, scStride := c.aScStride, fmt := c.fmtA, mode := c.modeA, lut := lutA c.ext }

/-- Operand B of a run (R86). -/
def opdB (c : Cmd) (shadow : Bool) : Opd :=
  let h := shadowAt c.ext 24
  if shadow && h.addr != 0 then
    { ext := 10, sc := 11, stride := h.stride, scStride := h.scStride, fmt := h.fmt, mode := h.mode, lut := lutB c.ext }
  else { ext := 1, sc := 4, stride := c.bStride, scStride := c.bScStride, fmt := c.fmtB, mode := c.modeB, lut := lutB c.ext }

/-- n bits of an extent from a byte and a bit position on. -/
def State.extBits (s : State) (ps : List Piece) (ext byte bit n : Nat) : Nat :=
  s.extNum ps ext (byte + bit / 8) ((bit % 8 + n + 7) / 8) / 2 ^ (bit % 8) % 2 ^ n

/-- Code of element k of a row (R63, R64). -/
def State.elemCode (s : State) (ps : List Piece) (o : Opd) (row k : Nat) : Nat :=
  let w := fmtWidth o.fmt
  if fmtPlanes o.fmt then
    let g := if o.mode = 2 ∨ o.mode = 3 then 16 else 32
    ((List.range w).map (fun p =>
      s.extBits ps o.ext (row * o.stride) (k / g * (w * g) + p * g + k % g) 1 * 2 ^ p)).sum
  else s.extBits ps o.ext (row * o.stride) (w * k) w

/-- Stone scale of element k of a row: 1 for an operand without stones (R65 to R69). -/
def State.elemScale (s : State) (ps : List Piece) (o : Opd) (row k : Nat) : FV :=
  if hasStones o.mode then
    let c := (s.extByte ps o.sc (row * o.scStride + k / stoneOf o.mode)).toNat
    if o.mode = 1 then decodeE8M0 c else decodeFloat fF8a c
  else .fin false 1 0

/-- Replacement of R71: the value that is used, and whether it replaces another. -/
def replaceElem (v scale : FV) : FV × Bool :=
  match v, scale with
  | _, .nan => (.fin false 0 0, true)
  | .nan, _ => (.fin false 0 0, true)
  | .inf n, _ => (.fin n 57344 0, true)
  | x, _ => (x, false)

/-- An element with its scale applied: an element or a scale that is NaN gives +0, whatever the other one's sign (R71,
R79); an infinity its replacement under the scale. -/
def scaledElem (v scale : FV) : FV × Bool :=
  if v = .nan ∨ scale = .nan then (.fin false 0 0, true)
  else (exactMul (replaceElem v scale).1 scale, (replaceElem v scale).2)

/-- The element of a code of an exact run with its scale applied, and whether it counts in SPEC (R70, R71). -/
def State.exactOf (s : State) (ps : List Piece) (o : Opd) (row k code : Nat) : FV × Bool :=
  scaledElem (decodeFmt o.fmt o.lut code) (s.elemScale ps o row k)

/-- An element of an exact run as memory holds it. -/
def State.exactElem (s : State) (ps : List Piece) (o : Opd) (row k : Nat) : FV × Bool :=
  s.exactOf ps o row k (s.elemCode ps o row k)

/-- The element of a code of a run with a 16-bit operand as an F32 code, and whether it counts in SPEC (R79, R82). -/
def State.wideOf (s : State) (ps : List Piece) (o : Opd) (row k code : Nat) : Nat × Bool :=
  if fmtExact o.fmt then
    let r := s.exactOf ps o row k code
    let f := roundIeee fF32 .rne r.1.toQ
    (f, r.2 || (match decodeFloat fF32 f with | .inf _ => true | _ => false))
  else
    let v := decodeFmt o.fmt o.lut code
    (roundIeee fF32 .rne v.toQ, match v with | .fin _ _ _ => false | _ => true)

/-- An element of such a run as memory holds it. -/
def State.wideElem (s : State) (ps : List Piece) (o : Opd) (row k : Nat) : Nat × Bool :=
  s.wideOf ps o row k (s.elemCode ps o row k)

/-! ### Where the operands' bytes are (R48, R113, R226) -/

/-- Bytes of elements k to k + n − 1 of a row: offset in the extent and length (R63, R64). -/
def Opd.span (o : Opd) (row k n : Nat) : Nat × Nat :=
  let w := fmtWidth o.fmt
  if n = 0 then (row * o.stride, 0)
  else if fmtPlanes o.fmt then
    let g := if o.mode = 2 ∨ o.mode = 3 then 16 else 32
    (row * o.stride + k / g * (w * g / 8), ((k + n - 1) / g + 1 - k / g) * (w * g / 8))
  else (row * o.stride + w * k / 8, (w * (k + n) + 7) / 8 - w * k / 8)

/-- Bytes of the stone scales of those elements (R65 to R69). -/
def Opd.scSpan (o : Opd) (row k n : Nat) : Nat × Nat :=
  if hasStones o.mode && n != 0 then
    (row * o.scStride + k / stoneOf o.mode, (k + n - 1) / stoneOf o.mode + 1 - k / stoneOf o.mode)
  else (0, 0)

/-- The lines of an operand's elements, and of their scales, in some rows. -/
def Opd.lines (o : Opd) (ps : List Piece) (rows : List Nat) (k n : Nat) (elems : Bool) : List (Nat × List Nat) :=
  (if elems then [(o.ext, (rows.flatMap (fun i => extLines ps o.ext (o.span i k n).1 (o.span i k n).2)).eraseDups)] else [])
    ++ [(o.sc, (rows.flatMap (fun i => extLines ps o.sc (o.scSpan i k n).1 (o.scSpan i k n).2)).eraseDups)]

/-- The place among an operation's four streams of an extent: B elements, A elements, side data, output (R113; the place is
DESIGN CHOICE, log 45). -/
def extPlace (ext : Nat) : Nat :=
  match ext with
  | 1 => 0
  | 10 => 0
  | 0 => 1
  | 8 => 1
  | 2 => 3
  | 5 => 3
  | 12 => 3
  | _ => 2

/-- For whom the requests of an operation's stream leave (R113, R428). -/
def Cmd.streamAsker (c : Cmd) (ext : Nat) : Asker :=
  { chan := c.chans[extPlace ext]?, cid := c.cid, ctx := c.ctx, hide := c.hide }

/-- A hide's acre can read lines now. -/
def State.acreHas (s : State) (h : Nat) (ls : List (Nat × List Nat)) : Bool :=
  ls.all (fun x => x.2.all (s.canRead { id := acreId h }))

/-- A hide's acre asks for the lines that its streams bring (R48, R226). -/
def State.acreAsk (s : State) (h : Nat) (c : Cmd) (ls : List (Nat × List Nat)) : State :=
  ls.foldl (fun t x => t.askReads { id := acreId h } (c.streamAsker x.1) x.2) s

/-- The acre's output stream writes bytes of an extent (R48, R113, R226). -/
def State.acreWrite (s : State) (c : Cmd) (ext off : Nat) (bs : List Byte) : State :=
  s.writeExt (acreId c.hide) (c.streamAsker ext) c.pieces ext off bs

/-! ## Products and sums (R72, R73, R80, R81) -/

/-- Largest value of the window in units of 2^-64 (R72). -/
def winMax : Int := 2 ^ 111 - 1
/-- Smallest value of the window in units of 2^-64 (R72). -/
def winMin : Int := -(2 ^ 111)

/-- A product in the window: its value in units of 2^-64, whether it was rounded and whether it saturated (R72). -/
def placeProduct (p : FV) : Int × Bool × Bool :=
  match p with
  | .fin n m e =>
    let q := overUnit m 1 e (-64)
    let r := roundInt .rne m 1 (e + 64)
    let v : Int := if n then -(r : Int) else r
    if winMax < v then (winMax, q.1 % q.2 != 0, true)
    else if v < winMin then (winMin, q.1 % q.2 != 0, true)
    else (v, q.1 % q.2 != 0, false)
  | _ => (0, false, false)

/-- Exact partial sum over n elements from k on: value, products rounded, products saturated. A streams from memory, the
codes of B's row are those in the cells (R100). -/
def State.exactSum (s : State) (ps : List Piece) (a b : Opd) (bc : Nat → Nat) (i j k : Nat) : Nat → Int × Nat × Nat
  | 0 => (0, 0, 0)
  | n + 1 =>
    let p := placeProduct (exactMul (s.exactElem ps a i k).1 (s.exactOf ps b j k (bc k)).1)
    let r := State.exactSum s ps a b bc i j (k + 1) n
    (p.1 + r.1, (if p.2.1 then 1 else 0) + r.2.1, (if p.2.2 then 1 else 0) + r.2.2)

/-- One level of the tree of R81: neighbours added pairwise. -/
def pairAdd : List Nat → List Nat
  | a :: b :: r => fAdd fF32 .rne a b :: pairAdd r
  | l => l

/-- The five levels over 32 leaves (R81). -/
def treeSum (l : List Nat) : Nat := ((pairAdd (pairAdd (pairAdd (pairAdd (pairAdd l))))).head?).getD 0

/-- The 32 leaves of a group (R80, R81). -/
def State.leaves (s : State) (ps : List Piece) (a b : Opd) (bc : Nat → Nat) (i j g len : Nat) : List Nat :=
  (List.range 32).map (fun t =>
    if 32 * g + t < len then
      fMul fF32 .rne (s.wideElem ps a i (32 * g + t)).1 (s.wideOf ps b j (32 * g + t) (bc (32 * g + t))).1
    else 0)

/-- Add n groups from group g on to a running F32 sum (R81). -/
def State.wideSum (s : State) (ps : List Piece) (a b : Opd) (bc : Nat → Nat) (i j g len : Nat) (acc : Option Nat) :
    Nat → Option Nat
  | 0 => acc
  | n + 1 =>
    let t := treeSum (s.leaves ps a b bc i j g len)
    State.wideSum s ps a b bc i j (g + 1) len (some (match acc with | none => t | some x => fAdd fF32 .rne x t)) n

/-! ## The walk (R99, R109) -/

/-- Quotient rounded up. -/
def ceilDiv (a b : Nat) : Nat := (a + b - 1) / b

/-- The operation has a 16-bit operand. -/
def Cmd.wide (c : Cmd) : Bool := !fmtExact c.fmtA || !fmtExact c.fmtB

/-- Elements of K in one pass (R99). -/
def AcreOp.kp (o : AcreOp) (c : Cmd) : Nat :=
  128 * o.k * (if fmtPlanes (opdA c o.shadow).fmt && fmtPlanes (opdB c o.shadow).fmt then 4 else 1)

/-- First row of the row group (R99). -/
def AcreOp.row0 (o : AcreOp) : Nat := 128 * o.k * o.g
/-- Rows of the row group (R109). -/
def AcreOp.rowsOf (o : AcreOp) (c : Cmd) : Nat := min (128 * o.k) (c.dimM - o.row0)
/-- First column of the block (R99). -/
def AcreOp.col0 (o : AcreOp) : Nat := 128 * o.w * o.n
/-- Columns of the block (R109). -/
def AcreOp.colsOf (o : AcreOp) (c : Cmd) : Nat := min (128 * o.w) (c.dimN - o.col0)

/-- The key of an output element in the accumulators. -/
def elemKey (i j : Nat) : Nat := i * 2 ^ 24 + j

/-- A run computes the tile of an element: every tile, or in a recompute those that escalate. -/
def AcreOp.wants (o : AcreOp) (i j : Nat) : Bool := !o.shadow || o.esc.contains (i / 128, j / 128)

/-- Output rows of the slice or step at position s. -/
def AcreOp.rowsAt (o : AcreOp) (c : Cmd) : List Nat :=
  (List.range (min 32 (o.rowsOf c - o.s))).map (fun r => o.row0 + o.s + r)
/-- Output columns of the block. -/
def AcreOp.colsAt (o : AcreOp) (c : Cmd) : List Nat := (List.range (o.colsOf c)).map (fun j => o.col0 + j)

/-- The key of an element of B in the cells. -/
def cellKey (j k : Nat) : Nat := j * 2 ^ 20 + k
/-- The code of an element of B that the cells hold for the pass (R100, R101). -/
def AcreOp.cell (o : AcreOp) (j k : Nat) : Nat := tget o.b0 (cellKey j k) 0

/-- The B block of a pass as it lies in memory: Kp values of each column of the block (R99). -/
def State.bBlock (s : State) (c : Cmd) (o : AcreOp) (n p : Nat) (shadow : Bool) : Tbl Nat :=
  let q : AcreOp := { o with n := n, p := p, shadow := shadow }
  let k0 := q.kp c * p
  (q.colsAt c).flatMap (fun j => (List.range (min (q.kp c) (c.dimK - k0))).map (fun k =>
    (cellKey j (k0 + k), s.elemCode c.pieces (opdB c shadow) j (k0 + k))))

/-- Lines of the B block of a pass (R99, R113). -/
def AcreOp.bLines (o : AcreOp) (c : Cmd) (n p : Nat) (shadow : Bool) : List (Nat × List Nat) :=
  let q : AcreOp := { o with n := n, p := p, shadow := shadow }
  let k0 := q.kp c * p
  ((opdB c shadow).lines c.pieces (q.colsAt c) k0 (min (q.kp c) (c.dimK - k0)) true).take 1

/-- Passes of a run (R109). -/
def AcreOp.passes (o : AcreOp) (c : Cmd) : Nat := ceilDiv c.dimK (o.kp c)

/-- The pass behind the present one, as block, pass and run: the next along K, else the first of the next group or block
(R109). A recompute with the shadows may come between, and its passes then load anew. -/
def AcreOp.nextPass (o : AcreOp) (c : Cmd) : Option (Nat × Nat × Bool) :=
  if o.p + 1 < o.passes c then some (o.n, o.p + 1, o.shadow)
  else if o.g + 1 < ceilDiv c.dimM (128 * o.k) then some (o.n, 0, false)
  else if o.n + 1 < ceilDiv c.dimN (128 * o.w) then some (o.n + 1, 0, false)
  else none

/-- A pass begins: on the block that has been shifted into the idle registers, or with a load of its own (R101). -/
def AcreOp.enterPass (o : AcreOp) : AcreOp :=
  if o.idle = some (o.n, o.p, o.shadow) then { o with b0 := o.b1, b1 := [], idle := none, step := .slice }
  else { o with step := .load }

/-- Both B registers of every cell are discarded (R131). -/
def AcreOp.dropB (o : AcreOp) : AcreOp := { o with b0 := [], b1 := [], idle := none }

/-- Positions of the group's slices that a run computes. -/
def AcreOp.slices (o : AcreOp) (c : Cmd) : List Nat :=
  ((List.range (ceilDiv (o.rowsOf c) 32)).map (fun i => 32 * i)).filter (fun s =>
    (o.colsAt c).any (fun j => o.wants (o.row0 + s) j))

/-- The next position behind s, if any. -/
def AcreOp.after (o : AcreOp) (c : Cmd) : Option Nat := (o.slices c).find? (fun t => decide (o.s < t))
/-- The first position. -/
def AcreOp.first (o : AcreOp) (c : Cmd) : Nat := ((o.slices c).head?).getD 0

/-- Change a tile's counters. -/
def AcreOp.count (o : AcreOp) (ti tj : Nat) (f : Cnt → Cnt) : AcreOp :=
  { o with cnt := tupd o.cnt (elemKey ti tj) {} f }

/-- Add to counters, each sticking (R78). -/
def Cnt.add (a b : Cnt) : Cnt :=
  { spec := stick32 (a.spec + b.spec), undp := stick32 (a.undp + b.undp), satp := stick32 (a.satp + b.satp),
    sats := stick32 (a.sats + b.sats), qsat := stick32 (a.qsat + b.qsat) }

/-- The clip count (R78). -/
def Cnt.clip (a : Cnt) : Nat := stick32 (a.satp + a.sats + a.spec)

/-- The element of a code of an operand counts in SPEC. -/
def State.specOf (s : State) (c : Cmd) (o : Opd) (row k code : Nat) : Bool :=
  if c.wide then (s.wideOf c.pieces o row k code).2 else (s.exactOf c.pieces o row k code).2
/-- An element of an operand in memory counts in SPEC. -/
def State.specElem (s : State) (c : Cmd) (o : Opd) (row k : Nat) : Bool :=
  s.specOf c o row k (s.elemCode c.pieces o row k)

/-- SPEC of one tile from one slice: the elements of A in its rows, and with the tile's first slice those of B in its
columns (R71, R82). -/
def State.sliceSpec (s : State) (c : Cmd) (o : AcreOp) (k0 n tj : Nat) : Nat :=
  let ks := (List.range n).map (fun k => k0 + k)
  let rows := o.rowsAt c
  let cols := (o.colsAt c).filter (fun j => j / 128 == tj)
  (rows.map (fun i => (ks.filter (fun k => s.specElem c (opdA c o.shadow) i k)).length)).sum
    + (if (o.row0 + o.s) % 128 = 0 then
        (cols.map (fun j => (ks.filter (fun k => s.specOf c (opdB c o.shadow) j k (o.cell j k))).length)).sum
      else 0)

/-- One element's part of a slice enters its accumulator (R73, R81, R110, R125). -/
def State.sliceElem (s : State) (c : Cmd) (k0 n : Nat) (o : AcreOp) (i j : Nat) : AcreOp :=
  let a := opdA c o.shadow
  let b := opdB c o.shadow
  let key := elemKey i j
  if c.wide then
    match s.wideSum c.pieces a b (o.cell j) i j (k0 / 32) c.dimK ((tfind o.acc key).map (fun x => x.toNat)) (ceilDiv n 32) with
    | some v => { o with acc := tset o.acc key (v : Int) }
    | none => o
  else
    let r := s.exactSum c.pieces a b (o.cell j) i j k0 n
    ({ o with acc := tset o.acc key (tget o.acc key 0 + r.1) }).count (i / 128) (j / 128)
      (fun x => x.add { undp := r.2.1, satp := r.2.2 })

/-- A product of an element over a part of K is rounded or saturated (R72). -/
def State.outsideWindow (s : State) (c : Cmd) (o : AcreOp) (i j k n : Nat) : Bool :=
  let r := s.exactSum c.pieces (opdA c o.shadow) (opdB c o.shadow) (o.cell j) i j k n
  r.2.1 + r.2.2 != 0

/-- Unit-slices whose check is left out: a product of the unit was rounded or saturated (R126). Two points are the model's
choice (log 49): the unit in furlong row f takes the 128·d consecutive values of K from 128·d·f within the pass, at depth 4
too, where R100 says only that row and column select its part; and the unit-slices of an operation with a 16-bit operand,
which R127 gives no checksum, are not counted. -/
def State.uncheckedIn (s : State) (c : Cmd) (o : AcreOp) (k0 n : Nat) : Nat :=
  if c.wide then 0
  else
    let d := o.kp c / o.k
    ((List.range o.k).flatMap (fun f => (List.range o.w).map (fun u => (f, u)))).countP (fun x =>
      ((o.colsAt c).filter (fun j => (j - o.col0) / 128 == x.2)).any (fun j => (o.rowsAt c).any (fun i =>
        o.wants i j && s.outsideWindow c o i j (k0 + x.1 * d) (min (n - x.1 * d) d))))

/-- A slice passes its checks and enters the accumulators (R125). -/
def State.addSlice (s : State) (c : Cmd) (o : AcreOp) : AcreOp :=
  let k0 := o.kp c * o.p
  let n := min (o.kp c) (c.dimK - k0)
  let cells := (o.rowsAt c).flatMap (fun i => (o.colsAt c).map (fun j => (i, j)))
  let o1 := (cells.filter (fun x => o.wants x.1 x.2)).foldl (fun t x => s.sliceElem c k0 n t x.1 x.2) o
  let ti := (o.row0 + o.s) / 128
  let tjs := (((o.colsAt c).map (fun j => j / 128)).eraseDups).filter (fun tj => o.wants (ti * 128) (tj * 128))
  let o2 := tjs.foldl (fun (t : AcreOp) tj => t.count ti tj (fun x => x.add { spec := s.sliceSpec c o k0 n tj })) o1
  { o2 with unchecked := stick32 (o.unchecked + s.uncheckedIn c o k0 n), rerun := false, bad := [] }

/-- Position after a slice: the next slice, the next pass, or readout (R109). -/
def AcreOp.nextSlice (o : AcreOp) (c : Cmd) : AcreOp :=
  match o.after c with
  | some t => { o with s := t, step := .slice }
  | none =>
    if o.p + 1 < o.passes c then ({ o with p := o.p + 1, s := o.first c } : AcreOp).enterPass
    else { o with s := o.first c, step := .readout }

/-! ## Readout (R74, R76) -/

/-- F32 code of 1.0. -/
def f32One : Nat := 0x3F800000

/-- Factor of an output row (R76, R104). -/
def State.factorA (s : State) (c : Cmd) (i : Nat) : Nat :=
  if c.modeA = 0 then s.extNum c.pieces 6 0 4
  else if hasFactors c.modeA then s.extNum c.pieces 6 (4 * i) 4
  else f32One

/-- Factor of an output column (R76, R104). -/
def State.factorB (s : State) (c : Cmd) (j : Nat) : Nat :=
  let base := 4 * (if c.modeA = 0 then 1 else if hasFactors c.modeA then c.dimM else 0)
  if c.modeB = 0 then s.extNum c.pieces 6 base 4
  else if hasFactors c.modeB then s.extNum c.pieces 6 (base + 4 * j) 4
  else f32One

/-- A value in units of 2^-64 as a quotient. -/
def fixedQ (v : Int) : FQ := .fin (decide (v < 0)) v.natAbs 1 (-64)

/-- Readout of one element (R74, R76). -/
def State.readElem (s : State) (c : Cmd) (o : AcreOp) (i j : Nat) : AcreOp :=
  let key := elemKey i j
  let v := tget o.acc key 0
  let scale := fun (f : Nat) => fMul fF32 .rne (fMul fF32 .rne f (s.factorA c i)) (s.factorB c j)
  if c.wide then { o with y := tset o.y key ((if c.fmtOut = 15 then v.toNat else scale v.toNat : Nat) : Int) }
  else
    let x := if winMax < v then winMax else if v < winMin then winMin else v
    let o1 := if x = v then o else o.count (i / 128) (j / 128) (fun k => k.add { sats := 1 })
    let r : Int := if c.fmtOut = 15 then x else ((scale (roundIeee fF32 .rne (fixedQ x)) : Nat) : Int)
    { o1 with y := tset o1.y key r }

/-- Tiles of the group and block. -/
def AcreOp.tiles (o : AcreOp) (c : Cmd) : List (Nat × Nat) :=
  (List.range (ceilDiv (o.rowsOf c) 128)).flatMap (fun a => (List.range (ceilDiv (o.colsOf c) 128)).map (fun b =>
    (o.row0 / 128 + a, o.col0 / 128 + b)))

/-- The tile's clip count exceeds the threshold (R84); escalation applies to exact formats only (R83). -/
def AcreOp.overLimit (o : AcreOp) (c : Cmd) (t : Nat × Nat) : Bool :=
  !c.wide && decide (c.escThresh < (tget o.cnt (elemKey t.1 t.2) {}).clip)

/-- After the group's readout: tiles that escalate are recomputed with the shadows, else the group is stored (R86, R111). -/
def AcreOp.escalate (o : AcreOp) (c : Cmd) : AcreOp :=
  let ts := (o.tiles c).filter (fun t => o.overLimit c t)
  let has := (shadowAt c.ext 0).addr != 0 || (shadowAt c.ext 24).addr != 0
  if o.shadow || !has || ts.isEmpty then { o with step := .store, s := 0, tj := 0, shadow := false }
  else
    let gone := fun (k : Nat) => ts.contains (k / 2 ^ 24 / 128, k % 2 ^ 24 / 128)
    let o1 : AcreOp := { o with
      shadow := true, esc := ts, acc := o.acc.filter (fun e => !gone e.1)
      cnt := o.cnt.filter (fun e => !ts.contains (e.1 / 2 ^ 24, e.1 % 2 ^ 24)), p := 0 }
    ({ o1 with s := o1.first c } : AcreOp).enterPass

/-- One readout step of 32 rows (R76, R112). -/
def State.readStep (s : State) (c : Cmd) (o : AcreOp) : AcreOp :=
  let cells := (o.rowsAt c).flatMap (fun i => (o.colsAt c).map (fun j => (i, j)))
  let o1 := (cells.filter (fun x => o.wants x.1 x.2)).foldl (fun t x => s.readElem c t x.1 x.2) o
  match o.after c with
  | some t => { o1 with s := t }
  | none => o1.escalate c

/-! ## Store (R90 to R93, R119 to R121) -/

/-- The epilogue on one F32 result (R119). -/
def State.epilogue (s : State) (c : Cmd) (j y : Nat) : Nat :=
  let b := if epiBias c.epi then fAdd fF32 .rne y (s.extNum c.pieces 7 (4 * j) 4) else y
  let v := decodeFloat fF32 b
  if c.epi = 2 ∨ c.epi = 3 then
    (if v = .nan then b else if (FV.fin false 0 0).lt v then b else 0)
  else if epiClamp c.epi then
    let lim := decodeFloat fF32 (epiParam c.ext)
    if v = .nan then b
    else if lim.lt v then epiParam c.ext
    else if v.lt lim.neg then epiParam c.ext + 2 ^ 31
    else b
  else b

/-- The rounding of an element (R89, R93, R121). -/
def AcreOp.rnd (o : AcreOp) (c : Cmd) (i j : Nat) : Rnd :=
  if c.round = 0 then .rne else if c.round = 1 then .rtz else .sr (srDraw o.seed i j)

/-- The largest magnitude of a stone: NaN first, then infinity (R92). -/
def amaxOf (l : List FV) : FV :=
  if l.any (fun v => v == .nan) then .nan
  else if l.any (fun v => v.abs == .inf false) then .inf false
  else l.foldl (fun m v => if m.lt v.abs then v.abs else m) (.fin false 0 0)

/-- The results of a row's columns a to b − 1 after the epilogue. -/
def State.rowResults (s : State) (c : Cmd) (o : AcreOp) (i a b : Nat) : List Nat :=
  (List.range (b - a)).map (fun t => s.epilogue c (a + t) (tget o.y (elemKey i (a + t)) 0).toNat)

/-- The output scale of the stone that holds a column: its code and value (R90, R92, R120). -/
def State.outScaleOf (s : State) (c : Cmd) (o : AcreOp) (i j : Nat) : Nat × FV :=
  if c.modeOut = 0 then (0, decodeFloat fF32 c.outScale)
  else
    let n := stoneOf c.modeOut
    let am := amaxOf ((s.rowResults c o i (j / n * n) (min c.dimN (j / n * n + n))).map (decodeFloat fF32))
    if c.modeOut = 1 then (scaleS32 c.fmtOut am, decodeE8M0 (scaleS32 c.fmtOut am))
    else (scaleS16 c.fmtOut am, decodeFloat fF8a (scaleS16 c.fmtOut am))

/-- The stored code of an element, and whether it counts in QSAT (R76, R90). -/
def State.outCode (s : State) (c : Cmd) (o : AcreOp) (i j : Nat) : Nat × Bool :=
  let y := tget o.y (elemKey i j) 0
  if c.fmtOut = 15 then
    quantiseI32 (o.rnd c i j) (if c.wide then (decodeFloat fF32 y.toNat).toQ else fixedQ y)
  else
    quantiseBy c.fmtOut (o.rnd c i j) (decodeFloat fF32 (s.epilogue c j y.toNat)) (s.outScaleOf c o i j).2

/-- Codes packed least significant first (R63). -/
def packList (w : Nat) : List Nat → Nat
  | [] => 0
  | c :: r => c % 2 ^ w + 2 ^ w * packList w r

/-- First column of the tile that is stored. -/
def AcreOp.tileCol (o : AcreOp) : Nat := o.col0 + 128 * o.tj
/-- Columns of the tile that is stored: the store goes through the group's tiles by t_i, then t_j (R109). -/
def AcreOp.tileCols (o : AcreOp) (c : Cmd) : List Nat :=
  (List.range (min 128 (o.colsOf c - 128 * o.tj))).map (fun j => o.tileCol + j)

/-- Store one row's part in the tile: elements and stone scales (R63, R120). -/
def State.storeRow (s : State) (c : Cmd) (o : AcreOp) (i : Nat) : State :=
  let w := fmtWidth c.fmtOut
  let cols := o.tileCols c
  let v := packList w (cols.map (fun j => (s.outCode c o i j).1))
  let s1 := s.acreWrite c 2 (i * c.outStride + o.tileCol * w / 8) (leBytes (packedBytes cols.length w) v)
  if c.modeOut = 0 then s1
  else
    let n := stoneOf c.modeOut
    let stones := cols.filter (fun j => j % n == 0)
    s1.acreWrite c 5 (i * c.outScStride + o.tileCol / n)
      (stones.map (fun j => BitVec.ofNat 8 (s.outScaleOf c o i j).1))

/-- QSAT of the step's elements (R77). -/
def State.countQsat (s : State) (c : Cmd) (o : AcreOp) : AcreOp :=
  let cells := (o.rowsAt c).flatMap (fun i => (o.tileCols c).map (fun j => (i, j)))
  (cells.filter (fun x => (s.outCode c o x.1 x.2).2)).foldl (fun (t : AcreOp) x =>
    t.count (x.1 / 128) (x.2 / 128) (fun k => k.add { qsat := 1 })) o

/-- The group's tiles enter the report (R123), and the walk goes to the next group, block, or the end (R109). -/
def AcreOp.endGroup (o : AcreOp) (c : Cmd) : AcreOp :=
  let rep := (o.tiles c).foldl (fun r t =>
    tset r (t.1 * ceilDiv c.dimN 128 + t.2) (tget o.cnt (elemKey t.1 t.2) {}, o.esc.contains t, o.overLimit c t)) o.rep
  let o1 : AcreOp := { o with rep := rep, acc := [], cnt := [], y := [], esc := [], shadow := false, p := 0, s := 0 }
  if o.g + 1 < ceilDiv c.dimM (128 * o.k) then ({ o1 with g := o.g + 1 } : AcreOp).enterPass
  else if o.n + 1 < ceilDiv c.dimN (128 * o.w) then ({ o1 with n := o.n + 1, g := 0 } : AcreOp).enterPass
  else { o1 with step := .done }

/-- Position after a store step of 32 rows: the tile's next rows, the next tile by t_i, then t_j, or the group's end
(R109, R112). -/
def AcreOp.nextStore (o : AcreOp) (c : Cmd) : AcreOp :=
  if o.s % 128 + 32 < 128 ∧ o.s + 32 < o.rowsOf c then { o with s := o.s + 32 }
  else if 128 * (o.tj + 1) < o.colsOf c then { o with tj := o.tj + 1, s := o.s / 128 * 128 }
  else if (o.s / 128 + 1) * 128 < o.rowsOf c then { o with tj := 0, s := (o.s / 128 + 1) * 128 }
  else ({ o with tj := 0 } : AcreOp).endGroup c

/-- Every factor of an operation with I32 output is 1.0 (R586). -/
def State.factorsOne (s : State) (c : Cmd) : Bool :=
  c.fmtOut != 15 || ((List.range (((c.pieces.filter (fun p => p.ext == 6)).map (fun p => p.len)).sum / 4)).all (fun i =>
    s.extNum c.pieces 6 (4 * i) 4 == f32One))

/-! ## The report (R122, R123) -/

/-- Bytes of one tile entry. -/
def repEntry (e : Cnt × Bool × Bool) : List Byte :=
  cntBytes e.1 ++ leBytes 1 ((if e.2.1 then 1 else 0) + (if e.2.2 then 2 else 0)) ++ leBytes 11 0

/-- Bytes of the whole report. -/
def AcreOp.report (o : AcreOp) (c : Cmd) : List Byte :=
  let t := ceilDiv c.dimM 128 * ceilDiv c.dimN 128
  leBytes 4 t ++ leBytes 4 (o.rep.filter (fun e => e.2.2.1)).length ++ leBytes 4 (o.rep.filter (fun e => e.2.2.2)).length
    ++ leBytes 4 0 ++ leBytes 8 (if c.round = 2 then o.seed.toNat else 0) ++ leBytes 4 o.shiftId ++ leBytes 4 o.chkRetries
    ++ leBytes 4 o.unchecked ++ leBytes 4 o.preempts ++ leBytes 24 0
    ++ (List.range t).flatMap (fun i => repEntry (tget o.rep i ({}, false, false)))

/-! ## Starting, pre-emption, stopping (R113, R129 to R132, R141, R142, R584) -/

/-- Class-0 acre priority of a hide (R390). -/
def State.acrePrio (s : State) (h : Nat) : Bool := s.kodRun (0x3000 + h) 0x0A == 1

/-- The acre has the data that it awaited, or gives it up: channels of its command that were HELD are no longer so, and
their burst ends (R131, R427). -/
def State.acreFed (s : State) (cid : Nat) : State :=
  match (s.chansOf cid).filter (fun mc => (s.chan mc.1 mc.2).st == .held) with
  | [] => s
  | held => (held.foldl (fun t mc => t.updChan mc.1 mc.2 (fun x => { x with
      st := .running, heldBytes := 0, stallPosted := false })) s).retime

/-- The first waiting acre operation of a hide that a class test picks. -/
def State.waitingAcre (s : State) (h : Nat) (f : Cmd → Bool) : Option Cmd :=
  (s.hide h).acre.wait.findSome? (fun i => (s.cmd? i).filter f)

/-- Save the private state of every unit of a hide in private use into its owner's slot (R142, R192). -/
def State.claimUnits (s : State) (h : Nat) : State := (s.hideCores h).foldl (fun t i => t.writeSlot i) s

/-- Place four streams of an operation: in the class-0 reserve, or under R411; none where no channel is free (R113). -/
def State.takeStreams (s : State) (c : Cmd) : Option State :=
  if c.cls = 0 ∧ s.acrePrio c.hide then
    some ((List.range 4).foldl (fun t i => t.placeChan (4 * (c.hide % 4) + i, 31 - c.hide / 4) c []) s)
  else
    (List.range 4).foldl (fun (b : Option (State)) _ =>
      b.bind (fun t => (t.pickChan ((t.chansOf c.cid).map (fun x => x.1))).map (fun mc => t.placeChan mc c []))) (some s)

/-- The operation as it starts (R25, R94, R100, R136). -/
def State.newAcreOp (s : State) (c : Cmd) : AcreOp :=
  { cid := c.cid, cls := c.cls, set := if c.cls = 0 ∧ s.acrePrio c.hide then 1 else 0, k := (s.furlongsOf c.hide).length,
    w := s.acreWidth c.hide, seed := c.seed, shiftId := ((s.hide c.hide).acre.bankA.map (fun b => b.id)).getD 0 }

/-- The acre's running operation is held aside for a class-0 one; the B registers are discarded (R131). -/
def AcreOp.putAside (o : AcreOp) : AcreOp :=
  { o.dropB with preempts := o.preempts + 1, fed := [], step := if o.step = .slice then .load else o.step }

/-- A class-0 acre operation of the hide has been dispatched and has not started (R129 to R132). -/
def State.class0Due (s : State) (h : Nat) : Bool :=
  ((s.hide h).engQ ++ (s.hide h).acre.wait).any (fun i =>
    match s.cmd? i with | some k => k.opcode == 0x40 && k.cls == 0 | none => false)

/-- The running operation gives way to a class-0 one that has been dispatched (R129 to R131). -/
def State.mustYield (s : State) (h : Nat) (o : AcreOp) : Bool :=
  s.acrePrio h && o.cls != 0 && (s.hide h).acre.pre.isNone && s.class0Due h

/-- The running operation is at a tile boundary: it goes on, or is put aside where it must give way (R129, R131). -/
def State.putAcre (s : State) (h : Nat) (o : AcreOp) : State :=
  if s.mustYield h o then (s.updAcre h (fun a => { a with run := none, pre := some o.putAside })).retime
  else s.updAcre h (fun a => { a with run := some { o with fed := [] } })

/-- Start an operation on the acre (R113, R131, R141, R142). -/
def State.startAcre (s : State) (c : Cmd) : State :=
  match s.takeStreams c with
  | none => s
  | some t =>
    let claimed := if s.acreHolds c.hide then t else t.claimUnits c.hide
    let freed := match (s.hide c.hide).acre.run with
      | some o => claimed.acreFed o.cid
      | none => claimed
    ((freed.updAcre c.hide (fun a => { a with
      pre := if a.run.isSome then a.run.map AcreOp.putAside else a.pre, run := some (s.newAcreOp c),
      wait := a.wait.filter (fun i => i != c.cid) })).updCmd c.cid (fun k => { k with phase := .running })).retime

/-- The operation that a hide's acre may start now (R130, R131, R384, R584). -/
def State.nextAcre (s : State) (h : Nat) : Option Cmd :=
  let a := (s.hide h).acre
  let zero := s.waitingAcre h (fun c => c.cls == 0)
  if s.acrePrio h then
    match a.run, zero with
    | none, some c => some c
    | none, none => if a.pre.isSome then none else s.waitingAcre h (fun _ => true)
    | some o, some c => if o.cls != 0 && a.pre.isNone then some c else none
    | some _, none => none
  else if a.run.isSome || a.pre.isSome then none
  else match zero with
    | some c => some c
    | none => s.waitingAcre h (fun _ => true)

/-- A command of a context may work on an engine now: the context is resident and not fenced. -/
def State.ctxOpen (s : State) (c : Nat) : Bool := (s.ctx c).resident && !(s.ctx c).fenced

/-- The operation of a hide's acre that can take a step now, with its command. -/
def State.acreNow (s : State) (h : Nat) (step : AcreStep) : Option (AcreOp × Cmd) :=
  match (s.hide h).acre.run with
  | some o =>
    if o.step = step ∧ !o.hold ∧ s.engineOpen h then
      ((s.cmd? o.cid).filter (fun c => c.phase == .running && s.ctxOpen c.ctx)).map (fun c => (o, c))
    else none
  | none => none

/-- The lines that the operation reads in its step: the pass's B block; A's rows with the scales of both operands; the
factors; the bias, and before the first store the factors (R76, R109, R113, R119, R586). -/
def State.stepLines (s : State) (o : AcreOp) (c : Cmd) : List (Nat × List Nat) :=
  let k0 := o.kp c * o.p
  let n := min (o.kp c) (c.dimK - k0)
  let factors := [(6, extLines c.pieces 6 0 (((c.pieces.filter (fun p => p.ext == 6)).map (fun p => p.len)).sum))]
  match o.step with
  | .load => o.bLines c o.n o.p o.shadow
  | .slice => (opdA c o.shadow).lines c.pieces (o.rowsAt c) k0 n true ++ (opdB c o.shadow).lines c.pieces (o.colsAt c) k0 n false
  | .readout => factors
  | .store => (7, extLines c.pieces 7 (4 * o.tileCol) 512) :: (if o.factorsOk then [] else factors)
  | .done => []

/-- The operation of a hide's acre takes a step once what it reads in it is there, and asks for it until then. -/
def State.onStep (s : State) (h : Nat) (step : AcreStep) (f : AcreOp → Cmd → State) : State :=
  match s.acreNow h step with
  | some (o, c) => if s.acreHas h (s.stepLines o c) then f o c else s.acreAsk h c (s.stepLines o c)
  | none => s

/-- The running operation ends a step, its data arrived, with a progress of its command (R427, R457). -/
def State.stepAcre (s : State) (h : Nat) (o : AcreOp) : State := ((s.putAcre h o).acreFed o.cid).progress o.cid

/-- CHECKSUM body: the first unit, the runs, the units (R472). -/
def checksumErr (core runs units : Nat) : ErrInfo :=
  { typ := 7, body := bodyAt 28 core + bodyAt 30 runs + bodyAt 32 units }

/-- Core index of the unit at a furlong row and logical column of a hide's acre (R23). -/
def State.unitCore (s : State) (h f c : Nat) : Nat :=
  match (s.furlongsOf h)[f]? with
  | some x => coreIdx x (((s.activePos x)[c]?).getD 0)
  | none => 0

/-- The end of a slice: its check, its retry, or its stop (R125 to R128). Where a class-0 operation waits at a mismatch,
the acre pre-empts first, and the retry is the first work of the resumed operation (R129). -/
def State.endSlice (s : State) (h : Nat) (bad : List (Fin 16 × Fin 16)) (o : AcreOp) (c : Cmd) : State :=
  let units := (bad.map (fun x => (x.1.val, x.2.val))).filter (fun x => decide (x.1 < o.k) && decide (x.2 < o.w))
  match units with
  | [] => s.stepAcre h ((s.addSlice c o).nextSlice c)
  | u :: _ =>
    if !o.rerun then
      (s.putAcre h { o with rerun := true, bad := units, chkRetries := o.chkRetries + 1 }).acreFed o.cid
    else
      let all := (o.bad ++ units).eraseDups
      let core := match o.bad with | b :: _ => s.unitCore h b.1 b.2 | [] => s.unitCore h u.1 u.2
      let s1 := s.failCmd o.cid 0x17 (some (checksumErr (coreField core) 2 all.length))
      all.foldl (fun t x => t.markSuspect (s.unitCore h x.1 x.2)) s1

/-- One store step (R112, R119, R586). -/
def State.storeStep (s : State) (h : Nat) (o : AcreOp) (c : Cmd) : State :=
  if !o.factorsOk && !s.factorsOne c then s.failCmd o.cid 0x14 (some (descErr 4 96 0))
  else
    let s1 := (o.rowsAt c).foldl (fun t i => t.storeRow c o i) s
    let o1 := { s.countQsat c o with factorsOk := true }
    s1.stepAcre h (o1.nextStore c)

/-- The operation ends: its report, its status, its channels and its units (R87, R113, R122, R141). -/
def State.endAcre (s : State) (h : Nat) (o : AcreOp) (c : Cmd) : State :=
  let s1 := if reportAddr c.ext = 0 then s else s.acreWrite c 12 0 (o.report c)
  let st := if o.rep.any (fun e => e.2.2.1 || e.2.2.2) then 1 else 0
  let s2 := (s1.chansOf o.cid).foldl (fun t mc => t.freeChan mc.1 mc.2) s1
  (((s2.updAcre h (fun a => { a with run := none })).acreLeft h).finish o.cid st none).retime

/-! ## The commands -/

/-- ACRE: a dispatched acre operation joins its hide's operations, in issue order (R20, R385). -/
def execAcre (cid : Nat) (s : State) : Host.Outcome State Fault Refusal :=
  .next (match s.onRow cid 0x40 with
    | some c =>
      let earlier := ((s.hide c.hide).engQ.takeWhile (fun i => i != cid)).any (fun i =>
        match s.cmd? i with | some k => k.opcode == 0x40 | none => false)
      if (s.hide c.hide).engQ.contains cid && !earlier then
        s.updHide c.hide (fun h => { h with engQ := h.engQ.filter (fun i => i != cid),
                                            acre := { h.acre with wait := h.acre.wait ++ [cid] } })
      else s
    | none => s)

/-- ACRE_OPERATION_START: the acre claims its units and issues its first operand request (R130, R131, R133,
R142, R584); sleeping furlongs are woken first (R510). -/
def execAcreOperationStart (h : Fin 8) (s : State) : Host.Outcome State Fault Refusal :=
  .next (if s.engineOpen h.val && !(s.hide h.val).acre.blocked && !(s.furlongsOf h.val).isEmpty then
    match s.nextAcre h.val with
    | some c =>
      if !s.ctxOpen c.ctx then s
      else if (s.furlongsOf h.val).all s.furlongOn then s.startAcre c
      else (s.furlongsOf h.val).foldl (fun t f => t.wakeFurlong f) s
    | none => s
  else s)

/-- ACRE_STEP_ABANDON: a class-0 operation waits; the step in progress is abandoned and leaves no trace (R131). -/
def execAcreStepAbandon (h : Fin 8) (s : State) : Host.Outcome State Fault Refusal :=
  let a := (s.hide h.val).acre
  .next (match a.run with
    | some o =>
      if s.acrePrio h.val && o.cls != 0 && a.pre.isNone && (s.waitingAcre h.val (fun c => c.cls == 0)).isSome then
        ((s.updAcre h.val (fun x => { x with run := none, pre := some o.putAside })).acreFed o.cid).retime
      else s
    | none => s)

/-- ACRE_RESUME: no class-0 operation is dispatched or running; the pre-empted one goes on (R132). -/
def execAcreResume (h : Fin 8) (s : State) : Host.Outcome State Fault Refusal :=
  let a := (s.hide h.val).acre
  .next (match a.run, a.pre with
    | none, some o =>
      if !s.class0Due h.val && s.engineOpen h.val then
        (s.updAcre h.val (fun x => { x with run := some o, pre := none })).retime
      else s
    | _, _ => s)

/-- The next pass's block is shifted into the idle registers while a pass runs (R101). -/
def State.loadIdle (s : State) (h : Nat) (o : AcreOp) (c : Cmd) : State :=
  match o.nextPass c with
  | some (n, p, sh) =>
    let ls := o.bLines c n p sh
    if o.idle.isSome || s.mustYield h o then s
    else if !s.acreHas h ls then s.acreAsk h c ls
    else s.updAcre h (fun a => { a with run := some { o with b1 := s.bBlock c o n p sh, idle := some (n, p, sh) } })
  | none => s

/-- ACRE_B_BLOCK_LOADED: the pass's B block is in the cells, or, while a pass runs, the next pass's block is in the idle
registers (R100, R101, R109). A load is abandoned at once where a class-0 operation waits (R131). -/
def execAcreBBlockLoaded (h : Fin 8) (s : State) : Host.Outcome State Fault Refusal :=
  .next (match s.acreNow h.val .slice with
    | some (o, c) => s.loadIdle h.val o c
    | none => s.onStep h.val .load (fun o c =>
      if s.mustYield h.val o then (s.putAcre h.val o).acreFed o.cid
      else (s.updAcre h.val (fun a => { a with
        run := some { o with b0 := s.bBlock c o o.n o.p o.shadow, step := .slice, fed := [] } })).acreFed o.cid))

/-- ACRE_SLICE_END: the units check the slice; `bad` are those that mismatch (R125, R128). -/
def execAcreSliceEnd (h : Fin 8) (bad : List (Fin 16 × Fin 16)) (s : State) : Host.Outcome State Fault Refusal :=
  .next (s.onStep h.val .slice (fun o c => s.endSlice h.val bad o c))

/-- ACRE_READOUT_STEP (R76). -/
def execAcreReadoutStep (h : Fin 8) (s : State) : Host.Outcome State Fault Refusal :=
  .next (s.onStep h.val .readout (fun o c => s.stepAcre h.val (s.readStep c o)))

/-- ACRE_STORE_STEP (R119). -/
def execAcreStoreStep (h : Fin 8) (s : State) : Host.Outcome State Fault Refusal :=
  .next (s.onStep h.val .store (fun o c => s.storeStep h.val o c))

/-- ACRE_OPERATION_END (R87, R122). -/
def execAcreOperationEnd (h : Fin 8) (s : State) : Host.Outcome State Fault Refusal :=
  .next (s.onStep h.val .done (fun o c => s.endAcre h.val o c))

end Sys2Proof.Machine
end

