-- ==== Sys2Proof/Machine/Groups.lean ====
section
/-! DEFINITION. Chain groups: placement, the start and the end of chains, barriers of a group, saving and resuming (R152
to R156, R165, R170, R190, R198 to R202, R231, R237, R385). -/

namespace Sys2Proof.Machine

/-! ## Room on a core (R154 to R156, R163, R170) -/

/-- Groups of a command (R153). -/
def Cmd.groupCount (c : Cmd) : Nat := if c.groupSize = 0 then 0 else (c.chains + c.groupSize - 1) / c.groupSize

/-- Chains of group g (R153). -/
def Cmd.chainsIn (c : Cmd) (g : Nat) : Nat := min c.groupSize (c.chains - g * c.groupSize)

/-- One resource of a core has room for x more: class 0 takes the reserve first, the others never (R155, R156). -/
def resourceFits (tot res use0 useN x : Nat) (zero : Bool) : Bool :=
  if zero then decide ((use0 + x - res) + useN ≤ tot - res) else decide (useN + x + (use0 - res) ≤ tot - res)

/-- A group of n chains fits on a core beside some groups (R154 to R156). -/
def State.fitsBeside (s : State) (h cls n vregs ls : Nat) (gs : List Group) : Bool :=
  let zero := gs.filter (fun x => x.cls == 0)
  let rest := gs.filter (fun x => x.cls != 0)
  let used := fun (f : Group → Nat) (l : List Group) => (l.map f).sum
  resourceFits 64 (s.reserveSlots h) (used (fun x => x.chains) zero) (used (fun x => x.chains) rest) n (cls == 0)
    && resourceFits 3584 (s.reserveRegs h) (used (fun x => x.chains * x.vregs) zero)
        (used (fun x => x.chains * x.vregs) rest) (n * vregs) (cls == 0)
    && resourceFits (2 ^ 20) (s.reserveLs h) (used (fun x => x.lsSize) zero) (used (fun x => x.lsSize) rest) ls (cls == 0)

/-- A core of the hide takes groups now: active, sound, on a furlong that is on and not leaving (R22, R377, R510). -/
def State.coreTakes (s : State) (h core : Nat) : Bool :=
  s.coreHide core == some h && s.coreActive core && !(s.core core).suspect && !(s.core core).failed
    && !(s.moves.any (fun m => m.f == core / 17 && m.step == 1)) && s.engineOpen h

/-- The lowest n free chain slots of a core (log 8). -/
def State.freeSlots (s : State) (core n : Nat) : List Nat :=
  let used := (s.groupsOn core).flatMap (fun x => x.slots)
  ((List.range 64).filter (fun i => !used.contains i)).take n

/-- The lowest base at which an allocation meets no other one of the core (R169, R170; log 8). -/
def State.freeLs (s : State) (core len : Nat) : Nat :=
  let gs := s.groupsOn core
  let free := fun a => gs.all (fun x => decide (x.lsBase + x.lsSize ≤ a) || decide (a + len ≤ x.lsBase) || x.lsSize == 0)
  match minList ((0 :: gs.map (fun x => x.lsBase + x.lsSize)).filter free) with
  | some a => a
  | none => 0

/-! ## The end of chains and groups (R153, R184, R231) -/

/-- The chains of a group that have not ended. -/
def State.liveChains (s : State) (x : Group) : List (Nat × Nat) :=
  match x.core with
  | some i => x.slots.filterMap (fun j => (s.chain? i j).map (fun c => (j, c.inGroup)))
  | none => []

/-- A pending barrier completes once every chain that has not ended has arrived; a chain that waits with another
identifier then counts towards a barrier of its own (R231). -/
def State.checkBarrier (s : State) (cid g : Nat) : Nat → State
  | 0 => s
  | n + 1 =>
    match s.group? cid g with
    | none => s
    | some x =>
      match x.core, x.barId with
      | some i, some _ =>
        let live := s.liveChains x
        if live.all (fun p => x.arrived.contains p.2) then
          let s1 := (live.filter (fun p => x.arrived.contains p.2)).foldl (fun t p =>
            t.updChain i p.1 (fun c => { c with st := .ready })) s
          let rest := live.filterMap (fun p => match s1.chain? i p.1 with
            | some c => (match c.st with | .atBarrier b => some (b, p.2) | _ => none)
            | none => none)
          match rest with
          | [] => s1.updGroup cid g (fun y => { y with barId := none, arrived := [] })
          | (b, _) :: _ =>
            State.checkBarrier (s1.updGroup cid g (fun y => { y with
              barId := some b, arrived := (rest.filter (fun p => p.1 == b)).map (fun p => p.2) })) cid g n
        else s
      | _, _ => s

/-- A group has ended; the command's work is done with its last group (R153). -/
def State.endGroup (s : State) (cid g : Nat) : State :=
  let s1 := (s.dropGroup cid g).updCmd cid (fun c => { c with doneGroups := c.doneGroups + 1 })
  match s1.cmd? cid with
  | some c =>
    if c.groupCount ≤ c.doneGroups then
      (if c.phase = .running then (s1.finish cid 0 none).unqueue cid c.hide else s1)
    else s1
  | none => s1

/-- A chain ends: it leaves its slot, counts no longer at barriers, and ends its group if it was the last (R184, R231). -/
def State.endChain (s : State) (core slot : Nat) : State :=
  match s.chain? core slot with
  | none => s
  | some c =>
    let s1 := ((s.dropChainWaiters core slot).leaveMxq core slot).updCore core (fun k => { k with
      chains := terase k.chains slot })
    match s1.group? c.cid c.group with
    | none => s1
    | some x => if (s1.liveChains x).isEmpty then s1.endGroup c.cid c.group else s1.checkBarrier c.cid c.group 64

/-! ## Placement (R154, R165, R385) -/

/-- u0 to u15 hold the 128-byte argument block (R165). -/
def argRegs (arg : Nat) : Tbl W64 := (List.range 16).map (fun i => (i, BitVec.ofNat 64 (arg / 2 ^ (64 * i))))

/-- Threads of a chain at or beyond the command's thread count (R165). -/
def exitedMask (threads chain : Nat) : W32 :=
  (List.range 32).foldl (fun m t => if threads ≤ 32 * chain + t then m ||| (1#32 <<< t) else m) 0

/-- A chain as it starts (R165). -/
def freshChain (c : Cmd) (g k : Nat) : Chain :=
  let m := exitedMask c.threads (g * c.groupSize + k)
  { cid := c.cid, group := g, inGroup := k, vregs := c.vregs, u := argRegs c.arg, pc := c.entry, active := ~~~m, exited := m }

/-- Put the chains of a group into slots of a core. -/
def State.putChains (s : State) (core : Nat) (cs : List (Nat × Chain)) : State :=
  s.updCore core (fun k => { k with chains := cs.foldl (fun t p => tset t p.1 p.2) k.chains })

/-- Clear a new local-store allocation (R170). -/
def lsClear (t : Tbl Byte) (a len : Nat) : Tbl Byte := t.filter (fun e => decide (e.1 < a) || decide (a + len ≤ e.1))

/-- Place the next group of a command on a core (R154, R165, R170). -/
def State.placeGroup (s : State) (c : Cmd) (core : Nat) : State :=
  let g := c.nextGroup
  let n := c.chainsIn g
  let slots := s.freeSlots core n
  let base := s.freeLs core c.lsSize
  let x : Group := { cid := c.cid, g := g, ctx := c.ctx, cls := c.cls, core := some core, slots := slots, lsBase := base,
                     lsSize := c.lsSize, spill := c.spillDepth, vregs := c.vregs, chains := n, since := s.btime.toNat }
  let cs := slots.mapIdx (fun k j => (j, freshChain c g k))
  let s1 : State := { s with groups := s.groups ++ [x] }
  let s2 := (s1.updCore core (fun k => { k with ls := lsClear k.ls base c.lsSize })).putChains core cs
  let s3 := s2.updCmd c.cid (fun k => { k with nextGroup := g + 1 })
  let s4 := if c.groupCount ≤ g + 1 then s3.updHide c.hide (fun h => { h with engQ := h.engQ.filter (fun i => i != c.cid) })
            else s3
  let s5 := if g = 0 then (s4.progress c.cid).retime else s4
  (cs.filter (fun p => p.2.active == 0)).foldl (fun t p => t.endChain core p.1) s5

/-- A kernel may place its next group now (R341, R385). -/
def State.kernelOpen (s : State) (c : Cmd) : Bool :=
  c.opcode == 0x30 && c.phase == .running && s.ctxOpen c.ctx && decide (c.nextGroup < c.groupCount)
    && !(s.groups.any (fun x => x.cid == c.cid && x.toReset))

/-- The next group of a command fits on a core beside some groups. -/
def State.nextFits (s : State) (c : Cmd) (gs : List Group) : Bool :=
  s.fitsBeside c.hide c.cls (c.chainsIn c.nextGroup) c.vregs c.lsSize gs

/-- An earlier kernel of the hide, class 0 ahead of the others, has a group that fits on this core (R383, R385). -/
def State.earlierFits (s : State) (c : Cmd) (core : Nat) : Bool :=
  let q := (s.hide c.hide).engQ
  let before := q.takeWhile (fun i => i != c.cid)
  q.any (fun i => match s.cmd? i with
    | some k => i != c.cid && s.kernelOpen k && s.nextFits k (s.groupsOn core)
        && (if c.cls == 0 then k.cls == 0 && before.contains i else k.cls == 0 || before.contains i)
    | none => false)

/-- Class-3 groups on a core give way to a waiting group of class 1 or 2 whose resources they hold, where their records
fit (R339, R383). -/
def State.yieldThree (s : State) (core cls : Nat) (fits : List Group → Bool) : State :=
  let gs := s.groupsOn core
  let threes := gs.filter (fun x => x.cls == 3)
  if (cls == 1 || cls == 2) && !fits gs && fits (gs.filter (fun x => x.cls != 3)) then
    (threes.filter (fun x => s.recordFits x)).foldl (fun t x => t.preempt x.cid x.g false) s
  else s

/-- Try to place the next group of a command on a core. -/
def State.tryPlace (s : State) (c : Cmd) (core : Nat) : State :=
  if !(s.kernelOpen c && s.coreTakes c.hide core) then s
  else if !s.furlongOn (core / 17) then s.wakeFurlong (core / 17)
  else if !s.nextFits c (s.groupsOn core) then s.yieldThree core c.cls (s.nextFits c)
  else if s.earlierFits c core then s
  else s.placeGroup c core

/-! ## Saving and resuming (R190, R198 to R202, R237, R339) -/

/-- The save of a group ends: its record is written and it leaves its core; a group whose record has come not to fit runs
on, stops with its fenced context, or is saved for its hide's reset (R198, R339). A group whose command has stopped is not
saved (R197). -/
def State.finishSave (s : State) (cid g : Nat) : State :=
  match s.group? cid g with
  | none => s
  | some x =>
    if !x.saving || !s.groupQuiet x || !((s.cmd? cid).any (fun c => c.phase == .running)) then s
    else if x.toReset || s.recordFits x then s.saveGroup cid g
    else if (s.hide (s.ctx x.ctx).hide).recovery then
      (s.updGroup cid g (fun y => { y with toReset := true })).saveGroup cid g
    else if (s.ctx x.ctx).fenced then s.failCmd cid 0x11 (some recoveryErr)
    else
      let s1 := match x.core with
        | some i => x.slots.foldl (fun (t : State) j => t.updChain i j (fun c => { c with halted := false })) s
        | none => s
      s1.updGroup cid g (fun y => { y with saving := false })

/-- Where an object identifier leads for a chain: a local store and address there, or a physical address (R167, R169,
R232). -/
def State.objAt (s : State) (core : Nat) (base : Nat) (k : Option Cmd) (id : W64) : Option Nat × Nat :=
  let v := id.toNat
  if nbit v 44 then
    (none, match k with
      | some c => if core < 272 then (pieceAddr c.pieces (nbits v 43 40) (nbits v 39 0)).getD 0 else s.localPa (nbits v 39 0)
      | none => s.localPa (nbits v 39 0))
  else (some core, base + nbits v 39 0)

/-- The target hide of a chain's buffer slot at another node (R362). -/
def State.slotHide (s : State) (cid b off : Nat) : Nat :=
  match s.cmd? cid with
  | some k => ((k.pieces.find? (fun p => p.ext == b && decide (p.off ≤ off) && decide (off < p.off + p.len))).map
      (fun p => p.hide)).getD 0
  | none => 0

/-- A chain waits again at an object of another node: a barrier wait's registration has stood, a counting wait registers
anew (R237). -/
def State.rewaitRemote (s : State) (core slot : Nat) (c : Chain) (pa kind : Nat) : State :=
  let mine := fun (r : RReq) => r.saved && r.cid == c.cid && r.part == (c.group, c.inGroup)
  if s.fab.reqs.any mine then
    { s with fab := { s.fab with reqs := s.fab.reqs.map (fun r =>
        if mine r then { r with saved := false, core := some (core, slot, 0) } else r) } }
  else
    let m : LMsg := { kind := 7, dst := BitVec.ofNat 14 (paNode pa), aux := BitVec.ofNat 8 kind,
                      hide := BitVec.ofNat 4 (s.slotHide c.cid (nbits c.waitId.toNat 43 40) (nbits c.waitId.toNat 39 0)),
                      addr := BitVec.ofNat 40 (paOff pa) }
    s.sendReqOf m (some (core, slot, 0)) none c.cid (match s.cmd? c.cid with | some k => k.ctx | none => 0xFFFF)
      (c.group, c.inGroup) ((c.pc + 2 ^ 30 - 1) % 2 ^ 30) c.active

/-- A waiting chain registers again at the tail: a barrier wait ends at once where PHASE differs, a counting wait tries
again to take one unit, at the home that it owns the line of (R229, R237). -/
def State.rewait (s : State) (core slot : Nat) (base : Nat) (c : Chain) : State :=
  let o := s.objAt core base (s.cmd? c.cid) c.waitId
  let v := c.waitId.toNat
  let kind := nbits v 45 45
  let w : Waiter := { lsCore := o.1, addr := o.2, kind := kind, phase := nbits v 55 48, chain := some (core, slot), cid := none,
                      remote := none, ext := nbit v 46 }
  let s1 : State := { s with waiters := s.waiters ++ [w] }
  if o.1.isNone && !s.isLocal o.2 then s.rewaitRemote core slot c o.2 kind
  else if o.1.isNone && !s.lineOwn { id := gateId } (o.2 / 128) then s1.askOwn { id := gateId } (o.2 / 128)
  else if kind = 1 then s1.serveBarrier o.1 o.2 (s.waiters.length + 1)
  else s1.serveCounting o.1 o.2 (s.waiters.length + 1)

/-- A saved group may take up its place on a core (R154, R202). -/
def State.mayResume (s : State) (x : Group) (c : Cmd) (core : Nat) : Bool :=
  x.core.isNone && c.phase == .running && s.ctxOpen x.ctx && s.coreTakes c.hide core

/-- Bytes of the saved local store at their new place. -/
def lsMove (t : Tbl Byte) (img : Tbl Byte) (base : Nat) : Tbl Byte :=
  img.foldl (fun a e => tset a (base + e.1) e.2) t

/-- The matrix state that a resumed group brings takes the core's unit where it is free; else it waits for it (R190). -/
def State.returnMx (s : State) (core : Nat) : State :=
  if (s.core core).unit.owner.isSome then s else s.installMx core

/-- Resume a saved group on a core: a matrix-state slot is reserved first, from what its record frees (R190, R202,
R237). The core's data cache drops its lines, as an acquire that a chain made on its core before holds here too (R216). -/
def State.resumeGroup (s : State) (x : Group) (c : Cmd) (core : Nat) : State :=
  let slots := s.freeSlots core x.chains
  let base := s.freeLs core x.lsSize
  let cs := (x.savedChains.zip slots).map (fun p => (p.2, p.1))
  let s1 := s.updGroup x.cid x.g (fun y => { y with
    core := some core, slots := slots, lsBase := base, since := s.btime.toNat, saving := false, toReset := false,
    savedChains := [], savedLs := [], recAt := 0, recLen := 0 })
  let s2 := if x.toReset then s1.updHide c.hide (fun h => { h with resetSave := h.resetSave - x.recLen }) else s1
  let s3 := if x.savedMx.isSome then
      (s2.updGroup x.cid x.g (fun y => { y with mxSlot := some ((s2.freeSlot x.ctx).getD x.recAt) })).returnMx core
    else s2
  let s4 := (s3.updCore core (fun k => { k with
    ls := lsMove (lsClear k.ls base x.lsSize) x.savedLs base,
    mxq := k.mxq ++ (cs.filter (fun p => p.2.st == .mxWait)).map (fun p => p.1) })).putChains core cs |>.invalidateDcache core
  let s5 := (cs.filter (fun p => p.2.st == .eventWait)).foldl (fun t p => t.rewait core p.1 base p.2) s4
  ((s5.wakeMx core).progress x.cid).retime

/-- Try to resume a saved group on a core. -/
def State.tryResume (s : State) (cid g core : Nat) : State :=
  match s.group? cid g, s.cmd? cid with
  | some x, some c =>
    let fits := fun gs => s.fitsBeside c.hide x.cls x.chains x.vregs x.lsSize gs
    if !s.mayResume x c core then s
    else if !s.furlongOn (core / 17) then s.wakeFurlong (core / 17)
    else if fits (s.groupsOn core) then s.resumeGroup x c core
    else s.yieldThree core x.cls fits
  | _, _ => s

/-! ## The commands -/

/-- KERNEL: a dispatched core kernel starts; its groups are placed from then on, in issue order (R153, R385). -/
def execKernel (cid : Nat) (s : State) : Host.Outcome State Fault Refusal :=
  .next (match s.onRow cid 0x30 with
    | some c =>
      if s.engineOpen c.hide && s.ctxOpen c.ctx then
        (s.updCmd cid (fun k => { k with phase := .running, nextGroup := 0, doneGroups := 0 })).retime
      else s
    | none => s)

/-- GROUP_PLACEMENT: the engine places the next group of a command on a core (R154 to R156, R165, R385). -/
def execGroupPlacement (cid : Nat) (core : Fin 272) (s : State) : Host.Outcome State Fault Refusal :=
  .next (match s.cmd? cid with
    | some c => s.tryPlace c core.val
    | none => s)

/-- GROUP_SAVE_COMPLETE: a pre-empted group's issued instructions have completed, and its state goes into the save area
(R198, R199). -/
def execGroupSaveComplete (cid g : Nat) (s : State) : Host.Outcome State Fault Refusal := .next (s.finishSave cid g)

/-- GROUP_RESUME: a saved group resumes on a core of its hide (R202, R237). -/
def execGroupResume (cid g : Nat) (core : Fin 272) (s : State) : Host.Outcome State Fault Refusal :=
  .next (s.tryResume cid g core.val)

end Sys2Proof.Machine
end

