-- ==== Sys2Proof/Machine/Operands.lean ====
section
/-! DEFINITION. The operand forms of the Riku ISA: registers, predicates, lanes, packed elements, addresses, and the issue
and retirement of an instruction (R157, R162 to R170, R173 to R177, R193 to R197, R203). -/

namespace Sys2Proof.Machine

/-! ## Predicates and lanes (R163, R173, R176) -/

/-- The predicate of an instruction (R173). -/
def Chain.predOf (c : Chain) (pred : Fin 8) (neg : Bool) : W32 := if neg then ~~~(c.preg pred.val) else c.preg pred.val
/-- Threads that execute a V3, VI or MEM instruction (R176). -/
def Chain.lanesOf (c : Chain) (pred : Fin 8) (neg : Bool) : W32 := c.active &&& c.predOf pred neg
/-- Lanes of a mask, ascending. -/
def lanes (m : W32) : List Nat := (List.range 32).filter (fun t => m.getLsbD t)

/-- Change lanes one by one. -/
def Chain.eachLane (c : Chain) (m : W32) (f : Chain → Nat → Chain) : Chain := (lanes m).foldl f c

/-! ## Issue (R157, R162, R193 to R197) -/

/-- Status of a command for a cause (R194). -/
def causeStatus (c : Nat) : Nat :=
  match c with
  | 0x07 => 0x12
  | 0x08 => 0x12
  | 0x09 => 0x13
  | 0x0A => 0x10
  | 0x0B => 0x15
  | 0x0C => 0x17
  | 0x0D => 0x11
  | 0x0E => 0x11
  | 0x0F => 0x19
  | _ => 0x14

/-- A core index of a control core (R203). -/
def isControl (core : Nat) : Bool := decide (272 ≤ core)

/-- A further exception of a command whose status is decided only counts, in MORE, which sticks (R196, R197, R472). -/
def Cmd.oneMore (c : Cmd) : Cmd :=
  { c with more := stickAdd 32 c.more 1,
           err := c.err.map (fun e => if e.typ = 1 then
             { e with body := setBits e.body 159 128 (stickAdd 32 c.more 1) } else e) }

/-- A command takes an exception, which decides its status where nothing has (R195 to R197): it stops; one whose chains have
all ended, but not all its accesses, ends with the exception's status instead (R43). -/
def State.takeExc (s : State) (cid : Nat) (st : Nat) (err : ErrInfo) : State :=
  match s.cmd? cid with
  | none => s
  | some c =>
    if c.phase = .ended ∧ c.status.getD 0 = 0 then
      s.updCmd cid (fun k => { k with status := some st, err := some err })
    else if c.phase = .ended ∨ c.phase = .stopping then s.updCmd cid Cmd.oneMore
    else (s.failCmd cid st (some err)).retime

/-- An exception is taken at an instruction: on a compute core the command stops with the cause's status (R195 to R197); on
a control core the chain stops and an Event Gatherer source fires, which one the manual leaves open (R203; log 4). -/
def State.raiseAt (s : State) (core slot cid pc : Nat) (e : Exc) : State :=
  if isControl core then ((s.freshNext).latch (s.freshVal 10).toNat).updChain core slot (fun k => { k with halted := true })
  else (s.latchIn (core / 17)).takeExc cid (causeStatus e.cause) (excErr e core slot pc)

/-- An exception of the instruction that a chain stands at. -/
def State.raise (s : State) (core slot : Nat) (e : Exc) : State :=
  match s.chain? core slot with
  | none => s
  | some c => s.raiseAt core slot c.cid c.pc e

/-- Lanes of a load as a mask. -/
def Load.mask (l : Load) : W32 := l.lanes.foldl (fun m x => m ||| (1#32 <<< (x.1 % 32))) 0

/-- A load or atomic of a chain is answered with an error: the chain goes back to before it, and the exception is its own
(R193, R194). A prefetch raises nothing. -/
def State.loadExc (s : State) (core slot idx cause : Nat) : State :=
  match (s.chain? core slot).bind (fun c => c.loads.find? (fun l => l.idx == idx)) with
  | none => s
  | some l =>
    if l.pref then s.updChain core slot (fun c => { c with loads := c.loads.filter (fun x => x.idx != idx) })
    else (s.updChain core slot (fun c => c.undo l)).raise core slot { cause := cause, lanes := l.mask }

/-- MEM_ERR of a load or atomic (R194). -/
def State.loadErr (s : State) (core slot idx : Nat) : State := s.loadExc core slot idx 0x0D

/-- The command of a chain. -/
def State.chainCmd (s : State) (c : Chain) : Option Cmd := s.cmd? c.cid

/-- v registers with a load outstanding (R162). -/
def Chain.pendingV (c : Chain) : List Nat :=
  c.loads.flatMap (fun l => match l.vd with
    | some v => (List.range (max 1 (2 ^ l.size / 4))).map (fun i => v + i)
    | none => [])
/-- u registers with a load outstanding (R162). -/
def Chain.pendingU (c : Chain) : List Nat := c.loads.filterMap (fun l => if l.vd.isSome then none else some l.ud)

/-- The scoreboard releases an instruction: none of its registers awaits a load (R162). -/
def Chain.free (c : Chain) (vs us : List Nat) : Bool :=
  !(vs.any (fun v => v != 0xFF && c.pendingV.contains v)) && !(us.any (fun u => c.pendingU.contains (u % 64)))

/-- The chain can issue: it is ready, not being saved, and its command runs in an open context (R158, R198, R203). -/
def State.mayIssue (s : State) (core : Nat) (c : Chain) : Bool :=
  c.st == .ready && !c.halted
    && (if isControl core then s.pow.fwUp
        else match s.chainCmd c with
          | some k => k.phase == .running && s.ctxOpen k.ctx && s.engineOpen k.hide
          | none => false)

/-- The program counter lies in the command's code extent (R194 FETCH); a control core has no extent (R203). -/
def State.pcOk (s : State) (core : Nat) (c : Chain) : Bool :=
  isControl core || (match s.chainCmd c with | some k => decide (c.pc < k.codeLen / 8) | none => false)

/-- What an instruction does with its chain. Where an earlier load or atomic may still raise an exception, an effect that could
not be taken back waits for it, so that exceptions are precise (R193; log 14). -/
inductive Act
  /-- it retires: the chain after it -/
  | done (c : Chain)
  /-- it retires with an effect on the rest of the state as well -/
  | with_ (c : Chain) (f : State → State)
  /-- it retires, and sends requests that an exception of an earlier instruction may leave as they are -/
  | asks (c : Chain) (f : State → State)
  /-- an exception -/
  | exc (e : Exc)
  /-- it does not retire: the chain takes up a wait (R190) -/
  | hold (c : Chain) (f : State → State)
  /-- it does not issue now, and has a home asked for what it needs (R229) -/
  | request (f : State → State)
  /-- it does not issue now -/
  | wait

/-- The index of the next instruction, of 30 bits (R165, R200). -/
def nextPc (c : Chain) : Chain := { c with pc := (c.pc + 1) % 2 ^ 30 }

/-- A retirement is progress of the chain's command (R457). -/
def State.retired (s : State) (c : Chain) : State := if (s.chainCmd c).isSome then s.progress c.cid else s

/-- A chain's instruction acts. -/
def State.act (s : State) (core slot : Nat) (c : Chain) : Act → State
  | .done k => (s.updChain core slot (fun _ => k)).retired c
  | .with_ k g => if c.settled then g ((s.updChain core slot (fun _ => k)).retired c) else s
  | .asks k g => g ((s.updChain core slot (fun _ => k)).retired c)
  | .exc e => if c.settled then s.raise core slot e else s
  | .hold k g => g (s.updChain core slot (fun _ => k))
  | .request g => g s
  | .wait => s

/-- The core's instruction cache takes the line of an instruction, tagged with its context: 128 sets of four, the oldest of
a set gives way (R171). Where a control core's instructions lie the manual does not say. -/
def State.fillCode (s : State) (core : Nat) (c : Chain) : State :=
  match s.chainCmd c with
  | none => s
  | some k =>
    match pieceAddr k.pieces 16 (8 * c.pc) with
    | none => s
    | some pa =>
      let e := (k.ctx, pa / 128)
      if isControl core || (s.core core).icache.contains e then s
      else
        s.updCore core (fun x =>
          let same := x.icache.filter (fun y => y.2 % 128 == pa / 128 % 128)
          { x with icache := e :: (if same.length < 4 then x.icache
                                   else x.icache.filter (fun y => some y != same.getLast?)) })

/-- Issue an instruction of a chain: FETCH outside the code extent, the scoreboard, and then its action (R162, R193,
R194). -/
def State.issue (s : State) (r : ChainRef) (vs us : List Nat) (f : Chain → Act) : State :=
  match s.chain? r.core.val r.slot.val with
  | none => s
  | some c =>
    if !s.mayIssue r.core.val c then s
    else if !s.pcOk r.core.val c then s.act r.core.val r.slot.val c (.exc { cause := 7, lanes := c.active })
    else if !c.free vs us then s
    else (s.fillCode r.core.val c).act r.core.val r.slot.val c (f c)

/-- A v register at or above VREGS is named (R164). -/
def Chain.outOfRange (c : Chain) (vs : List Nat) : Bool := vs.any (fun v => v != 0xFF && decide (c.vregs ≤ v))

/-- The first applicable exception of a list of conditions. -/
def firstExc (m : W32) : List (Bool × Nat) → Option Exc
  | [] => none
  | (b, cause) :: r => if b then some { cause := cause, lanes := m } else firstExc m r

/-- A V3 or VI instruction: no lane, no effect (R176); the encoding's checks, then REG_RANGE, then the action. -/
def State.vector (s : State) (r : ChainRef) (pred : Fin 8) (neg : Bool) (illegal : Bool) (vs us : List Nat)
    (f : Chain → W32 → Chain) : State :=
  s.issue r vs us (fun c =>
    let m := c.lanesOf pred neg
    if m = 0 then .done (nextPc c)
    else
      match firstExc m [(illegal, 1), (c.outOfRange vs, 2)] with
      | some e => .exc e
      | none => .done (nextPc (f c m)))

/-- The predicate over the active threads: all true, all false, or mixed (R177). -/
def Chain.uniform (c : Chain) (pred : Fin 8) (neg : Bool) : Option Bool :=
  let m := c.lanesOf pred neg
  if m = c.active then some true else if m = 0 then some false else none

/-- A BR, U, MX or SYS instruction acts for the chain as a whole (R177). -/
def State.whole (s : State) (r : ChainRef) (pred : Fin 8) (neg : Bool) (vs us : List Nat) (f : Chain → Act) : State :=
  s.issue r vs us (fun c =>
    match c.uniform pred neg with
    | none => .exc { cause := 3, lanes := c.active }
    | some false => .done (nextPc c)
    | some true => f c)

/-! ## Ordering (R213 to R218) -/

/-- The scope of a physical address: block on this node's device memory, system elsewhere (R214). -/
def State.paScope (s : State) (pa : Nat) : Nat := if s.isLocal pa then 2 else 3

/-- An acquire at block or system scope drops the lines of the core's data cache (R216). -/
def State.acquired (s : State) (core scope : Nat) : State := if 2 ≤ scope then s.invalidateDcache core else s

/-! ## V3 operands (R174) -/

/-- Operand VB, or the low 32 bits of u[USEL] under UB (R174). -/
def Chain.opB (c : Chain) (i : V3) (t : Nat) : W32 :=
  if i.ub then (c.ureg i.usel.toNat).setWidth 32 else c.vreg i.vb.toNat t

/-- v registers that a V3 instruction names; VB is not named under UB. -/
def v3Regs (i : V3) (a b c d : Bool) : List Nat :=
  (if a then [i.va.toNat] else []) ++ (if b && !i.ub then [i.vb.toNat] else []) ++ (if c then [i.vc.toNat] else [])
    ++ (if d then [i.vd.toNat] else [])

/-- u registers that a V3 instruction reads as an operand. -/
def v3Uregs (i : V3) : List Nat := if i.ub then [i.usel.toNat] else []

/-- A reserved TYPE or ROUND (R174, R175). -/
def v3Reserved (i : V3) : Bool := decide (8 ≤ i.ty.toNat) || i.round == 3

/-- Element width of a TYPE (R174). -/
def typeWidth (ty : Nat) : Nat :=
  match ty with
  | 3 => 16
  | 4 => 16
  | 5 => 16
  | 6 => 8
  | 7 => 8
  | _ => 32

/-- An integer TYPE. -/
def typeInt (ty : Nat) : Bool := ty == 0 || ty == 1 || ty == 5 || ty == 6 || ty == 7
/-- A signed integer TYPE. -/
def typeSigned (ty : Nat) : Bool := ty == 0 || ty == 5 || ty == 6
/-- The floating-point format of a TYPE. -/
def typeFloat (ty : Nat) : Option FFmt :=
  match ty with
  | 2 => some fF32
  | 3 => some fF16
  | 4 => some fBF16
  | _ => none

/-- Element e of a lane, of w bits. -/
def elemOf (w : Nat) (x : W32) (e : Nat) : Nat := x.toNat / 2 ^ (w * e) % 2 ^ w

/-- A lane put together from its elements of w bits. -/
def joinElems (w : Nat) : List Nat → Nat
  | [] => 0
  | a :: r => a % 2 ^ w + 2 ^ w * joinElems w r

/-- Apply an operation to every element of a TYPE. -/
def perElem (ty : Nat) (f : Nat → Nat → Nat → Nat) (a b c : W32) : W32 :=
  let w := typeWidth ty
  BitVec.ofNat 32 (joinElems w ((List.range (32 / w)).map (fun e => f (elemOf w a e) (elemOf w b e) (elemOf w c e))))

/-- The value of an element of an integer TYPE. -/
def elemInt (ty v : Nat) : Int := if typeSigned ty then toSigned (typeWidth ty) v else (v : Int)

/-- Bring an integer into the range of an integer TYPE. -/
def clampElem (ty : Nat) (x : Int) : Int :=
  let w := typeWidth ty
  let lo : Int := if typeSigned ty then -(2 ^ (w - 1) : Nat) else 0
  let hi : Int := if typeSigned ty then (2 ^ (w - 1) - 1 : Nat) else (2 ^ w - 1 : Nat)
  if x < lo then lo else if hi < x then hi else x

/-- The value that the manual does not state for operands of a TYPE that the operation does not name (log 11). -/
def unstatedLane (op ty : Nat) (a b c : W32) : W32 := Config.unstated 32 (op * 16 + ty) a.toNat b.toNat c.toNat

/-- A three-operand lane operation of a V3 instruction. -/
def State.v3 (s : State) (r : ChainRef) (i : V3) (useC readD : Bool) (illegal : Bool) (f : W32 → W32 → W32 → W32 → W32) :
    State :=
  s.vector r i.pred i.pneg (v3Reserved i || illegal) (v3Regs i true true useC true) (v3Uregs i) (fun c m =>
    c.eachLane m (fun k t =>
      k.setV i.vd.toNat t (f (c.vreg i.va.toNat t) (c.opB i t) (if useC then c.vreg i.vc.toNat t else 0)
        (if readD then c.vreg i.vd.toNat t else 0))))

/-! ## MEM operands (R167 to R170, R203) -/

/-- Sign-extend a 16-bit immediate. -/
def sext16 (x : BitVec 16) : W64 := x.signExtend 64

/-- Offset or address of a lane: u[UBASE] + zero-extended v[VOFF] + sign-extended IMM16, modulo 2^64 (R167, R169). -/
def Chain.memAddr (c : Chain) (i : MemI) (t : Nat) : Nat :=
  (c.ureg i.ubase.toNat + (c.vreg i.voff.toNat t).setWidth 64 + sext16 i.imm).toNat

/-- Bytes of an access (R174). -/
def memBytes (i : MemI) : Nat := 2 ^ i.size.toNat

/-- v registers from VDS that an access of a size uses (R174). -/
def dataRegs (v bytes : Nat) : List Nat :=
  if v = 0xFF then [0xFF] else (List.range (max 1 (bytes / 4))).map (fun k => v + k)

/-- The bytes that a lane stores: its registers from VDS on. -/
def Chain.storeBytes (c : Chain) (v t bytes : Nat) : List Byte :=
  ((dataRegs v bytes).flatMap (fun n => leBytes 4 (c.vreg n t).toNat) ++ List.replicate 16 0).take bytes

/-- Usable local-store bytes of a group (R170); the whole store on a control core (R203). -/
def State.lsUse (s : State) (core : Nat) (c : Chain) : Nat :=
  if isControl core then 2 ^ 20
  else match s.group? c.cid c.group with
    | some g => g.lsSize - g.chains * g.spill * 8
    | none => 0

/-- Base of a group's local-store allocation (R169). -/
def State.lsBaseOf (s : State) (core : Nat) (c : Chain) : Nat :=
  if isControl core then 0 else match s.group? c.cid c.group with | some g => g.lsBase | none => 0

/-- Lanes of a mask for which a test holds. -/
def lanesWhere (m : W32) (f : Nat → Bool) : W32 :=
  (lanes m).foldl (fun a t => if f t then a ||| (1#32 <<< t) else a) 0

/-- The exception of a local access, if any: ALIGN, then LS_RANGE (R168, R169, R194). -/
def State.localExc (s : State) (core : Nat) (c : Chain) (m : W32) (addr : Nat → Nat) (bytes : Nat) : Option Exc :=
  let bad := lanesWhere m (fun t => addr t % bytes != 0)
  let out := lanesWhere m (fun t => decide (s.lsUse core c < addr t + bytes))
  if bad ≠ 0 then some { cause := 5, lanes := bad } else if out ≠ 0 then some { cause := 6, lanes := out } else none

/-- The exception of a global access through a buffer slot: ALIGN, BOUNDS, PERM (R167, R168, R194). A control core uses
physical addresses (R203). -/
def State.globalExc (s : State) (core : Nat) (c : Chain) (b : Nat) (m : W32) (addr : Nat → Nat) (bytes : Nat)
    (write : Bool) : Option Exc :=
  let tab := match s.chainCmd c with | some k => k.buftab | none => 0
  let base := if isControl core then 0 else bufBase tab b
  let bad := lanesWhere m (fun t => (base + addr t) % bytes != 0)
  let out := if isControl core then 0
    else lanesWhere m (fun t => !bufBound tab b || decide (bufLen tab b < addr t + bytes))
  let ro := if isControl core || !write || !bufRo tab b then 0 else m
  if bad ≠ 0 then some { cause := 5, lanes := bad }
  else if out ≠ 0 then some { cause := 8, lanes := out }
  else if ro ≠ 0 then some { cause := 9, lanes := ro } else none

/-- Physical address of a byte of a buffer slot; on a control core the address itself, of 56 bits (R167, R203). -/
def State.globalPa (s : State) (core : Nat) (c : Chain) (b off : Nat) : Nat :=
  if isControl core then off % 2 ^ 56
  else match s.chainCmd c with
    | some k => (pieceAddr k.pieces b off).getD 0
    | none => 0

end Sys2Proof.Machine
end

