-- ==== Sys2Proof/Machine/Flags.lean ====
section
/-! DEFINITION. The conditions that cmp and ucmp compute into predicate registers; the Riku ISA has no other flags
(R178, R179). -/

namespace Sys2Proof.Machine

/-- A condition code on an ordering of two values: eq, ne, lt, le, gt, ge, unordered, ordered (R178). -/
def condHolds (cc : Nat) (lt eq unord : Bool) : Bool :=
  match cc with
  | 0 => eq && !unord
  | 1 => !eq || unord
  | 2 => lt && !unord
  | 3 => (lt || eq) && !unord
  | 4 => !lt && !eq && !unord
  | 5 => !lt && !unord
  | 6 => unord
  | _ => !unord

/-- cmp of one lane by TYPE: integers and F32 (R178, R179); for a packed TYPE the manual states no result (log 11). -/
def cmpLane (cc ty : Nat) (a b : W32) : Bool :=
  if ty = 2 then
    let x := decodeFloat fF32 a.toNat
    let y := decodeFloat fF32 b.toNat
    condHolds cc (x.lt y) (x.eq y) (x == .nan || y == .nan)
  else if ty = 0 ∨ ty = 1 then
    condHolds cc (decide (elemInt ty a.toNat < elemInt ty b.toNat)) (a == b) false
  else Config.unstated 1 (0x300 + ty) a.toNat b.toNat cc == 1#1

/-- ucmp: where the top bits differ the manual does not say whether the order is signed (log 11). -/
def ucmpHolds (cc : Nat) (a b : W64) : Bool :=
  if cc = 0 ∨ cc = 1 ∨ 6 ≤ cc ∨ a.getLsbD 63 = b.getLsbD 63 then
    condHolds cc (decide (a.toNat < b.toNat)) (a == b) false
  else condHolds cc (Config.unstated 1 0x409 a.toNat b.toNat 0 == 1#1) false false

end Sys2Proof.Machine
end

