-- ==== Sys2Proof/Machine/RikuAlu.lean ====
section
/-! DEFINITION. The V3 and VI instructions of the Riku ISA (R178 to R182). -/

namespace Sys2Proof.Machine

/-! ## Lane operations -/

/-- An operation on each element of an integer TYPE; with a floating-point TYPE the result is not stated (log 11). -/
def intLane (op ty : Nat) (f : Nat → Nat → Nat → Nat) (a b c : W32) : W32 :=
  if typeInt ty then perElem ty f a b c else unstatedLane op ty a b c

/-- An operation on each element of a floating-point TYPE; with an integer TYPE the result is not stated (log 11). -/
def floatLane (op ty : Nat) (f : FFmt → Nat → Nat → Nat → Nat) (a b c : W32) : W32 :=
  match typeFloat ty with
  | some ff => perElem ty (f ff) a b c
  | none => unstatedLane op ty a b c

/-- iadd and isub of an element: it wraps unless SAT (R178). -/
def addElem (ty : Nat) (sub sat : Bool) (a b _c : Nat) : Nat :=
  let x := if sub then elemInt ty a - elemInt ty b else elemInt ty a + elemInt ty b
  ofSigned (typeWidth ty) (if sat then clampElem ty x else x)

/-- imul and imulh of an element: the low or the high half of the product. -/
def mulElem (ty : Nat) (high : Bool) (a b _c : Nat) : Nat :=
  let x := elemInt ty a * elemInt ty b
  ofSigned (typeWidth ty) (if high then x / (2 ^ typeWidth ty : Nat) else x)

/-- imad of an element. -/
def madElem (ty a b c : Nat) : Nat := ofSigned (typeWidth ty) (elemInt ty a * elemInt ty b + elemInt ty c)

/-- imin and imax of an element. -/
def minMaxElem (ty : Nat) (max : Bool) (a b _c : Nat) : Nat :=
  if decide (elemInt ty a ≤ elemInt ty b) != max then a else b

/-- and, or, xor, andn. -/
def bitLane (op : BitOp) (a b : W32) : W32 :=
  match op with
  | .and => a &&& b
  | .or => a ||| b
  | .xor => a ^^^ b
  | .andn => a &&& ~~~b

/-- shl, shr, sar by vb[4:0] on the whole 32-bit lane, whatever the TYPE: the table of R178 names no elements for
them. DESIGN CHOICE (log 11). -/
def shiftLane (op : ShOp) (a b : W32) : W32 :=
  let n := b.toNat % 32
  match op with
  | .shl => a <<< n
  | .shr => a >>> n
  | .sar => a.sshiftRight n

/-- Leading zeros of the low n bits. -/
def clzFrom (x : W32) : Nat → Nat
  | 0 => 0
  | n + 1 => if x.getLsbD n then 0 else 1 + clzFrom x n

/-- popc, clz, brev on the whole 32-bit lane, whatever the TYPE. DESIGN CHOICE (log 11). -/
def countLane (op : CntOp) (a : W32) : W32 :=
  match op with
  | .popc => BitVec.ofNat 32 (lanes a).length
  | .clz => BitVec.ofNat 32 (clzFrom a 32)
  | .brev => a.reverse

/-- bfe: vc[5:0] bits at position vb[4:0] of the whole lane, whatever the TYPE, DESIGN CHOICE (log 11); TYPE I32 extends
the sign. -/
def bfeLane (ty : Nat) (a b c : W32) : W32 :=
  let n := c.toNat % 64
  let x := a >>> (b.toNat % 32)
  if 32 ≤ n then x
  else
    let m := x &&& (BitVec.ofNat 32 (2 ^ n - 1))
    if ty = 0 ∧ n ≠ 0 ∧ x.getLsbD (n - 1) then m ||| ~~~(BitVec.ofNat 32 (2 ^ n - 1)) else m

/-- bfi: the low vc[5:0] bits of va at position vb[4:0] of vd, on the whole lane, whatever the TYPE. DESIGN CHOICE
(log 11). -/
def bfiLane (a b c d : W32) : W32 :=
  let p := b.toNat % 32
  let m := BitVec.ofNat 32 (2 ^ (c.toNat % 64) - 1) <<< p
  (d &&& ~~~m) ||| ((a <<< p) &&& m)

/-- The mode of an arithmetic instruction (R179). -/
def arithRnd (i : V3) : Rnd := if i.round = 1 then .rtz else .rne

/-- fadd, fmul, ffma of an element, with one rounding (R178, R179). -/
def floatElem (op : FOp) (r : Rnd) (ff : FFmt) (a b c : Nat) : Nat :=
  match op with
  | .fadd => fAdd ff r a b
  | .fmul => fMul ff r a b
  | .ffma => fFma ff r a b c

/-- A special function of an element: the nearest value, ties to even (R180). -/
def specialElem (op : SpecFn) (ff : FFmt) (a _b _c : Nat) : Nat := roundIeee ff .rne (specialQ op (decodeFloat ff a))

/-! ## Conversions (R182) -/

/-- The mode of a conversion; under SR the seed is u[USEL], the row u[USEL+1][31:0], the column v[VC] (R182). With USEL =
63 there is no u64, and the row register is u0. DESIGN CHOICE (log 11). -/
def Chain.convRnd (c : Chain) (i : V3) (t : Nat) : Rnd :=
  if i.round = 2 then
    .sr (srDraw (c.ureg i.usel.toNat) ((c.ureg (i.usel.toNat + 1)).toNat % 2 ^ 32) (c.vreg i.vc.toNat t).toNat)
  else arithRnd i

/-- v and u registers that SR reads. -/
def srRegs (i : V3) : List Nat := if i.round = 2 then [i.vc.toNat] else []
/-- u registers that SR reads. -/
def srUregs (i : V3) : List Nat := if i.round = 2 then [i.usel.toNat, i.usel.toNat + 1] else []

/-- Round into a range of integers: NaN is 0, a value outside becomes the nearest bound (R90). -/
def roundRange (lo hi : Int) (r : Rnd) (x : FQ) : Int :=
  match x with
  | .nan => 0
  | .inf s => if s then lo else hi
  | .fin s n d e =>
    let m := if s then (-lo).toNat else hi.toNat
    let past := match r with
      | .sr _ => (let q := overUnit n d e 0; decide (m * q.2 < q.1))
      | _ => decide (m < roundInt r n d e)
    let k := if past then m else roundInt r n d e
    if s then -(k : Int) else (k : Int)

/-- The range of an integer TYPE. -/
def typeRange (ty : Nat) : Int × Int := (clampElem ty (-(2 ^ 64 : Nat)), clampElem ty (2 ^ 64 : Nat))

/-- One element from a TYPE to another (R90, R91). -/
def cvtElem (src dst : Nat) (r : Rnd) (a : Nat) : Nat :=
  let v := match typeFloat src with
    | some ff => decodeFloat ff a
    | none => FV.ofInt (elemInt src a)
  match typeFloat dst with
  | some ff => roundIeee ff r v.toQ
  | none => ofSigned (typeWidth dst) (roundRange (typeRange dst).1 (typeRange dst).2 r v.toQ)

/-- cvt of a lane: element by element; elements of the result that no source element gives are not stated (log 11). -/
def cvtLane (src dst : Nat) (r : Rnd) (a : W32) : W32 :=
  let ws := typeWidth src
  let wd := typeWidth dst
  let rest := (Config.unstated 32 (0x338 * 16 + src) a.toNat dst 0).toNat
  BitVec.ofNat 32 (joinElems wd ((List.range (32 / wd)).map (fun e =>
    if e < 32 / ws then cvtElem src dst r (elemOf ws a e) else elemOf wd (BitVec.ofNat 32 rest) e)))

/-- oscl of a lane (R92, R178). No code is stated for a TYPE or a format outside the table of R92, nor for a negative va,
as amax is a magnitude: those lanes take a free value (log 11). −0 equals the amax 0 of the table. -/
def osclLane (ty fmt : Nat) (a : W32) : W32 :=
  let am := decodeFloat fF32 a.toNat
  if !(fmtExact fmt && fmtOutput fmt) || am.lt (.fin false 0 0) then unstatedLane 0x339 ty a (BitVec.ofNat 32 fmt) 0
  else if ty = 1 then BitVec.ofNat 32 (scaleS32 fmt am)
  else if ty = 2 then BitVec.ofNat 32 (scaleS16 fmt am)
  else unstatedLane 0x339 ty a (BitVec.ofNat 32 fmt) 0

/-- The quotient that qnt rounds. -/
def qntQuot (a b : W32) : FQ := exactDiv (decodeFloat fF32 a.toNat) (decodeFloat fF32 b.toNat)

/-- qnt of a lane: va ÷ vb rounded once into a format (R89, R90, R182). Where quantiseB1 gives no code, and for a NaN
quotient in T2, which R90 item 2 does not list, the lane takes a free value (log 11). -/
def qntLane (fmt : Nat) (r : Rnd) (a b : W32) : W32 :=
  if fmt = 0 then
    match quantiseB1 r (qntQuot a b) with
    | some c => BitVec.ofNat 32 c
    | none => unstatedLane 0x340 0 a b 0
  else if fmt = 1 ∧ qntQuot a b = .nan then unstatedLane 0x341 0 a b 0
  else BitVec.ofNat 32 (quantiseBy fmt r (decodeFloat fF32 a.toNat) (decodeFloat fF32 b.toNat)).1

/-- dq of a lane: the decoded code times vb, in F32 (R178, R182). -/
def dqLane (fmt : Nat) (r : Rnd) (a b : W32) : W32 :=
  BitVec.ofNat 32 (roundIeee fF32 r
    (exactMul (decodeFmt fmt 0 (a.toNat % 2 ^ fmtWidth fmt)) (decodeFloat fF32 b.toNat)).toQ)

/-! ## Exchange between lanes -/

/-- The lane that shfl reads: index, up, down or exclusive or (R178). -/
def shflLane (mode t n : Nat) : Option Nat :=
  let l : Option Nat := match mode with
    | 0 => some n
    | 1 => if n ≤ t then some (t - n) else none
    | 2 => some (t + n)
    | _ => some (t ^^^ n)
  l.filter (fun x => decide (x < 32))

/-- The F32 tree sum over 32 lanes, inactive ones as +0 (R181). -/
def reduF32 (c : Chain) (m : W32) (v : Nat) : Nat :=
  treeSum ((List.range 32).map (fun t => if m.getLsbD t then (c.vreg v t).toNat else 0))

/-- What a lane contributes to a reduction: an inactive one the identity (R181). -/
def reduIn (c : Chain) (m : W32) (v idn t : Nat) : Nat := if m.getLsbD t then (c.vreg v t).toNat else idn

/-- Combine the 32 lanes of a register (R178, R181). -/
def reduFold (c : Chain) (m : W32) (v idn : Nat) (f : Nat → Nat → Nat) : Nat :=
  (List.range 31).foldl (fun a t => f a (reduIn c m v idn (t + 1))) (reduIn c m v idn 0)

/-- The identity of a minimum or a maximum of a TYPE: the greatest or the least value of it, of F32 an infinity (R181). -/
def reduIdent (ty : Nat) (max : Bool) : Nat :=
  match ty with
  | 2 => if max then 0xFF800000 else 0x7F800000
  | 1 => if max then 0 else 0xFFFFFFFF
  | _ => if max then 0x80000000 else 0x7FFFFFFF

/-- redu over active lanes (R178, R181); packed types and selector 3 give no stated value (log 11). -/
def reduVal (c : Chain) (m : W32) (ty sel v : Nat) : W64 :=
  if 3 ≤ ty ∨ sel = 3 then Config.unstated 64 (0x362 * 16 + ty) m.toNat sel v
  else
    BitVec.ofNat 64 (if sel = 0 then
        (if ty = 2 then reduF32 c m v else reduFold c m v 0 (fun a b => (a + b) % 2 ^ 32))
      else if ty = 2 then reduFold c m v (reduIdent 2 (sel == 2)) (fMinMax fF32 (sel == 2))
      else reduFold c m v (reduIdent ty (sel == 2)) (fun a b => minMaxElem ty (sel == 2) a b 0))

/-! ## Instructions of the V3 form -/

/-- A V3 instruction that writes vd in each executing lane a value that the chain's registers give. -/
def State.vlane (s : State) (r : ChainRef) (i : V3) (illegal : Bool) (vs us : List Nat) (f : Chain → Nat → W32) : State :=
  s.vector r i.pred i.pneg (v3Reserved i || illegal) vs us (fun c m =>
    c.eachLane m (fun k t => k.setV i.vd.toNat t (f c t)))

/-- IADD_ISUB (R178). -/
def execIaddIsub (r : ChainRef) (sub : Bool) (i : V3) (s : State) : Host.Outcome State Fault Refusal :=
  .next (s.v3 r i false false false (fun a b c _ =>
    intLane (if sub then 1 else 0) i.ty.toNat (addElem i.ty.toNat sub i.sat) a b c))

/-- IMUL_IMULH (R178). -/
def execImulImulh (r : ChainRef) (high : Bool) (i : V3) (s : State) : Host.Outcome State Fault Refusal :=
  .next (s.v3 r i false false false (fun a b c _ =>
    intLane (if high then 3 else 2) i.ty.toNat (mulElem i.ty.toNat high) a b c))

/-- IMAD (R178). -/
def execImad (r : ChainRef) (i : V3) (s : State) : Host.Outcome State Fault Refusal :=
  .next (s.v3 r i true false false (fun a b c _ => intLane 4 i.ty.toNat (madElem i.ty.toNat) a b c))

/-- IMIN_IMAX (R178). -/
def execIminImax (r : ChainRef) (max : Bool) (i : V3) (s : State) : Host.Outcome State Fault Refusal :=
  .next (s.v3 r i false false false (fun a b c _ =>
    intLane (if max then 6 else 5) i.ty.toNat (minMaxElem i.ty.toNat max) a b c))

/-- MOV: vd = vb (R178). -/
def execMov (r : ChainRef) (i : V3) (s : State) : Host.Outcome State Fault Refusal :=
  .next (s.vlane r i false (v3Regs i false true false true) (v3Uregs i) (fun c t => c.opB i t))

/-- AND_OR_XOR_ANDN (R178). -/
def execAndOrXorAndn (r : ChainRef) (op : BitOp) (i : V3) (s : State) : Host.Outcome State Fault Refusal :=
  .next (s.v3 r i false false false (fun a b _ _ => bitLane op a b))

/-- SHL_SHR_SAR: shift by vb[4:0] (R178). -/
def execShlShrSar (r : ChainRef) (op : ShOp) (i : V3) (s : State) : Host.Outcome State Fault Refusal :=
  .next (s.v3 r i false false false (fun a b _ _ => shiftLane op a b))

/-- POPC_CLZ_BREV (R178). -/
def execPopcClzBrev (r : ChainRef) (op : CntOp) (i : V3) (s : State) : Host.Outcome State Fault Refusal :=
  .next (s.vlane r i false (v3Regs i true false false true) [] (fun c t => countLane op (c.vreg i.va.toNat t)))

/-- BFE_BFI (R178). -/
def execBfeBfi (r : ChainRef) (insert : Bool) (i : V3) (s : State) : Host.Outcome State Fault Refusal :=
  .next (s.v3 r i true true false (fun a b c d => if insert then bfiLane a b c d else bfeLane i.ty.toNat a b c))

/-- FADD_FMUL_FFMA: ROUND = SR raises ILLEGAL (R178, R179). -/
def execFaddFmulFfma (r : ChainRef) (op : FOp) (i : V3) (s : State) : Host.Outcome State Fault Refusal :=
  .next (s.v3 r i (op == .ffma) false (i.round == 2) (fun a b c _ =>
    floatLane (match op with | .fadd => 0x20 | .fmul => 0x21 | .ffma => 0x22) i.ty.toNat (floatElem op (arithRnd i)) a b c))

/-- FMIN_FMAX (R179). -/
def execFminFmax (r : ChainRef) (max : Bool) (i : V3) (s : State) : Host.Outcome State Fault Refusal :=
  .next (s.v3 r i false false (i.round == 2) (fun a b c _ =>
    floatLane (if max then 0x24 else 0x23) i.ty.toNat (fun ff x y _ => fMinMax ff max x y) a b c))

/-- SPECIAL_FUNCTION: rcp, rsq, sqrt, ex2, lg2, tanh (R180). -/
def execSpecialFunction (r : ChainRef) (op : SpecFn) (i : V3) (s : State) : Host.Outcome State Fault Refusal :=
  .next (s.vlane r i (i.round == 2) (v3Regs i true false false true) [] (fun c t =>
    floatLane (match op with | .rcp => 0x28 | .rsq => 0x29 | .sqrt => 0x2A | .ex2 => 0x2B | .lg2 => 0x2C | .tanh => 0x2D)
      i.ty.toNat (specialElem op) (c.vreg i.va.toNat t) 0 0))

/-- CMP: p[VD[2:0]] = va cc vb for the lanes that execute it; cc in VC[2:0] (R178). -/
def execCmp (r : ChainRef) (i : V3) (s : State) : Host.Outcome State Fault Refusal :=
  .next (s.vector r i.pred i.pneg (v3Reserved i) (v3Regs i true true false false) (v3Uregs i) (fun c m =>
    let hit := lanesWhere m (fun t => cmpLane (i.vc.toNat % 8) i.ty.toNat (c.vreg i.va.toNat t) (c.opB i t))
    c.setP (i.vd.toNat % 8) ((c.preg (i.vd.toNat % 8) &&& ~~~m) ||| hit)))

/-- SEL: vd = p[VC[2:0]] ? va : vb (R178). -/
def execSel (r : ChainRef) (i : V3) (s : State) : Host.Outcome State Fault Refusal :=
  .next (s.vlane r i false (v3Regs i true true false true) (v3Uregs i) (fun c t =>
    if (c.preg (i.vc.toNat % 8)).getLsbD t then c.vreg i.va.toNat t else c.opB i t))

/-- CVT: from TYPE to the type in VC[3:0] under ROUND (R182). -/
def execCvt (r : ChainRef) (i : V3) (s : State) : Host.Outcome State Fault Refusal :=
  .next (s.vlane r i (decide (8 ≤ i.vc.toNat % 16)) (v3Regs i true false false true ++ srRegs i) (srUregs i) (fun c t =>
    cvtLane i.ty.toNat (i.vc.toNat % 16) (c.convRnd i t) (c.vreg i.va.toNat t)))

/-- OSCL: output stone-scale code from amax va for format VC[4:0] (R92, R178). A format code that R53 holds back, 0x10 to
0x1F, ends the command with BAD_DESC (R10): the instruction raises ILLEGAL, whose status that is (R194; log 11). -/
def execOscl (r : ChainRef) (i : V3) (s : State) : Host.Outcome State Fault Refusal :=
  .next (s.vlane r i (decide (16 ≤ i.vc.toNat % 32)) (v3Regs i true false false true) [] (fun c t =>
    osclLane i.ty.toNat (i.vc.toNat % 32) (c.vreg i.va.toNat t)))

/-- QNT: LUT4 raises ILLEGAL (R182). -/
def execQnt (r : ChainRef) (fmt : Fin 12) (i : V3) (s : State) : Host.Outcome State Fault Refusal :=
  .next (s.vlane r i (fmt.val == 6) (v3Regs i true true false true ++ srRegs i) (v3Uregs i ++ srUregs i) (fun c t =>
    qntLane fmt.val (c.convRnd i t) (c.vreg i.va.toNat t) (c.opB i t)))

/-- DQ: LUT4 raises ILLEGAL (R182). -/
def execDq (r : ChainRef) (fmt : Fin 12) (i : V3) (s : State) : Host.Outcome State Fault Refusal :=
  .next (s.vlane r i (fmt.val == 6) (v3Regs i true true false true ++ srRegs i) (v3Uregs i ++ srUregs i) (fun c t =>
    dqLane fmt.val (c.convRnd i t) (c.vreg i.va.toNat t) (c.opB i t)))

/-- SHFL: a lane outside the chain gives no stated value (R178; log 11). -/
def execShfl (r : ChainRef) (i : V3) (s : State) : Host.Outcome State Fault Refusal :=
  .next (s.vlane r i false (v3Regs i true true false true) (v3Uregs i) (fun c t =>
    match shflLane (i.vc.toNat % 4) t (c.opB i t).toNat with
    | some l => c.vreg i.va.toNat l
    | none => Config.unstated 32 0x3600 (c.opB i t).toNat t (i.vc.toNat % 4)))

/-- VOTE: the ballot of p[VA[2:0]] over active lanes (R178). -/
def execVote (r : ChainRef) (i : V3) (s : State) : Host.Outcome State Fault Refusal :=
  .next (s.vector r i.pred i.pneg (v3Reserved i) (v3Regs i false false false true) [] (fun c m =>
    c.eachLane m (fun k t => k.setV i.vd.toNat t (c.preg (i.va.toNat % 8) &&& m))))

/-- REDU: u[USEL] = sum, minimum or maximum of va over active lanes (R178, R181). -/
def execRedu (r : ChainRef) (i : V3) (s : State) : Host.Outcome State Fault Refusal :=
  .next (s.vector r i.pred i.pneg (v3Reserved i) (v3Regs i true false false false) [i.usel.toNat] (fun c m =>
    c.setU i.usel.toNat (reduVal c m i.ty.toNat (i.vc.toNat % 4) i.va.toNat)))

/-- RDLN: u[USEL] = va of the lowest active lane (R178). -/
def execRdln (r : ChainRef) (i : V3) (s : State) : Host.Outcome State Fault Refusal :=
  .next (s.vector r i.pred i.pneg (v3Reserved i) (v3Regs i true false false false) [i.usel.toNat] (fun c m =>
    c.setU i.usel.toNat ((c.vreg i.va.toNat ((lanes m).headD 0)).setWidth 64)))

/-! ## Instructions of the VI form -/

/-- A VI operation on a lane (R178). -/
def viLane (op : ViOp) (a imm : W32) : W32 :=
  match op with
  | .iaddi => a + imm
  | .movi => imm
  | .andi => a &&& imm
  | .ori => a ||| imm
  | .xori => a ^^^ imm

/-- VI_IMMEDIATE: as V3, with operand IMM32 (R178). -/
def execViImmediate (r : ChainRef) (op : ViOp) (i : VI) (s : State) : Host.Outcome State Fault Refusal :=
  .next (s.vector r i.pred i.pneg false ((if op = .movi then [] else [i.va.toNat]) ++ [i.vd.toNat]) [] (fun c m =>
    c.eachLane m (fun k t => k.setV i.vd.toNat t (viLane op (c.vreg i.va.toNat t) i.imm))))

end Sys2Proof.Machine
end

