-- ==== Sys2Proof/Machine/RikuCtl.lean ====
section
/-! DEFINITION. The BR, U and SYS instructions of the Riku ISA: divergence, uniform arithmetic, special registers, fences,
barriers, events (R166, R178, R183 to R185, R203, R204, R213 to R222, R231 to R236). -/

namespace Sys2Proof.Machine

/-! ## Divergence (R183 to R185) -/

/-- Index at a signed 24-bit offset from the branch, of 30 bits (R165, R174). -/
def branchTo (c : Chain) (off : BitVec 24) : Nat := (((c.pc : Int) + off.toInt) % 2 ^ 30).toNat

/-- n pushes find room: at most 56 + SPILL_DEPTH entries (R185). -/
def State.stackRoom (s : State) (c : Chain) (n : Nat) : Bool :=
  decide (c.stack.length + n ≤ 56 + (match s.group? c.cid c.group with | some g => g.spill | none => 0))

/-- bra_d of R183; none where the stack overflows. -/
def State.braDiv (s : State) (c : Chain) (p : W32) (target rpc : Nat) : Option Chain :=
  let t := c.active &&& p
  let f := c.active &&& ~~~p
  let next := (c.pc + 1) % 2 ^ 30
  let k : StkEnt := { mask := c.active, pc := rpc, kind := 0 }
  if t = 0 then (if s.stackRoom c 1 then some { c with stack := k :: c.stack, pc := next } else none)
  else if f = 0 then (if s.stackRoom c 1 then some { c with stack := k :: c.stack, active := t, pc := target } else none)
  else if s.stackRoom c 2 then
    some { c with stack := { mask := f, pc := next, kind := 1 } :: k :: c.stack, active := t, pc := target }
  else none

/-- join of R183: pops entries until one has a thread left; none where it is ILLEGAL (R184). -/
def joinPop (exited : W32) : List StkEnt → Option (W32 × Nat × List StkEnt)
  | [] => none
  | e :: r =>
    if e.kind = 2 then none
    else if e.mask &&& ~~~exited = 0 then joinPop exited r
    else some (e.mask &&& ~~~exited, e.pc, r)

/-- A chain after a join. -/
def Chain.join (c : Chain) : Option Chain :=
  (joinPop c.exited c.stack).map (fun x => { c with active := x.1, pc := x.2.1, stack := x.2.2 })

/-- exit(p) of R183: the chain ends when all its threads have exited, once its loads have returned (R193). -/
def exitAct (core slot : Nat) (c : Chain) (p : W32) : Act :=
  let k := { c with exited := c.exited ||| (c.active &&& p), active := c.active &&& ~~~p }
  if k.exited = 0xFFFFFFFF then
    .with_ k (fun t => t.endChain core slot)
  else if k.active = 0 then
    match k.join with
    | some j => .done j
    | none => .exc { cause := 1, lanes := c.active }
  else .done (nextPc k)

/-- BRA: a uniform branch (R177, R183). -/
def execBra (r : ChainRef) (i : BrI) (s : State) : Host.Outcome State Fault Refusal :=
  .next (s.whole r i.pred i.pneg [] [] (fun c => .done { c with pc := branchTo c i.target }))

/-- BRA_D: a divergent branch; its predicate is its condition (R183). -/
def execBraD (r : ChainRef) (i : BrI) (s : State) : Host.Outcome State Fault Refusal :=
  .next (s.issue r [] [] (fun c =>
    match s.braDiv c (c.predOf i.pred i.pneg) (branchTo c i.target) (branchTo c i.rpc) with
    | some k => .done k
    | none => .exc { cause := 4, lanes := c.active }))

/-- JOIN (R183, R184). -/
def execJoin (r : ChainRef) (i : BrI) (s : State) : Host.Outcome State Fault Refusal :=
  .next (s.whole r i.pred i.pneg [] [] (fun c =>
    match c.join with
    | some k => .done k
    | none => .exc { cause := 1, lanes := c.active }))

/-- CALL (R183, R185). -/
def execCall (r : ChainRef) (i : BrI) (s : State) : Host.Outcome State Fault Refusal :=
  .next (s.whole r i.pred i.pneg [] [] (fun c =>
    if s.stackRoom c 1 then
      .done { c with stack := { mask := c.active, pc := (c.pc + 1) % 2 ^ 30, kind := 2 } :: c.stack,
                     pc := branchTo c i.target }
    else .exc { cause := 4, lanes := c.active }))

/-- RET: ILLEGAL unless the top entry is a call's (R183, R184). -/
def execRet (r : ChainRef) (i : BrI) (s : State) : Host.Outcome State Fault Refusal :=
  .next (s.whole r i.pred i.pneg [] [] (fun c =>
    match c.stack with
    | e :: rest =>
      if e.kind = 2 then .done { c with active := e.mask &&& ~~~c.exited, pc := e.pc, stack := rest }
      else .exc { cause := 1, lanes := c.active }
    | [] => .exc { cause := 1, lanes := c.active }))

/-- EXIT: the predicated threads exit (R178, R183). -/
def execExit (r : ChainRef) (i : BrI) (s : State) : Host.Outcome State Fault Refusal :=
  .next (s.issue r [] [] (fun c => exitAct r.core.val r.slot.val c (c.predOf i.pred i.pneg)))

/-! ## Uniform arithmetic (R178) -/

/-- The second operand: u[UB], or IMM32; what extends an IMM32 with bit 31 set the manual does not state (log 11). -/
def Chain.uB (c : Chain) (i : UI) : W64 :=
  if !i.useImm then c.ureg i.ub.toNat
  else if i.imm.getLsbD 31 then (Config.unstated 32 0x480 i.imm.toNat 0 0) ++ i.imm
  else i.imm.setWidth 64

/-- A U operation on 64 bits; shifts take the low six bits of the count. -/
def uOp (op : UOp) (a b : W64) : W64 :=
  match op with
  | .add => a + b
  | .sub => a - b
  | .mul => a * b
  | .and => a &&& b
  | .or => a ||| b
  | .xor => a ^^^ b
  | .shl => a <<< (b.toNat % 64)
  | .shr => a >>> (b.toNat % 64)
  | .mov => b

/-- u registers that a U instruction names. -/
def uRegs (i : UI) (d a : Bool) : List Nat :=
  (if d then [i.ud.toNat] else []) ++ (if a then [i.ua.toNat] else []) ++ (if i.useImm then [] else [i.ub.toNat])

/-- U_ARITHMETIC (R178). -/
def execUArithmetic (r : ChainRef) (op : UOp) (i : UI) (s : State) : Host.Outcome State Fault Refusal :=
  .next (s.whole r i.pred i.pneg [] (uRegs i true (op != .mov)) (fun c =>
    .done (nextPc (c.setU i.ud.toNat (uOp op (c.ureg i.ua.toNat) (c.uB i))))))

/-- UCMP: p[UD[2:0]] is all ones or all zeros; cc in UD[5:3] (R178). -/
def execUcmp (r : ChainRef) (i : UI) (s : State) : Host.Outcome State Fault Refusal :=
  .next (s.whole r i.pred i.pneg [] (uRegs i false true) (fun c =>
    .done (nextPc (c.setP (i.ud.toNat % 8)
      (if ucmpHolds (i.ud.toNat / 8) (c.ureg i.ua.toNat) (c.uB i) then 0xFFFFFFFF else 0)))))

/-! ## Special registers (R166) -/

/-- Field k of the MX counters, MXSPEC to MXQSAT. -/
def cntField (u : Cnt) (k : Nat) : Nat :=
  match k with
  | 0 => u.spec
  | 1 => u.undp
  | 2 => u.satp
  | 3 => u.sats
  | _ => u.qsat

/-- Write field k of the MX counters. -/
def setCntField (u : Cnt) (k v : Nat) : Cnt :=
  match k with
  | 0 => { u with spec := v }
  | 1 => { u with undp := v }
  | 2 => { u with satp := v }
  | 3 => { u with sats := v }
  | _ => { u with qsat := v }

/-- The context of a chain's command. -/
def State.chainCtx (s : State) (c : Chain) : Option Nat := (s.chainCmd c).map (fun k => k.ctx)

/-- A special register that a command gives, on a compute core. -/
def cmdSreg (c : Chain) (k : Cmd) (n : Nat) : Option W64 :=
  match n with
  | 0x001 => some (BitVec.ofNat 64 (c.group * k.groupSize + c.inGroup))
  | 0x002 => some (BitVec.ofNat 64 c.group)
  | 0x003 => some (BitVec.ofNat 64 c.inGroup)
  | 0x006 => some (BitVec.ofNat 64 k.chains)
  | 0x00B => some (BitVec.ofNat 64 k.cls)
  | 0x020 => some (BitVec.ofNat 64 k.ctx)
  | 0x021 => some (BitVec.ofNat 64 k.genAt)
  | _ => none

/-- The acre of a core's hide holds its unit, which a context owns: the counters are those of the owner's slot (R192). -/
def State.cntInSlot (s : State) (core : Nat) : Option Nat :=
  match (s.core core).unit.owner, s.coreHide core with
  | some c, some h => if s.acreHolds h then some (s.slotPa c (s.core core).unit) else none
  | _, _ => none

/-- The unit's MX counters, MXSPEC to MXQSAT (R166, R192). -/
def State.mxSreg (s : State) (core k : Nat) : W64 :=
  match s.cntInSlot core with
  | some pa => BitVec.ofNat 64 (s.readNum (pa + 4 * k) 4)
  | none => BitVec.ofNat 64 (cntField (s.core core).unit.cnt k)

/-- Write one of the unit's MX counters (R166, R192). -/
def State.setMxSreg (s : State) (core k v : Nat) : State :=
  match s.cntInSlot core with
  | some pa => s.writeBytes (pa + 4 * k) (leBytes 4 v)
  | none => s.updCore core (fun x => { x with unit := { x.unit with cnt := setCntField x.unit.cnt k (v % 2 ^ 32) } })

/-- Value of a special register for thread t; none where the manual states none (log 11). -/
def State.sregVal (s : State) (core slot : Nat) (c : Chain) (n t : Nat) : Option W64 :=
  match n with
  | 0x000 => some (BitVec.ofNat 64 t)
  | 0x004 => some (BitVec.ofNat 64 slot)
  | 0x005 => if isControl core then none else some (BitVec.ofNat 64 (core / 17 * 256 + s.coreColumn core))
  | 0x007 => some (c.active.setWidth 64)
  | 0x008 => some (c.exited.setWidth 64)
  | 0x009 => some (BitVec.ofNat 64 c.vregs)
  | 0x00A => some (BitVec.ofNat 64 (s.lsUse core c))
  | 0x00C => some s.btime
  | 0x00D => some (BitVec.ofNat 64 (s.gov.beatSub / 1000))
  | n =>
    if 0x010 ≤ n ∧ n ≤ 0x014 ∧ !isControl core then some (s.mxSreg core (n - 0x010))
    else if isControl core then none
    else (s.chainCmd c).bind (fun k => cmdSreg c k n)

/-- S2V_S2U: vd or u[UD] = special register SREG (R178). -/
def execS2vS2u (r : ChainRef) (uni : Bool) (i : SysI) (s : State) : Host.Outcome State Fault Refusal :=
  .next (s.whole r i.pred i.pneg (if uni then [] else [i.vd.toNat]) (if uni then [i.ud.toNat] else []) (fun c =>
    let val := fun t => (s.sregVal r.core.val r.slot.val c i.sreg.toNat t).getD (s.freshVal 64)
    if !uni && c.outOfRange [i.vd.toNat] then .exc { cause := 2, lanes := c.active }
    else
      let k := if uni then c.setU i.ud.toNat (val 0)
        else c.eachLane c.active (fun k t => k.setV i.vd.toNat t ((val t).setWidth 32))
      .asks (nextPc k) (fun t => t.freshNext)))

/-- U2S: the MX counters are writable; a write to another register has no effect (R166, R192, R9). -/
def execU2s (r : ChainRef) (i : SysI) (s : State) : Host.Outcome State Fault Refusal :=
  .next (s.whole r i.pred i.pneg [] [i.ud.toNat] (fun c =>
    let n := i.sreg.toNat
    if 0x010 ≤ n ∧ n ≤ 0x014 ∧ !isControl r.core.val then
      .with_ (nextPc c) (fun t => t.setMxSreg r.core.val (n - 0x010) (c.ureg i.ud.toNat).toNat)
    else .done (nextPc c)))

/-! ## Fences (R213 to R222) -/

/-- A chain waits in a fence of a scope, 4 for fence.io. -/
def fenceAct (c : Chain) (scope : Nat) : Act := .done { nextPc c with st := .fence scope }

/-- FENCE_INSTRUCTION: scopes 4 to 7 raise ILLEGAL (R213). -/
def execFenceInstruction (r : ChainRef) (i : SysI) (s : State) : Host.Outcome State Fault Refusal :=
  .next (s.whole r i.pred i.pneg [] [] (fun c =>
    let scope := i.imm.toNat % 8
    if 4 ≤ scope then .exc { cause := 1, lanes := c.active } else fenceAct c scope))

/-- FENCE_IO: the scope field is ignored (R222). -/
def execFenceIo (r : ChainRef) (i : SysI) (s : State) : Host.Outcome State Fault Refusal :=
  .next (s.whole r i.pred i.pneg [] [] (fun c => fenceAct c 4))

/-- FENCE_COMPLETE: every earlier load has returned and every earlier access is performed at the scope; the fence is
then an acquire (R215, R216, R218, R222). -/
def execFenceComplete (r : ChainRef) (s : State) : Host.Outcome State Fault Refusal :=
  .next (match s.chain? r.core.val r.slot.val with
    | some c =>
      match c.st with
      | .fence scope =>
        if c.settled && s.released r.core.val r.slot.val c scope then
          ((s.updChain r.core.val r.slot.val (fun k => { k with st := .ready })).acquired r.core.val scope).retired c
        else s
      | _ => s
    | none => s)

/-! ## Barriers and events (R231 to R236) -/

/-- A chain arrives at a barrier of its group; on a control core, where chains have no group, it goes on (R231). -/
def State.arriveBar (s : State) (core slot : Nat) (c : Chain) (id : Nat) : State :=
  match s.group? c.cid c.group with
  | none => s.updChain core slot (fun k => { k with st := .ready })
  | some g =>
    if g.barId.isNone || g.barId == some id then
      (s.updGroup c.cid c.group (fun x => { x with
        barId := some id, arrived := linsert x.arrived c.inGroup })).checkBarrier c.cid c.group 64
    else s

/-- BAR: an acquire-release at core scope (R231). -/
def execBar (r : ChainRef) (i : SysI) (s : State) : Host.Outcome State Fault Refusal :=
  .next (s.whole r i.pred i.pneg [] [] (fun c =>
    if s.released r.core.val r.slot.val c 1 then
      .with_ { nextPc c with st := .atBarrier i.imm.toNat } (fun t => t.arriveBar r.core.val r.slot.val c i.imm.toNat)
    else .wait))

/-- The identifier of evsig and evwait: u[UD] with its OFFSET increased (R232). -/
def objId (c : Chain) (i : SysI) : W64 :=
  let v := (c.ureg i.ud.toNat).toNat
  BitVec.ofNat 64 (setBits v 39 0 (nbits v 39 0 + (if nbit v 45 then 8 else 4) * i.imm.toNat))

/-- Bytes of an object (R232). -/
def objSize (id : W64) : Nat := if id.getLsbD 45 then 8 else 4

/-- Exceptions of an object's access; `write` where the word may change (R233). -/
def State.objExc (s : State) (core : Nat) (c : Chain) (id : W64) (write : Bool) : Option Exc :=
  let off := nbits id.toNat 39 0
  if id.getLsbD 44 then
    match s.globalExc core c (nbits id.toNat 43 40) c.active (fun _ => off) (objSize id) write with
    | some e => some e
    | none =>
      if isHostPa (s.objAt core 0 (s.chainCmd c) id).2 then some { cause := 0x0D, lanes := c.active } else none
  else s.localExc core c c.active (fun _ => off) (objSize id)

/-- Scope of an object (R214, R236). -/
def State.objScope (s : State) (id : W64) (pa : Nat) : Nat := if id.getLsbD 44 then s.paScope pa else 1

/-- A buffered store of the core touches an object, or one under way to its home does (R209, R210). -/
def State.objBuffered (s : State) (core : Nat) (id : W64) (pa : Nat) : Bool :=
  id.getLsbD 44 && ((s.core core).sb.any (fun e =>
      e.data.any (fun d => decide (pa ≤ d.1) && decide (d.1 < pa + objSize id))
        || e.atoms.any (fun x => decide (x.addr < pa + objSize id) && decide (pa < x.addr + 2 ^ x.size)))
    || s.storeOut core (pa / 128))

/-- An object of this node whose line the chain must own before it acts there (R226, R229). -/
def State.objFar (s : State) (core slot : Nat) (o : Option Nat × Nat) : Bool :=
  o.1.isNone && s.isLocal o.2 && !s.lineOwn { id := core, node := slot + 64 } (o.2 / 128)

/-- The chain acts on an object of this node, whose line it owns. -/
def State.takeObj (s : State) (o : Option Nat × Nat) : State :=
  if o.1.isNone && s.isLocal o.2 then s.takeOwn (o.2 / 128) else s

/-- The chain registers at its object and waits in STATE 2 (R234, R235). -/
def State.register (s : State) (core slot : Nat) (c : Chain) (id : W64) (o : Option Nat × Nat) (phase : Nat) : State :=
  { s.updChain core slot (fun k => { k with st := .eventWait, waitId := id }) with
    waiters := s.waiters ++ [{ lsCore := o.1, addr := o.2, kind := if id.getLsbD 45 then 1 else 0, phase := phase,
                               chain := some (core, slot), cid := none, remote := none, ext := id.getLsbD 46 }] }

/-- An event message of a chain to a remote home (R535): AUX bit 0 the kind; it waits where it must be answered. -/
def State.eventMsg (s : State) (core slot : Nat) (c : Chain) (id : W64) (pa kind : Nat) : State :=
  let bar := id.getLsbD 45
  let data := if kind = 6 ∧ !bar then leBytes 4 1 else []
  let m : LMsg := { kind := BitVec.ofNat 8 kind, len := data.length,
                    hide := BitVec.ofNat 4 (s.slotHide c.cid (nbits id.toNat 43 40) (nbits id.toNat 39 0)),
                    dst := BitVec.ofNat 14 (paNode pa), aux := if bar then 1 else 0, addr := BitVec.ofNat 40 (paOff pa),
                    data := data }
  let s1 := s.sendReqOf m (some (core, slot, 0)) none c.cid ((s.chainCtx c).getD 0xFFFF) (c.group, c.inGroup) c.pc c.active
  if kind = 7 ∨ bar then s1.updChain core slot (fun k => { k with st := .eventWait, waitId := id }) else s1

/-- evwait at its object: it takes a unit or goes on, or registers; a wait that ends at once is an acquire (R234 to
R236). -/
def State.waitObj (s : State) (core slot : Nat) (c : Chain) (id : W64) (o : Option Nat × Nat) : State :=
  if o.1.isNone && !s.isLocal o.2 then s.eventMsg core slot c id o.2 7
  else if id.getLsbD 45 then s.register core slot c id o (nbits (s.objRead o.1 o.2 8) 63 56)
  else if s.objRead o.1 o.2 4 ≠ 0 then
    ((s.takeObj o).objWrite o.1 o.2 4 (s.objRead o.1 o.2 4 - 1)).acquired core (s.objScope id o.2)
  else s.register core slot c id o 0

/-- evsig at its object: one signal, or one arrival that waits until the barrier completes (R234 to R236). -/
def State.signalObj (s : State) (core slot : Nat) (c : Chain) (id : W64) (o : Option Nat × Nat) : State :=
  if o.1.isNone && !s.isLocal o.2 then s.eventMsg core slot c id o.2 6
  else if !id.getLsbD 45 then (s.takeObj o).signalCount o.1 o.2 1 ((s.chainCtx c).getD 0xFFFF)
  else
    let a := barrierArrive (s.objRead o.1 o.2 8)
    let s1 := (s.takeObj o).arriveBarrier o.1 o.2
    if a.2 then s1.acquired core (s.objScope id o.2) else s1.register core slot c id o (nbits a.1 63 56)

/-- EVWAIT (R232 to R236). -/
def execEvwait (r : ChainRef) (i : SysI) (s : State) : Host.Outcome State Fault Refusal :=
  .next (s.whole r i.pred i.pneg [] [i.ud.toNat] (fun c =>
    let id := objId c i
    let o := s.objAt r.core.val (s.lsBaseOf r.core.val c) (s.chainCmd c) id
    match s.objExc r.core.val c id (!id.getLsbD 45) with
    | some e => .exc e
    | none =>
      if c.acquiring || s.objBuffered r.core.val id o.2 then .wait
      else if s.objFar r.core.val r.slot.val o then
        .request (fun t => t.askOwn { id := r.core.val, node := r.slot.val + 64 } (o.2 / 128))
      else .with_ (nextPc c) (fun t => t.waitObj r.core.val r.slot.val c id o)))

/-- EVSIG: a release at the object's scope (R232 to R236). -/
def execEvsig (r : ChainRef) (i : SysI) (s : State) : Host.Outcome State Fault Refusal :=
  .next (s.whole r i.pred i.pneg [] [i.ud.toNat] (fun c =>
    let id := objId c i
    let o := s.objAt r.core.val (s.lsBaseOf r.core.val c) (s.chainCmd c) id
    match s.objExc r.core.val c id true with
    | some e => .exc e
    | none =>
      if c.acquiring || !s.released r.core.val r.slot.val c (s.objScope id o.2) then .wait
      else if s.objFar r.core.val r.slot.val o then
        .request (fun t => t.askOwn { id := r.core.val, node := r.slot.val + 64 } (o.2 / 128))
      else .with_ (nextPc c) (fun t => t.signalObj r.core.val r.slot.val c id o)))

/-! ## The rest of the SYS form (R178, R203, R204) -/

/-- NOP_INSTRUCTION (R178). -/
def execNopInstruction (r : ChainRef) (i : SysI) (s : State) : Host.Outcome State Fault Refusal :=
  .next (s.whole r i.pred i.pneg [] [] (fun c => .done (nextPc c)))

/-- YIELD: the chain gives up the pipes for one selection round, which no other effect shows (R178). -/
def execYield (r : ChainRef) (i : SysI) (s : State) : Host.Outcome State Fault Refusal :=
  .next (s.whole r i.pred i.pneg [] [] (fun c => .done (nextPc c)))

/-- A source that is presented at a target, pending and enabled (R204, R437). -/
def State.firedAt (s : State) (t : Nat) : Bool :=
  s.eg.srcs.any (fun e => (s.src e.1).pending && (s.src e.1).enable && (s.src e.1).presented && (s.src e.1).target == t)

/-- SLEEP: on a control core until a source routed to it fires, which one that waits there already has done; elsewhere
ILLEGAL (R178, R203, R204, R441). -/
def execSleep (r : ChainRef) (i : SysI) (s : State) : Host.Outcome State Fault Refusal :=
  .next (s.whole r i.pred i.pneg [] [] (fun c =>
    if !isControl r.core.val then .exc { cause := 1, lanes := c.active }
    else if s.firedAt (r.core.val - 272) then .done (nextPc c)
    else .done { nextPc c with st := .sleeping }))

/-- TRAP: stops the command with code IMM16 (R178, R194). -/
def execTrap (r : ChainRef) (i : SysI) (s : State) : Host.Outcome State Fault Refusal :=
  .next (s.whole r i.pred i.pneg [] [] (fun c => .exc { cause := 0x0A, lanes := c.active, trap := i.imm.toNat }))

/-- ILLEGAL_ENCODING: FORM 7 to 15, an unassigned OPC, or a privileged SYS operation on a compute core (R175, R194). -/
def execIllegalEncoding (r : ChainRef) (s : State) : Host.Outcome State Fault Refusal :=
  .next (s.issue r [] [] (fun c => .exc { cause := 1, lanes := c.active }))

end Sys2Proof.Machine
end

