-- ==== Sys2Proof/Machine/RikuMx.lean ====
section
/-! DEFINITION. Private matrix-unit use: the MX instructions of the Riku ISA (R143, R186 to R192). -/

namespace Sys2Proof.Machine

/-! ## Operands (R186, R187) -/

/-- A private operand's format and mode: exact but for LUT4, NONE, S32 or S16 (R187). -/
def mxOk (fmt mode : Nat) : Bool := fmtExact fmt && fmt != 6 && decide (mode ≤ 2)

/-- Depth of a pair (R99). -/
def mxDepth (a b : Nat) : Nat := if fmtPlanes a && fmtPlanes b then 4 else 1

/-- Bytes of one row of 128·d elements. -/
def mxRowLen (fmt d : Nat) : Nat := 128 * d * fmtWidth fmt / 8

/-- Bytes of one row of stone scales. -/
def mxScaleLen (mode d : Nat) : Nat := if mode = 0 then 0 else 128 * d / stoneOf mode

/-- Code of element k of a row held as a number (R63, R64). -/
def mxCode (x fmt mode k : Nat) : Nat :=
  let w := fmtWidth fmt
  if fmtPlanes fmt then
    let g := if mode = 2 then 16 else 32
    ((List.range w).map (fun p => nbits x (k / g * (w * g) + p * g + k % g) (k / g * (w * g) + p * g + k % g) * 2 ^ p)).sum
  else nbits x (w * k + w - 1) (w * k)

/-- Value of a stone-scale code under a mode (R65, R69). -/
def mxScale (mode code : Nat) : FV :=
  if mode = 1 then decodeE8M0 code else if mode = 2 then decodeFloat fF8a code else .fin false 1 0

/-- An element with its scale applied, and whether it counts in MXSPEC (R70, R71). -/
def mxElem (fmt mode code scale : Nat) : FV × Bool := scaledElem (decodeFmt fmt 0 code) (mxScale mode scale)

/-! ## The unit (R186, R188) -/

/-- n bytes of a core's local store as a number. -/
def State.lsNum (s : State) (core a n : Nat) : Nat := leNat (s.lsBytes core a n)

/-- The B block at a local address, as a B register (R186). -/
def State.readBlock (s : State) (core a sa fmt mode d : Nat) : BReg :=
  { fmt := fmt, mode := mode, d := d,
    codes := (List.range 128).flatMap (fun col =>
      let x := s.lsNum core (a + col * mxRowLen fmt d) (mxRowLen fmt d)
      (List.range (128 * d)).map (fun k => (col * 512 + k, mxCode x fmt mode k))),
    scales := (List.range 128).flatMap (fun col =>
      (List.range (mxScaleLen mode d)).map (fun t =>
        (col * 32 + t, s.lsNum core (sa + col * mxScaleLen mode d + t) 1))) }

/-- Element k of a column of a B register. -/
def BReg.elem (b : BReg) (col k : Nat) : FV × Bool :=
  mxElem b.fmt b.mode (tget b.codes (col * 512 + k) 0) (tget b.scales (col * 32 + k / stoneOf b.mode) 0)

/-- A row of A: its elements with their scales applied. -/
def State.readRow (s : State) (core a sa fmt mode d : Nat) : List (FV × Bool) :=
  let x := s.lsNum core a (mxRowLen fmt d)
  (List.range (128 * d)).map (fun k =>
    mxElem fmt mode (mxCode x fmt mode k) (if mode = 0 then 0 else s.lsNum core (sa + k / stoneOf mode) 1))

/-- Sum of products of a row and a column: value, products rounded, products saturated (R72). -/
def dotProduct : List (FV × Bool) → List (FV × Bool) → Int × Nat × Nat
  | a :: as, b :: bs =>
    let p := placeProduct (exactMul a.1 b.1)
    let r := dotProduct as bs
    (p.1 + r.1, (if p.2.1 then 1 else 0) + r.2.1, (if p.2.2 then 1 else 0) + r.2.2)
  | _, _ => (0, 0, 0)

/-- Elements that count in MXSPEC. -/
def specCount (l : List (FV × Bool)) : Nat := (l.filter (fun x => x.2)).length

/-- An accumulator of 128 bits; of a sum that leaves them the manual states no result (R73, R188; log 11). -/
def keep128 (i : Nat) (x : Int) : Int :=
  if -(2 ^ 127 : Int) ≤ x ∧ x < 2 ^ 127 then x else (Config.unstated 128 0x502 i (ofSigned 256 x) 0).toInt

/-- Add one row's products to an accumulator row (R186, R188). -/
def MxUnit.addRow (u : MxUnit) (cols : List (List (FV × Bool))) (row : Nat) (a : List (FV × Bool)) : MxUnit :=
  (cols.mapIdx (fun j b => (j, dotProduct a b))).foldl (fun (v : MxUnit) x =>
    { v with acc := tset v.acc (row * 128 + x.1)
               (keep128 (row * 128 + x.1) (tget v.acc (row * 128 + x.1) 0 + x.2.1)),
             cnt := v.cnt.add { undp := x.2.2.1, satp := x.2.2.2 } })
    { u with cnt := u.cnt.add { spec := specCount a } }

/-- The registers swap where the idle one holds a block not yet used (R186). -/
def MxUnit.swap (u : MxUnit) : MxUnit := if u.loaded then { u with b0 := u.b1, b1 := u.b0, loaded := false } else u

/-- mmul on rows of A (R186, R188); operands other than the loaded block's give no stated sums (log 11). -/
def MxUnit.multiply (u : MxUnit) (fmtB modeB d : Nat) (rows : List (List (FV × Bool))) : MxUnit :=
  let v := u.swap
  if v.b0.fmt = fmtB ∧ v.b0.mode = modeB ∧ v.b0.d = d then
    let cols := (List.range 128).map (fun j => (List.range (128 * d)).map (fun k => v.b0.elem j k))
    (rows.mapIdx (fun i a => (i, a))).foldl (fun (t : MxUnit) x => t.addRow cols x.1 x.2)
      { v with cnt := v.cnt.add { spec := (cols.map specCount).sum } }
  else
    { v with acc := (List.range (rows.length * 128)).foldl (fun t i =>
        tset t i ((Config.unstated 112 0x501 i fmtB modeB).toNat : Int)) v.acc }

/-- One accumulator at readout: its 4-byte code, whether V was clamped, whether the code saturated (R74, R76, R186). -/
def mxRead (fmt : Nat) (v : Int) : Nat × Bool × Bool :=
  let w := if winMax < v then winMax else if v < winMin then winMin else v
  if fmt = 0x0F then ((quantiseI32 .rne (fixedQ w)).1, w != v, (quantiseI32 .rne (fixedQ w)).2)
  else (roundIeee fF32 .rne (fixedQ w), w != v, false)

/-! ## Issue of an MX instruction (R143, R190) -/

/-- What an MX instruction needs of the local store: address and bytes. -/
abbrev LsNeed := List (Nat × Nat)

/-- A unit cannot serve a chain now: the acre holds it, another context owns it, matrix state of the chain's group waits for
it, or an earlier chain of those that may use it waits (R143, R190, R191). -/
def State.unitTaken (s : State) (core slot : Nat) (c : Chain) (k : Cmd) : Bool :=
  let u := (s.core core).unit
  let ahead := (s.core core).mxq.takeWhile (fun j => j != slot)
  s.acreHolds k.hide || (u.owner.isSome && u.owner != some k.ctx)
    || (match s.group? c.cid c.group with | some x => x.savedMx.isSome | none => false)
    || ahead.any (fun j => u.owner.isNone || (match (s.chain? core j).bind s.chainCmd with
      | some q => q.ctx == k.ctx
      | none => false))

/-- A chain waits for the unit, in issue order (R191). -/
def State.joinMxq (s : State) (core slot : Nat) : State :=
  s.updCore core (fun x => { x with mxq := if x.mxq.contains slot then x.mxq else x.mxq ++ [slot] })

/-- An MX instruction: its checks, the wait for the unit, its ownership, and its effect on the owned unit, which is an
exception for an mmul whose rerun mismatches too (R143, R187, R188, R190, R191). -/
def State.mx (s : State) (r : ChainRef) (i : MxI) (legal : Bool) (fmts : List Nat) (needs : Chain → LsNeed) (fails : Bool)
    (f : Chain → State → State) : State :=
  let core := r.core.val
  let slot := r.slot.val
  s.whole r i.pred i.pneg [] [i.uaddr.toNat, i.uaux.toNat] (fun c =>
    match s.chainCmd c with
    | none => .exc { cause := 1, lanes := c.active }
    | some k =>
      if isControl core || !legal then .exc { cause := 1, lanes := c.active }
      else if !fmts.all (fun x => nbit (s.kodRun (0x3000 + k.hide) 4) x) then .exc { cause := 0x0B, lanes := c.active }
      else if (needs c).any (fun n => decide (0 < n.2) && decide (s.lsUse core c < n.1 + n.2)) then
        .exc { cause := 6, lanes := c.active }
      else if c.acquiring then .wait
      else if s.unitTaken core slot c k then .hold { c with st := .mxWait } (fun t => t.joinMxq core slot)
      else
        let go := fun (t : State) => (f c (t.leaveMxq core slot)).wakeMx core
        let check : Act := if c.settled then
            .request (fun t => (t.raise core slot { cause := 0x0C, lanes := c.active }).markSuspect core)
          else .wait
        if (s.core core).unit.owner.isSome then (if fails then check else .with_ (nextPc c) go)
        else
          match s.freeSlot k.ctx with
          | none => .exc { cause := 0x0F, lanes := c.active }
          | some a =>
            if fails then check
            else .with_ (nextPc c) (fun t => go (t.updCore core (fun x => { x with
              unit := { x.unit with owner := some k.ctx, slotAt := a } }))))

/-- Change a core's unit. -/
def State.updUnit (s : State) (core : Nat) (f : MxUnit → MxUnit) : State :=
  s.updCore core (fun k => { k with unit := f k.unit })

/-- Local address and bytes of n rows of an operand and of its scales. -/
def mxNeeds (c : Chain) (i : MxI) (fmt mode d n : Nat) : LsNeed :=
  [((c.ureg i.uaddr.toNat).toNat, n * mxRowLen fmt d), ((c.ureg i.uaux.toNat).toNat, n * mxScaleLen mode d)]

/-- Depth of an instruction's pair. -/
def mxD (i : MxI) : Nat := mxDepth i.fmtA.toNat i.fmtB.toNat

/-- The formats and modes of an instruction are private operands'. -/
def mxPairOk (i : MxI) : Bool := mxOk i.fmtA.toNat i.modeA.toNat && mxOk i.fmtB.toNat i.modeB.toNat

/-- ROWS (R174). -/
def mxRows (i : MxI) : Nat := i.rows.toNat + 1

/-- MLD: loads a B block into the idle register (R186). -/
def execMld (r : ChainRef) (i : MxI) (s : State) : Host.Outcome State Fault Refusal :=
  .next (s.mx r i (mxPairOk i) [i.fmtA.toNat, i.fmtB.toNat]
    (fun c => mxNeeds c i i.fmtB.toNat i.modeB.toNat (mxD i) 128) false
    (fun c t =>
      let base := t.lsBaseOf r.core.val c
      let b := t.readBlock r.core.val (base + (c.ureg i.uaddr.toNat).toNat) (base + (c.ureg i.uaux.toNat).toNat)
        i.fmtB.toNat i.modeB.toNat (mxD i)
      t.updUnit r.core.val (fun u => { u with b1 := b, loaded := true })))

/-- MMUL: adds the rows' products to the accumulators; `bad` is in how many of its two runs the check fails (R186,
R188). A second mismatch marks the unit suspect. -/
def execMmul (r : ChainRef) (i : MxI) (bad : Fin 3) (s : State) : Host.Outcome State Fault Refusal :=
  let core := r.core.val
  let go := s.mx r i (mxPairOk i) [i.fmtA.toNat, i.fmtB.toNat]
    (fun c => mxNeeds c i i.fmtA.toNat i.modeA.toNat (mxD i) (mxRows i)) (bad == 2)
    (fun c t =>
      let base := t.lsBaseOf core c
      let rows := (List.range (mxRows i)).map (fun n =>
        t.readRow core (base + (c.ureg i.uaddr.toNat).toNat + n * mxRowLen i.fmtA.toNat (mxD i))
          (base + (c.ureg i.uaux.toNat).toNat + n * mxScaleLen i.modeA.toNat (mxD i)) i.fmtA.toNat i.modeA.toNat (mxD i))
      t.updUnit core (fun u => u.multiply i.fmtB.toNat i.modeB.toNat (mxD i) rows))
  .next go

/-- MRD: reads accumulator rows to the local store (R186, R188). FMT_A names no operand here, and no rule says that the
hide's profile must permit it (R187; DESIGN CHOICE, log 11). -/
def execMrd (r : ChainRef) (i : MxI) (s : State) : Host.Outcome State Fault Refusal :=
  .next (s.mx r i ((i.fmtA == 0x0E || i.fmtA == 0x0F) && decide (i.modeA.toNat < 5) && decide (i.modeB.toNat < 5)) []
    (fun c => [((c.ureg i.uaddr.toNat).toNat, 512 * mxRows i)]) false
    (fun c t =>
      let base := t.lsBaseOf r.core.val c
      let vs := (List.range (mxRows i * 128)).map (fun n => mxRead i.fmtA.toNat (tget (t.core r.core.val).unit.acc n 0))
      let t1 := t.lsStore r.core.val (base + (c.ureg i.uaddr.toNat).toNat) (vs.flatMap (fun x => leBytes 4 x.1))
      t1.updUnit r.core.val (fun u => { u with cnt := u.cnt.add {
        sats := (vs.filter (fun x => x.2.1)).length, qsat := (vs.filter (fun x => x.2.2)).length } })))

/-- The modes of an instruction that uses no operand are not reserved (R175). -/
def mxModes (i : MxI) : Bool := decide (i.modeA.toNat < 5) && decide (i.modeB.toNat < 5)

/-- MCLR: every accumulator is zero (R186). -/
def execMclr (r : ChainRef) (i : MxI) (s : State) : Host.Outcome State Fault Refusal :=
  .next (s.mx r i (mxModes i) [] (fun _ => []) false (fun _ t => t.updUnit r.core.val (fun u => { u with acc := [] })))

/-- MREL: clears the unit's state and releases the unit with its slot (R186, R190). -/
def execMrel (r : ChainRef) (i : MxI) (s : State) : Host.Outcome State Fault Refusal :=
  .next (s.mx r i (mxModes i) [] (fun _ => []) false (fun _ t => t.releaseUnit r.core.val))

end Sys2Proof.Machine
end

