-- ==== Sys2Proof/Machine/RikuMem.lean ====
section
/-! DEFINITION. The issue of the MEM instructions of the Riku ISA: global loads, stores and atomics into the store
buffer, local accesses at the banks, prefetch (R167 to R172, R178, R203, R205 to R224). -/

namespace Sys2Proof.Machine

/-! ## Operands of atomics (R178, R223) -/

/-- The operand registers' value of a lane: 32 bits, or 64 from two registers. -/
def Chain.dataVal (c : Chain) (v t size : Nat) : Nat := leNat (c.storeBytes v t (2 ^ size))

/-- v registers that an atomic names from VDS on; cas also the swap value behind (R178). -/
def atomRegs (op : AtomOp) (v size : Nat) : List Nat :=
  dataRegs v (2 ^ size) ++ (if op = .cas ∧ v ≠ 0xFF then dataRegs (v + 2 ^ size / 4) (2 ^ size) else [])

/-- The operand and the comparand of an atomic: cas compares with vds and swaps in the registers behind (R178). -/
def Chain.atomVals (c : Chain) (op : AtomOp) (v t size : Nat) : Nat × Nat :=
  if op = .cas then (if v = 0xFF then 0 else c.dataVal (v + 2 ^ size / 4) t size, c.dataVal v t size)
  else (c.dataVal v t size, 0)

/-! ## Global addresses and devices (R203, R220) -/

/-- The window of the control cores' device registers (R220). -/
def State.inWindow (s : State) (core pa : Nat) : Bool :=
  isControl core && s.isLocal pa && decide (0xFF00000000 ≤ paOff pa)

/-- A byte of a buffer slot lies in memory with the I/O attribute (R220). -/
def State.ioAt (s : State) (c : Chain) (b off : Nat) : Bool :=
  match s.chainCmd c with
  | some k => k.pieces.any (fun p => p.ext == b && p.io && decide (p.off ≤ off) && decide (off < p.off + p.len))
  | none => false

/-- A device-register access (R220). -/
def State.isDevice (s : State) (core : Nat) (c : Chain) (b off : Nat) : Bool :=
  s.inWindow core (s.globalPa core c b off) || (!isControl core && s.ioAt c b off)

/-! ## The store buffer (R208 to R211) -/

/-- A byte of a store-buffer entry's target overlaps [a, a + n). -/
def SbEnt.touches (e : SbEnt) (a n : Nat) : Bool :=
  e.data.any (fun d => decide (a ≤ d.1) && decide (d.1 < a + n))
    || e.atoms.any (fun x => decide (x.addr < a + n) && decide (a < x.addr + 2 ^ x.size))

/-- The youngest buffered byte of a chain at an address (R209). -/
def sbByte (sb : List SbEnt) (slot : Nat) (c : Chain) (a : Nat) : Option Byte :=
  sb.reverse.findSome? (fun e =>
    if e.ownOf slot c && e.atoms.isEmpty then (e.data.find? (fun d => d.1 == a)).map (fun d => d.2) else none)

/-- What the store buffer gives a load of n bytes: the bytes, where the chain's own stores cover all of them; none where
the load must wait; nothing where no buffered store overlaps it (R209). -/
inductive Fwd
  | bytes (bs : List Byte)
  | memory
  | wait
deriving DecidableEq, Repr

/-- Forwarding from a store buffer: a chain that has ended has left its slot, and its stores are another chain's (R209). -/
def forward (sb : List SbEnt) (slot : Nat) (c : Chain) (a n : Nat) : Fwd :=
  if !sb.any (fun e => e.touches a n) then .memory
  else if sb.any (fun e => e.touches a n && (!e.ownOf slot c || !e.atoms.isEmpty)) then .wait
  else
    match (List.range n).mapM (fun i => sbByte sb slot c (a + i)) with
    | some bs => .bytes bs
    | none => .wait

/-- An outstanding load of a chain reads a byte of [a, a + n): a later store waits for it (R210). -/
def Chain.loading (c : Chain) (a n : Nat) : Bool :=
  c.loads.any (fun l => l.lanes.any (fun x => decide (x.2 < a + n) && decide (a < x.2 + 2 ^ l.size)))

/-- Device accesses of a chain stay in program order (R221). -/
def State.deviceBusy (s : State) (core slot : Nat) (c : Chain) (load : Bool) : Bool :=
  c.loads.any (fun l => l.dev) || (load && (s.core core).sb.any (fun e => e.ownOf slot c && e.dev))

/-- An entry of a chain, to be filled in. -/
def State.entryOf (s : State) (c : Chain) (slot hide : Nat) (mask : W32) (dev : Bool) (data : List (Nat × Byte))
    (atoms : List SbAtom) : SbEnt :=
  let k := s.chainCmd c
  let ctx := (k.map (fun x => x.ctx)).getD 0xFFFF
  { slot := slot, part := (c.group, c.inGroup), pc := c.pc, mask := mask, cid := c.cid, ctx := ctx, gen := s.genOf ctx,
    tag := (k.map (fun x => s.hideTag x.hide)).getD 0, hide := hide, data := data, atoms := atoms, dev := dev, retried := false }

/-- Entries go into the buffer of 64 (R208). -/
def State.pushEntries (s : State) (core : Nat) (es : List SbEnt) : State :=
  s.updCore core (fun k => { k with sb := k.sb ++ es })

/-- Room for n more entries. -/
def State.sbRoom (s : State) (core n : Nat) : Bool := decide ((s.core core).sb.length + n ≤ 64)

/-! ## Marks (R213 to R216) -/

/-- ORD asks for a release. -/
def isRelease (i : MemI) : Bool := decide (2 ≤ i.ord.toNat)
/-- ORD asks for an acquire. -/
def isAcquire (i : MemI) : Bool := i.ord.toNat % 2 == 1

/-- The widest scope among the lanes of an access (R214). -/
def State.maxScope (s : State) (pas : List Nat) : Nat := pas.foldl (fun m a => max m (s.paScope a)) 2

/-- An access may be performed now: no acquire of the chain is open, and a release finds every earlier access performed
(R215, R216). -/
def State.markOk (s : State) (core slot : Nat) (c : Chain) (i : MemI) (scope : Nat) : Bool :=
  !c.acquiring && (!isRelease i || s.released core slot c scope)

/-! ## Issue -/

/-- A MEM instruction: no lane, no effect (R176); the encoding's checks, REG_RANGE, then the access. -/
def State.memory (s : State) (r : ChainRef) (i : MemI) (illegal : Bool) (vs us : List Nat) (f : Chain → W32 → Act) :
    State :=
  s.issue r (vs ++ [i.voff.toNat]) ([i.ubase.toNat] ++ us) (fun c =>
    let m := c.lanesOf i.pred i.pneg
    if m = 0 then .done (nextPc c)
    else
      match firstExc m [(decide (5 ≤ i.size.toNat) || illegal, 1), (c.outOfRange (vs ++ [i.voff.toNat]), 2)] with
      | some e => .exc e
      | none => f c m)

/-- One lane's access: thread, offset in the buffer slot, physical address. -/
structure LaneAcc where
  /-- thread, R206 -/
  t : Nat
  /-- offset, R167 -/
  off : Nat
  /-- physical address -/
  pa : Nat

/-- The accesses of an instruction's lanes (R206). -/
def State.laneAccs (s : State) (core : Nat) (c : Chain) (b : Nat) (m : W32) (addr : Nat → Nat) : List LaneAcc :=
  (lanes m).map (fun t => { t := t, off := addr t, pa := s.globalPa core c b (addr t) })

/-- The requester that a chain's load is at a home (R229). -/
def loadWho (core slot : Nat) : HomeWho := { id := core, node := slot + 64 }

/-- For whom a chain's load asks other nodes (R545). -/
def State.loadAsker (s : State) (core slot : Nat) (c : Chain) (idx : Nat) : Asker :=
  { core := some (core, slot, idx), cid := c.cid, ctx := (s.chainCtx c).getD 0xFFFF }

/-- A load's request to where a lane's bytes are: the Host Port, a line of another node, or a device register there, which
is read by its own bytes (R47, R171, R221, R224, R227). -/
def State.askLane (s : State) (core slot : Nat) (c : Chain) (l : Load) (hide a : Nat) : State :=
  let fn := s.ctxFn ((s.chainCtx c).getD 0xFFFF)
  if s.isLocal a then s
  else if isHostPa a then s.emit (.hostRead fn (s.hostPort fn) a (2 ^ l.size))
  else if l.dev then
    s.sendReq { kind := 1, len := 2 ^ l.size, hide := BitVec.ofNat 4 hide, dst := BitVec.ofNat 14 (paNode a),
                addr := BitVec.ofNat 40 (paOff a) } (some (core, slot, l.idx)) none c.cid ((s.chainCtx c).getD 0xFFFF)
  else s.askRead (loadWho core slot) (s.loadAsker core slot c l.idx) (a / 128)

/-- The core's data cache holds the line of an address (R171). -/
def State.cached (s : State) (core a : Nat) : Bool := (s.core core).dcache.any (fun x => x.line == a / 128)

/-- Answers that a load's lane waits for by count: of the host, or of a device register at another node. -/
def State.counted (s : State) (l : Load) (a : Nat) : Bool := isHostPa a || (l.dev && !s.isLocal a)

/-- One load of a chain: it takes its number, and its requests leave (R208 to R210, R216). -/
def State.addLoad (s : State) (core slot : Nat) (c k : Chain) (b : Nat) (l : Load) (ask : List LaneAcc) : Act :=
  .asks { k with loads := k.loads ++ [{ l with idx := k.loadIdx, before := c.regs,
                                               await := (ask.filter (fun x => s.counted l x.pa)).length }],
                 loadIdx := k.loadIdx + 1, acquiring := k.acquiring || l.acq }
    (fun t => ask.foldl (fun u x => u.askLane core slot c { l with idx := k.loadIdx } (s.slotHide c.cid b x.off) x.pa) t)

/-- Two actions of one instruction, the second on the chain that the first leaves. -/
def Act.andThen (a : Act) (f : Chain → Act) : Act :=
  match a with
  | .done k => f k
  | .asks k g =>
    (match f k with
    | .done j => .asks j g
    | .asks j h => .asks j (fun t => h (g t))
    | x => x)
  | x => x

/-- What the store buffer gives the lanes of an ordinary load. -/
def State.forwards (s : State) (core slot : Nat) (c : Chain) (size : Nat) (xs : List LaneAcc) : List (LaneAcc × Fwd) :=
  xs.map (fun x => (x, forward (s.core core).sb slot c x.pa (2 ^ size)))

/-- Lanes that read memory rather than the store buffer. -/
def fromMemory (fs : List (LaneAcc × Fwd)) : List LaneAcc :=
  fs.filterMap (fun f => match f.2 with | .memory => some f.1 | _ => none)

/-- Issue a global load: its lanes on memory and its lanes on device registers are loads of their own (R208 to R210, R216,
R220, R221). -/
def State.startLoad (s : State) (core slot : Nat) (c : Chain) (i : MemI) (vd : Option Nat) (ud size b : Nat)
    (xs : List LaneAcc) : Act :=
  let dev := xs.filter (fun x => s.isDevice core c b x.off)
  let fs := s.forwards core slot c size (xs.filter (fun x => !s.isDevice core c b x.off))
  if fs.any (fun f => match f.2 with | .wait => true | _ => false) || (!dev.isEmpty && s.deviceBusy core slot c true) then .wait
  else if !s.markOk core slot c i (s.maxScope (xs.map (fun x => x.pa))) then .wait
  else
    let rest := fromMemory fs
    let acq := isAcquire i
    let l : Load := { idx := 0, vd := vd, ud := ud, size := size, na := i.na, acq := acq,
                      lanes := rest.map (fun x => (x.t, x.pa)), atomic := false, dev := false, await := 0, first := c.loadIdx }
    let c1 := fs.foldl (fun (k : Chain) f => match f.2 with | .bytes bs => l.put k f.1.t bs | _ => k) c
    let ask := rest.filter (fun x => !(s.cached core x.pa && !i.na && !acq))
    let mem : Chain → Act := fun k =>
      if rest.isEmpty && !(acq && dev.isEmpty) then .done k else s.addLoad core slot c k b l ask
    let regs : Chain → Act := fun k =>
      if dev.isEmpty then .done k
      else s.addLoad core slot c k b { l with na := true, dev := true, lanes := dev.map (fun x => (x.t, x.pa)) } dev
    (mem (nextPc c1)).andThen regs

/-- LDG (R167, R209, R210). -/
def execLdg (r : ChainRef) (i : MemI) (s : State) : Host.Outcome State Fault Refusal :=
  let core := r.core.val
  let b := i.buf.toNat
  .next (s.memory r i false (dataRegs i.vds.toNat (memBytes i)) [] (fun c m =>
    match s.globalExc core c b m (c.memAddr i) (memBytes i) false with
    | some e => .exc e
    | none => s.startLoad core r.slot.val c i (some i.vds.toNat) 0 i.size.toNat b (s.laneAccs core c b m (c.memAddr i))))

/-- LDU: u[VDS[5:0]] = 64-bit global load at u[UBASE] + IMM16 (R178). -/
def execLdu (r : ChainRef) (i : MemI) (s : State) : Host.Outcome State Fault Refusal :=
  let core := r.core.val
  let b := i.buf.toNat
  .next (s.memory r { i with voff := 0xFF } false [] [i.vds.toNat] (fun c m =>
    let off := (c.ureg i.ubase.toNat + sext16 i.imm).toNat
    match s.globalExc core c b m (fun _ => off) 8 false with
    | some e => .exc e
    | none =>
      s.startLoad core r.slot.val c i none (i.vds.toNat % 64) 3 b [{ t := 0, off := off, pa := s.globalPa core c b off }]))

/-- A chain after a marked store: it goes no further until the acquire is performed (R216). -/
def markedStore (c : Chain) (i : MemI) (scope : Nat) : Chain :=
  if isAcquire i then { nextPc c with st := .fence scope } else nextPc c

/-- Bytes that a lane stores, at their addresses. -/
def Chain.laneCells (c : Chain) (v n : Nat) (x : LaneAcc) : List (Nat × Byte) :=
  (c.storeBytes v x.t n).mapIdx (fun k b => (x.pa + k, b))

/-- The hide of the lane that first touches a line of an instruction (R362). -/
def State.lineHide (s : State) (c : Chain) (b : Nat) (xs : List LaneAcc) (line : Nat) : Nat :=
  s.slotHide c.cid b (((xs.find? (fun x => x.pa / 128 == line)).map (fun x => x.off)).getD 0)

/-- The lanes of an instruction that touch a line. -/
def lineMask (xs : List LaneAcc) (line : Nat) : W32 :=
  xs.foldl (fun a x => if x.pa / 128 = line then a ||| (1#32 <<< x.t) else a) 0

/-- STG: the bytes of each line enter the store buffer as one entry, those of a device register as one each (R172, R208,
R220, R221). -/
def execStg (r : ChainRef) (i : MemI) (s : State) : Host.Outcome State Fault Refusal :=
  let core := r.core.val
  let slot := r.slot.val
  let b := i.buf.toNat
  let n := memBytes i
  .next (s.memory r i false (dataRegs i.vds.toNat n) [] (fun c m =>
    match s.globalExc core c b m (c.memAddr i) n true with
    | some e => .exc e
    | none =>
      let xs := s.laneAccs core c b m (c.memAddr i)
      let dev := xs.filter (fun x => s.isDevice core c b x.off)
      let mem := xs.filter (fun x => !s.isDevice core c b x.off)
      let es := (storeLines (mem.flatMap (c.laneCells i.vds.toNat n))).map (fun d =>
          let line := ((d.map (fun x => x.1)).headD 0) / 128
          s.entryOf c slot (s.lineHide c b mem line) (lineMask mem line) false d [])
        ++ dev.map (fun x => s.entryOf c slot (s.slotHide c.cid b x.off) (1#32 <<< x.t) true (c.laneCells i.vds.toNat n x) [])
      let scope := s.maxScope (xs.map (fun x => x.pa))
      if !s.sbRoom core es.length || xs.any (fun x => c.loading x.pa n) || (!dev.isEmpty && s.deviceBusy core slot c false)
          || !s.markOk core slot c i scope then .wait
      else .with_ (markedStore c i scope) (fun t => t.pushEntries core es)))

/-- Add an atomic to the entries of its instruction: one a line, in ascending lane order (R172, R208). -/
def putAtom (es : List (Nat × List SbAtom)) (x : SbAtom) : List (Nat × List SbAtom) :=
  match es with
  | [] => [(x.addr / 128, [x])]
  | (l, as) :: r => if l = x.addr / 128 then (l, as ++ [x]) :: r else (l, as) :: putAtom r x

/-- The host performs an atomic only as an AtomicOp: add, exchange and compare-and-swap (R224). -/
def hostAtomOk (op : AtomOp) : Bool := op == .add || op == .exch || op == .cas

/-- ATOMG: one entry for each line, its lanes ascending; vds receives the old value (R172, R208, R223, R224). -/
def execAtomg (r : ChainRef) (op : AtomOp) (i : MemI) (s : State) : Host.Outcome State Fault Refusal :=
  let core := r.core.val
  let slot := r.slot.val
  let b := i.buf.toNat
  let size := i.size.toNat
  .next (s.memory r i (size != 2 && size != 3) (atomRegs op i.vds.toNat size) [] (fun c m =>
    match s.globalExc core c b m (c.memAddr i) (2 ^ size) true with
    | some e => .exc e
    | none =>
      let xs := s.laneAccs core c b m (c.memAddr i)
      let denied := lanesWhere m (fun t => !hostAtomOk op && isHostPa (s.globalPa core c b (c.memAddr i t)))
      let dev := xs.filter (fun x => s.isDevice core c b x.off)
      let mem := xs.filter (fun x => !s.isDevice core c b x.off)
      let l : Load := { idx := c.loadIdx, vd := some i.vds.toNat, ud := 0, size := size, na := true, acq := isAcquire i,
                        lanes := xs.map (fun x => (x.t, x.pa)), atomic := true, dev := !dev.isEmpty, await := 0,
                        before := c.regs, first := c.loadIdx }
      let atom : LaneAcc → SbAtom := fun x =>
        { op := op, size := size, addr := x.pa, val := BitVec.ofNat 64 (c.atomVals op i.vds.toNat x.t size).1,
          cmp := BitVec.ofNat 64 (c.atomVals op i.vds.toNat x.t size).2, load := c.loadIdx, lane := x.t }
      let es := ((mem.map atom).foldl putAtom []).map (fun e => s.entryOf c slot (s.lineHide c b mem e.1) (lineMask mem e.1) false [] e.2)
        ++ dev.map (fun x => s.entryOf c slot (s.slotHide c.cid b x.off) (1#32 <<< x.t) true [] [atom x])
      if denied ≠ 0 then .exc { cause := 0x0D, lanes := denied }
      else if !s.sbRoom core es.length || xs.any (fun x => c.loading x.pa (2 ^ size))
          || (!dev.isEmpty && s.deviceBusy core slot c false)
          || !s.markOk core slot c i (s.maxScope (xs.map (fun x => x.pa))) then .wait
      else
        .with_ { nextPc c with loads := c.loads ++ [l], loadIdx := c.loadIdx + 1, acquiring := isAcquire i } (fun t =>
          t.pushEntries core es)))

/-- A local access: its exceptions, then its effect, performed at the banks at once (R160, R168, R169, R212). -/
def State.local (s : State) (r : ChainRef) (i : MemI) (illegal : Bool) (vs : List Nat) (bytes : Nat)
    (f : Chain → W32 → (Nat → Nat) → Act) : State :=
  let core := r.core.val
  s.memory r i illegal vs [] (fun c m =>
    match s.localExc core c m (c.memAddr i) bytes with
    | some e => .exc e
    | none =>
      if s.markOk core r.slot.val c i 1 then f c m (fun t => s.lsBaseOf core c + c.memAddr i t) else .wait)

/-- LDL (R169, R212). -/
def execLdl (r : ChainRef) (i : MemI) (s : State) : Host.Outcome State Fault Refusal :=
  .next (s.local r i false (dataRegs i.vds.toNat (memBytes i)) (memBytes i) (fun c m addr =>
    .done (nextPc (c.eachLane m (fun k t => k.loadBytes i.vds.toNat t (s.lsBytes r.core.val (addr t) (memBytes i)))))))

/-- STL: the bytes of the highest lane are kept (R172, R212). -/
def execStl (r : ChainRef) (i : MemI) (s : State) : Host.Outcome State Fault Refusal :=
  .next (s.local r i false (dataRegs i.vds.toNat (memBytes i)) (memBytes i) (fun c m addr =>
    .with_ (nextPc c) (fun t =>
      (lanes m).foldl (fun u x => u.lsStore r.core.val (addr x) (c.storeBytes i.vds.toNat x (memBytes i))) t)))

/-- One lane's atomic at the local-store banks. -/
def State.localAtom (s : State) (r : ChainRef) (op : AtomOp) (i : MemI) (c : Chain) (a t : Nat) : State :=
  let size := i.size.toNat
  let old := s.lsNum r.core.val a (2 ^ size)
  let v := c.atomVals op i.vds.toNat t size
  (s.lsStore r.core.val a (leBytes (2 ^ size) (atomNew op (8 * 2 ^ size) old v.1 v.2))).updChain r.core.val r.slot.val
    (fun k => k.loadBytes i.vds.toNat t (leBytes (2 ^ size) old))

/-- ATOML: in ascending lane order, each lane receives the value before its own operation (R172, R223, R224). -/
def execAtoml (r : ChainRef) (op : AtomOp) (i : MemI) (s : State) : Host.Outcome State Fault Refusal :=
  .next (s.local r i (i.size.toNat != 2 && i.size.toNat != 3) (atomRegs op i.vds.toNat i.size.toNat) (memBytes i)
    (fun c m addr => .with_ (nextPc c) (fun t =>
      (lanes m).foldl (fun u x => u.localAtom r op i c (addr x) x) t)))

/-! ## The data cache (R171, R208, R216, R217; log 14) -/

/-- Bring a line into a core's data cache: 128 sets of four, the oldest of a set gives way. -/
def State.fillLine (s : State) (core line : Nat) : State :=
  let e : CLine := { line := line, bytes := s.readBytes (line * 128) 128 }
  s.updCore core (fun k =>
    let rest := k.dcache.filter (fun x => x.line != line)
    let same := rest.filter (fun x => x.line % 128 == line % 128)
    let out := if same.length < 4 then none else same.getLast?
    { k with dcache := e :: rest.filter (fun x => some x.line != out.map (fun y => y.line)) })

/-- The data cache may hold a physical address: not host memory, not a device register (R171, R221). -/
def State.cacheable (s : State) (core pa : Nat) : Bool := !isHostPa pa && !s.inWindow core pa

/-- PREF: a load of the lanes' lines that fills the data cache and no register, unless marked NA (R171, R178). -/
def execPref (r : ChainRef) (i : MemI) (s : State) : Host.Outcome State Fault Refusal :=
  let core := r.core.val
  let b := i.buf.toNat
  .next (s.memory r i false [] [] (fun c m =>
    match s.globalExc core c b m (c.memAddr i) (memBytes i) false with
    | some e => .exc e
    | none =>
      let xs := (s.laneAccs core c b m (c.memAddr i)).filter (fun x =>
        !s.isDevice core c b x.off && s.cacheable core x.pa && !s.cached core x.pa)
      if c.acquiring then .wait
      else if i.na || xs.isEmpty then .done (nextPc c)
      else
        s.addLoad core r.slot.val c (nextPc c) b
          { idx := 0, vd := some 0xFF, ud := 0, size := 0, na := false, acq := false, lanes := xs.map (fun x => (x.t, x.pa)),
            atomic := false, dev := false, await := 0, pref := true, first := c.loadIdx } xs))

end Sys2Proof.Machine
end

