-- ==== Sys2Proof/Machine/Links.lean ====
section
/-! DEFINITION. Link Ports and the fabric: the topology descriptor, hello, flits, link-state flooding, routes and
fabric-ready (R531 to R544, R547, R548, R562). -/

namespace Sys2Proof.Machine

/-! ## The topology descriptor (R536) -/

/-- The topology descriptor, 0x8000:02, as one little-endian number. -/
def State.topo (s : State) : Nat := s.kodRun 0x8000 2
/-- A byte of the descriptor. -/
def topoByte (d i : Nat) : Nat := d / 256 ^ i % 256
/-- A 16-bit field of the descriptor. -/
def topoHalf (d i : Nat) : Nat := d / 256 ^ i % 65536
/-- NODES. -/
def topoNodes (d : Nat) : Nat := topoHalf d 2
/-- RADIX of a dimension. -/
def topoRadix (d k : Nat) : Nat := topoHalf d (8 + 2 * k)
/-- CLASSES. -/
def topoClasses (d : Nat) : Nat := topoHalf d 16
/-- EXCL. -/
def topoExcl (d : Nat) : Nat := topoHalf d 18
/-- A link class: port, peer port, dimension, signed offset. -/
def topoClass (d i : Nat) : Nat × Nat × Nat × Int :=
  let b := 32 + 4 * i
  (topoByte d b, topoByte d (b + 1), topoByte d (b + 2), toSigned 8 (topoByte d (b + 3)))
/-- The link classes. -/
def topoClassList (d : Nat) : List (Nat × Nat × Nat × Int) := (List.range (topoClasses d)).map (topoClass d)
/-- Length of the descriptor with its classes and exclusion ranges (log 22). -/
def topoLen (d : Nat) : Nat := 32 + 4 * topoClasses d + 4 * topoExcl d

/-- The descriptor is valid (R536). -/
def topoValid (d : Nat) : Bool :=
  let cs := topoClassList d
  topoHalf d 0 == 0x0100 && decide (topoClasses d ≤ 32) && decide (topoExcl d ≤ 256)
    && decide (1 ≤ topoByte d 4 % 8) && decide (topoByte d 4 % 8 ≤ 4)
    && decide (1 ≤ topoNodes d) && decide (topoNodes d ≤ 16384)
    && topoNodes d == topoRadix d 0 * topoRadix d 1 * topoRadix d 2 * topoRadix d 3
    && (crc32 (leBytes (topoLen d) (setBits d 191 160 0))).toNat == nbits d 191 160
    && cs.all (fun c => decide (c.1 < 32) && decide (c.2.2.1 < 4) && c.2.2.2 != 0
      && (cs.filter (fun e => e.1 == c.1)).length == 1 && cs.contains (c.2.1, c.1, c.2.2.1, -c.2.2.2))

/-- Weight of a coordinate in a node number (R536). -/
def topoWeight (d k : Nat) : Nat := ((List.range k).map (topoRadix d)).foldl (fun a b => a * b) 1

/-- A node is installed: numbered by the descriptor, in no exclusion range (R536). -/
def topoInstalled (d n : Nat) : Bool :=
  decide (n < topoNodes d)
    && (List.range (topoExcl d)).all (fun j =>
      let b := 32 + 4 * topoClasses d + 4 * j
      decide (n < topoHalf d b) || decide (topoHalf d (b + 2) < n))

/-- The peer that the descriptor gives a node's port: node and port (R536). -/
def topoPeer (d n p : Nat) : Option (Nat × Nat) :=
  match (topoClassList d).find? (fun c => c.1 == p) with
  | none => none
  | some (_, q, k, o) =>
    let r := topoRadix d k
    let c := n / topoWeight d k % r
    let t : Int := (c : Int) + o
    if nbit (topoByte d 5) k && (decide (t < 0) || decide ((r : Int) ≤ t)) then none
    else
      let m := n - c * topoWeight d k + (t % (r : Int)).toNat * topoWeight d k
      if topoInstalled d m then some (m, q) else none

/-! ## Link states and records (R537, R538) -/

/-- The port is enabled, 0x8000:03, and its domain is powered. -/
def State.portOn (s : State) (p : Nat) : Bool :=
  nbit (s.kodRun 0x8000 3) p && (if p < 16 then s.pow.lka else s.pow.lkb)

/-- A LINK record (R472, R537). -/
def State.linkRecord (s : State) (port kind peer retries : Nat) : State :=
  s.postGlobal 0x12 (bodyAt 28 port + bodyAt 29 kind + bodyAt 30 peer + bodyAt 32 retries)

/-- Own link-state record (R539). -/
def State.ownRec (s : State) : LmRec :=
  { node := s.nodeId, seq := s.fab.seq,
    links := ((List.range 32).filter (fun p => (s.link p).st == .up)).map (fun p => (p, (s.link p).peer, (s.link p).peerPort)) }

/-- UP ports, ascending. -/
def State.upPorts (s : State) : List Nat := (List.range 32).filter (fun p => (s.link p).st == .up)

/-- The map has changed: routes that were being computed or agreed are abandoned (R540, R548). -/
def State.mapChanged (s : State) : State :=
  { s with fab := { s.fab with mapAt := s.btime.toNat, computed := none, placed := none, heldReady := [], readyCount := 0,
                               state := 1 } }

/-- Flood the own record (R539). -/
def State.floodOwn (s : State) : State :=
  let r := s.ownRec
  let s1 := { s with fab := { s.fab with map := tset s.fab.map s.nodeId r } }.mapChanged
  s1.upPorts.foldl (fun t p => t.emit (.linkmap p r)) s1

/-- The own links have changed: a new record with SEQ + 1 (R539). -/
def State.linksChanged (s : State) : State := { s with fab := { s.fab with seq := s.fab.seq + 1 } }.floodOwn

/-- A change of link state latches its source (R431, R534). -/
def State.linkState (s : State) (p : Nat) (st : LkSt) : State :=
  if (s.link p).st = st then s else (s.updLink p (fun l => { l with st := st })).latch (512 + 2 * p)

/-- A link goes down: what is unacknowledged or waits is lost (R534, R548). -/
def State.linkDown (s : State) (p : Nat) (st : LkSt) : State :=
  let l := s.link p
  let s1 := (s.linkState p st).updLink p (fun l => { l with
    heardOk := false, txSeq := 0, rxSeq := 0, retry := [], txq := [], nakSent := false, naks := 0, credits := [], owed := [] })
  if l.st = .up then (s1.linkRecord p 1 l.peer l.replays).linksChanged else s1

/-- A link comes UP: its record, every record held goes over it, and the own one is new (R537 to R539). -/
def State.linkUp (s : State) (p node port : Nat) : State :=
  let s1 := (s.linkState p .up).updLink p (fun l => { l with
    peer := node, peerPort := port, heardOk := true, txSeq := 0, rxSeq := 0, retry := [], nakSent := false, naks := 0,
    credits := freshCredits, owed := [], ackAt := s.btime.toNat })
  let s2 := (s1.linkRecord p 0 node (s1.link p).replays)
  ((s2.fab.map.filter (fun e => e.1 != s.nodeId)).foldl (fun t e => t.emit (.linkmap p e.2)) s2).linksChanged

/-! ## Flits (R531 to R534) -/

/-- The KINDs of R535 that end at a buffer of messages. -/
def kindBuffered (k : Nat) : Bool := (decide (1 ≤ k) && decide (k ≤ 8)) || (decide (0x10 ≤ k) && decide (k ≤ 0x16)) || k == 0x1F
/-- The KINDs of link control (R535), each a command of its own. -/
def kindControl (k : Nat) : Bool := decide (0x20 ≤ k) && decide (k ≤ 0x23)

/-- A message header's fields (R532). -/
def parseHeader (v : Nat) : LMsg :=
  { kind := BitVec.ofNat 8 v, vc := BitVec.ofNat 2 (v / 2 ^ 8), epoch := nbit v 10, len := nbits v 23 16,
    hide := BitVec.ofNat 4 (v / 2 ^ 24), dst := BitVec.ofNat 14 (v / 2 ^ 32), src := BitVec.ofNat 14 (v / 2 ^ 48),
    tag := BitVec.ofNat 16 (v / 2 ^ 64), aux := BitVec.ofNat 8 (v / 2 ^ 80), addr := BitVec.ofNat 40 (v / 2 ^ 88) }

/-- The messages of a body of `room` bytes, and its protocol errors: a held-back KIND is discarded; a message that does
not fit ends the body (R532, R535). -/
def parseBody : Nat → Nat → Nat → List LMsg × Nat
  | 0, _, _ => ([], 0)
  | n + 1, room, v =>
    let m := parseHeader v
    if room < 16 ∨ v % 256 = 0 then ([], 0)
    else if 128 < m.len ∨ room < 16 + m.len then ([], 1)
    else
      let r := parseBody n (room - 16 - m.len) (v / 256 ^ (16 + m.len))
      if kindBuffered m.kind.toNat then ({ m with data := leBytes m.len (v / 256 ^ 16) } :: r.1, r.2)
      else if kindControl m.kind.toNat then r
      else (r.1, r.2 + 1)

/-- Credits come back: the epoch in use takes them up to its full count, the other the rest (R531, R533; log 23). -/
def State.takeCredits (s : State) (p word : Nat) : State :=
  (List.range 4).foldl (fun t v =>
    t.updLink p (fun l =>
      let n := word / 256 ^ v % 256
      let k := 2 * v + (if s.fab.epoch then 1 else 0)
      let j := 2 * v + (if s.fab.epoch then 0 else 1)
      let a := min n (fullCredits v - tget l.credits k 0)
      { l with credits := tset (tset l.credits k (tget l.credits k 0 + a)) j (tget l.credits j 0 + (n - a)) })) s

/-- An ACK covers the retry buffer up to its flit (R534). -/
def ackRetry (l : List (Nat × List LMsg)) (ack : Nat) : List (Nat × List LMsg) :=
  if l.any (fun e => e.1 == ack) then (l.dropWhile (fun e => e.1 != ack)).tail else l

/-- A NAK: everything from ACK + 1 is replayed; sixteen for the same SEQ take the link down, and replays above the
threshold within a millisecond latch a source (R534). -/
def State.takeNak (s : State) (p ack : Nat) : State :=
  let l := s.link p
  let seq := (ack + 1) % 4096
  let n := if l.nakSeq = seq ∧ l.naks ≠ 0 then l.naks + 1 else 1
  if 16 ≤ n then s.linkDown p .hello
  else
    let fresh := decide (l.replayFrom + 1000000 ≤ s.btime.toNat) || l.replayWin == 0
    let w := if fresh then 1 else l.replayWin + 1
    let s1 := s.updLink p (fun l => { l with
      nakSeq := seq, naks := n, replays := stickAdd 32 l.replays 1, replayWin := w,
      replayFrom := if fresh then s.btime.toNat else l.replayFrom })
    let s2 := l.retry.foldl (fun t e => t.emit (.replay p e.1 e.2)) s1
    if s.kodRun 0x8000 5 < w then (s2.latch (513 + 2 * p)).linkRecord p 2 l.peer (s2.link p).replays else s2

/-- A flit with a good CRC: its ACK, CRED and NAK, and in order its messages (R531 to R535). -/
def State.takeFlit (s : State) (p v : Nat) : State :=
  let ack := nbits v 27 16
  let l0 := s.link p
  let rest := ackRetry l0.retry ack
  let s1 := s.updLink p (fun l => { l with
    retry := rest, ackAt := if rest.length < l0.retry.length then s.btime.toNat else l.ackAt,
    naks := if rest.length < l0.retry.length then 0 else l.naks })
  let s2 := (s1.takeCredits p (nbits v 63 32)).pump p ((s1.link p).txq.length + 1)
  let s3 := if nbit v 64 then s2.takeNak p ack else s2
  if nbit v 65 ∨ (s3.link p).st ≠ .up then s3
  else if nbits v 11 0 = (s3.link p).rxSeq.toNat then
    let b := parseBody 15 240 (v / 256 ^ 12 % 256 ^ 240)
    s3.updLink p (fun l => { l with
      rxSeq := l.rxSeq + 1, nakSent := false, rx := l.rx ++ b.1, protoErr := stickAdd 32 l.protoErr b.2 })
  else if (s3.link p).nakSent then s3
  else (s3.updLink p (fun l => { l with nakSent := true })).emit (.nak p ((s3.link p).rxSeq - 1).toNat)

/-- A received flit (R531, R534, R562). -/
def State.receiveFlit (s : State) (p v : Nat) (bad : Bool) : State :=
  if (s.link p).st ≠ .up then s
  else if bad || (crc32 (leBytes 252 v)).toNat != nbits v 2047 2016 then
    (s.updLink p (fun l => { l with nakSent := true })).emit (.nak p ((s.link p).rxSeq - 1).toNat)
  else s.takeFlit p v

/-! ## The map and its routes (R539 to R541) -/

/-- Neighbours of a node over links that the records of both ends list, ascending (R539). -/
def neighbours (map : Tbl LmRec) (n : Nat) : List Nat :=
  match tfind map n with
  | none => []
  | some r =>
    (r.links.filter (fun l => match tfind map l.2.1 with
      | some q => q.links.contains (l.2.2, n, l.1)
      | none => false)).foldl (fun a l => linsert a l.2.1) []

/-- Breadth-first levels from a list of nodes: node and hop distance. -/
def bfsLevels (map : Tbl LmRec) : Nat → Nat → List Nat → Tbl Nat → Tbl Nat
  | 0, _, _, lv => lv
  | n + 1, d, front, lv =>
    let nx := (front.flatMap (neighbours map)).foldl (fun a m => if (tfind lv m).isSome then a else linsert a m) []
    if nx.isEmpty then lv else bfsLevels map n (d + 1) nx (nx.foldl (fun a m => tset a m (d + 1)) lv)

/-- Hop distances from a root (R540). -/
def levelsFrom (map : Tbl LmRec) (root : Nat) : Tbl Nat := bfsLevels map (map.length + 1) 0 [root] [(root, 0)]

/-- Nodes of the map: those that the own node reaches over its links. -/
def State.mapNodes (s : State) : List Nat := (levelsFrom s.fab.map s.nodeId).map (fun e => e.1)

/-- A link taken from a to b climbs (R540). -/
def climbs (lv : Tbl Nat) (a b : Nat) : Bool :=
  decide (tget lv b 0 < tget lv a 0) || (tget lv b 0 == tget lv a 0 && decide (b < a))

/-- State of the route computation: queue of node, phase and first hop; reached node and phase; next hops. -/
structure RouteSt where
  queue : List (Nat × Nat × Nat)
  seen : List (Nat × Nat)
  next : Tbl Nat

/-- One neighbour of the node being expanded (R540). -/
def routeVisit (lv : Tbl Nat) (self n ph first : Nat) (r : RouteSt) (m : Nat) : RouteSt :=
  let u := climbs lv n m
  let np := if u then 0 else 1
  if u && ph == 1 || r.seen.contains (m, np) then r
  else
    let f := if n = self then m else first
    { queue := r.queue ++ [(m, np, f)], seen := (m, np) :: r.seen,
      next := if (tfind r.next m).isSome then r.next else tset r.next m f }

/-- The queue of the route computation, oldest first (R540). -/
def routeLoop (map : Tbl LmRec) (lv : Tbl Nat) (self : Nat) : Nat → RouteSt → RouteSt
  | 0, r => r
  | k + 1, r =>
    match r.queue with
    | [] => r
    | (n, ph, f) :: q => routeLoop map lv self k ((neighbours map n).foldl (routeVisit lv self n ph f) { r with queue := q })

/-- Next hops by up*/down* routing from the lowest-numbered node of the map (R540). -/
def State.routes (s : State) : Tbl Nat :=
  let lv := levelsFrom s.fab.map ((s.mapNodes.head?).getD s.nodeId)
  terase (routeLoop s.fab.map lv s.nodeId (2 * s.fab.map.length + 2)
    { queue := [(s.nodeId, 0, s.nodeId)], seen := [(s.nodeId, 0)], next := [] }).next s.nodeId

/-- CRC of the map: what it covers the manual leaves open (R542). -/
def State.mapCrcNow (s : State) : W32 :=
  Config.mapCrc (s.mapNodes.filterMap (fun n => (tfind s.fab.map n).map (fun r => (n, r.links))))

/-- The root of the map: its lowest-numbered node (R540, R548). -/
def State.mapRoot (s : State) : Nat := (s.mapNodes.head?).getD s.nodeId

/-! ## Requests to unreachable nodes (R246, R546, R547) -/

/-- A request has been answered. -/
def State.dropReq (s : State) (r : RReq) : State :=
  { s with fab := { s.fab with reqs := s.fab.reqs.filter (fun q => q.tag != r.tag) } }

/-- Address of a request, with its node. -/
def RReq.pa (r : RReq) : Nat := r.node * 2 ^ 40 + r.addr

/-- Context address of a request: that of the piece of its command that holds it (R356, R472). -/
def State.reqVa (s : State) (r : RReq) : Nat :=
  match (s.cmd? r.cid).bind (fun c => c.pieces.find? (fun p => decide (p.pa ≤ r.pa) && decide (r.pa < p.pa + p.len))) with
  | some p => p.va + (r.pa - p.pa)
  | none => r.addr

/-- An error answers a core's request: a load and an atomic name their number, a store, a signal or a wait its instruction
and lanes (R194, R196, R546). -/
def State.failCore (s : State) (r : RReq) (core slot ref cause : Nat) : State :=
  if r.kind = 1 ∨ r.kind = 4 then s.loadExc core slot ref cause
  else if r.kind = 3 then s.loadExc core slot (ref / 32) cause
  else s.raiseAt core slot r.cid r.pc { cause := cause, lanes := r.mask }

/-- An outstanding request completes towards its requester with an error, or with the permission error of R362 (R546):
MEM_ERR or PERM at a core, a halt or PERM at a mover, an error response at a foreign engine, RETRY_HW or FAULT_PERM for
another access of a command. -/
def State.failReq (s : State) (r : RReq) (perm : Bool) : State :=
  let s1 := s.dropReq r
  if r.withdrawn then s1
  else
    match r.core, r.chan with
    | some (core, slot, ref), _ => s1.failCore r core slot ref (if perm then 9 else 0x0D)
    | none, some (m, c) =>
      if perm then s1.chanPerm m c (s1.reqVa r) true
      else if (s1.mover m).halted then s1 else s1.haltMover m r.pa
    | none, none =>
      match s1.cmd? r.cid with
      | some c =>
        if c.opcode = 0x60 ∧ (s1.engine c.engine).cmds.contains c.cid then s1.emit (.engineRsp c.engine true [])
        else s1.killCmd r.cid (if perm then 0x13 else 0x11)
          (some (if perm then xlateErr (s1.reqVa r) 7 else hwErr (if r.kind = 1 then 5 else 2) 0 r.pa))
      | none => s1

/-- A node has left the map whose routes are in place (R246, R547). -/
def State.leftMap (s : State) (n : Nat) : Bool := n != s.nodeId && (tfind s.fab.next n).isNone

/-- Every request to the nodes that a predicate picks ends in an error (R547). -/
def State.failNodes (s : State) (p : Nat → Bool) : State :=
  (s.fab.reqs.filter (fun r => p r.node)).foldl (fun t r => if t.fab.reqs.contains r then t.failReq r false else t) s

/-- Snoops of nodes that can no longer be reached count as acknowledged. -/
def State.dropSnoops (s : State) (p : Nat → Bool) : State :=
  s.lines.foldl (fun t e => (e.2.snoops.filter p).foldl (fun t n => t.snoopAck e.1 n []) t) s

/-! ## Fabric-ready (R542, R543, R547) -/

/-- Fabric-ready for the routes in place: GO is flooded, state 3, the epoch flips after an earlier fabric-ready, and each
installed node absent from the map gets a LINK record (R542, R543). -/
def State.doGo (s : State) (crc : W32) (table : Tbl Nat) (from_ : Option Nat) : State :=
  let d := s.topo
  let s1 := { s with fab := { s.fab with
    state := 3, wasReady := true, mapCrc := crc, placed := none, readyCount := 0, heldReady := [], goAt := s.btime.toNat,
    oldNext := if s.fab.wasReady then some s.fab.next else none, next := table,
    epoch := if s.fab.wasReady then !s.fab.epoch else s.fab.epoch } }
  let s2 := (s1.upPorts.filter (fun q => some q != from_)).foldl (fun t q => t.emit (.go q crc)) s1
  ((List.range (topoNodes d)).filter (fun n => topoInstalled d n && n != s.nodeId && (tfind table n).isNone)).foldl
    (fun t n => t.linkRecord 0xFF 5 n 0) s2

/-- READYs for the routes in place: the root counts them and starts GO once they cover its map; others forward (R542). -/
def State.countReady (s : State) (crc : W32) (table : Tbl Nat) (n : Nat) : State :=
  if s.mapRoot = s.nodeId then
    let k := s.fab.readyCount + n
    if s.mapNodes.length ≤ k then s.doGo crc table none
    else { s with fab := { s.fab with readyCount := k } }
  else
    match (tfind table s.mapRoot).bind (fun k => (s.portsTo k).head?) with
    | some p => s.emit (.ready p crc n)
    | none => s

/-- The computed routes are in place (R542, R547): nodes that have left are unreachable, nodes that have entered are
reported, READY goes towards the root with what was held for this map. -/
def State.placeRoutes (s : State) : State :=
  match s.fab.computed with
  | none => s
  | some (crc, table) =>
    let gone := (s.fab.next.map (fun e => e.1)).filter (fun n => (tfind table n).isNone)
    let entered := (table.map (fun e => e.1)).filter (fun n => (tfind s.fab.next n).isNone)
    let held := ((s.fab.heldReady.filter (fun r => r.1 == crc)).map (fun r => r.2)).sum
    let s1 := { s with fab := { s.fab with
      computed := none, placed := some (crc, table), heldReady := [], readyCount := 0,
      next := if s.fab.wasReady then s.fab.next.filter (fun e => (tfind table e.1).isSome) else table,
      mapCrc := if s.fab.wasReady then s.fab.mapCrc else crc } }
    let s2 := gone.foldl (fun t n => t.linkRecord 0xFF 8 n 0) s1
    let s3 := if s.fab.wasReady then entered.foldl (fun t n => t.linkRecord 0xFF 6 n 0) s2 else s2
    let s4 := (s3.failNodes s3.leftMap).dropSnoops s3.leftMap
    s4.countReady crc table (1 + held)

/-! ## The commands -/

/-- LINK_PHY_UP: discovery starts on the port; with an invalid descriptor the link stays down (R527, R536, R538). -/
def execLinkPhyUp (p : Fin 32) (s : State) : Host.Outcome State Fault Refusal :=
  let s1 := s.updLink p.val (fun l => { l with phy := true })
  .next (if !s.portOn p.val || s.fab.dupDown || (s.link p.val).phy then s1
    else if topoValid s.topo then s1.linkState p.val .hello
    else s1.linkRecord p.val 4 0 0)

/-- LINK_PHY_DOWN: the PHY reports loss of link (R534, R562, R579). -/
def execLinkPhyDown (p : Fin 32) (s : State) : Host.Outcome State Fault Refusal :=
  let s1 := s.updLink p.val (fun l => { l with phy := false })
  .next (if (s.link p.val).phy then s1.linkDown p.val (if s.portOn p.val && !s.fab.dupDown then .training else .down) else s1)

/-- FLIT_RECEIVE; `bad` is the PHY's flag of an uncorrected flit (R531, R534, R562). -/
def execFlitReceive (p : Fin 32) (flit : BitVec 2048) (bad : Bool) (s : State) : Host.Outcome State Fault Refusal :=
  .next (s.receiveFlit p.val flit.toNat bad)

/-- LINK_ACK_TIMEOUT: no advance of ACK for 100 µs while flits are unacknowledged (R534). -/
def execLinkAckTimeout (p : Fin 32) (s : State) : Host.Outcome State Fault Refusal :=
  let l := s.link p.val
  .next (if l.st == .up && !l.retry.isEmpty && decide (l.ackAt + 100000 ≤ s.btime.toNat) then s.linkDown p.val .hello else s)

/-- HELLO_TIMER: a port whose PHY is up sends HELLO every 100 µs (R538). -/
def execHelloTimer (p : Fin 32) (s : State) : Host.Outcome State Fault Refusal :=
  .next (if (s.link p.val).phy && (s.link p.val).st != .down then
    s.emit (.hello p.val s.nodeId (BitVec.ofNat 32 (nbits s.topo 191 160))) else s)

/-- HELLO: the link is UP where the hello meets the three conditions, else MISWIRED (R538). -/
def execHello (p : Fin 32) (node : BitVec 14) (port : Fin 32) (crc : W32) (s : State) : Host.Outcome State Fault Refusal :=
  let l := s.link p.val
  let good := crc.toNat == nbits s.topo 191 160 && topoPeer s.topo s.nodeId p.val == some (node.toNat, port.val)
  .next (if !l.phy || l.st == .down || l.st == .training then s
    else if good then (if l.st == .up then s else s.linkUp p.val node.toNat port.val)
    else if l.st == .miswired then s
    else (s.linkDown p.val .miswired).linkRecord p.val 3 node.toNat 0)

/-- The SEQ of a record is newer, modulo 2^32 (R539). -/
def seqNewer (a b : W32) : Bool := decide (0 < (a - b).toNat) && decide ((a - b).toNat < 2 ^ 31)

/-- A newer record under the own identity: the own record supersedes it; more than four within 10 ms take all links down
(R539). -/
def State.ownNewer (s : State) (seq : W32) : State :=
  let recent := s.fab.dups.filter (fun d => decide (s.btime.toNat ≤ d.2 + 10000000))
  let dups := if recent.any (fun d => d.1 == seq.toNat) then recent else recent ++ [(seq.toNat, s.btime.toNat)]
  let s1 := { s with fab := { s.fab with dups := dups } }
  if 4 < dups.length then
    let s2 := (List.range 32).foldl (fun t p => t.linkDown p .down) s1
    ({ s2 with fab := { s2.fab with dupDown := true } }).linkRecord 0xFF 7 s.nodeId 0
  else ({ s1 with fab := { s1.fab with seq := seq + 1 } }).floodOwn

/-- LINKMAP (R539). -/
def execLinkmap (p : Fin 32) (r : LmRec) (s : State) : Host.Outcome State Fault Refusal :=
  .next (if (s.link p.val).st != .up then s
    else if r.node = s.nodeId then (if seqNewer r.seq s.fab.seq then s.ownNewer r.seq else s)
    else
      let newer := match tfind s.fab.map r.node with
        | some old => seqNewer r.seq old.seq
        | none => true
      if newer then
        let s1 := { s with fab := { s.fab with map := tset s.fab.map r.node r } }.mapChanged
        (s1.upPorts.filter (fun q => q != p.val)).foldl (fun t q => t.emit (.linkmap q r)) s1
      else s)

/-- ROUTE_COMPUTE: after 10 ms in which the map has not changed (R540). -/
def execRouteCompute (s : State) : Host.Outcome State Fault Refusal :=
  .next (if s.fab.state == 1 && decide (s.fab.mapAt + 10000000 ≤ s.btime.toNat) then
    { s with fab := { s.fab with state := 2, computed := some (s.mapCrcNow, s.routes) } } else s)

/-- ROUTES_IN_PLACE (R542, R547). -/
def execRoutesInPlace (s : State) : Host.Outcome State Fault Refusal := .next s.placeRoutes

/-- READY: counted or forwarded for the map in place, held until the own routes are in place; one that names another map
is dropped (R542). -/
def execReady (p : Fin 32) (crc : W32) (count : Nat) (s : State) : Host.Outcome State Fault Refusal :=
  .next (if (s.link p.val).st != .up then s
    else
      match s.fab.placed with
      | some (own, table) => if own = crc then s.countReady crc table count else s
      | none =>
        if s.fab.state = 3 then s
        else { s with fab := { s.fab with heldReady := s.fab.heldReady ++ [(crc, count)] } })

/-- GO: for the map in place, flooded on; one of an older map is ignored (R542, R543, R548). -/
def execGo (p : Fin 32) (crc : W32) (s : State) : Host.Outcome State Fault Refusal :=
  .next (match s.fab.placed with
    | some (own, table) => if (s.link p.val).st == .up && own == crc then s.doGo crc table (some p.val) else s
    | none => s)

/-- EPOCH_TABLE_EXPIRY: old-epoch tables are kept for 10 ms after GO (R543). -/
def execEpochTableExpiry (s : State) : Host.Outcome State Fault Refusal :=
  .next (if s.fab.oldNext.isSome && decide (s.fab.goAt + 10000000 ≤ s.btime.toNat) then
    { s with fab := { s.fab with oldNext := none } } else s)

end Sys2Proof.Machine
end

