-- ==== Sys2Proof/Machine/Remote.lean ====
section
/-! DEFINITION. Remote operations over the links: requests at their home, responses at their requester, snoops, forwarding
and the request timeout (R230, R362, R535, R541, R543, R545 to R548). -/

namespace Sys2Proof.Machine

/-! ## Messages that have been received -/

/-- A message is taken from a port's receiver, which owes its credits (R533). -/
def State.takeRx (s : State) (p : Nat) (m : LMsg) : State :=
  s.updLink p (fun l => { l with
    rx := l.rx.erase m, owed := tset l.owed m.vc.toNat (tget l.owed m.vc.toNat 0 + msgCost m) })

/-- A message for another node goes on by the table of its epoch; a request that no port can carry is answered (R541,
R543, R546). -/
def State.forward (s : State) (m : LMsg) : State :=
  match s.portFor m with
  | some q => s.sendOn q m
  | none => if m.kind.toNat < 8 then s.errRsp m 3 else s

/-- A received message of a KIND: taken, forwarded, or handled here. -/
def State.onMsg (s : State) (p : Nat) (m : LMsg) (k : Nat) (f : State → State) : State :=
  if !(s.link p).rx.contains m || m.kind.toNat != k then s
  else
    let s1 := s.takeRx p m
    if m.dst.toNat ≠ s.nodeId then s1.forward m else f s1

/-! ## Requests at their home (R362, R535) -/

/-- A remote request at this node: absent units and permission first, then the home of its line (R229, R362, R463). -/
def State.serveReq (s : State) (p : Nat) (m : LMsg) (k : Nat) (kind : HomeKind) : State :=
  s.onMsg p m k (fun t =>
    if t.remoteAbsent m then t.errRsp m 2
    else if !t.remoteAllowed m then t.errRsp m 1
    else t.requestOnce (t.localPa m.addr.toNat / 128)
      { who := { remote := true, id := p, node := m.src.toNat }, kind := kind, msg := some m })

/-- What a COH request asks for (R535). -/
def cohKind (s : State) (m : LMsg) : HomeKind :=
  match m.aux.toNat with
  | 0 => .shared
  | 1 => .exclusive
  | 2 => .upgrade
  | _ => .writeBack (s.msgCells m)

/-- RD (R362, R535). -/
def execRd (p : Fin 32) (m : LMsg) (s : State) : Host.Outcome State Fault Refusal := .next (s.serveReq p.val m 0x01 .read)

/-- WR: acknowledged once performed (R535, R545). -/
def execWr (p : Fin 32) (m : LMsg) (s : State) : Host.Outcome State Fault Refusal := .next (s.serveReq p.val m 0x02 (.write []))

/-- ATOM (R224, R535). -/
def execAtom (p : Fin 32) (m : LMsg) (s : State) : Host.Outcome State Fault Refusal :=
  .next (s.serveReq p.val m 0x03 (.write []))

/-- COH: a reserved AUX is a protocol error of the port (R227, R535). -/
def execCoh (p : Fin 32) (m : LMsg) (s : State) : Host.Outcome State Fault Refusal :=
  .next (if 3 < m.aux.toNat then
    s.onMsg p.val m 0x04 (fun t => t.updLink p.val (fun l => { l with protoErr := stickAdd 32 l.protoErr 1 }))
  else s.serveReq p.val m 0x04 (cohKind s m))

/-- MVW: as WR, without allocation at the home (R535). -/
def execMvw (p : Fin 32) (m : LMsg) (s : State) : Host.Outcome State Fault Refusal :=
  .next (s.serveReq p.val m 0x05 (.write []))

/-- REMOTE_EVSIG (R234, R235, R535). -/
def execRemoteEvsig (p : Fin 32) (m : LMsg) (s : State) : Host.Outcome State Fault Refusal :=
  .next (s.serveReq p.val m 0x06 (.write []))

/-- REMOTE_EVWAIT (R234, R235, R535). -/
def execRemoteEvwait (p : Fin 32) (m : LMsg) (s : State) : Host.Outcome State Fault Refusal :=
  .next (s.serveReq p.val m 0x07 (.write []))

/-- The line of a message from its home, by physical address over 128. -/
def homeLine (m : LMsg) : Nat := (m.src.toNat * 2 ^ 40 + m.addr.toNat) / 128

/-- The dirty data of a line that this node holds, or is writing back (R227, R228). -/
def State.dirtyData (s : State) (line : Nat) : List Byte :=
  let x := s.line line
  if x.st = .modified ∨ x.st = .owned then s.readBytes (line * 128) 128
  else
    match s.fab.reqs.find? (fun r => r.kind == 4 && r.msg.aux == 3 && r.pa / 128 == line) with
    | some r => r.msg.data
    | none => []

/-- The state of a copy that a snoop leaves: none where it invalidates, else one that others may share (R227, R228). -/
def stSnooped (inval : Bool) (st : LineSt) : LineSt := if inval then .inv else stShared st

/-- SNP: the copy is given up, or shared, and acknowledged with its data where it is dirty; an answer with the line that is
still on its way leaves no copy (R227, R228, R535; log 21). -/
def execSnp (p : Fin 32) (m : LMsg) (s : State) : Host.Outcome State Fault Refusal :=
  .next (s.onMsg p.val m 0x08 (fun t =>
    let line := homeLine m
    let data := t.dirtyData line
    let t1 := if (t.line line).st = .inv then t
      else t.updLine line (fun x => { x with st := stSnooped (m.aux.getLsbD 0) x.st })
    ({ t1 with fab := { t1.fab with reqs := t1.fab.reqs.map (fun (r : RReq) =>
        if r.kind = 4 ∧ r.msg.aux ≠ 3 ∧ r.pa / 128 = line then { r with snooped := true } else r) } }).sendMsg
      (reply m 0x14 0 data)))

/-- SNP_ACK: the last one lets the home perform its request; data is that of an M or O copy (R228, R535). -/
def execSnpAck (p : Fin 32) (m : LMsg) (s : State) : Host.Outcome State Fault Refusal :=
  .next (s.onMsg p.val m 0x14 (fun t => t.snoopAck (t.localPa m.addr.toNat / 128) m.src.toNat (t.msgCells m)))

/-! ## Responses at their requester (R535, R545, R546) -/

/-- The request that a response answers. -/
def State.reqOf (s : State) (tag : W16) : Option RReq := s.fab.reqs.find? (fun r => r.tag == tag.toNat)

/-- Change an outstanding request. -/
def State.updReq (s : State) (tag : Nat) (f : RReq → RReq) : State :=
  { s with fab := { s.fab with reqs := s.fab.reqs.map (fun r => if r.tag = tag then f r else r) } }

/-- A response for a request of some KINDs; any other is late, discarded and counted, one that a fence has cut off for its
hide (R463, R546). -/
def State.onRsp (s : State) (p : Nat) (m : LMsg) (k : Nat) (kinds : List Nat) (f : State → RReq → State) : State :=
  s.onMsg p m k (fun t =>
    match t.reqOf m.tag with
    | some r =>
      match r.late with
      | some h => (t.dropReq r).lateFor h
      | none =>
      if kinds.contains r.kind then f t r else t.updLink p (fun l => { l with lateRsp := stickAdd 32 l.lateRsp 1 })
    | none => t.updLink p (fun l => { l with lateRsp := stickAdd 32 l.lateRsp 1 }))

/-- Bytes read at a remote node are known. -/
def State.learn (s : State) (pa : Nat) (bs : List Byte) : State := s.writeBytes pa bs

/-- A part of a load's data has come back (R210). -/
def State.loadPart (s : State) (core slot idx : Nat) : State :=
  s.updChain core slot (fun c => { c with loads := c.loads.map (fun l =>
    if l.idx = idx then { l with await := l.await - 1 } else l) })

/-- RD_RSP: read data of a device register for a load, or of a side record (R221, R535, R583). -/
def execRdRsp (p : Fin 32) (m : LMsg) (s : State) : Host.Outcome State Fault Refusal :=
  .next (s.onRsp p.val m 0x10 [1] (fun t r =>
    let t1 := (t.dropReq r).learn r.pa m.data
    match r.core with
    | some (core, slot, idx) => t1.loadPart core slot idx
    | none => t1.gotSide r.cid r.pa m.data.length))

/-- A signal of a command has been performed at its home: a counting event's is over, an arrival at a barrier object has
been registered, and its release there concerns nobody (R313, R535). -/
def State.signalled (s : State) (r : RReq) : State :=
  if r.withdrawn then (if r.waits then s else s.dropReq r)
  else if r.core.isSome then (if r.waits then s else s.dropReq r)
  else
    let s1 := if r.waits then s.updReq r.tag RReq.withdraw else s.dropReq r
    if r.chan.isNone && r.cid != 0 then s1.complete r.cid 0 none else s1

/-- WR_ACK: a write, mover write or signal has been performed at its home; a chain's arrival at a barrier object has been
registered, and waits on (R215, R235, R535, R545). -/
def execWrAck (p : Fin 32) (m : LMsg) (s : State) : Host.Outcome State Fault Refusal :=
  .next (s.onRsp p.val m 0x11 [2, 5, 6] (fun t r => if r.kind = 6 then t.signalled r else t.dropReq r))

/-- ATOM_RSP: the previous value goes to its lane, whose load number and lane come with the request, or to the foreign engine
that asked (R224, R535, R564). -/
def execAtomRsp (p : Fin 32) (m : LMsg) (s : State) : Host.Outcome State Fault Refusal :=
  .next (s.onRsp p.val m 0x12 [3] (fun t r =>
    match r.core with
    | some (core, slot, x) => (t.dropReq r).atomLane core slot (x / 32) (x % 32) m.data
    | none =>
      match t.cmd? r.cid with
      | some c => (t.dropReq r).emit (.engineRsp c.engine false m.data)
      | none => t.dropReq r))

/-- The state that a COH_RSP grants: 1 S, 2 E in AUX bits 3:1 (R227, R535; log 21). -/
def grantSt (aux : BitVec 8) : LineSt :=
  match aux.toNat / 2 % 8 with
  | 1 => .shared
  | 2 => .excl
  | _ => .inv

/-- A line of another node has come: this node holds it as granted, unless a snoop has overtaken the answer (R227,
R228). -/
def State.fillCopy (s : State) (r : RReq) (m : LMsg) : State :=
  let line := r.pa / 128
  if r.snooped || m.data.length != 128 then s
  else
    (((s.learn (line * 128) m.data).updLine line (fun x => { x with st := grantSt m.aux })).useLine line).makeRoom line

/-- COH_RSP: AUX 1 means retry; else the line's data and granted state, or the answer to a write-back (R227, R230,
R535). -/
def execCohRsp (p : Fin 32) (m : LMsg) (s : State) : Host.Outcome State Fault Refusal :=
  .next (if m.aux.getLsbD 0 then
    s.onRsp p.val m 0x13 [1, 2, 3, 4, 5, 6, 7] (fun t r => t.updReq r.tag (fun q => { q with retried := true }))
  else
    s.onRsp p.val m 0x13 [4] (fun t r =>
      if r.msg.aux = 3 then t.dropReq r else (t.dropReq r).fillCopy r m))

/-- RESERVED_OK: the requester resends into its reserved credit (R230). -/
def execReservedOk (p : Fin 32) (m : LMsg) (s : State) : Host.Outcome State Fault Refusal :=
  .next (s.onRsp p.val m 0x15 [1, 2, 3, 4, 5, 6, 7] (fun t r =>
    if r.retried then (t.updReq r.tag (fun q => { q with retried := false })).sendMsg r.msg else t))

/-- A chain that is in a save record waits no longer (R237). -/
def State.wakeSaved (s : State) (r : RReq) : State :=
  s.updGroup r.cid r.part.1 (fun x => { x with savedChains := x.savedChains.map (fun c =>
    if c.inGroup = r.part.2 ∧ c.st = .eventWait then { c with st := .ready } else c) })

/-- WAKE: the wait ends, an acquire at system scope; a WAIT command completes; a unit that nothing waits for any more goes
back (R236, R237, R313, R535; log 21). -/
def execWake (p : Fin 32) (m : LMsg) (s : State) : Host.Outcome State Fault Refusal :=
  .next (s.onRsp p.val m 0x16 [6, 7] (fun t r =>
    let t1 := t.dropReq r
    if r.withdrawn then
      (if r.kind = 7 ∧ !r.msg.aux.getLsbD 0 then t1.postSignal gateId { ctx := r.ctx, hide := r.msg.hide.toNat } r.pa 1 else t1)
    else if r.saved then t1.wakeSaved r
    else
      match r.core with
      | some (core, slot, _) =>
        (t1.updChain core slot (fun c => { c with st := if c.st = .eventWait then .ready else c.st })).invalidateDcache core
      | none => t1.complete r.cid 0 none))

/-- ERR_RSP: AUX 1 the permission error of R362, 2 and 3 as a timeout (R546). -/
def execErrRsp (p : Fin 32) (m : LMsg) (s : State) : Host.Outcome State Fault Refusal :=
  .next (s.onRsp p.val m 0x1F [1, 2, 3, 4, 5, 6, 7] (fun t r => t.failReq r (m.aux == 1)))

/-- The request timeout holds for a request: for no chain's wait and no WAIT, which end with their object (R246, R546). -/
def RReq.timed (r : RReq) : Bool := !r.waits || (r.kind == 6 && r.core.isNone && !r.withdrawn)

/-- REMOTE_REQUEST_TIMEOUT: unanswered within 0x8000:04; a wait ends only where its node has left the map (R246, R546,
R547). -/
def execRemoteRequestTimeout (tag : W16) (s : State) : Host.Outcome State Fault Refusal :=
  .next (match s.reqOf tag with
    | some r =>
      if (r.timed && decide (r.at_ + 1000 * s.kodRun 0x8000 4 ≤ s.btime.toNat)) || (r.waits && s.leftMap r.node) then
        s.failReq r false
      else s
    | none => s)

end Sys2Proof.Machine
end

