-- ==== Sys2Proof/Machine/Events.lean ====
section
/-! DEFINITION. The Event Gatherer's commands, watermarks' sticky bits and the mailboxes (R431 to R442, R446 to R455). -/

namespace Sys2Proof.Machine

/-! ## Latching and moderation (R432, R433, R437, R442) -/

/-- PD_CTL is powered: main power is present (R454). -/
def State.ctlUp (s : State) : Bool := s.pow.boot != .off

/-- A host write to the PF's regions of PD_CTL is taken: it is powered, and the PF is not being reset (R37, R292, R454). -/
def State.hostCtl (s : State) : Bool := s.running && !(s.fn 0).resetting

/-- A host write to those regions that is not taken: an error response while the path is down, else it is ignored (R37,
R292, R335). -/
def State.hostRefused (s : State) : State := if s.running then s else s.emit (.hostError 0)

/-- Sources of a word whose bits are set: source 64·w + i. -/
def wordSources (w : Nat) (bits : W64) : List Nat := ((List.range 64).filter (fun i => bits.getLsbD i)).map (fun i => 64 * w + i)

/-- A write to SRC_SETP sets pending bits as a rising edge does (R433). -/
def State.setPending (s : State) (w : Nat) (bits : W64) : State := (wordSources w bits).foldl (fun t n => t.latch n) s

/-- A write to SRC_PEND withdraws pending firings (R433, R455). -/
def State.withdraw (s : State) (w : Nat) (bits : W64) : State :=
  (wordSources w bits).foldl (fun t n => t.updSrc n (fun x => { x with pending := false, presented := false })) s

/-- Bits of SRC_SETP that the host view takes: group 62, in word 15 (R440, R450). -/
def hostSetpMask (w : Nat) (bits : W64) : W64 := if w = 15 then bits &&& 0x0000FFFF00000000 else 0

/-! ## Acknowledge and end of interrupt (R438 to R440) -/

/-- The running level of a target, none with an empty stack (R438). -/
def Tgt.level (t : Tgt) : Option Nat := t.stack.head?.map (fun e => e.2)

/-- A source is eligible at a target (R438). -/
def State.eligible (s : State) (t n : Nat) : Bool :=
  let x := s.src n
  x.pending && x.enable && x.presented && x.target == t
    && (match (s.tgt t).level with | some l => decide (x.level < l) | none => true)

/-- The eligible source with the lowest level, and the lowest number within it (R438). -/
def State.bestSource (s : State) (t : Nat) : Option Nat :=
  ((s.eg.srcs.map (fun e => e.1)).filter (s.eligible t)).foldl (fun b n =>
    match b with
    | none => some n
    | some m => if (s.src n).level < (s.src m).level then some n else some m) none

/-- A read of TGT_ACK (R438). -/
def State.ack (s : State) (t : Nat) : State :=
  match s.bestSource t with
  | none => s.emit (.tgtAck t 0x80000000)
  | some n =>
    let lv := (s.src n).level
    ((s.updSrc n (fun x => { x with pending := false, presented := false, insvc := true })).updTgt t (fun x => { x with
      stack := (n, lv) :: x.stack })).emit (.tgtAck t (BitVec.ofNat 32 (n + lv * 2 ^ 16)))

/-- A mismatch: EG_STAT, source 1,008 + t, and an error record (R439). -/
def State.eoiMismatch (s : State) (t n : Nat) : State :=
  (({ s with eg := { s.eg with mismatches := stick32 (s.eg.mismatches + 1) } }).latch (1008 + t)).postGlobal 0x14
    (bodyAt 28 t + bodyAt 30 n)

/-- A write to TGT_EOI (R439). -/
def State.eoi (s : State) (t n : Nat) : State :=
  match (s.tgt t).stack with
  | (top, _) :: rest =>
    if top = n then (s.updTgt t (fun x => { x with stack := rest })).updSrc n (fun x => { x with insvc := false })
    else s.eoiMismatch t n
  | [] => s.eoiMismatch t n

/-! ## Watermarks and mailboxes -/

/-- WM_CTRL (R446). -/
def State.wmCtrl (s : State) (n : Nat) : Nat :=
  let w := s.wm n
  (if w.sticky then 1 else 0) + (if w.enable then 2 else 0) + (if w.above then 4 else 0) + w.hyst % 65536 * 2 ^ 32

/-- A write to a watermark through the host view is journaled as a KOD write; the entry that it names the manual leaves
open for WM_CTRL (R450; log 4). -/
def State.journalWm (s : State) (old new : Nat) : State :=
  ((s.freshNext).freshNext).journal 7 7 0 (s.freshVal 16).toNat ((s.freshNext).freshVal 8).toNat 0 old new

/-- A write of 1 to STICKY clears STICKY and COUNT (R448). -/
def State.clearSticky (s : State) (n : Nat) : State := s.updWm n (fun w => { w with sticky := false, count := 0 })

/-- A mailbox channel. -/
def State.box (s : State) (c : Nat) : Mbox := tget s.boxes c {}

/-- Change a mailbox channel. -/
def State.updBox (s : State) (c : Nat) (f : Mbox → Mbox) : State := { s with boxes := tupd s.boxes c {} f }

/-- A host request may reach a channel: a secure one needs the trust attribute (R453). -/
def boxAllowed (c : Nat) (trust : Bool) : Bool := decide (8 ≤ c) || trust

/-- MB_IN (R451). -/
def State.boxIn (s : State) (c : Nat) (v : W64) : State :=
  if (s.box c).inFull then s.updBox c (fun b => { b with drops := stickAdd 64 b.drops 1 })
  else (s.updBox c (fun b => { b with inWord := v, inGen := (s.fn 0).gen, inFull := true })).latch (704 + c)

/-- MB_OUT (R451). -/
def State.boxOut (s : State) (c : Nat) (v : W64) : State :=
  if (s.box c).outFull then s.updBox c (fun b => { b with drops := stickAdd 64 b.drops 1 })
  else s.updBox c (fun b => { b with outWord := v, outGen := s.ao.fwGen, outFull := true })

/-- Firmware's TAKE (R451). -/
def State.boxTakeIn (s : State) (c : Nat) : State := s.updBox c (fun b => { b with inFull := false })

/-- The host's TAKE latches source 720 + ch (R451). -/
def State.boxTakeOut (s : State) (c : Nat) : State :=
  if (s.box c).outFull then (s.updBox c (fun b => { b with outFull := false })).latch (720 + c) else s

/-! ## The commands -/

/-- SOURCE_LATCH: a rising edge of a source's signal (R432). -/
def execSourceLatch (n : Fin 1024) (s : State) : Host.Outcome State Fault Refusal :=
  .next (if s.ctlUp then
    { s with eg := { s.eg with high := linsert s.eg.high n.val } }.latch n.val
  else s)

/-- SRC_SETP_WRITE (R433, R450). -/
def execSrcSetpWrite (host : Bool) (w : Fin 16) (bits : W64) (s : State) : Host.Outcome State Fault Refusal :=
  .next (if host && !s.hostCtl then s.hostRefused
    else if s.ctlUp then s.setPending w.val (if host then hostSetpMask w.val bits else bits) else s)

/-- SRC_PEND_WRITE (R433). -/
def execSrcPendWrite (w : Fin 16) (bits : W64) (s : State) : Host.Outcome State Fault Refusal :=
  .next (if s.ctlUp then s.withdraw w.val bits else s)

/-- HOLD_OFF_EXPIRY: HOLD_US after the first latch (R442). -/
def execHoldOffExpiry (g : Fin 64) (s : State) : Host.Outcome State Fault Refusal :=
  let x := s.grp g.val
  .next (if s.inHoldOff g.val && x.latches != 0 && decide (x.first + 1000 * max 1 x.holdUs ≤ s.btime.toNat) then
    s.presentGrp g.val else s)

/-- COALESCE_EXPIRY: COAL_TIME after the first latch (R442). -/
def execCoalesceExpiry (g : Fin 64) (s : State) : Host.Outcome State Fault Refusal :=
  let x := s.grp g.val
  .next (if s.inCoalescing g.val && x.latches != 0 && x.coalTime != 0
      && decide (x.first + 1000 * x.coalTime ≤ s.btime.toNat) then s.presentGrp g.val else s)

/-- ACKNOWLEDGE: a read of TGT_ACK (R438). -/
def execAcknowledge (t : Fin 4) (s : State) : Host.Outcome State Fault Refusal :=
  .next (if s.ctlUp then s.ack t.val else s)

/-- END_OF_INTERRUPT: a write to TGT_EOI (R439, R440). -/
def execEndOfInterrupt (t : Fin 4) (src : BitVec 10) (s : State) : Host.Outcome State Fault Refusal :=
  .next (if s.ctlUp then s.eoi t.val src.toNat else s)

/-- WATERMARK_STICKY_CLEAR: a write of 1 to STICKY; through the host view it is journaled (R448, R450). -/
def execWatermarkStickyClear (n : Fin 512) (host : Bool) (s : State) : Host.Outcome State Fault Refusal :=
  .next (if host && !s.hostCtl then s.hostRefused
  else if s.ctlUp && decide (n.val < 272) then
    (if host then (s.clearSticky n.val).journalWm (s.wmCtrl n.val) ((s.clearSticky n.val).wmCtrl n.val)
     else s.clearSticky n.val)
  else s)

/-- MAILBOX_IN_WRITE: a host write to MB_IN; a secure channel refuses one without the trust attribute (R449, R451,
R453). -/
def execMailboxInWrite (ch : Fin 16) (trust : Bool) (val : W64) (s : State) : Host.Outcome State Fault Refusal :=
  .next (if !s.hostCtl then s.hostRefused else if boxAllowed ch.val trust then s.boxIn ch.val val else s.emit (.hostError 0))

/-- MAILBOX_OUT_WRITE: firmware writes MB_OUT (R449, R451). -/
def execMailboxOutWrite (ch : Fin 16) (val : W64) (s : State) : Host.Outcome State Fault Refusal :=
  .next (if s.ctlUp then s.boxOut ch.val val else s)

/-- MAILBOX_TAKE_INBOUND: firmware's TAKE (R451). -/
def execMailboxTakeInbound (ch : Fin 16) (s : State) : Host.Outcome State Fault Refusal :=
  .next (if s.ctlUp then s.boxTakeIn ch.val else s)

/-- MAILBOX_TAKE_OUTBOUND: the host's TAKE (R451, R453). -/
def execMailboxTakeOutbound (ch : Fin 16) (trust : Bool) (s : State) : Host.Outcome State Fault Refusal :=
  .next (if !s.hostCtl then s.hostRefused else if boxAllowed ch.val trust then s.boxTakeOut ch.val else s.emit (.hostError 0))

end Sys2Proof.Machine
end

