-- ==== Sys2Proof/Machine/Sched.lean ====
section
/-! DEFINITION. Sharing and scheduling in time: furlong moves, spans, grains, the core slice, measured slowdown,
rebalancing, the end of a migration fence, and deadlock detection (R240 to R245, R376 to R408). -/

namespace Sys2Proof.Machine

/-! ## Moving a furlong (R376 to R379, R408) -/

/-- Furlongs that count for a hide: its own that are not leaving, and those on their way to it (R376). -/
def State.furlongCount (s : State) (h : Nat) : Nat :=
  ((s.furlongsOf h).filter (fun f => !(s.moves.any (fun m => m.f == f)))).length
    + (s.moves.filter (fun m => m.dst == some h)).length

/-- The hide that owns a furlong by its entry, none while it is unassigned (R376). -/
def State.owner (s : State) (f : Nat) : Option Nat :=
  if nbit (s.kodRun 0x3020 f) 7 then some (s.kodRun 0x3020 f % 16) else none

/-- The owner that a value names. -/
def ownerOf (v : Nat) : Option Nat := if nbit v 7 then some (v % 16) else none

/-- A move request is refused (R10, R376). -/
def State.moveRefused (s : State) (f : Nat) (dst : Option Nat) : Bool :=
  s.moves.any (fun m => m.f == f)
    || (match dst with
      | some d => decide (8 ≤ d) || !s.hideExists d || decide (s.kodRun (0x3000 + d) 6 < s.furlongCount d + 1)
      | none => false)
    || (match s.owner f with
      | some a => s.hideExists a && decide (s.furlongCount a < max 1 (s.kodRun (0x3000 + a) 5) + 1)
      | none => false)

/-- The event record of a move for one hide: which of the notice codes 1 to 7 it carries, and its data, the manual leaves
open (R327, R379; log 4). -/
def State.moveNotice (s : State) : State :=
  ((s.freshNext).freshNext).postNotice 0 (1 + (s.freshVal 16).toNat % 7) 0xFFFF ((s.freshNext).freshVal 32).toNat 0 0

/-- A move starts: it waits for a recovery of a hide concerned, else its drain window runs; an unassigned furlong needs no
drain (R377, R379, R408). -/
def State.beginMove (s : State) (f : Nat) (dst : Option Nat) (byManager : Bool) : State :=
  let src := s.owner f
  let m : Move := { f := f, src := src.getD 0, dst := dst, from_ := s.btime.toNat, step := if src.isSome then 0 else 2,
                    byManager := byManager }
  let s1 := { s with moves := s.moves ++ [m], mgrMoved := s.mgrMoved || byManager }
  ((s1.startMoves).moveNotice).moveNotice

/-- Groups on a furlong. -/
def State.groupsOnFurlong (s : State) (f : Nat) : List Group :=
  s.groups.filter (fun g => match g.core with | some i => i / 17 == f | none => false)

/-- The end of the drain window: each group is pre-empted, or its context migrates once no handshake is under way
(R377 step 3, R404, R408). -/
def State.drainGroups (s : State) (f : Nat) : State :=
  (s.groupsOnFurlong f).foldl (fun t g =>
    match t.group? g.cid g.g with
    | none => t
    | some x =>
      if x.saving then t
      else if t.recordFits x then t.preempt x.cid x.g false
      else if (t.ctx x.ctx).fenced || !(t.ctx x.ctx).shakes.isEmpty then t
      else t.fenceCtx x.ctx false) s

/-- The furlong leaves its hide: the acre has one row less, an operation boundary; its stopped operation starts again from
its first column block (R377 steps 3 to 5). A move to unassigned then powers the furlong down. -/
def State.leaveSource (s : State) (m : Move) : State :=
  let s1 := (s.returnAcre m.src).scrubFurlong m.f
  let s2 : State := { s1 with moves := s1.moves.map (fun (x : Move) => if x.f = m.f then { x with step := 2 } else x) }
  let s3 := (s2.updAcre m.src (fun x => { x with blocked := s2.drainsFor m.src || (s2.hide m.src).recovery })).acreBoundary m.src
  match m.dst with
  | some _ => s3
  | none => ({ s3.setRun 0x3020 m.f 0 with moves := s3.moves.filter (fun x => x.f != m.f) } : State).furlongOff m.f

/-- DRAIN_WINDOW_EXPIRY: at the window's end the groups are pre-empted or migrated; once none is left, the furlong leaves
(R377, R404). -/
def execDrainWindowExpiry (f : Fin 16) (s : State) : Host.Outcome State Fault Refusal :=
  .next (match s.moves.find? (fun m => m.f == f.val && m.step == 1) with
    | some m =>
      if decide (m.from_ + 1000 * s.kodRun (0x5000 + m.src) 6 ≤ s.btime.toNat) then
        let s1 := s.drainGroups f.val
        if (s1.groupsOnFurlong f.val).isEmpty
            && (List.range 17).all (fun c => (s1.core (coreIdx f.val c)).sb.isEmpty) then s1.leaveSource m
        else s1
      else s
    | none => s)

/-- FURLONG_JOIN: the scrubbed furlong joins its new hide, powered (R36, R377 step 6, R526). -/
def execFurlongJoin (f : Fin 16) (s : State) : Host.Outcome State Fault Refusal :=
  .next (match s.moves.find? (fun m => m.f == f.val && m.step == 2) with
    | some m =>
      match m.dst with
      | some d =>
        { (s.scrubFurlong f.val).setRun 0x3020 f.val (0x80 + d) with
          moves := s.moves.filter (fun x => x.f != f.val)
          pow := { s.pow with fOn := linsert s.pow.fOn f.val, lOn := linsert s.pow.lOn f.val,
                              lRet := s.pow.lRet.filter (fun x => x != f.val) } }
      | none => s
    | none => s)

/-! ## Spans (R393 to R395, R400) -/

/-- Class-1 kernels of the tag served now that wait with a group, and their saved groups: what each needs on a core. -/
def State.spanWaits (s : State) (h : Nat) : List (Cmd × Option Group) :=
  let served := s.cmds.filter (fun c => c.hide == h && c.cls == 1 && s.tagServed h (s.queue c.fn c.q).tableTag
    && c.opcode == 0x30 && c.phase == .running && s.ctxOpen c.ctx)
  (served.filter s.kernelOpen).map (fun c => (c, none))
    ++ served.flatMap (fun c => (s.groups.filter (fun g => g.cid == c.cid && g.core.isNone)).map (fun g => (c, some g)))

/-- A waiting group fits on a core beside some groups. -/
def State.waitFits (s : State) (w : Cmd × Option Group) (gs : List Group) : Bool :=
  match w.2 with
  | none => s.nextFits w.1 gs
  | some g => s.fitsBeside w.1.hide w.1.cls g.chains g.vregs g.lsSize gs

/-- Groups of classes 2 and 3 on a core that hinder a waiting group there are pre-empted (R394, R339). -/
def State.clearFor (s : State) (h : Nat) (w : Cmd × Option Group) : State :=
  let cores := (s.hideCores h).filter (fun i => s.coreTakes h i)
  if cores.any (fun i => s.waitFits w (s.groupsOn i)) then s
  else
    match cores.find? (fun i => s.waitFits w ((s.groupsOn i).filter (fun g => decide (g.cls ≤ 1) || !s.recordFits g))
        && (s.groupsOn i).any (fun g => decide (2 ≤ g.cls) && !g.saving)) with
    | some i => ((s.groupsOn i).filter (fun g => decide (2 ≤ g.cls))).foldl (fun t g =>
        if t.recordFits g then t.preempt g.cid g.g false else t) s
    | none => s

/-- The shadow table and span length become active at the start of span 0 (R395). -/
def State.activateTable (s : State) (h : Nat) : State :=
  s.updHide h (fun x => { x with
    spanLen := s.kodRun (0x5000 + h) 7
    table := ((List.range 256).map (fun i => (i, s.kodRun (0x5010 + h) i))).filter (fun e => e.2 != 0) })

/-- SPAN_START: in the first microsecond of a span (R394, R395). -/
def execSpanStart (h : Fin 8) (s : State) : Host.Outcome State Fault Refusal :=
  .next (if s.btime.toNat % (1000 * (s.hide h.val).spanLen) < 1000 then
    (let s1 := if s.spanNow h.val = 0 then s.activateTable h.val else s
     let s2 := (s1.spanWaits h.val).foldl (fun t w => t.clearFor h.val w) s1
     s2.retime)
  else s)

/-! ## Grains (R370, R396, R397) -/

/-- Charge a class-2 queue and its function (R397). -/
def State.chargeQueue (s : State) (fn q g : Nat) : State :=
  let w := max 1 (s.fnKod fn 5)
  (s.updFn fn (fun f => { f with v := (f.v + g * 65536 / w) % 2 ^ 64 })).updQueue fn q (fun r => { r with
    v := (r.v + g * 65536 / max 1 r.weight) % 2 ^ 64 })

/-- Cores on which a chain of a command is placed (R396). -/
def State.coresOf (s : State) (cid : Nat) : Nat :=
  ((s.groups.filter (fun g => g.cid == cid)).filterMap (fun g => g.core)).eraseDups.length

/-- Grains of a command for one microsecond, in units of 1/1024: core, acre, mover, foreign (R396). -/
def State.grainsOf (s : State) (c : Cmd) : Nat × Nat × Nat × Nat :=
  let core := 1024 * s.coresOf c.cid
  let acre := match (s.hide c.hide).acre.run with
    | some o => if o.cid = c.cid then 1024 * o.k * o.w else 0
    | none => 0
  let mover := if c.opcode = 0x20 ∨ c.opcode = 0x21 then 1024 * (s.chansOf c.cid).length else 0
  let foreign := if c.opcode = 0x60 ∧ (s.engine c.engine).cmds.contains c.cid then 16 * 1024 else 0
  (core, acre, mover, foreign)

/-- One command's charge for a microsecond (R396, R397). -/
def State.chargeCmd (s : State) (c : Cmd) : State :=
  let g := s.grainsOf c
  let s1 := if c.ctx = 0xFFFF then s else s.updCtx c.ctx (fun x => { x with
    grainsCore := x.grainsCore + g.1, grainsAcre := x.grainsAcre + g.2.1, grainsMover := x.grainsMover + g.2.2.1,
    grainsForeign := x.grainsForeign + g.2.2.2, foreignNs := x.foreignNs + (if g.2.2.2 = 0 then 0 else 1000) })
  if c.cls = 2 then s1.chargeQueue c.fn c.q (g.1 + g.2.1 + g.2.2.1 + g.2.2.2) else s1

/-- A furlong is busy: a group is placed there, or its hide's acre runs (R403). -/
def State.furlongBusy (s : State) (h f : Nat) : Bool := (s.hide h).acre.run.isSome || !(s.groupsOnFurlong f).isEmpty

/-- What a hide counts in a microsecond: switch time, busy furlongs, and a grain for each kernel of classes 1 to 3 that
waits with a group that fits nowhere (R396, R403; log 24). -/
def State.tickHide (s : State) (h : Nat) : State :=
  let switching := (s.groups.filter (fun g => g.saving && (s.ctx g.ctx).hide == h)).length
  let busy := ((s.furlongsOf h).filter (s.furlongBusy h)).length
  let waiting := (s.cmds.filter (fun c => c.hide == h && c.cls != 0 && s.kernelOpen c
    && !((s.hideCores h).any (fun i => s.coreTakes h i && s.nextFits c (s.groupsOn i))))).length
  s.updHide h (fun x => { x with switchGrains := stickAdd 64 x.switchGrains switching, busyTicks := x.busyTicks + busy
                                 waited := x.waited + waiting, ticks := x.ticks + 1 })

/-- GRAIN_CHARGE_TICK: each microsecond (R396, R397, R401). -/
def execGrainChargeTick (s : State) : Host.Outcome State Fault Refusal :=
  let s1 := s.cmds.foldl (fun t c => t.chargeCmd c) s
  let s2 := s1.hideList.foldl (fun t h => t.tickHide h) s1
  .next (s2.residents.foldl (fun t c =>
    if (t.ctxCmds c).isEmpty then t else t.updCtx c (fun x => { x with busy := x.busy + 1 })) s2)

/-! ## The core slice (R399) -/

/-- One class-2 queue is ahead of another by virtual time: by its function's, then by its own (R397). -/
def State.ahead (s : State) (a b : Cmd) : Bool :=
  if a.fn = b.fn then decide ((s.queue a.fn a.q).v < (s.queue b.fn b.q).v) else decide ((s.fn a.fn).v < (s.fn b.fn).v)

/-- A group of a class-2 queue with a lower virtual time waits for what a group holds (R399). -/
def State.sliceWanted (s : State) (x : Group) (c : Cmd) (core : Nat) : Bool :=
  let gs := s.groupsOn core
  let less := gs.filter (fun g => !(g.cid == x.cid && g.g == x.g))
  s.cmds.any (fun k => k.cls == 2 && k.hide == c.hide && k.opcode == 0x30 && k.phase == .running && s.ctxOpen k.ctx && s.ahead k c
    && ((s.kernelOpen k && !s.nextFits k gs && s.nextFits k less)
      || s.groups.any (fun g => g.cid == k.cid && g.core.isNone && !s.waitFits (k, some g) gs && s.waitFits (k, some g) less)))

/-- CORE_SLICE_EXPIRY (R399). -/
def execCoreSliceExpiry (cid g : Nat) (s : State) : Host.Outcome State Fault Refusal :=
  .next (match s.group? cid g, s.cmd? cid with
    | some x, some c =>
      match x.core with
      | some i =>
        if x.cls == 2 && !x.saving && decide (x.since + 1000 * s.kodRun (0x5000 + c.hide) 8 ≤ s.btime.toNat)
            && s.recordFits x && s.sliceWanted x c i then s.preempt cid g false
        else s
      | none => s
    | _, _ => s)

/-! ## Measured slowdown (R401, R402) -/

/-- Slowdown, unsigned 8.8: T_b / (T_b − T_h), saturating (R401). -/
def slowdownOf (b h : Nat) : Nat := if b = 0 then 0x100 else if b ≤ h then 0xFFFF else min 0xFFFF (256 * b / (b - h))

/-- The window of one context ends (R401, R402). -/
def State.endWindow (s : State) (c hindered : Nat) : State :=
  let x := s.ctx c
  let v := slowdownOf x.busy (min hindered x.busy)
  let thr := s.fnKod x.fn 6
  let past := thr != 0 && decide (thr < v)
  let s1 := s.updCtx c (fun y => { y with slowdown := v, busy := 0, above := past })
  if past && !x.above then s1.postNotice x.fn 3 c v 0 0 else s1

/-- SLOWDOWN_WINDOW_END: the hindered ticks of the window by context are the measurement's (R401, R402; log 24). -/
def execSlowdownWindowEnd (h : Fin 8) (hindered : List (Nat × Nat)) (s : State) : Host.Outcome State Fault Refusal :=
  .next ((s.residents.filter (fun c => (s.ctx c).hide == h.val)).foldl (fun t c =>
    t.endWindow c (((hindered.find? (fun e => e.1 == c)).map (fun e => e.2)).getD 0)) s)

/-! ## Automatic rebalancing (R403) -/

/-- Hides that rebalancing evaluates: those whose entry enables it. -/
def State.balanced (s : State) : List Nat := s.hideList.filter (fun h => s.kodRun (0x3000 + h) 0x0E == 1)

/-- A hide may not take part: in recovery, or with a move pending. -/
def State.moveBusy (s : State) (h : Nat) : Bool :=
  (s.hide h).recovery || s.moves.any (fun m => m.src == h || m.dst == some h)

/-- Busy share of a hide: furlong-ticks busy and furlong-ticks of the period. -/
def State.busyShare (s : State) (h : Nat) : Nat × Nat :=
  ((s.hide h).busyTicks, max 1 ((s.hide h).ticks * (s.furlongsOf h).length))

/-- The donor: the smallest busy share, below a quarter, with more furlongs than its minimum (R403). -/
def State.donor (s : State) : Option Nat :=
  let least := s.balanced.foldl (fun (b : Option Nat) h =>
    match b with
    | none => some h
    | some m => if (s.busyShare h).1 * (s.busyShare m).2 < (s.busyShare m).1 * (s.busyShare h).2 then some h else some m) none
  least.filter (fun h => decide (4 * (s.busyShare h).1 < (s.busyShare h).2) && !s.moveBusy h
    && decide (max 1 (s.kodRun (0x3000 + h) 5) < (s.furlongsOf h).length))

/-- The recipient: the most grains that waited, not none, and fewer furlongs than its maximum (R403). -/
def State.recipient (s : State) : Option Nat :=
  let most := s.balanced.foldl (fun (b : Option Nat) h =>
    match b with
    | none => some h
    | some m => if (s.hide m).waited < (s.hide h).waited then some h else some m) none
  most.filter (fun h => (s.hide h).waited != 0 && !s.moveBusy h && decide ((s.furlongsOf h).length < s.kodRun (0x3000 + h) 6))

/-- REBALANCE_PERIOD_END: at most one move, journaled with source 4 (R379, R403). -/
def execRebalancePeriodEnd (s : State) : Host.Outcome State Fault Refusal :=
  let moved :=
    match s.donor, s.recipient with
    | some a, some b =>
      match (s.furlongsOf a).getLast? with
      | some f =>
        if s.mgrMoved || a == b then s
        else (s.beginMove f (some b) false).journal 4 7 0 0x3020 f 0 (s.kodRun 0x3020 f) (0x80 + b)
      | none => s
    | _, _ => s
  .next { moved.hideList.foldl (fun t h => t.updHide h (fun x => { x with busyTicks := 0, waited := 0, ticks := 0 })) moved with
    mgrMoved := false }

/-! ## The end of a migration fence or context recovery (R405, R406, R464) -/

/-- Every access of a context issued before its fence is performed or dropped, and no group is still being saved
(R405 step 3). -/
def State.fenceQuiet (s : State) (c : Nat) : Bool :=
  s.groups.all (fun g => g.ctx != c || !g.saving)
    && s.cores.all (fun k => k.2.sb.all (fun e => e.ctx != c || e.gen == (s.ctx c).gen))
    && s.fab.reqs.all (fun r => r.ctx != c || r.waits || r.withdrawn || (r.kind == 4 && r.core.isNone))
    && (s.ctxCmds c).all (fun k => (s.chansOf k.cid).isEmpty && s.lines.all (fun e => !e.2.owesCmd k.cid)
      && !(k.opcode == 0x60 && (s.engine k.engine).cmds.contains k.cid))

/-- Commands of a fenced context whose status is decided complete; the others continue (R405 step 4, R406). -/
def State.endFence (s : State) (c : Nat) : State :=
  let x := s.ctx c
  let ended := (s.ctxCmds c).filter (fun k => k.status.isSome && k.stage.isNone && k.phase != .ended)
  let s1 := (s.updCtx c (fun y => { y with fenced := false, recovering := false }))
  let s2 := ended.foldl (fun t k => (t.dropGroups k.cid).complete k.cid (k.status.getD 0x11) k.err) s1
  let failed := (ended.filter (fun k => k.status == some 0x11)).length
  (if x.recovering then s2.recoveryRecord 0 x.hide 0 x.fenceFrom failed else s2).retime

/-- MIGRATION_FENCE_END (R405, R406, R464). -/
def execMigrationFenceEnd (ctx : Fin 16384) (s : State) : Host.Outcome State Fault Refusal :=
  .next (if s.ctxLive ctx.val && (s.ctx ctx.val).fenced && s.fenceQuiet ctx.val then s.endFence ctx.val else s)

/-! ## Deadlock detection (R240 to R246) -/

/-- Chains of a context, placed or saved. -/
def State.ctxChains (s : State) (c : Nat) : List Chain :=
  (s.groups.filter (fun g => g.ctx == c)).flatMap (fun g => if g.core.isSome then s.groupChains g else g.savedChains)

/-- A chain is waiting: STATE 1 or STATE 2 (R241). -/
def Chain.waiting (c : Chain) : Bool :=
  match c.st with
  | .atBarrier _ => true
  | .eventWait => true
  | _ => false

/-- A waiting chain's object excludes its context: EXT, or on a remote node (R243). -/
def State.excludes (s : State) (k : Chain) : Bool :=
  match k.st with
  | .eventWait =>
    k.waitId.getLsbD 46
      || (k.waitId.getLsbD 44 && !s.isLocal (s.objAt 0 0 (s.cmd? k.cid) k.waitId).2)
  | _ => false

/-- A release source of a context (R242). -/
def State.hasSource (s : State) (c : Nat) : Bool :=
  let cs := s.ctxCmds c
  cs.any (fun k => k.opcode == 0x30 && decide (k.nextGroup < k.groupCount))
    || (s.ctxChains c).any (fun k => k.loads.any (fun l => !l.pref))
    || cs.any (fun k => s.lines.any (fun e => e.2.owesCmd k.cid))
    || s.cores.any (fun k => k.2.sb.any (fun e => e.ctx == c))
    || s.movers.any (fun m => m.2.chans.any (fun ch => (ch.2.cid.isSome || ch.2.enable) && chanCtx ch.2 == c))
    || s.fab.reqs.any (fun r => r.ctx == c && !r.waits && !r.withdrawn)
    || cs.any (fun k => (match k.phase with
      | .running => k.opcode != 0x30
      | .stopping => k.opcode != 0x30
      | .waiting => false
      | .ended => false
      | _ => true))
    || (s.fn (s.ctx c).fn).queues.any (fun q => q.2.ctx.toNat == c && q.2.open && q.2.sqHead != q.2.sqTail)

/-- The context is quiet (R244). -/
def State.quiet (s : State) (c : Nat) : Bool :=
  let ks := s.ctxChains c
  !ks.isEmpty && ks.all (fun k => k.waiting) && !(ks.any s.excludes) && !s.hasSource c

/-- DEADLOCK_EVALUATION_TICK: each microsecond; evaluation pauses while a context is parked (R244). -/
def execDeadlockEvaluationTick (s : State) : Host.Outcome State Fault Refusal :=
  .next (s.live.foldl (fun t c =>
    if !(s.ctx c).resident then t.updCtx c (fun x => { x with quietSince := x.quietSince + 1000 })
    else if s.quiet c then t
    else t.updCtx c (fun x => { x with quietSince := s.btime.toNat })) s)

/-- The distinct waits of a context's chains: object identifiers with WPHASE, group barriers (R245, R472). -/
def State.waitsOf (s : State) (c : Nat) : List Nat :=
  ((s.groups.filter (fun g => g.ctx == c)).flatMap (fun g =>
    let chains := match g.core with
      | some i => g.slots.filterMap (fun j => (s.chain? i j).map (fun k => s.waitPhase i j k))
      | none => g.savedChains
    chains.filterMap (fun k =>
      match k.st with
      | .eventWait => some k.waitId.toNat
      | .atBarrier b => some (2 ^ 63 + b % 65536 + g.g % 2 ^ 32 * 2 ^ 16)
      | _ => none))).eraseDups

/-- The DEADLOCK record and its CONT records (R472, R473). -/
def State.deadlockParts (s : State) (c : Nat) : List (Nat × Nat) :=
  let ws := (s.waitsOf c).take 8
  let n := ((s.ctxChains c).filter (fun k => k.waiting)).length
  let w := fun i => ws.getD i 0
  let lead := bodyAt 28 n + bodyAt 32 ws.length + bodyAt 40 (w 0) + bodyAt 48 (w 1)
  let cont := fun (k i : Nat) => bodyAt 28 k + bodyAt 32 (w i) + bodyAt 40 (w (i + 1)) + bodyAt 48 (w (i + 2))
  (5, lead) :: ((if 2 < ws.length then [(6, cont 1 2)] else []) ++ (if 5 < ws.length then [(6, cont 2 5)] else []))

/-- DEADLOCK_RAISE: quiet for longer than the hide's window; every command with placed chains completes with DEADLOCK
(R244, R245). -/
def execDeadlockRaise (ctx : Fin 16384) (s : State) : Host.Outcome State Fault Refusal :=
  let c := ctx.val
  let x := s.ctx c
  .next (if s.ctxLive c && x.resident && s.quiet c && decide (x.quietSince + 1000 * s.kodRun (0x5000 + x.hide) 5 < s.btime.toNat) then
    (let hit := (s.ctxCmds c).filter (fun k => s.groups.any (fun g => g.cid == k.cid))
     let s1 := s.postErrs x.fn c 0xFFFFFFFF 0 0x1A (s.deadlockParts c)
     let s2 := s1.updCtx c (fun y => { y with quietSince := s.btime.toNat })
     (hit.foldl (fun t k => t.endCmd k.cid 0x1A none) s2).retime)
  else s)

end Sys2Proof.Machine
end

