-- ==== Sys2Proof/Machine/Kod.lean ====
section
/-! DEFINITION. The KOD server: reading, writing and describing entries, profiles, firmware and shift program images, the
config store and the journal mirror (R474 to R499). -/

namespace Sys2Proof.Machine

/-! ## Values in effect (R487) -/

/-- A journal slot's bytes as a number; a slot that is not in use reads as zero. -/
def State.journalSlot (s : State) (n : Nat) : Nat := (tget s.ao.journal n 0).toNat

/-- A sequence-table entry's 128 bytes as a number (R256). -/
def seqBlock (e : Seq) : Nat :=
  e.state % 8 + (if e.inStep then 8 else 0) + e.urgency % 4 * 16 + (if e.autoClose then 64 else 0)
    + (if e.notify then 128 else 0) + e.draftMax % 8 * 2 ^ 8 + e.hold % 4 * 2 ^ 11 + e.ctx % 2 ^ 14 * 2 ^ 16
    + e.plan % 256 * 2 ^ 32 + e.ringLog2 % 32 * 2 ^ 40 + min e.waited 0xFFFF * 2 ^ 48 + e.tag % 2 ^ 20 * 2 ^ 64
    + e.pos % 2 ^ 32 * 2 ^ 96 + e.promptLeft % 2 ^ 32 * 2 ^ 128 + e.emitted % 2 ^ 32 * 2 ^ 160 + e.maxNew % 2 ^ 32 * 2 ^ 192
    + e.stopToken % 2 ^ 32 * 2 ^ 224 + e.pages.length % 2 ^ 32 * 2 ^ 256 + e.lastToken % 2 ^ 32 * 2 ^ 288
    + e.seed.toNat * 2 ^ 320 + e.ssbPa % 2 ^ 56 * 2 ^ 384 + e.ringPa % 2 ^ 56 * 2 ^ 448 + e.promptPa % 2 ^ 56 * 2 ^ 512
    + e.promptLen % 2 ^ 32 * 2 ^ 576 + e.kdrafts.length % 8 * 2 ^ 608
    + leNat ((e.kdrafts.take 7).flatMap (fun t => leBytes 4 t)) * 2 ^ 640

/-- A context's telemetry block (R370, R486); a context that does not exist reads as zero (log 26). -/
def State.ctxBlock (s : State) (c : Nat) : Nat :=
  if s.ctxLive c then
    leNat (s.queryUse c ++ s.queryMem c ++ leBytes 4 (s.ctx c).staleGen ++ leBytes 4 (s.ctx c).lostSignals)
  else 0

/-- A record destination's telemetry block (R486); destinations are numbered as log 26 gives. -/
def State.destBlock (s : State) (d : Nat) : Nat :=
  let q := if d = 254 then s.ao.jq else s.recq (if d % 2 = 0 then .event (fnFin (d / 2)) else .error (fnFin (d / 2)))
  leNat (leBytes 8 q.coalesced ++ leBytes 8 q.lost ++ leBytes 8 (if d < 16 then (s.box d).drops else 0))

/-- An alarm log entry's 32 bytes (R498). -/
def alarmBlock (a : Alarm) : Nat :=
  if a.valid then a.rtc.toNat + a.code * 2 ^ 64 + (if a.posted then 2 ^ 72 else 0) + a.data.toNat * 2 ^ 96 + 2 ^ 248 else 0

/-- A port's telemetry block (R549); the widths of its three counters are log 26's. -/
def State.portBlock (s : State) (n : Nat) : Nat :=
  let l := s.link n
  let st := match l.st with | .down => 0 | .training => 1 | .hello => 2 | .up => 3 | .miswired => 4
  st + l.peer % 2 ^ 16 * 2 ^ 16 + l.peerPort % 256 * 2 ^ 32 + l.replays % 2 ^ 32 * 2 ^ 64 + l.protoErr % 2 ^ 16 * 2 ^ 96
    + l.lateRsp % 2 ^ 16 * 2 ^ 112

/-- Node m in the fabric (R549). -/
def State.nodeState (s : State) (m : Nat) : Nat :=
  if !topoValid s.topo || !topoInstalled s.topo m then 0
  else if m = s.nodeId || s.reachable m then 2 else 1

/-- PENDING (R488, R491). -/
def State.pendingWord (s : State) : Nat :=
  ((List.range 8).map (fun h =>
    if s.hidePending h || s.kod.heldLive.any (fun e => e.1 / 256 == 0x3000 + h) then 2 ^ h else 0)).sum
  + (if [(0x7FFF, 1), (0x8000, 1), (0x8000, 2), (0x8000, 3)].any (fun k =>
      s.profVal s.kod.active k.1 k.2 != s.kodRun k.1 k.2) then 256 else 0)

/-- Values of the identity and profile ranges that have no setting behind them (R151, R484, R486, R488). -/
def State.readIdentity (s : State) (idx sub : Nat) : Nat :=
  if idx = 0x1000 then
    (if sub ≤ 4 then 0x0100 else if sub = 5 then Config.stepping.toNat else if sub = 6 then Config.iana.toNat
     else (Config.fwVersion (if s.kod.fwRun = 0 then s.kod.fwImg0 else s.kod.fwImg1)).toNat)
  else if idx = 0x1010 then s.spareState sub
  else if 0x1020 ≤ idx ∧ idx < 0x1030 then
    let k := s.core (coreIdx (idx - 0x1020) sub)
    k.suspects + (if k.fused then 64 else 0) + (if k.retired then 128 else 0)
  else if idx = 0x1030 then (Config.sourceList sub).toNat
  else if idx = 0x2000 then
    (if sub = 1 then s.kod.active else if sub = 3 then s.kod.pins.toNat else if sub = 4 then s.kod.bootSource
     else if sub = 5 then s.pendingWord else 0)
  else 0

/-- Values of the pace range that have no setting behind them (R525). -/
def State.readPace (s : State) (idx sub : Nat) : Nat :=
  if idx = 0x4000 then
    (match sub with
      | 3 => 1500
      | 5 => s.gov.pace
      | 6 => s.gov.power
      | 7 => s.gov.vdd
      | 8 => if s.gov.hot then 63 else s.gov.throttle
      | 9 => ofSigned 32 s.gov.tj
      | 0x0A => leNat (leBytes 8 s.gov.floorMisses ++ leBytes 8 s.gov.capExceeded ++ leBytes 8 s.gov.hotMs
          ++ leBytes 8 s.gov.avsErrors)
      | _ => 0)
  else if idx = 0x4010 then (if sub = 1 then s.ao.rtc.toNat else if s.pow.entropy then 1 else 0)
  else (s.hide sub).key

/-- Values of the telemetry, link and journal ranges (R370, R486, R549). -/
def State.readTele (s : State) (idx sub : Nat) : Nat :=
  if idx < 0x6008 then
    let x := s.hide (idx - 0x6000)
    leNat (leBytes 8 x.staleGen ++ leBytes 8 x.isolation ++ leBytes 8 x.lateRsp ++ leBytes 8 x.switchGrains
      ++ leBytes 8 x.lostSignals)
  else if idx < 0x6440 then s.ctxBlock ((idx - 0x6400) * 256 + sub)
  else if idx < 0x6810 then seqBlock (tget s.seqs ((idx - 0x6800) * 256 + sub) {})
  else if idx = 0x6A00 then s.destBlock sub
  else if idx = 0x8000 then
    (if sub = 6 then s.fab.state else if sub = 7 then s.fab.mapCrc.toNat
     else if topoValid s.topo then
       ((List.range (topoNodes s.topo)).filter (fun n => topoInstalled s.topo n && !s.mapNodes.contains n)).length
     else 0)
  else if idx = 0x8010 then s.portBlock sub
  else if idx < 0x8060 then s.nodeState ((idx - 0x8020) * 256 + sub)
  else if idx = 0x9000 then (if sub = 1 then s.ao.newest.toNat else s.ao.mirrored.toNat)
  else if idx < 0x9102 then s.journalSlot ((idx - 0x9100) * 256 + sub)
  else if idx = 0x9200 then (if sub < 64 then alarmBlock (s.alarm sub) else s.ao.overflow)
  else 0

/-- The value in effect of an entry; a WO entry reads as zeros (R476, R487). -/
def State.kodNow (s : State) (idx sub : Nat) : Nat :=
  match kodEntry idx sub with
  | none => 0
  | some e =>
    if e.acc = 3 then 0
    else if idx = 0x2010 ∧ sub = 1 then 1
    else if e.persist then tget s.kod.run (kodKey idx sub) (s.dfltOf idx sub)
    else if idx < 0x3000 then s.readIdentity idx sub
    else if idx < 0x5000 then s.readPace idx sub
    else if 0xF000 ≤ idx then tget s.kod.run (kodKey idx sub) (s.dfltOf idx sub)
    else s.readTele idx sub

/-- Bytes of the journal mirror (R492). -/
def State.mirrorBytes (s : State) (off len : Nat) : List Byte :=
  (List.range len).map (fun i => ((tget s.ao.mirror ((off + i) / 64) 0).extractLsb' (8 * ((off + i) % 64)) 8))

/-- The bytes that a READ returns (R478, R483, R487). -/
def State.kodBytes (s : State) (r : KodReq) : List Byte :=
  if r.idx = 0x9000 ∧ r.sub = 3 then s.mirrorBytes r.off r.len
  else leBytes r.len ((if r.prof = 7 then s.kodNow r.idx r.sub else s.storedVal r.prof r.idx r.sub) / 256 ^ r.off)

/-! ## Refusals (R272, R376, R382, R388, R479, R491) -/

/-- A class-0 queue of the hide is enabled. -/
def State.classZeroOn (s : State) (h : Nat) : Bool :=
  (List.range 513).any (fun n => s.fnHide n == some h && (s.fn n).queues.any (fun q => q.2.enabled && q.2.cls == 0))

/-- A live value waits for its condition (R491). -/
def State.liveWaits (s : State) (idx sub v : Nat) : Bool :=
  if 0x3000 ≤ idx ∧ idx < 0x3008 then
    ((sub == 7 || sub == 0x0A) && v == 0 && s.classZeroOn (idx - 0x3000))
      || (sub == 0x0B && s.plans.any (fun p => p.2.step.isSome && (s.ctx p.2.ctx).hide == idx - 0x3000))
  else false

/-- Sum of the serving reserves of all hides with one of them changed (R272). -/
def reserveSum (get : Nat → Nat) (h v : Nat) : Nat := ((List.range 8).map (fun k => if k = h then v else get k)).sum

/-- A write to a function's HIDE or ASSIGNED with this value is refused (R10, R382). -/
def State.hideRefused (s : State) (n sub v : Nat) : Bool :=
  (sub == 1 && (decide (8 ≤ v) || !s.hideExists v))
    || ((sub == 1 || sub == 2) && v != s.fnKod n sub && !(s.fnCtxs n).isEmpty)

/-- The profile that a restart field's write goes to (R477). -/
def State.storeOf (s : State) (prof : Nat) : Nat := if prof = 7 then s.kod.active else prof

/-- Units that a profile gives a hide, one of them left out. -/
def State.profUnits (s : State) (prof h but : Nat) : Nat :=
  ((List.range 0xC0).filter (fun u => u != but && unitIn h (s.profVal (s.storeOf prof) 0x3010 u))).length

/-- Units that a hide may hold with the Stack Ports that a profile gives it: 16 for each (R50). -/
def State.profPorts (s : State) (prof h : Nat) : Nat := 16 * portCount (s.profVal (s.storeOf prof) (0x3000 + h) 2)

/-- A rule of another chapter refuses the write. -/
def State.kodRefused (s : State) (prof idx sub v : Nat) : Bool :=
  if idx = 0x3020 then
    decide (8 ≤ v % 16) || (prof == 7 && ownerOf v != s.owner sub && s.moveRefused sub (ownerOf v))
  else if idx = 0x3010 then
    decide (8 ≤ v % 16)
      || (nbits v 5 4 != 0 && decide (s.profPorts prof (v % 16) < s.profUnits prof (v % 16) sub + 1))
  else if 0x3000 ≤ idx ∧ idx < 0x3008 then
    (sub == 0x0B && decide (32 < reserveSum (fun k =>
        if prof = 7 then s.storedVal s.kod.active (0x3000 + k) 0x0B else s.storedVal prof (0x3000 + k) 0x0B) (idx - 0x3000) v))
      || (prof == 7 && sub != 0x0B && s.liveWaits idx sub v)
      || (sub == 0x10 && !s.hideExists (idx - 0x3000))
      || (sub == 2 && decide (16 * portCount v < s.profUnits prof (idx - 0x3000) 0xC0))
  else if 0x7000 ≤ idx ∧ idx ≤ 0x7200 then
    decide ((if prof = 7 then s.kodRun 0x7FFF 1 else s.storedVal prof 0x7FFF 1) < idx - 0x7000)
      || (if prof = 7 then s.hideRefused (idx - 0x7000) sub v else sub == 1 && decide (8 ≤ v))
  else if idx = 0x2000 ∧ sub = 6 then s.kod.invalid.contains (v % 4)
  else false

/-- The number that a request's data bytes spell. -/
def reqVal (r : KodReq) : Nat := leNat (r.data.take r.len)

/-- A request's failure, none where it is performed (R479; the order of the checks is log 25's). -/
def State.kodErr (s : State) (wr : Bool) (r : KodReq) : Option Nat :=
  if 4 ≤ r.prof ∧ r.prof ≠ 7 then some 0x18
  else
    match kodEntry r.idx r.sub with
    | none => some 0x10
    | some e =>
      if (wr && decide (e.acc < 2)) || (r.prof != 7 && !e.persist) then some 0x11
      else if r.ty ≠ e.ty then some 0x12
      else if (decide (e.ty < 7) && r.len != e.size) || decide (4096 < r.len) then some 0x15
      else if e.size < r.off + r.len then some 0x13
      else if wr && decide (e.ty < 7) && !e.ok (e.keep (reqVal r)) then some 0x13
      else if r.prof ≠ 7 ∧ s.kod.invalid.contains r.prof then some 0x17
      else if wr && s.kodRefused r.prof r.idx r.sub (e.keep (reqVal r)) then some 0x14
      else none

/-! ## Live values (R487, R490, R491) -/

/-- A live value takes effect on its running value (R477). -/
def State.setLive (s : State) (idx sub v : Nat) : State :=
  let s1 : State := { s with kod := { s.kod with heldLive := terase s.kod.heldLive (kodKey idx sub) } }
  if idx = 0x3020 then (if ownerOf v = s.owner sub then s1 else s1.beginMove sub (ownerOf v) true)
  else
    let s2 := s1.setRun idx sub v
    if idx = 0x4000 ∧ sub = 1 then { s2 with gov := { s2.gov with capFrom := s2.btime.toNat } }
    else if idx = 0x4010 ∧ sub = 2 then { s2 with ao := { s2.ao with wakeEn := v == 1 } }
    else if idx = 0x4010 ∧ sub = 3 then { s2 with ao := { s2.ao with tamperAct := v } }
    else if 0x7000 ≤ idx ∧ idx ≤ 0x7200 ∧ sub ≤ 2 then (s2.refreshReady (idx - 0x7000)).rehome (idx - 0x7000)
    else if 0x3000 ≤ idx ∧ idx < 0x3008 ∧ sub = 0x0F then s2.wmCheck (256 + (idx - 0x3000))
    else if 0x5000 ≤ idx ∧ idx < 0x5008 ∧ sub = 0x0B then s2.wmCheck (264 + (idx - 0x5000))
    else s2

/-- A live value is written: at once, or held until its condition is met (R491). -/
def State.applyLive (s : State) (idx sub v : Nat) : State :=
  if s.liveWaits idx sub v then { s with kod := { s.kod with heldLive := tset s.kod.heldLive (kodKey idx sub) v } }
  else s.setLive idx sub v

/-- The order in which SWITCH applies live values (R490 step 2); what it does not name comes last (log 25). -/
def liveRank (idx sub : Nat) : Nat :=
  if idx = 0x4000 then (if sub = 1 then 0 else 1)
  else if idx < 0x3008 then (if 7 ≤ sub ∧ sub ≤ 0x0A then 2 else if sub = 0x0B ∨ sub = 0x0C ∨ sub = 0x0F then 5 else 6)
  else if 0x5000 ≤ idx ∧ idx < 0x6000 then (if idx < 0x5008 ∧ sub = 0x0B then 5 else 3)
  else if 0x7000 ≤ idx ∧ idx < 0x8000 then 4
  else if idx = 0x3020 then 7
  else 6

/-- A switch leaves this value as it is: a function with contexts keeps its hide, a move that R376 refuses does not start. -/
def State.switchRefused (s : State) (idx sub v : Nat) : Bool :=
  if idx = 0x3020 then ownerOf v != s.owner sub && s.moveRefused sub (ownerOf v)
  else if 0x7000 ≤ idx ∧ idx ≤ 0x7200 then (sub == 1 || sub == 2) && !(s.fnCtxs (idx - 0x7000)).isEmpty
  else false

/-- One live value of a profile takes effect in a switch, journaled where it changes (R490, R582). -/
def State.switchOne (s : State) (p idx sub : Nat) : State :=
  match kodEntry idx sub with
  | some e =>
    if e.persist && e.kind == 0 && e.acc == 2 then
      let v := s.profVal p idx sub
      let old := s.kodNow idx sub
      let s1 := s.journalDefault p idx sub
      if v = old then s1
      else if s1.switchRefused idx sub v then s1.journal 5 7 0 idx sub 0x14 old v
      else (s1.journal 5 7 0 idx sub 0 old v).applyLive idx sub v
    else s
  | none => s

/-- The live values of a profile take effect in order (R490 step 2). -/
def State.switchLive (s : State) (p : Nat) : State :=
  let ks := sortBy (fun a b => decide (liveRank (a / 256) (a % 256) < liveRank (b / 256) (b % 256))) (s.listedKeys p)
  let s1 := ks.foldl (fun t k => t.switchOne p (k / 256) (k % 256)) s
  { s1 with gov := { s1.gov with capFrom := s1.btime.toNat } }

/-- The lowest-numbered valid profile (R495). -/
def State.lowestValid (s : State) : Option Nat := (List.range 4).find? (fun p => !s.kod.invalid.contains p)

/-- The profile that an activation uses; a fallback is alarmed (R495). -/
def State.fallback (s : State) (p : Nat) : State × Nat :=
  if s.kod.invalid.contains p then (s.storeAlarm, s.lowestValid.getD p) else (s, p)

/-- APPLY: a full hide reset of each hide with restart values pending; in a recovery it waits (R490 step 4, R499). -/
def State.applyPending (s : State) : State :=
  ((List.range 8).filter s.hidePending).foldl (fun t h =>
    if (t.hide h).recovery then t.updHide h (fun x => { x with applyDue := true }) else t.startFull h 1) s

/-- A write to SWITCH (R490). -/
def State.switchTo (s : State) (p : Nat) (apply : Bool) : State :=
  let f := s.fallback p
  let s1 := f.1.switchLive f.2
  let s2 : State := { s1 with kod := { s1.kod with active := f.2, lastActive := f.2 } }
  if apply then s2.applyPending else s2

/-- A write to COPY (R488, R499). -/
def State.copyProfile (s : State) (src dst : Nat) : State :=
  let s1 : State := { s with kod := { s.kod with
    stored := tset s.kod.stored dst (tget s.kod.stored src []), dirty := linsert s.kod.dirty dst } }
  if dst = s.kod.active then s1.switchLive dst else s1

/-! ## Firmware and shift program images (R135 to R137, R483, R494) -/

/-- Put bytes into a staging BLOB. -/
def stagePut (t : Tbl Byte) (off : Nat) : List Byte → Tbl Byte
  | [] => t
  | b :: bs => stagePut (tset t off b) (off + 1) bs

/-- The staged bytes, from the first to the last one written. -/
def stagedBytes (t : Tbl Byte) : List Byte :=
  match t.getLast? with
  | none => []
  | some (k, _) => (List.range (k + 1)).map (fun i => tget t i 0)

/-- A write of the commit CRC: the image goes to the slot not running, is checked and named next (R494). -/
def State.commitFirmware (s : State) (crc : Nat) : State :=
  let bs := stagedBytes s.kod.fwStage
  let ok := !bs.isEmpty && (crc32 bs).toNat == crc
  let k : Kod := { s.kod with fwStage := [] }
  let k1 : Kod := if s.kod.fwRun = 0 then { k with fwOk1 := ok, fwImg1 := 2 + crc } else { k with fwOk0 := ok, fwImg0 := 2 + crc }
  let s1 := ({ s with kod := k1 } : State).flashWrite (fwAt (1 - s.kod.fwRun)) (bs.take fwLen)
  if ok then ({ s1 with kod := { s1.kod with fwNext := 1 - s.kod.fwRun } } : State).writeHeader true else s1.storeAlarm

/-- What is wrong with a shift program image: 0 VERSION, 1 WORDS, 2 CRC (R135, R136, R472). Staged bytes behind the image's
32 + 8·WORDS are ignored and raise no WORDS fault, of which the manual says nothing (DESIGN CHOICE, log 49). -/
def shiftFault (bs : List Byte) : Option Nat :=
  let w := leNat ((bs.drop 6).take 2)
  if leNat ((bs.drop 4).take 2) ≠ 0x0100 then some 0
  else if bs.length < 32 + 8 * w then some 1
  else if (crc32 ((bs.drop 32).take (8 * w))).toNat ≠ leNat ((bs.drop 8).take 4) then some 2
  else none

/-- The program that an image holds (R135). -/
def shiftOf (bs : List Byte) : Shift :=
  { id := leNat (bs.take 4),
    words := (List.range (leNat ((bs.drop 6).take 2))).map (fun i => BitVec.ofNat 64 (leNat ((bs.drop (32 + 8 * i)).take 8))) }

/-- A commit loads the staged image into the inactive bank, or leaves it empty and writes a record (R136, R137). -/
def State.commitShift (s : State) (h : Nat) : State :=
  let bs := stagedBytes (s.hide h).shiftStage
  let s1 := s.updHide h (fun x => { x with shiftStage := [] })
  match shiftFault bs with
  | some w => (s1.updAcre h (fun a => { a with bankI := none })).postGlobal 0x15
      (bodyAt 28 h + bodyAt 29 w + bodyAt 32 (leNat (bs.take 4)))
  | none => (s1.updAcre h (fun a => { a with bankI := some (shiftOf bs) })).acreBoundary h

/-- A write to the store entry saves the hide's program, the newest loaded, to its config-store slot (R486, R492). -/
def State.storeShift (s : State) (h : Nat) : State :=
  let a := (s.hide h).acre
  match (if a.bankI.isSome then a.bankI else a.bankA) with
  | some p => ({ s with kod := { s.kod with shiftSlots := tset s.kod.shiftSlots h p } } : State).flashWrite (shiftAt h)
      (shiftImage p)
  | none => s

/-! ## Performing a write (R477, R487, R496, R497) -/

/-- Commands and running-only values (R476, R477, R486, R488, R512). -/
def State.kodCommand (s : State) (r : KodReq) (v : Nat) : State :=
  if r.idx = 0x1040 then
    (if r.sub = 1 then { s with kod := { s.kod with fwStage := stagePut s.kod.fwStage r.off (r.data.take r.len) } }
     else s.commitFirmware v)
  else if r.idx = 0x2000 then
    (if r.sub = 2 then s.switchTo (v % 4) (nbit v 7)
     else if r.sub = 4 then { s with kod := { s.kod with bootSource := v } }
     else s.copyProfile (v % 4) (nbits v 9 8))
  else if r.idx < 0x3008 then
    (if v = 1 then s.startReset (r.idx - 0x3000) 4 else s.startFull (r.idx - 0x3000) 0)
  else if r.idx < 0x3038 then
    (if r.sub = 1 then s.updHide (r.idx - 0x3030) (fun x => { x with
        shiftStage := stagePut x.shiftStage r.off (r.data.take r.len) })
     else if r.sub = 2 then s.commitShift (r.idx - 0x3030)
     else if v = 1 then s.storeShift (r.idx - 0x3030) else s)
  else if r.idx = 0x4010 then { s with ao := { s.ao with rtc := BitVec.ofNat 64 v, rtcSub := 0 } }
  else s.setRun r.idx r.sub v

/-- The new value of an entry: a BLOB or STR keeps what lies outside the piece (R483). -/
def newVal (e : KodEnt) (old : Nat) (r : KodReq) : Nat :=
  if e.ty < 7 then e.keep (reqVal r)
  else if r.len = 0 then old
  else setBits old (8 * (r.off + r.len) - 1) (8 * r.off) (reqVal r)

/-- A value as a journal entry gives it: numbers zero-extended, a STR's or BLOB's length and CRC-32 (R497). -/
def journalForm (e : KodEnt) (v : Nat) : Nat :=
  if e.ty < 7 then v else e.size * 2 ^ 32 + (crc32 (leBytes e.size v)).toNat

/-- An accepted write takes effect (R477, R487). -/
def State.kodPerform (s : State) (e : KodEnt) (r : KodReq) : State :=
  if !e.persist then s.kodCommand r (if e.acc = 3 then e.keep (reqVal r) else newVal e (s.kodNow r.idx r.sub) r)
  else if r.prof ≠ 7 then s.setStored r.prof r.idx r.sub (newVal e (s.storedVal r.prof r.idx r.sub) r)
  else if e.kind ≠ 0 then
    s.setStored s.kod.active r.idx r.sub (newVal e (s.storedVal s.kod.active r.idx r.sub) r)
  else
    let v := newVal e (s.kodNow r.idx r.sub) r
    (s.setStored s.kod.active r.idx r.sub v).applyLive r.idx r.sub v

/-- OLD of a write's journal entry (R497). -/
def State.oldOf (s : State) (e : KodEnt) (r : KodReq) : Nat :=
  if e.acc = 3 then 0
  else if e.persist && (r.prof != 7 || e.kind != 0) then
    s.storedVal (if r.prof = 7 then s.kod.active else r.prof) r.idx r.sub
  else s.kodNow r.idx r.sub

/-- NEW of a write's journal entry; a staging piece is given by its own length and CRC (R497, log 25). -/
def State.newForm (s : State) (e : KodEnt) (r : KodReq) : Nat :=
  if e.acc = 3 ∧ 7 ≤ e.ty then r.len * 2 ^ 32 + (crc32 (r.data.take r.len)).toNat
  else journalForm e (newVal e (s.oldOf e r) r)

/-- A write request is performed or refused, and journaled either way (R479, R496). -/
def State.kodWriteReq (s : State) (source req : Nat) (r : KodReq) : State × Nat :=
  match kodEntry r.idx r.sub with
  | none =>
    (s.journal source r.prof req r.idx r.sub ((s.kodErr true r).getD 0x10) 0
      (if r.ty < 7 then reqVal r else r.len * 2 ^ 32 + (crc32 (r.data.take r.len)).toNat), (s.kodErr true r).getD 0x10)
  | some e =>
    match s.kodErr true r with
    | some c => (s.journal source r.prof req r.idx r.sub c (journalForm e (s.oldOf e r))
        (if r.ty < 7 then reqVal r else r.len * 2 ^ 32 + (crc32 (r.data.take r.len)).toNat), c)
    | none =>
      let c := if r.prof = 7 ∧ e.persist ∧ e.kind ≠ 0 then 1 else 0
      ((s.journal source r.prof req r.idx r.sub c (journalForm e (s.oldOf e r)) (s.newForm e r)).kodPerform e r, c)

/-- DESCRIBE's 16 bytes (R478): the default of an entry for which the manual gives none is open (log 26). -/
def State.kodDescription (s : State) (e : KodEnt) (idx sub : Nat) : List Byte :=
  let d :=
    if 7 ≤ e.ty then 0
    else if e.persist ∨ 0xF000 ≤ idx then s.dfltOf idx sub
    else if idx = 0x1000 ∧ sub ≤ 4 then 0x0100
    else if idx = 0x4000 ∧ sub = 3 then 1500
    else if idx = 0x2010 then 1
    else if idx < 0x2000 ∨ idx = 0x4000 ∨ e.acc = 3 ∨ idx = 0x2000 ∨ (idx = 0x4010 ∧ sub = 1) then
      Config.kodUnstatedDefault idx sub
    else 0
  leBytes 8 (e.ty + e.acc * 256 + (if e.persist then 1 else 0) * 2 ^ 16 + e.kind * 2 ^ 24) ++ leBytes 8 d

/-! ## The server (R480 to R482, R484, R499) -/

/-- OP of a request (R478). -/
def opRead : Nat := 1
/-- OP of a WRITE. -/
def opWrite : Nat := 2
/-- OP of a DESCRIBE. -/
def opDescribe : Nat := 3

/-- SOURCE and REQUESTER of a transport (R497); the window's requester is the PF (log 25). -/
def State.kodSource (s : State) (k : KodSrc) : Nat × Nat :=
  match k with
  | .window => (0, 0)
  | .vdm rid => (1, rid.toNat)
  | .i3c => (2, s.kod.i3cAddr.toNat)
  | .firmware => (3, 0)

/-- The transport is served (R484). -/
def State.kodOpen (s : State) (k : KodSrc) : Bool :=
  match k with
  | .window => s.kodRun 0x2010 3 == 1
  | .vdm _ => s.kodRun 0x2010 2 == 1
  | _ => true

/-- A header of a request or a response (R478). -/
def kodHeader (op : Nat) (r : KodReq) (len : Nat) : BitVec 128 :=
  BitVec.ofNat 128 (op % 256 + r.prof % 8 * 2 ^ 8 + r.idx % 2 ^ 16 * 2 ^ 16 + r.sub % 256 * 2 ^ 32 + r.ty % 16 * 2 ^ 40
    + len % 2 ^ 16 * 2 ^ 48 + r.off % 2 ^ 32 * 2 ^ 64 + r.tag.toNat * 2 ^ 96)

/-- A response leaves for its transport (R478, R481). -/
def State.kodAnswer (s : State) (r : KodReq) (code : Nat) (data : List Byte) : State :=
  let h := kodHeader code r data.length
  match r.src with
  | .window => { s with kod := { s.kod with kwRsp := h, kwData := stagePut s.kod.kwData 0 data,
                                            busy := false, done := true, code := code } }
  | k => s.emit (.kodRsp k h data)

/-- One request is performed whole (R478, R482). -/
def State.kodServe (s : State) (op : Nat) (r : KodReq) : State :=
  if op = opRead then
    (match s.kodErr false r with
      | some c => s.kodAnswer r c []
      | none => s.kodAnswer r 0 (s.kodBytes r))
  else if op = opWrite then
    let w := s.kodWriteReq (s.kodSource r.src).1 (s.kodSource r.src).2 r
    w.1.kodAnswer r w.2 []
  else if op = opDescribe then
    (if 4 ≤ r.prof ∧ r.prof ≠ 7 then s.kodAnswer r 0x18 []
     else match kodEntry r.idx r.sub with
      | none => s.kodAnswer r 0x10 []
      | some e => s.kodAnswer r 0 (s.kodDescription e r.idx r.sub))
  else s.kodAnswer r 0x18 []

/-- A request reaches the server: performed while firmware runs, else kept in the store of 16 (R482, R530). The window
takes none while it is busy (R481), nor while the PF is being reset (R292); a transport that is disabled gets none served
(R484), and one that finds PD_CTL down answers with an error (R37, R454, R499;
log 51). -/
def State.kodRequest (s : State) (op : Nat) (r : KodReq) : State :=
  if !s.running then s.emit (.transportError (some r.src))
  else if !s.kodOpen r.src || (r.src == .window && (s.kod.busy || (s.fn 0).resetting)) then s
  else
    let s1 : State := if r.src = .window then { s with kod := { s.kod with kwReq := kodHeader op r r.len, busy := true, done := false } } else s
    if s.pow.fwUp then s1.kodServe op r
    else if s.kod.reqs.length < 16 then { s1 with kod := { s1.kod with reqs := s1.kod.reqs ++ [(op, r)] } }
    else s1.kodAnswer r 0x16 []

/-- Firmware performs the requests that it finds in the store, in arrival order (R482, R530). -/
def State.serveStored (s : State) : State :=
  s.kod.reqs.foldl (fun t e => t.kodServe e.1 e.2) { s with kod := { s.kod with reqs := [] } }

/-- A write request of an entry, from a transport, to its running value. -/
def kodSet (src : KodSrc) (idx sub ty len off v : Nat) : KodReq :=
  { src := src, prof := 7, idx := idx, sub := sub, ty := ty, len := len, off := off, data := leBytes len v }

/-! ## The config store and the journal mirror (R492 to R497) -/

/-- A SEQ is newer than another, modulo 2^32 (R493). -/
def copyNewer (a b : W32) : Bool := decide (0 < (a - b).toNat) && decide ((a - b).toNat < 2 ^ 31)

/-- A copy of a profile. -/
def State.copyAt (s : State) (p i : Nat) : ProfCopy := tget s.kod.copies (2 * p + i) {}

/-- The valid copy in use, none where neither checks (R493). -/
def State.goodCopy (s : State) (p : Nat) : Option Nat :=
  let a := s.copyAt p 0
  let b := s.copyAt p 1
  if a.valid && b.valid then some (if copyNewer b.seq a.seq then 1 else 0)
  else if a.valid then some 0 else if b.valid then some 1 else none

/-- A new copy of a profile goes over the older or invalid copy; a failed program leaves that one invalid (R493, R495). -/
def State.writeCopy (s : State) (p : Nat) (ok : Bool) : State :=
  let at_ := match s.goodCopy p with | some i => 1 - i | none => 0
  let seq := match s.goodCopy p with | some i => (s.copyAt p i).seq + 1 | none => 0
  let c : ProfCopy := { valid := ok, seq := seq, lastEvseq := s.ao.newest.toNat, vals := tget s.kod.stored p [] }
  ({ s with kod := { s.kod with copies := tset s.kod.copies (2 * p + at_) c } } : State).flashWrite (profAt p at_)
    (framed p seq c.lastEvseq (Config.profileBody [(p, c.vals)]))

/-- A journal entry's fields: EVSEQ, SOURCE, PROF, name, CODE and NEW (R497). -/
structure JEntry where
  evseq : Nat
  source : Nat
  prof : Nat
  idx : Nat
  sub : Nat
  code : Nat
  val : Nat

/-- Read a journal entry. -/
def jentry (w : BitVec 512) : JEntry :=
  let v := w.toNat
  { evseq := nbits v 63 0, source := nbits v 195 192, prof := nbits v 202 200, idx := nbits v 239 224, sub := nbits v 247 240,
    code := nbits v 255 248, val := nbits v 383 320 }

/-- The entries of the journal and its mirror above an EVSEQ, each once, in EVSEQ order (R495). -/
def State.replayList (s : State) (above : Nat) : List JEntry :=
  let ws := ((s.ao.mirror.map (fun e => e.2)) ++ (s.ao.journal.map (fun e => e.2))).filter (fun w => w.getLsbD 504)
  let es := sortBy (fun (a b : BitVec 512) => decide (a.toNat % 2 ^ 64 < b.toNat % 2 ^ 64)) ws.eraseDups
  (es.map jentry).filter (fun e => decide (above < e.evseq))

/-- Replay one entry onto the stored values, with the profile that was active then (R495): accepted writes of persistent
entries that carry their whole value, copies of profiles, and switches. -/
def replayOne (st : Tbl (Tbl Nat) × Nat) (last : Nat → Nat) (e : JEntry) : Tbl (Tbl Nat) × Nat :=
  if 2 ≤ e.code ∨ 8 ≤ e.source ∨ e.source = 4 ∨ e.source = 5 ∨ e.source = 7 then st
  else if e.idx = 0x2000 ∧ e.sub = 2 then (st.1, e.val % 4)
  else if e.idx = 0x2000 ∧ e.sub = 6 then
    (if last (nbits e.val 9 8) < e.evseq then (tset st.1 (nbits e.val 9 8) (tget st.1 (e.val % 4) []), st.2) else st)
  else
    match kodEntry e.idx e.sub with
    | some k =>
      let p := if e.prof = 7 then st.2 else e.prof
      if k.persist && decide (k.ty < 7) && decide (last p < e.evseq) then
        (tset st.1 p (tset (tget st.1 p []) (kodKey e.idx e.sub) e.val), st.2)
      else st
    | none => st

/-- At start-up the stored values come from the copies in use and the journal (R493, R495). -/
def State.loadProfiles (s : State) : State :=
  let bad := (List.range 4).filter (fun p => (s.goodCopy p).isNone)
  let vals : Tbl (Tbl Nat) := (List.range 4).filterMap (fun p => (s.goodCopy p).map (fun i => (p, (s.copyAt p i).vals)))
  let last := fun p => match s.goodCopy p with | some i => (s.copyAt p i).lastEvseq | none => 2 ^ 64
  let r := (s.replayList s.kod.hdrEvseq).foldl (fun st e => replayOne st last e) (vals, s.kod.hdrActive)
  { s with kod := { s.kod with stored := r.1, invalid := bad, dirty := [], heldLive := [] } }

/-! ## The commands -/

/-- KOD_READ (R478). -/
def execKodRead (r : KodReq) (s : State) : Host.Outcome State Fault Refusal := .next (s.kodRequest opRead r)

/-- KOD_WRITE (R477). -/
def execKodWrite (r : KodReq) (s : State) : Host.Outcome State Fault Refusal := .next (s.kodRequest opWrite r)

/-- KOD_DESCRIBE (R478). -/
def execKodDescribe (r : KodReq) (s : State) : Host.Outcome State Fault Refusal := .next (s.kodRequest opDescribe r)

/-- MCTP_CONTROL: the bus owner sets the endpoint ID, or asks for discovery and is answered (R480). -/
def execMctpControl (eid : Option Byte) (s : State) : Host.Outcome State Fault Refusal :=
  .next (if !s.ctlUp then s.emit (.transportError none)
  else
    match eid with
    | some e => ({ s with kod := { s.kod with eid := some e } } : State).emit (.mctp (some e))
    | none => s.emit (.mctp s.kod.eid))

/-- PROFILE_SWITCH: a write to 0x2000:02 (R490). -/
def execProfileSwitch (src : KodSrc) (val : Byte) (s : State) : Host.Outcome State Fault Refusal :=
  .next (s.kodRequest opWrite (kodSet src 0x2000 2 1 1 0 val.toNat))

/-- PROFILE_COPY: a write to 0x2000:06 (R488). -/
def execProfileCopy (src : KodSrc) (val : W16) (s : State) : Host.Outcome State Fault Refusal :=
  .next (s.kodRequest opWrite (kodSet src 0x2000 6 2 2 0 val.toNat))

/-- FIRMWARE_STAGE: a piece of the image to 0x1040:01 (R483). -/
def execFirmwareStage (src : KodSrc) (off : Nat) (data : List Byte) (s : State) : Host.Outcome State Fault Refusal :=
  .next (s.kodRequest opWrite { kodSet src 0x1040 1 8 data.length off 0 with data := data })

/-- FIRMWARE_COMMIT: the CRC to 0x1040:02 (R494). -/
def execFirmwareCommit (src : KodSrc) (crc : W32) (s : State) : Host.Outcome State Fault Refusal :=
  .next (s.kodRequest opWrite (kodSet src 0x1040 2 3 4 0 crc.toNat))

/-- SHIFT_PROGRAM_STAGE: a piece of the image to 0x3030+h:01 (R135, R483). -/
def execShiftProgramStage (src : KodSrc) (h : Fin 8) (off : Nat) (data : List Byte) (s : State) :
    Host.Outcome State Fault Refusal :=
  .next (s.kodRequest opWrite { kodSet src (0x3030 + h.val) 1 8 data.length off 0 with data := data })

/-- SHIFT_PROGRAM_COMMIT: a write to 0x3030+h:02 (R136). -/
def execShiftProgramCommit (src : KodSrc) (h : Fin 8) (val : W32) (s : State) : Host.Outcome State Fault Refusal :=
  .next (s.kodRequest opWrite (kodSet src (0x3030 + h.val) 2 3 4 0 val.toNat))

/-- SHIFT_PROGRAM_STORE: TRUE to 0x3030+h:03 (R486). -/
def execShiftProgramStore (src : KodSrc) (h : Fin 8) (s : State) : Host.Outcome State Fault Refusal :=
  .next (s.kodRequest opWrite (kodSet src (0x3030 + h.val) 3 0 1 0 1))

/-- HIDE_RESET: a write to 0x3000+h:10 (R486). -/
def execHideReset (src : KodSrc) (h : Fin 8) (kind : Byte) (s : State) : Host.Outcome State Fault Refusal :=
  .next (s.kodRequest opWrite (kodSet src (0x3000 + h.val) 0x10 1 1 0 kind.toNat))

/-- FURLONG_MOVE_REQUEST: a write of a new owner to 0x3020:f (R376). -/
def execFurlongMoveRequest (src : KodSrc) (f : Fin 16) (val : Byte) (s : State) : Host.Outcome State Fault Refusal :=
  .next (s.kodRequest opWrite (kodSet src 0x3020 f.val 1 1 0 val.toNat))

/-- PENDING_LIVE_APPLY: a held live value takes effect once its condition is met (R491). -/
def execPendingLiveApply (idx sub : Nat) (s : State) : Host.Outcome State Fault Refusal :=
  .next (match tfind s.kod.heldLive (kodKey idx sub) with
    | some v => if s.liveWaits idx sub v then s else s.setLive idx sub v
    | none => s)

/-- CONFIG_STORE_COMMIT: changed stored values, and the header, go to the config store; a failed program is alarmed (R493,
R495). -/
def execConfigStoreCommit (ok : Bool) (s : State) : Host.Outcome State Fault Refusal :=
  .next (if !s.pow.fwUp then s
  else
    let s1 := (s.kod.dirty.foldl (fun t p => t.writeCopy p ok) s).writeHeader ok
    if ok then
      { s1 with kod := { s1.kod with dirty := [], invalid := s1.kod.invalid.filter (fun p => !s.kod.dirty.contains p),
                                     hdrActive := s1.kod.active, hdrEvseq := s1.ao.newest.toNat } }
    else if s.kod.dirty.isEmpty then s else s1.storeAlarm)

/-- JOURNAL_MIRROR_COPY: the oldest journal entry is copied to the mirror and, once read back correctly, its slot is freed;
a copy that fails its check is alarmed (R492, R495, R496). -/
def execJournalMirrorCopy (ok : Bool) (s : State) : Host.Outcome State Fault Refusal :=
  .next (if !s.pow.fwUp || s.ao.jq.head == s.ao.jq.tail then s
  else
    let i := s.ao.jq.head.toNat % 512
    let w := tget s.ao.journal i 0
    let a := 0x100000 + 64 * s.ao.mirrorPos
    let s0 := ((if s.ao.mirrorPos % 64 = 0 then s.flashErase a 4096 else s).flashProgram a (leBytes 64 w.toNat)).flashRead a 64
    if ok then
      { s0 with ao := { s0.ao with mirror := tset s.ao.mirror s.ao.mirrorPos w, mirrorPos := (s.ao.mirrorPos + 1) % 16384,
                                   mirrored := w.setWidth 64, journal := terase s.ao.journal i,
                                   jq := { s.ao.jq with head := s.ao.jq.head + 1 } } }
    else s0.storeAlarm)

end Sys2Proof.Machine
end

