-- ==== Sys2Proof/Machine/Power.lean ====
section
/-! DEFINITION. The pace governor, the power cap, thermal limits, furlong sleep, the always-on domain, entropy, debug entry
and the test access port (R500 to R526, R570, R571, R577, R578). -/

namespace Sys2Proof.Machine

/-- Change the governor. -/
def State.updGov (s : State) (f : Gov → Gov) : State := { s with gov := f s.gov }

/-- Change the power state. -/
def State.updPow (s : State) (f : Power → Power) : State := { s with pow := f s.pow }

/-! ## Pace (R500 to R504) -/

/-- The pace floor, 0x4000:03, in M beats/s (R13, R525). -/
def paceFloor : Nat := 1500

/-- The target pace (R502, R504). -/
def State.paceTarget (s : State) : Nat :=
  if s.gov.avsStopped then s.gov.heldTarget
  else max paceFloor (min (s.kodRun 0x4000 2) (min s.gov.capPace s.gov.thermPace))

/-- A request within 0.62 V to 0.90 V, in mV (R501). -/
def clampVdd (v : Nat) : Nat := max 620 (min 900 v)

/-- The governor asks for a voltage, unless AVSBus has failed (R501, R504). -/
def State.askVdd (s : State) (v : Nat) : State :=
  if s.gov.avsStopped then s else (s.updGov (fun g => { g with vdd := clampVdd v })).emit (.avs (clampVdd v))

/-- An AVSBus error: it counts and raises a source of group 42; after the third in a row requests stop and the target
stays at the measured pace (R504). -/
def State.avsFail (s : State) : State :=
  let n := s.gov.avsFails + 1
  (s.updGov (fun g => { g with
    avsFails := n, avsErrors := stickAdd 64 g.avsErrors 1, avsStopped := g.avsStopped || decide (3 ≤ n),
    heldTarget := if g.avsStopped then g.heldTarget else if 3 ≤ n then g.pace else g.heldTarget })).latchIn 42

/-- The lowest of some rates. -/
def lowest : List Nat → Option Nat
  | [] => none
  | a :: r => some (r.foldl min a)

/-- PACE_MEASUREMENT: beat rates of the powered domains over one microsecond, in M beats/s. Below 1.03 × floor the request
rises at once by two steps; FLOOR_MISS clears after 10 µs at or above the floor (R500, R501, R503). -/
def execPaceMeasurement (rates : List Nat) (s : State) : Host.Outcome State Fault Refusal :=
  .next (match lowest rates with
    | none => s
    | some p =>
      if !s.running then s
      else
        let now := s.btime.toNat
        let s1 := s.updGov (fun g => { g with
          pace := p
          belowFrom := if p < paceFloor then some (g.belowFrom.getD now) else none
          aboveFrom := if p < paceFloor then none else some (g.aboveFrom.getD now) })
        let s2 := match s1.gov.aboveFrom with
          | some t => if t + 10000 ≤ now then s1.updGov (fun g => { g with floorMiss := false }) else s1
          | none => s1
        if 100 * p < 103 * paceFloor then s2.askVdd (s2.gov.vdd + 10) else s2)

/-- AVS_REQUEST: every 10 µs the request moves by one step against the target; `ok` false is an AVSBus error, on which the
last acknowledged voltage stays (R501, R504). -/
def execAvsRequest (ok : Bool) (s : State) : Host.Outcome State Fault Refusal :=
  .next (if !s.running || s.gov.avsStopped then s
  else if !ok then s.avsFail
  else
    let s1 := s.updGov (fun g => { g with avsFails := 0 })
    let t := s.paceTarget
    if s.gov.tripped then s1.askVdd 620
    else if 100 * s.gov.pace < 103 * t then s1.askVdd (s.gov.vdd + 5)
    else if 106 * t < 100 * s.gov.pace then s1.askVdd (s.gov.vdd - 5)
    else s1.askVdd s.gov.vdd)

/-- FLOOR_MISS: the measured pace has been below the floor for more than 1 µs (R503). -/
def execFloorMiss (s : State) : Host.Outcome State Fault Refusal :=
  .next (match s.gov.belowFrom with
    | some t =>
      if !s.gov.floorMiss && decide (t + 1000 < s.btime.toNat) then
        (s.updGov (fun g => { g with floorMiss := true, floorMisses := stickAdd 64 g.floorMisses 1 })).latchIn 42
      else s
    | none => s)

/-- AVS_READBACK: Voltage in mV, Current in A, Status, and Temperature where the regulator gives it; `ok` false is a missing
acknowledge, a CRC error or a Status fault (R504). -/
def execAvsReadback (ok : Bool) (volt cur stat : Nat) (temp : Option Int) (s : State) : Host.Outcome State Fault Refusal :=
  .next (if !s.running then s
  else if ok then
    s.updGov (fun g => { g with volt := volt, cur := cur, stat := stat, regTemp := if temp.isSome then temp else g.regTemp })
  else s.avsFail)

/-- AVS_RETRY: once a millisecond after AVSBus has failed (R504). -/
def execAvsRetry (ok : Bool) (s : State) : Host.Outcome State Fault Refusal :=
  .next (if !s.running || !s.gov.avsStopped then s
  else if ok then s.updGov (fun g => { g with avsStopped := false, avsFails := 0 })
  else s.avsFail)

/-! ## Power and temperature (R505 to R508) -/

/-- One step against the power cap: the target down to the floor, then the throttle (R506). -/
def State.capDown (s : State) : State :=
  if !s.gov.avsStopped && decide (paceFloor < s.paceTarget) then
    s.updGov (fun g => { g with capPace := max paceFloor (s.paceTarget - 50) })
  else if s.gov.throttle < 63 then s.updGov (fun g => { g with throttle := g.throttle + 1 })
  else s.updGov (fun g => { g with capExceeded := stickAdd 64 g.capExceeded 1 })

/-- One step back, throttle first (R506). -/
def State.capUp (s : State) : State :=
  if s.gov.throttle ≠ 0 then s.updGov (fun g => { g with throttle := g.throttle - 1 })
  else s.updGov (fun g => { g with capPace := min 2400 (g.capPace + 50) })

/-- POWER_CAP_ADJUST: each millisecond, block power is the VDD_CORE power read back plus the estimate `rest` of the other
rails, in W (R505, R506). -/
def execPowerCapAdjust (rest : Nat) (s : State) : Host.Outcome State Fault Refusal :=
  .next (if !s.running then s
  else
    let p := s.gov.volt * s.gov.cur / 1000 + rest
    let cap := s.kodRun 0x4000 1
    let s1 := s.updGov (fun g => { g with power := p })
    if cap < p then (s1.updGov (fun g => { g with underCap := 0 })).capDown
    else if 100 * p < 95 * cap then (s1.updGov (fun g => { g with underCap := g.underCap + 1 })).capUp
    else s1.updGov (fun g => { g with underCap := 0 }))

/-- Every hide stops, and is held out of service until PORST_N; its key is gone and its memory unrecoverable (R516, R523). -/
def State.zeroiseAll (s : State) : State :=
  (List.range 8).foldl (fun t h =>
    (t.updHide h (fun x => { x with key := 0, heldOut := true, recKind := 0, fullStep := 0 })).rekey h)
    (s.updPow (fun p => { p with zeroised := true }))

/-- The trip: issue and slices stop in every hide, 0.62 V is requested, alarm 0x03 is logged (R508). -/
def State.trip (s : State) : State :=
  if s.gov.tripped then s
  else
    let s1 := (List.range 8).foldl (fun t h => t.updHide h (fun x => { x with heldOut := true }))
      (s.updGov (fun g => { g with tripped := true }))
    ((s1.askVdd 620).logAlarm 3).latchIn 42

/-- Once Tj has fallen, firmware performs a full hide reset of every hide (R508). -/
def State.untrip (s : State) : State :=
  s.hideList.foldl (fun t h => (t.updHide h (fun x => { x with heldOut := false })).startFull h 4)
    (s.updGov (fun g => { g with tripped := false }))

/-- THERMAL_SAMPLE: the hottest Tj of a 10 µs reading; the thermal pace limit moves every tenth reading (R508). -/
def execThermalSample (tj : Int) (s : State) : Host.Outcome State Fault Refusal :=
  .next (if !s.running then s
  else
    let warn : Int := (s.kodRun 0x4000 4 : Nat)
    let s1 := s.updGov (fun g =>
      let due := g.thermTicks = 9
      let past := decide (105 < tj)
      { g with
        tj := tj
        thermTicks := if due then 0 else g.thermTicks + 1
        thermPace :=
          if due ∧ warn < tj then max paceFloor (g.thermPace - 50)
          else if due ∧ tj ≤ warn - 3 then min 2400 (g.thermPace + 50) else g.thermPace
        hot := if past then true else if tj ≤ 103 then false else g.hot
        hotTicks := if past then (if g.hotTicks = 99 then 0 else g.hotTicks + 1) else g.hotTicks
        hotMs := if past ∧ g.hotTicks = 99 then stickAdd 64 g.hotMs 1 else g.hotMs })
    if 115 < tj then s1.trip
    else if s1.gov.tripped && decide (tj ≤ warn) && s1.pow.fwUp && !s1.pow.zeroised then s1.untrip
    else s1)

/-! ## Furlong sleep (R510) -/

/-- FURLONG_SLEEP: the furlong of a hide with a sleep delay and no class-0 reserve, with no group and no acre operation for
longer than the delay; its local stores keep their contents (R36, R510). -/
def execFurlongSleep (f : Fin 16) (s : State) : Host.Outcome State Fault Refusal :=
  .next (match s.furlongHide f.val with
    | none => s
    | some h =>
      let d := s.kodRun 0x4000 (0x0C + h)
      let a := (s.hide h).acre
      if d != 0 && s.kodRun (0x3000 + h) 7 == 0 && (s.groupsOnFurlong f.val).isEmpty && a.run.isNone && a.pre.isNone
          && decide (a.idleFrom + 1000 * d < s.btime.toNat) && s.furlongOn f.val then
        let s1 := (List.range 17).foldl (fun t c =>
          t.updCore (coreIdx f.val c) (fun k => { k with chains := [], sb := [], dcache := [], icache := [], mxq := [], unit := {} })) s
        s1.updPow (fun p => { p with
          fOn := p.fOn.filter (fun x => x != f.val), lOn := p.lOn.filter (fun x => x != f.val)
          lRet := linsert p.lRet f.val })
      else s)

/-- FURLONG_WAKE: the furlong has powered up, with its local stores kept (R510). -/
def execFurlongWake (f : Fin 16) (s : State) : Host.Outcome State Fault Refusal :=
  .next (if s.pow.waking.contains f.val then
    s.updPow (fun p => { p with
      waking := p.waking.filter (fun x => x != f.val), fOn := linsert p.fOn f.val, lOn := linsert p.lOn f.val,
      lRet := p.lRet.filter (fun x => x != f.val) })
  else s)

/-! ## The always-on domain (R511 to R516) -/

/-- The block is on the cell: PORST_N asserted while VDD_AO is present (R511). -/
def State.onCell (s : State) : Bool := s.pow.boot == .off && s.pow.aoUp

/-- An alarm of PD_AO; on the cell it may drive WAKE_N low (R513, R514), else it latches a source of group 46. -/
def State.aoAlarm (s : State) (code : Nat) : State :=
  let s1 := s.logAlarm code
  if s.onCell then { s1 with ao := { s1.ao with wakeLow := s1.ao.wakeLow || s1.ao.wakeEn } } else s1.latchIn 46

/-- RTC_TRIM: the oscillator's rate is trimmed, the count itself goes on (R512). -/
def execRtcTrim (s : State) : Host.Outcome State Fault Refusal := .next s

/-- TIME_REF_LOSS: the block time counter goes on from the oscillator of PD_CTL, and a source of group 42 latches (R571). -/
def execTimeRefLoss (s : State) : Host.Outcome State Fault Refusal :=
  .next (if s.pow.boot == .off || s.pow.timeRefLost then s
  else (s.updPow (fun p => { p with timeRefLost := true })).latchIn 42)

/-- VBAT_LOW: VBAT_OK deasserts (R513). -/
def execVbatLow (s : State) : Host.Outcome State Fault Refusal :=
  .next (if s.pow.aoUp then (s.updPow (fun p => { p with vbatOk := false })).aoAlarm 1 else s)

/-- TAMPER: TAMPER_N asserts; with main power present it acts by 0x4010:03 (R513, R516). -/
def execTamper (s : State) : Host.Outcome State Fault Refusal :=
  .next (if !s.pow.aoUp then s
  else
    let s1 := (s.updPow (fun p => { p with tamperLow := true })).aoAlarm 2
    if s.pow.boot != .off && s.ao.tamperAct == 1 then
      s1.zeroiseAll.hideList.foldl (fun t h => t.updHide h (fun x => { x with recovery := true })) s1.zeroiseAll
    else s1)

/-- ALARM_POSTING: unposted alarms become ALARM records (R515). -/
def execAlarmPosting (s : State) : Host.Outcome State Fault Refusal := .next (if s.running then s.postAlarms else s)

/-! ## Entropy (R517 to R519) -/

/-- ENTROPY_READY: the start-up tests have passed (R518). -/
def execEntropyReady (s : State) : Host.Outcome State Fault Refusal :=
  .next (if s.running then (s.updPow (fun p => { p with entropy := true })).latchIn 43 else s)

/-- ENTROPY_HEALTH_FAILURE: delivery stops; keys already loaded stay (R518). -/
def execEntropyHealthFailure (s : State) : Host.Outcome State Fault Refusal :=
  .next (if s.running then (s.updPow (fun p => { p with entropy := false })).latchIn 43 else s)

/-! ## Debug entry and test access (R523, R577, R578) -/

/-- DEBUG_REQUEST: keys are zeroised and every hide stops at once, without fences or records; a hide start is abandoned
(R523, R526). -/
def execDebugRequest (s : State) : Host.Outcome State Fault Refusal :=
  .next (if s.pow.boot == .off || s.pow.debug != 0 then s
  else (s.zeroiseAll).updPow (fun p => { p with debug := 1 }))

/-- On-chip SRAM of PD_F, PD_L, PD_GATE and PD_CTL reads as zero (R523): register files, local stores, caches, the
sequence table, the resident context table and the record store, with all that the Gate keeps in them. -/
def State.scrubSram (s : State) : State :=
  { s with
    cores := s.cores.map (fun e => (e.1, { e.2 with chains := [], sb := [], dcache := [], icache := [], mxq := [], ls := [], unit := {} }))
    groups := [], waiters := [], lines := [], cmds := [], ctxs := [], live := [], allocs := [], tlb := [], ats := []
    store := [], seqs := [], plans := [], moves := []
    hides := s.hides.map (fun e => (e.1, { e.2 with engQ := [], acre := {}, shiftStage := [], pendSeqs := [], table := [] }))
    kod := { s.kod with fwStage := [], kwData := [] } }

/-- DEBUG_OPEN: the scrub has ended; the status instrument reports DEBUG_OPEN (R523). -/
def execDebugOpen (s : State) : Host.Outcome State Fault Refusal :=
  .next (if s.pow.debug == 1 then s.scrubSram.updPow (fun p => { p with debug := 2 }) else s)

/-- CLOCKED_TEST_MODE: after DEBUG_OPEN; the test clock is TCK, or TIME_REF × (n + 1) (R578). -/
def execClockedTestMode (mult : Option (Fin 10)) (s : State) : Host.Outcome State Fault Refusal :=
  .next (if s.pow.debug == 2 then s.updPow (fun p => { p with testMode := some mult }) else s)

/-- TAP_BYPASS: the one-bit register between TDI and TDO reads 0 first (R577). -/
def execTapBypass (s : State) : Host.Outcome State Fault Refusal :=
  .next ((s.updPow (fun p => { p with tapBypass := true, tapId := none })).emit (.tdo 0))

/-- IDCODE: stepping, part number, manufacturer code and 1 (R577). -/
def idcode : BitVec 32 :=
  BitVec.ofNat 32 (Config.stepping.toNat / 16 * 2 ^ 28 + 0x4B31 * 2 ^ 12 + Config.jedec.toNat * 2 + 1)

/-- TAP_IDCODE (R577). -/
def execTapIdcode (s : State) : Host.Outcome State Fault Refusal :=
  .next ((s.updPow (fun p => { p with tapBypass := false, tapId := some idcode })).emit (.tdo idcode.toNat))

end Sys2Proof.Machine
end

