-- ==== Sys2Proof/Machine/Report.lean ====
section
/-! DEFINITION. End-of-command reports, the FOREIGN command and the Engine Attach Ports (R43 to R45, R271, R280, R321, R332
to R334, R407, R459, R564 to R567). -/

namespace Sys2Proof.Machine

/-! ## Stages of a step (R271, R280) -/

/-- A failed stage reruns its step once (R280). -/
def stageRetries (st : Nat) : Bool := st == 0x11 || st == 0x17 || st == 0x18

/-- A stage's end is reported to its step (R271, R280). -/
def State.endStage (s : State) (c : Cmd) (slot : Nat) : State :=
  let s1 := ((s.dropGroups c.cid).dropCmd c.cid).unqueue c.cid c.hide
  let code := c.status.getD 0
  match (s1.plan? slot).bind (fun p => p.step) with
  | none => s1
  | some st =>
    if st.stageCid ≠ some c.cid then s1
    else if code ≤ 1 then
      (s1.updPlan slot (fun p => { p with step := some { st with next := st.next + 1, stageCid := none } })).progress st.cid
    else if stageRetries code && !st.rerun then
      s1.updPlan slot (fun p => { p with step := some { st with next := 0, stageCid := none, rerun := true } })
    else (s1.abandonStep slot).endStepCmd slot st.cid code c.err

/-! ## Foreign engines (R332 to R334, R564, R566) -/

/-- Statuses that a foreign engine may report (R334). -/
def foreignStatus (st : Nat) : Bool := st == 0 || st == 0x10 || st == 0x11 || st == 0x14 || st == 0x17

/-- The error record of a status that an engine reports (R331). -/
def foreignErr (st : Nat) : Option ErrInfo :=
  match st with
  | 0x11 => some (hwErr 3 0 0)
  | 0x14 => some (descNone 0)
  | 0x17 => some (checksumErr 0 0 0)
  | _ => none

/-- The engine keeps nothing of a command any more (R566). -/
def State.leaveForeign (s : State) (e cid : Nat) : State :=
  s.updEngine e (fun x => { x with cmds := x.cmds.filter (fun i => i != cid), aborting := x.aborting.filter (fun a => a.1 != cid) })

/-- An ENGINE record (R472). -/
def State.engineRecord (s : State) (e kind : Nat) : State := s.postGlobal 0x17 (bodyAt 28 e + bodyAt 29 kind)

/-- END(handle, status) of a foreign engine: a decided status stands, a request outside the slots gives FAULT_PERM, an
invalid status counts and gives RETRY_HW; the record follows the command's writes (R43, R334, R564). -/
def State.endForeign (s : State) (c : Cmd) (st : Nat) : State :=
  let s0 := s.leaveForeign c.engine c.cid
  let s1 := if foreignStatus st then s0
            else (s0.updEngine c.engine (fun x => { x with protoErr := stickAdd 32 x.protoErr 1 })).engineRecord c.engine 0
  if c.status.isSome then
    (if (s.ctx c.ctx).fenced then s1 else s1.complete c.cid (c.status.getD 0) c.err)
  else if (s.ctx c.ctx).fenced then s1.updCmd c.cid (fun x => { x with phase := .stopping, status := some 0x11, err := some recoveryErr })
  else if c.slotFault then s1.complete c.cid 0x13 (some (xlateErr 0 4))
  else s1.endWrites c.cid (if foreignStatus st then st else 0x11) (foreignErr (if foreignStatus st then st else 0x11))

/-- An end-of-command report reaches the Gate (R43 to R45, R407). -/
def State.report (s : State) (cid gen st : Nat) : State :=
  match s.cmd? cid with
  | none => s
  | some c =>
    let held := c.opcode == 0x60 && (s.engine c.engine).cmds.contains cid
    if !held && c.phase != .ended && c.phase != .stopping then s
    else if c.ctx ≠ 0xFFFF ∧ gen ≠ s.genOf c.ctx then
      (if held then s.leaveForeign c.engine cid else s).staleGen c.ctx
    else if held then s.endForeign c st
    else if !s.cmdQuiet cid || (c.ctx != 0xFFFF && (s.ctx c.ctx).fenced) then s
    else
      match c.stage with
      | some x => s.endStage c x.1
      | none => (s.dropGroups cid).complete cid (c.status.getD 0) c.err

/-- END_OF_COMMAND_REPORT: an engine reports the end of a command with its generation and, from a foreign engine, a
status; the completion record follows its writes (R43, R44). -/
def execEndOfCommandReport (cid : Nat) (gen : W16) (st : Byte) (s : State) : Host.Outcome State Fault Refusal :=
  .next ((s.report cid gen.toNat st.toNat).retime)

/-- What the command channel carries of a FOREIGN command (R332, R564). -/
def Cmd.forEngine (c : Cmd) : Out :=
  let v := c.d0.toNat
  .engineCmd c.engine c.cid c.cls (v % 2 ^ 24) (nbits v 31 24) (nbits v 63 32) ((leBytes 64 v).drop 16)

/-- FOREIGN: the hide's oldest command of its engine goes to the Engine Attach Port, which has a free command credit
(R19, R20, R332, R385, R566). -/
def execForeign (cid : Nat) (s : State) : Host.Outcome State Fault Refusal :=
  .next (match s.onRow cid 0x60 with
    | some c =>
      let e := s.engine c.engine
      let earlier := ((s.hide c.hide).engQ.takeWhile (fun i => i != cid)).any (fun i =>
        match s.cmd? i with | some k => k.opcode == 0x60 && k.engine == c.engine | none => false)
      if !e.present then s.complete cid 0x19 (some (commandErr 1 c.engine))
      else if earlier || !s.engineOpen c.hide || !s.ctxOpen c.ctx || e.paused.contains c.ctx || e.pausing.contains c.ctx
          || decide (e.maxCmd ≤ e.cmds.length) then s
      else
        (((s.updHide c.hide (fun h => { h with engQ := h.engQ.filter (fun i => i != cid) })).updCmd cid (fun k => { k with
          phase := .running })).updEngine c.engine (fun x => { x with cmds := x.cmds ++ [cid] })).emit
          c.forEngine
    | none => s)

/-- ENGINE_ATTACH: the identity word, on ports EA0 to EA3 which are engines 1 to 4 (R565). -/
def execEngineAttach (e : Fin 4) (id : W64) (s : State) : Host.Outcome State Fault Refusal :=
  .next (s.updEngine (e.val + 1) (fun x => { x with
    present := true, typ := id.extractLsb' 0 16, drainUs := (id.extractLsb' 16 14).toNat,
    maxCmd := (id.extractLsb' 32 8).toNat + 1, cmds := [], pausing := [], paused := [], aborting := [] }))

/-- ENGINE_DETACH: EAn_PRESENT falls; every command of the engine completes with RETRY_HW, and outstanding pauses count as
acknowledged (R567, R579). -/
def execEngineDetach (e : Fin 4) (s : State) : Host.Outcome State Fault Refusal :=
  let n := e.val + 1
  let mine := s.cmds.filter (fun c => c.opcode == 0x60 && c.engine == n && c.onEngine)
  .next ((mine.foldl (fun t c =>
    if (s.ctx c.ctx).fenced then t.updCmd c.cid (fun x => { x with
      phase := .stopping, status := if x.status.isSome then x.status else some 0x11,
      err := if x.status.isSome then x.err else some (hwErr 3 0 0) })
    else t.complete c.cid (c.status.getD 0x11) (if c.status.isSome then c.err else some (hwErr 3 0 0)))
    (s.updEngine n (fun x => { x with present := false, cmds := [], aborting := [], pausing := [], paused := [] }))).retime)

/-- The slot of a command's buffer table covers [off, off + len), and may be written (R316, R333, R564). -/
def slotCovers (c : Cmd) (slot off len : Nat) (write : Bool) : Bool :=
  bufBound c.buftab slot && decide (off + len ≤ bufLen c.buftab slot) && !(write && bufRo c.buftab slot)

/-- Bytes of an engine's request. -/
def EngOp.len (op : EngOp) : Nat :=
  match op with
  | .read n => n
  | .write d => d.length
  | .atomic _ wide _ _ => if wide then 8 else 4

/-- A foreign engine as a requester (R229). -/
def engWho (e : Nat) : HomeWho := { id := engineId e }

/-- For whom an engine's requests leave: its command, with the context's instance tag and generation (R564). -/
def engAsker (c : Cmd) : Asker := { cid := c.cid, ctx := c.ctx, hide := c.hide }

/-- An atomic of an engine: at the Host Port, at the home of its line here, or as a message to another node whose answer is
the engine's response (R224, R226, R535). -/
def State.engineAtomic (s : State) (e : Nat) (c : Cmd) (pa : Nat) (o : AtomOp) (wide : Bool) (v k : W64) : State :=
  let n := if wide then 8 else 4
  let old := s.readNum pa n
  let x : SbAtom := { load := 0, lane := 0, op := o, size := if wide then 3 else 2, addr := pa, val := v, cmp := k }
  if isHostPa pa then
    if o == .add || o == .exch || o == .cas then
      ((s.writeBytes pa (leBytes n (atomNew o (8 * n) old v.toNat k.toNat))).emit
        (.hostAtomic c.fn (s.hostPort c.fn) pa o (if wide then 3 else 2) v k)).emit (.engineRsp e false (leBytes n old))
    else s.emit (.engineRsp e true [])
  else if !s.isLocal pa then
    s.sendReq { kind := 3, len := if o == .cas then 2 * n else n, hide := BitVec.ofNat 4 (s.askerAt (engAsker c) (pa / 128)).hide,
                dst := BitVec.ofNat 14 (paNode pa), aux := BitVec.ofNat 8 (atomAux x), addr := BitVec.ofNat 40 (paOff pa),
                data := leBytes n v.toNat ++ (if o == .cas then leBytes n k.toNat else []) } none none c.cid c.ctx
  else if !s.lineOwn (engWho e) (pa / 128) then s.askOwn (engWho e) (pa / 128)
  else ((s.takeOwn (pa / 128)).homeAtom o (if wide then 3 else 2) pa v.toNat k.toNat).emit (.engineRsp e false (leBytes n old))

/-- A request of a foreign engine at its command's slot: a read once its lines can be read, a write to the homes of its
bytes, an atomic (R226, R405, R407, R564). -/
def State.engineAccess (s : State) (e : Nat) (c : Cmd) (slot off : Nat) (op : EngOp) : State :=
  let at_ := fun (i : Nat) => (pieceAddr c.pieces slot (off + i)).getD 0
  let stale := c.genAt != s.genOf c.ctx
  match op with
  | .read n =>
    let ls := extLines c.pieces slot off n
    if ls.all (fun l => s.canRead (engWho e) l) then s.emit (.engineRsp e false ((List.range n).map (fun i => s.readPa (at_ i))))
    else s.askReads (engWho e) (engAsker c) ls
  | .write d =>
    if stale then (s.staleGen c.ctx).emit (.engineRsp e true [])
    else (s.writeExt (engineId e) (engAsker c) c.pieces slot off d).emit (.engineRsp e false [])
  | .atomic o wide v k =>
    if stale then (s.staleGen c.ctx).emit (.engineRsp e true []) else s.engineAtomic e c (at_ 0) o wide v k

/-- ENGINE_REQUEST: resolved through the command's translated pieces; a request outside its bound slots gets an error
response (R333, R564). -/
def execEngineRequest (e : Fin 4) (cid : Nat) (slot : Fin 16) (off : Nat) (op : EngOp) (s : State) :
    Host.Outcome State Fault Refusal :=
  let n := e.val + 1
  .next (match s.cmd? cid with
    | some c =>
      if !(s.engine n).cmds.contains cid || c.engine != n then s.emit (.engineRsp n true [])
      else if 128 < EngOp.len op || !slotCovers c slot.val off (EngOp.len op)
          (match op with | .read _ => false | _ => true) then
        (s.updCmd cid (fun k => { k with slotFault := true })).emit (.engineRsp n true [])
      else s.engineAccess n c slot.val off op
    | none => s.emit (.engineRsp n true []))

/-- The engine that holds a command. -/
def State.heldBy (s : State) (cid : Nat) : Option Nat :=
  (s.engines.find? (fun e => e.2.cmds.contains cid)).map (fun e => e.1)

/-- ENGINE_PROGRESS: PROGRESS(handle) (R457, R566). -/
def execEngineProgress (cid : Nat) (s : State) : Host.Outcome State Fault Refusal :=
  .next (if (s.heldBy cid).isSome then s.progress cid else s)

/-- ENGINE_HELD: HELD(handle) (R459, R566). -/
def execEngineHeld (cid : Nat) (s : State) : Host.Outcome State Fault Refusal :=
  .next (if (s.heldBy cid).isSome then (s.updCmd cid (fun c => { c with engHeld := true })).retime else s)

/-- ENGINE_RELEASED: RELEASED(handle) (R459, R566). -/
def execEngineReleased (cid : Nat) (s : State) : Host.Outcome State Fault Refusal :=
  .next (if (s.heldBy cid).isSome then (s.updCmd cid (fun c => { c with engHeld := false })).retime else s)

/-- ENGINE_PAUSED: PAUSED(context), the engine's acknowledgement (R367, R405, R566). -/
def execEnginePaused (e : Fin 4) (ctx : Fin 16384) (s : State) : Host.Outcome State Fault Refusal :=
  .next (s.updEngine (e.val + 1) (fun x =>
    if x.pausing.contains ctx.val then
      { x with pausing := x.pausing.filter (fun i => i != ctx.val), paused := x.paused ++ [ctx.val] }
    else x))

/-- ENGINE_DRAIN_TIMEOUT: an abort or a pause is not answered within DRAIN_US (R567). -/
def execEngineDrainTimeout (e : Fin 4) (cid : Nat) (s : State) : Host.Outcome State Fault Refusal :=
  let n := e.val + 1
  let x := s.engine n
  .next (match s.cmd? cid with
    | some c =>
      let late := x.aborting.any (fun a => a.1 == cid && decide (a.2 + 1000 * x.drainUs ≤ s.btime.toNat))
      if late || (x.cmds.contains cid && x.pausing.contains c.ctx) then
        (((s.engineRecord n 1).recoverCtx c.ctx).leaveForeign n cid).updEngine n (fun y => { y with
          pausing := y.pausing.filter (fun i => i != c.ctx) })
      else s
    | none => s)

end Sys2Proof.Machine
end

