-- ==== Sys2Proof/Machine/Bringup.lean ====
section
/-! DEFINITION. Resets, start-up, firmware restart, Stack Ports, CXL.mem, SR-IOV, I3C, and failing cores (R146, R381, R451,
R452, R470, R471, R511 to R514, R527 to R530, R554 to R561, R569, R571). -/

namespace Sys2Proof.Machine

/-! ## What a reset loses and keeps (R452, R477, R511, R528, R571) -/

/-- A core position after a reset: fuses and retirements stay until service; what else was decided at run time stays over
WARMRST_N only (R22, R146, R469, R477). -/
def coreAfter (cold : Bool) (k : Core) : Core :=
  if cold then { fused := k.fused, retired := k.retired }
  else { fused := k.fused, retired := k.retired, suspect := k.suspect, failed := k.failed, passes := k.passes,
         suspects := k.suspects }

/-- The dictionary after a reset: what the config store holds stays, and the I3C address and endpoint ID over WARMRST_N. -/
def kodAfter (cold : Bool) (k : Kod) : Kod :=
  { bootSource := k.bootSource, lastActive := k.lastActive, hdrActive := k.hdrActive, hdrEvseq := k.hdrEvseq, pins := k.pins
    copies := k.copies, hdrAt := k.hdrAt, hdrSeq := k.hdrSeq, fwOk0 := k.fwOk0, fwOk1 := k.fwOk1, fwRun := k.fwRun, fwNext := k.fwNext, fwImg0 := k.fwImg0
    fwImg1 := k.fwImg1, shiftSlots := k.shiftSlots
    i3cAddr := if cold then 0 else k.i3cAddr, eid := if cold then none else k.eid }

/-- Hide counters stay over WARMRST_N (R477). -/
def hideAfter (cold : Bool) (h : Hide) : Hide :=
  if cold then {}
  else { epoch := h.epoch, staleGen := h.staleGen, isolation := h.isolation, lateRsp := h.lateRsp,
         switchGrains := h.switchGrains, lostSignals := h.lostSignals }

/-- Inbound words are discarded at a firmware restart (R452). -/
def discardIn (b : Mbox) : Mbox := if b.inFull then { b with inFull := false, inDiscarded := true } else b

/-- The block in reset: PD_AO, the config store and the surroundings keep what they hold; keys, memory contents and all
else are gone (R511, R522, R524, R528). -/
def State.wipe (s : State) (cold : Bool) : State :=
  { pending := s.pending, free := s.free, ext := s.ext, out := s.out, ao := s.ao
    btime := if cold then 0 else s.btime
    cores := s.cores.map (fun e => (e.1, coreAfter cold e.2))
    kod := kodAfter cold s.kod
    hides := s.hides.map (fun e => (e.1, hideAfter cold e.2))
    boxes := if cold then [] else s.boxes.map (fun e => (e.1, discardIn e.2))
    gov := if cold then {} else { s.gov with beatSub := 0 }
    pow := { boot := if cold then .off else .warmHeld, aoUp := s.pow.aoUp, vbatOk := s.pow.vbatOk, tamperLow := s.pow.tamperLow
             draws := s.pow.draws, timeRefLost := if cold then false else s.pow.timeRefLost
             zeroised := !cold && s.pow.zeroised, debug := if cold then 0 else s.pow.debug
             testMode := if cold then none else s.pow.testMode
             tapBypass := s.pow.tapBypass, tapId := s.pow.tapId }
    engines := if cold then [] else s.engines.map (fun e => (e.1, { e.2 with cmds := [], pausing := [], paused := [], aborting := [] }))
    sports := if cold then [] else s.sports
    fab := { links := if cold then [] else s.fab.links.map (fun e =>
      (e.1, ({ phy := e.2.phy, replays := e.2.replays, protoErr := e.2.protoErr, lateRsp := e.2.lateRsp } : Link))) } }

/-- POWER_LOSS_ALARM: PORST_N asserts with VDD_AO present (R511, R513, R514, R522). -/
def execPowerLossAlarm (s : State) : Host.Outcome State Fault Refusal :=
  .next (if s.pow.aoUp && s.pow.boot != .off then (s.wipe true).aoAlarm 4 else s)

/-- WARMRST_ASSERTION: every hide's key and contents end; PD_AO keeps its contents (R522, R524). -/
def execWarmrstAssertion (s : State) : Host.Outcome State Fault Refusal :=
  .next (if s.pow.boot != .off then s.wipe false else s)

/-- ALWAYS_ON_POWER_UP: PD_AO had lost all supply: EVSEQ is 1, the alarm log, journal slots, firmware generation and clock
start empty; the config store keeps the mirror (R471, R492, R524). -/
def execAlwaysOnPowerUp (s : State) : Host.Outcome State Fault Refusal :=
  .next ({ s.wipe true with
    ao := { mirror := s.ao.mirror, mirrorPos := s.ao.mirrorPos }
    pow := { (s.wipe true).pow with aoUp := true, vbatOk := true } })

/-- A reset ends: PROFSEL is sampled, EG_MODE is STARTUP, WAKE_N is released; the flash is asked how it reads, and the
header copies are read (R489, R493, R514, R527, R568). -/
def State.deassert (s : State) (profsel : BitVec 2) : State :=
  (({ s with pow := { s.pow with boot := .image }, kod := { s.kod with pins := profsel }
             ao := { s.ao with wakeLow := false } } : State).flashDiscover).flashRead 0 0x2000

/-- POWER_ON_RESET: PORST_N deasserts; block time starts at 0 (R527, R571). -/
def execPowerOnReset (profsel : BitVec 2) (s : State) : Host.Outcome State Fault Refusal :=
  .next ((s.wipe true).deassert profsel)

/-- WARM_RESET: WARMRST_N deasserts (R528); not on the cell. -/
def execWarmReset (profsel : BitVec 2) (s : State) : Host.Outcome State Fault Refusal :=
  .next (if s.pow.boot = .off then s else (s.wipe false).deassert profsel)

/-! ## Firmware (R451, R489, R494, R495, R527, R530) -/

/-- The firmware generation increments, skipping 0 (R451). -/
def nextFwGen (g : W16) : W16 := if g + 1 = 0 then 1 else g + 1

/-- The firmware slot named next is used if it checks, otherwise the other (R494). -/
def State.pickFirmware (s : State) : State :=
  let ok := fun i => if i = 0 then s.kod.fwOk0 else s.kod.fwOk1
  let i := if ok s.kod.fwNext then s.kod.fwNext else 1 - s.kod.fwNext
  let s1 := s.flashRead (fwAt s.kod.fwNext) fwLen
  let s2 := if i = s.kod.fwNext then s1 else s1.flashRead (fwAt i) fwLen
  { s2 with kod := { s2.kod with fwRun := i } }

/-- The profile copies, the journal mirror and the integrator's area are read (R485, R492, R495). -/
def State.readStore (s : State) : State :=
  (((List.range 8).foldl (fun t i => t.flashRead (profAt (i / 2) (i % 2)) 0x10000) s).flashRead 0x100000 0x100000).flashRead
    0x1E00000 0x200000

/-- Every running value comes from the profile (R489, R582). -/
def State.activate (s : State) (p : Nat) : State :=
  let ks := ((tget s.kod.stored p []).map (fun e => e.1)).filter (fun k =>
    match kodEntry (k / 256) (k % 256) with | some e => e.persist | none => false)
  let s1 := ks.foldl (fun t k => t.journalDefault p (k / 256) (k % 256)) s
  let run : Tbl Nat := ks.map (fun k => (k, s1.profVal p (k / 256) (k % 256)))
  let s2 : State := (List.range 8).foldl (fun t h => t.capUnits h)
    { s1 with kod := { s1.kod with run := run, active := p, lastActive := p, heldLive := [] } }
  { s2 with ao := { s2.ao with wakeEn := s2.kodRun 0x4010 2 == 1, tamperAct := s2.kodRun 0x4010 3 }
            gov := { s2.gov with capFrom := s2.btime.toNat } }

/-- The domains of the profile power up, and discovery starts on every enabled port whose PHY is up (R35, R527). -/
def State.powerUp (s : State) : State :=
  let en := s.kodRun 0x8000 3
  let fs := (List.range 16).filter (fun f => (s.furlongHide f).isSome)
  let s1 := (s.powerPorts).updPow (fun p => { p with
    fOn := fs, lOn := fs, lRet := [], waking := [], lka := en % 65536 != 0, lkb := en / 65536 != 0
    boot := .starting })
  let s2 := (List.range 32).foldl (fun t n =>
    if nbit en n then
      t.linkState n (if !topoValid t.topo then .down else if (t.link n).phy then .hello else .training)
    else t) s1
  if en != 0 && !topoValid s2.topo then s2.linkRecord 0xFF 4 0 0 else s2

/-- Firmware's chains on the control cores: 64 slots each (R152, R203; log 27). -/
def firmwareChain : Chain := { cid := 0, vregs := 56 }

/-- The control cores start firmware at its entry. -/
def State.startControl (s : State) : State :=
  (List.range 4).foldl (fun t i => t.updCore (272 + i) (fun k => { k with
    chains := (List.range 64).map (fun j => (j, firmwareChain)), sb := [], dcache := [], icache := [], mxq := [] })) s

/-- At the end of a firmware restart each source whose signal is still high latches; which ones are is not known here
(R530; log 4). -/
def State.latchHigh (s : State) : State :=
  s.eg.high.foldl (fun t n => if t.freshVal 1 = 1 then (t.freshNext).latch n else
    { t.freshNext with eg := { t.eg with high := t.eg.high.filter (fun x => x != n) } }) s

/-- FIRMWARE_START: the image has been read and checked. In a start-up the profiles are checked, the journal is replayed and
a profile is activated; after a restart firmware goes on. KOD requests in the store are performed (R451, R482, R489, R494,
R495, R527, R530). -/
def execFirmwareStart (s : State) : Host.Outcome State Fault Refusal :=
  .next (if !s.running || s.pow.fwUp || s.pow.debug != 0 then s
  else
    let s1 := { s.pickFirmware with ao := { s.ao with fwGen := nextFwGen s.ao.fwGen } }
    let s2 := (s1.startControl).updPow (fun p => { p with fwUp := true })
    if s2.pow.boot = .image then
      let s3 := s2.readStore.loadProfiles
      let f := s3.fallback (if s3.kod.bootSource = 1 then s3.kod.lastActive else s3.kod.pins.toNat)
      ((f.1.activate f.2).powerUp).serveStored
    else s2.latchHigh.serveStored)

/-- FIRMWARE_RESTART: a control core has failed; the failure is logged, every pending bit and target stack of the Event
Gatherer is cleared, inbound mailbox words are discarded (R452, R470, R530). -/
def State.restartFirmware (s : State) (_ : Nat) : State :=
  let s1 := s.logAlarm 5
  { s1 with
    pow := { s1.pow with fwUp := false }
    cores := s1.cores.map (fun e => (e.1, if 272 ≤ e.1 then 
      { e.2 with chains := [], sb := [], dcache := [], icache := [], mxq := [], failed := false } else e.2))
    eg := { s1.eg with
      srcs := s1.eg.srcs.map (fun e => (e.1, { e.2 with pending := false, presented := false, insvc := false }))
      tgts := s1.eg.tgts.map (fun e => (e.1, { e.2 with stack := [] })) }
    boxes := s1.boxes.map (fun e => (e.1, discardIn e.2)) }

/-- FIRMWARE_RESTART (R530). -/
def execFirmwareRestart (cc : Fin 4) (s : State) : Host.Outcome State Fault Refusal :=
  .next (if s.running && s.pow.debug == 0 then s.restartFirmware cc.val else s)

/-- Groups that leave hold-off present their pending sources (R442). -/
def State.presentAll (s : State) : State :=
  (List.range 64).foldl (fun t g => if t.inHoldOff g then t else t.presentGrp g) s

/-- A hide starts: its key is drawn, its program loaded, its functions are READY; with the last one, EG_MODE is SERVICE
(R135, R466, R522, R527, R529). -/
def State.startHide (s : State) (h : Nat) : State :=
  let us := (List.range 0xC0).filter (fun u => s.unitKind u == 2 && s.unitHide u == h)
  let s1 := (s.drawKey h).readShift h
  let s2 : State := if s.kodRun (0x3000 + h) 0x0D = 1 then { s1 with scrubbed := s1.scrubbed ++ us } else s1
  let s3 := s2.updHide h (fun x => { x with
    started := true
    spanLen := s.kodRun (0x5000 + h) 7
    table := ((List.range 256).map (fun i => (i, s.kodRun (0x5010 + h) i))).filter (fun e => e.2 != 0)
    acre := { x.acre with bankA := tfind s.kod.shiftSlots h } })
  let s4 := if s3.hideList.all (fun k => (s3.hide k).started) then
      ({ s3 with eg := { s3.eg with mode := 0 }, pow := { s3.pow with boot := .service } }).presentAll
    else s3
  s4.refreshAll

/-- HIDE_START: the hide's Stack Ports are ready, the entropy source delivers (R527). -/
def execHideStart (h : Fin 8) (s : State) : Host.Outcome State Fault Refusal :=
  .next (if (s.pow.boot == .starting || s.pow.boot == .service) && s.pow.fwUp && s.hideExists h.val && !(s.hide h.val).started
      && !(s.hide h.val).recovery && (s.portsOfHide h.val).all (fun p => (tget s.sports p {}).ready)
      && s.pow.entropy && !s.pow.zeroised then
    s.startHide h.val
  else s)

/-! ## Failing cores (R146, R470) -/

/-- CORE_ERR: an uncorrectable error in a core or its unit; on a control core, a firmware restart. -/
def execCoreErr (core : Fin 276) (s : State) : Host.Outcome State Fault Refusal :=
  .next (if 272 ≤ core.val then (if s.running && s.pow.debug == 0 then s.restartFirmware (core.val - 272) else s)
  else
    let s1 := (s.updCore core.val (fun k => { k with failed := true })).latchIn (core.val / 17)
    match s.coreHide core.val with
    | some h =>
      if !s.coreActive core.val then s1
      else if (s.hide h).recovery then s1.failOnCore h core.val
      else s1.startReset h 0
    | none => s1)

/-! ## Stack Ports (R427, R560, R561, R579) -/

/-- The hide that a Stack Port belongs to. -/
def State.portHide (s : State) (p : Nat) : Option Nat := s.hideList.find? (fun h => nbit (s.kodRun (0x3000 + h) 2) p)

/-- Change a Stack Port. -/
def State.updSport (s : State) (p : Nat) (f : SPort → SPort) : State := { s with sports := tupd s.sports p {} f }

/-- A STACK_PORT record (R472). -/
def State.stackRecord (s : State) (p lane kind addr : Nat) : State :=
  s.postGlobal 0x11 (bodyAt 28 p + bodyAt 29 lane + bodyAt 30 kind + bodyAt 32 addr)

/-- An error response reaches the requester: MEM_ERR, a mover halt, or HWFAIL with RETRY_HW; for a record that a command
names, its result word or block included, the command ends so, and a CTX_CREATE keeps no context (R194, R314, R428, R560,
R583). -/
def State.errorTo (s : State) (who : HostWho) (source pa : Nat) : State :=
  match who with
  | .load c idx => s.loadErr c.core.val c.slot.val idx
  | .mover m _ => s.haltMover m.val pa
  | .sideRecord cid => s.failCmd cid 0x11 (some (hwErr source 0 pa))
  | .other => s

/-- Loads of the chains on a hide's cores with a lane on a Stack Port. -/
def State.loadsOnPort (s : State) (h p : Nat) : List (Nat × Nat × Nat) :=
  (s.hideCores h).flatMap (fun i => (s.core i).chains.flatMap (fun e =>
    (e.2.loads.filter (fun l => !l.atomic && l.lanes.any (fun x => s.isLocal x.2 && s.stackPortOf (paOff x.2) == p))).map
      (fun l => (i, e.1, l.idx))))

/-- STACK_PORT_READY: the stack is trained; a full hide reset that a falling port interrupted runs again (R561, R579). -/
def execStackPortReady (p : Fin 12) (s : State) : Host.Outcome State Fault Refusal :=
  let s1 := s.updSport p.val (fun x => { x with ready := true })
  .next (match s1.portHide p.val with
    | some h =>
      if (s1.hide h).fullStep == 3 && (s1.portsOfHide h).all (fun q => (tget s1.sports q {}).ready) then
        (s1.updHide h (fun x => { x with recKind := 0, fullStep := 0 })).startFull h 2
      else s1
    | none => s1)

/-- STACK_PORT_DOWN: outstanding requests complete as RESP 2, a record is written, and a full hide reset follows; one under
way scrubs no further and runs again once the port is ready (R561, R579). -/
def execStackPortDown (p : Fin 12) (s : State) : Host.Outcome State Fault Refusal :=
  let s1 := s.updSport p.val (fun x => { x with ready := false })
  .next (match s1.portHide p.val with
    | some h =>
      let s2 := (s1.loadsOnPort h p.val).foldl (fun t l => t.loadErr l.1 l.2.1 l.2.2) s1
      let s3 := ((s2.stackRecord p.val 0 3 0).latchIn (16 + p.val))
      if (s3.hide h).fullStep = 2 then s3.updHide h (fun x => { x with fullStep := 3 })
      else if (s3.hide h).started then s3.startFull h 2 else s3
    | none => s1)

/-- STACK_READ_RESPONSE: a read-data beat or write acknowledgement with its RESP, on the port and lane where R52 stores its
address; on any other it answers no request (R52, R466, R558 to R560). -/
def execStackReadResponse (p : Fin 12) (lane : Fin 16) (wack : Bool) (resp : BitVec 2) (addr : BitVec 56) (who : HostWho)
    (s : State) : Host.Outcome State Fault Refusal :=
  let a := addr.toNat
  let place := s.stackPlace (paOff a)
  .next (if s.isLocal a && !(place.port == p.val && place.lane == lane.val) then s
    else match resp.toNat with
    | 0 => s
    | 1 =>
      let n := tget (tget s.sports p.val {}).corrected lane.val 0 + 1
      let s1 := s.updSport p.val (fun x => { x with corrected := tset x.corrected lane.val n })
      if n % 1000 = 0 then (s1.stackRecord p.val lane.val 0 a).latchIn (16 + p.val) else s1
    | r =>
      let s1 := ((s.stackRecord p.val lane.val (if r = 2 then 1 else 2) a).latchIn (16 + p.val))
      let s2 := if wack then (match who with | .load _ _ => s1 | w => s1.errorTo w 5 a) else s1.errorTo who 5 a
      match s.portHide p.val with
      | some h => if s.isLocal a && (s.fwUnits h).contains (paOff a / 2 ^ 32) && r == 2 then s2.startFull h 2 else s2
      | none => s2)

/-- Part of a load's data from the host, or the old value of a host atomic's lane that has left the store buffer; a late one
is discarded and counted (R210, R224, R463). -/
def State.hostPart (s : State) (core slot idx pa : Nat) (data : List Byte) : State :=
  match (s.chain? core slot).bind (fun c => c.loads.find? (fun l => l.idx == idx && l.atomic)) with
  | some l =>
    let sent := l.lanes.find? (fun x => x.2 == pa && !(s.core core).sb.any (fun e =>
      e.slot == slot && e.atoms.any (fun y => y.load == idx && y.lane == x.1)))
    (match sent with
    | some x => s.atomLane core slot idx x.1 data
    | none => s)
  | none =>
    match (s.chain? core slot).bind (fun c => c.loads.find? (fun l => l.idx == idx)), s.coreHide core with
    | none, some h => s.lateFor h
    | _, _ => (s.writeBytes pa data).loadPart core slot idx

/-- HOST_READ_COMPLETION: data of an outbound read, or an error response (R210, R557, R583; log 18). -/
def execHostReadCompletion (who : HostWho) (addr : Nat) (data : List Byte) (err : Bool) (s : State) :
    Host.Outcome State Fault Refusal :=
  .next (if err then
    s.errorTo who (match who with | .sideRecord _ => 5 | _ => 0) addr
  else
    let pa := 2 ^ 55 + addr % 2 ^ 55
    match who with
    | .sideRecord cid => (s.writeBytes pa data).gotSide cid pa data.length
    | .load c idx => s.hostPart c.core.val c.slot.val idx pa data
    | _ => s.writeBytes pa data)

/-! ## CXL.mem, SR-IOV, I3C (R381, R556, R569) -/

/-- Exposed units in ascending index: DPA space (R556). -/
def State.exposedUnits (s : State) : List Nat := (List.range 0xC0).filter (fun u => s.unitKind u == 2)

/-- The local offset of a DPA, none beyond the last exposed unit or in a unit whose hide is in a full hide reset or has no
key (R522, R556). -/
def State.dpaOff (s : State) (dpa : Nat) : Option Nat :=
  match s.exposedUnits[dpa / 2 ^ 32]? with
  | some u => if (s.hide (s.unitHide u)).recKind = 2 ∨ (s.hide (s.unitHide u)).key ≠ 2 then none else some (u * 2 ^ 32 + dpa % 2 ^ 32)
  | none => none

/-- CXL_MEM_REQUEST: a read of 64 bytes, or a write, of an exposed unit, performed and answered at the home of its line
(R226, R556). -/
def execCxlMemRequest (dpa : Nat) (wr : Option (List Byte)) (s : State) : Host.Outcome State Fault Refusal :=
  .next (match s.dpaOff (dpa / 64 * 64) with
    | none => s.emit (.cxl true [])
    | some off =>
      let pa := s.localPa off
      let kind : HomeKind := match wr with
        | none => .read
        | some d => .write ((d.take 64).mapIdx (fun i b => (pa + i, b)))
      s.requestOnce (pa / 128) { who := { id := cxlId }, kind := kind, cxl := some pa })

/-- ENTDAA: the I3C bus owner assigns the dynamic address (R569). -/
def execEntdaa (addr : BitVec 7) (s : State) : Host.Outcome State Fault Refusal :=
  .next (if s.ctlUp then { s with kod := { s.kod with i3cAddr := addr } } else s.emit (.transportError none))

/-- VF_ENABLE_CHANGE: the host has enabled or disabled the VF in SR-IOV (R381); the PF is no VF. -/
def execVfEnableChange (vf : Fin 513) (on : Bool) (s : State) : Host.Outcome State Fault Refusal :=
  .next (if vf.val = 0 then s else s.updFn vf.val (fun r => { r with sriov := on }))

end Sys2Proof.Machine
end

