-- ==== Sys2Proof/Machine/Regs.lean ====
section
/-! DEFINITION. Registers by address: what each reads as, and what a write of the bits that an access covers does: BAR0 of a
function, and the device registers of the control cores (R284 to R291, R295 to R298, R323, R380 to R382, R412 to R415,
R433 to R436, R446, R449, R450, R481). -/

namespace Sys2Proof.Machine

/-! ## Accesses (R286) -/

/-- A naturally aligned access of 32 or 64 bits. -/
def accessOk (off size : Nat) : Bool := (size == 4 || size == 8) && off % size == 0

/-- The register's value with the covered bits replaced. -/
def mergeVal (old : Nat) (off size : Nat) (val : W64) : Nat :=
  if size = 8 then val.toNat
  else if off % 8 = 0 then setBits old 31 0 (val.toNat % 2 ^ 32)
  else setBits old 63 32 (val.toNat % 2 ^ 32)

/-- An access covers bit 0 of its register. -/
def coversLow (off : Nat) : Bool := off % 8 == 0

/-! ## The function control page (R287 to R291) -/

/-- Engines usable by a function (R289). -/
def State.fnEngines (s : State) (n : Nat) : Nat :=
  match s.fnHide n with
  | none => 0
  | some h => (if (s.furlongsOf h).isEmpty then 0 else 1)
      + ([1, 2, 3, 4].map (fun e => if (tget s.engines e {}).present then 2 ^ e else 0)).sum

/-- FN_CAPS (R289). -/
def State.fnCaps (s : State) (n : Nat) : Nat :=
  fnQueues n + s.fnClasses n * 2 ^ 8 + s.fnEngines n * 2 ^ 12
    + (match s.fnHide n with | some h => s.kodRun (0x3000 + h) 4 | none => 0) * 2 ^ 32

/-- FN_STATUS (R290). -/
def State.fnStatus (s : State) (n : Nat) : Nat :=
  (if (s.fn n).ready then 1 else 0) + (if (s.fn n).resetting then 2 else 0)
    + (match s.fnHide n with | some h => if (s.hide h).recovery then 4 else 0 | none => 8)

/-- The function control page (R287). -/
def State.readFcp (s : State) (n o : Nat) : Nat :=
  match o with
  | 0x000 => n + s.fnKod n 1 % 16 * 2 ^ 16 + s.nodeId * 2 ^ 32
  | 0x008 => 0x0100
  | 0x010 => (s.fn n).verSelect.toNat
  | 0x018 => s.fnCaps n
  | 0x020 => ([1, 2, 3, 4].map (fun e => if (tget s.engines e {}).present then (tget s.engines e {}).typ.toNat * 2 ^ (16 * (e - 1)) else 0)).sum
  | 0x028 => (s.fn n).gen.toNat
  | 0x030 => s.fnStatus n
  | 0x040 => s.btime.toNat
  | 0x048 => s.fnKod n 7 + (s.fnCtxs n).length * 2 ^ 16
  | _ => 0

/-- A write to the function control page (R287, R291, R292). -/
def State.writeFcp (s : State) (n o off : Nat) (val : W64) : State :=
  if o = 0x010 && coversLow off then s.writeVerSelect n (val.setWidth 16)
  else if o = 0x038 && coversLow off && val.getLsbD 0 && s.fnTakes n then s.startFnReset n
  else s.ignored n

/-! ## Event and error queue control (R323) -/

/-- One queue's five registers. -/
def readEq (q : RecQueue) (mirror : Bool) (o : Nat) : Nat :=
  match o with
  | 0x00 => q.base.toNat
  | 0x08 => q.log2 + (if q.cfgEnable then 256 else 0) + (if mirror then 512 else 0)
  | 0x10 => q.head.toNat
  | 0x18 => q.tail.toNat
  | 0x20 => (if q.enabled then 1 else 0) + (if q.cfgErr then 2 else 0) + q.lostTotal * 2 ^ 32
  | _ => 0

/-- The event and error queue control page. -/
def State.readEqc (s : State) (n o : Nat) : Nat :=
  if o = 0x080 then (s.fn n).noticeMask.toNat
  else if o < 0x040 then readEq (s.fn n).evq false o
  else if o < 0x080 then readEq (s.fn n).erq (n == 0 && (s.fn n).mirrorVf) (o - 0x040)
  else 0

/-- A write to one queue's registers (R323 to R325, R330). -/
def State.writeEq (s : State) (n : Nat) (err : Bool) (o off : Nat) (v : Nat) : State :=
  match o with
  | 0x00 =>
    if (s.recq (eqDest n err)).enabled then s
    else s.updRecq (eqDest n err) (fun q => { q with base := BitVec.ofNat 64 (v / 64 * 64) })
  | 0x08 =>
    if coversLow off then
      (if nbit v 8 then s.enableEq n err (BitVec.ofNat 64 v) else s.disableEq n err (BitVec.ofNat 64 v))
    else s
  | 0x10 => if coversLow off then s.writeEqHead n err (BitVec.ofNat 32 v) else s
  | 0x20 => if coversLow off && nbit v 1 then s.updRecq (eqDest n err) (fun q => { q with cfgErr := false }) else s
  | _ => s

/-- A write to the page. -/
def State.writeEqc (s : State) (n o off size : Nat) (val : W64) : State :=
  if !s.fnTakes n then s.ignored n
  else if o = 0x080 then s.updFn n (fun r => { r with noticeMask := BitVec.ofNat 64 (mergeVal r.noticeMask.toNat off size val) })
  else if 0x080 ≤ o then s
  else if o % 0x40 = 0x20 then s.writeEq n (decide (0x40 ≤ o)) 0x20 off (mergeVal 0 off size val)
  else s.writeEq n (decide (0x40 ≤ o)) (o % 0x40) off (mergeVal (s.readEqc n o) off size val)

/-! ## Queue blocks (R295 to R305) -/

/-- Q_STATUS (R298). -/
def Queue.status (r : Queue) : Nat :=
  (if r.enabled then 1 else 0) + (if r.ctxGone then 2 else 0) + (if r.stopped then 4 else 0) + (if r.dbPending then 8 else 0)
    + r.errCode % 16 * 2 ^ 8 + r.pushDrop % 2 ^ 16 * 2 ^ 32

/-- A queue block's registers (R295). -/
def State.readQueue (s : State) (n q o : Nat) : Nat :=
  let r := s.queue n q
  match o with
  | 0x000 => r.ctrl.toNat
  | 0x008 => r.ctx.toNat
  | 0x010 => r.sched.toNat
  | 0x018 => r.reserve.toNat
  | 0x020 => r.sqBase.toNat
  | 0x028 => r.sqTail.toNat
  | 0x030 => r.sqHead.toNat
  | 0x038 => r.cqBase.toNat
  | 0x040 => r.cqHead.toNat
  | 0x048 => r.cqTail.toNat
  | 0x050 => r.cqInt.toNat
  | 0x058 => r.status
  | 0x060 => r.ssn.toNat
  | _ => 0

/-- Configuration registers are written only while ENABLED is 0 (R299). -/
def State.setQueue (s : State) (n q : Nat) (f : Queue → Queue) : State :=
  if (s.queue n q).enabled then s else s.updQueue n q f

/-- A write to a queue block (R286, R295 to R305). -/
def State.writeQueue (s : State) (n q o off size : Nat) (val : W64) : State :=
  let v := mergeVal (s.readQueue n q o) off size val
  let low := coversLow off
  if !s.fnTakes n then s.ignored n
  else
    match o with
    | 0x000 =>
      if low then
        (if nbit v 0 then s.writeEnable n q (BitVec.ofNat 64 v) else s.writeDisable n q (BitVec.ofNat 64 v))
      else s
    | 0x008 => s.setQueue n q (fun r => { r with ctx := BitVec.ofNat 16 v })
    | 0x010 => s.setQueue n q (fun r => { r with sched := BitVec.ofNat 64 (v % 2 ^ 24) })
    | 0x018 => s.setQueue n q (fun r => { r with reserve := BitVec.ofNat 64 (v % 2 ^ 32) })
    | 0x020 => s.setQueue n q (fun r => { r with sqBase := BitVec.ofNat 64 (v / 64 * 64) })
    | 0x028 => if low then s.ringDoorbell n q (BitVec.ofNat 32 v) else s
    | 0x038 => s.setQueue n q (fun r => { r with cqBase := BitVec.ofNat 64 (v / 64 * 64) })
    | 0x040 => if low then s.writeCqHead n q (BitVec.ofNat 32 v) else s
    | 0x050 => (s.updQueue n q (fun r => { r with cqInt := BitVec.ofNat 64 (v % 2 ^ 18) })).cqSignal n q
    | 0x068 => if low && val.getLsbD 0 then s.abortQueue n q else s
    | _ => s

/-! ## VF management (R380 to R382) -/

/-- The fields of a VF management register as entries: subindex, lowest bit, width. -/
def vfFields (o : Nat) : List (Nat × Nat × Nat) :=
  match o with
  | 0x000 => [(1, 0, 4), (2, 4, 1)]
  | 0x008 => [(3, 0, 4), (4, 8, 1)]
  | 0x010 => [(5, 0, 16), (6, 16, 16)]
  | 0x018 => [(7, 0, 16), (8, 32, 32)]
  | _ => []

/-- A VF's management registers (R381). -/
def State.readVfm (s : State) (n o : Nat) : Nat :=
  if o = 0x020 then
    (if (s.fn n).sriov then 1 else 0) + (if (s.fn n).refused then 2 else 0) + (s.fnCtxs n).length * 2 ^ 16
  else ((vfFields o).map (fun f => s.fnKod n f.1 % 2 ^ f.2.2 * 2 ^ f.2.1)).sum

/-- The KOD write of one field. -/
def vfReq (n sub v : Nat) : KodReq :=
  let ty := match kodEntry (0x7000 + n) sub with | some e => e.ty | none => 1
  kodSet .window (0x7000 + n) sub ty (kodSize ty) 0 v

/-- A write to a VF management register: KOD writes of the changed fields, or none where one would be refused (R380,
R382). -/
def State.writeVfm (s : State) (n o off size : Nat) (val : W64) : State :=
  if o = 0x020 then
    (if coversLow off && nbit (mergeVal 0 off size val) 1 then s.updFn n (fun r => { r with refused := false }) else s)
  else
    let v := mergeVal (s.readVfm n o) off size val
    let ws := (vfFields o).filterMap (fun f =>
      let x := v / 2 ^ f.2.1 % 2 ^ f.2.2
      if x = s.fnKod n f.1 % 2 ^ f.2.2 then none else some (vfReq n f.1 x))
    match ws.find? (fun r => (s.kodErr true r).isSome) with
    | some r => ((s.kodWriteReq 6 0 r).1).updFn n (fun x => { x with refused := true })
    | none => ws.foldl (fun t r => (t.kodWriteReq 6 0 r).1) s

/-! ## The Event Gatherer and watermarks (R434 to R436, R446, R450) -/

/-- SRC_CFG (R435). -/
def srcWord (x : Src) : Nat :=
  x.level % 8 + (if x.enable then 16 else 0) + (if x.pending then 32 else 0) + (if x.insvc then 64 else 0) + x.target % 4 * 256

/-- GRP_CFG (R435). -/
def grpWord (g : Grp) : Nat :=
  g.tgtEn.toNat + g.rrLast % 16 * 16 + g.coalCnt % 256 * 2 ^ 8 + g.coalTime % 1024 * 2 ^ 16
    + (if g.hold then 2 ^ 26 else 0) + g.holdUs % 65536 * 2 ^ 32

/-- Pending bits of a word of 64 sources. -/
def State.pendWord (s : State) (w : Nat) : Nat :=
  ((List.range 64).map (fun i => if (s.src (64 * w + i)).pending then 2 ^ i else 0)).sum

/-- TGT_RUN (R436). -/
def runWord (t : Tgt) : Nat :=
  match t.stack with
  | [] => 0x80000000
  | (n, l) :: r => n % 1024 + l % 8 * 2 ^ 16 + (r.length + 1) % 16 * 2 ^ 24

/-- What TGT_ACK reads as (R436, R438). -/
def State.ackWord (s : State) (t : Nat) : Nat :=
  match s.bestSource t with
  | none => 0x80000000
  | some n => n + (s.src n).level % 8 * 2 ^ 16

/-- A target's registers but TGT_ACK (R436). -/
def State.readTgt (s : State) (t o : Nat) : Nat :=
  let x := s.tgt t
  if o = 0x10 then runWord x
  else if o = 0x18 then (if x.mask then 1 else 0)
  else if 0x20 ≤ o ∧ o < 0x60 then
    (match x.stack.reverse[(o - 0x20) / 8]? with | some e => e.1 % 1024 + e.2 % 8 * 2 ^ 16 | none => 0)
  else 0

/-- A watermark's registers (R446). -/
def State.readWm (s : State) (n o : Nat) : Nat :=
  if 272 ≤ n then 0
  else if o = 0x00 then s.wmLevel n
  else if o = 0x08 then s.wmMark n
  else if o = 0x10 then s.wmCtrl n
  else (s.wm n).count

/-- MB_STATUS (R449). -/
def State.boxStatus (s : State) (c : Nat) : Nat :=
  let b := s.box c
  (if b.inFull then 1 else 0) + (if b.inDiscarded then 2 else 0) + (if b.outFull then 4 else 0)
    + (if b.outDiscarded then 8 else 0) + b.inGen.toNat * 2 ^ 16 + b.outGen.toNat * 2 ^ 32 + s.ao.fwGen.toNat * 2 ^ 48

/-- A mailbox channel's registers, in the host view or in firmware's (R449). -/
def State.readBox (s : State) (c o : Nat) (host : Bool) : Nat :=
  match o with
  | 0x00 => if host then 0 else (s.box c).inWord.toNat
  | 0x08 => if host then (s.box c).outWord.toNat else 0
  | 0x10 => s.boxStatus c
  | _ => 0

/-- The Event Gatherer's registers, firmware's view or the host's (R434, R450). -/
def State.readEg (s : State) (host : Bool) (o : Nat) : Nat :=
  if o < 0x2000 then srcWord (s.src (o / 8))
  else if o < 0x2100 then s.pendWord (o % 0x80 / 8)
  else if o < 0x2300 then grpWord (s.grp ((o - 0x2100) / 8))
  else if o = 0x2300 then s.eg.mode
  else if o = 0x2308 then s.eg.mismatches
  else if 0x3000 ≤ o ∧ o < 0x3400 then (if host then 0 else s.readTgt ((o - 0x3000) / 256) (o % 256))
  else if 0x4000 ≤ o ∧ o < 0x5000 then (if host then 0 else s.readBox ((o - 0x4000) / 256) (o % 256) false)
  else if 0x8000 ≤ o ∧ o < 0xC000 then s.readWm ((o - 0x8000) / 32) (o % 32)
  else 0

/-- A source's configuration is written; a pending source that becomes enabled is presented as its moderation allows
(R432, R435, R440). -/
def State.writeSrc (s : State) (n v : Nat) : State :=
  if 1008 ≤ n ∧ n ≤ 1011 then s
  else (s.updSrc n (fun x => { x with level := v % 8, enable := nbit v 4 })).moderate (n / 16)

/-- A group's configuration is written; leaving hold-off presents at once (R435, R440, R442). -/
def State.writeGrp (s : State) (g v : Nat) : State :=
  if g = 63 then s
  else
    let was := s.inHoldOff g
    let s1 := s.updGrp g (fun x => { x with
      tgtEn := BitVec.ofNat 4 v, coalCnt := nbits v 15 8, coalTime := nbits v 25 16, hold := nbit v 26, holdUs := nbits v 47 32 })
    if was && !s1.inHoldOff g then s1.presentGrp g else s1.moderate g

/-- EG_MODE: a write of 3 is ignored; groups that leave hold-off present at once (R434, R442). -/
def State.writeMode (s : State) (v : Nat) : State :=
  if v % 4 = 3 then s
  else if s.eg.mode ≠ 0 ∧ v % 4 = 0 then ({ s with eg := { s.eg with mode := 0 } } : State).presentAll
  else { s with eg := { s.eg with mode := v % 4 } }

/-- WM_MARK: a plan's is its own; a hide's is a KOD entry (R446, R447). -/
def State.writeMark (s : State) (n v : Nat) (host : Bool) : State :=
  if n < 256 then
    let s1 := if host then s.journalWm (s.wmMark n) v else s
    (s1.updWm n (fun w => { w with mark := v })).wmCheck n
  else
    let r := if n < 264 then kodSet .firmware (0x3000 + (n - 256)) 0x0F 3 4 0 v else kodSet .firmware (0x5000 + (n - 264)) 0x0B 2 2 0 v
    (s.kodWriteReq (if host then 7 else 3) 0 r).1

/-- WM_CTRL: STICKY is cleared by a 1, ENABLE and HYST are written (R446, R448). -/
def State.writeWmCtrl (s : State) (n off size : Nat) (val : W64) (host : Bool) : State :=
  let v := mergeVal (s.wmCtrl n - s.wmCtrl n % 2) off size val
  let s1 := (s.updWm n (fun w => { w with enable := nbit v 1, hyst := nbits v 47 32 }))
  let s2 := (if coversLow off && nbit v 0 then s1.clearSticky n else s1).wmCheck n
  if host then s2.journalWm (s.wmCtrl n) (s2.wmCtrl n) else s2

/-- A watermark's registers are written (R446). -/
def State.writeWm (s : State) (n o off size : Nat) (val : W64) (host : Bool) : State :=
  if 272 ≤ n then s
  else if o = 0x08 then s.writeMark n (mergeVal (s.wmMark n) off size val) host
  else if o = 0x10 then s.writeWmCtrl n off size val host
  else s

/-- A mailbox channel's registers are written, in the host view or in firmware's (R449, R451). -/
def State.writeBox (s : State) (c o off size : Nat) (val : W64) (host : Bool) : State :=
  let v := mergeVal 0 off size val
  match o with
  | 0x00 => if host then s.boxIn c (BitVec.ofNat 64 v) else s
  | 0x08 => if host then s else s.boxOut c (BitVec.ofNat 64 v)
  | 0x10 => s.updBox c (fun b => { b with
      inDiscarded := b.inDiscarded && !nbit v 1, outDiscarded := b.outDiscarded && !nbit v 3 })
  | 0x18 => if nbit v 0 then (if host then s.boxTakeOut c else s.boxTakeIn c) else s
  | _ => s

/-- A target's registers are written (R436, R439). -/
def State.writeTgt (s : State) (t o off : Nat) (v : Nat) : State :=
  if o = 0x08 && coversLow off then s.eoi t (v % 1024)
  else if o = 0x18 && coversLow off then s.updTgt t (fun x => { x with mask := nbit v 0 })
  else s

/-- The Event Gatherer's registers are written by firmware (R434). -/
def State.writeEg (s : State) (o off size : Nat) (val : W64) : State :=
  let v := mergeVal (s.readEg false o) off size val
  let v0 := mergeVal 0 off size val
  if o < 0x2000 then s.writeSrc (o / 8) v
  else if o < 0x2080 then s.withdraw ((o - 0x2000) / 8) (BitVec.ofNat 64 v0)
  else if o < 0x2100 then s.setPending ((o - 0x2080) / 8) (BitVec.ofNat 64 v0)
  else if o < 0x2300 then s.writeGrp ((o - 0x2100) / 8) v
  else if o = 0x2300 then s.writeMode v
  else if 0x3000 ≤ o ∧ o < 0x3400 then s.writeTgt ((o - 0x3000) / 256) (o % 256) off v0
  else if 0x4000 ≤ o ∧ o < 0x5000 then s.writeBox ((o - 0x4000) / 256) (o % 256) off size val false
  else if 0x8000 ≤ o ∧ o < 0xC000 then s.writeWm ((o - 0x8000) / 32) (o % 32) off size val false
  else s

/-- The host view takes bits of group 62 in SRC_SETP, and the watermarks' registers (R450). -/
def State.writeEgHost (s : State) (o off size : Nat) (val : W64) : State :=
  if 0x2080 ≤ o ∧ o < 0x2100 then
    s.setPending ((o - 0x2080) / 8) (hostSetpMask ((o - 0x2080) / 8) (BitVec.ofNat 64 (mergeVal 0 off size val)))
  else if 0x8000 ≤ o ∧ o < 0xC000 then s.writeWm ((o - 0x8000) / 32) (o % 32) off size val true
  else s

/-! ## The KOD window (R481) -/

/-- A part of KW_DATA. -/
def State.kwDataNum (s : State) (o n : Nat) : Nat := leNat ((List.range n).map (fun i => tget s.kod.kwData (o + i) 0))

/-- The KOD window's registers. -/
def State.readKod (s : State) (o : Nat) : Nat :=
  if o = 0x08 then (if s.kod.busy then 1 else 0) + (if s.kod.done then 2 else 0) + s.kod.code % 256 * 2 ^ 8
  else if o = 0x10 ∨ o = 0x18 then s.kod.kwReq.toNat / 2 ^ (8 * (o - 0x10)) % 2 ^ 64
  else if o = 0x20 ∨ o = 0x28 then s.kod.kwRsp.toNat / 2 ^ (8 * (o - 0x20)) % 2 ^ 64
  else if 0x1000 ≤ o ∧ o < 0x2000 then s.kwDataNum (o - 0x1000) 8
  else 0

/-- The request that KW_REQ and KW_DATA spell (R478). -/
def State.windowReq (s : State) : Nat × KodReq :=
  let v := s.kod.kwReq.toNat
  (nbits v 7 0,
   { src := .window, prof := nbits v 10 8, idx := nbits v 31 16, sub := nbits v 39 32, ty := nbits v 43 40,
     len := nbits v 63 48, off := nbits v 95 64, tag := BitVec.ofNat 32 (v / 2 ^ 96),
     data := (List.range (min 4096 (nbits v 63 48))).map (fun i => tget s.kod.kwData i 0) })

/-- Bits of a request header that a field names (R9, R478). -/
def kwReqMask : BitVec 128 := 0xFFFFFFFFFFFFFFFFFFFF0FFFFFFF07FF

/-- A write to the KOD window. -/
def State.writeKod (s : State) (o off size : Nat) (val : W64) : State :=
  if o = 0x00 then
    (if coversLow off && val.getLsbD 0 then s.kodRequest s.windowReq.1 s.windowReq.2 else s)
  else if o = 0x10 ∨ o = 0x18 then
    let v := mergeVal (s.readKod o) off size val
    let w := BitVec.ofNat 128 (setBits s.kod.kwReq.toNat (8 * (o - 0x10) + 63) (8 * (o - 0x10)) v)
    { s with kod := { s.kod with kwReq := kwReqMask &&& w } }
  else if 0x1000 ≤ o ∧ o < 0x2000 then
    { s with kod := { s.kod with kwData := stagePut s.kod.kwData (off - 0x1000) (leBytes size val.toNat) } }
  else s

/-! ## BAR0 (R284, R285) -/

/-- A 64-bit register of a function's BAR0 by its offset, for the registers that a read does not change (R284, R285). -/
def State.readBar (s : State) (n o : Nat) : Nat :=
  if o < 0x1000 then s.readFcp n o
  else if o < 0x2000 then s.readEqc n (o - 0x1000)
  else if o < 0x2000 + 0x1000 * fnQueues n then s.readQueue n ((o - 0x2000) / 0x1000) (o % 0x1000)
  else if n ≠ 0 then 0
  else if 0x80000 ≤ o ∧ o < 0x81000 then s.readBox ((o % 0x1000) / 256) (o % 256) true
  else if 0x100000 ≤ o ∧ o < 0x200000 then s.readKod (o % 0x100000)
  else if 0x200000 ≤ o ∧ o < 0x210000 then s.readEg true (o % 0x10000)
  else if 0x300000 ≤ o ∧ o < 0x400000 then s.readVfm ((o % 0x100000) / 0x800 + 1) (o % 0x800)
  else 0

/-- What a read of BAR0 returns: the half of a register that the access covers, zero for any access that is not naturally
aligned of 32 or 64 bits (R286). -/
def State.readBarAt (s : State) (n off size : Nat) : Nat :=
  if accessOk off size then s.readBar n (off / 8 * 8) / 2 ^ (8 * (off % 8)) % 2 ^ (8 * size) else 0

/-- A write to the PF's further regions (R285, R450, R453, R481); none is taken while the PF is being reset (R292). -/
def State.writePf (s : State) (trust : Bool) (off size : Nat) (val : W64) : State :=
  let o := off / 8 * 8
  if !s.hostCtl then s.hostRefused
  else if 0x80000 ≤ o ∧ o < 0x81000 then
    (if boxAllowed ((o % 0x1000) / 256) trust then s.writeBox ((o % 0x1000) / 256) (o % 256) off size val true
     else s.emit (.hostError 0))
  else if 0x100000 ≤ o ∧ o < 0x200000 then s.writeKod (o % 0x100000) (off % 0x100000) size val
  else if 0x200000 ≤ o ∧ o < 0x210000 then s.writeEgHost (o % 0x10000) off size val
  else if 0x300000 ≤ o ∧ o < 0x400000 then
    (if s.fnTakes 0 ∧ (o % 0x100000) / 0x800 < 512 then s.writeVfm ((o % 0x100000) / 0x800 + 1) (o % 0x800) off size val else s)
  else s

/-- A write to BAR0 of a function (R284 to R286); a function that SR-IOV does not enable has no BAR. -/
def State.writeBar (s : State) (n : Nat) (trust : Bool) (off size : Nat) (val : W64) : State :=
  let o := off / 8 * 8
  if 0x2000 ≤ o ∧ o < 0x2000 + 0x1000 * fnQueues n ∧ 0x800 ≤ o % 0x1000 ∧ o % 0x1000 < 0xC00 then
    s.writePush n ((o - 0x2000) / 0x1000) (off % 0x1000 - 0x800) size (val.setWidth 512)
  else if !s.running then s.emit (.hostError n)
  else if !accessOk off size || !s.fnPresent n then s
  else if o < 0x1000 then s.writeFcp n o off val
  else if o < 0x2000 then s.writeEqc n (o - 0x1000) off size val
  else if o < 0x2000 + 0x1000 * fnQueues n then s.writeQueue n ((o - 0x2000) / 0x1000) (o % 0x1000) off size val
  else if n = 0 then s.writePf trust off size val
  else s

/-! ## Device registers of the control cores (R220, R412 to R415, R434) -/

/-- STATE of CH_STATUS (R414). -/
def chStateCode (x : ChSt) : Nat :=
  match x with
  | .idle => 0
  | .waiting => 1
  | .running => 2
  | .held => 3
  | .stopped => 4
  | .halted => 5

/-- A channel's registers (R413, R414). -/
def State.readChan (s : State) (m c o : Nat) : Nat :=
  let x := s.chan m c
  match o with
  | 0x00 => (if x.enable then 1 else 0) + (if x.stop then 4 else 0) + (if x.drain then 8 else 0) + x.ringLog2 % 16 * 16
      + x.pulseTo % 4 * 256
  | 0x08 => x.owner.toNat
  | 0x10 => x.ringBase.toNat
  | 0x18 => x.head.toNat
  | 0x28 => x.watch.toNat
  | 0x30 => x.marks.toNat
  | 0x38 => x.sigAddr.toNat
  | 0x40 => chStateCode x.st + (if x.cfgErr then 8 else 0) + x.heldBytes % 65536 * 2 ^ 16
  | 0x48 => x.bursts
  | _ => 0

/-- A write of CH_CTRL: enable, disable, abort, stop, and the configuration while ENABLE is 0 (R414, R415, R425, R426). -/
def State.writeChCtrl (s : State) (m c v : Nat) : State :=
  let on := (s.chan m c).enable
  let s1 := if nbit v 1 then s.abortWrite m c else s
  if nbit v 0 then
    (if on then (if nbit v 2 then s1.haltAtBurst m c else s1.goOn m c) else s1.enableChan m c (BitVec.ofNat 64 v))
  else if on then s1.disableChan m c
  else if (s1.chan m c).cid.isSome then (if nbit v 2 then s1.haltAtBurst m c else s1.goOn m c)
  else s1.updChan m c (fun x => { x with
    stop := nbit v 2, drain := nbit v 3, ringLog2 := nbits v 7 4, pulseTo := nbits v 9 8 })

/-- A configuration register of a channel, written only while ENABLE is 0 (R415). -/
def State.setChan (s : State) (m c : Nat) (f : Chan → Chan) : State :=
  if (s.chan m c).enable || (s.chan m c).cid.isSome then s else s.updChan m c f

/-- Bits of WATCH that a field names: an 8-byte-aligned address, or with bit 63 an internal queue (R9, R419). -/
def watchMask (v : Nat) : W64 := if nbit v 63 then 0x80000000000000FF else 0x00FFFFFFFFFFFFF8

/-- A write to a channel's registers (R413). -/
def State.writeChan (s : State) (m c o off size : Nat) (val : W64) : State :=
  let v := mergeVal (s.readChan m c o) off size val
  match o with
  | 0x00 => if coversLow off then s.writeChCtrl m c v else s
  | 0x08 => s.setChan m c (fun x => { x with owner := BitVec.ofNat 64 v &&& 0x00000FFFFFFF3FFF })
  | 0x10 => s.setChan m c (fun x => { x with ringBase := BitVec.ofNat 64 (v % 2 ^ 56 / 32 * 32) })
  | 0x20 => s.fetchDesc m c
  | 0x28 => s.setChan m c (fun x => { x with watch := BitVec.ofNat 64 v &&& watchMask v })
  | 0x30 => s.setChan m c (fun x => { x with marks := BitVec.ofNat 64 v })
  | 0x38 => s.setChan m c (fun x => { x with sigAddr := BitVec.ofNat 64 (v % 2 ^ 56 / 4 * 4) })
  | _ => s

/-- A mover's registers (R412). -/
def State.readMover (s : State) (m o : Nat) : Nat :=
  if 0x1000 ≤ o ∧ o < 0x2000 then s.readChan m ((o - 0x1000) / 0x80) (o % 0x80)
  else if o = 0x000 then (if (s.mover m).halted then 1 else 0)
  else if o = 0x008 then (s.mover m).errAddr.toNat
  else if o = 0x018 then (s.mover m).halts
  else 0

/-- A write to a mover's registers (R412). -/
def State.writeMover (s : State) (m o off size : Nat) (val : W64) : State :=
  if 0x1000 ≤ o ∧ o < 0x2000 then s.writeChan m ((o - 0x1000) / 0x80) (o % 0x80) off size val
  else if o = 0x010 && coversLow off && val.getLsbD 0 then s.restartMover m
  else s

/-- The devices whose registers the manual describes: the movers and the Event Gatherer, by offset in the window. -/
inductive Device
  | mover (m o : Nat)
  | eg (o : Nat)

/-- The device at an offset of the window (R220, R412, R434). -/
def deviceAt (off : Nat) : Option Device :=
  if 0x1000000 ≤ off ∧ off < 0x1100000 then some (.mover (off % 0x100000 / 0x10000) (off % 0x10000))
  else if 0x2000000 ≤ off ∧ off < 0x2010000 then some (.eg (off % 0x10000))
  else none

/-- A device register is written by a control core; none where the manual describes no register (R220). -/
def State.writeDev (s : State) (off size : Nat) (val : W64) : Option State :=
  match deviceAt off with
  | none => none
  | some d =>
    if !accessOk off size then some s
    else
      match d with
      | .mover m o => some (s.writeMover m (o / 8 * 8) off size val)
      | .eg o => some (s.writeEg (o / 8 * 8) off size val)

/-- A device register is read by a control core: TGT_ACK acknowledges (R220, R438). -/
def State.readDev (s : State) (off size : Nat) : Option (State × Nat) :=
  match deviceAt off with
  | none => none
  | some d =>
    if !accessOk off size then some (s, 0)
    else
      match d with
      | .mover m o => some (s, s.readMover m (o / 8 * 8) / 2 ^ (8 * (off % 8)) % 2 ^ (8 * size))
      | .eg o =>
        if 0x3000 ≤ o ∧ o < 0x3400 ∧ o % 256 = 0 then some (s.ack ((o - 0x3000) / 256), s.ackWord ((o - 0x3000) / 256) % 2 ^ (8 * size))
        else some (s, s.readEg false (o / 8 * 8) / 2 ^ (8 * (off % 8)) % 2 ^ (8 * size))

/-! ## The commands -/

/-- REGISTER_WRITE: an access to BAR0 of a function, or to a device register of the control cores (R286). -/
def execRegisterWrite (v : RegView) (off size : Nat) (val : W64) (s : State) : Host.Outcome State Fault Refusal :=
  match v with
  | .bar0 fn trust => .next (s.writeBar fn.val trust off size val)
  | .dev =>
    match s.writeDev off size val with
    | some t => .next t
    | none => .fault (.deviceWindow off)

/-- VF_MANAGEMENT_WRITE: a write at an offset of a VF's management block (R37, R380). -/
def execVfManagementWrite (vf : Fin 513) (off size : Nat) (val : W64) (s : State) : Host.Outcome State Fault Refusal :=
  .next (if !s.running then s.emit (.hostError 0)
    else if vf.val ≠ 0 ∧ s.fnTakes 0 ∧ off < 0x800 ∧ accessOk off size then
      s.writeVfm vf.val (off / 8 * 8) off size val
    else s)

end Sys2Proof.Machine
end

