-- ==== Sys2Proof/Machine/CoreMem.lean ====
section
/-! DEFINITION. A core's traffic with memory: an entry leaves the store buffer, a load's data returns (R205, R208 to R211,
R216, R217, R220, R224, R230, R407). -/

namespace Sys2Proof.Machine

/-! ## The entry that may leave (R208, R211, R230) -/

/-- A physical address that an entry writes. -/
def SbEnt.at_ (e : SbEnt) : Nat :=
  match e.atoms with
  | x :: _ => x.addr
  | [] => (e.data.map (fun d => d.1)).headD 0

/-- The home slice of an address, none for host memory: a node and a slice (R28). -/
def sliceOf (pa : Nat) : Option (Nat × Nat) := if isHostPa pa then none else some (paNode pa, homeSlice pa)

/-- A core has sent a store or an atomic to a home slice that has not performed it: a later one to that slice waits, so that
a retry cannot let it overtake (R211). -/
def State.sliceHeld (s : State) (core : Nat) (sl : Nat × Nat) : Bool :=
  s.lines.any (fun l => sliceOf (l.1 * 128) == some sl
      && (List.range 64).any (fun k => l.2.owes { id := core, node := k }))
    || s.fab.reqs.any (fun q => (q.kind == 2 || q.kind == 3) && sliceOf (q.node * 2 ^ 40 + q.addr) == some sl
      && (match q.core with | some (i, _, _) => i == core | none => false))

/-- A retried entry may be sent again: its line is free and its reserved credit is the first (R230). -/
def State.retryOver (s : State) (core : Nat) (e : SbEnt) : Bool :=
  let x := s.line (e.at_ / 128)
  x.cur.isNone && (match x.reserved with | w :: _ => w.who == { id := core, node := e.slot } | [] => true)

/-- The oldest entry that may leave: one behind entries that wait for other home slices only (R208, R211). -/
def State.leaveIdx (s : State) (core : Nat) (past : List (Nat × Nat)) : List SbEnt → Nat → Option Nat
  | [], _ => none
  | e :: r, k =>
    match sliceOf e.at_ with
    | none => some k
    | some sl =>
      if past.contains sl || s.sliceHeld core sl || (e.retried && !s.retryOver core e) then
        State.leaveIdx s core (sl :: past) r (k + 1)
      else some k

/-! ## Where an entry goes (R29, R48, R208, R224) -/

/-- A data-cache line after the bytes of a store. -/
def CLine.stored (y : CLine) (cells : List (Nat × Byte)) : CLine :=
  { y with bytes := cells.foldl (fun bs d => if d.1 / 128 = y.line then bs.set (d.1 % 128) d.2 else bs) y.bytes }

/-- The core's data-cache copy of a line takes the bytes of a store; an atomic drops it (R208, R224). -/
def State.cacheStore (s : State) (core : Nat) (e : SbEnt) : State :=
  let f : List CLine → List CLine := fun ys =>
    if e.atoms.isEmpty then ys.map (fun y => y.stored e.data) else ys.filter (fun y => y.line != e.at_ / 128)
  s.updCore core (fun k => { k with dcache := f k.dcache })

/-- Remove the entry at an index. -/
def State.dropEntry (s : State) (core k : Nat) : State := s.updCore core (fun c => { c with sb := c.sb.eraseIdx k })

/-- The first atomic of an entry leaves, and the entry with its last one. -/
def State.dropAtom (s : State) (core k : Nat) (e : SbEnt) : State :=
  if e.atoms.length ≤ 1 then s.dropEntry core k
  else s.updCore core (fun c => { c with sb := c.sb.set k { e with atoms := e.atoms.drop 1, retried := false } })

/-- The chain load of a core's atomic, for its link request: load number and lane (R224). -/
def atomRef (x : SbAtom) : Nat := x.load * 32 + x.lane

/-- A message of an entry to a remote home (R535, R545). -/
def State.sendEntry (s : State) (core : Nat) (e : SbEnt) (kind aux a : Nat) (data : List Byte) (ref : Nat) : State :=
  s.sendReqOf { kind := BitVec.ofNat 8 kind, len := data.length, hide := BitVec.ofNat 4 e.hide,
                dst := BitVec.ofNat 14 (paNode a), aux := BitVec.ofNat 8 aux, addr := BitVec.ofNat 40 (paOff a), data := data }
    (some (core, e.slot, ref)) none e.cid e.ctx e.part e.pc e.mask

/-- An entry goes to the Host Port: bytes as posted writes, each lane of an atomic as an AtomicOp (R29, R47, R224). -/
def State.toHost (s : State) (e : SbEnt) : State :=
  let fn := s.ctxFn e.ctx
  e.atoms.foldl (fun t x => t.emit (.hostAtomic fn (s.hostPort fn) x.addr x.op x.size x.val x.cmp))
    (((s.writeCells e.data).dropStore (e.data.map (fun d => d.1))).emitWrites fn (cellRuns e.data))

/-- An entry goes to a home on another node: its bytes, into a line that this node holds in E or M at once, or the first of
its atomics (R48, R172, R208, R227). -/
def State.toNode (s : State) (core k : Nat) (e : SbEnt) : State :=
  match e.atoms with
  | [] =>
    let t := (s.dropEntry core k).cacheStore core e
    if s.heldOwn (e.at_ / 128) then t.writeHeld (e.at_ / 128) e.data
    else (cellRuns e.data).foldl (fun t r => t.sendEntry core e 2 0 r.1 r.2 0) t
  | x :: _ =>
    ((s.dropAtom core k e).cacheStore core e).sendEntry core e 3 (atomAux x) x.addr (leBytes (2 ^ x.size) x.val.toNat
      ++ (if x.op = .cas then leBytes (2 ^ x.size) x.cmp.toNat else [])) (atomRef x)

/-- An entry reaches the home of its line on this node: performed, queued there, or retried and kept (R208, R211,
R230). -/
def State.toHome (s : State) (core k : Nat) (e : SbEnt) : State :=
  let l := e.at_ / 128
  let tx : HomeTx := { who := { id := core, node := e.slot }, kind := .write e.data, atoms := e.atoms, cid := e.cid }
  let s1 := s.requestOnce l tx
  if (s1.line l).reserved.any (fun w => w.who == tx.who) && !(s1.line l).owes tx.who then
    s1.updCore core (fun c => { c with sb := c.sb.mapIdx (fun i x => if i = k then { x with retried := true } else x) })
  else (s1.cacheStore core e).dropEntry core k

/-- Offset of a physical address in the window of device registers (R220). -/
def devOff (pa : Nat) : Nat := paOff pa % 2 ^ 32

/-- A device register of the window is written, or changed by an atomic, once (R220, R221). -/
def State.toDevice (s : State) (core : Nat) (e : SbEnt) : Option State :=
  let off := devOff e.at_
  match e.atoms with
  | [] => s.writeDev off e.data.length (BitVec.ofNat 64 (leNat (e.data.map (fun d => d.2))))
  | x :: _ =>
    match s.readDev off (2 ^ x.size) with
    | none => none
    | some (t, old) =>
      (t.writeDev off (2 ^ x.size) (BitVec.ofNat 64 (atomNew x.op (8 * 2 ^ x.size) old x.val.toNat x.cmp.toNat))).map
        (fun u => u.atomLane core e.slot x.load x.lane (leBytes (2 ^ x.size) old))

/-- The entry at an index of the store buffer leaves: one with an old generation is discarded (R405, R407). -/
def State.leave (s : State) (core k : Nat) (e : SbEnt) : Option State :=
  if e.gen ≠ s.genOf e.ctx then some ((s.dropEntry core k).staleGen e.ctx)
  else if e.dev && s.inWindow core e.at_ then (s.dropEntry core k).toDevice core e
  else if isHostPa e.at_ then some ((s.dropEntry core k).toHost e)
  else if s.isLocal e.at_ then some (s.toHome core k e)
  else some (s.toNode core k e)

/-- STORE_BUFFER_ENTRY_LEAVE (R208): no effect where no entry may leave. -/
def execStoreBufferEntryLeave (core : Fin 276) (s : State) : Host.Outcome State Fault Refusal :=
  match s.leaveIdx core.val [] (s.core core.val).sb 0 with
  | none => .next s
  | some k =>
    match (s.core core.val).sb[k]? with
    | none => .next s
    | some e =>
      match s.leave core.val k e with
      | some t => .next t
      | none => .fault (.deviceWindow (devOff e.at_))

/-! ## Loads (R171, R210, R216, R217, R229) -/

/-- The bytes of a lane: from the data cache where an unmarked access hits there, else from memory (R171, R217). -/
def State.laneBytes (s : State) (core : Nat) (l : Load) (a : Nat) : List Byte :=
  let n := 2 ^ l.size
  match (s.core core).dcache.find? (fun x => x.line == a / 128) with
  | some x => if l.na || l.acq || l.dev then s.readBytes a n else (x.bytes.drop (a % 128)).take n
  | none => s.readBytes a n

/-- A lane's line may be read now: no store of the core to it is on its way, and its home or this node's copy gives it
(R210, R227, R229). -/
def State.laneReady (s : State) (core slot : Nat) (l : Load) (a : Nat) : Bool :=
  !s.storeOut core (a / 128) && (isHostPa a || l.dev || s.canRead (loadWho core slot) (a / 128))

/-- A load is over: its acquire is performed, unless a load of the same instruction is still out (R216). -/
def Chain.endLoad (c : Chain) (l : Load) : Chain :=
  let left := c.loads.filter (fun x => x.idx != l.idx)
  { c with loads := left, acquiring := if l.acq then left.any (fun x => x.acq) else c.acquiring }

/-- The data of a load is complete: registers, data cache, acquire (R171, R210, R216). -/
def State.returnLoad (s : State) (core slot : Nat) (l : Load) : State :=
  let bs := l.lanes.map (fun x => (x.1, s.laneBytes core l x.2))
  let s1 := s.updChain core slot (fun c =>
    let k := bs.foldl (fun k b => l.fill k b.1 b.2) c
    k.endLoad l)
  let ls := (l.lanes.filter (fun x => s.cacheable core x.2 && !s.cached core x.2)).map (fun x => x.2 / 128)
  let s2 := if l.na || l.dev then s1 else ls.eraseDups.foldl (fun t n => t.fillLine core n) s1
  if l.acq then s2.invalidateDcache core else s2

/-- Device registers of the window are read, lane after lane; none at a register the manual does not describe (R220,
R221). -/
def State.readDevLanes (s : State) (core slot : Nat) (l : Load) : List (Nat × Nat) → Except Nat State
  | [] => .ok s
  | x :: r =>
    match s.readDev (devOff x.2) (2 ^ l.size) with
    | none => .error (devOff x.2)
    | some (t, v) => State.readDevLanes (t.updChain core slot (fun c => l.fill c x.1 (leBytes (2 ^ l.size) v))) core slot l r

/-- The lines of a load's lanes that do not come from the data cache. -/
def State.loadLines (s : State) (core : Nat) (l : Load) : List Nat :=
  ((l.lanes.filter (fun x => !isHostPa x.2 && !(s.cached core x.2 && !l.na && !l.acq && !l.dev))).map
    (fun x => x.2 / 128)).eraseDups

/-- LOAD_DATA_RETURN (R210): a load with answers still to come, or whose lines are busy, is not complete; it asks for what it
lacks (R229, R230). -/
def execLoadDataReturn (c : ChainRef) (idx : Nat) (err : Bool) (s : State) : Host.Outcome State Fault Refusal :=
  let core := c.core.val
  let slot := c.slot.val
  match s.chain? core slot with
  | none => .next s
  | some k =>
    match k.loads.find? (fun l => l.idx == idx && !l.atomic) with
    | none => .next s
    | some l =>
      if err then .next (s.loadErr core slot idx)
      else if l.await ≠ 0 then .next s
      else if l.dev && l.lanes.any (fun x => s.inWindow core x.2) then
        match s.readDevLanes core slot l l.lanes with
        | .ok t =>
          .next (if l.acq then (t.updChain core slot (fun x => x.endLoad l)).invalidateDcache core
                 else t.updChain core slot (fun x => x.endLoad l))
        | .error off => .fault (.deviceWindow off)
      else
        let ls := s.loadLines core l
        let s1 := if l.dev then s else s.askReads (loadWho core slot) (s.loadAsker core slot k l.idx) ls
        .next (if (l.lanes.filter (fun x => ls.contains (x.2 / 128))).all (fun x => s1.laneReady core slot l x.2) then
            s1.returnLoad core slot l
          else s1)

end Sys2Proof.Machine
end

