-- ==== Sys2Proof/Machine/Dispatch.lean ====
section
/-! DEFINITION. One arm for each command. -/

namespace Sys2Proof.Machine

/-- The effect of a command on everything but the queue of waiting commands. -/
def exec (i : Instr) (s : State) : Host.Outcome State Fault Refusal :=
  match i with
  | .registerWrite v off size val => Sys2Proof.Machine.execRegisterWrite v off size val s
  | .verSelectWrite fn val => Sys2Proof.Machine.execVerSelectWrite fn val s
  | .functionReset fn => Sys2Proof.Machine.execFunctionReset fn s
  | .flrReport fn => Sys2Proof.Machine.execFlrReport fn s
  | .functionResetEnd fn => Sys2Proof.Machine.execFunctionResetEnd fn s
  | .queueEnable fn q ctrl => Sys2Proof.Machine.execQueueEnable fn q ctrl s
  | .queueDisable fn q ctrl => Sys2Proof.Machine.execQueueDisable fn q ctrl s
  | .queueDrainEnd fn q => Sys2Proof.Machine.execQueueDrainEnd fn q s
  | .doorbell fn q tail => Sys2Proof.Machine.execDoorbell fn q tail s
  | .pushSlotWrite fn q off len data => Sys2Proof.Machine.execPushSlotWrite fn q off len data s
  | .contextLoad ctx => Sys2Proof.Machine.execContextLoad ctx s
  | .descriptorFetchResponse fn q count desc => Sys2Proof.Machine.execDescriptorFetchResponse fn q count desc s
  | .ringFetchError fn q => Sys2Proof.Machine.execRingFetchError fn q s
  | .commandAccept fn q => Sys2Proof.Machine.execCommandAccept fn q s
  | .migrationCopyDone ctx va => Sys2Proof.Machine.execMigrationCopyDone ctx va s
  | .atsTranslationCompletion fn io len ta r w => Sys2Proof.Machine.execAtsTranslationCompletion fn io len ta r w s
  | .reservationAdmit fn q => Sys2Proof.Machine.execReservationAdmit fn q s
  | .commandDispatch h => Sys2Proof.Machine.execCommandDispatch h s
  | .endOfCommandReport cid gen st => Sys2Proof.Machine.execEndOfCommandReport cid gen st s
  | .cqWriteError fn q => Sys2Proof.Machine.execCqWriteError fn q s
  | .completionHeadWrite fn q val => Sys2Proof.Machine.execCompletionHeadWrite fn q val s
  | .completionInterruptTimeout fn q => Sys2Proof.Machine.execCompletionInterruptTimeout fn q s
  | .qAbort fn q => Sys2Proof.Machine.execQAbort fn q s
  | .eventQueueEnable fn err cfg => Sys2Proof.Machine.execEventQueueEnable fn err cfg s
  | .eventQueueDisable fn err cfg => Sys2Proof.Machine.execEventQueueDisable fn err cfg s
  | .eventQueueHeadWrite fn err val => Sys2Proof.Machine.execEventQueueHeadWrite fn err val s
  | .recordWriteError fn err => Sys2Proof.Machine.execRecordWriteError fn err s
  | .stagedRecordWrite d => Sys2Proof.Machine.execStagedRecordWrite d s
  | .nop cid => Sys2Proof.Machine.execNop cid s
  | .fence cid => Sys2Proof.Machine.execFence cid s
  | .signal cid => Sys2Proof.Machine.execSignal cid s
  | .wait cid => Sys2Proof.Machine.execWait cid s
  | .ctxCreate cid => Sys2Proof.Machine.execCtxCreate cid s
  | .ctxDestroy cid => Sys2Proof.Machine.execCtxDestroy cid s
  | .map cid => Sys2Proof.Machine.execMap cid s
  | .unmap cid => Sys2Proof.Machine.execUnmap cid s
  | .invalidate cid => Sys2Proof.Machine.execInvalidate cid s
  | .atsInvalidateRequest fn io len => Sys2Proof.Machine.execAtsInvalidateRequest fn io len s
  | .invalidationAck ctx => Sys2Proof.Machine.execInvalidationAck ctx s
  | .query cid => Sys2Proof.Machine.execQuery cid s
  | .copy cid => Sys2Proof.Machine.execCopy cid s
  | .fill cid => Sys2Proof.Machine.execFill cid s
  | .kernel cid => Sys2Proof.Machine.execKernel cid s
  | .acre cid => Sys2Proof.Machine.execAcre cid s
  | .foreign cid => Sys2Proof.Machine.execForeign cid s
  | .planLoad cid => Sys2Proof.Machine.execPlanLoad cid s
  | .seqOpen cid => Sys2Proof.Machine.execSeqOpen cid s
  | .seqStep cid => Sys2Proof.Machine.execSeqStep cid s
  | .seqClose cid => Sys2Proof.Machine.execSeqClose cid s
  | .seqAdmit => Sys2Proof.Machine.execSeqAdmit s
  | .stepBuild plan => Sys2Proof.Machine.execStepBuild plan s
  | .stageIssue plan => Sys2Proof.Machine.execStageIssue plan s
  | .servingReserveStaging plan => Sys2Proof.Machine.execServingReserveStaging plan s
  | .stepCommit plan => Sys2Proof.Machine.execStepCommit plan s
  | .acreOperationStart h => Sys2Proof.Machine.execAcreOperationStart h s
  | .acreStepAbandon h => Sys2Proof.Machine.execAcreStepAbandon h s
  | .acreResume h => Sys2Proof.Machine.execAcreResume h s
  | .acreBBlockLoaded h => Sys2Proof.Machine.execAcreBBlockLoaded h s
  | .acreSliceEnd h bad => Sys2Proof.Machine.execAcreSliceEnd h bad s
  | .acreReadoutStep h => Sys2Proof.Machine.execAcreReadoutStep h s
  | .acreStoreStep h => Sys2Proof.Machine.execAcreStoreStep h s
  | .acreOperationEnd h => Sys2Proof.Machine.execAcreOperationEnd h s
  | .coreErr core => Sys2Proof.Machine.execCoreErr core s
  | .groupPlacement cid core => Sys2Proof.Machine.execGroupPlacement cid core s
  | .groupSaveComplete cid g => Sys2Proof.Machine.execGroupSaveComplete cid g s
  | .groupResume cid g core => Sys2Proof.Machine.execGroupResume cid g core s
  | .iaddIsub c sub x => Sys2Proof.Machine.execIaddIsub c sub x s
  | .imulImulh c high x => Sys2Proof.Machine.execImulImulh c high x s
  | .imad c x => Sys2Proof.Machine.execImad c x s
  | .iminImax c max x => Sys2Proof.Machine.execIminImax c max x s
  | .mov c x => Sys2Proof.Machine.execMov c x s
  | .andOrXorAndn c op x => Sys2Proof.Machine.execAndOrXorAndn c op x s
  | .shlShrSar c op x => Sys2Proof.Machine.execShlShrSar c op x s
  | .popcClzBrev c op x => Sys2Proof.Machine.execPopcClzBrev c op x s
  | .bfeBfi c insert x => Sys2Proof.Machine.execBfeBfi c insert x s
  | .faddFmulFfma c op x => Sys2Proof.Machine.execFaddFmulFfma c op x s
  | .fminFmax c max x => Sys2Proof.Machine.execFminFmax c max x s
  | .specialFunction c op x => Sys2Proof.Machine.execSpecialFunction c op x s
  | .cmp c x => Sys2Proof.Machine.execCmp c x s
  | .sel c x => Sys2Proof.Machine.execSel c x s
  | .cvt c x => Sys2Proof.Machine.execCvt c x s
  | .oscl c x => Sys2Proof.Machine.execOscl c x s
  | .qnt c fmt x => Sys2Proof.Machine.execQnt c fmt x s
  | .dq c fmt x => Sys2Proof.Machine.execDq c fmt x s
  | .shfl c x => Sys2Proof.Machine.execShfl c x s
  | .vote c x => Sys2Proof.Machine.execVote c x s
  | .redu c x => Sys2Proof.Machine.execRedu c x s
  | .rdln c x => Sys2Proof.Machine.execRdln c x s
  | .viImmediate c op x => Sys2Proof.Machine.execViImmediate c op x s
  | .ldg c x => Sys2Proof.Machine.execLdg c x s
  | .stg c x => Sys2Proof.Machine.execStg c x s
  | .ldl c x => Sys2Proof.Machine.execLdl c x s
  | .stl c x => Sys2Proof.Machine.execStl c x s
  | .ldu c x => Sys2Proof.Machine.execLdu c x s
  | .atomg c op x => Sys2Proof.Machine.execAtomg c op x s
  | .atoml c op x => Sys2Proof.Machine.execAtoml c op x s
  | .pref c x => Sys2Proof.Machine.execPref c x s
  | .bra c x => Sys2Proof.Machine.execBra c x s
  | .braD c x => Sys2Proof.Machine.execBraD c x s
  | .join c x => Sys2Proof.Machine.execJoin c x s
  | .call c x => Sys2Proof.Machine.execCall c x s
  | .ret c x => Sys2Proof.Machine.execRet c x s
  | .exit c x => Sys2Proof.Machine.execExit c x s
  | .uArithmetic c op x => Sys2Proof.Machine.execUArithmetic c op x s
  | .ucmp c x => Sys2Proof.Machine.execUcmp c x s
  | .mld c x => Sys2Proof.Machine.execMld c x s
  | .mmul c x bad => Sys2Proof.Machine.execMmul c x bad s
  | .mrd c x => Sys2Proof.Machine.execMrd c x s
  | .mclr c x => Sys2Proof.Machine.execMclr c x s
  | .mrel c x => Sys2Proof.Machine.execMrel c x s
  | .nopInstruction c x => Sys2Proof.Machine.execNopInstruction c x s
  | .s2vS2u c uni x => Sys2Proof.Machine.execS2vS2u c uni x s
  | .u2s c x => Sys2Proof.Machine.execU2s c x s
  | .fenceInstruction c x => Sys2Proof.Machine.execFenceInstruction c x s
  | .fenceComplete c => Sys2Proof.Machine.execFenceComplete c s
  | .fenceIo c x => Sys2Proof.Machine.execFenceIo c x s
  | .bar c x => Sys2Proof.Machine.execBar c x s
  | .evwait c x => Sys2Proof.Machine.execEvwait c x s
  | .evsig c x => Sys2Proof.Machine.execEvsig c x s
  | .sleep c x => Sys2Proof.Machine.execSleep c x s
  | .yield c x => Sys2Proof.Machine.execYield c x s
  | .trap c x => Sys2Proof.Machine.execTrap c x s
  | .storeBufferEntryLeave core => Sys2Proof.Machine.execStoreBufferEntryLeave core s
  | .loadDataReturn c idx err => Sys2Proof.Machine.execLoadDataReturn c idx err s
  | .homeRequest who line k => Sys2Proof.Machine.execHomeRequest who line k s
  | .homeTransactionEnd line => Sys2Proof.Machine.execHomeTransactionEnd line s
  | .deadlockEvaluationTick => Sys2Proof.Machine.execDeadlockEvaluationTick s
  | .deadlockRaise ctx => Sys2Proof.Machine.execDeadlockRaise ctx s
  | .furlongMoveRequest src f val => Sys2Proof.Machine.execFurlongMoveRequest src f val s
  | .drainWindowExpiry f => Sys2Proof.Machine.execDrainWindowExpiry f s
  | .furlongJoin f => Sys2Proof.Machine.execFurlongJoin f s
  | .vfManagementWrite vf off size val => Sys2Proof.Machine.execVfManagementWrite vf off size val s
  | .spanStart h => Sys2Proof.Machine.execSpanStart h s
  | .grainChargeTick => Sys2Proof.Machine.execGrainChargeTick s
  | .coreSliceExpiry cid g => Sys2Proof.Machine.execCoreSliceExpiry cid g s
  | .slowdownWindowEnd h hindered => Sys2Proof.Machine.execSlowdownWindowEnd h hindered s
  | .rebalancePeriodEnd => Sys2Proof.Machine.execRebalancePeriodEnd s
  | .migrationFenceEnd ctx => Sys2Proof.Machine.execMigrationFenceEnd ctx s
  | .moverRestart m => Sys2Proof.Machine.execMoverRestart m s
  | .channelEnable m c ctrl => Sys2Proof.Machine.execChannelEnable m c ctrl s
  | .channelDisable m c => Sys2Proof.Machine.execChannelDisable m c s
  | .channelAbort m c => Sys2Proof.Machine.execChannelAbort m c s
  | .channelStop m c => Sys2Proof.Machine.execChannelStop m c s
  | .channelContinue m c => Sys2Proof.Machine.execChannelContinue m c s
  | .kick m c => Sys2Proof.Machine.execKick m c s
  | .moverDescriptorFetch m c => Sys2Proof.Machine.execMoverDescriptorFetch m c s
  | .moverRunStart m => Sys2Proof.Machine.execMoverRunStart m s
  | .moverBurstComplete m c => Sys2Proof.Machine.execMoverBurstComplete m c s
  | .inputStall m c => Sys2Proof.Machine.execInputStall m c s
  | .moverHalt m c addr => Sys2Proof.Machine.execMoverHalt m c addr s
  | .moverPermissionError m c => Sys2Proof.Machine.execMoverPermissionError m c s
  | .sourceLatch src => Sys2Proof.Machine.execSourceLatch src s
  | .srcSetpWrite host w bits => Sys2Proof.Machine.execSrcSetpWrite host w bits s
  | .srcPendWrite w bits => Sys2Proof.Machine.execSrcPendWrite w bits s
  | .holdOffExpiry g => Sys2Proof.Machine.execHoldOffExpiry g s
  | .coalesceExpiry g => Sys2Proof.Machine.execCoalesceExpiry g s
  | .acknowledge t => Sys2Proof.Machine.execAcknowledge t s
  | .endOfInterrupt t src => Sys2Proof.Machine.execEndOfInterrupt t src s
  | .watermarkStickyClear n host => Sys2Proof.Machine.execWatermarkStickyClear n host s
  | .mailboxInWrite ch trust val => Sys2Proof.Machine.execMailboxInWrite ch trust val s
  | .mailboxOutWrite ch val => Sys2Proof.Machine.execMailboxOutWrite ch val s
  | .mailboxTakeInbound ch => Sys2Proof.Machine.execMailboxTakeInbound ch s
  | .mailboxTakeOutbound ch trust => Sys2Proof.Machine.execMailboxTakeOutbound ch trust s
  | .watchdogExpiry cid => Sys2Proof.Machine.execWatchdogExpiry cid s
  | .deadlineExpiry cid => Sys2Proof.Machine.execDeadlineExpiry cid s
  | .stopTimeout cid => Sys2Proof.Machine.execStopTimeout cid s
  | .fenceDrainExpiry h => Sys2Proof.Machine.execFenceDrainExpiry h s
  | .computePartReset h trigger => Sys2Proof.Machine.execComputePartReset h trigger s
  | .selfTestEnd h failing => Sys2Proof.Machine.execSelfTestEnd h failing s
  | .computePartResetEnd h => Sys2Proof.Machine.execComputePartResetEnd h s
  | .computePartResetTimeout h => Sys2Proof.Machine.execComputePartResetTimeout h s
  | .hideKeyGenerated h => Sys2Proof.Machine.execHideKeyGenerated h s
  | .hideScrubEnd h => Sys2Proof.Machine.execHideScrubEnd h s
  | .kodRead r => Sys2Proof.Machine.execKodRead r s
  | .kodWrite r => Sys2Proof.Machine.execKodWrite r s
  | .kodDescribe r => Sys2Proof.Machine.execKodDescribe r s
  | .mctpControl eid => Sys2Proof.Machine.execMctpControl eid s
  | .profileSwitch src val => Sys2Proof.Machine.execProfileSwitch src val s
  | .profileCopy src val => Sys2Proof.Machine.execProfileCopy src val s
  | .firmwareStage src off data => Sys2Proof.Machine.execFirmwareStage src off data s
  | .firmwareCommit src crc => Sys2Proof.Machine.execFirmwareCommit src crc s
  | .shiftProgramStage src h off data => Sys2Proof.Machine.execShiftProgramStage src h off data s
  | .shiftProgramCommit src h val => Sys2Proof.Machine.execShiftProgramCommit src h val s
  | .shiftProgramStore src h => Sys2Proof.Machine.execShiftProgramStore src h s
  | .hideReset src h kind => Sys2Proof.Machine.execHideReset src h kind s
  | .pendingLiveApply idx sub => Sys2Proof.Machine.execPendingLiveApply idx sub s
  | .configStoreCommit ok => Sys2Proof.Machine.execConfigStoreCommit ok s
  | .journalMirrorCopy ok => Sys2Proof.Machine.execJournalMirrorCopy ok s
  | .paceMeasurement rates => Sys2Proof.Machine.execPaceMeasurement rates s
  | .avsRequest ok => Sys2Proof.Machine.execAvsRequest ok s
  | .floorMiss => Sys2Proof.Machine.execFloorMiss s
  | .avsReadback ok volt cur stat temp => Sys2Proof.Machine.execAvsReadback ok volt cur stat temp s
  | .avsRetry ok => Sys2Proof.Machine.execAvsRetry ok s
  | .powerCapAdjust rest => Sys2Proof.Machine.execPowerCapAdjust rest s
  | .thermalSample tj => Sys2Proof.Machine.execThermalSample tj s
  | .furlongSleep f => Sys2Proof.Machine.execFurlongSleep f s
  | .furlongWake f => Sys2Proof.Machine.execFurlongWake f s
  | .rtcTrim => Sys2Proof.Machine.execRtcTrim s
  | .timeRefLoss => Sys2Proof.Machine.execTimeRefLoss s
  | .powerLossAlarm => Sys2Proof.Machine.execPowerLossAlarm s
  | .vbatLow => Sys2Proof.Machine.execVbatLow s
  | .tamper => Sys2Proof.Machine.execTamper s
  | .alarmPosting => Sys2Proof.Machine.execAlarmPosting s
  | .entropyReady => Sys2Proof.Machine.execEntropyReady s
  | .entropyHealthFailure => Sys2Proof.Machine.execEntropyHealthFailure s
  | .debugRequest => Sys2Proof.Machine.execDebugRequest s
  | .debugOpen => Sys2Proof.Machine.execDebugOpen s
  | .clockedTestMode mult => Sys2Proof.Machine.execClockedTestMode mult s
  | .tapBypass => Sys2Proof.Machine.execTapBypass s
  | .tapIdcode => Sys2Proof.Machine.execTapIdcode s
  | .powerOnReset profsel => Sys2Proof.Machine.execPowerOnReset profsel s
  | .warmReset profsel => Sys2Proof.Machine.execWarmReset profsel s
  | .firmwareStart => Sys2Proof.Machine.execFirmwareStart s
  | .hideStart h => Sys2Proof.Machine.execHideStart h s
  | .firmwareRestart cc => Sys2Proof.Machine.execFirmwareRestart cc s
  | .stackPortReady p => Sys2Proof.Machine.execStackPortReady p s
  | .stackPortDown p => Sys2Proof.Machine.execStackPortDown p s
  | .stackReadResponse p lane wack resp addr who => Sys2Proof.Machine.execStackReadResponse p lane wack resp addr who s
  | .hostReadCompletion who addr data err => Sys2Proof.Machine.execHostReadCompletion who addr data err s
  | .cxlMemRequest dpa wr => Sys2Proof.Machine.execCxlMemRequest dpa wr s
  | .engineAttach e id => Sys2Proof.Machine.execEngineAttach e id s
  | .engineDetach e => Sys2Proof.Machine.execEngineDetach e s
  | .engineRequest e cid slot off op => Sys2Proof.Machine.execEngineRequest e cid slot off op s
  | .engineProgress cid => Sys2Proof.Machine.execEngineProgress cid s
  | .engineHeld cid => Sys2Proof.Machine.execEngineHeld cid s
  | .engineReleased cid => Sys2Proof.Machine.execEngineReleased cid s
  | .enginePaused e ctx => Sys2Proof.Machine.execEnginePaused e ctx s
  | .engineDrainTimeout e cid => Sys2Proof.Machine.execEngineDrainTimeout e cid s
  | .linkPhyUp p => Sys2Proof.Machine.execLinkPhyUp p s
  | .linkPhyDown p => Sys2Proof.Machine.execLinkPhyDown p s
  | .flitReceive p flit bad => Sys2Proof.Machine.execFlitReceive p flit bad s
  | .linkAckTimeout p => Sys2Proof.Machine.execLinkAckTimeout p s
  | .helloTimer p => Sys2Proof.Machine.execHelloTimer p s
  | .hello p node port crc => Sys2Proof.Machine.execHello p node port crc s
  | .linkmap p r => Sys2Proof.Machine.execLinkmap p r s
  | .routeCompute => Sys2Proof.Machine.execRouteCompute s
  | .routesInPlace => Sys2Proof.Machine.execRoutesInPlace s
  | .ready p crc count => Sys2Proof.Machine.execReady p crc count s
  | .go p crc => Sys2Proof.Machine.execGo p crc s
  | .epochTableExpiry => Sys2Proof.Machine.execEpochTableExpiry s
  | .rd p m => Sys2Proof.Machine.execRd p m s
  | .wr p m => Sys2Proof.Machine.execWr p m s
  | .atom p m => Sys2Proof.Machine.execAtom p m s
  | .coh p m => Sys2Proof.Machine.execCoh p m s
  | .mvw p m => Sys2Proof.Machine.execMvw p m s
  | .remoteEvsig p m => Sys2Proof.Machine.execRemoteEvsig p m s
  | .remoteEvwait p m => Sys2Proof.Machine.execRemoteEvwait p m s
  | .snp p m => Sys2Proof.Machine.execSnp p m s
  | .rdRsp p m => Sys2Proof.Machine.execRdRsp p m s
  | .wrAck p m => Sys2Proof.Machine.execWrAck p m s
  | .atomRsp p m => Sys2Proof.Machine.execAtomRsp p m s
  | .cohRsp p m => Sys2Proof.Machine.execCohRsp p m s
  | .snpAck p m => Sys2Proof.Machine.execSnpAck p m s
  | .reservedOk p m => Sys2Proof.Machine.execReservedOk p m s
  | .wake p m => Sys2Proof.Machine.execWake p m s
  | .errRsp p m => Sys2Proof.Machine.execErrRsp p m s
  | .remoteRequestTimeout tag => Sys2Proof.Machine.execRemoteRequestTimeout tag s
  | .flowControlCreditReturn p => Sys2Proof.Machine.execFlowControlCreditReturn p s
  | .creditSilenceExpiry m c => Sys2Proof.Machine.execCreditSilenceExpiry m c s
  | .illegalEncoding c => Sys2Proof.Machine.execIllegalEncoding c s
  | .alwaysOnPowerUp => Sys2Proof.Machine.execAlwaysOnPowerUp s
  | .entdaa addr => Sys2Proof.Machine.execEntdaa addr s
  | .vfEnableChange vf on => Sys2Proof.Machine.execVfEnableChange vf on s
  | .warmrstAssertion => Sys2Proof.Machine.execWarmrstAssertion s

end Sys2Proof.Machine
end

