-- ==== Sys2Proof/Machine/Step.lean ====
section
/-! DEFINITION. One step of the block: the command at the front of the queue; on an empty queue time passes. -/

namespace Sys2Proof.Machine

/-- Time passes by one nanosecond of block time (R41); the real-time clock counts microseconds (R512), and the cores count
their beats (R166). -/
def State.tick (s : State) : State :=
  if s.ao.rtcSub + 1 < 1000 then
    { s with btime := s.btime + 1, ao := { s.ao with rtcSub := s.ao.rtcSub + 1 }, gov := s.gov.beat }
  else
    { s with btime := s.btime + 1, ao := { s.ao with rtcSub := 0, rtc := s.ao.rtc + 1 }, gov := s.gov.beat }

/-- One step (log 1). -/
def step (s : State) : Host.Outcome State Fault Refusal :=
  match s.pending with
  | [] => .next s.tick
  | c :: rest => exec c { s with pending := rest }

/-- The command that a word spells, put at the front of the queue; the table gives no row any bits, so no word spells a
command. -/
def State.withFetchWord (s : State) (nbits w : Nat) : State :=
  match Sys2Proof.decodeTableWord nbits w with
  | some c => { s with pending := c :: s.pending }
  | none => s

end Sys2Proof.Machine
end

