-- ==== Sys2Proof/Safety.lean ====
section
/-! DEFINITION. What a state of the block must satisfy to be one that a run can reach: its memories are in canonical form;
and which fields of the state two states may differ in. -/

namespace Sys2Proof

open Sys2Proof.Machine

/-- Local device memory, the exposed units' bytes and the bytes known of host and remote memory are in canonical form
(log 5, log 6). -/
def Machine.State.memOk (s : State) : Bool := s.mem.wf && twf s.exposed && twf s.ext

/-- Every waiting command is one that the surroundings can send. -/
def Machine.State.queueOk (s : State) : Bool := s.pending.all Instr.wf

/-- The fields of the state. -/
inductive Field
  | pending | btime | free | mem | exposed | scrubbed | ext | fns | store | cmds | nextCid | ctxs
  | live | allocs | nextObj | tlb | ats | cores | groups | waiters | lines | dirClock | hides | moves
  | mgrMoved | plans | seqs | pendOrder | movers | eg | wms | boxes | kod | ao | gov | pow
  | engines | sports | fab | out
deriving DecidableEq, Repr

/-- Place of a field in `State`. -/
def Field.idx : Field → Nat
  | .pending => 0
  | .btime => 1
  | .free => 2
  | .mem => 3
  | .exposed => 4
  | .scrubbed => 5
  | .ext => 6
  | .fns => 7
  | .store => 8
  | .cmds => 9
  | .nextCid => 10
  | .ctxs => 11
  | .live => 12
  | .allocs => 13
  | .nextObj => 14
  | .tlb => 15
  | .ats => 16
  | .cores => 17
  | .groups => 18
  | .waiters => 19
  | .lines => 20
  | .dirClock => 21
  | .hides => 22
  | .moves => 23
  | .mgrMoved => 24
  | .plans => 25
  | .seqs => 26
  | .pendOrder => 27
  | .movers => 28
  | .eg => 29
  | .wms => 30
  | .boxes => 31
  | .kod => 32
  | .ao => 33
  | .gov => 34
  | .pow => 35
  | .engines => 36
  | .sports => 37
  | .fab => 38
  | .out => 39

/-- The field has one value in both states. -/
def Field.same (s t : State) : Field → Prop
  | .pending => t.pending = s.pending
  | .btime => t.btime = s.btime
  | .free => t.free = s.free
  | .mem => t.mem = s.mem
  | .exposed => t.exposed = s.exposed
  | .scrubbed => t.scrubbed = s.scrubbed
  | .ext => t.ext = s.ext
  | .fns => t.fns = s.fns
  | .store => t.store = s.store
  | .cmds => t.cmds = s.cmds
  | .nextCid => t.nextCid = s.nextCid
  | .ctxs => t.ctxs = s.ctxs
  | .live => t.live = s.live
  | .allocs => t.allocs = s.allocs
  | .nextObj => t.nextObj = s.nextObj
  | .tlb => t.tlb = s.tlb
  | .ats => t.ats = s.ats
  | .cores => t.cores = s.cores
  | .groups => t.groups = s.groups
  | .waiters => t.waiters = s.waiters
  | .lines => t.lines = s.lines
  | .dirClock => t.dirClock = s.dirClock
  | .hides => t.hides = s.hides
  | .moves => t.moves = s.moves
  | .mgrMoved => t.mgrMoved = s.mgrMoved
  | .plans => t.plans = s.plans
  | .seqs => t.seqs = s.seqs
  | .pendOrder => t.pendOrder = s.pendOrder
  | .movers => t.movers = s.movers
  | .eg => t.eg = s.eg
  | .wms => t.wms = s.wms
  | .boxes => t.boxes = s.boxes
  | .kod => t.kod = s.kod
  | .ao => t.ao = s.ao
  | .gov => t.gov = s.gov
  | .pow => t.pow = s.pow
  | .engines => t.engines = s.engines
  | .sports => t.sports = s.sports
  | .fab => t.fab = s.fab
  | .out => t.out = s.out

/-- The set of some fields: a bit for each, in the order of `State`. -/
def fields : List Field → Nat
  | [] => 0
  | f :: r => 2 ^ f.idx ||| fields r

/-- Two states differ at most in the fields of a set. -/
structure Same (k : Nat) (s t : State) : Prop where
  /-- every other field has one value -/
  get : ∀ f : Field, k.testBit f.idx = false → f.same s t

end Sys2Proof
end

