-- ==== Sys2Proof/Certificates/Slice0/Obligations.lean ====
section
/-! DEFINITION. The statements about the block. -/

open Sys2Proof Sys2Proof.Machine

namespace Sys2Proof.Claims

/-- The fields of the state that a command may change. -/
def mayChange : Instr → List Field
  | .qAbort ..
  | .acreSliceEnd ..
  | .acreStoreStep ..
  | .groupSaveComplete ..
  | .iaddIsub ..
  | .imulImulh ..
  | .imad ..
  | .iminImax ..
  | .mov ..
  | .andOrXorAndn ..
  | .shlShrSar ..
  | .popcClzBrev ..
  | .bfeBfi ..
  | .faddFmulFfma ..
  | .fminFmax ..
  | .specialFunction ..
  | .cmp ..
  | .sel ..
  | .cvt ..
  | .oscl ..
  | .qnt ..
  | .dq ..
  | .shfl ..
  | .vote ..
  | .redu ..
  | .rdln ..
  | .viImmediate ..
  | .ldg ..
  | .stg ..
  | .ldl ..
  | .stl ..
  | .ldu ..
  | .atomg ..
  | .atoml ..
  | .pref ..
  | .bra ..
  | .braD ..
  | .join ..
  | .call ..
  | .ret ..
  | .exit ..
  | .uArithmetic ..
  | .ucmp ..
  | .mld ..
  | .mmul ..
  | .mrd ..
  | .mclr ..
  | .mrel ..
  | .nopInstruction ..
  | .s2vS2u ..
  | .u2s ..
  | .fenceInstruction ..
  | .fenceIo ..
  | .bar ..
  | .evwait ..
  | .evsig ..
  | .sleep ..
  | .yield ..
  | .trap ..
  | .loadDataReturn ..
  | .deadlockRaise ..
  | .channelEnable ..
  | .channelDisable ..
  | .channelAbort ..
  | .kick ..
  | .moverDescriptorFetch ..
  | .moverHalt ..
  | .moverPermissionError ..
  | .watchdogExpiry ..
  | .deadlineExpiry ..
  | .stopTimeout ..
  | .fenceDrainExpiry ..
  | .computePartReset ..
  | .engineDrainTimeout ..
  | .routesInPlace
  | .errRsp ..
  | .remoteRequestTimeout ..
  | .illegalEncoding .. => [.free, .mem, .exposed, .ext, .fns, .store, .cmds, .ctxs, .cores, .groups, .waiters, .lines, .dirClock, .hides, .plans, .seqs, .movers, .eg, .wms, .ao, .engines, .fab, .out]
  | .signal ..
  | .wait ..
  | .query ..
  | .homeRequest ..
  | .homeTransactionEnd ..
  | .cxlMemRequest ..
  | .engineRequest ..
  | .rd ..
  | .wr ..
  | .atom ..
  | .coh ..
  | .mvw ..
  | .remoteEvsig ..
  | .remoteEvwait ..
  | .snpAck .. => [.mem, .exposed, .ext, .fns, .store, .cmds, .ctxs, .cores, .waiters, .lines, .dirClock, .hides, .ao, .fab, .out]
  | .furlongMoveRequest ..
  | .vfManagementWrite ..
  | .kodRead ..
  | .kodWrite ..
  | .kodDescribe ..
  | .profileSwitch ..
  | .profileCopy ..
  | .firmwareStage ..
  | .firmwareCommit ..
  | .shiftProgramStage ..
  | .shiftProgramCommit ..
  | .shiftProgramStore ..
  | .hideReset ..
  | .firmwareStart => [.free, .mem, .exposed, .scrubbed, .ext, .fns, .store, .cmds, .ctxs, .live, .allocs, .tlb, .cores, .groups, .waiters, .lines, .dirClock, .hides, .moves, .mgrMoved, .plans, .seqs, .movers, .eg, .wms, .kod, .ao, .gov, .pow, .engines, .fab, .out]
  | .migrationCopyDone ..
  | .atsTranslationCompletion ..
  | .unmap ..
  | .invalidate ..
  | .atsInvalidateRequest ..
  | .invalidationAck .. => [.free, .mem, .exposed, .ext, .fns, .store, .cmds, .ctxs, .allocs, .tlb, .ats, .cores, .groups, .waiters, .lines, .dirClock, .hides, .plans, .seqs, .movers, .eg, .wms, .ao, .engines, .fab, .out]
  | .linkPhyUp ..
  | .linkPhyDown ..
  | .flitReceive ..
  | .linkAckTimeout ..
  | .hello ..
  | .linkmap .. => [.mem, .exposed, .ext, .fns, .cores, .eg, .ao, .fab, .out]
  | .verSelectWrite ..
  | .queueDisable ..
  | .pushSlotWrite ..
  | .completionHeadWrite ..
  | .completionInterruptTimeout .. => [.fns, .out]
  | .ringFetchError ..
  | .cqWriteError ..
  | .stagedRecordWrite ..
  | .alarmPosting => [.mem, .exposed, .ext, .fns, .ao, .out]
  | .kernel ..
  | .engineProgress ..
  | .engineHeld ..
  | .engineReleased .. => [.cmds]
  | .eventQueueEnable ..
  | .eventQueueDisable ..
  | .eventQueueHeadWrite .. => [.fns, .ao, .out]
  | .acreBBlockLoaded ..
  | .acreReadoutStep ..
  | .acreOperationEnd .. => [.mem, .exposed, .ext, .fns, .store, .cmds, .ctxs, .cores, .waiters, .lines, .dirClock, .hides, .movers, .ao, .fab, .out]
  | .moverRestart ..
  | .channelStop ..
  | .channelContinue .. => [.movers]
  | .sourceLatch ..
  | .holdOffExpiry ..
  | .coalesceExpiry .. => [.cores, .eg]
  | .computePartResetEnd ..
  | .hideKeyGenerated ..
  | .hideScrubEnd .. => [.free, .mem, .exposed, .scrubbed, .ext, .fns, .store, .cmds, .ctxs, .live, .allocs, .tlb, .cores, .groups, .waiters, .lines, .dirClock, .hides, .moves, .plans, .seqs, .movers, .eg, .wms, .kod, .ao, .pow, .engines, .fab, .out]
  | .floorMiss
  | .avsReadback ..
  | .avsRetry .. => [.free, .cores, .eg, .gov]
  | .timeRefLoss
  | .entropyReady
  | .entropyHealthFailure => [.free, .cores, .eg, .pow]
  | .stackPortReady ..
  | .stackPortDown ..
  | .stackReadResponse .. => [.free, .mem, .exposed, .scrubbed, .ext, .fns, .store, .cmds, .ctxs, .live, .allocs, .tlb, .cores, .groups, .waiters, .lines, .dirClock, .hides, .plans, .seqs, .movers, .eg, .wms, .kod, .ao, .pow, .engines, .sports, .fab, .out]
  | .registerWrite ..
  | .storeBufferEntryLeave .. => [.free, .mem, .exposed, .scrubbed, .ext, .fns, .store, .cmds, .ctxs, .live, .allocs, .tlb, .cores, .groups, .waiters, .lines, .dirClock, .hides, .moves, .mgrMoved, .plans, .seqs, .movers, .eg, .wms, .boxes, .kod, .ao, .gov, .pow, .engines, .fab, .out]
  | .functionReset ..
  | .flrReport .. => [.free, .mem, .exposed, .ext, .fns, .store, .cmds, .ctxs, .live, .allocs, .tlb, .cores, .groups, .waiters, .lines, .dirClock, .hides, .plans, .seqs, .movers, .eg, .wms, .boxes, .ao, .engines, .fab, .out]
  | .doorbell ..
  | .contextLoad .. => [.free, .mem, .exposed, .ext, .fns, .store, .cmds, .ctxs, .cores, .groups, .waiters, .lines, .dirClock, .hides, .movers, .eg, .ao, .engines, .fab, .out]
  | .descriptorFetchResponse ..
  | .vfEnableChange .. => [.fns]
  | .nop ..
  | .fence .. => [.mem, .exposed, .ext, .fns, .cmds, .ctxs, .hides, .ao, .out]
  | .copy ..
  | .fill .. => [.fns, .cmds, .hides, .movers]
  | .foreign ..
  | .engineDetach .. => [.mem, .exposed, .ext, .fns, .cmds, .ctxs, .hides, .ao, .engines, .out]
  | .seqClose ..
  | .stepCommit .. => [.mem, .exposed, .ext, .fns, .store, .cmds, .ctxs, .cores, .waiters, .lines, .dirClock, .hides, .plans, .seqs, .wms, .ao, .fab, .out]
  | .mailboxInWrite ..
  | .mailboxTakeOutbound .. => [.cores, .eg, .boxes, .out]
  | .mailboxOutWrite ..
  | .mailboxTakeInbound .. => [.boxes]
  | .mctpControl ..
  | .entdaa .. => [.kod, .out]
  | .furlongWake ..
  | .clockedTestMode .. => [.pow]
  | .tapBypass
  | .tapIdcode => [.pow, .out]
  | .powerOnReset ..
  | .warmReset .. => [.btime, .mem, .exposed, .scrubbed, .fns, .store, .cmds, .nextCid, .ctxs, .live, .allocs, .nextObj, .tlb, .ats, .cores, .groups, .waiters, .lines, .dirClock, .hides, .moves, .mgrMoved, .plans, .seqs, .pendOrder, .movers, .eg, .wms, .boxes, .kod, .ao, .gov, .pow, .engines, .sports, .fab, .out]
  | .engineAttach ..
  | .enginePaused .. => [.engines]
  | .routeCompute
  | .epochTableExpiry => [.fab]
  | .ready ..
  | .go .. => [.mem, .exposed, .ext, .fns, .ao, .fab, .out]
  | .functionResetEnd .. => [.fns, .store]
  | .queueEnable .. => [.mem, .exposed, .ext, .fns, .tlb, .ao, .out]
  | .queueDrainEnd .. => [.mem, .exposed, .ext, .fns, .store, .tlb, .ao, .out]
  | .commandAccept .. => [.mem, .exposed, .ext, .fns, .store, .cmds, .nextCid, .ctxs, .allocs, .tlb, .hides, .wms, .ao, .fab, .out]
  | .reservationAdmit .. => [.mem, .exposed, .ext, .fns, .store, .cmds, .ctxs, .allocs, .tlb, .hides, .wms, .ao, .fab, .out]
  | .commandDispatch .. => [.mem, .exposed, .ext, .fns, .store, .cmds, .ctxs, .allocs, .tlb, .hides, .wms, .ao, .pow, .fab, .out]
  | .endOfCommandReport .. => [.mem, .exposed, .ext, .fns, .store, .cmds, .ctxs, .cores, .groups, .waiters, .lines, .dirClock, .hides, .plans, .seqs, .wms, .ao, .engines, .fab, .out]
  | .recordWriteError .. => [.ext, .fns, .ao]
  | .ctxCreate .. => [.mem, .exposed, .ext, .fns, .store, .cmds, .ctxs, .live, .allocs, .cores, .waiters, .lines, .dirClock, .hides, .wms, .ao, .fab, .out]
  | .ctxDestroy .. => [.free, .mem, .exposed, .ext, .fns, .store, .cmds, .ctxs, .live, .allocs, .tlb, .cores, .groups, .waiters, .lines, .dirClock, .hides, .plans, .seqs, .movers, .eg, .wms, .ao, .engines, .fab, .out]
  | .map .. => [.mem, .exposed, .ext, .fns, .cmds, .ctxs, .allocs, .nextObj, .tlb, .hides, .wms, .ao, .out]
  | .acre .. => [.hides]
  | .planLoad .. => [.mem, .exposed, .ext, .fns, .store, .cmds, .ctxs, .allocs, .tlb, .hides, .plans, .wms, .ao, .fab, .out]
  | .seqOpen .. => [.mem, .exposed, .ext, .fns, .store, .cmds, .ctxs, .cores, .waiters, .lines, .dirClock, .hides, .seqs, .pendOrder, .wms, .ao, .pow, .fab, .out]
  | .seqStep .. => [.mem, .exposed, .ext, .fns, .cmds, .ctxs, .hides, .plans, .ao, .out]
  | .seqAdmit => [.mem, .exposed, .ext, .fns, .store, .cmds, .ctxs, .cores, .waiters, .lines, .dirClock, .hides, .seqs, .wms, .ao, .pow, .fab, .out]
  | .stepBuild .. => [.mem, .exposed, .ext, .fns, .store, .cmds, .ctxs, .allocs, .cores, .waiters, .lines, .dirClock, .hides, .plans, .seqs, .wms, .ao, .fab, .out]
  | .stageIssue .. => [.fns, .cmds, .nextCid, .hides, .plans, .pow]
  | .servingReserveStaging .. => [.plans]
  | .acreOperationStart .. => [.mem, .exposed, .ext, .cmds, .hides, .movers, .pow]
  | .acreStepAbandon .. => [.cmds, .hides, .movers]
  | .acreResume .. => [.cmds, .hides]
  | .coreErr .. => [.free, .mem, .exposed, .ext, .fns, .store, .cmds, .ctxs, .cores, .groups, .waiters, .lines, .dirClock, .hides, .plans, .seqs, .movers, .eg, .wms, .boxes, .ao, .pow, .engines, .fab, .out]
  | .groupPlacement .. => [.mem, .exposed, .ext, .fns, .cmds, .cores, .groups, .waiters, .hides, .pow, .fab]
  | .groupResume .. => [.mem, .exposed, .ext, .fns, .store, .cmds, .ctxs, .cores, .groups, .waiters, .lines, .dirClock, .hides, .ao, .pow, .fab, .out]
  | .fenceComplete .. => [.cmds, .cores]
  | .deadlockEvaluationTick => [.ctxs]
  | .drainWindowExpiry .. => [.free, .mem, .exposed, .ext, .fns, .store, .cmds, .ctxs, .cores, .groups, .waiters, .lines, .dirClock, .hides, .moves, .plans, .seqs, .movers, .eg, .wms, .kod, .ao, .pow, .engines, .fab, .out]
  | .furlongJoin .. => [.cores, .moves, .kod, .pow]
  | .spanStart .. => [.cmds, .cores, .groups, .hides]
  | .grainChargeTick => [.fns, .ctxs, .hides]
  | .coreSliceExpiry .. => [.cores, .groups]
  | .slowdownWindowEnd .. => [.mem, .exposed, .ext, .fns, .ctxs, .ao, .out]
  | .rebalancePeriodEnd => [.free, .mem, .exposed, .ext, .fns, .hides, .moves, .mgrMoved, .ao, .out]
  | .migrationFenceEnd .. => [.mem, .exposed, .ext, .fns, .cmds, .ctxs, .cores, .groups, .waiters, .hides, .ao, .fab, .out]
  | .moverRunStart .. => [.free, .movers]
  | .moverBurstComplete .. => [.free, .mem, .exposed, .ext, .fns, .store, .cmds, .ctxs, .cores, .waiters, .lines, .dirClock, .hides, .movers, .eg, .ao, .fab, .out]
  | .inputStall .. => [.mem, .exposed, .ext, .fns, .movers, .ao, .out]
  | .srcSetpWrite .. => [.cores, .eg, .out]
  | .srcPendWrite .. => [.eg]
  | .acknowledge .. => [.eg, .out]
  | .endOfInterrupt .. => [.mem, .exposed, .ext, .fns, .cores, .eg, .ao, .out]
  | .watermarkStickyClear .. => [.free, .mem, .exposed, .ext, .fns, .wms, .ao, .out]
  | .selfTestEnd .. => [.free, .mem, .exposed, .ext, .fns, .store, .cmds, .ctxs, .cores, .groups, .waiters, .lines, .dirClock, .hides, .plans, .seqs, .movers, .eg, .wms, .kod, .ao, .pow, .engines, .fab, .out]
  | .computePartResetTimeout .. => [.free, .mem, .exposed, .scrubbed, .ext, .fns, .store, .cmds, .ctxs, .live, .allocs, .tlb, .cores, .groups, .waiters, .lines, .dirClock, .hides, .plans, .seqs, .movers, .eg, .wms, .kod, .ao, .pow, .engines, .fab, .out]
  | .pendingLiveApply .. => [.free, .mem, .exposed, .ext, .fns, .cmds, .ctxs, .hides, .moves, .mgrMoved, .wms, .kod, .ao, .gov, .out]
  | .configStoreCommit .. => [.free, .mem, .exposed, .ext, .fns, .kod, .ao, .out]
  | .journalMirrorCopy .. => [.free, .mem, .exposed, .ext, .fns, .ao, .out]
  | .paceMeasurement .. => [.gov, .out]
  | .avsRequest .. => [.free, .cores, .eg, .gov, .out]
  | .powerCapAdjust .. => [.gov]
  | .thermalSample .. => [.free, .mem, .exposed, .scrubbed, .ext, .fns, .store, .cmds, .ctxs, .live, .allocs, .tlb, .cores, .groups, .waiters, .lines, .dirClock, .hides, .plans, .seqs, .movers, .eg, .wms, .kod, .ao, .gov, .pow, .engines, .fab, .out]
  | .furlongSleep .. => [.cores, .pow]
  | .rtcTrim => []
  | .powerLossAlarm => [.btime, .free, .mem, .exposed, .scrubbed, .fns, .store, .cmds, .nextCid, .ctxs, .live, .allocs, .nextObj, .tlb, .ats, .cores, .groups, .waiters, .lines, .dirClock, .hides, .moves, .mgrMoved, .plans, .seqs, .pendOrder, .movers, .eg, .wms, .boxes, .kod, .ao, .gov, .pow, .engines, .sports, .fab]
  | .vbatLow => [.free, .cores, .eg, .ao, .pow]
  | .tamper => [.free, .mem, .exposed, .scrubbed, .cores, .hides, .eg, .ao, .pow]
  | .debugRequest => [.mem, .exposed, .scrubbed, .hides, .pow]
  | .debugOpen => [.store, .cmds, .ctxs, .live, .allocs, .tlb, .ats, .cores, .groups, .waiters, .lines, .hides, .moves, .plans, .seqs, .kod, .pow]
  | .hideStart .. => [.mem, .exposed, .scrubbed, .fns, .cores, .hides, .eg, .pow, .out]
  | .firmwareRestart .. => [.free, .cores, .eg, .boxes, .ao, .pow]
  | .hostReadCompletion .. => [.free, .mem, .exposed, .ext, .fns, .store, .cmds, .ctxs, .allocs, .tlb, .cores, .groups, .waiters, .lines, .dirClock, .hides, .plans, .seqs, .movers, .eg, .wms, .ao, .engines, .fab, .out]
  | .helloTimer .. => [.out]
  | .snp .. => [.lines, .fab, .out]
  | .rdRsp .. => [.mem, .exposed, .ext, .fns, .store, .cmds, .ctxs, .allocs, .tlb, .cores, .hides, .wms, .ao, .fab, .out]
  | .wrAck .. => [.mem, .exposed, .ext, .fns, .cmds, .ctxs, .hides, .ao, .fab, .out]
  | .atomRsp .. => [.cores, .hides, .fab, .out]
  | .cohRsp .. => [.mem, .exposed, .ext, .lines, .dirClock, .hides, .fab, .out]
  | .reservedOk .. => [.hides, .fab, .out]
  | .wake .. => [.mem, .exposed, .ext, .fns, .store, .cmds, .ctxs, .cores, .groups, .waiters, .lines, .dirClock, .hides, .ao, .fab, .out]
  | .flowControlCreditReturn .. => [.free, .cmds, .movers, .sports]
  | .creditSilenceExpiry .. => [.cmds, .movers]
  | .alwaysOnPowerUp => [.btime, .mem, .exposed, .scrubbed, .fns, .store, .cmds, .nextCid, .ctxs, .live, .allocs, .nextObj, .tlb, .ats, .cores, .groups, .waiters, .lines, .dirClock, .hides, .moves, .mgrMoved, .plans, .seqs, .pendOrder, .movers, .eg, .wms, .boxes, .kod, .ao, .gov, .pow, .engines, .sports, .fab]
  | .warmrstAssertion => [.btime, .mem, .exposed, .scrubbed, .fns, .store, .cmds, .nextCid, .ctxs, .live, .allocs, .nextObj, .tlb, .ats, .cores, .groups, .waiters, .lines, .dirClock, .hides, .moves, .mgrMoved, .plans, .seqs, .pendOrder, .movers, .eg, .wms, .boxes, .kod, .gov, .pow, .engines, .sports, .fab]

/-- The operations that R178 assigns in each FORM. -/
def assignedOpc (form opc : Nat) : Bool :=
  match form with
  | 0 => decide (opc ≤ 0x13) || decide (0x20 ≤ opc ∧ opc ≤ 0x24) || decide (0x28 ≤ opc ∧ opc ≤ 0x2D) || opc == 0x30 || opc == 0x31
      || opc == 0x38 || opc == 0x39 || decide (0x40 ≤ opc ∧ opc ≤ 0x4B) || decide (0x50 ≤ opc ∧ opc ≤ 0x5B) || decide (0x60 ≤ opc ∧ opc ≤ 0x63)
  | 1 => decide (opc ≤ 0x04)
  | 2 => decide (opc ≤ 0x04) || decide (0x08 ≤ opc ∧ opc ≤ 0x18)
  | 3 => decide (opc ≤ 0x05)
  | 4 => decide (opc ≤ 0x09)
  | 5 => decide (opc ≤ 0x04)
  | 6 => decide (opc ≤ 0x03) || decide (0x08 ≤ opc ∧ opc ≤ 0x0F)
  | _ => false
/-- The bits of each FORM that hold a field (R173, R174); the others are reserved. -/
def usedBits (w : BitVec 64) : BitVec 64 :=
  match (w.extractLsb' 0 4).toNat with
  | 0 => w &&& 0x3FFFFFFFFFFFFFFF#64
  | 4 => if w.getLsbD 31 then w &&& 0xFFFFFFFFBF3FFFFF#64 else w &&& 0x0000003FBF3FFFFF#64
  | 5 => w &&& 0x1F3F3F3F1F1FFFFF#64
  | 6 => w &&& 0xFFFF0FFF3FFFFFFF#64
  | _ => w

/-- The five formats with a NaN (R62). -/
abbrev nanFormats : List FFmt := [fF32, fBF16, fF16, fF8a, fF8b]
/-- The v registers that an instruction names, with its predicate: chain, predicate, registers; none where its encoding is
ILLEGAL or it names no v register (R164, R174, R178). -/
def namesV (x : Instr) : Option (ChainRef × Fin 8 × Bool × List (BitVec 8)) :=
  match x with
  | .iaddIsub r _ i => v3 r i (i.round != 3) ([i.va, i.vd] ++ b i)
  | .imulImulh r _ i => v3 r i (i.round != 3) ([i.va, i.vd] ++ b i)
  | .imad r i => v3 r i (i.round != 3) ([i.va, i.vc, i.vd] ++ b i)
  | .iminImax r _ i => v3 r i (i.round != 3) ([i.va, i.vd] ++ b i)
  | .mov r i => v3 r i (i.round != 3) ([i.vd] ++ b i)
  | .andOrXorAndn r _ i => v3 r i (i.round != 3) ([i.va, i.vd] ++ b i)
  | .shlShrSar r _ i => v3 r i (i.round != 3) ([i.va, i.vd] ++ b i)
  | .popcClzBrev r _ i => v3 r i (i.round != 3) [i.va, i.vd]
  | .bfeBfi r _ i => v3 r i (i.round != 3) ([i.va, i.vc, i.vd] ++ b i)
  | .faddFmulFfma r .ffma i => v3 r i (decide (i.round.toNat < 2)) ([i.va, i.vc, i.vd] ++ b i)
  | .faddFmulFfma r _ i => v3 r i (decide (i.round.toNat < 2)) ([i.va, i.vd] ++ b i)
  | .fminFmax r _ i => v3 r i (decide (i.round.toNat < 2)) ([i.va, i.vd] ++ b i)
  | .specialFunction r _ i => v3 r i (decide (i.round.toNat < 2)) [i.va, i.vd]
  | .cmp r i => v3 r i (i.round != 3) ([i.va] ++ b i)
  | .sel r i => v3 r i (i.round != 3) ([i.va, i.vd] ++ b i)
  | .cvt r i => v3 r i (i.round != 3 && decide (i.vc.toNat % 16 < 8)) ([i.va, i.vd] ++ (if i.round = 2 then [i.vc] else []))
  | .oscl r i => v3 r i (i.round != 3 && decide (i.vc.toNat % 32 < 16)) [i.va, i.vd]
  | .qnt r f i => v3 r i (i.round != 3 && f != 6) ([i.va, i.vd] ++ b i ++ (if i.round = 2 then [i.vc] else []))
  | .dq r f i => v3 r i (i.round != 3 && f != 6) ([i.va, i.vd] ++ b i ++ (if i.round = 2 then [i.vc] else []))
  | .shfl r i => v3 r i (i.round != 3) ([i.va, i.vd] ++ b i)
  | .vote r i => v3 r i (i.round != 3) [i.vd]
  | .redu r i => v3 r i (i.round != 3) [i.va]
  | .rdln r i => v3 r i (i.round != 3) [i.va]
  | .viImmediate r .movi i => some (r, i.pred, i.pneg, [i.vd])
  | .viImmediate r _ i => some (r, i.pred, i.pneg, [i.va, i.vd])
  | .ldg r i => me r i (i.size.toNat < 5) ([i.voff] ++ data i.vds i.size.toNat)
  | .stg r i => me r i (i.size.toNat < 5) ([i.voff] ++ data i.vds i.size.toNat)
  | .ldl r i => me r i (i.size.toNat < 5) ([i.voff] ++ data i.vds i.size.toNat)
  | .stl r i => me r i (i.size.toNat < 5) ([i.voff] ++ data i.vds i.size.toNat)
  | .atomg r .cas i => me r i (i.size = 2 ∨ i.size = 3) ([i.voff] ++ data i.vds i.size.toNat ++ swap i)
  | .atoml r .cas i => me r i (i.size = 2 ∨ i.size = 3) ([i.voff] ++ data i.vds i.size.toNat ++ swap i)
  | .atomg r _ i => me r i (i.size = 2 ∨ i.size = 3) ([i.voff] ++ data i.vds i.size.toNat)
  | .atoml r _ i => me r i (i.size = 2 ∨ i.size = 3) ([i.voff] ++ data i.vds i.size.toNat)
  | .pref r i => me r i (i.size.toNat < 5) [i.voff]
  | .s2vS2u r false i => some (r, i.pred, i.pneg, [i.vd])
  | _ => none
where
  /-- operand VB, unless UB replaces it -/
  b (i : V3) : List (BitVec 8) := if i.ub then [] else [i.vb]
  v3 (r : ChainRef) (i : V3) (ok : Bool) (l : List (BitVec 8)) : Option (ChainRef × Fin 8 × Bool × List (BitVec 8)) :=
    if ok && decide (i.ty.toNat < 8) then some (r, i.pred, i.pneg, l) else none
  me (r : ChainRef) (i : MemI) (ok : Prop) [Decidable ok] (l : List (BitVec 8)) : Option (ChainRef × Fin 8 × Bool × List (BitVec 8)) :=
    if ok then some (r, i.pred, i.pneg, l) else none
  /-- the registers from VDS on that a size takes -/
  data (v : BitVec 8) (size : Nat) : List (BitVec 8) :=
    if v = 255 then [] else if size = 4 then [v, v + 1, v + 2, v + 3] else if size = 3 then [v, v + 1] else [v]
  /-- the registers of the value that cas stores -/
  swap (i : MemI) : List (BitVec 8) :=
    if i.vds = 255 then [] else if i.size = 3 then [i.vds + 2, i.vds + 3] else [i.vds + 1]
/-- It acts for the chain as a whole (R177). -/
def forChain (x : Instr) : Bool := match x with | .s2vS2u .. => true | _ => false

/-- The I/O address of a queue's descriptor of a count: SQ_BASE + 64 × (count mod 2^SQ_LOG2) (R303). -/
abbrev ringIo (q : Queue) (c : W32) : Nat := q.sqBase.toNat + 64 * (c.toNat % 2 ^ q.sqLog2)

/-- Function n and its queue block q take register writes and doorbells (R284, R290, R335). -/
abbrev takesQueue (s : State) (n q : Nat) : Prop := s.fnTakes n = true ∧ hasQueue n q = true

/-- A command that is dispatched on the row of its opcode. -/
abbrev onRowIs (s : State) (cid op : Nat) (c : Cmd) : Prop := s.onRow cid op = some c

/-- A context-management command on its row whose CTX field names the live context k of its function (R314). -/
abbrev namesCtx (s : State) (cid op : Nat) (c : Cmd) (k : Nat) : Prop :=
  s.onRow cid op = some c ∧ c.ctxField = k ∧ s.ctxLive k = true ∧ (s.ctx k).fn = c.fn

/-- The pieces, the header and the stages of a PLAN_LOAD whose validation succeeds (R249 to R251). -/
def planLoads (s : State) (c : Cmd) : Option (List Piece × Nat × List Stage) :=
  match s.planVal c c.who with
  | .ok x => some x
  | _ => none

/-- The KOD server answers a transport other than the register window now (R480 to R484). -/
abbrev serves (s : State) (src : KodSrc) : Prop :=
  s.ctlUp = true ∧ s.pow.boot ≠ .warmHeld ∧ s.pow.fwUp = true ∧ s.kodOpen src = true ∧ src ≠ .window

/-- The oldest journal entry is programmed at the mirror's place, whose sector is erased first where it starts there, and
read back (R492, R496). -/
def mirrorWrite (s : State) : State :=
  let a := 0x100000 + 64 * s.ao.mirrorPos
  ((if s.ao.mirrorPos % 64 = 0 then s.flashErase a 4096 else s).flashProgram a
    (leBytes 64 (tget s.ao.journal (s.ao.jq.head.toNat % 512) 0).toNat)).flashRead a 64

/-- A response of a Stack Port comes from the port and the lane on which its local address lies (R52). -/
abbrev stackAnswers (s : State) (p : Fin 12) (lane : Fin 16) (a : BitVec 56) : Prop :=
  s.isLocal a.toNat = true ∧ (s.stackPlace (paOff a.toNat)).port = p.val ∧ (s.stackPlace (paOff a.toNat)).lane = lane.val

/-- The message is in the receiver of port p, is of KIND k, and is for this node (R535, R541). -/
abbrev arrived (s : State) (p : Nat) (m : LMsg) (k : Nat) : Prop :=
  m ∈ (s.link p).rx ∧ m.kind.toNat = k ∧ m.dst.toNat = s.nodeId
/-- The unit and the hide are there, and the hide may be accessed at these bytes (R362). -/
abbrev mayServe (s : State) (m : LMsg) : Prop := s.remoteAbsent m = false ∧ s.remoteAllowed m = true
/-- The response answers an outstanding request (R546). -/
abbrev answers (s : State) (p : Nat) (m : LMsg) (k : Nat) (r : RReq) : Prop :=
  arrived s p m k ∧ s.reqOf m.tag = some r ∧ r.late = none
/-- The requester of a message at its home. -/
abbrev fromNode (p : Nat) (m : LMsg) : HomeWho := { remote := true, id := p, node := m.src.toNat }

/-- The chain issues an instruction that names these registers: it may issue, its program counter lies in its code, and none
of the registers awaits a load (R162, R193, R194). -/
abbrev issues (s : State) (r : ChainRef) (c : Chain) (vs us : List Nat) : Prop :=
  s.chain? r.core.val r.slot.val = some c ∧ s.mayIssue r.core.val c = true ∧ s.pcOk r.core.val c = true ∧ c.free vs us = true
/-- Some thread executes the instruction, and it names no register that the chain does not have (R164, R176). -/
abbrev inLanes (c : Chain) (pred : Fin 8) (neg : Bool) (vs : List Nat) : Prop :=
  c.lanesOf pred neg ≠ 0 ∧ c.outOfRange vs = false
/-- The state in which the chain's instruction has been fetched through the instruction cache (R171). -/
def fetched (s : State) (r : ChainRef) (c : Chain) : State := s.fillCode r.core.val c
/-- The state in which the instruction has retired and left this chain (R457). -/
def retire (s : State) (r : ChainRef) (c k : Chain) : State :=
  ((fetched s r c).updChain r.core.val r.slot.val (fun _ => k)).retired c
/-- The state in which the instruction has raised an exception (R193, R195). -/
def raised (s : State) (r : ChainRef) (c : Chain) (e : Exc) : State := (fetched s r c).raise r.core.val r.slot.val e
/-- The chain that a state holds in its place. -/
def there (t : State) (r : ChainRef) : Chain := (t.chain? r.core.val r.slot.val).getD {}
/-- The instruction has retired: v register vd of the threads of m is what f says; vz discards; the chain's next instruction
follows, and everything else is as it was. -/
abbrev wroteV (s : State) (r : ChainRef) (c : Chain) (t : State) (m : W32) (vd : Nat) (f : Nat → W32) : Prop :=
  t = retire s r c (there t r) ∧ there t r = { c with v := (there t r).v, pc := (c.pc + 1) % 2 ^ 30 } ∧
    ∀ n, n < 256 → ∀ l, l < 32 →
      (there t r).vreg n l = if n = vd ∧ vd ≠ 255 ∧ m.getLsbD l = true then f l else c.vreg n l
/-- It has retired: u register n is x, and everything else is as it was. -/
abbrev wroteU (s : State) (r : ChainRef) (c : Chain) (t : State) (n : Nat) (x : W64) : Prop :=
  t = retire s r c { c with u := tset c.u n x, pc := (c.pc + 1) % 2 ^ 30 }
/-- It has retired: predicate register n is x, where it is not p7, and everything else is as it was. -/
abbrev wroteP (s : State) (r : ChainRef) (c : Chain) (t : State) (n : Nat) (x : W32) : Prop :=
  t = retire s r c (there t r) ∧ there t r = { c with p := (there t r).p, pc := (c.pc + 1) % 2 ^ 30 } ∧
    ∀ k, k < 8 → (there t r).preg k = if k = n ∧ n ≠ 7 then x else c.preg k

/-- The instruction acts for the chain as a whole: its predicate holds in every active thread (R177). -/
abbrev wholeOf (s : State) (r : ChainRef) (c : Chain) (pred : Fin 8) (neg : Bool) (vs us : List Nat) : Prop :=
  issues s r c vs us ∧ c.lanesOf pred neg = c.active
/-- The chain after its instruction, at the next one. -/
abbrev stepped (c : Chain) : Chain := { c with pc := (c.pc + 1) % 2 ^ 30 }
/-- u register operand b of a uniform instruction: u[UB], or IMM32 without its top bit set. -/
abbrev uOperand (c : Chain) (i : UI) (b : W64) : Prop :=
  (i.useImm = false ∧ b = c.ureg i.ub.toNat) ∨ (i.useImm = true ∧ i.imm.getLsbD 31 = false ∧ b = i.imm.setWidth 64)
/-- Index of a branch's target: a signed offset from the branch (R174). -/
abbrev branchAt (c : Chain) (off : BitVec 24) : Nat := (((c.pc : Int) + off.toInt) % 2 ^ 30).toNat
/-- Room on the reconvergence stack for n entries (R185). -/
abbrev roomFor (s : State) (c : Chain) (n : Nat) : Prop :=
  c.stack.length + n ≤ 56 + (match s.group? c.cid c.group with | some g => g.spill | none => 0)

/-- The chain issues an access: no register it names awaits a load, and some thread makes the access. -/
abbrev accesses (s : State) (r : ChainRef) (c : Chain) (i : MemI) (vs us : List Nat) : Prop :=
  issues s r c (vs ++ [i.voff.toNat]) ([i.ubase.toNat] ++ us) ∧ inLanes c i.pred i.pneg (vs ++ [i.voff.toNat]) ∧ i.size.toNat < 5
/-- The threads that make an access. -/
abbrev by_ (c : Chain) (i : MemI) : W32 := c.lanesOf i.pred i.pneg
/-- Offset of a thread in its buffer or in the local store: u[UBASE] + v[VOFF] + IMM16 modulo 2^64 (R167, R169). -/
abbrev offOf (c : Chain) (i : MemI) (l : Nat) : Nat :=
  ((c.ureg i.ubase.toNat).toNat + (c.vreg i.voff.toNat l).toNat + (i.imm.signExtend 64).toNat) % 2 ^ 64
/-- Every thread's local bytes are aligned and lie in the group's usable store (R168, R169). -/
abbrev localOk (s : State) (r : ChainRef) (c : Chain) (i : MemI) (bytes : Nat) : Prop :=
  ∀ l, l < 32 → (by_ c i).getLsbD l = true → offOf c i l % bytes = 0 ∧ offOf c i l + bytes ≤ s.lsUse r.core.val c
/-- Address of a thread's local bytes in the core's local store. -/
abbrev localAt (s : State) (r : ChainRef) (c : Chain) (i : MemI) (l : Nat) : Nat := s.lsBaseOf r.core.val c + offOf c i l
/-- The buffer table of the chain's command. -/
abbrev tabOf (s : State) (c : Chain) : Nat := (((s.chainCmd c).map (fun k => k.buftab))).getD 0
/-- Every thread's bytes are aligned and lie in a buffer that is bound, and writable for a write; a control core uses
physical addresses (R167, R168, R203). -/
abbrev globalOk (s : State) (r : ChainRef) (c : Chain) (b : Nat) (m : W32) (off : Nat → Nat) (bytes : Nat) (write : Bool) : Prop :=
  ∀ l, l < 32 → m.getLsbD l = true →
    (isControl r.core.val = true ∧ off l % bytes = 0) ∨
    (isControl r.core.val = false ∧ (bufBase (tabOf s c) b + off l) % bytes = 0 ∧ bufBound (tabOf s c) b = true ∧
      off l + bytes ≤ bufLen (tabOf s c) b ∧ (write = true → bufRo (tabOf s c) b = false))
/-- The accessing threads, ascending, each with its physical address. -/
abbrev placesOf (s : State) (r : ChainRef) (c : Chain) (i : MemI) : List (Nat × Nat) :=
  (lanes (by_ c i)).map (fun l => (l, s.globalPa r.core.val c i.buf.toNat (offOf c i l)))
/-- The lines that the accesses lie in, each once. -/
abbrev linesOf (s : State) (r : ChainRef) (c : Chain) (i : MemI) : List Nat := ((placesOf s r c i).map (fun x => x.2 / 128)).eraseDups
/-- No thread accesses a device register (R220). -/
abbrev noDevice (s : State) (r : ChainRef) (c : Chain) (i : MemI) : Prop :=
  ∀ l ∈ lanes (by_ c i), s.isDevice r.core.val c i.buf.toNat (offOf c i l) = false
/-- The accesses of those threads: thread, offset and physical address. -/
abbrev accsOf (s : State) (r : ChainRef) (c : Chain) (i : MemI) : List LaneAcc :=
  (lanes (by_ c i)).map (fun l => { t := l, off := offOf c i l, pa := s.globalPa r.core.val c i.buf.toNat (offOf c i l) })
/-- The one access of ldu: 64 bits at u[UBASE] + IMM16. -/
abbrev lduAcc (s : State) (r : ChainRef) (c : Chain) (i : MemI) : LaneAcc :=
  { t := 0, off := offOf c i 0, pa := s.globalPa r.core.val c i.buf.toNat (offOf c i 0) }
/-- All accesses are accesses of device registers, or none is (R220). -/
abbrev allDevice (s : State) (r : ChainRef) (c : Chain) (i : MemI) (dev : Bool) (xs : List LaneAcc) : Prop :=
  ∀ x ∈ xs, s.isDevice r.core.val c i.buf.toNat x.off = dev
/-- Nothing in the store buffer overlaps the bytes of a load, or it is a load of device registers and its turn (R209, R221). -/
abbrev clearOf (s : State) (r : ChainRef) (c : Chain) (dev : Bool) (xs : List LaneAcc) (bytes : Nat) : Prop :=
  (dev = true ∧ s.deviceBusy r.core.val r.slot.val c true = false) ∨
  (dev = false ∧ ∀ x ∈ xs, ∀ e ∈ (s.core r.core.val).sb, e.touches x.pa bytes = false)
/-- The marks of an access let it go on now (R215, R216). -/
abbrev marksLet (s : State) (r : ChainRef) (c : Chain) (i : MemI) (xs : List LaneAcc) : Prop :=
  s.markOk r.core.val r.slot.val c i (s.maxScope (xs.map (fun x => x.pa))) = true
/-- A load as it is asked for. -/
abbrev loadOf (c : Chain) (i : MemI) (vd : Option Nat) (ud size : Nat) (dev : Bool) (xs : List LaneAcc) : Load :=
  { idx := c.loadIdx, vd := vd, ud := ud, size := size, na := i.na || dev, acq := i.ord.toNat % 2 == 1,
    lanes := xs.map (fun x => (x.t, x.pa)), atomic := false, dev := dev, await := 0, first := c.loadIdx }
/-- The accesses of a load that the data cache does not answer: it holds their line, they bear no NA and no acquire mark. -/
abbrev askedOf (s : State) (r : ChainRef) (i : MemI) (dev : Bool) (xs : List LaneAcc) : List LaneAcc :=
  if dev then xs else xs.filter (fun x => !(s.cached r.core.val x.pa && !i.na && !(i.ord.toNat % 2 == 1)))
/-- The chain with one more load outstanding, which remembers the chain's registers and how many counted answers are to come. -/
abbrev loading (s : State) (c : Chain) (l : Load) (asked : List LaneAcc) : Chain :=
  { stepped c with loads := c.loads ++ [{ l with before := c.regs, await := (asked.filter (fun x => s.counted l x.pa)).length }],
                   loadIdx := c.loadIdx + 1, acquiring := l.acq }
/-- The state in which a load is outstanding and has asked for what it needs (R210). -/
def loadBegun (s : State) (r : ChainRef) (c : Chain) (i : MemI) (l : Load) (asked : List LaneAcc) : State :=
  asked.foldl (fun u x => u.askLane r.core.val r.slot.val c l (s.slotHide c.cid i.buf.toNat x.off) x.pa) (retire s r c (loading s c l asked))
/-- The entries of a store to memory, one for each line (R208). -/
abbrev storeEntries (s : State) (r : ChainRef) (c : Chain) (i : MemI) : List SbEnt :=
  (storeLines ((accsOf s r c i).flatMap (c.laneCells i.vds.toNat (memBytes i)))).map (fun d =>
    s.entryOf c r.slot.val (s.lineHide c i.buf.toNat (accsOf s r c i) ((d.map (fun x => x.1)).headD 0 / 128))
      (lineMask (accsOf s r c i) ((d.map (fun x => x.1)).headD 0 / 128)) false d [])
/-- One thread's atomic. -/
abbrev atomOf (c : Chain) (op : AtomOp) (i : MemI) (x : LaneAcc) : SbAtom :=
  { op := op, size := i.size.toNat, addr := x.pa, val := BitVec.ofNat 64 (c.atomVals op i.vds.toNat x.t i.size.toNat).1,
    cmp := BitVec.ofNat 64 (c.atomVals op i.vds.toNat x.t i.size.toNat).2, load := c.loadIdx, lane := x.t }
/-- The entries of an atomic on memory, one for each line, its threads ascending (R208). -/
abbrev atomEntries (s : State) (r : ChainRef) (c : Chain) (op : AtomOp) (i : MemI) : List SbEnt :=
  (((accsOf s r c i).map (atomOf c op i)).foldl putAtom []).map (fun e =>
    s.entryOf c r.slot.val (s.lineHide c i.buf.toNat (accsOf s r c i) e.1) (lineMask (accsOf s r c i) e.1) false [] e.2)
/-- The chain after a global atomic, whose old values are still to come. -/
abbrev atomLoading (c : Chain) (i : MemI) (dev : Bool) (xs : List LaneAcc) : Chain :=
  { stepped c with loads := c.loads ++ [{ idx := c.loadIdx, vd := some i.vds.toNat, ud := 0, size := i.size.toNat, na := true, acq := i.ord.toNat % 2 == 1, lanes := xs.map (fun x => (x.t, x.pa)), atomic := true, dev := dev, await := 0, before := c.regs, first := c.loadIdx }],
                   loadIdx := c.loadIdx + 1, acquiring := i.ord.toNat % 2 == 1 }
/-- The chain after a store: one with an acquire mark waits until that is performed (R216). -/
abbrev afterStore (s : State) (c : Chain) (i : MemI) (xs : List LaneAcc) : Chain :=
  if i.ord.toNat % 2 = 1 then { stepped c with st := .fence (s.maxScope (xs.map (fun x => x.pa))) } else stepped c
/-- The lines that a prefetch has still to bring in: of memory, not of the host, not in the data cache yet. -/
abbrev prefAccs (s : State) (r : ChainRef) (c : Chain) (i : MemI) : List LaneAcc :=
  (accsOf s r c i).filter (fun x => !s.isDevice r.core.val c i.buf.toNat x.off && s.cacheable r.core.val x.pa && !s.cached r.core.val x.pa)
/-- A prefetch's load, which fills no register. -/
abbrev prefLoad (c : Chain) (xs : List LaneAcc) : Load :=
  { idx := c.loadIdx, vd := some 0xFF, ud := 0, size := 0, na := false, acq := false, lanes := xs.map (fun x => (x.t, x.pa)), atomic := false, dev := false, await := 0, pref := true, first := c.loadIdx }

/-- The chain issues an MX instruction of its command, on a compute core; no acquire is open, and no load is out that may
still raise an exception (R193, R216). -/
abbrev mxIssues (s : State) (r : ChainRef) (c : Chain) (k : Cmd) (i : MxI) : Prop :=
  wholeOf s r c i.pred i.pneg [] [i.uaddr.toNat, i.uaux.toNat] ∧ s.chainCmd c = some k ∧ isControl r.core.val = false ∧
    c.acquiring = false ∧ c.settled = true
/-- n bytes from a local offset lie in the group's usable store. -/
abbrev lsFits (s : State) (r : ChainRef) (c : Chain) (off n : Nat) : Prop := n = 0 ∨ off + n ≤ s.lsUse r.core.val c
/-- The unit is the context's, or free with place a for its matrix-state slot; no acre operation holds it, no matrix state of
the chain's group and no earlier chain waits for it (R190, R191). -/
abbrev mxMine (s : State) (r : ChainRef) (c : Chain) (k : Cmd) (a : Nat) : Prop :=
  s.unitTaken r.core.val r.slot.val c k = false ∧ ((s.core r.core.val).unit.owner = some k.ctx ∨ ((s.core r.core.val).unit.owner = none ∧ s.freeSlot k.ctx = some a))
/-- The instruction has retired, the unit is the context's, and the chain waits for it no more. -/
def mxTaken (s : State) (r : ChainRef) (c : Chain) (k : Cmd) (a : Nat) : State :=
  (if (s.core r.core.val).unit.owner.isSome then retire s r c (stepped c)
  else (retire s r c (stepped c)).updCore r.core.val (fun x => { x with unit := { x.unit with owner := some k.ctx, slotAt := a } })).leaveMxq r.core.val r.slot.val
/-- A private operand: an exact format but LUT4, under NONE, S32 or S16 (R187). -/
abbrev mxLegal (fmt mode : Nat) : Prop := fmt ≤ 0x0B ∧ fmt ≠ 6 ∧ mode ≤ 2
/-- Depth of the pair (R99). -/
abbrev pairDepth (i : MxI) : Nat := if i.fmtA.toNat ≤ 2 ∧ i.fmtB.toNat ≤ 2 then 4 else 1
/-- The hide's profile permits a format. -/
abbrev permits (s : State) (k : Cmd) (fmt : Nat) : Prop := (s.kodRun (0x3000 + k.hide) 4).testBit fmt = true
/-- Local addresses of the operand and of its scales. -/
abbrev mxAt (s : State) (r : ChainRef) (c : Chain) (u : BitVec 6) : Nat := s.lsBaseOf r.core.val c + (c.ureg u.toNat).toNat

/-- The chain waits in a fence (4 for fence.io). -/
abbrev fencing (s : State) (r : ChainRef) (c : Chain) (scope : Nat) : Prop :=
  s.chain? r.core.val r.slot.val = some c ∧ c.st = .fence scope
/-- Every earlier access of the chain is performed at a scope: beyond its own threads its stores have left the store buffer,
beyond the core no exception of a load can come any more and no home owes it a store, beyond the block none of its requests
to another node is open but a wait (R215, R222). -/
abbrev performedAt (s : State) (r : ChainRef) (c : Chain) (scope : Nat) : Prop :=
  (scope = 0 ∨ ∀ e ∈ (s.core r.core.val).sb, e.ownOf r.slot.val c = false) ∧
  (scope < 2 ∨ (c.settled = true ∧ ∀ x ∈ s.lines, x.2.owes { id := r.core.val, node := r.slot.val } = false)) ∧
  (scope < 3 ∨ ∀ q ∈ s.fab.reqs, q.accessOf r.core.val r.slot.val c = false)
/-- Identifier of the object: u[UD] with IMM16 words added to its OFFSET (R232). -/
abbrev idOf (c : Chain) (i : SysI) : W64 := objId c i
/-- Where it lies: a core's local store, or memory. -/
abbrev whereOf (s : State) (r : ChainRef) (c : Chain) (i : SysI) : Option Nat × Nat :=
  s.objAt r.core.val (s.lsBaseOf r.core.val c) (s.chainCmd c) (idOf c i)
/-- It may be used now: no exception, no acquire open, no load out that may still raise an exception (R193, R216, R233). -/
abbrev objFree (s : State) (r : ChainRef) (c : Chain) (i : SysI) (write : Bool) : Prop :=
  s.objExc r.core.val c (idOf c i) write = none ∧ c.acquiring = false ∧ c.settled = true
/-- It lies in a local store, or on this node in a line that the chain may write at its home (R226, R229). -/
abbrev objMine (s : State) (r : ChainRef) (o : Option Nat × Nat) : Prop :=
  o.1 ≠ none ∨ (s.isLocal o.2 = true ∧ s.lineOwn { id := r.core.val, node := r.slot.val + 64 } (o.2 / 128) = true)
/-- The instruction has retired, and the line of an object of this node is changed at its home. -/
abbrev objTaken (s : State) (r : ChainRef) (c : Chain) (o : Option Nat × Nat) : State := (retire s r c (stepped c)).takeObj o

end Sys2Proof.Claims

open Sys2Proof.Claims

/-- Where a command waits, the step is that command's effect on the state with the rest of the queue. -/
def Obligations.StepRunsTheFrontCommand : Prop :=
  ∀ (c : Instr) (s : State), step { s with pending := c :: s.pending } = exec c s

/-- With no command waiting, the step adds one nanosecond of block time; the real-time clock counts each thousandth one,
and the cores' beats are counted at the measured pace; nothing else changes. That a step on an empty queue is a tick, and
how the beats are counted, is the model's choice (log 1, log 49). -/
def Obligations.EmptyQueuePassesTime : Prop :=
  -- the idle step
  (∀ (s : State),
    s.pending = [] →
    ∃ t : State, step s = .next t ∧ t.btime = s.btime + 1 ∧ t.ao.rtc = (if s.ao.rtcSub + 1 < 1000 then s.ao.rtc else s.ao.rtc + 1) ∧
    t.ao.rtcSub = (if s.ao.rtcSub + 1 < 1000 then s.ao.rtcSub + 1 else 0) ∧ { t.ao with rtc := s.ao.rtc, rtcSub := s.ao.rtcSub } = s.ao ∧
    t.gov = { s.gov with beatSub := s.gov.beatSub + s.gov.pace } ∧ Same (fields [.btime, .ao, .gov]) s t)

/-- After reset the queue is empty and block time 0; no command, context, group, sequence or plan exists; every register
of the queue blocks, the event and error queue control, the movers, their channels and the Event Gatherer reads its
reset value, and the function control page lists version 0x0100. That the state is the one of a first power-up, with
firmware not started, is the model's choice (log 3). -/
def Obligations.ResetState : Prop :=
  (State.reset.pending = [] ∧ State.reset.btime = 0 ∧ State.reset.cmds = [] ∧ State.reset.live = [] ∧ State.reset.groups = [] ∧ State.reset.seqs = [] ∧
    State.reset.plans = [] ∧ State.reset.mem = [] ∧ State.reset.pow.fwUp = false) ∧
  (∀ n q o, State.reset.readQueue n q o = if o = 0x008 then 0xFFFF else 0) ∧
  (∀ n o, State.reset.readEqc n o = 0) ∧
  (∀ n, State.reset.readFcp n 0x008 = 0x0100 ∧ State.reset.readFcp n 0x010 = 0 ∧ State.reset.readFcp n 0x028 = 0 ∧ State.reset.readFcp n 0x040 = 0) ∧
  (∀ m o, State.reset.readMover m o = 0) ∧
  (∀ o, 0x2000 ≤ o → o < 0x2100 → State.reset.readEg false o = 0) ∧
  (State.reset.readEg false 0x2300 = 1 ∧ State.reset.readEg false 0x2308 = 0) ∧
  (∀ t o, t < 4 → State.reset.readTgt t o = if o = 0x10 then 0x80000000 else if o = 0x18 then 1 else 0)

/-- At reset the local memory, the exposed units and the known bytes of host and remote memory are in their canonical
form. The form is the model's (log 5, log 6). -/
def Obligations.ResetMemoryIsCanonical : Prop :=
  State.reset.memOk = true

/-- In every state whose memories are in canonical form (addresses strictly rising, no entry equal to what an unlisted
address reads as), a step that answers a next state leaves them so, whichever command it runs: equal memories are
equal data. The form is the model's (log 5, log 6). -/
def Obligations.StepKeepsMemoryCanonical : Prop :=
  -- the step
  (∀ (s t : State),
    s.memOk = true →
    step s = .next t →
    t.memOk = true)

/-- For each command, the fields of the state outside a list fixed for it are unchanged wherever it answers a next
state; none changes the queue. -/
def Obligations.EveryCommandChangesOnlyItsFields : Prop :=
  (∀ (c : Instr) (s t : State), exec c s = .next t → Same (fields (mayChange c)) s t) ∧
  (∀ (c : Instr) (s t : State), exec c s = .next t → t.pending = s.pending)

/-- No command is ever refused, and exec stops only with deviceWindow: at a device-register write of a control core, the
leaving of a store-buffer entry, or the return of load data, and only at an offset of the window where the manual
describes no register (R220). Every other command answers a next state in every state. That such an access stops is the
model's reading. -/
def Obligations.OnlyUndescribedDevicesStop : Prop :=
  (∀ (c : Instr) (s : State) (x : Refusal), exec c s ≠ .refused x) ∧
  (∀ (c : Instr) (s : State) (f : Fault), exec c s = .fault f →
    (∃ off, f = .deviceWindow off ∧ deviceAt off = none) ∧
    ((∃ off size val, c = .registerWrite .dev off size val) ∨ (∃ core, c = .storeBufferEntryLeave core) ∨ ∃ r idx, c = .loadDataReturn r idx false)) ∧
  (∀ (c : Instr) (s : State),
    (∀ off size val, c ≠ .registerWrite .dev off size val) →
    (∀ core, c ≠ .storeBufferEntryLeave core) →
    (∀ r idx, c ≠ .loadDataReturn r idx false) →
    ∃ t : State, exec c s = .next t)

/-- After a write of a byte at a physical address, that address reads the byte and every other one as before, on this
node (in plain and in exposed units) and beyond it. A list of bytes written reads back at its addresses; a zero byte
leaves no entry in local memory. -/
def Obligations.MemoryReadsWhatWasWritten : Prop :=
  -- one byte
  (∀ (a k : Nat) (b : Byte) (s : State),
    s.memOk = true →
    a.testBit 54 = false →
    k.testBit 54 = false →
    (s.writePa a b).readPa k = if k = a then b else s.readPa k) ∧
  -- bytes written one after the other
  (∀ (l : List (Nat × Byte)) (k : Nat) (s : State),
    s.memOk = true →
    k.testBit 54 = false →
    (∀ x ∈ l, x.1.testBit 54 = false) →
    (s.writeCells l).readPa k = ((l.reverse.find? (fun x => x.1 == k)).map (fun x => x.2)).getD (s.readPa k)) ∧
  -- the form is kept
  (∀ (a : Nat) (b : Byte) (s : State),
    s.memOk = true →
    (s.writePa a b).memOk = true) ∧
  -- a zero byte of a plain unit is not listed
  (∀ (a : Nat) (s : State),
    s.memOk = true →
    s.isLocal a = true →
    s.unitKind (paOff a / 2 ^ 32) ≠ 2 →
    ∀ c ∈ (s.writePa a 0).mem, c.1 ≠ paOff a)

/-- The word of every well-formed instruction, in all seven forms and with every operand at every value, decodes to it
for the chain that issues it. Every word that decodes to an instruction with an assigned operation has such an
encoding, which differs from it only in reserved bits. -/
def Obligations.InstructionWordsRoundTrip : Prop :=
  -- decode after encode
  (∀ (i : Instr) (r : ChainRef) (w : BitVec 64),
    i.wf = true →
    encodeRiku i = some (r, w) →
    decodeRiku r w = i) ∧
  -- encode after decode
  (∀ (r : ChainRef) (w : BitVec 64),
    decodeRiku r w ≠ .illegalEncoding r →
    ((decodeRiku r w).wf = true ∧ encodeRiku (decodeRiku r w) = some (r, usedBits w)))

/-- A word decodes to an illegal encoding exactly where its FORM is 7 to 15 or its OPC is not assigned in its form;
reserved bits make no difference. Words written out from the encoding tables decode to the instructions they stand
for. -/
def Obligations.InstructionWords : Prop :=
  -- illegal encodings
  (∀ (r : ChainRef) (w : BitVec 64),
    (decodeRiku r w = .illegalEncoding r ↔ assignedOpc (w.extractLsb' 0 4).toNat (w.extractLsb' 4 8).toNat = false)) ∧
  -- reserved bits
  (∀ (r : ChainRef) (w v : BitVec 64),
    usedBits w = usedBits v →
    decodeRiku r w = decodeRiku r v) ∧
  -- words of each form: isub.u8 sat v4, v1, u9; bfi; iaddi; stg.64 release na; ldu; bra.d; umul with an immediate;
  -- ucmp; mmul; s2u; fence; bar
  (∀ (r : ChainRef),
    (decodeRiku r 0x09C7030201047010 = .iaddIsub r true { vd := 4, va := 1, vb := 2, vc := 3, ty := 7, sat := true, ub := true, usel := 9 } ∧
    decodeRiku r 0x000003020104B130 = .bfeBfi r true { pred := 3, pneg := true, vd := 4, va := 1, vb := 2, vc := 3 } ∧
    decodeRiku r 0xFFFFFFFE01047001 = .viImmediate r .iaddi { vd := 4, va := 1, imm := 0xFFFFFFFE } ∧
    decodeRiku r 0xFFF0B585FF067012 = .stg r { vds := 6, voff := 0xFF, ubase := 5, ord := 2, buf := 5, size := 3, na := true, imm := 0xFFF0 } ∧
    decodeRiku r 0x0008200107037042 = .ldu r { vds := 3, voff := 7, ubase := 1, buf := 0, size := 2, imm := 8 } ∧
    decodeRiku r 0x000009FFFFFB2013 = .braD r { pred := 2, target := 0xFFFFFB, rpc := 9 } ∧
    decodeRiku r 0x0000000781057024 = .uArithmetic r .mul { ud := 5, ua := 1, useImm := true, imm := 7 } ∧
    decodeRiku r 0x0000000302117094 = .ucmp r { ud := 17, ua := 2, ub := 3 } ∧
    decodeRiku r 0x1F05040A09087015 = .mmul r { fmtA := 8, fmtB := 9, modeA := 2, modeB := 1, uaddr := 4, uaux := 5, rows := 31 } 0 ∧
    decodeRiku r 0x0000000B09007026 = .s2vS2u r true { ud := 9, sreg := 0x00B } ∧
    decodeRiku r 0x0003000000007086 = .fenceInstruction r { imm := 3 } ∧
    decodeRiku r 0x00050000000070A6 = .bar r { imm := 5 }))

/-- The canonical NaN is 0x7FC0_0000 in F32, 0x7FC0 in BF16, 0x7E00 in F16 and 0x7F in F8a and F8b. Rounding a NaN into
a format gives it; so do sums, products, fused products, special functions, minima of two NaNs and conversions of a
NaN operand of any payload. -/
def Obligations.CanonicalNaN : Prop :=
  -- the codes
  (∀ (n : Nat),
    (canonNaN fF32 = 0x7FC00000 ∧ canonNaN fBF16 = 0x7FC0 ∧ canonNaN fF16 = 0x7E00 ∧ canonNaN fF8a = 0x7F ∧ canonNaN fF8b = 0x7F)) ∧
  -- a result that is no number
  (∀ (ff : FFmt) (rd : Rnd) (op : SpecFn) (a b c : Nat),
    ff ∈ nanFormats →
    decodeFloat ff a = .nan →
    (fAdd ff rd a b = canonNaN ff ∧ fAdd ff rd b a = canonNaN ff ∧ fMul ff rd a b = canonNaN ff ∧ fMul ff rd b a = canonNaN ff ∧ fFma ff rd a b c = canonNaN ff ∧ fFma ff rd b a c = canonNaN ff ∧
    fFma ff rd b c a = canonNaN ff ∧ specialElem op ff a b c = canonNaN ff ∧ (decodeFloat ff b = .nan → ∀ m, fMinMax ff m a b = canonNaN ff))) ∧
  -- every rounding of a result that is no number, and every conversion of one
  (∀ (ff gg : FFmt) (src dst : Nat) (rd : Rnd) (a : Nat),
    ff ∈ nanFormats →
    typeFloat src = some gg →
    typeFloat dst = some ff →
    decodeFloat gg a = .nan →
    (roundIeee ff rd .nan = canonNaN ff ∧ cvtElem src dst rd a = canonNaN ff ∧ decodeFloat ff (canonNaN ff) = .nan))

/-- An atomg or atoml of any other SIZE than 2 and 3 raises ILLEGAL; with these it raises no ILLEGAL. Minimum and
maximum compare as two's-complement signed integers of the access's width. -/
def Obligations.AtomicSizes : Prop :=
  -- any other size
  (∀ (r : ChainRef) (op : AtomOp) (i : MemI) (c : Chain) (s : State),
    s.chain? r.core.val r.slot.val = some c →
    s.mayIssue r.core.val c = true →
    s.pcOk r.core.val c = true →
    c.loads = [] →
    c.lanesOf i.pred i.pneg ≠ 0 →
    i.size ≠ 2 →
    i.size ≠ 3 →
    (exec (.atomg r op i) s = .next (raised s r c { cause := 1, lanes := c.lanesOf i.pred i.pneg }) ∧
    exec (.atoml r op i) s = .next (raised s r c { cause := 1, lanes := c.lanesOf i.pred i.pneg }))) ∧
  -- with 32 or 64 bits a local atomic is performed, at places that are in order
  (∀ (r : ChainRef) (op : AtomOp) (i : MemI) (c : Chain) (s : State),
    accesses s r c i (atomRegs op i.vds.toNat i.size.toNat) [] →
    i.size = 2 ∨ i.size = 3 →
    localOk s r c i (memBytes i) →
    s.markOk r.core.val r.slot.val c i 1 = true →
    c.settled = true →
    exec (.atoml r op i) s = .next ((lanes (by_ c i)).foldl (fun u l => u.localAtom r op i c (localAt s r c i l) l) (retire s r c (stepped c)))) ∧
  -- and a global one enters the store buffer, one entry for each line, each thread's operation in the entry of its line
  (∀ (r : ChainRef) (op : AtomOp) (i : MemI) (c : Chain) (s : State),
    accesses s r c i (atomRegs op i.vds.toNat i.size.toNat) [] →
    i.size = 2 ∨ i.size = 3 →
    globalOk s r c i.buf.toNat (by_ c i) (offOf c i) (memBytes i) true →
    noDevice s r c i →
    hostAtomOk op = true ∨ (∀ x ∈ placesOf s r c i, isHostPa x.2 = false) →
    (s.core r.core.val).sb.length + (linesOf s r c i).length ≤ 64 →
    (∀ x ∈ placesOf s r c i, c.loading x.2 (memBytes i) = false) →
    s.markOk r.core.val r.slot.val c i (s.maxScope ((placesOf s r c i).map (fun x => x.2))) = true →
    c.settled = true →
    ∃ t es, exec (.atomg r op i) s = .next t ∧ (t.core r.core.val).sb = (s.core r.core.val).sb ++ es ∧ es.length = (linesOf s r c i).length ∧
    ∀ e ∈ es, e.data = [] ∧ (∀ x ∈ e.atoms, x.op = op ∧ x.size = i.size.toNat) ∧
      ∃ l ∈ linesOf s r c i, e.atoms.map (fun x => (x.lane, x.addr)) = (placesOf s r c i).filter (fun x => x.2 / 128 == l)) ∧
  -- the order
  (∀ (w old v p : Nat),
    w = 32 ∨ w = 64 →
    old < 2 ^ w →
    v < 2 ^ w →
    ((BitVec.ofNat w (atomNew .min w old v p)).toInt = min (BitVec.ofNat w old).toInt (BitVec.ofNat w v).toInt ∧ (BitVec.ofNat w (atomNew .max w old v p)).toInt = max (BitVec.ofNat w old).toInt (BitVec.ofNat w v).toInt))

/-- Whichever instruction with a legal encoding names a v register at or above the chain's VREGS other than vz, as an
operand, as a destination, or among the consecutive registers of a wide access, it raises REG_RANGE once it issues
and some thread executes it. -/
def Obligations.RegistersBeyondTheAllocation : Prop :=
  -- every instruction that names v registers
  (∀ (x : Instr) (r : ChainRef) (pred : Fin 8) (neg : Bool) (l : List (BitVec 8)) (v : BitVec 8) (c : Chain) (s : State),
    namesV x = some (r, pred, neg, l) →
    s.chain? r.core.val r.slot.val = some c →
    s.mayIssue r.core.val c = true →
    s.pcOk r.core.val c = true →
    c.loads = [] →
    c.lanesOf pred neg ≠ 0 →
    forChain x = false ∨ c.lanesOf pred neg = c.active →
    v ∈ l →
    v ≠ 255 →
    c.vregs ≤ v.toNat →
    exec x s = .next (raised s r c { cause := 2, lanes := c.lanesOf pred neg }))

/-- A doorbell moves SQ_TAIL: an unbound queue in ring mode asks for its descriptors at SQ_BASE + 64 × (count mod 2^SQ_LOG2),
translated by ATS, where ATS grants them; one that it has not answered is asked for there, one that it refuses stops the queue
with code 3. A tail farther from SQ_HEAD than the ring is long stops the queue with code 1. A push-slot write lands in the
slot or, in a slot the Gate owns, is dropped and counted. A fetched descriptor is kept; a fetch answered with an error stops
the queue with code 3. -/
def Obligations.DoorbellAndDescriptors : Prop :=
  -- a doorbell of an unbound ring-mode queue asks for the descriptors up to the tail
  (∀ (fn : Fin 513) (q : Fin 64) (tail : W32) (s : State),
    takesQueue s fn.val q.val →
    (s.queue fn.val q.val).open = true →
    tail ≠ (s.queue fn.val q.val).sqTail →
    (tail - (s.queue fn.val q.val).sqHead).toNat ≤ (s.queue fn.val q.val).ringSize →
    (s.queue fn.val q.val).ctx = 0xFFFF →
    (s.queue fn.val q.val).isPush = false →
    tail ≠ (s.queue fn.val q.val).asked →
    (∀ k, k < (tail - (s.queue fn.val q.val).asked).toNat →
      s.ringAt fn.val (ringIo (s.queue fn.val q.val) ((s.queue fn.val q.val).asked + BitVec.ofNat 32 k)) false = .ok) →
    ∃ t : State, exec (.doorbell fn q tail) s = .next t ∧
    t = (s.updQueue fn.val q.val (fun r => { r with sqTail := tail, asked := tail })).emit (.fetch fn.val q.val
      ((List.range (tail - (s.queue fn.val q.val).asked).toNat).map (fun k =>
        s.hostAddr fn.val (ringIo (s.queue fn.val q.val) ((s.queue fn.val q.val).asked + BitVec.ofNat 32 k)))))) ∧
  -- a descriptor whose address ATS has not answered, or refuses
  (∀ (fn : Fin 513) (q : Fin 64) (tail : W32) (s : State),
    takesQueue s fn.val q.val →
    (s.queue fn.val q.val).open = true →
    tail ≠ (s.queue fn.val q.val).sqTail →
    (tail - (s.queue fn.val q.val).sqHead).toNat ≤ (s.queue fn.val q.val).ringSize →
    (s.queue fn.val q.val).ctx = 0xFFFF →
    (s.queue fn.val q.val).isPush = false →
    tail ≠ (s.queue fn.val q.val).asked →
    ((∀ io, s.ringAt fn.val (ringIo (s.queue fn.val q.val) (s.queue fn.val q.val).asked) false = .ask io →
      exec (.doorbell fn q tail) s = .next ((s.updQueue fn.val q.val (fun r => { r with sqTail := tail })).emit (.atsRequest fn.val io))) ∧
    (s.ringAt fn.val (ringIo (s.queue fn.val q.val) (s.queue fn.val q.val).asked) false = .refused →
      exec (.doorbell fn q tail) s = .next ((s.updQueue fn.val q.val (fun r => { r with sqTail := tail })).stopQueue fn.val q.val 3)))) ∧
  -- in push mode the descriptors are in the slots already
  (∀ (fn : Fin 513) (q : Fin 64) (tail : W32) (s : State),
    takesQueue s fn.val q.val →
    (s.queue fn.val q.val).open = true →
    tail ≠ (s.queue fn.val q.val).sqTail →
    (tail - (s.queue fn.val q.val).sqHead).toNat ≤ 16 →
    (s.queue fn.val q.val).ctx = 0xFFFF →
    (s.queue fn.val q.val).isPush = true →
    exec (.doorbell fn q tail) s = .next (s.updQueue fn.val q.val (fun r => { r with sqTail := tail }))) ∧
  -- a tail beyond the ring stops the queue with code 1
  (∀ (fn : Fin 513) (q : Fin 64) (tail : W32) (s : State),
    takesQueue s fn.val q.val →
    (s.queue fn.val q.val).open = true →
    tail ≠ (s.queue fn.val q.val).sqTail →
    (s.queue fn.val q.val).ringSize < (tail - (s.queue fn.val q.val).sqHead).toNat →
    exec (.doorbell fn q tail) s = .next ((s.updQueue fn.val q.val (fun r => { r with
      sqTail := tail, draining := true, fetched := [], dbPending := false })).stopQueue fn.val q.val 1)) ∧
  -- a doorbell of a queue that is not open, or with the tail it has, has no effect
  (∀ (fn : Fin 513) (q : Fin 64) (tail : W32) (s : State),
    s.running = true →
    (s.queue fn.val q.val).open = false ∨ tail = (s.queue fn.val q.val).sqTail →
    exec (.doorbell fn q tail) s = .next s) ∧
  -- a push-slot write
  (∀ (fn : Fin 513) (q : Fin 64) (off len : Nat) (data : Desc) (s : State),
    takesQueue s fn.val q.val →
    pushAccessOk off len = true →
    ¬((s.queue fn.val q.val).isPush = true ∧ (s.queue fn.val q.val).ownsSlot (off / 64) = true) →
    exec (.pushSlotWrite fn q off len data) s = .next (s.updQueue fn.val q.val (fun r => { r with
      push := tset r.push (off / 64) (slotPut (tget r.push (off / 64) 0) (off % 64) len data) }))) ∧
  -- a write to a slot that the Gate owns is dropped and counted
  (∀ (fn : Fin 513) (q : Fin 64) (off len : Nat) (data : Desc) (s : State),
    takesQueue s fn.val q.val →
    pushAccessOk off len = true →
    (s.queue fn.val q.val).isPush = true →
    (s.queue fn.val q.val).ownsSlot (off / 64) = true →
    exec (.pushSlotWrite fn q off len data) s = .next (s.updQueue fn.val q.val (fun r => { r with
      pushDrop := min (r.pushDrop + 1) 0xFFFF }))) ∧
  -- a descriptor that lies before the tail arrives
  (∀ (fn : Fin 513) (q : Fin 64) (count : W32) (desc : Desc) (s : State),
    (s.queue fn.val q.val).open = true →
    (s.queue fn.val q.val).isPush = false →
    (s.fn fn.val).resetting = false →
    (count - (s.queue fn.val q.val).sqHead).toNat < ((s.queue fn.val q.val).sqTail - (s.queue fn.val q.val).sqHead).toNat →
    exec (.descriptorFetchResponse fn q count desc) s =
      .next (s.updQueue fn.val q.val (fun r => { r with fetched := tset r.fetched count.toNat desc }))) ∧
  -- a descriptor fetch is answered with an error
  (∀ (fn : Fin 513) (q : Fin 64) (s : State),
    (s.queue fn.val q.val).open = true →
    (s.queue fn.val q.val).isPush = false →
    (s.fn fn.val).resetting = false →
    (s.queue fn.val q.val).sqTail ≠ (s.queue fn.val q.val).sqHead →
    exec (.ringFetchError fn q) s = .next (s.stopQueue fn.val q.val 3))

/-- VER_SELECT takes 0x0100 while the function has no context, and nothing else. A function reset of a function without
contexts and commands sets RESETTING, clears READY and drops staged records; a request during a reset is absorbed; its end
clears the queue blocks, the event and error queues and VER_SELECT and increments FN_GEN. While the block does not run a
host write is answered with an error. -/
def Obligations.VersionsAndFunctionReset : Prop :=
  -- the listed version
  (∀ (fn : Fin 513) (val : W16) (s : State),
    s.fnTakes fn.val = true →
    s.fnCtxs fn.val = [] →
    val = 0x0100 →
    exec (.verSelectWrite fn val) s = .next (s.updFn fn.val (fun r => { r with verSelect := val }))) ∧
  -- another value, or a function that has a context
  (∀ (fn : Fin 513) (val : W16) (s : State),
    s.running = true →
    val ≠ 0x0100 ∨ s.fnCtxs fn.val ≠ [] →
    exec (.verSelectWrite fn val) s = .next s) ∧
  -- while the block does not run, host writes are answered with an error
  (∀ (fn : Fin 513) (val : W16) (s : State),
    s.running = false →
    s.fnTakes fn.val = false →
    (exec (.verSelectWrite fn val) s = .next (s.emit (.hostError fn.val)) ∧ exec (.functionReset fn) s = .next (s.emit (.hostError fn.val)))) ∧
  -- the reset of a function without contexts and commands starts
  (∀ (fn : Fin 513) (s : State),
    s.running = true →
    s.fnPresent fn.val = true →
    (s.fn fn.val).ready = true →
    (s.fn fn.val).resetting = false →
    s.fnCtxs fn.val = [] →
    s.cmds.filter (fun c => c.fn == fn.val && c.stage.isNone) = [] →
    fn ≠ 0 →
    exec (.functionReset fn) s = .next (s.updFn fn.val (fun r => { r with
      resetting := true, ready := false, evq := { r.evq with staged := [] }, erq := { r.erq with staged := [] } }))) ∧
  -- a Function Level Reset does the same, whether or not the function is ready
  (∀ (fn : Fin 513) (s : State),
    s.fnPresent fn.val = true →
    (s.fn fn.val).resetting = false →
    s.fnCtxs fn.val = [] →
    s.cmds.filter (fun c => c.fn == fn.val && c.stage.isNone) = [] →
    fn ≠ 0 →
    exec (.flrReport fn) s = .next (s.updFn fn.val (fun r => { r with
      resetting := true, ready := false, evq := { r.evq with staged := [] }, erq := { r.erq with staged := [] } }))) ∧
  -- a request during a reset is absorbed
  (∀ (fn : Fin 513) (s : State),
    s.running = true →
    (s.fn fn.val).resetting = true →
    (exec (.functionReset fn) s = .next s ∧ exec (.flrReport fn) s = .next s)) ∧
  -- the reset ends
  (∀ (fn : Fin 513) (s : State),
    (s.fn fn.val).resetting = true →
    ∃ t : State, exec (.functionResetEnd fn) s = .next t ∧ (t.fn fn.val).resetting = false ∧ (t.fn fn.val).gen = (s.fn fn.val).gen + 1 ∧
    (t.fn fn.val).verSelect = 0 ∧ (t.fn fn.val).queues = [] ∧ (t.fn fn.val).noticeMask = 0 ∧
    (t.fn fn.val).evq.enabled = false ∧ (t.fn fn.val).erq.enabled = false ∧ Same (fields [.fns, .store]) s t)

/-- A write of Q_CTRL with ENABLE = 1 to a disabled queue takes the configuration bits; where the checks hold, the queue
is enabled with its ring counters and error state cleared, and otherwise it stops with code 2. On an enabled queue
only ENABLE counts. A write with ENABLE = 0 starts the drain; the drain ends when no command and no completion record that
is owed remains. Q_ABORT of a queue without commands changes nothing; it completes the one command of a queue, where that is
not yet dispatched, with ABORTED. -/
def Obligations.QueueEnableDisable : Prop :=
  -- the enable of a disabled queue with no bound context, where the checks hold on the configuration written
  (∀ (fn : Fin 513) (q : Fin 64) (ctrl : W64) (s : State),
    takesQueue s fn.val q.val →
    (s.queue fn.val q.val).enabled = false →
    (s.queue fn.val q.val).ctx = 0xFFFF →
    s.ctxLive 0xFFFF = false →
    (s.updQueue fn.val q.val (fun r => { r with ctrl := (ctrl &&& 0x1F1F1F) ||| 1 })).enableOk fn.val q.val = true →
    exec (.queueEnable fn q ctrl) s = .next (s.updQueue fn.val q.val (fun r => { r with
      ctrl := (ctrl &&& 0x1F1F1F) ||| 1, enabled := true, stopped := false, errCode := 0, ctxGone := false, sqHead := 0,
      sqTail := 0, cqHead := 0, cqTail := 0, fetched := [], asked := 0, draining := false, heldEnable := false, notWritten := 0,
      stopDue := false, wrOpen := false, dbPending := false, active := false }))) ∧
  -- where a check fails the queue stops with code 2
  (∀ (fn : Fin 513) (q : Fin 64) (ctrl : W64) (s : State),
    takesQueue s fn.val q.val →
    (s.queue fn.val q.val).enabled = false →
    (s.updQueue fn.val q.val (fun r => { r with ctrl := (ctrl &&& 0x1F1F1F) ||| 1 })).enableOk fn.val q.val = false →
    exec (.queueEnable fn q ctrl) s = .next ((s.updQueue fn.val q.val (fun r => { r with
      ctrl := (ctrl &&& 0x1F1F1F) ||| 1 })).stopQueue fn.val q.val 2)) ∧
  -- on an enabled queue only the bit itself is written; during the drain the enable is held
  (∀ (fn : Fin 513) (q : Fin 64) (ctrl : W64) (s : State),
    takesQueue s fn.val q.val →
    (s.queue fn.val q.val).enabled = true →
    exec (.queueEnable fn q ctrl) s = .next (s.updQueue fn.val q.val (fun r => { r with
      ctrl := r.ctrl ||| 1, heldEnable := r.heldEnable || r.draining }))) ∧
  -- the disable of an enabled queue starts the drain; a held enable is withdrawn
  (∀ (fn : Fin 513) (q : Fin 64) (ctrl : W64) (s : State),
    takesQueue s fn.val q.val →
    (s.queue fn.val q.val).enabled = true →
    exec (.queueDisable fn q ctrl) s = .next (s.updQueue fn.val q.val (fun r => { r with
      ctrl := r.ctrl &&& ~~~1, draining := true, heldEnable := false, fetched := [], dbPending := false }))) ∧
  -- on a disabled queue the configuration bits are written
  (∀ (fn : Fin 513) (q : Fin 64) (ctrl : W64) (s : State),
    takesQueue s fn.val q.val →
    (s.queue fn.val q.val).enabled = false →
    exec (.queueDisable fn q ctrl) s = .next (s.updQueue fn.val q.val (fun r => { r with
      ctrl := ctrl &&& 0x1F1F1F &&& ~~~1, heldEnable := false }))) ∧
  -- the drain ends when every accepted command has completed
  (∀ (fn : Fin 513) (q : Fin 64) (s : State),
    (s.queue fn.val q.val).enabled = true →
    (s.queue fn.val q.val).draining = true →
    (s.queue fn.val q.val).heldEnable = false →
    s.queueCmds fn.val q.val = [] →
    (s.queue fn.val q.val).order = [] →
    ∃ t : State, exec (.queueDrainEnd fn q) s = .next t ∧ (t.queue fn.val q.val).enabled = false ∧ (t.queue fn.val q.val).draining = false ∧
    (t.queue fn.val q.val).ctrl = (s.queue fn.val q.val).ctrl ∧ Same (fields [.fns, .store, .tlb]) s t) ∧
  -- the drain has not ended
  (∀ (fn : Fin 513) (q : Fin 64) (s : State),
    s.queueCmds fn.val q.val ≠ [] ∨ (s.queue fn.val q.val).order ≠ [] →
    exec (.queueDrainEnd fn q) s = .next s) ∧
  -- an abort of a queue without commands
  (∀ (fn : Fin 513) (q : Fin 64) (s : State),
    s.running = true →
    s.queueCmds fn.val q.val = [] →
    exec (.qAbort fn q) s = .next s) ∧
  -- an abort completes the one command of a queue, not yet dispatched, with ABORTED
  (∀ (fn : Fin 513) (q : Fin 64) (c : Cmd) (s : State),
    takesQueue s fn.val q.val →
    s.queueCmds fn.val q.val = [c] →
    s.cmd? c.cid = some c →
    c.ctx = 0xFFFF →
    c.phase = .ready →
    exec (.qAbort fn q) s = .next (s.killCmd c.cid 0x10 none))

/-- A write of EVQ_CFG or ERQ_CFG with ENABLE = 1 enables the queue with cleared counts and an armed vector, or sets
CFG_ERR where base or size is bad; with ENABLE = 0 it disables it, and staged records count as lost. A head write
re-arms the vector, and where records remain sends it. A failed record write gives its slots back and counts the records as
lost; that it leaves the vector armed is the model's reading (log 7). A destination with room that ATS lets it write takes
its oldest staged record, and with none staged a LOST record. -/
def Obligations.EventAndErrorQueues : Prop :=
  -- the enable of a disabled queue with a base and a size in range
  (∀ (fn : Fin 513) (err : Bool) (cfg : W64) (s : State),
    s.fnTakes fn.val = true →
    (s.recq (eqDest fn.val err)).enabled = false →
    (s.recq (eqDest fn.val err)).base ≠ 0 →
    4 ≤ cfg.toNat % 32 →
    cfg.toNat % 32 ≤ 16 →
    err = false ∨ fn ≠ 0 →
    exec (.eventQueueEnable fn err cfg) s = .next (s.updRecq (eqDest fn.val err) (fun q => { q with
      log2 := cfg.toNat % 32, cfgEnable := true, enabled := true, head := 0, tail := 0, armed := true, staged := [], loss := 0, wrOpen := 0,
      vecOpen := false }))) ∧
  -- with no base or a size out of range, CFG_ERR
  (∀ (fn : Fin 513) (err : Bool) (cfg : W64) (s : State),
    s.fnTakes fn.val = true →
    (s.recq (eqDest fn.val err)).enabled = false →
    (s.recq (eqDest fn.val err)).base = 0 ∨ cfg.toNat % 32 < 4 ∨ 16 < cfg.toNat % 32 →
    err = false ∨ fn ≠ 0 →
    exec (.eventQueueEnable fn err cfg) s = .next (s.updRecq (eqDest fn.val err) (fun q => { q with
      log2 := cfg.toNat % 32, cfgEnable := true, cfgErr := true }))) ∧
  -- the disable; staged records are lost
  (∀ (fn : Fin 513) (err : Bool) (cfg : W64) (s : State),
    s.fnTakes fn.val = true →
    (s.recq (eqDest fn.val err)).enabled = true →
    err = false ∨ fn ≠ 0 →
    exec (.eventQueueDisable fn err cfg) s = .next (s.updRecq (eqDest fn.val err) (fun q => { q with
      cfgEnable := false, enabled := false, staged := [], loss := 0, armed := false, wrOpen := 0, vecOpen := false,
      lost := q.lost + (q.staged.map (fun r => r.words.length)).sum,
      lostTotal := min (q.lostTotal + (q.staged.map (fun r => r.words.length)).sum) 0xFFFFFFFF }))) ∧
  -- the head is written and the vector armed; no record remains
  (∀ (fn : Fin 513) (err : Bool) (val : W32) (s : State),
    s.fnTakes fn.val = true →
    (s.recq (eqDest fn.val err)).tail = val →
    exec (.eventQueueHeadWrite fn err val) s =
      .next (s.updRecq (eqDest fn.val err) (fun q => { q with head := val, armed := true }))) ∧
  -- records remain in an event queue: vector 0 is sent and disarmed
  (∀ (fn : Fin 513) (val : W32) (s : State),
    s.fnTakes fn.val = true →
    (s.fn fn.val).evq.tail ≠ val →
    ∃ t : State, exec (.eventQueueHeadWrite fn false val) s = .next t ∧ (t.fn fn.val).evq.head = val ∧ (t.fn fn.val).evq.armed = false ∧
    t.out = .msix fn.val 0 :: s.out ∧ Same (fields [.fns, .out]) s t) ∧
  -- the newest record write of an enabled queue fails
  (∀ (fn : Fin 513) (err : Bool) (s : State),
    (s.recq (eqDest fn.val err)).wrOpen ≠ 0 →
    (s.recq (eqDest fn.val err)).enabled = true →
    ∃ t : State, exec (.recordWriteError fn err) s = .next t ∧
    (t.recq (eqDest fn.val err)).tail = (s.recq (eqDest fn.val err)).tail - BitVec.ofNat 32 (s.recq (eqDest fn.val err)).wrOpen ∧
    (t.recq (eqDest fn.val err)).lost = (s.recq (eqDest fn.val err)).lost + (s.recq (eqDest fn.val err)).wrOpen ∧
    (t.recq (eqDest fn.val err)).loss = (s.recq (eqDest fn.val err)).loss + (s.recq (eqDest fn.val err)).wrOpen ∧
    (t.recq (eqDest fn.val err)).wrOpen = 0 ∧
    (t.recq (eqDest fn.val err)).armed = ((s.recq (eqDest fn.val err)).armed || (s.recq (eqDest fn.val err)).vecOpen) ∧
    Same (fields [.fns, .ext]) s t) ∧
  -- the oldest staged record is written once there is room
  (∀ (d : Dest) (r : Rec) (rest : List Rec) (s : State),
    destEnabled d (s.recq d) = true →
    (s.recq d).staged = r :: rest →
    destRoom d (s.recq d) r.words.length = true →
    s.destResetting d = false →
    s.recAsk d r.words.length = .ok →
    exec (.stagedRecordWrite d) s = .next ((s.updRecq d (fun q => { q with staged := rest })).writeRec d r)) ∧
  -- with none staged, the LOST record is written
  (∀ (d : Dest) (s : State),
    destEnabled d (s.recq d) = true →
    (s.recq d).staged = [] →
    (s.recq d).loss ≠ 0 →
    destRoom d (s.recq d) 1 = true →
    s.destResetting d = false →
    s.masksLost d = false →
    s.recAsk d 1 = .ok →
    exec (.stagedRecordWrite d) s = .next (((s.updRecq d (fun q => { q with loss := 0 })).evseqNext).writeRec d
      (s.lostRecord d (s.recq d).loss)))

/-- A 64-bit write to Q_CTX, Q_SCHED, Q_RESERVE, SQ_BASE or CQ_BASE of a disabled queue block sets the bits that the
register defines; to Q_CTX or SQ_BASE of an enabled one it has no effect, nor has a misaligned access below the queue
blocks. While the block does not run the host is answered with an error. TGT_MASK takes bit 0 from a control core; at an
offset of no described device the access stops with the deviceWindow fault (the manual gives no register there).
VF_STATUS.REFUSED is cleared by a 1; a changed context limit is a KOD write, and sets REFUSED where the dictionary
refuses it. SR-IOV enables and disables a VF. -/
def Obligations.RegisterWrites : Prop :=
  -- Q_CTX, Q_SCHED, Q_RESERVE, SQ_BASE and CQ_BASE of a disabled queue
  (∀ (fn : Fin 513) (q : Fin 64) (trust : Bool) (val : W64) (s : State),
    s.running = true →
    takesQueue s fn.val q.val →
    (s.queue fn.val q.val).enabled = false →
    (exec (.registerWrite (.bar0 fn trust) (0x2000 + 0x1000 * q.val + 0x008) 8 val) s =
      .next (s.updQueue fn.val q.val (fun r => { r with ctx := BitVec.ofNat 16 val.toNat })) ∧
   exec (.registerWrite (.bar0 fn trust) (0x2000 + 0x1000 * q.val + 0x010) 8 val) s =
      .next (s.updQueue fn.val q.val (fun r => { r with sched := BitVec.ofNat 64 (val.toNat % 2 ^ 24) })) ∧
   exec (.registerWrite (.bar0 fn trust) (0x2000 + 0x1000 * q.val + 0x018) 8 val) s =
      .next (s.updQueue fn.val q.val (fun r => { r with reserve := BitVec.ofNat 64 (val.toNat % 2 ^ 32) })) ∧
   exec (.registerWrite (.bar0 fn trust) (0x2000 + 0x1000 * q.val + 0x020) 8 val) s =
      .next (s.updQueue fn.val q.val (fun r => { r with sqBase := BitVec.ofNat 64 (val.toNat / 64 * 64) })) ∧
   exec (.registerWrite (.bar0 fn trust) (0x2000 + 0x1000 * q.val + 0x038) 8 val) s =
      .next (s.updQueue fn.val q.val (fun r => { r with cqBase := BitVec.ofNat 64 (val.toNat / 64 * 64) })))) ∧
  -- of an enabled queue
  (∀ (fn : Fin 513) (q : Fin 64) (trust : Bool) (val : W64) (s : State),
    s.running = true →
    takesQueue s fn.val q.val →
    (s.queue fn.val q.val).enabled = true →
    (exec (.registerWrite (.bar0 fn trust) (0x2000 + 0x1000 * q.val + 0x008) 8 val) s = .next s ∧
   exec (.registerWrite (.bar0 fn trust) (0x2000 + 0x1000 * q.val + 0x020) 8 val) s = .next s)) ∧
  -- an access that is not naturally aligned, outside the push slots
  (∀ (fn : Fin 513) (trust : Bool) (off size : Nat) (val : W64) (s : State),
    s.running = true →
    off < 0x2000 →
    accessOk off size = false →
    exec (.registerWrite (.bar0 fn trust) off size val) s = .next s) ∧
  -- while the block does not run the host gets an error response
  (∀ (fn : Fin 513) (trust : Bool) (off size : Nat) (val : W64) (s : State),
    off < 0x2000 →
    s.running = false →
    exec (.registerWrite (.bar0 fn trust) off size val) s = .next (s.emit (.hostError fn.val))) ∧
  -- TGT_MASK of a target, from a control core
  (∀ (t : Fin 4) (val : W64) (s : State),
    exec (.registerWrite .dev (0x2003018 + 0x100 * t.val) 8 val) s =
      .next (s.updTgt t.val (fun x => { x with mask := val.getLsbD 0 }))) ∧
  -- no device of the manual
  (∀ (off size : Nat) (val : W64) (s : State),
    off < 0x1000000 ∨ (0x1100000 ≤ off ∧ off < 0x2000000) ∨ 0x2010000 ≤ off →
    exec (.registerWrite .dev off size val) s = .fault (.deviceWindow off)) ∧
  -- VF_STATUS.REFUSED is cleared by a 1
  (∀ (vf : Fin 513) (val : W64) (s : State),
    vf.val ≠ 0 →
    s.running = true →
    s.fnTakes 0 = true →
    val.getLsbD 1 = true →
    exec (.vfManagementWrite vf 0x020 8 val) s = .next (s.updFn vf.val (fun r => { r with refused := false }))) ∧
  -- a new context limit that the dictionary does not refuse is written as a KOD write
  (∀ (vf : Fin 513) (val : W64) (s : State),
    vf.val ≠ 0 →
    s.running = true →
    s.fnTakes 0 = true →
    val.toNat % 2 ^ 16 ≠ s.fnKod vf.val 7 % 2 ^ 16 →
    val.toNat / 2 ^ 32 % 2 ^ 32 = s.fnKod vf.val 8 % 2 ^ 32 →
    s.kodErr true (vfReq vf.val 7 (val.toNat % 2 ^ 16)) = none →
    exec (.vfManagementWrite vf 0x018 8 val) s = .next (s.kodWriteReq 6 0 (vfReq vf.val 7 (val.toNat % 2 ^ 16))).1) ∧
  -- a new context limit that it refuses sets REFUSED
  (∀ (vf : Fin 513) (val : W64) (s : State),
    vf.val ≠ 0 →
    s.running = true →
    s.fnTakes 0 = true →
    val.toNat % 2 ^ 16 ≠ s.fnKod vf.val 7 % 2 ^ 16 →
    val.toNat / 2 ^ 32 % 2 ^ 32 = s.fnKod vf.val 8 % 2 ^ 32 →
    (s.kodErr true (vfReq vf.val 7 (val.toNat % 2 ^ 16))).isSome = true →
    exec (.vfManagementWrite vf 0x018 8 val) s = .next ((s.kodWriteReq 6 0 (vfReq vf.val 7 (val.toNat % 2 ^ 16))).1.updFn vf.val
      (fun r => { r with refused := true }))) ∧
  -- SR-IOV enables or disables a VF
  (∀ (vf : Fin 513) (on : Bool) (s : State),
    vf.val ≠ 0 →
    exec (.vfEnableChange vf on) s = .next (s.updFn vf.val (fun r => { r with sriov := on })))

/-- The Gate accepts the command at SQ_HEAD of an open queue: it takes the next submission sequence number, SQ_HEAD
advances by the descriptor it takes, and it is validated; one of class 0 that its reservation does not admit is held until
a RESERVATION_ADMIT. A command whose validation succeeds is ready with its pieces, one whose validation fails completes
with the deciding status. A wanted context is loaded while fewer than 1,024 are resident. A translation answer enters the
ATS cache, and a migration copy moves its page into device state. -/
def Obligations.CommandAcceptance : Prop :=
  -- a ring-mode command of one descriptor, class 1 to 3, on a queue without a bound context
  (∀ (fn : Fin 513) (q : Fin 64) (d0 : Desc) (s : State),
    (s.queue fn.val q.val).open = true →
    s.fnTakes fn.val = true →
    s.cqRoom fn.val q.val = true →
    (s.queue fn.val q.val).ctx = 0xFFFF →
    s.ctxLive 0xFFFF = false →
    (s.queue fn.val q.val).nextCmd = some (d0, 0, 1) →
    (s.queue fn.val q.val).cls ≠ 0 →
    exec (.commandAccept fn q) s = .next ((({ s with
      cmds := s.cmds ++ [{ cid := s.nextCid, fn := fn.val, q := q.val, ssn := (s.queue fn.val q.val).ssn.toNat, ctx := 0xFFFF,
                           hide := (s.fnHide fn.val).getD 0, cls := (s.queue fn.val q.val).cls, d0 := d0, d1 := 0, phase := .held,
                           accAt := s.btime.toNat }],
      nextCid := s.nextCid + 1 } : State).updQueue fn.val q.val (fun r => { r with
        ssn := nextSsn r.ssn, sqHead := r.sqHead + 1, fetched := terase (terase r.fetched r.sqHead.toNat) r.sqHead.toNat })).applyVal
      s.nextCid)) ∧
  -- a class-0 command that the reservation does not admit is held
  (∀ (fn : Fin 513) (q : Fin 64) (d0 : Desc) (s : State),
    (s.queue fn.val q.val).open = true →
    s.fnTakes fn.val = true →
    s.cqRoom fn.val q.val = true →
    (s.queue fn.val q.val).ctx = 0xFFFF →
    s.ctxLive 0xFFFF = false →
    (s.queue fn.val q.val).nextCmd = some (d0, 0, 1) →
    (s.queue fn.val q.val).cls = 0 →
    s.windowOpen fn.val q.val = false →
    ∃ t : State, exec (.commandAccept fn q) s = .next t ∧ (t.queue fn.val q.val).sqHead = (s.queue fn.val q.val).sqHead + 1 ∧
    (t.queue fn.val q.val).ssn = nextSsn (s.queue fn.val q.val).ssn ∧ t.nextCid = s.nextCid + 1 ∧
    (∃ c, t.cmds = s.cmds ++ [c] ∧ c.cid = s.nextCid ∧ c.phase = .held ∧ c.d0 = d0) ∧ Same (fields [.fns, .cmds, .nextCid]) s t) ∧
  -- a validation that succeeds: the command is ready, with its pieces and side records
  (∀ (cid : Nat) (c : Cmd) (v : Val) (s : State),
    s.cmd? cid = some c →
    s.cmdParked c = false →
    s.validate c = .ok v →
    s.shakeCovers c.ctx (fun rs => v.pieces.any (pieceIn rs)) = false →
    (s.applyVal cid).cmd? cid = some { c with phase := .ready, marked := false, pieces := v.pieces, ext := v.ext, arg := v.arg, buftab := v.buftab }) ∧
  -- one that fails
  (∀ (cid st : Nat) (e : ErrInfo) (c : Cmd) (s : State),
    s.cmd? cid = some c →
    s.cmdParked c = false →
    s.validate c = .bad st e →
    s.applyVal cid = s.complete cid st (some e)) ∧
  -- a queue that is not open, has no command, or has no room for its completion record
  (∀ (fn : Fin 513) (q : Fin 64) (s : State),
    (s.queue fn.val q.val).open = false ∨ (s.queue fn.val q.val).nextCmd = none ∨ s.cqRoom fn.val q.val = false →
    exec (.commandAccept fn q) s = .next s) ∧
  -- the window admits the oldest held command, which takes a place and is validated
  (∀ (fn : Fin 513) (q : Fin 64) (c : Cmd) (rest : List Cmd) (s : State),
    s.heldCmds fn.val q.val = c :: rest →
    s.windowOpen fn.val q.val = true →
    exec (.reservationAdmit fn q) s = .next ((s.updQueue fn.val q.val (fun r => { r with
      admits := s.btime.toNat :: r.admits.filter (fun t => decide (s.btime.toNat < t + 1000 * r.window)) })).applyVal c.cid)) ∧
  -- a wanted context is loaded, where no queue of it waits with a doorbell
  (∀ (ctx : Fin 16384) (s : State),
    s.ctxLive ctx.val = true →
    (s.ctx ctx.val).resident = false →
    s.ctxCmds ctx.val ≠ [] →
    s.residents.length < 1024 →
    (s.fn (s.ctx ctx.val).fn).queues.filter (fun q => q.2.dbPending && q.2.ctx.toNat == ctx.val) = [] →
    exec (.contextLoad ctx) s = .next (s.load ctx.val)) ∧
  -- a context that is resident already
  (∀ (ctx : Fin 16384) (s : State),
    (s.ctx ctx.val).resident = true →
    exec (.contextLoad ctx) s = .next s) ∧
  -- a translation that nothing waits for enters the cache in place of what it overlaps
  (∀ (fn : Fin 513) (io : W64) (len : Nat) (ta : BitVec 55) (w : Bool) (s : State),
    s.fnCtxs fn.val = [] →
    s.cmds.all (fun c => c.phase == .ready) = true →
    (s.fn fn.val).queues = [] →
    (s.fn fn.val).evq.enabled = false →
    (s.fn fn.val).erq.enabled = false →
    exec (.atsTranslationCompletion fn io len ta true w) s = .next { s with
      ats := { fn := fn.val, io := io.toNat, len := len, ta := ta.toNat, r := true, w := w } :: (s.ats.filter (fun x =>
        !(x.fn == fn.val && decide (x.io < io.toNat + len) && decide (io.toNat < x.io + x.len)))).take 4095 }) ∧
  -- a host page whose copy has ended is in device state
  (∀ (ctx : Fin 16384) (va : BitVec 52) (d : Nat) (m : Mapping) (s : State),
    (s.ctx ctx.val).copying.find? (fun x => x.1 == va.toNat) = some (va.toNat, d) →
    s.mapAt ctx.val va.toNat = some m →
    s.cmds = [] →
    (s.ctx ctx.val).shakes = [] →
    exec (.migrationCopyDone ctx va) s = .next ((s.writeBytes (s.localPa d)
      (s.hostBytes (s.ctx ctx.val).fn (m.base + (va.toNat - m.va)) m.psize)).updCtx ctx.val (fun y => { y with
        copying := y.copying.filter (fun z => z.1 != va.toNat)
        maps := y.maps.flatMap (fun z => if z.va = m.va then splitPage m va.toNat d s.btime.toNat else [z]) })))

/-- The scheduler of a hide issues the head command of the queue it picks; of class 1 and class 3 it notes the queue for
its next turn. The command is then dispatched, stamped with block time and its context's generation. A NOP completes with
OK: where its queue owes no earlier record, its record is written at CQ_TAIL with SSN, phase, generation and block time,
CQ_TAIL advances and the command leaves. A report with the context generation completes a command that has ended with the
status decided for it; one with another generation is counted. A completion write that fails stops the queue with code 4.
CQ_HEAD takes the value written, and TIME microseconds after the first unsignalled record the vector is sent. -/
def Obligations.DispatchAndCompletion : Prop :=
  -- the picked command, already validated, enters its engine queue
  (∀ (h : Fin 8) (x : Nat × Nat) (c : Cmd) (s : State),
    (s.lookClass2 h.val).pickQueue h.val = some x →
    (s.lookClass2 h.val).headCmd x.1 x.2 = some c →
    (s.lookClass2 h.val).cmd? c.cid = some c →
    c.marked = false →
    c.phase = .ready →
    ((c.cls ≠ 1 ∧ c.cls ≠ 3 → exec (.commandDispatch h) s = .next ((s.lookClass2 h.val).enterQueue c)) ∧
    (c.cls = 1 → exec (.commandDispatch h) s = .next (((s.lookClass2 h.val).enterQueue c).updHide h.val (fun y => { y with
      rr1 := tset y.rr1 (tget y.table (s.spanNow h.val) 0 % 256) (x.1 * 64 + x.2) }))) ∧
    (c.cls = 3 → exec (.commandDispatch h) s = .next (((s.lookClass2 h.val).enterQueue c).updHide h.val (fun y => { y with
      rr3 := some (x.1 * 64 + x.2) }))))) ∧
  -- what a command is that has entered
  (∀ (c : Cmd) (s : State),
    s.cmd? c.cid = some c →
    ((s.enterQueue c).cmd? c.cid).map (fun k => (k.phase, k.dispAt, k.genAt, k.pieces)) = some (.dispatched, s.btime.toNat, s.genOf c.ctx, c.pieces)) ∧
  -- with no dispatchable queue nothing is issued
  (∀ (h : Fin 8) (s : State),
    (s.lookClass2 h.val).pickQueue h.val = none →
    exec (.commandDispatch h) s = .next (s.lookClass2 h.val)) ∧
  -- a NOP completes with OK
  (∀ (cid : Nat) (c : Cmd) (s : State),
    onRowIs s cid 0x00 c →
    exec (.nop cid) s = .next (s.complete cid 0 none)) ∧
  -- a completion with OK whose queue owes no earlier record, and may write its record
  (∀ (cid : Nat) (c : Cmd) (s : State),
    s.cmd? cid = some c →
    c.cid = cid →
    c.stage = none →
    (s.fn c.fn).resetting = false →
    (s.queue c.fn c.q).stopped = false →
    (s.queue c.fn c.q).stopDue = false →
    (s.queue c.fn c.q).cqInt = 0 →
    (s.queue c.fn c.q).order = [] →
    s.ringAt c.fn ((s.queue c.fn c.q).cqIo (s.queue c.fn c.q).cqTail) true = .ok →
    s.complete cid 0 none = ((((s.countCompletion c.ctx 0 0).dropCmd cid).unqueue cid c.hide).ringPut c.fn ((s.queue c.fn c.q).cqIo (s.queue c.fn c.q).cqTail)
      (leBytes 16 (cqWord c.ssn 0 (phaseOf (s.queue c.fn c.q).cqTail.toNat (s.queue c.fn c.q).cqLog2) (s.genOf c.ctx) s.btime.toNat false))).updQueue
        c.fn c.q (fun r => { r with cqTail := r.cqTail + 1, unsig := r.unsig + 1, wrOpen := true, order := [],
                                    unsigFrom := if r.unsig = 0 then s.btime.toNat else r.unsigFrom })) ∧
  -- the report of a Gate-tracked command that has ended and has no group left, with its context generation
  (∀ (cid : Nat) (gen : W16) (st : Byte) (c : Cmd) (s : State),
    s.cmd? cid = some c →
    c.phase = .ended →
    c.opcode ≠ 0x60 →
    c.ctx = 0xFFFF ∨ (gen.toNat = s.genOf c.ctx ∧ (s.ctx c.ctx).fenced = false) →
    s.cmdQuiet cid = true →
    c.stage = none →
    s.groups.all (fun g => g.cid != cid) = true →
    exec (.endOfCommandReport cid gen st) s = .next ((s.complete cid (c.status.getD 0) c.err).retime)) ∧
  -- a report with another generation only counts STALE_GEN
  (∀ (cid : Nat) (gen : W16) (st : Byte) (c : Cmd) (s : State),
    s.cmd? cid = some c →
    c.phase = .ended →
    c.opcode ≠ 0x60 →
    c.ctx ≠ 0xFFFF →
    gen.toNat ≠ s.genOf c.ctx →
    exec (.endOfCommandReport cid gen st) s = .next ((s.staleGen c.ctx).retime)) ∧
  -- the newest completion write fails
  (∀ (fn : Fin 513) (q : Fin 64) (s : State),
    (s.queue fn.val q.val).wrOpen = true →
    (s.queue fn.val q.val).cqStopped = false →
    (s.fn fn.val).resetting = false →
    exec (.cqWriteError fn q) s = .next (((s.forget (s.hostAddr fn.val ((s.queue fn.val q.val).cqIo ((s.queue fn.val q.val).cqTail - 1))) 16).updQueue fn.val q.val
      (fun r => { r with cqTail := (s.queue fn.val q.val).cqTail - 1, wrOpen := false, unsig := r.unsig - 1, notWritten := 1 })).stopQueue
        fn.val q.val 4)) ∧
  -- CQ_HEAD is written; unsignalled records start their time again
  (∀ (fn : Fin 513) (q : Fin 64) (val : W32) (s : State),
    takesQueue s fn.val q.val →
    exec (.completionHeadWrite fn q val) s = .next (s.updQueue fn.val q.val (fun r => { r with
      cqHead := val, unsigFrom := if r.unsig = 0 then r.unsigFrom else s.btime.toNat }))) ∧
  -- TIME microseconds have passed since the first unsignalled record
  (∀ (fn : Fin 513) (q : Fin 64) (s : State),
    (s.queue fn.val q.val).cqInt.extractLsb' 0 8 ≠ 0 →
    ((s.queue fn.val q.val).cqInt.extractLsb' 8 10).toNat ≠ 0 →
    (s.queue fn.val q.val).unsig ≠ 0 →
    (s.queue fn.val q.val).unsigFrom + 1000 * ((s.queue fn.val q.val).cqInt.extractLsb' 8 10).toNat ≤ s.btime.toNat →
    exec (.completionInterruptTimeout fn q) s = .next ((s.msix fn.val (2 + q.val)).updQueue fn.val q.val (fun r => { r with unsig := 0 }))) ∧
  -- the time has not passed, or no record is unsignalled
  (∀ (fn : Fin 513) (q : Fin 64) (s : State),
    (s.queue fn.val q.val).unsig = 0 ∨ s.btime.toNat < (s.queue fn.val q.val).unsigFrom + 1000 * ((s.queue fn.val q.val).cqInt.extractLsb' 8 10).toNat →
    exec (.completionInterruptTimeout fn q) s = .next s)

/-- A FENCE completes when every earlier command of its queue has completed and otherwise stays. Then a SIGNAL of an object
of this node whose line no other node holds signals it (a counting event gets its amount, a barrier object one arrival)
and completes; a WAIT takes a unit of a counting event that is not zero and completes, and else registers and waits. At a
line that another node holds either first asks for the line; an object of another node is signalled or waited at by a
message to its home, and one in host memory ends the command with RETRY_HW. -/
def Obligations.GateCommands : Prop :=
  -- a FENCE with nothing earlier
  (∀ (cid : Nat) (c : Cmd) (s : State),
    onRowIs s cid 0x01 c →
    s.earlierDone c = true →
    exec (.fence cid) s = .next (s.complete cid 0 none)) ∧
  -- a FENCE behind an uncompleted command
  (∀ (cid : Nat) (c : Cmd) (s : State),
    onRowIs s cid 0x01 c →
    s.earlierDone c = false →
    exec (.fence cid) s = .next s) ∧
  -- a SIGNAL of an object of this node whose line it owns
  (∀ (cid : Nat) (c : Cmd) (s : State),
    onRowIs s cid 0x02 c →
    s.earlierDone c = true →
    isHostPa c.objPa = false →
    s.isLocal c.objPa = true →
    s.lineOwn gateWho (c.objPa / 128) = true →
    ((c.barrier = false → exec (.signal cid) s = .next (((s.takeOwn (c.objPa / 128)).signalCount none c.objPa (c.fld 63 32) c.ctx).complete cid 0 none)) ∧
    (c.barrier = true → exec (.signal cid) s = .next (((s.takeOwn (c.objPa / 128)).arriveBarrier none c.objPa).complete cid 0 none)))) ∧
  -- a SIGNAL of an object of another node
  (∀ (cid : Nat) (c : Cmd) (s : State),
    onRowIs s cid 0x02 c →
    s.earlierDone c = true →
    isHostPa c.objPa = false →
    s.isLocal c.objPa = false →
    exec (.signal cid) s = .next ((s.sendEvent c 6).updCmd cid (fun k => { k with phase := .waiting }))) ∧
  -- a SIGNAL or WAIT at a line that another node holds or that is busy asks for it
  (∀ (cid : Nat) (c : Cmd) (s : State),
    isHostPa c.objPa = false →
    s.isLocal c.objPa = true →
    s.lineOwn gateWho (c.objPa / 128) = false →
    ((onRowIs s cid 0x02 c → s.earlierDone c = true → exec (.signal cid) s = .next (s.askOwn gateWho (c.objPa / 128))) ∧
    (onRowIs s cid 0x03 c → exec (.wait cid) s = .next (s.askOwn gateWho (c.objPa / 128))))) ∧
  -- a SIGNAL or WAIT on host memory
  (∀ (cid : Nat) (c : Cmd) (s : State),
    isHostPa c.objPa = true →
    ((onRowIs s cid 0x02 c → s.earlierDone c = true → exec (.signal cid) s = .next (s.complete cid 0x11 (some (hwErr 5 0 c.objPa)))) ∧
    (onRowIs s cid 0x03 c → exec (.wait cid) s = .next (s.complete cid 0x11 (some (hwErr 5 0 c.objPa)))))) ∧
  -- a WAIT on a counting event that is not zero takes one unit
  (∀ (cid : Nat) (c : Cmd) (s : State),
    onRowIs s cid 0x03 c →
    isHostPa c.objPa = false →
    s.isLocal c.objPa = true →
    s.lineOwn gateWho (c.objPa / 128) = true →
    c.barrier = false →
    s.objRead none c.objPa 4 ≠ 0 →
    exec (.wait cid) s = .next (((s.takeOwn (c.objPa / 128)).objWrite none c.objPa 4 (s.objRead none c.objPa 4 - 1)).complete cid 0 none)) ∧
  -- a WAIT on a counting event that is zero, or on a barrier object, waits
  (∀ (cid : Nat) (c : Cmd) (s : State),
    onRowIs s cid 0x03 c →
    isHostPa c.objPa = false →
    s.isLocal c.objPa = true →
    s.lineOwn gateWho (c.objPa / 128) = true →
    c.barrier = true ∨ s.objRead none c.objPa 4 = 0 →
    exec (.wait cid) s = .next (({ s with waiters := s.waiters ++ [{
        lsCore := none, addr := c.objPa, kind := if c.barrier then 1 else 0,
        phase := nbits (s.objRead none c.objPa 8) 63 56, chain := none, cid := some cid, remote := none, ext := false }] } : State).updCmd cid
        (fun k => { k with phase := .waiting }))) ∧
  -- a WAIT on an object of another node
  (∀ (cid : Nat) (c : Cmd) (s : State),
    onRowIs s cid 0x03 c →
    isHostPa c.objPa = false →
    s.isLocal c.objPa = false →
    exec (.wait cid) s = .next ((s.sendEvent c 7).updCmd cid (fun k => { k with phase := .waiting }))) ∧
  -- a unit taken, and a signal of a counting event where nothing waits: the word of the event
  (∀ (a n ctx : Nat) (s : State),
    s.waiters = [] →
    s.objRead none a 4 + n < 2 ^ 32 →
    s.signalCount none a n ctx = s.objWrite none a 4 (s.objRead none a 4 + n))

/-- CTX_CREATE gives the lowest free number a context of generation 1 in its function's hide, with a zeroed save area where
it asks for one, writes the result word and ends when that is written; at its function's context limit, or with no hide, it
completes with NO_RESOURCE. CTX_DESTROY destroys the context and completes. A MAP of one HOST entry that meets the conditions,
into a page-mode context that is not pinned, maps it and completes; a MAP that violates a condition completes with
FAULT_ILLEGAL and maps nothing. UNMAP and INVALIDATE wait for a handshake of their range. QUERY writes the block that WHAT
names and ends when that is written. A CTX_DESTROY whose context is gone completes with CTX_GONE. -/
def Obligations.ContextCommands : Prop :=
  -- a context without save area
  (∀ (cid : Nat) (c : Cmd) (k h : Nat) (s : State),
    onRowIs s cid 0x10 c →
    c.cid = cid →
    s.freeCtx = some k →
    s.fnHide c.fn = some h →
    s.fnCtxCount c.fn < s.ctxLimit c.fn →
    nbits c.ext 15 0 = 0 →
    s.fnDev c.fn ≤ s.fnKod c.fn 8 * 4096 →
    exec (.ctxCreate cid) s = .next ((({ s with
      ctxs := tset s.ctxs k { fn := c.fn, hide := h, gen := 1, range := c.fld 25 24 == 1, saveLen := 0, saveBase := 0,
                              deadline := nbits c.ext 63 32, memLimit := nbits c.ext 95 64, lastUse := s.btime.toNat,
                              quietSince := s.btime.toNat },
      live := linsert s.live k } : State).gateExt cid c.ctx c.pieces 15 0 (leBytes 8 (k + 2 ^ 16))).endWrites cid 0 none |>.wmCheck (256 + h))) ∧
  -- a context with a save area of n bytes, at the lowest free run of the hide's memory
  (∀ (cid : Nat) (c : Cmd) (k h n a : Nat) (s : State),
    onRowIs s cid 0x10 c →
    c.cid = cid →
    s.freeCtx = some k →
    s.fnHide c.fn = some h →
    s.fnCtxCount c.fn < s.ctxLimit c.fn →
    n = nbits c.ext 15 0 * 4096 →
    n ≠ 0 →
    nbits c.ext 95 64 = 0 ∨ n ≤ nbits c.ext 95 64 * 4096 →
    s.fnDev c.fn + n ≤ s.fnKod c.fn 8 * 4096 →
    s.freeRun h n 4096 = some a →
    exec (.ctxCreate cid) s = .next (((State.zeroRun ({ s with
      ctxs := tset s.ctxs k { fn := c.fn, hide := h, gen := 1, range := c.fld 25 24 == 1, saveLen := n, saveBase := a,
                              deadline := nbits c.ext 63 32, memLimit := nbits c.ext 95 64, lastUse := s.btime.toNat,
                              quietSince := s.btime.toNat },
      live := linsert s.live k,
      allocs := s.allocs ++ [{ base := a, len := n, hide := h, fn := c.fn, ctx := k, obj := 0 }] } : State) a n).gateExt cid
        c.ctx c.pieces 15 0 (leBytes 8 (k + 2 ^ 16))).endWrites cid 0 none |>.wmCheck (256 + h))) ∧
  -- the function holds as many contexts as it may
  (∀ (cid : Nat) (c : Cmd) (k : Nat) (s : State),
    onRowIs s cid 0x10 c →
    c.cid = cid →
    s.freeCtx = some k →
    (s.fnHide c.fn).isSome = true →
    s.ctxLimit c.fn ≤ s.fnCtxCount c.fn →
    exec (.ctxCreate cid) s = .next (s.complete cid 0x19 (some (commandErr 3 0)))) ∧
  -- the function has no hide
  (∀ (cid : Nat) (c : Cmd) (s : State),
    onRowIs s cid 0x10 c →
    c.cid = cid →
    s.freeCtx.isSome = true →
    s.fnHide c.fn = none →
    exec (.ctxCreate cid) s = .next (s.complete cid 0x19 (some (commandErr 0 0)))) ∧
  -- the context is destroyed
  (∀ (cid : Nat) (c : Cmd) (k : Nat) (s : State),
    namesCtx s cid 0x11 c k →
    exec (.ctxDestroy cid) s = .next ((s.destroyCtx k 0x10 none (some cid)).complete cid 0 none)) ∧
  -- the context that the command names is gone
  (∀ (cid : Nat) (c : Cmd) (s : State),
    onRowIs s cid 0x11 c →
    s.ctxLive c.ctxField = false →
    exec (.ctxDestroy cid) s = .next (s.complete cid 0x1B (some (commandErr 7 0)))) ∧
  -- a MAP of one HOST entry in a page-mode context without pinned queues
  (∀ (cid : Nat) (c : Cmd) (k : Nat) (e : MapEnt) (s : State),
    namesCtx s cid 0x12 c k →
    c.cid = cid →
    (s.ctx k).shakes = [] →
    (s.ctx k).range = false →
    s.mapOk c k = true →
    c.mapEnts false = [e] →
    e.kind = 0 →
    s.pinned k = false →
    exec (.map cid) s = .next (((s.updCtx k (fun x => { x with maps := x.maps ++ [{
        va := c.mapVa, len := e.len, kind := 0, ro := e.ro,
        io := e.io, psize := e.psize, base := e.src, dev := none, node := e.node, hide := e.hide, obj := 0, used := s.btime.toNat }] })).complete
        cid 0 none).wmCheck (256 + (s.ctx k).hide))) ∧
  -- a MAP that violates a condition maps nothing
  (∀ (cid : Nat) (c : Cmd) (k : Nat) (s : State),
    namesCtx s cid 0x12 c k →
    c.cid = cid →
    (s.ctx k).shakes = [] →
    s.mapOk c k = false →
    exec (.map cid) s = .next (s.complete cid 0x14 (some (descNone 0)))) ∧
  -- an UNMAP waits for the handshake of its range
  (∀ (cid : Nat) (c : Cmd) (k : Nat) (s : State),
    namesCtx s cid 0x13 c k →
    s.unmapOk c k = true →
    exec (.unmap cid) s = .next ((s.updCmd cid (fun x => { x with phase := .waiting })).addShake k
      { cid := some cid, fn := c.fn, va := c.mapVa, len := c.mapLen, unmap := true, io := none })) ∧
  -- an UNMAP that splits a page
  (∀ (cid : Nat) (c : Cmd) (k : Nat) (s : State),
    namesCtx s cid 0x13 c k →
    s.unmapOk c k = false →
    exec (.unmap cid) s = .next (s.complete cid 0x14 (some (descNone 0)))) ∧
  -- an INVALIDATE waits for the handshake of its range
  (∀ (cid : Nat) (c : Cmd) (k : Nat) (s : State),
    namesCtx s cid 0x14 c k →
    c.mapLen ≠ 0 →
    exec (.invalidate cid) s = .next ((s.updCmd cid (fun x => { x with phase := .waiting })).addShake k
      { cid := some cid, fn := c.fn, va := c.mapVa, len := c.mapLen, unmap := false, io := none })) ∧
  -- a QUERY writes the block that WHAT names
  (∀ (cid : Nat) (c : Cmd) (k : Nat) (s : State),
    namesCtx s cid 0x15 c k →
    exec (.query cid) s = .next ((s.gateExt c.cid c.ctx c.pieces 15 0 (if c.fld 27 24 = 0 then s.queryUse k else s.queryMem k)).endWrites cid 0 none))

/-- An ATS invalidate request for a range that no context maps drops the cached translations and is answered at once.
The acknowledgement of a handshake that affects no command ends it: the last handshake of a request lets the
controller answer, and that of an INVALIDATE or UNMAP completes the command. -/
def Obligations.InvalidationHandshake : Prop :=
  -- a request for a range that no context maps
  (∀ (fn : Fin 513) (io : W64) (len : Nat) (s : State),
    s.fnCtxs fn.val = [] →
    exec (.atsInvalidateRequest fn io len) s = .next (({ s with ats := s.ats.filter (fun e =>
      !(e.fn == fn.val && decide (e.io < io.toNat + len) && decide (io.toNat < e.io + e.len))) } : State).emit (.invalidateCompletion fn.val))) ∧
  -- the last handshake of a request is acknowledged
  (∀ (ctx : Fin 16384) (k : Shake) (io : Nat × Nat) (s : State),
    (s.ctx ctx.val).shakes = [k] →
    k.begun = true →
    k.cid = none →
    k.io = some io →
    s.shakeQuiet ctx.val (s.shakeRanges ctx.val k) = true →
    s.shakeCmds ctx.val (s.shakeRanges ctx.val k) = [] →
    s.cmds = [] →
    (s.updCtx ctx.val (fun x => { x with shakes := [] })).atsOpen k.fn io = false →
    exec (.invalidationAck ctx) s = .next ((s.updCtx ctx.val (fun x => { x with shakes := [] })).emit (.invalidateCompletion k.fn))) ∧
  -- the one handshake of a context, of an INVALIDATE or UNMAP, is acknowledged: its command completes
  (∀ (ctx : Fin 16384) (k : Shake) (cid : Nat) (s : State),
    (s.ctx ctx.val).shakes = [k] →
    k.begun = true →
    k.cid = some cid →
    k.backed = true →
    s.shakeQuiet ctx.val (s.shakeRanges ctx.val k) = true →
    s.shakeCmds ctx.val (s.shakeRanges ctx.val k) = [] →
    s.cmds.all (fun c => c.phase != .waitShake) = true →
    ∃ t : State, exec (.invalidationAck ctx) s = .next t ∧ t = (s.updCtx ctx.val (fun x => { x with shakes := [] })).complete cid 0 none) ∧
  -- no handshake is under way
  (∀ (ctx : Fin 16384) (s : State),
    (s.ctx ctx.val).shakes = [] →
    exec (.invalidationAck ctx) s = .next s)

/-- A COPY or FILL whose hide works takes a free mover channel with its descriptors and runs; with nothing to move it is
done. A KERNEL of a resident context runs from its first group. An ACRE operation, alone in its hide's engine queue, joins
the hide's waiting operations. A FOREIGN command of a resident context, alone in that queue, goes to its present engine
while that has a free place and has not paused the context, with its header, EOP, EPARAM and payload; without an engine it
completes with NO_RESOURCE. -/
def Obligations.EngineCommandsStart : Prop :=
  -- a COPY takes the channel that the Gate picks
  (∀ (cid : Nat) (c : Cmd) (mc : Nat × Nat) (s : State),
    onRowIs s cid 0x20 c →
    s.engineOpen c.hide = true →
    c.copyDescs ≠ [] →
    s.pickChan [] = some mc →
    exec (.copy cid) s = .next ((((s.unqueue c.cid c.hide).updCmd c.cid (fun k => { k with phase := .running })).placeChan mc c c.copyDescs).retime)) ∧
  -- a FILL takes the channel that the Gate picks
  (∀ (cid : Nat) (c : Cmd) (mc : Nat × Nat) (s : State),
    onRowIs s cid 0x21 c →
    s.engineOpen c.hide = true →
    c.fillDescs ≠ [] →
    s.pickChan [] = some mc →
    exec (.fill cid) s = .next ((((s.unqueue c.cid c.hide).updCmd c.cid (fun k => { k with phase := .running })).placeChan mc c c.fillDescs).retime)) ∧
  -- a COPY or FILL of no bytes is done
  (∀ (cid : Nat) (c : Cmd) (s : State),
    s.engineOpen c.hide = true →
    ((onRowIs s cid 0x20 c → c.copyDescs = [] → exec (.copy cid) s = .next ((s.unqueue c.cid c.hide).finish c.cid 0 none)) ∧
    (onRowIs s cid 0x21 c → c.fillDescs = [] → exec (.fill cid) s = .next ((s.unqueue c.cid c.hide).finish c.cid 0 none)))) ∧
  -- a KERNEL runs from its first group
  (∀ (cid : Nat) (c : Cmd) (s : State),
    onRowIs s cid 0x30 c →
    s.engineOpen c.hide = true →
    s.ctxOpen c.ctx = true →
    exec (.kernel cid) s = .next ((s.updCmd cid (fun k => { k with phase := .running, nextGroup := 0, doneGroups := 0 })).retime)) ∧
  -- an ACRE operation, the first of its kind in its engine queue, joins the waiting list
  (∀ (cid : Nat) (c : Cmd) (s : State),
    onRowIs s cid 0x40 c →
    (s.hide c.hide).engQ = [cid] →
    exec (.acre cid) s = .next (s.updHide c.hide (fun h => { h with engQ := h.engQ.filter (fun i => i != cid), acre := { h.acre with wait := h.acre.wait ++ [cid] } }))) ∧
  -- a FOREIGN command goes to its engine
  (∀ (cid : Nat) (c : Cmd) (s : State),
    onRowIs s cid 0x60 c →
    (s.engine c.engine).present = true →
    (s.hide c.hide).engQ = [cid] →
    s.engineOpen c.hide = true →
    s.ctxOpen c.ctx = true →
    (s.engine c.engine).paused.contains c.ctx = false →
    (s.engine c.engine).pausing.contains c.ctx = false →
    (s.engine c.engine).cmds.length < (s.engine c.engine).maxCmd →
    exec (.foreign cid) s = .next ((((s.updHide c.hide (fun h => { h with engQ := h.engQ.filter (fun i => i != cid) })).updCmd cid
      (fun k => { k with phase := .running })).updEngine c.engine (fun x => { x with cmds := x.cmds ++ [cid] })).emit
      c.forEngine)) ∧
  -- no such engine is attached
  (∀ (cid : Nat) (c : Cmd) (s : State),
    onRowIs s cid 0x60 c →
    (s.engine c.engine).present = false →
    exec (.foreign cid) s = .next (s.complete cid 0x19 (some (commandErr 1 c.engine))))

/-- A channel enabled with a valid configuration is enabled without CFG_ERR; without a ring, or on a halted mover, it has
CFG_ERR. A disable of a channel that the Gate has not placed ends the current descriptor and leaves the channel IDLE; an
abort of an enabled one leaves it WAITING. STOP
stops a channel without outstanding bursts at once, CONTINUE lets it go on. RESTART clears HALTED while every
channel of the mover is disabled. -/
def Obligations.MoverChannels : Prop :=
  -- an enable with a valid configuration
  (∀ (m : Fin 16) (c : Fin 32) (ctrl : W64) (s : State),
    (s.chan m.val c.val).enable = false →
    (s.chan m.val c.val).cid = none →
    (s.mover m.val).halted = false →
    ({ s.chan m.val c.val with ringLog2 := (ctrl.extractLsb' 4 4).toNat, pulseTo := (ctrl.extractLsb' 8 2).toNat } : Chan).cfgOk = true →
    ∃ t : State, exec (.channelEnable m c ctrl) s = .next t ∧ (t.chan m.val c.val).enable = true ∧ (t.chan m.val c.val).cfgErr = false ∧
    (t.chan m.val c.val).head.toNat ≤ 1 ∧ (t.chan m.val c.val).ringBase = (s.chan m.val c.val).ringBase) ∧
  -- an enable without a ring, or on a halted mover
  (∀ (m : Fin 16) (c : Fin 32) (ctrl : W64) (s : State),
    (s.chan m.val c.val).enable = false →
    (s.chan m.val c.val).cid = none →
    (s.chan m.val c.val).ringBase = 0 ∨ (s.mover m.val).halted = true →
    exec (.channelEnable m c ctrl) s = .next (s.updChan m.val c.val (fun x => { x with
      drain := ctrl.getLsbD 3, ringLog2 := (ctrl.extractLsb' 4 4).toNat, pulseTo := (ctrl.extractLsb' 8 2).toNat, stop := ctrl.getLsbD 2,
      cfgErr := true }))) ∧
  -- an enabled channel stays as it is
  (∀ (m : Fin 16) (c : Fin 32) (ctrl : W64) (s : State),
    (s.chan m.val c.val).enable = true →
    exec (.channelEnable m c ctrl) s = .next s) ∧
  -- the disable of a channel without a descriptor
  (∀ (m : Fin 16) (c : Fin 32) (s : State),
    (s.chan m.val c.val).cid = none →
    (s.chan m.val c.val).cur = none →
    exec (.channelDisable m c) s = .next (s.updChan m.val c.val (fun x => { x with gate := [], enable := false, st := .idle, paced := false }))) ∧
  -- the disable of a channel in transfer ends its descriptor
  (∀ (m : Fin 16) (c : Fin 32) (d : MDesc) (s : State),
    (s.chan m.val c.val).cid = none →
    (s.chan m.val c.val).cur = some d →
    ∃ t : State, exec (.channelDisable m c) s = .next t ∧ (t.chan m.val c.val).enable = false ∧ (t.chan m.val c.val).st = .idle ∧
    (t.chan m.val c.val).cur = none ∧ (t.chan m.val c.val).issued = []) ∧
  -- an abort of an enabled channel without a descriptor
  (∀ (m : Fin 16) (c : Fin 32) (s : State),
    (s.chan m.val c.val).cid = none →
    (s.chan m.val c.val).cur = none →
    (s.chan m.val c.val).enable = true →
    exec (.channelAbort m c) s = .next (s.updChan m.val c.val (fun x => { x with gate := [], st := .waiting }))) ∧
  -- an abort of a channel in transfer ends its descriptor; the channel stays enabled
  (∀ (m : Fin 16) (c : Fin 32) (d : MDesc) (s : State),
    (s.chan m.val c.val).cid = none →
    (s.chan m.val c.val).enable = true →
    (s.chan m.val c.val).cur = some d →
    ∃ t : State, exec (.channelAbort m c) s = .next t ∧ (t.chan m.val c.val).enable = true ∧ (t.chan m.val c.val).st = .waiting ∧
    (t.chan m.val c.val).cur = none) ∧
  -- a stop with no burst outstanding
  (∀ (m : Fin 16) (c : Fin 32) (s : State),
    (s.chan m.val c.val).issued = [] →
    (s.chan m.val c.val).st = .running ∨ (s.chan m.val c.val).st = .waiting →
    exec (.channelStop m c) s = .next (s.updChan m.val c.val (fun x => { x with stop := true, st := .stopped }))) ∧
  -- with bursts outstanding the channel stops when they have completed
  (∀ (m : Fin 16) (c : Fin 32) (e : Nat) (r : List Nat) (s : State),
    (s.chan m.val c.val).issued = e :: r →
    exec (.channelStop m c) s = .next (s.updChan m.val c.val (fun x => { x with stop := true }))) ∧
  -- a stopped channel with a descriptor in transfer goes on
  (∀ (m : Fin 16) (c : Fin 32) (d : MDesc) (s : State),
    (s.chan m.val c.val).st = .stopped →
    (s.chan m.val c.val).cur = some d →
    exec (.channelContinue m c) s = .next (s.updChan m.val c.val (fun x => { x with stop := false, st := .running }))) ∧
  -- a restart while no channel is enabled or placed
  (∀ (m : Fin 16) (s : State),
    (List.range 32).any (fun c => (s.chan m.val c).enable || (s.chan m.val c).cid.isSome) = false →
    exec (.moverRestart m) s = .next (s.updMover m.val (fun r => { r with
      halted := false,
      chans := r.chans.map (fun e => (e.1, if e.2.st = .halted then { e.2 with st := .idle } else e.2)) }))) ∧
  -- a restart has no effect while one is
  (∀ (m : Fin 16) (s : State),
    (List.range 32).any (fun c => (s.chan m.val c).enable || (s.chan m.val c).cid.isSome) = true →
    exec (.moverRestart m) s = .next s)

/-- A channel reads the descriptor at RING_HEAD, or takes the next that the Gate has queued; a run issues up to four
bursts of the picked channel; a completed burst whose lines can be read writes its bytes and counts, and otherwise asks for
the lines. Credits hold a channel that waits on a port of the host, silence releases it, and a long stall posts one notice. A
bus error halts the mover; a permission error on a channel that serves no command ends the descriptor with PERM. -/
def Obligations.MoverTransfers : Prop :=
  -- the next descriptor that the Gate has queued; KICK and the channel's own fetch read alike
  (∀ (m : Fin 16) (c : Fin 32) (d : MDesc) (r : List MDesc) (s : State),
    (s.chan m.val c.val).mayFetch = true →
    (s.mover m.val).halted = false →
    (s.chan m.val c.val).gate = d :: r →
    (exec (.kick m c) s = .next ((s.updChan m.val c.val (fun x => { x with gate := r })).takeDesc m.val c.val d) ∧
    exec (.moverDescriptorFetch m c) s = .next ((s.updChan m.val c.val (fun x => { x with gate := r })).takeDesc m.val c.val d))) ∧
  -- the ring descriptor at RING_HEAD is taken where its OWN bit is set
  (∀ (m : Fin 16) (c : Fin 32) (s : State),
    (s.chan m.val c.val).mayFetch = true →
    (s.mover m.val).halted = false →
    (s.chan m.val c.val).gate = [] →
    (s.chan m.val c.val).enable = true →
    (mdescOf (s.readNum (chanDescAddr (s.chan m.val c.val)) 32)).own = true →
    (exec (.kick m c) s = .next (s.takeDesc m.val c.val (mdescOf (s.readNum (chanDescAddr (s.chan m.val c.val)) 32))) ∧
    exec (.moverDescriptorFetch m c) s = .next (s.takeDesc m.val c.val (mdescOf (s.readNum (chanDescAddr (s.chan m.val c.val)) 32))))) ∧
  -- while a descriptor is in transfer the channel reads none
  (∀ (m : Fin 16) (c : Fin 32) (d : MDesc) (s : State),
    (s.chan m.val c.val).cur = some d →
    (exec (.kick m c) s = .next s ∧ exec (.moverDescriptorFetch m c) s = .next s)) ∧
  -- a run of the picked channel, whose queue is not an internal one
  (∀ (m : Fin 16) (c : Nat) (s : State),
    (s.mover m.val).halted = false →
    s.pickRun m.val = some c →
    (s.chan m.val c).watch.getLsbD 63 = false →
    exec (.moverRunStart m) s = .next (((s.updMover m.val (fun r => { r with last := c })).updChan m.val c (fun x => { x with
      st := if x.st = .held then x.st else .running, paced := true })).issueBursts m.val c 4)) ∧
  -- the oldest burst completes, not the descriptor's last, of a channel that paces by no queue and serves no command
  (∀ (m : Fin 16) (c : Fin 32) (d : MDesc) (e : Nat) (r : List Nat) (s : State),
    (s.chan m.val c.val).cur = some d →
    (s.chan m.val c.val).issued = e :: r →
    (s.chan m.val c.val).cid = none →
    (s.chan m.val c.val).watch = 0 →
    (s.chan m.val c.val).stop = false →
    e ≠ d.count →
    d.sig = false →
    s.burstReady m.val c.val = true →
    ∃ t : State, exec (.moverBurstComplete m c) s = .next t ∧ (t.chan m.val c.val).done = e ∧ (t.chan m.val c.val).issued = r ∧
    (t.chan m.val c.val).bursts = (s.chan m.val c.val).bursts + 1 ∧
    (∀ a, t.readPa a = (s.post (moverId m.val c.val) (s.chanAsker m.val c.val) d.na
      (s.burstCells (s.chan m.val c.val) d (s.chan m.val c.val).done e)).readPa a)) ∧
  -- a burst that reads a line which is not current here, or that another node's home has not granted, asks for it
  (∀ (m : Fin 16) (c : Fin 32) (d : MDesc) (e : Nat) (r : List Nat) (s : State),
    (s.chan m.val c.val).cur = some d →
    (s.chan m.val c.val).issued = e :: r →
    s.burstReady m.val c.val = false →
    exec (.moverBurstComplete m c) s = .next (s.askReads { id := moverId m.val c.val } (s.chanAsker m.val c.val)
      (s.burstLines (s.chan m.val c.val) d (s.chan m.val c.val).done e))) ∧
  -- a burst of a stream of the acre: its channel counts it and is not HELD, and the command has progressed
  (∀ (m : Fin 16) (c : Fin 32) (cid : Nat) (s : State),
    (s.chan m.val c.val).cur = none →
    (s.chan m.val c.val).cid = some cid →
    s.acreChan m.val c.val = true →
    exec (.moverBurstComplete m c) s = .next (((s.acreBurst m.val c.val).progress cid).retime)) ∧
  -- a port returns credits: the one channel that waits for data on it is HELD
  (∀ (m : Fin 16) (c : Fin 32) (p : Fin 2) (s : State),
    s.acreFedOn m.val c.val = false →
    ((List.range 16).flatMap (fun m => ((List.range 32).filter (fun c => s.chanOnPort (s.chan m c) (.host p) || s.acreOnPort m c (.host p))).map (fun c => (m, c)))) = [(m.val, c.val)] →
    (s.chan m.val c.val).st ≠ .held →
    exec (.flowControlCreditReturn (.host p)) s = .next (((s.updChan m.val c.val (fun x => { x with
      st := .held, heldFrom := s.btime.toNat, creditAt := s.btime.toNat,
      heldBytes := 1 + (s.freshVal 14).toNat % max 1 (s.chan m.val c.val).burstBytes })).freshNext).retime)) ∧
  -- ten microseconds without credits
  (∀ (m : Fin 16) (c : Fin 32) (s : State),
    (s.chan m.val c.val).st = .held →
    (s.chan m.val c.val).creditAt + 10000 ≤ s.btime.toNat →
    exec (.creditSilenceExpiry m c) s = .next ((s.updChan m.val c.val (fun x => { x with st := .running })).retime)) ∧
  -- a channel held for its class's watchdog window posts one notice
  (∀ (m : Fin 16) (c : Fin 32) (s : State),
    (s.chan m.val c.val).st = .held →
    (s.chan m.val c.val).stallPosted = false →
    (s.chan m.val c.val).heldFrom + 1000 * s.classWindow (chanHide (s.chan m.val c.val)) (s.chanWho (s.chan m.val c.val)).2.2.1 ≤ s.btime.toNat →
    exec (.inputStall m c) s = .next ((s.updChan m.val c.val (fun x => { x with stallPosted := true })).postNotice
      (s.chanWho (s.chan m.val c.val)).1 1 (s.chanWho (s.chan m.val c.val)).2.1 (m.val * 256 + c.val) (s.chan m.val c.val).heldBytes
      (s.chanWho (s.chan m.val c.val)).2.2.2)) ∧
  -- a bus error of a busy channel halts the mover, which counts it and keeps the address
  (∀ (m : Fin 16) (c : Fin 32) (addr : BitVec 56) (s : State),
    (s.mover m.val).halted = false →
    s.chanBusy m.val c.val = true →
    exec (.moverHalt m c addr) s = .next (s.haltMover m.val addr.toNat)) ∧
  -- a halted mover is not halted again
  (∀ (m : Fin 16) (c : Fin 32) (addr : BitVec 56) (s : State),
    (s.mover m.val).halted = true →
    exec (.moverHalt m c addr) s = .next s) ∧
  -- a permission error on a channel that serves no command ends the descriptor with PERM
  (∀ (m : Fin 16) (c : Fin 32) (d : MDesc) (e : Nat) (r : List Nat) (s : State),
    (s.chan m.val c.val).cur = some d →
    (s.chan m.val c.val).issued = e :: r →
    (s.chan m.val c.val).cid = none →
    exec (.moverPermissionError m c) s = .next ((s.updChan m.val c.val (fun x => { x with gate := [], st := .waiting })).endDesc m.val c.val 5
      (d.count - (s.chan m.val c.val).done)))

/-- A PLAN_LOAD that validates puts the plan into the lowest free slot with every pool page free, page 0 on top, or in place
of a plan of its number without bound sequences; one with bound sequences is not replaced. A SEQ_OPEN below the cap, with
none deferred, fills the lowest free entry: prefilling, nothing emitted, the tag one higher; at the cap it is deferred and
ends with DEFERRED. A SEQ_STEP runs its plan or waits behind the one that does. A SEQ_CLOSE that may write its SSB frees its
entry at once, or waits for the commit of the step, and otherwise asks for the SSB's line. A freed entry is given to a
deferred open. -/
def Obligations.PlansAndSequences : Prop :=
  -- a PLAN_LOAD of a number that the context has not loaded takes the lowest free slot
  (∀ (cid : Nat) (c : Cmd) (x : List Piece × Nat × List Stage) (i : Fin 256) (s : State),
    onRowIs s cid 0x50 c →
    planLoads s c = some x →
    s.planSlot c.ctx c.planNum = none →
    (List.range 256).find? (fun j => (s.plan? j).isNone) = some i.val →
    (exec (.planLoad cid) s = .next (((s.putPlan i.val (planOf c x.2.1 x.1 x.2.2 none)).complete c.cid 0 none).wmCheck i.val) ∧
   ((s.putPlan i.val (planOf c x.2.1 x.1 x.2.2 none)).plan? i.val).map (fun p => (p.ctx, p.num, p.free, p.stages, p.step)) =
     some (c.ctx, c.planNum, List.range (planFld x.2.1 127 96), x.2.2, none))) ∧
  -- a plan without bound sequences is replaced; a SEQ_STEP that has begun on it stays
  (∀ (cid : Nat) (c : Cmd) (x : List Piece × Nat × List Stage) (i : Nat) (s : State),
    onRowIs s cid 0x50 c →
    planLoads s c = some x →
    s.planSlot c.ctx c.planNum = some i →
    s.planBound c.ctx i c.planNum = false →
    exec (.planLoad cid) s = .next (((s.putPlan i (planOf c x.2.1 x.1 x.2.2 (s.plan? i))).complete c.cid 0 none).wmCheck i)) ∧
  -- a plan that sequences are bound to is not replaced
  (∀ (cid : Nat) (c : Cmd) (x : List Piece × Nat × List Stage) (i : Nat) (s : State),
    onRowIs s cid 0x50 c →
    planLoads s c = some x →
    s.planSlot c.ctx c.planNum = some i →
    s.planBound c.ctx i c.planNum = true →
    exec (.planLoad cid) s = .next (s.complete c.cid 0x14 (some (badBit 24)))) ∧
  -- a SEQ_OPEN below the cap fills the lowest free entry
  (∀ (cid : Nat) (c : Cmd) (slot e : Nat) (p : Plan) (s : State),
    onRowIs s cid 0x51 c →
    s.planSlot c.ctx c.planNum = some slot →
    s.plan? slot = some p →
    c.fld 330 328 ≤ p.draftMax →
    c.freshOpen = false ∨ s.pow.entropy = true →
    s.belowCap (s.ctx c.ctx).hide = true →
    (s.hide (s.ctx c.ctx).hide).pendSeqs = [] →
    s.freeEntry = some e →
    ∃ t : State, exec (.seqOpen cid) s = .next (t.endWrites c.cid 0 none) ∧ (t.seq e).state = 2 ∧ (t.seq e).tag = ((s.seq e).tag + 1) % 2 ^ 20 ∧
    (t.seq e).plan = slot ∧ (t.seq e).ctx = c.ctx ∧ (t.seq e).pos = 0 ∧ (t.seq e).emitted = 0 ∧ (t.seq e).pages = [] ∧
    (t.seq e).promptLeft = c.fld 63 32 ∧ (t.seq e).maxNew = c.fld 95 64 ∧ (t.seq e).stopToken = c.fld 127 96 ∧
    (c.freshOpen = false → (t.seq e).seed = BitVec.ofNat 64 (c.fld 447 384))) ∧
  -- a SEQ_OPEN at the cap is deferred
  (∀ (cid : Nat) (c : Cmd) (slot : Nat) (p : Plan) (s : State),
    onRowIs s cid 0x51 c →
    s.planSlot c.ctx c.planNum = some slot →
    s.plan? slot = some p →
    c.fld 330 328 ≤ p.draftMax →
    c.freshOpen = false ∨ s.pow.entropy = true →
    s.belowCap (s.ctx c.ctx).hide = false →
    (s.hide (s.ctx c.ctx).hide).pendSeqs.length < 16384 →
    ∃ r : PendSeq, r.cmd = c ∧ r.plan = slot ∧ r.order = s.pendOrder ∧
    exec (.seqOpen cid) s = .next ((({ (s.putSsb c.cid c.ctx ((pieceAddr c.pieces 1 0).getD 0) 0 1 0 0 0 false).updHide (s.ctx c.ctx).hide
      (fun x => { x with pendSeqs := x.pendSeqs ++ [r] }) with pendOrder := s.pendOrder + 1 } : State).endWrites c.cid 2 none).wmCheck
      (264 + (s.ctx c.ctx).hide))) ∧
  -- a SEQ_STEP of a plan whose steps do not run begins
  (∀ (cid : Nat) (c : Cmd) (slot : Nat) (p : Plan) (s : State),
    onRowIs s cid 0x52 c →
    s.planSlot c.ctx c.planNum = some slot →
    s.plan? slot = some p →
    p.step = none →
    exec (.seqStep cid) s = .next ((s.updPlan slot (fun x => { x with step := some (freshStep c.cid) })).updCmd c.cid
      (fun k => { k with phase := .running }))) ∧
  -- a SEQ_STEP behind another waits
  (∀ (cid : Nat) (c : Cmd) (slot : Nat) (p : Plan) (s : State),
    onRowIs s cid 0x52 c →
    s.planSlot c.ctx c.planNum = some slot →
    s.plan? slot = some p →
    p.step ≠ none →
    exec (.seqStep cid) s = .next ((s.updPlan slot (fun x => { x with queue := x.queue ++ [c.cid] })).updCmd c.cid
      (fun k => { k with phase := .waiting }))) ∧
  -- a SEQ_OPEN or SEQ_STEP of a plan that is not loaded
  (∀ (cid : Nat) (c : Cmd) (s : State),
    s.planSlot c.ctx c.planNum = none →
    ((onRowIs s cid 0x51 c → exec (.seqOpen cid) s = .next (s.complete c.cid 0x14 (some (badBit 24)))) ∧
   (onRowIs s cid 0x52 c → exec (.seqStep cid) s = .next (s.complete c.cid 0x14 (some (badBit 24)))))) ∧
  -- a SEQ_CLOSE of an entry that is in no step
  (∀ (cid : Nat) (c : Cmd) (ssb id : Nat) (s : State),
    onRowIs s cid 0x53 c →
    (pieceAddr c.pieces 1 0).getD 0 = ssb →
    s.gateHas [] [ssb / 128] = true →
    s.readNum ssb 4 = id →
    (s.readPa (ssb + 4)).toNat % 8 ≠ 1 →
    (s.seq (id % 4096)).state ≠ 0 →
    (s.seq (id % 4096)).ctx = c.ctx →
    (s.seq (id % 4096)).tag = id / 4096 →
    (s.seq (id % 4096)).inStep = false →
    exec (.seqClose cid) s = .next ((s.closeSeq c.cid (id % 4096)).endWrites c.cid 0 none)) ∧
  -- of an entry in a step: the close waits for the commit
  (∀ (cid : Nat) (c : Cmd) (ssb id : Nat) (s : State),
    onRowIs s cid 0x53 c →
    (pieceAddr c.pieces 1 0).getD 0 = ssb →
    s.gateHas [] [ssb / 128] = true →
    s.readNum ssb 4 = id →
    (s.readPa (ssb + 4)).toNat % 8 ≠ 1 →
    (s.seq (id % 4096)).state ≠ 0 →
    (s.seq (id % 4096)).ctx = c.ctx →
    (s.seq (id % 4096)).tag = id / 4096 →
    (s.seq (id % 4096)).inStep = true →
    (s.seq (id % 4096)).closing = none →
    exec (.seqClose cid) s = .next ((s.updSeq (id % 4096) (fun q => { q with closing := some c.cid })).updCmd c.cid (fun k => { k with phase := .waiting }))) ∧
  -- an SSB whose line another node holds is asked for first
  (∀ (cid : Nat) (c : Cmd) (ssb : Nat) (s : State),
    onRowIs s cid 0x53 c →
    (pieceAddr c.pieces 1 0).getD 0 = ssb →
    s.gateHas [] [ssb / 128] = false →
    exec (.seqClose cid) s = .next (s.gateAsk c.cid c.ctx [] [ssb / 128])) ∧
  -- a freed entry goes to the deferred open that comes next; SEQ_ADMITTED is posted where NOTIFY is set
  (∀ (h e : Nat) (r : PendSeq) (s : State),
    s.nextPend = some (h, r) →
    s.freeEntry = some e →
    r.cmd.freshOpen = false ∨ s.pow.entropy = true →
    (∃ u : State, u = (s.updHide h (fun x => { x with pendSeqs := x.pendSeqs.tail })).fillSeq r.cmd e r.plan r.ssb r.ring r.prompt ∧
    exec .seqAdmit s = .next (if nbit r.cmd.d0.toNat 9 then
      u.postNotice r.cmd.fn 6 r.cmd.ctx (seqId e (u.seq e).tag) r.cmd.ssn r.cmd.q else u)))

/-- A step of a plan that is open is built over the entries in their order; a build of a plan without sequences ends the
SEQ_STEP, and one whose rows are full leaves a prefilling entry for a later step. The next stage, of a class other than 0, is
issued as a command of its own when the one before has ended and it may enter. Staging only moves the plan's staging mark.
After the last stage the step commits as a whole, entry by entry; the SEQ_STEP ends after its count of steps and otherwise
goes on with the next. A build and a commit first ask for the lines that they read or write. -/
def Obligations.StepsOfAPlan : Prop :=
  -- a build of a plan that needs no translation
  (∀ (i : Fin 256) (p : Plan) (st : Step) (s : State),
    s.plan? i.val = some p →
    p.step = some st →
    st.built = false →
    s.stepOpen p = true →
    p.stale = false →
    exec (.stepBuild i) s = .next (s.buildStep i.val p st)) ∧
  -- of a plan without sequences: the SEQ_STEP completes
  (∀ (i : Fin 256) (p : Plan) (st : Step) (s : State),
    s.plan? i.val = some p →
    p.step = some st →
    st.built = false →
    s.stepOpen p = true →
    p.stale = false →
    s.buildOrder i.val = [] →
    s.gateHas (s.buildReads i.val p) (s.buildOwns i.val p) = true →
    exec (.stepBuild i) s = .next (s.endStepCmd i.val st.cid 0 none)) ∧
  -- a build whose lines the Gate does not have asks for them
  (∀ (i : Fin 256) (p : Plan) (st : Step) (s : State),
    s.plan? i.val = some p →
    p.step = some st →
    st.built = false →
    s.stepOpen p = true →
    p.stale = false →
    s.gateHas (s.buildReads i.val p) (s.buildOwns i.val p) = false →
    exec (.stepBuild i) s = .next (s.gateAsk st.cid p.ctx (s.buildReads i.val p) (s.buildOwns i.val p))) ∧
  -- a build whose rows are full leaves a prefilling entry, which waits, for a later step
  (∀ (cid i : Nat) (p : Plan) (b : State × Build) (e : Nat),
    (b.1.seq e).promptLeft ≠ 0 →
    p.maxRows ≤ b.2.rows →
    (State.buildOne cid i p b e).2.rows = b.2.rows ∧ (State.buildOne cid i p b e).2.sel = b.2.sel ∧
    (State.buildOne cid i p b e).1 = b.1.updSeq e (fun q => { q with waited := min (q.waited + 1) 0xFFFF })) ∧
  -- the next stage becomes a command of its own
  (∀ (i : Fin 256) (p : Plan) (st : Step) (g : Stage) (k : Cmd) (s : State),
    s.plan? i.val = some p →
    p.step = some st →
    p.stages[st.next]? = some g →
    s.cmd? st.cid = some k →
    st.built = true →
    st.stageCid = none →
    s.stepOpen p = true →
    s.stageEnters (stageInstance k i.val st g s.nextCid s.btime.toNat) = true →
    k.cls ≠ 0 →
    exec (.stageIssue i) s = .next ((({ s with
      cmds := s.cmds ++ [stageInstance k i.val st g s.nextCid s.btime.toNat], nextCid := s.nextCid + 1 } : State).updPlan i.val (fun x => { x with
        step := some { st with stageCid := some s.nextCid } })).enterQueue (stageInstance k i.val st g s.nextCid s.btime.toNat))) ∧
  -- staging changes nothing but the staging mark
  (∀ (i : Fin 256) (p : Plan) (st : Step) (g : Stage) (s : State),
    s.plan? i.val = some p →
    p.step = some st →
    p.stages[st.stagedUpTo]? = some g →
    (((p.stages.take (st.stagedUpTo + 1)).drop st.next).map (fun g => s.stageBytes st g)).sum ≤ s.kodRun (0x3000 + (s.ctx p.ctx).hide) 0x0B * 2 ^ 21 →
    s.kodRun (0x3000 + (s.ctx p.ctx).hide) 0x0B * 2 ^ 21 ≠ 0 →
    st.built = true ∨ g.kvLen = 0 →
    exec (.servingReserveStaging i) s = .next (s.updPlan i.val (fun x => { x with step := some { st with stagedUpTo := st.stagedUpTo + 1 } }))) ∧
  -- the last step of a SEQ_STEP commits and the SEQ_STEP completes
  (∀ (i : Fin 256) (p : Plan) (st : Step) (c : Cmd) (u : State) (s : State),
    s.plan? i.val = some p →
    p.step = some st →
    st.built = true →
    st.stageCid = none →
    p.stages.length ≤ st.next →
    s.stepOpen p = true →
    s.gateHas (commitReads p st) (s.commitOwns st) = true →
    u = ((st.sel.foldl (fun t x => t.commitOne st.cid i.val p x) s).updCmd st.cid (fun c => { c with stepsDone := c.stepsDone + 1 })).wmCheck i.val →
    u.cmd? st.cid = some c →
    c.fld 63 32 ≠ 0 ∧ c.fld 63 32 ≤ c.stepsDone →
    exec (.stepCommit i) s = .next (u.endStepCmd i.val st.cid 0 none)) ∧
  -- an earlier one commits and the next step begins
  (∀ (i : Fin 256) (p : Plan) (st : Step) (c : Cmd) (u : State) (s : State),
    s.plan? i.val = some p →
    p.step = some st →
    st.built = true →
    st.stageCid = none →
    p.stages.length ≤ st.next →
    s.stepOpen p = true →
    s.gateHas (commitReads p st) (s.commitOwns st) = true →
    u = ((st.sel.foldl (fun t x => t.commitOne st.cid i.val p x) s).updCmd st.cid (fun c => { c with stepsDone := c.stepsDone + 1 })).wmCheck i.val →
    u.cmd? st.cid = some c →
    c.fld 63 32 = 0 ∨ c.stepsDone < c.fld 63 32 →
    exec (.stepCommit i) s = .next (u.updPlan i.val (fun x => { x with step := some (freshStep st.cid) }))) ∧
  -- a commit whose lines the Gate does not have asks for them
  (∀ (i : Fin 256) (p : Plan) (st : Step) (s : State),
    s.plan? i.val = some p →
    p.step = some st →
    st.built = true →
    st.stageCid = none →
    p.stages.length ≤ st.next →
    s.stepOpen p = true →
    s.gateHas (commitReads p st) (s.commitOwns st) = false →
    exec (.stepCommit i) s = .next (s.gateAsk st.cid p.ctx (commitReads p st) (s.commitOwns st)))

/-- An operation whose hide works and whose context is resident starts on the acre; with its four streams placed it is the
running operation over the furlongs of its hide, before its first B block. A waiting class-0 operation makes the running one
of another class step aside, its step in progress abandoned; it resumes when no class-0 operation is dispatched or waits. A
step whose lines cannot be read yet asks for them. A loaded B block opens the slices, and while a pass runs the next pass's
block is shifted into the idle registers; a slice without mismatch enters the accumulators and the walk goes on; a first
mismatch repeats the slice, which a class-0 operation may precede; a second ends the command with CHECKSUM and marks the
unit suspect. An uncorrectable error fails its core; in the active part of a hide it starts a compute-part reset. -/
def Obligations.AcreSteps : Prop :=
  -- the operation that comes next starts
  (∀ (h : Fin 8) (c : Cmd) (s : State),
    s.engineOpen h.val = true →
    (s.hide h.val).acre.blocked = false →
    s.furlongsOf h.val ≠ [] →
    s.nextAcre h.val = some c →
    s.ctxOpen c.ctx = true →
    (s.furlongsOf h.val).all s.furlongOn = true →
    exec (.acreOperationStart h) s = .next (s.startAcre c)) ∧
  -- where its four streams have channels, it is the running operation of its hide, with the geometry of the hide
  (∀ (c : Cmd) (u s : State),
    s.takeStreams c = some u →
    ∃ t : State, s.startAcre c = t ∧ (t.hide c.hide).acre.run = some (s.newAcreOp c) ∧ (t.hide c.hide).acre.wait = (s.hide c.hide).acre.wait.filter (fun i => i != c.cid) ∧
    (s.newAcreOp c).k = (s.furlongsOf c.hide).length ∧ (s.newAcreOp c).step = .load) ∧
  -- a class-0 operation waits: the running one of another class steps aside
  (∀ (h : Fin 8) (o : AcreOp) (s : State),
    (s.hide h.val).acre.run = some o →
    s.acrePrio h.val = true →
    o.cls ≠ 0 →
    (s.hide h.val).acre.pre = none →
    (s.waitingAcre h.val (fun c => c.cls == 0)).isSome = true →
    exec (.acreStepAbandon h) s = .next (((s.updAcre h.val (fun x => { x with run := none, pre := some o.putAside })).acreFed o.cid).retime)) ∧
  -- no class-0 operation is dispatched, waits or runs: it resumes
  (∀ (h : Fin 8) (o : AcreOp) (s : State),
    (s.hide h.val).acre.run = none →
    (s.hide h.val).acre.pre = some o →
    s.class0Due h.val = false →
    s.engineOpen h.val = true →
    exec (.acreResume h) s = .next ((s.updAcre h.val (fun x => { x with run := some o, pre := none })).retime)) ∧
  -- a class-0 operation has been dispatched and has not started: the pre-empted one stays aside
  (∀ (h : Fin 8) (s : State),
    s.class0Due h.val = true →
    exec (.acreResume h) s = .next s) ∧
  -- the step's lines cannot be read yet
  (∀ (h : Fin 8) (o : AcreOp) (c : Cmd) (bad : List (Fin 16 × Fin 16)) (s : State),
    s.acreHas h.val (s.stepLines o c) = false →
    ((s.acreNow h.val .load = some (o, c) → exec (.acreBBlockLoaded h) s = .next (s.acreAsk h.val c (s.stepLines o c))) ∧
    (s.acreNow h.val .slice = some (o, c) → exec (.acreSliceEnd h bad) s = .next (s.acreAsk h.val c (s.stepLines o c))) ∧
    (s.acreNow h.val .readout = some (o, c) → exec (.acreReadoutStep h) s = .next (s.acreAsk h.val c (s.stepLines o c))) ∧
    (s.acreNow h.val .store = some (o, c) → exec (.acreStoreStep h) s = .next (s.acreAsk h.val c (s.stepLines o c))))) ∧
  -- the pass's B block is loaded into the cells
  (∀ (h : Fin 8) (o : AcreOp) (c : Cmd) (s : State),
    s.acreNow h.val .load = some (o, c) →
    s.acreHas h.val (s.stepLines o c) = true →
    s.mustYield h.val o = false →
    exec (.acreBBlockLoaded h) s = .next ((s.updAcre h.val (fun a => { a with run := some { o with
      b0 := s.bBlock c o o.n o.p o.shadow, step := .slice, fed := [] } })).acreFed o.cid)) ∧
  -- while a pass runs, the next pass's block is shifted into the idle registers
  (∀ (h : Fin 8) (o : AcreOp) (c : Cmd) (n p : Nat) (sh : Bool) (s : State),
    s.acreNow h.val .slice = some (o, c) →
    o.nextPass c = some (n, p, sh) →
    o.idle = none →
    s.mustYield h.val o = false →
    s.acreHas h.val (o.bLines c n p sh) = true →
    exec (.acreBBlockLoaded h) s = .next (s.updAcre h.val (fun a => { a with run := some { o with
      b1 := s.bBlock c o n p sh, idle := some (n, p, sh) } }))) ∧
  -- a slice without mismatch
  (∀ (h : Fin 8) (o : AcreOp) (c : Cmd) (s : State),
    s.acreNow h.val .slice = some (o, c) →
    s.acreHas h.val (s.stepLines o c) = true →
    exec (.acreSliceEnd h []) s = .next (s.stepAcre h.val ((s.addSlice c o).nextSlice c))) ∧
  -- the first mismatch of a slice repeats it; nothing enters the accumulators
  (∀ (h : Fin 8) (o : AcreOp) (c : Cmd) (f u : Fin 16) (s : State),
    s.acreNow h.val .slice = some (o, c) →
    s.acreHas h.val (s.stepLines o c) = true →
    f.val < o.k ∧ u.val < o.w →
    o.rerun = false →
    s.mustYield h.val o = false →
    exec (.acreSliceEnd h [(f, u)]) s = .next ((s.updAcre h.val (fun a => { a with run := some { o with
      rerun := true, bad := [(f.val, u.val)], chkRetries := o.chkRetries + 1, fed := [] } })).acreFed o.cid)) ∧
  -- where a class-0 operation has been dispatched, the acre pre-empts first
  (∀ (h : Fin 8) (o : AcreOp) (c : Cmd) (f u : Fin 16) (s : State),
    s.acreNow h.val .slice = some (o, c) →
    s.acreHas h.val (s.stepLines o c) = true →
    f.val < o.k ∧ u.val < o.w →
    o.rerun = false →
    s.mustYield h.val o = true →
    exec (.acreSliceEnd h [(f, u)]) s = .next (((s.updAcre h.val (fun a => { a with run := none, pre := some ({ o with
      rerun := true, bad := [(f.val, u.val)], chkRetries := o.chkRetries + 1 } : AcreOp).putAside })).retime).acreFed o.cid)) ∧
  -- a mismatch of the rerun ends the command with CHECKSUM, and the units of both are suspect
  (∀ (h : Fin 8) (o : AcreOp) (c : Cmd) (f u : Fin 16) (s : State),
    s.acreNow h.val .slice = some (o, c) →
    s.acreHas h.val (s.stepLines o c) = true →
    f.val < o.k ∧ u.val < o.w →
    o.rerun = true →
    o.bad = [(f.val, u.val)] →
    exec (.acreSliceEnd h [(f, u)]) s = .next ((s.failCmd o.cid 0x17 (some (checksumErr (coreField (s.unitCore h.val f.val u.val)) 2 1))).markSuspect
      (s.unitCore h.val f.val u.val))) ∧
  -- an acre without the step at its turn
  (∀ (h : Fin 8) (bad : List (Fin 16 × Fin 16)) (s : State),
    (s.hide h.val).acre.run = none →
    (exec (.acreSliceEnd h bad) s = .next s ∧ exec (.acreBBlockLoaded h) s = .next s ∧ exec (.acreReadoutStep h) s = .next s ∧ exec (.acreStoreStep h) s = .next s ∧ exec (.acreOperationEnd h) s = .next s)) ∧
  -- an uncorrectable error of a compute core that no hide's active part holds: it is failed and latched
  (∀ (core : Fin 276) (h : Nat) (s : State),
    core.val < 272 →
    s.coreHide core.val = some h →
    s.coreActive core.val = false →
    exec (.coreErr core) s = .next ((s.updCore core.val (fun k => { k with failed := true })).latchIn (core.val / 17))) ∧
  -- one of a hide's active part starts the reset of the compute part
  (∀ (core : Fin 276) (h : Nat) (s : State),
    core.val < 272 →
    s.coreHide core.val = some h →
    s.coreActive core.val = true →
    (s.hide h).recovery = false →
    exec (.coreErr core) s = .next (((s.updCore core.val (fun k => { k with failed := true })).latchIn (core.val / 17)).startReset h 0))

/-- A readout step reads each wanted element of its rows: an exact sum within the window is rounded to F32 and multiplied by
its two factors; one above it reads as the window's largest value, counted in SATS. After the last row the tiles over their
threshold are recomputed once with the shadows, else the group is stored. A store step writes the codes of its rows in its
tile and goes on to the next; with I32 output a factor that is not 1.0 ends the command with BAD_DESC. The end writes the
report where one is asked for, frees the channels and the acre, and ends with status 0, or 1 where a tile escalated or
stayed over its threshold. -/
def Obligations.AcreReadoutStoreReport : Prop :=
  -- a readout step
  (∀ (h : Fin 8) (o : AcreOp) (c : Cmd) (s : State),
    s.acreNow h.val .readout = some (o, c) →
    s.acreHas h.val (s.stepLines o c) = true →
    exec (.acreReadoutStep h) s = .next (s.stepAcre h.val (s.readStep c o))) ∧
  -- the readout of an exact sum within the window
  (∀ (c : Cmd) (o : AcreOp) (i j : Nat) (s : State),
    c.wide = false →
    c.fmtOut ≠ 15 →
    winMin ≤ tget o.acc (elemKey i j) 0 ∧ tget o.acc (elemKey i j) 0 ≤ winMax →
    s.readElem c o i j = {
      o with y := tset o.y (elemKey i j) ((fMul fF32 .rne (fMul fF32 .rne (roundIeee fF32 .rne (fixedQ (tget o.acc (elemKey i j) 0))) (s.factorA c i)) (s.factorB c j) : Nat) : Int) }) ∧
  -- of a larger one: the window's largest value is read out and SATS counts it
  (∀ (c : Cmd) (o : AcreOp) (i j : Nat) (s : State),
    c.wide = false →
    c.fmtOut = 15 →
    winMax < tget o.acc (elemKey i j) 0 →
    (tget (s.readElem c o i j).y (elemKey i j) 0 = winMax ∧ (s.readElem c o i j).acc = o.acc ∧
   tget (s.readElem c o i j).cnt (elemKey (i / 128) (j / 128)) {} = (tget o.cnt (elemKey (i / 128) (j / 128)) {}).add { sats := 1 })) ∧
  -- after the last row: the group is stored, where no shadow is given, the shadows have run, or no tile is over its threshold
  (∀ (o : AcreOp) (c : Cmd),
    o.shadow = true ∨ ((shadowAt c.ext 0).addr = 0 ∧ (shadowAt c.ext 24).addr = 0) ∨ (o.tiles c).filter (fun t => o.overLimit c t) = [] →
    o.escalate c = { o with step := .store, s := 0, tj := 0, shadow := false }) ∧
  -- else the tiles over their threshold, and only they, are recomputed with the shadows
  (∀ (o : AcreOp) (c : Cmd) (ts : List (Nat × Nat)),
    o.shadow = false →
    (shadowAt c.ext 0).addr ≠ 0 ∨ (shadowAt c.ext 24).addr ≠ 0 →
    ts = (o.tiles c).filter (fun t => o.overLimit c t) →
    ts ≠ [] →
    (o.escalate c).shadow = true ∧ (o.escalate c).esc = ts ∧ (o.escalate c).p = 0 ∧
    (∀ i j, (o.escalate c).wants i j = ts.contains (i / 128, j / 128))) ∧
  -- a store step whose factors pass
  (∀ (h : Fin 8) (o : AcreOp) (c : Cmd) (s : State),
    s.acreNow h.val .store = some (o, c) →
    s.acreHas h.val (s.stepLines o c) = true →
    o.factorsOk = true ∨ s.factorsOne c = true →
    exec (.acreStoreStep h) s = .next (((o.rowsAt c).foldl (fun t i => t.storeRow c o i) s).stepAcre h.val
      (({ s.countQsat c o with factorsOk := true } : AcreOp).nextStore c))) ∧
  -- a store step of an I32 output with a factor that is not 1.0
  (∀ (h : Fin 8) (o : AcreOp) (c : Cmd) (s : State),
    s.acreNow h.val .store = some (o, c) →
    s.acreHas h.val (s.stepLines o c) = true →
    o.factorsOk = false →
    s.factorsOne c = false →
    exec (.acreStoreStep h) s = .next (s.failCmd o.cid 0x14 (some (descErr 4 96 0)))) ∧
  -- the end of an operation
  (∀ (h : Fin 8) (o : AcreOp) (c : Cmd) (u : State) (s : State),
    s.acreNow h.val .done = some (o, c) →
    u = (if reportAddr c.ext = 0 then s else s.acreWrite c 12 0 (o.report c)) →
    exec (.acreOperationEnd h) s = .next ((((((u.chansOf o.cid).foldl (fun t mc => t.freeChan mc.1 mc.2) u).updAcre h.val
      (fun a => { a with run := none })).acreLeft h.val).finish o.cid (if o.rep.any (fun e => e.2.2.1 || e.2.2.2) then 1 else 0) none).retime))

/-- The next group of an open kernel is placed on a core of its hide where it fits, in free slots, and no earlier kernel
has one that fits there; on a sleeping furlong it wakes that first. Its chains start at the entry with the argument block in u0 to u15 and every thread active
that the command has. A class-2 group whose slice has expired with another one waiting is pre-empted; once its
instructions have completed, its record is written into the save area and it leaves the core; it resumes on a core
that has room. -/
def Obligations.ChainGroups : Prop :=
  -- the next group of a kernel is placed
  (∀ (cid : Nat) (core : Fin 272) (c : Cmd) (s : State),
    s.cmd? cid = some c →
    s.kernelOpen c = true →
    s.coreTakes c.hide core.val = true →
    s.furlongOn (core.val / 17) = true →
    s.nextFits c (s.groupsOn core.val) = true →
    s.earlierFits c core.val = false →
    exec (.groupPlacement cid core) s = .next (s.placeGroup c core.val)) ∧
  -- a group on a sleeping furlong wakes it
  (∀ (cid : Nat) (core : Fin 272) (c : Cmd) (s : State),
    s.cmd? cid = some c →
    s.kernelOpen c = true →
    s.coreTakes c.hide core.val = true →
    s.furlongOn (core.val / 17) = false →
    exec (.groupPlacement cid core) s = .next (s.wakeFurlong (core.val / 17))) ∧
  -- the group that is placed, and its chains, where none starts with every thread exited
  (∀ (core : Nat) (c : Cmd) (s : State),
    (∀ k, k < c.chainsIn c.nextGroup → (freshChain c c.nextGroup k).active ≠ 0) →
    ((∃ x : Group, (s.placeGroup c core).groups = s.groups ++ [x] ∧ x.cid = c.cid ∧ x.g = c.nextGroup ∧ x.ctx = c.ctx ∧ x.core = some core ∧
      x.slots = s.freeSlots core (c.chainsIn c.nextGroup) ∧ x.lsBase = s.freeLs core c.lsSize ∧ x.lsSize = c.lsSize ∧ x.chains = c.chainsIn c.nextGroup) ∧
   ∀ k j, (s.freeSlots core (c.chainsIn c.nextGroup))[k]? = some j → (s.placeGroup c core).chain? core j = some (freshChain c c.nextGroup k))) ∧
  -- a chain as it starts
  (∀ (c : Cmd) (g k : Nat),
    ((freshChain c g k).pc = c.entry ∧ (freshChain c g k).inGroup = k ∧ (freshChain c g k).v = [] ∧ (freshChain c g k).stack = [] ∧
   (∀ i, i < 16 → tget (freshChain c g k).u i 0 = BitVec.ofNat 64 (c.arg / 2 ^ (64 * i))) ∧
   ∀ t, t < 32 → ((freshChain c g k).active.getLsbD t = decide (32 * (g * c.groupSize + k) + t < c.threads) ∧
     (freshChain c g k).exited.getLsbD t = decide (c.threads ≤ 32 * (g * c.groupSize + k) + t)))) ∧
  -- free slots are free, and no two are the same
  (∀ (core n : Nat) (s : State) (x : Group),
    x ∈ s.groupsOn core →
    ((s.freeSlots core n).Nodup ∧ ∀ i ∈ s.freeSlots core n, i < 64 ∧ i ∉ x.slots)) ∧
  -- the slice of a group has expired, and one that is behind waits for what it holds
  (∀ (cid g : Nat) (i : Nat) (x : Group) (c : Cmd) (s : State),
    s.group? cid g = some x →
    s.cmd? cid = some c →
    x.core = some i →
    x.cls = 2 →
    x.saving = false →
    x.since + 1000 * s.kodRun (0x5000 + c.hide) 8 ≤ s.btime.toNat →
    s.recordFits x = true →
    s.sliceWanted x c i = true →
    exec (.coreSliceExpiry cid g) s = .next (s.preempt cid g false)) ∧
  -- a pre-empted group that is quiet is saved where its record fits
  (∀ (cid g : Nat) (x : Group) (s : State),
    s.group? cid g = some x →
    x.saving = true →
    s.groupQuiet x = true →
    (s.cmd? cid).any (fun c => c.phase == .running) = true →
    x.toReset = true ∨ s.recordFits x = true →
    exec (.groupSaveComplete cid g) s = .next (s.saveGroup cid g)) ∧
  -- one that is not quiet yet
  (∀ (cid g : Nat) (x : Group) (s : State),
    s.group? cid g = some x →
    s.groupQuiet x = false →
    exec (.groupSaveComplete cid g) s = .next s) ∧
  -- a saved group leaves its core: its chains are kept in ascending order in its record
  (∀ (cid g i : Nat) (x : Group) (s : State),
    s.group? cid g = some x →
    x.core = some i →
    ∃ y : Group, (s.saveGroup cid g).group? cid g = some y ∧ y.core = none ∧ y.slots = [] ∧ y.saving = false ∧ y.recLen = s.groupRecLen x ∧ y.savedChains.length ≤ x.chains) ∧
  -- a saved group resumes on a core of its hide that has room
  (∀ (cid g : Nat) (core : Fin 272) (x : Group) (c : Cmd) (s : State),
    s.group? cid g = some x →
    s.cmd? cid = some c →
    s.mayResume x c core.val = true →
    s.furlongOn (core.val / 17) = true →
    s.fitsBeside c.hide x.cls x.chains x.vregs x.lsSize (s.groupsOn core.val) = true →
    exec (.groupResume cid g core) s = .next (s.resumeGroup x c core.val))

/-- A firmware's move request that is not refused is answered with code 0, and the move starts. At the end of the drain
window a last group whose record fits is pre-empted; once none is left and the furlong's store buffers are empty it leaves
its hide. It joins the new hide zeroed and powered. A rebalancing period moves at most one furlong, the highest of the
donor, journaled with source 4, and clears the counts. A fenced context whose accesses are over continues. -/
def Obligations.FurlongMoves : Prop :=
  -- a request of firmware to give a furlong to another hide
  (∀ (f : Fin 16) (val : Byte) (s : State),
    s.ctlUp = true →
    s.pow.boot ≠ .warmHeld →
    s.pow.fwUp = true →
    s.kodErr true (kodSet .firmware 0x3020 f.val 1 1 0 val.toNat) = none →
    ownerOf (val.toNat &&& 0x8F) ≠ s.owner f.val →
    ∃ u : State, exec (.furlongMoveRequest .firmware f val) s = .next (u.kodAnswer (kodSet .firmware 0x3020 f.val 1 1 0 val.toNat) 0 []) ∧
    (∃ m, (u.moves.find? (fun x => x.f == f.val)) = some m ∧ m.dst = ownerOf (val.toNat &&& 0x8F) ∧ m.byManager = true)) ∧
  -- at the end of the drain window an empty furlong leaves
  (∀ (f : Fin 16) (m : Move) (s : State),
    s.moves.find? (fun x => x.f == f.val && x.step == 1) = some m →
    m.from_ + 1000 * s.kodRun (0x5000 + m.src) 6 ≤ s.btime.toNat →
    s.groupsOnFurlong f.val = [] →
    (List.range 17).all (fun c => (s.core (coreIdx f.val c)).sb.isEmpty) = true →
    exec (.drainWindowExpiry f) s = .next (s.leaveSource m)) ∧
  -- one group is left there, and its record fits: it is pre-empted
  (∀ (f : Fin 16) (m : Move) (x : Group) (s : State),
    s.moves.find? (fun x => x.f == f.val && x.step == 1) = some m →
    m.from_ + 1000 * s.kodRun (0x5000 + m.src) 6 ≤ s.btime.toNat →
    s.groupsOnFurlong f.val = [x] →
    s.group? x.cid x.g = some x →
    x.saving = false →
    s.recordFits x = true →
    exec (.drainWindowExpiry f) s = .next (s.preempt x.cid x.g false)) ∧
  -- before the window ends
  (∀ (f : Fin 16) (m : Move) (s : State),
    s.moves.find? (fun x => x.f == f.val && x.step == 1) = some m →
    s.btime.toNat < m.from_ + 1000 * s.kodRun (0x5000 + m.src) 6 →
    exec (.drainWindowExpiry f) s = .next s) ∧
  -- the furlong joins its new hide
  (∀ (f : Fin 16) (m : Move) (d : Nat) (s : State),
    s.moves.find? (fun x => x.f == f.val && x.step == 2) = some m →
    m.dst = some d →
    (exec (.furlongJoin f) s = .next { (s.scrubFurlong f.val).setRun 0x3020 f.val (0x80 + d) with
      moves := s.moves.filter (fun x => x.f != f.val)
      pow := { s.pow with fOn := linsert s.pow.fOn f.val, lOn := linsert s.pow.lOn f.val, lRet := s.pow.lRet.filter (fun x => x != f.val) } } ∧
    ∀ i, i < 17 → ((s.scrubFurlong f.val).core (coreIdx f.val i)).chains = [] ∧ ((s.scrubFurlong f.val).core (coreIdx f.val i)).ls = [] ∧
      ((s.scrubFurlong f.val).core (coreIdx f.val i)).unit = {})) ∧
  -- a rebalancing period with a donor and a recipient, in which the manager has not moved a furlong
  (∀ (a b f : Nat) (s : State),
    s.donor = some a →
    s.recipient = some b →
    (s.furlongsOf a).getLast? = some f →
    s.mgrMoved = false →
    a ≠ b →
    ∃ u : State, u = (s.beginMove f (some b) false).journal 4 7 0 0x3020 f 0 (s.kodRun 0x3020 f) (0x80 + b) ∧
    exec .rebalancePeriodEnd s = .next { u.hideList.foldl (fun t h => t.updHide h (fun x => { x with busyTicks := 0, waited := 0, ticks := 0 })) u with mgrMoved := false }) ∧
  -- without one
  (∀ (s : State),
    s.donor = none ∨ s.recipient = none ∨ s.mgrMoved = true →
    exec .rebalancePeriodEnd s = .next { s.hideList.foldl (fun t h => t.updHide h (fun x => { x with busyTicks := 0, waited := 0, ticks := 0 })) s with mgrMoved := false }) ∧
  -- the end of a migration fence
  (∀ (ctx : Fin 16384) (s : State),
    s.ctxLive ctx.val = true →
    (s.ctx ctx.val).fenced = true →
    s.fenceQuiet ctx.val = true →
    exec (.migrationFenceEnd ctx) s = .next (s.endFence ctx.val)) ∧
  -- whose commands all go on: the fence is down and nothing else of the context changes
  (∀ (ctx : Fin 16384) (s : State),
    s.ctxLive ctx.val = true →
    (s.ctx ctx.val).fenced = true →
    s.fenceQuiet ctx.val = true →
    (s.ctx ctx.val).recovering = false →
    s.ctxCmds ctx.val = [] →
    exec (.migrationFenceEnd ctx) s = .next ((s.updCtx ctx.val (fun y => { y with fenced := false, recovering := false })).retime))

/-- At the start of span 0, where no class-1 group waits, the shadow table and span length become active. Each microsecond
the commands that are there are charged and the hides count; the charge of a class-2 command raises its queue's and its
function's virtual time by its grains over the weight. At a window's end a context's slowdown becomes its busy time over busy
less hindered time. An evaluation tick moves the start of quiet time of a context that is not quiet, and of a parked one by
the tick; a context quiet for longer than its hide's window has its records posted and its commands with chains end with
DEADLOCK. -/
def Obligations.SpansGrainsDeadlock : Prop :=
  -- the start of span 0, in a hide where no class-1 group waits
  (∀ (h : Fin 8) (s : State),
    s.btime.toNat % (1000 * (s.hide h.val).spanLen) < 1000 →
    s.spanNow h.val = 0 →
    (s.activateTable h.val).spanWaits h.val = [] →
    (exec (.spanStart h) s = .next ((s.activateTable h.val).retime) ∧
   ((s.activateTable h.val).hide h.val).spanLen = s.kodRun (0x5000 + h.val) 7)) ∧
  -- outside the first microsecond of a span
  (∀ (h : Fin 8) (s : State),
    1000 ≤ s.btime.toNat % (1000 * (s.hide h.val).spanLen) →
    exec (.spanStart h) s = .next s) ∧
  -- a microsecond without commands and contexts: the hides count it
  (∀ (s : State),
    s.cmds = [] →
    s.residents = [] →
    exec .grainChargeTick s = .next (s.hideList.foldl (fun t h => t.tickHide h) s)) ∧
  -- the charge of a microsecond for one command of class 2
  (∀ (c : Cmd) (s : State),
    c.cls = 2 →
    c.ctx = 0xFFFF →
    (((s.chargeCmd c).queue c.fn c.q).v = ((s.queue c.fn c.q).v + ((s.grainsOf c).1 + (s.grainsOf c).2.1 + (s.grainsOf c).2.2.1 + (s.grainsOf c).2.2.2) * 65536 /
      max 1 (s.queue c.fn c.q).weight) % 2 ^ 64 ∧
    ((s.chargeCmd c).fn c.fn).v = ((s.fn c.fn).v + ((s.grainsOf c).1 + (s.grainsOf c).2.1 + (s.grainsOf c).2.2.1 + (s.grainsOf c).2.2.2) * 65536 /
      max 1 (s.fnKod c.fn 5)) % 2 ^ 64)) ∧
  -- every command that is there is charged
  (∀ (c : Cmd) (s : State),
    s.cmds = [c] →
    (s.chargeCmd c).residents = [] →
    ∃ t : State, exec .grainChargeTick s = .next t ∧ (t.queue c.fn c.q).v = ((s.chargeCmd c).queue c.fn c.q).v ∧ t.cmds = s.cmds) ∧
  -- the end of the window of the one context of a hide
  (∀ (h : Fin 8) (c n : Nat) (s : State),
    s.residents.filter (fun k => (s.ctx k).hide == h.val) = [c] →
    exec (.slowdownWindowEnd h [(c, n)]) s = .next (s.endWindow c n)) ∧
  -- its slowdown is busy over busy less hindered, in 8.8
  (∀ (c n : Nat) (s : State),
    n < (s.ctx c).busy →
    (((s.endWindow c n).ctx c).slowdown = min 0xFFFF (256 * (s.ctx c).busy / ((s.ctx c).busy - n)) ∧ ((s.endWindow c n).ctx c).busy = 0)) ∧
  -- an evaluation tick moves the start of quiet time for each context that is not quiet, and for a parked one by the
  -- microsecond
  (∀ (c : Nat) (s : State),
    s.live = [c] →
    ∃ t : State, exec .deadlockEvaluationTick s = .next t ∧ (t.ctx c).quietSince = (if (s.ctx c).resident then
      (if s.quiet c then (s.ctx c).quietSince else s.btime.toNat) else (s.ctx c).quietSince + 1000) ∧ Same (fields [.ctxs]) s t) ∧
  -- a context quiet past the window: its records are posted and every command with chains ends with DEADLOCK
  (∀ (ctx : Fin 16384) (s : State),
    s.ctxLive ctx.val = true →
    (s.ctx ctx.val).resident = true →
    s.quiet ctx.val = true →
    (s.ctx ctx.val).quietSince + 1000 * s.kodRun (0x5000 + (s.ctx ctx.val).hide) 5 < s.btime.toNat →
    ∃ u : State, u = (s.postErrs (s.ctx ctx.val).fn ctx.val 0xFFFFFFFF 0 0x1A (s.deadlockParts ctx.val)).updCtx ctx.val (fun y => { y with quietSince := s.btime.toNat }) ∧
    exec (.deadlockRaise ctx) s = .next ((((s.ctxCmds ctx.val).filter (fun k => s.groups.any (fun g => g.cid == k.cid))).foldl (fun t k => t.endCmd k.cid 0x1A none) u).retime)) ∧
  -- one that is not quiet, or not for long enough
  (∀ (ctx : Fin 16384) (s : State),
    s.quiet ctx.val = false ∨ s.btime.toNat ≤ (s.ctx ctx.val).quietSince + 1000 * s.kodRun (0x5000 + (s.ctx ctx.val).hide) 5 →
    exec (.deadlockRaise ctx) s = .next s)

/-- A rising edge latches its source: the pending bit is set once and a group without moderation presents it. A write to
SRC_SETP latches the sources whose bits are 1, through the host view only those of group 62, none during a reset of the PF; a
write to SRC_PEND withdraws them. At the end of hold-off or of coalescing the group is presented. A read of TGT_ACK takes the eligible
source of the lowest level, and the lowest number within it, off pending, in service and onto the stack. TGT_EOI
takes the top off the stack; any other number is a mismatch, which is counted, latched and recorded. -/
def Obligations.EventGatherer : Prop :=
  -- a rising edge
  (∀ (n : Fin 1024) (s : State),
    s.ctlUp = true →
    exec (.sourceLatch n) s = .next ({ s with eg := { s.eg with high := linsert s.eg.high n.val } }.latch n.val)) ∧
  -- latching sets the pending bit, and a pending source is not latched again
  (∀ (n : Nat) (s : State),
    (s.src n).pending = true →
    s.latch n = s) ∧
  -- a group that is neither in hold-off nor coalescing presents what is pending at once
  (∀ (n : Nat) (s : State),
    (s.src n).pending = false →
    (s.src n).enable = true →
    (s.grp (n / 16)).tgtEn ≠ 0 →
    s.inHoldOff (n / 16) = false →
    s.inCoalescing (n / 16) = false →
    n < 1008 →
    (((s.latch n).src n).pending = true ∧ ((s.latch n).src n).presented = true ∧ ((s.latch n).grp (n / 16)).latches = 0)) ∧
  -- SRC_SETP from a control core, and from the host
  (∀ (w : Fin 16) (bits : W64) (s : State),
    s.running = true →
    (exec (.srcSetpWrite false w bits) s = .next ((wordSources w.val bits).foldl (fun t n => t.latch n) s) ∧
   (w ≠ 15 → exec (.srcSetpWrite true w bits) s = .next s) ∧
   ((s.fn 0).resetting = false →
      exec (.srcSetpWrite true 15 bits) s = .next ((wordSources 15 (bits &&& 0x0000FFFF00000000)).foldl (fun t n => t.latch n) s)))) ∧
  -- from the host during a reset of the PF, and while the block does not run
  (∀ (w : Fin 16) (bits : W64) (s : State),
    (s.running = true → (s.fn 0).resetting = true → exec (.srcSetpWrite true w bits) s = .next s) ∧
    (s.running = false → exec (.srcSetpWrite true w bits) s = .next (s.emit (.hostError 0)))) ∧
  -- SRC_PEND withdraws
  (∀ (w : Fin 16) (bits : W64) (s : State),
    s.ctlUp = true →
    ∃ t : State, exec (.srcPendWrite w bits) s = .next t ∧ (∀ i, i < 64 → bits.getLsbD i = true →
      (t.src (64 * w.val + i)).pending = false ∧ (t.src (64 * w.val + i)).presented = false) ∧
    (∀ i, i < 64 → bits.getLsbD i = false → t.src (64 * w.val + i) = s.src (64 * w.val + i)) ∧ Same (fields [.eg]) s t) ∧
  -- the end of hold-off
  (∀ (g : Fin 64) (s : State),
    s.inHoldOff g.val = true →
    (s.grp g.val).latches ≠ 0 →
    (s.grp g.val).first + 1000 * max 1 (s.grp g.val).holdUs ≤ s.btime.toNat →
    exec (.holdOffExpiry g) s = .next (s.presentGrp g.val)) ∧
  -- the end of coalescing
  (∀ (g : Fin 64) (s : State),
    s.inCoalescing g.val = true →
    (s.grp g.val).latches ≠ 0 →
    (s.grp g.val).coalTime ≠ 0 →
    (s.grp g.val).first + 1000 * (s.grp g.val).coalTime ≤ s.btime.toNat →
    exec (.coalesceExpiry g) s = .next (s.presentGrp g.val)) ∧
  -- neither before its time
  (∀ (g : Fin 64) (s : State),
    (s.grp g.val).latches = 0 →
    (exec (.holdOffExpiry g) s = .next s ∧ exec (.coalesceExpiry g) s = .next s)) ∧
  -- an acknowledge
  (∀ (t : Fin 4) (n : Nat) (s : State),
    s.ctlUp = true →
    s.bestSource t.val = some n →
    exec (.acknowledge t) s = .next (((s.updSrc n (fun x => { x with pending := false, presented := false, insvc := true })).updTgt t.val (fun x => { x with
      stack := (n, (s.src n).level) :: x.stack })).emit (.tgtAck t.val (BitVec.ofNat 32 (n + (s.src n).level * 2 ^ 16))))) ∧
  -- the source that it takes
  (∀ (t n m : Nat) (s : State),
    s.bestSource t = some n →
    s.eligible t m = true →
    m ∈ s.eg.srcs.map (fun e => e.1) →
    twf s.eg.srcs = true →
    (s.eligible t n = true ∧ ((s.src n).level < (s.src m).level ∨ (s.src n).level = (s.src m).level ∧ n ≤ m))) ∧
  -- with nothing eligible
  (∀ (t : Fin 4) (s : State),
    s.ctlUp = true →
    s.bestSource t.val = none →
    exec (.acknowledge t) s = .next (s.emit (.tgtAck t.val 0x80000000))) ∧
  -- the end of the interrupt on top of the stack
  (∀ (t : Fin 4) (src : BitVec 10) (l : Nat) (rest : List (Nat × Nat)) (s : State),
    s.ctlUp = true →
    (s.tgt t.val).stack = (src.toNat, l) :: rest →
    exec (.endOfInterrupt t src) s = .next ((s.updTgt t.val (fun x => { x with stack := rest })).updSrc src.toNat (fun x => { x with insvc := false }))) ∧
  -- any other number
  (∀ (t : Fin 4) (src : BitVec 10) (s : State),
    s.ctlUp = true →
    (∀ e ∈ (s.tgt t.val).stack.head?, e.1 ≠ src.toNat) →
    exec (.endOfInterrupt t src) s = .next (s.eoiMismatch t.val src.toNat))

/-- A write of 1 to STICKY clears STICKY and COUNT; through the host view it is journaled. A mailbox word written to an
empty channel is kept with the writer's generation and, inbound, latches source 704 + channel; a full channel drops
and counts the word. A TAKE empties the channel; the host's latches source 720 + channel. A secure channel answers a
host request without the trust attribute with an error. Host writes are ignored during a reset of the PF and answered with
an error while the block does not run. -/
def Obligations.WatermarksAndMailboxes : Prop :=
  -- STICKY of a watermark, from a control core
  (∀ (n : Fin 512) (s : State),
    s.ctlUp = true →
    n.val < 272 →
    exec (.watermarkStickyClear n false) s = .next (s.updWm n.val (fun w => { w with sticky := false, count := 0 }))) ∧
  -- through the host view (the journal names the entry by a free value, log 4)
  (∀ (n : Fin 512) (s : State),
    s.running = true →
    (s.fn 0).resetting = false →
    n.val < 272 →
    exec (.watermarkStickyClear n true) s = .next ((s.clearSticky n.val).journalWm (s.wmCtrl n.val) ((s.clearSticky n.val).wmCtrl n.val))) ∧
  -- a watermark that does not exist
  (∀ (n : Fin 512) (host : Bool) (s : State),
    s.running = true →
    272 ≤ n.val →
    exec (.watermarkStickyClear n host) s = .next s) ∧
  -- an inbound word to an empty channel
  (∀ (ch : Fin 16) (trust : Bool) (v : W64) (s : State),
    s.running = true →
    (s.fn 0).resetting = false →
    8 ≤ ch.val ∨ trust = true →
    (s.box ch.val).inFull = false →
    exec (.mailboxInWrite ch trust v) s = .next ((s.updBox ch.val (fun b => { b with inWord := v, inGen := (s.fn 0).gen, inFull := true })).latch (704 + ch.val))) ∧
  -- to a full one
  (∀ (ch : Fin 16) (trust : Bool) (v : W64) (s : State),
    s.running = true →
    (s.fn 0).resetting = false →
    8 ≤ ch.val ∨ trust = true →
    (s.box ch.val).inFull = true →
    exec (.mailboxInWrite ch trust v) s = .next (s.updBox ch.val (fun b => { b with drops := stickAdd 64 b.drops 1 }))) ∧
  -- an outbound word of firmware, to an empty and to a full channel
  (∀ (ch : Fin 16) (v : W64) (s : State),
    s.ctlUp = true →
    exec (.mailboxOutWrite ch v) s = .next (if (s.box ch.val).outFull then s.updBox ch.val (fun b => { b with drops := stickAdd 64 b.drops 1 })
      else s.updBox ch.val (fun b => { b with outWord := v, outGen := s.ao.fwGen, outFull := true }))) ∧
  -- the two TAKEs
  (∀ (ch : Fin 16) (s : State),
    s.running = true →
    (s.fn 0).resetting = false →
    (s.box ch.val).outFull = true →
    (exec (.mailboxTakeInbound ch) s = .next (s.updBox ch.val (fun b => { b with inFull := false })) ∧
   exec (.mailboxTakeOutbound ch true) s = .next ((s.updBox ch.val (fun b => { b with outFull := false })).latch (720 + ch.val)))) ∧
  -- a secure channel without the trust attribute
  (∀ (ch : Fin 16) (v : W64) (s : State),
    s.running = true →
    (s.fn 0).resetting = false →
    ch.val < 8 →
    (exec (.mailboxInWrite ch false v) s = .next (s.emit (.hostError 0)) ∧ exec (.mailboxTakeOutbound ch false) s = .next (s.emit (.hostError 0)))) ∧
  -- a host write during a reset of the PF, and while the block does not run
  (∀ (ch : Fin 16) (n : Fin 512) (trust : Bool) (v : W64) (s : State),
    (s.running = true → (s.fn 0).resetting = true → exec (.mailboxInWrite ch trust v) s = .next s ∧
      exec (.mailboxTakeOutbound ch trust) s = .next s ∧ exec (.watermarkStickyClear n true) s = .next s) ∧
    (s.running = false → exec (.mailboxInWrite ch trust v) s = .next (s.emit (.hostError 0)) ∧
      exec (.mailboxTakeOutbound ch trust) s = .next (s.emit (.hostError 0)) ∧
      exec (.watermarkStickyClear n true) s = .next (s.emit (.hostError 0))))

/-- A command whose timer has reached its class's window ends with HANG; one past its context's deadline too. A stop
unfinished after 2 µs starts the recovery of its context. In a recovery of a hide, requests outstanding 2 µs after its fence
are cut: those of its stopped commands, and all once every other group is saved; nothing of a cut command stays in a store
buffer. A compute-part reset of a hide in service starts, and is absorbed during a recovery; a suspect position that passes
its test is released, a failed one retired; the reset ends once no group is left and no position awaits its test. One not
ended within 60 µs becomes a full reset. -/
def Obligations.HangsAndResets : Prop :=
  -- the watchdog
  (∀ (cid : Nat) (c : Cmd) (s : State),
    s.cmd? cid = some c →
    c.started = true ∧ c.tOn = true ∧ c.phase ≠ .stopping ∧ c.stage = none →
    s.cmdFrozen c = false →
    s.cmdHeld c = false →
    1000 * s.classWindow c.hide c.cls ≤ s.timerOf c →
    exec (.watchdogExpiry cid) s = .next ((s.endCmd cid 0x16 (some (s.hangErr c 0 (s.classWindow c.hide c.cls)))).retime)) ∧
  -- the timer has not reached the window
  (∀ (cid : Nat) (c : Cmd) (s : State),
    s.cmd? cid = some c →
    s.timerOf c < 1000 * s.classWindow c.hide c.cls →
    exec (.watchdogExpiry cid) s = .next s) ∧
  -- the deadline
  (∀ (cid : Nat) (c : Cmd) (s : State),
    s.cmd? cid = some c →
    c.ctx ≠ 0xFFFF ∧ (s.ctx c.ctx).deadline ≠ 0 ∧ c.phase ≠ .stopping ∧ c.phase ≠ .ended ∧ c.stage = none →
    c.accAt + 1000 * (s.ctx c.ctx).deadline ≤ s.btime.toNat →
    exec (.deadlineExpiry cid) s = .next ((s.endCmd cid 0x16 (some (s.hangErr c 1 (s.ctx c.ctx).deadline))).retime)) ∧
  -- a stop that takes more than 2 µs
  (∀ (cid : Nat) (c : Cmd) (s : State),
    s.cmd? cid = some c →
    c.phase = .stopping →
    s.cmdQuiet cid = false →
    c.stopAt + 2000 ≤ s.btime.toNat →
    exec (.stopTimeout cid) s = .next (s.recoverCtx c.ctx)) ∧
  -- the drain time of the fences of a hide in recovery, whose groups have all been saved
  (∀ (h : Fin 8) (t : Nat) (s : State),
    (s.hide h.val).recovery = true →
    (s.hide h.val).fenceFrom = some t →
    t + 2000 ≤ s.btime.toNat →
    s.groupsLeft h.val = false →
    exec (.fenceDrainExpiry h) s = .next ((s.cutRequests h.val (fun c => c.hide == h.val)).updHide h.val (fun y => { y with fenceFrom := none }))) ∧
  -- while a group of a command that goes on is placed there, only the commands that have stopped are cut
  (∀ (h : Fin 8) (t : Nat) (s : State),
    (s.hide h.val).recovery = true →
    (s.hide h.val).fenceFrom = some t →
    t + 2000 ≤ s.btime.toNat →
    s.groupsLeft h.val = true →
    exec (.fenceDrainExpiry h) s = .next (s.cutRequests h.val (fun c => c.hide == h.val && c.phase == .stopping))) ∧
  -- before it has passed
  (∀ (h : Fin 8) (t : Nat) (s : State),
    (s.hide h.val).recovery = true →
    (s.hide h.val).fenceFrom = some t →
    s.btime.toNat < t + 2000 →
    exec (.fenceDrainExpiry h) s = .next s) ∧
  -- what a cut leaves of the store buffers of its commands
  (∀ (h : Nat) (p : Cmd → Bool) (c : Cmd) (s : State),
    s.cmds = [c] →
    p c = true →
    ∀ k ∈ (s.cutRequests h p).cores, ∀ e ∈ k.2.sb, e.cid ≠ c.cid) ∧
  -- the reset of the compute part of a hide in service
  (∀ (h : Fin 8) (trigger : Fin 5) (f : Nat) (s : State),
    s.hideExists h.val = true →
    (s.hide h.val).started = true →
    (s.hide h.val).recovery = false →
    (s.furlongsOf h.val).head? = some f →
    exec (.computePartReset h trigger) s = .next ((s.latchIn f).startReset h.val trigger.val)) ∧
  -- one during a recovery is absorbed
  (∀ (h : Fin 8) (trigger : Fin 5) (s : State),
    (s.hide h.val).recovery = true →
    (exec (.computePartReset h trigger) s = .next s ∧ ∀ t, s.startReset h.val t = s)) ∧
  -- the self-test
  (∀ (h : Fin 8) (l : List (Fin 272)) (s : State),
    (s.hide h.val).recovery = true →
    s.noGroups h.val = true →
    exec (.selfTestEnd h l) s = .next (((s.furlongsOf h.val).flatMap (fun f => (List.range 17).map (fun c => coreIdx f c))).foldl (fun t i =>
      t.testPosition h.val i (l.any (fun x => x.val == i))) s)) ∧
  -- a suspect position that passes for the first time is released; it has been suspect once more
  (∀ (h core : Nat) (s : State),
    (s.core core).failed = false →
    (s.core core).suspect = true →
    (s.core core).passes = [] →
    (s.core core).suspects < 3 →
    (((s.testPosition h core false).core core).suspect = false ∧ ((s.testPosition h core false).core core).suspects = (s.core core).suspects + 1 ∧
    ((s.testPosition h core false).core core).retired = (s.core core).retired)) ∧
  -- a failed one is retired
  (∀ (h core : Nat) (fails : Bool) (s : State),
    (s.core core).failed = true →
    (((s.testPosition h core fails).core core).retired = true ∧ ((s.testPosition h core fails).core core).failed = false)) ∧
  -- the end of the compute-part reset
  (∀ (h : Fin 8) (s : State),
    (s.hide h.val).recKind = 1 →
    s.noGroups h.val = true →
    (s.hideCores h.val).all (fun i => !(s.core i).failed && !(s.core i).suspect) = true →
    exec (.computePartResetEnd h) s = .next ((s.endReset h.val).afterRecovery h.val)) ∧
  -- it does not end within 60 µs
  (∀ (h : Fin 8) (s : State),
    (s.hide h.val).recKind = 1 →
    (s.hide h.val).recFrom + 60000 ≤ s.btime.toNat →
    exec (.computePartResetTimeout h) s = .next (s.startFull h.val 3))

/-- A full reset increments the hide's epoch, empties its queues and its acre and waits for the key; a second request is
absorbed. Once entropy is delivered a new key pair is drawn, under which nothing stored
can be recovered; where the hide asks for the scrub it waits for its Stack Ports, and otherwise ends. At the end the
hide is started if it exists, and the reset is recorded. -/
def Obligations.FullHideReset : Prop :=
  -- a second request
  (∀ (h trigger : Nat) (s : State),
    (s.hide h).recKind = 2 →
    s.startFull h trigger = s) ∧
  -- the start of the reset
  (∀ (h : Nat) (s : State),
    (s.hide h).recKind ≠ 2 →
    s.pow.zeroised = false →
    s.live = [] →
    h < 8 →
    (((s.startFull h 0).hide h).recovery = true ∧ ((s.startFull h 0).hide h).recKind = 2 ∧ ((s.startFull h 0).hide h).fullStep = 1 ∧
    ((s.startFull h 0).hide h).epoch = (s.hide h).epoch + 1 ∧ ((s.startFull h 0).hide h).engQ = [] ∧ ((s.startFull h 0).hide h).pendSeqs = [] ∧
    ((s.startFull h 0).hide h).acre.run = none)) ∧
  -- the key of a hide without the scrub
  (∀ (h : Fin 8) (s : State),
    (s.hide h.val).recKind = 2 →
    (s.hide h.val).fullStep = 1 →
    s.pow.entropy = true →
    s.kodRun (0x3000 + h.val) 0x0D ≠ 1 →
    exec (.hideKeyGenerated h) s = .next (((s.drawKey h.val).endFull h.val).afterRecovery h.val)) ∧
  -- of one with the scrub
  (∀ (h : Fin 8) (s : State),
    (s.hide h.val).recKind = 2 →
    (s.hide h.val).fullStep = 1 →
    s.pow.entropy = true →
    s.kodRun (0x3000 + h.val) 0x0D = 1 →
    exec (.hideKeyGenerated h) s = .next ((s.drawKey h.val).updHide h.val (fun y => { y with fullStep := 2 }))) ∧
  -- without entropy the reset waits
  (∀ (h : Fin 8) (s : State),
    s.pow.entropy = false →
    exec (.hideKeyGenerated h) s = .next s) ∧
  -- the new key is the next draw of the DRBG, and nothing of the hide's memory is listed any more
  (∀ (h : Nat) (s : State),
    (((s.drawKey h).hide h).key = 2 ∧ ((s.drawKey h).hide h).keyDraw = s.pow.draws ∧ (s.drawKey h).pow.draws = s.pow.draws + 1 ∧
    ∀ u, u < 0xC0 → s.unitKind u ≠ 0 → s.unitHide u = h → ∀ a, a / 2 ^ 32 = u → (s.drawKey h).mem.get a = 0)) ∧
  -- the scrub ends with every Stack Port of the hide ready
  (∀ (h : Fin 8) (s : State),
    (s.hide h.val).recKind = 2 →
    (s.hide h.val).fullStep = 2 →
    (s.portsOfHide h.val).all (fun p => (tget s.sports p {}).ready) = true →
    exec (.hideScrubEnd h) s = .next ((({ s with
      scrubbed := s.scrubbed ++ (List.range 0xC0).filter (fun u => s.unitKind u == 2 && s.unitHide u == h.val) } : State).endFull h.val).afterRecovery h.val)) ∧
  -- the end of the reset
  (∀ (h : Nat) (s : State),
    h < 8 →
    (((s.endFull h).hide h).recovery = false ∧ ((s.endFull h).hide h).recKind = 0 ∧ ((s.endFull h).hide h).started = s.hideExists h))

/-- A READ that does not fail is answered with the entry's bytes, one that does with its code and no data. A WRITE is
journaled whether it is performed or refused, and answered with its code; an accepted write of a live value changes
the running value and the stored one. A DESCRIBE gives the entry's type, access, kind and default. The register
window shows the response and DONE, and takes no request while it is busy. A request while the management controller does
not run has an error response. MCTP control sets the endpoint ID. -/
def Obligations.DictionaryRequests : Prop :=
  -- a READ that does not fail
  (∀ (r : KodReq) (s : State),
    serves s r.src →
    s.kodErr false r = none →
    exec (.kodRead r) s = .next (s.kodAnswer r 0 (s.kodBytes r))) ∧
  -- one that fails
  (∀ (r : KodReq) (code : Nat) (s : State),
    serves s r.src →
    s.kodErr false r = some code →
    exec (.kodRead r) s = .next (s.kodAnswer r code [])) ∧
  -- the failures and their codes
  (∀ (wr : Bool) (r : KodReq) (s : State),
    r.prof < 4 ∨ r.prof = 7 →
    kodEntry r.idx r.sub = none →
    s.kodErr wr r = some 0x10) ∧
  -- a WRITE of an entry that the dictionary refuses is journaled with its code
  (∀ (r : KodReq) (e : KodEnt) (code : Nat) (s : State),
    serves s r.src →
    kodEntry r.idx r.sub = some e →
    s.kodErr true r = some code →
    r.ty < 7 →
    exec (.kodWrite r) s = .next ((s.journal (s.kodSource r.src).1 r.prof (s.kodSource r.src).2 r.idx r.sub code
      (journalForm e (s.oldOf e r)) (reqVal r)).kodAnswer r code [])) ∧
  -- an accepted WRITE of a number is journaled and performed
  (∀ (r : KodReq) (e : KodEnt) (s : State),
    serves s r.src →
    kodEntry r.idx r.sub = some e →
    s.kodErr true r = none →
    e.ty < 7 →
    ∃ code : Nat, (code = 0 ∨ code = 1) ∧ exec (.kodWrite r) s = .next ((((s.journal (s.kodSource r.src).1 r.prof (s.kodSource r.src).2 r.idx r.sub code
      (s.oldOf e r) (e.keep (reqVal r))).kodPerform e r)).kodAnswer r code [])) ∧
  -- a live number is the running value and the active profile's stored value from then on
  (∀ (r : KodReq) (e : KodEnt) (s : State),
    kodEntry r.idx r.sub = some e →
    e.persist = true ∧ e.kind = 0 ∧ e.ty < 7 ∧ e.acc = 2 →
    r.prof = 7 →
    0x5010 ≤ r.idx ∧ r.idx < 0x6000 →
    (tget (s.kodPerform e r).kod.run (kodKey r.idx r.sub) 0 = e.keep (reqVal r) ∧
   tget (tget (s.kodPerform e r).kod.stored s.kod.active []) (kodKey r.idx r.sub) 0 = e.keep (reqVal r))) ∧
  -- a DESCRIBE
  (∀ (r : KodReq) (e : KodEnt) (s : State),
    serves s r.src →
    r.prof < 4 ∨ r.prof = 7 →
    kodEntry r.idx r.sub = some e →
    exec (.kodDescribe r) s = .next (s.kodAnswer r 0 (s.kodDescription e r.idx r.sub))) ∧
  -- through the register window: the response is in the window and DONE is set
  (∀ (r : KodReq) (s : State),
    s.ctlUp = true →
    s.pow.boot ≠ .warmHeld →
    s.pow.fwUp = true →
    s.kodOpen .window = true →
    r.src = .window →
    s.kod.busy = false →
    (s.fn 0).resetting = false →
    s.kodErr false r = none →
    ∃ t : State, exec (.kodRead r) s = .next t ∧ t.kod.done = true ∧ t.kod.busy = false ∧ t.kod.code = 0 ∧ t.kod.kwReq = kodHeader 1 r r.len ∧
    t.kod.kwData = stagePut s.kod.kwData 0 (s.kodBytes r) ∧ t.kod.run = s.kod.run ∧ t.kod.stored = s.kod.stored) ∧
  -- a busy window takes no request
  (∀ (r : KodReq) (s : State),
    s.running = true →
    r.src = .window →
    s.kod.busy = true →
    (exec (.kodRead r) s = .next s ∧ exec (.kodWrite r) s = .next s ∧ exec (.kodDescribe r) s = .next s)) ∧
  -- a request while firmware does not run is kept, at most 16 of them
  (∀ (r : KodReq) (s : State),
    s.ctlUp = true →
    s.pow.boot ≠ .warmHeld →
    s.pow.fwUp = false →
    s.kodOpen r.src = true →
    r.src ≠ .window →
    exec (.kodRead r) s = .next (if s.kod.reqs.length < 16 then { s with kod := { s.kod with reqs := s.kod.reqs ++ [(1, r)] } }
      else s.kodAnswer r 0x16 [])) ∧
  -- a request while the controller is without power, or held by WARMRST_N, has an error response
  (∀ (r : KodReq) (s : State),
    s.running = false →
    (exec (.kodRead r) s = .next (s.emit (.transportError (some r.src))) ∧ exec (.kodWrite r) s = .next (s.emit (.transportError (some r.src))) ∧
   exec (.kodDescribe r) s = .next (s.emit (.transportError (some r.src))))) ∧
  -- MCTP control
  (∀ (e : Byte) (s : State),
    s.ctlUp = true →
    (exec (.mctpControl (some e)) s = .next (({ s with kod := { s.kod with eid := some e } } : State).emit (.mctp (some e))) ∧
   exec (.mctpControl none) s = .next (s.emit (.mctp s.kod.eid))))

/-- Writes to SWITCH, COPY, the staging and commit entries, the shift-program store and a hide's RESET are journaled and
then switch or copy the profile, keep the piece, commit the image, save the program, or reset the hide. A held live
value takes effect once its condition is met. A config-store commit writes the changed profiles over the older
copies; a mirror copy takes the oldest journal entry and frees its slot; a failed program raises an alarm. -/
def Obligations.ProfilesImagesAndStores : Prop :=
  -- SWITCH
  (∀ (src : KodSrc) (val : Byte) (s : State),
    serves s src →
    s.kodErr true (kodSet src 0x2000 2 1 1 0 val.toNat) = none →
    exec (.profileSwitch src val) s = .next (((s.journal (s.kodSource src).1 7 (s.kodSource src).2 0x2000 2 0 0 (val.toNat &&& 0x83)).switchTo (val.toNat % 4) (val.getLsbD 7)).kodAnswer (kodSet src 0x2000 2 1 1 0 val.toNat) 0 [])) ∧
  -- COPY
  (∀ (src : KodSrc) (val : W16) (s : State),
    serves s src →
    s.kodErr true (kodSet src 0x2000 6 2 2 0 val.toNat) = none →
    exec (.profileCopy src val) s = .next (((s.journal (s.kodSource src).1 7 (s.kodSource src).2 0x2000 6 0 0 (val.toNat &&& 0x303)).copyProfile (val.toNat % 4) (val.toNat / 256 % 4)).kodAnswer (kodSet src 0x2000 6 2 2 0 val.toNat) 0 [])) ∧
  -- a piece of the firmware image
  (∀ (src : KodSrc) (off : Nat) (data : List Byte) (s : State),
    serves s src →
    s.kodErr true { kodSet src 0x1040 1 8 data.length off 0 with data := data } = none →
    ∃ t : State, exec (.firmwareStage src off data) s = .next (t.kodAnswer { kodSet src 0x1040 1 8 data.length off 0 with data := data } 0 []) ∧
    t.kod.fwStage = stagePut s.kod.fwStage off data ∧ t.kod.run = s.kod.run ∧ t.kod.stored = s.kod.stored) ∧
  -- FIRMWARE_COMMIT
  (∀ (src : KodSrc) (crc : W32) (s : State),
    serves s src →
    s.kodErr true (kodSet src 0x1040 2 3 4 0 crc.toNat) = none →
    exec (.firmwareCommit src crc) s = .next (((s.journal (s.kodSource src).1 7 (s.kodSource src).2 0x1040 2 0 0 crc.toNat).commitFirmware crc.toNat).kodAnswer (kodSet src 0x1040 2 3 4 0 crc.toNat) 0 [])) ∧
  -- an image whose CRC is right is named to start next, in the slot that does not run
  (∀ (crc : Nat) (s : State),
    stagedBytes s.kod.fwStage ≠ [] →
    (crc32 (stagedBytes s.kod.fwStage)).toNat = crc →
    s.kod.fwRun = 0 →
    ((s.commitFirmware crc).kod.fwNext = 1 ∧ (s.commitFirmware crc).kod.fwOk1 = true ∧ (s.commitFirmware crc).kod.fwRun = 0 ∧ (s.commitFirmware crc).kod.fwStage = [])) ∧
  -- a piece of a shift program image
  (∀ (src : KodSrc) (h : Fin 8) (off : Nat) (data : List Byte) (s : State),
    serves s src →
    s.kodErr true { kodSet src (0x3030 + h.val) 1 8 data.length off 0 with data := data } = none →
    ∃ t : State, exec (.shiftProgramStage src h off data) s = .next (t.kodAnswer { kodSet src (0x3030 + h.val) 1 8 data.length off 0 with data := data } 0 []) ∧
    (t.hide h.val).shiftStage = stagePut (s.hide h.val).shiftStage off data ∧ (t.hide h.val).acre = (s.hide h.val).acre) ∧
  -- SHIFT_PROGRAM_COMMIT
  (∀ (src : KodSrc) (h : Fin 8) (val : W32) (s : State),
    serves s src →
    s.kodErr true (kodSet src (0x3030 + h.val) 2 3 4 0 val.toNat) = none →
    exec (.shiftProgramCommit src h val) s = .next (((s.journal (s.kodSource src).1 7 (s.kodSource src).2 (0x3030 + h.val) 2 0 0 val.toNat).commitShift h.val).kodAnswer (kodSet src (0x3030 + h.val) 2 3 4 0 val.toNat) 0 [])) ∧
  -- SHIFT_PROGRAM_STORE
  (∀ (src : KodSrc) (h : Fin 8) (s : State),
    serves s src →
    s.kodErr true (kodSet src (0x3030 + h.val) 3 0 1 0 1) = none →
    exec (.shiftProgramStore src h) s = .next (((s.journal (s.kodSource src).1 7 (s.kodSource src).2 (0x3030 + h.val) 3 0 0 1).storeShift h.val).kodAnswer (kodSet src (0x3030 + h.val) 3 0 1 0 1) 0 [])) ∧
  -- HIDE_RESET with 1: the compute part
  (∀ (src : KodSrc) (h : Fin 8) (s : State),
    serves s src →
    s.kodErr true (kodSet src (0x3000 + h.val) 0x10 1 1 0 1) = none →
    exec (.hideReset src h 1) s = .next (((s.journal (s.kodSource src).1 7 (s.kodSource src).2 (0x3000 + h.val) 0x10 0 0 1).startReset h.val 4).kodAnswer (kodSet src (0x3000 + h.val) 0x10 1 1 0 1) 0 [])) ∧
  -- HIDE_RESET with 2: the full reset
  (∀ (src : KodSrc) (h : Fin 8) (s : State),
    serves s src →
    s.kodErr true (kodSet src (0x3000 + h.val) 0x10 1 1 0 2) = none →
    exec (.hideReset src h 2) s = .next (((s.journal (s.kodSource src).1 7 (s.kodSource src).2 (0x3000 + h.val) 0x10 0 0 2).startFull h.val 0).kodAnswer (kodSet src (0x3000 + h.val) 0x10 1 1 0 2) 0 [])) ∧
  -- a held live value
  (∀ (idx sub v : Nat) (s : State),
    tfind s.kod.heldLive (kodKey idx sub) = some v →
    exec (.pendingLiveApply idx sub) s = .next (if s.liveWaits idx sub v then s else s.setLive idx sub v)) ∧
  -- a config-store commit of one changed profile
  (∀ (p : Nat) (s : State),
    s.pow.fwUp = true →
    s.kod.dirty = [p] →
    ∃ t : State, exec (.configStoreCommit true) s = .next t ∧ t.kod.dirty = [] ∧ t.kod.hdrActive = s.kod.active ∧ t.kod.hdrEvseq = s.ao.newest.toNat ∧
    t.kod.copies = (s.writeCopy p true).kod.copies ∧ t.kod.stored = s.kod.stored ∧ t.kod.invalid = s.kod.invalid.filter (fun x => x != p)) ∧
  -- one whose program fails raises the alarm and leaves what is to be written
  (∀ (p : Nat) (s : State),
    s.pow.fwUp = true →
    s.kod.dirty = [p] →
    exec (.configStoreCommit false) s = .next (((s.writeCopy p false).writeHeader false).storeAlarm)) ∧
  -- the copy of a profile goes over the older one, or the invalid one
  (∀ (p : Nat) (ok : Bool) (s : State),
    s.goodCopy p = some 0 →
    ((s.writeCopy p ok).copyAt p 0 = s.copyAt p 0 ∧ (s.writeCopy p ok).copyAt p 1 =
      { valid := ok, seq := (s.copyAt p 0).seq + 1, lastEvseq := s.ao.newest.toNat, vals := tget s.kod.stored p [] })) ∧
  -- the oldest journal entry is mirrored and its slot is free
  (∀ (s : State),
    s.pow.fwUp = true →
    s.ao.jq.head ≠ s.ao.jq.tail →
    exec (.journalMirrorCopy true) s = .next { mirrorWrite s with ao := { s.ao with
      mirror := tset s.ao.mirror s.ao.mirrorPos (tget s.ao.journal (s.ao.jq.head.toNat % 512) 0), mirrorPos := (s.ao.mirrorPos + 1) % 16384,
      mirrored := (tget s.ao.journal (s.ao.jq.head.toNat % 512) 0).setWidth 64, journal := terase s.ao.journal (s.ao.jq.head.toNat % 512),
      jq := { s.ao.jq with head := s.ao.jq.head + 1 } } }) ∧
  -- a mirror copy that fails its check
  (∀ (s : State),
    s.pow.fwUp = true →
    s.ao.jq.head ≠ s.ao.jq.tail →
    exec (.journalMirrorCopy false) s = .next (mirrorWrite s).storeAlarm)

/-- A measurement below 1.03 × floor asks at once for two steps more; each 10 µs the request moves by one step towards
the target, within 0.62 V and 0.90 V. A pace below the floor for more than 1 µs is counted as a floor miss. Three
AVSBus errors in a row stop the requests until a retry succeeds. Over the cap the target falls by one step down to
the floor, then the throttle rises; under 0.95 of it they go back, throttle first. Tj above 115 °C trips. An idle
furlong of a hide with a sleep delay powers down, keeping its local stores, and wakes. -/
def Obligations.PacePowerAndSleep : Prop :=
  -- a measurement below 1.03 × floor
  (∀ (p : Nat) (r : List Nat) (s : State),
    s.running = true →
    100 * (r.foldl min p) < 103 * paceFloor →
    s.gov.avsStopped = false →
    ∃ t : State, exec (.paceMeasurement (p :: r)) s = .next t ∧ t.gov.pace = r.foldl min p ∧ t.gov.vdd = clampVdd (s.gov.vdd + 10) ∧
    t.out = .avs (clampVdd (s.gov.vdd + 10)) :: s.out ∧ Same (fields [.gov, .out]) s t) ∧
  -- one of a higher rate asks for nothing
  (∀ (p : Nat) (r : List Nat) (s : State),
    s.running = true →
    103 * paceFloor ≤ 100 * (r.foldl min p) →
    ∃ t : State, exec (.paceMeasurement (p :: r)) s = .next t ∧ t.gov.pace = r.foldl min p ∧ t.gov.vdd = s.gov.vdd ∧ t.gov.belowFrom = none ∧ Same (fields [.gov]) s t) ∧
  -- a request of the governor, by the measured pace
  (∀ (s : State),
    s.running = true →
    s.gov.avsStopped = false →
    s.gov.tripped = false →
    ∃ t : State, exec (.avsRequest true) s = .next t ∧ t.gov.avsFails = 0 ∧
    (100 * s.gov.pace < 103 * s.paceTarget → t.gov.vdd = clampVdd (s.gov.vdd + 5)) ∧
    (106 * s.paceTarget < 100 * s.gov.pace → t.gov.vdd = clampVdd (s.gov.vdd - 5)) ∧
    (103 * s.paceTarget ≤ 100 * s.gov.pace → 100 * s.gov.pace ≤ 106 * s.paceTarget → t.gov.vdd = clampVdd s.gov.vdd)) ∧
  -- every request lies within 0.62 V to 0.90 V
  (∀ (v : Nat),
    620 ≤ clampVdd v ∧ clampVdd v ≤ 900) ∧
  -- the target is never below the floor while AVSBus works
  (∀ (s : State),
    s.gov.avsStopped = false →
    paceFloor ≤ s.paceTarget) ∧
  -- an AVSBus error counts; the third in a row stops the requests at the measured pace
  (∀ (s : State),
    s.running = true →
    s.gov.avsStopped = false →
    (exec (.avsRequest false) s = .next s.avsFail ∧ (s.avsFail).gov.avsFails = s.gov.avsFails + 1 ∧
    (s.avsFail).gov.avsStopped = decide (3 ≤ s.gov.avsFails + 1) ∧ (3 ≤ s.gov.avsFails + 1 → (s.avsFail).gov.heldTarget = s.gov.pace))) ∧
  -- a floor miss
  (∀ (t : Nat) (s : State),
    s.gov.belowFrom = some t →
    s.gov.floorMiss = false →
    t + 1000 < s.btime.toNat →
    exec .floorMiss s = .next ((s.updGov (fun g => { g with floorMiss := true, floorMisses := stickAdd 64 g.floorMisses 1 })).latchIn 42)) ∧
  -- none while the pace has not been below the floor
  (∀ (s : State),
    s.gov.belowFrom = none →
    exec .floorMiss s = .next s) ∧
  -- a readback, and one that fails
  (∀ (v c st : Nat) (temp : Option Int) (s : State),
    s.running = true →
    (exec (.avsReadback true v c st temp) s = .next (s.updGov (fun g => { g with volt := v, cur := c, stat := st, regTemp := if temp.isSome then temp else g.regTemp })) ∧
   exec (.avsReadback false v c st temp) s = .next s.avsFail)) ∧
  -- a retry
  (∀ (s : State),
    s.running = true →
    s.gov.avsStopped = true →
    (exec (.avsRetry true) s = .next (s.updGov (fun g => { g with avsStopped := false, avsFails := 0 })) ∧ exec (.avsRetry false) s = .next s.avsFail)) ∧
  -- power over the cap
  (∀ (rest : Nat) (s : State),
    s.running = true →
    s.kodRun 0x4000 1 < s.gov.volt * s.gov.cur / 1000 + rest →
    exec (.powerCapAdjust rest) s = .next (((s.updGov (fun g => { g with power := s.gov.volt * s.gov.cur / 1000 + rest })).updGov (fun g => { g with
      underCap := 0 })).capDown)) ∧
  -- steps down: the target to the floor, then the throttle
  (∀ (s : State),
    s.gov.avsStopped = false →
    ((paceFloor < s.paceTarget → s.capDown.gov.capPace = max paceFloor (s.paceTarget - 50) ∧ s.capDown.gov.throttle = s.gov.throttle) ∧
   (s.paceTarget = paceFloor → s.gov.throttle < 63 → s.capDown.gov.throttle = s.gov.throttle + 1 ∧ s.capDown.gov.capPace = s.gov.capPace) ∧
   (s.gov.throttle ≠ 0 → s.capUp.gov.throttle = s.gov.throttle - 1 ∧ s.capUp.gov.capPace = s.gov.capPace))) ∧
  -- Tj above 115 °C
  (∀ (tj : Int) (s : State),
    s.running = true →
    115 < tj →
    s.gov.tripped = false →
    ∃ t : State, exec (.thermalSample tj) s = .next t ∧ t.gov.tripped = true ∧ t.gov.tj = tj ∧ (∀ h, h < 8 → (t.hide h).heldOut = true) ∧
    (s.gov.avsStopped = false → t.gov.vdd = 620)) ∧
  -- below, in a block that has not tripped
  (∀ (tj : Int) (s : State),
    s.running = true →
    tj ≤ 115 →
    s.gov.tripped = false →
    ∃ t : State, exec (.thermalSample tj) s = .next t ∧ t.gov.tj = tj ∧ (105 < tj → t.gov.hot = true) ∧ (tj ≤ 103 → t.gov.hot = false) ∧ Same (fields [.gov]) s t) ∧
  -- an idle furlong sleeps, its local stores kept
  (∀ (f : Fin 16) (h : Nat) (s : State),
    s.furlongHide f.val = some h →
    s.kodRun 0x4000 (0x0C + h) ≠ 0 →
    s.kodRun (0x3000 + h) 7 = 0 →
    s.groupsOnFurlong f.val = [] →
    (s.hide h).acre.run = none ∧ (s.hide h).acre.pre = none →
    (s.hide h).acre.idleFrom + 1000 * s.kodRun 0x4000 (0x0C + h) < s.btime.toNat →
    s.furlongOn f.val = true →
    ∃ t : State, exec (.furlongSleep f) s = .next t ∧ t.furlongOn f.val = false ∧ f.val ∈ t.pow.lRet ∧ (∀ i, (t.core i).ls = (s.core i).ls) ∧
    (∀ c, c < 17 → (t.core (coreIdx f.val c)).chains = [] ∧ (t.core (coreIdx f.val c)).dcache = []) ∧ Same (fields [.cores, .pow]) s t) ∧
  -- a furlong being woken
  (∀ (f : Fin 16) (s : State),
    f.val ∈ s.pow.waking →
    exec (.furlongWake f) s = .next (s.updPow (fun p => { p with
      waking := p.waking.filter (fun x => x != f.val), fOn := linsert p.fOn f.val, lOn := linsert p.lOn f.val, lRet := p.lRet.filter (fun x => x != f.val) })))

/-- Trimming the oscillator leaves the count as it is. The loss of TIME_REF, of main power, of the cell voltage and a
tamper are logged, and latch a source or, on the cell, may drive WAKE_N; a tamper may stop every hide. Unposted
alarms are posted. Entropy is delivered from its start-up tests to a health failure. A debug request stops every
hide and takes its key; only after the scrub is debug open, and only then is a clocked test mode entered. The TAP
shifts out 0 for BYPASS and the IDCODE for IDCODE. -/
def Obligations.AlwaysOnEntropyAndDebug : Prop :=
  -- trimming
  (∀ (s : State),
    exec .rtcTrim s = .next s) ∧
  -- the loss of TIME_REF, once
  (∀ (s : State),
    s.pow.boot ≠ .off →
    s.pow.timeRefLost = false →
    exec .timeRefLoss s = .next ((s.updPow (fun p => { p with timeRefLost := true })).latchIn 42)) ∧
  -- the loss of main power
  (∀ (s : State),
    s.pow.aoUp = true →
    s.pow.boot ≠ .off →
    ∃ t : State, exec .powerLossAlarm s = .next t ∧ t.pow.boot = .off ∧ t.mem = [] ∧ t.live = [] ∧ t.cmds = [] ∧ (∀ h, (t.hide h).key = 0) ∧ t.kod.copies = s.kod.copies) ∧
  -- the cell voltage
  (∀ (s : State),
    s.pow.aoUp = true →
    exec .vbatLow s = .next ((s.updPow (fun p => { p with vbatOk := false })).aoAlarm 1)) ∧
  -- a tamper where it is only logged
  (∀ (s : State),
    s.pow.aoUp = true →
    s.pow.boot = .off ∨ s.ao.tamperAct ≠ 1 →
    exec .tamper s = .next ((s.updPow (fun p => { p with tamperLow := true })).aoAlarm 2)) ∧
  -- a tamper that stops the hides
  (∀ (s : State),
    s.pow.aoUp = true →
    s.pow.boot ≠ .off →
    s.ao.tamperAct = 1 →
    ∃ t : State, exec .tamper s = .next t ∧ t.pow.zeroised = true ∧ t.pow.tamperLow = true ∧ (∀ h, h < 8 → (t.hide h).key = 0 ∧ (t.hide h).heldOut = true)) ∧
  -- alarms are posted
  (∀ (s : State),
    s.running = true →
    exec .alarmPosting s = .next s.postAlarms) ∧
  -- entropy
  (∀ (s : State),
    s.running = true →
    (exec .entropyReady s = .next ((s.updPow (fun p => { p with entropy := true })).latchIn 43) ∧
   exec .entropyHealthFailure s = .next ((s.updPow (fun p => { p with entropy := false })).latchIn 43))) ∧
  -- a debug request
  (∀ (s : State),
    s.pow.boot ≠ .off →
    s.pow.debug = 0 →
    ∃ t : State, exec .debugRequest s = .next t ∧ t.pow.debug = 1 ∧ t.pow.zeroised = true ∧ (∀ h, h < 8 → (t.hide h).key = 0 ∧ (t.hide h).heldOut = true) ∧
    t.cmds = s.cmds ∧ t.kod = s.kod) ∧
  -- debug opens with the scrub done
  (∀ (s : State),
    s.pow.debug = 1 →
    ∃ t : State, exec .debugOpen s = .next t ∧ t.pow.debug = 2 ∧ t.groups = [] ∧ t.seqs = [] ∧ t.plans = [] ∧ t.live = [] ∧ t.store = [] ∧
    (∀ i, (t.core i).chains = [] ∧ (t.core i).ls = [] ∧ (t.core i).sb = [] ∧ (t.core i).unit = {})) ∧
  -- without a request it does not open, and no test mode is entered before it is open
  (∀ (m : Option (Fin 10)) (s : State),
    s.pow.debug = 0 →
    (exec .debugOpen s = .next s ∧ exec (.clockedTestMode m) s = .next s)) ∧
  -- a clocked test mode
  (∀ (m : Option (Fin 10)) (s : State),
    s.pow.debug = 2 →
    exec (.clockedTestMode m) s = .next (s.updPow (fun p => { p with testMode := some m }))) ∧
  -- the test access port
  (∀ (s : State),
    (exec .tapBypass s = .next ((s.updPow (fun p => { p with tapBypass := true, tapId := none })).emit (.tdo 0)) ∧
   exec .tapIdcode s = .next ((s.updPow (fun p => { p with tapBypass := false, tapId := some idcode })).emit (.tdo idcode.toNat)) ∧
   idcode.toNat % 2 = 1 ∧ idcode.toNat / 2 ^ 12 % 2 ^ 16 = 0x4B31))

/-- PORST_N ends with every core empty, no memory byte listed, no context, EG_MODE STARTUP and the sampled profile pins;
WARMRST_N keeps PD_AO and the block time; both keep the retirement of cores. A power-up of PD_AO starts its logs empty
and EVSEQ at 1. Firmware starts from the slot named next if it checks; in a start-up the profiles are checked and
one is activated. A firmware restart clears every pending bit and target stack and discards inbound words. A hide
starts with its ports ready and entropy delivered; with the last one EG_MODE is SERVICE. -/
def Obligations.ResetsAndStartUp : Prop :=
  -- PORST_N deasserts
  (∀ (pins : BitVec 2) (s : State),
    ∃ t : State, exec (.powerOnReset pins) s = .next t ∧ t.pow.boot = .image ∧ t.pow.fwUp = false ∧ t.btime = 0 ∧ t.kod.pins = pins ∧ t.mem = [] ∧ t.live = [] ∧ t.cmds = [] ∧
    t.fns = [] ∧ t.eg = {} ∧ (∀ h, (t.hide h).key = 0 ∧ (t.hide h).started = false) ∧ (∀ i, (t.core i).chains = [] ∧ (t.core i).retired = (s.core i).retired ∧ (t.core i).fused = (s.core i).fused) ∧
    t.ao = { s.ao with wakeLow := false } ∧ t.kod.copies = s.kod.copies) ∧
  -- WARMRST_N deasserts
  (∀ (pins : BitVec 2) (s : State),
    s.pow.boot ≠ .off →
    ∃ t : State, exec (.warmReset pins) s = .next t ∧ t.pow.boot = .image ∧ t.btime = s.btime ∧ t.kod.pins = pins ∧ t.mem = [] ∧ t.live = [] ∧ t.cmds = [] ∧
    t.fns = [] ∧ (∀ h, (t.hide h).key = 0 ∧ (t.hide h).started = false) ∧ (∀ i, (t.core i).chains = [] ∧ (t.core i).retired = (s.core i).retired) ∧
    t.ao = { s.ao with wakeLow := false } ∧ t.kod.i3cAddr = s.kod.i3cAddr) ∧
  -- WARMRST_N asserts
  (∀ (s : State),
    s.pow.boot ≠ .off →
    ∃ t : State, exec .warmrstAssertion s = .next t ∧ t.pow.boot = .warmHeld ∧ t.mem = [] ∧ t.cmds = [] ∧ (∀ h, (t.hide h).key = 0) ∧ t.ao = s.ao) ∧
  -- the power-up of PD_AO
  (∀ (s : State),
    ∃ t : State, exec .alwaysOnPowerUp s = .next t ∧ t.ao.evseq = 1 ∧ t.ao.alarms = [] ∧ t.ao.journal = [] ∧ t.ao.fwGen = 0 ∧ t.ao.mirror = s.ao.mirror ∧
    t.pow.aoUp = true ∧ t.pow.boot = .off) ∧
  -- the I3C dynamic address
  (∀ (a : BitVec 7) (s : State),
    s.ctlUp = true →
    exec (.entdaa a) s = .next { s with kod := { s.kod with i3cAddr := a } }) ∧
  -- firmware starts in a start-up
  (∀ (s : State),
    s.running = true →
    s.pow.fwUp = false →
    s.pow.debug = 0 →
    s.pow.boot = .image →
    ∃ t u : State, exec .firmwareStart s = .next u.serveStored ∧ t.kod.fwRun = s.pickFirmware.kod.fwRun ∧ t.ao.fwGen = nextFwGen s.ao.fwGen ∧ t.pow.fwUp = true ∧
    (∀ i, i < 4 → ∀ j, j < 64 → t.chain? (272 + i) j = some firmwareChain) ∧
    u = ((t.loadProfiles.fallback (if t.loadProfiles.kod.bootSource = 1 then t.loadProfiles.kod.lastActive else t.loadProfiles.kod.pins.toNat)).1.activate
      (t.loadProfiles.fallback (if t.loadProfiles.kod.bootSource = 1 then t.loadProfiles.kod.lastActive else t.loadProfiles.kod.pins.toNat)).2).powerUp) ∧
  -- the image: of the slot named next where it checks, else of the other
  (∀ (s : State),
    (s.kod.fwNext = 0 → s.kod.fwOk0 = true → s.pickFirmware.kod.fwRun = 0) ∧ (s.kod.fwNext = 0 → s.kod.fwOk0 = false → s.pickFirmware.kod.fwRun = 1) ∧
    (s.kod.fwNext = 1 → s.kod.fwOk1 = true → s.pickFirmware.kod.fwRun = 1) ∧ (s.kod.fwNext = 1 → s.kod.fwOk1 = false → s.pickFirmware.kod.fwRun = 0)) ∧
  -- firmware runs already, or the block is in reset
  (∀ (s : State),
    s.pow.fwUp = true ∨ s.pow.boot = .off →
    exec .firmwareStart s = .next s) ∧
  -- a firmware restart
  (∀ (cc : Fin 4) (s : State),
    s.running = true →
    s.pow.debug = 0 →
    ∃ t : State, exec (.firmwareRestart cc) s = .next t ∧ t.pow.fwUp = false ∧ (∀ n, (t.src n).pending = false ∧ (t.src n).insvc = false) ∧ (∀ k, (t.tgt k).stack = []) ∧
    (∀ c, (t.box c).inFull = false) ∧ (∀ c, (t.box c).outFull = (s.box c).outFull) ∧ (∀ i, i < 4 → (t.core (272 + i)).chains = []) ∧ t.mem = s.mem) ∧
  -- a hide starts
  (∀ (h : Fin 8) (s : State),
    s.pow.boot = .starting ∨ s.pow.boot = .service →
    s.pow.fwUp = true →
    s.hideExists h.val = true →
    (s.hide h.val).started = false →
    (s.hide h.val).recovery = false →
    (s.portsOfHide h.val).all (fun p => (tget s.sports p {}).ready) = true →
    s.pow.entropy = true →
    s.pow.zeroised = false →
    (exec (.hideStart h) s = .next (s.startHide h.val) ∧ ((s.startHide h.val).hide h.val).started = true ∧ ((s.startHide h.val).hide h.val).key = 2 ∧
    ((s.startHide h.val).hide h.val).spanLen = s.kodRun (0x5000 + h.val) 7)) ∧
  -- with the last one the block is in service
  (∀ (h : Nat) (s : State),
    (∀ k ∈ s.hideList, k = h ∨ (s.hide k).started = true) →
    s.hideExists h = true →
    ((s.startHide h).pow.boot = .service ∧ (s.startHide h).eg.mode = 0))

/-- A port's training is noted; a port that goes down is recorded, its loads end with errors, and its started hide is
fully reset. Stack errors are counted, recorded and answered to the requester. Host data enters the block's view of memory,
and a side record that waited for it goes on. A CXL.mem access of an exposed unit is a request at its line's home, which,
where nothing hinders it, answers a read with the bytes and stores a write's. An engine attaches with its identity word; its
requests are resolved through the slots of the command and answered; one outside them is an error and marks the command. Its reports of progress, holds and pauses change the command and the
engine. -/
def Obligations.StackPortsHostAndEngines : Prop :=
  -- a port of no hide, and one of a hide without an interrupted reset, becomes ready
  (∀ (p : Fin 12) (s : State),
    s.hides.all (fun e => e.2.fullStep != 3) = true →
    exec (.stackPortReady p) s = .next (s.updSport p.val (fun x => { x with ready := true }))) ∧
  -- an interrupted reset runs again with the last port
  (∀ (p : Fin 12) (h : Nat) (u : State) (s : State),
    u = s.updSport p.val (fun x => { x with ready := true }) →
    u.portHide p.val = some h →
    (u.hide h).fullStep = 3 →
    (u.portsOfHide h).all (fun q => (tget u.sports q {}).ready) = true →
    exec (.stackPortReady p) s = .next ((u.updHide h (fun x => { x with recKind := 0, fullStep := 0 })).startFull h 2)) ∧
  -- a port of a started hide goes down
  (∀ (p : Fin 12) (h : Nat) (u v : State) (s : State),
    u = s.updSport p.val (fun x => { x with ready := false }) →
    u.portHide p.val = some h →
    v = ((((u.loadsOnPort h p.val).foldl (fun t l => t.loadErr l.1 l.2.1 l.2.2) u).stackRecord p.val 0 3 0).latchIn (16 + p.val)) →
    (v.hide h).started = true →
    (v.hide h).fullStep ≠ 2 →
    exec (.stackPortDown p) s = .next (v.startFull h 2)) ∧
  -- a good response
  (∀ (p : Fin 12) (lane : Fin 16) (wack : Bool) (a : BitVec 56) (who : HostWho) (s : State),
    exec (.stackReadResponse p lane wack 0 a who) s = .next s) ∧
  -- a corrected error counts; every thousandth is recorded and latched
  (∀ (p : Fin 12) (lane : Fin 16) (wack : Bool) (a : BitVec 56) (who : HostWho) (n : Nat) (s : State),
    stackAnswers s p lane a →
    n = tget (tget s.sports p.val {}).corrected lane.val 0 + 1 →
    ((n % 1000 ≠ 0 → exec (.stackReadResponse p lane wack 1 a who) s = .next (s.updSport p.val (fun x => { x with corrected := tset x.corrected lane.val n }))) ∧
   (n % 1000 = 0 → exec (.stackReadResponse p lane wack 1 a who) s =
      .next (((s.updSport p.val (fun x => { x with corrected := tset x.corrected lane.val n })).stackRecord p.val lane.val 0 a.toNat).latchIn (16 + p.val))))) ∧
  -- an uncorrectable read, and one after replays that failed, outside the firmware region
  (∀ (p : Fin 12) (lane : Fin 16) (a : BitVec 56) (who : HostWho) (s : State),
    stackAnswers s p lane a →
    (exec (.stackReadResponse p lane false 3 a who) s = .next (((s.stackRecord p.val lane.val 2 a.toNat).latchIn (16 + p.val)).errorTo who 5 a.toNat) ∧
   ((∀ h, s.portHide p.val = some h → paOff a.toNat / 2 ^ 32 ∉ s.fwUnits h) →
      exec (.stackReadResponse p lane false 2 a who) s = .next (((s.stackRecord p.val lane.val 1 a.toNat).latchIn (16 + p.val)).errorTo who 5 a.toNat)))) ∧
  -- a response on another port or lane than the address has
  (∀ (p : Fin 12) (lane : Fin 16) (wack : Bool) (resp : BitVec 2) (a : BitVec 56) (who : HostWho) (s : State),
    s.isLocal a.toNat = true →
    (s.stackPlace (paOff a.toNat)).port ≠ p.val ∨ (s.stackPlace (paOff a.toNat)).lane ≠ lane.val →
    exec (.stackReadResponse p lane wack resp a who) s = .next s) ∧
  -- data of a host read for a side record, and for no requester of the block
  (∀ (cid addr : Nat) (data : List Byte) (s : State),
    (exec (.hostReadCompletion (.sideRecord cid) addr data false) s = .next ((s.writeBytes (2 ^ 55 + addr % 2 ^ 55) data).gotSide cid (2 ^ 55 + addr % 2 ^ 55) data.length) ∧
   exec (.hostReadCompletion .other addr data false) s = .next (s.writeBytes (2 ^ 55 + addr % 2 ^ 55) data) ∧
   exec (.hostReadCompletion (.sideRecord cid) addr data true) s = .next (s.failCmd cid 0x11 (some (hwErr 5 0 addr))))) ∧
  -- a CXL.mem read, and a write, of an exposed unit: a request at the line's home
  (∀ (dpa off : Nat) (d : List Byte) (s : State),
    s.dpaOff (dpa / 64 * 64) = some off →
    (exec (.cxlMemRequest dpa none) s = .next (s.requestOnce (s.localPa off / 128) { who := { id := cxlId }, kind := .read, cxl := some (s.localPa off) }) ∧
   exec (.cxlMemRequest dpa (some d)) s = .next (s.requestOnce (s.localPa off / 128)
      { who := { id := cxlId }, kind := .write ((d.take 64).mapIdx (fun i b => (s.localPa off + i, b))), cxl := some (s.localPa off) }))) ∧
  -- on a free line that no other node holds, in a slice with room in which nothing waits: the read's bytes, the write performed
  (∀ (dpa off : Nat) (d : List Byte) (s : State),
    s.dpaOff (dpa / 64 * 64) = some off →
    s.line (s.localPa off / 128) = {} →
    (s.heldIn (lineSlice (s.localPa off / 128))).length < 16384 →
    (∀ e ∈ s.lines, e.2.queued = []) →
    ((∃ t : State, exec (.cxlMemRequest dpa none) s = .next t ∧ t.out = .cxl false (s.readBytes (s.localPa off) 64) :: s.out ∧
      Same (fields [.lines, .dirClock, .out]) s t) ∧
   (s.waiters = [] → ∃ t : State, exec (.cxlMemRequest dpa (some d)) s = .next t ∧ t.out = .cxl false [] :: s.out ∧
      t.mem = (s.writeCells ((d.take 64).mapIdx (fun i b => (s.localPa off + i, b)))).mem))) ∧
  -- beyond the last unit
  (∀ (dpa : Nat) (wr : Option (List Byte)) (s : State),
    s.dpaOff (dpa / 64 * 64) = none →
    exec (.cxlMemRequest dpa wr) s = .next (s.emit (.cxl true []))) ∧
  -- an engine attaches
  (∀ (e : Fin 4) (id : W64) (s : State),
    ∃ t : State, exec (.engineAttach e id) s = .next t ∧ (t.engine (e.val + 1)).present = true ∧ (t.engine (e.val + 1)).typ = id.extractLsb' 0 16 ∧
    (t.engine (e.val + 1)).maxCmd = (id.extractLsb' 32 8).toNat + 1 ∧ (t.engine (e.val + 1)).drainUs = (id.extractLsb' 16 14).toNat ∧ (t.engine (e.val + 1)).cmds = [] ∧
    Same (fields [.engines]) s t) ∧
  -- an engine detaches that holds nothing
  (∀ (e : Fin 4) (s : State),
    s.cmds.filter (fun c => c.opcode == 0x60 && c.engine == e.val + 1 && c.onEngine) = [] →
    exec (.engineDetach e) s = .next ((s.updEngine (e.val + 1) (fun x => { x with present := false, cmds := [], aborting := [], pausing := [], paused := [] })).retime)) ∧
  -- its command completes with RETRY_HW
  (∀ (e : Fin 4) (c : Cmd) (s : State),
    s.cmds.filter (fun c => c.opcode == 0x60 && c.engine == e.val + 1 && c.onEngine) = [c] →
    (s.ctx c.ctx).fenced = false →
    c.status = none →
    exec (.engineDetach e) s = .next (((s.updEngine (e.val + 1) (fun x => { x with present := false, cmds := [], aborting := [], pausing := [], paused := [] })).complete c.cid 0x11
      (some (hwErr 3 0 0))).retime)) ∧
  -- a read of an engine within its slot
  (∀ (e : Fin 4) (cid : Nat) (slot : Fin 16) (off n : Nat) (c : Cmd) (s : State),
    s.cmd? cid = some c →
    cid ∈ (s.engine (e.val + 1)).cmds →
    c.engine = e.val + 1 →
    n ≤ 128 →
    slotCovers c slot.val off n false = true →
    (∀ l ∈ extLines c.pieces slot.val off n, s.canRead (engWho (e.val + 1)) l = true) →
    exec (.engineRequest e cid slot off (.read n)) s = .next (s.emit (.engineRsp (e.val + 1) false
      ((List.range n).map (fun i => s.readPa ((pieceAddr c.pieces slot.val (off + i)).getD 0)))))) ∧
  -- a write within a slot, of the context's present generation
  (∀ (e : Fin 4) (cid : Nat) (slot : Fin 16) (off : Nat) (d : List Byte) (c : Cmd) (s : State),
    s.cmd? cid = some c →
    cid ∈ (s.engine (e.val + 1)).cmds →
    c.engine = e.val + 1 →
    d.length ≤ 128 →
    slotCovers c slot.val off d.length true = true →
    c.genAt = s.genOf c.ctx →
    exec (.engineRequest e cid slot off (.write d)) s = .next ((s.writeExt (engineId (e.val + 1)) (engAsker c) c.pieces slot.val off d).emit
      (.engineRsp (e.val + 1) false []))) ∧
  -- a request outside the bound slots
  (∀ (e : Fin 4) (cid : Nat) (slot : Fin 16) (off : Nat) (d : List Byte) (c : Cmd) (s : State),
    s.cmd? cid = some c →
    cid ∈ (s.engine (e.val + 1)).cmds →
    c.engine = e.val + 1 →
    slotCovers c slot.val off d.length true = false →
    exec (.engineRequest e cid slot off (.write d)) s = .next ((s.updCmd cid (fun k => { k with slotFault := true })).emit (.engineRsp (e.val + 1) true []))) ∧
  -- progress, a hold and its release of a command that the engine holds
  (∀ (cid : Nat) (s : State),
    (s.heldBy cid).isSome = true →
    (exec (.engineProgress cid) s = .next (s.progress cid) ∧ exec (.engineHeld cid) s = .next ((s.updCmd cid (fun c => { c with engHeld := true })).retime) ∧
   exec (.engineReleased cid) s = .next ((s.updCmd cid (fun c => { c with engHeld := false })).retime))) ∧
  -- a pause is acknowledged
  (∀ (e : Fin 4) (ctx : Fin 16384) (s : State),
    ctx.val ∈ (s.engine (e.val + 1)).pausing →
    exec (.enginePaused e ctx) s = .next (s.updEngine (e.val + 1) (fun x => { x with pausing := x.pausing.filter (fun i => i != ctx.val), paused := x.paused ++ [ctx.val] }))) ∧
  -- an abort that is not answered in time
  (∀ (e : Fin 4) (cid t : Nat) (c : Cmd) (s : State),
    s.cmd? cid = some c →
    (cid, t) ∈ (s.engine (e.val + 1)).aborting →
    t + 1000 * (s.engine (e.val + 1)).drainUs ≤ s.btime.toNat →
    exec (.engineDrainTimeout e cid) s = .next (((((s.engineRecord (e.val + 1) 1).recoverCtx c.ctx).leaveForeign (e.val + 1) cid)).updEngine (e.val + 1) (fun y => { y with
      pausing := y.pausing.filter (fun i => i != c.ctx) })))

/-- A PHY that comes up on an enabled port with a valid descriptor starts discovery, and its timer sends HELLO; a
HELLO from the peer that the descriptor gives brings the link UP, any other makes it MISWIRED. A down PHY, and an
ACK that stays away for 100 µs, take the link down. A newer link-state record is kept and flooded on over the other
links, an older one is dropped. A flit of a bad CRC is answered with a NAK; one in order gives its messages to the
receiver, and its ACK frees the retry buffer. -/
def Obligations.LinkDiscoveryAndFlits : Prop :=
  -- a PHY comes up
  (∀ (p : Fin 32) (s : State),
    s.portOn p.val = true →
    s.fab.dupDown = false →
    (s.link p.val).phy = false →
    topoValid s.topo = true →
    exec (.linkPhyUp p) s = .next ((s.updLink p.val (fun l => { l with phy := true })).linkState p.val .hello)) ∧
  -- without a valid descriptor the link stays down, with a record
  (∀ (p : Fin 32) (s : State),
    s.portOn p.val = true →
    s.fab.dupDown = false →
    (s.link p.val).phy = false →
    topoValid s.topo = false →
    exec (.linkPhyUp p) s = .next ((s.updLink p.val (fun l => { l with phy := true })).linkRecord p.val 4 0 0)) ∧
  -- a PHY goes down
  (∀ (p : Fin 32) (s : State),
    (s.link p.val).phy = true →
    s.portOn p.val = true →
    s.fab.dupDown = false →
    exec (.linkPhyDown p) s = .next ((s.updLink p.val (fun l => { l with phy := false })).linkDown p.val .training)) ∧
  -- a link that goes down keeps nothing of its traffic
  (∀ (p : Nat) (st : LkSt) (s : State),
    (s.link p).st ≠ .up →
    ((((s.linkDown p st).link p).st = st) ∧ ((s.linkDown p st).link p).retry = [] ∧ ((s.linkDown p st).link p).txq = [] ∧ ((s.linkDown p st).link p).credits = [] ∧
    ((s.linkDown p st).link p).rx = (s.link p).rx)) ∧
  -- HELLO is sent
  (∀ (p : Fin 32) (s : State),
    (s.link p.val).phy = true →
    (s.link p.val).st ≠ .down →
    exec (.helloTimer p) s = .next (s.emit (.hello p.val s.nodeId (BitVec.ofNat 32 (nbits s.topo 191 160))))) ∧
  -- the HELLO of the right peer
  (∀ (p : Fin 32) (n : BitVec 14) (q : Fin 32) (crc : W32) (s : State),
    (s.link p.val).phy = true →
    (s.link p.val).st = .hello ∨ (s.link p.val).st = .miswired →
    crc.toNat = nbits s.topo 191 160 →
    topoPeer s.topo s.nodeId p.val = some (n.toNat, q.val) →
    exec (.hello p n q crc) s = .next (s.linkUp p.val n.toNat q.val)) ∧
  -- of any other
  (∀ (p : Fin 32) (n : BitVec 14) (q : Fin 32) (crc : W32) (s : State),
    (s.link p.val).phy = true →
    (s.link p.val).st = .hello ∨ (s.link p.val).st = .up →
    crc.toNat ≠ nbits s.topo 191 160 ∨ topoPeer s.topo s.nodeId p.val ≠ some (n.toNat, q.val) →
    exec (.hello p n q crc) s = .next ((s.linkDown p.val .miswired).linkRecord p.val 3 n.toNat 0)) ∧
  -- the link that comes up
  (∀ (p n q : Nat) (s : State),
    (s.link p).st = .hello →
    p < 32 →
    (((s.linkUp p n q).link p).st = .up ∧ ((s.linkUp p n q).link p).peer = n ∧ ((s.linkUp p n q).link p).peerPort = q ∧ (s.linkUp p n q).fab.seq = s.fab.seq + 1 ∧
    (s.linkUp p n q).fab.state = 1)) ∧
  -- a record that is new, or newer than the one held
  (∀ (p : Fin 32) (r : LmRec) (s : State),
    (s.link p.val).st = .up →
    r.node ≠ s.nodeId →
    (tfind s.fab.map r.node).all (fun o => seqNewer r.seq o.seq) = true →
    ∃ t : State, exec (.linkmap p r) s = .next t ∧ tfind t.fab.map r.node = some r ∧ t.fab.state = 1 ∧ t.fab.computed = none ∧ t.fab.placed = none ∧
    (∀ q, q ∈ s.upPorts → q ≠ p.val → Out.linkmap q r ∈ t.out) ∧ Same (fields [.fab, .out]) s t) ∧
  -- one that is not
  (∀ (p : Fin 32) (r o : LmRec) (s : State),
    r.node ≠ s.nodeId →
    tfind s.fab.map r.node = some o →
    seqNewer r.seq o.seq = false →
    exec (.linkmap p r) s = .next s) ∧
  -- a flit whose CRC is wrong, or that the PHY flags
  (∀ (p : Fin 32) (v : BitVec 2048) (bad : Bool) (s : State),
    (s.link p.val).st = .up →
    bad = true ∨ (crc32 (leBytes 252 v.toNat)).toNat ≠ nbits v.toNat 2047 2016 →
    exec (.flitReceive p v bad) s = .next ((s.updLink p.val (fun l => { l with nakSent := true })).emit (.nak p.val ((s.link p.val).rxSeq - 1).toNat))) ∧
  -- a good flit
  (∀ (p : Fin 32) (v : BitVec 2048) (s : State),
    (s.link p.val).st = .up →
    (crc32 (leBytes 252 v.toNat)).toNat = nbits v.toNat 2047 2016 →
    exec (.flitReceive p v false) s = .next (s.takeFlit p.val v.toNat)) ∧
  -- one in order, without a NAK and not of ACK and CRED alone: its messages go to the receiver, its ACK frees the retry buffer
  (∀ (p v : Nat) (s : State),
    (s.link p).st = .up →
    nbit v 64 = false →
    nbit v 65 = false →
    nbits v 11 0 = (s.link p).rxSeq.toNat →
    (((s.takeFlit p v).link p).rx = (s.link p).rx ++ (parseBody 15 240 (v / 256 ^ 12 % 256 ^ 240)).1 ∧
    ((s.takeFlit p v).link p).rxSeq = (s.link p).rxSeq + 1 ∧ ((s.takeFlit p v).link p).nakSent = false ∧
    ((s.link p).txq = [] → ((s.takeFlit p v).link p).retry = ackRetry (s.link p).retry (nbits v 27 16)))) ∧
  -- a message of a body: its header, and its data behind it
  (∀ (n room v : Nat),
    16 ≤ room →
    v % 256 ≠ 0 →
    (parseHeader v).len ≤ 128 →
    16 + (parseHeader v).len ≤ room →
    kindBuffered (parseHeader v).kind.toNat = true →
    ((parseBody (n + 1) room v).1 = { parseHeader v with data := leBytes (parseHeader v).len (v / 256 ^ 16) } ::
      (parseBody n (room - 16 - (parseHeader v).len) (v / 256 ^ (16 + (parseHeader v).len))).1 ∧
    (parseHeader v).kind.toNat = v % 256 ∧ (parseHeader v).dst.toNat = v / 2 ^ 32 % 2 ^ 14 ∧ (parseHeader v).addr.toNat = v / 2 ^ 88 % 2 ^ 40)) ∧
  -- an ACK covers the retry buffer up to its flit
  (∀ (a b : List (Nat × List LMsg)) (e : Nat × List LMsg),
    (∀ x ∈ a, x.1 ≠ e.1) →
    ackRetry (a ++ e :: b) e.1 = b) ∧
  -- no ACK for 100 µs
  (∀ (p : Fin 32) (s : State),
    (s.link p.val).st = .up →
    (s.link p.val).retry ≠ [] →
    (s.link p.val).ackAt + 100000 ≤ s.btime.toNat →
    exec (.linkAckTimeout p) s = .next (s.linkDown p.val .hello))

/-- Ten milliseconds after the last change of the map the routes are computed; they are put in place with the map's CRC,
requests to nodes that have left the map fail, and READY goes to the root. READYs for another map are dropped, those before
the own routes are held. GO puts the table to use, flips the epoch after an earlier fabric-ready and is flooded on;
the old table is kept for 10 ms. A request unanswered within its limit ends with an error; a wait ends only where
its node has left the map. -/
def Obligations.FabricRoutes : Prop :=
  -- the routes are computed
  (∀ (s : State),
    s.fab.state = 1 →
    s.fab.mapAt + 10000000 ≤ s.btime.toNat →
    exec .routeCompute s = .next { s with fab := { s.fab with state := 2, computed := some (s.mapCrcNow, s.routes) } }) ∧
  -- not before the map has been quiet
  (∀ (s : State),
    s.btime.toNat < s.fab.mapAt + 10000000 →
    exec .routeCompute s = .next s) ∧
  -- a link taken towards the root climbs; taken back it does not
  (∀ (lv : Tbl Nat) (a b : Nat),
    a ≠ b →
    climbs lv a b = !climbs lv b a) ∧
  -- the routes are in place, in a fabric of one node
  (∀ (crc : W32) (s : State),
    s.fab.computed = some (crc, []) →
    s.fab.next = [] →
    s.mapNodes = [s.nodeId] →
    s.fab.reqs = [] →
    s.lines = [] →
    ∃ t u : State, exec .routesInPlace s = .next u ∧ u = t.doGo crc [] none ∧ t.fab.computed = none ∧ Same (fields [.fab]) s t) ∧
  -- in place, where no node has left or entered
  (∀ (crc : W32) (table : Tbl Nat) (u : State) (s : State),
    s.fab.computed = some (crc, table) →
    (∀ e ∈ s.fab.next, (tfind table e.1).isSome = true) →
    (∀ e ∈ table, (tfind s.fab.next e.1).isSome = true) →
    u = { s with fab := { s.fab with
      computed := none, placed := some (crc, table), heldReady := [], readyCount := 0,
      next := if s.fab.wasReady then s.fab.next else table, mapCrc := if s.fab.wasReady then s.fab.mapCrc else crc } } →
    exec .routesInPlace s = .next (((u.failNodes u.leftMap).dropSnoops u.leftMap).countReady crc table
      (1 + ((s.fab.heldReady.filter (fun r => r.1 == crc)).map (fun r => r.2)).sum))) ∧
  -- a request to a node that has left the map fails
  (∀ (r : RReq) (s : State),
    s.fab.reqs = [r] →
    s.leftMap r.node = true →
    s.failNodes s.leftMap = s.failReq r false) ∧
  -- READY for the map in place
  (∀ (p : Fin 32) (crc : W32) (n : Nat) (table : Tbl Nat) (s : State),
    (s.link p.val).st = .up →
    s.fab.placed = some (crc, table) →
    exec (.ready p crc n) s = .next (s.countReady crc table n)) ∧
  -- READY for another map
  (∀ (p : Fin 32) (crc own : W32) (n : Nat) (table : Tbl Nat) (s : State),
    s.fab.placed = some (own, table) →
    own ≠ crc →
    exec (.ready p crc n) s = .next s) ∧
  -- READY before the own routes are in place is held
  (∀ (p : Fin 32) (crc : W32) (n : Nat) (s : State),
    (s.link p.val).st = .up →
    s.fab.placed = none →
    s.fab.state ≠ 3 →
    exec (.ready p crc n) s = .next { s with fab := { s.fab with heldReady := s.fab.heldReady ++ [(crc, n)] } }) ∧
  -- the root counts READYs up to the nodes of its map
  (∀ (crc : W32) (table : Tbl Nat) (n : Nat) (s : State),
    s.mapRoot = s.nodeId →
    s.countReady crc table n = if s.mapNodes.length ≤ s.fab.readyCount + n then s.doGo crc table none else { s with fab := { s.fab with readyCount := s.fab.readyCount + n } }) ∧
  -- GO for the map in place
  (∀ (p : Fin 32) (crc : W32) (table : Tbl Nat) (s : State),
    (s.link p.val).st = .up →
    s.fab.placed = some (crc, table) →
    exec (.go p crc) s = .next (s.doGo crc table (some p.val))) ∧
  -- what GO does
  (∀ (crc : W32) (table : Tbl Nat) (from_ : Option Nat) (s : State),
    ((s.doGo crc table from_).fab.state = 3 ∧ (s.doGo crc table from_).fab.next = table ∧ (s.doGo crc table from_).fab.mapCrc = crc ∧
    (s.doGo crc table from_).fab.epoch = (if s.fab.wasReady then !s.fab.epoch else s.fab.epoch) ∧
    (s.doGo crc table from_).fab.oldNext = (if s.fab.wasReady then some s.fab.next else none) ∧ (s.doGo crc table from_).fab.goAt = s.btime.toNat)) ∧
  -- GO for no map in place
  (∀ (p : Fin 32) (crc : W32) (s : State),
    s.fab.placed = none →
    exec (.go p crc) s = .next s) ∧
  -- the old table goes after 10 ms
  (∀ (s : State),
    s.fab.oldNext.isSome = true →
    s.fab.goAt + 10000000 ≤ s.btime.toNat →
    exec .epochTableExpiry s = .next { s with fab := { s.fab with oldNext := none } }) ∧
  -- a request that is no wait is unanswered past the limit
  (∀ (tag : W16) (r : RReq) (s : State),
    s.reqOf tag = some r →
    r.waits = false →
    r.at_ + 1000 * s.kodRun 0x8000 4 ≤ s.btime.toNat →
    exec (.remoteRequestTimeout tag) s = .next (s.failReq r false)) ∧
  -- a wait of a chain, or of a WAIT command: it ends where its node has left the map, and only there
  (∀ (tag : W16) (r : RReq) (s : State),
    s.reqOf tag = some r →
    r.waits = true →
    r.timed = false →
    exec (.remoteRequestTimeout tag) s = .next (if s.leftMap r.node then s.failReq r false else s))

/-- A received message leaves the receiver, which owes its credits; one for another node goes on. A read, write, atomic,
coherence request, mover write, signal or wait at this node is answered with an error where the unit or hide is
absent or the bytes lie outside what the target hide allows; otherwise it goes to the home of its line as a request
of its port and node, which performs and answers it. A snoop takes or shares this node's copy of the line and is
acknowledged, with the data of a dirty one; a snoop acknowledgement goes to the line that waits for it. -/
def Obligations.RemoteRequests : Prop :=
  -- RD
  (∀ (p : Fin 32) (m : LMsg) (s : State),
    arrived s p.val m 1 →
    mayServe (s.takeRx p.val m) m →
    exec (.rd p m) s = .next ((s.takeRx p.val m).requestOnce (s.localPa m.addr.toNat / 128) { who := fromNode p.val m, kind := .read, msg := some m })) ∧
  -- WR
  (∀ (p : Fin 32) (m : LMsg) (s : State),
    arrived s p.val m 2 →
    mayServe (s.takeRx p.val m) m →
    exec (.wr p m) s = .next ((s.takeRx p.val m).requestOnce (s.localPa m.addr.toNat / 128) { who := fromNode p.val m, kind := .write [], msg := some m })) ∧
  -- ATOM
  (∀ (p : Fin 32) (m : LMsg) (s : State),
    arrived s p.val m 3 →
    mayServe (s.takeRx p.val m) m →
    exec (.atom p m) s = .next ((s.takeRx p.val m).requestOnce (s.localPa m.addr.toNat / 128) { who := fromNode p.val m, kind := .write [], msg := some m })) ∧
  -- COH with a defined AUX
  (∀ (p : Fin 32) (m : LMsg) (s : State),
    arrived s p.val m 4 →
    mayServe (s.takeRx p.val m) m →
    m.aux.toNat ≤ 3 →
    exec (.coh p m) s = .next ((s.takeRx p.val m).requestOnce (s.localPa m.addr.toNat / 128) { who := fromNode p.val m, kind := cohKind (s.takeRx p.val m) m, msg := some m })) ∧
  -- MVW
  (∀ (p : Fin 32) (m : LMsg) (s : State),
    arrived s p.val m 5 →
    mayServe (s.takeRx p.val m) m →
    exec (.mvw p m) s = .next ((s.takeRx p.val m).requestOnce (s.localPa m.addr.toNat / 128) { who := fromNode p.val m, kind := .write [], msg := some m })) ∧
  -- REMOTE_EVSIG
  (∀ (p : Fin 32) (m : LMsg) (s : State),
    arrived s p.val m 6 →
    mayServe (s.takeRx p.val m) m →
    exec (.remoteEvsig p m) s = .next ((s.takeRx p.val m).requestOnce (s.localPa m.addr.toNat / 128) { who := fromNode p.val m, kind := .write [], msg := some m })) ∧
  -- REMOTE_EVWAIT
  (∀ (p : Fin 32) (m : LMsg) (s : State),
    arrived s p.val m 7 →
    mayServe (s.takeRx p.val m) m →
    exec (.remoteEvwait p m) s = .next ((s.takeRx p.val m).requestOnce (s.localPa m.addr.toNat / 128) { who := fromNode p.val m, kind := .write [], msg := some m })) ∧
  -- an absent unit or hide, and bytes that the hide does not allow
  (∀ (p : Fin 32) (m : LMsg) (s : State),
    arrived s p.val m 1 →
    (((s.takeRx p.val m).remoteAbsent m = true → exec (.rd p m) s = .next ((s.takeRx p.val m).errRsp m 2)) ∧
   ((s.takeRx p.val m).remoteAbsent m = false → (s.takeRx p.val m).remoteAllowed m = false → exec (.rd p m) s = .next ((s.takeRx p.val m).errRsp m 1)))) ∧
  -- a COH request with a reserved AUX
  (∀ (p : Fin 32) (m : LMsg) (s : State),
    arrived s p.val m 4 →
    3 < m.aux.toNat →
    exec (.coh p m) s = .next ((s.takeRx p.val m).updLink p.val (fun l => { l with protoErr := stickAdd 32 l.protoErr 1 }))) ∧
  -- a message for another node
  (∀ (p : Fin 32) (m : LMsg) (s : State),
    m ∈ (s.link p.val).rx →
    m.kind.toNat = 1 →
    m.dst.toNat ≠ s.nodeId →
    exec (.rd p m) s = .next ((s.takeRx p.val m).forward m)) ∧
  -- what the home does with a read, a write and a signal: the bytes in its answer, the bytes stored, the event counted
  (∀ (m : LMsg) (g : Nat) (holds : Bool) (s : State),
    ((m.kind = 1 → s.performMsg m g holds = s.sendMsg (reply m 0x10 0 (s.readBytes (s.localPa m.addr.toNat) m.len))) ∧
   (m.kind = 2 → s.performMsg m g holds = (s.homeWrite (s.msgCells m)).sendMsg (reply m 0x11 0 [])) ∧
   (m.kind = 6 → m.aux.getLsbD 0 = false → s.performMsg m g holds =
      (s.signalCount none (s.localPa m.addr.toNat) (leNat m.data) 0xFFFF).sendMsg (reply m 0x11 0 [])))) ∧
  -- a read of a line that nothing holds up is performed in the step
  (∀ (p : Fin 32) (m : LMsg) (l : Nat) (u : State) (s : State),
    arrived s p.val m 1 →
    u = s.takeRx p.val m →
    mayServe u m →
    l = s.localPa m.addr.toNat / 128 →
    u.line l = {} →
    (∀ e ∈ u.lines, e.2.queued = []) →
    ∃ t : State, exec (.rd p m) s = .next t ∧ (t.line l).st = .excl ∧ (t.line l).cur = none ∧ (∀ a, t.readPa a = s.readPa a)) ∧
  -- a write is performed: its bytes are stored at the home
  (∀ (p : Fin 32) (m : LMsg) (l : Nat) (u : State) (s : State),
    arrived s p.val m 2 →
    u = s.takeRx p.val m →
    mayServe u m →
    l = s.localPa m.addr.toNat / 128 →
    u.line l = {} →
    (∀ e ∈ u.lines, e.2.queued = []) →
    s.waiters = [] →
    ∃ t : State, exec (.wr p m) s = .next t ∧ (t.line l).st = .modified ∧ (t.line l).cur = none ∧
    ∀ a, t.readPa a = (s.writeCells (s.msgCells m)).readPa a) ∧
  -- a snoop for a line of which this node has no copy, and one for a modified copy
  (∀ (p : Fin 32) (m : LMsg) (u : State) (s : State),
    arrived s p.val m 8 →
    u = s.takeRx p.val m →
    u.fab.reqs = [] →
    (((u.line (homeLine m)).st = .inv → exec (.snp p m) s = .next (u.sendMsg (reply m 0x14 0 []))) ∧
   ((u.line (homeLine m)).st = .modified → exec (.snp p m) s = .next ((u.updLine (homeLine m) (fun x => { x with
      st := if m.aux.getLsbD 0 then .inv else .owned })).sendMsg (reply m 0x14 0 (u.readBytes (homeLine m * 128) 128)))))) ∧
  -- an acknowledgement of a snoop
  (∀ (p : Fin 32) (m : LMsg) (s : State),
    arrived s p.val m 0x14 →
    exec (.snpAck p m) s = .next ((s.takeRx p.val m).snoopAck (s.localPa m.addr.toNat / 128) m.src.toNat (s.msgCells m))) ∧
  -- the last one performs the request of the line
  (∀ (l n : Nat) (tx : HomeTx) (s : State),
    (s.line l).snoops = [n] →
    (s.line l).cur = some tx →
    (s.line l).performed = false →
    s.snoopAck l n [] = (s.updLine l (fun x => { x with snoops := [] })).performTx l tx)

/-- A response for an outstanding request of its KIND ends the request: read data is known and goes to its load or side
record, a line comes in the state granted, an acknowledged signal completes its command, an old value goes to its lane or
engine, a wake ends the wait, an error fails the request, by its AUX with a permission error. A retry marks the request and
the reserved credit sends it again. A response that answers no request, or one of another KIND or cut off by a fence, is
late: it is discarded and counted. -/
def Obligations.RemoteResponses : Prop :=
  -- read data of a load
  (∀ (p : Fin 32) (m : LMsg) (r : RReq) (core slot idx : Nat) (s : State),
    answers s p.val m 0x10 r →
    r.kind = 1 →
    r.core = some (core, slot, idx) →
    exec (.rdRsp p m) s = .next ((((s.takeRx p.val m).dropReq r).learn (r.node * 2 ^ 40 + r.addr) m.data).loadPart core slot idx)) ∧
  -- of a side record
  (∀ (p : Fin 32) (m : LMsg) (r : RReq) (s : State),
    answers s p.val m 0x10 r →
    r.kind = 1 →
    r.core = none →
    exec (.rdRsp p m) s = .next ((((s.takeRx p.val m).dropReq r).learn (r.node * 2 ^ 40 + r.addr) m.data).gotSide r.cid (r.node * 2 ^ 40 + r.addr) m.data.length)) ∧
  -- an acknowledged write
  (∀ (p : Fin 32) (m : LMsg) (r : RReq) (s : State),
    answers s p.val m 0x11 r →
    r.kind = 2 ∨ r.kind = 5 →
    exec (.wrAck p m) s = .next ((s.takeRx p.val m).dropReq r)) ∧
  -- an acknowledged signal of a SIGNAL command
  (∀ (p : Fin 32) (m : LMsg) (r : RReq) (s : State),
    answers s p.val m 0x11 r →
    r.kind = 6 →
    r.core = none →
    r.withdrawn = false →
    r.chan = none →
    r.cid ≠ 0 →
    ((r.waits = false → exec (.wrAck p m) s = .next (((s.takeRx p.val m).dropReq r).complete r.cid 0 none)) ∧
   (r.waits = true → exec (.wrAck p m) s = .next (((s.takeRx p.val m).updReq r.tag RReq.withdraw).complete r.cid 0 none)))) ∧
  -- of a signal of a chain, which waits on where the object is a barrier
  (∀ (p : Fin 32) (m : LMsg) (r : RReq) (s : State),
    answers s p.val m 0x11 r →
    r.kind = 6 →
    r.core.isSome = true →
    exec (.wrAck p m) s = .next (if r.waits then s.takeRx p.val m else (s.takeRx p.val m).dropReq r)) ∧
  -- the old value of an atomic
  (∀ (p : Fin 32) (m : LMsg) (r : RReq) (core slot x : Nat) (s : State),
    answers s p.val m 0x12 r →
    r.kind = 3 →
    r.core = some (core, slot, x) →
    exec (.atomRsp p m) s = .next (((s.takeRx p.val m).dropReq r).atomLane core slot (x / 32) (x % 32) m.data)) ∧
  -- of an atomic of a foreign engine
  (∀ (p : Fin 32) (m : LMsg) (r : RReq) (c : Cmd) (s : State),
    answers s p.val m 0x12 r →
    r.kind = 3 →
    r.core = none →
    s.cmd? r.cid = some c →
    exec (.atomRsp p m) s = .next (((s.takeRx p.val m).dropReq r).emit (.engineRsp c.engine false m.data))) ∧
  -- a line that was asked for, and the answer to a write-back
  (∀ (p : Fin 32) (m : LMsg) (r : RReq) (s : State),
    answers s p.val m 0x13 r →
    m.aux.getLsbD 0 = false →
    r.kind = 4 →
    exec (.cohRsp p m) s = .next (if r.msg.aux = 3 then (s.takeRx p.val m).dropReq r else ((s.takeRx p.val m).dropReq r).fillCopy r m)) ∧
  -- it is held in the state granted
  (∀ (r : RReq) (m : LMsg) (s : State),
    r.snooped = false →
    m.data.length = 128 →
    ((s.fillCopy r m).line (r.pa / 128)).st = grantSt m.aux) ∧
  -- a retry
  (∀ (p : Fin 32) (m : LMsg) (r : RReq) (s : State),
    answers s p.val m 0x13 r →
    m.aux.getLsbD 0 = true →
    1 ≤ r.kind ∧ r.kind ≤ 7 →
    exec (.cohRsp p m) s = .next ((s.takeRx p.val m).updReq r.tag (fun q => { q with retried := true }))) ∧
  -- the reserved credit of a retried request
  (∀ (p : Fin 32) (m : LMsg) (r : RReq) (s : State),
    answers s p.val m 0x15 r →
    1 ≤ r.kind ∧ r.kind ≤ 7 →
    r.retried = true →
    exec (.reservedOk p m) s = .next (((s.takeRx p.val m).updReq r.tag (fun q => { q with retried := false })).sendMsg r.msg)) ∧
  -- a wake of a WAIT command, and of a chain
  (∀ (p : Fin 32) (m : LMsg) (r : RReq) (s : State),
    answers s p.val m 0x16 r →
    r.kind = 7 →
    r.withdrawn = false →
    r.saved = false →
    ((r.core = none → exec (.wake p m) s = .next (((s.takeRx p.val m).dropReq r).complete r.cid 0 none)) ∧
   (∀ core slot x, r.core = some (core, slot, x) → exec (.wake p m) s = .next ((((s.takeRx p.val m).dropReq r).updChain core slot (fun c => { c with
      st := if c.st = .eventWait then .ready else c.st })).invalidateDcache core)))) ∧
  -- an error
  (∀ (p : Fin 32) (m : LMsg) (r : RReq) (s : State),
    answers s p.val m 0x1F r →
    1 ≤ r.kind ∧ r.kind ≤ 7 →
    exec (.errRsp p m) s = .next ((s.takeRx p.val m).failReq r (m.aux == 1))) ∧
  -- a response to a request that a fence has cut off
  (∀ (p : Fin 32) (m : LMsg) (r : RReq) (h : Nat) (s : State),
    arrived s p.val m 0x10 →
    s.reqOf m.tag = some r →
    r.late = some h →
    exec (.rdRsp p m) s = .next (((s.takeRx p.val m).dropReq r).lateFor h)) ∧
  -- a response that answers nothing, or a request of another KIND
  (∀ (p : Fin 32) (m : LMsg) (s : State),
    arrived s p.val m 0x10 →
    (∀ r, s.reqOf m.tag = some r → r.late = none ∧ r.kind ≠ 1) →
    exec (.rdRsp p m) s = .next ((s.takeRx p.val m).updLink p.val (fun l => { l with lateRsp := stickAdd 32 l.lateRsp 1 })))

/-- The entry that may leave goes to host memory as posted writes or as an AtomicOp, to another node, in a line that this
node may write or as messages, or to the home of its line, whose bytes change; one of an old generation is discarded and
counted. A load returns once every answer has come and its lines may be read: its registers take its lanes' bytes, read
where the core has no copy from memory. A failing load raises MEM_ERR at its own instruction. -/
def Obligations.StoresAndLoadsOfACore : Prop :=
  -- nothing may leave
  (∀ (core : Fin 276) (s : State),
    s.leaveIdx core.val [] (s.core core.val).sb 0 = none →
    exec (.storeBufferEntryLeave core) s = .next s) ∧
  -- an entry of an old generation
  (∀ (core : Fin 276) (k : Nat) (e : SbEnt) (s : State),
    s.leaveIdx core.val [] (s.core core.val).sb 0 = some k →
    (s.core core.val).sb[k]? = some e →
    e.gen ≠ s.genOf e.ctx →
    exec (.storeBufferEntryLeave core) s = .next ((s.dropEntry core.val k).staleGen e.ctx)) ∧
  -- a store to host memory
  (∀ (core : Fin 276) (k : Nat) (e : SbEnt) (s : State),
    s.leaveIdx core.val [] (s.core core.val).sb 0 = some k →
    (s.core core.val).sb[k]? = some e →
    e.gen = s.genOf e.ctx →
    isHostPa e.at_ = true →
    e.atoms = [] →
    e.dev = false →
    exec (.storeBufferEntryLeave core) s = .next ((((s.dropEntry core.val k).writeCells e.data).dropStore (e.data.map (fun d => d.1))).emitWrites
      (s.ctxFn e.ctx) (cellRuns e.data))) ∧
  -- an atomic of one lane to host memory
  (∀ (core : Fin 276) (k : Nat) (e : SbEnt) (x : SbAtom) (s : State),
    s.leaveIdx core.val [] (s.core core.val).sb 0 = some k →
    (s.core core.val).sb[k]? = some e →
    e.gen = s.genOf e.ctx →
    isHostPa e.at_ = true →
    e.data = [] →
    e.atoms = [x] →
    e.dev = false →
    exec (.storeBufferEntryLeave core) s = .next ((s.dropEntry core.val k).emit
      (.hostAtomic (s.ctxFn e.ctx) (s.hostPort (s.ctxFn e.ctx)) x.addr x.op x.size x.val x.cmp))) ∧
  -- a store or atomic to a line of this node
  (∀ (core : Fin 276) (k : Nat) (e : SbEnt) (s : State),
    s.leaveIdx core.val [] (s.core core.val).sb 0 = some k →
    (s.core core.val).sb[k]? = some e →
    e.gen = s.genOf e.ctx →
    isHostPa e.at_ = false →
    s.isLocal e.at_ = true →
    e.dev = false →
    exec (.storeBufferEntryLeave core) s = .next (s.toHome core.val k e)) ∧
  -- on a line that nothing holds up, the bytes of a store are in memory and the entry is gone
  (∀ (core : Fin 276) (k : Nat) (e : SbEnt) (s : State),
    (s.core core.val).sb[k]? = some e →
    s.line (e.at_ / 128) = {} →
    (∀ x ∈ s.lines, x.2.queued = []) →
    e.atoms = [] →
    s.waiters = [] →
    (∀ a, (s.toHome core.val k e).readPa a = (s.writeCells e.data).readPa a) ∧ ((s.toHome core.val k e).core core.val).sb = (s.core core.val).sb.eraseIdx k ∧
    ((s.toHome core.val k e).line (e.at_ / 128)).st = .modified) ∧
  -- a store to another node
  (∀ (core : Fin 276) (k : Nat) (e : SbEnt) (s : State),
    s.leaveIdx core.val [] (s.core core.val).sb 0 = some k →
    (s.core core.val).sb[k]? = some e →
    e.gen = s.genOf e.ctx →
    isHostPa e.at_ = false →
    s.isLocal e.at_ = false →
    e.dev = false →
    e.atoms = [] →
    exec (.storeBufferEntryLeave core) s = .next (
      if s.heldOwn (e.at_ / 128) then ((s.dropEntry core.val k).cacheStore core.val e).writeHeld (e.at_ / 128) e.data
      else (cellRuns e.data).foldl (fun t r => t.sendEntry core.val e 2 0 r.1 r.2 0) ((s.dropEntry core.val k).cacheStore core.val e))) ∧
  -- a device register that the manual does not describe stops with deviceWindow
  (∀ (core : Fin 276) (k : Nat) (e : SbEnt) (s : State),
    s.leaveIdx core.val [] (s.core core.val).sb 0 = some k →
    (s.core core.val).sb[k]? = some e →
    e.gen = s.genOf e.ctx →
    e.dev = true →
    s.inWindow core.val e.at_ = true →
    e.atoms = [] →
    deviceAt (devOff e.at_) = none →
    exec (.storeBufferEntryLeave core) s = .fault (.deviceWindow (devOff e.at_))) ∧
  -- load data of which every answer has come, on lines that may be read
  (∀ (c : ChainRef) (idx : Nat) (k : Chain) (l : Load) (s : State),
    s.chain? c.core.val c.slot.val = some k →
    k.loads.find? (fun x => x.idx == idx && !x.atomic) = some l →
    l.await = 0 →
    l.dev = false →
    (∀ n ∈ s.loadLines c.core.val l, s.canRead (loadWho c.core.val c.slot.val) n = true ∧ s.storeOut c.core.val n = false) →
    exec (.loadDataReturn c idx false) s = .next (s.returnLoad c.core.val c.slot.val l)) ∧
  -- the register of its lane takes the bytes, and the load is no longer outstanding
  (∀ (core slot lane a vd : Nat) (k : Chain) (l : Load) (s : State),
    s.chain? core slot = some k →
    k.loads = [l] →
    l.lanes = [(lane, a)] →
    l.vd = some vd →
    l.size = 2 →
    vd ≠ 255 →
    lane < 32 →
    l.acq = false →
    ∃ j : Chain, (s.returnLoad core slot l).chain? core slot = some j ∧ j.loads = [] ∧
    tget j.v (32 * vd + lane) 0 = BitVec.ofNat 32 (leNat (s.laneBytes core l a)) ∧ (∀ i, i ≠ 32 * vd + lane → tget j.v i 0 = tget k.v i 0)) ∧
  -- without a copy in the data cache the bytes are those of memory
  (∀ (core a : Nat) (l : Load) (s : State),
    (s.core core).dcache = [] →
    s.laneBytes core l a = s.readBytes a (2 ^ l.size)) ∧
  -- answers still to come
  (∀ (c : ChainRef) (idx : Nat) (k : Chain) (l : Load) (s : State),
    s.chain? c.core.val c.slot.val = some k →
    k.loads.find? (fun x => x.idx == idx && !x.atomic) = some l →
    l.await ≠ 0 →
    exec (.loadDataReturn c idx false) s = .next s) ∧
  -- an error
  (∀ (c : ChainRef) (idx : Nat) (k : Chain) (l : Load) (s : State),
    s.chain? c.core.val c.slot.val = some k →
    k.loads.find? (fun x => x.idx == idx && !x.atomic) = some l →
    exec (.loadDataReturn c idx true) s = .next (s.loadErr c.core.val c.slot.val idx)) ∧
  -- the chain goes back to the load, and raises MEM_ERR there
  (∀ (core slot idx : Nat) (k : Chain) (l : Load) (s : State),
    s.chain? core slot = some k →
    k.loads.find? (fun x => x.idx == idx) = some l →
    l.pref = false →
    s.loadErr core slot idx = (s.updChain core slot (fun c => c.undo l)).raise core slot { cause := 0x0D, lanes := l.mask })

/-- A request of a line of this node that has no transaction starts one: without a copy elsewhere it is performed at
once, else its snoops go out first. During a transaction a request takes a reserved credit, or with none of the 32 left is
queued. When a performed transaction ends, the first reserved requester is told to resend, else the next queued request
starts. A read of a line that nobody holds leaves it exclusive to this node, a write modified; a remote shared request
shares the home's copy, a remote exclusive one invalidates it. A directory entry stands for the nodes put into it. -/
def Obligations.HomesOfLines : Prop :=
  -- a line of another node
  (∀ (who : HomeWho) (line : BitVec 56) (k : HomeKind) (s : State),
    s.isLocal line.toNat = false →
    exec (.homeRequest who line k) s = .next s) ∧
  -- a request of a line at rest that no other node holds is performed
  (∀ (who : HomeWho) (line : BitVec 56) (k : HomeKind) (s : State),
    s.isLocal line.toNat = true →
    s.line (line.toNat / 128) = {} →
    who.remote = false ∨ s.dirFull (lineSlice (line.toNat / 128)) = false →
    exec (.homeRequest who line k) s = .next ((s.updLine (line.toNat / 128) (fun x => { x with cur := some { who := who, kind := k }, performed := false })).performTx
      (line.toNat / 128) { who := who, kind := k })) ∧
  -- a read leaves the line exclusive to this node, a write modified; its bytes are in memory
  (∀ (who : HomeWho) (line : BitVec 56) (d : List (Nat × Byte)) (s : State),
    s.isLocal line.toNat = true →
    s.line (line.toNat / 128) = {} →
    s.waiters = [] →
    ((∃ t : State, exec (.homeRequest who line .read) s = .next t ∧ (t.line (line.toNat / 128)).st = .excl ∧ (t.line (line.toNat / 128)).performed = true ∧ ∀ a, t.readPa a = s.readPa a) ∧
   (∃ t : State, exec (.homeRequest who line (.write d)) s = .next t ∧ (t.line (line.toNat / 128)).st = .modified ∧ (t.line (line.toNat / 128)).performed = true ∧
      ∀ a, t.readPa a = (s.writeCells d).readPa a))) ∧
  -- a request that needs snoops sends them and waits
  (∀ (who : HomeWho) (line : BitVec 56) (k : HomeKind) (ts : List Nat) (s : State),
    s.isLocal line.toNat = true →
    (s.line (line.toNat / 128)).cur = none →
    (s.line (line.toNat / 128)).reserved = [] →
    s.snoopTargets (s.line (line.toNat / 128)) { who := who, kind := k } = ts →
    ts ≠ [] →
    exec (.homeRequest who line k) s = .next ((s.updLine (line.toNat / 128) (fun x => { x with cur := some { who := who, kind := k }, performed := false })).sendSnoops
      (line.toNat / 128) (snoopAux k) ts)) ∧
  -- during a transaction a core's request takes a reserved credit, or is queued
  (∀ (who : HomeWho) (line : BitVec 56) (k : HomeKind) (s : State),
    s.isLocal line.toNat = true →
    (s.line (line.toNat / 128)).cur.isSome = true →
    ((s.reservedIn (lineSlice (line.toNat / 128)) < 32 →
      exec (.homeRequest who line k) s = .next (s.updLine (line.toNat / 128) (fun x => { x with reserved := x.reserved ++ [{ who := who, kind := k }] }))) ∧
   (32 ≤ s.reservedIn (lineSlice (line.toNat / 128)) →
      exec (.homeRequest who line k) s = .next (s.updLine (line.toNat / 128) (fun x => { x with queued := x.queued ++ [{ who := who, kind := k }] }))))) ∧
  -- a transaction that is not performed does not end
  (∀ (line : BitVec 56) (s : State),
    (s.line (line.toNat / 128)).performed = false →
    exec (.homeTransactionEnd line) s = .next s) ∧
  -- one that is performed ends: the line is free
  (∀ (line : BitVec 56) (tx : HomeTx) (s : State),
    (s.line (line.toNat / 128)).cur = some tx →
    (s.line (line.toNat / 128)).performed = true →
    (s.line (line.toNat / 128)).reserved = [] →
    (∀ e ∈ s.lines, e.2.queued = []) →
    exec (.homeTransactionEnd line) s = .next (s.updLine (line.toNat / 128) (fun x => { x with cur := none, performed := false, reserved := [] }))) ∧
  -- the first requester with a reserved credit is told to resend
  (∀ (line : BitVec 56) (tx w : HomeTx) (m : LMsg) (r : List HomeTx) (s : State),
    (s.line (line.toNat / 128)).cur = some tx →
    (s.line (line.toNat / 128)).performed = true →
    (if tx.credit then (s.line (line.toNat / 128)).reserved.drop 1 else (s.line (line.toNat / 128)).reserved) = w :: r →
    w.msg = some m →
    exec (.homeTransactionEnd line) s = .next ((s.updLine (line.toNat / 128) (fun x => { x with cur := none, performed := false, reserved := w :: r })).sendMsg (reply m 0x15 0 []))) ∧
  -- else the next queued request starts
  (∀ (line : BitVec 56) (tx w : HomeTx) (r : List HomeTx) (s : State),
    (s.line (line.toNat / 128)).cur = some tx →
    (s.line (line.toNat / 128)).performed = true →
    (s.line (line.toNat / 128)).reserved = [] →
    (s.line (line.toNat / 128)).queued = w :: r →
    exec (.homeTransactionEnd line) s = .next (((s.updLine (line.toNat / 128) (fun x => { x with cur := none, performed := false, reserved := [] })).updLine
      (line.toNat / 128) (fun x => { x with queued := r })).admitTx (line.toNat / 128) w)) ∧
  -- the home's own copy after a shared request of another node, and after an exclusive one
  (∀ (x : Line) (tx : HomeTx),
    tx.who.remote = true →
    ((tx.kind = .shared → x.st ≠ .inv → (x.after tx).st = stShared x.st) ∧ (tx.kind = .exclusive → (x.after tx).st = .inv))) ∧
  -- a directory entry takes a node as a pointer, beyond four as a bit of the coarse vector, and stands for it from
  -- then on
  (∀ (x : Line) (n : Nat) (s : State),
    n < 16384 →
    n ∈ s.fab.map.map (fun e => e.1) →
    n ∈ s.lineNodes (x.addHolder n))

/-- In each thread that executes it an integer instruction writes vd with its operation on each element of its TYPE:
sums and differences wrap unless SAT, which brings them to the nearest bound; products give their low or high half;
minimum and maximum compare by the TYPE's signedness. VB is u[USEL] under UB, vz reads zero and discards. Nothing
else changes but the program counter. On one 32-bit element these are the operations on 32-bit words. -/
def Obligations.VectorIntegers : Prop :=
  -- iadd and isub
  (∀ (r : ChainRef) (sub : Bool) (i : V3) (c : Chain) (s : State),
    issues s r c (v3Regs i true true false true) (v3Uregs i) →
    inLanes c i.pred i.pneg (v3Regs i true true false true) →
    v3Reserved i = false →
    typeInt i.ty.toNat = true →
    ∃ t : State, exec (.iaddIsub r sub i) s = .next t ∧ wroteV s r c t (c.lanesOf i.pred i.pneg) i.vd.toNat (fun l => perElem i.ty.toNat (addElem i.ty.toNat sub i.sat) (c.vreg i.va.toNat l) (c.opB i l) 0)) ∧
  -- imul and imulh
  (∀ (r : ChainRef) (high : Bool) (i : V3) (c : Chain) (s : State),
    issues s r c (v3Regs i true true false true) (v3Uregs i) →
    inLanes c i.pred i.pneg (v3Regs i true true false true) →
    v3Reserved i = false →
    typeInt i.ty.toNat = true →
    ∃ t : State, exec (.imulImulh r high i) s = .next t ∧ wroteV s r c t (c.lanesOf i.pred i.pneg) i.vd.toNat (fun l => perElem i.ty.toNat (mulElem i.ty.toNat high) (c.vreg i.va.toNat l) (c.opB i l) 0)) ∧
  -- imad
  (∀ (r : ChainRef) (i : V3) (c : Chain) (s : State),
    issues s r c (v3Regs i true true true true) (v3Uregs i) →
    inLanes c i.pred i.pneg (v3Regs i true true true true) →
    v3Reserved i = false →
    typeInt i.ty.toNat = true →
    ∃ t : State, exec (.imad r i) s = .next t ∧ wroteV s r c t (c.lanesOf i.pred i.pneg) i.vd.toNat (fun l => perElem i.ty.toNat (madElem i.ty.toNat) (c.vreg i.va.toNat l) (c.opB i l) (c.vreg i.vc.toNat l))) ∧
  -- imin and imax
  (∀ (r : ChainRef) (max : Bool) (i : V3) (c : Chain) (s : State),
    issues s r c (v3Regs i true true false true) (v3Uregs i) →
    inLanes c i.pred i.pneg (v3Regs i true true false true) →
    v3Reserved i = false →
    typeInt i.ty.toNat = true →
    ∃ t : State, exec (.iminImax r max i) s = .next t ∧ wroteV s r c t (c.lanesOf i.pred i.pneg) i.vd.toNat (fun l => perElem i.ty.toNat (minMaxElem i.ty.toNat max) (c.vreg i.va.toNat l) (c.opB i l) 0)) ∧
  -- an element of the result depends on its elements of the operands alone
  (∀ (ty e : Nat) (f : Nat → Nat → Nat → Nat) (a b c : W32),
    ty < 8 →
    e < 32 / typeWidth ty →
    elemOf (typeWidth ty) (perElem ty f a b c) e = f (elemOf (typeWidth ty) a e) (elemOf (typeWidth ty) b e) (elemOf (typeWidth ty) c e) % 2 ^ typeWidth ty) ∧
  -- on I32 and U32: the wrapping sum
  (∀ (ty : Nat) (a b c : W32),
    ty < 2 →
    (perElem ty (addElem ty false false) a b c = a + b ∧ perElem ty (addElem ty true false) a b c = a - b)) ∧
  -- the low half of the product, and imad
  (∀ (ty : Nat) (a b c : W32),
    ty < 2 →
    (perElem ty (mulElem ty false) a b c = a * b ∧ perElem ty (madElem ty) a b c = a * b + c)) ∧
  -- the high half
  (∀ (a b c : W32),
    (perElem 1 (mulElem 1 true) a b c = BitVec.ofNat 32 (a.toNat * b.toNat / 2 ^ 32) ∧ perElem 0 (mulElem 0 true) a b c = BitVec.ofInt 32 (a.toInt * b.toInt / 2 ^ 32))) ∧
  -- minimum and maximum
  (∀ (a b c : W32),
    (perElem 1 (minMaxElem 1 false) a b c = (if a ≤ b then a else b) ∧ perElem 1 (minMaxElem 1 true) a b c = (if a ≤ b then b else a) ∧
    perElem 0 (minMaxElem 0 false) a b c = (if a.sle b then a else b) ∧ perElem 0 (minMaxElem 0 true) a b c = (if a.sle b then b else a))) ∧
  -- the saturating sum of I32
  (∀ (a b c : W32),
    ((-(2 : Int) ^ 31 ≤ a.toInt + b.toInt → a.toInt + b.toInt < 2 ^ 31 → perElem 0 (addElem 0 false true) a b c = a + b) ∧
    (a.toInt + b.toInt < -(2 : Int) ^ 31 → perElem 0 (addElem 0 false true) a b c = 0x80000000) ∧ ((2 : Int) ^ 31 ≤ a.toInt + b.toInt → perElem 0 (addElem 0 false true) a b c = 0x7FFFFFFF)))

/-- mov copies vb; and, or, xor and andn act on the bits; shl, shr and sar shift by vb[4:0]; popc counts ones, clz
leading zeros, brev reverses; bfe extracts vc[5:0] bits at position vb[4:0], with the sign under I32; bfi inserts
them; sel chooses by a predicate register. Only vd of the executing threads and the program counter change. -/
def Obligations.VectorBitsAndMoves : Prop :=
  -- mov
  (∀ (r : ChainRef) (i : V3) (c : Chain) (s : State),
    issues s r c (v3Regs i false true false true) (v3Uregs i) →
    inLanes c i.pred i.pneg (v3Regs i false true false true) →
    v3Reserved i = false →
    ∃ t : State, exec (.mov r i) s = .next t ∧ wroteV s r c t (c.lanesOf i.pred i.pneg) i.vd.toNat (fun l => c.opB i l)) ∧
  -- and, or, xor, andn
  (∀ (r : ChainRef) (op : BitOp) (i : V3) (c : Chain) (s : State),
    issues s r c (v3Regs i true true false true) (v3Uregs i) →
    inLanes c i.pred i.pneg (v3Regs i true true false true) →
    v3Reserved i = false →
    ∃ t : State, exec (.andOrXorAndn r op i) s = .next t ∧ wroteV s r c t (c.lanesOf i.pred i.pneg) i.vd.toNat (fun l => match op with | .and => c.vreg i.va.toNat l &&& c.opB i l | .or => c.vreg i.va.toNat l ||| c.opB i l | .xor => c.vreg i.va.toNat l ^^^ c.opB i l | .andn => c.vreg i.va.toNat l &&& ~~~(c.opB i l))) ∧
  -- shl, shr, sar
  (∀ (r : ChainRef) (op : ShOp) (i : V3) (c : Chain) (s : State),
    issues s r c (v3Regs i true true false true) (v3Uregs i) →
    inLanes c i.pred i.pneg (v3Regs i true true false true) →
    v3Reserved i = false →
    ∃ t : State, exec (.shlShrSar r op i) s = .next t ∧ wroteV s r c t (c.lanesOf i.pred i.pneg) i.vd.toNat (fun l => match op with | .shl => c.vreg i.va.toNat l <<< ((c.opB i l).toNat % 32) | .shr => c.vreg i.va.toNat l >>> ((c.opB i l).toNat % 32) | .sar => (c.vreg i.va.toNat l).sshiftRight ((c.opB i l).toNat % 32))) ∧
  -- popc, clz, brev
  (∀ (r : ChainRef) (op : CntOp) (i : V3) (c : Chain) (s : State),
    issues s r c (v3Regs i true false false true) ([]) →
    inLanes c i.pred i.pneg (v3Regs i true false false true) →
    v3Reserved i = false →
    ∃ t : State, exec (.popcClzBrev r op i) s = .next t ∧ wroteV s r c t (c.lanesOf i.pred i.pneg) i.vd.toNat (fun l => countLane op (c.vreg i.va.toNat l))) ∧
  -- what they count
  (∀ (a : W32),
    (((countLane .popc a).toNat = ((List.range 32).filter (fun n => a.getLsbD n)).length) ∧ (a = 0 → countLane .clz a = 32) ∧
    (a ≠ 0 → (countLane .clz a).toNat ≤ 31 ∧ a.getLsbD (31 - (countLane .clz a).toNat) = true ∧ a.toNat < 2 ^ (32 - (countLane .clz a).toNat)) ∧
    (∀ n, n < 32 → (countLane .brev a).getLsbD n = a.getLsbD (31 - n)))) ∧
  -- bfe and bfi
  (∀ (r : ChainRef) (ins : Bool) (i : V3) (c : Chain) (s : State),
    issues s r c (v3Regs i true true true true) (v3Uregs i) →
    inLanes c i.pred i.pneg (v3Regs i true true true true) →
    v3Reserved i = false →
    ∃ t : State, exec (.bfeBfi r ins i) s = .next t ∧ wroteV s r c t (c.lanesOf i.pred i.pneg) i.vd.toNat (fun l => if ins then bfiLane (c.vreg i.va.toNat l) (c.opB i l) (c.vreg i.vc.toNat l) (c.vreg i.vd.toNat l) else bfeLane i.ty.toNat (c.vreg i.va.toNat l) (c.opB i l) (c.vreg i.vc.toNat l))) ∧
  -- bit n of an extracted field, and of a word with a field inserted
  (∀ (ty n : Nat) (a b w d : W32),
    n < 32 →
    w.toNat % 64 ≤ 32 →
    ((n < w.toNat % 64 → (bfeLane ty a b w).getLsbD n = (decide (n + b.toNat % 32 < 32) && a.getLsbD (n + b.toNat % 32))) ∧
    (w.toNat % 64 ≤ n → (bfeLane ty a b w).getLsbD n = (decide (ty = 0) && decide (w.toNat % 64 ≠ 0) && a.getLsbD (b.toNat % 32 + (w.toNat % 64 - 1)))) ∧
    (bfiLane a b w d).getLsbD n = (if b.toNat % 32 ≤ n ∧ n < b.toNat % 32 + w.toNat % 64 then a.getLsbD (n - b.toNat % 32) else d.getLsbD n))) ∧
  -- sel
  (∀ (r : ChainRef) (i : V3) (c : Chain) (s : State),
    issues s r c (v3Regs i true true false true) (v3Uregs i) →
    inLanes c i.pred i.pneg (v3Regs i true true false true) →
    v3Reserved i = false →
    ∃ t : State, exec (.sel r i) s = .next t ∧ wroteV s r c t (c.lanesOf i.pred i.pneg) i.vd.toNat (fun l => if (c.preg (i.vc.toNat % 8)).getLsbD l then c.vreg i.va.toNat l else c.opB i l))

/-- On the elements of a floating-point TYPE, fadd, fmul and ffma give the exact sum, product, or product plus vc,
rounded once; ROUND = SR raises ILLEGAL. fmin and fmax yield the other operand of a NaN and order −0 below +0. The
special functions give the nearest value; that they are computed with 256 fraction bits is the model's reading (log
12). cvt, qnt and dq round under ROUND, with the draw of u[USEL], u[USEL+1][31:0] and v[VC] under SR; LUT4 is
ILLEGAL. oscl gives the scale code of an amax that is not negative; a held-back format code is ILLEGAL. -/
def Obligations.VectorFloats : Prop :=
  -- fadd, fmul, ffma
  (∀ (r : ChainRef) (op : FOp) (ff : FFmt) (i : V3) (c : Chain) (s : State),
    issues s r c (v3Regs i true true (op == .ffma) true) (v3Uregs i) →
    inLanes c i.pred i.pneg (v3Regs i true true (op == .ffma) true) →
    v3Reserved i = false →
    typeFloat i.ty.toNat = some ff →
    i.round ≠ 2 →
    ∃ t : State, exec (.faddFmulFfma r op i) s = .next t ∧ wroteV s r c t (c.lanesOf i.pred i.pneg) i.vd.toNat (fun l => perElem i.ty.toNat (fun a b d => roundIeee ff (if i.round = 1 then .rtz else .rne) (match op with | .fadd => exactAdd (decodeFloat ff a) (decodeFloat ff b) | .fmul => exactMul (decodeFloat ff a) (decodeFloat ff b) | .ffma => exactAdd (exactMul (decodeFloat ff a) (decodeFloat ff b)) (decodeFloat ff d)).toQ) (c.vreg i.va.toNat l) (c.opB i l) (if op = .ffma then c.vreg i.vc.toNat l else 0))) ∧
  -- fmin, fmax
  (∀ (r : ChainRef) (max : Bool) (ff : FFmt) (i : V3) (c : Chain) (s : State),
    issues s r c (v3Regs i true true false true) (v3Uregs i) →
    inLanes c i.pred i.pneg (v3Regs i true true false true) →
    v3Reserved i = false →
    typeFloat i.ty.toNat = some ff →
    i.round ≠ 2 →
    ∃ t : State, exec (.fminFmax r max i) s = .next t ∧ wroteV s r c t (c.lanesOf i.pred i.pneg) i.vd.toNat (fun l => perElem i.ty.toNat (fun a b _ => fMinMax ff max a b) (c.vreg i.va.toNat l) (c.opB i l) 0)) ∧
  -- NaN operands of fmin and fmax
  (∀ (ff : FFmt) (max : Bool) (a b : Nat),
    decodeFloat ff a = .nan →
    (fMinMax ff max a b = (if decodeFloat ff b = .nan then canonNaN ff else b) ∧ fMinMax ff max b a = (if decodeFloat ff b = .nan then canonNaN ff else b))) ∧
  -- rcp, rsq, sqrt, ex2, lg2, tanh
  (∀ (r : ChainRef) (op : SpecFn) (ff : FFmt) (i : V3) (c : Chain) (s : State),
    issues s r c (v3Regs i true false false true) ([]) →
    inLanes c i.pred i.pneg (v3Regs i true false false true) →
    v3Reserved i = false →
    typeFloat i.ty.toNat = some ff →
    i.round ≠ 2 →
    ∃ t : State, exec (.specialFunction r op i) s = .next t ∧ wroteV s r c t (c.lanesOf i.pred i.pneg) i.vd.toNat (fun l => perElem i.ty.toNat (fun a _ _ => roundIeee ff .rne (specialQ op (decodeFloat ff a))) (c.vreg i.va.toNat l) 0 0)) ∧
  -- a NaN operand gives NaN; the reciprocal of a number is the nearest to one over it
  (∀ (op : SpecFn) (n : Bool) (m : Nat) (e : Int),
    m ≠ 0 →
    (specialQ op .nan = .nan ∧ specialQ .rcp (.fin n m e) = exactDiv (.fin false 1 0) (.fin n m e))) ∧
  -- cvt, element by element where both types have the same width
  (∀ (r : ChainRef) (i : V3) (c : Chain) (s : State),
    issues s r c (v3Regs i true false false true ++ srRegs i) (srUregs i) →
    inLanes c i.pred i.pneg (v3Regs i true false false true ++ srRegs i) →
    v3Reserved i = false →
    i.vc.toNat % 16 < 8 →
    typeWidth (i.vc.toNat % 16) = typeWidth i.ty.toNat →
    ∃ t : State, exec (.cvt r i) s = .next t ∧ wroteV s r c t (c.lanesOf i.pred i.pneg) i.vd.toNat (fun l => perElem i.ty.toNat (fun a _ _ => cvtElem i.ty.toNat (i.vc.toNat % 16) (c.convRnd i l) a) (c.vreg i.va.toNat l) 0 0)) ∧
  -- cvt between widths: an element from the element of its place, as far as the source has one
  (∀ (r : ChainRef) (i : V3) (c : Chain) (s : State),
    issues s r c (v3Regs i true false false true ++ srRegs i) (srUregs i) →
    inLanes c i.pred i.pneg (v3Regs i true false false true ++ srRegs i) →
    v3Reserved i = false →
    i.vc.toNat % 16 < 8 →
    i.vd ≠ 255 →
    ∃ t : State, exec (.cvt r i) s = .next t ∧ wroteV s r c t (c.lanesOf i.pred i.pneg) i.vd.toNat (fun l => (there t r).vreg i.vd.toNat l) ∧
    ∀ l, l < 32 → (c.lanesOf i.pred i.pneg).getLsbD l = true → ∀ e, e < 32 / typeWidth i.ty.toNat → e < 32 / typeWidth (i.vc.toNat % 16) →
      elemOf (typeWidth (i.vc.toNat % 16)) ((there t r).vreg i.vd.toNat l) e =
        cvtElem i.ty.toNat (i.vc.toNat % 16) (c.convRnd i l) (elemOf (typeWidth i.ty.toNat) (c.vreg i.va.toNat l) e) % 2 ^ typeWidth (i.vc.toNat % 16)) ∧
  -- one element: to a floating-point type by R90 and R91; to integers NaN is 0, and the value stays in the type's
  -- range
  (∀ (src dst : Nat) (rd : Rnd) (a : Nat),
    src < 8 →
    dst < 8 →
    ((∀ ff, typeFloat src = none → typeFloat dst = some ff → cvtElem src dst rd a = roundIeee ff rd (FV.ofInt (elemInt src a)).toQ) ∧
    (∀ ff gg, typeFloat src = some gg → typeFloat dst = some ff → cvtElem src dst rd a = roundIeee ff rd (decodeFloat gg a).toQ) ∧
    (∀ gg, typeFloat src = some gg → typeFloat dst = none → decodeFloat gg a = .nan → cvtElem src dst rd a = 0))) ∧
  -- oscl for an exact output format
  (∀ (r : ChainRef) (i : V3) (c : Chain) (s : State),
    issues s r c (v3Regs i true false false true) ([]) →
    inLanes c i.pred i.pneg (v3Regs i true false false true) →
    v3Reserved i = false →
    i.ty = 1 ∨ i.ty = 2 →
    fmtExact (i.vc.toNat % 32) = true →
    fmtOutput (i.vc.toNat % 32) = true →
    (∀ l, l < 32 → (c.lanesOf i.pred i.pneg).getLsbD l = true → (decodeFloat fF32 (c.vreg i.va.toNat l).toNat).lt (.fin false 0 0) = false) →
    ∃ t : State, exec (.oscl r i) s = .next t ∧ wroteV s r c t (c.lanesOf i.pred i.pneg) i.vd.toNat (fun l => BitVec.ofNat 32 (if i.ty = 1 then scaleS32 (i.vc.toNat % 32) (decodeFloat fF32 (c.vreg i.va.toNat l).toNat) else scaleS16 (i.vc.toNat % 32) (decodeFloat fF32 (c.vreg i.va.toNat l).toNat)))) ∧
  -- oscl for a format code that is held back
  (∀ (r : ChainRef) (i : V3) (c : Chain) (s : State),
    issues s r c (v3Regs i true false false true) ([]) →
    c.lanesOf i.pred i.pneg ≠ 0 →
    c.settled = true →
    16 ≤ i.vc.toNat % 32 →
    exec (.oscl r i) s = .next (raised s r c { cause := 1, lanes := c.lanesOf i.pred i.pneg })) ∧
  -- qnt: the exact quotient rounded once into the format
  (∀ (r : ChainRef) (fmt : Fin 12) (i : V3) (c : Chain) (s : State),
    issues s r c (v3Regs i true true false true ++ srRegs i) (v3Uregs i ++ srUregs i) →
    inLanes c i.pred i.pneg (v3Regs i true true false true ++ srRegs i) →
    v3Reserved i = false →
    fmt.val ≠ 6 →
    fmt.val ≠ 0 →
    (fmt.val = 1 → ∀ l, l < 32 → (c.lanesOf i.pred i.pneg).getLsbD l = true → qntQuot (c.vreg i.va.toNat l) (c.opB i l) ≠ .nan) →
    ∃ t : State, exec (.qnt r fmt i) s = .next t ∧ wroteV s r c t (c.lanesOf i.pred i.pneg) i.vd.toNat (fun l => BitVec.ofNat 32 (quantise fmt.val (c.convRnd i l) (decodeFloat fF32 (c.vreg i.va.toNat l).toNat).isNeg (exactDiv (decodeFloat fF32 (c.vreg i.va.toNat l).toNat) (decodeFloat fF32 (c.opB i l).toNat))).1)) ∧
  -- qnt to B1, where each quotient has a code
  (∀ (r : ChainRef) (fmt : Fin 12) (i : V3) (c : Chain) (s : State),
    issues s r c (v3Regs i true true false true ++ srRegs i) (v3Uregs i ++ srUregs i) →
    inLanes c i.pred i.pneg (v3Regs i true true false true ++ srRegs i) →
    v3Reserved i = false →
    fmt.val = 0 →
    (∀ l, l < 32 → (c.lanesOf i.pred i.pneg).getLsbD l = true → (quantiseB1 (c.convRnd i l) (qntQuot (c.vreg i.va.toNat l) (c.opB i l))).isSome = true) →
    ∃ t : State, exec (.qnt r fmt i) s = .next t ∧ wroteV s r c t (c.lanesOf i.pred i.pneg) i.vd.toNat (fun l => BitVec.ofNat 32 ((quantiseB1 (c.convRnd i l) (qntQuot (c.vreg i.va.toNat l) (c.opB i l))).getD 0))) ∧
  -- the code under RNE is the sign of a quotient that is not zero
  (∀ (neg : Bool) (n d : Nat) (e : Int),
    d ≠ 0 →
    quantiseB1 .rne (.fin neg n d e) = some (if neg = true ∧ n ≠ 0 then 1 else 0)) ∧
  -- dq
  (∀ (r : ChainRef) (fmt : Fin 12) (i : V3) (c : Chain) (s : State),
    issues s r c (v3Regs i true true false true ++ srRegs i) (v3Uregs i ++ srUregs i) →
    inLanes c i.pred i.pneg (v3Regs i true true false true ++ srRegs i) →
    v3Reserved i = false →
    fmt.val ≠ 6 →
    ∃ t : State, exec (.dq r fmt i) s = .next t ∧ wroteV s r c t (c.lanesOf i.pred i.pneg) i.vd.toNat (fun l => BitVec.ofNat 32 (roundIeee fF32 (c.convRnd i l) (exactMul (decodeFmt fmt.val 0 ((c.vreg i.va.toNat l).toNat % 2 ^ fmtWidth fmt.val)) (decodeFloat fF32 (c.opB i l).toNat)).toQ))) ∧
  -- the mode of a conversion under SR
  (∀ (c : Chain) (i : V3) (l : Nat),
    i.round = 2 →
    c.convRnd i l = .sr (srDraw (c.ureg i.usel.toNat) ((c.ureg (i.usel.toNat + 1)).toNat % 2 ^ 32) (c.vreg i.vc.toNat l).toNat))

/-- cmp writes p[VD[2:0]] in the executing threads with the condition on va and vb and leaves the other bits; p7
discards. shfl takes va of the lane that vb chooses; vote writes the ballot of a predicate; redu puts the sum,
minimum or maximum over the executing threads into u[USEL], the others giving the identity, F32 sums pairwise in five levels; rdln takes the lowest
such thread's va. That redu and rdln zero-extend into the 64 bits is the model's reading (log 41). -/
def Obligations.VectorCompareAndExchange : Prop :=
  -- cmp
  (∀ (r : ChainRef) (i : V3) (c : Chain) (s : State),
    issues s r c (v3Regs i true true false false) (v3Uregs i) →
    inLanes c i.pred i.pneg (v3Regs i true true false false) →
    v3Reserved i = false →
    i.ty.toNat < 3 →
    ∃ t : State, exec (.cmp r i) s = .next t ∧ ∃ x : W32, wroteP s r c t (i.vd.toNat % 8) x ∧ ∀ l, l < 32 → x.getLsbD l =
      if (c.lanesOf i.pred i.pneg).getLsbD l = true then cmpLane (i.vc.toNat % 8) i.ty.toNat (c.vreg i.va.toNat l) (c.opB i l) else (c.preg (i.vd.toNat % 8)).getLsbD l) ∧
  -- the conditions on integers
  (∀ (ty : Nat) (a b : W32),
    ty < 2 →
    (cmpLane 0 ty a b = (a == b) ∧ cmpLane 1 ty a b = (a != b) ∧ cmpLane 2 ty a b = (if ty = 0 then a.slt b else a.ult b) ∧ cmpLane 3 ty a b = (if ty = 0 then a.sle b else a.ule b) ∧
    cmpLane 4 ty a b = (if ty = 0 then b.slt a else b.ult a) ∧ cmpLane 5 ty a b = (if ty = 0 then b.sle a else b.ule a) ∧ cmpLane 6 ty a b = false ∧ cmpLane 7 ty a b = true)) ∧
  -- the conditions on F32 with a NaN: ne and unordered hold, and no other one
  (∀ (cc : Nat) (a b : W32),
    cc < 8 →
    decodeFloat fF32 a.toNat = .nan ∨ decodeFloat fF32 b.toNat = .nan →
    cmpLane cc 2 a b = decide (cc = 1 ∨ cc = 6)) ∧
  -- shfl of a lane of the chain
  (∀ (r : ChainRef) (i : V3) (c : Chain) (s : State),
    issues s r c (v3Regs i true true false true) (v3Uregs i) →
    inLanes c i.pred i.pneg (v3Regs i true true false true) →
    v3Reserved i = false →
    (∀ l, l < 32 → (c.opB i l).toNat < 32 ∧ (i.vc.toNat % 4 = 1 → (c.opB i l).toNat ≤ l) ∧ (i.vc.toNat % 4 = 2 → l + (c.opB i l).toNat < 32)) →
    ∃ t : State, exec (.shfl r i) s = .next t ∧ wroteV s r c t (c.lanesOf i.pred i.pneg) i.vd.toNat (fun l => c.vreg i.va.toNat
      (if i.vc.toNat % 4 = 0 then (c.opB i l).toNat else if i.vc.toNat % 4 = 1 then l - (c.opB i l).toNat else if i.vc.toNat % 4 = 2 then l + (c.opB i l).toNat else l ^^^ (c.opB i l).toNat))) ∧
  -- vote
  (∀ (r : ChainRef) (i : V3) (c : Chain) (s : State),
    issues s r c (v3Regs i false false false true) ([]) →
    inLanes c i.pred i.pneg (v3Regs i false false false true) →
    v3Reserved i = false →
    ∃ t : State, exec (.vote r i) s = .next t ∧ wroteV s r c t (c.lanesOf i.pred i.pneg) i.vd.toNat (fun l => c.preg (i.va.toNat % 8) &&& (c.lanesOf i.pred i.pneg))) ∧
  -- redu
  (∀ (r : ChainRef) (i : V3) (c : Chain) (s : State),
    issues s r c (v3Regs i true false false false) ([i.usel.toNat]) →
    inLanes c i.pred i.pneg (v3Regs i true false false false) →
    v3Reserved i = false →
    i.ty.toNat < 3 →
    i.vc.toNat % 4 < 3 →
    ∃ t : State, exec (.redu r i) s = .next t ∧ wroteU s r c t i.usel.toNat (BitVec.ofNat 64 (if i.ty = 2 ∧ i.vc.toNat % 4 = 0 then
        treeSum ((List.range 32).map (fun l => if (c.lanesOf i.pred i.pneg).getLsbD l then (c.vreg i.va.toNat l).toNat else 0))
      else if i.vc.toNat % 4 = 0 then reduFold c (c.lanesOf i.pred i.pneg) i.va.toNat 0 (fun a b => (a + b) % 2 ^ 32)
      else if i.ty = 2 then reduFold c (c.lanesOf i.pred i.pneg) i.va.toNat (reduIdent 2 (i.vc.toNat % 4 == 2)) (fMinMax fF32 (i.vc.toNat % 4 == 2))
      else reduFold c (c.lanesOf i.pred i.pneg) i.va.toNat (reduIdent i.ty.toNat (i.vc.toNat % 4 == 2)) (fun a b => minMaxElem i.ty.toNat (i.vc.toNat % 4 == 2) a b 0)))) ∧
  -- the sum over lanes, taken pairwise
  (∀ (l : List Nat),
    l.length = 32 →
    treeSum l = (let add := fun (x : List Nat) => (List.range (x.length / 2)).map (fun i => fAdd fF32 .rne (x.getD (2 * i) 0) (x.getD (2 * i + 1) 0))
    (add (add (add (add (add l))))).getD 0 0)) ∧
  -- rdln
  (∀ (r : ChainRef) (i : V3) (c : Chain) (s : State),
    issues s r c (v3Regs i true false false false) ([i.usel.toNat]) →
    inLanes c i.pred i.pneg (v3Regs i true false false false) →
    v3Reserved i = false →
    ∃ t : State, exec (.rdln r i) s = .next t ∧ ∃ l : Nat, l < 32 ∧ (c.lanesOf i.pred i.pneg).getLsbD l = true ∧ (∀ k, k < l → (c.lanesOf i.pred i.pneg).getLsbD k = false) ∧ wroteU s r c t i.usel.toNat ((c.vreg i.va.toNat l).setWidth 64))

/-- iaddi, movi, andi, ori and xori act on va and IMM32 in the executing threads. The uniform operations act on 64 bits
of u registers, the second operand being u[UB] or IMM32; umul keeps the low half; ucmp sets a predicate register to
all ones or all zeros. s2v and s2u read a special register; u2s writes an MX counter of the core's unit, in the slot of the
unit's owner while the acre holds the unit, and has no effect on a register that is no MX counter. nop and yield only go on. Shift counts modulo 64 and unsigned order below 2^63 are the
model's reading (log 11). -/
def Obligations.ImmediatesUniformsAndSpecialRegisters : Prop :=
  -- the VI operations
  (∀ (r : ChainRef) (op : ViOp) (i : VI) (c : Chain) (s : State),
    issues s r c ((if op = .movi then [] else [i.va.toNat]) ++ [i.vd.toNat]) ([]) →
    inLanes c i.pred i.pneg ((if op = .movi then [] else [i.va.toNat]) ++ [i.vd.toNat]) →
    ∃ t : State, exec (.viImmediate r op i) s = .next t ∧ wroteV s r c t (c.lanesOf i.pred i.pneg) i.vd.toNat (fun l => match op with | .iaddi => c.vreg i.va.toNat l + i.imm | .movi => i.imm | .andi => c.vreg i.va.toNat l &&& i.imm | .ori => c.vreg i.va.toNat l ||| i.imm | .xori => c.vreg i.va.toNat l ^^^ i.imm)) ∧
  -- uniform arithmetic
  (∀ (r : ChainRef) (op : UOp) (b : W64) (i : UI) (c : Chain) (s : State),
    wholeOf s r c i.pred i.pneg ([]) (uRegs i true (op != .mov)) →
    uOperand c i b →
    ∃ t : State, exec (.uArithmetic r op i) s = .next t ∧ wroteU s r c t i.ud.toNat (match op with | .add => (c.ureg i.ua.toNat + b) | .sub => (c.ureg i.ua.toNat - b) | .mul => (c.ureg i.ua.toNat * b) | .and => (c.ureg i.ua.toNat &&& b) | .or => (c.ureg i.ua.toNat ||| b) | .xor => (c.ureg i.ua.toNat ^^^ b) | .shl => (c.ureg i.ua.toNat <<< (b.toNat % 64)) | .shr => (c.ureg i.ua.toNat >>> (b.toNat % 64)) | .mov => b)) ∧
  -- ucmp
  (∀ (r : ChainRef) (b : W64) (i : UI) (c : Chain) (s : State),
    wholeOf s r c i.pred i.pneg ([]) (uRegs i false true) →
    uOperand c i b →
    i.ud.toNat / 8 < 2 ∨ 6 ≤ i.ud.toNat / 8 ∨ (c.ureg i.ua.toNat).getLsbD 63 = b.getLsbD 63 →
    ∃ t : State, exec (.ucmp r i) s = .next t ∧ wroteP s r c t (i.ud.toNat % 8) (if (match i.ud.toNat / 8 with | 0 => c.ureg i.ua.toNat == b | 1 => c.ureg i.ua.toNat != b | 2 => (c.ureg i.ua.toNat).ult b | 3 => (c.ureg i.ua.toNat).ule b | 4 => b.ult (c.ureg i.ua.toNat) | 5 => b.ule (c.ureg i.ua.toNat) | 6 => false | _ => true) then 0xFFFFFFFF else 0)) ∧
  -- s2u of a register with a stated value
  (∀ (r : ChainRef) (x : W64) (i : SysI) (c : Chain) (s : State),
    wholeOf s r c i.pred i.pneg ([]) ([i.ud.toNat]) →
    s.sregVal r.core.val r.slot.val c i.sreg.toNat 0 = some x →
    ∃ t : State, exec (.s2vS2u r true i) s = .next t ∧ t = (retire s r c { stepped c with u := tset c.u i.ud.toNat x }).freshNext) ∧
  -- s2v
  (∀ (r : ChainRef) (f : Nat → W64) (i : SysI) (c : Chain) (s : State),
    wholeOf s r c i.pred i.pneg ([i.vd.toNat]) ([]) →
    c.outOfRange [i.vd.toNat] = false →
    (∀ l, l < 32 → s.sregVal r.core.val r.slot.val c i.sreg.toNat l = some (f l)) →
    ∃ t k : State, exec (.s2vS2u r false i) s = .next t ∧ t = k.freshNext ∧ wroteV s r c k c.active i.vd.toNat (fun l => (f l).setWidth 32)) ∧
  -- what the special registers hold
  (∀ (core slot l : Nat) (c : Chain) (k : Cmd) (s : State),
    s.chainCmd c = some k →
    isControl core = false →
    (s.sregVal core slot c 0x000 l = some (BitVec.ofNat 64 l) ∧ s.sregVal core slot c 0x001 l = some (BitVec.ofNat 64 (c.group * k.groupSize + c.inGroup)) ∧
    s.sregVal core slot c 0x002 l = some (BitVec.ofNat 64 c.group) ∧ s.sregVal core slot c 0x003 l = some (BitVec.ofNat 64 c.inGroup) ∧ s.sregVal core slot c 0x004 l = some (BitVec.ofNat 64 slot) ∧
    s.sregVal core slot c 0x006 l = some (BitVec.ofNat 64 k.chains) ∧ s.sregVal core slot c 0x007 l = some (c.active.setWidth 64) ∧ s.sregVal core slot c 0x008 l = some (c.exited.setWidth 64) ∧
    s.sregVal core slot c 0x009 l = some (BitVec.ofNat 64 c.vregs) ∧ s.sregVal core slot c 0x00A l = some (BitVec.ofNat 64 (s.lsUse core c)) ∧ s.sregVal core slot c 0x00B l = some (BitVec.ofNat 64 k.cls) ∧
    s.sregVal core slot c 0x00C l = some s.btime ∧ s.sregVal core slot c 0x020 l = some (BitVec.ofNat 64 k.ctx) ∧ s.sregVal core slot c 0x021 l = some (BitVec.ofNat 64 k.genAt))) ∧
  -- u2s of an MX counter, in the unit
  (∀ (r : ChainRef) (i : SysI) (c : Chain) (s : State),
    wholeOf s r c i.pred i.pneg ([]) ([i.ud.toNat]) →
    0x010 ≤ i.sreg.toNat →
    i.sreg.toNat ≤ 0x014 →
    isControl r.core.val = false →
    c.settled = true →
    s.cntInSlot r.core.val = none →
    exec (.u2s r i) s = .next ((retire s r c (stepped c)).updCore r.core.val (fun x => { x with
      unit := { x.unit with cnt := setCntField x.unit.cnt (i.sreg.toNat - 0x010) ((c.ureg i.ud.toNat).toNat % 2 ^ 32) } }))) ∧
  -- and in the slot of its owner, while the acre holds the unit
  (∀ (r : ChainRef) (i : SysI) (c : Chain) (pa : Nat) (s : State),
    wholeOf s r c i.pred i.pneg ([]) ([i.ud.toNat]) →
    0x010 ≤ i.sreg.toNat →
    i.sreg.toNat ≤ 0x014 →
    isControl r.core.val = false →
    c.settled = true →
    s.cntInSlot r.core.val = some pa →
    exec (.u2s r i) s = .next ((retire s r c (stepped c)).writeBytes (pa + 4 * (i.sreg.toNat - 0x010)) (leBytes 4 (c.ureg i.ud.toNat).toNat))) ∧
  -- u2s of another register has no effect
  (∀ (r : ChainRef) (i : SysI) (c : Chain) (s : State),
    wholeOf s r c i.pred i.pneg ([]) ([i.ud.toNat]) →
    i.sreg.toNat < 0x010 ∨ 0x014 < i.sreg.toNat ∨ isControl r.core.val = true →
    exec (.u2s r i) s = .next (retire s r c (stepped c))) ∧
  -- nop
  (∀ (r : ChainRef) (i : SysI) (c : Chain) (s : State),
    wholeOf s r c i.pred i.pneg ([]) ([]) →
    exec (.nopInstruction r i) s = .next (retire s r c (stepped c))) ∧
  -- yield
  (∀ (r : ChainRef) (i : SysI) (c : Chain) (s : State),
    wholeOf s r c i.pred i.pneg ([]) ([]) →
    exec (.yield r i) s = .next (retire s r c (stepped c)))

/-- bra goes to its target; bra.d, whose predicate is its condition, pushes the reconvergence entry, and where both
paths have threads the fall-through path as well; join goes on with the newest entry that has a thread left, call
and ret push and take a call entry. Pushing past 56 entries and the spill depth raises the stack exception, cause 4;
join on a call entry or an empty stack, and ret without one, raise ILLEGAL. An exception is raised once no load of the
chain is out that may still raise one (log 14). exit ends the predicated threads: others go on, or a join follows, or with
none left and no load out the chain ends. -/
def Obligations.BranchesAndTheReconvergenceStack : Prop :=
  -- bra
  (∀ (r : ChainRef) (i : BrI) (c : Chain) (s : State),
    wholeOf s r c i.pred i.pneg ([]) ([]) →
    exec (.bra r i) s = .next (retire s r c { c with pc := branchAt c i.target })) ∧
  -- bra.d with threads on both paths
  (∀ (r : ChainRef) (i : BrI) (c : Chain) (s : State),
    issues s r c [] [] →
    c.active &&& c.predOf i.pred i.pneg ≠ 0 →
    c.active &&& ~~~(c.predOf i.pred i.pneg) ≠ 0 →
    roomFor s c 2 →
    exec (.braD r i) s = .next (retire s r c { c with
      stack := { mask := c.active &&& ~~~(c.predOf i.pred i.pneg), pc := (c.pc + 1) % 2 ^ 30, kind := 1 } :: { mask := c.active, pc := branchAt c i.rpc, kind := 0 } :: c.stack,
      active := c.active &&& c.predOf i.pred i.pneg, pc := branchAt c i.target })) ∧
  -- with all threads on the path of the target
  (∀ (r : ChainRef) (i : BrI) (c : Chain) (s : State),
    issues s r c [] [] →
    c.active &&& c.predOf i.pred i.pneg ≠ 0 →
    c.active &&& ~~~(c.predOf i.pred i.pneg) = 0 →
    roomFor s c 1 →
    exec (.braD r i) s = .next (retire s r c { c with stack := { mask := c.active, pc := branchAt c i.rpc, kind := 0 } :: c.stack, active := c.active &&& c.predOf i.pred i.pneg, pc := branchAt c i.target })) ∧
  -- with none there
  (∀ (r : ChainRef) (i : BrI) (c : Chain) (s : State),
    issues s r c [] [] →
    c.active &&& c.predOf i.pred i.pneg = 0 →
    roomFor s c 1 →
    exec (.braD r i) s = .next (retire s r c { stepped c with stack := { mask := c.active, pc := branchAt c i.rpc, kind := 0 } :: c.stack })) ∧
  -- without room
  (∀ (r : ChainRef) (i : BrI) (c : Chain) (s : State),
    issues s r c [] [] →
    ¬ roomFor s c 1 ∨ (c.active &&& c.predOf i.pred i.pneg ≠ 0 ∧ c.active &&& ~~~(c.predOf i.pred i.pneg) ≠ 0 ∧ ¬ roomFor s c 2) →
    c.settled = true →
    exec (.braD r i) s = .next (raised s r c { cause := 4, lanes := c.active })) ∧
  -- join: the entries above the one taken have no thread left
  (∀ (r : ChainRef) (pre rest : List StkEnt) (e : StkEnt) (i : BrI) (c : Chain) (s : State),
    wholeOf s r c i.pred i.pneg ([]) ([]) →
    c.stack = pre ++ e :: rest →
    (∀ x ∈ pre, x.kind ≠ 2 ∧ x.mask &&& ~~~c.exited = 0) →
    e.kind ≠ 2 →
    e.mask &&& ~~~c.exited ≠ 0 →
    exec (.join r i) s = .next (retire s r c { c with active := e.mask &&& ~~~c.exited, pc := e.pc, stack := rest })) ∧
  -- a join that pops a call entry, or the whole stack
  (∀ (r : ChainRef) (pre : List StkEnt) (rest : List StkEnt) (i : BrI) (c : Chain) (s : State),
    wholeOf s r c i.pred i.pneg ([]) ([]) →
    c.stack = pre ++ rest →
    (∀ x ∈ pre, x.kind ≠ 2 ∧ x.mask &&& ~~~c.exited = 0) →
    rest = [] ∨ (rest.head?.map (fun x => x.kind)) = some 2 →
    c.settled = true →
    exec (.join r i) s = .next (raised s r c { cause := 1, lanes := c.active })) ∧
  -- call
  (∀ (r : ChainRef) (i : BrI) (c : Chain) (s : State),
    wholeOf s r c i.pred i.pneg ([]) ([]) →
    roomFor s c 1 →
    exec (.call r i) s = .next (retire s r c { c with stack := { mask := c.active, pc := (c.pc + 1) % 2 ^ 30, kind := 2 } :: c.stack, pc := branchAt c i.target })) ∧
  -- a call without room
  (∀ (r : ChainRef) (i : BrI) (c : Chain) (s : State),
    wholeOf s r c i.pred i.pneg ([]) ([]) →
    ¬ roomFor s c 1 →
    c.settled = true →
    exec (.call r i) s = .next (raised s r c { cause := 4, lanes := c.active })) ∧
  -- ret
  (∀ (r : ChainRef) (e : StkEnt) (rest : List StkEnt) (i : BrI) (c : Chain) (s : State),
    wholeOf s r c i.pred i.pneg ([]) ([]) →
    c.stack = e :: rest →
    e.kind = 2 →
    exec (.ret r i) s = .next (retire s r c { c with active := e.mask &&& ~~~c.exited, pc := e.pc, stack := rest })) ∧
  -- ret without a call entry on top
  (∀ (r : ChainRef) (i : BrI) (c : Chain) (s : State),
    wholeOf s r c i.pred i.pneg ([]) ([]) →
    (c.stack.head?.map (fun x => x.kind)) ≠ some 2 →
    c.settled = true →
    exec (.ret r i) s = .next (raised s r c { cause := 1, lanes := c.active })) ∧
  -- exit of some threads
  (∀ (r : ChainRef) (i : BrI) (c : Chain) (s : State),
    issues s r c [] [] →
    c.active &&& ~~~(c.predOf i.pred i.pneg) ≠ 0 →
    c.active &&& c.exited = 0 →
    exec (.exit r i) s = .next (retire s r c { stepped c with exited := c.exited ||| (c.active &&& c.predOf i.pred i.pneg), active := c.active &&& ~~~(c.predOf i.pred i.pneg) })) ∧
  -- exit of all active threads while others wait on the stack
  (∀ (r : ChainRef) (i : BrI) (c : Chain) (e : StkEnt) (rest : List StkEnt) (s : State),
    issues s r c [] [] →
    c.active &&& ~~~(c.predOf i.pred i.pneg) = 0 →
    c.exited ||| c.active ≠ 0xFFFFFFFF →
    c.stack = e :: rest →
    e.kind ≠ 2 →
    e.mask &&& ~~~(c.exited ||| c.active) ≠ 0 →
    exec (.exit r i) s = .next (retire s r c { c with exited := c.exited ||| c.active, active := e.mask &&& ~~~(c.exited ||| c.active), pc := e.pc, stack := rest })) ∧
  -- exit of the last threads: the chain ends and leaves its slot
  (∀ (r : ChainRef) (i : BrI) (c : Chain) (s : State),
    issues s r c [] [] →
    c.active &&& ~~~(c.predOf i.pred i.pneg) = 0 →
    c.exited ||| c.active = 0xFFFFFFFF →
    c.loads = [] →
    exec (.exit r i) s = .next ((retire s r c { c with exited := 0xFFFFFFFF, active := 0 }).endChain r.core.val r.slot.val)) ∧
  -- the slot is empty then
  (∀ (core slot : Nat) (s : State) (c : Chain),
    s.chain? core slot = some c →
    twf (s.core core).chains = true →
    s.group? c.cid c.group = none →
    (s.endChain core slot).chain? core slot = none)

/-- A local access is at u[UBASE] + v[VOFF] + IMM16 within its group's usable store. ldl writes the bytes,
zero-extended, to the registers from VDS on in the executing threads; stl writes each thread's bytes, a higher
thread's in place of a lower one's; atoml applies its operation thread by thread, ascending, each receiving the old
value. A store changes only the bytes it names; a waiter at those bytes is served as at a signal. A store or
an atomic operation is made once no earlier load may still raise an exception (log 14); a load that must wait for an
earlier access leaves everything but the fetch as it was. -/
def Obligations.LocalAccesses : Prop :=
  -- ldl
  (∀ (r : ChainRef) (i : MemI) (c : Chain) (s : State),
    accesses s r c i (dataRegs i.vds.toNat (memBytes i)) ([]) →
    localOk s r c i (memBytes i) →
    s.markOk r.core.val r.slot.val c i 1 = true →
    ∃ t : State, exec (.ldl r i) s = .next t ∧ t = retire s r c (there t r) ∧ there t r = { stepped c with v := (there t r).v } ∧
    ∀ n, n < 256 → ∀ l, l < 32 → (there t r).vreg n l =
      if n ≠ 255 ∧ i.vds ≠ 255 ∧ (by_ c i).getLsbD l = true ∧ i.vds.toNat ≤ n ∧ n < i.vds.toNat + max 1 (memBytes i / 4) then
        BitVec.ofNat 32 (leNat (((s.lsBytes r.core.val (localAt s r c i l) (memBytes i)).drop (4 * (n - i.vds.toNat))).take 4))
      else c.vreg n l) ∧
  -- stl
  (∀ (r : ChainRef) (i : MemI) (c : Chain) (s : State),
    accesses s r c i (dataRegs i.vds.toNat (memBytes i)) ([]) →
    localOk s r c i (memBytes i) →
    s.markOk r.core.val r.slot.val c i 1 = true →
    c.settled = true →
    exec (.stl r i) s = .next ((lanes (by_ c i)).foldl (fun u l => u.lsStore r.core.val (localAt s r c i l) (c.storeBytes i.vds.toNat l (memBytes i))) (retire s r c (stepped c)))) ∧
  -- the bytes of a thread that a store takes
  (∀ (c : Chain) (v l n : Nat),
    n ≤ 16 →
    v ≠ 255 →
    ((c.storeBytes v l n).length = n ∧ ∀ k, k < n → (c.storeBytes v l n).getD k 0 = if v + k / 4 = 255 then 0 else (c.vreg (v + k / 4) l).extractLsb' (8 * (k % 4)) 8)) ∧
  -- what a store to the local store changes, where no chain or command waits at an object
  (∀ (core a : Nat) (bs : List Byte) (s : State),
    s.waiters = [] →
    ((∀ b, tget ((s.lsStore core a bs).core core).ls b 0 = if a ≤ b ∧ b < a + bs.length then bs.getD (b - a) 0 else tget (s.core core).ls b 0) ∧
    s.lsStore core a bs = s.updCore core (fun k => { k with ls := ((s.lsStore core a bs).core core).ls }))) ∧
  -- with waiters, their objects alone are served after it
  (∀ (core a : Nat) (bs : List Byte) (s : State),
    (∀ w ∈ s.waiters, w.lsCore = some core → w.addr + 8 ≤ a ∨ a + bs.length ≤ w.addr) →
    s.lsStore core a bs = s.lsWrite core a bs) ∧
  -- atoml
  (∀ (r : ChainRef) (op : AtomOp) (i : MemI) (c : Chain) (s : State),
    accesses s r c i (atomRegs op i.vds.toNat i.size.toNat) ([]) →
    i.size = 2 ∨ i.size = 3 →
    localOk s r c i (memBytes i) →
    s.markOk r.core.val r.slot.val c i 1 = true →
    c.settled = true →
    exec (.atoml r op i) s = .next ((lanes (by_ c i)).foldl (fun u l => u.localAtom r op i c (localAt s r c i l) l) (retire s r c (stepped c)))) ∧
  -- one thread's operation on 32 bits, where nothing waits at an object
  (∀ (r : ChainRef) (op : AtomOp) (i : MemI) (c d : Chain) (a l : Nat) (s : State),
    s.waiters = [] →
    i.size = 2 →
    i.vds ≠ 255 →
    s.chain? r.core.val r.slot.val = some d →
    (s.lsNum r.core.val a 4 < 2 ^ 32 ∧
    (s.localAtom r op i c a l).lsNum r.core.val a 4 = atomNew op 32 (s.lsNum r.core.val a 4) (c.vreg (if op = .cas then i.vds.toNat + 1 else i.vds.toNat) l).toNat (c.vreg i.vds.toNat l).toNat % 2 ^ 32 ∧
    there (s.localAtom r op i c a l) r = d.setV i.vds.toNat l (BitVec.ofNat 32 (s.lsNum r.core.val a 4)) ∧
    ∀ b, b < a ∨ a + 4 ≤ b → tget ((s.localAtom r op i c a l).core r.core.val).ls b 0 = tget (s.core r.core.val).ls b 0)) ∧
  -- the operations; minimum and maximum are signed
  (∀ (w old v p : Nat),
    old < 2 ^ w →
    v < 2 ^ w →
    (atomNew .add w old v p = (old + v) % 2 ^ w ∧ atomNew .and w old v p = old &&& v ∧ atomNew .or w old v p = old ||| v ∧ atomNew .xor w old v p = old ^^^ v ∧ atomNew .exch w old v p = v ∧
    atomNew .cas w old v p = (if old = p then v else old) ∧ toSigned w (atomNew .min w old v p) = min (toSigned w old) (toSigned w v) ∧ toSigned w (atomNew .max w old v p) = max (toSigned w old) (toSigned w v))) ∧
  -- an access that an earlier one still holds back
  (∀ (r : ChainRef) (i : MemI) (c : Chain) (s : State),
    accesses s r c i (dataRegs i.vds.toNat (memBytes i)) ([]) →
    localOk s r c i (memBytes i) →
    s.markOk r.core.val r.slot.val c i 1 = false →
    exec (.ldl r i) s = .next (fetched s r c))

/-- Of one kind of access, all of memory or all of device registers: ldg and ldu leave a load outstanding that remembers
the chain's registers, and ask for the places that the data cache does not answer; a place on this node needs no request,
one of the host is read on the function's attachment, one of another node's device registers by its own bytes, and of
another node's memory the line is asked for unless it is held or asked for already. A load of one thread is served by the
store buffer where the chain's own stores cover its bytes. stg puts one entry for each line into the store buffer, a higher
thread's byte in place of a lower one's, and one for each thread to a device register; atomg the same, its threads
ascending, with an outstanding load of the old values. pref asks for the lines that the data cache may hold and does not,
unless NA. A store that finds no room leaves everything but the fetch as it was. Stores and atomics go on once no earlier
load may still raise an exception (log 14). -/
def Obligations.GlobalAccesses : Prop :=
  -- ldg
  (∀ (r : ChainRef) (dev : Bool) (i : MemI) (c : Chain) (s : State),
    accesses s r c i (dataRegs i.vds.toNat (memBytes i)) ([]) →
    globalOk s r c i.buf.toNat (by_ c i) (offOf c i) (memBytes i) false →
    allDevice s r c i dev (accsOf s r c i) →
    clearOf s r c dev (accsOf s r c i) (memBytes i) →
    marksLet s r c i (accsOf s r c i) →
    exec (.ldg r i) s = .next (loadBegun s r c i (loadOf c i (some i.vds.toNat) 0 i.size.toNat dev (accsOf s r c i)) (askedOf s r i dev (accsOf s r c i)))) ∧
  -- the place of a byte of a buffer
  (∀ (core b off : Nat) (c : Chain) (k : Cmd) (p : Piece) (s : State),
    s.chainCmd c = some k →
    isControl core = false →
    k.pieces.find? (fun p => p.ext == b && decide (p.off ≤ off) && decide (off < p.off + p.len)) = some p →
    s.globalPa core c b off = p.pa + (off - p.off)) ∧
  -- a place on this node, and one of the host
  (∀ (core slot hide a : Nat) (c : Chain) (l : Load) (s : State),
    ((s.isLocal a = true → s.askLane core slot c l hide a = s) ∧
    (s.isLocal a = false → isHostPa a = true → s.askLane core slot c l hide a =
      s.emit (.hostRead (s.ctxFn ((s.chainCtx c).getD 0xFFFF)) (s.hostPort (s.ctxFn ((s.chainCtx c).getD 0xFFFF))) a (2 ^ l.size))))) ∧
  -- a device register of another node, and a line of its memory
  (∀ (core slot hide a : Nat) (c : Chain) (l : Load) (s : State),
    s.isLocal a = false →
    isHostPa a = false →
    ((l.dev = true → ∃ q : RReq, (s.askLane core slot c l hide a).fab.reqs = s.fab.reqs ++ [q] ∧ q.tag = s.fab.tag.toNat ∧ q.node = paNode a ∧ q.kind = 1 ∧
      q.core = some (core, slot, l.idx) ∧ q.addr = paOff a ∧ Same (fields [.fab, .out]) s (s.askLane core slot c l hide a)) ∧
    (l.dev = false → (s.line (a / 128)).st = .inv → s.cohOut (a / 128) = false → ∃ q : RReq, (s.askLane core slot c l hide a).fab.reqs = s.fab.reqs ++ [q] ∧ q.tag = s.fab.tag.toNat ∧ q.node = paNode a ∧ q.kind = 4 ∧ q.msg.aux.toNat = 0 ∧
      q.core = some (core, slot, l.idx) ∧ q.addr = paOff a / 128 * 128 ∧ Same (fields [.fab, .out]) s (s.askLane core slot c l hide a)) ∧
    (l.dev = false → (s.line (a / 128)).st ≠ .inv ∨ s.cohOut (a / 128) = true → s.askLane core slot c l hide a = s))) ∧
  -- ldg whose only thread finds its bytes in the chain's own stores
  (∀ (r : ChainRef) (l : Nat) (bs : List Byte) (i : MemI) (c : Chain) (s : State),
    accesses s r c i (dataRegs i.vds.toNat (memBytes i)) ([]) →
    globalOk s r c i.buf.toNat (by_ c i) (offOf c i) (memBytes i) false →
    lanes (by_ c i) = [l] →
    i.size.toNat ≤ 2 →
    allDevice s r c i false (accsOf s r c i) →
    i.ord.toNat % 2 = 0 →
    forward (s.core r.core.val).sb r.slot.val c (s.globalPa r.core.val c i.buf.toNat (offOf c i l)) (memBytes i) = .bytes bs →
    marksLet s r c i (accsOf s r c i) →
    ∃ t : State, exec (.ldg r i) s = .next t ∧ wroteV s r c t (1#32 <<< l) i.vds.toNat (fun _ => BitVec.ofNat 32 (leNat bs))) ∧
  -- what the store buffer gives: nothing without an overlap; the chain's own youngest bytes where they cover all;
  -- else the load waits
  (∀ (sb : List SbEnt) (c : Chain) (slot a n : Nat),
    0 < n →
    ((forward sb slot c a n = .memory ↔ ∀ e ∈ sb, e.touches a n = false) ∧
    (∀ bs, forward sb slot c a n = .bytes bs → bs.length = n ∧ (∀ e ∈ sb, e.touches a n = true → e.ownOf slot c = true ∧ e.atoms = []) ∧ ∀ k, k < n → sbByte sb slot c (a + k) = some (bs.getD k 0)))) ∧
  -- ldu: a 64-bit load at u[UBASE] + IMM16
  (∀ (r : ChainRef) (dev : Bool) (i : MemI) (c : Chain) (s : State),
    accesses s r c i ([]) ([i.vds.toNat]) →
    i.voff = 255 →
    globalOk s r c i.buf.toNat (by_ c i) (fun _ => offOf c i 0) 8 false →
    allDevice s r c i dev [lduAcc s r c i] →
    clearOf s r c dev [lduAcc s r c i] 8 →
    marksLet s r c i [lduAcc s r c i] →
    exec (.ldu r i) s = .next (loadBegun s r c i (loadOf c i none (i.vds.toNat % 64) 3 dev [lduAcc s r c i]) (askedOf s r i dev [lduAcc s r c i]))) ∧
  -- a VOFF of ldu has no part in it
  (∀ (r : ChainRef) (i : MemI) (s : State),
    exec (.ldu r i) s = exec (.ldu r { i with voff := 255 }) s) ∧
  -- stg
  (∀ (r : ChainRef) (i : MemI) (c : Chain) (s : State),
    accesses s r c i (dataRegs i.vds.toNat (memBytes i)) ([]) →
    globalOk s r c i.buf.toNat (by_ c i) (offOf c i) (memBytes i) true →
    allDevice s r c i false (accsOf s r c i) →
    (s.core r.core.val).sb.length + (storeEntries s r c i).length ≤ 64 →
    (∀ x ∈ accsOf s r c i, c.loading x.pa (memBytes i) = false) →
    marksLet s r c i (accsOf s r c i) →
    c.settled = true →
    exec (.stg r i) s = .next ((retire s r c (afterStore s c i (accsOf s r c i))).pushEntries r.core.val (storeEntries s r c i))) ∧
  -- stg to a device register: one entry for each thread
  (∀ (r : ChainRef) (i : MemI) (c : Chain) (s : State),
    accesses s r c i (dataRegs i.vds.toNat (memBytes i)) ([]) →
    globalOk s r c i.buf.toNat (by_ c i) (offOf c i) (memBytes i) true →
    allDevice s r c i true (accsOf s r c i) →
    s.deviceBusy r.core.val r.slot.val c false = false →
    (s.core r.core.val).sb.length + (accsOf s r c i).length ≤ 64 →
    (∀ x ∈ accsOf s r c i, c.loading x.pa (memBytes i) = false) →
    marksLet s r c i (accsOf s r c i) →
    c.settled = true →
    exec (.stg r i) s = .next ((retire s r c (afterStore s c i (accsOf s r c i))).pushEntries r.core.val
      ((accsOf s r c i).map (fun x => s.entryOf c r.slot.val (s.slotHide c.cid i.buf.toNat x.off) (1#32 <<< x.t) true (c.laneCells i.vds.toNat (memBytes i) x) [])))) ∧
  -- the entries of a store: each lies in one line, and a byte is the one written last
  (∀ (cells : List (Nat × Byte)) (a : Nat),
    ((∀ d ∈ storeLines cells, d ≠ [] ∧ ∀ x ∈ d, ∀ y ∈ d, x.1 / 128 = y.1 / 128) ∧
    ((storeLines cells).findSome? (fun d => tfind d a)) = (cells.reverse.find? (fun x => x.1 == a)).map (fun x => x.2))) ∧
  -- an entry names the chain, the instruction, the command, and the context with its generation
  (∀ (c : Chain) (k : Cmd) (slot hide : Nat) (mask : W32) (dev : Bool) (d : List (Nat × Byte)) (x : List SbAtom) (s : State),
    s.chainCmd c = some k →
    s.entryOf c slot hide mask dev d x = { slot := slot, part := (c.group, c.inGroup), pc := c.pc, mask := mask, cid := c.cid, ctx := k.ctx, gen := s.genOf k.ctx, tag := s.hideTag k.hide, hide := hide, data := d, atoms := x, dev := dev, retried := false }) ∧
  -- atomg
  (∀ (r : ChainRef) (op : AtomOp) (i : MemI) (c : Chain) (s : State),
    accesses s r c i (atomRegs op i.vds.toNat i.size.toNat) ([]) →
    i.size = 2 ∨ i.size = 3 →
    globalOk s r c i.buf.toNat (by_ c i) (offOf c i) (memBytes i) true →
    (∀ x ∈ accsOf s r c i, hostAtomOk op = true ∨ isHostPa x.pa = false) →
    allDevice s r c i false (accsOf s r c i) →
    (s.core r.core.val).sb.length + (atomEntries s r c op i).length ≤ 64 →
    (∀ x ∈ accsOf s r c i, c.loading x.pa (memBytes i) = false) →
    marksLet s r c i (accsOf s r c i) →
    c.settled = true →
    exec (.atomg r op i) s = .next ((retire s r c (atomLoading c i false (accsOf s r c i))).pushEntries r.core.val (atomEntries s r c op i))) ∧
  -- atomg on device registers
  (∀ (r : ChainRef) (op : AtomOp) (i : MemI) (c : Chain) (s : State),
    accesses s r c i (atomRegs op i.vds.toNat i.size.toNat) ([]) →
    i.size = 2 ∨ i.size = 3 →
    globalOk s r c i.buf.toNat (by_ c i) (offOf c i) (memBytes i) true →
    (∀ x ∈ accsOf s r c i, hostAtomOk op = true ∨ isHostPa x.pa = false) →
    allDevice s r c i true (accsOf s r c i) →
    s.deviceBusy r.core.val r.slot.val c false = false →
    (s.core r.core.val).sb.length + (accsOf s r c i).length ≤ 64 →
    (∀ x ∈ accsOf s r c i, c.loading x.pa (memBytes i) = false) →
    marksLet s r c i (accsOf s r c i) →
    c.settled = true →
    exec (.atomg r op i) s = .next ((retire s r c (atomLoading c i true (accsOf s r c i))).pushEntries r.core.val
      ((accsOf s r c i).map (fun x => s.entryOf c r.slot.val (s.slotHide c.cid i.buf.toNat x.off) (1#32 <<< x.t) true [] [atomOf c op i x])))) ∧
  -- operand and comparand of an atomic of 32 bits: cas compares with vds and stores the register behind
  (∀ (c : Chain) (op : AtomOp) (v l : Nat),
    v < 254 →
    c.atomVals op v l 2 = (if op = .cas then ((c.vreg (v + 1) l).toNat, (c.vreg v l).toNat) else ((c.vreg v l).toNat, 0))) ∧
  -- pref with nothing to bring in
  (∀ (r : ChainRef) (i : MemI) (c : Chain) (s : State),
    accesses s r c i ([]) ([]) →
    globalOk s r c i.buf.toNat (by_ c i) (offOf c i) (memBytes i) false →
    c.acquiring = false →
    i.na = true ∨ prefAccs s r c i = [] →
    exec (.pref r i) s = .next (retire s r c (stepped c))) ∧
  -- pref
  (∀ (r : ChainRef) (i : MemI) (c : Chain) (s : State),
    accesses s r c i ([]) ([]) →
    globalOk s r c i.buf.toNat (by_ c i) (offOf c i) (memBytes i) false →
    c.acquiring = false →
    i.na = false →
    prefAccs s r c i ≠ [] →
    exec (.pref r i) s = .next (loadBegun s r c i (prefLoad c (prefAccs s r c i)) (prefAccs s r c i))) ∧
  -- a line that is brought in is in the data cache, with the bytes of memory, and nothing else of the state changes
  (∀ (core line : Nat) (s : State),
    (((s.fillLine core line).core core).dcache.head? = some { line := line, bytes := s.readBytes (line * 128) 128 } ∧
    s.fillLine core line = s.updCore core (fun k => { k with dcache := ((s.fillLine core line).core core).dcache }) ∧
    ∀ x ∈ ((s.fillLine core line).core core).dcache, x.line = line ∨ x ∈ (s.core core).dcache)) ∧
  -- a store that finds no room
  (∀ (r : ChainRef) (i : MemI) (c : Chain) (s : State),
    accesses s r c i (dataRegs i.vds.toNat (memBytes i)) ([]) →
    globalOk s r c i.buf.toNat (by_ c i) (offOf c i) (memBytes i) true →
    (s.core r.core.val).sb.length = 64 →
    exec (.stg r i) s = .next (fetched s r c))

/-- The first MX instruction of a context takes an unowned unit with a slot in the context's save area. mld puts a B
block into the idle register; mmul swaps the registers after an mld and adds each row's 128 sums of products into
its accumulator row, of 128 bits; mrd writes accumulator rows to the local store, as F32 or as saturated I32; mclr clears the
accumulators; mrel clears and frees the unit, which a group whose saved matrix state waits for it takes (log 49). Each of
them lets the chains that wait for the unit try again. A chain waits, in issue order, while another context or the acre has
the unit. A format that is not private raises ILLEGAL, one not permitted MX_FORMAT, a second mismatch MX_CHECK. A sum
beyond 128 bits has no stated value. -/
def Obligations.MatrixUnitUse : Prop :=
  -- mld
  (∀ (r : ChainRef) (i : MxI) (c : Chain) (k : Cmd) (a : Nat) (s : State),
    mxIssues s r c k i →
    mxLegal i.fmtA.toNat i.modeA.toNat →
    mxLegal i.fmtB.toNat i.modeB.toNat →
    permits s k i.fmtA.toNat →
    permits s k i.fmtB.toNat →
    lsFits s r c (c.ureg i.uaddr.toNat).toNat (128 * mxRowLen i.fmtB.toNat (pairDepth i)) →
    lsFits s r c (c.ureg i.uaux.toNat).toNat (128 * mxScaleLen i.modeB.toNat (pairDepth i)) →
    mxMine s r c k a →
    exec (.mld r i) s = .next (((mxTaken s r c k a).updUnit r.core.val (fun u => { u with
      loaded := true, b1 := s.readBlock r.core.val (mxAt s r c i.uaddr) (mxAt s r c i.uaux) i.fmtB.toNat i.modeB.toNat (pairDepth i) })).wakeMx r.core.val)) ∧
  -- an element of a block and its scale, as the local store holds them
  (∀ (core a sa fmt mode d col n : Nat) (s : State),
    col < 128 →
    n < 128 * d →
    d ≤ 4 →
    fmtPlanes fmt = false →
    (tget (s.readBlock core a sa fmt mode d).codes (col * 512 + n) 0 = nbits (leNat (s.lsBytes core (a + col * mxRowLen fmt d) (mxRowLen fmt d))) (fmtWidth fmt * n + fmtWidth fmt - 1) (fmtWidth fmt * n) ∧
    (n < mxScaleLen mode d → d = 1 → tget (s.readBlock core a sa fmt mode d).scales (col * 32 + n) 0 = (tget (s.core core).ls (sa + col * mxScaleLen mode d + n) 0).toNat))) ∧
  -- mmul
  (∀ (r : ChainRef) (bad : Fin 3) (i : MxI) (c : Chain) (k : Cmd) (a : Nat) (s : State),
    mxIssues s r c k i →
    mxLegal i.fmtA.toNat i.modeA.toNat →
    mxLegal i.fmtB.toNat i.modeB.toNat →
    permits s k i.fmtA.toNat →
    permits s k i.fmtB.toNat →
    lsFits s r c (c.ureg i.uaddr.toNat).toNat ((i.rows.toNat + 1) * mxRowLen i.fmtA.toNat (pairDepth i)) →
    lsFits s r c (c.ureg i.uaux.toNat).toNat ((i.rows.toNat + 1) * mxScaleLen i.modeA.toNat (pairDepth i)) →
    mxMine s r c k a →
    bad ≠ 2 →
    exec (.mmul r i bad) s = .next (((mxTaken s r c k a).updUnit r.core.val (fun u => u.multiply i.fmtB.toNat i.modeB.toNat (pairDepth i)
      ((List.range (i.rows.toNat + 1)).map (fun n => s.readRow r.core.val (mxAt s r c i.uaddr + n * mxRowLen i.fmtA.toNat (pairDepth i)) (mxAt s r c i.uaux + n * mxScaleLen i.modeA.toNat (pairDepth i))
        i.fmtA.toNat i.modeA.toNat (pairDepth i))))).wakeMx r.core.val)) ∧
  -- the loaded block comes first; each accumulator of the rows takes its sum, no other one changes
  (∀ (u : MxUnit) (fmtB modeB d : Nat) (rows : List (List (FV × Bool))),
    (u.swap).b0.fmt = fmtB →
    (u.swap).b0.mode = modeB →
    (u.swap).b0.d = d →
    (∀ n j, n < rows.length → j < 128 →
      -(2 ^ 127 : Int) ≤ tget u.acc (n * 128 + j) 0 + (dotProduct (rows.getD n []) ((List.range (128 * d)).map (fun e => (u.swap).b0.elem j e))).1 ∧
      tget u.acc (n * 128 + j) 0 + (dotProduct (rows.getD n []) ((List.range (128 * d)).map (fun e => (u.swap).b0.elem j e))).1 < 2 ^ 127) →
    ((u.loaded = true → (u.swap).b0 = u.b1 ∧ (u.swap).b1 = u.b0) ∧ (u.loaded = false → u.swap = u) ∧
    (∀ n j, n < rows.length → j < 128 → tget (u.multiply fmtB modeB d rows).acc (n * 128 + j) 0 =
      tget u.acc (n * 128 + j) 0 + (dotProduct (rows.getD n []) ((List.range (128 * d)).map (fun e => (u.swap).b0.elem j e))).1) ∧
    (∀ n, rows.length * 128 ≤ n → tget (u.multiply fmtB modeB d rows).acc n 0 = tget u.acc n 0) ∧
    (u.multiply fmtB modeB d rows).b0 = (u.swap).b0 ∧ (u.multiply fmtB modeB d rows).owner = u.owner)) ∧
  -- a sum is of the exact products placed in the accumulator
  (∀ (a b : List (FV × Bool)),
    (dotProduct a b).1 = ((a.zip b).map (fun x => (placeProduct (exactMul x.1.1 x.2.1)).1)).sum) ∧
  -- a second mismatch of an mmul
  (∀ (r : ChainRef) (i : MxI) (c : Chain) (k : Cmd) (a : Nat) (s : State),
    mxIssues s r c k i →
    mxLegal i.fmtA.toNat i.modeA.toNat →
    mxLegal i.fmtB.toNat i.modeB.toNat →
    permits s k i.fmtA.toNat →
    permits s k i.fmtB.toNat →
    lsFits s r c (c.ureg i.uaddr.toNat).toNat ((i.rows.toNat + 1) * mxRowLen i.fmtA.toNat (pairDepth i)) →
    lsFits s r c (c.ureg i.uaux.toNat).toNat ((i.rows.toNat + 1) * mxScaleLen i.modeA.toNat (pairDepth i)) →
    mxMine s r c k a →
    exec (.mmul r i 2) s = .next ((raised s r c { cause := 0x0C, lanes := c.active }).markSuspect r.core.val)) ∧
  -- mrd: 128 values of 4 bytes for each row, and the two saturation counters
  (∀ (r : ChainRef) (i : MxI) (c : Chain) (k : Cmd) (a : Nat) (s : State),
    mxIssues s r c k i →
    i.fmtA = 0x0E ∨ i.fmtA = 0x0F →
    i.modeA.toNat < 5 →
    i.modeB.toNat < 5 →
    lsFits s r c (c.ureg i.uaddr.toNat).toNat (512 * (i.rows.toNat + 1)) →
    mxMine s r c k a →
    exec (.mrd r i) s = .next (((((mxTaken s r c k a).lsStore r.core.val (mxAt s r c i.uaddr)
      ((List.range ((i.rows.toNat + 1) * 128)).flatMap (fun n => leBytes 4 (mxRead i.fmtA.toNat (tget (s.core r.core.val).unit.acc n 0)).1)))).updUnit r.core.val (fun u => { u with
        cnt := u.cnt.add { sats := ((List.range ((i.rows.toNat + 1) * 128)).filter (fun n => (mxRead i.fmtA.toNat (tget (s.core r.core.val).unit.acc n 0)).2.1)).length,
                           qsat := ((List.range ((i.rows.toNat + 1) * 128)).filter (fun n => (mxRead i.fmtA.toNat (tget (s.core r.core.val).unit.acc n 0)).2.2)).length } })).wakeMx r.core.val)) ∧
  -- mclr
  (∀ (r : ChainRef) (i : MxI) (c : Chain) (k : Cmd) (a : Nat) (s : State),
    mxIssues s r c k i →
    i.modeA.toNat < 5 →
    i.modeB.toNat < 5 →
    mxMine s r c k a →
    exec (.mclr r i) s = .next (((mxTaken s r c k a).updUnit r.core.val (fun u => { u with acc := [] })).wakeMx r.core.val)) ∧
  -- mrel
  (∀ (r : ChainRef) (i : MxI) (c : Chain) (k : Cmd) (a : Nat) (s : State),
    mxIssues s r c k i →
    i.modeA.toNat < 5 →
    i.modeB.toNat < 5 →
    mxMine s r c k a →
    exec (.mrel r i) s = .next (((mxTaken s r c k a).releaseUnit r.core.val).wakeMx r.core.val)) ∧
  -- a unit that is released holds nothing, and chains that waited for it are ready, where no group's matrix state waits for it
  (∀ (core slot : Nat) (c : Chain) (s : State),
    s.chain? core slot = some c →
    (∀ x ∈ s.groupsOn core, x.savedMx = none) →
    (((s.releaseUnit core).core core).unit = {} ∧ (s.releaseUnit core).chain? core slot = some (if c.st = .mxWait then { c with st := .ready } else c) ∧ Same (fields [.cores]) s (s.releaseUnit core))) ∧
  -- else the first such group takes it
  (∀ (core : Nat) (x : Group) (u : MxUnit) (s : State),
    (s.groupsOn core).find? (fun y => y.savedMx.isSome) = some x →
    x.savedMx = some u →
    ((s.releaseUnit core).core core).unit = { u with owner := some x.ctx, slotAt := x.mxSlot.getD 0 }) ∧
  -- a chain waits while another context, or the acre, has the unit
  (∀ (r : ChainRef) (i : MxI) (c : Chain) (k : Cmd) (x : Instr) (s : State),
    mxIssues s r c k i →
    x = .mclr r i ∨ x = .mrel r i →
    i.modeA.toNat < 5 →
    i.modeB.toNat < 5 →
    s.acreHolds k.hide = true ∨ ((s.core r.core.val).unit.owner ≠ none ∧ (s.core r.core.val).unit.owner ≠ some k.ctx) →
    exec x s = .next (((fetched s r c).updChain r.core.val r.slot.val (fun _ => { c with st := .mxWait })).joinMxq r.core.val r.slot.val)) ∧
  -- no place for its slot in the save area
  (∀ (r : ChainRef) (i : MxI) (c : Chain) (k : Cmd) (x : Instr) (s : State),
    mxIssues s r c k i →
    x = .mclr r i ∨ x = .mrel r i →
    i.modeA.toNat < 5 →
    i.modeB.toNat < 5 →
    s.unitTaken r.core.val r.slot.val c k = false →
    (s.core r.core.val).unit.owner = none →
    s.freeSlot k.ctx = none →
    exec x s = .next (raised s r c { cause := 0x0F, lanes := c.active })) ∧
  -- a format or mode that is not private
  (∀ (r : ChainRef) (i : MxI) (c : Chain) (k : Cmd) (x : Instr) (s : State),
    mxIssues s r c k i →
    x = .mld r i ∨ x = .mmul r i 0 →
    ¬ mxLegal i.fmtA.toNat i.modeA.toNat ∨ ¬ mxLegal i.fmtB.toNat i.modeB.toNat →
    exec x s = .next (raised s r c { cause := 1, lanes := c.active })) ∧
  -- a format that the profile does not permit
  (∀ (r : ChainRef) (i : MxI) (c : Chain) (k : Cmd) (x : Instr) (s : State),
    mxIssues s r c k i →
    x = .mld r i ∨ x = .mmul r i 0 →
    mxLegal i.fmtA.toNat i.modeA.toNat →
    mxLegal i.fmtB.toNat i.modeB.toNat →
    ¬ permits s k i.fmtA.toNat ∨ ¬ permits s k i.fmtB.toNat →
    exec x s = .next (raised s r c { cause := 0x0B, lanes := c.active }))

/-- A fence makes its chain wait until its earlier accesses are performed at the scope; then it is an acquire: at block
or system scope the data cache is emptied. Scopes 4 to 7 are ILLEGAL. bar makes a chain wait at its group's barrier;
when every live chain has arrived all go on. evwait takes a unit of a counting event, or waits, as it does at a barrier object; evsig adds
one, or arrives at a barrier object and waits where it is not the last; at an object of another node a message goes to its
home; the home of the object's line is asked for a line that the
chain may not write yet. sleep stops a control core's chain, unless a source has fired there already. That a fence's
loads must have returned at every scope is the model's reading of R215 and R216 (log 41), and so is how a chain comes to
own an object's line (log 21). -/
def Obligations.FencesBarriersAndEvents : Prop :=
  -- fence
  (∀ (r : ChainRef) (i : SysI) (c : Chain) (s : State),
    wholeOf s r c i.pred i.pneg ([]) ([]) →
    i.imm.toNat % 8 < 4 →
    exec (.fenceInstruction r i) s = .next (retire s r c { stepped c with st := .fence (i.imm.toNat % 8) })) ∧
  -- a reserved scope
  (∀ (r : ChainRef) (i : SysI) (c : Chain) (s : State),
    wholeOf s r c i.pred i.pneg ([]) ([]) →
    4 ≤ i.imm.toNat % 8 →
    c.settled = true →
    exec (.fenceInstruction r i) s = .next (raised s r c { cause := 1, lanes := c.active })) ∧
  -- fence.io
  (∀ (r : ChainRef) (i : SysI) (c : Chain) (s : State),
    wholeOf s r c i.pred i.pneg ([]) ([]) →
    exec (.fenceIo r i) s = .next (retire s r c { stepped c with st := .fence 4 })) ∧
  -- a fence completes
  (∀ (r : ChainRef) (c : Chain) (scope : Nat) (s : State),
    fencing s r c scope →
    c.settled = true →
    performedAt s r c scope →
    exec (.fenceComplete r) s = .next (if scope < 2 then (s.updChain r.core.val r.slot.val (fun _ => { c with st := .ready })).retired c else
      ((s.updChain r.core.val r.slot.val (fun _ => { c with st := .ready })).updCore r.core.val (fun x => { x with dcache := [] })).retired c)) ∧
  -- a fence waits
  (∀ (r : ChainRef) (c : Chain) (scope : Nat) (s : State),
    fencing s r c scope →
    c.settled = false ∨ ¬ performedAt s r c scope →
    exec (.fenceComplete r) s = .next s) ∧
  -- bar
  (∀ (r : ChainRef) (i : SysI) (c : Chain) (s : State),
    wholeOf s r c i.pred i.pneg ([]) ([]) →
    performedAt s r c 1 →
    c.settled = true →
    exec (.bar r i) s = .next ((retire s r c { stepped c with st := .atBarrier i.imm.toNat }).arriveBar r.core.val r.slot.val c i.imm.toNat)) ∧
  -- a chain comes to bar while its stores are still in the buffer
  (∀ (r : ChainRef) (i : SysI) (c : Chain) (s : State),
    wholeOf s r c i.pred i.pneg ([]) ([]) →
    ¬ performedAt s r c 1 →
    exec (.bar r i) s = .next (fetched s r c)) ∧
  -- an arrival that is not the last counts
  (∀ (core slot id : Nat) (c k : Chain) (j : Nat) (g : Group) (s : State),
    s.group? c.cid c.group = some g →
    g.core = some core →
    g.barId = none ∨ g.barId = some id →
    j ∈ g.slots →
    s.chain? core j = some k →
    k.inGroup ∉ g.arrived →
    k.inGroup ≠ c.inGroup →
    s.arriveBar core slot c id = s.updGroup c.cid c.group (fun x => { x with barId := some id, arrived := linsert x.arrived c.inGroup })) ∧
  -- when the only chains of the group have arrived, they go on and the barrier is clear
  (∀ (core slot id : Nat) (c : Chain) (g : Group) (s : State),
    s.group? c.cid c.group = some g →
    g.core = some core →
    g.barId = none ∨ g.barId = some id →
    g.slots = [slot] →
    s.chain? core slot = some c →
    c.st = .atBarrier id →
    ((s.arriveBar core slot c id).chain? core slot = some { c with st := .ready } ∧ ((s.arriveBar core slot c id).group? c.cid c.group).map (fun x => (x.barId, x.arrived)) = some (none, []))) ∧
  -- evwait at a counting event that is not zero takes one unit; beyond the core it is an acquire
  (∀ (r : ChainRef) (i : SysI) (c : Chain) (s : State),
    wholeOf s r c i.pred i.pneg ([]) ([i.ud.toNat]) →
    objFree s r c i true →
    s.objBuffered r.core.val (idOf c i) (whereOf s r c i).2 = false →
    (idOf c i).getLsbD 45 = false →
    objMine s r (whereOf s r c i) →
    s.objRead (whereOf s r c i).1 (whereOf s r c i).2 4 ≠ 0 →
    exec (.evwait r i) s = .next (((objTaken s r c (whereOf s r c i)).objWrite (whereOf s r c i).1 (whereOf s r c i).2 4 (s.objRead (whereOf s r c i).1 (whereOf s r c i).2 4 - 1)).acquired r.core.val
      (s.objScope (idOf c i) (whereOf s r c i).2))) ∧
  -- at one that is zero the chain registers and waits
  (∀ (r : ChainRef) (i : SysI) (c : Chain) (s : State),
    wholeOf s r c i.pred i.pneg ([]) ([i.ud.toNat]) →
    objFree s r c i true →
    s.objBuffered r.core.val (idOf c i) (whereOf s r c i).2 = false →
    (idOf c i).getLsbD 45 = false →
    objMine s r (whereOf s r c i) →
    s.objRead (whereOf s r c i).1 (whereOf s r c i).2 4 = 0 →
    ∃ t : State, exec (.evwait r i) s = .next t ∧ (there t r).st = .eventWait ∧ (there t r).waitId = idOf c i ∧ (∃ w : Waiter, t.waiters = s.waiters ++ [w] ∧ w.chain = some (r.core.val, r.slot.val) ∧
    w.lsCore = (whereOf s r c i).1 ∧ w.addr = (whereOf s r c i).2 ∧ w.kind = 0) ∧ Same (fields [.cores, .cmds, .waiters]) s t) ∧
  -- at a barrier object the chain registers with its phase
  (∀ (r : ChainRef) (i : SysI) (c : Chain) (s : State),
    wholeOf s r c i.pred i.pneg ([]) ([i.ud.toNat]) →
    objFree s r c i false →
    s.objBuffered r.core.val (idOf c i) (whereOf s r c i).2 = false →
    (idOf c i).getLsbD 45 = true →
    objMine s r (whereOf s r c i) →
    ∃ t : State, exec (.evwait r i) s = .next t ∧ (there t r).st = .eventWait ∧ (∃ w : Waiter, t.waiters = s.waiters ++ [w] ∧ w.chain = some (r.core.val, r.slot.val) ∧ w.kind = 1 ∧
    w.phase = s.objRead (whereOf s r c i).1 (whereOf s r c i).2 8 / 2 ^ 56 % 256)) ∧
  -- an evwait at an object of another node: a message of KIND 7 goes to its home
  (∀ (r : ChainRef) (i : SysI) (c : Chain) (s : State),
    wholeOf s r c i.pred i.pneg ([]) ([i.ud.toNat]) →
    objFree s r c i (!(idOf c i).getLsbD 45) →
    s.objBuffered r.core.val (idOf c i) (whereOf s r c i).2 = false →
    (whereOf s r c i).1 = none →
    s.isLocal (whereOf s r c i).2 = false →
    exec (.evwait r i) s = .next ((retire s r c (stepped c)).eventMsg r.core.val r.slot.val c (idOf c i) (whereOf s r c i).2 7)) ∧
  -- evsig at a counting event
  (∀ (r : ChainRef) (i : SysI) (c : Chain) (s : State),
    wholeOf s r c i.pred i.pneg ([]) ([i.ud.toNat]) →
    objFree s r c i true →
    s.released r.core.val r.slot.val c (s.objScope (idOf c i) (whereOf s r c i).2) = true →
    (idOf c i).getLsbD 45 = false →
    objMine s r (whereOf s r c i) →
    exec (.evsig r i) s = .next ((objTaken s r c (whereOf s r c i)).signalCount (whereOf s r c i).1 (whereOf s r c i).2 1 (((s.chainCmd c).map (fun k => k.ctx)).getD 0xFFFF))) ∧
  -- a signal adds one, up to the largest value, where nothing waits
  (∀ (ls : Option Nat) (a ctx : Nat) (s : State),
    s.waiters = [] →
    s.objRead ls a 4 + 1 < 2 ^ 32 →
    s.signalCount ls a 1 ctx = s.objWrite ls a 4 (s.objRead ls a 4 + 1)) ∧
  -- evsig at a barrier object that other arrivals are missing from: the chain waits with the phase
  (∀ (r : ChainRef) (i : SysI) (c : Chain) (s : State),
    wholeOf s r c i.pred i.pneg ([]) ([i.ud.toNat]) →
    objFree s r c i true →
    s.released r.core.val r.slot.val c (s.objScope (idOf c i) (whereOf s r c i).2) = true →
    (idOf c i).getLsbD 45 = true →
    objMine s r (whereOf s r c i) →
    nbits (s.objRead (whereOf s r c i).1 (whereOf s r c i).2 8) 55 28 + 1 < nbits (s.objRead (whereOf s r c i).1 (whereOf s r c i).2 8) 27 0 →
    ∃ t : State, exec (.evsig r i) s = .next t ∧ (there t r).st = .eventWait ∧ (∃ w : Waiter, t.waiters = s.waiters ++ [w] ∧ w.chain = some (r.core.val, r.slot.val) ∧ w.kind = 1 ∧
    w.phase = s.objRead (whereOf s r c i).1 (whereOf s r c i).2 8 / 2 ^ 56 % 256)) ∧
  -- an object of this node in a line that the chain may not write yet: its home is asked for it
  (∀ (r : ChainRef) (i : SysI) (c : Chain) (s : State),
    wholeOf s r c i.pred i.pneg ([]) ([i.ud.toNat]) →
    objFree s r c i true →
    (whereOf s r c i).1 = none →
    s.isLocal (whereOf s r c i).2 = true →
    s.lineOwn { id := r.core.val, node := r.slot.val + 64 } ((whereOf s r c i).2 / 128) = false →
    ((s.released r.core.val r.slot.val c (s.objScope (idOf c i) (whereOf s r c i).2) = true →
      exec (.evsig r i) s = .next ((fetched s r c).askHome { id := r.core.val, node := r.slot.val + 64 } .exclusive ((whereOf s r c i).2 / 128))) ∧
    (s.objBuffered r.core.val (idOf c i) (whereOf s r c i).2 = false → (idOf c i).getLsbD 45 = false →
      exec (.evwait r i) s = .next ((fetched s r c).askHome { id := r.core.val, node := r.slot.val + 64 } .exclusive ((whereOf s r c i).2 / 128))))) ∧
  -- an event that is not on this node: a message of KIND 6 goes to its home
  (∀ (r : ChainRef) (i : SysI) (c : Chain) (s : State),
    wholeOf s r c i.pred i.pneg ([]) ([i.ud.toNat]) →
    objFree s r c i true →
    s.released r.core.val r.slot.val c (s.objScope (idOf c i) (whereOf s r c i).2) = true →
    (whereOf s r c i).1 = none →
    s.isLocal (whereOf s r c i).2 = false →
    exec (.evsig r i) s = .next ((retire s r c (stepped c)).eventMsg r.core.val r.slot.val c (idOf c i) (whereOf s r c i).2 6)) ∧
  -- an exception of the object's address
  (∀ (r : ChainRef) (e : Exc) (i : SysI) (c : Chain) (s : State),
    wholeOf s r c i.pred i.pneg ([]) ([i.ud.toNat]) →
    s.objExc r.core.val c (idOf c i) (!(idOf c i).getLsbD 45) = some e →
    c.settled = true →
    exec (.evwait r i) s = .next (raised s r c e)) ∧
  -- sleep on a control core
  (∀ (r : ChainRef) (i : SysI) (c : Chain) (s : State),
    wholeOf s r c i.pred i.pneg [] ([]) →
    isControl r.core.val = true →
    exec (.sleep r i) s = .next (retire s r c (if s.firedAt (r.core.val - 272) then stepped c else { stepped c with st := .sleeping }))) ∧
  -- a source has fired at a control core where it is pending, enabled and presented there
  (∀ (t n : Nat) (x : Src) (s : State),
    (n, x) ∈ s.eg.srcs →
    (s.src n).pending = true →
    (s.src n).enable = true →
    (s.src n).presented = true →
    (s.src n).target = t →
    s.firedAt t = true) ∧
  -- sleep on a compute core
  (∀ (r : ChainRef) (i : SysI) (c : Chain) (s : State),
    wholeOf s r c i.pred i.pneg ([]) ([]) →
    isControl r.core.val = false →
    c.settled = true →
    exec (.sleep r i) s = .next (raised s r c { cause := 1, lanes := c.active }))

/-- trap raises its code, and an unassigned encoding ILLEGAL. A reserved TYPE or ROUND is ILLEGAL, a register the chain
does not have REG_RANGE, a predicate that differs among the active threads DIVERGE, a program counter outside the
code FETCH; an instruction that no thread executes only goes on. Misaligned, unbound and read-only addresses raise
ALIGN, BOUNDS, PERM, in that order. An exception is raised once no load of
an earlier instruction is out that may still raise one (R193, log 14). On a compute core it ends the command with the
status of its cause and the record of the chain, or counts as a further one where the status is decided, and a source of
the furlong latches; on a control core the chain stops. -/
def Obligations.TrapsAndExceptions : Prop :=
  -- trap
  (∀ (r : ChainRef) (i : SysI) (c : Chain) (s : State),
    wholeOf s r c i.pred i.pneg ([]) ([]) →
    c.settled = true →
    exec (.trap r i) s = .next (raised s r c { cause := 0x0A, lanes := c.active, trap := i.imm.toNat })) ∧
  -- an illegal encoding
  (∀ (r : ChainRef) (c : Chain) (s : State),
    issues s r c [] [] →
    c.settled = true →
    exec (.illegalEncoding r) s = .next (raised s r c { cause := 1, lanes := c.active })) ∧
  -- the program counter is outside the code
  (∀ (r : ChainRef) (c : Chain) (i : V3) (j : SysI) (x : Instr) (s : State),
    s.chain? r.core.val r.slot.val = some c →
    s.mayIssue r.core.val c = true →
    s.pcOk r.core.val c = false →
    x = .mov r i ∨ x = .nopInstruction r j ∨ x = .illegalEncoding r →
    c.settled = true →
    exec x s = .next (s.raise r.core.val r.slot.val { cause := 7, lanes := c.active })) ∧
  -- a reserved TYPE or ROUND
  (∀ (r : ChainRef) (c : Chain) (i : V3) (s : State),
    issues s r c (v3Regs i true true false true) (v3Uregs i) →
    c.lanesOf i.pred i.pneg ≠ 0 →
    8 ≤ i.ty.toNat ∨ i.round = 3 →
    c.settled = true →
    exec (.iaddIsub r false i) s = .next (raised s r c { cause := 1, lanes := c.lanesOf i.pred i.pneg })) ∧
  -- ROUND = SR on arithmetic
  (∀ (r : ChainRef) (c : Chain) (i : V3) (op : FOp) (s : State),
    issues s r c (v3Regs i true true (op == .ffma) true) (v3Uregs i) →
    c.lanesOf i.pred i.pneg ≠ 0 →
    i.round = 2 →
    c.settled = true →
    exec (.faddFmulFfma r op i) s = .next (raised s r c { cause := 1, lanes := c.lanesOf i.pred i.pneg })) ∧
  -- a register that the chain does not have
  (∀ (r : ChainRef) (c : Chain) (i : V3) (s : State),
    issues s r c (v3Regs i false true false true) (v3Uregs i) →
    c.lanesOf i.pred i.pneg ≠ 0 →
    v3Reserved i = false →
    (c.vregs ≤ i.vd.toNat ∧ i.vd ≠ 255) ∨ (c.vregs ≤ i.vb.toNat ∧ i.vb ≠ 255 ∧ i.ub = false) →
    c.settled = true →
    exec (.mov r i) s = .next (raised s r c { cause := 2, lanes := c.lanesOf i.pred i.pneg })) ∧
  -- an instruction that no thread executes
  (∀ (r : ChainRef) (c : Chain) (i : V3) (j : MemI) (op : BitOp) (s : State),
    issues s r c (v3Regs i true true false true ++ dataRegs j.vds.toNat (memBytes j) ++ [j.voff.toNat]) (v3Uregs i ++ [j.ubase.toNat]) →
    c.lanesOf i.pred i.pneg = 0 →
    c.lanesOf j.pred j.pneg = 0 →
    (exec (.andOrXorAndn r op i) s = .next (retire s r c (stepped c)) ∧ exec (.ldg r j) s = .next (retire s r c (stepped c)) ∧ exec (.stl r j) s = .next (retire s r c (stepped c)))) ∧
  -- a predicate that is false in every active thread, or in some
  (∀ (r : ChainRef) (c : Chain) (i : BrI) (j : SysI) (s : State),
    issues s r c [] [] →
    i.pred = j.pred →
    i.pneg = j.pneg →
    c.lanesOf i.pred i.pneg ≠ c.active →
    c.settled = true →
    ((c.lanesOf i.pred i.pneg = 0 → exec (.bra r i) s = .next (retire s r c (stepped c)) ∧ exec (.trap r j) s = .next (retire s r c (stepped c))) ∧
    (c.lanesOf i.pred i.pneg ≠ 0 → exec (.bra r i) s = .next (raised s r c { cause := 3, lanes := c.active }) ∧
      exec (.trap r j) s = .next (raised s r c { cause := 3, lanes := c.active })))) ∧
  -- an access whose address raises an exception
  (∀ (r : ChainRef) (c : Chain) (i : MemI) (e : Exc) (s : State),
    accesses s r c i (dataRegs i.vds.toNat (memBytes i)) [] →
    c.settled = true →
    ((s.globalExc r.core.val c i.buf.toNat (by_ c i) (offOf c i) (memBytes i) false = some e → exec (.ldg r i) s = .next (raised s r c e)) ∧
    (s.globalExc r.core.val c i.buf.toNat (by_ c i) (offOf c i) (memBytes i) true = some e → exec (.stg r i) s = .next (raised s r c e)) ∧
    (s.localExc r.core.val c (by_ c i) (offOf c i) (memBytes i) = some e → exec (.ldl r i) s = .next (raised s r c e) ∧ exec (.stl r i) s = .next (raised s r c e)))) ∧
  -- which exception a global address raises: ALIGN, then BOUNDS, then PERM; none where every thread's bytes are in
  -- order
  (∀ (r : ChainRef) (c : Chain) (k : Cmd) (b bytes : Nat) (m : W32) (off : Nat → Nat) (write : Bool) (s : State),
    s.chainCmd c = some k →
    isControl r.core.val = false →
    ((s.globalExc r.core.val c b m off bytes write = none ↔ globalOk s r c b m off bytes write) ∧
    ∀ e, s.globalExc r.core.val c b m off bytes write = some e → e.trap = 0 ∧
      ((∃ l, l < 32 ∧ m.getLsbD l = true ∧ (bufBase k.buftab b + off l) % bytes ≠ 0) → e.cause = 5 ∧ ∀ l, l < 32 → e.lanes.getLsbD l = (m.getLsbD l && decide ((bufBase k.buftab b + off l) % bytes ≠ 0))) ∧
      ((∀ l, l < 32 → m.getLsbD l = true → (bufBase k.buftab b + off l) % bytes = 0) → e.cause = 8 ∨ (e.cause = 9 ∧ write = true ∧ bufRo k.buftab b = true ∧ e.lanes = m)))) ∧
  -- an exception waits for the loads of earlier instructions that may still raise one
  (∀ (r : ChainRef) (i : SysI) (c : Chain) (s : State),
    wholeOf s r c i.pred i.pneg ([]) ([]) →
    c.settled = false →
    exec (.trap r i) s = .next (fetched s r c)) ∧
  -- an exception on a compute core
  (∀ (core slot : Nat) (e : Exc) (c : Chain) (k : Cmd) (s : State),
    s.chain? core slot = some c →
    core < 272 →
    s.cmd? c.cid = some k →
    k.phase ≠ .ended →
    k.phase ≠ .stopping →
    s.raise core slot e = ((s.latchIn (core / 17)).failCmd c.cid (causeStatus e.cause) (some (excErr e core slot c.pc))).retime) ∧
  -- a further one of a command whose status is decided counts in its record
  (∀ (core slot : Nat) (e : Exc) (c : Chain) (k : Cmd) (s : State),
    s.chain? core slot = some c →
    core < 272 →
    s.cmd? c.cid = some k →
    k.phase = .stopping ∨ (k.phase = .ended ∧ k.status.getD 0 ≠ 0) →
    s.raise core slot e = (s.latchIn (core / 17)).updCmd c.cid Cmd.oneMore) ∧
  -- an exception on a control core
  (∀ (core slot : Nat) (e : Exc) (c : Chain) (s : State),
    s.chain? core slot = some c →
    272 ≤ core →
    c.st ≠ .sleeping →
    (((s.raise core slot e).chain? core slot = some { c with halted := true }) ∧ Same (fields [.cores, .eg, .free]) s (s.raise core slot e))) ∧
  -- the statuses of the causes
  (∀ (c : Nat),
    (causeStatus 5 = 0x14 ∧ causeStatus 7 = 0x12 ∧ causeStatus 8 = 0x12 ∧ causeStatus 9 = 0x13 ∧ causeStatus 0x0A = 0x10 ∧ causeStatus 0x0B = 0x15 ∧ causeStatus 0x0C = 0x17 ∧
    causeStatus 0x0D = 0x11 ∧ causeStatus 0x0E = 0x11 ∧ causeStatus 0x0F = 0x19))
end

