-- ==== Sys2Proof/Laws/Frame.lean ====
section
/-! SUPPORT. Frames: what two states that differ at most in some fields have in common. -/

namespace Sys2Proof.Laws

open Sys2Proof.Machine

theorem Same.refl (k : Nat) (s : State) : Same k s s := by
  constructor
  intro f _
  cases f <;> rfl

theorem Same.after {a k : Nat} {s x y : State} (h : Same a x y) (ha : a &&& k = a) (g : Same k s x) : Same k s y := by
  constructor
  intro f hf
  have h1 : a.testBit f.idx = false := by
    have h2 := congrArg (fun n => n.testBit f.idx) ha
    simp only [Nat.testBit_and, hf, Bool.and_false] at h2
    exact h2.symm
  have e1 := h.get f h1
  have e2 := g.get f hf
  cases f <;> exact Eq.trans e1 e2

theorem sub_trans {a b k : Nat} (h : a &&& b = a) (hb : b &&& k = b) : a &&& k = a := by
  rw [← h, Nat.and_assoc, hb]

theorem bit_of {a k i : Nat} (h : a.testBit i = true) (ha : a &&& k = a) : k.testBit i = true := by
  rw [← ha, Nat.testBit_and, Bool.and_eq_true] at h
  exact h.2

theorem Same.weaken {a k : Nat} {s t : State} (h : Same a s t) (ha : a &&& k = a) : Same k s t :=
  Same.after h ha (Same.refl k s)

theorem Same.foldl {α : Type} {k : Nat} {s x : State} {f : State → α → State} (l : List α)
    (h : ∀ t a, Same k s t → Same k s (f t a)) (g : Same k s x) : Same k s (l.foldl f x) := by
  induction l generalizing x with
  | nil => exact g
  | cons a r ih => exact ih (h x a g)

theorem Same.pending_upd {k : Nat} {s x : State} {v : List Instr} (hk : k.testBit 0 = true) (g : Same k s x) :
    Same k s { x with pending := v } := by
  constructor
  intro f hf
  cases f
  case pending => exact absurd (hk.symm.trans hf) (by decide)
  all_goals exact g.get _ hf

theorem Same.btime_upd {k : Nat} {s x : State} {v : W64} (hk : k.testBit 1 = true) (g : Same k s x) :
    Same k s { x with btime := v } := by
  constructor
  intro f hf
  cases f
  case btime => exact absurd (hk.symm.trans hf) (by decide)
  all_goals exact g.get _ hf

theorem Same.free_upd {k : Nat} {s x : State} {v : Nat} (hk : k.testBit 2 = true) (g : Same k s x) :
    Same k s { x with free := v } := by
  constructor
  intro f hf
  cases f
  case free => exact absurd (hk.symm.trans hf) (by decide)
  all_goals exact g.get _ hf

theorem Same.mem_upd {k : Nat} {s x : State} {v : Memory} (hk : k.testBit 3 = true) (g : Same k s x) :
    Same k s { x with mem := v } := by
  constructor
  intro f hf
  cases f
  case mem => exact absurd (hk.symm.trans hf) (by decide)
  all_goals exact g.get _ hf

theorem Same.exposed_upd {k : Nat} {s x : State} {v : Tbl Byte} (hk : k.testBit 4 = true) (g : Same k s x) :
    Same k s { x with exposed := v } := by
  constructor
  intro f hf
  cases f
  case exposed => exact absurd (hk.symm.trans hf) (by decide)
  all_goals exact g.get _ hf

theorem Same.scrubbed_upd {k : Nat} {s x : State} {v : List Nat} (hk : k.testBit 5 = true) (g : Same k s x) :
    Same k s { x with scrubbed := v } := by
  constructor
  intro f hf
  cases f
  case scrubbed => exact absurd (hk.symm.trans hf) (by decide)
  all_goals exact g.get _ hf

theorem Same.ext_upd {k : Nat} {s x : State} {v : Tbl Byte} (hk : k.testBit 6 = true) (g : Same k s x) :
    Same k s { x with ext := v } := by
  constructor
  intro f hf
  cases f
  case ext => exact absurd (hk.symm.trans hf) (by decide)
  all_goals exact g.get _ hf

theorem Same.fns_upd {k : Nat} {s x : State} {v : Tbl Fn} (hk : k.testBit 7 = true) (g : Same k s x) :
    Same k s { x with fns := v } := by
  constructor
  intro f hf
  cases f
  case fns => exact absurd (hk.symm.trans hf) (by decide)
  all_goals exact g.get _ hf

theorem Same.store_upd {k : Nat} {s x : State} {v : List SideRec} (hk : k.testBit 8 = true) (g : Same k s x) :
    Same k s { x with store := v } := by
  constructor
  intro f hf
  cases f
  case store => exact absurd (hk.symm.trans hf) (by decide)
  all_goals exact g.get _ hf

theorem Same.cmds_upd {k : Nat} {s x : State} {v : List Cmd} (hk : k.testBit 9 = true) (g : Same k s x) :
    Same k s { x with cmds := v } := by
  constructor
  intro f hf
  cases f
  case cmds => exact absurd (hk.symm.trans hf) (by decide)
  all_goals exact g.get _ hf

theorem Same.nextCid_upd {k : Nat} {s x : State} {v : Nat} (hk : k.testBit 10 = true) (g : Same k s x) :
    Same k s { x with nextCid := v } := by
  constructor
  intro f hf
  cases f
  case nextCid => exact absurd (hk.symm.trans hf) (by decide)
  all_goals exact g.get _ hf

theorem Same.ctxs_upd {k : Nat} {s x : State} {v : Tbl Ctx} (hk : k.testBit 11 = true) (g : Same k s x) :
    Same k s { x with ctxs := v } := by
  constructor
  intro f hf
  cases f
  case ctxs => exact absurd (hk.symm.trans hf) (by decide)
  all_goals exact g.get _ hf

theorem Same.live_upd {k : Nat} {s x : State} {v : List Nat} (hk : k.testBit 12 = true) (g : Same k s x) :
    Same k s { x with live := v } := by
  constructor
  intro f hf
  cases f
  case live => exact absurd (hk.symm.trans hf) (by decide)
  all_goals exact g.get _ hf

theorem Same.allocs_upd {k : Nat} {s x : State} {v : List Alloc} (hk : k.testBit 13 = true) (g : Same k s x) :
    Same k s { x with allocs := v } := by
  constructor
  intro f hf
  cases f
  case allocs => exact absurd (hk.symm.trans hf) (by decide)
  all_goals exact g.get _ hf

theorem Same.nextObj_upd {k : Nat} {s x : State} {v : Nat} (hk : k.testBit 14 = true) (g : Same k s x) :
    Same k s { x with nextObj := v } := by
  constructor
  intro f hf
  cases f
  case nextObj => exact absurd (hk.symm.trans hf) (by decide)
  all_goals exact g.get _ hf

theorem Same.tlb_upd {k : Nat} {s x : State} {v : List TlbEnt} (hk : k.testBit 15 = true) (g : Same k s x) :
    Same k s { x with tlb := v } := by
  constructor
  intro f hf
  cases f
  case tlb => exact absurd (hk.symm.trans hf) (by decide)
  all_goals exact g.get _ hf

theorem Same.ats_upd {k : Nat} {s x : State} {v : List AtsEnt} (hk : k.testBit 16 = true) (g : Same k s x) :
    Same k s { x with ats := v } := by
  constructor
  intro f hf
  cases f
  case ats => exact absurd (hk.symm.trans hf) (by decide)
  all_goals exact g.get _ hf

theorem Same.cores_upd {k : Nat} {s x : State} {v : Tbl Core} (hk : k.testBit 17 = true) (g : Same k s x) :
    Same k s { x with cores := v } := by
  constructor
  intro f hf
  cases f
  case cores => exact absurd (hk.symm.trans hf) (by decide)
  all_goals exact g.get _ hf

theorem Same.groups_upd {k : Nat} {s x : State} {v : List Group} (hk : k.testBit 18 = true) (g : Same k s x) :
    Same k s { x with groups := v } := by
  constructor
  intro f hf
  cases f
  case groups => exact absurd (hk.symm.trans hf) (by decide)
  all_goals exact g.get _ hf

theorem Same.waiters_upd {k : Nat} {s x : State} {v : List Waiter} (hk : k.testBit 19 = true) (g : Same k s x) :
    Same k s { x with waiters := v } := by
  constructor
  intro f hf
  cases f
  case waiters => exact absurd (hk.symm.trans hf) (by decide)
  all_goals exact g.get _ hf

theorem Same.lines_upd {k : Nat} {s x : State} {v : Tbl Line} (hk : k.testBit 20 = true) (g : Same k s x) :
    Same k s { x with lines := v } := by
  constructor
  intro f hf
  cases f
  case lines => exact absurd (hk.symm.trans hf) (by decide)
  all_goals exact g.get _ hf

theorem Same.dirClock_upd {k : Nat} {s x : State} {v : Nat} (hk : k.testBit 21 = true) (g : Same k s x) :
    Same k s { x with dirClock := v } := by
  constructor
  intro f hf
  cases f
  case dirClock => exact absurd (hk.symm.trans hf) (by decide)
  all_goals exact g.get _ hf

theorem Same.hides_upd {k : Nat} {s x : State} {v : Tbl Hide} (hk : k.testBit 22 = true) (g : Same k s x) :
    Same k s { x with hides := v } := by
  constructor
  intro f hf
  cases f
  case hides => exact absurd (hk.symm.trans hf) (by decide)
  all_goals exact g.get _ hf

theorem Same.moves_upd {k : Nat} {s x : State} {v : List Move} (hk : k.testBit 23 = true) (g : Same k s x) :
    Same k s { x with moves := v } := by
  constructor
  intro f hf
  cases f
  case moves => exact absurd (hk.symm.trans hf) (by decide)
  all_goals exact g.get _ hf

theorem Same.mgrMoved_upd {k : Nat} {s x : State} {v : Bool} (hk : k.testBit 24 = true) (g : Same k s x) :
    Same k s { x with mgrMoved := v } := by
  constructor
  intro f hf
  cases f
  case mgrMoved => exact absurd (hk.symm.trans hf) (by decide)
  all_goals exact g.get _ hf

theorem Same.plans_upd {k : Nat} {s x : State} {v : Tbl Plan} (hk : k.testBit 25 = true) (g : Same k s x) :
    Same k s { x with plans := v } := by
  constructor
  intro f hf
  cases f
  case plans => exact absurd (hk.symm.trans hf) (by decide)
  all_goals exact g.get _ hf

theorem Same.seqs_upd {k : Nat} {s x : State} {v : Tbl Seq} (hk : k.testBit 26 = true) (g : Same k s x) :
    Same k s { x with seqs := v } := by
  constructor
  intro f hf
  cases f
  case seqs => exact absurd (hk.symm.trans hf) (by decide)
  all_goals exact g.get _ hf

theorem Same.pendOrder_upd {k : Nat} {s x : State} {v : Nat} (hk : k.testBit 27 = true) (g : Same k s x) :
    Same k s { x with pendOrder := v } := by
  constructor
  intro f hf
  cases f
  case pendOrder => exact absurd (hk.symm.trans hf) (by decide)
  all_goals exact g.get _ hf

theorem Same.movers_upd {k : Nat} {s x : State} {v : Tbl Mover} (hk : k.testBit 28 = true) (g : Same k s x) :
    Same k s { x with movers := v } := by
  constructor
  intro f hf
  cases f
  case movers => exact absurd (hk.symm.trans hf) (by decide)
  all_goals exact g.get _ hf

theorem Same.eg_upd {k : Nat} {s x : State} {v : EG} (hk : k.testBit 29 = true) (g : Same k s x) :
    Same k s { x with eg := v } := by
  constructor
  intro f hf
  cases f
  case eg => exact absurd (hk.symm.trans hf) (by decide)
  all_goals exact g.get _ hf

theorem Same.wms_upd {k : Nat} {s x : State} {v : Tbl Wm} (hk : k.testBit 30 = true) (g : Same k s x) :
    Same k s { x with wms := v } := by
  constructor
  intro f hf
  cases f
  case wms => exact absurd (hk.symm.trans hf) (by decide)
  all_goals exact g.get _ hf

theorem Same.boxes_upd {k : Nat} {s x : State} {v : Tbl Mbox} (hk : k.testBit 31 = true) (g : Same k s x) :
    Same k s { x with boxes := v } := by
  constructor
  intro f hf
  cases f
  case boxes => exact absurd (hk.symm.trans hf) (by decide)
  all_goals exact g.get _ hf

theorem Same.kod_upd {k : Nat} {s x : State} {v : Kod} (hk : k.testBit 32 = true) (g : Same k s x) :
    Same k s { x with kod := v } := by
  constructor
  intro f hf
  cases f
  case kod => exact absurd (hk.symm.trans hf) (by decide)
  all_goals exact g.get _ hf

theorem Same.ao_upd {k : Nat} {s x : State} {v : AO} (hk : k.testBit 33 = true) (g : Same k s x) :
    Same k s { x with ao := v } := by
  constructor
  intro f hf
  cases f
  case ao => exact absurd (hk.symm.trans hf) (by decide)
  all_goals exact g.get _ hf

theorem Same.gov_upd {k : Nat} {s x : State} {v : Gov} (hk : k.testBit 34 = true) (g : Same k s x) :
    Same k s { x with gov := v } := by
  constructor
  intro f hf
  cases f
  case gov => exact absurd (hk.symm.trans hf) (by decide)
  all_goals exact g.get _ hf

theorem Same.pow_upd {k : Nat} {s x : State} {v : Power} (hk : k.testBit 35 = true) (g : Same k s x) :
    Same k s { x with pow := v } := by
  constructor
  intro f hf
  cases f
  case pow => exact absurd (hk.symm.trans hf) (by decide)
  all_goals exact g.get _ hf

theorem Same.engines_upd {k : Nat} {s x : State} {v : Tbl Engine} (hk : k.testBit 36 = true) (g : Same k s x) :
    Same k s { x with engines := v } := by
  constructor
  intro f hf
  cases f
  case engines => exact absurd (hk.symm.trans hf) (by decide)
  all_goals exact g.get _ hf

theorem Same.sports_upd {k : Nat} {s x : State} {v : Tbl SPort} (hk : k.testBit 37 = true) (g : Same k s x) :
    Same k s { x with sports := v } := by
  constructor
  intro f hf
  cases f
  case sports => exact absurd (hk.symm.trans hf) (by decide)
  all_goals exact g.get _ hf

theorem Same.fab_upd {k : Nat} {s x : State} {v : Fabric} (hk : k.testBit 38 = true) (g : Same k s x) :
    Same k s { x with fab := v } := by
  constructor
  intro f hf
  cases f
  case fab => exact absurd (hk.symm.trans hf) (by decide)
  all_goals exact g.get _ hf

theorem Same.out_upd {k : Nat} {s x : State} {v : List Out} (hk : k.testBit 39 = true) (g : Same k s x) :
    Same k s { x with out := v } := by
  constructor
  intro f hf
  cases f
  case out => exact absurd (hk.symm.trans hf) (by decide)
  all_goals exact g.get _ hf

theorem Same.mk_upd {k : Nat} {s x : State} {v0 : List Instr} {v1 : W64} {v2 : Nat} {v3 : Memory} {v4 : Tbl Byte} {v5 : List Nat} {v6 : Tbl Byte} {v7 : Tbl Fn} {v8 : List SideRec} {v9 : List Cmd} {v10 : Nat} {v11 : Tbl Ctx} {v12 : List Nat} {v13 : List Alloc} {v14 : Nat} {v15 : List TlbEnt} {v16 : List AtsEnt} {v17 : Tbl Core} {v18 : List Group} {v19 : List Waiter} {v20 : Tbl Line} {v21 : Nat} {v22 : Tbl Hide} {v23 : List Move} {v24 : Bool} {v25 : Tbl Plan} {v26 : Tbl Seq} {v27 : Nat} {v28 : Tbl Mover} {v29 : EG} {v30 : Tbl Wm} {v31 : Tbl Mbox} {v32 : Kod} {v33 : AO} {v34 : Gov} {v35 : Power} {v36 : Tbl Engine} {v37 : Tbl SPort} {v38 : Fabric} {v39 : List Out}
    (h0 : v0 = x.pending) (h1 : k.testBit 1 = true ∨ v1 = x.btime) (h2 : k.testBit 2 = true ∨ v2 = x.free) (h3 : k.testBit 3 = true ∨ v3 = x.mem) (h4 : k.testBit 4 = true ∨ v4 = x.exposed) (h5 : k.testBit 5 = true ∨ v5 = x.scrubbed) (h6 : k.testBit 6 = true ∨ v6 = x.ext) (h7 : k.testBit 7 = true ∨ v7 = x.fns) (h8 : k.testBit 8 = true ∨ v8 = x.store) (h9 : k.testBit 9 = true ∨ v9 = x.cmds) (h10 : k.testBit 10 = true ∨ v10 = x.nextCid) (h11 : k.testBit 11 = true ∨ v11 = x.ctxs) (h12 : k.testBit 12 = true ∨ v12 = x.live) (h13 : k.testBit 13 = true ∨ v13 = x.allocs) (h14 : k.testBit 14 = true ∨ v14 = x.nextObj) (h15 : k.testBit 15 = true ∨ v15 = x.tlb) (h16 : k.testBit 16 = true ∨ v16 = x.ats) (h17 : k.testBit 17 = true ∨ v17 = x.cores) (h18 : k.testBit 18 = true ∨ v18 = x.groups) (h19 : k.testBit 19 = true ∨ v19 = x.waiters) (h20 : k.testBit 20 = true ∨ v20 = x.lines) (h21 : k.testBit 21 = true ∨ v21 = x.dirClock) (h22 : k.testBit 22 = true ∨ v22 = x.hides) (h23 : k.testBit 23 = true ∨ v23 = x.moves) (h24 : k.testBit 24 = true ∨ v24 = x.mgrMoved) (h25 : k.testBit 25 = true ∨ v25 = x.plans) (h26 : k.testBit 26 = true ∨ v26 = x.seqs) (h27 : k.testBit 27 = true ∨ v27 = x.pendOrder) (h28 : k.testBit 28 = true ∨ v28 = x.movers) (h29 : k.testBit 29 = true ∨ v29 = x.eg) (h30 : k.testBit 30 = true ∨ v30 = x.wms) (h31 : k.testBit 31 = true ∨ v31 = x.boxes) (h32 : k.testBit 32 = true ∨ v32 = x.kod) (h33 : k.testBit 33 = true ∨ v33 = x.ao) (h34 : k.testBit 34 = true ∨ v34 = x.gov) (h35 : k.testBit 35 = true ∨ v35 = x.pow) (h36 : k.testBit 36 = true ∨ v36 = x.engines) (h37 : k.testBit 37 = true ∨ v37 = x.sports) (h38 : k.testBit 38 = true ∨ v38 = x.fab) (h39 : k.testBit 39 = true ∨ v39 = x.out) (g : Same k s x) :
    Same k s (State.mk v0 v1 v2 v3 v4 v5 v6 v7 v8 v9 v10 v11 v12 v13 v14 v15 v16 v17 v18 v19 v20 v21 v22 v23 v24 v25 v26 v27 v28 v29 v30 v31 v32 v33 v34 v35 v36 v37 v38 v39) := by
  constructor
  intro f hf
  cases f
  · exact h0.trans (g.get _ hf)
  · exact (h1.resolve_left (fun h => absurd (h.symm.trans hf) (by decide))).trans (g.get _ hf)
  · exact (h2.resolve_left (fun h => absurd (h.symm.trans hf) (by decide))).trans (g.get _ hf)
  · exact (h3.resolve_left (fun h => absurd (h.symm.trans hf) (by decide))).trans (g.get _ hf)
  · exact (h4.resolve_left (fun h => absurd (h.symm.trans hf) (by decide))).trans (g.get _ hf)
  · exact (h5.resolve_left (fun h => absurd (h.symm.trans hf) (by decide))).trans (g.get _ hf)
  · exact (h6.resolve_left (fun h => absurd (h.symm.trans hf) (by decide))).trans (g.get _ hf)
  · exact (h7.resolve_left (fun h => absurd (h.symm.trans hf) (by decide))).trans (g.get _ hf)
  · exact (h8.resolve_left (fun h => absurd (h.symm.trans hf) (by decide))).trans (g.get _ hf)
  · exact (h9.resolve_left (fun h => absurd (h.symm.trans hf) (by decide))).trans (g.get _ hf)
  · exact (h10.resolve_left (fun h => absurd (h.symm.trans hf) (by decide))).trans (g.get _ hf)
  · exact (h11.resolve_left (fun h => absurd (h.symm.trans hf) (by decide))).trans (g.get _ hf)
  · exact (h12.resolve_left (fun h => absurd (h.symm.trans hf) (by decide))).trans (g.get _ hf)
  · exact (h13.resolve_left (fun h => absurd (h.symm.trans hf) (by decide))).trans (g.get _ hf)
  · exact (h14.resolve_left (fun h => absurd (h.symm.trans hf) (by decide))).trans (g.get _ hf)
  · exact (h15.resolve_left (fun h => absurd (h.symm.trans hf) (by decide))).trans (g.get _ hf)
  · exact (h16.resolve_left (fun h => absurd (h.symm.trans hf) (by decide))).trans (g.get _ hf)
  · exact (h17.resolve_left (fun h => absurd (h.symm.trans hf) (by decide))).trans (g.get _ hf)
  · exact (h18.resolve_left (fun h => absurd (h.symm.trans hf) (by decide))).trans (g.get _ hf)
  · exact (h19.resolve_left (fun h => absurd (h.symm.trans hf) (by decide))).trans (g.get _ hf)
  · exact (h20.resolve_left (fun h => absurd (h.symm.trans hf) (by decide))).trans (g.get _ hf)
  · exact (h21.resolve_left (fun h => absurd (h.symm.trans hf) (by decide))).trans (g.get _ hf)
  · exact (h22.resolve_left (fun h => absurd (h.symm.trans hf) (by decide))).trans (g.get _ hf)
  · exact (h23.resolve_left (fun h => absurd (h.symm.trans hf) (by decide))).trans (g.get _ hf)
  · exact (h24.resolve_left (fun h => absurd (h.symm.trans hf) (by decide))).trans (g.get _ hf)
  · exact (h25.resolve_left (fun h => absurd (h.symm.trans hf) (by decide))).trans (g.get _ hf)
  · exact (h26.resolve_left (fun h => absurd (h.symm.trans hf) (by decide))).trans (g.get _ hf)
  · exact (h27.resolve_left (fun h => absurd (h.symm.trans hf) (by decide))).trans (g.get _ hf)
  · exact (h28.resolve_left (fun h => absurd (h.symm.trans hf) (by decide))).trans (g.get _ hf)
  · exact (h29.resolve_left (fun h => absurd (h.symm.trans hf) (by decide))).trans (g.get _ hf)
  · exact (h30.resolve_left (fun h => absurd (h.symm.trans hf) (by decide))).trans (g.get _ hf)
  · exact (h31.resolve_left (fun h => absurd (h.symm.trans hf) (by decide))).trans (g.get _ hf)
  · exact (h32.resolve_left (fun h => absurd (h.symm.trans hf) (by decide))).trans (g.get _ hf)
  · exact (h33.resolve_left (fun h => absurd (h.symm.trans hf) (by decide))).trans (g.get _ hf)
  · exact (h34.resolve_left (fun h => absurd (h.symm.trans hf) (by decide))).trans (g.get _ hf)
  · exact (h35.resolve_left (fun h => absurd (h.symm.trans hf) (by decide))).trans (g.get _ hf)
  · exact (h36.resolve_left (fun h => absurd (h.symm.trans hf) (by decide))).trans (g.get _ hf)
  · exact (h37.resolve_left (fun h => absurd (h.symm.trans hf) (by decide))).trans (g.get _ hf)
  · exact (h38.resolve_left (fun h => absurd (h.symm.trans hf) (by decide))).trans (g.get _ hf)
  · exact (h39.resolve_left (fun h => absurd (h.symm.trans hf) (by decide))).trans (g.get _ hf)

end Sys2Proof.Laws
end

