-- ==== Sys2Proof/Laws/FrameOps.lean ====
section
/-! SUPPORT. Frames of the operations of Machine/Ops.lean: the fields that each may change. -/

namespace Sys2Proof.Laws

open Sys2Proof.Machine

theorem setRun_same {K : Nat} {Z : State} (s : State) (idx : Nat) (sub : Nat) (v : Nat) (hK : 4294967296 &&& K = 4294967296) (hZ : Same K Z s) :
    Same K Z (State.setRun s idx sub v) := by
  unfold State.setRun
  repeat' first
    | extract_lets
    | with_reducible assumption
    | exact sub_trans rfl hK
    | exact bit_of rfl hK
    | split
    | with_reducible apply Same.kod_upd

theorem drawNext_same {K : Nat} {Z : State} (s : State) (hK : 34359738368 &&& K = 34359738368) (hZ : Same K Z s) :
    Same K Z (State.drawNext s) := by
  unfold State.drawNext
  repeat' first
    | extract_lets
    | with_reducible assumption
    | exact sub_trans rfl hK
    | exact bit_of rfl hK
    | split
    | with_reducible apply Same.pow_upd

theorem freshNext_same {K : Nat} {Z : State} (s : State) (hK : 4 &&& K = 4) (hZ : Same K Z s) :
    Same K Z (State.freshNext s) := by
  unfold State.freshNext
  repeat' first
    | extract_lets
    | with_reducible assumption
    | exact sub_trans rfl hK
    | exact bit_of rfl hK
    | split
    | with_reducible apply Same.free_upd

theorem emit_same {K : Nat} {Z : State} (s : State) (o : Out) (hK : 549755813888 &&& K = 549755813888) (hZ : Same K Z s) :
    Same K Z (State.emit s o) := by
  unfold State.emit
  repeat' first
    | extract_lets
    | with_reducible assumption
    | exact sub_trans rfl hK
    | exact bit_of rfl hK
    | split
    | with_reducible apply Same.out_upd

theorem updHide_same {K : Nat} {Z : State} (s : State) (h : Nat) (f : Hide → Hide) (hK : 4194304 &&& K = 4194304) (hZ : Same K Z s) :
    Same K Z (State.updHide s h f) := by
  unfold State.updHide
  repeat' first
    | extract_lets
    | with_reducible assumption
    | exact sub_trans rfl hK
    | exact bit_of rfl hK
    | split
    | with_reducible apply Same.hides_upd

theorem updFn_same {K : Nat} {Z : State} (s : State) (n : Nat) (f : Fn → Fn) (hK : 128 &&& K = 128) (hZ : Same K Z s) :
    Same K Z (State.updFn s n f) := by
  unfold State.updFn
  repeat' first
    | extract_lets
    | with_reducible assumption
    | exact sub_trans rfl hK
    | exact bit_of rfl hK
    | split
    | with_reducible apply Same.fns_upd

theorem updQueue_same {K : Nat} {Z : State} (s : State) (n : Nat) (q : Nat) (f : Queue → Queue) (hK : 128 &&& K = 128) (hZ : Same K Z s) :
    Same K Z (State.updQueue s n q f) := by
  unfold State.updQueue
  repeat' first
    | extract_lets
    | with_reducible assumption
    | exact sub_trans rfl hK
    | exact bit_of rfl hK
    | split
    | with_reducible apply updFn_same

theorem updCtx_same {K : Nat} {Z : State} (s : State) (c : Nat) (f : Ctx → Ctx) (hK : 2048 &&& K = 2048) (hZ : Same K Z s) :
    Same K Z (State.updCtx s c f) := by
  unfold State.updCtx
  repeat' first
    | extract_lets
    | with_reducible assumption
    | exact sub_trans rfl hK
    | exact bit_of rfl hK
    | split
    | with_reducible apply Same.ctxs_upd

theorem updCmd_same {K : Nat} {Z : State} (s : State) (cid : Nat) (f : Cmd → Cmd) (hK : 512 &&& K = 512) (hZ : Same K Z s) :
    Same K Z (State.updCmd s cid f) := by
  unfold State.updCmd
  repeat' first
    | extract_lets
    | with_reducible assumption
    | exact sub_trans rfl hK
    | exact bit_of rfl hK
    | split
    | with_reducible apply Same.cmds_upd

theorem dropCmd_same {K : Nat} {Z : State} (s : State) (cid : Nat) (hK : 512 &&& K = 512) (hZ : Same K Z s) :
    Same K Z (State.dropCmd s cid) := by
  unfold State.dropCmd
  repeat' first
    | extract_lets
    | with_reducible assumption
    | exact sub_trans rfl hK
    | exact bit_of rfl hK
    | split
    | with_reducible apply Same.cmds_upd

theorem updCore_same {K : Nat} {Z : State} (s : State) (i : Nat) (f : Core → Core) (hK : 131072 &&& K = 131072) (hZ : Same K Z s) :
    Same K Z (State.updCore s i f) := by
  unfold State.updCore
  repeat' first
    | extract_lets
    | with_reducible assumption
    | exact sub_trans rfl hK
    | exact bit_of rfl hK
    | split
    | with_reducible apply Same.cores_upd

theorem writePa_same {K : Nat} {Z : State} (s : State) (pa : Nat) (b : Byte) (hK : 88 &&& K = 88) (hZ : Same K Z s) :
    Same K Z (State.writePa s pa b) := by
  unfold State.writePa
  repeat' first
    | extract_lets
    | with_reducible assumption
    | exact sub_trans rfl hK
    | exact bit_of rfl hK
    | split
    | with_reducible apply Same.mem_upd
    | with_reducible apply Same.exposed_upd
    | with_reducible apply Same.ext_upd

theorem writeBytes_same {K : Nat} {Z : State} (s : State) (pa : Nat) (a2 : List Byte) (hK : 88 &&& K = 88) (hZ : Same K Z s) :
    Same K Z (State.writeBytes s pa a2) := by
  induction a2 generalizing s pa with
  | nil => exact hZ
  | cons ca cr ih =>
    unfold State.writeBytes
    repeat' first
      | extract_lets
      | with_reducible assumption
      | exact sub_trans rfl hK
      | exact bit_of rfl hK
      | with_reducible apply ih
      | split
      | with_reducible apply writePa_same

theorem writeCells_same {K : Nat} {Z : State} (s : State) (a1 : List (Nat × Byte)) (hK : 88 &&& K = 88) (hZ : Same K Z s) :
    Same K Z (State.writeCells s a1) := by
  induction a1 generalizing s with
  | nil => exact hZ
  | cons ca cr ih =>
    unfold State.writeCells
    repeat' first
      | extract_lets
      | with_reducible assumption
      | exact sub_trans rfl hK
      | exact bit_of rfl hK
      | with_reducible apply ih
      | split
      | with_reducible apply writePa_same

theorem emitWrites_same {K : Nat} {Z : State} (s : State) (fn : Nat) (runs : List (Nat × List Byte)) (hK : 549755813888 &&& K = 549755813888) (hZ : Same K Z s) :
    Same K Z (State.emitWrites s fn runs) := by
  unfold State.emitWrites
  repeat' first
    | extract_lets
    | with_reducible assumption
    | exact sub_trans rfl hK
    | exact bit_of rfl hK
    | split
    | with_reducible apply emit_same
    | with_reducible apply Same.foldl
    | intro _

theorem ringPut_same {K : Nat} {Z : State} (s : State) (fn : Nat) (io : Nat) (bs : List Byte) (hK : 549755813976 &&& K = 549755813976) (hZ : Same K Z s) :
    Same K Z (State.ringPut s fn io bs) := by
  unfold State.ringPut
  repeat' first
    | extract_lets
    | with_reducible assumption
    | exact sub_trans rfl hK
    | exact bit_of rfl hK
    | split
    | with_reducible apply emit_same
    | with_reducible apply writeBytes_same

theorem msix_same {K : Nat} {Z : State} (s : State) (fn : Nat) (vec : Nat) (hK : 549755813888 &&& K = 549755813888) (hZ : Same K Z s) :
    Same K Z (State.msix s fn vec) := by
  unfold State.msix
  repeat' first
    | extract_lets
    | with_reducible assumption
    | exact sub_trans rfl hK
    | exact bit_of rfl hK
    | split
    | with_reducible apply emit_same

theorem evseqNext_same {K : Nat} {Z : State} (s : State) (hK : 8589934592 &&& K = 8589934592) (hZ : Same K Z s) :
    Same K Z (State.evseqNext s) := by
  unfold State.evseqNext
  repeat' first
    | extract_lets
    | with_reducible assumption
    | exact sub_trans rfl hK
    | exact bit_of rfl hK
    | split
    | with_reducible apply Same.ao_upd

theorem updSrc_same {K : Nat} {Z : State} (s : State) (n : Nat) (f : Src → Src) (hK : 536870912 &&& K = 536870912) (hZ : Same K Z s) :
    Same K Z (State.updSrc s n f) := by
  unfold State.updSrc
  repeat' first
    | extract_lets
    | with_reducible assumption
    | exact sub_trans rfl hK
    | exact bit_of rfl hK
    | split
    | with_reducible apply Same.eg_upd

theorem updGrp_same {K : Nat} {Z : State} (s : State) (g : Nat) (f : Grp → Grp) (hK : 536870912 &&& K = 536870912) (hZ : Same K Z s) :
    Same K Z (State.updGrp s g f) := by
  unfold State.updGrp
  repeat' first
    | extract_lets
    | with_reducible assumption
    | exact sub_trans rfl hK
    | exact bit_of rfl hK
    | split
    | with_reducible apply Same.eg_upd

theorem updTgt_same {K : Nat} {Z : State} (s : State) (t : Nat) (f : Tgt → Tgt) (hK : 536870912 &&& K = 536870912) (hZ : Same K Z s) :
    Same K Z (State.updTgt s t f) := by
  unfold State.updTgt
  repeat' first
    | extract_lets
    | with_reducible assumption
    | exact sub_trans rfl hK
    | exact bit_of rfl hK
    | split
    | with_reducible apply Same.eg_upd

theorem wakeControl_same {K : Nat} {Z : State} (s : State) (t : Nat) (hK : 131072 &&& K = 131072) (hZ : Same K Z s) :
    Same K Z (State.wakeControl s t) := by
  unfold State.wakeControl
  repeat' first
    | extract_lets
    | with_reducible assumption
    | exact sub_trans rfl hK
    | exact bit_of rfl hK
    | split
    | with_reducible apply updCore_same

theorem presentSrc_same {K : Nat} {Z : State} (s : State) (n : Nat) (hK : 537001984 &&& K = 537001984) (hZ : Same K Z s) :
    Same K Z (State.presentSrc s n) := by
  unfold State.presentSrc
  repeat' first
    | extract_lets
    | with_reducible assumption
    | exact sub_trans rfl hK
    | exact bit_of rfl hK
    | split
    | with_reducible apply updGrp_same
    | with_reducible apply updSrc_same
    | with_reducible apply wakeControl_same
    | dsimp +zetaDelta only

theorem presentGrp_same {K : Nat} {Z : State} (s : State) (g : Nat) (hK : 537001984 &&& K = 537001984) (hZ : Same K Z s) :
    Same K Z (State.presentGrp s g) := by
  unfold State.presentGrp
  repeat' first
    | extract_lets
    | with_reducible assumption
    | exact sub_trans rfl hK
    | exact bit_of rfl hK
    | split
    | with_reducible apply presentSrc_same
    | with_reducible apply updGrp_same
    | with_reducible apply Same.foldl
    | intro _

theorem moderate_same {K : Nat} {Z : State} (s : State) (g : Nat) (hK : 537001984 &&& K = 537001984) (hZ : Same K Z s) :
    Same K Z (State.moderate s g) := by
  unfold State.moderate
  repeat' first
    | extract_lets
    | with_reducible assumption
    | exact sub_trans rfl hK
    | exact bit_of rfl hK
    | split
    | with_reducible apply presentGrp_same

theorem latch_same {K : Nat} {Z : State} (s : State) (n : Nat) (hK : 537001984 &&& K = 537001984) (hZ : Same K Z s) :
    Same K Z (State.latch s n) := by
  unfold State.latch
  repeat' first
    | extract_lets
    | with_reducible assumption
    | exact sub_trans rfl hK
    | exact bit_of rfl hK
    | split
    | with_reducible apply moderate_same
    | with_reducible apply updGrp_same
    | with_reducible apply updSrc_same

theorem updRecq_same {K : Nat} {Z : State} (s : State) (d : Dest) (f : RecQueue → RecQueue) (hK : 8589934720 &&& K = 8589934720) (hZ : Same K Z s) :
    Same K Z (State.updRecq s d f) := by
  unfold State.updRecq
  repeat' first
    | extract_lets
    | with_reducible assumption
    | exact sub_trans rfl hK
    | exact bit_of rfl hK
    | split
    | with_reducible apply updFn_same
    | with_reducible apply Same.ao_upd

theorem vectorOf_same {K : Nat} {Z : State} (s : State) (d : Dest) (hK : 558345748608 &&& K = 558345748608) (hZ : Same K Z s) :
    Same K Z (State.vectorOf s d) := by
  unfold State.vectorOf
  repeat' first
    | extract_lets
    | with_reducible assumption
    | exact sub_trans rfl hK
    | exact bit_of rfl hK
    | split
    | with_reducible apply msix_same
    | with_reducible apply updRecq_same

theorem writeOneRec_same {K : Nat} {Z : State} (s : State) (d : Dest) (size : Nat) (w : Nat) (hK : 558345748696 &&& K = 558345748696) (hZ : Same K Z s) :
    Same K Z (State.writeOneRec s d size w) := by
  unfold State.writeOneRec
  repeat' first
    | extract_lets
    | with_reducible assumption
    | exact sub_trans rfl hK
    | exact bit_of rfl hK
    | split
    | with_reducible apply ringPut_same
    | with_reducible apply updRecq_same
    | with_reducible apply Same.ao_upd
    | dsimp +zetaDelta only

theorem writeRec_same {K : Nat} {Z : State} (s : State) (d : Dest) (r : Rec) (hK : 558345748696 &&& K = 558345748696) (hZ : Same K Z s) :
    Same K Z (State.writeRec s d r) := by
  unfold State.writeRec
  repeat' first
    | extract_lets
    | with_reducible assumption
    | exact sub_trans rfl hK
    | exact bit_of rfl hK
    | split
    | with_reducible apply updRecq_same
    | with_reducible apply vectorOf_same
    | with_reducible apply writeOneRec_same
    | with_reducible apply Same.foldl
    | intro _

theorem dropRecs_same {K : Nat} {Z : State} (s : State) (d : Dest) (n : Nat) (hK : 8589934720 &&& K = 8589934720) (hZ : Same K Z s) :
    Same K Z (State.dropRecs s d n) := by
  unfold State.dropRecs
  repeat' first
    | extract_lets
    | with_reducible assumption
    | exact sub_trans rfl hK
    | exact bit_of rfl hK
    | split
    | with_reducible apply updRecq_same

theorem loseRecs_same {K : Nat} {Z : State} (s : State) (d : Dest) (n : Nat) (hK : 8589934720 &&& K = 8589934720) (hZ : Same K Z s) :
    Same K Z (State.loseRecs s d n) := by
  unfold State.loseRecs
  repeat' first
    | extract_lets
    | with_reducible assumption
    | exact sub_trans rfl hK
    | exact bit_of rfl hK
    | split
    | with_reducible apply updRecq_same

theorem stageAsk_same {K : Nat} {Z : State} (s : State) (d : Dest) (l : List Rec) (io : Nat) (hK : 558345748608 &&& K = 558345748608) (hZ : Same K Z s) :
    Same K Z (State.stageAsk s d l io) := by
  unfold State.stageAsk
  repeat' first
    | extract_lets
    | with_reducible assumption
    | exact sub_trans rfl hK
    | exact bit_of rfl hK
    | split
    | with_reducible apply emit_same
    | with_reducible apply updRecq_same

theorem postRec_same {K : Nat} {Z : State} (s : State) (d : Dest) (r : Rec) (hK : 558345748696 &&& K = 558345748696) (hZ : Same K Z s) :
    Same K Z (State.postRec s d r) := by
  unfold State.postRec
  repeat' first
    | extract_lets
    | with_reducible assumption
    | exact sub_trans rfl hK
    | exact bit_of rfl hK
    | split
    | with_reducible apply dropRecs_same
    | with_reducible apply loseRecs_same
    | with_reducible apply stageAsk_same
    | with_reducible apply updRecq_same
    | with_reducible apply writeRec_same
    | dsimp +zetaDelta only

theorem postNotice_same {K : Nat} {Z : State} (s : State) (fn : Nat) (code : Nat) (ctx : Nat) (d0 : Nat) (d1 : Nat) (queue : Nat) (hK : 558345748696 &&& K = 558345748696) (hZ : Same K Z s) :
    Same K Z (State.postNotice s fn code ctx d0 d1 queue) := by
  unfold State.postNotice
  repeat' first
    | extract_lets
    | with_reducible assumption
    | exact sub_trans rfl hK
    | exact bit_of rfl hK
    | split
    | with_reducible apply dropRecs_same
    | with_reducible apply evseqNext_same
    | with_reducible apply postRec_same
    | dsimp +zetaDelta only

theorem postErrs_same {K : Nat} {Z : State} (s : State) (fn : Nat) (ctx : Nat) (ssn : Nat) (queue : Nat) (status : Nat) (parts : List (Nat × Nat)) (hK : 558345748696 &&& K = 558345748696) (hZ : Same K Z s) :
    Same K Z (State.postErrs s fn ctx ssn queue status parts) := by
  unfold State.postErrs
  repeat' first
    | extract_lets
    | with_reducible assumption
    | exact sub_trans rfl hK
    | exact bit_of rfl hK
    | split
    | with_reducible apply evseqNext_same
    | with_reducible apply postRec_same
    | with_reducible apply Same.foldl
    | intro _
    | dsimp +zetaDelta only

theorem postErr_same {K : Nat} {Z : State} (s : State) (fn : Nat) (ctx : Nat) (ssn : Nat) (queue : Nat) (status : Nat) (typ : Nat) (body : Nat) (hK : 558345748696 &&& K = 558345748696) (hZ : Same K Z s) :
    Same K Z (State.postErr s fn ctx ssn queue status typ body) := by
  unfold State.postErr
  repeat' first
    | extract_lets
    | with_reducible assumption
    | exact sub_trans rfl hK
    | exact bit_of rfl hK
    | split
    | with_reducible apply postErrs_same

theorem postGlobal_same {K : Nat} {Z : State} (s : State) (typ : Nat) (body : Nat) (hK : 558345748696 &&& K = 558345748696) (hZ : Same K Z s) :
    Same K Z (State.postGlobal s typ body) := by
  unfold State.postGlobal
  repeat' first
    | extract_lets
    | with_reducible assumption
    | exact sub_trans rfl hK
    | exact bit_of rfl hK
    | split
    | with_reducible apply postErrs_same

theorem journal_same {K : Nat} {Z : State} (s : State) (source : Nat) (prof : Nat) (req : Nat) (idx : Nat) (sub : Nat) (code : Nat) (old : Nat) (new : Nat) (hK : 558345748696 &&& K = 558345748696) (hZ : Same K Z s) :
    Same K Z (State.journal s source prof req idx sub code old new) := by
  unfold State.journal
  repeat' first
    | extract_lets
    | with_reducible assumption
    | exact sub_trans rfl hK
    | exact bit_of rfl hK
    | split
    | with_reducible apply evseqNext_same
    | with_reducible apply postRec_same
    | dsimp +zetaDelta only

theorem zeroRun_same {K : Nat} {Z : State} (s : State) (a : Nat) (len : Nat) (hK : 8 &&& K = 8) (hZ : Same K Z s) :
    Same K Z (State.zeroRun s a len) := by
  unfold State.zeroRun
  repeat' first
    | extract_lets
    | with_reducible assumption
    | exact sub_trans rfl hK
    | exact bit_of rfl hK
    | split
    | with_reducible apply Same.mem_upd

theorem updWm_same {K : Nat} {Z : State} (s : State) (n : Nat) (f : Wm → Wm) (hK : 1073741824 &&& K = 1073741824) (hZ : Same K Z s) :
    Same K Z (State.updWm s n f) := by
  unfold State.updWm
  repeat' first
    | extract_lets
    | with_reducible assumption
    | exact sub_trans rfl hK
    | exact bit_of rfl hK
    | split
    | with_reducible apply Same.wms_upd

theorem wmCheck_same {K : Nat} {Z : State} (s : State) (n : Nat) (hK : 559419490520 &&& K = 559419490520) (hZ : Same K Z s) :
    Same K Z (State.wmCheck s n) := by
  unfold State.wmCheck
  repeat' first
    | extract_lets
    | with_reducible assumption
    | exact sub_trans rfl hK
    | exact bit_of rfl hK
    | split
    | with_reducible apply postNotice_same
    | with_reducible apply updWm_same
    | dsimp +zetaDelta only

theorem stopRecord_same {K : Nat} {Z : State} (s : State) (fn : Nat) (q : Nat) (hK : 558345748696 &&& K = 558345748696) (hZ : Same K Z s) :
    Same K Z (State.stopRecord s fn q) := by
  unfold State.stopRecord
  repeat' first
    | extract_lets
    | with_reducible assumption
    | exact sub_trans rfl hK
    | exact bit_of rfl hK
    | split
    | with_reducible apply postErr_same
    | with_reducible apply updQueue_same
    | dsimp +zetaDelta only

theorem stopQueue_same {K : Nat} {Z : State} (s : State) (fn : Nat) (q : Nat) (code : Nat) (hK : 558345748696 &&& K = 558345748696) (hZ : Same K Z s) :
    Same K Z (State.stopQueue s fn q code) := by
  unfold State.stopQueue
  repeat' first
    | extract_lets
    | with_reducible assumption
    | exact sub_trans rfl hK
    | exact bit_of rfl hK
    | split
    | with_reducible apply postErr_same
    | with_reducible apply stopRecord_same
    | with_reducible apply updQueue_same
    | dsimp +zetaDelta only

theorem cqSignal_same {K : Nat} {Z : State} (s : State) (fn : Nat) (q : Nat) (hK : 549755814016 &&& K = 549755814016) (hZ : Same K Z s) :
    Same K Z (State.cqSignal s fn q) := by
  unfold State.cqSignal
  repeat' first
    | extract_lets
    | with_reducible assumption
    | exact sub_trans rfl hK
    | exact bit_of rfl hK
    | split
    | with_reducible apply msix_same
    | with_reducible apply updQueue_same
    | dsimp +zetaDelta only

theorem writeCq_same {K : Nat} {Z : State} (s : State) (fn : Nat) (q : Nat) (x : CqRec) (hK : 549755814104 &&& K = 549755814104) (hZ : Same K Z s) :
    Same K Z (State.writeCq s fn q x) := by
  unfold State.writeCq
  repeat' first
    | extract_lets
    | with_reducible assumption
    | exact sub_trans rfl hK
    | exact bit_of rfl hK
    | split
    | with_reducible apply cqSignal_same
    | with_reducible apply ringPut_same
    | with_reducible apply updQueue_same
    | dsimp +zetaDelta only

theorem cqRefused_same {K : Nat} {Z : State} (s : State) (fn : Nat) (q : Nat) (hK : 128 &&& K = 128) (hZ : Same K Z s) :
    Same K Z (State.cqRefused s fn q) := by
  unfold State.cqRefused
  repeat' first
    | extract_lets
    | with_reducible assumption
    | exact sub_trans rfl hK
    | exact bit_of rfl hK
    | split
    | with_reducible apply updQueue_same

theorem flushCq_same {K : Nat} {Z : State} (s : State) (fn : Nat) (q : Nat) (a3 : List CqEnt) (hK : 549755814104 &&& K = 549755814104) (hZ : Same K Z s) :
    Same K Z (State.flushCq s fn q a3) := by
  induction a3 generalizing s fn q with
  | nil => exact updQueue_same _ _ _ _ (sub_trans rfl hK) hZ
  | cons ca cr ih =>
    unfold State.flushCq
    repeat' first
      | extract_lets
      | with_reducible assumption
      | exact sub_trans rfl hK
      | with_reducible apply ih
      | split
      | with_reducible apply cqRefused_same
      | with_reducible apply emit_same
      | with_reducible apply updQueue_same
      | with_reducible apply writeCq_same
      | dsimp +zetaDelta only

theorem payCq_same {K : Nat} {Z : State} (s : State) (fn : Nat) (q : Nat) (hK : 549755814104 &&& K = 549755814104) (hZ : Same K Z s) :
    Same K Z (State.payCq s fn q) := by
  unfold State.payCq
  repeat' first
    | extract_lets
    | with_reducible assumption
    | exact sub_trans rfl hK
    | exact bit_of rfl hK
    | split
    | with_reducible apply flushCq_same

theorem decided_same {K : Nat} {Z : State} (s : State) (cid : Nat) (hK : 128 &&& K = 128) (hZ : Same K Z s) :
    Same K Z (State.decided s cid) := by
  unfold State.decided
  repeat' first
    | extract_lets
    | with_reducible assumption
    | exact sub_trans rfl hK
    | exact bit_of rfl hK
    | split
    | with_reducible apply updQueue_same

theorem oweCq_same {K : Nat} {Z : State} (s : State) (fn : Nat) (q : Nat) (cid : Nat) (x : CqRec) (hK : 128 &&& K = 128) (hZ : Same K Z s) :
    Same K Z (State.oweCq s fn q cid x) := by
  unfold State.oweCq
  repeat' first
    | extract_lets
    | with_reducible assumption
    | exact sub_trans rfl hK
    | exact bit_of rfl hK
    | split
    | with_reducible apply updQueue_same

theorem countCompletion_same {K : Nat} {Z : State} (s : State) (c : Nat) (st : Nat) (va : Nat) (hK : 2048 &&& K = 2048) (hZ : Same K Z s) :
    Same K Z (State.countCompletion s c st va) := by
  unfold State.countCompletion
  repeat' first
    | extract_lets
    | with_reducible assumption
    | exact sub_trans rfl hK
    | exact bit_of rfl hK
    | split
    | with_reducible apply updCtx_same

theorem unqueue_same {K : Nat} {Z : State} (s : State) (cid : Nat) (h : Nat) (hK : 4194304 &&& K = 4194304) (hZ : Same K Z s) :
    Same K Z (State.unqueue s cid h) := by
  unfold State.unqueue
  repeat' first
    | extract_lets
    | with_reducible assumption
    | exact sub_trans rfl hK
    | exact bit_of rfl hK
    | split
    | with_reducible apply updHide_same

theorem complete_same {K : Nat} {Z : State} (s : State) (cid : Nat) (st : Nat) (err : Option ErrInfo) (hK : 558349945560 &&& K = 558349945560) (hZ : Same K Z s) :
    Same K Z (State.complete s cid st err) := by
  unfold State.complete
  repeat' first
    | extract_lets
    | with_reducible assumption
    | exact sub_trans rfl hK
    | exact bit_of rfl hK
    | split
    | with_reducible apply countCompletion_same
    | with_reducible apply decided_same
    | with_reducible apply dropCmd_same
    | with_reducible apply oweCq_same
    | with_reducible apply payCq_same
    | with_reducible apply postErr_same
    | with_reducible apply stopRecord_same
    | with_reducible apply unqueue_same
    | dsimp +zetaDelta only

end Sys2Proof.Laws
end

