-- ==== Sys2Proof/Laws/FrameLinkOps.lean ====
section
/-! SUPPORT. Frames of the operations of Machine/LinkOps.lean: the fields that each may change. -/

namespace Sys2Proof.Laws

open Sys2Proof.Machine

theorem updLink_same {K : Nat} {Z : State} (s : State) (p : Nat) (f : Link → Link) (hK : 274877906944 &&& K = 274877906944) (hZ : Same K Z s) :
    Same K Z (State.updLink s p f) := by
  unfold State.updLink
  repeat' first
    | extract_lets
    | with_reducible assumption
    | exact sub_trans rfl hK
    | exact bit_of rfl hK
    | split
    | with_reducible apply Same.fab_upd

theorem pump_same {K : Nat} {Z : State} (s : State) (p : Nat) (a2 : Nat) (hK : 824633720832 &&& K = 824633720832) (hZ : Same K Z s) :
    Same K Z (State.pump s p a2) := by
  induction a2 generalizing s p with
  | zero => exact hZ
  | succ cn ih =>
    unfold State.pump
    repeat' first
      | extract_lets
      | with_reducible assumption
      | exact sub_trans rfl hK
      | exact bit_of rfl hK
      | with_reducible apply ih
      | split
      | with_reducible apply emit_same
      | with_reducible apply updLink_same
      | dsimp +zetaDelta only

theorem sendOn_same {K : Nat} {Z : State} (s : State) (p : Nat) (m : LMsg) (hK : 824633720832 &&& K = 824633720832) (hZ : Same K Z s) :
    Same K Z (State.sendOn s p m) := by
  unfold State.sendOn
  repeat' first
    | extract_lets
    | with_reducible assumption
    | exact sub_trans rfl hK
    | exact bit_of rfl hK
    | split
    | with_reducible apply pump_same
    | with_reducible apply updLink_same

theorem sendMsg_same {K : Nat} {Z : State} (s : State) (m : LMsg) (hK : 824633720832 &&& K = 824633720832) (hZ : Same K Z s) :
    Same K Z (State.sendMsg s m) := by
  unfold State.sendMsg
  repeat' first
    | extract_lets
    | with_reducible assumption
    | exact sub_trans rfl hK
    | exact bit_of rfl hK
    | split
    | with_reducible apply sendOn_same
    | dsimp +zetaDelta only

theorem sendReqOf_same {K : Nat} {Z : State} (s : State) (m : LMsg) (core : Option (Nat × Nat × Nat)) (chan : Option (Nat × Nat)) (cid : Nat) (ctx : Nat) (part : Nat × Nat) (pc : optParam Nat 0) (mask : optParam W32 0) (hK : 824633720832 &&& K = 824633720832) (hZ : Same K Z s) :
    Same K Z (State.sendReqOf s m core chan cid ctx part pc mask) := by
  unfold State.sendReqOf
  repeat' first
    | extract_lets
    | with_reducible assumption
    | exact sub_trans rfl hK
    | exact bit_of rfl hK
    | split
    | with_reducible apply sendMsg_same
    | with_reducible apply Same.fab_upd
    | dsimp +zetaDelta only

theorem sendReq_same {K : Nat} {Z : State} (s : State) (m : LMsg) (core : Option (Nat × Nat × Nat)) (chan : Option (Nat × Nat)) (cid : Nat) (ctx : Nat) (hK : 824633720832 &&& K = 824633720832) (hZ : Same K Z s) :
    Same K Z (State.sendReq s m core chan cid ctx) := by
  unfold State.sendReq
  repeat' first
    | extract_lets
    | with_reducible assumption
    | exact sub_trans rfl hK
    | exact bit_of rfl hK
    | split
    | with_reducible apply sendReqOf_same

end Sys2Proof.Laws
end

