-- ==== Sys2Proof/Laws/FrameWait.lean ====
section
/-! SUPPORT. Frames of the operations of Machine/Wait.lean: the fields that each may change. -/

namespace Sys2Proof.Laws

open Sys2Proof.Machine

theorem updChain_same {K : Nat} {Z : State} (s : State) (core : Nat) (slot : Nat) (f : Chain → Chain) (hK : 131072 &&& K = 131072) (hZ : Same K Z s) :
    Same K Z (State.updChain s core slot f) := by
  unfold State.updChain
  repeat' first
    | extract_lets
    | with_reducible assumption
    | exact sub_trans rfl hK
    | exact bit_of rfl hK
    | split
    | with_reducible apply updCore_same

theorem invalidateDcache_same {K : Nat} {Z : State} (s : State) (core : Nat) (hK : 131072 &&& K = 131072) (hZ : Same K Z s) :
    Same K Z (State.invalidateDcache s core) := by
  unfold State.invalidateDcache
  repeat' first
    | extract_lets
    | with_reducible assumption
    | exact sub_trans rfl hK
    | exact bit_of rfl hK
    | split
    | with_reducible apply updCore_same

theorem lsWrite_same {K : Nat} {Z : State} (s : State) (core : Nat) (a : Nat) (bs : List Byte) (hK : 131072 &&& K = 131072) (hZ : Same K Z s) :
    Same K Z (State.lsWrite s core a bs) := by
  unfold State.lsWrite
  repeat' first
    | extract_lets
    | with_reducible assumption
    | exact sub_trans rfl hK
    | exact bit_of rfl hK
    | split
    | with_reducible apply updCore_same

theorem dropStore_same {K : Nat} {Z : State} (s : State) (as : List Nat) (hK : 256 &&& K = 256) (hZ : Same K Z s) :
    Same K Z (State.dropStore s as) := by
  unfold State.dropStore
  repeat' first
    | extract_lets
    | with_reducible assumption
    | exact sub_trans rfl hK
    | exact bit_of rfl hK
    | split
    | with_reducible apply Same.store_upd

theorem objWrite_same {K : Nat} {Z : State} (s : State) (lsCore : Option Nat) (a : Nat) (n : Nat) (v : Nat) (hK : 131416 &&& K = 131416) (hZ : Same K Z s) :
    Same K Z (State.objWrite s lsCore a n v) := by
  unfold State.objWrite
  repeat' first
    | extract_lets
    | with_reducible assumption
    | exact sub_trans rfl hK
    | exact bit_of rfl hK
    | split
    | with_reducible apply dropStore_same
    | with_reducible apply lsWrite_same
    | with_reducible apply writeBytes_same

theorem dropWaiter_same {K : Nat} {Z : State} (s : State) (w : Waiter) (hK : 524288 &&& K = 524288) (hZ : Same K Z s) :
    Same K Z (State.dropWaiter s w) := by
  unfold State.dropWaiter
  repeat' first
    | extract_lets
    | with_reducible assumption
    | exact sub_trans rfl hK
    | exact bit_of rfl hK
    | split
    | with_reducible apply Same.waiters_upd

theorem release_same {K : Nat} {Z : State} (s : State) (w : Waiter) (hK : 833228507864 &&& K = 833228507864) (hZ : Same K Z s) :
    Same K Z (State.release s w) := by
  unfold State.release
  repeat' first
    | extract_lets
    | with_reducible assumption
    | exact sub_trans rfl hK
    | exact bit_of rfl hK
    | split
    | with_reducible apply complete_same
    | with_reducible apply dropWaiter_same
    | with_reducible apply invalidateDcache_same
    | with_reducible apply sendMsg_same
    | with_reducible apply updChain_same
    | dsimp +zetaDelta only

theorem serveCounting_same {K : Nat} {Z : State} (s : State) (lsCore : Option Nat) (a2 : Nat) (a3 : Nat) (hK : 833228508120 &&& K = 833228508120) (hZ : Same K Z s) :
    Same K Z (State.serveCounting s lsCore a2 a3) := by
  induction a3 generalizing s lsCore a2 with
  | zero => exact hZ
  | succ cn ih =>
    unfold State.serveCounting
    repeat' first
      | extract_lets
      | with_reducible assumption
      | exact sub_trans rfl hK
      | exact bit_of rfl hK
      | with_reducible apply ih
      | split
      | with_reducible apply objWrite_same
      | with_reducible apply release_same

theorem serveBarrier_same {K : Nat} {Z : State} (s : State) (lsCore : Option Nat) (a2 : Nat) (a3 : Nat) (hK : 833228507864 &&& K = 833228507864) (hZ : Same K Z s) :
    Same K Z (State.serveBarrier s lsCore a2 a3) := by
  induction a3 generalizing s lsCore a2 with
  | zero => exact hZ
  | succ cn ih =>
    unfold State.serveBarrier
    repeat' first
      | extract_lets
      | with_reducible assumption
      | exact sub_trans rfl hK
      | exact bit_of rfl hK
      | with_reducible apply ih
      | split
      | with_reducible apply release_same

theorem serveObj_same {K : Nat} {Z : State} (s : State) (w : Waiter) (hK : 833228508120 &&& K = 833228508120) (hZ : Same K Z s) :
    Same K Z (State.serveObj s w) := by
  unfold State.serveObj
  repeat' first
    | extract_lets
    | with_reducible assumption
    | exact sub_trans rfl hK
    | exact bit_of rfl hK
    | split
    | with_reducible apply serveBarrier_same
    | with_reducible apply serveCounting_same

theorem serveWrites_same {K : Nat} {Z : State} (s : State) (lsCore : Option Nat) (as : List Nat) (hK : 833228508120 &&& K = 833228508120) (hZ : Same K Z s) :
    Same K Z (State.serveWrites s lsCore as) := by
  unfold State.serveWrites
  repeat' first
    | extract_lets
    | with_reducible assumption
    | exact sub_trans rfl hK
    | exact bit_of rfl hK
    | split
    | with_reducible apply serveObj_same
    | with_reducible apply Same.foldl
    | intro _

theorem homeWrite_same {K : Nat} {Z : State} (s : State) (cells : List (Nat × Byte)) (hK : 833228508120 &&& K = 833228508120) (hZ : Same K Z s) :
    Same K Z (State.homeWrite s cells) := by
  unfold State.homeWrite
  repeat' first
    | extract_lets
    | with_reducible assumption
    | exact sub_trans rfl hK
    | exact bit_of rfl hK
    | split
    | with_reducible apply dropStore_same
    | with_reducible apply serveWrites_same
    | with_reducible apply writeCells_same

theorem lsStore_same {K : Nat} {Z : State} (s : State) (core : Nat) (a : Nat) (bs : List Byte) (hK : 833228508120 &&& K = 833228508120) (hZ : Same K Z s) :
    Same K Z (State.lsStore s core a bs) := by
  unfold State.lsStore
  repeat' first
    | extract_lets
    | with_reducible assumption
    | exact sub_trans rfl hK
    | exact bit_of rfl hK
    | split
    | with_reducible apply lsWrite_same
    | with_reducible apply serveWrites_same

theorem lostSignal_same {K : Nat} {Z : State} (s : State) (c : Nat) (hK : 4196352 &&& K = 4196352) (hZ : Same K Z s) :
    Same K Z (State.lostSignal s c) := by
  unfold State.lostSignal
  repeat' first
    | extract_lets
    | with_reducible assumption
    | exact sub_trans rfl hK
    | exact bit_of rfl hK
    | split
    | with_reducible apply updCtx_same
    | with_reducible apply updHide_same

theorem signalCount_same {K : Nat} {Z : State} (s : State) (lsCore : Option Nat) (a : Nat) (n : Nat) (ctx : Nat) (hK : 833228508120 &&& K = 833228508120) (hZ : Same K Z s) :
    Same K Z (State.signalCount s lsCore a n ctx) := by
  unfold State.signalCount
  repeat' first
    | extract_lets
    | with_reducible assumption
    | exact sub_trans rfl hK
    | exact bit_of rfl hK
    | split
    | with_reducible apply lostSignal_same
    | with_reducible apply objWrite_same
    | with_reducible apply serveCounting_same
    | dsimp +zetaDelta only

theorem arriveBarrier_same {K : Nat} {Z : State} (s : State) (lsCore : Option Nat) (a : Nat) (hK : 833228508120 &&& K = 833228508120) (hZ : Same K Z s) :
    Same K Z (State.arriveBarrier s lsCore a) := by
  unfold State.arriveBarrier
  repeat' first
    | extract_lets
    | with_reducible assumption
    | exact sub_trans rfl hK
    | exact bit_of rfl hK
    | split
    | with_reducible apply objWrite_same
    | with_reducible apply serveBarrier_same
    | dsimp +zetaDelta only

end Sys2Proof.Laws
end

