-- ==== Sys2Proof/Laws/FrameChains.lean ====
section
/-! SUPPORT. Frames of the operations of Machine/Chains.lean: the fields that each may change. -/

namespace Sys2Proof.Laws

open Sys2Proof.Machine

theorem atomLane_same {K : Nat} {Z : State} (s : State) (core : Nat) (slot : Nat) (idx : Nat) (lane : Nat) (bs : List Byte) (hK : 131072 &&& K = 131072) (hZ : Same K Z s) :
    Same K Z (State.atomLane s core slot idx lane bs) := by
  unfold State.atomLane
  repeat' first
    | extract_lets
    | with_reducible assumption
    | exact sub_trans rfl hK
    | exact bit_of rfl hK
    | split
    | with_reducible apply invalidateDcache_same
    | with_reducible apply updChain_same
    | dsimp +zetaDelta only

end Sys2Proof.Laws
end

