-- ==== Sys2Proof/Laws/FrameHome.lean ====
section
/-! SUPPORT. Frames of the operations of Machine/Home.lean: the fields that each may change. -/

namespace Sys2Proof.Laws

open Sys2Proof.Machine

theorem updLine_same {K : Nat} {Z : State} (s : State) (l : Nat) (f : Line → Line) (hK : 1048576 &&& K = 1048576) (hZ : Same K Z s) :
    Same K Z (State.updLine s l f) := by
  unfold State.updLine
  repeat' first
    | extract_lets
    | with_reducible assumption
    | exact sub_trans rfl hK
    | exact bit_of rfl hK
    | split
    | with_reducible apply Same.lines_upd

theorem evictCopy_same {K : Nat} {Z : State} (s : State) (l : Nat) (hK : 824634769408 &&& K = 824634769408) (hZ : Same K Z s) :
    Same K Z (State.evictCopy s l) := by
  unfold State.evictCopy
  repeat' first
    | extract_lets
    | with_reducible assumption
    | exact sub_trans rfl hK
    | exact bit_of rfl hK
    | split
    | with_reducible apply sendReq_same
    | with_reducible apply updLine_same
    | dsimp +zetaDelta only

theorem makeRoom_same {K : Nat} {Z : State} (s : State) (l : Nat) (hK : 824634769408 &&& K = 824634769408) (hZ : Same K Z s) :
    Same K Z (State.makeRoom s l) := by
  unfold State.makeRoom
  repeat' first
    | extract_lets
    | with_reducible assumption
    | exact sub_trans rfl hK
    | exact bit_of rfl hK
    | split
    | with_reducible apply evictCopy_same
    | dsimp +zetaDelta only

theorem useLine_same {K : Nat} {Z : State} (s : State) (l : Nat) (hK : 3145728 &&& K = 3145728) (hZ : Same K Z s) :
    Same K Z (State.useLine s l) := by
  unfold State.useLine
  repeat' first
    | extract_lets
    | with_reducible assumption
    | exact sub_trans rfl hK
    | exact bit_of rfl hK
    | split
    | with_reducible apply updLine_same
    | with_reducible apply Same.dirClock_upd

theorem errRsp_same {K : Nat} {Z : State} (s : State) (m : LMsg) (aux : Nat) (hK : 824633720832 &&& K = 824633720832) (hZ : Same K Z s) :
    Same K Z (State.errRsp s m aux) := by
  unfold State.errRsp
  repeat' first
    | extract_lets
    | with_reducible assumption
    | exact sub_trans rfl hK
    | exact bit_of rfl hK
    | split
    | with_reducible apply sendMsg_same

theorem homeAtom_same {K : Nat} {Z : State} (s : State) (op : AtomOp) (size : Nat) (pa : Nat) (val : Nat) (cmp : Nat) (hK : 833228508120 &&& K = 833228508120) (hZ : Same K Z s) :
    Same K Z (State.homeAtom s op size pa val cmp) := by
  unfold State.homeAtom
  repeat' first
    | extract_lets
    | with_reducible assumption
    | exact sub_trans rfl hK
    | exact bit_of rfl hK
    | split
    | with_reducible apply homeWrite_same
    | dsimp +zetaDelta only

theorem coreAtom_same {K : Nat} {Z : State} (s : State) (core : Nat) (slot : Nat) (x : SbAtom) (hK : 833228508120 &&& K = 833228508120) (hZ : Same K Z s) :
    Same K Z (State.coreAtom s core slot x) := by
  unfold State.coreAtom
  repeat' first
    | extract_lets
    | with_reducible assumption
    | exact sub_trans rfl hK
    | exact bit_of rfl hK
    | split
    | with_reducible apply atomLane_same
    | with_reducible apply homeAtom_same

theorem addRemoteWaiter_same {K : Nat} {Z : State} (s : State) (pa : Nat) (kind : Nat) (phase : Nat) (m : LMsg) (hK : 524288 &&& K = 524288) (hZ : Same K Z s) :
    Same K Z (State.addRemoteWaiter s pa kind phase m) := by
  unfold State.addRemoteWaiter
  repeat' first
    | extract_lets
    | with_reducible assumption
    | exact sub_trans rfl hK
    | exact bit_of rfl hK
    | split
    | with_reducible apply Same.waiters_upd

theorem performMsg_same {K : Nat} {Z : State} (s : State) (m : LMsg) (grant : Nat) (holds : Bool) (hK : 833228508120 &&& K = 833228508120) (hZ : Same K Z s) :
    Same K Z (State.performMsg s m grant holds) := by
  unfold State.performMsg
  repeat' first
    | extract_lets
    | with_reducible assumption
    | exact sub_trans rfl hK
    | exact bit_of rfl hK
    | split
    | with_reducible apply addRemoteWaiter_same
    | with_reducible apply arriveBarrier_same
    | with_reducible apply homeAtom_same
    | with_reducible apply homeWrite_same
    | with_reducible apply sendMsg_same
    | with_reducible apply serveCounting_same
    | with_reducible apply signalCount_same
    | dsimp +zetaDelta only

theorem sendSnoops_same {K : Nat} {Z : State} (s : State) (l : Nat) (aux : Nat) (ts : List Nat) (hK : 824634769408 &&& K = 824634769408) (hZ : Same K Z s) :
    Same K Z (State.sendSnoops s l aux ts) := by
  unfold State.sendSnoops
  repeat' first
    | extract_lets
    | with_reducible assumption
    | exact sub_trans rfl hK
    | exact bit_of rfl hK
    | split
    | with_reducible apply sendMsg_same
    | with_reducible apply updLine_same
    | with_reducible apply Same.foldl
    | intro _

theorem actTx_same {K : Nat} {Z : State} (s : State) (tx : HomeTx) (holds : Bool) (hK : 833228508120 &&& K = 833228508120) (hZ : Same K Z s) :
    Same K Z (State.actTx s tx holds) := by
  unfold State.actTx
  repeat' first
    | extract_lets
    | with_reducible assumption
    | exact sub_trans rfl hK
    | exact bit_of rfl hK
    | split
    | with_reducible apply coreAtom_same
    | with_reducible apply homeWrite_same
    | with_reducible apply performMsg_same
    | with_reducible apply signalCount_same
    | with_reducible apply Same.foldl
    | intro _

theorem serveLine_same {K : Nat} {Z : State} (s : State) (l : Nat) (hK : 833228508120 &&& K = 833228508120) (hZ : Same K Z s) :
    Same K Z (State.serveLine s l) := by
  unfold State.serveLine
  repeat' first
    | extract_lets
    | with_reducible assumption
    | exact sub_trans rfl hK
    | exact bit_of rfl hK
    | split
    | with_reducible apply serveObj_same
    | with_reducible apply Same.foldl
    | intro _

theorem cxlAnswer_same {K : Nat} {Z : State} (s : State) (tx : HomeTx) (hK : 549755813888 &&& K = 549755813888) (hZ : Same K Z s) :
    Same K Z (State.cxlAnswer s tx) := by
  unfold State.cxlAnswer
  repeat' first
    | extract_lets
    | with_reducible assumption
    | exact sub_trans rfl hK
    | exact bit_of rfl hK
    | split
    | with_reducible apply emit_same

theorem performTx_same {K : Nat} {Z : State} (s : State) (l : Nat) (tx : HomeTx) (hK : 833231653848 &&& K = 833231653848) (hZ : Same K Z s) :
    Same K Z (State.performTx s l tx) := by
  unfold State.performTx
  repeat' first
    | extract_lets
    | with_reducible assumption
    | exact sub_trans rfl hK
    | exact bit_of rfl hK
    | split
    | with_reducible apply actTx_same
    | with_reducible apply cxlAnswer_same
    | with_reducible apply makeRoom_same
    | with_reducible apply serveLine_same
    | with_reducible apply updLine_same
    | with_reducible apply useLine_same
    | dsimp +zetaDelta only

theorem startTx_same {K : Nat} {Z : State} (s : State) (l : Nat) (tx : HomeTx) (hK : 833231653848 &&& K = 833231653848) (hZ : Same K Z s) :
    Same K Z (State.startTx s l tx) := by
  unfold State.startTx
  repeat' first
    | extract_lets
    | with_reducible assumption
    | exact sub_trans rfl hK
    | exact bit_of rfl hK
    | split
    | with_reducible apply performTx_same
    | with_reducible apply sendSnoops_same
    | with_reducible apply updLine_same
    | dsimp +zetaDelta only

theorem startWaiting_same {K : Nat} {Z : State} (s : State) (slice : Nat) (hK : 833231653848 &&& K = 833231653848) (hZ : Same K Z s) :
    Same K Z (State.startWaiting s slice) := by
  unfold State.startWaiting
  repeat' first
    | extract_lets
    | with_reducible assumption
    | exact sub_trans rfl hK
    | exact bit_of rfl hK
    | split
    | with_reducible apply startTx_same
    | with_reducible apply updLine_same

theorem evictEntry_same {K : Nat} {Z : State} (s : State) (slice : Nat) (hK : 833231653848 &&& K = 833231653848) (hZ : Same K Z s) :
    Same K Z (State.evictEntry s slice) := by
  unfold State.evictEntry
  repeat' first
    | extract_lets
    | with_reducible assumption
    | exact sub_trans rfl hK
    | exact bit_of rfl hK
    | split
    | with_reducible apply sendSnoops_same
    | with_reducible apply startWaiting_same
    | with_reducible apply updLine_same
    | dsimp +zetaDelta only

theorem admitTx_same {K : Nat} {Z : State} (s : State) (l : Nat) (tx : HomeTx) (hK : 833231653848 &&& K = 833231653848) (hZ : Same K Z s) :
    Same K Z (State.admitTx s l tx) := by
  unfold State.admitTx
  repeat' first
    | extract_lets
    | with_reducible assumption
    | exact sub_trans rfl hK
    | exact bit_of rfl hK
    | split
    | with_reducible apply evictEntry_same
    | with_reducible apply startTx_same
    | with_reducible apply updLine_same

theorem requestLine_same {K : Nat} {Z : State} (s : State) (l : Nat) (tx : HomeTx) (hK : 833231653848 &&& K = 833231653848) (hZ : Same K Z s) :
    Same K Z (State.requestLine s l tx) := by
  unfold State.requestLine
  repeat' first
    | extract_lets
    | with_reducible assumption
    | exact sub_trans rfl hK
    | exact bit_of rfl hK
    | split
    | with_reducible apply admitTx_same
    | with_reducible apply sendMsg_same
    | with_reducible apply updLine_same
    | dsimp +zetaDelta only

theorem endTx_same {K : Nat} {Z : State} (s : State) (l : Nat) (hK : 833231653848 &&& K = 833231653848) (hZ : Same K Z s) :
    Same K Z (State.endTx s l) := by
  unfold State.endTx
  repeat' first
    | extract_lets
    | with_reducible assumption
    | exact sub_trans rfl hK
    | exact bit_of rfl hK
    | split
    | with_reducible apply admitTx_same
    | with_reducible apply sendMsg_same
    | with_reducible apply startWaiting_same
    | with_reducible apply updLine_same
    | dsimp +zetaDelta only

theorem requestOnce_same {K : Nat} {Z : State} (s : State) (l : Nat) (tx : HomeTx) (hK : 833231653848 &&& K = 833231653848) (hZ : Same K Z s) :
    Same K Z (State.requestOnce s l tx) := by
  unfold State.requestOnce
  repeat' first
    | extract_lets
    | with_reducible assumption
    | exact sub_trans rfl hK
    | exact bit_of rfl hK
    | split
    | with_reducible apply endTx_same
    | with_reducible apply requestLine_same
    | dsimp +zetaDelta only

theorem snoopAck_same {K : Nat} {Z : State} (s : State) (l : Nat) (node : Nat) (data : List (Nat × Byte)) (hK : 833231653848 &&& K = 833231653848) (hZ : Same K Z s) :
    Same K Z (State.snoopAck s l node data) := by
  unfold State.snoopAck
  repeat' first
    | extract_lets
    | with_reducible assumption
    | exact sub_trans rfl hK
    | exact bit_of rfl hK
    | split
    | with_reducible apply homeWrite_same
    | with_reducible apply performTx_same
    | with_reducible apply updLine_same
    | dsimp +zetaDelta only

theorem askHome_same {K : Nat} {Z : State} (s : State) (w : HomeWho) (kind : HomeKind) (line : Nat) (hK : 833231653848 &&& K = 833231653848) (hZ : Same K Z s) :
    Same K Z (State.askHome s w kind line) := by
  unfold State.askHome
  repeat' first
    | extract_lets
    | with_reducible assumption
    | exact sub_trans rfl hK
    | exact bit_of rfl hK
    | split
    | with_reducible apply requestOnce_same
    | dsimp +zetaDelta only

theorem askLine_same {K : Nat} {Z : State} (s : State) (w : HomeWho) (line : Nat) (hK : 833231653848 &&& K = 833231653848) (hZ : Same K Z s) :
    Same K Z (State.askLine s w line) := by
  unfold State.askLine
  repeat' first
    | extract_lets
    | with_reducible assumption
    | exact sub_trans rfl hK
    | exact bit_of rfl hK
    | split
    | with_reducible apply askHome_same

theorem askOwn_same {K : Nat} {Z : State} (s : State) (w : HomeWho) (line : Nat) (hK : 833231653848 &&& K = 833231653848) (hZ : Same K Z s) :
    Same K Z (State.askOwn s w line) := by
  unfold State.askOwn
  repeat' first
    | extract_lets
    | with_reducible assumption
    | exact sub_trans rfl hK
    | exact bit_of rfl hK
    | split
    | with_reducible apply askHome_same

theorem takeOwn_same {K : Nat} {Z : State} (s : State) (line : Nat) (hK : 824636866560 &&& K = 824636866560) (hZ : Same K Z s) :
    Same K Z (State.takeOwn s line) := by
  unfold State.takeOwn
  repeat' first
    | extract_lets
    | with_reducible assumption
    | exact sub_trans rfl hK
    | exact bit_of rfl hK
    | split
    | with_reducible apply makeRoom_same
    | with_reducible apply updLine_same
    | with_reducible apply useLine_same

theorem askRead_same {K : Nat} {Z : State} (s : State) (w : HomeWho) (a : Asker) (line : Nat) (hK : 833231653848 &&& K = 833231653848) (hZ : Same K Z s) :
    Same K Z (State.askRead s w a line) := by
  unfold State.askRead
  repeat' first
    | extract_lets
    | with_reducible assumption
    | exact sub_trans rfl hK
    | exact bit_of rfl hK
    | split
    | with_reducible apply askHome_same
    | with_reducible apply sendReq_same

theorem askReads_same {K : Nat} {Z : State} (s : State) (w : HomeWho) (a : Asker) (ls : List Nat) (hK : 833231653848 &&& K = 833231653848) (hZ : Same K Z s) :
    Same K Z (State.askReads s w a ls) := by
  unfold State.askReads
  repeat' first
    | extract_lets
    | with_reducible assumption
    | exact sub_trans rfl hK
    | exact bit_of rfl hK
    | split
    | with_reducible apply askRead_same
    | with_reducible apply Same.foldl
    | intro _

theorem writeHeld_same {K : Nat} {Z : State} (s : State) (line : Nat) (cells : List (Nat × Byte)) (hK : 3145816 &&& K = 3145816) (hZ : Same K Z s) :
    Same K Z (State.writeHeld s line cells) := by
  unfold State.writeHeld
  repeat' first
    | extract_lets
    | with_reducible assumption
    | exact sub_trans rfl hK
    | exact bit_of rfl hK
    | split
    | with_reducible apply updLine_same
    | with_reducible apply useLine_same
    | with_reducible apply writeCells_same

theorem postLine_same {K : Nat} {Z : State} (s : State) (id : Nat) (a : Asker) (na : Bool) (cells : List (Nat × Byte)) (hK : 833231653848 &&& K = 833231653848) (hZ : Same K Z s) :
    Same K Z (State.postLine s id a na cells) := by
  unfold State.postLine
  repeat' first
    | extract_lets
    | with_reducible assumption
    | exact sub_trans rfl hK
    | exact bit_of rfl hK
    | split
    | with_reducible apply dropStore_same
    | with_reducible apply emitWrites_same
    | with_reducible apply requestOnce_same
    | with_reducible apply sendReq_same
    | with_reducible apply writeCells_same
    | with_reducible apply writeHeld_same
    | with_reducible apply Same.foldl
    | intro _
    | dsimp +zetaDelta only

theorem post_same {K : Nat} {Z : State} (s : State) (id : Nat) (a : Asker) (na : Bool) (cells : List (Nat × Byte)) (hK : 833231653848 &&& K = 833231653848) (hZ : Same K Z s) :
    Same K Z (State.post s id a na cells) := by
  unfold State.post
  repeat' first
    | extract_lets
    | with_reducible assumption
    | exact sub_trans rfl hK
    | exact bit_of rfl hK
    | split
    | with_reducible apply postLine_same
    | with_reducible apply Same.foldl
    | intro _

theorem postBytes_same {K : Nat} {Z : State} (s : State) (id : Nat) (a : Asker) (na : Bool) (pa : Nat) (bs : List Byte) (hK : 833231653848 &&& K = 833231653848) (hZ : Same K Z s) :
    Same K Z (State.postBytes s id a na pa bs) := by
  unfold State.postBytes
  repeat' first
    | extract_lets
    | with_reducible assumption
    | exact sub_trans rfl hK
    | exact bit_of rfl hK
    | split
    | with_reducible apply post_same

theorem askOwnOf_same {K : Nat} {Z : State} (s : State) (w : HomeWho) (a : Asker) (line : Nat) (hK : 833231653848 &&& K = 833231653848) (hZ : Same K Z s) :
    Same K Z (State.askOwnOf s w a line) := by
  unfold State.askOwnOf
  repeat' first
    | extract_lets
    | with_reducible assumption
    | exact sub_trans rfl hK
    | exact bit_of rfl hK
    | split
    | with_reducible apply askHome_same
    | with_reducible apply sendReq_same

theorem askOwns_same {K : Nat} {Z : State} (s : State) (w : HomeWho) (a : Asker) (ls : List Nat) (hK : 833231653848 &&& K = 833231653848) (hZ : Same K Z s) :
    Same K Z (State.askOwns s w a ls) := by
  unfold State.askOwns
  repeat' first
    | extract_lets
    | with_reducible assumption
    | exact sub_trans rfl hK
    | exact bit_of rfl hK
    | split
    | with_reducible apply askOwnOf_same
    | with_reducible apply Same.foldl
    | intro _

theorem postSignal_same {K : Nat} {Z : State} (s : State) (id : Nat) (a : Asker) (pa : Nat) (n : Nat) (hK : 833231653848 &&& K = 833231653848) (hZ : Same K Z s) :
    Same K Z (State.postSignal s id a pa n) := by
  unfold State.postSignal
  repeat' first
    | extract_lets
    | with_reducible assumption
    | exact sub_trans rfl hK
    | exact bit_of rfl hK
    | split
    | with_reducible apply requestOnce_same
    | with_reducible apply sendReq_same

theorem gatePut_same {K : Nat} {Z : State} (s : State) (cid : Nat) (c : Nat) (pa : Nat) (bs : List Byte) (hK : 833231653848 &&& K = 833231653848) (hZ : Same K Z s) :
    Same K Z (State.gatePut s cid c pa bs) := by
  unfold State.gatePut
  repeat' first
    | extract_lets
    | with_reducible assumption
    | exact sub_trans rfl hK
    | exact bit_of rfl hK
    | split
    | with_reducible apply postBytes_same

theorem gateAsk_same {K : Nat} {Z : State} (s : State) (cid : Nat) (c : Nat) (reads : List Nat) (owns : List Nat) (hK : 833231653848 &&& K = 833231653848) (hZ : Same K Z s) :
    Same K Z (State.gateAsk s cid c reads owns) := by
  unfold State.gateAsk
  repeat' first
    | extract_lets
    | with_reducible assumption
    | exact sub_trans rfl hK
    | exact bit_of rfl hK
    | split
    | with_reducible apply askOwns_same
    | with_reducible apply askReads_same

end Sys2Proof.Laws
end

