-- ==== Sys2Proof/Laws/FrameMoverOps.lean ====
section
/-! SUPPORT. Frames of the operations of Machine/MoverOps.lean: the fields that each may change. -/

namespace Sys2Proof.Laws

open Sys2Proof.Machine

theorem updMover_same {K : Nat} {Z : State} (s : State) (m : Nat) (f : Mover → Mover) (hK : 268435456 &&& K = 268435456) (hZ : Same K Z s) :
    Same K Z (State.updMover s m f) := by
  unfold State.updMover
  repeat' first
    | extract_lets
    | with_reducible assumption
    | exact sub_trans rfl hK
    | exact bit_of rfl hK
    | split
    | with_reducible apply Same.movers_upd

theorem updChan_same {K : Nat} {Z : State} (s : State) (m : Nat) (c : Nat) (f : Chan → Chan) (hK : 268435456 &&& K = 268435456) (hZ : Same K Z s) :
    Same K Z (State.updChan s m c f) := by
  unfold State.updChan
  repeat' first
    | extract_lets
    | with_reducible assumption
    | exact sub_trans rfl hK
    | exact bit_of rfl hK
    | split
    | with_reducible apply updMover_same

theorem chanWrite_same {K : Nat} {Z : State} (s : State) (m : Nat) (c : Nat) (a : Nat) (bs : List Byte) (hK : 833231653848 &&& K = 833231653848) (hZ : Same K Z s) :
    Same K Z (State.chanWrite s m c a bs) := by
  unfold State.chanWrite
  repeat' first
    | extract_lets
    | with_reducible assumption
    | exact sub_trans rfl hK
    | exact bit_of rfl hK
    | split
    | with_reducible apply postBytes_same

theorem endDesc_same {K : Nat} {Z : State} (s : State) (m : Nat) (c : Nat) (st : Nat) (residue : Nat) (hK : 834036960216 &&& K = 834036960216) (hZ : Same K Z s) :
    Same K Z (State.endDesc s m c st residue) := by
  unfold State.endDesc
  repeat' first
    | extract_lets
    | with_reducible assumption
    | exact sub_trans rfl hK
    | exact bit_of rfl hK
    | split
    | with_reducible apply chanWrite_same
    | with_reducible apply latch_same
    | with_reducible apply updChan_same
    | dsimp +zetaDelta only

theorem paceCount_same {K : Nat} {Z : State} (s : State) (m : Nat) (c : Nat) (srcBytes : Nat) (dstBytes : Nat) (hK : 833231653848 &&& K = 833231653848) (hZ : Same K Z s) :
    Same K Z (State.paceCount s m c srcBytes dstBytes) := by
  unfold State.paceCount
  repeat' first
    | extract_lets
    | with_reducible assumption
    | exact sub_trans rfl hK
    | exact bit_of rfl hK
    | split
    | with_reducible apply chanWrite_same
    | dsimp +zetaDelta only

theorem askBurst_same {K : Nat} {Z : State} (s : State) (m : Nat) (c : Nat) (hK : 833231653848 &&& K = 833231653848) (hZ : Same K Z s) :
    Same K Z (State.askBurst s m c) := by
  unfold State.askBurst
  repeat' first
    | extract_lets
    | with_reducible assumption
    | exact sub_trans rfl hK
    | exact bit_of rfl hK
    | split
    | with_reducible apply askReads_same

theorem writeBurst_same {K : Nat} {Z : State} (s : State) (m : Nat) (c : Nat) (hK : 833500089304 &&& K = 833500089304) (hZ : Same K Z s) :
    Same K Z (State.writeBurst s m c) := by
  unfold State.writeBurst
  repeat' first
    | extract_lets
    | with_reducible assumption
    | exact sub_trans rfl hK
    | exact bit_of rfl hK
    | split
    | with_reducible apply paceCount_same
    | with_reducible apply post_same
    | with_reducible apply postSignal_same
    | with_reducible apply updChan_same
    | dsimp +zetaDelta only

theorem writeSome_same {K : Nat} {Z : State} (s : State) (m : Nat) (c : Nat) (na : Bool) (cells : List (Nat × Byte)) (hK : 833231653852 &&& K = 833231653852) (hZ : Same K Z s) :
    Same K Z (State.writeSome s m c na cells) := by
  unfold State.writeSome
  repeat' first
    | extract_lets
    | with_reducible assumption
    | exact sub_trans rfl hK
    | exact bit_of rfl hK
    | split
    | with_reducible apply freshNext_same
    | with_reducible apply post_same
    | with_reducible apply Same.foldl
    | intro _

theorem abortChan_same {K : Nat} {Z : State} (s : State) (m : Nat) (c : Nat) (hK : 834036960220 &&& K = 834036960220) (hZ : Same K Z s) :
    Same K Z (State.abortChan s m c) := by
  unfold State.abortChan
  repeat' first
    | extract_lets
    | with_reducible assumption
    | exact sub_trans rfl hK
    | exact bit_of rfl hK
    | split
    | with_reducible apply endDesc_same
    | with_reducible apply freshNext_same
    | with_reducible apply latch_same
    | with_reducible apply updChan_same
    | with_reducible apply writeBurst_same
    | with_reducible apply writeSome_same
    | dsimp +zetaDelta only

theorem freeChan_same {K : Nat} {Z : State} (s : State) (m : Nat) (c : Nat) (hK : 268435456 &&& K = 268435456) (hZ : Same K Z s) :
    Same K Z (State.freeChan s m c) := by
  unfold State.freeChan
  repeat' first
    | extract_lets
    | with_reducible assumption
    | exact sub_trans rfl hK
    | exact bit_of rfl hK
    | split
    | with_reducible apply updChan_same

theorem placeChan_same {K : Nat} {Z : State} (s : State) (mc : Nat × Nat) (cmd : Cmd) (ds : List MDesc) (hK : 268435968 &&& K = 268435968) (hZ : Same K Z s) :
    Same K Z (State.placeChan s mc cmd ds) := by
  unfold State.placeChan
  repeat' first
    | extract_lets
    | with_reducible assumption
    | exact sub_trans rfl hK
    | exact bit_of rfl hK
    | split
    | with_reducible apply updChan_same
    | with_reducible apply updCmd_same

end Sys2Proof.Laws
end

