-- ==== Sys2Proof/Laws/FrameEngine.lean ====
section
/-! SUPPORT. Frames of the operations of Machine/Engine.lean: the fields that each may change. -/

namespace Sys2Proof.Laws

open Sys2Proof.Machine

theorem updGroup_same {K : Nat} {Z : State} (s : State) (cid : Nat) (g : Nat) (f : Group → Group) (hK : 262144 &&& K = 262144) (hZ : Same K Z s) :
    Same K Z (State.updGroup s cid g f) := by
  unfold State.updGroup
  repeat' first
    | extract_lets
    | with_reducible assumption
    | exact sub_trans rfl hK
    | exact bit_of rfl hK
    | split
    | with_reducible apply Same.groups_upd

theorem wakeMx_same {K : Nat} {Z : State} (s : State) (core : Nat) (hK : 131072 &&& K = 131072) (hZ : Same K Z s) :
    Same K Z (State.wakeMx s core) := by
  unfold State.wakeMx
  repeat' first
    | extract_lets
    | with_reducible assumption
    | exact sub_trans rfl hK
    | exact bit_of rfl hK
    | split
    | with_reducible apply updCore_same

theorem writeSlot_same {K : Nat} {Z : State} (s : State) (core : Nat) (hK : 88 &&& K = 88) (hZ : Same K Z s) :
    Same K Z (State.writeSlot s core) := by
  unfold State.writeSlot
  repeat' first
    | extract_lets
    | with_reducible assumption
    | exact sub_trans rfl hK
    | exact bit_of rfl hK
    | split
    | with_reducible apply writeBytes_same

theorem installMx_same {K : Nat} {Z : State} (s : State) (core : Nat) (hK : 393304 &&& K = 393304) (hZ : Same K Z s) :
    Same K Z (State.installMx s core) := by
  unfold State.installMx
  repeat' first
    | extract_lets
    | with_reducible assumption
    | exact sub_trans rfl hK
    | exact bit_of rfl hK
    | split
    | with_reducible apply updCore_same
    | with_reducible apply updGroup_same
    | with_reducible apply writeSlot_same
    | dsimp +zetaDelta only

theorem releaseUnit_same {K : Nat} {Z : State} (s : State) (core : Nat) (hK : 393304 &&& K = 393304) (hZ : Same K Z s) :
    Same K Z (State.releaseUnit s core) := by
  unfold State.releaseUnit
  repeat' first
    | extract_lets
    | with_reducible assumption
    | exact sub_trans rfl hK
    | exact bit_of rfl hK
    | split
    | with_reducible apply installMx_same
    | with_reducible apply updCore_same
    | with_reducible apply wakeMx_same

theorem dropChainWaiters_same {K : Nat} {Z : State} (s : State) (core : Nat) (slot : Nat) (hK : 274878431232 &&& K = 274878431232) (hZ : Same K Z s) :
    Same K Z (State.dropChainWaiters s core slot) := by
  unfold State.dropChainWaiters
  repeat' first
    | extract_lets
    | with_reducible assumption
    | exact sub_trans rfl hK
    | exact bit_of rfl hK
    | split
    | with_reducible apply Same.waiters_upd
    | with_reducible apply Same.fab_upd
    | dsimp +zetaDelta only
    | exact Or.inl (bit_of rfl hK)
    | exact Or.inr rfl
    | exact rfl
    | with_reducible apply Same.mk_upd

theorem leaveMxq_same {K : Nat} {Z : State} (s : State) (core : Nat) (slot : Nat) (hK : 131072 &&& K = 131072) (hZ : Same K Z s) :
    Same K Z (State.leaveMxq s core slot) := by
  unfold State.leaveMxq
  repeat' first
    | extract_lets
    | with_reducible assumption
    | exact sub_trans rfl hK
    | exact bit_of rfl hK
    | split
    | with_reducible apply updCore_same

theorem clearSlots_same {K : Nat} {Z : State} (s : State) (core : Nat) (a2 : List Nat) (hK : 274878562304 &&& K = 274878562304) (hZ : Same K Z s) :
    Same K Z (State.clearSlots s core a2) := by
  induction a2 generalizing s core with
  | nil => exact hZ
  | cons ca cr ih =>
    unfold State.clearSlots
    repeat' first
      | extract_lets
      | with_reducible assumption
      | exact sub_trans rfl hK
      | exact bit_of rfl hK
      | with_reducible apply ih
      | split
      | with_reducible apply dropChainWaiters_same
      | with_reducible apply leaveMxq_same
      | with_reducible apply updCore_same

theorem dropGroup_same {K : Nat} {Z : State} (s : State) (cid : Nat) (g : Nat) (hK : 274878824536 &&& K = 274878824536) (hZ : Same K Z s) :
    Same K Z (State.dropGroup s cid g) := by
  unfold State.dropGroup
  repeat' first
    | extract_lets
    | with_reducible assumption
    | exact sub_trans rfl hK
    | exact bit_of rfl hK
    | split
    | with_reducible apply clearSlots_same
    | with_reducible apply releaseUnit_same
    | with_reducible apply Same.groups_upd
    | dsimp +zetaDelta only

theorem stopGroups_same {K : Nat} {Z : State} (s : State) (cid : Nat) (hK : 274878824536 &&& K = 274878824536) (hZ : Same K Z s) :
    Same K Z (State.stopGroups s cid) := by
  unfold State.stopGroups
  repeat' first
    | extract_lets
    | with_reducible assumption
    | exact sub_trans rfl hK
    | exact bit_of rfl hK
    | split
    | with_reducible apply dropChainWaiters_same
    | with_reducible apply dropGroup_same
    | with_reducible apply updGroup_same
    | with_reducible apply Same.foldl
    | intro _

theorem dropGroups_same {K : Nat} {Z : State} (s : State) (cid : Nat) (hK : 274878824536 &&& K = 274878824536) (hZ : Same K Z s) :
    Same K Z (State.dropGroups s cid) := by
  unfold State.dropGroups
  repeat' first
    | extract_lets
    | with_reducible assumption
    | exact sub_trans rfl hK
    | exact bit_of rfl hK
    | split
    | with_reducible apply dropGroup_same
    | with_reducible apply Same.foldl
    | intro _

theorem preempt_same {K : Nat} {Z : State} (s : State) (cid : Nat) (g : Nat) (toReset : Bool) (hK : 393216 &&& K = 393216) (hZ : Same K Z s) :
    Same K Z (State.preempt s cid g toReset) := by
  unfold State.preempt
  repeat' first
    | extract_lets
    | with_reducible assumption
    | exact sub_trans rfl hK
    | exact bit_of rfl hK
    | split
    | with_reducible apply updChain_same
    | with_reducible apply updGroup_same
    | with_reducible apply Same.foldl
    | intro _

theorem saveWaits_same {K : Nat} {Z : State} (s : State) (core : Nat) (slot : Nat) (hK : 274877906944 &&& K = 274877906944) (hZ : Same K Z s) :
    Same K Z (State.saveWaits s core slot) := by
  unfold State.saveWaits
  repeat' first
    | extract_lets
    | with_reducible assumption
    | exact sub_trans rfl hK
    | exact bit_of rfl hK
    | split
    | with_reducible apply Same.fab_upd

theorem saveGroup_same {K : Nat} {Z : State} (s : State) (cid : Nat) (g : Nat) (hK : 274883018840 &&& K = 274883018840) (hZ : Same K Z s) :
    Same K Z (State.saveGroup s cid g) := by
  unfold State.saveGroup
  repeat' first
    | extract_lets
    | with_reducible assumption
    | exact sub_trans rfl hK
    | exact bit_of rfl hK
    | split
    | with_reducible apply clearSlots_same
    | with_reducible apply releaseUnit_same
    | with_reducible apply saveWaits_same
    | with_reducible apply updGroup_same
    | with_reducible apply updHide_same
    | with_reducible apply writeBytes_same
    | with_reducible apply Same.foldl
    | intro _
    | dsimp +zetaDelta only

theorem updAcre_same {K : Nat} {Z : State} (s : State) (h : Nat) (f : Acre → Acre) (hK : 4194304 &&& K = 4194304) (hZ : Same K Z s) :
    Same K Z (State.updAcre s h f) := by
  unfold State.updAcre
  repeat' first
    | extract_lets
    | with_reducible assumption
    | exact sub_trans rfl hK
    | exact bit_of rfl hK
    | split
    | with_reducible apply updHide_same

theorem releaseUnits_same {K : Nat} {Z : State} (s : State) (h : Nat) (hK : 131072 &&& K = 131072) (hZ : Same K Z s) :
    Same K Z (State.releaseUnits s h) := by
  unfold State.releaseUnits
  repeat' first
    | extract_lets
    | with_reducible assumption
    | exact sub_trans rfl hK
    | exact bit_of rfl hK
    | split
    | with_reducible apply updCore_same
    | with_reducible apply wakeMx_same
    | with_reducible apply Same.foldl
    | intro _

theorem acreBoundary_same {K : Nat} {Z : State} (s : State) (h : Nat) (hK : 4194304 &&& K = 4194304) (hZ : Same K Z s) :
    Same K Z (State.acreBoundary s h) := by
  unfold State.acreBoundary
  repeat' first
    | extract_lets
    | with_reducible assumption
    | exact sub_trans rfl hK
    | exact bit_of rfl hK
    | split
    | with_reducible apply updAcre_same

theorem acreLeft_same {K : Nat} {Z : State} (s : State) (h : Nat) (hK : 4325376 &&& K = 4325376) (hZ : Same K Z s) :
    Same K Z (State.acreLeft s h) := by
  unfold State.acreLeft
  repeat' first
    | extract_lets
    | with_reducible assumption
    | exact sub_trans rfl hK
    | exact bit_of rfl hK
    | split
    | with_reducible apply acreBoundary_same
    | with_reducible apply releaseUnits_same

theorem dropAcre_same {K : Nat} {Z : State} (s : State) (h : Nat) (cid : Nat) (hK : 4325376 &&& K = 4325376) (hZ : Same K Z s) :
    Same K Z (State.dropAcre s h cid) := by
  unfold State.dropAcre
  repeat' first
    | extract_lets
    | with_reducible assumption
    | exact sub_trans rfl hK
    | exact bit_of rfl hK
    | split
    | with_reducible apply acreLeft_same
    | with_reducible apply updAcre_same
    | dsimp +zetaDelta only

theorem dropChans_same {K : Nat} {Z : State} (s : State) (cid : Nat) (hK : 834036960220 &&& K = 834036960220) (hZ : Same K Z s) :
    Same K Z (State.dropChans s cid) := by
  unfold State.dropChans
  repeat' first
    | extract_lets
    | with_reducible assumption
    | exact sub_trans rfl hK
    | exact bit_of rfl hK
    | split
    | with_reducible apply abortChan_same
    | with_reducible apply freeChan_same
    | with_reducible apply Same.foldl
    | intro _

theorem updEngine_same {K : Nat} {Z : State} (s : State) (e : Nat) (f : Engine → Engine) (hK : 68719476736 &&& K = 68719476736) (hZ : Same K Z s) :
    Same K Z (State.updEngine s e f) := by
  unfold State.updEngine
  repeat' first
    | extract_lets
    | with_reducible assumption
    | exact sub_trans rfl hK
    | exact bit_of rfl hK
    | split
    | with_reducible apply Same.engines_upd

theorem abortForeign_same {K : Nat} {Z : State} (s : State) (c : Cmd) (hK : 618475290624 &&& K = 618475290624) (hZ : Same K Z s) :
    Same K Z (State.abortForeign s c) := by
  unfold State.abortForeign
  repeat' first
    | extract_lets
    | with_reducible assumption
    | exact sub_trans rfl hK
    | exact bit_of rfl hK
    | split
    | with_reducible apply emit_same
    | with_reducible apply updEngine_same

theorem updPlan_same {K : Nat} {Z : State} (s : State) (p : Nat) (f : Plan → Plan) (hK : 33554432 &&& K = 33554432) (hZ : Same K Z s) :
    Same K Z (State.updPlan s p f) := by
  unfold State.updPlan
  repeat' first
    | extract_lets
    | with_reducible assumption
    | exact sub_trans rfl hK
    | exact bit_of rfl hK
    | split
    | with_reducible apply Same.plans_upd

theorem updSeq_same {K : Nat} {Z : State} (s : State) (e : Nat) (f : Seq → Seq) (hK : 67108864 &&& K = 67108864) (hZ : Same K Z s) :
    Same K Z (State.updSeq s e f) := by
  unfold State.updSeq
  repeat' first
    | extract_lets
    | with_reducible assumption
    | exact sub_trans rfl hK
    | exact bit_of rfl hK
    | split
    | with_reducible apply Same.seqs_upd

theorem endWrites_same {K : Nat} {Z : State} (s : State) (cid : Nat) (st : Nat) (err : Option ErrInfo) (hK : 558349945560 &&& K = 558349945560) (hZ : Same K Z s) :
    Same K Z (State.endWrites s cid st err) := by
  unfold State.endWrites
  repeat' first
    | extract_lets
    | with_reducible assumption
    | exact sub_trans rfl hK
    | exact bit_of rfl hK
    | split
    | with_reducible apply complete_same
    | with_reducible apply decided_same
    | with_reducible apply updCmd_same

theorem putSsb_same {K : Nat} {Z : State} (s : State) (cid : Nat) (c : Nat) (pa : Nat) (id : Nat) (state : Nat) (hold : Nat) (pos : Nat) (emitted : Nat) (stopped : Bool) (hK : 833231653848 &&& K = 833231653848) (hZ : Same K Z s) :
    Same K Z (State.putSsb s cid c pa id state hold pos emitted stopped) := by
  unfold State.putSsb
  repeat' first
    | extract_lets
    | with_reducible assumption
    | exact sub_trans rfl hK
    | exact bit_of rfl hK
    | split
    | with_reducible apply post_same

theorem seqSsb_same {K : Nat} {Z : State} (s : State) (cid : Nat) (e : Nat) (hK : 833231653848 &&& K = 833231653848) (hZ : Same K Z s) :
    Same K Z (State.seqSsb s cid e) := by
  unfold State.seqSsb
  repeat' first
    | extract_lets
    | with_reducible assumption
    | exact sub_trans rfl hK
    | exact bit_of rfl hK
    | split
    | with_reducible apply putSsb_same
    | dsimp +zetaDelta only

theorem freeSsb_same {K : Nat} {Z : State} (s : State) (cid : Nat) (c : Nat) (pa : Nat) (hK : 833231653848 &&& K = 833231653848) (hZ : Same K Z s) :
    Same K Z (State.freeSsb s cid c pa) := by
  unfold State.freeSsb
  repeat' first
    | extract_lets
    | with_reducible assumption
    | exact sub_trans rfl hK
    | exact bit_of rfl hK
    | split
    | with_reducible apply post_same

theorem closeSeq_same {K : Nat} {Z : State} (s : State) (cid : Nat) (e : Nat) (hK : 834406058968 &&& K = 834406058968) (hZ : Same K Z s) :
    Same K Z (State.closeSeq s cid e) := by
  unfold State.closeSeq
  repeat' first
    | extract_lets
    | with_reducible assumption
    | exact sub_trans rfl hK
    | exact bit_of rfl hK
    | split
    | with_reducible apply freeSsb_same
    | with_reducible apply updPlan_same
    | with_reducible apply updSeq_same
    | with_reducible apply wmCheck_same
    | dsimp +zetaDelta only

theorem closeWaiting_same {K : Nat} {Z : State} (s : State) (e : Nat) (hK : 834406058968 &&& K = 834406058968) (hZ : Same K Z s) :
    Same K Z (State.closeWaiting s e) := by
  unfold State.closeWaiting
  repeat' first
    | extract_lets
    | with_reducible assumption
    | exact sub_trans rfl hK
    | exact bit_of rfl hK
    | split
    | with_reducible apply closeSeq_same
    | with_reducible apply endWrites_same
    | with_reducible apply updSeq_same

theorem undoOne_same {K : Nat} {Z : State} (s : State) (cid : Nat) (x : Nat × Seq × List Byte) (hK : 833298762712 &&& K = 833298762712) (hZ : Same K Z s) :
    Same K Z (State.undoOne s cid x) := by
  unfold State.undoOne
  repeat' first
    | extract_lets
    | with_reducible assumption
    | exact sub_trans rfl hK
    | exact bit_of rfl hK
    | split
    | with_reducible apply post_same
    | with_reducible apply updSeq_same
    | dsimp +zetaDelta only

theorem abandonStep_same {K : Nat} {Z : State} (s : State) (p : Nat) (hK : 834406058968 &&& K = 834406058968) (hZ : Same K Z s) :
    Same K Z (State.abandonStep s p) := by
  unfold State.abandonStep
  repeat' first
    | extract_lets
    | with_reducible assumption
    | exact sub_trans rfl hK
    | exact bit_of rfl hK
    | split
    | with_reducible apply closeWaiting_same
    | with_reducible apply undoOne_same
    | with_reducible apply updPlan_same
    | with_reducible apply wmCheck_same
    | with_reducible apply Same.foldl
    | intro _
    | dsimp +zetaDelta only

theorem leaveEngine_same {K : Nat} {Z : State} (s : State) (cid : Nat) (hK : 902756699100 &&& K = 902756699100) (hZ : Same K Z s) :
    Same K Z (State.leaveEngine s cid) := by
  unfold State.leaveEngine
  repeat' first
    | extract_lets
    | with_reducible assumption
    | exact sub_trans rfl hK
    | exact bit_of rfl hK
    | split
    | with_reducible apply abortForeign_same
    | with_reducible apply dropAcre_same
    | with_reducible apply dropChans_same
    | with_reducible apply dropGroups_same
    | with_reducible apply Same.waiters_upd
    | with_reducible apply Same.fab_upd
    | dsimp +zetaDelta only
    | exact Or.inl (bit_of rfl hK)
    | exact Or.inr rfl
    | exact rfl
    | with_reducible apply Same.mk_upd

theorem leaveStep_same {K : Nat} {Z : State} (s : State) (cid : Nat) (hK : 903931104220 &&& K = 903931104220) (hZ : Same K Z s) :
    Same K Z (State.leaveStep s cid) := by
  unfold State.leaveStep
  repeat' first
    | extract_lets
    | with_reducible assumption
    | exact sub_trans rfl hK
    | exact bit_of rfl hK
    | split
    | with_reducible apply abandonStep_same
    | with_reducible apply dropCmd_same
    | with_reducible apply leaveEngine_same
    | with_reducible apply unqueue_same
    | with_reducible apply Same.plans_upd
    | dsimp +zetaDelta only

theorem killCmd_same {K : Nat} {Z : State} (s : State) (cid : Nat) (st : Nat) (err : Option ErrInfo) (hK : 903931104220 &&& K = 903931104220) (hZ : Same K Z s) :
    Same K Z (State.killCmd s cid st err) := by
  unfold State.killCmd
  repeat' first
    | extract_lets
    | with_reducible assumption
    | exact sub_trans rfl hK
    | exact bit_of rfl hK
    | split
    | with_reducible apply complete_same
    | with_reducible apply leaveEngine_same
    | with_reducible apply leaveStep_same
    | dsimp +zetaDelta only

theorem stopCmd_same {K : Nat} {Z : State} (s : State) (cid : Nat) (st : Nat) (err : Option ErrInfo) (hK : 903931104220 &&& K = 903931104220) (hZ : Same K Z s) :
    Same K Z (State.stopCmd s cid st err) := by
  unfold State.stopCmd
  repeat' first
    | extract_lets
    | with_reducible assumption
    | exact sub_trans rfl hK
    | exact bit_of rfl hK
    | split
    | with_reducible apply decided_same
    | with_reducible apply leaveEngine_same
    | with_reducible apply leaveStep_same
    | with_reducible apply stopGroups_same
    | with_reducible apply updCmd_same
    | dsimp +zetaDelta only

theorem freeObjects_same {K : Nat} {Z : State} (s : State) (hK : 8192 &&& K = 8192) (hZ : Same K Z s) :
    Same K Z (State.freeObjects s) := by
  unfold State.freeObjects
  repeat' first
    | extract_lets
    | with_reducible assumption
    | exact sub_trans rfl hK
    | exact bit_of rfl hK
    | split
    | with_reducible apply Same.allocs_upd

theorem dropTlb_same {K : Nat} {Z : State} (s : State) (c : Nat) (hK : 32768 &&& K = 32768) (hZ : Same K Z s) :
    Same K Z (State.dropTlb s c) := by
  unfold State.dropTlb
  repeat' first
    | extract_lets
    | with_reducible assumption
    | exact sub_trans rfl hK
    | exact bit_of rfl hK
    | split
    | with_reducible apply Same.tlb_upd

theorem dropCode_same {K : Nat} {Z : State} (s : State) (c : Nat) (hK : 131072 &&& K = 131072) (hZ : Same K Z s) :
    Same K Z (State.dropCode s c) := by
  unfold State.dropCode
  repeat' first
    | extract_lets
    | with_reducible assumption
    | exact sub_trans rfl hK
    | exact bit_of rfl hK
    | split
    | with_reducible apply Same.cores_upd

theorem unloadPlan_same {K : Nat} {Z : State} (s : State) (p : Nat) (hK : 1107296256 &&& K = 1107296256) (hZ : Same K Z s) :
    Same K Z (State.unloadPlan s p) := by
  unfold State.unloadPlan
  repeat' first
    | extract_lets
    | with_reducible assumption
    | exact sub_trans rfl hK
    | exact bit_of rfl hK
    | split
    | with_reducible apply Same.plans_upd
    | with_reducible apply Same.wms_upd
    | dsimp +zetaDelta only
    | exact Or.inl (bit_of rfl hK)
    | exact Or.inr rfl
    | exact rfl
    | with_reducible apply Same.mk_upd

theorem dropServing_same {K : Nat} {Z : State} (s : State) (c : Nat) (hK : 559524348120 &&& K = 559524348120) (hZ : Same K Z s) :
    Same K Z (State.dropServing s c) := by
  unfold State.dropServing
  repeat' first
    | extract_lets
    | with_reducible assumption
    | exact sub_trans rfl hK
    | exact bit_of rfl hK
    | split
    | with_reducible apply unloadPlan_same
    | with_reducible apply updHide_same
    | with_reducible apply wmCheck_same
    | with_reducible apply Same.foldl
    | with_reducible apply Same.seqs_upd
    | intro _
    | dsimp +zetaDelta only

theorem forgetBuild_same {K : Nat} {Z : State} (s : State) (c : Nat) (hK : 100663296 &&& K = 100663296) (hZ : Same K Z s) :
    Same K Z (State.forgetBuild s c) := by
  unfold State.forgetBuild
  repeat' first
    | extract_lets
    | with_reducible assumption
    | exact sub_trans rfl hK
    | exact bit_of rfl hK
    | split
    | with_reducible apply Same.plans_upd
    | with_reducible apply Same.seqs_upd
    | dsimp +zetaDelta only
    | exact Or.inl (bit_of rfl hK)
    | exact Or.inr rfl
    | exact rfl
    | with_reducible apply Same.mk_upd

theorem markGone_same {K : Nat} {Z : State} (s : State) (fn : Nat) (c : Nat) (hK : 128 &&& K = 128) (hZ : Same K Z s) :
    Same K Z (State.markGone s fn c) := by
  unfold State.markGone
  repeat' first
    | extract_lets
    | with_reducible assumption
    | exact sub_trans rfl hK
    | exact bit_of rfl hK
    | split
    | with_reducible apply updFn_same

theorem destroyCtx_same {K : Nat} {Z : State} (s : State) (c : Nat) (st : Nat) (err : Option ErrInfo) (asked : Option Nat) (hK : 903931149276 &&& K = 903931149276) (hZ : Same K Z s) :
    Same K Z (State.destroyCtx s c st err asked) := by
  unfold State.destroyCtx
  repeat' first
    | extract_lets
    | with_reducible assumption
    | exact sub_trans rfl hK
    | exact bit_of rfl hK
    | split
    | with_reducible apply complete_same
    | with_reducible apply dropCode_same
    | with_reducible apply dropServing_same
    | with_reducible apply dropTlb_same
    | with_reducible apply emit_same
    | with_reducible apply forgetBuild_same
    | with_reducible apply freeObjects_same
    | with_reducible apply killCmd_same
    | with_reducible apply markGone_same
    | with_reducible apply updCtx_same
    | with_reducible apply wmCheck_same
    | with_reducible apply Same.foldl
    | with_reducible apply Same.store_upd
    | with_reducible apply Same.live_upd
    | with_reducible apply Same.allocs_upd
    | intro _
    | dsimp +zetaDelta only
    | exact Or.inl (bit_of rfl hK)
    | exact Or.inr rfl
    | exact rfl
    | with_reducible apply Same.mk_upd

theorem bumpGen_same {K : Nat} {Z : State} (s : State) (c : Nat) (hK : 2048 &&& K = 2048) (hZ : Same K Z s) :
    Same K Z (State.bumpGen s c) := by
  unfold State.bumpGen
  repeat' first
    | extract_lets
    | with_reducible assumption
    | exact sub_trans rfl hK
    | exact bit_of rfl hK
    | split
    | with_reducible apply updCtx_same

theorem restartCmd_same {K : Nat} {Z : State} (s : State) (c : Cmd) (hK : 902756699100 &&& K = 902756699100) (hZ : Same K Z s) :
    Same K Z (State.restartCmd s c) := by
  unfold State.restartCmd
  repeat' first
    | extract_lets
    | with_reducible assumption
    | exact sub_trans rfl hK
    | exact bit_of rfl hK
    | split
    | with_reducible apply leaveEngine_same
    | with_reducible apply unqueue_same
    | with_reducible apply updCmd_same
    | with_reducible apply updHide_same
    | dsimp +zetaDelta only

theorem fenceCmd_same {K : Nat} {Z : State} (s : State) (c : Cmd) (hK : 903931104220 &&& K = 903931104220) (hZ : Same K Z s) :
    Same K Z (State.fenceCmd s c) := by
  unfold State.fenceCmd
  repeat' first
    | extract_lets
    | with_reducible assumption
    | exact sub_trans rfl hK
    | exact bit_of rfl hK
    | split
    | with_reducible apply abortForeign_same
    | with_reducible apply decided_same
    | with_reducible apply dropGroups_same
    | with_reducible apply leaveStep_same
    | with_reducible apply preempt_same
    | with_reducible apply restartCmd_same
    | with_reducible apply updCmd_same
    | with_reducible apply Same.foldl
    | intro _
    | dsimp +zetaDelta only

theorem fenceCtx_same {K : Nat} {Z : State} (s : State) (c : Nat) (recovering : Bool) (hK : 903931104220 &&& K = 903931104220) (hZ : Same K Z s) :
    Same K Z (State.fenceCtx s c recovering) := by
  unfold State.fenceCtx
  repeat' first
    | extract_lets
    | with_reducible assumption
    | exact sub_trans rfl hK
    | exact bit_of rfl hK
    | split
    | with_reducible apply bumpGen_same
    | with_reducible apply fenceCmd_same
    | with_reducible apply updCtx_same
    | with_reducible apply Same.foldl
    | intro _
    | dsimp +zetaDelta only

theorem staleGen_same {K : Nat} {Z : State} (s : State) (c : Nat) (hK : 4196352 &&& K = 4196352) (hZ : Same K Z s) :
    Same K Z (State.staleGen s c) := by
  unfold State.staleGen
  repeat' first
    | extract_lets
    | with_reducible assumption
    | exact sub_trans rfl hK
    | exact bit_of rfl hK
    | split
    | with_reducible apply updCtx_same
    | with_reducible apply updHide_same

theorem park_same {K : Nat} {Z : State} (s : State) (c : Nat) (hK : 902756699100 &&& K = 902756699100) (hZ : Same K Z s) :
    Same K Z (State.park s c) := by
  unfold State.park
  repeat' first
    | extract_lets
    | with_reducible assumption
    | exact sub_trans rfl hK
    | exact bit_of rfl hK
    | split
    | with_reducible apply postNotice_same
    | with_reducible apply preempt_same
    | with_reducible apply restartCmd_same
    | with_reducible apply updChan_same
    | with_reducible apply updCtx_same
    | with_reducible apply Same.foldl
    | intro _
    | dsimp +zetaDelta only

theorem load_same {K : Nat} {Z : State} (s : State) (c : Nat) (hK : 268437504 &&& K = 268437504) (hZ : Same K Z s) :
    Same K Z (State.load s c) := by
  unfold State.load
  repeat' first
    | extract_lets
    | with_reducible assumption
    | exact sub_trans rfl hK
    | exact bit_of rfl hK
    | split
    | with_reducible apply updChan_same
    | with_reducible apply updCtx_same
    | with_reducible apply Same.foldl
    | intro _

theorem makeResident_same {K : Nat} {Z : State} {s : State} {c : Nat} {t : State} (h : s.makeResident c = some t)
    (hK : 902756699100 &&& K = 902756699100) (hZ : Same K Z s) : Same K Z t := by
  unfold State.makeResident at h
  split at h
  · cases h
    repeat' first
      | extract_lets
      | with_reducible assumption
      | exact sub_trans rfl hK
      | exact bit_of rfl hK
      | split
      | with_reducible apply load_same
      | with_reducible apply park_same
      | with_reducible apply updCtx_same
  · split at h
    · cases h
      repeat' first
        | extract_lets
        | with_reducible assumption
        | exact sub_trans rfl hK
        | exact bit_of rfl hK
        | split
        | with_reducible apply load_same
    · rw [Option.map_eq_some_iff] at h
      obtain ⟨_, _, rfl⟩ := h
      repeat' first
        | extract_lets
        | with_reducible assumption
        | exact sub_trans rfl hK
        | exact bit_of rfl hK
        | split
        | with_reducible apply load_same
        | with_reducible apply park_same

end Sys2Proof.Laws
end

