-- ==== Sys2Proof/Laws/FrameTranslate.lean ====
section
/-! SUPPORT. Frames of the operations of Machine/Translate.lean: the fields that each may change. -/

namespace Sys2Proof.Laws

open Sys2Proof.Machine

theorem writeExt_same {K : Nat} {Z : State} (s : State) (id : Nat) (a : Asker) (ps : List Piece) (ext : Nat) (off : Nat) (bs : List Byte) (hK : 833231653848 &&& K = 833231653848) (hZ : Same K Z s) :
    Same K Z (State.writeExt s id a ps ext off bs) := by
  unfold State.writeExt
  repeat' first
    | extract_lets
    | with_reducible assumption
    | exact sub_trans rfl hK
    | exact bit_of rfl hK
    | split
    | with_reducible apply post_same

theorem gateExt_same {K : Nat} {Z : State} (s : State) (cid : Nat) (c : Nat) (ps : List Piece) (ext : Nat) (off : Nat) (bs : List Byte) (hK : 833231653848 &&& K = 833231653848) (hZ : Same K Z s) :
    Same K Z (State.gateExt s cid c ps ext off bs) := by
  unfold State.gateExt
  repeat' first
    | extract_lets
    | with_reducible assumption
    | exact sub_trans rfl hK
    | exact bit_of rfl hK
    | split
    | with_reducible apply writeExt_same

theorem tlbAdd_same {K : Nat} {Z : State} (s : State) (e : TlbEnt) (hK : 32768 &&& K = 32768) (hZ : Same K Z s) :
    Same K Z (State.tlbAdd s e) := by
  unfold State.tlbAdd
  repeat' first
    | extract_lets
    | with_reducible assumption
    | exact sub_trans rfl hK
    | exact bit_of rfl hK
    | split
    | with_reducible apply Same.tlb_upd
    | dsimp +zetaDelta only

theorem tlbTouch_same {K : Nat} {Z : State} (s : State) (c : Nat) (ps : List Piece) (hK : 32768 &&& K = 32768) (hZ : Same K Z s) :
    Same K Z (State.tlbTouch s c ps) := by
  unfold State.tlbTouch
  repeat' first
    | extract_lets
    | with_reducible assumption
    | exact sub_trans rfl hK
    | exact bit_of rfl hK
    | split
    | with_reducible apply tlbAdd_same
    | with_reducible apply Same.foldl
    | intro _

theorem loadRuns_same {K : Nat} {Z : State} (s : State) (c : Nat) (locked : Bool) (runs : List (Nat × Nat)) (hK : 32768 &&& K = 32768) (hZ : Same K Z s) :
    Same K Z (State.loadRuns s c locked runs) := by
  unfold State.loadRuns
  repeat' first
    | extract_lets
    | with_reducible assumption
    | exact sub_trans rfl hK
    | exact bit_of rfl hK
    | split
    | with_reducible apply tlbAdd_same
    | with_reducible apply Same.foldl
    | intro _

theorem lockCtx_same {K : Nat} {Z : State} (s : State) (c : Nat) (hK : 558345781464 &&& K = 558345781464) (hZ : Same K Z s) :
    Same K Z (State.lockCtx s c) := by
  unfold State.lockCtx
  repeat' first
    | extract_lets
    | with_reducible assumption
    | exact sub_trans rfl hK
    | exact bit_of rfl hK
    | split
    | with_reducible apply loadRuns_same
    | with_reducible apply postErr_same
    | dsimp +zetaDelta only

theorem unlockCtx_same {K : Nat} {Z : State} (s : State) (c : Nat) (hK : 32768 &&& K = 32768) (hZ : Same K Z s) :
    Same K Z (State.unlockCtx s c) := by
  unfold State.unlockCtx
  repeat' first
    | extract_lets
    | with_reducible assumption
    | exact sub_trans rfl hK
    | exact bit_of rfl hK
    | split
    | with_reducible apply Same.tlb_upd

theorem storeTouch_same {K : Nat} {Z : State} (s : State) (fn : Nat) (q : Nat) (pa : Nat) (len : Nat) (bits : Nat) (hK : 256 &&& K = 256) (hZ : Same K Z s) :
    Same K Z (State.storeTouch s fn q pa len bits) := by
  unfold State.storeTouch
  repeat' first
    | extract_lets
    | with_reducible assumption
    | exact sub_trans rfl hK
    | exact bit_of rfl hK
    | split
    | with_reducible apply Same.store_upd
    | dsimp +zetaDelta only

end Sys2Proof.Laws
end

