-- ==== Sys2Proof/Laws/FrameGate.lean ====
section
/-! SUPPORT. Frames of the operations of Machine/Gate.lean: the fields that each may change. -/

namespace Sys2Proof.Laws

open Sys2Proof.Machine

theorem retime_same {K : Nat} {Z : State} (s : State) (hK : 512 &&& K = 512) (hZ : Same K Z s) :
    Same K Z (State.retime s) := by
  unfold State.retime
  repeat' first
    | extract_lets
    | with_reducible assumption
    | exact sub_trans rfl hK
    | exact bit_of rfl hK
    | split
    | with_reducible apply Same.cmds_upd

theorem progress_same {K : Nat} {Z : State} (s : State) (cid : Nat) (hK : 512 &&& K = 512) (hZ : Same K Z s) :
    Same K Z (State.progress s cid) := by
  unfold State.progress
  repeat' first
    | extract_lets
    | with_reducible assumption
    | exact sub_trans rfl hK
    | exact bit_of rfl hK
    | split
    | with_reducible apply updCmd_same

theorem hostPut_same {K : Nat} {Z : State} (s : State) (fn : Nat) (io : Nat) (bs : List Byte) (hK : 88 &&& K = 88) (hZ : Same K Z s) :
    Same K Z (State.hostPut s fn io bs) := by
  unfold State.hostPut
  repeat' first
    | extract_lets
    | with_reducible assumption
    | exact sub_trans rfl hK
    | exact bit_of rfl hK
    | split
    | with_reducible apply writeCells_same

theorem writeBackPage_same {K : Nat} {Z : State} (s : State) (c : Nat) (m : Mapping) (hK : 10328 &&& K = 10328) (hZ : Same K Z s) :
    Same K Z (State.writeBackPage s c m) := by
  unfold State.writeBackPage
  repeat' first
    | extract_lets
    | with_reducible assumption
    | exact sub_trans rfl hK
    | exact bit_of rfl hK
    | split
    | with_reducible apply hostPut_same
    | with_reducible apply updCtx_same
    | with_reducible apply Same.allocs_upd
    | dsimp +zetaDelta only

theorem startMigration_same {K : Nat} {Z : State} (s : State) (w : Who) (va : Nat) (hK : 559419500760 &&& K = 559419500760) (hZ : Same K Z s) :
    Same K Z (State.startMigration s w va) := by
  unfold State.startMigration
  repeat' first
    | extract_lets
    | with_reducible assumption
    | exact sub_trans rfl hK
    | exact bit_of rfl hK
    | split
    | with_reducible apply updCtx_same
    | with_reducible apply wmCheck_same
    | with_reducible apply writeBackPage_same
    | with_reducible apply zeroRun_same
    | with_reducible apply Same.allocs_upd
    | dsimp +zetaDelta only

theorem touchMaps_same {K : Nat} {Z : State} (s : State) (c : Nat) (ps : List Piece) (hK : 2048 &&& K = 2048) (hZ : Same K Z s) :
    Same K Z (State.touchMaps s c ps) := by
  unfold State.touchMaps
  repeat' first
    | extract_lets
    | with_reducible assumption
    | exact sub_trans rfl hK
    | exact bit_of rfl hK
    | split
    | with_reducible apply updCtx_same

theorem keepSide_same {K : Nat} {Z : State} (s : State) (c : Cmd) (v : Val) (hK : 256 &&& K = 256) (hZ : Same K Z s) :
    Same K Z (State.keepSide s c v) := by
  unfold State.keepSide
  repeat' first
    | extract_lets
    | with_reducible assumption
    | exact sub_trans rfl hK
    | exact bit_of rfl hK
    | split
    | with_reducible apply storeTouch_same
    | dsimp +zetaDelta only

theorem askSide_same {K : Nat} {Z : State} (s : State) (c : Cmd) (pa : Nat) (len : Nat) (hK : 824633720832 &&& K = 824633720832) (hZ : Same K Z s) :
    Same K Z (State.askSide s c pa len) := by
  unfold State.askSide
  repeat' first
    | extract_lets
    | with_reducible assumption
    | exact sub_trans rfl hK
    | exact bit_of rfl hK
    | split
    | with_reducible apply emit_same
    | with_reducible apply sendReq_same
    | dsimp +zetaDelta only

theorem applyVal_same {K : Nat} {Z : State} (s : State) (cid : Nat) (hK : 834301635544 &&& K = 834301635544) (hZ : Same K Z s) :
    Same K Z (State.applyVal s cid) := by
  unfold State.applyVal
  repeat' first
    | extract_lets
    | with_reducible assumption
    | exact sub_trans rfl hK
    | exact bit_of rfl hK
    | split
    | with_reducible apply askSide_same
    | with_reducible apply complete_same
    | with_reducible apply emit_same
    | with_reducible apply keepSide_same
    | with_reducible apply startMigration_same
    | with_reducible apply tlbTouch_same
    | with_reducible apply touchMaps_same
    | with_reducible apply updCmd_same

theorem gotSide_same {K : Nat} {Z : State} (s : State) (cid : Nat) (pa : Nat) (len : Nat) (hK : 834301635544 &&& K = 834301635544) (hZ : Same K Z s) :
    Same K Z (State.gotSide s cid pa len) := by
  unfold State.gotSide
  repeat' first
    | extract_lets
    | with_reducible assumption
    | exact sub_trans rfl hK
    | exact bit_of rfl hK
    | split
    | with_reducible apply applyVal_same
    | with_reducible apply updCmd_same
    | dsimp +zetaDelta only

theorem letIn_same {K : Nat} {Z : State} (s : State) (n : Nat) (q : Nat) (cid : Nat) (hK : 834301635544 &&& K = 834301635544) (hZ : Same K Z s) :
    Same K Z (State.letIn s n q cid) := by
  unfold State.letIn
  repeat' first
    | extract_lets
    | with_reducible assumption
    | exact sub_trans rfl hK
    | exact bit_of rfl hK
    | split
    | with_reducible apply applyVal_same
    | with_reducible apply updQueue_same

theorem accept_same {K : Nat} {Z : State} (s : State) (n : Nat) (q : Nat) (hK : 834301636568 &&& K = 834301636568) (hZ : Same K Z s) :
    Same K Z (State.accept s n q) := by
  unfold State.accept
  repeat' first
    | extract_lets
    | with_reducible assumption
    | exact sub_trans rfl hK
    | exact bit_of rfl hK
    | split
    | with_reducible apply applyVal_same
    | with_reducible apply letIn_same
    | with_reducible apply updCtx_same
    | with_reducible apply updQueue_same
    | with_reducible apply Same.cmds_upd
    | with_reducible apply Same.nextCid_upd
    | dsimp +zetaDelta only
    | exact Or.inl (bit_of rfl hK)
    | exact Or.inr rfl
    | exact rfl
    | with_reducible apply Same.mk_upd

theorem activateQueue_same {K : Nat} {Z : State} (s : State) (h : Nat) (n : Nat) (q : Nat) (hK : 128 &&& K = 128) (hZ : Same K Z s) :
    Same K Z (State.activateQueue s h n q) := by
  unfold State.activateQueue
  repeat' first
    | extract_lets
    | with_reducible assumption
    | exact sub_trans rfl hK
    | exact bit_of rfl hK
    | split
    | with_reducible apply updFn_same
    | with_reducible apply updQueue_same
    | dsimp +zetaDelta only

theorem lookClass2_same {K : Nat} {Z : State} (s : State) (h : Nat) (hK : 128 &&& K = 128) (hZ : Same K Z s) :
    Same K Z (State.lookClass2 s h) := by
  unfold State.lookClass2
  repeat' first
    | extract_lets
    | with_reducible assumption
    | exact sub_trans rfl hK
    | exact bit_of rfl hK
    | split
    | with_reducible apply activateQueue_same
    | with_reducible apply updQueue_same
    | with_reducible apply Same.foldl
    | with_reducible apply Same.fns_upd
    | intro _
    | dsimp +zetaDelta only

theorem enterQueue_same {K : Nat} {Z : State} (s : State) (c : Cmd) (hK : 34363933184 &&& K = 34363933184) (hZ : Same K Z s) :
    Same K Z (State.enterQueue s c) := by
  unfold State.enterQueue
  repeat' first
    | extract_lets
    | with_reducible assumption
    | exact sub_trans rfl hK
    | exact bit_of rfl hK
    | split
    | with_reducible apply drawNext_same
    | with_reducible apply retime_same
    | with_reducible apply updCmd_same
    | with_reducible apply updHide_same
    | dsimp +zetaDelta only

theorem schedule_same {K : Nat} {Z : State} (s : State) (h : Nat) (hK : 868661373912 &&& K = 868661373912) (hZ : Same K Z s) :
    Same K Z (State.schedule s h) := by
  unfold State.schedule
  repeat' first
    | extract_lets
    | with_reducible assumption
    | exact sub_trans rfl hK
    | exact bit_of rfl hK
    | split
    | with_reducible apply applyVal_same
    | with_reducible apply enterQueue_same
    | with_reducible apply lookClass2_same
    | with_reducible apply updHide_same
    | dsimp +zetaDelta only

theorem sendEvent_same {K : Nat} {Z : State} (s : State) (c : Cmd) (kind : Nat) (hK : 824633720832 &&& K = 824633720832) (hZ : Same K Z s) :
    Same K Z (State.sendEvent s c kind) := by
  unfold State.sendEvent
  repeat' first
    | extract_lets
    | with_reducible assumption
    | exact sub_trans rfl hK
    | exact bit_of rfl hK
    | split
    | with_reducible apply sendReq_same
    | dsimp +zetaDelta only

end Sys2Proof.Laws
end

