-- ==== Sys2Proof/Laws/FrameDict.lean ====
section
/-! SUPPORT. Frames of the operations of Machine/Dict.lean: the fields that each may change. -/

namespace Sys2Proof.Laws

open Sys2Proof.Machine

theorem setStored_same {K : Nat} {Z : State} (s : State) (p : Nat) (idx : Nat) (sub : Nat) (v : Nat) (hK : 4294967296 &&& K = 4294967296) (hZ : Same K Z s) :
    Same K Z (State.setStored s p idx sub v) := by
  unfold State.setStored
  repeat' first
    | extract_lets
    | with_reducible assumption
    | exact sub_trans rfl hK
    | exact bit_of rfl hK
    | split
    | with_reducible apply Same.kod_upd

theorem journalDefault_same {K : Nat} {Z : State} (s : State) (p : Nat) (idx : Nat) (sub : Nat) (hK : 558345748696 &&& K = 558345748696) (hZ : Same K Z s) :
    Same K Z (State.journalDefault s p idx sub) := by
  unfold State.journalDefault
  repeat' first
    | extract_lets
    | with_reducible assumption
    | exact sub_trans rfl hK
    | exact bit_of rfl hK
    | split
    | with_reducible apply journal_same

theorem powerPorts_same {K : Nat} {Z : State} (s : State) (hK : 34359738368 &&& K = 34359738368) (hZ : Same K Z s) :
    Same K Z (State.powerPorts s) := by
  unfold State.powerPorts
  repeat' first
    | extract_lets
    | with_reducible assumption
    | exact sub_trans rfl hK
    | exact bit_of rfl hK
    | split
    | with_reducible apply Same.foldl
    | with_reducible apply Same.pow_upd
    | intro _

theorem capUnits_same {K : Nat} {Z : State} (s : State) (h : Nat) (hK : 4294967296 &&& K = 4294967296) (hZ : Same K Z s) :
    Same K Z (State.capUnits s h) := by
  unfold State.capUnits
  repeat' first
    | extract_lets
    | with_reducible assumption
    | exact sub_trans rfl hK
    | exact bit_of rfl hK
    | split
    | with_reducible apply setRun_same
    | with_reducible apply Same.foldl
    | intro _

theorem applyRestart_same {K : Nat} {Z : State} (s : State) (idx : Nat) (sub : Nat) (hK : 562640716024 &&& K = 562640716024) (hZ : Same K Z s) :
    Same K Z (State.applyRestart s idx sub) := by
  unfold State.applyRestart
  repeat' first
    | extract_lets
    | with_reducible assumption
    | exact sub_trans rfl hK
    | exact bit_of rfl hK
    | split
    | with_reducible apply journalDefault_same
    | with_reducible apply setRun_same
    | with_reducible apply Same.mem_upd
    | with_reducible apply Same.exposed_upd
    | with_reducible apply Same.scrubbed_upd
    | dsimp +zetaDelta only
    | exact Or.inl (bit_of rfl hK)
    | exact Or.inr rfl
    | exact rfl
    | with_reducible apply Same.mk_upd

theorem applyHide_same {K : Nat} {Z : State} (s : State) (h : Nat) (hK : 597000454392 &&& K = 597000454392) (hZ : Same K Z s) :
    Same K Z (State.applyHide s h) := by
  unfold State.applyHide
  repeat' first
    | extract_lets
    | with_reducible assumption
    | exact sub_trans rfl hK
    | exact bit_of rfl hK
    | split
    | with_reducible apply applyRestart_same
    | with_reducible apply capUnits_same
    | with_reducible apply powerPorts_same
    | with_reducible apply Same.foldl
    | intro _
    | dsimp +zetaDelta only

theorem refreshReady_same {K : Nat} {Z : State} (s : State) (n : Nat) (hK : 128 &&& K = 128) (hZ : Same K Z s) :
    Same K Z (State.refreshReady s n) := by
  unfold State.refreshReady
  repeat' first
    | extract_lets
    | with_reducible assumption
    | exact sub_trans rfl hK
    | exact bit_of rfl hK
    | split
    | with_reducible apply updFn_same
    | dsimp +zetaDelta only

theorem refreshAll_same {K : Nat} {Z : State} (s : State) (hK : 128 &&& K = 128) (hZ : Same K Z s) :
    Same K Z (State.refreshAll s) := by
  unfold State.refreshAll
  repeat' first
    | extract_lets
    | with_reducible assumption
    | exact sub_trans rfl hK
    | exact bit_of rfl hK
    | split
    | with_reducible apply refreshReady_same
    | with_reducible apply Same.foldl
    | intro _

theorem logAlarm_same {K : Nat} {Z : State} (s : State) (code : Nat) (hK : 8589934596 &&& K = 8589934596) (hZ : Same K Z s) :
    Same K Z (State.logAlarm s code) := by
  unfold State.logAlarm
  repeat' first
    | extract_lets
    | with_reducible assumption
    | exact sub_trans rfl hK
    | exact bit_of rfl hK
    | split
    | with_reducible apply freshNext_same
    | with_reducible apply Same.ao_upd
    | dsimp +zetaDelta only

theorem postAlarm_same {K : Nat} {Z : State} (s : State) (i : Nat) (hK : 558345748696 &&& K = 558345748696) (hZ : Same K Z s) :
    Same K Z (State.postAlarm s i) := by
  unfold State.postAlarm
  repeat' first
    | extract_lets
    | with_reducible assumption
    | exact sub_trans rfl hK
    | exact bit_of rfl hK
    | split
    | with_reducible apply postGlobal_same
    | with_reducible apply Same.ao_upd
    | dsimp +zetaDelta only

theorem postAlarms_same {K : Nat} {Z : State} (s : State) (hK : 558345748696 &&& K = 558345748696) (hZ : Same K Z s) :
    Same K Z (State.postAlarms s) := by
  unfold State.postAlarms
  repeat' first
    | extract_lets
    | with_reducible assumption
    | exact sub_trans rfl hK
    | exact bit_of rfl hK
    | split
    | with_reducible apply postAlarm_same
    | with_reducible apply Same.foldl
    | intro _

theorem storeAlarm_same {K : Nat} {Z : State} (s : State) (hK : 558345748700 &&& K = 558345748700) (hZ : Same K Z s) :
    Same K Z (State.storeAlarm s) := by
  unfold State.storeAlarm
  repeat' first
    | extract_lets
    | with_reducible assumption
    | exact sub_trans rfl hK
    | exact bit_of rfl hK
    | split
    | with_reducible apply logAlarm_same
    | with_reducible apply postAlarms_same

theorem flashDiscover_same {K : Nat} {Z : State} (s : State) (hK : 554050781184 &&& K = 554050781184) (hZ : Same K Z s) :
    Same K Z (State.flashDiscover s) := by
  unfold State.flashDiscover
  repeat' first
    | extract_lets
    | with_reducible assumption
    | exact sub_trans rfl hK
    | exact bit_of rfl hK
    | split
    | with_reducible apply emit_same
    | with_reducible apply Same.kod_upd

theorem flashRead_same {K : Nat} {Z : State} (s : State) (addr : Nat) (len : Nat) (hK : 549755813888 &&& K = 549755813888) (hZ : Same K Z s) :
    Same K Z (State.flashRead s addr len) := by
  unfold State.flashRead
  repeat' first
    | extract_lets
    | with_reducible assumption
    | exact sub_trans rfl hK
    | exact bit_of rfl hK
    | split
    | with_reducible apply emit_same

theorem flashErase_same {K : Nat} {Z : State} (s : State) (addr : Nat) (len : Nat) (hK : 549755813888 &&& K = 549755813888) (hZ : Same K Z s) :
    Same K Z (State.flashErase s addr len) := by
  unfold State.flashErase
  repeat' first
    | extract_lets
    | with_reducible assumption
    | exact sub_trans rfl hK
    | exact bit_of rfl hK
    | split
    | with_reducible apply emit_same
    | with_reducible apply Same.foldl
    | intro _

theorem flashPages_same {K : Nat} {Z : State} (s : State) (addr : Nat) (bs : List Byte) (a3 : Nat) (hK : 549755813888 &&& K = 549755813888) (hZ : Same K Z s) :
    Same K Z (State.flashPages s addr bs a3) := by
  induction a3 generalizing s addr bs with
  | zero => exact hZ
  | succ cn ih =>
    unfold State.flashPages
    repeat' first
      | extract_lets
      | with_reducible assumption
      | exact sub_trans rfl hK
      | exact bit_of rfl hK
      | with_reducible apply ih
      | split
      | with_reducible apply emit_same
      | dsimp +zetaDelta only

theorem flashProgram_same {K : Nat} {Z : State} (s : State) (addr : Nat) (bs : List Byte) (hK : 549755813888 &&& K = 549755813888) (hZ : Same K Z s) :
    Same K Z (State.flashProgram s addr bs) := by
  unfold State.flashProgram
  repeat' first
    | extract_lets
    | with_reducible assumption
    | exact sub_trans rfl hK
    | exact bit_of rfl hK
    | split
    | with_reducible apply flashPages_same

theorem flashWrite_same {K : Nat} {Z : State} (s : State) (addr : Nat) (bs : List Byte) (hK : 549755813888 &&& K = 549755813888) (hZ : Same K Z s) :
    Same K Z (State.flashWrite s addr bs) := by
  unfold State.flashWrite
  repeat' first
    | extract_lets
    | with_reducible assumption
    | exact sub_trans rfl hK
    | exact bit_of rfl hK
    | split
    | with_reducible apply flashErase_same
    | with_reducible apply flashProgram_same
    | with_reducible apply flashRead_same

theorem writeHeader_same {K : Nat} {Z : State} (s : State) (ok : Bool) (hK : 554050781184 &&& K = 554050781184) (hZ : Same K Z s) :
    Same K Z (State.writeHeader s ok) := by
  unfold State.writeHeader
  repeat' first
    | extract_lets
    | with_reducible assumption
    | exact sub_trans rfl hK
    | exact bit_of rfl hK
    | split
    | with_reducible apply flashWrite_same
    | with_reducible apply Same.kod_upd
    | dsimp +zetaDelta only

theorem readShift_same {K : Nat} {Z : State} (s : State) (h : Nat) (hK : 549755813888 &&& K = 549755813888) (hZ : Same K Z s) :
    Same K Z (State.readShift s h) := by
  unfold State.readShift
  repeat' first
    | extract_lets
    | with_reducible assumption
    | exact sub_trans rfl hK
    | exact bit_of rfl hK
    | split
    | with_reducible apply flashRead_same

end Sys2Proof.Laws
end

