-- ==== Sys2Proof/Laws/FrameTqi.lean ====
section
/-! SUPPORT. Frames of the operations of Machine/Tqi.lean: the fields that each may change. -/

namespace Sys2Proof.Laws

open Sys2Proof.Machine

theorem ignored_same {K : Nat} {Z : State} (s : State) (n : Nat) (hK : 549755813888 &&& K = 549755813888) (hZ : Same K Z s) :
    Same K Z (State.ignored s n) := by
  unfold State.ignored
  repeat' first
    | extract_lets
    | with_reducible assumption
    | exact sub_trans rfl hK
    | exact bit_of rfl hK
    | split
    | with_reducible apply emit_same

theorem rehome_same {K : Nat} {Z : State} (s : State) (n : Nat) (hK : 558349945560 &&& K = 558349945560) (hZ : Same K Z s) :
    Same K Z (State.rehome s n) := by
  unfold State.rehome
  repeat' first
    | extract_lets
    | with_reducible assumption
    | exact sub_trans rfl hK
    | exact bit_of rfl hK
    | split
    | with_reducible apply complete_same
    | with_reducible apply updCmd_same
    | with_reducible apply Same.foldl
    | intro _

theorem writeVerSelect_same {K : Nat} {Z : State} (s : State) (n : Nat) (v : W16) (hK : 549755814016 &&& K = 549755814016) (hZ : Same K Z s) :
    Same K Z (State.writeVerSelect s n v) := by
  unfold State.writeVerSelect
  repeat' first
    | extract_lets
    | with_reducible assumption
    | exact sub_trans rfl hK
    | exact bit_of rfl hK
    | split
    | with_reducible apply ignored_same
    | with_reducible apply updFn_same

theorem discardOut_same {K : Nat} {Z : State} (s : State) (hK : 2684485632 &&& K = 2684485632) (hZ : Same K Z s) :
    Same K Z (State.discardOut s) := by
  unfold State.discardOut
  repeat' first
    | extract_lets
    | with_reducible assumption
    | exact sub_trans rfl hK
    | exact bit_of rfl hK
    | split
    | with_reducible apply latch_same
    | with_reducible apply Same.foldl
    | with_reducible apply Same.boxes_upd
    | intro _

theorem startFnReset_same {K : Nat} {Z : State} (s : State) (n : Nat) (hK : 906078632924 &&& K = 906078632924) (hZ : Same K Z s) :
    Same K Z (State.startFnReset s n) := by
  unfold State.startFnReset
  repeat' first
    | extract_lets
    | with_reducible assumption
    | exact sub_trans rfl hK
    | exact bit_of rfl hK
    | split
    | with_reducible apply destroyCtx_same
    | with_reducible apply discardOut_same
    | with_reducible apply killCmd_same
    | with_reducible apply updFn_same
    | with_reducible apply Same.foldl
    | intro _
    | dsimp +zetaDelta only

theorem endFnReset_same {K : Nat} {Z : State} (s : State) (n : Nat) (hK : 384 &&& K = 384) (hZ : Same K Z s) :
    Same K Z (State.endFnReset s n) := by
  unfold State.endFnReset
  repeat' first
    | extract_lets
    | with_reducible assumption
    | exact sub_trans rfl hK
    | exact bit_of rfl hK
    | split
    | with_reducible apply refreshReady_same
    | with_reducible apply updFn_same
    | with_reducible apply Same.store_upd
    | dsimp +zetaDelta only

theorem pinNow_same {K : Nat} {Z : State} (s : State) (c : Nat) (was : Bool) (hK : 558345781464 &&& K = 558345781464) (hZ : Same K Z s) :
    Same K Z (State.pinNow s c was) := by
  unfold State.pinNow
  repeat' first
    | extract_lets
    | with_reducible assumption
    | exact sub_trans rfl hK
    | exact bit_of rfl hK
    | split
    | with_reducible apply lockCtx_same

theorem performEnable_same {K : Nat} {Z : State} (s : State) (n : Nat) (q : Nat) (hK : 558345781464 &&& K = 558345781464) (hZ : Same K Z s) :
    Same K Z (State.performEnable s n q) := by
  unfold State.performEnable
  repeat' first
    | extract_lets
    | with_reducible assumption
    | exact sub_trans rfl hK
    | exact bit_of rfl hK
    | split
    | with_reducible apply pinNow_same
    | with_reducible apply stopQueue_same
    | with_reducible apply updQueue_same

theorem writeEnable_same {K : Nat} {Z : State} (s : State) (n : Nat) (q : Nat) (ctrl : W64) (hK : 558345781464 &&& K = 558345781464) (hZ : Same K Z s) :
    Same K Z (State.writeEnable s n q ctrl) := by
  unfold State.writeEnable
  repeat' first
    | extract_lets
    | with_reducible assumption
    | exact sub_trans rfl hK
    | exact bit_of rfl hK
    | split
    | with_reducible apply ignored_same
    | with_reducible apply performEnable_same
    | with_reducible apply updQueue_same
    | dsimp +zetaDelta only

theorem writeDisable_same {K : Nat} {Z : State} (s : State) (n : Nat) (q : Nat) (ctrl : W64) (hK : 549755814016 &&& K = 549755814016) (hZ : Same K Z s) :
    Same K Z (State.writeDisable s n q ctrl) := by
  unfold State.writeDisable
  repeat' first
    | extract_lets
    | with_reducible assumption
    | exact sub_trans rfl hK
    | exact bit_of rfl hK
    | split
    | with_reducible apply ignored_same
    | with_reducible apply updQueue_same
    | dsimp +zetaDelta only

theorem endDrain_same {K : Nat} {Z : State} (s : State) (n : Nat) (q : Nat) (hK : 558345781720 &&& K = 558345781720) (hZ : Same K Z s) :
    Same K Z (State.endDrain s n q) := by
  unfold State.endDrain
  repeat' first
    | extract_lets
    | with_reducible assumption
    | exact sub_trans rfl hK
    | exact bit_of rfl hK
    | split
    | with_reducible apply performEnable_same
    | with_reducible apply unlockCtx_same
    | with_reducible apply updQueue_same
    | with_reducible apply Same.store_upd
    | dsimp +zetaDelta only

theorem askFetch_same {K : Nat} {Z : State} (s : State) (n : Nat) (q : Nat) (hK : 558345748696 &&& K = 558345748696) (hZ : Same K Z s) :
    Same K Z (State.askFetch s n q) := by
  unfold State.askFetch
  repeat' first
    | extract_lets
    | with_reducible assumption
    | exact sub_trans rfl hK
    | exact bit_of rfl hK
    | split
    | with_reducible apply emit_same
    | with_reducible apply stopQueue_same
    | with_reducible apply updQueue_same
    | dsimp +zetaDelta only

theorem wakeQueues_same {K : Nat} {Z : State} (s : State) (c : Nat) (hK : 558345748696 &&& K = 558345748696) (hZ : Same K Z s) :
    Same K Z (State.wakeQueues s c) := by
  unfold State.wakeQueues
  repeat' first
    | extract_lets
    | with_reducible assumption
    | exact sub_trans rfl hK
    | exact bit_of rfl hK
    | split
    | with_reducible apply askFetch_same
    | with_reducible apply updQueue_same
    | with_reducible apply Same.foldl
    | intro _
    | dsimp +zetaDelta only

theorem wantResident_same {K : Nat} {Z : State} (s : State) (n : Nat) (q : Nat) (hK : 902756699100 &&& K = 902756699100) (hZ : Same K Z s) :
    Same K Z (State.wantResident s n q) := by
  unfold State.wantResident
  repeat' first
    | extract_lets
    | with_reducible assumption
    | exact sub_trans rfl hK
    | exact bit_of rfl hK
    | split
    | with_reducible apply askFetch_same
    | with_reducible refine makeResident_same ‹_› ?_ ?_
    | with_reducible apply postNotice_same
    | with_reducible apply updQueue_same
    | with_reducible apply wakeQueues_same
    | dsimp +zetaDelta only

theorem ringDoorbell_same {K : Nat} {Z : State} (s : State) (n : Nat) (q : Nat) (tail : W32) (hK : 902756699100 &&& K = 902756699100) (hZ : Same K Z s) :
    Same K Z (State.ringDoorbell s n q tail) := by
  unfold State.ringDoorbell
  repeat' first
    | extract_lets
    | with_reducible assumption
    | exact sub_trans rfl hK
    | exact bit_of rfl hK
    | split
    | with_reducible apply ignored_same
    | with_reducible apply stopQueue_same
    | with_reducible apply updQueue_same
    | with_reducible apply wantResident_same
    | dsimp +zetaDelta only

theorem writePush_same {K : Nat} {Z : State} (s : State) (n : Nat) (q : Nat) (off : Nat) (len : Nat) (data : Desc) (hK : 549755814016 &&& K = 549755814016) (hZ : Same K Z s) :
    Same K Z (State.writePush s n q off len data) := by
  unfold State.writePush
  repeat' first
    | extract_lets
    | with_reducible assumption
    | exact sub_trans rfl hK
    | exact bit_of rfl hK
    | split
    | with_reducible apply ignored_same
    | with_reducible apply updQueue_same

theorem writeCqHead_same {K : Nat} {Z : State} (s : State) (n : Nat) (q : Nat) (v : W32) (hK : 549755814016 &&& K = 549755814016) (hZ : Same K Z s) :
    Same K Z (State.writeCqHead s n q v) := by
  unfold State.writeCqHead
  repeat' first
    | extract_lets
    | with_reducible assumption
    | exact sub_trans rfl hK
    | exact bit_of rfl hK
    | split
    | with_reducible apply ignored_same
    | with_reducible apply updQueue_same

theorem settle_same {K : Nat} {Z : State} (s : State) (cid : Nat) (hK : 833228770008 &&& K = 833228770008) (hZ : Same K Z s) :
    Same K Z (State.settle s cid) := by
  unfold State.settle
  repeat' first
    | extract_lets
    | with_reducible assumption
    | exact sub_trans rfl hK
    | exact bit_of rfl hK
    | split
    | with_reducible apply complete_same
    | with_reducible apply dropGroups_same

theorem endCmd_same {K : Nat} {Z : State} (s : State) (cid : Nat) (st : Nat) (err : Option ErrInfo) (hK : 903931104220 &&& K = 903931104220) (hZ : Same K Z s) :
    Same K Z (State.endCmd s cid st err) := by
  unfold State.endCmd
  repeat' first
    | extract_lets
    | with_reducible assumption
    | exact sub_trans rfl hK
    | exact bit_of rfl hK
    | split
    | with_reducible apply killCmd_same
    | with_reducible apply settle_same
    | with_reducible apply stopCmd_same

theorem abortQueue_same {K : Nat} {Z : State} (s : State) (n : Nat) (q : Nat) (hK : 903931104220 &&& K = 903931104220) (hZ : Same K Z s) :
    Same K Z (State.abortQueue s n q) := by
  unfold State.abortQueue
  repeat' first
    | extract_lets
    | with_reducible assumption
    | exact sub_trans rfl hK
    | exact bit_of rfl hK
    | split
    | with_reducible apply endCmd_same
    | with_reducible apply ignored_same
    | with_reducible apply Same.foldl
    | intro _

theorem forget_same {K : Nat} {Z : State} (s : State) (a : Nat) (n : Nat) (hK : 64 &&& K = 64) (hZ : Same K Z s) :
    Same K Z (State.forget s a n) := by
  unfold State.forget
  repeat' first
    | extract_lets
    | with_reducible assumption
    | exact sub_trans rfl hK
    | exact bit_of rfl hK
    | split
    | with_reducible apply Same.foldl
    | with_reducible apply Same.ext_upd
    | intro _

theorem writeMirror_same {K : Nat} {Z : State} (s : State) (n : Nat) (err : Bool) (cfg : W64) (hK : 128 &&& K = 128) (hZ : Same K Z s) :
    Same K Z (State.writeMirror s n err cfg) := by
  unfold State.writeMirror
  repeat' first
    | extract_lets
    | with_reducible assumption
    | exact sub_trans rfl hK
    | exact bit_of rfl hK
    | split
    | with_reducible apply updFn_same

theorem enableEq_same {K : Nat} {Z : State} (s : State) (n : Nat) (err : Bool) (cfg : W64) (hK : 558345748608 &&& K = 558345748608) (hZ : Same K Z s) :
    Same K Z (State.enableEq s n err cfg) := by
  unfold State.enableEq
  repeat' first
    | extract_lets
    | with_reducible assumption
    | exact sub_trans rfl hK
    | exact bit_of rfl hK
    | split
    | with_reducible apply ignored_same
    | with_reducible apply updRecq_same
    | with_reducible apply writeMirror_same
    | dsimp +zetaDelta only

theorem disableEq_same {K : Nat} {Z : State} (s : State) (n : Nat) (err : Bool) (cfg : W64) (hK : 558345748608 &&& K = 558345748608) (hZ : Same K Z s) :
    Same K Z (State.disableEq s n err cfg) := by
  unfold State.disableEq
  repeat' first
    | extract_lets
    | with_reducible assumption
    | exact sub_trans rfl hK
    | exact bit_of rfl hK
    | split
    | with_reducible apply ignored_same
    | with_reducible apply updRecq_same
    | with_reducible apply writeMirror_same
    | dsimp +zetaDelta only

theorem writeEqHead_same {K : Nat} {Z : State} (s : State) (n : Nat) (err : Bool) (v : W32) (hK : 558345748608 &&& K = 558345748608) (hZ : Same K Z s) :
    Same K Z (State.writeEqHead s n err v) := by
  unfold State.writeEqHead
  repeat' first
    | extract_lets
    | with_reducible assumption
    | exact sub_trans rfl hK
    | exact bit_of rfl hK
    | split
    | with_reducible apply ignored_same
    | with_reducible apply updRecq_same
    | with_reducible apply vectorOf_same
    | dsimp +zetaDelta only

theorem failRecord_same {K : Nat} {Z : State} (s : State) (n : Nat) (err : Bool) (hK : 8589934784 &&& K = 8589934784) (hZ : Same K Z s) :
    Same K Z (State.failRecord s n err) := by
  unfold State.failRecord
  repeat' first
    | extract_lets
    | with_reducible assumption
    | exact sub_trans rfl hK
    | exact bit_of rfl hK
    | split
    | with_reducible apply forget_same
    | with_reducible apply loseRecs_same
    | with_reducible apply updRecq_same
    | with_reducible apply Same.foldl
    | intro _
    | dsimp +zetaDelta only

theorem writeStaged_same {K : Nat} {Z : State} (s : State) (d : Dest) (hK : 558345748696 &&& K = 558345748696) (hZ : Same K Z s) :
    Same K Z (State.writeStaged s d) := by
  unfold State.writeStaged
  repeat' first
    | extract_lets
    | with_reducible assumption
    | exact sub_trans rfl hK
    | exact bit_of rfl hK
    | split
    | with_reducible apply dropRecs_same
    | with_reducible apply evseqNext_same
    | with_reducible apply loseRecs_same
    | with_reducible apply stageAsk_same
    | with_reducible apply updRecq_same
    | with_reducible apply writeRec_same
    | dsimp +zetaDelta only

theorem ringsGoOn_same {K : Nat} {Z : State} (s : State) (n : Nat) (hK : 558345748696 &&& K = 558345748696) (hZ : Same K Z s) :
    Same K Z (State.ringsGoOn s n) := by
  unfold State.ringsGoOn
  repeat' first
    | extract_lets
    | with_reducible assumption
    | exact sub_trans rfl hK
    | exact bit_of rfl hK
    | split
    | with_reducible apply askFetch_same
    | with_reducible apply payCq_same
    | with_reducible apply stopRecord_same
    | with_reducible apply writeStaged_same
    | with_reducible apply Same.foldl
    | intro _
    | dsimp +zetaDelta only

end Sys2Proof.Laws
end

