-- ==== Sys2Proof/Laws/FrameMover.lean ====
section
/-! SUPPORT. Frames of the operations of Machine/Mover.lean: the fields that each may change. -/

namespace Sys2Proof.Laws

open Sys2Proof.Machine

theorem wakeFurlong_same {K : Nat} {Z : State} (s : State) (f : Nat) (hK : 34359738368 &&& K = 34359738368) (hZ : Same K Z s) :
    Same K Z (State.wakeFurlong s f) := by
  unfold State.wakeFurlong
  repeat' first
    | extract_lets
    | with_reducible assumption
    | exact sub_trans rfl hK
    | exact bit_of rfl hK
    | split
    | with_reducible apply Same.pow_upd

theorem failCmd_same {K : Nat} {Z : State} (s : State) (cid : Nat) (st : Nat) (err : Option ErrInfo) (hK : 903931104220 &&& K = 903931104220) (hZ : Same K Z s) :
    Same K Z (State.failCmd s cid st err) := by
  unfold State.failCmd
  repeat' first
    | extract_lets
    | with_reducible assumption
    | exact sub_trans rfl hK
    | exact bit_of rfl hK
    | split
    | with_reducible apply endCmd_same
    | with_reducible apply leaveEngine_same
    | with_reducible apply stopGroups_same
    | with_reducible apply updCmd_same

theorem finish_same {K : Nat} {Z : State} (s : State) (cid : Nat) (st : Nat) (err : Option ErrInfo) (hK : 640 &&& K = 640) (hZ : Same K Z s) :
    Same K Z (State.finish s cid st err) := by
  unfold State.finish
  repeat' first
    | extract_lets
    | with_reducible assumption
    | exact sub_trans rfl hK
    | exact bit_of rfl hK
    | split
    | with_reducible apply decided_same
    | with_reducible apply updCmd_same

theorem startMove_same {K : Nat} {Z : State} (s : State) (c : Cmd) (ds : List MDesc) (hK : 272630400 &&& K = 272630400) (hZ : Same K Z s) :
    Same K Z (State.startMove s c ds) := by
  unfold State.startMove
  repeat' first
    | extract_lets
    | with_reducible assumption
    | exact sub_trans rfl hK
    | exact bit_of rfl hK
    | split
    | with_reducible apply finish_same
    | with_reducible apply placeChan_same
    | with_reducible apply retime_same
    | with_reducible apply unqueue_same
    | with_reducible apply updCmd_same

theorem failChan_same {K : Nat} {Z : State} (s : State) (ch : Chan) (st : Nat) (err : Option ErrInfo) (hK : 903931104220 &&& K = 903931104220) (hZ : Same K Z s) :
    Same K Z (State.failChan s ch st err) := by
  unfold State.failChan
  repeat' first
    | extract_lets
    | with_reducible assumption
    | exact sub_trans rfl hK
    | exact bit_of rfl hK
    | split
    | with_reducible apply failCmd_same

theorem takeDesc_same {K : Nat} {Z : State} (s : State) (m : Nat) (c : Nat) (d : MDesc) (hK : 903931104220 &&& K = 903931104220) (hZ : Same K Z s) :
    Same K Z (State.takeDesc s m c d) := by
  unfold State.takeDesc
  repeat' first
    | extract_lets
    | with_reducible assumption
    | exact sub_trans rfl hK
    | exact bit_of rfl hK
    | split
    | with_reducible apply endDesc_same
    | with_reducible apply failChan_same
    | with_reducible apply updChan_same
    | dsimp +zetaDelta only

theorem fetchDesc_same {K : Nat} {Z : State} (s : State) (m : Nat) (c : Nat) (hK : 903931104220 &&& K = 903931104220) (hZ : Same K Z s) :
    Same K Z (State.fetchDesc s m c) := by
  unfold State.fetchDesc
  repeat' first
    | extract_lets
    | with_reducible assumption
    | exact sub_trans rfl hK
    | exact bit_of rfl hK
    | split
    | with_reducible apply takeDesc_same
    | with_reducible apply updChan_same
    | dsimp +zetaDelta only

theorem issueBursts_same {K : Nat} {Z : State} (s : State) (m : Nat) (c : Nat) (a3 : Nat) (hK : 268435456 &&& K = 268435456) (hZ : Same K Z s) :
    Same K Z (State.issueBursts s m c a3) := by
  induction a3 generalizing s m c with
  | zero => exact hZ
  | succ cn ih =>
    unfold State.issueBursts
    repeat' first
      | extract_lets
      | with_reducible assumption
      | exact sub_trans rfl hK
      | exact bit_of rfl hK
      | with_reducible apply ih
      | split
      | with_reducible apply updChan_same
      | dsimp +zetaDelta only

theorem levelRead_same {K : Nat} {Z : State} (s : State) (ch : Chan) (hK : 4 &&& K = 4) (hZ : Same K Z s) :
    Same K Z (State.levelRead s ch) := by
  unfold State.levelRead
  repeat' first
    | extract_lets
    | with_reducible assumption
    | exact sub_trans rfl hK
    | exact bit_of rfl hK
    | split
    | with_reducible apply freshNext_same

theorem endMove_same {K : Nat} {Z : State} (s : State) (cid : Nat) (hK : 268436096 &&& K = 268436096) (hZ : Same K Z s) :
    Same K Z (State.endMove s cid) := by
  unfold State.endMove
  repeat' first
    | extract_lets
    | with_reducible assumption
    | exact sub_trans rfl hK
    | exact bit_of rfl hK
    | split
    | with_reducible apply finish_same
    | with_reducible apply freeChan_same
    | with_reducible apply Same.foldl
    | intro _

theorem acreBurst_same {K : Nat} {Z : State} (s : State) (m : Nat) (c : Nat) (hK : 272629760 &&& K = 272629760) (hZ : Same K Z s) :
    Same K Z (State.acreBurst s m c) := by
  unfold State.acreBurst
  repeat' first
    | extract_lets
    | with_reducible assumption
    | exact sub_trans rfl hK
    | exact bit_of rfl hK
    | split
    | with_reducible apply updAcre_same
    | with_reducible apply updChan_same
    | dsimp +zetaDelta only

theorem burstDone_same {K : Nat} {Z : State} (s : State) (m : Nat) (c : Nat) (hK : 834036960220 &&& K = 834036960220) (hZ : Same K Z s) :
    Same K Z (State.burstDone s m c) := by
  unfold State.burstDone
  repeat' first
    | extract_lets
    | with_reducible assumption
    | exact sub_trans rfl hK
    | exact bit_of rfl hK
    | split
    | with_reducible apply acreBurst_same
    | with_reducible apply askBurst_same
    | with_reducible apply endDesc_same
    | with_reducible apply endMove_same
    | with_reducible apply levelRead_same
    | with_reducible apply progress_same
    | with_reducible apply retime_same
    | with_reducible apply updChan_same
    | with_reducible apply writeBurst_same
    | dsimp +zetaDelta only

theorem holdChan_same {K : Nat} {Z : State} (s : State) (m : Nat) (c : Nat) (hK : 268435460 &&& K = 268435460) (hZ : Same K Z s) :
    Same K Z (State.holdChan s m c) := by
  unfold State.holdChan
  repeat' first
    | extract_lets
    | with_reducible assumption
    | exact sub_trans rfl hK
    | exact bit_of rfl hK
    | split
    | with_reducible apply freshNext_same
    | with_reducible apply updChan_same
    | dsimp +zetaDelta only

theorem creditChan_same {K : Nat} {Z : State} (s : State) (m : Nat) (c : Nat) (hK : 268435460 &&& K = 268435460) (hZ : Same K Z s) :
    Same K Z (State.creditChan s m c) := by
  unfold State.creditChan
  repeat' first
    | extract_lets
    | with_reducible assumption
    | exact sub_trans rfl hK
    | exact bit_of rfl hK
    | split
    | with_reducible apply freshNext_same
    | with_reducible apply holdChan_same

theorem haltChan_same {K : Nat} {Z : State} (s : State) (addr : Nat) (m : Nat) (c : Nat) (hK : 903931104220 &&& K = 903931104220) (hZ : Same K Z s) :
    Same K Z (State.haltChan s addr m c) := by
  unfold State.haltChan
  repeat' first
    | extract_lets
    | with_reducible assumption
    | exact sub_trans rfl hK
    | exact bit_of rfl hK
    | split
    | with_reducible apply endDesc_same
    | with_reducible apply failCmd_same
    | with_reducible apply updChan_same
    | dsimp +zetaDelta only

theorem haltMover_same {K : Nat} {Z : State} (s : State) (m : Nat) (addr : Nat) (hK : 903931104220 &&& K = 903931104220) (hZ : Same K Z s) :
    Same K Z (State.haltMover s m addr) := by
  unfold State.haltMover
  repeat' first
    | extract_lets
    | with_reducible assumption
    | exact sub_trans rfl hK
    | exact bit_of rfl hK
    | split
    | with_reducible apply haltChan_same
    | with_reducible apply latch_same
    | with_reducible apply postGlobal_same
    | with_reducible apply updMover_same
    | with_reducible apply Same.foldl
    | intro _
    | dsimp +zetaDelta only

theorem chanPerm_same {K : Nat} {Z : State} (s : State) (m : Nat) (c : Nat) (va : Nat) (far : Bool) (hK : 903931104220 &&& K = 903931104220) (hZ : Same K Z s) :
    Same K Z (State.chanPerm s m c va far) := by
  unfold State.chanPerm
  repeat' first
    | extract_lets
    | with_reducible assumption
    | exact sub_trans rfl hK
    | exact bit_of rfl hK
    | split
    | with_reducible apply endDesc_same
    | with_reducible apply failChan_same
    | with_reducible apply updChan_same
    | dsimp +zetaDelta only

theorem enableChan_same {K : Nat} {Z : State} (s : State) (m : Nat) (c : Nat) (ctrl : W64) (hK : 903931104220 &&& K = 903931104220) (hZ : Same K Z s) :
    Same K Z (State.enableChan s m c ctrl) := by
  unfold State.enableChan
  repeat' first
    | extract_lets
    | with_reducible assumption
    | exact sub_trans rfl hK
    | exact bit_of rfl hK
    | split
    | with_reducible apply fetchDesc_same
    | with_reducible apply updChan_same
    | dsimp +zetaDelta only

theorem abortWrite_same {K : Nat} {Z : State} (s : State) (m : Nat) (c : Nat) (hK : 903931104220 &&& K = 903931104220) (hZ : Same K Z s) :
    Same K Z (State.abortWrite s m c) := by
  unfold State.abortWrite
  repeat' first
    | extract_lets
    | with_reducible assumption
    | exact sub_trans rfl hK
    | exact bit_of rfl hK
    | split
    | with_reducible apply abortChan_same
    | with_reducible apply failCmd_same
    | with_reducible apply updChan_same
    | dsimp +zetaDelta only

theorem restartMover_same {K : Nat} {Z : State} (s : State) (m : Nat) (hK : 268435456 &&& K = 268435456) (hZ : Same K Z s) :
    Same K Z (State.restartMover s m) := by
  unfold State.restartMover
  repeat' first
    | extract_lets
    | with_reducible assumption
    | exact sub_trans rfl hK
    | exact bit_of rfl hK
    | split
    | with_reducible apply updMover_same

theorem disableChan_same {K : Nat} {Z : State} (s : State) (m : Nat) (c : Nat) (hK : 903931104220 &&& K = 903931104220) (hZ : Same K Z s) :
    Same K Z (State.disableChan s m c) := by
  unfold State.disableChan
  repeat' first
    | extract_lets
    | with_reducible assumption
    | exact sub_trans rfl hK
    | exact bit_of rfl hK
    | split
    | with_reducible apply abortWrite_same
    | with_reducible apply updChan_same

theorem haltAtBurst_same {K : Nat} {Z : State} (s : State) (m : Nat) (c : Nat) (hK : 268435456 &&& K = 268435456) (hZ : Same K Z s) :
    Same K Z (State.haltAtBurst s m c) := by
  unfold State.haltAtBurst
  repeat' first
    | extract_lets
    | with_reducible assumption
    | exact sub_trans rfl hK
    | exact bit_of rfl hK
    | split
    | with_reducible apply updChan_same

theorem goOn_same {K : Nat} {Z : State} (s : State) (m : Nat) (c : Nat) (hK : 268435456 &&& K = 268435456) (hZ : Same K Z s) :
    Same K Z (State.goOn s m c) := by
  unfold State.goOn
  repeat' first
    | extract_lets
    | with_reducible assumption
    | exact sub_trans rfl hK
    | exact bit_of rfl hK
    | split
    | with_reducible apply updChan_same

end Sys2Proof.Laws
end

