-- ==== Sys2Proof/Laws/FrameContext.lean ====
section
/-! SUPPORT. Frames of the operations of Machine/Context.lean: the fields that each may change. -/

namespace Sys2Proof.Laws

open Sys2Proof.Machine

theorem withCtx_same {K : Nat} {Z : State} (s : State) (cid : Nat) (op : Nat) (f : Cmd → Nat → State) (hK : 558349945560 &&& K = 558349945560) (hf : ∀ x0 x1, Same K Z (f x0 x1)) (hZ : Same K Z s) :
    Same K Z (State.withCtx s cid op f) := by
  unfold State.withCtx
  repeat' first
    | extract_lets
    | with_reducible assumption
    | exact sub_trans rfl hK
    | exact bit_of rfl hK
    | split
    | with_reducible apply complete_same
    | with_reducible apply hf

theorem writeResult_same {K : Nat} {Z : State} (s : State) (c : Cmd) (bs : List Byte) (hK : 833231653848 &&& K = 833231653848) (hZ : Same K Z s) :
    Same K Z (State.writeResult s c bs) := by
  unfold State.writeResult
  repeat' first
    | extract_lets
    | with_reducible assumption
    | exact sub_trans rfl hK
    | exact bit_of rfl hK
    | split
    | with_reducible apply gateExt_same

theorem createCtx_same {K : Nat} {Z : State} (s : State) (c0 : Cmd) (hK : 834305407960 &&& K = 834305407960) (hZ : Same K Z s) :
    Same K Z (State.createCtx s c0) := by
  unfold State.createCtx
  repeat' first
    | extract_lets
    | with_reducible assumption
    | exact sub_trans rfl hK
    | exact bit_of rfl hK
    | split
    | with_reducible apply complete_same
    | with_reducible apply endWrites_same
    | with_reducible apply wmCheck_same
    | with_reducible apply writeResult_same
    | with_reducible apply zeroRun_same
    | with_reducible apply Same.ctxs_upd
    | with_reducible apply Same.live_upd
    | with_reducible apply Same.allocs_upd
    | dsimp +zetaDelta only
    | exact Or.inl (bit_of rfl hK)
    | exact Or.inr rfl
    | exact rfl
    | with_reducible apply Same.mk_upd

theorem allocPages_same {K : Nat} {Z : State} (s : State) (k obj psize n : Nat) (t : State) (l : List (Nat × Nat))
    (h : s.allocPages k obj psize n = some (t, l)) (hK : 8192 &&& K = 8192) (hZ : Same K Z s) : Same K Z t := by
  induction n generalizing s t l with
  | zero =>
    unfold State.allocPages at h
    cases h
    exact hZ
  | succ n ih =>
    unfold State.allocPages at h
    split at h
    · cases h
    · rw [Option.map_eq_some_iff] at h
      obtain ⟨⟨t1, l1⟩, h1, h2⟩ := h
      cases h2
      exact ih _ _ _ h1 (Same.allocs_upd (bit_of rfl hK) hZ)

theorem allocDev_same {K : Nat} {Z : State} {s : State} {k : Nat} {e : MapEnt} {t : State} {l : List (Nat × Nat)}
    (h : s.allocDev k e = some (t, l)) (hK : 8192 &&& K = 8192) (hZ : Same K Z s) : Same K Z t := by
  unfold State.allocDev at h
  split at h
  · cases h
    exact Same.allocs_upd (bit_of rfl hK) hZ
  · split at h
    · cases h
    · exact allocPages_same _ _ _ _ _ _ _ h hK hZ

theorem addMaps_same {K : Nat} {Z : State} (s : State) (k : Nat) (ms : List Mapping) (hK : 2048 &&& K = 2048) (hZ : Same K Z s) :
    Same K Z (State.addMaps s k ms) := by
  unfold State.addMaps
  repeat' first
    | extract_lets
    | with_reducible assumption
    | exact sub_trans rfl hK
    | exact bit_of rfl hK
    | split
    | with_reducible apply updCtx_same

theorem mapEntry_same {K : Nat} {Z : State} {s : State} {c : Cmd} {k va : Nat} {e : MapEnt} {t : State}
    (h : s.mapEntry c k va e = .inl t) (hK : 26632 &&& K = 26632) (hZ : Same K Z s) : Same K Z t := by
  unfold State.mapEntry at h
  repeat' first
    | split at h
    | cases h
  repeat' first
    | extract_lets
    | with_reducible assumption
    | exact sub_trans rfl hK
    | exact bit_of rfl hK
    | split
    | with_reducible apply addMaps_same
    | with_reducible refine allocDev_same ‹_› ?_ ?_
    | with_reducible apply zeroRun_same
    | with_reducible apply Same.foldl
    | with_reducible apply Same.nextObj_upd
    | intro _

theorem mapEntries_same {K : Nat} {Z : State} {s : State} {c : Cmd} {k : Nat} {l : List MapEnt} {va : Nat} {t : State}
    (h : s.mapEntries c k l va = .inl t) (hK : 26632 &&& K = 26632) (hZ : Same K Z s) : Same K Z t := by
  induction l generalizing s va with
  | nil =>
    unfold State.mapEntries at h
    cases h
    exact hZ
  | cons e r ih =>
    unfold State.mapEntries at h
    split at h
    · exact ih h (mapEntry_same ‹_› hK hZ)
    · cases h

theorem mapCmd_same {K : Nat} {Z : State} (s : State) (c : Cmd) (k : Nat) (hK : 559423744728 &&& K = 559423744728) (hZ : Same K Z s) :
    Same K Z (State.mapCmd s c k) := by
  unfold State.mapCmd
  repeat' first
    | extract_lets
    | with_reducible assumption
    | exact sub_trans rfl hK
    | exact bit_of rfl hK
    | split
    | with_reducible apply complete_same
    | with_reducible apply loadRuns_same
    | with_reducible refine mapEntries_same ‹_› ?_ ?_
    | with_reducible apply wmCheck_same

theorem dropAts_same {K : Nat} {Z : State} (s : State) (fn : Nat) (io : Nat) (len : Nat) (hK : 65536 &&& K = 65536) (hZ : Same K Z s) :
    Same K Z (State.dropAts s fn io len) := by
  unfold State.dropAts
  repeat' first
    | extract_lets
    | with_reducible assumption
    | exact sub_trans rfl hK
    | exact bit_of rfl hK
    | split
    | with_reducible apply Same.ats_upd

theorem dropCodeIn_same {K : Nat} {Z : State} (s : State) (c : Nat) (rs : List (Nat × Nat)) (hK : 131072 &&& K = 131072) (hZ : Same K Z s) :
    Same K Z (State.dropCodeIn s c rs) := by
  unfold State.dropCodeIn
  repeat' first
    | extract_lets
    | with_reducible assumption
    | exact sub_trans rfl hK
    | exact bit_of rfl hK
    | split
    | with_reducible apply dropCode_same

theorem dropTranslations_same {K : Nat} {Z : State} (s : State) (c : Nat) (rs : List (Nat × Nat)) (hK : 98560 &&& K = 98560) (hZ : Same K Z s) :
    Same K Z (State.dropTranslations s c rs) := by
  unfold State.dropTranslations
  repeat' first
    | extract_lets
    | with_reducible assumption
    | exact sub_trans rfl hK
    | exact bit_of rfl hK
    | split
    | with_reducible apply dropAts_same
    | with_reducible apply Same.foldl
    | with_reducible apply Same.store_upd
    | with_reducible apply Same.tlb_upd
    | intro _
    | dsimp +zetaDelta only
    | exact Or.inl (bit_of rfl hK)
    | exact Or.inr rfl
    | exact rfl
    | with_reducible apply Same.mk_upd

theorem haltChains_same {K : Nat} {Z : State} (s : State) (cid : Nat) (on : Bool) (hK : 131072 &&& K = 131072) (hZ : Same K Z s) :
    Same K Z (State.haltChains s cid on) := by
  unfold State.haltChains
  repeat' first
    | extract_lets
    | with_reducible assumption
    | exact sub_trans rfl hK
    | exact bit_of rfl hK
    | split
    | with_reducible apply updChain_same
    | with_reducible apply Same.foldl
    | intro _

theorem holdAcre_same {K : Nat} {Z : State} (s : State) (h : Nat) (cid : Nat) (on : Bool) (hK : 4194304 &&& K = 4194304) (hZ : Same K Z s) :
    Same K Z (State.holdAcre s h cid on) := by
  unfold State.holdAcre
  repeat' first
    | extract_lets
    | with_reducible assumption
    | exact sub_trans rfl hK
    | exact bit_of rfl hK
    | split
    | with_reducible apply updAcre_same
    | dsimp +zetaDelta only

theorem stopChans_same {K : Nat} {Z : State} (s : State) (cid : Nat) (on : Bool) (hK : 268435456 &&& K = 268435456) (hZ : Same K Z s) :
    Same K Z (State.stopChans s cid on) := by
  unfold State.stopChans
  repeat' first
    | extract_lets
    | with_reducible assumption
    | exact sub_trans rfl hK
    | exact bit_of rfl hK
    | split
    | with_reducible apply updChan_same
    | with_reducible apply Same.foldl
    | intro _

theorem pauseEngine_same {K : Nat} {Z : State} (s : State) (e : Nat) (c : Nat) (hK : 618475290624 &&& K = 618475290624) (hZ : Same K Z s) :
    Same K Z (State.pauseEngine s e c) := by
  unfold State.pauseEngine
  repeat' first
    | extract_lets
    | with_reducible assumption
    | exact sub_trans rfl hK
    | exact bit_of rfl hK
    | split
    | with_reducible apply emit_same
    | with_reducible apply updEngine_same

theorem resumeEngine_same {K : Nat} {Z : State} (s : State) (e : Nat) (c : Nat) (hK : 618475290624 &&& K = 618475290624) (hZ : Same K Z s) :
    Same K Z (State.resumeEngine s e c) := by
  unfold State.resumeEngine
  repeat' first
    | extract_lets
    | with_reducible assumption
    | exact sub_trans rfl hK
    | exact bit_of rfl hK
    | split
    | with_reducible apply emit_same
    | with_reducible apply updEngine_same

theorem askStop_same {K : Nat} {Z : State} (s : State) (c : Cmd) (hK : 618748051456 &&& K = 618748051456) (hZ : Same K Z s) :
    Same K Z (State.askStop s c) := by
  unfold State.askStop
  repeat' first
    | extract_lets
    | with_reducible assumption
    | exact sub_trans rfl hK
    | exact bit_of rfl hK
    | split
    | with_reducible apply haltChains_same
    | with_reducible apply holdAcre_same
    | with_reducible apply pauseEngine_same
    | with_reducible apply stopChans_same
    | dsimp +zetaDelta only

theorem beginShake_same {K : Nat} {Z : State} (s : State) (c : Nat) (k : Shake) (hK : 618781707008 &&& K = 618781707008) (hZ : Same K Z s) :
    Same K Z (State.beginShake s c k) := by
  unfold State.beginShake
  repeat' first
    | extract_lets
    | with_reducible assumption
    | exact sub_trans rfl hK
    | exact bit_of rfl hK
    | split
    | with_reducible apply askStop_same
    | with_reducible apply dropCodeIn_same
    | with_reducible apply dropTranslations_same
    | with_reducible apply updCtx_same
    | with_reducible apply updPlan_same
    | with_reducible apply Same.foldl
    | with_reducible apply Same.cmds_upd
    | intro _
    | dsimp +zetaDelta only

theorem backPages_same {K : Nat} {Z : State} (s : State) (c : Nat) (k : Shake) (hK : 559419500760 &&& K = 559419500760) (hZ : Same K Z s) :
    Same K Z (State.backPages s c k) := by
  unfold State.backPages
  repeat' first
    | extract_lets
    | with_reducible assumption
    | exact sub_trans rfl hK
    | exact bit_of rfl hK
    | split
    | with_reducible apply freeObjects_same
    | with_reducible apply updCtx_same
    | with_reducible apply wmCheck_same
    | with_reducible apply writeBackPage_same
    | with_reducible apply Same.foldl
    | intro _
    | dsimp +zetaDelta only

theorem freeWaiters_same {K : Nat} {Z : State} (s : State) (c : Nat) (hK : 834301635544 &&& K = 834301635544) (hZ : Same K Z s) :
    Same K Z (State.freeWaiters s c) := by
  unfold State.freeWaiters
  repeat' first
    | extract_lets
    | with_reducible assumption
    | exact sub_trans rfl hK
    | exact bit_of rfl hK
    | split
    | with_reducible apply applyVal_same
    | with_reducible apply Same.foldl
    | intro _

theorem resumeCmd_same {K : Nat} {Z : State} (s : State) (c : Cmd) (hK : 903931104220 &&& K = 903931104220) (hZ : Same K Z s) :
    Same K Z (State.resumeCmd s c) := by
  unfold State.resumeCmd
  repeat' first
    | extract_lets
    | with_reducible assumption
    | exact sub_trans rfl hK
    | exact bit_of rfl hK
    | split
    | with_reducible apply haltChains_same
    | with_reducible apply holdAcre_same
    | with_reducible apply resumeEngine_same
    | with_reducible apply settle_same
    | with_reducible apply stopChans_same
    | with_reducible apply stopCmd_same
    | with_reducible apply updCmd_same
    | dsimp +zetaDelta only

theorem askRetranslate_same {K : Nat} {Z : State} (s : State) (cs : List Cmd) (hK : 834297407704 &&& K = 834297407704) (hZ : Same K Z s) :
    Same K Z (s.askRetranslate cs).2 := by
  unfold State.askRetranslate
  generalize true = b
  induction cs generalizing s b with
  | nil => exact hZ
  | cons c r ih =>
    rw [List.foldl_cons]
    split
    all_goals first
      | exact ih _ (emit_same _ _ (sub_trans rfl hK) hZ) _
      | exact ih _ (startMigration_same _ _ _ (sub_trans rfl hK) hZ) _
      | exact ih _ (askSide_same _ _ _ _ (sub_trans rfl hK) hZ) _
      | exact ih _ hZ _

theorem endShake_same {K : Nat} {Z : State} (s : State) (c : Nat) (k : Shake) (hK : 558349945560 &&& K = 558349945560) (hZ : Same K Z s) :
    Same K Z (State.endShake s c k) := by
  unfold State.endShake
  repeat' first
    | extract_lets
    | with_reducible assumption
    | exact sub_trans rfl hK
    | exact bit_of rfl hK
    | split
    | with_reducible apply complete_same
    | with_reducible apply emit_same
    | with_reducible apply updCtx_same
    | dsimp +zetaDelta only

theorem runShakes_same {K : Nat} {Z : State} (s : State) (c : Nat) (a2 : Nat) (hK : 903931210716 &&& K = 903931210716) (hZ : Same K Z s) :
    Same K Z (State.runShakes s c a2) := by
  induction a2 generalizing s c with
  | zero => exact hZ
  | succ cn ih =>
    unfold State.runShakes
    repeat' first
      | extract_lets
      | with_reducible assumption
      | exact sub_trans rfl hK
      | exact bit_of rfl hK
      | with_reducible apply ih
      | split
      | with_reducible apply askRetranslate_same
      | with_reducible apply backPages_same
      | with_reducible apply beginShake_same
      | with_reducible apply endShake_same
      | with_reducible apply freeWaiters_same
      | with_reducible apply resumeCmd_same
      | with_reducible apply Same.foldl
      | intro _
      | dsimp +zetaDelta only

theorem addShake_same {K : Nat} {Z : State} (s : State) (c : Nat) (k : Shake) (hK : 903931210716 &&& K = 903931210716) (hZ : Same K Z s) :
    Same K Z (State.addShake s c k) := by
  unfold State.addShake
  repeat' first
    | extract_lets
    | with_reducible assumption
    | exact sub_trans rfl hK
    | exact bit_of rfl hK
    | split
    | with_reducible apply runShakes_same
    | with_reducible apply updCtx_same
    | dsimp +zetaDelta only

theorem awaitShake_same {K : Nat} {Z : State} (s : State) (cid : Nat) (hK : 512 &&& K = 512) (hZ : Same K Z s) :
    Same K Z (State.awaitShake s cid) := by
  unfold State.awaitShake
  repeat' first
    | extract_lets
    | with_reducible assumption
    | exact sub_trans rfl hK
    | exact bit_of rfl hK
    | split
    | with_reducible apply updCmd_same

end Sys2Proof.Laws
end

