-- ==== Sys2Proof/Laws/FrameRecovery.lean ====
section
/-! SUPPORT. Frames of the operations of Machine/Recovery.lean: the fields that each may change. -/

namespace Sys2Proof.Laws

open Sys2Proof.Machine

theorem recoverCtx_same {K : Nat} {Z : State} (s : State) (c : Nat) (hK : 903931104220 &&& K = 903931104220) (hZ : Same K Z s) :
    Same K Z (State.recoverCtx s c) := by
  unfold State.recoverCtx
  repeat' first
    | extract_lets
    | with_reducible assumption
    | exact sub_trans rfl hK
    | exact bit_of rfl hK
    | split
    | with_reducible apply fenceCtx_same
    | with_reducible apply retime_same
    | with_reducible apply updCtx_same

theorem dropLoads_same {K : Nat} {Z : State} (s : State) (g : Group) (hK : 131072 &&& K = 131072) (hZ : Same K Z s) :
    Same K Z (State.dropLoads s g) := by
  unfold State.dropLoads
  repeat' first
    | extract_lets
    | with_reducible assumption
    | exact sub_trans rfl hK
    | exact bit_of rfl hK
    | split
    | with_reducible apply updChain_same
    | with_reducible apply Same.foldl
    | intro _

theorem failOutstanding_same {K : Nat} {Z : State} (s : State) (p : Cmd → Bool) (hK : 903931104220 &&& K = 903931104220) (hZ : Same K Z s) :
    Same K Z (State.failOutstanding s p) := by
  unfold State.failOutstanding
  repeat' first
    | extract_lets
    | with_reducible assumption
    | exact sub_trans rfl hK
    | exact bit_of rfl hK
    | split
    | with_reducible apply dropLoads_same
    | with_reducible apply failCmd_same
    | with_reducible apply Same.foldl
    | intro _
    | dsimp +zetaDelta only

theorem cutRequests_same {K : Nat} {Z : State} (s : State) (h : Nat) (p : Cmd → Bool) (hK : 903931104220 &&& K = 903931104220) (hZ : Same K Z s) :
    Same K Z (State.cutRequests s h p) := by
  unfold State.cutRequests
  repeat' first
    | extract_lets
    | with_reducible assumption
    | exact sub_trans rfl hK
    | exact bit_of rfl hK
    | split
    | with_reducible apply failOutstanding_same
    | with_reducible apply updChan_same
    | with_reducible apply Same.foldl
    | with_reducible apply Same.cores_upd
    | with_reducible apply Same.fab_upd
    | intro _
    | dsimp +zetaDelta only
    | exact Or.inl (bit_of rfl hK)
    | exact Or.inr rfl
    | exact rfl
    | with_reducible apply Same.mk_upd

theorem lateFor_same {K : Nat} {Z : State} (s : State) (h : Nat) (hK : 4194304 &&& K = 4194304) (hZ : Same K Z s) :
    Same K Z (State.lateFor s h) := by
  unfold State.lateFor
  repeat' first
    | extract_lets
    | with_reducible assumption
    | exact sub_trans rfl hK
    | exact bit_of rfl hK
    | split
    | with_reducible apply updHide_same

theorem holdGroups_same {K : Nat} {Z : State} (s : State) (h : Nat) (on : Bool) (hK : 537001984 &&& K = 537001984) (hZ : Same K Z s) :
    Same K Z (State.holdGroups s h on) := by
  unfold State.holdGroups
  repeat' first
    | extract_lets
    | with_reducible assumption
    | exact sub_trans rfl hK
    | exact bit_of rfl hK
    | split
    | with_reducible apply presentGrp_same
    | with_reducible apply updGrp_same
    | with_reducible apply Same.foldl
    | intro _
    | dsimp +zetaDelta only

theorem latchIn_same {K : Nat} {Z : State} (s : State) (g : Nat) (hK : 537001988 &&& K = 537001988) (hZ : Same K Z s) :
    Same K Z (State.latchIn s g) := by
  unfold State.latchIn
  repeat' first
    | extract_lets
    | with_reducible assumption
    | exact sub_trans rfl hK
    | exact bit_of rfl hK
    | split
    | with_reducible apply freshNext_same
    | with_reducible apply latch_same

theorem recoveryRecord_same {K : Nat} {Z : State} (s : State) (kind : Nat) (h : Nat) (trigger : Nat) (from_ : Nat) (failed : Nat) (hK : 558345748696 &&& K = 558345748696) (hZ : Same K Z s) :
    Same K Z (State.recoveryRecord s kind h trigger from_ failed) := by
  unfold State.recoveryRecord
  repeat' first
    | extract_lets
    | with_reducible assumption
    | exact sub_trans rfl hK
    | exact bit_of rfl hK
    | split
    | with_reducible apply postGlobal_same

theorem failOnCore_same {K : Nat} {Z : State} (s : State) (h : Nat) (core : Nat) (hK : 903931104220 &&& K = 903931104220) (hZ : Same K Z s) :
    Same K Z (State.failOnCore s h core) := by
  unfold State.failOnCore
  repeat' first
    | extract_lets
    | with_reducible assumption
    | exact sub_trans rfl hK
    | exact bit_of rfl hK
    | split
    | with_reducible apply bumpGen_same
    | with_reducible apply failCmd_same
    | with_reducible apply updHide_same
    | with_reducible apply Same.foldl
    | intro _
    | dsimp +zetaDelta only

theorem returnAcre_same {K : Nat} {Z : State} (s : State) (h : Nat) (hK : 834036960220 &&& K = 834036960220) (hZ : Same K Z s) :
    Same K Z (State.returnAcre s h) := by
  unfold State.returnAcre
  repeat' first
    | extract_lets
    | with_reducible assumption
    | exact sub_trans rfl hK
    | exact bit_of rfl hK
    | split
    | with_reducible apply dropChans_same
    | with_reducible apply releaseUnits_same
    | with_reducible apply updAcre_same
    | with_reducible apply updCmd_same
    | with_reducible apply Same.foldl
    | intro _
    | dsimp +zetaDelta only

theorem endSteps_same {K : Nat} {Z : State} (s : State) (h : Nat) (hK : 903931104220 &&& K = 903931104220) (hZ : Same K Z s) :
    Same K Z (State.endSteps s h) := by
  unfold State.endSteps
  repeat' first
    | extract_lets
    | with_reducible assumption
    | exact sub_trans rfl hK
    | exact bit_of rfl hK
    | split
    | with_reducible apply endCmd_same
    | with_reducible apply Same.foldl
    | intro _

theorem startReset_same {K : Nat} {Z : State} (s : State) (h : Nat) (trigger : Nat) (hK : 903931104220 &&& K = 903931104220) (hZ : Same K Z s) :
    Same K Z (State.startReset s h trigger) := by
  unfold State.startReset
  repeat' first
    | extract_lets
    | with_reducible assumption
    | exact sub_trans rfl hK
    | exact bit_of rfl hK
    | split
    | with_reducible apply endSteps_same
    | with_reducible apply failOnCore_same
    | with_reducible apply holdGroups_same
    | with_reducible apply preempt_same
    | with_reducible apply retime_same
    | with_reducible apply returnAcre_same
    | with_reducible apply stopChans_same
    | with_reducible apply updHide_same
    | with_reducible apply Same.foldl
    | intro _
    | dsimp +zetaDelta only

theorem unitRecord_same {K : Nat} {Z : State} (s : State) (core : Nat) (event : Nat) (h : Nat) (hK : 558345748696 &&& K = 558345748696) (hZ : Same K Z s) :
    Same K Z (State.unitRecord s core event h) := by
  unfold State.unitRecord
  repeat' first
    | extract_lets
    | with_reducible assumption
    | exact sub_trans rfl hK
    | exact bit_of rfl hK
    | split
    | with_reducible apply postGlobal_same

theorem scrubFurlong_same {K : Nat} {Z : State} (s : State) (f : Nat) (hK : 131072 &&& K = 131072) (hZ : Same K Z s) :
    Same K Z (State.scrubFurlong s f) := by
  unfold State.scrubFurlong
  repeat' first
    | extract_lets
    | with_reducible assumption
    | exact sub_trans rfl hK
    | exact bit_of rfl hK
    | split
    | with_reducible apply updCore_same
    | with_reducible apply Same.foldl
    | intro _

theorem endEngineZero_same {K : Nat} {Z : State} (s : State) (h : Nat) (hK : 903931104220 &&& K = 903931104220) (hZ : Same K Z s) :
    Same K Z (State.endEngineZero s h) := by
  unfold State.endEngineZero
  repeat' first
    | extract_lets
    | with_reducible assumption
    | exact sub_trans rfl hK
    | exact bit_of rfl hK
    | split
    | with_reducible apply failCmd_same
    | with_reducible apply Same.foldl
    | intro _

theorem furlongOff_same {K : Nat} {Z : State} (s : State) (f : Nat) (hK : 34359738368 &&& K = 34359738368) (hZ : Same K Z s) :
    Same K Z (State.furlongOff s f) := by
  unfold State.furlongOff
  repeat' first
    | extract_lets
    | with_reducible assumption
    | exact sub_trans rfl hK
    | exact bit_of rfl hK
    | split
    | with_reducible apply Same.pow_upd

theorem leaveHide_same {K : Nat} {Z : State} (s : State) (f : Nat) (h : Nat) (hK : 942585809884 &&& K = 942585809884) (hZ : Same K Z s) :
    Same K Z (State.leaveHide s f h) := by
  unfold State.leaveHide
  repeat' first
    | extract_lets
    | with_reducible assumption
    | exact sub_trans rfl hK
    | exact bit_of rfl hK
    | split
    | with_reducible apply endEngineZero_same
    | with_reducible apply furlongOff_same
    | with_reducible apply scrubFurlong_same
    | with_reducible apply setRun_same

theorem retire_same {K : Nat} {Z : State} (s : State) (h : Nat) (core : Nat) (hK : 942585809884 &&& K = 942585809884) (hZ : Same K Z s) :
    Same K Z (State.retire s h core) := by
  unfold State.retire
  repeat' first
    | extract_lets
    | with_reducible assumption
    | exact sub_trans rfl hK
    | exact bit_of rfl hK
    | split
    | with_reducible apply leaveHide_same
    | with_reducible apply unitRecord_same
    | with_reducible apply updCore_same
    | dsimp +zetaDelta only

theorem markSuspect_same {K : Nat} {Z : State} (s : State) (core : Nat) (hK : 903931104220 &&& K = 903931104220) (hZ : Same K Z s) :
    Same K Z (State.markSuspect s core) := by
  unfold State.markSuspect
  repeat' first
    | extract_lets
    | with_reducible assumption
    | exact sub_trans rfl hK
    | exact bit_of rfl hK
    | split
    | with_reducible apply latchIn_same
    | with_reducible apply startReset_same
    | with_reducible apply unitRecord_same
    | with_reducible apply updCore_same

theorem testPosition_same {K : Nat} {Z : State} (s : State) (h : Nat) (core : Nat) (fails : Bool) (hK : 942585809884 &&& K = 942585809884) (hZ : Same K Z s) :
    Same K Z (State.testPosition s h core fails) := by
  unfold State.testPosition
  repeat' first
    | extract_lets
    | with_reducible assumption
    | exact sub_trans rfl hK
    | exact bit_of rfl hK
    | split
    | with_reducible apply retire_same
    | with_reducible apply unitRecord_same
    | with_reducible apply updCore_same
    | dsimp +zetaDelta only

theorem scrubCores_same {K : Nat} {Z : State} (s : State) (h : Nat) (hK : 131072 &&& K = 131072) (hZ : Same K Z s) :
    Same K Z (State.scrubCores s h) := by
  unfold State.scrubCores
  repeat' first
    | extract_lets
    | with_reducible assumption
    | exact sub_trans rfl hK
    | exact bit_of rfl hK
    | split
    | with_reducible apply scrubFurlong_same
    | with_reducible apply Same.foldl
    | intro _

theorem startMoves_same {K : Nat} {Z : State} (s : State) (hK : 12582912 &&& K = 12582912) (hZ : Same K Z s) :
    Same K Z (State.startMoves s) := by
  unfold State.startMoves
  repeat' first
    | extract_lets
    | with_reducible assumption
    | exact sub_trans rfl hK
    | exact bit_of rfl hK
    | split
    | with_reducible apply updAcre_same
    | with_reducible apply Same.foldl
    | with_reducible apply Same.moves_upd
    | intro _
    | dsimp +zetaDelta only

theorem endReset_same {K : Nat} {Z : State} (s : State) (h : Nat) (hK : 559163769560 &&& K = 559163769560) (hZ : Same K Z s) :
    Same K Z (State.endReset s h) := by
  unfold State.endReset
  repeat' first
    | extract_lets
    | with_reducible assumption
    | exact sub_trans rfl hK
    | exact bit_of rfl hK
    | split
    | with_reducible apply acreBoundary_same
    | with_reducible apply holdGroups_same
    | with_reducible apply recoveryRecord_same
    | with_reducible apply retime_same
    | with_reducible apply scrubCores_same
    | with_reducible apply startMoves_same
    | with_reducible apply stopChans_same
    | with_reducible apply updHide_same
    | with_reducible apply Same.foldl
    | intro _
    | dsimp +zetaDelta only

theorem startFull_same {K : Nat} {Z : State} (s : State) (h : Nat) (trigger : Nat) (hK : 942585854972 &&& K = 942585854972) (hZ : Same K Z s) :
    Same K Z (State.startFull s h trigger) := by
  unfold State.startFull
  repeat' first
    | extract_lets
    | with_reducible assumption
    | exact sub_trans rfl hK
    | exact bit_of rfl hK
    | split
    | with_reducible apply applyHide_same
    | with_reducible apply destroyCtx_same
    | with_reducible apply emit_same
    | with_reducible apply holdGroups_same
    | with_reducible apply readShift_same
    | with_reducible apply refreshAll_same
    | with_reducible apply rehome_same
    | with_reducible apply retime_same
    | with_reducible apply scrubCores_same
    | with_reducible apply updHide_same
    | with_reducible apply Same.foldl
    | intro _
    | dsimp +zetaDelta only

theorem rekey_same {K : Nat} {Z : State} (s : State) (h : Nat) (hK : 56 &&& K = 56) (hZ : Same K Z s) :
    Same K Z (State.rekey s h) := by
  unfold State.rekey
  repeat' first
    | extract_lets
    | with_reducible assumption
    | exact sub_trans rfl hK
    | exact bit_of rfl hK
    | split
    | with_reducible apply Same.foldl
    | with_reducible apply Same.mem_upd
    | with_reducible apply Same.exposed_upd
    | with_reducible apply Same.scrubbed_upd
    | intro _
    | dsimp +zetaDelta only
    | exact Or.inl (bit_of rfl hK)
    | exact Or.inr rfl
    | exact rfl
    | with_reducible apply Same.mk_upd

theorem endFull_same {K : Nat} {Z : State} (s : State) (h : Nat) (hK : 558895333592 &&& K = 558895333592) (hZ : Same K Z s) :
    Same K Z (State.endFull s h) := by
  unfold State.endFull
  repeat' first
    | extract_lets
    | with_reducible assumption
    | exact sub_trans rfl hK
    | exact bit_of rfl hK
    | split
    | with_reducible apply holdGroups_same
    | with_reducible apply recoveryRecord_same
    | with_reducible apply refreshAll_same
    | with_reducible apply startMoves_same
    | with_reducible apply updHide_same
    | dsimp +zetaDelta only

theorem afterRecovery_same {K : Nat} {Z : State} (s : State) (h : Nat) (hK : 942585854972 &&& K = 942585854972) (hZ : Same K Z s) :
    Same K Z (State.afterRecovery s h) := by
  unfold State.afterRecovery
  repeat' first
    | extract_lets
    | with_reducible assumption
    | exact sub_trans rfl hK
    | exact bit_of rfl hK
    | split
    | with_reducible apply startFull_same
    | with_reducible apply updHide_same

theorem drawKey_same {K : Nat} {Z : State} (s : State) (h : Nat) (hK : 34363932728 &&& K = 34363932728) (hZ : Same K Z s) :
    Same K Z (State.drawKey s h) := by
  unfold State.drawKey
  repeat' first
    | extract_lets
    | with_reducible assumption
    | exact sub_trans rfl hK
    | exact bit_of rfl hK
    | split
    | with_reducible apply drawNext_same
    | with_reducible apply rekey_same
    | with_reducible apply updHide_same

end Sys2Proof.Laws
end

