-- ==== Sys2Proof/Laws/FrameAcre.lean ====
section
/-! SUPPORT. Frames of the operations of Machine/Acre.lean: the fields that each may change. -/

namespace Sys2Proof.Laws

open Sys2Proof.Machine

theorem acreAsk_same {K : Nat} {Z : State} (s : State) (h : Nat) (c : Cmd) (ls : List (Nat × List Nat)) (hK : 833231653848 &&& K = 833231653848) (hZ : Same K Z s) :
    Same K Z (State.acreAsk s h c ls) := by
  unfold State.acreAsk
  repeat' first
    | extract_lets
    | with_reducible assumption
    | exact sub_trans rfl hK
    | exact bit_of rfl hK
    | split
    | with_reducible apply askReads_same
    | with_reducible apply Same.foldl
    | intro _

theorem acreWrite_same {K : Nat} {Z : State} (s : State) (c : Cmd) (ext : Nat) (off : Nat) (bs : List Byte) (hK : 833231653848 &&& K = 833231653848) (hZ : Same K Z s) :
    Same K Z (State.acreWrite s c ext off bs) := by
  unfold State.acreWrite
  repeat' first
    | extract_lets
    | with_reducible assumption
    | exact sub_trans rfl hK
    | exact bit_of rfl hK
    | split
    | with_reducible apply writeExt_same

theorem storeRow_same {K : Nat} {Z : State} (s : State) (c : Cmd) (o : AcreOp) (i : Nat) (hK : 833231653848 &&& K = 833231653848) (hZ : Same K Z s) :
    Same K Z (State.storeRow s c o i) := by
  unfold State.storeRow
  repeat' first
    | extract_lets
    | with_reducible assumption
    | exact sub_trans rfl hK
    | exact bit_of rfl hK
    | split
    | with_reducible apply acreWrite_same
    | dsimp +zetaDelta only

theorem acreFed_same {K : Nat} {Z : State} (s : State) (cid : Nat) (hK : 268435968 &&& K = 268435968) (hZ : Same K Z s) :
    Same K Z (State.acreFed s cid) := by
  unfold State.acreFed
  repeat' first
    | extract_lets
    | with_reducible assumption
    | exact sub_trans rfl hK
    | exact bit_of rfl hK
    | split
    | with_reducible apply retime_same
    | with_reducible apply updChan_same
    | with_reducible apply Same.foldl
    | intro _

theorem claimUnits_same {K : Nat} {Z : State} (s : State) (h : Nat) (hK : 88 &&& K = 88) (hZ : Same K Z s) :
    Same K Z (State.claimUnits s h) := by
  unfold State.claimUnits
  repeat' first
    | extract_lets
    | with_reducible assumption
    | exact sub_trans rfl hK
    | exact bit_of rfl hK
    | split
    | with_reducible apply writeSlot_same
    | with_reducible apply Same.foldl
    | intro _

theorem takeStreams_same {K : Nat} {Z : State} {s : State} {c : Cmd} {t : State} (h : s.takeStreams c = some t)
    (hK : 268435968 &&& K = 268435968) (hZ : Same K Z s) : Same K Z t := by
  unfold State.takeStreams at h
  split at h
  · cases h
    repeat' first
      | extract_lets
      | with_reducible assumption
      | exact sub_trans rfl hK
      | exact bit_of rfl hK
      | split
      | with_reducible apply placeChan_same
      | with_reducible apply Same.foldl
      | intro _
  · have key : ∀ (l : List Nat) (b : Option State), (∀ u, b = some u → Same K Z u) → ∀ u,
        l.foldl (fun (b : Option State) _ => b.bind (fun t => (t.pickChan ((t.chansOf c.cid).map (fun x => x.1))).map
          (fun mc => t.placeChan mc c []))) b = some u → Same K Z u := by
      intro l
      induction l with
      | nil => exact fun b hb u hu => hb u hu
      | cons a r ih =>
        intro b hb u hu
        rw [List.foldl_cons] at hu
        refine ih _ (fun v hv => ?_) u hu
        rw [Option.bind_eq_some_iff] at hv
        obtain ⟨w, hw, hv⟩ := hv
        rw [Option.map_eq_some_iff] at hv
        obtain ⟨_, _, rfl⟩ := hv
        exact placeChan_same _ _ _ _ (sub_trans rfl hK) (hb w hw)
    exact key _ _ (fun u hu => by cases hu; exact hZ) _ h

theorem putAcre_same {K : Nat} {Z : State} (s : State) (h : Nat) (o : AcreOp) (hK : 4194816 &&& K = 4194816) (hZ : Same K Z s) :
    Same K Z (State.putAcre s h o) := by
  unfold State.putAcre
  repeat' first
    | extract_lets
    | with_reducible assumption
    | exact sub_trans rfl hK
    | exact bit_of rfl hK
    | split
    | with_reducible apply retime_same
    | with_reducible apply updAcre_same

theorem startAcre_same {K : Nat} {Z : State} (s : State) (c : Cmd) (hK : 272630360 &&& K = 272630360) (hZ : Same K Z s) :
    Same K Z (State.startAcre s c) := by
  unfold State.startAcre
  repeat' first
    | extract_lets
    | with_reducible assumption
    | exact sub_trans rfl hK
    | exact bit_of rfl hK
    | split
    | with_reducible apply acreFed_same
    | with_reducible apply claimUnits_same
    | with_reducible apply retime_same
    | with_reducible refine takeStreams_same ‹_› ?_ ?_
    | with_reducible apply updAcre_same
    | with_reducible apply updCmd_same
    | dsimp +zetaDelta only

theorem onStep_same {K : Nat} {Z : State} (s : State) (h : Nat) (step : AcreStep) (f : AcreOp → Cmd → State) (hK : 833231653848 &&& K = 833231653848) (hf : ∀ x0 x1, Same K Z (f x0 x1)) (hZ : Same K Z s) :
    Same K Z (State.onStep s h step f) := by
  unfold State.onStep
  repeat' first
    | extract_lets
    | with_reducible assumption
    | exact sub_trans rfl hK
    | exact bit_of rfl hK
    | split
    | with_reducible apply acreAsk_same
    | with_reducible apply hf

theorem stepAcre_same {K : Nat} {Z : State} (s : State) (h : Nat) (o : AcreOp) (hK : 272630272 &&& K = 272630272) (hZ : Same K Z s) :
    Same K Z (State.stepAcre s h o) := by
  unfold State.stepAcre
  repeat' first
    | extract_lets
    | with_reducible assumption
    | exact sub_trans rfl hK
    | exact bit_of rfl hK
    | split
    | with_reducible apply acreFed_same
    | with_reducible apply progress_same
    | with_reducible apply putAcre_same

theorem endSlice_same {K : Nat} {Z : State} (s : State) (h : Nat) (bad : List (Fin 16 × Fin 16)) (o : AcreOp) (c : Cmd) (hK : 903931104220 &&& K = 903931104220) (hZ : Same K Z s) :
    Same K Z (State.endSlice s h bad o c) := by
  unfold State.endSlice
  repeat' first
    | extract_lets
    | with_reducible assumption
    | exact sub_trans rfl hK
    | exact bit_of rfl hK
    | split
    | with_reducible apply acreFed_same
    | with_reducible apply failCmd_same
    | with_reducible apply markSuspect_same
    | with_reducible apply putAcre_same
    | with_reducible apply stepAcre_same
    | with_reducible apply Same.foldl
    | intro _
    | dsimp +zetaDelta only

theorem storeStep_same {K : Nat} {Z : State} (s : State) (h : Nat) (o : AcreOp) (c : Cmd) (hK : 903931104220 &&& K = 903931104220) (hZ : Same K Z s) :
    Same K Z (State.storeStep s h o c) := by
  unfold State.storeStep
  repeat' first
    | extract_lets
    | with_reducible assumption
    | exact sub_trans rfl hK
    | exact bit_of rfl hK
    | split
    | with_reducible apply failCmd_same
    | with_reducible apply stepAcre_same
    | with_reducible apply storeRow_same
    | with_reducible apply Same.foldl
    | intro _
    | dsimp +zetaDelta only

theorem endAcre_same {K : Nat} {Z : State} (s : State) (h : Nat) (o : AcreOp) (c : Cmd) (hK : 833500089304 &&& K = 833500089304) (hZ : Same K Z s) :
    Same K Z (State.endAcre s h o c) := by
  unfold State.endAcre
  repeat' first
    | extract_lets
    | with_reducible assumption
    | exact sub_trans rfl hK
    | exact bit_of rfl hK
    | split
    | with_reducible apply acreLeft_same
    | with_reducible apply acreWrite_same
    | with_reducible apply finish_same
    | with_reducible apply freeChan_same
    | with_reducible apply retime_same
    | with_reducible apply updAcre_same
    | with_reducible apply Same.foldl
    | intro _
    | dsimp +zetaDelta only

theorem loadIdle_same {K : Nat} {Z : State} (s : State) (h : Nat) (o : AcreOp) (c : Cmd) (hK : 833231653848 &&& K = 833231653848) (hZ : Same K Z s) :
    Same K Z (State.loadIdle s h o c) := by
  unfold State.loadIdle
  repeat' first
    | extract_lets
    | with_reducible assumption
    | exact sub_trans rfl hK
    | exact bit_of rfl hK
    | split
    | with_reducible apply acreAsk_same
    | with_reducible apply updAcre_same
    | dsimp +zetaDelta only

end Sys2Proof.Laws
end

