-- ==== Sys2Proof/Laws/FrameOperands.lean ====
section
/-! SUPPORT. Frames of the operations of Machine/Operands.lean: the fields that each may change. -/

namespace Sys2Proof.Laws

open Sys2Proof.Machine

/-- What an instruction does beside its chain keeps the fields outside a set. -/
def Act.keeps (K : Nat) (Z : State) : Act → Prop
  | .with_ _ g => ∀ t, Same K Z t → Same K Z (g t)
  | .asks _ g => ∀ t, Same K Z t → Same K Z (g t)
  | .hold _ g => ∀ t, Same K Z t → Same K Z (g t)
  | .request g => ∀ t, Same K Z t → Same K Z (g t)
  | _ => True

theorem Act.keeps_done {K : Nat} {Z : State} {c : Chain} : Act.keeps K Z (.done c) := trivial
theorem Act.keeps_exc {K : Nat} {Z : State} {e : Exc} : Act.keeps K Z (.exc e) := trivial
theorem Act.keeps_wait {K : Nat} {Z : State} : Act.keeps K Z .wait := trivial
theorem Act.keeps_with {K : Nat} {Z : State} {c : Chain} {g : State → State} (h : ∀ t, Same K Z t → Same K Z (g t)) :
    Act.keeps K Z (.with_ c g) := h
theorem Act.keeps_asks {K : Nat} {Z : State} {c : Chain} {g : State → State} (h : ∀ t, Same K Z t → Same K Z (g t)) :
    Act.keeps K Z (.asks c g) := h
theorem Act.keeps_hold {K : Nat} {Z : State} {c : Chain} {g : State → State} (h : ∀ t, Same K Z t → Same K Z (g t)) :
    Act.keeps K Z (.hold c g) := h
theorem Act.keeps_request {K : Nat} {Z : State} {g : State → State} (h : ∀ t, Same K Z t → Same K Z (g t)) :
    Act.keeps K Z (.request g) := h

theorem takeExc_same {K : Nat} {Z : State} (s : State) (cid : Nat) (st : Nat) (err : ErrInfo) (hK : 903931104220 &&& K = 903931104220) (hZ : Same K Z s) :
    Same K Z (State.takeExc s cid st err) := by
  unfold State.takeExc
  repeat' first
    | extract_lets
    | with_reducible assumption
    | exact sub_trans rfl hK
    | exact bit_of rfl hK
    | split
    | with_reducible apply failCmd_same
    | with_reducible apply retime_same
    | with_reducible apply updCmd_same

theorem raiseAt_same {K : Nat} {Z : State} (s : State) (core : Nat) (slot : Nat) (cid : Nat) (pc : Nat) (e : Exc) (hK : 903931104220 &&& K = 903931104220) (hZ : Same K Z s) :
    Same K Z (State.raiseAt s core slot cid pc e) := by
  unfold State.raiseAt
  repeat' first
    | extract_lets
    | with_reducible assumption
    | exact sub_trans rfl hK
    | exact bit_of rfl hK
    | split
    | with_reducible apply freshNext_same
    | with_reducible apply latch_same
    | with_reducible apply latchIn_same
    | with_reducible apply takeExc_same
    | with_reducible apply updChain_same

theorem raise_same {K : Nat} {Z : State} (s : State) (core : Nat) (slot : Nat) (e : Exc) (hK : 903931104220 &&& K = 903931104220) (hZ : Same K Z s) :
    Same K Z (State.raise s core slot e) := by
  unfold State.raise
  repeat' first
    | extract_lets
    | with_reducible assumption
    | exact sub_trans rfl hK
    | exact bit_of rfl hK
    | split
    | with_reducible apply raiseAt_same

theorem loadExc_same {K : Nat} {Z : State} (s : State) (core : Nat) (slot : Nat) (idx : Nat) (cause : Nat) (hK : 903931104220 &&& K = 903931104220) (hZ : Same K Z s) :
    Same K Z (State.loadExc s core slot idx cause) := by
  unfold State.loadExc
  repeat' first
    | extract_lets
    | with_reducible assumption
    | exact sub_trans rfl hK
    | exact bit_of rfl hK
    | split
    | with_reducible apply raise_same
    | with_reducible apply updChain_same

theorem loadErr_same {K : Nat} {Z : State} (s : State) (core : Nat) (slot : Nat) (idx : Nat) (hK : 903931104220 &&& K = 903931104220) (hZ : Same K Z s) :
    Same K Z (State.loadErr s core slot idx) := by
  unfold State.loadErr
  repeat' first
    | extract_lets
    | with_reducible assumption
    | exact sub_trans rfl hK
    | exact bit_of rfl hK
    | split
    | with_reducible apply loadExc_same

theorem retired_same {K : Nat} {Z : State} (s : State) (c : Chain) (hK : 512 &&& K = 512) (hZ : Same K Z s) :
    Same K Z (State.retired s c) := by
  unfold State.retired
  repeat' first
    | extract_lets
    | with_reducible assumption
    | exact sub_trans rfl hK
    | exact bit_of rfl hK
    | split
    | with_reducible apply progress_same

theorem act_same {K : Nat} {Z : State} (s : State) (core : Nat) (slot : Nat) (c : Chain) (a : Act) (hK : 903931104220 &&& K = 903931104220)
    (ha : Act.keeps K Z a) (hZ : Same K Z s) : Same K Z (State.act s core slot c a) := by
  have hr : ∀ k, Same K Z ((s.updChain core slot (fun _ => k)).retired c) := fun k =>
    retired_same _ _ (sub_trans rfl hK) (updChain_same _ _ _ _ (sub_trans rfl hK) hZ)
  cases a with
  | done k => exact hr k
  | with_ k g =>
    show Same K Z (if c.settled then g ((s.updChain core slot (fun _ => k)).retired c) else s)
    split
    · exact ha _ (hr k)
    · exact hZ
  | asks k g => exact ha _ (hr k)
  | exc e =>
    show Same K Z (if c.settled then s.raise core slot e else s)
    split
    · exact raise_same _ _ _ _ (sub_trans rfl hK) hZ
    · exact hZ
  | hold k g => exact ha _ (updChain_same _ _ _ _ (sub_trans rfl hK) hZ)
  | request g => exact ha _ hZ
  | wait => exact hZ

theorem fillCode_same {K : Nat} {Z : State} (s : State) (core : Nat) (c : Chain) (hK : 131072 &&& K = 131072) (hZ : Same K Z s) :
    Same K Z (State.fillCode s core c) := by
  unfold State.fillCode
  repeat' first
    | extract_lets
    | with_reducible assumption
    | exact sub_trans rfl hK
    | exact bit_of rfl hK
    | split
    | with_reducible apply updCore_same
    | dsimp +zetaDelta only

theorem issue_same {K : Nat} {Z : State} (s : State) (r : ChainRef) (vs : List Nat) (us : List Nat) (f : Chain → Act) (hK : 903931104220 &&& K = 903931104220) (hf : ∀ x0, Act.keeps K Z (f x0)) (hZ : Same K Z s) :
    Same K Z (State.issue s r vs us f) := by
  unfold State.issue
  repeat' first
    | extract_lets
    | with_reducible assumption
    | exact sub_trans rfl hK
    | exact bit_of rfl hK
    | split
    | with_reducible apply act_same
    | with_reducible apply fillCode_same
    | with_reducible apply hf
    | with_reducible exact trivial
    | with_reducible apply Act.keeps_exc
    | intro _

theorem vector_same {K : Nat} {Z : State} (s : State) (r : ChainRef) (pred : Fin 8) (neg : Bool) (illegal : Bool) (vs : List Nat) (us : List Nat) (f : Chain → W32 → Chain) (hK : 903931104220 &&& K = 903931104220) (hZ : Same K Z s) :
    Same K Z (State.vector s r pred neg illegal vs us f) := by
  unfold State.vector
  repeat' first
    | extract_lets
    | with_reducible assumption
    | exact sub_trans rfl hK
    | exact bit_of rfl hK
    | split
    | with_reducible apply issue_same
    | with_reducible exact trivial
    | with_reducible apply Act.keeps_done
    | with_reducible apply Act.keeps_exc
    | intro _
    | dsimp +zetaDelta only

theorem whole_same {K : Nat} {Z : State} (s : State) (r : ChainRef) (pred : Fin 8) (neg : Bool) (vs : List Nat) (us : List Nat) (f : Chain → Act) (hK : 903931104220 &&& K = 903931104220) (hf : ∀ x0, Act.keeps K Z (f x0)) (hZ : Same K Z s) :
    Same K Z (State.whole s r pred neg vs us f) := by
  unfold State.whole
  repeat' first
    | extract_lets
    | with_reducible assumption
    | exact sub_trans rfl hK
    | exact bit_of rfl hK
    | split
    | with_reducible apply issue_same
    | with_reducible apply hf
    | with_reducible exact trivial
    | with_reducible apply Act.keeps_done
    | with_reducible apply Act.keeps_exc
    | intro _

theorem acquired_same {K : Nat} {Z : State} (s : State) (core : Nat) (scope : Nat) (hK : 131072 &&& K = 131072) (hZ : Same K Z s) :
    Same K Z (State.acquired s core scope) := by
  unfold State.acquired
  repeat' first
    | extract_lets
    | with_reducible assumption
    | exact sub_trans rfl hK
    | exact bit_of rfl hK
    | split
    | with_reducible apply invalidateDcache_same

theorem v3_same {K : Nat} {Z : State} (s : State) (r : ChainRef) (i : V3) (useC : Bool) (readD : Bool) (illegal : Bool) (f : W32 → W32 → W32 → W32 → W32) (hK : 903931104220 &&& K = 903931104220) (hZ : Same K Z s) :
    Same K Z (State.v3 s r i useC readD illegal f) := by
  unfold State.v3
  repeat' first
    | extract_lets
    | with_reducible assumption
    | exact sub_trans rfl hK
    | exact bit_of rfl hK
    | split
    | with_reducible apply vector_same

end Sys2Proof.Laws
end

