-- ==== Sys2Proof/Laws/FrameLinks.lean ====
section
/-! SUPPORT. Frames of the operations of Machine/Links.lean: the fields that each may change. -/

namespace Sys2Proof.Laws

open Sys2Proof.Machine

theorem linkRecord_same {K : Nat} {Z : State} (s : State) (port : Nat) (kind : Nat) (peer : Nat) (retries : Nat) (hK : 558345748696 &&& K = 558345748696) (hZ : Same K Z s) :
    Same K Z (State.linkRecord s port kind peer retries) := by
  unfold State.linkRecord
  repeat' first
    | extract_lets
    | with_reducible assumption
    | exact sub_trans rfl hK
    | exact bit_of rfl hK
    | split
    | with_reducible apply postGlobal_same

theorem mapChanged_same {K : Nat} {Z : State} (s : State) (hK : 274877906944 &&& K = 274877906944) (hZ : Same K Z s) :
    Same K Z (State.mapChanged s) := by
  unfold State.mapChanged
  repeat' first
    | extract_lets
    | with_reducible assumption
    | exact sub_trans rfl hK
    | exact bit_of rfl hK
    | split
    | with_reducible apply Same.fab_upd

theorem floodOwn_same {K : Nat} {Z : State} (s : State) (hK : 824633720832 &&& K = 824633720832) (hZ : Same K Z s) :
    Same K Z (State.floodOwn s) := by
  unfold State.floodOwn
  repeat' first
    | extract_lets
    | with_reducible assumption
    | exact sub_trans rfl hK
    | exact bit_of rfl hK
    | split
    | with_reducible apply emit_same
    | with_reducible apply mapChanged_same
    | with_reducible apply Same.foldl
    | with_reducible apply Same.fab_upd
    | intro _
    | dsimp +zetaDelta only

theorem linksChanged_same {K : Nat} {Z : State} (s : State) (hK : 824633720832 &&& K = 824633720832) (hZ : Same K Z s) :
    Same K Z (State.linksChanged s) := by
  unfold State.linksChanged
  repeat' first
    | extract_lets
    | with_reducible assumption
    | exact sub_trans rfl hK
    | exact bit_of rfl hK
    | split
    | with_reducible apply floodOwn_same
    | with_reducible apply Same.fab_upd

theorem linkState_same {K : Nat} {Z : State} (s : State) (p : Nat) (st : LkSt) (hK : 275414908928 &&& K = 275414908928) (hZ : Same K Z s) :
    Same K Z (State.linkState s p st) := by
  unfold State.linkState
  repeat' first
    | extract_lets
    | with_reducible assumption
    | exact sub_trans rfl hK
    | exact bit_of rfl hK
    | split
    | with_reducible apply latch_same
    | with_reducible apply updLink_same

theorem linkDown_same {K : Nat} {Z : State} (s : State) (p : Nat) (st : LkSt) (hK : 833760657624 &&& K = 833760657624) (hZ : Same K Z s) :
    Same K Z (State.linkDown s p st) := by
  unfold State.linkDown
  repeat' first
    | extract_lets
    | with_reducible assumption
    | exact sub_trans rfl hK
    | exact bit_of rfl hK
    | split
    | with_reducible apply linkRecord_same
    | with_reducible apply linkState_same
    | with_reducible apply linksChanged_same
    | with_reducible apply updLink_same
    | dsimp +zetaDelta only

theorem linkUp_same {K : Nat} {Z : State} (s : State) (p : Nat) (node : Nat) (port : Nat) (hK : 833760657624 &&& K = 833760657624) (hZ : Same K Z s) :
    Same K Z (State.linkUp s p node port) := by
  unfold State.linkUp
  repeat' first
    | extract_lets
    | with_reducible assumption
    | exact sub_trans rfl hK
    | exact bit_of rfl hK
    | split
    | with_reducible apply emit_same
    | with_reducible apply linkRecord_same
    | with_reducible apply linkState_same
    | with_reducible apply linksChanged_same
    | with_reducible apply updLink_same
    | with_reducible apply Same.foldl
    | intro _
    | dsimp +zetaDelta only

theorem takeCredits_same {K : Nat} {Z : State} (s : State) (p : Nat) (word : Nat) (hK : 274877906944 &&& K = 274877906944) (hZ : Same K Z s) :
    Same K Z (State.takeCredits s p word) := by
  unfold State.takeCredits
  repeat' first
    | extract_lets
    | with_reducible assumption
    | exact sub_trans rfl hK
    | exact bit_of rfl hK
    | split
    | with_reducible apply updLink_same
    | with_reducible apply Same.foldl
    | intro _
    | dsimp +zetaDelta only

theorem takeNak_same {K : Nat} {Z : State} (s : State) (p : Nat) (ack : Nat) (hK : 833760657624 &&& K = 833760657624) (hZ : Same K Z s) :
    Same K Z (State.takeNak s p ack) := by
  unfold State.takeNak
  repeat' first
    | extract_lets
    | with_reducible assumption
    | exact sub_trans rfl hK
    | exact bit_of rfl hK
    | split
    | with_reducible apply emit_same
    | with_reducible apply latch_same
    | with_reducible apply linkDown_same
    | with_reducible apply linkRecord_same
    | with_reducible apply updLink_same
    | with_reducible apply Same.foldl
    | intro _
    | dsimp +zetaDelta only

theorem takeFlit_same {K : Nat} {Z : State} (s : State) (p : Nat) (v : Nat) (hK : 833760657624 &&& K = 833760657624) (hZ : Same K Z s) :
    Same K Z (State.takeFlit s p v) := by
  unfold State.takeFlit
  repeat' first
    | extract_lets
    | with_reducible assumption
    | exact sub_trans rfl hK
    | exact bit_of rfl hK
    | split
    | with_reducible apply emit_same
    | with_reducible apply pump_same
    | with_reducible apply takeCredits_same
    | with_reducible apply takeNak_same
    | with_reducible apply updLink_same
    | dsimp +zetaDelta only

theorem receiveFlit_same {K : Nat} {Z : State} (s : State) (p : Nat) (v : Nat) (bad : Bool) (hK : 833760657624 &&& K = 833760657624) (hZ : Same K Z s) :
    Same K Z (State.receiveFlit s p v bad) := by
  unfold State.receiveFlit
  repeat' first
    | extract_lets
    | with_reducible assumption
    | exact sub_trans rfl hK
    | exact bit_of rfl hK
    | split
    | with_reducible apply emit_same
    | with_reducible apply takeFlit_same
    | with_reducible apply updLink_same

theorem dropReq_same {K : Nat} {Z : State} (s : State) (r : RReq) (hK : 274877906944 &&& K = 274877906944) (hZ : Same K Z s) :
    Same K Z (State.dropReq s r) := by
  unfold State.dropReq
  repeat' first
    | extract_lets
    | with_reducible assumption
    | exact sub_trans rfl hK
    | exact bit_of rfl hK
    | split
    | with_reducible apply Same.fab_upd

theorem failCore_same {K : Nat} {Z : State} (s : State) (r : RReq) (core : Nat) (slot : Nat) (ref : Nat) (cause : Nat) (hK : 903931104220 &&& K = 903931104220) (hZ : Same K Z s) :
    Same K Z (State.failCore s r core slot ref cause) := by
  unfold State.failCore
  repeat' first
    | extract_lets
    | with_reducible assumption
    | exact sub_trans rfl hK
    | exact bit_of rfl hK
    | split
    | with_reducible apply loadExc_same
    | with_reducible apply raiseAt_same

theorem failReq_same {K : Nat} {Z : State} (s : State) (r : RReq) (perm : Bool) (hK : 903931104220 &&& K = 903931104220) (hZ : Same K Z s) :
    Same K Z (State.failReq s r perm) := by
  unfold State.failReq
  repeat' first
    | extract_lets
    | with_reducible assumption
    | exact sub_trans rfl hK
    | exact bit_of rfl hK
    | split
    | with_reducible apply chanPerm_same
    | with_reducible apply dropReq_same
    | with_reducible apply emit_same
    | with_reducible apply failCore_same
    | with_reducible apply haltMover_same
    | with_reducible apply killCmd_same
    | dsimp +zetaDelta only

theorem failNodes_same {K : Nat} {Z : State} (s : State) (p : Nat → Bool) (hK : 903931104220 &&& K = 903931104220) (hZ : Same K Z s) :
    Same K Z (State.failNodes s p) := by
  unfold State.failNodes
  repeat' first
    | extract_lets
    | with_reducible assumption
    | exact sub_trans rfl hK
    | exact bit_of rfl hK
    | split
    | with_reducible apply failReq_same
    | with_reducible apply Same.foldl
    | intro _

theorem dropSnoops_same {K : Nat} {Z : State} (s : State) (p : Nat → Bool) (hK : 833231653848 &&& K = 833231653848) (hZ : Same K Z s) :
    Same K Z (State.dropSnoops s p) := by
  unfold State.dropSnoops
  repeat' first
    | extract_lets
    | with_reducible assumption
    | exact sub_trans rfl hK
    | exact bit_of rfl hK
    | split
    | with_reducible apply snoopAck_same
    | with_reducible apply Same.foldl
    | intro _

theorem doGo_same {K : Nat} {Z : State} (s : State) (crc : W32) (table : Tbl Nat) (from_ : Option Nat) (hK : 833223655640 &&& K = 833223655640) (hZ : Same K Z s) :
    Same K Z (State.doGo s crc table from_) := by
  unfold State.doGo
  repeat' first
    | extract_lets
    | with_reducible assumption
    | exact sub_trans rfl hK
    | exact bit_of rfl hK
    | split
    | with_reducible apply emit_same
    | with_reducible apply linkRecord_same
    | with_reducible apply Same.foldl
    | with_reducible apply Same.fab_upd
    | intro _
    | dsimp +zetaDelta only

theorem countReady_same {K : Nat} {Z : State} (s : State) (crc : W32) (table : Tbl Nat) (n : Nat) (hK : 833223655640 &&& K = 833223655640) (hZ : Same K Z s) :
    Same K Z (State.countReady s crc table n) := by
  unfold State.countReady
  repeat' first
    | extract_lets
    | with_reducible assumption
    | exact sub_trans rfl hK
    | exact bit_of rfl hK
    | split
    | with_reducible apply doGo_same
    | with_reducible apply emit_same
    | with_reducible apply Same.fab_upd
    | dsimp +zetaDelta only

theorem placeRoutes_same {K : Nat} {Z : State} (s : State) (hK : 903931104220 &&& K = 903931104220) (hZ : Same K Z s) :
    Same K Z (State.placeRoutes s) := by
  unfold State.placeRoutes
  repeat' first
    | extract_lets
    | with_reducible assumption
    | exact sub_trans rfl hK
    | exact bit_of rfl hK
    | split
    | with_reducible apply countReady_same
    | with_reducible apply dropSnoops_same
    | with_reducible apply failNodes_same
    | with_reducible apply linkRecord_same
    | with_reducible apply Same.foldl
    | with_reducible apply Same.fab_upd
    | intro _
    | dsimp +zetaDelta only

theorem ownNewer_same {K : Nat} {Z : State} (s : State) (seq : W32) (hK : 833760657624 &&& K = 833760657624) (hZ : Same K Z s) :
    Same K Z (State.ownNewer s seq) := by
  unfold State.ownNewer
  repeat' first
    | extract_lets
    | with_reducible assumption
    | exact sub_trans rfl hK
    | exact bit_of rfl hK
    | split
    | with_reducible apply floodOwn_same
    | with_reducible apply linkDown_same
    | with_reducible apply linkRecord_same
    | with_reducible apply Same.foldl
    | with_reducible apply Same.fab_upd
    | intro _
    | dsimp +zetaDelta only

end Sys2Proof.Laws
end

