-- ==== Sys2Proof/Laws/FramePower.lean ====
section
/-! SUPPORT. Frames of the operations of Machine/Power.lean: the fields that each may change. -/

namespace Sys2Proof.Laws

open Sys2Proof.Machine

theorem updGov_same {K : Nat} {Z : State} (s : State) (f : Gov → Gov) (hK : 17179869184 &&& K = 17179869184) (hZ : Same K Z s) :
    Same K Z (State.updGov s f) := by
  unfold State.updGov
  repeat' first
    | extract_lets
    | with_reducible assumption
    | exact sub_trans rfl hK
    | exact bit_of rfl hK
    | split
    | with_reducible apply Same.gov_upd

theorem updPow_same {K : Nat} {Z : State} (s : State) (f : Power → Power) (hK : 34359738368 &&& K = 34359738368) (hZ : Same K Z s) :
    Same K Z (State.updPow s f) := by
  unfold State.updPow
  repeat' first
    | extract_lets
    | with_reducible assumption
    | exact sub_trans rfl hK
    | exact bit_of rfl hK
    | split
    | with_reducible apply Same.pow_upd

theorem askVdd_same {K : Nat} {Z : State} (s : State) (v : Nat) (hK : 566935683072 &&& K = 566935683072) (hZ : Same K Z s) :
    Same K Z (State.askVdd s v) := by
  unfold State.askVdd
  repeat' first
    | extract_lets
    | with_reducible assumption
    | exact sub_trans rfl hK
    | exact bit_of rfl hK
    | split
    | with_reducible apply emit_same
    | with_reducible apply updGov_same

theorem avsFail_same {K : Nat} {Z : State} (s : State) (hK : 17716871172 &&& K = 17716871172) (hZ : Same K Z s) :
    Same K Z (State.avsFail s) := by
  unfold State.avsFail
  repeat' first
    | extract_lets
    | with_reducible assumption
    | exact sub_trans rfl hK
    | exact bit_of rfl hK
    | split
    | with_reducible apply latchIn_same
    | with_reducible apply updGov_same
    | dsimp +zetaDelta only

theorem capDown_same {K : Nat} {Z : State} (s : State) (hK : 17179869184 &&& K = 17179869184) (hZ : Same K Z s) :
    Same K Z (State.capDown s) := by
  unfold State.capDown
  repeat' first
    | extract_lets
    | with_reducible assumption
    | exact sub_trans rfl hK
    | exact bit_of rfl hK
    | split
    | with_reducible apply updGov_same

theorem capUp_same {K : Nat} {Z : State} (s : State) (hK : 17179869184 &&& K = 17179869184) (hZ : Same K Z s) :
    Same K Z (State.capUp s) := by
  unfold State.capUp
  repeat' first
    | extract_lets
    | with_reducible assumption
    | exact sub_trans rfl hK
    | exact bit_of rfl hK
    | split
    | with_reducible apply updGov_same

theorem zeroiseAll_same {K : Nat} {Z : State} (s : State) (hK : 34363932728 &&& K = 34363932728) (hZ : Same K Z s) :
    Same K Z (State.zeroiseAll s) := by
  unfold State.zeroiseAll
  repeat' first
    | extract_lets
    | with_reducible assumption
    | exact sub_trans rfl hK
    | exact bit_of rfl hK
    | split
    | with_reducible apply rekey_same
    | with_reducible apply updHide_same
    | with_reducible apply updPow_same
    | with_reducible apply Same.foldl
    | intro _

theorem trip_same {K : Nat} {Z : State} (s : State) (hK : 576066813956 &&& K = 576066813956) (hZ : Same K Z s) :
    Same K Z (State.trip s) := by
  unfold State.trip
  repeat' first
    | extract_lets
    | with_reducible assumption
    | exact sub_trans rfl hK
    | exact bit_of rfl hK
    | split
    | with_reducible apply askVdd_same
    | with_reducible apply latchIn_same
    | with_reducible apply logAlarm_same
    | with_reducible apply updGov_same
    | with_reducible apply updHide_same
    | with_reducible apply Same.foldl
    | intro _
    | dsimp +zetaDelta only

theorem untrip_same {K : Nat} {Z : State} (s : State) (hK : 959765724156 &&& K = 959765724156) (hZ : Same K Z s) :
    Same K Z (State.untrip s) := by
  unfold State.untrip
  repeat' first
    | extract_lets
    | with_reducible assumption
    | exact sub_trans rfl hK
    | exact bit_of rfl hK
    | split
    | with_reducible apply startFull_same
    | with_reducible apply updGov_same
    | with_reducible apply updHide_same
    | with_reducible apply Same.foldl
    | intro _

theorem aoAlarm_same {K : Nat} {Z : State} (s : State) (code : Nat) (hK : 9126936580 &&& K = 9126936580) (hZ : Same K Z s) :
    Same K Z (State.aoAlarm s code) := by
  unfold State.aoAlarm
  repeat' first
    | extract_lets
    | with_reducible assumption
    | exact sub_trans rfl hK
    | exact bit_of rfl hK
    | split
    | with_reducible apply latchIn_same
    | with_reducible apply logAlarm_same
    | with_reducible apply Same.ao_upd
    | dsimp +zetaDelta only

theorem scrubSram_same {K : Nat} {Z : State} (s : State) (hK : 4410292992 &&& K = 4410292992) (hZ : Same K Z s) :
    Same K Z (State.scrubSram s) := by
  unfold State.scrubSram
  repeat' first
    | extract_lets
    | with_reducible assumption
    | exact sub_trans rfl hK
    | exact bit_of rfl hK
    | split
    | with_reducible apply Same.store_upd
    | with_reducible apply Same.cmds_upd
    | with_reducible apply Same.ctxs_upd
    | with_reducible apply Same.live_upd
    | with_reducible apply Same.allocs_upd
    | with_reducible apply Same.tlb_upd
    | with_reducible apply Same.ats_upd
    | with_reducible apply Same.cores_upd
    | with_reducible apply Same.groups_upd
    | with_reducible apply Same.waiters_upd
    | with_reducible apply Same.lines_upd
    | with_reducible apply Same.hides_upd
    | with_reducible apply Same.moves_upd
    | with_reducible apply Same.plans_upd
    | with_reducible apply Same.seqs_upd
    | with_reducible apply Same.kod_upd
    | dsimp +zetaDelta only
    | exact Or.inl (bit_of rfl hK)
    | exact Or.inr rfl
    | exact rfl
    | with_reducible apply Same.mk_upd

end Sys2Proof.Laws
end

