-- ==== Sys2Proof/Laws/FrameRemote.lean ====
section
/-! SUPPORT. Frames of the operations of Machine/Remote.lean: the fields that each may change. -/

namespace Sys2Proof.Laws

open Sys2Proof.Machine

theorem takeRx_same {K : Nat} {Z : State} (s : State) (p : Nat) (m : LMsg) (hK : 274877906944 &&& K = 274877906944) (hZ : Same K Z s) :
    Same K Z (State.takeRx s p m) := by
  unfold State.takeRx
  repeat' first
    | extract_lets
    | with_reducible assumption
    | exact sub_trans rfl hK
    | exact bit_of rfl hK
    | split
    | with_reducible apply updLink_same

theorem forward_same {K : Nat} {Z : State} (s : State) (m : LMsg) (hK : 824633720832 &&& K = 824633720832) (hZ : Same K Z s) :
    Same K Z (State.forward s m) := by
  unfold State.forward
  repeat' first
    | extract_lets
    | with_reducible assumption
    | exact sub_trans rfl hK
    | exact bit_of rfl hK
    | split
    | with_reducible apply errRsp_same
    | with_reducible apply sendOn_same

theorem onMsg_same {K : Nat} {Z : State} (s : State) (p : Nat) (m : LMsg) (k : Nat) (f : State → State) (hK : 824633720832 &&& K = 824633720832) (hf : ∀ x0, Same K Z x0 → Same K Z (f x0)) (hZ : Same K Z s) :
    Same K Z (State.onMsg s p m k f) := by
  unfold State.onMsg
  repeat' first
    | extract_lets
    | with_reducible assumption
    | exact sub_trans rfl hK
    | exact bit_of rfl hK
    | split
    | with_reducible apply forward_same
    | with_reducible apply takeRx_same
    | with_reducible apply hf
    | dsimp +zetaDelta only

theorem serveReq_same {K : Nat} {Z : State} (s : State) (p : Nat) (m : LMsg) (k : Nat) (kind : HomeKind) (hK : 833231653848 &&& K = 833231653848) (hZ : Same K Z s) :
    Same K Z (State.serveReq s p m k kind) := by
  unfold State.serveReq
  repeat' first
    | extract_lets
    | with_reducible assumption
    | exact sub_trans rfl hK
    | exact bit_of rfl hK
    | split
    | with_reducible apply errRsp_same
    | with_reducible apply onMsg_same
    | with_reducible apply requestOnce_same
    | intro _

theorem updReq_same {K : Nat} {Z : State} (s : State) (tag : Nat) (f : RReq → RReq) (hK : 274877906944 &&& K = 274877906944) (hZ : Same K Z s) :
    Same K Z (State.updReq s tag f) := by
  unfold State.updReq
  repeat' first
    | extract_lets
    | with_reducible assumption
    | exact sub_trans rfl hK
    | exact bit_of rfl hK
    | split
    | with_reducible apply Same.fab_upd

theorem onRsp_same {K : Nat} {Z : State} (s : State) (p : Nat) (m : LMsg) (k : Nat) (kinds : List Nat) (f : State → RReq → State) (hK : 824637915136 &&& K = 824637915136) (hf : ∀ x0 x1, Same K Z x0 → Same K Z (f x0 x1)) (hZ : Same K Z s) :
    Same K Z (State.onRsp s p m k kinds f) := by
  unfold State.onRsp
  repeat' first
    | extract_lets
    | with_reducible assumption
    | exact sub_trans rfl hK
    | exact bit_of rfl hK
    | split
    | with_reducible apply dropReq_same
    | with_reducible apply lateFor_same
    | with_reducible apply onMsg_same
    | with_reducible apply updLink_same
    | with_reducible apply hf
    | intro _

theorem learn_same {K : Nat} {Z : State} (s : State) (pa : Nat) (bs : List Byte) (hK : 88 &&& K = 88) (hZ : Same K Z s) :
    Same K Z (State.learn s pa bs) := by
  unfold State.learn
  repeat' first
    | extract_lets
    | with_reducible assumption
    | exact sub_trans rfl hK
    | exact bit_of rfl hK
    | split
    | with_reducible apply writeBytes_same

theorem loadPart_same {K : Nat} {Z : State} (s : State) (core : Nat) (slot : Nat) (idx : Nat) (hK : 131072 &&& K = 131072) (hZ : Same K Z s) :
    Same K Z (State.loadPart s core slot idx) := by
  unfold State.loadPart
  repeat' first
    | extract_lets
    | with_reducible assumption
    | exact sub_trans rfl hK
    | exact bit_of rfl hK
    | split
    | with_reducible apply updChain_same

theorem signalled_same {K : Nat} {Z : State} (s : State) (r : RReq) (hK : 833227852504 &&& K = 833227852504) (hZ : Same K Z s) :
    Same K Z (State.signalled s r) := by
  unfold State.signalled
  repeat' first
    | extract_lets
    | with_reducible assumption
    | exact sub_trans rfl hK
    | exact bit_of rfl hK
    | split
    | with_reducible apply complete_same
    | with_reducible apply dropReq_same
    | with_reducible apply updReq_same
    | dsimp +zetaDelta only

theorem fillCopy_same {K : Nat} {Z : State} (s : State) (r : RReq) (m : LMsg) (hK : 824636866648 &&& K = 824636866648) (hZ : Same K Z s) :
    Same K Z (State.fillCopy s r m) := by
  unfold State.fillCopy
  repeat' first
    | extract_lets
    | with_reducible assumption
    | exact sub_trans rfl hK
    | exact bit_of rfl hK
    | split
    | with_reducible apply learn_same
    | with_reducible apply makeRoom_same
    | with_reducible apply updLine_same
    | with_reducible apply useLine_same
    | dsimp +zetaDelta only

theorem wakeSaved_same {K : Nat} {Z : State} (s : State) (r : RReq) (hK : 262144 &&& K = 262144) (hZ : Same K Z s) :
    Same K Z (State.wakeSaved s r) := by
  unfold State.wakeSaved
  repeat' first
    | extract_lets
    | with_reducible assumption
    | exact sub_trans rfl hK
    | exact bit_of rfl hK
    | split
    | with_reducible apply updGroup_same

end Sys2Proof.Laws
end

