-- ==== Sys2Proof/Laws/FrameBringup.lean ====
section
/-! SUPPORT. Frames of the operations of Machine/Bringup.lean: the fields that each may change. -/

namespace Sys2Proof.Laws

open Sys2Proof.Machine

theorem wipe_same {K : Nat} {Z : State} (s : State) (cold : Bool) (hK : 541165879226 &&& K = 541165879226) (hZ : Same K Z s) :
    Same K Z (State.wipe s cold) := by
  unfold State.wipe
  repeat' first
    | extract_lets
    | with_reducible assumption
    | exact sub_trans rfl hK
    | exact bit_of rfl hK
    | split
    | with_reducible apply Same.btime_upd
    | with_reducible apply Same.mem_upd
    | with_reducible apply Same.exposed_upd
    | with_reducible apply Same.scrubbed_upd
    | with_reducible apply Same.fns_upd
    | with_reducible apply Same.store_upd
    | with_reducible apply Same.cmds_upd
    | with_reducible apply Same.nextCid_upd
    | with_reducible apply Same.ctxs_upd
    | with_reducible apply Same.live_upd
    | with_reducible apply Same.allocs_upd
    | with_reducible apply Same.nextObj_upd
    | with_reducible apply Same.tlb_upd
    | with_reducible apply Same.ats_upd
    | with_reducible apply Same.cores_upd
    | with_reducible apply Same.groups_upd
    | with_reducible apply Same.waiters_upd
    | with_reducible apply Same.lines_upd
    | with_reducible apply Same.dirClock_upd
    | with_reducible apply Same.hides_upd
    | with_reducible apply Same.moves_upd
    | with_reducible apply Same.mgrMoved_upd
    | with_reducible apply Same.plans_upd
    | with_reducible apply Same.seqs_upd
    | with_reducible apply Same.pendOrder_upd
    | with_reducible apply Same.movers_upd
    | with_reducible apply Same.eg_upd
    | with_reducible apply Same.wms_upd
    | with_reducible apply Same.boxes_upd
    | with_reducible apply Same.kod_upd
    | with_reducible apply Same.gov_upd
    | with_reducible apply Same.pow_upd
    | with_reducible apply Same.engines_upd
    | with_reducible apply Same.sports_upd
    | with_reducible apply Same.fab_upd
    | dsimp +zetaDelta only
    | exact Or.inl (bit_of rfl hK)
    | exact Or.inr rfl
    | exact rfl
    | with_reducible apply Same.mk_upd

theorem deassert_same {K : Nat} {Z : State} (s : State) (profsel : BitVec 2) (hK : 597000454144 &&& K = 597000454144) (hZ : Same K Z s) :
    Same K Z (State.deassert s profsel) := by
  unfold State.deassert
  repeat' first
    | extract_lets
    | with_reducible assumption
    | exact sub_trans rfl hK
    | exact bit_of rfl hK
    | split
    | with_reducible apply flashDiscover_same
    | with_reducible apply flashRead_same
    | with_reducible apply Same.kod_upd
    | with_reducible apply Same.ao_upd
    | with_reducible apply Same.pow_upd
    | dsimp +zetaDelta only
    | exact Or.inl (bit_of rfl hK)
    | exact Or.inr rfl
    | exact rfl
    | with_reducible apply Same.mk_upd

theorem pickFirmware_same {K : Nat} {Z : State} (s : State) (hK : 554050781184 &&& K = 554050781184) (hZ : Same K Z s) :
    Same K Z (State.pickFirmware s) := by
  unfold State.pickFirmware
  repeat' first
    | extract_lets
    | with_reducible assumption
    | exact sub_trans rfl hK
    | exact bit_of rfl hK
    | split
    | with_reducible apply flashRead_same
    | with_reducible apply Same.kod_upd
    | dsimp +zetaDelta only

theorem readStore_same {K : Nat} {Z : State} (s : State) (hK : 549755813888 &&& K = 549755813888) (hZ : Same K Z s) :
    Same K Z (State.readStore s) := by
  unfold State.readStore
  repeat' first
    | extract_lets
    | with_reducible assumption
    | exact sub_trans rfl hK
    | exact bit_of rfl hK
    | split
    | with_reducible apply flashRead_same
    | with_reducible apply Same.foldl
    | intro _

theorem activate_same {K : Nat} {Z : State} (s : State) (p : Nat) (hK : 579820585176 &&& K = 579820585176) (hZ : Same K Z s) :
    Same K Z (State.activate s p) := by
  unfold State.activate
  repeat' first
    | extract_lets
    | with_reducible assumption
    | exact sub_trans rfl hK
    | exact bit_of rfl hK
    | split
    | with_reducible apply capUnits_same
    | with_reducible apply journalDefault_same
    | with_reducible apply Same.foldl
    | with_reducible apply Same.kod_upd
    | with_reducible apply Same.ao_upd
    | with_reducible apply Same.gov_upd
    | intro _
    | dsimp +zetaDelta only
    | exact Or.inl (bit_of rfl hK)
    | exact Or.inr rfl
    | exact rfl
    | with_reducible apply Same.mk_upd

theorem powerUp_same {K : Nat} {Z : State} (s : State) (hK : 868120395992 &&& K = 868120395992) (hZ : Same K Z s) :
    Same K Z (State.powerUp s) := by
  unfold State.powerUp
  repeat' first
    | extract_lets
    | with_reducible assumption
    | exact sub_trans rfl hK
    | exact bit_of rfl hK
    | split
    | with_reducible apply linkRecord_same
    | with_reducible apply linkState_same
    | with_reducible apply powerPorts_same
    | with_reducible apply updPow_same
    | with_reducible apply Same.foldl
    | intro _
    | dsimp +zetaDelta only

theorem startControl_same {K : Nat} {Z : State} (s : State) (hK : 131072 &&& K = 131072) (hZ : Same K Z s) :
    Same K Z (State.startControl s) := by
  unfold State.startControl
  repeat' first
    | extract_lets
    | with_reducible assumption
    | exact sub_trans rfl hK
    | exact bit_of rfl hK
    | split
    | with_reducible apply updCore_same
    | with_reducible apply Same.foldl
    | intro _

theorem latchHigh_same {K : Nat} {Z : State} (s : State) (hK : 537001988 &&& K = 537001988) (hZ : Same K Z s) :
    Same K Z (State.latchHigh s) := by
  unfold State.latchHigh
  repeat' first
    | extract_lets
    | with_reducible assumption
    | exact sub_trans rfl hK
    | exact bit_of rfl hK
    | split
    | with_reducible apply freshNext_same
    | with_reducible apply latch_same
    | with_reducible apply Same.foldl
    | with_reducible apply Same.eg_upd
    | intro _

theorem restartFirmware_same {K : Nat} {Z : State} (s : State) (x : Nat) (hK : 45634158596 &&& K = 45634158596) (hZ : Same K Z s) :
    Same K Z (State.restartFirmware s x) := by
  unfold State.restartFirmware
  repeat' first
    | extract_lets
    | with_reducible assumption
    | exact sub_trans rfl hK
    | exact bit_of rfl hK
    | split
    | with_reducible apply logAlarm_same
    | with_reducible apply Same.cores_upd
    | with_reducible apply Same.eg_upd
    | with_reducible apply Same.boxes_upd
    | with_reducible apply Same.pow_upd
    | dsimp +zetaDelta only
    | exact Or.inl (bit_of rfl hK)
    | exact Or.inr rfl
    | exact rfl
    | with_reducible apply Same.mk_upd

theorem presentAll_same {K : Nat} {Z : State} (s : State) (hK : 537001984 &&& K = 537001984) (hZ : Same K Z s) :
    Same K Z (State.presentAll s) := by
  unfold State.presentAll
  repeat' first
    | extract_lets
    | with_reducible assumption
    | exact sub_trans rfl hK
    | exact bit_of rfl hK
    | split
    | with_reducible apply presentGrp_same
    | with_reducible apply Same.foldl
    | intro _

theorem startHide_same {K : Nat} {Z : State} (s : State) (h : Nat) (hK : 584656748728 &&& K = 584656748728) (hZ : Same K Z s) :
    Same K Z (State.startHide s h) := by
  unfold State.startHide
  repeat' first
    | extract_lets
    | with_reducible assumption
    | exact sub_trans rfl hK
    | exact bit_of rfl hK
    | split
    | with_reducible apply drawKey_same
    | with_reducible apply presentAll_same
    | with_reducible apply readShift_same
    | with_reducible apply refreshAll_same
    | with_reducible apply updHide_same
    | with_reducible apply Same.scrubbed_upd
    | with_reducible apply Same.eg_upd
    | with_reducible apply Same.pow_upd
    | dsimp +zetaDelta only
    | exact Or.inl (bit_of rfl hK)
    | exact Or.inr rfl
    | exact rfl
    | with_reducible apply Same.mk_upd

theorem updSport_same {K : Nat} {Z : State} (s : State) (p : Nat) (f : SPort → SPort) (hK : 137438953472 &&& K = 137438953472) (hZ : Same K Z s) :
    Same K Z (State.updSport s p f) := by
  unfold State.updSport
  repeat' first
    | extract_lets
    | with_reducible assumption
    | exact sub_trans rfl hK
    | exact bit_of rfl hK
    | split
    | with_reducible apply Same.sports_upd

theorem stackRecord_same {K : Nat} {Z : State} (s : State) (p : Nat) (lane : Nat) (kind : Nat) (addr : Nat) (hK : 558345748696 &&& K = 558345748696) (hZ : Same K Z s) :
    Same K Z (State.stackRecord s p lane kind addr) := by
  unfold State.stackRecord
  repeat' first
    | extract_lets
    | with_reducible assumption
    | exact sub_trans rfl hK
    | exact bit_of rfl hK
    | split
    | with_reducible apply postGlobal_same

theorem errorTo_same {K : Nat} {Z : State} (s : State) (who : HostWho) (source : Nat) (pa : Nat) (hK : 903931104220 &&& K = 903931104220) (hZ : Same K Z s) :
    Same K Z (State.errorTo s who source pa) := by
  unfold State.errorTo
  repeat' first
    | extract_lets
    | with_reducible assumption
    | exact sub_trans rfl hK
    | exact bit_of rfl hK
    | split
    | with_reducible apply failCmd_same
    | with_reducible apply haltMover_same
    | with_reducible apply loadErr_same

theorem hostPart_same {K : Nat} {Z : State} (s : State) (core : Nat) (slot : Nat) (idx : Nat) (pa : Nat) (data : List Byte) (hK : 4325464 &&& K = 4325464) (hZ : Same K Z s) :
    Same K Z (State.hostPart s core slot idx pa data) := by
  unfold State.hostPart
  repeat' first
    | extract_lets
    | with_reducible assumption
    | exact sub_trans rfl hK
    | exact bit_of rfl hK
    | split
    | with_reducible apply atomLane_same
    | with_reducible apply lateFor_same
    | with_reducible apply loadPart_same
    | with_reducible apply writeBytes_same
    | dsimp +zetaDelta only

end Sys2Proof.Laws
end

