-- ==== Sys2Proof/Laws/FrameEvents.lean ====
section
/-! SUPPORT. Frames of the operations of Machine/Events.lean: the fields that each may change. -/

namespace Sys2Proof.Laws

open Sys2Proof.Machine

theorem hostRefused_same {K : Nat} {Z : State} (s : State) (hK : 549755813888 &&& K = 549755813888) (hZ : Same K Z s) :
    Same K Z (State.hostRefused s) := by
  unfold State.hostRefused
  repeat' first
    | extract_lets
    | with_reducible assumption
    | exact sub_trans rfl hK
    | exact bit_of rfl hK
    | split
    | with_reducible apply emit_same

theorem setPending_same {K : Nat} {Z : State} (s : State) (w : Nat) (bits : W64) (hK : 537001984 &&& K = 537001984) (hZ : Same K Z s) :
    Same K Z (State.setPending s w bits) := by
  unfold State.setPending
  repeat' first
    | extract_lets
    | with_reducible assumption
    | exact sub_trans rfl hK
    | exact bit_of rfl hK
    | split
    | with_reducible apply latch_same
    | with_reducible apply Same.foldl
    | intro _

theorem withdraw_same {K : Nat} {Z : State} (s : State) (w : Nat) (bits : W64) (hK : 536870912 &&& K = 536870912) (hZ : Same K Z s) :
    Same K Z (State.withdraw s w bits) := by
  unfold State.withdraw
  repeat' first
    | extract_lets
    | with_reducible assumption
    | exact sub_trans rfl hK
    | exact bit_of rfl hK
    | split
    | with_reducible apply updSrc_same
    | with_reducible apply Same.foldl
    | intro _

theorem ack_same {K : Nat} {Z : State} (s : State) (t : Nat) (hK : 550292684800 &&& K = 550292684800) (hZ : Same K Z s) :
    Same K Z (State.ack s t) := by
  unfold State.ack
  repeat' first
    | extract_lets
    | with_reducible assumption
    | exact sub_trans rfl hK
    | exact bit_of rfl hK
    | split
    | with_reducible apply emit_same
    | with_reducible apply updSrc_same
    | with_reducible apply updTgt_same
    | dsimp +zetaDelta only

theorem eoiMismatch_same {K : Nat} {Z : State} (s : State) (t : Nat) (n : Nat) (hK : 558882750680 &&& K = 558882750680) (hZ : Same K Z s) :
    Same K Z (State.eoiMismatch s t n) := by
  unfold State.eoiMismatch
  repeat' first
    | extract_lets
    | with_reducible assumption
    | exact sub_trans rfl hK
    | exact bit_of rfl hK
    | split
    | with_reducible apply latch_same
    | with_reducible apply postGlobal_same
    | with_reducible apply Same.eg_upd

theorem eoi_same {K : Nat} {Z : State} (s : State) (t : Nat) (n : Nat) (hK : 558882750680 &&& K = 558882750680) (hZ : Same K Z s) :
    Same K Z (State.eoi s t n) := by
  unfold State.eoi
  repeat' first
    | extract_lets
    | with_reducible assumption
    | exact sub_trans rfl hK
    | exact bit_of rfl hK
    | split
    | with_reducible apply eoiMismatch_same
    | with_reducible apply updSrc_same
    | with_reducible apply updTgt_same

theorem journalWm_same {K : Nat} {Z : State} (s : State) (old : Nat) (new : Nat) (hK : 558345748700 &&& K = 558345748700) (hZ : Same K Z s) :
    Same K Z (State.journalWm s old new) := by
  unfold State.journalWm
  repeat' first
    | extract_lets
    | with_reducible assumption
    | exact sub_trans rfl hK
    | exact bit_of rfl hK
    | split
    | with_reducible apply freshNext_same
    | with_reducible apply journal_same

theorem clearSticky_same {K : Nat} {Z : State} (s : State) (n : Nat) (hK : 1073741824 &&& K = 1073741824) (hZ : Same K Z s) :
    Same K Z (State.clearSticky s n) := by
  unfold State.clearSticky
  repeat' first
    | extract_lets
    | with_reducible assumption
    | exact sub_trans rfl hK
    | exact bit_of rfl hK
    | split
    | with_reducible apply updWm_same

theorem updBox_same {K : Nat} {Z : State} (s : State) (c : Nat) (f : Mbox → Mbox) (hK : 2147483648 &&& K = 2147483648) (hZ : Same K Z s) :
    Same K Z (State.updBox s c f) := by
  unfold State.updBox
  repeat' first
    | extract_lets
    | with_reducible assumption
    | exact sub_trans rfl hK
    | exact bit_of rfl hK
    | split
    | with_reducible apply Same.boxes_upd

theorem boxIn_same {K : Nat} {Z : State} (s : State) (c : Nat) (v : W64) (hK : 2684485632 &&& K = 2684485632) (hZ : Same K Z s) :
    Same K Z (State.boxIn s c v) := by
  unfold State.boxIn
  repeat' first
    | extract_lets
    | with_reducible assumption
    | exact sub_trans rfl hK
    | exact bit_of rfl hK
    | split
    | with_reducible apply latch_same
    | with_reducible apply updBox_same

theorem boxOut_same {K : Nat} {Z : State} (s : State) (c : Nat) (v : W64) (hK : 2147483648 &&& K = 2147483648) (hZ : Same K Z s) :
    Same K Z (State.boxOut s c v) := by
  unfold State.boxOut
  repeat' first
    | extract_lets
    | with_reducible assumption
    | exact sub_trans rfl hK
    | exact bit_of rfl hK
    | split
    | with_reducible apply updBox_same

theorem boxTakeIn_same {K : Nat} {Z : State} (s : State) (c : Nat) (hK : 2147483648 &&& K = 2147483648) (hZ : Same K Z s) :
    Same K Z (State.boxTakeIn s c) := by
  unfold State.boxTakeIn
  repeat' first
    | extract_lets
    | with_reducible assumption
    | exact sub_trans rfl hK
    | exact bit_of rfl hK
    | split
    | with_reducible apply updBox_same

theorem boxTakeOut_same {K : Nat} {Z : State} (s : State) (c : Nat) (hK : 2684485632 &&& K = 2684485632) (hZ : Same K Z s) :
    Same K Z (State.boxTakeOut s c) := by
  unfold State.boxTakeOut
  repeat' first
    | extract_lets
    | with_reducible assumption
    | exact sub_trans rfl hK
    | exact bit_of rfl hK
    | split
    | with_reducible apply latch_same
    | with_reducible apply updBox_same

end Sys2Proof.Laws
end

