-- ==== Sys2Proof/Laws/FrameSched.lean ====
section
/-! SUPPORT. Frames of the operations of Machine/Sched.lean: the fields that each may change. -/

namespace Sys2Proof.Laws

open Sys2Proof.Machine

theorem moveNotice_same {K : Nat} {Z : State} (s : State) (hK : 558345748700 &&& K = 558345748700) (hZ : Same K Z s) :
    Same K Z (State.moveNotice s) := by
  unfold State.moveNotice
  repeat' first
    | extract_lets
    | with_reducible assumption
    | exact sub_trans rfl hK
    | exact bit_of rfl hK
    | split
    | with_reducible apply freshNext_same
    | with_reducible apply postNotice_same

theorem beginMove_same {K : Nat} {Z : State} (s : State) (f : Nat) (dst : Option Nat) (byManager : Bool) (hK : 558375108828 &&& K = 558375108828) (hZ : Same K Z s) :
    Same K Z (State.beginMove s f dst byManager) := by
  unfold State.beginMove
  repeat' first
    | extract_lets
    | with_reducible assumption
    | exact sub_trans rfl hK
    | exact bit_of rfl hK
    | split
    | with_reducible apply moveNotice_same
    | with_reducible apply startMoves_same
    | with_reducible apply Same.moves_upd
    | with_reducible apply Same.mgrMoved_upd
    | dsimp +zetaDelta only
    | exact Or.inl (bit_of rfl hK)
    | exact Or.inr rfl
    | exact rfl
    | with_reducible apply Same.mk_upd

theorem drainGroups_same {K : Nat} {Z : State} (s : State) (f : Nat) (hK : 903931104220 &&& K = 903931104220) (hZ : Same K Z s) :
    Same K Z (State.drainGroups s f) := by
  unfold State.drainGroups
  repeat' first
    | extract_lets
    | with_reducible assumption
    | exact sub_trans rfl hK
    | exact bit_of rfl hK
    | split
    | with_reducible apply fenceCtx_same
    | with_reducible apply preempt_same
    | with_reducible apply Same.foldl
    | intro _

theorem leaveSource_same {K : Nat} {Z : State} (s : State) (m : Move) (hK : 872700054492 &&& K = 872700054492) (hZ : Same K Z s) :
    Same K Z (State.leaveSource s m) := by
  unfold State.leaveSource
  repeat' first
    | extract_lets
    | with_reducible assumption
    | exact sub_trans rfl hK
    | exact bit_of rfl hK
    | split
    | with_reducible apply acreBoundary_same
    | with_reducible apply furlongOff_same
    | with_reducible apply returnAcre_same
    | with_reducible apply scrubFurlong_same
    | with_reducible apply setRun_same
    | with_reducible apply updAcre_same
    | with_reducible apply Same.moves_upd
    | dsimp +zetaDelta only

theorem clearFor_same {K : Nat} {Z : State} (s : State) (h : Nat) (w : Cmd × Option Group) (hK : 393216 &&& K = 393216) (hZ : Same K Z s) :
    Same K Z (State.clearFor s h w) := by
  unfold State.clearFor
  repeat' first
    | extract_lets
    | with_reducible assumption
    | exact sub_trans rfl hK
    | exact bit_of rfl hK
    | split
    | with_reducible apply preempt_same
    | with_reducible apply Same.foldl
    | intro _
    | dsimp +zetaDelta only

theorem activateTable_same {K : Nat} {Z : State} (s : State) (h : Nat) (hK : 4194304 &&& K = 4194304) (hZ : Same K Z s) :
    Same K Z (State.activateTable s h) := by
  unfold State.activateTable
  repeat' first
    | extract_lets
    | with_reducible assumption
    | exact sub_trans rfl hK
    | exact bit_of rfl hK
    | split
    | with_reducible apply updHide_same

theorem chargeQueue_same {K : Nat} {Z : State} (s : State) (fn : Nat) (q : Nat) (g : Nat) (hK : 128 &&& K = 128) (hZ : Same K Z s) :
    Same K Z (State.chargeQueue s fn q g) := by
  unfold State.chargeQueue
  repeat' first
    | extract_lets
    | with_reducible assumption
    | exact sub_trans rfl hK
    | exact bit_of rfl hK
    | split
    | with_reducible apply updFn_same
    | with_reducible apply updQueue_same
    | dsimp +zetaDelta only

theorem chargeCmd_same {K : Nat} {Z : State} (s : State) (c : Cmd) (hK : 2176 &&& K = 2176) (hZ : Same K Z s) :
    Same K Z (State.chargeCmd s c) := by
  unfold State.chargeCmd
  repeat' first
    | extract_lets
    | with_reducible assumption
    | exact sub_trans rfl hK
    | exact bit_of rfl hK
    | split
    | with_reducible apply chargeQueue_same
    | with_reducible apply updCtx_same
    | dsimp +zetaDelta only

theorem tickHide_same {K : Nat} {Z : State} (s : State) (h : Nat) (hK : 4194304 &&& K = 4194304) (hZ : Same K Z s) :
    Same K Z (State.tickHide s h) := by
  unfold State.tickHide
  repeat' first
    | extract_lets
    | with_reducible assumption
    | exact sub_trans rfl hK
    | exact bit_of rfl hK
    | split
    | with_reducible apply updHide_same
    | dsimp +zetaDelta only

theorem endWindow_same {K : Nat} {Z : State} (s : State) (c : Nat) (hindered : Nat) (hK : 558345750744 &&& K = 558345750744) (hZ : Same K Z s) :
    Same K Z (State.endWindow s c hindered) := by
  unfold State.endWindow
  repeat' first
    | extract_lets
    | with_reducible assumption
    | exact sub_trans rfl hK
    | exact bit_of rfl hK
    | split
    | with_reducible apply postNotice_same
    | with_reducible apply updCtx_same
    | dsimp +zetaDelta only

theorem endFence_same {K : Nat} {Z : State} (s : State) (c : Nat) (hK : 833228770008 &&& K = 833228770008) (hZ : Same K Z s) :
    Same K Z (State.endFence s c) := by
  unfold State.endFence
  repeat' first
    | extract_lets
    | with_reducible assumption
    | exact sub_trans rfl hK
    | exact bit_of rfl hK
    | split
    | with_reducible apply complete_same
    | with_reducible apply dropGroups_same
    | with_reducible apply recoveryRecord_same
    | with_reducible apply retime_same
    | with_reducible apply updCtx_same
    | with_reducible apply Same.foldl
    | intro _
    | dsimp +zetaDelta only

end Sys2Proof.Laws
end

