-- ==== Sys2Proof/Laws/FrameKod.lean ====
section
/-! SUPPORT. Frames of the operations of Machine/Kod.lean: the fields that each may change. -/

namespace Sys2Proof.Laws

open Sys2Proof.Machine

theorem setLive_same {K : Nat} {Z : State} (s : State) (idx : Nat) (sub : Nat) (v : Nat) (hK : 580923689692 &&& K = 580923689692) (hZ : Same K Z s) :
    Same K Z (State.setLive s idx sub v) := by
  unfold State.setLive
  repeat' first
    | extract_lets
    | with_reducible assumption
    | exact sub_trans rfl hK
    | exact bit_of rfl hK
    | split
    | with_reducible apply beginMove_same
    | with_reducible apply refreshReady_same
    | with_reducible apply rehome_same
    | with_reducible apply setRun_same
    | with_reducible apply wmCheck_same
    | with_reducible apply Same.kod_upd
    | with_reducible apply Same.ao_upd
    | with_reducible apply Same.gov_upd
    | dsimp +zetaDelta only

theorem applyLive_same {K : Nat} {Z : State} (s : State) (idx : Nat) (sub : Nat) (v : Nat) (hK : 580923689692 &&& K = 580923689692) (hZ : Same K Z s) :
    Same K Z (State.applyLive s idx sub v) := by
  unfold State.applyLive
  repeat' first
    | extract_lets
    | with_reducible assumption
    | exact sub_trans rfl hK
    | exact bit_of rfl hK
    | split
    | with_reducible apply setLive_same
    | with_reducible apply Same.kod_upd

theorem switchOne_same {K : Nat} {Z : State} (s : State) (p : Nat) (idx : Nat) (sub : Nat) (hK : 580923689692 &&& K = 580923689692) (hZ : Same K Z s) :
    Same K Z (State.switchOne s p idx sub) := by
  unfold State.switchOne
  repeat' first
    | extract_lets
    | with_reducible assumption
    | exact sub_trans rfl hK
    | exact bit_of rfl hK
    | split
    | with_reducible apply applyLive_same
    | with_reducible apply journal_same
    | with_reducible apply journalDefault_same
    | dsimp +zetaDelta only

theorem switchLive_same {K : Nat} {Z : State} (s : State) (p : Nat) (hK : 580923689692 &&& K = 580923689692) (hZ : Same K Z s) :
    Same K Z (State.switchLive s p) := by
  unfold State.switchLive
  repeat' first
    | extract_lets
    | with_reducible assumption
    | exact sub_trans rfl hK
    | exact bit_of rfl hK
    | split
    | with_reducible apply switchOne_same
    | with_reducible apply Same.foldl
    | with_reducible apply Same.gov_upd
    | intro _
    | dsimp +zetaDelta only

theorem fallback_same {K : Nat} {Z : State} (s : State) (p : Nat) (hK : 558345748700 &&& K = 558345748700) (hZ : Same K Z s) :
    Same K Z (State.fallback s p).1 := by
  unfold State.fallback
  repeat' first
    | extract_lets
    | with_reducible assumption
    | exact sub_trans rfl hK
    | exact bit_of rfl hK
    | split
    | with_reducible apply storeAlarm_same

theorem applyPending_same {K : Nat} {Z : State} (s : State) (hK : 942585854972 &&& K = 942585854972) (hZ : Same K Z s) :
    Same K Z (State.applyPending s) := by
  unfold State.applyPending
  repeat' first
    | extract_lets
    | with_reducible assumption
    | exact sub_trans rfl hK
    | exact bit_of rfl hK
    | split
    | with_reducible apply startFull_same
    | with_reducible apply updHide_same
    | with_reducible apply Same.foldl
    | intro _

theorem switchTo_same {K : Nat} {Z : State} (s : State) (p : Nat) (apply : Bool) (hK : 959790889980 &&& K = 959790889980) (hZ : Same K Z s) :
    Same K Z (State.switchTo s p apply) := by
  unfold State.switchTo
  repeat' first
    | extract_lets
    | with_reducible assumption
    | exact sub_trans rfl hK
    | exact bit_of rfl hK
    | split
    | with_reducible apply applyPending_same
    | with_reducible apply fallback_same
    | with_reducible apply switchLive_same
    | with_reducible apply Same.kod_upd
    | dsimp +zetaDelta only

theorem copyProfile_same {K : Nat} {Z : State} (s : State) (src : Nat) (dst : Nat) (hK : 580923689692 &&& K = 580923689692) (hZ : Same K Z s) :
    Same K Z (State.copyProfile s src dst) := by
  unfold State.copyProfile
  repeat' first
    | extract_lets
    | with_reducible assumption
    | exact sub_trans rfl hK
    | exact bit_of rfl hK
    | split
    | with_reducible apply switchLive_same
    | with_reducible apply Same.kod_upd
    | dsimp +zetaDelta only

theorem commitFirmware_same {K : Nat} {Z : State} (s : State) (crc : Nat) (hK : 562640715996 &&& K = 562640715996) (hZ : Same K Z s) :
    Same K Z (State.commitFirmware s crc) := by
  unfold State.commitFirmware
  repeat' first
    | extract_lets
    | with_reducible assumption
    | exact sub_trans rfl hK
    | exact bit_of rfl hK
    | split
    | with_reducible apply flashWrite_same
    | with_reducible apply storeAlarm_same
    | with_reducible apply writeHeader_same
    | with_reducible apply Same.kod_upd
    | dsimp +zetaDelta only

theorem commitShift_same {K : Nat} {Z : State} (s : State) (h : Nat) (hK : 558349943000 &&& K = 558349943000) (hZ : Same K Z s) :
    Same K Z (State.commitShift s h) := by
  unfold State.commitShift
  repeat' first
    | extract_lets
    | with_reducible assumption
    | exact sub_trans rfl hK
    | exact bit_of rfl hK
    | split
    | with_reducible apply acreBoundary_same
    | with_reducible apply postGlobal_same
    | with_reducible apply updAcre_same
    | with_reducible apply updHide_same
    | dsimp +zetaDelta only

theorem storeShift_same {K : Nat} {Z : State} (s : State) (h : Nat) (hK : 554050781184 &&& K = 554050781184) (hZ : Same K Z s) :
    Same K Z (State.storeShift s h) := by
  unfold State.storeShift
  repeat' first
    | extract_lets
    | with_reducible assumption
    | exact sub_trans rfl hK
    | exact bit_of rfl hK
    | split
    | with_reducible apply flashWrite_same
    | with_reducible apply Same.kod_upd
    | dsimp +zetaDelta only

theorem kodCommand_same {K : Nat} {Z : State} (s : State) (r : KodReq) (v : Nat) (hK : 959790889980 &&& K = 959790889980) (hZ : Same K Z s) :
    Same K Z (State.kodCommand s r v) := by
  unfold State.kodCommand
  repeat' first
    | extract_lets
    | with_reducible assumption
    | exact sub_trans rfl hK
    | exact bit_of rfl hK
    | split
    | with_reducible apply commitFirmware_same
    | with_reducible apply commitShift_same
    | with_reducible apply copyProfile_same
    | with_reducible apply setRun_same
    | with_reducible apply startFull_same
    | with_reducible apply startReset_same
    | with_reducible apply storeShift_same
    | with_reducible apply switchTo_same
    | with_reducible apply updHide_same
    | with_reducible apply Same.kod_upd
    | with_reducible apply Same.ao_upd

theorem kodPerform_same {K : Nat} {Z : State} (s : State) (e : KodEnt) (r : KodReq) (hK : 959790889980 &&& K = 959790889980) (hZ : Same K Z s) :
    Same K Z (State.kodPerform s e r) := by
  unfold State.kodPerform
  repeat' first
    | extract_lets
    | with_reducible assumption
    | exact sub_trans rfl hK
    | exact bit_of rfl hK
    | split
    | with_reducible apply applyLive_same
    | with_reducible apply kodCommand_same
    | with_reducible apply setStored_same
    | dsimp +zetaDelta only

theorem kodWriteReq_same {K : Nat} {Z : State} (s : State) (source : Nat) (req : Nat) (r : KodReq) (hK : 959790889980 &&& K = 959790889980) (hZ : Same K Z s) :
    Same K Z (State.kodWriteReq s source req r).1 := by
  unfold State.kodWriteReq
  repeat' first
    | extract_lets
    | with_reducible assumption
    | exact sub_trans rfl hK
    | exact bit_of rfl hK
    | split
    | with_reducible apply journal_same
    | with_reducible apply kodPerform_same
    | dsimp +zetaDelta only

theorem kodAnswer_same {K : Nat} {Z : State} (s : State) (r : KodReq) (code : Nat) (data : List Byte) (hK : 554050781184 &&& K = 554050781184) (hZ : Same K Z s) :
    Same K Z (State.kodAnswer s r code data) := by
  unfold State.kodAnswer
  repeat' first
    | extract_lets
    | with_reducible assumption
    | exact sub_trans rfl hK
    | exact bit_of rfl hK
    | split
    | with_reducible apply emit_same
    | with_reducible apply Same.kod_upd
    | dsimp +zetaDelta only

theorem kodServe_same {K : Nat} {Z : State} (s : State) (op : Nat) (r : KodReq) (hK : 959790889980 &&& K = 959790889980) (hZ : Same K Z s) :
    Same K Z (State.kodServe s op r) := by
  unfold State.kodServe
  repeat' first
    | extract_lets
    | with_reducible assumption
    | exact sub_trans rfl hK
    | exact bit_of rfl hK
    | split
    | with_reducible apply kodAnswer_same
    | with_reducible apply kodWriteReq_same
    | dsimp +zetaDelta only

theorem kodRequest_same {K : Nat} {Z : State} (s : State) (op : Nat) (r : KodReq) (hK : 959790889980 &&& K = 959790889980) (hZ : Same K Z s) :
    Same K Z (State.kodRequest s op r) := by
  unfold State.kodRequest
  repeat' first
    | extract_lets
    | with_reducible assumption
    | exact sub_trans rfl hK
    | exact bit_of rfl hK
    | split
    | with_reducible apply emit_same
    | with_reducible apply kodAnswer_same
    | with_reducible apply kodServe_same
    | with_reducible apply Same.kod_upd
    | dsimp +zetaDelta only

theorem serveStored_same {K : Nat} {Z : State} (s : State) (hK : 959790889980 &&& K = 959790889980) (hZ : Same K Z s) :
    Same K Z (State.serveStored s) := by
  unfold State.serveStored
  repeat' first
    | extract_lets
    | with_reducible assumption
    | exact sub_trans rfl hK
    | exact bit_of rfl hK
    | split
    | with_reducible apply kodServe_same
    | with_reducible apply Same.foldl
    | with_reducible apply Same.kod_upd
    | intro _

theorem writeCopy_same {K : Nat} {Z : State} (s : State) (p : Nat) (ok : Bool) (hK : 554050781184 &&& K = 554050781184) (hZ : Same K Z s) :
    Same K Z (State.writeCopy s p ok) := by
  unfold State.writeCopy
  repeat' first
    | extract_lets
    | with_reducible assumption
    | exact sub_trans rfl hK
    | exact bit_of rfl hK
    | split
    | with_reducible apply flashWrite_same
    | with_reducible apply Same.kod_upd
    | dsimp +zetaDelta only

theorem loadProfiles_same {K : Nat} {Z : State} (s : State) (hK : 4294967296 &&& K = 4294967296) (hZ : Same K Z s) :
    Same K Z (State.loadProfiles s) := by
  unfold State.loadProfiles
  repeat' first
    | extract_lets
    | with_reducible assumption
    | exact sub_trans rfl hK
    | exact bit_of rfl hK
    | split
    | with_reducible apply Same.foldl
    | with_reducible apply Same.kod_upd
    | intro _
    | dsimp +zetaDelta only

end Sys2Proof.Laws
end

