-- ==== Sys2Proof/Laws/FrameRegs.lean ====
section
/-! SUPPORT. Frames of the operations of Machine/Regs.lean: the fields that each may change. -/

namespace Sys2Proof.Laws

open Sys2Proof.Machine

theorem writeFcp_same {K : Nat} {Z : State} (s : State) (n : Nat) (o : Nat) (off : Nat) (val : W64) (hK : 906078632924 &&& K = 906078632924) (hZ : Same K Z s) :
    Same K Z (State.writeFcp s n o off val) := by
  unfold State.writeFcp
  repeat' first
    | extract_lets
    | with_reducible assumption
    | exact sub_trans rfl hK
    | exact bit_of rfl hK
    | split
    | with_reducible apply ignored_same
    | with_reducible apply startFnReset_same
    | with_reducible apply writeVerSelect_same

theorem writeEq_same {K : Nat} {Z : State} (s : State) (n : Nat) (err : Bool) (o : Nat) (off : Nat) (v : Nat) (hK : 558345748608 &&& K = 558345748608) (hZ : Same K Z s) :
    Same K Z (State.writeEq s n err o off v) := by
  unfold State.writeEq
  repeat' first
    | extract_lets
    | with_reducible assumption
    | exact sub_trans rfl hK
    | exact bit_of rfl hK
    | split
    | with_reducible apply disableEq_same
    | with_reducible apply enableEq_same
    | with_reducible apply updRecq_same
    | with_reducible apply writeEqHead_same

theorem writeEqc_same {K : Nat} {Z : State} (s : State) (n : Nat) (o : Nat) (off : Nat) (size : Nat) (val : W64) (hK : 558345748608 &&& K = 558345748608) (hZ : Same K Z s) :
    Same K Z (State.writeEqc s n o off size val) := by
  unfold State.writeEqc
  repeat' first
    | extract_lets
    | with_reducible assumption
    | exact sub_trans rfl hK
    | exact bit_of rfl hK
    | split
    | with_reducible apply ignored_same
    | with_reducible apply updFn_same
    | with_reducible apply writeEq_same

theorem setQueue_same {K : Nat} {Z : State} (s : State) (n : Nat) (q : Nat) (f : Queue → Queue) (hK : 128 &&& K = 128) (hZ : Same K Z s) :
    Same K Z (State.setQueue s n q f) := by
  unfold State.setQueue
  repeat' first
    | extract_lets
    | with_reducible assumption
    | exact sub_trans rfl hK
    | exact bit_of rfl hK
    | split
    | with_reducible apply updQueue_same

theorem writeQueue_same {K : Nat} {Z : State} (s : State) (n : Nat) (q : Nat) (o : Nat) (off : Nat) (size : Nat) (val : W64) (hK : 903931136988 &&& K = 903931136988) (hZ : Same K Z s) :
    Same K Z (State.writeQueue s n q o off size val) := by
  unfold State.writeQueue
  repeat' first
    | extract_lets
    | with_reducible assumption
    | exact sub_trans rfl hK
    | exact bit_of rfl hK
    | split
    | with_reducible apply abortQueue_same
    | with_reducible apply cqSignal_same
    | with_reducible apply ignored_same
    | with_reducible apply ringDoorbell_same
    | with_reducible apply setQueue_same
    | with_reducible apply updQueue_same
    | with_reducible apply writeCqHead_same
    | with_reducible apply writeDisable_same
    | with_reducible apply writeEnable_same
    | dsimp +zetaDelta only

theorem writeVfm_same {K : Nat} {Z : State} (s : State) (n : Nat) (o : Nat) (off : Nat) (size : Nat) (val : W64) (hK : 959790889980 &&& K = 959790889980) (hZ : Same K Z s) :
    Same K Z (State.writeVfm s n o off size val) := by
  unfold State.writeVfm
  repeat' first
    | extract_lets
    | with_reducible assumption
    | exact sub_trans rfl hK
    | exact bit_of rfl hK
    | split
    | with_reducible apply kodWriteReq_same
    | with_reducible apply updFn_same
    | with_reducible apply Same.foldl
    | intro _
    | dsimp +zetaDelta only

theorem writeSrc_same {K : Nat} {Z : State} (s : State) (n : Nat) (v : Nat) (hK : 537001984 &&& K = 537001984) (hZ : Same K Z s) :
    Same K Z (State.writeSrc s n v) := by
  unfold State.writeSrc
  repeat' first
    | extract_lets
    | with_reducible assumption
    | exact sub_trans rfl hK
    | exact bit_of rfl hK
    | split
    | with_reducible apply moderate_same
    | with_reducible apply updSrc_same

theorem writeGrp_same {K : Nat} {Z : State} (s : State) (g : Nat) (v : Nat) (hK : 537001984 &&& K = 537001984) (hZ : Same K Z s) :
    Same K Z (State.writeGrp s g v) := by
  unfold State.writeGrp
  repeat' first
    | extract_lets
    | with_reducible assumption
    | exact sub_trans rfl hK
    | exact bit_of rfl hK
    | split
    | with_reducible apply moderate_same
    | with_reducible apply presentGrp_same
    | with_reducible apply updGrp_same
    | dsimp +zetaDelta only

theorem writeMode_same {K : Nat} {Z : State} (s : State) (v : Nat) (hK : 537001984 &&& K = 537001984) (hZ : Same K Z s) :
    Same K Z (State.writeMode s v) := by
  unfold State.writeMode
  repeat' first
    | extract_lets
    | with_reducible assumption
    | exact sub_trans rfl hK
    | exact bit_of rfl hK
    | split
    | with_reducible apply presentAll_same
    | with_reducible apply Same.eg_upd

theorem writeMark_same {K : Nat} {Z : State} (s : State) (n : Nat) (v : Nat) (host : Bool) (hK : 959790889980 &&& K = 959790889980) (hZ : Same K Z s) :
    Same K Z (State.writeMark s n v host) := by
  unfold State.writeMark
  repeat' first
    | extract_lets
    | with_reducible assumption
    | exact sub_trans rfl hK
    | exact bit_of rfl hK
    | split
    | with_reducible apply journalWm_same
    | with_reducible apply kodWriteReq_same
    | with_reducible apply updWm_same
    | with_reducible apply wmCheck_same
    | dsimp +zetaDelta only

theorem writeWmCtrl_same {K : Nat} {Z : State} (s : State) (n : Nat) (off : Nat) (size : Nat) (val : W64) (host : Bool) (hK : 559419490524 &&& K = 559419490524) (hZ : Same K Z s) :
    Same K Z (State.writeWmCtrl s n off size val host) := by
  unfold State.writeWmCtrl
  repeat' first
    | extract_lets
    | with_reducible assumption
    | exact sub_trans rfl hK
    | exact bit_of rfl hK
    | split
    | with_reducible apply clearSticky_same
    | with_reducible apply journalWm_same
    | with_reducible apply updWm_same
    | with_reducible apply wmCheck_same
    | dsimp +zetaDelta only

theorem writeWm_same {K : Nat} {Z : State} (s : State) (n : Nat) (o : Nat) (off : Nat) (size : Nat) (val : W64) (host : Bool) (hK : 959790889980 &&& K = 959790889980) (hZ : Same K Z s) :
    Same K Z (State.writeWm s n o off size val host) := by
  unfold State.writeWm
  repeat' first
    | extract_lets
    | with_reducible assumption
    | exact sub_trans rfl hK
    | exact bit_of rfl hK
    | split
    | with_reducible apply writeMark_same
    | with_reducible apply writeWmCtrl_same

theorem writeBox_same {K : Nat} {Z : State} (s : State) (c : Nat) (o : Nat) (off : Nat) (size : Nat) (val : W64) (host : Bool) (hK : 2684485632 &&& K = 2684485632) (hZ : Same K Z s) :
    Same K Z (State.writeBox s c o off size val host) := by
  unfold State.writeBox
  repeat' first
    | extract_lets
    | with_reducible assumption
    | exact sub_trans rfl hK
    | exact bit_of rfl hK
    | split
    | with_reducible apply boxIn_same
    | with_reducible apply boxOut_same
    | with_reducible apply boxTakeIn_same
    | with_reducible apply boxTakeOut_same
    | with_reducible apply updBox_same
    | dsimp +zetaDelta only

theorem writeTgt_same {K : Nat} {Z : State} (s : State) (t : Nat) (o : Nat) (off : Nat) (v : Nat) (hK : 558882750680 &&& K = 558882750680) (hZ : Same K Z s) :
    Same K Z (State.writeTgt s t o off v) := by
  unfold State.writeTgt
  repeat' first
    | extract_lets
    | with_reducible assumption
    | exact sub_trans rfl hK
    | exact bit_of rfl hK
    | split
    | with_reducible apply eoi_same
    | with_reducible apply updTgt_same

theorem writeEg_same {K : Nat} {Z : State} (s : State) (o : Nat) (off : Nat) (size : Nat) (val : W64) (hK : 961938373628 &&& K = 961938373628) (hZ : Same K Z s) :
    Same K Z (State.writeEg s o off size val) := by
  unfold State.writeEg
  repeat' first
    | extract_lets
    | with_reducible assumption
    | exact sub_trans rfl hK
    | exact bit_of rfl hK
    | split
    | with_reducible apply setPending_same
    | with_reducible apply withdraw_same
    | with_reducible apply writeBox_same
    | with_reducible apply writeGrp_same
    | with_reducible apply writeMode_same
    | with_reducible apply writeSrc_same
    | with_reducible apply writeTgt_same
    | with_reducible apply writeWm_same
    | dsimp +zetaDelta only

theorem writeEgHost_same {K : Nat} {Z : State} (s : State) (o : Nat) (off : Nat) (size : Nat) (val : W64) (hK : 959790889980 &&& K = 959790889980) (hZ : Same K Z s) :
    Same K Z (State.writeEgHost s o off size val) := by
  unfold State.writeEgHost
  repeat' first
    | extract_lets
    | with_reducible assumption
    | exact sub_trans rfl hK
    | exact bit_of rfl hK
    | split
    | with_reducible apply setPending_same
    | with_reducible apply writeWm_same

theorem writeKod_same {K : Nat} {Z : State} (s : State) (o : Nat) (off : Nat) (size : Nat) (val : W64) (hK : 959790889980 &&& K = 959790889980) (hZ : Same K Z s) :
    Same K Z (State.writeKod s o off size val) := by
  unfold State.writeKod
  repeat' first
    | extract_lets
    | with_reducible assumption
    | exact sub_trans rfl hK
    | exact bit_of rfl hK
    | split
    | with_reducible apply kodRequest_same
    | with_reducible apply Same.kod_upd
    | dsimp +zetaDelta only

theorem writePf_same {K : Nat} {Z : State} (s : State) (trust : Bool) (off : Nat) (size : Nat) (val : W64) (hK : 961938373628 &&& K = 961938373628) (hZ : Same K Z s) :
    Same K Z (State.writePf s trust off size val) := by
  unfold State.writePf
  repeat' first
    | extract_lets
    | with_reducible assumption
    | exact sub_trans rfl hK
    | exact bit_of rfl hK
    | split
    | with_reducible apply emit_same
    | with_reducible apply hostRefused_same
    | with_reducible apply writeBox_same
    | with_reducible apply writeEgHost_same
    | with_reducible apply writeKod_same
    | with_reducible apply writeVfm_same
    | dsimp +zetaDelta only

theorem writeBar_same {K : Nat} {Z : State} (s : State) (n : Nat) (trust : Bool) (off : Nat) (size : Nat) (val : W64) (hK : 961938373628 &&& K = 961938373628) (hZ : Same K Z s) :
    Same K Z (State.writeBar s n trust off size val) := by
  unfold State.writeBar
  repeat' first
    | extract_lets
    | with_reducible assumption
    | exact sub_trans rfl hK
    | exact bit_of rfl hK
    | split
    | with_reducible apply emit_same
    | with_reducible apply writeEqc_same
    | with_reducible apply writeFcp_same
    | with_reducible apply writePf_same
    | with_reducible apply writePush_same
    | with_reducible apply writeQueue_same
    | dsimp +zetaDelta only

theorem writeChCtrl_same {K : Nat} {Z : State} (s : State) (m : Nat) (c : Nat) (v : Nat) (hK : 903931104220 &&& K = 903931104220) (hZ : Same K Z s) :
    Same K Z (State.writeChCtrl s m c v) := by
  unfold State.writeChCtrl
  repeat' first
    | extract_lets
    | with_reducible assumption
    | exact sub_trans rfl hK
    | exact bit_of rfl hK
    | split
    | with_reducible apply abortWrite_same
    | with_reducible apply disableChan_same
    | with_reducible apply enableChan_same
    | with_reducible apply goOn_same
    | with_reducible apply haltAtBurst_same
    | with_reducible apply updChan_same
    | dsimp +zetaDelta only

theorem setChan_same {K : Nat} {Z : State} (s : State) (m : Nat) (c : Nat) (f : Chan → Chan) (hK : 268435456 &&& K = 268435456) (hZ : Same K Z s) :
    Same K Z (State.setChan s m c f) := by
  unfold State.setChan
  repeat' first
    | extract_lets
    | with_reducible assumption
    | exact sub_trans rfl hK
    | exact bit_of rfl hK
    | split
    | with_reducible apply updChan_same

theorem writeChan_same {K : Nat} {Z : State} (s : State) (m : Nat) (c : Nat) (o : Nat) (off : Nat) (size : Nat) (val : W64) (hK : 903931104220 &&& K = 903931104220) (hZ : Same K Z s) :
    Same K Z (State.writeChan s m c o off size val) := by
  unfold State.writeChan
  repeat' first
    | extract_lets
    | with_reducible assumption
    | exact sub_trans rfl hK
    | exact bit_of rfl hK
    | split
    | with_reducible apply fetchDesc_same
    | with_reducible apply setChan_same
    | with_reducible apply writeChCtrl_same
    | dsimp +zetaDelta only

theorem writeMover_same {K : Nat} {Z : State} (s : State) (m : Nat) (o : Nat) (off : Nat) (size : Nat) (val : W64) (hK : 903931104220 &&& K = 903931104220) (hZ : Same K Z s) :
    Same K Z (State.writeMover s m o off size val) := by
  unfold State.writeMover
  repeat' first
    | extract_lets
    | with_reducible assumption
    | exact sub_trans rfl hK
    | exact bit_of rfl hK
    | split
    | with_reducible apply restartMover_same
    | with_reducible apply writeChan_same

theorem writeDev_same {K : Nat} {Z : State} {s : State} {off : Nat} {size : Nat} {val : W64} {t : State} (h : State.writeDev s off size val = some t) (hK : 961938373628 &&& K = 961938373628) (hZ : Same K Z s) : Same K Z t := by
  unfold State.writeDev at h
  repeat' first
    | split at h
    | cases h
  repeat' first
    | extract_lets
    | with_reducible assumption
    | exact sub_trans rfl hK
    | exact bit_of rfl hK
    | split
    | with_reducible apply writeEg_same
    | with_reducible apply writeMover_same

theorem readDev_same {K : Nat} {Z : State} {s : State} {off : Nat} {size : Nat} {t : State} {v : Nat} (h : State.readDev s off size = some (t, v)) (hK : 550292684800 &&& K = 550292684800) (hZ : Same K Z s) : Same K Z t := by
  unfold State.readDev at h
  repeat' first
    | split at h
    | cases h
  repeat' first
    | extract_lets
    | with_reducible assumption
    | exact sub_trans rfl hK
    | exact bit_of rfl hK
    | split
    | with_reducible apply ack_same

end Sys2Proof.Laws
end

