-- ==== Sys2Proof/Laws/FrameRikuMem.lean ====
section
/-! SUPPORT. Frames of the operations of Machine/RikuMem.lean: the fields that each may change. -/

namespace Sys2Proof.Laws

open Sys2Proof.Machine

theorem pushEntries_same {K : Nat} {Z : State} (s : State) (core : Nat) (es : List SbEnt) (hK : 131072 &&& K = 131072) (hZ : Same K Z s) :
    Same K Z (State.pushEntries s core es) := by
  unfold State.pushEntries
  repeat' first
    | extract_lets
    | with_reducible assumption
    | exact sub_trans rfl hK
    | exact bit_of rfl hK
    | split
    | with_reducible apply updCore_same

theorem memory_same {K : Nat} {Z : State} (s : State) (r : ChainRef) (i : MemI) (illegal : Bool) (vs : List Nat) (us : List Nat) (f : Chain → W32 → Act) (hK : 903931104220 &&& K = 903931104220) (hf : ∀ x0 x1, Act.keeps K Z (f x0 x1)) (hZ : Same K Z s) :
    Same K Z (State.memory s r i illegal vs us f) := by
  unfold State.memory
  repeat' first
    | extract_lets
    | with_reducible assumption
    | exact sub_trans rfl hK
    | exact bit_of rfl hK
    | split
    | with_reducible apply issue_same
    | with_reducible apply hf
    | with_reducible exact trivial
    | with_reducible apply Act.keeps_done
    | with_reducible apply Act.keeps_exc
    | intro _
    | dsimp +zetaDelta only

theorem askLane_same {K : Nat} {Z : State} (s : State) (core : Nat) (slot : Nat) (c : Chain) (l : Load) (hide : Nat) (a : Nat) (hK : 833231653848 &&& K = 833231653848) (hZ : Same K Z s) :
    Same K Z (State.askLane s core slot c l hide a) := by
  unfold State.askLane
  repeat' first
    | extract_lets
    | with_reducible assumption
    | exact sub_trans rfl hK
    | exact bit_of rfl hK
    | split
    | with_reducible apply askRead_same
    | with_reducible apply emit_same
    | with_reducible apply sendReq_same
    | dsimp +zetaDelta only

theorem addLoad_same {K : Nat} {Z : State} (s : State) (core : Nat) (slot : Nat) (c : Chain) (k : Chain) (b : Nat) (l : Load) (ask : List LaneAcc) (hK : 833231653848 &&& K = 833231653848) :
    Act.keeps K Z (State.addLoad s core slot c k b l ask) := by
  unfold State.addLoad
  repeat' first
    | extract_lets
    | with_reducible assumption
    | exact sub_trans rfl hK
    | exact bit_of rfl hK
    | split
    | with_reducible apply askLane_same
    | with_reducible apply Same.foldl
    | with_reducible exact trivial
    | with_reducible apply Act.keeps_asks
    | intro _

theorem andThen_same {K : Nat} {Z : State} (a : Act) (f : Chain → Act) (_hK : 0 &&& K = 0) (ha : Act.keeps K Z a)
    (hf : ∀ c, Act.keeps K Z (f c)) : Act.keeps K Z (Act.andThen a f) := by
  cases a with
  | done k => exact hf k
  | asks k g =>
    have h := hf k
    dsimp only [Act.andThen]
    revert h
    generalize f k = b
    intro h
    cases b with
    | done j => exact ha
    | asks j g2 => exact fun t ht => h _ (ha _ ht)
    | with_ j g2 => exact h
    | hold j g2 => exact h
    | request g2 => exact h
    | exc e => trivial
    | wait => trivial
  | with_ k g => exact ha
  | hold k g => exact ha
  | request g => exact ha
  | exc e => trivial
  | wait => trivial

theorem startLoad_same {K : Nat} {Z : State} (s : State) (core : Nat) (slot : Nat) (c : Chain) (i : MemI) (vd : Option Nat) (ud : Nat) (size : Nat) (b : Nat) (xs : List LaneAcc) (hK : 833231653848 &&& K = 833231653848) :
    Act.keeps K Z (State.startLoad s core slot c i vd ud size b xs) := by
  unfold State.startLoad
  repeat' first
    | extract_lets
    | with_reducible assumption
    | exact sub_trans rfl hK
    | exact bit_of rfl hK
    | split
    | with_reducible apply addLoad_same
    | with_reducible apply andThen_same
    | with_reducible apply Same.foldl
    | with_reducible exact trivial
    | with_reducible apply Act.keeps_done
    | with_reducible apply Act.keeps_wait
    | intro _
    | dsimp +zetaDelta only

theorem local_same {K : Nat} {Z : State} (s : State) (r : ChainRef) (i : MemI) (illegal : Bool) (vs : List Nat) (bytes : Nat) (f : Chain → W32 → (Nat → Nat) → Act) (hK : 903931104220 &&& K = 903931104220) (hf : ∀ x0 x1 x2, Act.keeps K Z (f x0 x1 x2)) (hZ : Same K Z s) :
    Same K Z (State.local s r i illegal vs bytes f) := by
  unfold State.local
  repeat' first
    | extract_lets
    | with_reducible assumption
    | exact sub_trans rfl hK
    | exact bit_of rfl hK
    | split
    | with_reducible apply memory_same
    | with_reducible apply hf
    | with_reducible exact trivial
    | with_reducible apply Act.keeps_exc
    | with_reducible apply Act.keeps_wait
    | intro _
    | dsimp +zetaDelta only

theorem localAtom_same {K : Nat} {Z : State} (s : State) (r : ChainRef) (op : AtomOp) (i : MemI) (c : Chain) (a : Nat) (t : Nat) (hK : 833228508120 &&& K = 833228508120) (hZ : Same K Z s) :
    Same K Z (State.localAtom s r op i c a t) := by
  unfold State.localAtom
  repeat' first
    | extract_lets
    | with_reducible assumption
    | exact sub_trans rfl hK
    | exact bit_of rfl hK
    | split
    | with_reducible apply lsStore_same
    | with_reducible apply updChain_same
    | dsimp +zetaDelta only

theorem fillLine_same {K : Nat} {Z : State} (s : State) (core : Nat) (line : Nat) (hK : 131072 &&& K = 131072) (hZ : Same K Z s) :
    Same K Z (State.fillLine s core line) := by
  unfold State.fillLine
  repeat' first
    | extract_lets
    | with_reducible assumption
    | exact sub_trans rfl hK
    | exact bit_of rfl hK
    | split
    | with_reducible apply updCore_same
    | dsimp +zetaDelta only

end Sys2Proof.Laws
end

