-- ==== Sys2Proof/Laws/FrameCoreMem.lean ====
section
/-! SUPPORT. Frames of the operations of Machine/CoreMem.lean: the fields that each may change. -/

namespace Sys2Proof.Laws

open Sys2Proof.Machine

theorem cacheStore_same {K : Nat} {Z : State} (s : State) (core : Nat) (e : SbEnt) (hK : 131072 &&& K = 131072) (hZ : Same K Z s) :
    Same K Z (State.cacheStore s core e) := by
  unfold State.cacheStore
  repeat' first
    | extract_lets
    | with_reducible assumption
    | exact sub_trans rfl hK
    | exact bit_of rfl hK
    | split
    | with_reducible apply updCore_same
    | dsimp +zetaDelta only

theorem dropEntry_same {K : Nat} {Z : State} (s : State) (core : Nat) (k : Nat) (hK : 131072 &&& K = 131072) (hZ : Same K Z s) :
    Same K Z (State.dropEntry s core k) := by
  unfold State.dropEntry
  repeat' first
    | extract_lets
    | with_reducible assumption
    | exact sub_trans rfl hK
    | exact bit_of rfl hK
    | split
    | with_reducible apply updCore_same

theorem dropAtom_same {K : Nat} {Z : State} (s : State) (core : Nat) (k : Nat) (e : SbEnt) (hK : 131072 &&& K = 131072) (hZ : Same K Z s) :
    Same K Z (State.dropAtom s core k e) := by
  unfold State.dropAtom
  repeat' first
    | extract_lets
    | with_reducible assumption
    | exact sub_trans rfl hK
    | exact bit_of rfl hK
    | split
    | with_reducible apply dropEntry_same
    | with_reducible apply updCore_same

theorem sendEntry_same {K : Nat} {Z : State} (s : State) (core : Nat) (e : SbEnt) (kind : Nat) (aux : Nat) (a : Nat) (data : List Byte) (ref : Nat) (hK : 824633720832 &&& K = 824633720832) (hZ : Same K Z s) :
    Same K Z (State.sendEntry s core e kind aux a data ref) := by
  unfold State.sendEntry
  repeat' first
    | extract_lets
    | with_reducible assumption
    | exact sub_trans rfl hK
    | exact bit_of rfl hK
    | split
    | with_reducible apply sendReqOf_same

theorem toHost_same {K : Nat} {Z : State} (s : State) (e : SbEnt) (hK : 549755814232 &&& K = 549755814232) (hZ : Same K Z s) :
    Same K Z (State.toHost s e) := by
  unfold State.toHost
  repeat' first
    | extract_lets
    | with_reducible assumption
    | exact sub_trans rfl hK
    | exact bit_of rfl hK
    | split
    | with_reducible apply dropStore_same
    | with_reducible apply emit_same
    | with_reducible apply emitWrites_same
    | with_reducible apply writeCells_same
    | with_reducible apply Same.foldl
    | intro _
    | dsimp +zetaDelta only

theorem toNode_same {K : Nat} {Z : State} (s : State) (core : Nat) (k : Nat) (e : SbEnt) (hK : 824636997720 &&& K = 824636997720) (hZ : Same K Z s) :
    Same K Z (State.toNode s core k e) := by
  unfold State.toNode
  repeat' first
    | extract_lets
    | with_reducible assumption
    | exact sub_trans rfl hK
    | exact bit_of rfl hK
    | split
    | with_reducible apply cacheStore_same
    | with_reducible apply dropAtom_same
    | with_reducible apply dropEntry_same
    | with_reducible apply sendEntry_same
    | with_reducible apply writeHeld_same
    | with_reducible apply Same.foldl
    | intro _
    | dsimp +zetaDelta only

theorem toHome_same {K : Nat} {Z : State} (s : State) (core : Nat) (k : Nat) (e : SbEnt) (hK : 833231653848 &&& K = 833231653848) (hZ : Same K Z s) :
    Same K Z (State.toHome s core k e) := by
  unfold State.toHome
  repeat' first
    | extract_lets
    | with_reducible assumption
    | exact sub_trans rfl hK
    | exact bit_of rfl hK
    | split
    | with_reducible apply cacheStore_same
    | with_reducible apply dropEntry_same
    | with_reducible apply requestOnce_same
    | with_reducible apply updCore_same
    | dsimp +zetaDelta only

theorem toDevice_same {K : Nat} {Z : State} {s : State} {core : Nat} {e : SbEnt} {t : State}
    (h : s.toDevice core e = some t) (hK : 961938373628 &&& K = 961938373628) (hZ : Same K Z s) : Same K Z t := by
  unfold State.toDevice at h
  split at h
  · exact writeDev_same h (sub_trans rfl hK) hZ
  · extract_lets off at h
    split at h
    · cases h
    · rename_i q
      have hq := readDev_same q (sub_trans rfl hK) hZ
      rw [Option.map_eq_some_iff] at h
      obtain ⟨u, h1, rfl⟩ := h
      exact atomLane_same _ _ _ _ _ _ (sub_trans rfl hK) (writeDev_same h1 (sub_trans rfl hK) hq)

theorem leave_same {K : Nat} {Z : State} {s : State} {core k : Nat} {e : SbEnt} {t : State}
    (h : s.leave core k e = some t) (hK : 961938373628 &&& K = 961938373628) (hZ : Same K Z s) : Same K Z t := by
  unfold State.leave at h
  repeat' first
    | exact toDevice_same h (sub_trans rfl hK) (dropEntry_same _ _ _ (sub_trans rfl hK) hZ)
    | split at h
    | cases h
  repeat' first
    | extract_lets
    | with_reducible assumption
    | exact sub_trans rfl hK
    | exact bit_of rfl hK
    | split
    | with_reducible apply cacheStore_same
    | with_reducible apply dropEntry_same
    | with_reducible apply staleGen_same
    | with_reducible refine toDevice_same ‹_› ?_ ?_
    | with_reducible apply toHome_same
    | with_reducible apply toHost_same
    | with_reducible apply toNode_same

theorem returnLoad_same {K : Nat} {Z : State} (s : State) (core : Nat) (slot : Nat) (l : Load) (hK : 131072 &&& K = 131072) (hZ : Same K Z s) :
    Same K Z (State.returnLoad s core slot l) := by
  unfold State.returnLoad
  repeat' first
    | extract_lets
    | with_reducible assumption
    | exact sub_trans rfl hK
    | exact bit_of rfl hK
    | split
    | with_reducible apply fillLine_same
    | with_reducible apply invalidateDcache_same
    | with_reducible apply updChain_same
    | with_reducible apply Same.foldl
    | intro _
    | dsimp +zetaDelta only

theorem readDevLanes_same {K : Nat} {Z : State} {s : State} {core slot : Nat} {l : Load} {r : List (Nat × Nat)} {t : State}
    (h : s.readDevLanes core slot l r = .ok t) (hK : 550292815872 &&& K = 550292815872) (hZ : Same K Z s) : Same K Z t := by
  induction r generalizing s with
  | nil =>
    injection h with h
    exact h ▸ hZ
  | cons x r ih =>
    rw [State.readDevLanes] at h
    split at h
    · cases h
    · rename_i q
      have hq := readDev_same q (sub_trans rfl hK) hZ
      exact ih h (updChain_same _ _ _ _ (sub_trans rfl hK) hq)

end Sys2Proof.Laws
end

