-- ==== Sys2Proof/Laws/FrameGroups.lean ====
section
/-! SUPPORT. Frames of the operations of Machine/Groups.lean: the fields that each may change. -/

namespace Sys2Proof.Laws

open Sys2Proof.Machine

theorem checkBarrier_same {K : Nat} {Z : State} (s : State) (cid : Nat) (g : Nat) (a3 : Nat) (hK : 393216 &&& K = 393216) (hZ : Same K Z s) :
    Same K Z (State.checkBarrier s cid g a3) := by
  induction a3 generalizing s cid g with
  | zero => exact hZ
  | succ cn ih =>
    unfold State.checkBarrier
    repeat' first
      | extract_lets
      | with_reducible assumption
      | exact sub_trans rfl hK
      | exact bit_of rfl hK
      | with_reducible apply ih
      | split
      | with_reducible apply updChain_same
      | with_reducible apply updGroup_same
      | with_reducible apply Same.foldl
      | intro _
      | dsimp +zetaDelta only

theorem endGroup_same {K : Nat} {Z : State} (s : State) (cid : Nat) (g : Nat) (hK : 274883019480 &&& K = 274883019480) (hZ : Same K Z s) :
    Same K Z (State.endGroup s cid g) := by
  unfold State.endGroup
  repeat' first
    | extract_lets
    | with_reducible assumption
    | exact sub_trans rfl hK
    | exact bit_of rfl hK
    | split
    | with_reducible apply dropGroup_same
    | with_reducible apply finish_same
    | with_reducible apply unqueue_same
    | with_reducible apply updCmd_same
    | dsimp +zetaDelta only

theorem endChain_same {K : Nat} {Z : State} (s : State) (core : Nat) (slot : Nat) (hK : 274883019480 &&& K = 274883019480) (hZ : Same K Z s) :
    Same K Z (State.endChain s core slot) := by
  unfold State.endChain
  repeat' first
    | extract_lets
    | with_reducible assumption
    | exact sub_trans rfl hK
    | exact bit_of rfl hK
    | split
    | with_reducible apply checkBarrier_same
    | with_reducible apply dropChainWaiters_same
    | with_reducible apply endGroup_same
    | with_reducible apply leaveMxq_same
    | with_reducible apply updCore_same
    | dsimp +zetaDelta only

theorem putChains_same {K : Nat} {Z : State} (s : State) (core : Nat) (cs : List (Nat × Chain)) (hK : 131072 &&& K = 131072) (hZ : Same K Z s) :
    Same K Z (State.putChains s core cs) := by
  unfold State.putChains
  repeat' first
    | extract_lets
    | with_reducible assumption
    | exact sub_trans rfl hK
    | exact bit_of rfl hK
    | split
    | with_reducible apply updCore_same
    | with_reducible apply Same.foldl
    | intro _

theorem placeGroup_same {K : Nat} {Z : State} (s : State) (c : Cmd) (core : Nat) (hK : 274883019480 &&& K = 274883019480) (hZ : Same K Z s) :
    Same K Z (State.placeGroup s c core) := by
  unfold State.placeGroup
  repeat' first
    | extract_lets
    | with_reducible assumption
    | exact sub_trans rfl hK
    | exact bit_of rfl hK
    | split
    | with_reducible apply endChain_same
    | with_reducible apply progress_same
    | with_reducible apply putChains_same
    | with_reducible apply retime_same
    | with_reducible apply updCmd_same
    | with_reducible apply updCore_same
    | with_reducible apply updHide_same
    | with_reducible apply Same.foldl
    | with_reducible apply Same.groups_upd
    | intro _
    | dsimp +zetaDelta only

theorem yieldThree_same {K : Nat} {Z : State} (s : State) (core : Nat) (cls : Nat) (fits : List Group → Bool) (hK : 393216 &&& K = 393216) (hZ : Same K Z s) :
    Same K Z (State.yieldThree s core cls fits) := by
  unfold State.yieldThree
  repeat' first
    | extract_lets
    | with_reducible assumption
    | exact sub_trans rfl hK
    | exact bit_of rfl hK
    | split
    | with_reducible apply preempt_same
    | with_reducible apply Same.foldl
    | intro _
    | dsimp +zetaDelta only

theorem tryPlace_same {K : Nat} {Z : State} (s : State) (c : Cmd) (core : Nat) (hK : 309242757848 &&& K = 309242757848) (hZ : Same K Z s) :
    Same K Z (State.tryPlace s c core) := by
  unfold State.tryPlace
  repeat' first
    | extract_lets
    | with_reducible assumption
    | exact sub_trans rfl hK
    | exact bit_of rfl hK
    | split
    | with_reducible apply placeGroup_same
    | with_reducible apply wakeFurlong_same
    | with_reducible apply yieldThree_same

theorem finishSave_same {K : Nat} {Z : State} (s : State) (cid : Nat) (g : Nat) (hK : 903931104220 &&& K = 903931104220) (hZ : Same K Z s) :
    Same K Z (State.finishSave s cid g) := by
  unfold State.finishSave
  repeat' first
    | extract_lets
    | with_reducible assumption
    | exact sub_trans rfl hK
    | exact bit_of rfl hK
    | split
    | with_reducible apply failCmd_same
    | with_reducible apply saveGroup_same
    | with_reducible apply updChain_same
    | with_reducible apply updGroup_same
    | with_reducible apply Same.foldl
    | intro _
    | dsimp +zetaDelta only

theorem rewaitRemote_same {K : Nat} {Z : State} (s : State) (core : Nat) (slot : Nat) (c : Chain) (pa : Nat) (kind : Nat) (hK : 824633720832 &&& K = 824633720832) (hZ : Same K Z s) :
    Same K Z (State.rewaitRemote s core slot c pa kind) := by
  unfold State.rewaitRemote
  repeat' first
    | extract_lets
    | with_reducible assumption
    | exact sub_trans rfl hK
    | exact bit_of rfl hK
    | split
    | with_reducible apply sendReqOf_same
    | with_reducible apply Same.fab_upd
    | dsimp +zetaDelta only

theorem rewait_same {K : Nat} {Z : State} (s : State) (core : Nat) (slot : Nat) (base : Nat) (c : Chain) (hK : 833231653848 &&& K = 833231653848) (hZ : Same K Z s) :
    Same K Z (State.rewait s core slot base c) := by
  unfold State.rewait
  repeat' first
    | extract_lets
    | with_reducible assumption
    | exact sub_trans rfl hK
    | exact bit_of rfl hK
    | split
    | with_reducible apply askOwn_same
    | with_reducible apply rewaitRemote_same
    | with_reducible apply serveBarrier_same
    | with_reducible apply serveCounting_same
    | with_reducible apply Same.waiters_upd
    | dsimp +zetaDelta only

theorem returnMx_same {K : Nat} {Z : State} (s : State) (core : Nat) (hK : 393304 &&& K = 393304) (hZ : Same K Z s) :
    Same K Z (State.returnMx s core) := by
  unfold State.returnMx
  repeat' first
    | extract_lets
    | with_reducible assumption
    | exact sub_trans rfl hK
    | exact bit_of rfl hK
    | split
    | with_reducible apply installMx_same

theorem resumeGroup_same {K : Nat} {Z : State} (s : State) (x : Group) (c : Cmd) (core : Nat) (hK : 833231915992 &&& K = 833231915992) (hZ : Same K Z s) :
    Same K Z (State.resumeGroup s x c core) := by
  unfold State.resumeGroup
  repeat' first
    | extract_lets
    | with_reducible assumption
    | exact sub_trans rfl hK
    | exact bit_of rfl hK
    | split
    | with_reducible apply invalidateDcache_same
    | with_reducible apply progress_same
    | with_reducible apply putChains_same
    | with_reducible apply retime_same
    | with_reducible apply returnMx_same
    | with_reducible apply rewait_same
    | with_reducible apply updCore_same
    | with_reducible apply updGroup_same
    | with_reducible apply updHide_same
    | with_reducible apply wakeMx_same
    | with_reducible apply Same.foldl
    | intro _
    | dsimp +zetaDelta only

theorem tryResume_same {K : Nat} {Z : State} (s : State) (cid : Nat) (g : Nat) (core : Nat) (hK : 867591654360 &&& K = 867591654360) (hZ : Same K Z s) :
    Same K Z (State.tryResume s cid g core) := by
  unfold State.tryResume
  repeat' first
    | extract_lets
    | with_reducible assumption
    | exact sub_trans rfl hK
    | exact bit_of rfl hK
    | split
    | with_reducible apply resumeGroup_same
    | with_reducible apply wakeFurlong_same
    | with_reducible apply yieldThree_same
    | dsimp +zetaDelta only

end Sys2Proof.Laws
end

