-- ==== Sys2Proof/Laws/FrameServing.lean ====
section
/-! SUPPORT. Frames of the operations of Machine/Serving.lean: the fields that each may change. -/

namespace Sys2Proof.Laws

open Sys2Proof.Machine

theorem putPlan_same {K : Nat} {Z : State} (s : State) (slot : Nat) (p : Plan) (hK : 1107296256 &&& K = 1107296256) (hZ : Same K Z s) :
    Same K Z (State.putPlan s slot p) := by
  unfold State.putPlan
  repeat' first
    | extract_lets
    | with_reducible assumption
    | exact sub_trans rfl hK
    | exact bit_of rfl hK
    | split
    | with_reducible apply updWm_same
    | with_reducible apply Same.plans_upd

theorem loadPlan_same {K : Nat} {Z : State} (s : State) (c : Cmd) (hK : 834335189976 &&& K = 834335189976) (hZ : Same K Z s) :
    Same K Z (State.loadPlan s c) := by
  unfold State.loadPlan
  repeat' first
    | extract_lets
    | with_reducible assumption
    | exact sub_trans rfl hK
    | exact bit_of rfl hK
    | split
    | with_reducible apply applyVal_same
    | with_reducible apply complete_same
    | with_reducible apply putPlan_same
    | with_reducible apply wmCheck_same

theorem fillSeq_same {K : Nat} {Z : State} (s : State) (c : Cmd) (e : Nat) (slot : Nat) (ssb : Nat) (ring : Nat) (prompt : Nat) (hK : 868732242904 &&& K = 868732242904) (hZ : Same K Z s) :
    Same K Z (State.fillSeq s c e slot ssb ring prompt) := by
  unfold State.fillSeq
  repeat' first
    | extract_lets
    | with_reducible assumption
    | exact sub_trans rfl hK
    | exact bit_of rfl hK
    | split
    | with_reducible apply drawNext_same
    | with_reducible apply seqSsb_same
    | with_reducible apply updSeq_same
    | with_reducible apply wmCheck_same
    | dsimp +zetaDelta only

theorem openSeq_same {K : Nat} {Z : State} (s : State) (c : Cmd) (hK : 868866460632 &&& K = 868866460632) (hZ : Same K Z s) :
    Same K Z (State.openSeq s c) := by
  unfold State.openSeq
  repeat' first
    | extract_lets
    | with_reducible assumption
    | exact sub_trans rfl hK
    | exact bit_of rfl hK
    | split
    | with_reducible apply complete_same
    | with_reducible apply endWrites_same
    | with_reducible apply fillSeq_same
    | with_reducible apply putSsb_same
    | with_reducible apply updHide_same
    | with_reducible apply wmCheck_same
    | with_reducible apply Same.pendOrder_upd
    | dsimp +zetaDelta only

theorem admitPend_same {K : Nat} {Z : State} (s : State) (hK : 868732242904 &&& K = 868732242904) (hZ : Same K Z s) :
    Same K Z (State.admitPend s) := by
  unfold State.admitPend
  repeat' first
    | extract_lets
    | with_reducible assumption
    | exact sub_trans rfl hK
    | exact bit_of rfl hK
    | split
    | with_reducible apply fillSeq_same
    | with_reducible apply postNotice_same
    | with_reducible apply updHide_same
    | dsimp +zetaDelta only

theorem closeCmd_same {K : Nat} {Z : State} (s : State) (c : Cmd) (hK : 834406058968 &&& K = 834406058968) (hZ : Same K Z s) :
    Same K Z (State.closeCmd s c) := by
  unfold State.closeCmd
  repeat' first
    | extract_lets
    | with_reducible assumption
    | exact sub_trans rfl hK
    | exact bit_of rfl hK
    | split
    | with_reducible apply closeSeq_same
    | with_reducible apply complete_same
    | with_reducible apply endWrites_same
    | with_reducible apply freeSsb_same
    | with_reducible apply gateAsk_same
    | with_reducible apply updCmd_same
    | with_reducible apply updHide_same
    | with_reducible apply updSeq_same
    | with_reducible apply wmCheck_same
    | dsimp +zetaDelta only

theorem startStep_same {K : Nat} {Z : State} (s : State) (c : Cmd) (hK : 558383499992 &&& K = 558383499992) (hZ : Same K Z s) :
    Same K Z (State.startStep s c) := by
  unfold State.startStep
  repeat' first
    | extract_lets
    | with_reducible assumption
    | exact sub_trans rfl hK
    | exact bit_of rfl hK
    | split
    | with_reducible apply complete_same
    | with_reducible apply updCmd_same
    | with_reducible apply updPlan_same

theorem nextStepCmd_same {K : Nat} {Z : State} (s : State) (slot : Nat) (hK : 33554944 &&& K = 33554944) (hZ : Same K Z s) :
    Same K Z (State.nextStepCmd s slot) := by
  unfold State.nextStepCmd
  repeat' first
    | extract_lets
    | with_reducible assumption
    | exact sub_trans rfl hK
    | exact bit_of rfl hK
    | split
    | with_reducible apply updCmd_same
    | with_reducible apply updPlan_same

theorem endStepCmd_same {K : Nat} {Z : State} (s : State) (slot : Nat) (cid : Nat) (st : Nat) (err : Option ErrInfo) (hK : 558383499992 &&& K = 558383499992) (hZ : Same K Z s) :
    Same K Z (State.endStepCmd s slot cid st err) := by
  unfold State.endStepCmd
  repeat' first
    | extract_lets
    | with_reducible assumption
    | exact sub_trans rfl hK
    | exact bit_of rfl hK
    | split
    | with_reducible apply endWrites_same
    | with_reducible apply nextStepCmd_same
    | with_reducible apply updPlan_same

theorem takeDrafts_same {K : Nat} {Z : State} (s : State) (cid : Nat) (e : Nat) (hK : 833231653848 &&& K = 833231653848) (hZ : Same K Z s) :
    Same K Z (State.takeDrafts s cid e).2 := by
  unfold State.takeDrafts
  repeat' first
    | extract_lets
    | with_reducible assumption
    | exact sub_trans rfl hK
    | exact bit_of rfl hK
    | split
    | with_reducible apply gatePut_same
    | dsimp +zetaDelta only

theorem holdSeq_same {K : Nat} {Z : State} (s : State) (cid : Nat) (e : Nat) (why : Nat) (hK : 833298762712 &&& K = 833298762712) (hZ : Same K Z s) :
    Same K Z (State.holdSeq s cid e why) := by
  unfold State.holdSeq
  repeat' first
    | extract_lets
    | with_reducible assumption
    | exact sub_trans rfl hK
    | exact bit_of rfl hK
    | split
    | with_reducible apply seqSsb_same
    | with_reducible apply updSeq_same

theorem takePages_same {K : Nat} {Z : State} (s : State) (cid : Nat) (slot : Nat) (e : Nat) (n : Nat) (hK : 833332317144 &&& K = 833332317144) (hZ : Same K Z s) :
    Same K Z (State.takePages s cid slot e n) := by
  unfold State.takePages
  repeat' first
    | extract_lets
    | with_reducible assumption
    | exact sub_trans rfl hK
    | exact bit_of rfl hK
    | split
    | with_reducible apply gateExt_same
    | with_reducible apply updPlan_same
    | with_reducible apply updSeq_same
    | dsimp +zetaDelta only

theorem writeRows_same {K : Nat} {Z : State} (s : State) (cid : Nat) (slot : Nat) (e : Nat) (row : Nat) (n : Nat) (drafts : List Nat) (hK : 833231653848 &&& K = 833231653848) (hZ : Same K Z s) :
    Same K Z (State.writeRows s cid slot e row n drafts) := by
  unfold State.writeRows
  repeat' first
    | extract_lets
    | with_reducible assumption
    | exact sub_trans rfl hK
    | exact bit_of rfl hK
    | split
    | with_reducible apply gateExt_same
    | dsimp +zetaDelta only

theorem buildOne_same {K : Nat} {Z : State} (cid : Nat) (slot : Nat) (p : Plan) (x : State × Build) (e : Nat) (hK : 833332317144 &&& K = 833332317144) (hZ : Same K Z x.1) :
    Same K Z (State.buildOne cid slot p x e).1 := by
  unfold State.buildOne
  repeat' first
    | extract_lets
    | with_reducible assumption
    | exact sub_trans rfl hK
    | exact bit_of rfl hK
    | split
    | with_reducible apply holdSeq_same
    | with_reducible apply takeDrafts_same
    | with_reducible apply takePages_same
    | with_reducible apply updSeq_same
    | with_reducible apply writeRows_same
    | dsimp +zetaDelta only

theorem buildStep_same {K : Nat} {Z : State} (s : State) (slot : Nat) (p : Plan) (st : Step) (hK : 834406058968 &&& K = 834406058968) (hZ : Same K Z s) :
    Same K Z (State.buildStep s slot p st) := by
  have hb : ∀ (l : List Nat) (b : State × Build), Same K Z b.1 →
      Same K Z (l.foldl (fun b e => State.buildOne st.cid slot p b e) b).1 := by
    intro l
    induction l with
    | nil => exact fun _ h => h
    | cons e r ih => exact fun b h => ih _ (buildOne_same _ _ _ _ _ (sub_trans rfl hK) h)
  unfold State.buildStep
  repeat' first
    | extract_lets
    | with_reducible assumption
    | exact sub_trans rfl hK
    | split
    | exact hb _ _ hZ
    | with_reducible apply endStepCmd_same
    | with_reducible apply gateAsk_same
    | with_reducible apply updPlan_same
    | with_reducible apply wmCheck_same

theorem stepBuild_same {K : Nat} {Z : State} (s : State) (slot : Nat) (hK : 834406067160 &&& K = 834406067160) (hZ : Same K Z s) :
    Same K Z (State.stepBuild s slot) := by
  unfold State.stepBuild
  repeat' first
    | extract_lets
    | with_reducible assumption
    | exact sub_trans rfl hK
    | exact bit_of rfl hK
    | split
    | with_reducible apply askSide_same
    | with_reducible apply buildStep_same
    | with_reducible apply emit_same
    | with_reducible apply endStepCmd_same
    | with_reducible apply nextStepCmd_same
    | with_reducible apply startMigration_same
    | with_reducible apply updPlan_same

theorem issueStage_same {K : Nat} {Z : State} (s : State) (slot : Nat) (hK : 34397488768 &&& K = 34397488768) (hZ : Same K Z s) :
    Same K Z (State.issueStage s slot) := by
  unfold State.issueStage
  repeat' first
    | extract_lets
    | with_reducible assumption
    | exact sub_trans rfl hK
    | exact bit_of rfl hK
    | split
    | with_reducible apply enterQueue_same
    | with_reducible apply updPlan_same
    | with_reducible apply updQueue_same
    | with_reducible apply Same.cmds_upd
    | with_reducible apply Same.nextCid_upd
    | dsimp +zetaDelta only
    | exact Or.inl (bit_of rfl hK)
    | exact Or.inr rfl
    | exact rfl
    | with_reducible apply Same.mk_upd

theorem stageAhead_same {K : Nat} {Z : State} (s : State) (slot : Nat) (hK : 33554432 &&& K = 33554432) (hZ : Same K Z s) :
    Same K Z (State.stageAhead s slot) := by
  unfold State.stageAhead
  repeat' first
    | extract_lets
    | with_reducible assumption
    | exact sub_trans rfl hK
    | exact bit_of rfl hK
    | split
    | with_reducible apply updPlan_same
    | dsimp +zetaDelta only

theorem emitToken_same {K : Nat} {Z : State} (s : State) (cid : Nat) (e : Nat) (token : Nat) (advance : Bool) (hK : 833298762712 &&& K = 833298762712) (hZ : Same K Z s) :
    Same K Z (State.emitToken s cid e token advance) := by
  unfold State.emitToken
  repeat' first
    | extract_lets
    | with_reducible assumption
    | exact sub_trans rfl hK
    | exact bit_of rfl hK
    | split
    | with_reducible apply gatePut_same
    | with_reducible apply updSeq_same
    | dsimp +zetaDelta only

theorem emitRows_same {K : Nat} {Z : State} (s : State) (cid : Nat) (p : Plan) (e : Nat) (row : Nat) (advance : Bool) (a6 : Nat) (hK : 833298762712 &&& K = 833298762712) (hZ : Same K Z s) :
    Same K Z (State.emitRows s cid p e row advance a6) := by
  induction a6 generalizing s cid p e row advance with
  | zero => exact hZ
  | succ cn ih =>
    unfold State.emitRows
    repeat' first
      | extract_lets
      | with_reducible assumption
      | exact sub_trans rfl hK
      | exact bit_of rfl hK
      | with_reducible apply ih
      | split
      | with_reducible apply emitToken_same
      | with_reducible apply updSeq_same
      | dsimp +zetaDelta only

theorem trimPages_same {K : Nat} {Z : State} (s : State) (slot : Nat) (p : Plan) (e : Nat) (hK : 100663296 &&& K = 100663296) (hZ : Same K Z s) :
    Same K Z (State.trimPages s slot p e) := by
  unfold State.trimPages
  repeat' first
    | extract_lets
    | with_reducible assumption
    | exact sub_trans rfl hK
    | exact bit_of rfl hK
    | split
    | with_reducible apply updPlan_same
    | with_reducible apply updSeq_same
    | dsimp +zetaDelta only

theorem commitOne_same {K : Nat} {Z : State} (s : State) (cid : Nat) (slot : Nat) (p : Plan) (x : SelEnt) (hK : 834406058968 &&& K = 834406058968) (hZ : Same K Z s) :
    Same K Z (State.commitOne s cid slot p x) := by
  unfold State.commitOne
  repeat' first
    | extract_lets
    | with_reducible assumption
    | exact sub_trans rfl hK
    | exact bit_of rfl hK
    | split
    | with_reducible apply closeSeq_same
    | with_reducible apply closeWaiting_same
    | with_reducible apply emitRows_same
    | with_reducible apply seqSsb_same
    | with_reducible apply trimPages_same
    | with_reducible apply updSeq_same
    | dsimp +zetaDelta only

theorem commitStep_same {K : Nat} {Z : State} (s : State) (slot : Nat) (hK : 834406058968 &&& K = 834406058968) (hZ : Same K Z s) :
    Same K Z (State.commitStep s slot) := by
  unfold State.commitStep
  repeat' first
    | extract_lets
    | with_reducible assumption
    | exact sub_trans rfl hK
    | exact bit_of rfl hK
    | split
    | with_reducible apply commitOne_same
    | with_reducible apply endStepCmd_same
    | with_reducible apply gateAsk_same
    | with_reducible apply updCmd_same
    | with_reducible apply updPlan_same
    | with_reducible apply wmCheck_same
    | with_reducible apply Same.foldl
    | intro _
    | dsimp +zetaDelta only

end Sys2Proof.Laws
end

