-- ==== Sys2Proof/Laws/FrameReport.lean ====
section
/-! SUPPORT. Frames of the operations of Machine/Report.lean: the fields that each may change. -/

namespace Sys2Proof.Laws

open Sys2Proof.Machine

theorem endStage_same {K : Nat} {Z : State} (s : State) (c : Cmd) (slot : Nat) (hK : 834406321112 &&& K = 834406321112) (hZ : Same K Z s) :
    Same K Z (State.endStage s c slot) := by
  unfold State.endStage
  repeat' first
    | extract_lets
    | with_reducible assumption
    | exact sub_trans rfl hK
    | exact bit_of rfl hK
    | split
    | with_reducible apply abandonStep_same
    | with_reducible apply dropCmd_same
    | with_reducible apply dropGroups_same
    | with_reducible apply endStepCmd_same
    | with_reducible apply progress_same
    | with_reducible apply unqueue_same
    | with_reducible apply updPlan_same
    | dsimp +zetaDelta only

theorem leaveForeign_same {K : Nat} {Z : State} (s : State) (e : Nat) (cid : Nat) (hK : 68719476736 &&& K = 68719476736) (hZ : Same K Z s) :
    Same K Z (State.leaveForeign s e cid) := by
  unfold State.leaveForeign
  repeat' first
    | extract_lets
    | with_reducible assumption
    | exact sub_trans rfl hK
    | exact bit_of rfl hK
    | split
    | with_reducible apply updEngine_same

theorem engineRecord_same {K : Nat} {Z : State} (s : State) (e : Nat) (kind : Nat) (hK : 558345748696 &&& K = 558345748696) (hZ : Same K Z s) :
    Same K Z (State.engineRecord s e kind) := by
  unfold State.engineRecord
  repeat' first
    | extract_lets
    | with_reducible assumption
    | exact sub_trans rfl hK
    | exact bit_of rfl hK
    | split
    | with_reducible apply postGlobal_same

theorem endForeign_same {K : Nat} {Z : State} (s : State) (c : Cmd) (st : Nat) (hK : 627069422296 &&& K = 627069422296) (hZ : Same K Z s) :
    Same K Z (State.endForeign s c st) := by
  unfold State.endForeign
  repeat' first
    | extract_lets
    | with_reducible assumption
    | exact sub_trans rfl hK
    | exact bit_of rfl hK
    | split
    | with_reducible apply complete_same
    | with_reducible apply endWrites_same
    | with_reducible apply engineRecord_same
    | with_reducible apply leaveForeign_same
    | with_reducible apply updCmd_same
    | with_reducible apply updEngine_same
    | dsimp +zetaDelta only

theorem report_same {K : Nat} {Z : State} (s : State) (cid : Nat) (gen : Nat) (st : Nat) (hK : 903125797848 &&& K = 903125797848) (hZ : Same K Z s) :
    Same K Z (State.report s cid gen st) := by
  unfold State.report
  repeat' first
    | extract_lets
    | with_reducible assumption
    | exact sub_trans rfl hK
    | exact bit_of rfl hK
    | split
    | with_reducible apply complete_same
    | with_reducible apply dropGroups_same
    | with_reducible apply endForeign_same
    | with_reducible apply endStage_same
    | with_reducible apply leaveForeign_same
    | with_reducible apply staleGen_same
    | dsimp +zetaDelta only

theorem engineAtomic_same {K : Nat} {Z : State} (s : State) (e : Nat) (c : Cmd) (pa : Nat) (o : AtomOp) (wide : Bool) (v : W64) (k : W64) (hK : 833231653848 &&& K = 833231653848) (hZ : Same K Z s) :
    Same K Z (State.engineAtomic s e c pa o wide v k) := by
  unfold State.engineAtomic
  repeat' first
    | extract_lets
    | with_reducible assumption
    | exact sub_trans rfl hK
    | exact bit_of rfl hK
    | split
    | with_reducible apply askOwn_same
    | with_reducible apply emit_same
    | with_reducible apply homeAtom_same
    | with_reducible apply sendReq_same
    | with_reducible apply takeOwn_same
    | with_reducible apply writeBytes_same
    | dsimp +zetaDelta only

theorem engineAccess_same {K : Nat} {Z : State} (s : State) (e : Nat) (c : Cmd) (slot : Nat) (off : Nat) (op : EngOp) (hK : 833231653848 &&& K = 833231653848) (hZ : Same K Z s) :
    Same K Z (State.engineAccess s e c slot off op) := by
  unfold State.engineAccess
  repeat' first
    | extract_lets
    | with_reducible assumption
    | exact sub_trans rfl hK
    | exact bit_of rfl hK
    | split
    | with_reducible apply askReads_same
    | with_reducible apply emit_same
    | with_reducible apply engineAtomic_same
    | with_reducible apply staleGen_same
    | with_reducible apply writeExt_same
    | dsimp +zetaDelta only

end Sys2Proof.Laws
end

