-- ==== Sys2Proof/Laws/FrameRikuAlu.lean ====
section
/-! SUPPORT. Frames of the operations of Machine/RikuAlu.lean: the fields that each may change. -/

namespace Sys2Proof.Laws

open Sys2Proof.Machine

theorem vlane_same {K : Nat} {Z : State} (s : State) (r : ChainRef) (i : V3) (illegal : Bool) (vs : List Nat) (us : List Nat) (f : Chain → Nat → W32) (hK : 903931104220 &&& K = 903931104220) (hZ : Same K Z s) :
    Same K Z (State.vlane s r i illegal vs us f) := by
  unfold State.vlane
  repeat' first
    | extract_lets
    | with_reducible assumption
    | exact sub_trans rfl hK
    | exact bit_of rfl hK
    | split
    | with_reducible apply vector_same

end Sys2Proof.Laws
end

