-- ==== Sys2Proof/Laws/FrameRikuCtl.lean ====
section
/-! SUPPORT. Frames of the operations of Machine/RikuCtl.lean: the fields that each may change. -/

namespace Sys2Proof.Laws

open Sys2Proof.Machine

theorem exitAct_same {K : Nat} {Z : State} (core : Nat) (slot : Nat) (c : Chain) (p : W32) (hK : 274883019480 &&& K = 274883019480) :
    Act.keeps K Z (exitAct core slot c p) := by
  unfold exitAct
  repeat' first
    | extract_lets
    | with_reducible assumption
    | exact sub_trans rfl hK
    | exact bit_of rfl hK
    | split
    | with_reducible apply endChain_same
    | with_reducible exact trivial
    | with_reducible apply Act.keeps_done
    | with_reducible apply Act.keeps_with
    | with_reducible apply Act.keeps_exc
    | intro _
    | dsimp +zetaDelta only

theorem setMxSreg_same {K : Nat} {Z : State} (s : State) (core : Nat) (k : Nat) (v : Nat) (hK : 131160 &&& K = 131160) (hZ : Same K Z s) :
    Same K Z (State.setMxSreg s core k v) := by
  unfold State.setMxSreg
  repeat' first
    | extract_lets
    | with_reducible assumption
    | exact sub_trans rfl hK
    | exact bit_of rfl hK
    | split
    | with_reducible apply updCore_same
    | with_reducible apply writeBytes_same

theorem fenceAct_same {K : Nat} {Z : State} (c : Chain) (scope : Nat) (hK : 0 &&& K = 0) :
    Act.keeps K Z (fenceAct c scope) := by
  unfold fenceAct
  repeat' first
    | extract_lets
    | with_reducible assumption
    | exact sub_trans rfl hK
    | exact bit_of rfl hK
    | split
    | with_reducible exact trivial
    | with_reducible apply Act.keeps_done
    | intro _

theorem arriveBar_same {K : Nat} {Z : State} (s : State) (core : Nat) (slot : Nat) (c : Chain) (id : Nat) (hK : 393216 &&& K = 393216) (hZ : Same K Z s) :
    Same K Z (State.arriveBar s core slot c id) := by
  unfold State.arriveBar
  repeat' first
    | extract_lets
    | with_reducible assumption
    | exact sub_trans rfl hK
    | exact bit_of rfl hK
    | split
    | with_reducible apply checkBarrier_same
    | with_reducible apply updChain_same
    | with_reducible apply updGroup_same

theorem takeObj_same {K : Nat} {Z : State} (s : State) (o : Option Nat × Nat) (hK : 824636866560 &&& K = 824636866560) (hZ : Same K Z s) :
    Same K Z (State.takeObj s o) := by
  unfold State.takeObj
  repeat' first
    | extract_lets
    | with_reducible assumption
    | exact sub_trans rfl hK
    | exact bit_of rfl hK
    | split
    | with_reducible apply takeOwn_same

theorem register_same {K : Nat} {Z : State} (s : State) (core : Nat) (slot : Nat) (c : Chain) (id : W64) (o : Option Nat × Nat) (phase : Nat) (hK : 655360 &&& K = 655360) (hZ : Same K Z s) :
    Same K Z (State.register s core slot c id o phase) := by
  unfold State.register
  repeat' first
    | extract_lets
    | with_reducible assumption
    | exact sub_trans rfl hK
    | exact bit_of rfl hK
    | split
    | with_reducible apply updChain_same
    | with_reducible apply Same.waiters_upd

theorem eventMsg_same {K : Nat} {Z : State} (s : State) (core : Nat) (slot : Nat) (c : Chain) (id : W64) (pa : Nat) (kind : Nat) (hK : 824633851904 &&& K = 824633851904) (hZ : Same K Z s) :
    Same K Z (State.eventMsg s core slot c id pa kind) := by
  unfold State.eventMsg
  repeat' first
    | extract_lets
    | with_reducible assumption
    | exact sub_trans rfl hK
    | exact bit_of rfl hK
    | split
    | with_reducible apply sendReqOf_same
    | with_reducible apply updChain_same
    | dsimp +zetaDelta only

theorem waitObj_same {K : Nat} {Z : State} (s : State) (core : Nat) (slot : Nat) (c : Chain) (id : W64) (o : Option Nat × Nat) (hK : 824637522264 &&& K = 824637522264) (hZ : Same K Z s) :
    Same K Z (State.waitObj s core slot c id o) := by
  unfold State.waitObj
  repeat' first
    | extract_lets
    | with_reducible assumption
    | exact sub_trans rfl hK
    | exact bit_of rfl hK
    | split
    | with_reducible apply acquired_same
    | with_reducible apply eventMsg_same
    | with_reducible apply objWrite_same
    | with_reducible apply register_same
    | with_reducible apply takeObj_same

theorem signalObj_same {K : Nat} {Z : State} (s : State) (core : Nat) (slot : Nat) (c : Chain) (id : W64) (o : Option Nat × Nat) (hK : 833231653848 &&& K = 833231653848) (hZ : Same K Z s) :
    Same K Z (State.signalObj s core slot c id o) := by
  unfold State.signalObj
  repeat' first
    | extract_lets
    | with_reducible assumption
    | exact sub_trans rfl hK
    | exact bit_of rfl hK
    | split
    | with_reducible apply acquired_same
    | with_reducible apply arriveBarrier_same
    | with_reducible apply eventMsg_same
    | with_reducible apply register_same
    | with_reducible apply signalCount_same
    | with_reducible apply takeObj_same
    | dsimp +zetaDelta only

end Sys2Proof.Laws
end

