-- ==== Sys2Proof/Laws/FrameRikuMx.lean ====
section
/-! SUPPORT. Frames of the operations of Machine/RikuMx.lean: the fields that each may change. -/

namespace Sys2Proof.Laws

open Sys2Proof.Machine

theorem joinMxq_same {K : Nat} {Z : State} (s : State) (core : Nat) (slot : Nat) (hK : 131072 &&& K = 131072) (hZ : Same K Z s) :
    Same K Z (State.joinMxq s core slot) := by
  unfold State.joinMxq
  repeat' first
    | extract_lets
    | with_reducible assumption
    | exact sub_trans rfl hK
    | exact bit_of rfl hK
    | split
    | with_reducible apply updCore_same

theorem mx_same {K : Nat} {Z : State} (s : State) (r : ChainRef) (i : MxI) (legal : Bool) (fmts : List Nat) (needs : Chain → LsNeed) (fails : Bool) (f : Chain → State → State) (hK : 903931104220 &&& K = 903931104220) (hf : ∀ x0 x1, Same K Z x1 → Same K Z (f x0 x1)) (hZ : Same K Z s) :
    Same K Z (State.mx s r i legal fmts needs fails f) := by
  unfold State.mx
  repeat' first
    | extract_lets
    | with_reducible assumption
    | exact sub_trans rfl hK
    | exact bit_of rfl hK
    | split
    | with_reducible apply joinMxq_same
    | with_reducible apply leaveMxq_same
    | with_reducible apply markSuspect_same
    | with_reducible apply raise_same
    | with_reducible apply updCore_same
    | with_reducible apply wakeMx_same
    | with_reducible apply whole_same
    | with_reducible apply hf
    | with_reducible exact trivial
    | with_reducible apply Act.keeps_with
    | with_reducible apply Act.keeps_exc
    | with_reducible apply Act.keeps_hold
    | with_reducible apply Act.keeps_request
    | with_reducible apply Act.keeps_wait
    | intro _
    | dsimp +zetaDelta only

theorem updUnit_same {K : Nat} {Z : State} (s : State) (core : Nat) (f : MxUnit → MxUnit) (hK : 131072 &&& K = 131072) (hZ : Same K Z s) :
    Same K Z (State.updUnit s core f) := by
  unfold State.updUnit
  repeat' first
    | extract_lets
    | with_reducible assumption
    | exact sub_trans rfl hK
    | exact bit_of rfl hK
    | split
    | with_reducible apply updCore_same

end Sys2Proof.Laws
end

