-- ==== Sys2Proof/Laws/FrameStep.lean ====
section
/-! SUPPORT. Frames of the operations of Machine/Step.lean: the fields that each may change. -/

namespace Sys2Proof.Laws

open Sys2Proof.Machine

theorem tick_same {K : Nat} {Z : State} (s : State) (hK : 25769803778 &&& K = 25769803778) (hZ : Same K Z s) :
    Same K Z (State.tick s) := by
  unfold State.tick
  repeat' first
    | extract_lets
    | with_reducible assumption
    | exact sub_trans rfl hK
    | exact bit_of rfl hK
    | split
    | with_reducible apply Same.btime_upd
    | with_reducible apply Same.ao_upd
    | with_reducible apply Same.gov_upd
    | dsimp +zetaDelta only
    | exact Or.inl (bit_of rfl hK)
    | exact Or.inr rfl
    | exact rfl
    | with_reducible apply Same.mk_upd

end Sys2Proof.Laws
end

