-- ==== Sys2Proof/Laws/FrameExec.lean ====
section
/-! SUPPORT. Frames of the commands: the fields that each may change when it answers a next state. -/

namespace Sys2Proof.Laws

open Sys2Proof.Machine

theorem execRegisterWrite_same {v : RegView} {off : Nat} {size : Nat} {val : W64} {s : State} {s1 : State} (h : execRegisterWrite v off size val s = .next s1) : Same 961938373628 s s1 := by
  have hK : 961938373628 &&& 961938373628 = 961938373628 := rfl
  have hZ := Same.refl 961938373628 s
  unfold execRegisterWrite at h
  repeat' first
    | extract_lets at h
    | (injection h with h; subst h)
    | split at h
    | cases h
    | extract_lets
    | with_reducible assumption
    | exact sub_trans rfl hK
    | exact bit_of rfl hK
    | split
    | with_reducible apply writeBar_same
    | with_reducible refine writeDev_same ‹_› ?_ ?_

theorem execVerSelectWrite_same {fn : Fin 513} {val : W16} {s : State} {s1 : State} (h : execVerSelectWrite fn val s = .next s1) : Same 549755814016 s s1 := by
  have hK : 549755814016 &&& 549755814016 = 549755814016 := rfl
  have hZ := Same.refl 549755814016 s
  unfold execVerSelectWrite at h
  repeat' first
    | extract_lets at h
    | (injection h with h; subst h)
    | split at h
    | cases h
    | extract_lets
    | with_reducible assumption
    | exact sub_trans rfl hK
    | exact bit_of rfl hK
    | split
    | with_reducible apply writeVerSelect_same

theorem execFunctionReset_same {fn : Fin 513} {s : State} {s1 : State} (h : execFunctionReset fn s = .next s1) : Same 906078632924 s s1 := by
  have hK : 906078632924 &&& 906078632924 = 906078632924 := rfl
  have hZ := Same.refl 906078632924 s
  unfold execFunctionReset at h
  repeat' first
    | extract_lets at h
    | (injection h with h; subst h)
    | split at h
    | cases h
    | extract_lets
    | with_reducible assumption
    | exact sub_trans rfl hK
    | exact bit_of rfl hK
    | split
    | with_reducible apply emit_same
    | with_reducible apply startFnReset_same

theorem execFlrReport_same {fn : Fin 513} {s : State} {s1 : State} (h : execFlrReport fn s = .next s1) : Same 906078632924 s s1 := by
  have hK : 906078632924 &&& 906078632924 = 906078632924 := rfl
  have hZ := Same.refl 906078632924 s
  unfold execFlrReport at h
  repeat' first
    | extract_lets at h
    | (injection h with h; subst h)
    | split at h
    | cases h
    | extract_lets
    | with_reducible assumption
    | exact sub_trans rfl hK
    | exact bit_of rfl hK
    | split
    | with_reducible apply startFnReset_same

theorem execFunctionResetEnd_same {fn : Fin 513} {s : State} {s1 : State} (h : execFunctionResetEnd fn s = .next s1) : Same 384 s s1 := by
  have hK : 384 &&& 384 = 384 := rfl
  have hZ := Same.refl 384 s
  unfold execFunctionResetEnd at h
  repeat' first
    | extract_lets at h
    | (injection h with h; subst h)
    | split at h
    | cases h
    | extract_lets
    | with_reducible assumption
    | exact sub_trans rfl hK
    | exact bit_of rfl hK
    | split
    | with_reducible apply endFnReset_same

theorem execQueueEnable_same {fn : Fin 513} {q : Fin 64} {ctrl : W64} {s : State} {s1 : State} (h : execQueueEnable fn q ctrl s = .next s1) : Same 558345781464 s s1 := by
  have hK : 558345781464 &&& 558345781464 = 558345781464 := rfl
  have hZ := Same.refl 558345781464 s
  unfold execQueueEnable at h
  repeat' first
    | extract_lets at h
    | (injection h with h; subst h)
    | split at h
    | cases h
    | extract_lets
    | with_reducible assumption
    | exact sub_trans rfl hK
    | exact bit_of rfl hK
    | split
    | with_reducible apply writeEnable_same

theorem execQueueDisable_same {fn : Fin 513} {q : Fin 64} {ctrl : W64} {s : State} {s1 : State} (h : execQueueDisable fn q ctrl s = .next s1) : Same 549755814016 s s1 := by
  have hK : 549755814016 &&& 549755814016 = 549755814016 := rfl
  have hZ := Same.refl 549755814016 s
  unfold execQueueDisable at h
  repeat' first
    | extract_lets at h
    | (injection h with h; subst h)
    | split at h
    | cases h
    | extract_lets
    | with_reducible assumption
    | exact sub_trans rfl hK
    | exact bit_of rfl hK
    | split
    | with_reducible apply writeDisable_same

theorem execQueueDrainEnd_same {fn : Fin 513} {q : Fin 64} {s : State} {s1 : State} (h : execQueueDrainEnd fn q s = .next s1) : Same 558345781720 s s1 := by
  have hK : 558345781720 &&& 558345781720 = 558345781720 := rfl
  have hZ := Same.refl 558345781720 s
  unfold execQueueDrainEnd at h
  repeat' first
    | extract_lets at h
    | (injection h with h; subst h)
    | split at h
    | cases h
    | extract_lets
    | with_reducible assumption
    | exact sub_trans rfl hK
    | exact bit_of rfl hK
    | split
    | with_reducible apply endDrain_same

theorem execDoorbell_same {fn : Fin 513} {q : Fin 64} {tail : W32} {s : State} {s1 : State} (h : execDoorbell fn q tail s = .next s1) : Same 902756699100 s s1 := by
  have hK : 902756699100 &&& 902756699100 = 902756699100 := rfl
  have hZ := Same.refl 902756699100 s
  unfold execDoorbell at h
  repeat' first
    | extract_lets at h
    | (injection h with h; subst h)
    | split at h
    | cases h
    | extract_lets
    | with_reducible assumption
    | exact sub_trans rfl hK
    | exact bit_of rfl hK
    | split
    | with_reducible apply ringDoorbell_same

theorem execPushSlotWrite_same {fn : Fin 513} {q : Fin 64} {off : Nat} {len : Nat} {data : Desc} {s : State} {s1 : State} (h : execPushSlotWrite fn q off len data s = .next s1) : Same 549755814016 s s1 := by
  have hK : 549755814016 &&& 549755814016 = 549755814016 := rfl
  have hZ := Same.refl 549755814016 s
  unfold execPushSlotWrite at h
  repeat' first
    | extract_lets at h
    | (injection h with h; subst h)
    | split at h
    | cases h
    | extract_lets
    | with_reducible assumption
    | exact sub_trans rfl hK
    | exact bit_of rfl hK
    | split
    | with_reducible apply writePush_same

theorem execContextLoad_same {ctx : Fin 16384} {s : State} {s1 : State} (h : execContextLoad ctx s = .next s1) : Same 902756699100 s s1 := by
  have hK : 902756699100 &&& 902756699100 = 902756699100 := rfl
  have hZ := Same.refl 902756699100 s
  unfold execContextLoad at h
  repeat' first
    | extract_lets at h
    | (injection h with h; subst h)
    | split at h
    | cases h
    | extract_lets
    | with_reducible assumption
    | exact sub_trans rfl hK
    | exact bit_of rfl hK
    | split
    | with_reducible refine makeResident_same ‹_› ?_ ?_
    | with_reducible apply wakeQueues_same
    | dsimp +zetaDelta only

theorem execDescriptorFetchResponse_same {fn : Fin 513} {q : Fin 64} {count : W32} {desc : Desc} {s : State} {s1 : State} (h : execDescriptorFetchResponse fn q count desc s = .next s1) : Same 128 s s1 := by
  have hK : 128 &&& 128 = 128 := rfl
  have hZ := Same.refl 128 s
  unfold execDescriptorFetchResponse at h
  repeat' first
    | extract_lets at h
    | (injection h with h; subst h)
    | split at h
    | cases h
    | extract_lets
    | with_reducible assumption
    | exact sub_trans rfl hK
    | exact bit_of rfl hK
    | split
    | with_reducible apply updQueue_same
    | dsimp +zetaDelta only

theorem execRingFetchError_same {fn : Fin 513} {q : Fin 64} {s : State} {s1 : State} (h : execRingFetchError fn q s = .next s1) : Same 558345748696 s s1 := by
  have hK : 558345748696 &&& 558345748696 = 558345748696 := rfl
  have hZ := Same.refl 558345748696 s
  unfold execRingFetchError at h
  repeat' first
    | extract_lets at h
    | (injection h with h; subst h)
    | split at h
    | cases h
    | extract_lets
    | with_reducible assumption
    | exact sub_trans rfl hK
    | exact bit_of rfl hK
    | split
    | with_reducible apply stopQueue_same
    | dsimp +zetaDelta only

theorem execCommandAccept_same {fn : Fin 513} {q : Fin 64} {s : State} {s1 : State} (h : execCommandAccept fn q s = .next s1) : Same 834301636568 s s1 := by
  have hK : 834301636568 &&& 834301636568 = 834301636568 := rfl
  have hZ := Same.refl 834301636568 s
  unfold execCommandAccept at h
  repeat' first
    | extract_lets at h
    | (injection h with h; subst h)
    | split at h
    | cases h
    | extract_lets
    | with_reducible assumption
    | exact sub_trans rfl hK
    | exact bit_of rfl hK
    | split
    | with_reducible apply accept_same

theorem execMigrationCopyDone_same {ctx : Fin 16384} {va : BitVec 52} {s : State} {s1 : State} (h : execMigrationCopyDone ctx va s = .next s1) : Same 903931210716 s s1 := by
  have hK : 903931210716 &&& 903931210716 = 903931210716 := rfl
  have hZ := Same.refl 903931210716 s
  unfold execMigrationCopyDone at h
  repeat' first
    | extract_lets at h
    | (injection h with h; subst h)
    | split at h
    | cases h
    | extract_lets
    | with_reducible assumption
    | exact sub_trans rfl hK
    | exact bit_of rfl hK
    | split
    | with_reducible apply applyVal_same
    | with_reducible apply runShakes_same
    | with_reducible apply updCtx_same
    | with_reducible apply writeBytes_same
    | with_reducible apply Same.foldl
    | intro _
    | dsimp +zetaDelta only

theorem execAtsTranslationCompletion_same {fn : Fin 513} {io : W64} {len : Nat} {ta : BitVec 55} {r : Bool} {w : Bool} {s : State} {s1 : State} (h : execAtsTranslationCompletion fn io len ta r w s = .next s1) : Same 903931210716 s s1 := by
  have hK : 903931210716 &&& 903931210716 = 903931210716 := rfl
  have hZ := Same.refl 903931210716 s
  unfold execAtsTranslationCompletion at h
  repeat' first
    | extract_lets at h
    | (injection h with h; subst h)
    | split at h
    | cases h
    | extract_lets
    | with_reducible assumption
    | exact sub_trans rfl hK
    | exact bit_of rfl hK
    | split
    | with_reducible apply applyVal_same
    | with_reducible apply ringsGoOn_same
    | with_reducible apply runShakes_same
    | with_reducible apply Same.foldl
    | with_reducible apply Same.ats_upd
    | intro _
    | dsimp +zetaDelta only

theorem execReservationAdmit_same {fn : Fin 513} {q : Fin 64} {s : State} {s1 : State} (h : execReservationAdmit fn q s = .next s1) : Same 834301635544 s s1 := by
  have hK : 834301635544 &&& 834301635544 = 834301635544 := rfl
  have hZ := Same.refl 834301635544 s
  unfold execReservationAdmit at h
  repeat' first
    | extract_lets at h
    | (injection h with h; subst h)
    | split at h
    | cases h
    | extract_lets
    | with_reducible assumption
    | exact sub_trans rfl hK
    | exact bit_of rfl hK
    | split
    | with_reducible apply letIn_same

theorem execCommandDispatch_same {h : Fin 8} {s : State} {s1 : State} (h : execCommandDispatch h s = .next s1) : Same 868661373912 s s1 := by
  have hK : 868661373912 &&& 868661373912 = 868661373912 := rfl
  have hZ := Same.refl 868661373912 s
  unfold execCommandDispatch at h
  repeat' first
    | extract_lets at h
    | (injection h with h; subst h)
    | split at h
    | cases h
    | extract_lets
    | with_reducible assumption
    | exact sub_trans rfl hK
    | exact bit_of rfl hK
    | split
    | with_reducible apply schedule_same

theorem execEndOfCommandReport_same {cid : Nat} {gen : W16} {st : Byte} {s : State} {s1 : State} (h : execEndOfCommandReport cid gen st s = .next s1) : Same 903125797848 s s1 := by
  have hK : 903125797848 &&& 903125797848 = 903125797848 := rfl
  have hZ := Same.refl 903125797848 s
  unfold execEndOfCommandReport at h
  repeat' first
    | extract_lets at h
    | (injection h with h; subst h)
    | split at h
    | cases h
    | extract_lets
    | with_reducible assumption
    | exact sub_trans rfl hK
    | exact bit_of rfl hK
    | split
    | with_reducible apply report_same
    | with_reducible apply retime_same

theorem execCqWriteError_same {fn : Fin 513} {q : Fin 64} {s : State} {s1 : State} (h : execCqWriteError fn q s = .next s1) : Same 558345748696 s s1 := by
  have hK : 558345748696 &&& 558345748696 = 558345748696 := rfl
  have hZ := Same.refl 558345748696 s
  unfold execCqWriteError at h
  repeat' first
    | extract_lets at h
    | (injection h with h; subst h)
    | split at h
    | cases h
    | extract_lets
    | with_reducible assumption
    | exact sub_trans rfl hK
    | exact bit_of rfl hK
    | split
    | with_reducible apply forget_same
    | with_reducible apply stopQueue_same
    | with_reducible apply updQueue_same
    | dsimp +zetaDelta only

theorem execCompletionHeadWrite_same {fn : Fin 513} {q : Fin 64} {val : W32} {s : State} {s1 : State} (h : execCompletionHeadWrite fn q val s = .next s1) : Same 549755814016 s s1 := by
  have hK : 549755814016 &&& 549755814016 = 549755814016 := rfl
  have hZ := Same.refl 549755814016 s
  unfold execCompletionHeadWrite at h
  repeat' first
    | extract_lets at h
    | (injection h with h; subst h)
    | split at h
    | cases h
    | extract_lets
    | with_reducible assumption
    | exact sub_trans rfl hK
    | exact bit_of rfl hK
    | split
    | with_reducible apply writeCqHead_same

theorem execCompletionInterruptTimeout_same {fn : Fin 513} {q : Fin 64} {s : State} {s1 : State} (h : execCompletionInterruptTimeout fn q s = .next s1) : Same 549755814016 s s1 := by
  have hK : 549755814016 &&& 549755814016 = 549755814016 := rfl
  have hZ := Same.refl 549755814016 s
  unfold execCompletionInterruptTimeout at h
  repeat' first
    | extract_lets at h
    | (injection h with h; subst h)
    | split at h
    | cases h
    | extract_lets
    | with_reducible assumption
    | exact sub_trans rfl hK
    | exact bit_of rfl hK
    | split
    | with_reducible apply msix_same
    | with_reducible apply updQueue_same
    | dsimp +zetaDelta only

theorem execQAbort_same {fn : Fin 513} {q : Fin 64} {s : State} {s1 : State} (h : execQAbort fn q s = .next s1) : Same 903931104220 s s1 := by
  have hK : 903931104220 &&& 903931104220 = 903931104220 := rfl
  have hZ := Same.refl 903931104220 s
  unfold execQAbort at h
  repeat' first
    | extract_lets at h
    | (injection h with h; subst h)
    | split at h
    | cases h
    | extract_lets
    | with_reducible assumption
    | exact sub_trans rfl hK
    | exact bit_of rfl hK
    | split
    | with_reducible apply abortQueue_same

theorem execEventQueueEnable_same {fn : Fin 513} {err : Bool} {cfg : W64} {s : State} {s1 : State} (h : execEventQueueEnable fn err cfg s = .next s1) : Same 558345748608 s s1 := by
  have hK : 558345748608 &&& 558345748608 = 558345748608 := rfl
  have hZ := Same.refl 558345748608 s
  unfold execEventQueueEnable at h
  repeat' first
    | extract_lets at h
    | (injection h with h; subst h)
    | split at h
    | cases h
    | extract_lets
    | with_reducible assumption
    | exact sub_trans rfl hK
    | exact bit_of rfl hK
    | split
    | with_reducible apply enableEq_same

theorem execEventQueueDisable_same {fn : Fin 513} {err : Bool} {cfg : W64} {s : State} {s1 : State} (h : execEventQueueDisable fn err cfg s = .next s1) : Same 558345748608 s s1 := by
  have hK : 558345748608 &&& 558345748608 = 558345748608 := rfl
  have hZ := Same.refl 558345748608 s
  unfold execEventQueueDisable at h
  repeat' first
    | extract_lets at h
    | (injection h with h; subst h)
    | split at h
    | cases h
    | extract_lets
    | with_reducible assumption
    | exact sub_trans rfl hK
    | exact bit_of rfl hK
    | split
    | with_reducible apply disableEq_same

theorem execEventQueueHeadWrite_same {fn : Fin 513} {err : Bool} {val : W32} {s : State} {s1 : State} (h : execEventQueueHeadWrite fn err val s = .next s1) : Same 558345748608 s s1 := by
  have hK : 558345748608 &&& 558345748608 = 558345748608 := rfl
  have hZ := Same.refl 558345748608 s
  unfold execEventQueueHeadWrite at h
  repeat' first
    | extract_lets at h
    | (injection h with h; subst h)
    | split at h
    | cases h
    | extract_lets
    | with_reducible assumption
    | exact sub_trans rfl hK
    | exact bit_of rfl hK
    | split
    | with_reducible apply writeEqHead_same

theorem execRecordWriteError_same {fn : Fin 513} {err : Bool} {s : State} {s1 : State} (h : execRecordWriteError fn err s = .next s1) : Same 8589934784 s s1 := by
  have hK : 8589934784 &&& 8589934784 = 8589934784 := rfl
  have hZ := Same.refl 8589934784 s
  unfold execRecordWriteError at h
  repeat' first
    | extract_lets at h
    | (injection h with h; subst h)
    | split at h
    | cases h
    | extract_lets
    | with_reducible assumption
    | exact sub_trans rfl hK
    | exact bit_of rfl hK
    | split
    | with_reducible apply failRecord_same

theorem execStagedRecordWrite_same {d : Dest} {s : State} {s1 : State} (h : execStagedRecordWrite d s = .next s1) : Same 558345748696 s s1 := by
  have hK : 558345748696 &&& 558345748696 = 558345748696 := rfl
  have hZ := Same.refl 558345748696 s
  unfold execStagedRecordWrite at h
  repeat' first
    | extract_lets at h
    | (injection h with h; subst h)
    | split at h
    | cases h
    | extract_lets
    | with_reducible assumption
    | exact sub_trans rfl hK
    | exact bit_of rfl hK
    | split
    | with_reducible apply writeStaged_same

theorem execNop_same {cid : Nat} {s : State} {s1 : State} (h : execNop cid s = .next s1) : Same 558349945560 s s1 := by
  have hK : 558349945560 &&& 558349945560 = 558349945560 := rfl
  have hZ := Same.refl 558349945560 s
  unfold execNop at h
  repeat' first
    | extract_lets at h
    | (injection h with h; subst h)
    | split at h
    | cases h
    | extract_lets
    | with_reducible assumption
    | exact sub_trans rfl hK
    | exact bit_of rfl hK
    | split
    | with_reducible apply complete_same

theorem execFence_same {cid : Nat} {s : State} {s1 : State} (h : execFence cid s = .next s1) : Same 558349945560 s s1 := by
  have hK : 558349945560 &&& 558349945560 = 558349945560 := rfl
  have hZ := Same.refl 558349945560 s
  unfold execFence at h
  repeat' first
    | extract_lets at h
    | (injection h with h; subst h)
    | split at h
    | cases h
    | extract_lets
    | with_reducible assumption
    | exact sub_trans rfl hK
    | exact bit_of rfl hK
    | split
    | with_reducible apply complete_same

theorem execSignal_same {cid : Nat} {s : State} {s1 : State} (h : execSignal cid s = .next s1) : Same 833231653848 s s1 := by
  have hK : 833231653848 &&& 833231653848 = 833231653848 := rfl
  have hZ := Same.refl 833231653848 s
  unfold execSignal at h
  repeat' first
    | extract_lets at h
    | (injection h with h; subst h)
    | split at h
    | cases h
    | extract_lets
    | with_reducible assumption
    | exact sub_trans rfl hK
    | exact bit_of rfl hK
    | split
    | with_reducible apply arriveBarrier_same
    | with_reducible apply askOwn_same
    | with_reducible apply complete_same
    | with_reducible apply sendEvent_same
    | with_reducible apply signalCount_same
    | with_reducible apply takeOwn_same
    | with_reducible apply updCmd_same
    | dsimp +zetaDelta only

theorem execWait_same {cid : Nat} {s : State} {s1 : State} (h : execWait cid s = .next s1) : Same 833231653848 s s1 := by
  have hK : 833231653848 &&& 833231653848 = 833231653848 := rfl
  have hZ := Same.refl 833231653848 s
  unfold execWait at h
  repeat' first
    | extract_lets at h
    | (injection h with h; subst h)
    | split at h
    | cases h
    | extract_lets
    | with_reducible assumption
    | exact sub_trans rfl hK
    | exact bit_of rfl hK
    | split
    | with_reducible apply askOwn_same
    | with_reducible apply complete_same
    | with_reducible apply objWrite_same
    | with_reducible apply sendEvent_same
    | with_reducible apply takeOwn_same
    | with_reducible apply updCmd_same
    | with_reducible apply Same.waiters_upd
    | dsimp +zetaDelta only

theorem execCtxCreate_same {cid : Nat} {s : State} {s1 : State} (h : execCtxCreate cid s = .next s1) : Same 834305407960 s s1 := by
  have hK : 834305407960 &&& 834305407960 = 834305407960 := rfl
  have hZ := Same.refl 834305407960 s
  unfold execCtxCreate at h
  repeat' first
    | extract_lets at h
    | (injection h with h; subst h)
    | split at h
    | cases h
    | extract_lets
    | with_reducible assumption
    | exact sub_trans rfl hK
    | exact bit_of rfl hK
    | split
    | with_reducible apply createCtx_same

theorem execCtxDestroy_same {cid : Nat} {s : State} {s1 : State} (h : execCtxDestroy cid s = .next s1) : Same 903931149276 s s1 := by
  have hK : 903931149276 &&& 903931149276 = 903931149276 := rfl
  have hZ := Same.refl 903931149276 s
  unfold execCtxDestroy at h
  repeat' first
    | extract_lets at h
    | (injection h with h; subst h)
    | split at h
    | cases h
    | extract_lets
    | with_reducible assumption
    | exact sub_trans rfl hK
    | exact bit_of rfl hK
    | split
    | with_reducible apply complete_same
    | with_reducible apply destroyCtx_same
    | with_reducible apply withCtx_same
    | intro _

theorem execMap_same {cid : Nat} {s : State} {s1 : State} (h : execMap cid s = .next s1) : Same 559423744728 s s1 := by
  have hK : 559423744728 &&& 559423744728 = 559423744728 := rfl
  have hZ := Same.refl 559423744728 s
  unfold execMap at h
  repeat' first
    | extract_lets at h
    | (injection h with h; subst h)
    | split at h
    | cases h
    | extract_lets
    | with_reducible assumption
    | exact sub_trans rfl hK
    | exact bit_of rfl hK
    | split
    | with_reducible apply mapCmd_same
    | with_reducible apply withCtx_same
    | intro _

theorem execUnmap_same {cid : Nat} {s : State} {s1 : State} (h : execUnmap cid s = .next s1) : Same 903931210716 s s1 := by
  have hK : 903931210716 &&& 903931210716 = 903931210716 := rfl
  have hZ := Same.refl 903931210716 s
  unfold execUnmap at h
  repeat' first
    | extract_lets at h
    | (injection h with h; subst h)
    | split at h
    | cases h
    | extract_lets
    | with_reducible assumption
    | exact sub_trans rfl hK
    | exact bit_of rfl hK
    | split
    | with_reducible apply addShake_same
    | with_reducible apply awaitShake_same
    | with_reducible apply complete_same
    | with_reducible apply withCtx_same
    | intro _

theorem execInvalidate_same {cid : Nat} {s : State} {s1 : State} (h : execInvalidate cid s = .next s1) : Same 903931210716 s s1 := by
  have hK : 903931210716 &&& 903931210716 = 903931210716 := rfl
  have hZ := Same.refl 903931210716 s
  unfold execInvalidate at h
  repeat' first
    | extract_lets at h
    | (injection h with h; subst h)
    | split at h
    | cases h
    | extract_lets
    | with_reducible assumption
    | exact sub_trans rfl hK
    | exact bit_of rfl hK
    | split
    | with_reducible apply addShake_same
    | with_reducible apply awaitShake_same
    | with_reducible apply complete_same
    | with_reducible apply withCtx_same
    | intro _

theorem execAtsInvalidateRequest_same {fn : Fin 513} {io : W64} {len : Nat} {s : State} {s1 : State} (h : execAtsInvalidateRequest fn io len s = .next s1) : Same 903931210716 s s1 := by
  have hK : 903931210716 &&& 903931210716 = 903931210716 := rfl
  have hZ := Same.refl 903931210716 s
  unfold execAtsInvalidateRequest at h
  repeat' first
    | extract_lets at h
    | (injection h with h; subst h)
    | split at h
    | cases h
    | extract_lets
    | with_reducible assumption
    | exact sub_trans rfl hK
    | exact bit_of rfl hK
    | split
    | with_reducible apply dropAts_same
    | with_reducible apply emit_same
    | with_reducible apply runShakes_same
    | with_reducible apply updCtx_same
    | with_reducible apply Same.foldl
    | intro _
    | dsimp +zetaDelta only

theorem execInvalidationAck_same {ctx : Fin 16384} {s : State} {s1 : State} (h : execInvalidationAck ctx s = .next s1) : Same 903931210716 s s1 := by
  have hK : 903931210716 &&& 903931210716 = 903931210716 := rfl
  have hZ := Same.refl 903931210716 s
  unfold execInvalidationAck at h
  repeat' first
    | extract_lets at h
    | (injection h with h; subst h)
    | split at h
    | cases h
    | extract_lets
    | with_reducible assumption
    | exact sub_trans rfl hK
    | exact bit_of rfl hK
    | split
    | with_reducible apply runShakes_same

theorem execQuery_same {cid : Nat} {s : State} {s1 : State} (h : execQuery cid s = .next s1) : Same 833231653848 s s1 := by
  have hK : 833231653848 &&& 833231653848 = 833231653848 := rfl
  have hZ := Same.refl 833231653848 s
  unfold execQuery at h
  repeat' first
    | extract_lets at h
    | (injection h with h; subst h)
    | split at h
    | cases h
    | extract_lets
    | with_reducible assumption
    | exact sub_trans rfl hK
    | exact bit_of rfl hK
    | split
    | with_reducible apply endWrites_same
    | with_reducible apply withCtx_same
    | with_reducible apply writeResult_same
    | intro _

theorem execCopy_same {cid : Nat} {s : State} {s1 : State} (h : execCopy cid s = .next s1) : Same 272630400 s s1 := by
  have hK : 272630400 &&& 272630400 = 272630400 := rfl
  have hZ := Same.refl 272630400 s
  unfold execCopy at h
  repeat' first
    | extract_lets at h
    | (injection h with h; subst h)
    | split at h
    | cases h
    | extract_lets
    | with_reducible assumption
    | exact sub_trans rfl hK
    | exact bit_of rfl hK
    | split
    | with_reducible apply startMove_same

theorem execFill_same {cid : Nat} {s : State} {s1 : State} (h : execFill cid s = .next s1) : Same 272630400 s s1 := by
  have hK : 272630400 &&& 272630400 = 272630400 := rfl
  have hZ := Same.refl 272630400 s
  unfold execFill at h
  repeat' first
    | extract_lets at h
    | (injection h with h; subst h)
    | split at h
    | cases h
    | extract_lets
    | with_reducible assumption
    | exact sub_trans rfl hK
    | exact bit_of rfl hK
    | split
    | with_reducible apply startMove_same

theorem execKernel_same {cid : Nat} {s : State} {s1 : State} (h : execKernel cid s = .next s1) : Same 512 s s1 := by
  have hK : 512 &&& 512 = 512 := rfl
  have hZ := Same.refl 512 s
  unfold execKernel at h
  repeat' first
    | extract_lets at h
    | (injection h with h; subst h)
    | split at h
    | cases h
    | extract_lets
    | with_reducible assumption
    | exact sub_trans rfl hK
    | exact bit_of rfl hK
    | split
    | with_reducible apply retime_same
    | with_reducible apply updCmd_same

theorem execAcre_same {cid : Nat} {s : State} {s1 : State} (h : execAcre cid s = .next s1) : Same 4194304 s s1 := by
  have hK : 4194304 &&& 4194304 = 4194304 := rfl
  have hZ := Same.refl 4194304 s
  unfold execAcre at h
  repeat' first
    | extract_lets at h
    | (injection h with h; subst h)
    | split at h
    | cases h
    | extract_lets
    | with_reducible assumption
    | exact sub_trans rfl hK
    | exact bit_of rfl hK
    | split
    | with_reducible apply updHide_same
    | dsimp +zetaDelta only

theorem execForeign_same {cid : Nat} {s : State} {s1 : State} (h : execForeign cid s = .next s1) : Same 627069422296 s s1 := by
  have hK : 627069422296 &&& 627069422296 = 627069422296 := rfl
  have hZ := Same.refl 627069422296 s
  unfold execForeign at h
  repeat' first
    | extract_lets at h
    | (injection h with h; subst h)
    | split at h
    | cases h
    | extract_lets
    | with_reducible assumption
    | exact sub_trans rfl hK
    | exact bit_of rfl hK
    | split
    | with_reducible apply complete_same
    | with_reducible apply emit_same
    | with_reducible apply updCmd_same
    | with_reducible apply updEngine_same
    | with_reducible apply updHide_same
    | dsimp +zetaDelta only

theorem execPlanLoad_same {cid : Nat} {s : State} {s1 : State} (h : execPlanLoad cid s = .next s1) : Same 834335189976 s s1 := by
  have hK : 834335189976 &&& 834335189976 = 834335189976 := rfl
  have hZ := Same.refl 834335189976 s
  unfold execPlanLoad at h
  repeat' first
    | extract_lets at h
    | (injection h with h; subst h)
    | split at h
    | cases h
    | extract_lets
    | with_reducible assumption
    | exact sub_trans rfl hK
    | exact bit_of rfl hK
    | split
    | with_reducible apply loadPlan_same

theorem execSeqOpen_same {cid : Nat} {s : State} {s1 : State} (h : execSeqOpen cid s = .next s1) : Same 868866460632 s s1 := by
  have hK : 868866460632 &&& 868866460632 = 868866460632 := rfl
  have hZ := Same.refl 868866460632 s
  unfold execSeqOpen at h
  repeat' first
    | extract_lets at h
    | (injection h with h; subst h)
    | split at h
    | cases h
    | extract_lets
    | with_reducible assumption
    | exact sub_trans rfl hK
    | exact bit_of rfl hK
    | split
    | with_reducible apply openSeq_same

theorem execSeqStep_same {cid : Nat} {s : State} {s1 : State} (h : execSeqStep cid s = .next s1) : Same 558383499992 s s1 := by
  have hK : 558383499992 &&& 558383499992 = 558383499992 := rfl
  have hZ := Same.refl 558383499992 s
  unfold execSeqStep at h
  repeat' first
    | extract_lets at h
    | (injection h with h; subst h)
    | split at h
    | cases h
    | extract_lets
    | with_reducible assumption
    | exact sub_trans rfl hK
    | exact bit_of rfl hK
    | split
    | with_reducible apply startStep_same

theorem execSeqClose_same {cid : Nat} {s : State} {s1 : State} (h : execSeqClose cid s = .next s1) : Same 834406058968 s s1 := by
  have hK : 834406058968 &&& 834406058968 = 834406058968 := rfl
  have hZ := Same.refl 834406058968 s
  unfold execSeqClose at h
  repeat' first
    | extract_lets at h
    | (injection h with h; subst h)
    | split at h
    | cases h
    | extract_lets
    | with_reducible assumption
    | exact sub_trans rfl hK
    | exact bit_of rfl hK
    | split
    | with_reducible apply closeCmd_same

theorem execSeqAdmit_same {s : State} {s1 : State} (h : execSeqAdmit s = .next s1) : Same 868732242904 s s1 := by
  have hK : 868732242904 &&& 868732242904 = 868732242904 := rfl
  have hZ := Same.refl 868732242904 s
  unfold execSeqAdmit at h
  repeat' first
    | extract_lets at h
    | (injection h with h; subst h)
    | split at h
    | cases h
    | extract_lets
    | with_reducible assumption
    | exact sub_trans rfl hK
    | exact bit_of rfl hK
    | split
    | with_reducible apply admitPend_same

theorem execStepBuild_same {plan : Fin 256} {s : State} {s1 : State} (h : execStepBuild plan s = .next s1) : Same 834406067160 s s1 := by
  have hK : 834406067160 &&& 834406067160 = 834406067160 := rfl
  have hZ := Same.refl 834406067160 s
  unfold execStepBuild at h
  repeat' first
    | extract_lets at h
    | (injection h with h; subst h)
    | split at h
    | cases h
    | extract_lets
    | with_reducible assumption
    | exact sub_trans rfl hK
    | exact bit_of rfl hK
    | split
    | with_reducible apply stepBuild_same

theorem execStageIssue_same {plan : Fin 256} {s : State} {s1 : State} (h : execStageIssue plan s = .next s1) : Same 34397488768 s s1 := by
  have hK : 34397488768 &&& 34397488768 = 34397488768 := rfl
  have hZ := Same.refl 34397488768 s
  unfold execStageIssue at h
  repeat' first
    | extract_lets at h
    | (injection h with h; subst h)
    | split at h
    | cases h
    | extract_lets
    | with_reducible assumption
    | exact sub_trans rfl hK
    | exact bit_of rfl hK
    | split
    | with_reducible apply issueStage_same

theorem execServingReserveStaging_same {plan : Fin 256} {s : State} {s1 : State} (h : execServingReserveStaging plan s = .next s1) : Same 33554432 s s1 := by
  have hK : 33554432 &&& 33554432 = 33554432 := rfl
  have hZ := Same.refl 33554432 s
  unfold execServingReserveStaging at h
  repeat' first
    | extract_lets at h
    | (injection h with h; subst h)
    | split at h
    | cases h
    | extract_lets
    | with_reducible assumption
    | exact sub_trans rfl hK
    | exact bit_of rfl hK
    | split
    | with_reducible apply stageAhead_same

theorem execStepCommit_same {plan : Fin 256} {s : State} {s1 : State} (h : execStepCommit plan s = .next s1) : Same 834406058968 s s1 := by
  have hK : 834406058968 &&& 834406058968 = 834406058968 := rfl
  have hZ := Same.refl 834406058968 s
  unfold execStepCommit at h
  repeat' first
    | extract_lets at h
    | (injection h with h; subst h)
    | split at h
    | cases h
    | extract_lets
    | with_reducible assumption
    | exact sub_trans rfl hK
    | exact bit_of rfl hK
    | split
    | with_reducible apply commitStep_same

theorem execAcreOperationStart_same {h : Fin 8} {s : State} {s1 : State} (h : execAcreOperationStart h s = .next s1) : Same 34632368728 s s1 := by
  have hK : 34632368728 &&& 34632368728 = 34632368728 := rfl
  have hZ := Same.refl 34632368728 s
  unfold execAcreOperationStart at h
  repeat' first
    | extract_lets at h
    | (injection h with h; subst h)
    | split at h
    | cases h
    | extract_lets
    | with_reducible assumption
    | exact sub_trans rfl hK
    | exact bit_of rfl hK
    | split
    | with_reducible apply startAcre_same
    | with_reducible apply wakeFurlong_same
    | with_reducible apply Same.foldl
    | intro _

theorem execAcreStepAbandon_same {h : Fin 8} {s : State} {s1 : State} (h : execAcreStepAbandon h s = .next s1) : Same 272630272 s s1 := by
  have hK : 272630272 &&& 272630272 = 272630272 := rfl
  have hZ := Same.refl 272630272 s
  unfold execAcreStepAbandon at h
  repeat' first
    | extract_lets at h
    | (injection h with h; subst h)
    | split at h
    | cases h
    | extract_lets
    | with_reducible assumption
    | exact sub_trans rfl hK
    | exact bit_of rfl hK
    | split
    | with_reducible apply acreFed_same
    | with_reducible apply retime_same
    | with_reducible apply updAcre_same
    | dsimp +zetaDelta only

theorem execAcreResume_same {h : Fin 8} {s : State} {s1 : State} (h : execAcreResume h s = .next s1) : Same 4194816 s s1 := by
  have hK : 4194816 &&& 4194816 = 4194816 := rfl
  have hZ := Same.refl 4194816 s
  unfold execAcreResume at h
  repeat' first
    | extract_lets at h
    | (injection h with h; subst h)
    | split at h
    | cases h
    | extract_lets
    | with_reducible assumption
    | exact sub_trans rfl hK
    | exact bit_of rfl hK
    | split
    | with_reducible apply retime_same
    | with_reducible apply updAcre_same
    | dsimp +zetaDelta only

theorem execAcreBBlockLoaded_same {h : Fin 8} {s : State} {s1 : State} (h : execAcreBBlockLoaded h s = .next s1) : Same 833500089304 s s1 := by
  have hK : 833500089304 &&& 833500089304 = 833500089304 := rfl
  have hZ := Same.refl 833500089304 s
  unfold execAcreBBlockLoaded at h
  repeat' first
    | extract_lets at h
    | (injection h with h; subst h)
    | split at h
    | cases h
    | extract_lets
    | with_reducible assumption
    | exact sub_trans rfl hK
    | exact bit_of rfl hK
    | split
    | with_reducible apply acreFed_same
    | with_reducible apply loadIdle_same
    | with_reducible apply onStep_same
    | with_reducible apply putAcre_same
    | with_reducible apply updAcre_same
    | intro _

theorem execAcreSliceEnd_same {h : Fin 8} {bad : List (Fin 16 × Fin 16)} {s : State} {s1 : State} (h : execAcreSliceEnd h bad s = .next s1) : Same 903931104220 s s1 := by
  have hK : 903931104220 &&& 903931104220 = 903931104220 := rfl
  have hZ := Same.refl 903931104220 s
  unfold execAcreSliceEnd at h
  repeat' first
    | extract_lets at h
    | (injection h with h; subst h)
    | split at h
    | cases h
    | extract_lets
    | with_reducible assumption
    | exact sub_trans rfl hK
    | exact bit_of rfl hK
    | split
    | with_reducible apply endSlice_same
    | with_reducible apply onStep_same
    | intro _

theorem execAcreReadoutStep_same {h : Fin 8} {s : State} {s1 : State} (h : execAcreReadoutStep h s = .next s1) : Same 833500089304 s s1 := by
  have hK : 833500089304 &&& 833500089304 = 833500089304 := rfl
  have hZ := Same.refl 833500089304 s
  unfold execAcreReadoutStep at h
  repeat' first
    | extract_lets at h
    | (injection h with h; subst h)
    | split at h
    | cases h
    | extract_lets
    | with_reducible assumption
    | exact sub_trans rfl hK
    | exact bit_of rfl hK
    | split
    | with_reducible apply onStep_same
    | with_reducible apply stepAcre_same
    | intro _

theorem execAcreStoreStep_same {h : Fin 8} {s : State} {s1 : State} (h : execAcreStoreStep h s = .next s1) : Same 903931104220 s s1 := by
  have hK : 903931104220 &&& 903931104220 = 903931104220 := rfl
  have hZ := Same.refl 903931104220 s
  unfold execAcreStoreStep at h
  repeat' first
    | extract_lets at h
    | (injection h with h; subst h)
    | split at h
    | cases h
    | extract_lets
    | with_reducible assumption
    | exact sub_trans rfl hK
    | exact bit_of rfl hK
    | split
    | with_reducible apply onStep_same
    | with_reducible apply storeStep_same
    | intro _

theorem execAcreOperationEnd_same {h : Fin 8} {s : State} {s1 : State} (h : execAcreOperationEnd h s = .next s1) : Same 833500089304 s s1 := by
  have hK : 833500089304 &&& 833500089304 = 833500089304 := rfl
  have hZ := Same.refl 833500089304 s
  unfold execAcreOperationEnd at h
  repeat' first
    | extract_lets at h
    | (injection h with h; subst h)
    | split at h
    | cases h
    | extract_lets
    | with_reducible assumption
    | exact sub_trans rfl hK
    | exact bit_of rfl hK
    | split
    | with_reducible apply endAcre_same
    | with_reducible apply onStep_same
    | intro _

theorem execCoreErr_same {core : Fin 276} {s : State} {s1 : State} (h : execCoreErr core s = .next s1) : Same 940438326236 s s1 := by
  have hK : 940438326236 &&& 940438326236 = 940438326236 := rfl
  have hZ := Same.refl 940438326236 s
  unfold execCoreErr at h
  repeat' first
    | extract_lets at h
    | (injection h with h; subst h)
    | split at h
    | cases h
    | extract_lets
    | with_reducible assumption
    | exact sub_trans rfl hK
    | exact bit_of rfl hK
    | split
    | with_reducible apply failOnCore_same
    | with_reducible apply latchIn_same
    | with_reducible apply restartFirmware_same
    | with_reducible apply startReset_same
    | with_reducible apply updCore_same
    | dsimp +zetaDelta only

theorem execGroupPlacement_same {cid : Nat} {core : Fin 272} {s : State} {s1 : State} (h : execGroupPlacement cid core s = .next s1) : Same 309242757848 s s1 := by
  have hK : 309242757848 &&& 309242757848 = 309242757848 := rfl
  have hZ := Same.refl 309242757848 s
  unfold execGroupPlacement at h
  repeat' first
    | extract_lets at h
    | (injection h with h; subst h)
    | split at h
    | cases h
    | extract_lets
    | with_reducible assumption
    | exact sub_trans rfl hK
    | exact bit_of rfl hK
    | split
    | with_reducible apply tryPlace_same

theorem execGroupSaveComplete_same {cid : Nat} {g : Nat} {s : State} {s1 : State} (h : execGroupSaveComplete cid g s = .next s1) : Same 903931104220 s s1 := by
  have hK : 903931104220 &&& 903931104220 = 903931104220 := rfl
  have hZ := Same.refl 903931104220 s
  unfold execGroupSaveComplete at h
  repeat' first
    | extract_lets at h
    | (injection h with h; subst h)
    | split at h
    | cases h
    | extract_lets
    | with_reducible assumption
    | exact sub_trans rfl hK
    | exact bit_of rfl hK
    | split
    | with_reducible apply finishSave_same

theorem execGroupResume_same {cid : Nat} {g : Nat} {core : Fin 272} {s : State} {s1 : State} (h : execGroupResume cid g core s = .next s1) : Same 867591654360 s s1 := by
  have hK : 867591654360 &&& 867591654360 = 867591654360 := rfl
  have hZ := Same.refl 867591654360 s
  unfold execGroupResume at h
  repeat' first
    | extract_lets at h
    | (injection h with h; subst h)
    | split at h
    | cases h
    | extract_lets
    | with_reducible assumption
    | exact sub_trans rfl hK
    | exact bit_of rfl hK
    | split
    | with_reducible apply tryResume_same

theorem execIaddIsub_same {r : ChainRef} {sub : Bool} {i : V3} {s : State} {s1 : State} (h : execIaddIsub r sub i s = .next s1) : Same 903931104220 s s1 := by
  have hK : 903931104220 &&& 903931104220 = 903931104220 := rfl
  have hZ := Same.refl 903931104220 s
  unfold execIaddIsub at h
  repeat' first
    | extract_lets at h
    | (injection h with h; subst h)
    | split at h
    | cases h
    | extract_lets
    | with_reducible assumption
    | exact sub_trans rfl hK
    | exact bit_of rfl hK
    | split
    | with_reducible apply v3_same

theorem execImulImulh_same {r : ChainRef} {high : Bool} {i : V3} {s : State} {s1 : State} (h : execImulImulh r high i s = .next s1) : Same 903931104220 s s1 := by
  have hK : 903931104220 &&& 903931104220 = 903931104220 := rfl
  have hZ := Same.refl 903931104220 s
  unfold execImulImulh at h
  repeat' first
    | extract_lets at h
    | (injection h with h; subst h)
    | split at h
    | cases h
    | extract_lets
    | with_reducible assumption
    | exact sub_trans rfl hK
    | exact bit_of rfl hK
    | split
    | with_reducible apply v3_same

theorem execImad_same {r : ChainRef} {i : V3} {s : State} {s1 : State} (h : execImad r i s = .next s1) : Same 903931104220 s s1 := by
  have hK : 903931104220 &&& 903931104220 = 903931104220 := rfl
  have hZ := Same.refl 903931104220 s
  unfold execImad at h
  repeat' first
    | extract_lets at h
    | (injection h with h; subst h)
    | split at h
    | cases h
    | extract_lets
    | with_reducible assumption
    | exact sub_trans rfl hK
    | exact bit_of rfl hK
    | split
    | with_reducible apply v3_same

theorem execIminImax_same {r : ChainRef} {max : Bool} {i : V3} {s : State} {s1 : State} (h : execIminImax r max i s = .next s1) : Same 903931104220 s s1 := by
  have hK : 903931104220 &&& 903931104220 = 903931104220 := rfl
  have hZ := Same.refl 903931104220 s
  unfold execIminImax at h
  repeat' first
    | extract_lets at h
    | (injection h with h; subst h)
    | split at h
    | cases h
    | extract_lets
    | with_reducible assumption
    | exact sub_trans rfl hK
    | exact bit_of rfl hK
    | split
    | with_reducible apply v3_same

theorem execMov_same {r : ChainRef} {i : V3} {s : State} {s1 : State} (h : execMov r i s = .next s1) : Same 903931104220 s s1 := by
  have hK : 903931104220 &&& 903931104220 = 903931104220 := rfl
  have hZ := Same.refl 903931104220 s
  unfold execMov at h
  repeat' first
    | extract_lets at h
    | (injection h with h; subst h)
    | split at h
    | cases h
    | extract_lets
    | with_reducible assumption
    | exact sub_trans rfl hK
    | exact bit_of rfl hK
    | split
    | with_reducible apply vlane_same

theorem execAndOrXorAndn_same {r : ChainRef} {op : BitOp} {i : V3} {s : State} {s1 : State} (h : execAndOrXorAndn r op i s = .next s1) : Same 903931104220 s s1 := by
  have hK : 903931104220 &&& 903931104220 = 903931104220 := rfl
  have hZ := Same.refl 903931104220 s
  unfold execAndOrXorAndn at h
  repeat' first
    | extract_lets at h
    | (injection h with h; subst h)
    | split at h
    | cases h
    | extract_lets
    | with_reducible assumption
    | exact sub_trans rfl hK
    | exact bit_of rfl hK
    | split
    | with_reducible apply v3_same

theorem execShlShrSar_same {r : ChainRef} {op : ShOp} {i : V3} {s : State} {s1 : State} (h : execShlShrSar r op i s = .next s1) : Same 903931104220 s s1 := by
  have hK : 903931104220 &&& 903931104220 = 903931104220 := rfl
  have hZ := Same.refl 903931104220 s
  unfold execShlShrSar at h
  repeat' first
    | extract_lets at h
    | (injection h with h; subst h)
    | split at h
    | cases h
    | extract_lets
    | with_reducible assumption
    | exact sub_trans rfl hK
    | exact bit_of rfl hK
    | split
    | with_reducible apply v3_same

theorem execPopcClzBrev_same {r : ChainRef} {op : CntOp} {i : V3} {s : State} {s1 : State} (h : execPopcClzBrev r op i s = .next s1) : Same 903931104220 s s1 := by
  have hK : 903931104220 &&& 903931104220 = 903931104220 := rfl
  have hZ := Same.refl 903931104220 s
  unfold execPopcClzBrev at h
  repeat' first
    | extract_lets at h
    | (injection h with h; subst h)
    | split at h
    | cases h
    | extract_lets
    | with_reducible assumption
    | exact sub_trans rfl hK
    | exact bit_of rfl hK
    | split
    | with_reducible apply vlane_same

theorem execBfeBfi_same {r : ChainRef} {insert : Bool} {i : V3} {s : State} {s1 : State} (h : execBfeBfi r insert i s = .next s1) : Same 903931104220 s s1 := by
  have hK : 903931104220 &&& 903931104220 = 903931104220 := rfl
  have hZ := Same.refl 903931104220 s
  unfold execBfeBfi at h
  repeat' first
    | extract_lets at h
    | (injection h with h; subst h)
    | split at h
    | cases h
    | extract_lets
    | with_reducible assumption
    | exact sub_trans rfl hK
    | exact bit_of rfl hK
    | split
    | with_reducible apply v3_same

theorem execFaddFmulFfma_same {r : ChainRef} {op : FOp} {i : V3} {s : State} {s1 : State} (h : execFaddFmulFfma r op i s = .next s1) : Same 903931104220 s s1 := by
  have hK : 903931104220 &&& 903931104220 = 903931104220 := rfl
  have hZ := Same.refl 903931104220 s
  unfold execFaddFmulFfma at h
  repeat' first
    | extract_lets at h
    | (injection h with h; subst h)
    | split at h
    | cases h
    | extract_lets
    | with_reducible assumption
    | exact sub_trans rfl hK
    | exact bit_of rfl hK
    | split
    | with_reducible apply v3_same

theorem execFminFmax_same {r : ChainRef} {max : Bool} {i : V3} {s : State} {s1 : State} (h : execFminFmax r max i s = .next s1) : Same 903931104220 s s1 := by
  have hK : 903931104220 &&& 903931104220 = 903931104220 := rfl
  have hZ := Same.refl 903931104220 s
  unfold execFminFmax at h
  repeat' first
    | extract_lets at h
    | (injection h with h; subst h)
    | split at h
    | cases h
    | extract_lets
    | with_reducible assumption
    | exact sub_trans rfl hK
    | exact bit_of rfl hK
    | split
    | with_reducible apply v3_same

theorem execSpecialFunction_same {r : ChainRef} {op : SpecFn} {i : V3} {s : State} {s1 : State} (h : execSpecialFunction r op i s = .next s1) : Same 903931104220 s s1 := by
  have hK : 903931104220 &&& 903931104220 = 903931104220 := rfl
  have hZ := Same.refl 903931104220 s
  unfold execSpecialFunction at h
  repeat' first
    | extract_lets at h
    | (injection h with h; subst h)
    | split at h
    | cases h
    | extract_lets
    | with_reducible assumption
    | exact sub_trans rfl hK
    | exact bit_of rfl hK
    | split
    | with_reducible apply vlane_same

theorem execCmp_same {r : ChainRef} {i : V3} {s : State} {s1 : State} (h : execCmp r i s = .next s1) : Same 903931104220 s s1 := by
  have hK : 903931104220 &&& 903931104220 = 903931104220 := rfl
  have hZ := Same.refl 903931104220 s
  unfold execCmp at h
  repeat' first
    | extract_lets at h
    | (injection h with h; subst h)
    | split at h
    | cases h
    | extract_lets
    | with_reducible assumption
    | exact sub_trans rfl hK
    | exact bit_of rfl hK
    | split
    | with_reducible apply vector_same
    | dsimp +zetaDelta only

theorem execSel_same {r : ChainRef} {i : V3} {s : State} {s1 : State} (h : execSel r i s = .next s1) : Same 903931104220 s s1 := by
  have hK : 903931104220 &&& 903931104220 = 903931104220 := rfl
  have hZ := Same.refl 903931104220 s
  unfold execSel at h
  repeat' first
    | extract_lets at h
    | (injection h with h; subst h)
    | split at h
    | cases h
    | extract_lets
    | with_reducible assumption
    | exact sub_trans rfl hK
    | exact bit_of rfl hK
    | split
    | with_reducible apply vlane_same

theorem execCvt_same {r : ChainRef} {i : V3} {s : State} {s1 : State} (h : execCvt r i s = .next s1) : Same 903931104220 s s1 := by
  have hK : 903931104220 &&& 903931104220 = 903931104220 := rfl
  have hZ := Same.refl 903931104220 s
  unfold execCvt at h
  repeat' first
    | extract_lets at h
    | (injection h with h; subst h)
    | split at h
    | cases h
    | extract_lets
    | with_reducible assumption
    | exact sub_trans rfl hK
    | exact bit_of rfl hK
    | split
    | with_reducible apply vlane_same

theorem execOscl_same {r : ChainRef} {i : V3} {s : State} {s1 : State} (h : execOscl r i s = .next s1) : Same 903931104220 s s1 := by
  have hK : 903931104220 &&& 903931104220 = 903931104220 := rfl
  have hZ := Same.refl 903931104220 s
  unfold execOscl at h
  repeat' first
    | extract_lets at h
    | (injection h with h; subst h)
    | split at h
    | cases h
    | extract_lets
    | with_reducible assumption
    | exact sub_trans rfl hK
    | exact bit_of rfl hK
    | split
    | with_reducible apply vlane_same

theorem execQnt_same {r : ChainRef} {fmt : Fin 12} {i : V3} {s : State} {s1 : State} (h : execQnt r fmt i s = .next s1) : Same 903931104220 s s1 := by
  have hK : 903931104220 &&& 903931104220 = 903931104220 := rfl
  have hZ := Same.refl 903931104220 s
  unfold execQnt at h
  repeat' first
    | extract_lets at h
    | (injection h with h; subst h)
    | split at h
    | cases h
    | extract_lets
    | with_reducible assumption
    | exact sub_trans rfl hK
    | exact bit_of rfl hK
    | split
    | with_reducible apply vlane_same

theorem execDq_same {r : ChainRef} {fmt : Fin 12} {i : V3} {s : State} {s1 : State} (h : execDq r fmt i s = .next s1) : Same 903931104220 s s1 := by
  have hK : 903931104220 &&& 903931104220 = 903931104220 := rfl
  have hZ := Same.refl 903931104220 s
  unfold execDq at h
  repeat' first
    | extract_lets at h
    | (injection h with h; subst h)
    | split at h
    | cases h
    | extract_lets
    | with_reducible assumption
    | exact sub_trans rfl hK
    | exact bit_of rfl hK
    | split
    | with_reducible apply vlane_same

theorem execShfl_same {r : ChainRef} {i : V3} {s : State} {s1 : State} (h : execShfl r i s = .next s1) : Same 903931104220 s s1 := by
  have hK : 903931104220 &&& 903931104220 = 903931104220 := rfl
  have hZ := Same.refl 903931104220 s
  unfold execShfl at h
  repeat' first
    | extract_lets at h
    | (injection h with h; subst h)
    | split at h
    | cases h
    | extract_lets
    | with_reducible assumption
    | exact sub_trans rfl hK
    | exact bit_of rfl hK
    | split
    | with_reducible apply vlane_same

theorem execVote_same {r : ChainRef} {i : V3} {s : State} {s1 : State} (h : execVote r i s = .next s1) : Same 903931104220 s s1 := by
  have hK : 903931104220 &&& 903931104220 = 903931104220 := rfl
  have hZ := Same.refl 903931104220 s
  unfold execVote at h
  repeat' first
    | extract_lets at h
    | (injection h with h; subst h)
    | split at h
    | cases h
    | extract_lets
    | with_reducible assumption
    | exact sub_trans rfl hK
    | exact bit_of rfl hK
    | split
    | with_reducible apply vector_same

theorem execRedu_same {r : ChainRef} {i : V3} {s : State} {s1 : State} (h : execRedu r i s = .next s1) : Same 903931104220 s s1 := by
  have hK : 903931104220 &&& 903931104220 = 903931104220 := rfl
  have hZ := Same.refl 903931104220 s
  unfold execRedu at h
  repeat' first
    | extract_lets at h
    | (injection h with h; subst h)
    | split at h
    | cases h
    | extract_lets
    | with_reducible assumption
    | exact sub_trans rfl hK
    | exact bit_of rfl hK
    | split
    | with_reducible apply vector_same

theorem execRdln_same {r : ChainRef} {i : V3} {s : State} {s1 : State} (h : execRdln r i s = .next s1) : Same 903931104220 s s1 := by
  have hK : 903931104220 &&& 903931104220 = 903931104220 := rfl
  have hZ := Same.refl 903931104220 s
  unfold execRdln at h
  repeat' first
    | extract_lets at h
    | (injection h with h; subst h)
    | split at h
    | cases h
    | extract_lets
    | with_reducible assumption
    | exact sub_trans rfl hK
    | exact bit_of rfl hK
    | split
    | with_reducible apply vector_same

theorem execViImmediate_same {r : ChainRef} {op : ViOp} {i : VI} {s : State} {s1 : State} (h : execViImmediate r op i s = .next s1) : Same 903931104220 s s1 := by
  have hK : 903931104220 &&& 903931104220 = 903931104220 := rfl
  have hZ := Same.refl 903931104220 s
  unfold execViImmediate at h
  repeat' first
    | extract_lets at h
    | (injection h with h; subst h)
    | split at h
    | cases h
    | extract_lets
    | with_reducible assumption
    | exact sub_trans rfl hK
    | exact bit_of rfl hK
    | split
    | with_reducible apply vector_same

theorem execLdg_same {r : ChainRef} {i : MemI} {s : State} {s1 : State} (h : execLdg r i s = .next s1) : Same 903931104220 s s1 := by
  have hK : 903931104220 &&& 903931104220 = 903931104220 := rfl
  have hZ := Same.refl 903931104220 s
  unfold execLdg at h
  repeat' first
    | extract_lets at h
    | (injection h with h; subst h)
    | split at h
    | cases h
    | extract_lets
    | with_reducible assumption
    | exact sub_trans rfl hK
    | exact bit_of rfl hK
    | split
    | with_reducible apply memory_same
    | with_reducible apply startLoad_same
    | with_reducible exact trivial
    | with_reducible apply Act.keeps_exc
    | intro _
    | dsimp +zetaDelta only

theorem execStg_same {r : ChainRef} {i : MemI} {s : State} {s1 : State} (h : execStg r i s = .next s1) : Same 903931104220 s s1 := by
  have hK : 903931104220 &&& 903931104220 = 903931104220 := rfl
  have hZ := Same.refl 903931104220 s
  unfold execStg at h
  repeat' first
    | extract_lets at h
    | (injection h with h; subst h)
    | split at h
    | cases h
    | extract_lets
    | with_reducible assumption
    | exact sub_trans rfl hK
    | exact bit_of rfl hK
    | split
    | with_reducible apply memory_same
    | with_reducible apply pushEntries_same
    | with_reducible exact trivial
    | with_reducible apply Act.keeps_with
    | with_reducible apply Act.keeps_exc
    | with_reducible apply Act.keeps_wait
    | intro _
    | dsimp +zetaDelta only

theorem execLdl_same {r : ChainRef} {i : MemI} {s : State} {s1 : State} (h : execLdl r i s = .next s1) : Same 903931104220 s s1 := by
  have hK : 903931104220 &&& 903931104220 = 903931104220 := rfl
  have hZ := Same.refl 903931104220 s
  unfold execLdl at h
  repeat' first
    | extract_lets at h
    | (injection h with h; subst h)
    | split at h
    | cases h
    | extract_lets
    | with_reducible assumption
    | exact sub_trans rfl hK
    | exact bit_of rfl hK
    | split
    | with_reducible apply local_same
    | with_reducible exact trivial
    | with_reducible apply Act.keeps_done
    | intro _

theorem execStl_same {r : ChainRef} {i : MemI} {s : State} {s1 : State} (h : execStl r i s = .next s1) : Same 903931104220 s s1 := by
  have hK : 903931104220 &&& 903931104220 = 903931104220 := rfl
  have hZ := Same.refl 903931104220 s
  unfold execStl at h
  repeat' first
    | extract_lets at h
    | (injection h with h; subst h)
    | split at h
    | cases h
    | extract_lets
    | with_reducible assumption
    | exact sub_trans rfl hK
    | exact bit_of rfl hK
    | split
    | with_reducible apply local_same
    | with_reducible apply lsStore_same
    | with_reducible apply Same.foldl
    | with_reducible exact trivial
    | with_reducible apply Act.keeps_with
    | intro _

theorem execLdu_same {r : ChainRef} {i : MemI} {s : State} {s1 : State} (h : execLdu r i s = .next s1) : Same 903931104220 s s1 := by
  have hK : 903931104220 &&& 903931104220 = 903931104220 := rfl
  have hZ := Same.refl 903931104220 s
  unfold execLdu at h
  repeat' first
    | extract_lets at h
    | (injection h with h; subst h)
    | split at h
    | cases h
    | extract_lets
    | with_reducible assumption
    | exact sub_trans rfl hK
    | exact bit_of rfl hK
    | split
    | with_reducible apply memory_same
    | with_reducible apply startLoad_same
    | with_reducible exact trivial
    | with_reducible apply Act.keeps_exc
    | intro _
    | dsimp +zetaDelta only

theorem execAtomg_same {r : ChainRef} {op : AtomOp} {i : MemI} {s : State} {s1 : State} (h : execAtomg r op i s = .next s1) : Same 903931104220 s s1 := by
  have hK : 903931104220 &&& 903931104220 = 903931104220 := rfl
  have hZ := Same.refl 903931104220 s
  unfold execAtomg at h
  repeat' first
    | extract_lets at h
    | (injection h with h; subst h)
    | split at h
    | cases h
    | extract_lets
    | with_reducible assumption
    | exact sub_trans rfl hK
    | exact bit_of rfl hK
    | split
    | with_reducible apply memory_same
    | with_reducible apply pushEntries_same
    | with_reducible apply Same.foldl
    | with_reducible exact trivial
    | with_reducible apply Act.keeps_with
    | with_reducible apply Act.keeps_exc
    | with_reducible apply Act.keeps_wait
    | intro _
    | dsimp +zetaDelta only

theorem execAtoml_same {r : ChainRef} {op : AtomOp} {i : MemI} {s : State} {s1 : State} (h : execAtoml r op i s = .next s1) : Same 903931104220 s s1 := by
  have hK : 903931104220 &&& 903931104220 = 903931104220 := rfl
  have hZ := Same.refl 903931104220 s
  unfold execAtoml at h
  repeat' first
    | extract_lets at h
    | (injection h with h; subst h)
    | split at h
    | cases h
    | extract_lets
    | with_reducible assumption
    | exact sub_trans rfl hK
    | exact bit_of rfl hK
    | split
    | with_reducible apply local_same
    | with_reducible apply localAtom_same
    | with_reducible apply Same.foldl
    | with_reducible exact trivial
    | with_reducible apply Act.keeps_with
    | intro _

theorem execPref_same {r : ChainRef} {i : MemI} {s : State} {s1 : State} (h : execPref r i s = .next s1) : Same 903931104220 s s1 := by
  have hK : 903931104220 &&& 903931104220 = 903931104220 := rfl
  have hZ := Same.refl 903931104220 s
  unfold execPref at h
  repeat' first
    | extract_lets at h
    | (injection h with h; subst h)
    | split at h
    | cases h
    | extract_lets
    | with_reducible assumption
    | exact sub_trans rfl hK
    | exact bit_of rfl hK
    | split
    | with_reducible apply addLoad_same
    | with_reducible apply memory_same
    | with_reducible exact trivial
    | with_reducible apply Act.keeps_done
    | with_reducible apply Act.keeps_exc
    | with_reducible apply Act.keeps_wait
    | intro _
    | dsimp +zetaDelta only

theorem execBra_same {r : ChainRef} {i : BrI} {s : State} {s1 : State} (h : execBra r i s = .next s1) : Same 903931104220 s s1 := by
  have hK : 903931104220 &&& 903931104220 = 903931104220 := rfl
  have hZ := Same.refl 903931104220 s
  unfold execBra at h
  repeat' first
    | extract_lets at h
    | (injection h with h; subst h)
    | split at h
    | cases h
    | extract_lets
    | with_reducible assumption
    | exact sub_trans rfl hK
    | exact bit_of rfl hK
    | split
    | with_reducible apply whole_same
    | with_reducible exact trivial
    | with_reducible apply Act.keeps_done
    | intro _

theorem execBraD_same {r : ChainRef} {i : BrI} {s : State} {s1 : State} (h : execBraD r i s = .next s1) : Same 903931104220 s s1 := by
  have hK : 903931104220 &&& 903931104220 = 903931104220 := rfl
  have hZ := Same.refl 903931104220 s
  unfold execBraD at h
  repeat' first
    | extract_lets at h
    | (injection h with h; subst h)
    | split at h
    | cases h
    | extract_lets
    | with_reducible assumption
    | exact sub_trans rfl hK
    | exact bit_of rfl hK
    | split
    | with_reducible apply issue_same
    | with_reducible exact trivial
    | with_reducible apply Act.keeps_done
    | with_reducible apply Act.keeps_exc
    | intro _

theorem execJoin_same {r : ChainRef} {i : BrI} {s : State} {s1 : State} (h : execJoin r i s = .next s1) : Same 903931104220 s s1 := by
  have hK : 903931104220 &&& 903931104220 = 903931104220 := rfl
  have hZ := Same.refl 903931104220 s
  unfold execJoin at h
  repeat' first
    | extract_lets at h
    | (injection h with h; subst h)
    | split at h
    | cases h
    | extract_lets
    | with_reducible assumption
    | exact sub_trans rfl hK
    | exact bit_of rfl hK
    | split
    | with_reducible apply whole_same
    | with_reducible exact trivial
    | with_reducible apply Act.keeps_done
    | with_reducible apply Act.keeps_exc
    | intro _

theorem execCall_same {r : ChainRef} {i : BrI} {s : State} {s1 : State} (h : execCall r i s = .next s1) : Same 903931104220 s s1 := by
  have hK : 903931104220 &&& 903931104220 = 903931104220 := rfl
  have hZ := Same.refl 903931104220 s
  unfold execCall at h
  repeat' first
    | extract_lets at h
    | (injection h with h; subst h)
    | split at h
    | cases h
    | extract_lets
    | with_reducible assumption
    | exact sub_trans rfl hK
    | exact bit_of rfl hK
    | split
    | with_reducible apply whole_same
    | with_reducible exact trivial
    | with_reducible apply Act.keeps_done
    | with_reducible apply Act.keeps_exc
    | intro _

theorem execRet_same {r : ChainRef} {i : BrI} {s : State} {s1 : State} (h : execRet r i s = .next s1) : Same 903931104220 s s1 := by
  have hK : 903931104220 &&& 903931104220 = 903931104220 := rfl
  have hZ := Same.refl 903931104220 s
  unfold execRet at h
  repeat' first
    | extract_lets at h
    | (injection h with h; subst h)
    | split at h
    | cases h
    | extract_lets
    | with_reducible assumption
    | exact sub_trans rfl hK
    | exact bit_of rfl hK
    | split
    | with_reducible apply whole_same
    | with_reducible exact trivial
    | with_reducible apply Act.keeps_done
    | with_reducible apply Act.keeps_exc
    | intro _

theorem execExit_same {r : ChainRef} {i : BrI} {s : State} {s1 : State} (h : execExit r i s = .next s1) : Same 903931104220 s s1 := by
  have hK : 903931104220 &&& 903931104220 = 903931104220 := rfl
  have hZ := Same.refl 903931104220 s
  unfold execExit at h
  repeat' first
    | extract_lets at h
    | (injection h with h; subst h)
    | split at h
    | cases h
    | extract_lets
    | with_reducible assumption
    | exact sub_trans rfl hK
    | exact bit_of rfl hK
    | split
    | with_reducible apply exitAct_same
    | with_reducible apply issue_same
    | with_reducible exact trivial
    | intro _

theorem execUArithmetic_same {r : ChainRef} {op : UOp} {i : UI} {s : State} {s1 : State} (h : execUArithmetic r op i s = .next s1) : Same 903931104220 s s1 := by
  have hK : 903931104220 &&& 903931104220 = 903931104220 := rfl
  have hZ := Same.refl 903931104220 s
  unfold execUArithmetic at h
  repeat' first
    | extract_lets at h
    | (injection h with h; subst h)
    | split at h
    | cases h
    | extract_lets
    | with_reducible assumption
    | exact sub_trans rfl hK
    | exact bit_of rfl hK
    | split
    | with_reducible apply whole_same
    | with_reducible exact trivial
    | with_reducible apply Act.keeps_done
    | intro _

theorem execUcmp_same {r : ChainRef} {i : UI} {s : State} {s1 : State} (h : execUcmp r i s = .next s1) : Same 903931104220 s s1 := by
  have hK : 903931104220 &&& 903931104220 = 903931104220 := rfl
  have hZ := Same.refl 903931104220 s
  unfold execUcmp at h
  repeat' first
    | extract_lets at h
    | (injection h with h; subst h)
    | split at h
    | cases h
    | extract_lets
    | with_reducible assumption
    | exact sub_trans rfl hK
    | exact bit_of rfl hK
    | split
    | with_reducible apply whole_same
    | with_reducible exact trivial
    | with_reducible apply Act.keeps_done
    | intro _

theorem execMld_same {r : ChainRef} {i : MxI} {s : State} {s1 : State} (h : execMld r i s = .next s1) : Same 903931104220 s s1 := by
  have hK : 903931104220 &&& 903931104220 = 903931104220 := rfl
  have hZ := Same.refl 903931104220 s
  unfold execMld at h
  repeat' first
    | extract_lets at h
    | (injection h with h; subst h)
    | split at h
    | cases h
    | extract_lets
    | with_reducible assumption
    | exact sub_trans rfl hK
    | exact bit_of rfl hK
    | split
    | with_reducible apply mx_same
    | with_reducible apply updUnit_same
    | intro _
    | dsimp +zetaDelta only

theorem execMmul_same {r : ChainRef} {i : MxI} {bad : Fin 3} {s : State} {s1 : State} (h : execMmul r i bad s = .next s1) : Same 903931104220 s s1 := by
  have hK : 903931104220 &&& 903931104220 = 903931104220 := rfl
  have hZ := Same.refl 903931104220 s
  unfold execMmul at h
  repeat' first
    | extract_lets at h
    | (injection h with h; subst h)
    | split at h
    | cases h
    | extract_lets
    | with_reducible assumption
    | exact sub_trans rfl hK
    | exact bit_of rfl hK
    | split
    | with_reducible apply mx_same
    | with_reducible apply updUnit_same
    | intro _
    | dsimp +zetaDelta only

theorem execMrd_same {r : ChainRef} {i : MxI} {s : State} {s1 : State} (h : execMrd r i s = .next s1) : Same 903931104220 s s1 := by
  have hK : 903931104220 &&& 903931104220 = 903931104220 := rfl
  have hZ := Same.refl 903931104220 s
  unfold execMrd at h
  repeat' first
    | extract_lets at h
    | (injection h with h; subst h)
    | split at h
    | cases h
    | extract_lets
    | with_reducible assumption
    | exact sub_trans rfl hK
    | exact bit_of rfl hK
    | split
    | with_reducible apply lsStore_same
    | with_reducible apply mx_same
    | with_reducible apply updUnit_same
    | intro _
    | dsimp +zetaDelta only

theorem execMclr_same {r : ChainRef} {i : MxI} {s : State} {s1 : State} (h : execMclr r i s = .next s1) : Same 903931104220 s s1 := by
  have hK : 903931104220 &&& 903931104220 = 903931104220 := rfl
  have hZ := Same.refl 903931104220 s
  unfold execMclr at h
  repeat' first
    | extract_lets at h
    | (injection h with h; subst h)
    | split at h
    | cases h
    | extract_lets
    | with_reducible assumption
    | exact sub_trans rfl hK
    | exact bit_of rfl hK
    | split
    | with_reducible apply mx_same
    | with_reducible apply updUnit_same
    | intro _

theorem execMrel_same {r : ChainRef} {i : MxI} {s : State} {s1 : State} (h : execMrel r i s = .next s1) : Same 903931104220 s s1 := by
  have hK : 903931104220 &&& 903931104220 = 903931104220 := rfl
  have hZ := Same.refl 903931104220 s
  unfold execMrel at h
  repeat' first
    | extract_lets at h
    | (injection h with h; subst h)
    | split at h
    | cases h
    | extract_lets
    | with_reducible assumption
    | exact sub_trans rfl hK
    | exact bit_of rfl hK
    | split
    | with_reducible apply mx_same
    | with_reducible apply releaseUnit_same
    | intro _

theorem execNopInstruction_same {r : ChainRef} {i : SysI} {s : State} {s1 : State} (h : execNopInstruction r i s = .next s1) : Same 903931104220 s s1 := by
  have hK : 903931104220 &&& 903931104220 = 903931104220 := rfl
  have hZ := Same.refl 903931104220 s
  unfold execNopInstruction at h
  repeat' first
    | extract_lets at h
    | (injection h with h; subst h)
    | split at h
    | cases h
    | extract_lets
    | with_reducible assumption
    | exact sub_trans rfl hK
    | exact bit_of rfl hK
    | split
    | with_reducible apply whole_same
    | with_reducible exact trivial
    | with_reducible apply Act.keeps_done
    | intro _

theorem execS2vS2u_same {r : ChainRef} {uni : Bool} {i : SysI} {s : State} {s1 : State} (h : execS2vS2u r uni i s = .next s1) : Same 903931104220 s s1 := by
  have hK : 903931104220 &&& 903931104220 = 903931104220 := rfl
  have hZ := Same.refl 903931104220 s
  unfold execS2vS2u at h
  repeat' first
    | extract_lets at h
    | (injection h with h; subst h)
    | split at h
    | cases h
    | extract_lets
    | with_reducible assumption
    | exact sub_trans rfl hK
    | exact bit_of rfl hK
    | split
    | with_reducible apply freshNext_same
    | with_reducible apply whole_same
    | with_reducible exact trivial
    | with_reducible apply Act.keeps_asks
    | with_reducible apply Act.keeps_exc
    | intro _
    | dsimp +zetaDelta only

theorem execU2s_same {r : ChainRef} {i : SysI} {s : State} {s1 : State} (h : execU2s r i s = .next s1) : Same 903931104220 s s1 := by
  have hK : 903931104220 &&& 903931104220 = 903931104220 := rfl
  have hZ := Same.refl 903931104220 s
  unfold execU2s at h
  repeat' first
    | extract_lets at h
    | (injection h with h; subst h)
    | split at h
    | cases h
    | extract_lets
    | with_reducible assumption
    | exact sub_trans rfl hK
    | exact bit_of rfl hK
    | split
    | with_reducible apply setMxSreg_same
    | with_reducible apply whole_same
    | with_reducible exact trivial
    | with_reducible apply Act.keeps_done
    | with_reducible apply Act.keeps_with
    | intro _
    | dsimp +zetaDelta only

theorem execFenceInstruction_same {r : ChainRef} {i : SysI} {s : State} {s1 : State} (h : execFenceInstruction r i s = .next s1) : Same 903931104220 s s1 := by
  have hK : 903931104220 &&& 903931104220 = 903931104220 := rfl
  have hZ := Same.refl 903931104220 s
  unfold execFenceInstruction at h
  repeat' first
    | extract_lets at h
    | (injection h with h; subst h)
    | split at h
    | cases h
    | extract_lets
    | with_reducible assumption
    | exact sub_trans rfl hK
    | exact bit_of rfl hK
    | split
    | with_reducible apply fenceAct_same
    | with_reducible apply whole_same
    | with_reducible exact trivial
    | with_reducible apply Act.keeps_exc
    | intro _
    | dsimp +zetaDelta only

theorem execFenceComplete_same {r : ChainRef} {s : State} {s1 : State} (h : execFenceComplete r s = .next s1) : Same 131584 s s1 := by
  have hK : 131584 &&& 131584 = 131584 := rfl
  have hZ := Same.refl 131584 s
  unfold execFenceComplete at h
  repeat' first
    | extract_lets at h
    | (injection h with h; subst h)
    | split at h
    | cases h
    | extract_lets
    | with_reducible assumption
    | exact sub_trans rfl hK
    | exact bit_of rfl hK
    | split
    | with_reducible apply acquired_same
    | with_reducible apply retired_same
    | with_reducible apply updChain_same

theorem execFenceIo_same {r : ChainRef} {i : SysI} {s : State} {s1 : State} (h : execFenceIo r i s = .next s1) : Same 903931104220 s s1 := by
  have hK : 903931104220 &&& 903931104220 = 903931104220 := rfl
  have hZ := Same.refl 903931104220 s
  unfold execFenceIo at h
  repeat' first
    | extract_lets at h
    | (injection h with h; subst h)
    | split at h
    | cases h
    | extract_lets
    | with_reducible assumption
    | exact sub_trans rfl hK
    | exact bit_of rfl hK
    | split
    | with_reducible apply fenceAct_same
    | with_reducible apply whole_same
    | with_reducible exact trivial
    | intro _

theorem execBar_same {r : ChainRef} {i : SysI} {s : State} {s1 : State} (h : execBar r i s = .next s1) : Same 903931104220 s s1 := by
  have hK : 903931104220 &&& 903931104220 = 903931104220 := rfl
  have hZ := Same.refl 903931104220 s
  unfold execBar at h
  repeat' first
    | extract_lets at h
    | (injection h with h; subst h)
    | split at h
    | cases h
    | extract_lets
    | with_reducible assumption
    | exact sub_trans rfl hK
    | exact bit_of rfl hK
    | split
    | with_reducible apply arriveBar_same
    | with_reducible apply whole_same
    | with_reducible exact trivial
    | with_reducible apply Act.keeps_with
    | with_reducible apply Act.keeps_wait
    | intro _

theorem execEvwait_same {r : ChainRef} {i : SysI} {s : State} {s1 : State} (h : execEvwait r i s = .next s1) : Same 903931104220 s s1 := by
  have hK : 903931104220 &&& 903931104220 = 903931104220 := rfl
  have hZ := Same.refl 903931104220 s
  unfold execEvwait at h
  repeat' first
    | extract_lets at h
    | (injection h with h; subst h)
    | split at h
    | cases h
    | extract_lets
    | with_reducible assumption
    | exact sub_trans rfl hK
    | exact bit_of rfl hK
    | split
    | with_reducible apply askOwn_same
    | with_reducible apply waitObj_same
    | with_reducible apply whole_same
    | with_reducible exact trivial
    | with_reducible apply Act.keeps_with
    | with_reducible apply Act.keeps_exc
    | with_reducible apply Act.keeps_request
    | with_reducible apply Act.keeps_wait
    | intro _
    | dsimp +zetaDelta only

theorem execEvsig_same {r : ChainRef} {i : SysI} {s : State} {s1 : State} (h : execEvsig r i s = .next s1) : Same 903931104220 s s1 := by
  have hK : 903931104220 &&& 903931104220 = 903931104220 := rfl
  have hZ := Same.refl 903931104220 s
  unfold execEvsig at h
  repeat' first
    | extract_lets at h
    | (injection h with h; subst h)
    | split at h
    | cases h
    | extract_lets
    | with_reducible assumption
    | exact sub_trans rfl hK
    | exact bit_of rfl hK
    | split
    | with_reducible apply askOwn_same
    | with_reducible apply signalObj_same
    | with_reducible apply whole_same
    | with_reducible exact trivial
    | with_reducible apply Act.keeps_with
    | with_reducible apply Act.keeps_exc
    | with_reducible apply Act.keeps_request
    | with_reducible apply Act.keeps_wait
    | intro _
    | dsimp +zetaDelta only

theorem execSleep_same {r : ChainRef} {i : SysI} {s : State} {s1 : State} (h : execSleep r i s = .next s1) : Same 903931104220 s s1 := by
  have hK : 903931104220 &&& 903931104220 = 903931104220 := rfl
  have hZ := Same.refl 903931104220 s
  unfold execSleep at h
  repeat' first
    | extract_lets at h
    | (injection h with h; subst h)
    | split at h
    | cases h
    | extract_lets
    | with_reducible assumption
    | exact sub_trans rfl hK
    | exact bit_of rfl hK
    | split
    | with_reducible apply whole_same
    | with_reducible exact trivial
    | with_reducible apply Act.keeps_done
    | with_reducible apply Act.keeps_exc
    | intro _

theorem execYield_same {r : ChainRef} {i : SysI} {s : State} {s1 : State} (h : execYield r i s = .next s1) : Same 903931104220 s s1 := by
  have hK : 903931104220 &&& 903931104220 = 903931104220 := rfl
  have hZ := Same.refl 903931104220 s
  unfold execYield at h
  repeat' first
    | extract_lets at h
    | (injection h with h; subst h)
    | split at h
    | cases h
    | extract_lets
    | with_reducible assumption
    | exact sub_trans rfl hK
    | exact bit_of rfl hK
    | split
    | with_reducible apply whole_same
    | with_reducible exact trivial
    | with_reducible apply Act.keeps_done
    | intro _

theorem execTrap_same {r : ChainRef} {i : SysI} {s : State} {s1 : State} (h : execTrap r i s = .next s1) : Same 903931104220 s s1 := by
  have hK : 903931104220 &&& 903931104220 = 903931104220 := rfl
  have hZ := Same.refl 903931104220 s
  unfold execTrap at h
  repeat' first
    | extract_lets at h
    | (injection h with h; subst h)
    | split at h
    | cases h
    | extract_lets
    | with_reducible assumption
    | exact sub_trans rfl hK
    | exact bit_of rfl hK
    | split
    | with_reducible apply whole_same
    | with_reducible exact trivial
    | with_reducible apply Act.keeps_exc
    | intro _

theorem execStoreBufferEntryLeave_same {core : Fin 276} {s : State} {s1 : State} (h : execStoreBufferEntryLeave core s = .next s1) : Same 961938373628 s s1 := by
  have hK : 961938373628 &&& 961938373628 = 961938373628 := rfl
  have hZ := Same.refl 961938373628 s
  unfold execStoreBufferEntryLeave at h
  repeat' first
    | extract_lets at h
    | (injection h with h; subst h)
    | split at h
    | cases h
    | extract_lets
    | with_reducible assumption
    | exact sub_trans rfl hK
    | exact bit_of rfl hK
    | split
    | with_reducible refine leave_same ‹_› ?_ ?_

theorem execLoadDataReturn_same {c : ChainRef} {idx : Nat} {err : Bool} {s : State} {s1 : State} (h : execLoadDataReturn c idx err s = .next s1) : Same 903931104220 s s1 := by
  have hK : 903931104220 &&& 903931104220 = 903931104220 := rfl
  have hZ := Same.refl 903931104220 s
  unfold execLoadDataReturn at h
  repeat' first
    | extract_lets at h
    | (injection h with h; subst h)
    | split at h
    | cases h
    | extract_lets
    | with_reducible assumption
    | exact sub_trans rfl hK
    | exact bit_of rfl hK
    | split
    | with_reducible apply askReads_same
    | with_reducible apply invalidateDcache_same
    | with_reducible apply loadErr_same
    | with_reducible refine readDevLanes_same ‹_› ?_ ?_
    | with_reducible apply returnLoad_same
    | with_reducible apply updChain_same
    | dsimp +zetaDelta only

theorem execHomeRequest_same {who : HomeWho} {line : BitVec 56} {k : HomeKind} {s : State} {s1 : State} (h : execHomeRequest who line k s = .next s1) : Same 833231653848 s s1 := by
  have hK : 833231653848 &&& 833231653848 = 833231653848 := rfl
  have hZ := Same.refl 833231653848 s
  unfold execHomeRequest at h
  repeat' first
    | extract_lets at h
    | (injection h with h; subst h)
    | split at h
    | cases h
    | extract_lets
    | with_reducible assumption
    | exact sub_trans rfl hK
    | exact bit_of rfl hK
    | split
    | with_reducible apply requestLine_same

theorem execHomeTransactionEnd_same {line : BitVec 56} {s : State} {s1 : State} (h : execHomeTransactionEnd line s = .next s1) : Same 833231653848 s s1 := by
  have hK : 833231653848 &&& 833231653848 = 833231653848 := rfl
  have hZ := Same.refl 833231653848 s
  unfold execHomeTransactionEnd at h
  repeat' first
    | extract_lets at h
    | (injection h with h; subst h)
    | split at h
    | cases h
    | extract_lets
    | with_reducible assumption
    | exact sub_trans rfl hK
    | exact bit_of rfl hK
    | split
    | with_reducible apply endTx_same

theorem execDeadlockEvaluationTick_same {s : State} {s1 : State} (h : execDeadlockEvaluationTick s = .next s1) : Same 2048 s s1 := by
  have hK : 2048 &&& 2048 = 2048 := rfl
  have hZ := Same.refl 2048 s
  unfold execDeadlockEvaluationTick at h
  repeat' first
    | extract_lets at h
    | (injection h with h; subst h)
    | split at h
    | cases h
    | extract_lets
    | with_reducible assumption
    | exact sub_trans rfl hK
    | exact bit_of rfl hK
    | split
    | with_reducible apply updCtx_same
    | with_reducible apply Same.foldl
    | intro _

theorem execDeadlockRaise_same {ctx : Fin 16384} {s : State} {s1 : State} (h : execDeadlockRaise ctx s = .next s1) : Same 903931104220 s s1 := by
  have hK : 903931104220 &&& 903931104220 = 903931104220 := rfl
  have hZ := Same.refl 903931104220 s
  unfold execDeadlockRaise at h
  repeat' first
    | extract_lets at h
    | (injection h with h; subst h)
    | split at h
    | cases h
    | extract_lets
    | with_reducible assumption
    | exact sub_trans rfl hK
    | exact bit_of rfl hK
    | split
    | with_reducible apply endCmd_same
    | with_reducible apply postErrs_same
    | with_reducible apply retime_same
    | with_reducible apply updCtx_same
    | with_reducible apply Same.foldl
    | intro _
    | dsimp +zetaDelta only

theorem execFurlongMoveRequest_same {src : KodSrc} {f : Fin 16} {val : Byte} {s : State} {s1 : State} (h : execFurlongMoveRequest src f val s = .next s1) : Same 959790889980 s s1 := by
  have hK : 959790889980 &&& 959790889980 = 959790889980 := rfl
  have hZ := Same.refl 959790889980 s
  unfold execFurlongMoveRequest at h
  repeat' first
    | extract_lets at h
    | (injection h with h; subst h)
    | split at h
    | cases h
    | extract_lets
    | with_reducible assumption
    | exact sub_trans rfl hK
    | exact bit_of rfl hK
    | split
    | with_reducible apply kodRequest_same

theorem execDrainWindowExpiry_same {f : Fin 16} {s : State} {s1 : State} (h : execDrainWindowExpiry f s = .next s1) : Same 942594198492 s s1 := by
  have hK : 942594198492 &&& 942594198492 = 942594198492 := rfl
  have hZ := Same.refl 942594198492 s
  unfold execDrainWindowExpiry at h
  repeat' first
    | extract_lets at h
    | (injection h with h; subst h)
    | split at h
    | cases h
    | extract_lets
    | with_reducible assumption
    | exact sub_trans rfl hK
    | exact bit_of rfl hK
    | split
    | with_reducible apply drainGroups_same
    | with_reducible apply leaveSource_same
    | dsimp +zetaDelta only

theorem execFurlongJoin_same {f : Fin 16} {s : State} {s1 : State} (h : execFurlongJoin f s = .next s1) : Same 38663225344 s s1 := by
  have hK : 38663225344 &&& 38663225344 = 38663225344 := rfl
  have hZ := Same.refl 38663225344 s
  unfold execFurlongJoin at h
  repeat' first
    | extract_lets at h
    | (injection h with h; subst h)
    | split at h
    | cases h
    | extract_lets
    | with_reducible assumption
    | exact sub_trans rfl hK
    | exact bit_of rfl hK
    | split
    | with_reducible apply scrubFurlong_same
    | with_reducible apply setRun_same
    | with_reducible apply Same.moves_upd
    | with_reducible apply Same.pow_upd
    | dsimp +zetaDelta only
    | exact Or.inl (bit_of rfl hK)
    | exact Or.inr rfl
    | exact rfl
    | with_reducible apply Same.mk_upd

theorem execVfManagementWrite_same {vf : Fin 513} {off : Nat} {size : Nat} {val : W64} {s : State} {s1 : State} (h : execVfManagementWrite vf off size val s = .next s1) : Same 959790889980 s s1 := by
  have hK : 959790889980 &&& 959790889980 = 959790889980 := rfl
  have hZ := Same.refl 959790889980 s
  unfold execVfManagementWrite at h
  repeat' first
    | extract_lets at h
    | (injection h with h; subst h)
    | split at h
    | cases h
    | extract_lets
    | with_reducible assumption
    | exact sub_trans rfl hK
    | exact bit_of rfl hK
    | split
    | with_reducible apply emit_same
    | with_reducible apply writeVfm_same

theorem execSpanStart_same {h : Fin 8} {s : State} {s1 : State} (h : execSpanStart h s = .next s1) : Same 4588032 s s1 := by
  have hK : 4588032 &&& 4588032 = 4588032 := rfl
  have hZ := Same.refl 4588032 s
  unfold execSpanStart at h
  repeat' first
    | extract_lets at h
    | (injection h with h; subst h)
    | split at h
    | cases h
    | extract_lets
    | with_reducible assumption
    | exact sub_trans rfl hK
    | exact bit_of rfl hK
    | split
    | with_reducible apply activateTable_same
    | with_reducible apply clearFor_same
    | with_reducible apply retime_same
    | with_reducible apply Same.foldl
    | intro _
    | dsimp +zetaDelta only

theorem execGrainChargeTick_same {s : State} {s1 : State} (h : execGrainChargeTick s = .next s1) : Same 4196480 s s1 := by
  have hK : 4196480 &&& 4196480 = 4196480 := rfl
  have hZ := Same.refl 4196480 s
  unfold execGrainChargeTick at h
  repeat' first
    | extract_lets at h
    | (injection h with h; subst h)
    | split at h
    | cases h
    | extract_lets
    | with_reducible assumption
    | exact sub_trans rfl hK
    | exact bit_of rfl hK
    | split
    | with_reducible apply chargeCmd_same
    | with_reducible apply tickHide_same
    | with_reducible apply updCtx_same
    | with_reducible apply Same.foldl
    | intro _
    | dsimp +zetaDelta only

theorem execCoreSliceExpiry_same {cid : Nat} {g : Nat} {s : State} {s1 : State} (h : execCoreSliceExpiry cid g s = .next s1) : Same 393216 s s1 := by
  have hK : 393216 &&& 393216 = 393216 := rfl
  have hZ := Same.refl 393216 s
  unfold execCoreSliceExpiry at h
  repeat' first
    | extract_lets at h
    | (injection h with h; subst h)
    | split at h
    | cases h
    | extract_lets
    | with_reducible assumption
    | exact sub_trans rfl hK
    | exact bit_of rfl hK
    | split
    | with_reducible apply preempt_same

theorem execSlowdownWindowEnd_same {h : Fin 8} {hindered : List (Nat × Nat)} {s : State} {s1 : State} (h : execSlowdownWindowEnd h hindered s = .next s1) : Same 558345750744 s s1 := by
  have hK : 558345750744 &&& 558345750744 = 558345750744 := rfl
  have hZ := Same.refl 558345750744 s
  unfold execSlowdownWindowEnd at h
  repeat' first
    | extract_lets at h
    | (injection h with h; subst h)
    | split at h
    | cases h
    | extract_lets
    | with_reducible assumption
    | exact sub_trans rfl hK
    | exact bit_of rfl hK
    | split
    | with_reducible apply endWindow_same
    | with_reducible apply Same.foldl
    | intro _

theorem execRebalancePeriodEnd_same {s : State} {s1 : State} (h : execRebalancePeriodEnd s = .next s1) : Same 558375108828 s s1 := by
  have hK : 558375108828 &&& 558375108828 = 558375108828 := rfl
  have hZ := Same.refl 558375108828 s
  unfold execRebalancePeriodEnd at h
  repeat' first
    | extract_lets at h
    | (injection h with h; subst h)
    | split at h
    | cases h
    | extract_lets
    | with_reducible assumption
    | exact sub_trans rfl hK
    | exact bit_of rfl hK
    | split
    | with_reducible apply beginMove_same
    | with_reducible apply journal_same
    | with_reducible apply updHide_same
    | with_reducible apply Same.foldl
    | with_reducible apply Same.mgrMoved_upd
    | intro _
    | dsimp +zetaDelta only

theorem execMigrationFenceEnd_same {ctx : Fin 16384} {s : State} {s1 : State} (h : execMigrationFenceEnd ctx s = .next s1) : Same 833228770008 s s1 := by
  have hK : 833228770008 &&& 833228770008 = 833228770008 := rfl
  have hZ := Same.refl 833228770008 s
  unfold execMigrationFenceEnd at h
  repeat' first
    | extract_lets at h
    | (injection h with h; subst h)
    | split at h
    | cases h
    | extract_lets
    | with_reducible assumption
    | exact sub_trans rfl hK
    | exact bit_of rfl hK
    | split
    | with_reducible apply endFence_same

theorem execMoverRestart_same {m : Fin 16} {s : State} {s1 : State} (h : execMoverRestart m s = .next s1) : Same 268435456 s s1 := by
  have hK : 268435456 &&& 268435456 = 268435456 := rfl
  have hZ := Same.refl 268435456 s
  unfold execMoverRestart at h
  repeat' first
    | extract_lets at h
    | (injection h with h; subst h)
    | split at h
    | cases h
    | extract_lets
    | with_reducible assumption
    | exact sub_trans rfl hK
    | exact bit_of rfl hK
    | split
    | with_reducible apply restartMover_same

theorem execChannelEnable_same {m : Fin 16} {c : Fin 32} {ctrl : W64} {s : State} {s1 : State} (h : execChannelEnable m c ctrl s = .next s1) : Same 903931104220 s s1 := by
  have hK : 903931104220 &&& 903931104220 = 903931104220 := rfl
  have hZ := Same.refl 903931104220 s
  unfold execChannelEnable at h
  repeat' first
    | extract_lets at h
    | (injection h with h; subst h)
    | split at h
    | cases h
    | extract_lets
    | with_reducible assumption
    | exact sub_trans rfl hK
    | exact bit_of rfl hK
    | split
    | with_reducible apply enableChan_same

theorem execChannelDisable_same {m : Fin 16} {c : Fin 32} {s : State} {s1 : State} (h : execChannelDisable m c s = .next s1) : Same 903931104220 s s1 := by
  have hK : 903931104220 &&& 903931104220 = 903931104220 := rfl
  have hZ := Same.refl 903931104220 s
  unfold execChannelDisable at h
  repeat' first
    | extract_lets at h
    | (injection h with h; subst h)
    | split at h
    | cases h
    | extract_lets
    | with_reducible assumption
    | exact sub_trans rfl hK
    | exact bit_of rfl hK
    | split
    | with_reducible apply disableChan_same

theorem execChannelAbort_same {m : Fin 16} {c : Fin 32} {s : State} {s1 : State} (h : execChannelAbort m c s = .next s1) : Same 903931104220 s s1 := by
  have hK : 903931104220 &&& 903931104220 = 903931104220 := rfl
  have hZ := Same.refl 903931104220 s
  unfold execChannelAbort at h
  repeat' first
    | extract_lets at h
    | (injection h with h; subst h)
    | split at h
    | cases h
    | extract_lets
    | with_reducible assumption
    | exact sub_trans rfl hK
    | exact bit_of rfl hK
    | split
    | with_reducible apply abortWrite_same

theorem execChannelStop_same {m : Fin 16} {c : Fin 32} {s : State} {s1 : State} (h : execChannelStop m c s = .next s1) : Same 268435456 s s1 := by
  have hK : 268435456 &&& 268435456 = 268435456 := rfl
  have hZ := Same.refl 268435456 s
  unfold execChannelStop at h
  repeat' first
    | extract_lets at h
    | (injection h with h; subst h)
    | split at h
    | cases h
    | extract_lets
    | with_reducible assumption
    | exact sub_trans rfl hK
    | exact bit_of rfl hK
    | split
    | with_reducible apply haltAtBurst_same

theorem execChannelContinue_same {m : Fin 16} {c : Fin 32} {s : State} {s1 : State} (h : execChannelContinue m c s = .next s1) : Same 268435456 s s1 := by
  have hK : 268435456 &&& 268435456 = 268435456 := rfl
  have hZ := Same.refl 268435456 s
  unfold execChannelContinue at h
  repeat' first
    | extract_lets at h
    | (injection h with h; subst h)
    | split at h
    | cases h
    | extract_lets
    | with_reducible assumption
    | exact sub_trans rfl hK
    | exact bit_of rfl hK
    | split
    | with_reducible apply goOn_same

theorem execKick_same {m : Fin 16} {c : Fin 32} {s : State} {s1 : State} (h : execKick m c s = .next s1) : Same 903931104220 s s1 := by
  have hK : 903931104220 &&& 903931104220 = 903931104220 := rfl
  have hZ := Same.refl 903931104220 s
  unfold execKick at h
  repeat' first
    | extract_lets at h
    | (injection h with h; subst h)
    | split at h
    | cases h
    | extract_lets
    | with_reducible assumption
    | exact sub_trans rfl hK
    | exact bit_of rfl hK
    | split
    | with_reducible apply fetchDesc_same

theorem execMoverDescriptorFetch_same {m : Fin 16} {c : Fin 32} {s : State} {s1 : State} (h : execMoverDescriptorFetch m c s = .next s1) : Same 903931104220 s s1 := by
  have hK : 903931104220 &&& 903931104220 = 903931104220 := rfl
  have hZ := Same.refl 903931104220 s
  unfold execMoverDescriptorFetch at h
  repeat' first
    | extract_lets at h
    | (injection h with h; subst h)
    | split at h
    | cases h
    | extract_lets
    | with_reducible assumption
    | exact sub_trans rfl hK
    | exact bit_of rfl hK
    | split
    | with_reducible apply fetchDesc_same

theorem execMoverRunStart_same {m : Fin 16} {s : State} {s1 : State} (h : execMoverRunStart m s = .next s1) : Same 268435460 s s1 := by
  have hK : 268435460 &&& 268435460 = 268435460 := rfl
  have hZ := Same.refl 268435460 s
  unfold execMoverRunStart at h
  repeat' first
    | extract_lets at h
    | (injection h with h; subst h)
    | split at h
    | cases h
    | extract_lets
    | with_reducible assumption
    | exact sub_trans rfl hK
    | exact bit_of rfl hK
    | split
    | with_reducible apply issueBursts_same
    | with_reducible apply levelRead_same
    | with_reducible apply updChan_same
    | with_reducible apply updMover_same

theorem execMoverBurstComplete_same {m : Fin 16} {c : Fin 32} {s : State} {s1 : State} (h : execMoverBurstComplete m c s = .next s1) : Same 834036960220 s s1 := by
  have hK : 834036960220 &&& 834036960220 = 834036960220 := rfl
  have hZ := Same.refl 834036960220 s
  unfold execMoverBurstComplete at h
  repeat' first
    | extract_lets at h
    | (injection h with h; subst h)
    | split at h
    | cases h
    | extract_lets
    | with_reducible assumption
    | exact sub_trans rfl hK
    | exact bit_of rfl hK
    | split
    | with_reducible apply burstDone_same

theorem execInputStall_same {m : Fin 16} {c : Fin 32} {s : State} {s1 : State} (h : execInputStall m c s = .next s1) : Same 558614184152 s s1 := by
  have hK : 558614184152 &&& 558614184152 = 558614184152 := rfl
  have hZ := Same.refl 558614184152 s
  unfold execInputStall at h
  repeat' first
    | extract_lets at h
    | (injection h with h; subst h)
    | split at h
    | cases h
    | extract_lets
    | with_reducible assumption
    | exact sub_trans rfl hK
    | exact bit_of rfl hK
    | split
    | with_reducible apply postNotice_same
    | with_reducible apply updChan_same
    | dsimp +zetaDelta only

theorem execMoverHalt_same {m : Fin 16} {c : Fin 32} {addr : BitVec 56} {s : State} {s1 : State} (h : execMoverHalt m c addr s = .next s1) : Same 903931104220 s s1 := by
  have hK : 903931104220 &&& 903931104220 = 903931104220 := rfl
  have hZ := Same.refl 903931104220 s
  unfold execMoverHalt at h
  repeat' first
    | extract_lets at h
    | (injection h with h; subst h)
    | split at h
    | cases h
    | extract_lets
    | with_reducible assumption
    | exact sub_trans rfl hK
    | exact bit_of rfl hK
    | split
    | with_reducible apply haltMover_same

theorem execMoverPermissionError_same {m : Fin 16} {c : Fin 32} {s : State} {s1 : State} (h : execMoverPermissionError m c s = .next s1) : Same 903931104220 s s1 := by
  have hK : 903931104220 &&& 903931104220 = 903931104220 := rfl
  have hZ := Same.refl 903931104220 s
  unfold execMoverPermissionError at h
  repeat' first
    | extract_lets at h
    | (injection h with h; subst h)
    | split at h
    | cases h
    | extract_lets
    | with_reducible assumption
    | exact sub_trans rfl hK
    | exact bit_of rfl hK
    | split
    | with_reducible apply chanPerm_same
    | dsimp +zetaDelta only

theorem execSourceLatch_same {n : Fin 1024} {s : State} {s1 : State} (h : execSourceLatch n s = .next s1) : Same 537001984 s s1 := by
  have hK : 537001984 &&& 537001984 = 537001984 := rfl
  have hZ := Same.refl 537001984 s
  unfold execSourceLatch at h
  repeat' first
    | extract_lets at h
    | (injection h with h; subst h)
    | split at h
    | cases h
    | extract_lets
    | with_reducible assumption
    | exact sub_trans rfl hK
    | exact bit_of rfl hK
    | split
    | with_reducible apply latch_same
    | with_reducible apply Same.eg_upd

theorem execSrcSetpWrite_same {host : Bool} {w : Fin 16} {bits : W64} {s : State} {s1 : State} (h : execSrcSetpWrite host w bits s = .next s1) : Same 550292815872 s s1 := by
  have hK : 550292815872 &&& 550292815872 = 550292815872 := rfl
  have hZ := Same.refl 550292815872 s
  unfold execSrcSetpWrite at h
  repeat' first
    | extract_lets at h
    | (injection h with h; subst h)
    | split at h
    | cases h
    | extract_lets
    | with_reducible assumption
    | exact sub_trans rfl hK
    | exact bit_of rfl hK
    | split
    | with_reducible apply hostRefused_same
    | with_reducible apply setPending_same

theorem execSrcPendWrite_same {w : Fin 16} {bits : W64} {s : State} {s1 : State} (h : execSrcPendWrite w bits s = .next s1) : Same 536870912 s s1 := by
  have hK : 536870912 &&& 536870912 = 536870912 := rfl
  have hZ := Same.refl 536870912 s
  unfold execSrcPendWrite at h
  repeat' first
    | extract_lets at h
    | (injection h with h; subst h)
    | split at h
    | cases h
    | extract_lets
    | with_reducible assumption
    | exact sub_trans rfl hK
    | exact bit_of rfl hK
    | split
    | with_reducible apply withdraw_same

theorem execHoldOffExpiry_same {g : Fin 64} {s : State} {s1 : State} (h : execHoldOffExpiry g s = .next s1) : Same 537001984 s s1 := by
  have hK : 537001984 &&& 537001984 = 537001984 := rfl
  have hZ := Same.refl 537001984 s
  unfold execHoldOffExpiry at h
  repeat' first
    | extract_lets at h
    | (injection h with h; subst h)
    | split at h
    | cases h
    | extract_lets
    | with_reducible assumption
    | exact sub_trans rfl hK
    | exact bit_of rfl hK
    | split
    | with_reducible apply presentGrp_same
    | dsimp +zetaDelta only

theorem execCoalesceExpiry_same {g : Fin 64} {s : State} {s1 : State} (h : execCoalesceExpiry g s = .next s1) : Same 537001984 s s1 := by
  have hK : 537001984 &&& 537001984 = 537001984 := rfl
  have hZ := Same.refl 537001984 s
  unfold execCoalesceExpiry at h
  repeat' first
    | extract_lets at h
    | (injection h with h; subst h)
    | split at h
    | cases h
    | extract_lets
    | with_reducible assumption
    | exact sub_trans rfl hK
    | exact bit_of rfl hK
    | split
    | with_reducible apply presentGrp_same
    | dsimp +zetaDelta only

theorem execAcknowledge_same {t : Fin 4} {s : State} {s1 : State} (h : execAcknowledge t s = .next s1) : Same 550292684800 s s1 := by
  have hK : 550292684800 &&& 550292684800 = 550292684800 := rfl
  have hZ := Same.refl 550292684800 s
  unfold execAcknowledge at h
  repeat' first
    | extract_lets at h
    | (injection h with h; subst h)
    | split at h
    | cases h
    | extract_lets
    | with_reducible assumption
    | exact sub_trans rfl hK
    | exact bit_of rfl hK
    | split
    | with_reducible apply ack_same

theorem execEndOfInterrupt_same {t : Fin 4} {src : BitVec 10} {s : State} {s1 : State} (h : execEndOfInterrupt t src s = .next s1) : Same 558882750680 s s1 := by
  have hK : 558882750680 &&& 558882750680 = 558882750680 := rfl
  have hZ := Same.refl 558882750680 s
  unfold execEndOfInterrupt at h
  repeat' first
    | extract_lets at h
    | (injection h with h; subst h)
    | split at h
    | cases h
    | extract_lets
    | with_reducible assumption
    | exact sub_trans rfl hK
    | exact bit_of rfl hK
    | split
    | with_reducible apply eoi_same

theorem execWatermarkStickyClear_same {n : Fin 512} {host : Bool} {s : State} {s1 : State} (h : execWatermarkStickyClear n host s = .next s1) : Same 559419490524 s s1 := by
  have hK : 559419490524 &&& 559419490524 = 559419490524 := rfl
  have hZ := Same.refl 559419490524 s
  unfold execWatermarkStickyClear at h
  repeat' first
    | extract_lets at h
    | (injection h with h; subst h)
    | split at h
    | cases h
    | extract_lets
    | with_reducible assumption
    | exact sub_trans rfl hK
    | exact bit_of rfl hK
    | split
    | with_reducible apply clearSticky_same
    | with_reducible apply hostRefused_same
    | with_reducible apply journalWm_same

theorem execMailboxInWrite_same {ch : Fin 16} {trust : Bool} {val : W64} {s : State} {s1 : State} (h : execMailboxInWrite ch trust val s = .next s1) : Same 552440299520 s s1 := by
  have hK : 552440299520 &&& 552440299520 = 552440299520 := rfl
  have hZ := Same.refl 552440299520 s
  unfold execMailboxInWrite at h
  repeat' first
    | extract_lets at h
    | (injection h with h; subst h)
    | split at h
    | cases h
    | extract_lets
    | with_reducible assumption
    | exact sub_trans rfl hK
    | exact bit_of rfl hK
    | split
    | with_reducible apply boxIn_same
    | with_reducible apply emit_same
    | with_reducible apply hostRefused_same

theorem execMailboxOutWrite_same {ch : Fin 16} {val : W64} {s : State} {s1 : State} (h : execMailboxOutWrite ch val s = .next s1) : Same 2147483648 s s1 := by
  have hK : 2147483648 &&& 2147483648 = 2147483648 := rfl
  have hZ := Same.refl 2147483648 s
  unfold execMailboxOutWrite at h
  repeat' first
    | extract_lets at h
    | (injection h with h; subst h)
    | split at h
    | cases h
    | extract_lets
    | with_reducible assumption
    | exact sub_trans rfl hK
    | exact bit_of rfl hK
    | split
    | with_reducible apply boxOut_same

theorem execMailboxTakeInbound_same {ch : Fin 16} {s : State} {s1 : State} (h : execMailboxTakeInbound ch s = .next s1) : Same 2147483648 s s1 := by
  have hK : 2147483648 &&& 2147483648 = 2147483648 := rfl
  have hZ := Same.refl 2147483648 s
  unfold execMailboxTakeInbound at h
  repeat' first
    | extract_lets at h
    | (injection h with h; subst h)
    | split at h
    | cases h
    | extract_lets
    | with_reducible assumption
    | exact sub_trans rfl hK
    | exact bit_of rfl hK
    | split
    | with_reducible apply boxTakeIn_same

theorem execMailboxTakeOutbound_same {ch : Fin 16} {trust : Bool} {s : State} {s1 : State} (h : execMailboxTakeOutbound ch trust s = .next s1) : Same 552440299520 s s1 := by
  have hK : 552440299520 &&& 552440299520 = 552440299520 := rfl
  have hZ := Same.refl 552440299520 s
  unfold execMailboxTakeOutbound at h
  repeat' first
    | extract_lets at h
    | (injection h with h; subst h)
    | split at h
    | cases h
    | extract_lets
    | with_reducible assumption
    | exact sub_trans rfl hK
    | exact bit_of rfl hK
    | split
    | with_reducible apply boxTakeOut_same
    | with_reducible apply emit_same
    | with_reducible apply hostRefused_same

theorem execWatchdogExpiry_same {cid : Nat} {s : State} {s1 : State} (h : execWatchdogExpiry cid s = .next s1) : Same 903931104220 s s1 := by
  have hK : 903931104220 &&& 903931104220 = 903931104220 := rfl
  have hZ := Same.refl 903931104220 s
  unfold execWatchdogExpiry at h
  repeat' first
    | extract_lets at h
    | (injection h with h; subst h)
    | split at h
    | cases h
    | extract_lets
    | with_reducible assumption
    | exact sub_trans rfl hK
    | exact bit_of rfl hK
    | split
    | with_reducible apply endCmd_same
    | with_reducible apply retime_same
    | dsimp +zetaDelta only

theorem execDeadlineExpiry_same {cid : Nat} {s : State} {s1 : State} (h : execDeadlineExpiry cid s = .next s1) : Same 903931104220 s s1 := by
  have hK : 903931104220 &&& 903931104220 = 903931104220 := rfl
  have hZ := Same.refl 903931104220 s
  unfold execDeadlineExpiry at h
  repeat' first
    | extract_lets at h
    | (injection h with h; subst h)
    | split at h
    | cases h
    | extract_lets
    | with_reducible assumption
    | exact sub_trans rfl hK
    | exact bit_of rfl hK
    | split
    | with_reducible apply endCmd_same
    | with_reducible apply retime_same
    | dsimp +zetaDelta only

theorem execStopTimeout_same {cid : Nat} {s : State} {s1 : State} (h : execStopTimeout cid s = .next s1) : Same 903931104220 s s1 := by
  have hK : 903931104220 &&& 903931104220 = 903931104220 := rfl
  have hZ := Same.refl 903931104220 s
  unfold execStopTimeout at h
  repeat' first
    | extract_lets at h
    | (injection h with h; subst h)
    | split at h
    | cases h
    | extract_lets
    | with_reducible assumption
    | exact sub_trans rfl hK
    | exact bit_of rfl hK
    | split
    | with_reducible apply recoverCtx_same

theorem execFenceDrainExpiry_same {h : Fin 8} {s : State} {s1 : State} (h : execFenceDrainExpiry h s = .next s1) : Same 903931104220 s s1 := by
  have hK : 903931104220 &&& 903931104220 = 903931104220 := rfl
  have hZ := Same.refl 903931104220 s
  unfold execFenceDrainExpiry at h
  repeat' first
    | extract_lets at h
    | (injection h with h; subst h)
    | split at h
    | cases h
    | extract_lets
    | with_reducible assumption
    | exact sub_trans rfl hK
    | exact bit_of rfl hK
    | split
    | with_reducible apply cutRequests_same
    | with_reducible apply updHide_same
    | with_reducible apply Same.foldl
    | intro _
    | dsimp +zetaDelta only

theorem execComputePartReset_same {h : Fin 8} {trigger : Fin 5} {s : State} {s1 : State} (h : execComputePartReset h trigger s = .next s1) : Same 903931104220 s s1 := by
  have hK : 903931104220 &&& 903931104220 = 903931104220 := rfl
  have hZ := Same.refl 903931104220 s
  unfold execComputePartReset at h
  repeat' first
    | extract_lets at h
    | (injection h with h; subst h)
    | split at h
    | cases h
    | extract_lets
    | with_reducible assumption
    | exact sub_trans rfl hK
    | exact bit_of rfl hK
    | split
    | with_reducible apply latchIn_same
    | with_reducible apply startReset_same

theorem execSelfTestEnd_same {h : Fin 8} {failing : List (Fin 272)} {s : State} {s1 : State} (h : execSelfTestEnd h failing s = .next s1) : Same 942585809884 s s1 := by
  have hK : 942585809884 &&& 942585809884 = 942585809884 := rfl
  have hZ := Same.refl 942585809884 s
  unfold execSelfTestEnd at h
  repeat' first
    | extract_lets at h
    | (injection h with h; subst h)
    | split at h
    | cases h
    | extract_lets
    | with_reducible assumption
    | exact sub_trans rfl hK
    | exact bit_of rfl hK
    | split
    | with_reducible apply testPosition_same
    | with_reducible apply Same.foldl
    | intro _

theorem execComputePartResetEnd_same {h : Fin 8} {s : State} {s1 : State} (h : execComputePartResetEnd h s = .next s1) : Same 942594243580 s s1 := by
  have hK : 942594243580 &&& 942594243580 = 942594243580 := rfl
  have hZ := Same.refl 942594243580 s
  unfold execComputePartResetEnd at h
  repeat' first
    | extract_lets at h
    | (injection h with h; subst h)
    | split at h
    | cases h
    | extract_lets
    | with_reducible assumption
    | exact sub_trans rfl hK
    | exact bit_of rfl hK
    | split
    | with_reducible apply afterRecovery_same
    | with_reducible apply endReset_same

theorem execComputePartResetTimeout_same {h : Fin 8} {s : State} {s1 : State} (h : execComputePartResetTimeout h s = .next s1) : Same 942585854972 s s1 := by
  have hK : 942585854972 &&& 942585854972 = 942585854972 := rfl
  have hZ := Same.refl 942585854972 s
  unfold execComputePartResetTimeout at h
  repeat' first
    | extract_lets at h
    | (injection h with h; subst h)
    | split at h
    | cases h
    | extract_lets
    | with_reducible assumption
    | exact sub_trans rfl hK
    | exact bit_of rfl hK
    | split
    | with_reducible apply startFull_same

theorem execHideKeyGenerated_same {h : Fin 8} {s : State} {s1 : State} (h : execHideKeyGenerated h s = .next s1) : Same 942594243580 s s1 := by
  have hK : 942594243580 &&& 942594243580 = 942594243580 := rfl
  have hZ := Same.refl 942594243580 s
  unfold execHideKeyGenerated at h
  repeat' first
    | extract_lets at h
    | (injection h with h; subst h)
    | split at h
    | cases h
    | extract_lets
    | with_reducible assumption
    | exact sub_trans rfl hK
    | exact bit_of rfl hK
    | split
    | with_reducible apply afterRecovery_same
    | with_reducible apply drawKey_same
    | with_reducible apply endFull_same
    | with_reducible apply updHide_same
    | dsimp +zetaDelta only

theorem execHideScrubEnd_same {h : Fin 8} {s : State} {s1 : State} (h : execHideScrubEnd h s = .next s1) : Same 942594243580 s s1 := by
  have hK : 942594243580 &&& 942594243580 = 942594243580 := rfl
  have hZ := Same.refl 942594243580 s
  unfold execHideScrubEnd at h
  repeat' first
    | extract_lets at h
    | (injection h with h; subst h)
    | split at h
    | cases h
    | extract_lets
    | with_reducible assumption
    | exact sub_trans rfl hK
    | exact bit_of rfl hK
    | split
    | with_reducible apply afterRecovery_same
    | with_reducible apply endFull_same
    | with_reducible apply Same.scrubbed_upd
    | dsimp +zetaDelta only

theorem execKodRead_same {r : KodReq} {s : State} {s1 : State} (h : execKodRead r s = .next s1) : Same 959790889980 s s1 := by
  have hK : 959790889980 &&& 959790889980 = 959790889980 := rfl
  have hZ := Same.refl 959790889980 s
  unfold execKodRead at h
  repeat' first
    | extract_lets at h
    | (injection h with h; subst h)
    | split at h
    | cases h
    | extract_lets
    | with_reducible assumption
    | exact sub_trans rfl hK
    | exact bit_of rfl hK
    | split
    | with_reducible apply kodRequest_same

theorem execKodWrite_same {r : KodReq} {s : State} {s1 : State} (h : execKodWrite r s = .next s1) : Same 959790889980 s s1 := by
  have hK : 959790889980 &&& 959790889980 = 959790889980 := rfl
  have hZ := Same.refl 959790889980 s
  unfold execKodWrite at h
  repeat' first
    | extract_lets at h
    | (injection h with h; subst h)
    | split at h
    | cases h
    | extract_lets
    | with_reducible assumption
    | exact sub_trans rfl hK
    | exact bit_of rfl hK
    | split
    | with_reducible apply kodRequest_same

theorem execKodDescribe_same {r : KodReq} {s : State} {s1 : State} (h : execKodDescribe r s = .next s1) : Same 959790889980 s s1 := by
  have hK : 959790889980 &&& 959790889980 = 959790889980 := rfl
  have hZ := Same.refl 959790889980 s
  unfold execKodDescribe at h
  repeat' first
    | extract_lets at h
    | (injection h with h; subst h)
    | split at h
    | cases h
    | extract_lets
    | with_reducible assumption
    | exact sub_trans rfl hK
    | exact bit_of rfl hK
    | split
    | with_reducible apply kodRequest_same

theorem execMctpControl_same {eid : Option Byte} {s : State} {s1 : State} (h : execMctpControl eid s = .next s1) : Same 554050781184 s s1 := by
  have hK : 554050781184 &&& 554050781184 = 554050781184 := rfl
  have hZ := Same.refl 554050781184 s
  unfold execMctpControl at h
  repeat' first
    | extract_lets at h
    | (injection h with h; subst h)
    | split at h
    | cases h
    | extract_lets
    | with_reducible assumption
    | exact sub_trans rfl hK
    | exact bit_of rfl hK
    | split
    | with_reducible apply emit_same
    | with_reducible apply Same.kod_upd

theorem execProfileSwitch_same {src : KodSrc} {val : Byte} {s : State} {s1 : State} (h : execProfileSwitch src val s = .next s1) : Same 959790889980 s s1 := by
  have hK : 959790889980 &&& 959790889980 = 959790889980 := rfl
  have hZ := Same.refl 959790889980 s
  unfold execProfileSwitch at h
  repeat' first
    | extract_lets at h
    | (injection h with h; subst h)
    | split at h
    | cases h
    | extract_lets
    | with_reducible assumption
    | exact sub_trans rfl hK
    | exact bit_of rfl hK
    | split
    | with_reducible apply kodRequest_same

theorem execProfileCopy_same {src : KodSrc} {val : W16} {s : State} {s1 : State} (h : execProfileCopy src val s = .next s1) : Same 959790889980 s s1 := by
  have hK : 959790889980 &&& 959790889980 = 959790889980 := rfl
  have hZ := Same.refl 959790889980 s
  unfold execProfileCopy at h
  repeat' first
    | extract_lets at h
    | (injection h with h; subst h)
    | split at h
    | cases h
    | extract_lets
    | with_reducible assumption
    | exact sub_trans rfl hK
    | exact bit_of rfl hK
    | split
    | with_reducible apply kodRequest_same

theorem execFirmwareStage_same {src : KodSrc} {off : Nat} {data : List Byte} {s : State} {s1 : State} (h : execFirmwareStage src off data s = .next s1) : Same 959790889980 s s1 := by
  have hK : 959790889980 &&& 959790889980 = 959790889980 := rfl
  have hZ := Same.refl 959790889980 s
  unfold execFirmwareStage at h
  repeat' first
    | extract_lets at h
    | (injection h with h; subst h)
    | split at h
    | cases h
    | extract_lets
    | with_reducible assumption
    | exact sub_trans rfl hK
    | exact bit_of rfl hK
    | split
    | with_reducible apply kodRequest_same

theorem execFirmwareCommit_same {src : KodSrc} {crc : W32} {s : State} {s1 : State} (h : execFirmwareCommit src crc s = .next s1) : Same 959790889980 s s1 := by
  have hK : 959790889980 &&& 959790889980 = 959790889980 := rfl
  have hZ := Same.refl 959790889980 s
  unfold execFirmwareCommit at h
  repeat' first
    | extract_lets at h
    | (injection h with h; subst h)
    | split at h
    | cases h
    | extract_lets
    | with_reducible assumption
    | exact sub_trans rfl hK
    | exact bit_of rfl hK
    | split
    | with_reducible apply kodRequest_same

theorem execShiftProgramStage_same {src : KodSrc} {h : Fin 8} {off : Nat} {data : List Byte} {s : State} {s1 : State} (h : execShiftProgramStage src h off data s = .next s1) : Same 959790889980 s s1 := by
  have hK : 959790889980 &&& 959790889980 = 959790889980 := rfl
  have hZ := Same.refl 959790889980 s
  unfold execShiftProgramStage at h
  repeat' first
    | extract_lets at h
    | (injection h with h; subst h)
    | split at h
    | cases h
    | extract_lets
    | with_reducible assumption
    | exact sub_trans rfl hK
    | exact bit_of rfl hK
    | split
    | with_reducible apply kodRequest_same

theorem execShiftProgramCommit_same {src : KodSrc} {h : Fin 8} {val : W32} {s : State} {s1 : State} (h : execShiftProgramCommit src h val s = .next s1) : Same 959790889980 s s1 := by
  have hK : 959790889980 &&& 959790889980 = 959790889980 := rfl
  have hZ := Same.refl 959790889980 s
  unfold execShiftProgramCommit at h
  repeat' first
    | extract_lets at h
    | (injection h with h; subst h)
    | split at h
    | cases h
    | extract_lets
    | with_reducible assumption
    | exact sub_trans rfl hK
    | exact bit_of rfl hK
    | split
    | with_reducible apply kodRequest_same

theorem execShiftProgramStore_same {src : KodSrc} {h : Fin 8} {s : State} {s1 : State} (h : execShiftProgramStore src h s = .next s1) : Same 959790889980 s s1 := by
  have hK : 959790889980 &&& 959790889980 = 959790889980 := rfl
  have hZ := Same.refl 959790889980 s
  unfold execShiftProgramStore at h
  repeat' first
    | extract_lets at h
    | (injection h with h; subst h)
    | split at h
    | cases h
    | extract_lets
    | with_reducible assumption
    | exact sub_trans rfl hK
    | exact bit_of rfl hK
    | split
    | with_reducible apply kodRequest_same

theorem execHideReset_same {src : KodSrc} {h : Fin 8} {kind : Byte} {s : State} {s1 : State} (h : execHideReset src h kind s = .next s1) : Same 959790889980 s s1 := by
  have hK : 959790889980 &&& 959790889980 = 959790889980 := rfl
  have hZ := Same.refl 959790889980 s
  unfold execHideReset at h
  repeat' first
    | extract_lets at h
    | (injection h with h; subst h)
    | split at h
    | cases h
    | extract_lets
    | with_reducible assumption
    | exact sub_trans rfl hK
    | exact bit_of rfl hK
    | split
    | with_reducible apply kodRequest_same

theorem execPendingLiveApply_same {idx : Nat} {sub : Nat} {s : State} {s1 : State} (h : execPendingLiveApply idx sub s = .next s1) : Same 580923689692 s s1 := by
  have hK : 580923689692 &&& 580923689692 = 580923689692 := rfl
  have hZ := Same.refl 580923689692 s
  unfold execPendingLiveApply at h
  repeat' first
    | extract_lets at h
    | (injection h with h; subst h)
    | split at h
    | cases h
    | extract_lets
    | with_reducible assumption
    | exact sub_trans rfl hK
    | exact bit_of rfl hK
    | split
    | with_reducible apply setLive_same

theorem execConfigStoreCommit_same {ok : Bool} {s : State} {s1 : State} (h : execConfigStoreCommit ok s = .next s1) : Same 562640715996 s s1 := by
  have hK : 562640715996 &&& 562640715996 = 562640715996 := rfl
  have hZ := Same.refl 562640715996 s
  unfold execConfigStoreCommit at h
  repeat' first
    | extract_lets at h
    | (injection h with h; subst h)
    | split at h
    | cases h
    | extract_lets
    | with_reducible assumption
    | exact sub_trans rfl hK
    | exact bit_of rfl hK
    | split
    | with_reducible apply storeAlarm_same
    | with_reducible apply writeCopy_same
    | with_reducible apply writeHeader_same
    | with_reducible apply Same.foldl
    | with_reducible apply Same.kod_upd
    | intro _
    | dsimp +zetaDelta only

theorem execJournalMirrorCopy_same {ok : Bool} {s : State} {s1 : State} (h : execJournalMirrorCopy ok s = .next s1) : Same 558345748700 s s1 := by
  have hK : 558345748700 &&& 558345748700 = 558345748700 := rfl
  have hZ := Same.refl 558345748700 s
  unfold execJournalMirrorCopy at h
  repeat' first
    | extract_lets at h
    | (injection h with h; subst h)
    | split at h
    | cases h
    | extract_lets
    | with_reducible assumption
    | exact sub_trans rfl hK
    | exact bit_of rfl hK
    | split
    | with_reducible apply flashErase_same
    | with_reducible apply flashProgram_same
    | with_reducible apply flashRead_same
    | with_reducible apply storeAlarm_same
    | with_reducible apply Same.ao_upd
    | dsimp +zetaDelta only

theorem execPaceMeasurement_same {rates : List Nat} {s : State} {s1 : State} (h : execPaceMeasurement rates s = .next s1) : Same 566935683072 s s1 := by
  have hK : 566935683072 &&& 566935683072 = 566935683072 := rfl
  have hZ := Same.refl 566935683072 s
  unfold execPaceMeasurement at h
  repeat' first
    | extract_lets at h
    | (injection h with h; subst h)
    | split at h
    | cases h
    | extract_lets
    | with_reducible assumption
    | exact sub_trans rfl hK
    | exact bit_of rfl hK
    | split
    | with_reducible apply askVdd_same
    | with_reducible apply updGov_same
    | dsimp +zetaDelta only

theorem execAvsRequest_same {ok : Bool} {s : State} {s1 : State} (h : execAvsRequest ok s = .next s1) : Same 567472685060 s s1 := by
  have hK : 567472685060 &&& 567472685060 = 567472685060 := rfl
  have hZ := Same.refl 567472685060 s
  unfold execAvsRequest at h
  repeat' first
    | extract_lets at h
    | (injection h with h; subst h)
    | split at h
    | cases h
    | extract_lets
    | with_reducible assumption
    | exact sub_trans rfl hK
    | exact bit_of rfl hK
    | split
    | with_reducible apply askVdd_same
    | with_reducible apply avsFail_same
    | with_reducible apply updGov_same
    | dsimp +zetaDelta only

theorem execFloorMiss_same {s : State} {s1 : State} (h : execFloorMiss s = .next s1) : Same 17716871172 s s1 := by
  have hK : 17716871172 &&& 17716871172 = 17716871172 := rfl
  have hZ := Same.refl 17716871172 s
  unfold execFloorMiss at h
  repeat' first
    | extract_lets at h
    | (injection h with h; subst h)
    | split at h
    | cases h
    | extract_lets
    | with_reducible assumption
    | exact sub_trans rfl hK
    | exact bit_of rfl hK
    | split
    | with_reducible apply latchIn_same
    | with_reducible apply updGov_same

theorem execAvsReadback_same {ok : Bool} {volt : Nat} {cur : Nat} {stat : Nat} {temp : Option Int} {s : State} {s1 : State} (h : execAvsReadback ok volt cur stat temp s = .next s1) : Same 17716871172 s s1 := by
  have hK : 17716871172 &&& 17716871172 = 17716871172 := rfl
  have hZ := Same.refl 17716871172 s
  unfold execAvsReadback at h
  repeat' first
    | extract_lets at h
    | (injection h with h; subst h)
    | split at h
    | cases h
    | extract_lets
    | with_reducible assumption
    | exact sub_trans rfl hK
    | exact bit_of rfl hK
    | split
    | with_reducible apply avsFail_same
    | with_reducible apply updGov_same

theorem execAvsRetry_same {ok : Bool} {s : State} {s1 : State} (h : execAvsRetry ok s = .next s1) : Same 17716871172 s s1 := by
  have hK : 17716871172 &&& 17716871172 = 17716871172 := rfl
  have hZ := Same.refl 17716871172 s
  unfold execAvsRetry at h
  repeat' first
    | extract_lets at h
    | (injection h with h; subst h)
    | split at h
    | cases h
    | extract_lets
    | with_reducible assumption
    | exact sub_trans rfl hK
    | exact bit_of rfl hK
    | split
    | with_reducible apply avsFail_same
    | with_reducible apply updGov_same

theorem execPowerCapAdjust_same {rest : Nat} {s : State} {s1 : State} (h : execPowerCapAdjust rest s = .next s1) : Same 17179869184 s s1 := by
  have hK : 17179869184 &&& 17179869184 = 17179869184 := rfl
  have hZ := Same.refl 17179869184 s
  unfold execPowerCapAdjust at h
  repeat' first
    | extract_lets at h
    | (injection h with h; subst h)
    | split at h
    | cases h
    | extract_lets
    | with_reducible assumption
    | exact sub_trans rfl hK
    | exact bit_of rfl hK
    | split
    | with_reducible apply capDown_same
    | with_reducible apply capUp_same
    | with_reducible apply updGov_same
    | dsimp +zetaDelta only

theorem execThermalSample_same {tj : Int} {s : State} {s1 : State} (h : execThermalSample tj s = .next s1) : Same 959765724156 s s1 := by
  have hK : 959765724156 &&& 959765724156 = 959765724156 := rfl
  have hZ := Same.refl 959765724156 s
  unfold execThermalSample at h
  repeat' first
    | extract_lets at h
    | (injection h with h; subst h)
    | split at h
    | cases h
    | extract_lets
    | with_reducible assumption
    | exact sub_trans rfl hK
    | exact bit_of rfl hK
    | split
    | with_reducible apply trip_same
    | with_reducible apply untrip_same
    | with_reducible apply updGov_same
    | dsimp +zetaDelta only

theorem execFurlongSleep_same {f : Fin 16} {s : State} {s1 : State} (h : execFurlongSleep f s = .next s1) : Same 34359869440 s s1 := by
  have hK : 34359869440 &&& 34359869440 = 34359869440 := rfl
  have hZ := Same.refl 34359869440 s
  unfold execFurlongSleep at h
  repeat' first
    | extract_lets at h
    | (injection h with h; subst h)
    | split at h
    | cases h
    | extract_lets
    | with_reducible assumption
    | exact sub_trans rfl hK
    | exact bit_of rfl hK
    | split
    | with_reducible apply updCore_same
    | with_reducible apply updPow_same
    | with_reducible apply Same.foldl
    | intro _
    | dsimp +zetaDelta only

theorem execFurlongWake_same {f : Fin 16} {s : State} {s1 : State} (h : execFurlongWake f s = .next s1) : Same 34359738368 s s1 := by
  have hK : 34359738368 &&& 34359738368 = 34359738368 := rfl
  have hZ := Same.refl 34359738368 s
  unfold execFurlongWake at h
  repeat' first
    | extract_lets at h
    | (injection h with h; subst h)
    | split at h
    | cases h
    | extract_lets
    | with_reducible assumption
    | exact sub_trans rfl hK
    | exact bit_of rfl hK
    | split
    | with_reducible apply updPow_same

theorem execRtcTrim_same {s : State} {s1 : State} (h : execRtcTrim s = .next s1) : Same 0 s s1 := by
  have hK : 0 &&& 0 = 0 := rfl
  have hZ := Same.refl 0 s
  unfold execRtcTrim at h
  repeat' first
    | extract_lets at h
    | (injection h with h; subst h)
    | split at h
    | cases h
    | extract_lets
    | with_reducible assumption
    | exact sub_trans rfl hK
    | exact bit_of rfl hK
    | split

theorem execTimeRefLoss_same {s : State} {s1 : State} (h : execTimeRefLoss s = .next s1) : Same 34896740356 s s1 := by
  have hK : 34896740356 &&& 34896740356 = 34896740356 := rfl
  have hZ := Same.refl 34896740356 s
  unfold execTimeRefLoss at h
  repeat' first
    | extract_lets at h
    | (injection h with h; subst h)
    | split at h
    | cases h
    | extract_lets
    | with_reducible assumption
    | exact sub_trans rfl hK
    | exact bit_of rfl hK
    | split
    | with_reducible apply latchIn_same
    | with_reducible apply updPow_same

theorem execPowerLossAlarm_same {s : State} {s1 : State} (h : execPowerLossAlarm s = .next s1) : Same 549755813822 s s1 := by
  have hK : 549755813822 &&& 549755813822 = 549755813822 := rfl
  have hZ := Same.refl 549755813822 s
  unfold execPowerLossAlarm at h
  repeat' first
    | extract_lets at h
    | (injection h with h; subst h)
    | split at h
    | cases h
    | extract_lets
    | with_reducible assumption
    | exact sub_trans rfl hK
    | exact bit_of rfl hK
    | split
    | with_reducible apply aoAlarm_same
    | with_reducible apply wipe_same

theorem execVbatLow_same {s : State} {s1 : State} (h : execVbatLow s = .next s1) : Same 43486674948 s s1 := by
  have hK : 43486674948 &&& 43486674948 = 43486674948 := rfl
  have hZ := Same.refl 43486674948 s
  unfold execVbatLow at h
  repeat' first
    | extract_lets at h
    | (injection h with h; subst h)
    | split at h
    | cases h
    | extract_lets
    | with_reducible assumption
    | exact sub_trans rfl hK
    | exact bit_of rfl hK
    | split
    | with_reducible apply aoAlarm_same
    | with_reducible apply updPow_same

theorem execTamper_same {s : State} {s1 : State} (h : execTamper s = .next s1) : Same 43490869308 s s1 := by
  have hK : 43490869308 &&& 43490869308 = 43490869308 := rfl
  have hZ := Same.refl 43490869308 s
  unfold execTamper at h
  repeat' first
    | extract_lets at h
    | (injection h with h; subst h)
    | split at h
    | cases h
    | extract_lets
    | with_reducible assumption
    | exact sub_trans rfl hK
    | exact bit_of rfl hK
    | split
    | with_reducible apply aoAlarm_same
    | with_reducible apply updHide_same
    | with_reducible apply updPow_same
    | with_reducible apply zeroiseAll_same
    | with_reducible apply Same.foldl
    | intro _
    | dsimp +zetaDelta only

theorem execAlarmPosting_same {s : State} {s1 : State} (h : execAlarmPosting s = .next s1) : Same 558345748696 s s1 := by
  have hK : 558345748696 &&& 558345748696 = 558345748696 := rfl
  have hZ := Same.refl 558345748696 s
  unfold execAlarmPosting at h
  repeat' first
    | extract_lets at h
    | (injection h with h; subst h)
    | split at h
    | cases h
    | extract_lets
    | with_reducible assumption
    | exact sub_trans rfl hK
    | exact bit_of rfl hK
    | split
    | with_reducible apply postAlarms_same

theorem execEntropyReady_same {s : State} {s1 : State} (h : execEntropyReady s = .next s1) : Same 34896740356 s s1 := by
  have hK : 34896740356 &&& 34896740356 = 34896740356 := rfl
  have hZ := Same.refl 34896740356 s
  unfold execEntropyReady at h
  repeat' first
    | extract_lets at h
    | (injection h with h; subst h)
    | split at h
    | cases h
    | extract_lets
    | with_reducible assumption
    | exact sub_trans rfl hK
    | exact bit_of rfl hK
    | split
    | with_reducible apply latchIn_same
    | with_reducible apply updPow_same

theorem execEntropyHealthFailure_same {s : State} {s1 : State} (h : execEntropyHealthFailure s = .next s1) : Same 34896740356 s s1 := by
  have hK : 34896740356 &&& 34896740356 = 34896740356 := rfl
  have hZ := Same.refl 34896740356 s
  unfold execEntropyHealthFailure at h
  repeat' first
    | extract_lets at h
    | (injection h with h; subst h)
    | split at h
    | cases h
    | extract_lets
    | with_reducible assumption
    | exact sub_trans rfl hK
    | exact bit_of rfl hK
    | split
    | with_reducible apply latchIn_same
    | with_reducible apply updPow_same

theorem execDebugRequest_same {s : State} {s1 : State} (h : execDebugRequest s = .next s1) : Same 34363932728 s s1 := by
  have hK : 34363932728 &&& 34363932728 = 34363932728 := rfl
  have hZ := Same.refl 34363932728 s
  unfold execDebugRequest at h
  repeat' first
    | extract_lets at h
    | (injection h with h; subst h)
    | split at h
    | cases h
    | extract_lets
    | with_reducible assumption
    | exact sub_trans rfl hK
    | exact bit_of rfl hK
    | split
    | with_reducible apply updPow_same
    | with_reducible apply zeroiseAll_same

theorem execDebugOpen_same {s : State} {s1 : State} (h : execDebugOpen s = .next s1) : Same 38770031360 s s1 := by
  have hK : 38770031360 &&& 38770031360 = 38770031360 := rfl
  have hZ := Same.refl 38770031360 s
  unfold execDebugOpen at h
  repeat' first
    | extract_lets at h
    | (injection h with h; subst h)
    | split at h
    | cases h
    | extract_lets
    | with_reducible assumption
    | exact sub_trans rfl hK
    | exact bit_of rfl hK
    | split
    | with_reducible apply scrubSram_same
    | with_reducible apply updPow_same

theorem execClockedTestMode_same {mult : Option (Fin 10)} {s : State} {s1 : State} (h : execClockedTestMode mult s = .next s1) : Same 34359738368 s s1 := by
  have hK : 34359738368 &&& 34359738368 = 34359738368 := rfl
  have hZ := Same.refl 34359738368 s
  unfold execClockedTestMode at h
  repeat' first
    | extract_lets at h
    | (injection h with h; subst h)
    | split at h
    | cases h
    | extract_lets
    | with_reducible assumption
    | exact sub_trans rfl hK
    | exact bit_of rfl hK
    | split
    | with_reducible apply updPow_same

theorem execTapBypass_same {s : State} {s1 : State} (h : execTapBypass s = .next s1) : Same 584115552256 s s1 := by
  have hK : 584115552256 &&& 584115552256 = 584115552256 := rfl
  have hZ := Same.refl 584115552256 s
  unfold execTapBypass at h
  repeat' first
    | extract_lets at h
    | (injection h with h; subst h)
    | split at h
    | cases h
    | extract_lets
    | with_reducible assumption
    | exact sub_trans rfl hK
    | exact bit_of rfl hK
    | split
    | with_reducible apply emit_same
    | with_reducible apply updPow_same

theorem execTapIdcode_same {s : State} {s1 : State} (h : execTapIdcode s = .next s1) : Same 584115552256 s s1 := by
  have hK : 584115552256 &&& 584115552256 = 584115552256 := rfl
  have hZ := Same.refl 584115552256 s
  unfold execTapIdcode at h
  repeat' first
    | extract_lets at h
    | (injection h with h; subst h)
    | split at h
    | cases h
    | extract_lets
    | with_reducible assumption
    | exact sub_trans rfl hK
    | exact bit_of rfl hK
    | split
    | with_reducible apply emit_same
    | with_reducible apply updPow_same

theorem execPowerOnReset_same {profsel : BitVec 2} {s : State} {s1 : State} (h : execPowerOnReset profsel s = .next s1) : Same 1099511627706 s s1 := by
  have hK : 1099511627706 &&& 1099511627706 = 1099511627706 := rfl
  have hZ := Same.refl 1099511627706 s
  unfold execPowerOnReset at h
  repeat' first
    | extract_lets at h
    | (injection h with h; subst h)
    | split at h
    | cases h
    | extract_lets
    | with_reducible assumption
    | exact sub_trans rfl hK
    | exact bit_of rfl hK
    | split
    | with_reducible apply deassert_same
    | with_reducible apply wipe_same

theorem execWarmReset_same {profsel : BitVec 2} {s : State} {s1 : State} (h : execWarmReset profsel s = .next s1) : Same 1099511627706 s s1 := by
  have hK : 1099511627706 &&& 1099511627706 = 1099511627706 := rfl
  have hZ := Same.refl 1099511627706 s
  unfold execWarmReset at h
  repeat' first
    | extract_lets at h
    | (injection h with h; subst h)
    | split at h
    | cases h
    | extract_lets
    | with_reducible assumption
    | exact sub_trans rfl hK
    | exact bit_of rfl hK
    | split
    | with_reducible apply deassert_same
    | with_reducible apply wipe_same

theorem execFirmwareStart_same {s : State} {s1 : State} (h : execFirmwareStart s = .next s1) : Same 959790889980 s s1 := by
  have hK : 959790889980 &&& 959790889980 = 959790889980 := rfl
  have hZ := Same.refl 959790889980 s
  unfold execFirmwareStart at h
  repeat' first
    | extract_lets at h
    | (injection h with h; subst h)
    | split at h
    | cases h
    | extract_lets
    | with_reducible assumption
    | exact sub_trans rfl hK
    | exact bit_of rfl hK
    | split
    | with_reducible apply activate_same
    | with_reducible apply fallback_same
    | with_reducible apply latchHigh_same
    | with_reducible apply loadProfiles_same
    | with_reducible apply pickFirmware_same
    | with_reducible apply powerUp_same
    | with_reducible apply readStore_same
    | with_reducible apply serveStored_same
    | with_reducible apply startControl_same
    | with_reducible apply updPow_same
    | with_reducible apply Same.ao_upd
    | dsimp +zetaDelta only

theorem execHideStart_same {h : Fin 8} {s : State} {s1 : State} (h : execHideStart h s = .next s1) : Same 584656748728 s s1 := by
  have hK : 584656748728 &&& 584656748728 = 584656748728 := rfl
  have hZ := Same.refl 584656748728 s
  unfold execHideStart at h
  repeat' first
    | extract_lets at h
    | (injection h with h; subst h)
    | split at h
    | cases h
    | extract_lets
    | with_reducible assumption
    | exact sub_trans rfl hK
    | exact bit_of rfl hK
    | split
    | with_reducible apply startHide_same

theorem execFirmwareRestart_same {cc : Fin 4} {s : State} {s1 : State} (h : execFirmwareRestart cc s = .next s1) : Same 45634158596 s s1 := by
  have hK : 45634158596 &&& 45634158596 = 45634158596 := rfl
  have hZ := Same.refl 45634158596 s
  unfold execFirmwareRestart at h
  repeat' first
    | extract_lets at h
    | (injection h with h; subst h)
    | split at h
    | cases h
    | extract_lets
    | with_reducible assumption
    | exact sub_trans rfl hK
    | exact bit_of rfl hK
    | split
    | with_reducible apply restartFirmware_same

theorem execStackPortReady_same {p : Fin 12} {s : State} {s1 : State} (h : execStackPortReady p s = .next s1) : Same 1080024808444 s s1 := by
  have hK : 1080024808444 &&& 1080024808444 = 1080024808444 := rfl
  have hZ := Same.refl 1080024808444 s
  unfold execStackPortReady at h
  repeat' first
    | extract_lets at h
    | (injection h with h; subst h)
    | split at h
    | cases h
    | extract_lets
    | with_reducible assumption
    | exact sub_trans rfl hK
    | exact bit_of rfl hK
    | split
    | with_reducible apply startFull_same
    | with_reducible apply updHide_same
    | with_reducible apply updSport_same
    | dsimp +zetaDelta only

theorem execStackPortDown_same {p : Fin 12} {s : State} {s1 : State} (h : execStackPortDown p s = .next s1) : Same 1080024808444 s s1 := by
  have hK : 1080024808444 &&& 1080024808444 = 1080024808444 := rfl
  have hZ := Same.refl 1080024808444 s
  unfold execStackPortDown at h
  repeat' first
    | extract_lets at h
    | (injection h with h; subst h)
    | split at h
    | cases h
    | extract_lets
    | with_reducible assumption
    | exact sub_trans rfl hK
    | exact bit_of rfl hK
    | split
    | with_reducible apply latchIn_same
    | with_reducible apply loadErr_same
    | with_reducible apply stackRecord_same
    | with_reducible apply startFull_same
    | with_reducible apply updHide_same
    | with_reducible apply updSport_same
    | with_reducible apply Same.foldl
    | intro _
    | dsimp +zetaDelta only

theorem execStackReadResponse_same {p : Fin 12} {lane : Fin 16} {wack : Bool} {resp : BitVec 2} {addr : BitVec 56} {who : HostWho} {s : State} {s1 : State} (h : execStackReadResponse p lane wack resp addr who s = .next s1) : Same 1080024808444 s s1 := by
  have hK : 1080024808444 &&& 1080024808444 = 1080024808444 := rfl
  have hZ := Same.refl 1080024808444 s
  unfold execStackReadResponse at h
  repeat' first
    | extract_lets at h
    | (injection h with h; subst h)
    | split at h
    | cases h
    | extract_lets
    | with_reducible assumption
    | exact sub_trans rfl hK
    | exact bit_of rfl hK
    | split
    | with_reducible apply errorTo_same
    | with_reducible apply latchIn_same
    | with_reducible apply stackRecord_same
    | with_reducible apply startFull_same
    | with_reducible apply updSport_same
    | dsimp +zetaDelta only

theorem execHostReadCompletion_same {who : HostWho} {addr : Nat} {data : List Byte} {err : Bool} {s : State} {s1 : State} (h : execHostReadCompletion who addr data err s = .next s1) : Same 903931145180 s s1 := by
  have hK : 903931145180 &&& 903931145180 = 903931145180 := rfl
  have hZ := Same.refl 903931145180 s
  unfold execHostReadCompletion at h
  repeat' first
    | extract_lets at h
    | (injection h with h; subst h)
    | split at h
    | cases h
    | extract_lets
    | with_reducible assumption
    | exact sub_trans rfl hK
    | exact bit_of rfl hK
    | split
    | with_reducible apply errorTo_same
    | with_reducible apply gotSide_same
    | with_reducible apply hostPart_same
    | with_reducible apply writeBytes_same
    | dsimp +zetaDelta only

theorem execCxlMemRequest_same {dpa : Nat} {wr : Option (List Byte)} {s : State} {s1 : State} (h : execCxlMemRequest dpa wr s = .next s1) : Same 833231653848 s s1 := by
  have hK : 833231653848 &&& 833231653848 = 833231653848 := rfl
  have hZ := Same.refl 833231653848 s
  unfold execCxlMemRequest at h
  repeat' first
    | extract_lets at h
    | (injection h with h; subst h)
    | split at h
    | cases h
    | extract_lets
    | with_reducible assumption
    | exact sub_trans rfl hK
    | exact bit_of rfl hK
    | split
    | with_reducible apply emit_same
    | with_reducible apply requestOnce_same
    | dsimp +zetaDelta only

theorem execEngineAttach_same {e : Fin 4} {id : W64} {s : State} {s1 : State} (h : execEngineAttach e id s = .next s1) : Same 68719476736 s s1 := by
  have hK : 68719476736 &&& 68719476736 = 68719476736 := rfl
  have hZ := Same.refl 68719476736 s
  unfold execEngineAttach at h
  repeat' first
    | extract_lets at h
    | (injection h with h; subst h)
    | split at h
    | cases h
    | extract_lets
    | with_reducible assumption
    | exact sub_trans rfl hK
    | exact bit_of rfl hK
    | split
    | with_reducible apply updEngine_same

theorem execEngineDetach_same {e : Fin 4} {s : State} {s1 : State} (h : execEngineDetach e s = .next s1) : Same 627069422296 s s1 := by
  have hK : 627069422296 &&& 627069422296 = 627069422296 := rfl
  have hZ := Same.refl 627069422296 s
  unfold execEngineDetach at h
  repeat' first
    | extract_lets at h
    | (injection h with h; subst h)
    | split at h
    | cases h
    | extract_lets
    | with_reducible assumption
    | exact sub_trans rfl hK
    | exact bit_of rfl hK
    | split
    | with_reducible apply complete_same
    | with_reducible apply retime_same
    | with_reducible apply updCmd_same
    | with_reducible apply updEngine_same
    | with_reducible apply Same.foldl
    | intro _
    | dsimp +zetaDelta only

theorem execEngineRequest_same {e : Fin 4} {cid : Nat} {slot : Fin 16} {off : Nat} {op : EngOp} {s : State} {s1 : State} (h : execEngineRequest e cid slot off op s = .next s1) : Same 833231653848 s s1 := by
  have hK : 833231653848 &&& 833231653848 = 833231653848 := rfl
  have hZ := Same.refl 833231653848 s
  unfold execEngineRequest at h
  repeat' first
    | extract_lets at h
    | (injection h with h; subst h)
    | split at h
    | cases h
    | extract_lets
    | with_reducible assumption
    | exact sub_trans rfl hK
    | exact bit_of rfl hK
    | split
    | with_reducible apply emit_same
    | with_reducible apply engineAccess_same
    | with_reducible apply updCmd_same
    | dsimp +zetaDelta only

theorem execEngineProgress_same {cid : Nat} {s : State} {s1 : State} (h : execEngineProgress cid s = .next s1) : Same 512 s s1 := by
  have hK : 512 &&& 512 = 512 := rfl
  have hZ := Same.refl 512 s
  unfold execEngineProgress at h
  repeat' first
    | extract_lets at h
    | (injection h with h; subst h)
    | split at h
    | cases h
    | extract_lets
    | with_reducible assumption
    | exact sub_trans rfl hK
    | exact bit_of rfl hK
    | split
    | with_reducible apply progress_same

theorem execEngineHeld_same {cid : Nat} {s : State} {s1 : State} (h : execEngineHeld cid s = .next s1) : Same 512 s s1 := by
  have hK : 512 &&& 512 = 512 := rfl
  have hZ := Same.refl 512 s
  unfold execEngineHeld at h
  repeat' first
    | extract_lets at h
    | (injection h with h; subst h)
    | split at h
    | cases h
    | extract_lets
    | with_reducible assumption
    | exact sub_trans rfl hK
    | exact bit_of rfl hK
    | split
    | with_reducible apply retime_same
    | with_reducible apply updCmd_same

theorem execEngineReleased_same {cid : Nat} {s : State} {s1 : State} (h : execEngineReleased cid s = .next s1) : Same 512 s s1 := by
  have hK : 512 &&& 512 = 512 := rfl
  have hZ := Same.refl 512 s
  unfold execEngineReleased at h
  repeat' first
    | extract_lets at h
    | (injection h with h; subst h)
    | split at h
    | cases h
    | extract_lets
    | with_reducible assumption
    | exact sub_trans rfl hK
    | exact bit_of rfl hK
    | split
    | with_reducible apply retime_same
    | with_reducible apply updCmd_same

theorem execEnginePaused_same {e : Fin 4} {ctx : Fin 16384} {s : State} {s1 : State} (h : execEnginePaused e ctx s = .next s1) : Same 68719476736 s s1 := by
  have hK : 68719476736 &&& 68719476736 = 68719476736 := rfl
  have hZ := Same.refl 68719476736 s
  unfold execEnginePaused at h
  repeat' first
    | extract_lets at h
    | (injection h with h; subst h)
    | split at h
    | cases h
    | extract_lets
    | with_reducible assumption
    | exact sub_trans rfl hK
    | exact bit_of rfl hK
    | split
    | with_reducible apply updEngine_same

theorem execEngineDrainTimeout_same {e : Fin 4} {cid : Nat} {s : State} {s1 : State} (h : execEngineDrainTimeout e cid s = .next s1) : Same 903931104220 s s1 := by
  have hK : 903931104220 &&& 903931104220 = 903931104220 := rfl
  have hZ := Same.refl 903931104220 s
  unfold execEngineDrainTimeout at h
  repeat' first
    | extract_lets at h
    | (injection h with h; subst h)
    | split at h
    | cases h
    | extract_lets
    | with_reducible assumption
    | exact sub_trans rfl hK
    | exact bit_of rfl hK
    | split
    | with_reducible apply engineRecord_same
    | with_reducible apply leaveForeign_same
    | with_reducible apply recoverCtx_same
    | with_reducible apply updEngine_same
    | dsimp +zetaDelta only

theorem execLinkPhyUp_same {p : Fin 32} {s : State} {s1 : State} (h : execLinkPhyUp p s = .next s1) : Same 833760657624 s s1 := by
  have hK : 833760657624 &&& 833760657624 = 833760657624 := rfl
  have hZ := Same.refl 833760657624 s
  unfold execLinkPhyUp at h
  repeat' first
    | extract_lets at h
    | (injection h with h; subst h)
    | split at h
    | cases h
    | extract_lets
    | with_reducible assumption
    | exact sub_trans rfl hK
    | exact bit_of rfl hK
    | split
    | with_reducible apply linkRecord_same
    | with_reducible apply linkState_same
    | with_reducible apply updLink_same
    | dsimp +zetaDelta only

theorem execLinkPhyDown_same {p : Fin 32} {s : State} {s1 : State} (h : execLinkPhyDown p s = .next s1) : Same 833760657624 s s1 := by
  have hK : 833760657624 &&& 833760657624 = 833760657624 := rfl
  have hZ := Same.refl 833760657624 s
  unfold execLinkPhyDown at h
  repeat' first
    | extract_lets at h
    | (injection h with h; subst h)
    | split at h
    | cases h
    | extract_lets
    | with_reducible assumption
    | exact sub_trans rfl hK
    | exact bit_of rfl hK
    | split
    | with_reducible apply linkDown_same
    | with_reducible apply updLink_same
    | dsimp +zetaDelta only

theorem execFlitReceive_same {p : Fin 32} {flit : BitVec 2048} {bad : Bool} {s : State} {s1 : State} (h : execFlitReceive p flit bad s = .next s1) : Same 833760657624 s s1 := by
  have hK : 833760657624 &&& 833760657624 = 833760657624 := rfl
  have hZ := Same.refl 833760657624 s
  unfold execFlitReceive at h
  repeat' first
    | extract_lets at h
    | (injection h with h; subst h)
    | split at h
    | cases h
    | extract_lets
    | with_reducible assumption
    | exact sub_trans rfl hK
    | exact bit_of rfl hK
    | split
    | with_reducible apply receiveFlit_same

theorem execLinkAckTimeout_same {p : Fin 32} {s : State} {s1 : State} (h : execLinkAckTimeout p s = .next s1) : Same 833760657624 s s1 := by
  have hK : 833760657624 &&& 833760657624 = 833760657624 := rfl
  have hZ := Same.refl 833760657624 s
  unfold execLinkAckTimeout at h
  repeat' first
    | extract_lets at h
    | (injection h with h; subst h)
    | split at h
    | cases h
    | extract_lets
    | with_reducible assumption
    | exact sub_trans rfl hK
    | exact bit_of rfl hK
    | split
    | with_reducible apply linkDown_same
    | dsimp +zetaDelta only

theorem execHelloTimer_same {p : Fin 32} {s : State} {s1 : State} (h : execHelloTimer p s = .next s1) : Same 549755813888 s s1 := by
  have hK : 549755813888 &&& 549755813888 = 549755813888 := rfl
  have hZ := Same.refl 549755813888 s
  unfold execHelloTimer at h
  repeat' first
    | extract_lets at h
    | (injection h with h; subst h)
    | split at h
    | cases h
    | extract_lets
    | with_reducible assumption
    | exact sub_trans rfl hK
    | exact bit_of rfl hK
    | split
    | with_reducible apply emit_same

theorem execHello_same {p : Fin 32} {node : BitVec 14} {port : Fin 32} {crc : W32} {s : State} {s1 : State} (h : execHello p node port crc s = .next s1) : Same 833760657624 s s1 := by
  have hK : 833760657624 &&& 833760657624 = 833760657624 := rfl
  have hZ := Same.refl 833760657624 s
  unfold execHello at h
  repeat' first
    | extract_lets at h
    | (injection h with h; subst h)
    | split at h
    | cases h
    | extract_lets
    | with_reducible assumption
    | exact sub_trans rfl hK
    | exact bit_of rfl hK
    | split
    | with_reducible apply linkDown_same
    | with_reducible apply linkRecord_same
    | with_reducible apply linkUp_same
    | dsimp +zetaDelta only

theorem execLinkmap_same {p : Fin 32} {r : LmRec} {s : State} {s1 : State} (h : execLinkmap p r s = .next s1) : Same 833760657624 s s1 := by
  have hK : 833760657624 &&& 833760657624 = 833760657624 := rfl
  have hZ := Same.refl 833760657624 s
  unfold execLinkmap at h
  repeat' first
    | extract_lets at h
    | (injection h with h; subst h)
    | split at h
    | cases h
    | extract_lets
    | with_reducible assumption
    | exact sub_trans rfl hK
    | exact bit_of rfl hK
    | split
    | with_reducible apply emit_same
    | with_reducible apply mapChanged_same
    | with_reducible apply ownNewer_same
    | with_reducible apply Same.foldl
    | with_reducible apply Same.fab_upd
    | intro _
    | dsimp +zetaDelta only

theorem execRouteCompute_same {s : State} {s1 : State} (h : execRouteCompute s = .next s1) : Same 274877906944 s s1 := by
  have hK : 274877906944 &&& 274877906944 = 274877906944 := rfl
  have hZ := Same.refl 274877906944 s
  unfold execRouteCompute at h
  repeat' first
    | extract_lets at h
    | (injection h with h; subst h)
    | split at h
    | cases h
    | extract_lets
    | with_reducible assumption
    | exact sub_trans rfl hK
    | exact bit_of rfl hK
    | split
    | with_reducible apply Same.fab_upd

theorem execRoutesInPlace_same {s : State} {s1 : State} (h : execRoutesInPlace s = .next s1) : Same 903931104220 s s1 := by
  have hK : 903931104220 &&& 903931104220 = 903931104220 := rfl
  have hZ := Same.refl 903931104220 s
  unfold execRoutesInPlace at h
  repeat' first
    | extract_lets at h
    | (injection h with h; subst h)
    | split at h
    | cases h
    | extract_lets
    | with_reducible assumption
    | exact sub_trans rfl hK
    | exact bit_of rfl hK
    | split
    | with_reducible apply placeRoutes_same

theorem execReady_same {p : Fin 32} {crc : W32} {count : Nat} {s : State} {s1 : State} (h : execReady p crc count s = .next s1) : Same 833223655640 s s1 := by
  have hK : 833223655640 &&& 833223655640 = 833223655640 := rfl
  have hZ := Same.refl 833223655640 s
  unfold execReady at h
  repeat' first
    | extract_lets at h
    | (injection h with h; subst h)
    | split at h
    | cases h
    | extract_lets
    | with_reducible assumption
    | exact sub_trans rfl hK
    | exact bit_of rfl hK
    | split
    | with_reducible apply countReady_same
    | with_reducible apply Same.fab_upd

theorem execGo_same {p : Fin 32} {crc : W32} {s : State} {s1 : State} (h : execGo p crc s = .next s1) : Same 833223655640 s s1 := by
  have hK : 833223655640 &&& 833223655640 = 833223655640 := rfl
  have hZ := Same.refl 833223655640 s
  unfold execGo at h
  repeat' first
    | extract_lets at h
    | (injection h with h; subst h)
    | split at h
    | cases h
    | extract_lets
    | with_reducible assumption
    | exact sub_trans rfl hK
    | exact bit_of rfl hK
    | split
    | with_reducible apply doGo_same

theorem execEpochTableExpiry_same {s : State} {s1 : State} (h : execEpochTableExpiry s = .next s1) : Same 274877906944 s s1 := by
  have hK : 274877906944 &&& 274877906944 = 274877906944 := rfl
  have hZ := Same.refl 274877906944 s
  unfold execEpochTableExpiry at h
  repeat' first
    | extract_lets at h
    | (injection h with h; subst h)
    | split at h
    | cases h
    | extract_lets
    | with_reducible assumption
    | exact sub_trans rfl hK
    | exact bit_of rfl hK
    | split
    | with_reducible apply Same.fab_upd

theorem execRd_same {p : Fin 32} {m : LMsg} {s : State} {s1 : State} (h : execRd p m s = .next s1) : Same 833231653848 s s1 := by
  have hK : 833231653848 &&& 833231653848 = 833231653848 := rfl
  have hZ := Same.refl 833231653848 s
  unfold execRd at h
  repeat' first
    | extract_lets at h
    | (injection h with h; subst h)
    | split at h
    | cases h
    | extract_lets
    | with_reducible assumption
    | exact sub_trans rfl hK
    | exact bit_of rfl hK
    | split
    | with_reducible apply serveReq_same

theorem execWr_same {p : Fin 32} {m : LMsg} {s : State} {s1 : State} (h : execWr p m s = .next s1) : Same 833231653848 s s1 := by
  have hK : 833231653848 &&& 833231653848 = 833231653848 := rfl
  have hZ := Same.refl 833231653848 s
  unfold execWr at h
  repeat' first
    | extract_lets at h
    | (injection h with h; subst h)
    | split at h
    | cases h
    | extract_lets
    | with_reducible assumption
    | exact sub_trans rfl hK
    | exact bit_of rfl hK
    | split
    | with_reducible apply serveReq_same

theorem execAtom_same {p : Fin 32} {m : LMsg} {s : State} {s1 : State} (h : execAtom p m s = .next s1) : Same 833231653848 s s1 := by
  have hK : 833231653848 &&& 833231653848 = 833231653848 := rfl
  have hZ := Same.refl 833231653848 s
  unfold execAtom at h
  repeat' first
    | extract_lets at h
    | (injection h with h; subst h)
    | split at h
    | cases h
    | extract_lets
    | with_reducible assumption
    | exact sub_trans rfl hK
    | exact bit_of rfl hK
    | split
    | with_reducible apply serveReq_same

theorem execCoh_same {p : Fin 32} {m : LMsg} {s : State} {s1 : State} (h : execCoh p m s = .next s1) : Same 833231653848 s s1 := by
  have hK : 833231653848 &&& 833231653848 = 833231653848 := rfl
  have hZ := Same.refl 833231653848 s
  unfold execCoh at h
  repeat' first
    | extract_lets at h
    | (injection h with h; subst h)
    | split at h
    | cases h
    | extract_lets
    | with_reducible assumption
    | exact sub_trans rfl hK
    | exact bit_of rfl hK
    | split
    | with_reducible apply onMsg_same
    | with_reducible apply serveReq_same
    | with_reducible apply updLink_same
    | intro _

theorem execMvw_same {p : Fin 32} {m : LMsg} {s : State} {s1 : State} (h : execMvw p m s = .next s1) : Same 833231653848 s s1 := by
  have hK : 833231653848 &&& 833231653848 = 833231653848 := rfl
  have hZ := Same.refl 833231653848 s
  unfold execMvw at h
  repeat' first
    | extract_lets at h
    | (injection h with h; subst h)
    | split at h
    | cases h
    | extract_lets
    | with_reducible assumption
    | exact sub_trans rfl hK
    | exact bit_of rfl hK
    | split
    | with_reducible apply serveReq_same

theorem execRemoteEvsig_same {p : Fin 32} {m : LMsg} {s : State} {s1 : State} (h : execRemoteEvsig p m s = .next s1) : Same 833231653848 s s1 := by
  have hK : 833231653848 &&& 833231653848 = 833231653848 := rfl
  have hZ := Same.refl 833231653848 s
  unfold execRemoteEvsig at h
  repeat' first
    | extract_lets at h
    | (injection h with h; subst h)
    | split at h
    | cases h
    | extract_lets
    | with_reducible assumption
    | exact sub_trans rfl hK
    | exact bit_of rfl hK
    | split
    | with_reducible apply serveReq_same

theorem execRemoteEvwait_same {p : Fin 32} {m : LMsg} {s : State} {s1 : State} (h : execRemoteEvwait p m s = .next s1) : Same 833231653848 s s1 := by
  have hK : 833231653848 &&& 833231653848 = 833231653848 := rfl
  have hZ := Same.refl 833231653848 s
  unfold execRemoteEvwait at h
  repeat' first
    | extract_lets at h
    | (injection h with h; subst h)
    | split at h
    | cases h
    | extract_lets
    | with_reducible assumption
    | exact sub_trans rfl hK
    | exact bit_of rfl hK
    | split
    | with_reducible apply serveReq_same

theorem execSnp_same {p : Fin 32} {m : LMsg} {s : State} {s1 : State} (h : execSnp p m s = .next s1) : Same 824634769408 s s1 := by
  have hK : 824634769408 &&& 824634769408 = 824634769408 := rfl
  have hZ := Same.refl 824634769408 s
  unfold execSnp at h
  repeat' first
    | extract_lets at h
    | (injection h with h; subst h)
    | split at h
    | cases h
    | extract_lets
    | with_reducible assumption
    | exact sub_trans rfl hK
    | exact bit_of rfl hK
    | split
    | with_reducible apply onMsg_same
    | with_reducible apply sendMsg_same
    | with_reducible apply updLine_same
    | with_reducible apply Same.fab_upd
    | intro _
    | dsimp +zetaDelta only

theorem execRdRsp_same {p : Fin 32} {m : LMsg} {s : State} {s1 : State} (h : execRdRsp p m s = .next s1) : Same 834301766616 s s1 := by
  have hK : 834301766616 &&& 834301766616 = 834301766616 := rfl
  have hZ := Same.refl 834301766616 s
  unfold execRdRsp at h
  repeat' first
    | extract_lets at h
    | (injection h with h; subst h)
    | split at h
    | cases h
    | extract_lets
    | with_reducible assumption
    | exact sub_trans rfl hK
    | exact bit_of rfl hK
    | split
    | with_reducible apply dropReq_same
    | with_reducible apply gotSide_same
    | with_reducible apply learn_same
    | with_reducible apply loadPart_same
    | with_reducible apply onRsp_same
    | intro _
    | dsimp +zetaDelta only

theorem execWrAck_same {p : Fin 32} {m : LMsg} {s : State} {s1 : State} (h : execWrAck p m s = .next s1) : Same 833227852504 s s1 := by
  have hK : 833227852504 &&& 833227852504 = 833227852504 := rfl
  have hZ := Same.refl 833227852504 s
  unfold execWrAck at h
  repeat' first
    | extract_lets at h
    | (injection h with h; subst h)
    | split at h
    | cases h
    | extract_lets
    | with_reducible assumption
    | exact sub_trans rfl hK
    | exact bit_of rfl hK
    | split
    | with_reducible apply dropReq_same
    | with_reducible apply onRsp_same
    | with_reducible apply signalled_same
    | intro _

theorem execAtomRsp_same {p : Fin 32} {m : LMsg} {s : State} {s1 : State} (h : execAtomRsp p m s = .next s1) : Same 824638046208 s s1 := by
  have hK : 824638046208 &&& 824638046208 = 824638046208 := rfl
  have hZ := Same.refl 824638046208 s
  unfold execAtomRsp at h
  repeat' first
    | extract_lets at h
    | (injection h with h; subst h)
    | split at h
    | cases h
    | extract_lets
    | with_reducible assumption
    | exact sub_trans rfl hK
    | exact bit_of rfl hK
    | split
    | with_reducible apply atomLane_same
    | with_reducible apply dropReq_same
    | with_reducible apply emit_same
    | with_reducible apply onRsp_same
    | intro _

theorem execCohRsp_same {p : Fin 32} {m : LMsg} {s : State} {s1 : State} (h : execCohRsp p m s = .next s1) : Same 824641060952 s s1 := by
  have hK : 824641060952 &&& 824641060952 = 824641060952 := rfl
  have hZ := Same.refl 824641060952 s
  unfold execCohRsp at h
  repeat' first
    | extract_lets at h
    | (injection h with h; subst h)
    | split at h
    | cases h
    | extract_lets
    | with_reducible assumption
    | exact sub_trans rfl hK
    | exact bit_of rfl hK
    | split
    | with_reducible apply dropReq_same
    | with_reducible apply fillCopy_same
    | with_reducible apply onRsp_same
    | with_reducible apply updReq_same
    | intro _

theorem execSnpAck_same {p : Fin 32} {m : LMsg} {s : State} {s1 : State} (h : execSnpAck p m s = .next s1) : Same 833231653848 s s1 := by
  have hK : 833231653848 &&& 833231653848 = 833231653848 := rfl
  have hZ := Same.refl 833231653848 s
  unfold execSnpAck at h
  repeat' first
    | extract_lets at h
    | (injection h with h; subst h)
    | split at h
    | cases h
    | extract_lets
    | with_reducible assumption
    | exact sub_trans rfl hK
    | exact bit_of rfl hK
    | split
    | with_reducible apply onMsg_same
    | with_reducible apply snoopAck_same
    | intro _

theorem execReservedOk_same {p : Fin 32} {m : LMsg} {s : State} {s1 : State} (h : execReservedOk p m s = .next s1) : Same 824637915136 s s1 := by
  have hK : 824637915136 &&& 824637915136 = 824637915136 := rfl
  have hZ := Same.refl 824637915136 s
  unfold execReservedOk at h
  repeat' first
    | extract_lets at h
    | (injection h with h; subst h)
    | split at h
    | cases h
    | extract_lets
    | with_reducible assumption
    | exact sub_trans rfl hK
    | exact bit_of rfl hK
    | split
    | with_reducible apply onRsp_same
    | with_reducible apply sendMsg_same
    | with_reducible apply updReq_same
    | intro _

theorem execWake_same {p : Fin 32} {m : LMsg} {s : State} {s1 : State} (h : execWake p m s = .next s1) : Same 833231915992 s s1 := by
  have hK : 833231915992 &&& 833231915992 = 833231915992 := rfl
  have hZ := Same.refl 833231915992 s
  unfold execWake at h
  repeat' first
    | extract_lets at h
    | (injection h with h; subst h)
    | split at h
    | cases h
    | extract_lets
    | with_reducible assumption
    | exact sub_trans rfl hK
    | exact bit_of rfl hK
    | split
    | with_reducible apply complete_same
    | with_reducible apply dropReq_same
    | with_reducible apply invalidateDcache_same
    | with_reducible apply onRsp_same
    | with_reducible apply postSignal_same
    | with_reducible apply updChain_same
    | with_reducible apply wakeSaved_same
    | intro _
    | dsimp +zetaDelta only

theorem execErrRsp_same {p : Fin 32} {m : LMsg} {s : State} {s1 : State} (h : execErrRsp p m s = .next s1) : Same 903931104220 s s1 := by
  have hK : 903931104220 &&& 903931104220 = 903931104220 := rfl
  have hZ := Same.refl 903931104220 s
  unfold execErrRsp at h
  repeat' first
    | extract_lets at h
    | (injection h with h; subst h)
    | split at h
    | cases h
    | extract_lets
    | with_reducible assumption
    | exact sub_trans rfl hK
    | exact bit_of rfl hK
    | split
    | with_reducible apply failReq_same
    | with_reducible apply onRsp_same
    | intro _

theorem execRemoteRequestTimeout_same {tag : W16} {s : State} {s1 : State} (h : execRemoteRequestTimeout tag s = .next s1) : Same 903931104220 s s1 := by
  have hK : 903931104220 &&& 903931104220 = 903931104220 := rfl
  have hZ := Same.refl 903931104220 s
  unfold execRemoteRequestTimeout at h
  repeat' first
    | extract_lets at h
    | (injection h with h; subst h)
    | split at h
    | cases h
    | extract_lets
    | with_reducible assumption
    | exact sub_trans rfl hK
    | exact bit_of rfl hK
    | split
    | with_reducible apply failReq_same

theorem execFlowControlCreditReturn_same {p : PortId} {s : State} {s1 : State} (h : execFlowControlCreditReturn p s = .next s1) : Same 137707389444 s s1 := by
  have hK : 137707389444 &&& 137707389444 = 137707389444 := rfl
  have hZ := Same.refl 137707389444 s
  unfold execFlowControlCreditReturn at h
  repeat' first
    | extract_lets at h
    | (injection h with h; subst h)
    | split at h
    | cases h
    | extract_lets
    | with_reducible assumption
    | exact sub_trans rfl hK
    | exact bit_of rfl hK
    | split
    | with_reducible apply creditChan_same
    | with_reducible apply retime_same
    | with_reducible apply Same.foldl
    | with_reducible apply Same.sports_upd
    | intro _
    | dsimp +zetaDelta only

theorem execCreditSilenceExpiry_same {m : Fin 16} {c : Fin 32} {s : State} {s1 : State} (h : execCreditSilenceExpiry m c s = .next s1) : Same 268435968 s s1 := by
  have hK : 268435968 &&& 268435968 = 268435968 := rfl
  have hZ := Same.refl 268435968 s
  unfold execCreditSilenceExpiry at h
  repeat' first
    | extract_lets at h
    | (injection h with h; subst h)
    | split at h
    | cases h
    | extract_lets
    | with_reducible assumption
    | exact sub_trans rfl hK
    | exact bit_of rfl hK
    | split
    | with_reducible apply retime_same
    | with_reducible apply updChan_same
    | dsimp +zetaDelta only

theorem execIllegalEncoding_same {r : ChainRef} {s : State} {s1 : State} (h : execIllegalEncoding r s = .next s1) : Same 903931104220 s s1 := by
  have hK : 903931104220 &&& 903931104220 = 903931104220 := rfl
  have hZ := Same.refl 903931104220 s
  unfold execIllegalEncoding at h
  repeat' first
    | extract_lets at h
    | (injection h with h; subst h)
    | split at h
    | cases h
    | extract_lets
    | with_reducible assumption
    | exact sub_trans rfl hK
    | exact bit_of rfl hK
    | split
    | with_reducible apply issue_same
    | with_reducible exact trivial
    | with_reducible apply Act.keeps_exc
    | intro _

theorem execAlwaysOnPowerUp_same {s : State} {s1 : State} (h : execAlwaysOnPowerUp s = .next s1) : Same 549755813818 s s1 := by
  have hK : 549755813818 &&& 549755813818 = 549755813818 := rfl
  have hZ := Same.refl 549755813818 s
  unfold execAlwaysOnPowerUp at h
  repeat' first
    | extract_lets at h
    | (injection h with h; subst h)
    | split at h
    | cases h
    | extract_lets
    | with_reducible assumption
    | exact sub_trans rfl hK
    | exact bit_of rfl hK
    | split
    | with_reducible apply wipe_same
    | with_reducible apply Same.ao_upd
    | with_reducible apply Same.pow_upd
    | dsimp +zetaDelta only
    | exact Or.inl (bit_of rfl hK)
    | exact Or.inr rfl
    | exact rfl
    | with_reducible apply Same.mk_upd

theorem execEntdaa_same {addr : BitVec 7} {s : State} {s1 : State} (h : execEntdaa addr s = .next s1) : Same 554050781184 s s1 := by
  have hK : 554050781184 &&& 554050781184 = 554050781184 := rfl
  have hZ := Same.refl 554050781184 s
  unfold execEntdaa at h
  repeat' first
    | extract_lets at h
    | (injection h with h; subst h)
    | split at h
    | cases h
    | extract_lets
    | with_reducible assumption
    | exact sub_trans rfl hK
    | exact bit_of rfl hK
    | split
    | with_reducible apply emit_same
    | with_reducible apply Same.kod_upd

theorem execVfEnableChange_same {vf : Fin 513} {on : Bool} {s : State} {s1 : State} (h : execVfEnableChange vf on s = .next s1) : Same 128 s s1 := by
  have hK : 128 &&& 128 = 128 := rfl
  have hZ := Same.refl 128 s
  unfold execVfEnableChange at h
  repeat' first
    | extract_lets at h
    | (injection h with h; subst h)
    | split at h
    | cases h
    | extract_lets
    | with_reducible assumption
    | exact sub_trans rfl hK
    | exact bit_of rfl hK
    | split
    | with_reducible apply updFn_same

theorem execWarmrstAssertion_same {s : State} {s1 : State} (h : execWarmrstAssertion s = .next s1) : Same 541165879226 s s1 := by
  have hK : 541165879226 &&& 541165879226 = 541165879226 := rfl
  have hZ := Same.refl 541165879226 s
  unfold execWarmrstAssertion at h
  repeat' first
    | extract_lets at h
    | (injection h with h; subst h)
    | split at h
    | cases h
    | extract_lets
    | with_reducible assumption
    | exact sub_trans rfl hK
    | exact bit_of rfl hK
    | split
    | with_reducible apply wipe_same

end Sys2Proof.Laws
end

