-- ==== Sys2Proof/Laws/Memory.lean ====
section
/-! SUPPORT. Memories and sparse tables: what is read after a write, and that every operation keeps the canonical form. -/

namespace Sys2Proof.Laws

open Sys2Proof.Machine

/-! ## Memory -/

theorem wfFrom_mono {m : Memory} {a b : Nat} (h : Memory.wfFrom b m = true) (hab : a ≤ b) : Memory.wfFrom a m = true := by
  cases m with
  | nil => rfl
  | cons c r =>
    simp only [Memory.wfFrom, Bool.and_eq_true, decide_eq_true_eq] at h ⊢
    exact ⟨⟨Nat.le_trans hab h.1.1, h.1.2⟩, h.2⟩

theorem put_wfFrom {m : Memory} {lo a : Nat} {b : Byte} (h : Memory.wfFrom lo m = true) (ha : lo ≤ a) (hb : b ≠ 0) :
    Memory.wfFrom lo (m.put a b) = true := by
  induction m generalizing lo with
  | nil =>
    simp only [Memory.put, Memory.wfFrom, Bool.and_eq_true, decide_eq_true_eq, Bool.and_true]
    exact ⟨ha, by simpa using hb⟩
  | cons c r ih =>
    obtain ⟨j, x⟩ := c
    simp only [Memory.wfFrom, Bool.and_eq_true, decide_eq_true_eq] at h
    unfold Memory.put
    split
    · simp only [Memory.wfFrom, Bool.and_eq_true, decide_eq_true_eq]
      exact ⟨⟨ha, by simpa using hb⟩, ⟨by omega, h.1.2⟩, h.2⟩
    · split
      · simp only [Memory.wfFrom, Bool.and_eq_true, decide_eq_true_eq]
        exact ⟨⟨ha, by simpa using hb⟩, wfFrom_mono h.2 (by omega)⟩
      · simp only [Memory.wfFrom, Bool.and_eq_true, decide_eq_true_eq]
        exact ⟨h.1, ih h.2 (by omega)⟩

theorem drop_wfFrom {m : Memory} {lo a : Nat} (h : Memory.wfFrom lo m = true) : Memory.wfFrom lo (m.drop a) = true := by
  induction m generalizing lo with
  | nil => rfl
  | cons c r ih =>
    obtain ⟨j, x⟩ := c
    simp only [Memory.wfFrom, Bool.and_eq_true, decide_eq_true_eq] at h
    unfold Memory.drop
    split
    · exact wfFrom_mono h.2 (by omega)
    · split
      · simp only [Memory.wfFrom, Bool.and_eq_true, decide_eq_true_eq]
        exact h
      · simp only [Memory.wfFrom, Bool.and_eq_true, decide_eq_true_eq]
        exact ⟨h.1, ih h.2⟩

/-- A write keeps the canonical form. -/
theorem set_wf {m : Memory} (a : Nat) (b : Byte) (h : m.wf = true) : (m.set a b).wf = true := by
  unfold Memory.set
  split
  · exact drop_wfFrom h
  · exact put_wfFrom h (Nat.zero_le a) ‹_›

/-- Writing consecutive bytes keeps the canonical form. -/
theorem setBytes_wf {m : Memory} (a : Nat) (bs : List Byte) (h : m.wf = true) : (m.setBytes a bs).wf = true := by
  induction bs generalizing m a with
  | nil => exact h
  | cons b r ih => exact ih (a + 1) (set_wf a b h)

theorem clear_wfFrom {m : Memory} {lo : Nat} (a n : Nat) (h : Memory.wfFrom lo m = true) :
    Memory.wfFrom lo (m.clear a n) = true := by
  induction m generalizing lo with
  | nil => rfl
  | cons c r ih =>
    obtain ⟨j, x⟩ := c
    simp only [Memory.wfFrom, Bool.and_eq_true, decide_eq_true_eq] at h
    unfold Memory.clear at *
    rw [List.filter_cons]
    split
    · simp only [Memory.wfFrom, Bool.and_eq_true, decide_eq_true_eq]
      exact ⟨h.1, ih h.2⟩
    · exact wfFrom_mono (ih h.2) (by omega)

/-- Clearing a range keeps the canonical form. -/
theorem clear_wf {m : Memory} (a n : Nat) (h : m.wf = true) : (m.clear a n).wf = true := clear_wfFrom a n h

theorem get_put (m : Memory) (a k : Nat) (b : Byte) {lo : Nat} (h : Memory.wfFrom lo m = true) :
    (m.put a b).get k = if k = a then b else m.get k := by
  induction m generalizing lo with
  | nil => simp only [Memory.put, Memory.get, eq_comm]
  | cons c r ih =>
    obtain ⟨j, x⟩ := c
    simp only [Memory.wfFrom, Bool.and_eq_true, decide_eq_true_eq] at h
    unfold Memory.put
    split
    · by_cases hk : k = a
      · simp [Memory.get, hk]
      · simp [Memory.get, hk, Ne.symm hk]
    · split
      · subst_vars
        by_cases hk : k = j
        · simp [Memory.get, hk]
        · simp [Memory.get, hk, Ne.symm hk]
      · simp only [Memory.get, ih h.2]
        by_cases hj : j = k
        · have : ¬ k = a := by omega
          simp [hj, this]
        · simp [hj]

theorem get_below {m : Memory} {lo a : Nat} (h : Memory.wfFrom lo m = true) (ha : a < lo) : m.get a = 0 := by
  induction m generalizing lo with
  | nil => rfl
  | cons c r ih =>
    obtain ⟨j, x⟩ := c
    simp only [Memory.wfFrom, Bool.and_eq_true, decide_eq_true_eq] at h
    have hj : ¬ j = a := by omega
    simp only [Memory.get, hj, if_false]
    exact ih h.2 (by omega)

theorem get_drop (m : Memory) (a k : Nat) {lo : Nat} (h : Memory.wfFrom lo m = true) :
    (m.drop a).get k = if k = a then 0 else m.get k := by
  induction m generalizing lo with
  | nil => simp [Memory.drop, Memory.get]
  | cons c r ih =>
    obtain ⟨j, x⟩ := c
    simp only [Memory.wfFrom, Bool.and_eq_true, decide_eq_true_eq] at h
    unfold Memory.drop
    split
    · subst_vars
      by_cases hk : k = j
      · simp only [hk, if_true]
        exact get_below h.2 (by omega)
      · simp [Memory.get, hk, Ne.symm hk]
    · split
      · by_cases hk : k = a
        · have hj : ¬ j = k := by omega
          simp only [hk, if_true, Memory.get]
          rw [if_neg (by omega)]
          exact get_below h.2 (by omega)
        · simp [hk]
      · simp only [Memory.get, ih h.2]
        by_cases hj : j = k
        · have : ¬ k = a := by omega
          simp [hj, this]
        · simp [hj]

/-- A byte that was written reads as written, and every other byte as before. -/
theorem get_set (m : Memory) (a k : Nat) (b : Byte) (h : m.wf = true) :
    (m.set a b).get k = if k = a then b else m.get k := by
  unfold Memory.set
  split
  · subst_vars
    exact get_drop m a k h
  · exact get_put m a k b h

/-! ## Sparse tables -/

/-- Every key of a table is above a bound. -/
theorem twf_tail {α : Type} {j : Nat} {a : α} {r : Tbl α} (h : twf ((j, a) :: r) = true) : twf r = true := by
  cases r with
  | nil => rfl
  | cons c r =>
    simp only [twf, Bool.and_eq_true] at h
    exact h.2

theorem twf_cons {α : Type} {j : Nat} {a : α} {r : Tbl α} (h : twf r = true) (hr : ∀ k b, (k, b) ∈ r → j < k) :
    twf ((j, a) :: r) = true := by
  cases r with
  | nil => rfl
  | cons c r =>
    simp only [twf, Bool.and_eq_true, decide_eq_true_eq]
    exact ⟨hr c.1 c.2 (by simp), h⟩

theorem twf_lt {α : Type} {j : Nat} {a : α} {r : Tbl α} (h : twf ((j, a) :: r) = true) :
    ∀ k b, (k, b) ∈ r → j < k := by
  induction r generalizing j a with
  | nil => simp
  | cons c r ih =>
    intro k b hk
    simp only [twf, Bool.and_eq_true, decide_eq_true_eq] at h
    rcases List.mem_cons.1 hk with e | e
    · have : k = c.1 := by rw [← e]
      omega
    · exact Nat.lt_trans h.1 (ih h.2 k b e)

theorem mem_tset {α : Type} {t : Tbl α} {k j : Nat} {a b : α} (h : (j, b) ∈ tset t k a) : j = k ∨ (j, b) ∈ t := by
  induction t with
  | nil =>
    simp only [tset, List.mem_singleton, Prod.mk.injEq] at h
    exact .inl h.1
  | cons c r ih =>
    unfold tset at h
    split at h
    · rcases List.mem_cons.1 h with e | e
      · exact .inl (Prod.mk.inj e).1
      · exact .inr e
    · split at h
      · rcases List.mem_cons.1 h with e | e
        · exact .inl (Prod.mk.inj e).1
        · exact .inr (List.mem_cons_of_mem _ e)
      · rcases List.mem_cons.1 h with e | e
        · exact .inr (e ▸ by simp)
        · rcases ih e with e | e
          · exact .inl e
          · exact .inr (List.mem_cons_of_mem _ e)

/-- Writing an entry keeps the keys strictly rising. -/
theorem tset_twf {α : Type} {t : Tbl α} (k : Nat) (a : α) (h : twf t = true) : twf (tset t k a) = true := by
  induction t with
  | nil => rfl
  | cons c r ih =>
    obtain ⟨j, b⟩ := c
    have hl := twf_lt h
    unfold tset
    split
    · refine twf_cons h (fun i x hi => ?_)
      rcases List.mem_cons.1 hi with e | e
      · rw [(Prod.mk.inj e).1]
        assumption
      · exact Nat.lt_trans ‹_› (hl i x e)
    · split
      · subst_vars
        exact twf_cons (twf_tail h) hl
      · refine twf_cons (ih (twf_tail h)) (fun i x hi => ?_)
        rcases mem_tset hi with e | e
        · omega
        · exact hl i x e

/-- Taking entries off keeps the keys strictly rising. -/
theorem filter_twf {α : Type} {t : Tbl α} (p : Nat × α → Bool) (h : twf t = true) : twf (List.filter p t : Tbl α) = true := by
  induction t with
  | nil => rfl
  | cons c r ih =>
    rw [List.filter_cons]
    split
    · exact twf_cons (ih (twf_tail h)) (fun k b hk => twf_lt h k b (List.mem_filter.1 hk).1)
    · exact ih (twf_tail h)

theorem mem_terase {α : Type} {t : Tbl α} {k j : Nat} {b : α} (h : (j, b) ∈ terase t k) : (j, b) ∈ t := by
  induction t with
  | nil => exact h
  | cons c r ih =>
    unfold terase at h
    split at h
    · exact List.mem_cons_of_mem _ h
    · rcases List.mem_cons.1 h with e | e
      · exact e ▸ by simp
      · exact List.mem_cons_of_mem _ (ih e)

/-- Removing an entry keeps the keys strictly rising. -/
theorem terase_twf {α : Type} {t : Tbl α} (k : Nat) (h : twf t = true) : twf (terase t k) = true := by
  induction t with
  | nil => rfl
  | cons c r ih =>
    unfold terase
    split
    · exact twf_tail h
    · exact twf_cons (ih (twf_tail h)) (fun i x hi => twf_lt h i x (mem_terase hi))

/-- Reading an entry after a write of one. -/
@[simp] theorem tfind_tset {α : Type} (t : Tbl α) (k j : Nat) (a : α) :
    tfind (tset t k a) j = if j = k then some a else tfind t j := by
  induction t with
  | nil => simp only [tset, tfind, eq_comm]
  | cons c r ih =>
    obtain ⟨i, b⟩ := c
    unfold tset
    split
    · simp only [tfind, eq_comm]
    · split
      · subst_vars
        by_cases hj : j = i
        · simp [tfind, hj]
        · simp [tfind, hj, Ne.symm hj]
      · simp only [tfind, ih]
        by_cases hi : i = j
        · have : ¬ j = k := by omega
          simp [hi, this]
        · simp [hi]

/-- Reading an entry, or its default, after a write of one. -/
@[simp] theorem tget_tset {α : Type} (t : Tbl α) (k j : Nat) (a d : α) :
    tget (tset t k a) j d = if j = k then a else tget t j d := by
  unfold tget
  rw [tfind_tset]
  split <;> rfl

/-- Reading an entry after a change of one. -/
@[simp] theorem tget_tupd {α : Type} (t : Tbl α) (k j : Nat) (d : α) (f : α → α) :
    tget (tupd t k d f) j d = if j = k then f (tget t k d) else tget t j d := by
  unfold tupd
  rw [tget_tset]

@[simp] theorem tset_tset {α : Type} (t : Tbl α) (k : Nat) (a b : α) : tset (tset t k a) k b = tset t k b := by
  induction t with
  | nil => simp [tset]
  | cons e r ih =>
    obtain ⟨j, c⟩ := e
    by_cases h1 : k < j
    · simp [tset, h1]
    · by_cases h2 : k = j
      · simp [tset, h2]
      · simp [tset, h1, h2, ih]

@[simp] theorem tupd_tupd {α : Type} (t : Tbl α) (k : Nat) (d : α) (f g : α → α) :
    tupd (tupd t k d f) k d g = tupd t k d (fun x => g (f x)) := by
  simp [tupd]

end Sys2Proof.Laws
end

