-- ==== Sys2Proof/Laws/MemOps.lean ====
section
/-! SUPPORT. Every operation that changes memory keeps the memories in canonical form. -/

namespace Sys2Proof.Laws

open Sys2Proof.Machine

/-- The memories are in canonical form. -/
structure Ok (s : State) : Prop where
  /-- as a Bool -/
  get : s.memOk = true

/-- What an instruction does beside its chain keeps the memories in canonical form. -/
def Act.safe : Act → Prop
  | .with_ _ g => ∀ t, Ok t → Ok (g t)
  | .asks _ g => ∀ t, Ok t → Ok (g t)
  | .hold _ g => ∀ t, Ok t → Ok (g t)
  | .request g => ∀ t, Ok t → Ok (g t)
  | _ => True

theorem Act.safe_done {c : Chain} : Act.safe (.done c) := trivial
theorem Act.safe_exc {e : Exc} : Act.safe (.exc e) := trivial
theorem Act.safe_wait : Act.safe .wait := trivial
theorem Act.safe_with {c : Chain} {g : State → State} (h : ∀ t, Ok t → Ok (g t)) : Act.safe (.with_ c g) := h
theorem Act.safe_asks {c : Chain} {g : State → State} (h : ∀ t, Ok t → Ok (g t)) : Act.safe (.asks c g) := h
theorem Act.safe_hold {c : Chain} {g : State → State} (h : ∀ t, Ok t → Ok (g t)) : Act.safe (.hold c g) := h
theorem Act.safe_request {g : State → State} (h : ∀ t, Ok t → Ok (g t)) : Act.safe (.request g) := h

/-- A state with the same memories. -/
theorem memOk_after {k : Nat} {s t : State} (h : Same k s t) (hk : k &&& 88 = 0) (g : Ok s) :
    Ok t := by
  have hb : ∀ i, Nat.testBit 88 i = true → k.testBit i = false := by
    intro i hi
    have h1 := congrArg (fun n => n.testBit i) hk
    simpa [Nat.testBit_and, hi] using h1
  have h1 : t.mem = s.mem := h.get .mem (hb _ rfl)
  have h2 : t.exposed = s.exposed := h.get .exposed (hb _ rfl)
  have h3 : t.ext = s.ext := h.get .ext (hb _ rfl)
  constructor
  have g1 := g.get
  unfold State.memOk at *
  rw [h1, h2, h3]
  exact g1

theorem memOk_foldl {α : Type} {s : State} {f : State → α → State} (l : List α)
    (h : ∀ t a, Ok t → Ok (f t a)) (g : Ok s) : Ok (l.foldl f s) := by
  induction l generalizing s with
  | nil => exact g
  | cons a r ih => exact ih (h s a g)

theorem memOk_parts {s : State} (h : Ok s) : s.mem.wf = true ∧ twf s.exposed = true ∧ twf s.ext = true := by
  have h := h.get
  unfold State.memOk at h
  simp only [Bool.and_eq_true] at h
  exact ⟨h.1.1, h.1.2, h.2⟩

theorem memOk_of {s : State} (h1 : s.mem.wf = true) (h2 : twf s.exposed = true) (h3 : twf s.ext = true) : Ok s := by
  constructor
  unfold State.memOk
  rw [h1, h2, h3]
  rfl

/-- A state made of given fields, the memories from another one. -/
theorem memOk_mk {x : State} {v0 : List Instr} {v1 : W64} {v2 : Nat} {v5 : List Nat} {v7 : Tbl Fn} {v8 : List SideRec} {v9 : List Cmd} {v10 : Nat} {v11 : Tbl Ctx} {v12 : List Nat} {v13 : List Alloc} {v14 : Nat} {v15 : List TlbEnt} {v16 : List AtsEnt} {v17 : Tbl Core} {v18 : List Group} {v19 : List Waiter} {v20 : Tbl Line} {v21 : Nat} {v22 : Tbl Hide} {v23 : List Move} {v24 : Bool} {v25 : Tbl Plan} {v26 : Tbl Seq} {v27 : Nat} {v28 : Tbl Mover} {v29 : EG} {v30 : Tbl Wm} {v31 : Tbl Mbox} {v32 : Kod} {v33 : AO} {v34 : Gov} {v35 : Power} {v36 : Tbl Engine} {v37 : Tbl SPort} {v38 : Fabric} {v39 : List Out}
    (h : Ok x) :
    Ok (State.mk v0 v1 v2 x.mem x.exposed v5 x.ext v7 v8 v9 v10 v11 v12 v13 v14 v15 v16 v17 v18 v19 v20 v21 v22 v23 v24 v25 v26 v27 v28 v29 v30 v31 v32 v33 v34 v35 v36 v37 v38 v39) :=
  ⟨h.get⟩

theorem ok_pending_upd {x : State} {v : List Instr} (h : Ok x) : Ok { x with pending := v } := ⟨h.get⟩

theorem ok_btime_upd {x : State} {v : W64} (h : Ok x) : Ok { x with btime := v } := ⟨h.get⟩

theorem ok_free_upd {x : State} {v : Nat} (h : Ok x) : Ok { x with free := v } := ⟨h.get⟩

theorem ok_scrubbed_upd {x : State} {v : List Nat} (h : Ok x) : Ok { x with scrubbed := v } := ⟨h.get⟩

theorem ok_fns_upd {x : State} {v : Tbl Fn} (h : Ok x) : Ok { x with fns := v } := ⟨h.get⟩

theorem ok_store_upd {x : State} {v : List SideRec} (h : Ok x) : Ok { x with store := v } := ⟨h.get⟩

theorem ok_cmds_upd {x : State} {v : List Cmd} (h : Ok x) : Ok { x with cmds := v } := ⟨h.get⟩

theorem ok_nextCid_upd {x : State} {v : Nat} (h : Ok x) : Ok { x with nextCid := v } := ⟨h.get⟩

theorem ok_ctxs_upd {x : State} {v : Tbl Ctx} (h : Ok x) : Ok { x with ctxs := v } := ⟨h.get⟩

theorem ok_live_upd {x : State} {v : List Nat} (h : Ok x) : Ok { x with live := v } := ⟨h.get⟩

theorem ok_allocs_upd {x : State} {v : List Alloc} (h : Ok x) : Ok { x with allocs := v } := ⟨h.get⟩

theorem ok_nextObj_upd {x : State} {v : Nat} (h : Ok x) : Ok { x with nextObj := v } := ⟨h.get⟩

theorem ok_tlb_upd {x : State} {v : List TlbEnt} (h : Ok x) : Ok { x with tlb := v } := ⟨h.get⟩

theorem ok_ats_upd {x : State} {v : List AtsEnt} (h : Ok x) : Ok { x with ats := v } := ⟨h.get⟩

theorem ok_cores_upd {x : State} {v : Tbl Core} (h : Ok x) : Ok { x with cores := v } := ⟨h.get⟩

theorem ok_groups_upd {x : State} {v : List Group} (h : Ok x) : Ok { x with groups := v } := ⟨h.get⟩

theorem ok_waiters_upd {x : State} {v : List Waiter} (h : Ok x) : Ok { x with waiters := v } := ⟨h.get⟩

theorem ok_lines_upd {x : State} {v : Tbl Line} (h : Ok x) : Ok { x with lines := v } := ⟨h.get⟩

theorem ok_dirClock_upd {x : State} {v : Nat} (h : Ok x) : Ok { x with dirClock := v } := ⟨h.get⟩

theorem ok_hides_upd {x : State} {v : Tbl Hide} (h : Ok x) : Ok { x with hides := v } := ⟨h.get⟩

theorem ok_moves_upd {x : State} {v : List Move} (h : Ok x) : Ok { x with moves := v } := ⟨h.get⟩

theorem ok_mgrMoved_upd {x : State} {v : Bool} (h : Ok x) : Ok { x with mgrMoved := v } := ⟨h.get⟩

theorem ok_plans_upd {x : State} {v : Tbl Plan} (h : Ok x) : Ok { x with plans := v } := ⟨h.get⟩

theorem ok_seqs_upd {x : State} {v : Tbl Seq} (h : Ok x) : Ok { x with seqs := v } := ⟨h.get⟩

theorem ok_pendOrder_upd {x : State} {v : Nat} (h : Ok x) : Ok { x with pendOrder := v } := ⟨h.get⟩

theorem ok_movers_upd {x : State} {v : Tbl Mover} (h : Ok x) : Ok { x with movers := v } := ⟨h.get⟩

theorem ok_eg_upd {x : State} {v : EG} (h : Ok x) : Ok { x with eg := v } := ⟨h.get⟩

theorem ok_wms_upd {x : State} {v : Tbl Wm} (h : Ok x) : Ok { x with wms := v } := ⟨h.get⟩

theorem ok_boxes_upd {x : State} {v : Tbl Mbox} (h : Ok x) : Ok { x with boxes := v } := ⟨h.get⟩

theorem ok_kod_upd {x : State} {v : Kod} (h : Ok x) : Ok { x with kod := v } := ⟨h.get⟩

theorem ok_ao_upd {x : State} {v : AO} (h : Ok x) : Ok { x with ao := v } := ⟨h.get⟩

theorem ok_gov_upd {x : State} {v : Gov} (h : Ok x) : Ok { x with gov := v } := ⟨h.get⟩

theorem ok_pow_upd {x : State} {v : Power} (h : Ok x) : Ok { x with pow := v } := ⟨h.get⟩

theorem ok_engines_upd {x : State} {v : Tbl Engine} (h : Ok x) : Ok { x with engines := v } := ⟨h.get⟩

theorem ok_sports_upd {x : State} {v : Tbl SPort} (h : Ok x) : Ok { x with sports := v } := ⟨h.get⟩

theorem ok_fab_upd {x : State} {v : Fabric} (h : Ok x) : Ok { x with fab := v } := ⟨h.get⟩

theorem ok_out_upd {x : State} {v : List Out} (h : Ok x) : Ok { x with out := v } := ⟨h.get⟩

theorem setRun_ok (s : State) (idx : Nat) (sub : Nat) (v : Nat) (hZ : Ok s) : Ok (State.setRun s idx sub v) :=
  memOk_after (setRun_same _ _ _ _ (rfl : 4294967296 &&& 4294967296 = 4294967296) (Same.refl _ _)) rfl hZ

theorem drawNext_ok (s : State) (hZ : Ok s) : Ok (State.drawNext s) :=
  memOk_after (drawNext_same _ (rfl : 34359738368 &&& 34359738368 = 34359738368) (Same.refl _ _)) rfl hZ

theorem freshNext_ok (s : State) (hZ : Ok s) : Ok (State.freshNext s) :=
  memOk_after (freshNext_same _ (rfl : 4 &&& 4 = 4) (Same.refl _ _)) rfl hZ

theorem emit_ok (s : State) (o : Out) (hZ : Ok s) : Ok (State.emit s o) :=
  memOk_after (emit_same _ _ (rfl : 549755813888 &&& 549755813888 = 549755813888) (Same.refl _ _)) rfl hZ

theorem updHide_ok (s : State) (h : Nat) (f : Hide → Hide) (hZ : Ok s) : Ok (State.updHide s h f) :=
  memOk_after (updHide_same _ _ _ (rfl : 4194304 &&& 4194304 = 4194304) (Same.refl _ _)) rfl hZ

theorem updFn_ok (s : State) (n : Nat) (f : Fn → Fn) (hZ : Ok s) : Ok (State.updFn s n f) :=
  memOk_after (updFn_same _ _ _ (rfl : 128 &&& 128 = 128) (Same.refl _ _)) rfl hZ

theorem updQueue_ok (s : State) (n : Nat) (q : Nat) (f : Queue → Queue) (hZ : Ok s) : Ok (State.updQueue s n q f) :=
  memOk_after (updQueue_same _ _ _ _ (rfl : 128 &&& 128 = 128) (Same.refl _ _)) rfl hZ

theorem updCtx_ok (s : State) (c : Nat) (f : Ctx → Ctx) (hZ : Ok s) : Ok (State.updCtx s c f) :=
  memOk_after (updCtx_same _ _ _ (rfl : 2048 &&& 2048 = 2048) (Same.refl _ _)) rfl hZ

theorem updCmd_ok (s : State) (cid : Nat) (f : Cmd → Cmd) (hZ : Ok s) : Ok (State.updCmd s cid f) :=
  memOk_after (updCmd_same _ _ _ (rfl : 512 &&& 512 = 512) (Same.refl _ _)) rfl hZ

theorem dropCmd_ok (s : State) (cid : Nat) (hZ : Ok s) : Ok (State.dropCmd s cid) :=
  memOk_after (dropCmd_same _ _ (rfl : 512 &&& 512 = 512) (Same.refl _ _)) rfl hZ

theorem updCore_ok (s : State) (i : Nat) (f : Core → Core) (hZ : Ok s) : Ok (State.updCore s i f) :=
  memOk_after (updCore_same _ _ _ (rfl : 131072 &&& 131072 = 131072) (Same.refl _ _)) rfl hZ

theorem writePa_ok (s : State) (pa : Nat) (b : Byte) (hZ : Ok s) : Ok (s.writePa pa b) := by
  obtain ⟨h1, h2, h3⟩ := memOk_parts hZ
  unfold State.writePa
  split
  · split
    · exact memOk_of h1 (tset_twf _ _ h2) h3
    · exact memOk_of (set_wf _ _ h1) h2 h3
  · exact memOk_of h1 h2 (tset_twf _ _ h3)

theorem writeBytes_ok (s : State) (pa : Nat) (a2 : List Byte) (hZ : Ok s) :
    Ok (State.writeBytes s pa a2) := by
  induction a2 generalizing s pa with
  | nil => exact hZ
  | cons ca cr ih =>
    unfold State.writeBytes
    repeat' first
      | extract_lets
      | with_reducible assumption
      | with_reducible apply ih
      | split
      | with_reducible apply writePa_ok

theorem writeCells_ok (s : State) (a1 : List (Nat × Byte)) (hZ : Ok s) :
    Ok (State.writeCells s a1) := by
  induction a1 generalizing s with
  | nil => exact hZ
  | cons ca cr ih =>
    unfold State.writeCells
    repeat' first
      | extract_lets
      | with_reducible assumption
      | with_reducible apply ih
      | split
      | with_reducible apply writePa_ok

theorem emitWrites_ok (s : State) (fn : Nat) (runs : List (Nat × List Byte)) (hZ : Ok s) : Ok (State.emitWrites s fn runs) :=
  memOk_after (emitWrites_same _ _ _ (rfl : 549755813888 &&& 549755813888 = 549755813888) (Same.refl _ _)) rfl hZ

theorem ringPut_ok (s : State) (fn : Nat) (io : Nat) (bs : List Byte) (hZ : Ok s) :
    Ok (State.ringPut s fn io bs) := by
  unfold State.ringPut
  repeat' first
    | extract_lets
    | with_reducible assumption
    | split
    | with_reducible apply emit_ok
    | with_reducible apply writeBytes_ok

theorem msix_ok (s : State) (fn : Nat) (vec : Nat) (hZ : Ok s) : Ok (State.msix s fn vec) :=
  memOk_after (msix_same _ _ _ (rfl : 549755813888 &&& 549755813888 = 549755813888) (Same.refl _ _)) rfl hZ

theorem evseqNext_ok (s : State) (hZ : Ok s) : Ok (State.evseqNext s) :=
  memOk_after (evseqNext_same _ (rfl : 8589934592 &&& 8589934592 = 8589934592) (Same.refl _ _)) rfl hZ

theorem updSrc_ok (s : State) (n : Nat) (f : Src → Src) (hZ : Ok s) : Ok (State.updSrc s n f) :=
  memOk_after (updSrc_same _ _ _ (rfl : 536870912 &&& 536870912 = 536870912) (Same.refl _ _)) rfl hZ

theorem updGrp_ok (s : State) (g : Nat) (f : Grp → Grp) (hZ : Ok s) : Ok (State.updGrp s g f) :=
  memOk_after (updGrp_same _ _ _ (rfl : 536870912 &&& 536870912 = 536870912) (Same.refl _ _)) rfl hZ

theorem updTgt_ok (s : State) (t : Nat) (f : Tgt → Tgt) (hZ : Ok s) : Ok (State.updTgt s t f) :=
  memOk_after (updTgt_same _ _ _ (rfl : 536870912 &&& 536870912 = 536870912) (Same.refl _ _)) rfl hZ

theorem wakeControl_ok (s : State) (t : Nat) (hZ : Ok s) : Ok (State.wakeControl s t) :=
  memOk_after (wakeControl_same _ _ (rfl : 131072 &&& 131072 = 131072) (Same.refl _ _)) rfl hZ

theorem presentSrc_ok (s : State) (n : Nat) (hZ : Ok s) : Ok (State.presentSrc s n) :=
  memOk_after (presentSrc_same _ _ (rfl : 537001984 &&& 537001984 = 537001984) (Same.refl _ _)) rfl hZ

theorem presentGrp_ok (s : State) (g : Nat) (hZ : Ok s) : Ok (State.presentGrp s g) :=
  memOk_after (presentGrp_same _ _ (rfl : 537001984 &&& 537001984 = 537001984) (Same.refl _ _)) rfl hZ

theorem moderate_ok (s : State) (g : Nat) (hZ : Ok s) : Ok (State.moderate s g) :=
  memOk_after (moderate_same _ _ (rfl : 537001984 &&& 537001984 = 537001984) (Same.refl _ _)) rfl hZ

theorem latch_ok (s : State) (n : Nat) (hZ : Ok s) : Ok (State.latch s n) :=
  memOk_after (latch_same _ _ (rfl : 537001984 &&& 537001984 = 537001984) (Same.refl _ _)) rfl hZ

theorem updRecq_ok (s : State) (d : Dest) (f : RecQueue → RecQueue) (hZ : Ok s) : Ok (State.updRecq s d f) :=
  memOk_after (updRecq_same _ _ _ (rfl : 8589934720 &&& 8589934720 = 8589934720) (Same.refl _ _)) rfl hZ

theorem vectorOf_ok (s : State) (d : Dest) (hZ : Ok s) : Ok (State.vectorOf s d) :=
  memOk_after (vectorOf_same _ _ (rfl : 558345748608 &&& 558345748608 = 558345748608) (Same.refl _ _)) rfl hZ

theorem writeOneRec_ok (s : State) (d : Dest) (size : Nat) (w : Nat) (hZ : Ok s) :
    Ok (State.writeOneRec s d size w) := by
  unfold State.writeOneRec
  repeat' first
    | extract_lets
    | with_reducible assumption
    | split
    | with_reducible apply ringPut_ok
    | with_reducible apply updRecq_ok
    | with_reducible apply ok_ao_upd
    | dsimp +zetaDelta only

theorem writeRec_ok (s : State) (d : Dest) (r : Rec) (hZ : Ok s) :
    Ok (State.writeRec s d r) := by
  unfold State.writeRec
  repeat' first
    | extract_lets
    | with_reducible assumption
    | split
    | with_reducible apply updRecq_ok
    | with_reducible apply vectorOf_ok
    | with_reducible apply writeOneRec_ok
    | with_reducible apply memOk_foldl
    | intro _

theorem dropRecs_ok (s : State) (d : Dest) (n : Nat) (hZ : Ok s) : Ok (State.dropRecs s d n) :=
  memOk_after (dropRecs_same _ _ _ (rfl : 8589934720 &&& 8589934720 = 8589934720) (Same.refl _ _)) rfl hZ

theorem loseRecs_ok (s : State) (d : Dest) (n : Nat) (hZ : Ok s) : Ok (State.loseRecs s d n) :=
  memOk_after (loseRecs_same _ _ _ (rfl : 8589934720 &&& 8589934720 = 8589934720) (Same.refl _ _)) rfl hZ

theorem stageAsk_ok (s : State) (d : Dest) (l : List Rec) (io : Nat) (hZ : Ok s) : Ok (State.stageAsk s d l io) :=
  memOk_after (stageAsk_same _ _ _ _ (rfl : 558345748608 &&& 558345748608 = 558345748608) (Same.refl _ _)) rfl hZ

theorem postRec_ok (s : State) (d : Dest) (r : Rec) (hZ : Ok s) :
    Ok (State.postRec s d r) := by
  unfold State.postRec
  repeat' first
    | extract_lets
    | with_reducible assumption
    | split
    | with_reducible apply dropRecs_ok
    | with_reducible apply loseRecs_ok
    | with_reducible apply stageAsk_ok
    | with_reducible apply updRecq_ok
    | with_reducible apply writeRec_ok
    | dsimp +zetaDelta only

theorem postNotice_ok (s : State) (fn : Nat) (code : Nat) (ctx : Nat) (d0 : Nat) (d1 : Nat) (queue : Nat) (hZ : Ok s) :
    Ok (State.postNotice s fn code ctx d0 d1 queue) := by
  unfold State.postNotice
  repeat' first
    | extract_lets
    | with_reducible assumption
    | split
    | with_reducible apply dropRecs_ok
    | with_reducible apply evseqNext_ok
    | with_reducible apply postRec_ok
    | dsimp +zetaDelta only

theorem postErrs_ok (s : State) (fn : Nat) (ctx : Nat) (ssn : Nat) (queue : Nat) (status : Nat) (parts : List (Nat × Nat)) (hZ : Ok s) :
    Ok (State.postErrs s fn ctx ssn queue status parts) := by
  unfold State.postErrs
  repeat' first
    | extract_lets
    | with_reducible assumption
    | split
    | with_reducible apply evseqNext_ok
    | with_reducible apply postRec_ok
    | with_reducible apply memOk_foldl
    | intro _
    | dsimp +zetaDelta only

theorem postErr_ok (s : State) (fn : Nat) (ctx : Nat) (ssn : Nat) (queue : Nat) (status : Nat) (typ : Nat) (body : Nat) (hZ : Ok s) :
    Ok (State.postErr s fn ctx ssn queue status typ body) := by
  unfold State.postErr
  repeat' first
    | extract_lets
    | with_reducible assumption
    | split
    | with_reducible apply postErrs_ok

theorem postGlobal_ok (s : State) (typ : Nat) (body : Nat) (hZ : Ok s) :
    Ok (State.postGlobal s typ body) := by
  unfold State.postGlobal
  repeat' first
    | extract_lets
    | with_reducible assumption
    | split
    | with_reducible apply postErrs_ok

theorem journal_ok (s : State) (source : Nat) (prof : Nat) (req : Nat) (idx : Nat) (sub : Nat) (code : Nat) (old : Nat) (new : Nat) (hZ : Ok s) :
    Ok (State.journal s source prof req idx sub code old new) := by
  unfold State.journal
  repeat' first
    | extract_lets
    | with_reducible assumption
    | split
    | with_reducible apply evseqNext_ok
    | with_reducible apply postRec_ok
    | dsimp +zetaDelta only

theorem zeroRun_ok (s : State) (a len : Nat) (hZ : Ok s) : Ok (s.zeroRun a len) := by
  obtain ⟨h1, h2, h3⟩ := memOk_parts hZ
  exact memOk_of (clear_wf _ _ h1) h2 h3

theorem updWm_ok (s : State) (n : Nat) (f : Wm → Wm) (hZ : Ok s) : Ok (State.updWm s n f) :=
  memOk_after (updWm_same _ _ _ (rfl : 1073741824 &&& 1073741824 = 1073741824) (Same.refl _ _)) rfl hZ

theorem wmCheck_ok (s : State) (n : Nat) (hZ : Ok s) :
    Ok (State.wmCheck s n) := by
  unfold State.wmCheck
  repeat' first
    | extract_lets
    | with_reducible assumption
    | split
    | with_reducible apply postNotice_ok
    | with_reducible apply updWm_ok
    | dsimp +zetaDelta only

theorem stopRecord_ok (s : State) (fn : Nat) (q : Nat) (hZ : Ok s) :
    Ok (State.stopRecord s fn q) := by
  unfold State.stopRecord
  repeat' first
    | extract_lets
    | with_reducible assumption
    | split
    | with_reducible apply postErr_ok
    | with_reducible apply updQueue_ok
    | dsimp +zetaDelta only

theorem stopQueue_ok (s : State) (fn : Nat) (q : Nat) (code : Nat) (hZ : Ok s) :
    Ok (State.stopQueue s fn q code) := by
  unfold State.stopQueue
  repeat' first
    | extract_lets
    | with_reducible assumption
    | split
    | with_reducible apply postErr_ok
    | with_reducible apply stopRecord_ok
    | with_reducible apply updQueue_ok
    | dsimp +zetaDelta only

theorem cqSignal_ok (s : State) (fn : Nat) (q : Nat) (hZ : Ok s) : Ok (State.cqSignal s fn q) :=
  memOk_after (cqSignal_same _ _ _ (rfl : 549755814016 &&& 549755814016 = 549755814016) (Same.refl _ _)) rfl hZ

theorem writeCq_ok (s : State) (fn : Nat) (q : Nat) (x : CqRec) (hZ : Ok s) :
    Ok (State.writeCq s fn q x) := by
  unfold State.writeCq
  repeat' first
    | extract_lets
    | with_reducible assumption
    | split
    | with_reducible apply cqSignal_ok
    | with_reducible apply ringPut_ok
    | with_reducible apply updQueue_ok
    | dsimp +zetaDelta only

theorem cqRefused_ok (s : State) (fn : Nat) (q : Nat) (hZ : Ok s) : Ok (State.cqRefused s fn q) :=
  memOk_after (cqRefused_same _ _ _ (rfl : 128 &&& 128 = 128) (Same.refl _ _)) rfl hZ

theorem flushCq_ok (s : State) (fn : Nat) (q : Nat) (a3 : List CqEnt) (hZ : Ok s) : Ok (State.flushCq s fn q a3) := by
  induction a3 generalizing s fn q with
  | nil => exact updQueue_ok _ _ _ _ hZ
  | cons ca cr ih =>
    unfold State.flushCq
    repeat' first
      | extract_lets
      | with_reducible assumption
      | with_reducible apply ih
      | split
      | with_reducible apply cqRefused_ok
      | with_reducible apply emit_ok
      | with_reducible apply updQueue_ok
      | with_reducible apply writeCq_ok
      | dsimp +zetaDelta only

theorem payCq_ok (s : State) (fn : Nat) (q : Nat) (hZ : Ok s) :
    Ok (State.payCq s fn q) := by
  unfold State.payCq
  repeat' first
    | extract_lets
    | with_reducible assumption
    | split
    | with_reducible apply flushCq_ok

theorem decided_ok (s : State) (cid : Nat) (hZ : Ok s) : Ok (State.decided s cid) :=
  memOk_after (decided_same _ _ (rfl : 128 &&& 128 = 128) (Same.refl _ _)) rfl hZ

theorem oweCq_ok (s : State) (fn : Nat) (q : Nat) (cid : Nat) (x : CqRec) (hZ : Ok s) : Ok (State.oweCq s fn q cid x) :=
  memOk_after (oweCq_same _ _ _ _ _ (rfl : 128 &&& 128 = 128) (Same.refl _ _)) rfl hZ

theorem countCompletion_ok (s : State) (c : Nat) (st : Nat) (va : Nat) (hZ : Ok s) : Ok (State.countCompletion s c st va) :=
  memOk_after (countCompletion_same _ _ _ _ (rfl : 2048 &&& 2048 = 2048) (Same.refl _ _)) rfl hZ

theorem unqueue_ok (s : State) (cid : Nat) (h : Nat) (hZ : Ok s) : Ok (State.unqueue s cid h) :=
  memOk_after (unqueue_same _ _ _ (rfl : 4194304 &&& 4194304 = 4194304) (Same.refl _ _)) rfl hZ

theorem complete_ok (s : State) (cid : Nat) (st : Nat) (err : Option ErrInfo) (hZ : Ok s) :
    Ok (State.complete s cid st err) := by
  unfold State.complete
  repeat' first
    | extract_lets
    | with_reducible assumption
    | split
    | with_reducible apply countCompletion_ok
    | with_reducible apply decided_ok
    | with_reducible apply dropCmd_ok
    | with_reducible apply oweCq_ok
    | with_reducible apply payCq_ok
    | with_reducible apply postErr_ok
    | with_reducible apply stopRecord_ok
    | with_reducible apply unqueue_ok
    | dsimp +zetaDelta only

theorem updLink_ok (s : State) (p : Nat) (f : Link → Link) (hZ : Ok s) : Ok (State.updLink s p f) :=
  memOk_after (updLink_same _ _ _ (rfl : 274877906944 &&& 274877906944 = 274877906944) (Same.refl _ _)) rfl hZ

theorem pump_ok (s : State) (p : Nat) (a2 : Nat) (hZ : Ok s) : Ok (State.pump s p a2) :=
  memOk_after (pump_same _ _ _ (rfl : 824633720832 &&& 824633720832 = 824633720832) (Same.refl _ _)) rfl hZ

theorem sendOn_ok (s : State) (p : Nat) (m : LMsg) (hZ : Ok s) : Ok (State.sendOn s p m) :=
  memOk_after (sendOn_same _ _ _ (rfl : 824633720832 &&& 824633720832 = 824633720832) (Same.refl _ _)) rfl hZ

theorem sendMsg_ok (s : State) (m : LMsg) (hZ : Ok s) : Ok (State.sendMsg s m) :=
  memOk_after (sendMsg_same _ _ (rfl : 824633720832 &&& 824633720832 = 824633720832) (Same.refl _ _)) rfl hZ

theorem sendReqOf_ok (s : State) (m : LMsg) (core : Option (Nat × Nat × Nat)) (chan : Option (Nat × Nat)) (cid : Nat) (ctx : Nat) (part : Nat × Nat) (pc : optParam Nat 0) (mask : optParam W32 0) (hZ : Ok s) : Ok (State.sendReqOf s m core chan cid ctx part pc mask) :=
  memOk_after (sendReqOf_same _ _ _ _ _ _ _ _ _ (rfl : 824633720832 &&& 824633720832 = 824633720832) (Same.refl _ _)) rfl hZ

theorem sendReq_ok (s : State) (m : LMsg) (core : Option (Nat × Nat × Nat)) (chan : Option (Nat × Nat)) (cid : Nat) (ctx : Nat) (hZ : Ok s) : Ok (State.sendReq s m core chan cid ctx) :=
  memOk_after (sendReq_same _ _ _ _ _ _ (rfl : 824633720832 &&& 824633720832 = 824633720832) (Same.refl _ _)) rfl hZ

theorem updChain_ok (s : State) (core : Nat) (slot : Nat) (f : Chain → Chain) (hZ : Ok s) : Ok (State.updChain s core slot f) :=
  memOk_after (updChain_same _ _ _ _ (rfl : 131072 &&& 131072 = 131072) (Same.refl _ _)) rfl hZ

theorem invalidateDcache_ok (s : State) (core : Nat) (hZ : Ok s) : Ok (State.invalidateDcache s core) :=
  memOk_after (invalidateDcache_same _ _ (rfl : 131072 &&& 131072 = 131072) (Same.refl _ _)) rfl hZ

theorem lsWrite_ok (s : State) (core : Nat) (a : Nat) (bs : List Byte) (hZ : Ok s) : Ok (State.lsWrite s core a bs) :=
  memOk_after (lsWrite_same _ _ _ _ (rfl : 131072 &&& 131072 = 131072) (Same.refl _ _)) rfl hZ

theorem dropStore_ok (s : State) (as : List Nat) (hZ : Ok s) : Ok (State.dropStore s as) :=
  memOk_after (dropStore_same _ _ (rfl : 256 &&& 256 = 256) (Same.refl _ _)) rfl hZ

theorem objWrite_ok (s : State) (lsCore : Option Nat) (a : Nat) (n : Nat) (v : Nat) (hZ : Ok s) :
    Ok (State.objWrite s lsCore a n v) := by
  unfold State.objWrite
  repeat' first
    | extract_lets
    | with_reducible assumption
    | split
    | with_reducible apply dropStore_ok
    | with_reducible apply lsWrite_ok
    | with_reducible apply writeBytes_ok

theorem dropWaiter_ok (s : State) (w : Waiter) (hZ : Ok s) : Ok (State.dropWaiter s w) :=
  memOk_after (dropWaiter_same _ _ (rfl : 524288 &&& 524288 = 524288) (Same.refl _ _)) rfl hZ

theorem release_ok (s : State) (w : Waiter) (hZ : Ok s) :
    Ok (State.release s w) := by
  unfold State.release
  repeat' first
    | extract_lets
    | with_reducible assumption
    | split
    | with_reducible apply complete_ok
    | with_reducible apply dropWaiter_ok
    | with_reducible apply invalidateDcache_ok
    | with_reducible apply sendMsg_ok
    | with_reducible apply updChain_ok
    | dsimp +zetaDelta only

theorem serveCounting_ok (s : State) (lsCore : Option Nat) (a2 : Nat) (a3 : Nat) (hZ : Ok s) :
    Ok (State.serveCounting s lsCore a2 a3) := by
  induction a3 generalizing s lsCore a2 with
  | zero => exact hZ
  | succ cn ih =>
    unfold State.serveCounting
    repeat' first
      | extract_lets
      | with_reducible assumption
      | with_reducible apply ih
      | split
      | with_reducible apply objWrite_ok
      | with_reducible apply release_ok

theorem serveBarrier_ok (s : State) (lsCore : Option Nat) (a2 : Nat) (a3 : Nat) (hZ : Ok s) :
    Ok (State.serveBarrier s lsCore a2 a3) := by
  induction a3 generalizing s lsCore a2 with
  | zero => exact hZ
  | succ cn ih =>
    unfold State.serveBarrier
    repeat' first
      | extract_lets
      | with_reducible assumption
      | with_reducible apply ih
      | split
      | with_reducible apply release_ok

theorem serveObj_ok (s : State) (w : Waiter) (hZ : Ok s) :
    Ok (State.serveObj s w) := by
  unfold State.serveObj
  repeat' first
    | extract_lets
    | with_reducible assumption
    | split
    | with_reducible apply serveBarrier_ok
    | with_reducible apply serveCounting_ok

theorem serveWrites_ok (s : State) (lsCore : Option Nat) (as : List Nat) (hZ : Ok s) :
    Ok (State.serveWrites s lsCore as) := by
  unfold State.serveWrites
  repeat' first
    | extract_lets
    | with_reducible assumption
    | split
    | with_reducible apply serveObj_ok
    | with_reducible apply memOk_foldl
    | intro _

theorem homeWrite_ok (s : State) (cells : List (Nat × Byte)) (hZ : Ok s) :
    Ok (State.homeWrite s cells) := by
  unfold State.homeWrite
  repeat' first
    | extract_lets
    | with_reducible assumption
    | split
    | with_reducible apply dropStore_ok
    | with_reducible apply serveWrites_ok
    | with_reducible apply writeCells_ok

theorem lsStore_ok (s : State) (core : Nat) (a : Nat) (bs : List Byte) (hZ : Ok s) :
    Ok (State.lsStore s core a bs) := by
  unfold State.lsStore
  repeat' first
    | extract_lets
    | with_reducible assumption
    | split
    | with_reducible apply lsWrite_ok
    | with_reducible apply serveWrites_ok

theorem lostSignal_ok (s : State) (c : Nat) (hZ : Ok s) : Ok (State.lostSignal s c) :=
  memOk_after (lostSignal_same _ _ (rfl : 4196352 &&& 4196352 = 4196352) (Same.refl _ _)) rfl hZ

theorem signalCount_ok (s : State) (lsCore : Option Nat) (a : Nat) (n : Nat) (ctx : Nat) (hZ : Ok s) :
    Ok (State.signalCount s lsCore a n ctx) := by
  unfold State.signalCount
  repeat' first
    | extract_lets
    | with_reducible assumption
    | split
    | with_reducible apply lostSignal_ok
    | with_reducible apply objWrite_ok
    | with_reducible apply serveCounting_ok
    | dsimp +zetaDelta only

theorem arriveBarrier_ok (s : State) (lsCore : Option Nat) (a : Nat) (hZ : Ok s) :
    Ok (State.arriveBarrier s lsCore a) := by
  unfold State.arriveBarrier
  repeat' first
    | extract_lets
    | with_reducible assumption
    | split
    | with_reducible apply objWrite_ok
    | with_reducible apply serveBarrier_ok
    | dsimp +zetaDelta only

theorem atomLane_ok (s : State) (core : Nat) (slot : Nat) (idx : Nat) (lane : Nat) (bs : List Byte) (hZ : Ok s) : Ok (State.atomLane s core slot idx lane bs) :=
  memOk_after (atomLane_same _ _ _ _ _ _ (rfl : 131072 &&& 131072 = 131072) (Same.refl _ _)) rfl hZ

theorem updLine_ok (s : State) (l : Nat) (f : Line → Line) (hZ : Ok s) : Ok (State.updLine s l f) :=
  memOk_after (updLine_same _ _ _ (rfl : 1048576 &&& 1048576 = 1048576) (Same.refl _ _)) rfl hZ

theorem evictCopy_ok (s : State) (l : Nat) (hZ : Ok s) : Ok (State.evictCopy s l) :=
  memOk_after (evictCopy_same _ _ (rfl : 824634769408 &&& 824634769408 = 824634769408) (Same.refl _ _)) rfl hZ

theorem makeRoom_ok (s : State) (l : Nat) (hZ : Ok s) : Ok (State.makeRoom s l) :=
  memOk_after (makeRoom_same _ _ (rfl : 824634769408 &&& 824634769408 = 824634769408) (Same.refl _ _)) rfl hZ

theorem useLine_ok (s : State) (l : Nat) (hZ : Ok s) : Ok (State.useLine s l) :=
  memOk_after (useLine_same _ _ (rfl : 3145728 &&& 3145728 = 3145728) (Same.refl _ _)) rfl hZ

theorem errRsp_ok (s : State) (m : LMsg) (aux : Nat) (hZ : Ok s) : Ok (State.errRsp s m aux) :=
  memOk_after (errRsp_same _ _ _ (rfl : 824633720832 &&& 824633720832 = 824633720832) (Same.refl _ _)) rfl hZ

theorem homeAtom_ok (s : State) (op : AtomOp) (size : Nat) (pa : Nat) (val : Nat) (cmp : Nat) (hZ : Ok s) :
    Ok (State.homeAtom s op size pa val cmp) := by
  unfold State.homeAtom
  repeat' first
    | extract_lets
    | with_reducible assumption
    | split
    | with_reducible apply homeWrite_ok
    | dsimp +zetaDelta only

theorem coreAtom_ok (s : State) (core : Nat) (slot : Nat) (x : SbAtom) (hZ : Ok s) :
    Ok (State.coreAtom s core slot x) := by
  unfold State.coreAtom
  repeat' first
    | extract_lets
    | with_reducible assumption
    | split
    | with_reducible apply atomLane_ok
    | with_reducible apply homeAtom_ok

theorem addRemoteWaiter_ok (s : State) (pa : Nat) (kind : Nat) (phase : Nat) (m : LMsg) (hZ : Ok s) : Ok (State.addRemoteWaiter s pa kind phase m) :=
  memOk_after (addRemoteWaiter_same _ _ _ _ _ (rfl : 524288 &&& 524288 = 524288) (Same.refl _ _)) rfl hZ

theorem performMsg_ok (s : State) (m : LMsg) (grant : Nat) (holds : Bool) (hZ : Ok s) :
    Ok (State.performMsg s m grant holds) := by
  unfold State.performMsg
  repeat' first
    | extract_lets
    | with_reducible assumption
    | split
    | with_reducible apply addRemoteWaiter_ok
    | with_reducible apply arriveBarrier_ok
    | with_reducible apply homeAtom_ok
    | with_reducible apply homeWrite_ok
    | with_reducible apply sendMsg_ok
    | with_reducible apply serveCounting_ok
    | with_reducible apply signalCount_ok
    | dsimp +zetaDelta only

theorem sendSnoops_ok (s : State) (l : Nat) (aux : Nat) (ts : List Nat) (hZ : Ok s) : Ok (State.sendSnoops s l aux ts) :=
  memOk_after (sendSnoops_same _ _ _ _ (rfl : 824634769408 &&& 824634769408 = 824634769408) (Same.refl _ _)) rfl hZ

theorem actTx_ok (s : State) (tx : HomeTx) (holds : Bool) (hZ : Ok s) :
    Ok (State.actTx s tx holds) := by
  unfold State.actTx
  repeat' first
    | extract_lets
    | with_reducible assumption
    | split
    | with_reducible apply coreAtom_ok
    | with_reducible apply homeWrite_ok
    | with_reducible apply performMsg_ok
    | with_reducible apply signalCount_ok
    | with_reducible apply memOk_foldl
    | intro _

theorem serveLine_ok (s : State) (l : Nat) (hZ : Ok s) :
    Ok (State.serveLine s l) := by
  unfold State.serveLine
  repeat' first
    | extract_lets
    | with_reducible assumption
    | split
    | with_reducible apply serveObj_ok
    | with_reducible apply memOk_foldl
    | intro _

theorem cxlAnswer_ok (s : State) (tx : HomeTx) (hZ : Ok s) : Ok (State.cxlAnswer s tx) :=
  memOk_after (cxlAnswer_same _ _ (rfl : 549755813888 &&& 549755813888 = 549755813888) (Same.refl _ _)) rfl hZ

theorem performTx_ok (s : State) (l : Nat) (tx : HomeTx) (hZ : Ok s) :
    Ok (State.performTx s l tx) := by
  unfold State.performTx
  repeat' first
    | extract_lets
    | with_reducible assumption
    | split
    | with_reducible apply actTx_ok
    | with_reducible apply cxlAnswer_ok
    | with_reducible apply makeRoom_ok
    | with_reducible apply serveLine_ok
    | with_reducible apply updLine_ok
    | with_reducible apply useLine_ok
    | dsimp +zetaDelta only

theorem startTx_ok (s : State) (l : Nat) (tx : HomeTx) (hZ : Ok s) :
    Ok (State.startTx s l tx) := by
  unfold State.startTx
  repeat' first
    | extract_lets
    | with_reducible assumption
    | split
    | with_reducible apply performTx_ok
    | with_reducible apply sendSnoops_ok
    | with_reducible apply updLine_ok
    | dsimp +zetaDelta only

theorem startWaiting_ok (s : State) (slice : Nat) (hZ : Ok s) :
    Ok (State.startWaiting s slice) := by
  unfold State.startWaiting
  repeat' first
    | extract_lets
    | with_reducible assumption
    | split
    | with_reducible apply startTx_ok
    | with_reducible apply updLine_ok

theorem evictEntry_ok (s : State) (slice : Nat) (hZ : Ok s) :
    Ok (State.evictEntry s slice) := by
  unfold State.evictEntry
  repeat' first
    | extract_lets
    | with_reducible assumption
    | split
    | with_reducible apply sendSnoops_ok
    | with_reducible apply startWaiting_ok
    | with_reducible apply updLine_ok
    | dsimp +zetaDelta only

theorem admitTx_ok (s : State) (l : Nat) (tx : HomeTx) (hZ : Ok s) :
    Ok (State.admitTx s l tx) := by
  unfold State.admitTx
  repeat' first
    | extract_lets
    | with_reducible assumption
    | split
    | with_reducible apply evictEntry_ok
    | with_reducible apply startTx_ok
    | with_reducible apply updLine_ok

theorem requestLine_ok (s : State) (l : Nat) (tx : HomeTx) (hZ : Ok s) :
    Ok (State.requestLine s l tx) := by
  unfold State.requestLine
  repeat' first
    | extract_lets
    | with_reducible assumption
    | split
    | with_reducible apply admitTx_ok
    | with_reducible apply sendMsg_ok
    | with_reducible apply updLine_ok
    | dsimp +zetaDelta only

theorem endTx_ok (s : State) (l : Nat) (hZ : Ok s) :
    Ok (State.endTx s l) := by
  unfold State.endTx
  repeat' first
    | extract_lets
    | with_reducible assumption
    | split
    | with_reducible apply admitTx_ok
    | with_reducible apply sendMsg_ok
    | with_reducible apply startWaiting_ok
    | with_reducible apply updLine_ok
    | dsimp +zetaDelta only

theorem requestOnce_ok (s : State) (l : Nat) (tx : HomeTx) (hZ : Ok s) :
    Ok (State.requestOnce s l tx) := by
  unfold State.requestOnce
  repeat' first
    | extract_lets
    | with_reducible assumption
    | split
    | with_reducible apply endTx_ok
    | with_reducible apply requestLine_ok
    | dsimp +zetaDelta only

theorem snoopAck_ok (s : State) (l : Nat) (node : Nat) (data : List (Nat × Byte)) (hZ : Ok s) :
    Ok (State.snoopAck s l node data) := by
  unfold State.snoopAck
  repeat' first
    | extract_lets
    | with_reducible assumption
    | split
    | with_reducible apply homeWrite_ok
    | with_reducible apply performTx_ok
    | with_reducible apply updLine_ok
    | dsimp +zetaDelta only

theorem askHome_ok (s : State) (w : HomeWho) (kind : HomeKind) (line : Nat) (hZ : Ok s) :
    Ok (State.askHome s w kind line) := by
  unfold State.askHome
  repeat' first
    | extract_lets
    | with_reducible assumption
    | split
    | with_reducible apply requestOnce_ok
    | dsimp +zetaDelta only

theorem askLine_ok (s : State) (w : HomeWho) (line : Nat) (hZ : Ok s) :
    Ok (State.askLine s w line) := by
  unfold State.askLine
  repeat' first
    | extract_lets
    | with_reducible assumption
    | split
    | with_reducible apply askHome_ok

theorem askOwn_ok (s : State) (w : HomeWho) (line : Nat) (hZ : Ok s) :
    Ok (State.askOwn s w line) := by
  unfold State.askOwn
  repeat' first
    | extract_lets
    | with_reducible assumption
    | split
    | with_reducible apply askHome_ok

theorem takeOwn_ok (s : State) (line : Nat) (hZ : Ok s) : Ok (State.takeOwn s line) :=
  memOk_after (takeOwn_same _ _ (rfl : 824636866560 &&& 824636866560 = 824636866560) (Same.refl _ _)) rfl hZ

theorem askRead_ok (s : State) (w : HomeWho) (a : Asker) (line : Nat) (hZ : Ok s) :
    Ok (State.askRead s w a line) := by
  unfold State.askRead
  repeat' first
    | extract_lets
    | with_reducible assumption
    | split
    | with_reducible apply askHome_ok
    | with_reducible apply sendReq_ok

theorem askReads_ok (s : State) (w : HomeWho) (a : Asker) (ls : List Nat) (hZ : Ok s) :
    Ok (State.askReads s w a ls) := by
  unfold State.askReads
  repeat' first
    | extract_lets
    | with_reducible assumption
    | split
    | with_reducible apply askRead_ok
    | with_reducible apply memOk_foldl
    | intro _

theorem writeHeld_ok (s : State) (line : Nat) (cells : List (Nat × Byte)) (hZ : Ok s) :
    Ok (State.writeHeld s line cells) := by
  unfold State.writeHeld
  repeat' first
    | extract_lets
    | with_reducible assumption
    | split
    | with_reducible apply updLine_ok
    | with_reducible apply useLine_ok
    | with_reducible apply writeCells_ok

theorem postLine_ok (s : State) (id : Nat) (a : Asker) (na : Bool) (cells : List (Nat × Byte)) (hZ : Ok s) :
    Ok (State.postLine s id a na cells) := by
  unfold State.postLine
  repeat' first
    | extract_lets
    | with_reducible assumption
    | split
    | with_reducible apply dropStore_ok
    | with_reducible apply emitWrites_ok
    | with_reducible apply requestOnce_ok
    | with_reducible apply sendReq_ok
    | with_reducible apply writeCells_ok
    | with_reducible apply writeHeld_ok
    | with_reducible apply memOk_foldl
    | intro _
    | dsimp +zetaDelta only

theorem post_ok (s : State) (id : Nat) (a : Asker) (na : Bool) (cells : List (Nat × Byte)) (hZ : Ok s) :
    Ok (State.post s id a na cells) := by
  unfold State.post
  repeat' first
    | extract_lets
    | with_reducible assumption
    | split
    | with_reducible apply postLine_ok
    | with_reducible apply memOk_foldl
    | intro _

theorem postBytes_ok (s : State) (id : Nat) (a : Asker) (na : Bool) (pa : Nat) (bs : List Byte) (hZ : Ok s) :
    Ok (State.postBytes s id a na pa bs) := by
  unfold State.postBytes
  repeat' first
    | extract_lets
    | with_reducible assumption
    | split
    | with_reducible apply post_ok

theorem askOwnOf_ok (s : State) (w : HomeWho) (a : Asker) (line : Nat) (hZ : Ok s) :
    Ok (State.askOwnOf s w a line) := by
  unfold State.askOwnOf
  repeat' first
    | extract_lets
    | with_reducible assumption
    | split
    | with_reducible apply askHome_ok
    | with_reducible apply sendReq_ok

theorem askOwns_ok (s : State) (w : HomeWho) (a : Asker) (ls : List Nat) (hZ : Ok s) :
    Ok (State.askOwns s w a ls) := by
  unfold State.askOwns
  repeat' first
    | extract_lets
    | with_reducible assumption
    | split
    | with_reducible apply askOwnOf_ok
    | with_reducible apply memOk_foldl
    | intro _

theorem postSignal_ok (s : State) (id : Nat) (a : Asker) (pa : Nat) (n : Nat) (hZ : Ok s) :
    Ok (State.postSignal s id a pa n) := by
  unfold State.postSignal
  repeat' first
    | extract_lets
    | with_reducible assumption
    | split
    | with_reducible apply requestOnce_ok
    | with_reducible apply sendReq_ok

theorem gatePut_ok (s : State) (cid : Nat) (c : Nat) (pa : Nat) (bs : List Byte) (hZ : Ok s) :
    Ok (State.gatePut s cid c pa bs) := by
  unfold State.gatePut
  repeat' first
    | extract_lets
    | with_reducible assumption
    | split
    | with_reducible apply postBytes_ok

theorem gateAsk_ok (s : State) (cid : Nat) (c : Nat) (reads : List Nat) (owns : List Nat) (hZ : Ok s) :
    Ok (State.gateAsk s cid c reads owns) := by
  unfold State.gateAsk
  repeat' first
    | extract_lets
    | with_reducible assumption
    | split
    | with_reducible apply askOwns_ok
    | with_reducible apply askReads_ok

theorem updMover_ok (s : State) (m : Nat) (f : Mover → Mover) (hZ : Ok s) : Ok (State.updMover s m f) :=
  memOk_after (updMover_same _ _ _ (rfl : 268435456 &&& 268435456 = 268435456) (Same.refl _ _)) rfl hZ

theorem updChan_ok (s : State) (m : Nat) (c : Nat) (f : Chan → Chan) (hZ : Ok s) : Ok (State.updChan s m c f) :=
  memOk_after (updChan_same _ _ _ _ (rfl : 268435456 &&& 268435456 = 268435456) (Same.refl _ _)) rfl hZ

theorem chanWrite_ok (s : State) (m : Nat) (c : Nat) (a : Nat) (bs : List Byte) (hZ : Ok s) :
    Ok (State.chanWrite s m c a bs) := by
  unfold State.chanWrite
  repeat' first
    | extract_lets
    | with_reducible assumption
    | split
    | with_reducible apply postBytes_ok

theorem endDesc_ok (s : State) (m : Nat) (c : Nat) (st : Nat) (residue : Nat) (hZ : Ok s) :
    Ok (State.endDesc s m c st residue) := by
  unfold State.endDesc
  repeat' first
    | extract_lets
    | with_reducible assumption
    | split
    | with_reducible apply chanWrite_ok
    | with_reducible apply latch_ok
    | with_reducible apply updChan_ok
    | dsimp +zetaDelta only

theorem paceCount_ok (s : State) (m : Nat) (c : Nat) (srcBytes : Nat) (dstBytes : Nat) (hZ : Ok s) :
    Ok (State.paceCount s m c srcBytes dstBytes) := by
  unfold State.paceCount
  repeat' first
    | extract_lets
    | with_reducible assumption
    | split
    | with_reducible apply chanWrite_ok
    | dsimp +zetaDelta only

theorem askBurst_ok (s : State) (m : Nat) (c : Nat) (hZ : Ok s) :
    Ok (State.askBurst s m c) := by
  unfold State.askBurst
  repeat' first
    | extract_lets
    | with_reducible assumption
    | split
    | with_reducible apply askReads_ok

theorem writeBurst_ok (s : State) (m : Nat) (c : Nat) (hZ : Ok s) :
    Ok (State.writeBurst s m c) := by
  unfold State.writeBurst
  repeat' first
    | extract_lets
    | with_reducible assumption
    | split
    | with_reducible apply paceCount_ok
    | with_reducible apply post_ok
    | with_reducible apply postSignal_ok
    | with_reducible apply updChan_ok
    | dsimp +zetaDelta only

theorem writeSome_ok (s : State) (m : Nat) (c : Nat) (na : Bool) (cells : List (Nat × Byte)) (hZ : Ok s) :
    Ok (State.writeSome s m c na cells) := by
  unfold State.writeSome
  repeat' first
    | extract_lets
    | with_reducible assumption
    | split
    | with_reducible apply freshNext_ok
    | with_reducible apply post_ok
    | with_reducible apply memOk_foldl
    | intro _

theorem abortChan_ok (s : State) (m : Nat) (c : Nat) (hZ : Ok s) :
    Ok (State.abortChan s m c) := by
  unfold State.abortChan
  repeat' first
    | extract_lets
    | with_reducible assumption
    | split
    | with_reducible apply endDesc_ok
    | with_reducible apply freshNext_ok
    | with_reducible apply latch_ok
    | with_reducible apply updChan_ok
    | with_reducible apply writeBurst_ok
    | with_reducible apply writeSome_ok
    | dsimp +zetaDelta only

theorem freeChan_ok (s : State) (m : Nat) (c : Nat) (hZ : Ok s) : Ok (State.freeChan s m c) :=
  memOk_after (freeChan_same _ _ _ (rfl : 268435456 &&& 268435456 = 268435456) (Same.refl _ _)) rfl hZ

theorem placeChan_ok (s : State) (mc : Nat × Nat) (cmd : Cmd) (ds : List MDesc) (hZ : Ok s) : Ok (State.placeChan s mc cmd ds) :=
  memOk_after (placeChan_same _ _ _ _ (rfl : 268435968 &&& 268435968 = 268435968) (Same.refl _ _)) rfl hZ

theorem updGroup_ok (s : State) (cid : Nat) (g : Nat) (f : Group → Group) (hZ : Ok s) : Ok (State.updGroup s cid g f) :=
  memOk_after (updGroup_same _ _ _ _ (rfl : 262144 &&& 262144 = 262144) (Same.refl _ _)) rfl hZ

theorem wakeMx_ok (s : State) (core : Nat) (hZ : Ok s) : Ok (State.wakeMx s core) :=
  memOk_after (wakeMx_same _ _ (rfl : 131072 &&& 131072 = 131072) (Same.refl _ _)) rfl hZ

theorem writeSlot_ok (s : State) (core : Nat) (hZ : Ok s) :
    Ok (State.writeSlot s core) := by
  unfold State.writeSlot
  repeat' first
    | extract_lets
    | with_reducible assumption
    | split
    | with_reducible apply writeBytes_ok

theorem installMx_ok (s : State) (core : Nat) (hZ : Ok s) :
    Ok (State.installMx s core) := by
  unfold State.installMx
  repeat' first
    | extract_lets
    | with_reducible assumption
    | split
    | with_reducible apply updCore_ok
    | with_reducible apply updGroup_ok
    | with_reducible apply writeSlot_ok
    | dsimp +zetaDelta only

theorem releaseUnit_ok (s : State) (core : Nat) (hZ : Ok s) :
    Ok (State.releaseUnit s core) := by
  unfold State.releaseUnit
  repeat' first
    | extract_lets
    | with_reducible assumption
    | split
    | with_reducible apply installMx_ok
    | with_reducible apply updCore_ok
    | with_reducible apply wakeMx_ok

theorem dropChainWaiters_ok (s : State) (core : Nat) (slot : Nat) (hZ : Ok s) : Ok (State.dropChainWaiters s core slot) :=
  memOk_after (dropChainWaiters_same _ _ _ (rfl : 274878431232 &&& 274878431232 = 274878431232) (Same.refl _ _)) rfl hZ

theorem leaveMxq_ok (s : State) (core : Nat) (slot : Nat) (hZ : Ok s) : Ok (State.leaveMxq s core slot) :=
  memOk_after (leaveMxq_same _ _ _ (rfl : 131072 &&& 131072 = 131072) (Same.refl _ _)) rfl hZ

theorem clearSlots_ok (s : State) (core : Nat) (a2 : List Nat) (hZ : Ok s) : Ok (State.clearSlots s core a2) :=
  memOk_after (clearSlots_same _ _ _ (rfl : 274878562304 &&& 274878562304 = 274878562304) (Same.refl _ _)) rfl hZ

theorem dropGroup_ok (s : State) (cid : Nat) (g : Nat) (hZ : Ok s) :
    Ok (State.dropGroup s cid g) := by
  unfold State.dropGroup
  repeat' first
    | extract_lets
    | with_reducible assumption
    | split
    | with_reducible apply clearSlots_ok
    | with_reducible apply releaseUnit_ok
    | with_reducible apply ok_groups_upd
    | dsimp +zetaDelta only

theorem stopGroups_ok (s : State) (cid : Nat) (hZ : Ok s) :
    Ok (State.stopGroups s cid) := by
  unfold State.stopGroups
  repeat' first
    | extract_lets
    | with_reducible assumption
    | split
    | with_reducible apply dropChainWaiters_ok
    | with_reducible apply dropGroup_ok
    | with_reducible apply updGroup_ok
    | with_reducible apply memOk_foldl
    | intro _

theorem dropGroups_ok (s : State) (cid : Nat) (hZ : Ok s) :
    Ok (State.dropGroups s cid) := by
  unfold State.dropGroups
  repeat' first
    | extract_lets
    | with_reducible assumption
    | split
    | with_reducible apply dropGroup_ok
    | with_reducible apply memOk_foldl
    | intro _

theorem preempt_ok (s : State) (cid : Nat) (g : Nat) (toReset : Bool) (hZ : Ok s) : Ok (State.preempt s cid g toReset) :=
  memOk_after (preempt_same _ _ _ _ (rfl : 393216 &&& 393216 = 393216) (Same.refl _ _)) rfl hZ

theorem saveWaits_ok (s : State) (core : Nat) (slot : Nat) (hZ : Ok s) : Ok (State.saveWaits s core slot) :=
  memOk_after (saveWaits_same _ _ _ (rfl : 274877906944 &&& 274877906944 = 274877906944) (Same.refl _ _)) rfl hZ

theorem saveGroup_ok (s : State) (cid : Nat) (g : Nat) (hZ : Ok s) :
    Ok (State.saveGroup s cid g) := by
  unfold State.saveGroup
  repeat' first
    | extract_lets
    | with_reducible assumption
    | split
    | with_reducible apply clearSlots_ok
    | with_reducible apply releaseUnit_ok
    | with_reducible apply saveWaits_ok
    | with_reducible apply updGroup_ok
    | with_reducible apply updHide_ok
    | with_reducible apply writeBytes_ok
    | with_reducible apply memOk_foldl
    | intro _
    | dsimp +zetaDelta only

theorem updAcre_ok (s : State) (h : Nat) (f : Acre → Acre) (hZ : Ok s) : Ok (State.updAcre s h f) :=
  memOk_after (updAcre_same _ _ _ (rfl : 4194304 &&& 4194304 = 4194304) (Same.refl _ _)) rfl hZ

theorem releaseUnits_ok (s : State) (h : Nat) (hZ : Ok s) : Ok (State.releaseUnits s h) :=
  memOk_after (releaseUnits_same _ _ (rfl : 131072 &&& 131072 = 131072) (Same.refl _ _)) rfl hZ

theorem acreBoundary_ok (s : State) (h : Nat) (hZ : Ok s) : Ok (State.acreBoundary s h) :=
  memOk_after (acreBoundary_same _ _ (rfl : 4194304 &&& 4194304 = 4194304) (Same.refl _ _)) rfl hZ

theorem acreLeft_ok (s : State) (h : Nat) (hZ : Ok s) : Ok (State.acreLeft s h) :=
  memOk_after (acreLeft_same _ _ (rfl : 4325376 &&& 4325376 = 4325376) (Same.refl _ _)) rfl hZ

theorem dropAcre_ok (s : State) (h : Nat) (cid : Nat) (hZ : Ok s) : Ok (State.dropAcre s h cid) :=
  memOk_after (dropAcre_same _ _ _ (rfl : 4325376 &&& 4325376 = 4325376) (Same.refl _ _)) rfl hZ

theorem dropChans_ok (s : State) (cid : Nat) (hZ : Ok s) :
    Ok (State.dropChans s cid) := by
  unfold State.dropChans
  repeat' first
    | extract_lets
    | with_reducible assumption
    | split
    | with_reducible apply abortChan_ok
    | with_reducible apply freeChan_ok
    | with_reducible apply memOk_foldl
    | intro _

theorem updEngine_ok (s : State) (e : Nat) (f : Engine → Engine) (hZ : Ok s) : Ok (State.updEngine s e f) :=
  memOk_after (updEngine_same _ _ _ (rfl : 68719476736 &&& 68719476736 = 68719476736) (Same.refl _ _)) rfl hZ

theorem abortForeign_ok (s : State) (c : Cmd) (hZ : Ok s) : Ok (State.abortForeign s c) :=
  memOk_after (abortForeign_same _ _ (rfl : 618475290624 &&& 618475290624 = 618475290624) (Same.refl _ _)) rfl hZ

theorem updPlan_ok (s : State) (p : Nat) (f : Plan → Plan) (hZ : Ok s) : Ok (State.updPlan s p f) :=
  memOk_after (updPlan_same _ _ _ (rfl : 33554432 &&& 33554432 = 33554432) (Same.refl _ _)) rfl hZ

theorem updSeq_ok (s : State) (e : Nat) (f : Seq → Seq) (hZ : Ok s) : Ok (State.updSeq s e f) :=
  memOk_after (updSeq_same _ _ _ (rfl : 67108864 &&& 67108864 = 67108864) (Same.refl _ _)) rfl hZ

theorem endWrites_ok (s : State) (cid : Nat) (st : Nat) (err : Option ErrInfo) (hZ : Ok s) :
    Ok (State.endWrites s cid st err) := by
  unfold State.endWrites
  repeat' first
    | extract_lets
    | with_reducible assumption
    | split
    | with_reducible apply complete_ok
    | with_reducible apply decided_ok
    | with_reducible apply updCmd_ok

theorem putSsb_ok (s : State) (cid : Nat) (c : Nat) (pa : Nat) (id : Nat) (state : Nat) (hold : Nat) (pos : Nat) (emitted : Nat) (stopped : Bool) (hZ : Ok s) :
    Ok (State.putSsb s cid c pa id state hold pos emitted stopped) := by
  unfold State.putSsb
  repeat' first
    | extract_lets
    | with_reducible assumption
    | split
    | with_reducible apply post_ok

theorem seqSsb_ok (s : State) (cid : Nat) (e : Nat) (hZ : Ok s) :
    Ok (State.seqSsb s cid e) := by
  unfold State.seqSsb
  repeat' first
    | extract_lets
    | with_reducible assumption
    | split
    | with_reducible apply putSsb_ok
    | dsimp +zetaDelta only

theorem freeSsb_ok (s : State) (cid : Nat) (c : Nat) (pa : Nat) (hZ : Ok s) :
    Ok (State.freeSsb s cid c pa) := by
  unfold State.freeSsb
  repeat' first
    | extract_lets
    | with_reducible assumption
    | split
    | with_reducible apply post_ok

theorem closeSeq_ok (s : State) (cid : Nat) (e : Nat) (hZ : Ok s) :
    Ok (State.closeSeq s cid e) := by
  unfold State.closeSeq
  repeat' first
    | extract_lets
    | with_reducible assumption
    | split
    | with_reducible apply freeSsb_ok
    | with_reducible apply updPlan_ok
    | with_reducible apply updSeq_ok
    | with_reducible apply wmCheck_ok
    | dsimp +zetaDelta only

theorem closeWaiting_ok (s : State) (e : Nat) (hZ : Ok s) :
    Ok (State.closeWaiting s e) := by
  unfold State.closeWaiting
  repeat' first
    | extract_lets
    | with_reducible assumption
    | split
    | with_reducible apply closeSeq_ok
    | with_reducible apply endWrites_ok
    | with_reducible apply updSeq_ok

theorem undoOne_ok (s : State) (cid : Nat) (x : Nat × Seq × List Byte) (hZ : Ok s) :
    Ok (State.undoOne s cid x) := by
  unfold State.undoOne
  repeat' first
    | extract_lets
    | with_reducible assumption
    | split
    | with_reducible apply post_ok
    | with_reducible apply updSeq_ok
    | dsimp +zetaDelta only

theorem abandonStep_ok (s : State) (p : Nat) (hZ : Ok s) :
    Ok (State.abandonStep s p) := by
  unfold State.abandonStep
  repeat' first
    | extract_lets
    | with_reducible assumption
    | split
    | with_reducible apply closeWaiting_ok
    | with_reducible apply undoOne_ok
    | with_reducible apply updPlan_ok
    | with_reducible apply wmCheck_ok
    | with_reducible apply memOk_foldl
    | intro _
    | dsimp +zetaDelta only

theorem leaveEngine_ok (s : State) (cid : Nat) (hZ : Ok s) :
    Ok (State.leaveEngine s cid) := by
  unfold State.leaveEngine
  repeat' first
    | extract_lets
    | with_reducible assumption
    | split
    | with_reducible apply abortForeign_ok
    | with_reducible apply dropAcre_ok
    | with_reducible apply dropChans_ok
    | with_reducible apply dropGroups_ok
    | with_reducible apply ok_waiters_upd
    | with_reducible apply ok_fab_upd
    | dsimp +zetaDelta only
    | with_reducible assumption
    | exact rfl
    | with_reducible apply memOk_mk

theorem leaveStep_ok (s : State) (cid : Nat) (hZ : Ok s) :
    Ok (State.leaveStep s cid) := by
  unfold State.leaveStep
  repeat' first
    | extract_lets
    | with_reducible assumption
    | split
    | with_reducible apply abandonStep_ok
    | with_reducible apply dropCmd_ok
    | with_reducible apply leaveEngine_ok
    | with_reducible apply unqueue_ok
    | with_reducible apply ok_plans_upd
    | dsimp +zetaDelta only

theorem killCmd_ok (s : State) (cid : Nat) (st : Nat) (err : Option ErrInfo) (hZ : Ok s) :
    Ok (State.killCmd s cid st err) := by
  unfold State.killCmd
  repeat' first
    | extract_lets
    | with_reducible assumption
    | split
    | with_reducible apply complete_ok
    | with_reducible apply leaveEngine_ok
    | with_reducible apply leaveStep_ok
    | dsimp +zetaDelta only

theorem stopCmd_ok (s : State) (cid : Nat) (st : Nat) (err : Option ErrInfo) (hZ : Ok s) :
    Ok (State.stopCmd s cid st err) := by
  unfold State.stopCmd
  repeat' first
    | extract_lets
    | with_reducible assumption
    | split
    | with_reducible apply decided_ok
    | with_reducible apply leaveEngine_ok
    | with_reducible apply leaveStep_ok
    | with_reducible apply stopGroups_ok
    | with_reducible apply updCmd_ok
    | dsimp +zetaDelta only

theorem freeObjects_ok (s : State) (hZ : Ok s) : Ok (State.freeObjects s) :=
  memOk_after (freeObjects_same _ (rfl : 8192 &&& 8192 = 8192) (Same.refl _ _)) rfl hZ

theorem dropTlb_ok (s : State) (c : Nat) (hZ : Ok s) : Ok (State.dropTlb s c) :=
  memOk_after (dropTlb_same _ _ (rfl : 32768 &&& 32768 = 32768) (Same.refl _ _)) rfl hZ

theorem dropCode_ok (s : State) (c : Nat) (hZ : Ok s) : Ok (State.dropCode s c) :=
  memOk_after (dropCode_same _ _ (rfl : 131072 &&& 131072 = 131072) (Same.refl _ _)) rfl hZ

theorem unloadPlan_ok (s : State) (p : Nat) (hZ : Ok s) : Ok (State.unloadPlan s p) :=
  memOk_after (unloadPlan_same _ _ (rfl : 1107296256 &&& 1107296256 = 1107296256) (Same.refl _ _)) rfl hZ

theorem dropServing_ok (s : State) (c : Nat) (hZ : Ok s) :
    Ok (State.dropServing s c) := by
  unfold State.dropServing
  repeat' first
    | extract_lets
    | with_reducible assumption
    | split
    | with_reducible apply unloadPlan_ok
    | with_reducible apply updHide_ok
    | with_reducible apply wmCheck_ok
    | with_reducible apply memOk_foldl
    | with_reducible apply ok_seqs_upd
    | intro _
    | dsimp +zetaDelta only

theorem forgetBuild_ok (s : State) (c : Nat) (hZ : Ok s) : Ok (State.forgetBuild s c) :=
  memOk_after (forgetBuild_same _ _ (rfl : 100663296 &&& 100663296 = 100663296) (Same.refl _ _)) rfl hZ

theorem markGone_ok (s : State) (fn : Nat) (c : Nat) (hZ : Ok s) : Ok (State.markGone s fn c) :=
  memOk_after (markGone_same _ _ _ (rfl : 128 &&& 128 = 128) (Same.refl _ _)) rfl hZ

theorem destroyCtx_ok (s : State) (c : Nat) (st : Nat) (err : Option ErrInfo) (asked : Option Nat) (hZ : Ok s) :
    Ok (State.destroyCtx s c st err asked) := by
  unfold State.destroyCtx
  repeat' first
    | extract_lets
    | with_reducible assumption
    | split
    | with_reducible apply complete_ok
    | with_reducible apply dropCode_ok
    | with_reducible apply dropServing_ok
    | with_reducible apply dropTlb_ok
    | with_reducible apply emit_ok
    | with_reducible apply forgetBuild_ok
    | with_reducible apply freeObjects_ok
    | with_reducible apply killCmd_ok
    | with_reducible apply markGone_ok
    | with_reducible apply updCtx_ok
    | with_reducible apply wmCheck_ok
    | with_reducible apply memOk_foldl
    | with_reducible apply ok_store_upd
    | with_reducible apply ok_live_upd
    | with_reducible apply ok_allocs_upd
    | intro _
    | dsimp +zetaDelta only
    | with_reducible assumption
    | exact rfl
    | with_reducible apply memOk_mk

theorem bumpGen_ok (s : State) (c : Nat) (hZ : Ok s) : Ok (State.bumpGen s c) :=
  memOk_after (bumpGen_same _ _ (rfl : 2048 &&& 2048 = 2048) (Same.refl _ _)) rfl hZ

theorem restartCmd_ok (s : State) (c : Cmd) (hZ : Ok s) :
    Ok (State.restartCmd s c) := by
  unfold State.restartCmd
  repeat' first
    | extract_lets
    | with_reducible assumption
    | split
    | with_reducible apply leaveEngine_ok
    | with_reducible apply unqueue_ok
    | with_reducible apply updCmd_ok
    | with_reducible apply updHide_ok
    | dsimp +zetaDelta only

theorem fenceCmd_ok (s : State) (c : Cmd) (hZ : Ok s) :
    Ok (State.fenceCmd s c) := by
  unfold State.fenceCmd
  repeat' first
    | extract_lets
    | with_reducible assumption
    | split
    | with_reducible apply abortForeign_ok
    | with_reducible apply decided_ok
    | with_reducible apply dropGroups_ok
    | with_reducible apply leaveStep_ok
    | with_reducible apply preempt_ok
    | with_reducible apply restartCmd_ok
    | with_reducible apply updCmd_ok
    | with_reducible apply memOk_foldl
    | intro _
    | dsimp +zetaDelta only

theorem fenceCtx_ok (s : State) (c : Nat) (recovering : Bool) (hZ : Ok s) :
    Ok (State.fenceCtx s c recovering) := by
  unfold State.fenceCtx
  repeat' first
    | extract_lets
    | with_reducible assumption
    | split
    | with_reducible apply bumpGen_ok
    | with_reducible apply fenceCmd_ok
    | with_reducible apply updCtx_ok
    | with_reducible apply memOk_foldl
    | intro _
    | dsimp +zetaDelta only

theorem staleGen_ok (s : State) (c : Nat) (hZ : Ok s) : Ok (State.staleGen s c) :=
  memOk_after (staleGen_same _ _ (rfl : 4196352 &&& 4196352 = 4196352) (Same.refl _ _)) rfl hZ

theorem park_ok (s : State) (c : Nat) (hZ : Ok s) :
    Ok (State.park s c) := by
  unfold State.park
  repeat' first
    | extract_lets
    | with_reducible assumption
    | split
    | with_reducible apply postNotice_ok
    | with_reducible apply preempt_ok
    | with_reducible apply restartCmd_ok
    | with_reducible apply updChan_ok
    | with_reducible apply updCtx_ok
    | with_reducible apply memOk_foldl
    | intro _
    | dsimp +zetaDelta only

theorem load_ok (s : State) (c : Nat) (hZ : Ok s) : Ok (State.load s c) :=
  memOk_after (load_same _ _ (rfl : 268437504 &&& 268437504 = 268437504) (Same.refl _ _)) rfl hZ

theorem makeResident_ok {s : State} {c : Nat} {t : State} (h : s.makeResident c = some t)
    (hZ : Ok s) : Ok t := by
  unfold State.makeResident at h
  split at h
  · cases h
    repeat' first
      | extract_lets
      | with_reducible assumption
      | split
      | with_reducible apply load_ok
      | with_reducible apply park_ok
      | with_reducible apply updCtx_ok
  · split at h
    · cases h
      repeat' first
        | extract_lets
        | with_reducible assumption
        | split
        | with_reducible apply load_ok
    · rw [Option.map_eq_some_iff] at h
      obtain ⟨_, _, rfl⟩ := h
      repeat' first
        | extract_lets
        | with_reducible assumption
        | split
        | with_reducible apply load_ok
        | with_reducible apply park_ok

theorem writeExt_ok (s : State) (id : Nat) (a : Asker) (ps : List Piece) (ext : Nat) (off : Nat) (bs : List Byte) (hZ : Ok s) :
    Ok (State.writeExt s id a ps ext off bs) := by
  unfold State.writeExt
  repeat' first
    | extract_lets
    | with_reducible assumption
    | split
    | with_reducible apply post_ok

theorem gateExt_ok (s : State) (cid : Nat) (c : Nat) (ps : List Piece) (ext : Nat) (off : Nat) (bs : List Byte) (hZ : Ok s) :
    Ok (State.gateExt s cid c ps ext off bs) := by
  unfold State.gateExt
  repeat' first
    | extract_lets
    | with_reducible assumption
    | split
    | with_reducible apply writeExt_ok

theorem tlbAdd_ok (s : State) (e : TlbEnt) (hZ : Ok s) : Ok (State.tlbAdd s e) :=
  memOk_after (tlbAdd_same _ _ (rfl : 32768 &&& 32768 = 32768) (Same.refl _ _)) rfl hZ

theorem tlbTouch_ok (s : State) (c : Nat) (ps : List Piece) (hZ : Ok s) : Ok (State.tlbTouch s c ps) :=
  memOk_after (tlbTouch_same _ _ _ (rfl : 32768 &&& 32768 = 32768) (Same.refl _ _)) rfl hZ

theorem loadRuns_ok (s : State) (c : Nat) (locked : Bool) (runs : List (Nat × Nat)) (hZ : Ok s) : Ok (State.loadRuns s c locked runs) :=
  memOk_after (loadRuns_same _ _ _ _ (rfl : 32768 &&& 32768 = 32768) (Same.refl _ _)) rfl hZ

theorem lockCtx_ok (s : State) (c : Nat) (hZ : Ok s) :
    Ok (State.lockCtx s c) := by
  unfold State.lockCtx
  repeat' first
    | extract_lets
    | with_reducible assumption
    | split
    | with_reducible apply loadRuns_ok
    | with_reducible apply postErr_ok
    | dsimp +zetaDelta only

theorem unlockCtx_ok (s : State) (c : Nat) (hZ : Ok s) : Ok (State.unlockCtx s c) :=
  memOk_after (unlockCtx_same _ _ (rfl : 32768 &&& 32768 = 32768) (Same.refl _ _)) rfl hZ

theorem storeTouch_ok (s : State) (fn : Nat) (q : Nat) (pa : Nat) (len : Nat) (bits : Nat) (hZ : Ok s) : Ok (State.storeTouch s fn q pa len bits) :=
  memOk_after (storeTouch_same _ _ _ _ _ _ (rfl : 256 &&& 256 = 256) (Same.refl _ _)) rfl hZ

theorem ignored_ok (s : State) (n : Nat) (hZ : Ok s) : Ok (State.ignored s n) :=
  memOk_after (ignored_same _ _ (rfl : 549755813888 &&& 549755813888 = 549755813888) (Same.refl _ _)) rfl hZ

theorem rehome_ok (s : State) (n : Nat) (hZ : Ok s) :
    Ok (State.rehome s n) := by
  unfold State.rehome
  repeat' first
    | extract_lets
    | with_reducible assumption
    | split
    | with_reducible apply complete_ok
    | with_reducible apply updCmd_ok
    | with_reducible apply memOk_foldl
    | intro _

theorem writeVerSelect_ok (s : State) (n : Nat) (v : W16) (hZ : Ok s) : Ok (State.writeVerSelect s n v) :=
  memOk_after (writeVerSelect_same _ _ _ (rfl : 549755814016 &&& 549755814016 = 549755814016) (Same.refl _ _)) rfl hZ

theorem discardOut_ok (s : State) (hZ : Ok s) : Ok (State.discardOut s) :=
  memOk_after (discardOut_same _ (rfl : 2684485632 &&& 2684485632 = 2684485632) (Same.refl _ _)) rfl hZ

theorem startFnReset_ok (s : State) (n : Nat) (hZ : Ok s) :
    Ok (State.startFnReset s n) := by
  unfold State.startFnReset
  repeat' first
    | extract_lets
    | with_reducible assumption
    | split
    | with_reducible apply destroyCtx_ok
    | with_reducible apply discardOut_ok
    | with_reducible apply killCmd_ok
    | with_reducible apply updFn_ok
    | with_reducible apply memOk_foldl
    | intro _
    | dsimp +zetaDelta only

theorem endFnReset_ok (s : State) (n : Nat) (hZ : Ok s) : Ok (State.endFnReset s n) :=
  memOk_after (endFnReset_same _ _ (rfl : 384 &&& 384 = 384) (Same.refl _ _)) rfl hZ

theorem pinNow_ok (s : State) (c : Nat) (was : Bool) (hZ : Ok s) :
    Ok (State.pinNow s c was) := by
  unfold State.pinNow
  repeat' first
    | extract_lets
    | with_reducible assumption
    | split
    | with_reducible apply lockCtx_ok

theorem performEnable_ok (s : State) (n : Nat) (q : Nat) (hZ : Ok s) :
    Ok (State.performEnable s n q) := by
  unfold State.performEnable
  repeat' first
    | extract_lets
    | with_reducible assumption
    | split
    | with_reducible apply pinNow_ok
    | with_reducible apply stopQueue_ok
    | with_reducible apply updQueue_ok

theorem writeEnable_ok (s : State) (n : Nat) (q : Nat) (ctrl : W64) (hZ : Ok s) :
    Ok (State.writeEnable s n q ctrl) := by
  unfold State.writeEnable
  repeat' first
    | extract_lets
    | with_reducible assumption
    | split
    | with_reducible apply ignored_ok
    | with_reducible apply performEnable_ok
    | with_reducible apply updQueue_ok
    | dsimp +zetaDelta only

theorem writeDisable_ok (s : State) (n : Nat) (q : Nat) (ctrl : W64) (hZ : Ok s) : Ok (State.writeDisable s n q ctrl) :=
  memOk_after (writeDisable_same _ _ _ _ (rfl : 549755814016 &&& 549755814016 = 549755814016) (Same.refl _ _)) rfl hZ

theorem endDrain_ok (s : State) (n : Nat) (q : Nat) (hZ : Ok s) :
    Ok (State.endDrain s n q) := by
  unfold State.endDrain
  repeat' first
    | extract_lets
    | with_reducible assumption
    | split
    | with_reducible apply performEnable_ok
    | with_reducible apply unlockCtx_ok
    | with_reducible apply updQueue_ok
    | with_reducible apply ok_store_upd
    | dsimp +zetaDelta only

theorem askFetch_ok (s : State) (n : Nat) (q : Nat) (hZ : Ok s) :
    Ok (State.askFetch s n q) := by
  unfold State.askFetch
  repeat' first
    | extract_lets
    | with_reducible assumption
    | split
    | with_reducible apply emit_ok
    | with_reducible apply stopQueue_ok
    | with_reducible apply updQueue_ok
    | dsimp +zetaDelta only

theorem wakeQueues_ok (s : State) (c : Nat) (hZ : Ok s) :
    Ok (State.wakeQueues s c) := by
  unfold State.wakeQueues
  repeat' first
    | extract_lets
    | with_reducible assumption
    | split
    | with_reducible apply askFetch_ok
    | with_reducible apply updQueue_ok
    | with_reducible apply memOk_foldl
    | intro _
    | dsimp +zetaDelta only

theorem wantResident_ok (s : State) (n : Nat) (q : Nat) (hZ : Ok s) :
    Ok (State.wantResident s n q) := by
  unfold State.wantResident
  repeat' first
    | extract_lets
    | with_reducible assumption
    | split
    | with_reducible apply askFetch_ok
    | with_reducible refine makeResident_ok ‹_› ?_
    | with_reducible apply postNotice_ok
    | with_reducible apply updQueue_ok
    | with_reducible apply wakeQueues_ok
    | dsimp +zetaDelta only

theorem ringDoorbell_ok (s : State) (n : Nat) (q : Nat) (tail : W32) (hZ : Ok s) :
    Ok (State.ringDoorbell s n q tail) := by
  unfold State.ringDoorbell
  repeat' first
    | extract_lets
    | with_reducible assumption
    | split
    | with_reducible apply ignored_ok
    | with_reducible apply stopQueue_ok
    | with_reducible apply updQueue_ok
    | with_reducible apply wantResident_ok
    | dsimp +zetaDelta only

theorem writePush_ok (s : State) (n : Nat) (q : Nat) (off : Nat) (len : Nat) (data : Desc) (hZ : Ok s) : Ok (State.writePush s n q off len data) :=
  memOk_after (writePush_same _ _ _ _ _ _ (rfl : 549755814016 &&& 549755814016 = 549755814016) (Same.refl _ _)) rfl hZ

theorem writeCqHead_ok (s : State) (n : Nat) (q : Nat) (v : W32) (hZ : Ok s) : Ok (State.writeCqHead s n q v) :=
  memOk_after (writeCqHead_same _ _ _ _ (rfl : 549755814016 &&& 549755814016 = 549755814016) (Same.refl _ _)) rfl hZ

theorem settle_ok (s : State) (cid : Nat) (hZ : Ok s) :
    Ok (State.settle s cid) := by
  unfold State.settle
  repeat' first
    | extract_lets
    | with_reducible assumption
    | split
    | with_reducible apply complete_ok
    | with_reducible apply dropGroups_ok

theorem endCmd_ok (s : State) (cid : Nat) (st : Nat) (err : Option ErrInfo) (hZ : Ok s) :
    Ok (State.endCmd s cid st err) := by
  unfold State.endCmd
  repeat' first
    | extract_lets
    | with_reducible assumption
    | split
    | with_reducible apply killCmd_ok
    | with_reducible apply settle_ok
    | with_reducible apply stopCmd_ok

theorem abortQueue_ok (s : State) (n : Nat) (q : Nat) (hZ : Ok s) :
    Ok (State.abortQueue s n q) := by
  unfold State.abortQueue
  repeat' first
    | extract_lets
    | with_reducible assumption
    | split
    | with_reducible apply endCmd_ok
    | with_reducible apply ignored_ok
    | with_reducible apply memOk_foldl
    | intro _

theorem forget_ok (s : State) (a n : Nat) (hZ : Ok s) : Ok (s.forget a n) := by
  obtain ⟨h1, h2, h3⟩ := memOk_parts hZ
  have key : ∀ (l : List Nat) (t : Tbl Byte), twf t = true → twf (l.foldl (fun t i => terase t (a + i)) t) = true := by
    intro l
    induction l with
    | nil => exact fun _ h => h
    | cons i r ih => exact fun t h => ih _ (terase_twf _ h)
  exact memOk_of h1 h2 (key _ _ h3)

theorem writeMirror_ok (s : State) (n : Nat) (err : Bool) (cfg : W64) (hZ : Ok s) : Ok (State.writeMirror s n err cfg) :=
  memOk_after (writeMirror_same _ _ _ _ (rfl : 128 &&& 128 = 128) (Same.refl _ _)) rfl hZ

theorem enableEq_ok (s : State) (n : Nat) (err : Bool) (cfg : W64) (hZ : Ok s) : Ok (State.enableEq s n err cfg) :=
  memOk_after (enableEq_same _ _ _ _ (rfl : 558345748608 &&& 558345748608 = 558345748608) (Same.refl _ _)) rfl hZ

theorem disableEq_ok (s : State) (n : Nat) (err : Bool) (cfg : W64) (hZ : Ok s) : Ok (State.disableEq s n err cfg) :=
  memOk_after (disableEq_same _ _ _ _ (rfl : 558345748608 &&& 558345748608 = 558345748608) (Same.refl _ _)) rfl hZ

theorem writeEqHead_ok (s : State) (n : Nat) (err : Bool) (v : W32) (hZ : Ok s) : Ok (State.writeEqHead s n err v) :=
  memOk_after (writeEqHead_same _ _ _ _ (rfl : 558345748608 &&& 558345748608 = 558345748608) (Same.refl _ _)) rfl hZ

theorem failRecord_ok (s : State) (n : Nat) (err : Bool) (hZ : Ok s) :
    Ok (State.failRecord s n err) := by
  unfold State.failRecord
  repeat' first
    | extract_lets
    | with_reducible assumption
    | split
    | with_reducible apply forget_ok
    | with_reducible apply loseRecs_ok
    | with_reducible apply updRecq_ok
    | with_reducible apply memOk_foldl
    | intro _
    | dsimp +zetaDelta only

theorem writeStaged_ok (s : State) (d : Dest) (hZ : Ok s) :
    Ok (State.writeStaged s d) := by
  unfold State.writeStaged
  repeat' first
    | extract_lets
    | with_reducible assumption
    | split
    | with_reducible apply dropRecs_ok
    | with_reducible apply evseqNext_ok
    | with_reducible apply loseRecs_ok
    | with_reducible apply stageAsk_ok
    | with_reducible apply updRecq_ok
    | with_reducible apply writeRec_ok
    | dsimp +zetaDelta only

theorem ringsGoOn_ok (s : State) (n : Nat) (hZ : Ok s) :
    Ok (State.ringsGoOn s n) := by
  unfold State.ringsGoOn
  repeat' first
    | extract_lets
    | with_reducible assumption
    | split
    | with_reducible apply askFetch_ok
    | with_reducible apply payCq_ok
    | with_reducible apply stopRecord_ok
    | with_reducible apply writeStaged_ok
    | with_reducible apply memOk_foldl
    | intro _
    | dsimp +zetaDelta only

theorem retime_ok (s : State) (hZ : Ok s) : Ok (State.retime s) :=
  memOk_after (retime_same _ (rfl : 512 &&& 512 = 512) (Same.refl _ _)) rfl hZ

theorem progress_ok (s : State) (cid : Nat) (hZ : Ok s) : Ok (State.progress s cid) :=
  memOk_after (progress_same _ _ (rfl : 512 &&& 512 = 512) (Same.refl _ _)) rfl hZ

theorem hostPut_ok (s : State) (fn : Nat) (io : Nat) (bs : List Byte) (hZ : Ok s) :
    Ok (State.hostPut s fn io bs) := by
  unfold State.hostPut
  repeat' first
    | extract_lets
    | with_reducible assumption
    | split
    | with_reducible apply writeCells_ok

theorem writeBackPage_ok (s : State) (c : Nat) (m : Mapping) (hZ : Ok s) :
    Ok (State.writeBackPage s c m) := by
  unfold State.writeBackPage
  repeat' first
    | extract_lets
    | with_reducible assumption
    | split
    | with_reducible apply hostPut_ok
    | with_reducible apply updCtx_ok
    | with_reducible apply ok_allocs_upd
    | dsimp +zetaDelta only

theorem startMigration_ok (s : State) (w : Who) (va : Nat) (hZ : Ok s) :
    Ok (State.startMigration s w va) := by
  unfold State.startMigration
  repeat' first
    | extract_lets
    | with_reducible assumption
    | split
    | with_reducible apply updCtx_ok
    | with_reducible apply wmCheck_ok
    | with_reducible apply writeBackPage_ok
    | with_reducible apply zeroRun_ok
    | with_reducible apply ok_allocs_upd
    | dsimp +zetaDelta only

theorem touchMaps_ok (s : State) (c : Nat) (ps : List Piece) (hZ : Ok s) : Ok (State.touchMaps s c ps) :=
  memOk_after (touchMaps_same _ _ _ (rfl : 2048 &&& 2048 = 2048) (Same.refl _ _)) rfl hZ

theorem keepSide_ok (s : State) (c : Cmd) (v : Val) (hZ : Ok s) : Ok (State.keepSide s c v) :=
  memOk_after (keepSide_same _ _ _ (rfl : 256 &&& 256 = 256) (Same.refl _ _)) rfl hZ

theorem askSide_ok (s : State) (c : Cmd) (pa : Nat) (len : Nat) (hZ : Ok s) : Ok (State.askSide s c pa len) :=
  memOk_after (askSide_same _ _ _ _ (rfl : 824633720832 &&& 824633720832 = 824633720832) (Same.refl _ _)) rfl hZ

theorem applyVal_ok (s : State) (cid : Nat) (hZ : Ok s) :
    Ok (State.applyVal s cid) := by
  unfold State.applyVal
  repeat' first
    | extract_lets
    | with_reducible assumption
    | split
    | with_reducible apply askSide_ok
    | with_reducible apply complete_ok
    | with_reducible apply emit_ok
    | with_reducible apply keepSide_ok
    | with_reducible apply startMigration_ok
    | with_reducible apply tlbTouch_ok
    | with_reducible apply touchMaps_ok
    | with_reducible apply updCmd_ok

theorem gotSide_ok (s : State) (cid : Nat) (pa : Nat) (len : Nat) (hZ : Ok s) :
    Ok (State.gotSide s cid pa len) := by
  unfold State.gotSide
  repeat' first
    | extract_lets
    | with_reducible assumption
    | split
    | with_reducible apply applyVal_ok
    | with_reducible apply updCmd_ok
    | dsimp +zetaDelta only

theorem letIn_ok (s : State) (n : Nat) (q : Nat) (cid : Nat) (hZ : Ok s) :
    Ok (State.letIn s n q cid) := by
  unfold State.letIn
  repeat' first
    | extract_lets
    | with_reducible assumption
    | split
    | with_reducible apply applyVal_ok
    | with_reducible apply updQueue_ok

theorem accept_ok (s : State) (n : Nat) (q : Nat) (hZ : Ok s) :
    Ok (State.accept s n q) := by
  unfold State.accept
  repeat' first
    | extract_lets
    | with_reducible assumption
    | split
    | with_reducible apply applyVal_ok
    | with_reducible apply letIn_ok
    | with_reducible apply updCtx_ok
    | with_reducible apply updQueue_ok
    | with_reducible apply ok_cmds_upd
    | with_reducible apply ok_nextCid_upd
    | dsimp +zetaDelta only
    | with_reducible assumption
    | exact rfl
    | with_reducible apply memOk_mk

theorem activateQueue_ok (s : State) (h : Nat) (n : Nat) (q : Nat) (hZ : Ok s) : Ok (State.activateQueue s h n q) :=
  memOk_after (activateQueue_same _ _ _ _ (rfl : 128 &&& 128 = 128) (Same.refl _ _)) rfl hZ

theorem lookClass2_ok (s : State) (h : Nat) (hZ : Ok s) : Ok (State.lookClass2 s h) :=
  memOk_after (lookClass2_same _ _ (rfl : 128 &&& 128 = 128) (Same.refl _ _)) rfl hZ

theorem enterQueue_ok (s : State) (c : Cmd) (hZ : Ok s) : Ok (State.enterQueue s c) :=
  memOk_after (enterQueue_same _ _ (rfl : 34363933184 &&& 34363933184 = 34363933184) (Same.refl _ _)) rfl hZ

theorem schedule_ok (s : State) (h : Nat) (hZ : Ok s) :
    Ok (State.schedule s h) := by
  unfold State.schedule
  repeat' first
    | extract_lets
    | with_reducible assumption
    | split
    | with_reducible apply applyVal_ok
    | with_reducible apply enterQueue_ok
    | with_reducible apply lookClass2_ok
    | with_reducible apply updHide_ok
    | dsimp +zetaDelta only

theorem sendEvent_ok (s : State) (c : Cmd) (kind : Nat) (hZ : Ok s) : Ok (State.sendEvent s c kind) :=
  memOk_after (sendEvent_same _ _ _ (rfl : 824633720832 &&& 824633720832 = 824633720832) (Same.refl _ _)) rfl hZ

theorem setStored_ok (s : State) (p : Nat) (idx : Nat) (sub : Nat) (v : Nat) (hZ : Ok s) : Ok (State.setStored s p idx sub v) :=
  memOk_after (setStored_same _ _ _ _ _ (rfl : 4294967296 &&& 4294967296 = 4294967296) (Same.refl _ _)) rfl hZ

theorem journalDefault_ok (s : State) (p : Nat) (idx : Nat) (sub : Nat) (hZ : Ok s) :
    Ok (State.journalDefault s p idx sub) := by
  unfold State.journalDefault
  repeat' first
    | extract_lets
    | with_reducible assumption
    | split
    | with_reducible apply journal_ok

theorem powerPorts_ok (s : State) (hZ : Ok s) : Ok (State.powerPorts s) :=
  memOk_after (powerPorts_same _ (rfl : 34359738368 &&& 34359738368 = 34359738368) (Same.refl _ _)) rfl hZ

theorem capUnits_ok (s : State) (h : Nat) (hZ : Ok s) : Ok (State.capUnits s h) :=
  memOk_after (capUnits_same _ _ (rfl : 4294967296 &&& 4294967296 = 4294967296) (Same.refl _ _)) rfl hZ

theorem applyRestart_ok (s : State) (idx sub : Nat) (hZ : Ok s) : Ok (s.applyRestart idx sub) := by
  unfold State.applyRestart
  extract_lets w v s1
  have h0 : Ok s1 := setRun_ok _ _ _ _ (journalDefault_ok _ _ _ _ hZ)
  split
  · exact hZ
  · split
    · obtain ⟨h1, h2, h3⟩ := memOk_parts h0
      exact memOk_of (clear_wf _ _ h1) (filter_twf _ h2) h3
    · exact h0

theorem applyHide_ok (s : State) (h : Nat) (hZ : Ok s) :
    Ok (State.applyHide s h) := by
  unfold State.applyHide
  repeat' first
    | extract_lets
    | with_reducible assumption
    | split
    | with_reducible apply applyRestart_ok
    | with_reducible apply capUnits_ok
    | with_reducible apply powerPorts_ok
    | with_reducible apply memOk_foldl
    | intro _
    | dsimp +zetaDelta only

theorem refreshReady_ok (s : State) (n : Nat) (hZ : Ok s) : Ok (State.refreshReady s n) :=
  memOk_after (refreshReady_same _ _ (rfl : 128 &&& 128 = 128) (Same.refl _ _)) rfl hZ

theorem refreshAll_ok (s : State) (hZ : Ok s) : Ok (State.refreshAll s) :=
  memOk_after (refreshAll_same _ (rfl : 128 &&& 128 = 128) (Same.refl _ _)) rfl hZ

theorem logAlarm_ok (s : State) (code : Nat) (hZ : Ok s) : Ok (State.logAlarm s code) :=
  memOk_after (logAlarm_same _ _ (rfl : 8589934596 &&& 8589934596 = 8589934596) (Same.refl _ _)) rfl hZ

theorem postAlarm_ok (s : State) (i : Nat) (hZ : Ok s) :
    Ok (State.postAlarm s i) := by
  unfold State.postAlarm
  repeat' first
    | extract_lets
    | with_reducible assumption
    | split
    | with_reducible apply postGlobal_ok
    | with_reducible apply ok_ao_upd
    | dsimp +zetaDelta only

theorem postAlarms_ok (s : State) (hZ : Ok s) :
    Ok (State.postAlarms s) := by
  unfold State.postAlarms
  repeat' first
    | extract_lets
    | with_reducible assumption
    | split
    | with_reducible apply postAlarm_ok
    | with_reducible apply memOk_foldl
    | intro _

theorem storeAlarm_ok (s : State) (hZ : Ok s) :
    Ok (State.storeAlarm s) := by
  unfold State.storeAlarm
  repeat' first
    | extract_lets
    | with_reducible assumption
    | split
    | with_reducible apply logAlarm_ok
    | with_reducible apply postAlarms_ok

theorem flashDiscover_ok (s : State) (hZ : Ok s) : Ok (State.flashDiscover s) :=
  memOk_after (flashDiscover_same _ (rfl : 554050781184 &&& 554050781184 = 554050781184) (Same.refl _ _)) rfl hZ

theorem flashRead_ok (s : State) (addr : Nat) (len : Nat) (hZ : Ok s) : Ok (State.flashRead s addr len) :=
  memOk_after (flashRead_same _ _ _ (rfl : 549755813888 &&& 549755813888 = 549755813888) (Same.refl _ _)) rfl hZ

theorem flashErase_ok (s : State) (addr : Nat) (len : Nat) (hZ : Ok s) : Ok (State.flashErase s addr len) :=
  memOk_after (flashErase_same _ _ _ (rfl : 549755813888 &&& 549755813888 = 549755813888) (Same.refl _ _)) rfl hZ

theorem flashPages_ok (s : State) (addr : Nat) (bs : List Byte) (a3 : Nat) (hZ : Ok s) : Ok (State.flashPages s addr bs a3) :=
  memOk_after (flashPages_same _ _ _ _ (rfl : 549755813888 &&& 549755813888 = 549755813888) (Same.refl _ _)) rfl hZ

theorem flashProgram_ok (s : State) (addr : Nat) (bs : List Byte) (hZ : Ok s) : Ok (State.flashProgram s addr bs) :=
  memOk_after (flashProgram_same _ _ _ (rfl : 549755813888 &&& 549755813888 = 549755813888) (Same.refl _ _)) rfl hZ

theorem flashWrite_ok (s : State) (addr : Nat) (bs : List Byte) (hZ : Ok s) : Ok (State.flashWrite s addr bs) :=
  memOk_after (flashWrite_same _ _ _ (rfl : 549755813888 &&& 549755813888 = 549755813888) (Same.refl _ _)) rfl hZ

theorem writeHeader_ok (s : State) (ok : Bool) (hZ : Ok s) : Ok (State.writeHeader s ok) :=
  memOk_after (writeHeader_same _ _ (rfl : 554050781184 &&& 554050781184 = 554050781184) (Same.refl _ _)) rfl hZ

theorem readShift_ok (s : State) (h : Nat) (hZ : Ok s) : Ok (State.readShift s h) :=
  memOk_after (readShift_same _ _ (rfl : 549755813888 &&& 549755813888 = 549755813888) (Same.refl _ _)) rfl hZ

theorem withCtx_ok (s : State) (cid : Nat) (op : Nat) (f : Cmd → Nat → State) (hf : ∀ x0 x1, Ok (f x0 x1)) (hZ : Ok s) :
    Ok (State.withCtx s cid op f) := by
  unfold State.withCtx
  repeat' first
    | extract_lets
    | with_reducible assumption
    | split
    | with_reducible apply complete_ok
    | with_reducible apply hf

theorem writeResult_ok (s : State) (c : Cmd) (bs : List Byte) (hZ : Ok s) :
    Ok (State.writeResult s c bs) := by
  unfold State.writeResult
  repeat' first
    | extract_lets
    | with_reducible assumption
    | split
    | with_reducible apply gateExt_ok

theorem createCtx_ok (s : State) (c0 : Cmd) (hZ : Ok s) :
    Ok (State.createCtx s c0) := by
  unfold State.createCtx
  repeat' first
    | extract_lets
    | with_reducible assumption
    | split
    | with_reducible apply complete_ok
    | with_reducible apply endWrites_ok
    | with_reducible apply wmCheck_ok
    | with_reducible apply writeResult_ok
    | with_reducible apply zeroRun_ok
    | with_reducible apply ok_ctxs_upd
    | with_reducible apply ok_live_upd
    | with_reducible apply ok_allocs_upd
    | dsimp +zetaDelta only
    | with_reducible assumption
    | exact rfl
    | with_reducible apply memOk_mk

theorem allocPages_ok {s : State} {k : Nat} {obj : Nat} {psize : Nat} {a4 : Nat} {t : State} {v : List (Nat × Nat)}
    (h : State.allocPages s k obj psize a4 = some (t, v)) (hZ : Ok s) : Ok t :=
  memOk_after (allocPages_same _ _ _ _ _ _ _ h (rfl : 8192 &&& 8192 = 8192) (Same.refl _ _)) rfl hZ

theorem allocDev_ok {s : State} {k : Nat} {e : MapEnt} {t : State} {v : List (Nat × Nat)} (h : State.allocDev s k e = some (t, v)) (hZ : Ok s) : Ok t :=
  memOk_after (allocDev_same h (rfl : 8192 &&& 8192 = 8192) (Same.refl _ _)) rfl hZ

theorem addMaps_ok (s : State) (k : Nat) (ms : List Mapping) (hZ : Ok s) : Ok (State.addMaps s k ms) :=
  memOk_after (addMaps_same _ _ _ (rfl : 2048 &&& 2048 = 2048) (Same.refl _ _)) rfl hZ

theorem mapEntry_ok {s : State} {c : Cmd} {k va : Nat} {e : MapEnt} {t : State}
    (h : s.mapEntry c k va e = .inl t) (hZ : Ok s) : Ok t := by
  unfold State.mapEntry at h
  repeat' first
    | split at h
    | cases h
  repeat' first
    | extract_lets
    | with_reducible assumption
    | split
    | with_reducible apply addMaps_ok
    | with_reducible refine allocDev_ok ‹_› ?_
    | with_reducible apply zeroRun_ok
    | with_reducible apply memOk_foldl
    | with_reducible apply ok_nextObj_upd
    | intro _

theorem mapEntries_ok {s : State} {c : Cmd} {k : Nat} {l : List MapEnt} {va : Nat} {t : State}
    (h : s.mapEntries c k l va = .inl t) (hZ : Ok s) : Ok t := by
  induction l generalizing s va with
  | nil =>
    unfold State.mapEntries at h
    cases h
    exact hZ
  | cons e r ih =>
    unfold State.mapEntries at h
    split at h
    · exact ih h (mapEntry_ok ‹_› hZ)
    · cases h

theorem mapCmd_ok (s : State) (c : Cmd) (k : Nat) (hZ : Ok s) :
    Ok (State.mapCmd s c k) := by
  unfold State.mapCmd
  repeat' first
    | extract_lets
    | with_reducible assumption
    | split
    | with_reducible apply complete_ok
    | with_reducible apply loadRuns_ok
    | with_reducible refine mapEntries_ok ‹_› ?_
    | with_reducible apply wmCheck_ok

theorem dropAts_ok (s : State) (fn : Nat) (io : Nat) (len : Nat) (hZ : Ok s) : Ok (State.dropAts s fn io len) :=
  memOk_after (dropAts_same _ _ _ _ (rfl : 65536 &&& 65536 = 65536) (Same.refl _ _)) rfl hZ

theorem dropCodeIn_ok (s : State) (c : Nat) (rs : List (Nat × Nat)) (hZ : Ok s) : Ok (State.dropCodeIn s c rs) :=
  memOk_after (dropCodeIn_same _ _ _ (rfl : 131072 &&& 131072 = 131072) (Same.refl _ _)) rfl hZ

theorem dropTranslations_ok (s : State) (c : Nat) (rs : List (Nat × Nat)) (hZ : Ok s) : Ok (State.dropTranslations s c rs) :=
  memOk_after (dropTranslations_same _ _ _ (rfl : 98560 &&& 98560 = 98560) (Same.refl _ _)) rfl hZ

theorem haltChains_ok (s : State) (cid : Nat) (on : Bool) (hZ : Ok s) : Ok (State.haltChains s cid on) :=
  memOk_after (haltChains_same _ _ _ (rfl : 131072 &&& 131072 = 131072) (Same.refl _ _)) rfl hZ

theorem holdAcre_ok (s : State) (h : Nat) (cid : Nat) (on : Bool) (hZ : Ok s) : Ok (State.holdAcre s h cid on) :=
  memOk_after (holdAcre_same _ _ _ _ (rfl : 4194304 &&& 4194304 = 4194304) (Same.refl _ _)) rfl hZ

theorem stopChans_ok (s : State) (cid : Nat) (on : Bool) (hZ : Ok s) : Ok (State.stopChans s cid on) :=
  memOk_after (stopChans_same _ _ _ (rfl : 268435456 &&& 268435456 = 268435456) (Same.refl _ _)) rfl hZ

theorem pauseEngine_ok (s : State) (e : Nat) (c : Nat) (hZ : Ok s) : Ok (State.pauseEngine s e c) :=
  memOk_after (pauseEngine_same _ _ _ (rfl : 618475290624 &&& 618475290624 = 618475290624) (Same.refl _ _)) rfl hZ

theorem resumeEngine_ok (s : State) (e : Nat) (c : Nat) (hZ : Ok s) : Ok (State.resumeEngine s e c) :=
  memOk_after (resumeEngine_same _ _ _ (rfl : 618475290624 &&& 618475290624 = 618475290624) (Same.refl _ _)) rfl hZ

theorem askStop_ok (s : State) (c : Cmd) (hZ : Ok s) : Ok (State.askStop s c) :=
  memOk_after (askStop_same _ _ (rfl : 618748051456 &&& 618748051456 = 618748051456) (Same.refl _ _)) rfl hZ

theorem beginShake_ok (s : State) (c : Nat) (k : Shake) (hZ : Ok s) : Ok (State.beginShake s c k) :=
  memOk_after (beginShake_same _ _ _ (rfl : 618781707008 &&& 618781707008 = 618781707008) (Same.refl _ _)) rfl hZ

theorem backPages_ok (s : State) (c : Nat) (k : Shake) (hZ : Ok s) :
    Ok (State.backPages s c k) := by
  unfold State.backPages
  repeat' first
    | extract_lets
    | with_reducible assumption
    | split
    | with_reducible apply freeObjects_ok
    | with_reducible apply updCtx_ok
    | with_reducible apply wmCheck_ok
    | with_reducible apply writeBackPage_ok
    | with_reducible apply memOk_foldl
    | intro _
    | dsimp +zetaDelta only

theorem freeWaiters_ok (s : State) (c : Nat) (hZ : Ok s) :
    Ok (State.freeWaiters s c) := by
  unfold State.freeWaiters
  repeat' first
    | extract_lets
    | with_reducible assumption
    | split
    | with_reducible apply applyVal_ok
    | with_reducible apply memOk_foldl
    | intro _

theorem resumeCmd_ok (s : State) (c : Cmd) (hZ : Ok s) :
    Ok (State.resumeCmd s c) := by
  unfold State.resumeCmd
  repeat' first
    | extract_lets
    | with_reducible assumption
    | split
    | with_reducible apply haltChains_ok
    | with_reducible apply holdAcre_ok
    | with_reducible apply resumeEngine_ok
    | with_reducible apply settle_ok
    | with_reducible apply stopChans_ok
    | with_reducible apply stopCmd_ok
    | with_reducible apply updCmd_ok
    | dsimp +zetaDelta only

theorem askRetranslate_ok (s : State) (cs : List Cmd) (hZ : Ok s) :
    Ok (s.askRetranslate cs).2 := by
  unfold State.askRetranslate
  generalize true = b
  induction cs generalizing s b with
  | nil => exact hZ
  | cons c r ih =>
    rw [List.foldl_cons]
    split
    all_goals first
      | exact ih _ (emit_ok _ _ hZ) _
      | exact ih _ (startMigration_ok _ _ _ hZ) _
      | exact ih _ (askSide_ok _ _ _ _ hZ) _
      | exact ih _ hZ _

theorem endShake_ok (s : State) (c : Nat) (k : Shake) (hZ : Ok s) :
    Ok (State.endShake s c k) := by
  unfold State.endShake
  repeat' first
    | extract_lets
    | with_reducible assumption
    | split
    | with_reducible apply complete_ok
    | with_reducible apply emit_ok
    | with_reducible apply updCtx_ok
    | dsimp +zetaDelta only

theorem runShakes_ok (s : State) (c : Nat) (a2 : Nat) (hZ : Ok s) :
    Ok (State.runShakes s c a2) := by
  induction a2 generalizing s c with
  | zero => exact hZ
  | succ cn ih =>
    unfold State.runShakes
    repeat' first
      | extract_lets
      | with_reducible assumption
      | with_reducible apply ih
      | split
      | with_reducible apply askRetranslate_ok
      | with_reducible apply backPages_ok
      | with_reducible apply beginShake_ok
      | with_reducible apply endShake_ok
      | with_reducible apply freeWaiters_ok
      | with_reducible apply resumeCmd_ok
      | with_reducible apply memOk_foldl
      | intro _
      | dsimp +zetaDelta only

theorem addShake_ok (s : State) (c : Nat) (k : Shake) (hZ : Ok s) :
    Ok (State.addShake s c k) := by
  unfold State.addShake
  repeat' first
    | extract_lets
    | with_reducible assumption
    | split
    | with_reducible apply runShakes_ok
    | with_reducible apply updCtx_ok
    | dsimp +zetaDelta only

theorem awaitShake_ok (s : State) (cid : Nat) (hZ : Ok s) : Ok (State.awaitShake s cid) :=
  memOk_after (awaitShake_same _ _ (rfl : 512 &&& 512 = 512) (Same.refl _ _)) rfl hZ

theorem wakeFurlong_ok (s : State) (f : Nat) (hZ : Ok s) : Ok (State.wakeFurlong s f) :=
  memOk_after (wakeFurlong_same _ _ (rfl : 34359738368 &&& 34359738368 = 34359738368) (Same.refl _ _)) rfl hZ

theorem failCmd_ok (s : State) (cid : Nat) (st : Nat) (err : Option ErrInfo) (hZ : Ok s) :
    Ok (State.failCmd s cid st err) := by
  unfold State.failCmd
  repeat' first
    | extract_lets
    | with_reducible assumption
    | split
    | with_reducible apply endCmd_ok
    | with_reducible apply leaveEngine_ok
    | with_reducible apply stopGroups_ok
    | with_reducible apply updCmd_ok

theorem finish_ok (s : State) (cid : Nat) (st : Nat) (err : Option ErrInfo) (hZ : Ok s) : Ok (State.finish s cid st err) :=
  memOk_after (finish_same _ _ _ _ (rfl : 640 &&& 640 = 640) (Same.refl _ _)) rfl hZ

theorem startMove_ok (s : State) (c : Cmd) (ds : List MDesc) (hZ : Ok s) : Ok (State.startMove s c ds) :=
  memOk_after (startMove_same _ _ _ (rfl : 272630400 &&& 272630400 = 272630400) (Same.refl _ _)) rfl hZ

theorem failChan_ok (s : State) (ch : Chan) (st : Nat) (err : Option ErrInfo) (hZ : Ok s) :
    Ok (State.failChan s ch st err) := by
  unfold State.failChan
  repeat' first
    | extract_lets
    | with_reducible assumption
    | split
    | with_reducible apply failCmd_ok

theorem takeDesc_ok (s : State) (m : Nat) (c : Nat) (d : MDesc) (hZ : Ok s) :
    Ok (State.takeDesc s m c d) := by
  unfold State.takeDesc
  repeat' first
    | extract_lets
    | with_reducible assumption
    | split
    | with_reducible apply endDesc_ok
    | with_reducible apply failChan_ok
    | with_reducible apply updChan_ok
    | dsimp +zetaDelta only

theorem fetchDesc_ok (s : State) (m : Nat) (c : Nat) (hZ : Ok s) :
    Ok (State.fetchDesc s m c) := by
  unfold State.fetchDesc
  repeat' first
    | extract_lets
    | with_reducible assumption
    | split
    | with_reducible apply takeDesc_ok
    | with_reducible apply updChan_ok
    | dsimp +zetaDelta only

theorem issueBursts_ok (s : State) (m : Nat) (c : Nat) (a3 : Nat) (hZ : Ok s) : Ok (State.issueBursts s m c a3) :=
  memOk_after (issueBursts_same _ _ _ _ (rfl : 268435456 &&& 268435456 = 268435456) (Same.refl _ _)) rfl hZ

theorem levelRead_ok (s : State) (ch : Chan) (hZ : Ok s) : Ok (State.levelRead s ch) :=
  memOk_after (levelRead_same _ _ (rfl : 4 &&& 4 = 4) (Same.refl _ _)) rfl hZ

theorem endMove_ok (s : State) (cid : Nat) (hZ : Ok s) : Ok (State.endMove s cid) :=
  memOk_after (endMove_same _ _ (rfl : 268436096 &&& 268436096 = 268436096) (Same.refl _ _)) rfl hZ

theorem acreBurst_ok (s : State) (m : Nat) (c : Nat) (hZ : Ok s) : Ok (State.acreBurst s m c) :=
  memOk_after (acreBurst_same _ _ _ (rfl : 272629760 &&& 272629760 = 272629760) (Same.refl _ _)) rfl hZ

theorem burstDone_ok (s : State) (m : Nat) (c : Nat) (hZ : Ok s) :
    Ok (State.burstDone s m c) := by
  unfold State.burstDone
  repeat' first
    | extract_lets
    | with_reducible assumption
    | split
    | with_reducible apply acreBurst_ok
    | with_reducible apply askBurst_ok
    | with_reducible apply endDesc_ok
    | with_reducible apply endMove_ok
    | with_reducible apply levelRead_ok
    | with_reducible apply progress_ok
    | with_reducible apply retime_ok
    | with_reducible apply updChan_ok
    | with_reducible apply writeBurst_ok
    | dsimp +zetaDelta only

theorem holdChan_ok (s : State) (m : Nat) (c : Nat) (hZ : Ok s) : Ok (State.holdChan s m c) :=
  memOk_after (holdChan_same _ _ _ (rfl : 268435460 &&& 268435460 = 268435460) (Same.refl _ _)) rfl hZ

theorem creditChan_ok (s : State) (m : Nat) (c : Nat) (hZ : Ok s) : Ok (State.creditChan s m c) :=
  memOk_after (creditChan_same _ _ _ (rfl : 268435460 &&& 268435460 = 268435460) (Same.refl _ _)) rfl hZ

theorem haltChan_ok (s : State) (addr : Nat) (m : Nat) (c : Nat) (hZ : Ok s) :
    Ok (State.haltChan s addr m c) := by
  unfold State.haltChan
  repeat' first
    | extract_lets
    | with_reducible assumption
    | split
    | with_reducible apply endDesc_ok
    | with_reducible apply failCmd_ok
    | with_reducible apply updChan_ok
    | dsimp +zetaDelta only

theorem haltMover_ok (s : State) (m : Nat) (addr : Nat) (hZ : Ok s) :
    Ok (State.haltMover s m addr) := by
  unfold State.haltMover
  repeat' first
    | extract_lets
    | with_reducible assumption
    | split
    | with_reducible apply haltChan_ok
    | with_reducible apply latch_ok
    | with_reducible apply postGlobal_ok
    | with_reducible apply updMover_ok
    | with_reducible apply memOk_foldl
    | intro _
    | dsimp +zetaDelta only

theorem chanPerm_ok (s : State) (m : Nat) (c : Nat) (va : Nat) (far : Bool) (hZ : Ok s) :
    Ok (State.chanPerm s m c va far) := by
  unfold State.chanPerm
  repeat' first
    | extract_lets
    | with_reducible assumption
    | split
    | with_reducible apply endDesc_ok
    | with_reducible apply failChan_ok
    | with_reducible apply updChan_ok
    | dsimp +zetaDelta only

theorem enableChan_ok (s : State) (m : Nat) (c : Nat) (ctrl : W64) (hZ : Ok s) :
    Ok (State.enableChan s m c ctrl) := by
  unfold State.enableChan
  repeat' first
    | extract_lets
    | with_reducible assumption
    | split
    | with_reducible apply fetchDesc_ok
    | with_reducible apply updChan_ok
    | dsimp +zetaDelta only

theorem abortWrite_ok (s : State) (m : Nat) (c : Nat) (hZ : Ok s) :
    Ok (State.abortWrite s m c) := by
  unfold State.abortWrite
  repeat' first
    | extract_lets
    | with_reducible assumption
    | split
    | with_reducible apply abortChan_ok
    | with_reducible apply failCmd_ok
    | with_reducible apply updChan_ok
    | dsimp +zetaDelta only

theorem restartMover_ok (s : State) (m : Nat) (hZ : Ok s) : Ok (State.restartMover s m) :=
  memOk_after (restartMover_same _ _ (rfl : 268435456 &&& 268435456 = 268435456) (Same.refl _ _)) rfl hZ

theorem disableChan_ok (s : State) (m : Nat) (c : Nat) (hZ : Ok s) :
    Ok (State.disableChan s m c) := by
  unfold State.disableChan
  repeat' first
    | extract_lets
    | with_reducible assumption
    | split
    | with_reducible apply abortWrite_ok
    | with_reducible apply updChan_ok

theorem haltAtBurst_ok (s : State) (m : Nat) (c : Nat) (hZ : Ok s) : Ok (State.haltAtBurst s m c) :=
  memOk_after (haltAtBurst_same _ _ _ (rfl : 268435456 &&& 268435456 = 268435456) (Same.refl _ _)) rfl hZ

theorem goOn_ok (s : State) (m : Nat) (c : Nat) (hZ : Ok s) : Ok (State.goOn s m c) :=
  memOk_after (goOn_same _ _ _ (rfl : 268435456 &&& 268435456 = 268435456) (Same.refl _ _)) rfl hZ

theorem putPlan_ok (s : State) (slot : Nat) (p : Plan) (hZ : Ok s) : Ok (State.putPlan s slot p) :=
  memOk_after (putPlan_same _ _ _ (rfl : 1107296256 &&& 1107296256 = 1107296256) (Same.refl _ _)) rfl hZ

theorem loadPlan_ok (s : State) (c : Cmd) (hZ : Ok s) :
    Ok (State.loadPlan s c) := by
  unfold State.loadPlan
  repeat' first
    | extract_lets
    | with_reducible assumption
    | split
    | with_reducible apply applyVal_ok
    | with_reducible apply complete_ok
    | with_reducible apply putPlan_ok
    | with_reducible apply wmCheck_ok

theorem fillSeq_ok (s : State) (c : Cmd) (e : Nat) (slot : Nat) (ssb : Nat) (ring : Nat) (prompt : Nat) (hZ : Ok s) :
    Ok (State.fillSeq s c e slot ssb ring prompt) := by
  unfold State.fillSeq
  repeat' first
    | extract_lets
    | with_reducible assumption
    | split
    | with_reducible apply drawNext_ok
    | with_reducible apply seqSsb_ok
    | with_reducible apply updSeq_ok
    | with_reducible apply wmCheck_ok
    | dsimp +zetaDelta only

theorem openSeq_ok (s : State) (c : Cmd) (hZ : Ok s) :
    Ok (State.openSeq s c) := by
  unfold State.openSeq
  repeat' first
    | extract_lets
    | with_reducible assumption
    | split
    | with_reducible apply complete_ok
    | with_reducible apply endWrites_ok
    | with_reducible apply fillSeq_ok
    | with_reducible apply putSsb_ok
    | with_reducible apply updHide_ok
    | with_reducible apply wmCheck_ok
    | with_reducible apply ok_pendOrder_upd
    | dsimp +zetaDelta only

theorem admitPend_ok (s : State) (hZ : Ok s) :
    Ok (State.admitPend s) := by
  unfold State.admitPend
  repeat' first
    | extract_lets
    | with_reducible assumption
    | split
    | with_reducible apply fillSeq_ok
    | with_reducible apply postNotice_ok
    | with_reducible apply updHide_ok
    | dsimp +zetaDelta only

theorem closeCmd_ok (s : State) (c : Cmd) (hZ : Ok s) :
    Ok (State.closeCmd s c) := by
  unfold State.closeCmd
  repeat' first
    | extract_lets
    | with_reducible assumption
    | split
    | with_reducible apply closeSeq_ok
    | with_reducible apply complete_ok
    | with_reducible apply endWrites_ok
    | with_reducible apply freeSsb_ok
    | with_reducible apply gateAsk_ok
    | with_reducible apply updCmd_ok
    | with_reducible apply updHide_ok
    | with_reducible apply updSeq_ok
    | with_reducible apply wmCheck_ok
    | dsimp +zetaDelta only

theorem startStep_ok (s : State) (c : Cmd) (hZ : Ok s) :
    Ok (State.startStep s c) := by
  unfold State.startStep
  repeat' first
    | extract_lets
    | with_reducible assumption
    | split
    | with_reducible apply complete_ok
    | with_reducible apply updCmd_ok
    | with_reducible apply updPlan_ok

theorem nextStepCmd_ok (s : State) (slot : Nat) (hZ : Ok s) : Ok (State.nextStepCmd s slot) :=
  memOk_after (nextStepCmd_same _ _ (rfl : 33554944 &&& 33554944 = 33554944) (Same.refl _ _)) rfl hZ

theorem endStepCmd_ok (s : State) (slot : Nat) (cid : Nat) (st : Nat) (err : Option ErrInfo) (hZ : Ok s) :
    Ok (State.endStepCmd s slot cid st err) := by
  unfold State.endStepCmd
  repeat' first
    | extract_lets
    | with_reducible assumption
    | split
    | with_reducible apply endWrites_ok
    | with_reducible apply nextStepCmd_ok
    | with_reducible apply updPlan_ok

theorem takeDrafts_ok (s : State) (cid : Nat) (e : Nat) (hZ : Ok s) :
    Ok (State.takeDrafts s cid e).2 := by
  unfold State.takeDrafts
  repeat' first
    | extract_lets
    | with_reducible assumption
    | split
    | with_reducible apply gatePut_ok
    | dsimp +zetaDelta only

theorem holdSeq_ok (s : State) (cid : Nat) (e : Nat) (why : Nat) (hZ : Ok s) :
    Ok (State.holdSeq s cid e why) := by
  unfold State.holdSeq
  repeat' first
    | extract_lets
    | with_reducible assumption
    | split
    | with_reducible apply seqSsb_ok
    | with_reducible apply updSeq_ok

theorem takePages_ok (s : State) (cid : Nat) (slot : Nat) (e : Nat) (n : Nat) (hZ : Ok s) :
    Ok (State.takePages s cid slot e n) := by
  unfold State.takePages
  repeat' first
    | extract_lets
    | with_reducible assumption
    | split
    | with_reducible apply gateExt_ok
    | with_reducible apply updPlan_ok
    | with_reducible apply updSeq_ok
    | dsimp +zetaDelta only

theorem writeRows_ok (s : State) (cid : Nat) (slot : Nat) (e : Nat) (row : Nat) (n : Nat) (drafts : List Nat) (hZ : Ok s) :
    Ok (State.writeRows s cid slot e row n drafts) := by
  unfold State.writeRows
  repeat' first
    | extract_lets
    | with_reducible assumption
    | split
    | with_reducible apply gateExt_ok
    | dsimp +zetaDelta only

theorem buildOne_ok (cid : Nat) (slot : Nat) (p : Plan) (x : State × Build) (e : Nat) (hZ : Ok x.1) :
    Ok (State.buildOne cid slot p x e).1 := by
  unfold State.buildOne
  repeat' first
    | extract_lets
    | with_reducible assumption
    | split
    | with_reducible apply holdSeq_ok
    | with_reducible apply takeDrafts_ok
    | with_reducible apply takePages_ok
    | with_reducible apply updSeq_ok
    | with_reducible apply writeRows_ok
    | dsimp +zetaDelta only

theorem buildStep_ok (s : State) (slot : Nat) (p : Plan) (st : Step) (hZ : Ok s) : Ok (State.buildStep s slot p st) := by
  have hb : ∀ (l : List Nat) (b : State × Build), Ok b.1 →
      Ok (l.foldl (fun b e => State.buildOne st.cid slot p b e) b).1 := by
    intro l
    induction l with
    | nil => exact fun _ h => h
    | cons e r ih => exact fun b h => ih _ (buildOne_ok _ _ _ _ _ h)
  unfold State.buildStep
  repeat' first
    | extract_lets
    | with_reducible assumption
    | split
    | exact hb _ _ hZ
    | with_reducible apply endStepCmd_ok
    | with_reducible apply gateAsk_ok
    | with_reducible apply updPlan_ok
    | with_reducible apply wmCheck_ok

theorem stepBuild_ok (s : State) (slot : Nat) (hZ : Ok s) :
    Ok (State.stepBuild s slot) := by
  unfold State.stepBuild
  repeat' first
    | extract_lets
    | with_reducible assumption
    | split
    | with_reducible apply askSide_ok
    | with_reducible apply buildStep_ok
    | with_reducible apply emit_ok
    | with_reducible apply endStepCmd_ok
    | with_reducible apply nextStepCmd_ok
    | with_reducible apply startMigration_ok
    | with_reducible apply updPlan_ok

theorem issueStage_ok (s : State) (slot : Nat) (hZ : Ok s) : Ok (State.issueStage s slot) :=
  memOk_after (issueStage_same _ _ (rfl : 34397488768 &&& 34397488768 = 34397488768) (Same.refl _ _)) rfl hZ

theorem stageAhead_ok (s : State) (slot : Nat) (hZ : Ok s) : Ok (State.stageAhead s slot) :=
  memOk_after (stageAhead_same _ _ (rfl : 33554432 &&& 33554432 = 33554432) (Same.refl _ _)) rfl hZ

theorem emitToken_ok (s : State) (cid : Nat) (e : Nat) (token : Nat) (advance : Bool) (hZ : Ok s) :
    Ok (State.emitToken s cid e token advance) := by
  unfold State.emitToken
  repeat' first
    | extract_lets
    | with_reducible assumption
    | split
    | with_reducible apply gatePut_ok
    | with_reducible apply updSeq_ok
    | dsimp +zetaDelta only

theorem emitRows_ok (s : State) (cid : Nat) (p : Plan) (e : Nat) (row : Nat) (advance : Bool) (a6 : Nat) (hZ : Ok s) :
    Ok (State.emitRows s cid p e row advance a6) := by
  induction a6 generalizing s cid p e row advance with
  | zero => exact hZ
  | succ cn ih =>
    unfold State.emitRows
    repeat' first
      | extract_lets
      | with_reducible assumption
      | with_reducible apply ih
      | split
      | with_reducible apply emitToken_ok
      | with_reducible apply updSeq_ok
      | dsimp +zetaDelta only

theorem trimPages_ok (s : State) (slot : Nat) (p : Plan) (e : Nat) (hZ : Ok s) : Ok (State.trimPages s slot p e) :=
  memOk_after (trimPages_same _ _ _ _ (rfl : 100663296 &&& 100663296 = 100663296) (Same.refl _ _)) rfl hZ

theorem commitOne_ok (s : State) (cid : Nat) (slot : Nat) (p : Plan) (x : SelEnt) (hZ : Ok s) :
    Ok (State.commitOne s cid slot p x) := by
  unfold State.commitOne
  repeat' first
    | extract_lets
    | with_reducible assumption
    | split
    | with_reducible apply closeSeq_ok
    | with_reducible apply closeWaiting_ok
    | with_reducible apply emitRows_ok
    | with_reducible apply seqSsb_ok
    | with_reducible apply trimPages_ok
    | with_reducible apply updSeq_ok
    | dsimp +zetaDelta only

theorem commitStep_ok (s : State) (slot : Nat) (hZ : Ok s) :
    Ok (State.commitStep s slot) := by
  unfold State.commitStep
  repeat' first
    | extract_lets
    | with_reducible assumption
    | split
    | with_reducible apply commitOne_ok
    | with_reducible apply endStepCmd_ok
    | with_reducible apply gateAsk_ok
    | with_reducible apply updCmd_ok
    | with_reducible apply updPlan_ok
    | with_reducible apply wmCheck_ok
    | with_reducible apply memOk_foldl
    | intro _
    | dsimp +zetaDelta only

theorem recoverCtx_ok (s : State) (c : Nat) (hZ : Ok s) :
    Ok (State.recoverCtx s c) := by
  unfold State.recoverCtx
  repeat' first
    | extract_lets
    | with_reducible assumption
    | split
    | with_reducible apply fenceCtx_ok
    | with_reducible apply retime_ok
    | with_reducible apply updCtx_ok

theorem dropLoads_ok (s : State) (g : Group) (hZ : Ok s) : Ok (State.dropLoads s g) :=
  memOk_after (dropLoads_same _ _ (rfl : 131072 &&& 131072 = 131072) (Same.refl _ _)) rfl hZ

theorem failOutstanding_ok (s : State) (p : Cmd → Bool) (hZ : Ok s) :
    Ok (State.failOutstanding s p) := by
  unfold State.failOutstanding
  repeat' first
    | extract_lets
    | with_reducible assumption
    | split
    | with_reducible apply dropLoads_ok
    | with_reducible apply failCmd_ok
    | with_reducible apply memOk_foldl
    | intro _
    | dsimp +zetaDelta only

theorem cutRequests_ok (s : State) (h : Nat) (p : Cmd → Bool) (hZ : Ok s) :
    Ok (State.cutRequests s h p) := by
  unfold State.cutRequests
  repeat' first
    | extract_lets
    | with_reducible assumption
    | split
    | with_reducible apply failOutstanding_ok
    | with_reducible apply updChan_ok
    | with_reducible apply memOk_foldl
    | with_reducible apply ok_cores_upd
    | with_reducible apply ok_fab_upd
    | intro _
    | dsimp +zetaDelta only
    | with_reducible assumption
    | exact rfl
    | with_reducible apply memOk_mk

theorem lateFor_ok (s : State) (h : Nat) (hZ : Ok s) : Ok (State.lateFor s h) :=
  memOk_after (lateFor_same _ _ (rfl : 4194304 &&& 4194304 = 4194304) (Same.refl _ _)) rfl hZ

theorem holdGroups_ok (s : State) (h : Nat) (on : Bool) (hZ : Ok s) : Ok (State.holdGroups s h on) :=
  memOk_after (holdGroups_same _ _ _ (rfl : 537001984 &&& 537001984 = 537001984) (Same.refl _ _)) rfl hZ

theorem latchIn_ok (s : State) (g : Nat) (hZ : Ok s) : Ok (State.latchIn s g) :=
  memOk_after (latchIn_same _ _ (rfl : 537001988 &&& 537001988 = 537001988) (Same.refl _ _)) rfl hZ

theorem recoveryRecord_ok (s : State) (kind : Nat) (h : Nat) (trigger : Nat) (from_ : Nat) (failed : Nat) (hZ : Ok s) :
    Ok (State.recoveryRecord s kind h trigger from_ failed) := by
  unfold State.recoveryRecord
  repeat' first
    | extract_lets
    | with_reducible assumption
    | split
    | with_reducible apply postGlobal_ok

theorem failOnCore_ok (s : State) (h : Nat) (core : Nat) (hZ : Ok s) :
    Ok (State.failOnCore s h core) := by
  unfold State.failOnCore
  repeat' first
    | extract_lets
    | with_reducible assumption
    | split
    | with_reducible apply bumpGen_ok
    | with_reducible apply failCmd_ok
    | with_reducible apply updHide_ok
    | with_reducible apply memOk_foldl
    | intro _
    | dsimp +zetaDelta only

theorem returnAcre_ok (s : State) (h : Nat) (hZ : Ok s) :
    Ok (State.returnAcre s h) := by
  unfold State.returnAcre
  repeat' first
    | extract_lets
    | with_reducible assumption
    | split
    | with_reducible apply dropChans_ok
    | with_reducible apply releaseUnits_ok
    | with_reducible apply updAcre_ok
    | with_reducible apply updCmd_ok
    | with_reducible apply memOk_foldl
    | intro _
    | dsimp +zetaDelta only

theorem endSteps_ok (s : State) (h : Nat) (hZ : Ok s) :
    Ok (State.endSteps s h) := by
  unfold State.endSteps
  repeat' first
    | extract_lets
    | with_reducible assumption
    | split
    | with_reducible apply endCmd_ok
    | with_reducible apply memOk_foldl
    | intro _

theorem startReset_ok (s : State) (h : Nat) (trigger : Nat) (hZ : Ok s) :
    Ok (State.startReset s h trigger) := by
  unfold State.startReset
  repeat' first
    | extract_lets
    | with_reducible assumption
    | split
    | with_reducible apply endSteps_ok
    | with_reducible apply failOnCore_ok
    | with_reducible apply holdGroups_ok
    | with_reducible apply preempt_ok
    | with_reducible apply retime_ok
    | with_reducible apply returnAcre_ok
    | with_reducible apply stopChans_ok
    | with_reducible apply updHide_ok
    | with_reducible apply memOk_foldl
    | intro _
    | dsimp +zetaDelta only

theorem unitRecord_ok (s : State) (core : Nat) (event : Nat) (h : Nat) (hZ : Ok s) :
    Ok (State.unitRecord s core event h) := by
  unfold State.unitRecord
  repeat' first
    | extract_lets
    | with_reducible assumption
    | split
    | with_reducible apply postGlobal_ok

theorem scrubFurlong_ok (s : State) (f : Nat) (hZ : Ok s) : Ok (State.scrubFurlong s f) :=
  memOk_after (scrubFurlong_same _ _ (rfl : 131072 &&& 131072 = 131072) (Same.refl _ _)) rfl hZ

theorem endEngineZero_ok (s : State) (h : Nat) (hZ : Ok s) :
    Ok (State.endEngineZero s h) := by
  unfold State.endEngineZero
  repeat' first
    | extract_lets
    | with_reducible assumption
    | split
    | with_reducible apply failCmd_ok
    | with_reducible apply memOk_foldl
    | intro _

theorem furlongOff_ok (s : State) (f : Nat) (hZ : Ok s) : Ok (State.furlongOff s f) :=
  memOk_after (furlongOff_same _ _ (rfl : 34359738368 &&& 34359738368 = 34359738368) (Same.refl _ _)) rfl hZ

theorem leaveHide_ok (s : State) (f : Nat) (h : Nat) (hZ : Ok s) :
    Ok (State.leaveHide s f h) := by
  unfold State.leaveHide
  repeat' first
    | extract_lets
    | with_reducible assumption
    | split
    | with_reducible apply endEngineZero_ok
    | with_reducible apply furlongOff_ok
    | with_reducible apply scrubFurlong_ok
    | with_reducible apply setRun_ok

theorem retire_ok (s : State) (h : Nat) (core : Nat) (hZ : Ok s) :
    Ok (State.retire s h core) := by
  unfold State.retire
  repeat' first
    | extract_lets
    | with_reducible assumption
    | split
    | with_reducible apply leaveHide_ok
    | with_reducible apply unitRecord_ok
    | with_reducible apply updCore_ok
    | dsimp +zetaDelta only

theorem markSuspect_ok (s : State) (core : Nat) (hZ : Ok s) :
    Ok (State.markSuspect s core) := by
  unfold State.markSuspect
  repeat' first
    | extract_lets
    | with_reducible assumption
    | split
    | with_reducible apply latchIn_ok
    | with_reducible apply startReset_ok
    | with_reducible apply unitRecord_ok
    | with_reducible apply updCore_ok

theorem testPosition_ok (s : State) (h : Nat) (core : Nat) (fails : Bool) (hZ : Ok s) :
    Ok (State.testPosition s h core fails) := by
  unfold State.testPosition
  repeat' first
    | extract_lets
    | with_reducible assumption
    | split
    | with_reducible apply retire_ok
    | with_reducible apply unitRecord_ok
    | with_reducible apply updCore_ok
    | dsimp +zetaDelta only

theorem scrubCores_ok (s : State) (h : Nat) (hZ : Ok s) : Ok (State.scrubCores s h) :=
  memOk_after (scrubCores_same _ _ (rfl : 131072 &&& 131072 = 131072) (Same.refl _ _)) rfl hZ

theorem startMoves_ok (s : State) (hZ : Ok s) : Ok (State.startMoves s) :=
  memOk_after (startMoves_same _ (rfl : 12582912 &&& 12582912 = 12582912) (Same.refl _ _)) rfl hZ

theorem endReset_ok (s : State) (h : Nat) (hZ : Ok s) :
    Ok (State.endReset s h) := by
  unfold State.endReset
  repeat' first
    | extract_lets
    | with_reducible assumption
    | split
    | with_reducible apply acreBoundary_ok
    | with_reducible apply holdGroups_ok
    | with_reducible apply recoveryRecord_ok
    | with_reducible apply retime_ok
    | with_reducible apply scrubCores_ok
    | with_reducible apply startMoves_ok
    | with_reducible apply stopChans_ok
    | with_reducible apply updHide_ok
    | with_reducible apply memOk_foldl
    | intro _
    | dsimp +zetaDelta only

theorem startFull_ok (s : State) (h : Nat) (trigger : Nat) (hZ : Ok s) :
    Ok (State.startFull s h trigger) := by
  unfold State.startFull
  repeat' first
    | extract_lets
    | with_reducible assumption
    | split
    | with_reducible apply applyHide_ok
    | with_reducible apply destroyCtx_ok
    | with_reducible apply emit_ok
    | with_reducible apply holdGroups_ok
    | with_reducible apply readShift_ok
    | with_reducible apply refreshAll_ok
    | with_reducible apply rehome_ok
    | with_reducible apply retime_ok
    | with_reducible apply scrubCores_ok
    | with_reducible apply updHide_ok
    | with_reducible apply memOk_foldl
    | intro _
    | dsimp +zetaDelta only

theorem rekey_ok (s : State) (h : Nat) (hZ : Ok s) : Ok (s.rekey h) := by
  obtain ⟨h1, h2, h3⟩ := memOk_parts hZ
  have key : ∀ (l : List Nat) (m : Memory), m.wf = true →
      (l.foldl (fun (m : Memory) u => m.clear (u * 2 ^ 32) (2 ^ 32)) m).wf = true := by
    intro l
    induction l with
    | nil => exact fun _ h => h
    | cons i r ih => exact fun t h => ih _ (clear_wf _ _ h)
  exact memOk_of (key _ _ h1) (filter_twf _ h2) h3

theorem endFull_ok (s : State) (h : Nat) (hZ : Ok s) :
    Ok (State.endFull s h) := by
  unfold State.endFull
  repeat' first
    | extract_lets
    | with_reducible assumption
    | split
    | with_reducible apply holdGroups_ok
    | with_reducible apply recoveryRecord_ok
    | with_reducible apply refreshAll_ok
    | with_reducible apply startMoves_ok
    | with_reducible apply updHide_ok
    | dsimp +zetaDelta only

theorem afterRecovery_ok (s : State) (h : Nat) (hZ : Ok s) :
    Ok (State.afterRecovery s h) := by
  unfold State.afterRecovery
  repeat' first
    | extract_lets
    | with_reducible assumption
    | split
    | with_reducible apply startFull_ok
    | with_reducible apply updHide_ok

theorem drawKey_ok (s : State) (h : Nat) (hZ : Ok s) :
    Ok (State.drawKey s h) := by
  unfold State.drawKey
  repeat' first
    | extract_lets
    | with_reducible assumption
    | split
    | with_reducible apply drawNext_ok
    | with_reducible apply rekey_ok
    | with_reducible apply updHide_ok

theorem acreAsk_ok (s : State) (h : Nat) (c : Cmd) (ls : List (Nat × List Nat)) (hZ : Ok s) :
    Ok (State.acreAsk s h c ls) := by
  unfold State.acreAsk
  repeat' first
    | extract_lets
    | with_reducible assumption
    | split
    | with_reducible apply askReads_ok
    | with_reducible apply memOk_foldl
    | intro _

theorem acreWrite_ok (s : State) (c : Cmd) (ext : Nat) (off : Nat) (bs : List Byte) (hZ : Ok s) :
    Ok (State.acreWrite s c ext off bs) := by
  unfold State.acreWrite
  repeat' first
    | extract_lets
    | with_reducible assumption
    | split
    | with_reducible apply writeExt_ok

theorem storeRow_ok (s : State) (c : Cmd) (o : AcreOp) (i : Nat) (hZ : Ok s) :
    Ok (State.storeRow s c o i) := by
  unfold State.storeRow
  repeat' first
    | extract_lets
    | with_reducible assumption
    | split
    | with_reducible apply acreWrite_ok
    | dsimp +zetaDelta only

theorem acreFed_ok (s : State) (cid : Nat) (hZ : Ok s) : Ok (State.acreFed s cid) :=
  memOk_after (acreFed_same _ _ (rfl : 268435968 &&& 268435968 = 268435968) (Same.refl _ _)) rfl hZ

theorem claimUnits_ok (s : State) (h : Nat) (hZ : Ok s) :
    Ok (State.claimUnits s h) := by
  unfold State.claimUnits
  repeat' first
    | extract_lets
    | with_reducible assumption
    | split
    | with_reducible apply writeSlot_ok
    | with_reducible apply memOk_foldl
    | intro _

theorem takeStreams_ok {s : State} {c : Cmd} {t : State} (h : State.takeStreams s c = some t) (hZ : Ok s) : Ok t :=
  memOk_after (takeStreams_same h (rfl : 268435968 &&& 268435968 = 268435968) (Same.refl _ _)) rfl hZ

theorem putAcre_ok (s : State) (h : Nat) (o : AcreOp) (hZ : Ok s) : Ok (State.putAcre s h o) :=
  memOk_after (putAcre_same _ _ _ (rfl : 4194816 &&& 4194816 = 4194816) (Same.refl _ _)) rfl hZ

theorem startAcre_ok (s : State) (c : Cmd) (hZ : Ok s) :
    Ok (State.startAcre s c) := by
  unfold State.startAcre
  repeat' first
    | extract_lets
    | with_reducible assumption
    | split
    | with_reducible apply acreFed_ok
    | with_reducible apply claimUnits_ok
    | with_reducible apply retime_ok
    | with_reducible refine takeStreams_ok ‹_› ?_
    | with_reducible apply updAcre_ok
    | with_reducible apply updCmd_ok
    | dsimp +zetaDelta only

theorem onStep_ok (s : State) (h : Nat) (step : AcreStep) (f : AcreOp → Cmd → State) (hf : ∀ x0 x1, Ok (f x0 x1)) (hZ : Ok s) :
    Ok (State.onStep s h step f) := by
  unfold State.onStep
  repeat' first
    | extract_lets
    | with_reducible assumption
    | split
    | with_reducible apply acreAsk_ok
    | with_reducible apply hf

theorem stepAcre_ok (s : State) (h : Nat) (o : AcreOp) (hZ : Ok s) : Ok (State.stepAcre s h o) :=
  memOk_after (stepAcre_same _ _ _ (rfl : 272630272 &&& 272630272 = 272630272) (Same.refl _ _)) rfl hZ

theorem endSlice_ok (s : State) (h : Nat) (bad : List (Fin 16 × Fin 16)) (o : AcreOp) (c : Cmd) (hZ : Ok s) :
    Ok (State.endSlice s h bad o c) := by
  unfold State.endSlice
  repeat' first
    | extract_lets
    | with_reducible assumption
    | split
    | with_reducible apply acreFed_ok
    | with_reducible apply failCmd_ok
    | with_reducible apply markSuspect_ok
    | with_reducible apply putAcre_ok
    | with_reducible apply stepAcre_ok
    | with_reducible apply memOk_foldl
    | intro _
    | dsimp +zetaDelta only

theorem storeStep_ok (s : State) (h : Nat) (o : AcreOp) (c : Cmd) (hZ : Ok s) :
    Ok (State.storeStep s h o c) := by
  unfold State.storeStep
  repeat' first
    | extract_lets
    | with_reducible assumption
    | split
    | with_reducible apply failCmd_ok
    | with_reducible apply stepAcre_ok
    | with_reducible apply storeRow_ok
    | with_reducible apply memOk_foldl
    | intro _
    | dsimp +zetaDelta only

theorem endAcre_ok (s : State) (h : Nat) (o : AcreOp) (c : Cmd) (hZ : Ok s) :
    Ok (State.endAcre s h o c) := by
  unfold State.endAcre
  repeat' first
    | extract_lets
    | with_reducible assumption
    | split
    | with_reducible apply acreLeft_ok
    | with_reducible apply acreWrite_ok
    | with_reducible apply finish_ok
    | with_reducible apply freeChan_ok
    | with_reducible apply retime_ok
    | with_reducible apply updAcre_ok
    | with_reducible apply memOk_foldl
    | intro _
    | dsimp +zetaDelta only

theorem loadIdle_ok (s : State) (h : Nat) (o : AcreOp) (c : Cmd) (hZ : Ok s) :
    Ok (State.loadIdle s h o c) := by
  unfold State.loadIdle
  repeat' first
    | extract_lets
    | with_reducible assumption
    | split
    | with_reducible apply acreAsk_ok
    | with_reducible apply updAcre_ok
    | dsimp +zetaDelta only

theorem checkBarrier_ok (s : State) (cid : Nat) (g : Nat) (a3 : Nat) (hZ : Ok s) : Ok (State.checkBarrier s cid g a3) :=
  memOk_after (checkBarrier_same _ _ _ _ (rfl : 393216 &&& 393216 = 393216) (Same.refl _ _)) rfl hZ

theorem endGroup_ok (s : State) (cid : Nat) (g : Nat) (hZ : Ok s) :
    Ok (State.endGroup s cid g) := by
  unfold State.endGroup
  repeat' first
    | extract_lets
    | with_reducible assumption
    | split
    | with_reducible apply dropGroup_ok
    | with_reducible apply finish_ok
    | with_reducible apply unqueue_ok
    | with_reducible apply updCmd_ok
    | dsimp +zetaDelta only

theorem endChain_ok (s : State) (core : Nat) (slot : Nat) (hZ : Ok s) :
    Ok (State.endChain s core slot) := by
  unfold State.endChain
  repeat' first
    | extract_lets
    | with_reducible assumption
    | split
    | with_reducible apply checkBarrier_ok
    | with_reducible apply dropChainWaiters_ok
    | with_reducible apply endGroup_ok
    | with_reducible apply leaveMxq_ok
    | with_reducible apply updCore_ok
    | dsimp +zetaDelta only

theorem putChains_ok (s : State) (core : Nat) (cs : List (Nat × Chain)) (hZ : Ok s) : Ok (State.putChains s core cs) :=
  memOk_after (putChains_same _ _ _ (rfl : 131072 &&& 131072 = 131072) (Same.refl _ _)) rfl hZ

theorem placeGroup_ok (s : State) (c : Cmd) (core : Nat) (hZ : Ok s) :
    Ok (State.placeGroup s c core) := by
  unfold State.placeGroup
  repeat' first
    | extract_lets
    | with_reducible assumption
    | split
    | with_reducible apply endChain_ok
    | with_reducible apply progress_ok
    | with_reducible apply putChains_ok
    | with_reducible apply retime_ok
    | with_reducible apply updCmd_ok
    | with_reducible apply updCore_ok
    | with_reducible apply updHide_ok
    | with_reducible apply memOk_foldl
    | with_reducible apply ok_groups_upd
    | intro _
    | dsimp +zetaDelta only

theorem yieldThree_ok (s : State) (core : Nat) (cls : Nat) (fits : List Group → Bool) (hZ : Ok s) : Ok (State.yieldThree s core cls fits) :=
  memOk_after (yieldThree_same _ _ _ _ (rfl : 393216 &&& 393216 = 393216) (Same.refl _ _)) rfl hZ

theorem tryPlace_ok (s : State) (c : Cmd) (core : Nat) (hZ : Ok s) :
    Ok (State.tryPlace s c core) := by
  unfold State.tryPlace
  repeat' first
    | extract_lets
    | with_reducible assumption
    | split
    | with_reducible apply placeGroup_ok
    | with_reducible apply wakeFurlong_ok
    | with_reducible apply yieldThree_ok

theorem finishSave_ok (s : State) (cid : Nat) (g : Nat) (hZ : Ok s) :
    Ok (State.finishSave s cid g) := by
  unfold State.finishSave
  repeat' first
    | extract_lets
    | with_reducible assumption
    | split
    | with_reducible apply failCmd_ok
    | with_reducible apply saveGroup_ok
    | with_reducible apply updChain_ok
    | with_reducible apply updGroup_ok
    | with_reducible apply memOk_foldl
    | intro _
    | dsimp +zetaDelta only

theorem rewaitRemote_ok (s : State) (core : Nat) (slot : Nat) (c : Chain) (pa : Nat) (kind : Nat) (hZ : Ok s) : Ok (State.rewaitRemote s core slot c pa kind) :=
  memOk_after (rewaitRemote_same _ _ _ _ _ _ (rfl : 824633720832 &&& 824633720832 = 824633720832) (Same.refl _ _)) rfl hZ

theorem rewait_ok (s : State) (core : Nat) (slot : Nat) (base : Nat) (c : Chain) (hZ : Ok s) :
    Ok (State.rewait s core slot base c) := by
  unfold State.rewait
  repeat' first
    | extract_lets
    | with_reducible assumption
    | split
    | with_reducible apply askOwn_ok
    | with_reducible apply rewaitRemote_ok
    | with_reducible apply serveBarrier_ok
    | with_reducible apply serveCounting_ok
    | with_reducible apply ok_waiters_upd
    | dsimp +zetaDelta only

theorem returnMx_ok (s : State) (core : Nat) (hZ : Ok s) :
    Ok (State.returnMx s core) := by
  unfold State.returnMx
  repeat' first
    | extract_lets
    | with_reducible assumption
    | split
    | with_reducible apply installMx_ok

theorem resumeGroup_ok (s : State) (x : Group) (c : Cmd) (core : Nat) (hZ : Ok s) :
    Ok (State.resumeGroup s x c core) := by
  unfold State.resumeGroup
  repeat' first
    | extract_lets
    | with_reducible assumption
    | split
    | with_reducible apply invalidateDcache_ok
    | with_reducible apply progress_ok
    | with_reducible apply putChains_ok
    | with_reducible apply retime_ok
    | with_reducible apply returnMx_ok
    | with_reducible apply rewait_ok
    | with_reducible apply updCore_ok
    | with_reducible apply updGroup_ok
    | with_reducible apply updHide_ok
    | with_reducible apply wakeMx_ok
    | with_reducible apply memOk_foldl
    | intro _
    | dsimp +zetaDelta only

theorem tryResume_ok (s : State) (cid : Nat) (g : Nat) (core : Nat) (hZ : Ok s) :
    Ok (State.tryResume s cid g core) := by
  unfold State.tryResume
  repeat' first
    | extract_lets
    | with_reducible assumption
    | split
    | with_reducible apply resumeGroup_ok
    | with_reducible apply wakeFurlong_ok
    | with_reducible apply yieldThree_ok
    | dsimp +zetaDelta only

theorem takeExc_ok (s : State) (cid : Nat) (st : Nat) (err : ErrInfo) (hZ : Ok s) :
    Ok (State.takeExc s cid st err) := by
  unfold State.takeExc
  repeat' first
    | extract_lets
    | with_reducible assumption
    | split
    | with_reducible apply failCmd_ok
    | with_reducible apply retime_ok
    | with_reducible apply updCmd_ok

theorem raiseAt_ok (s : State) (core : Nat) (slot : Nat) (cid : Nat) (pc : Nat) (e : Exc) (hZ : Ok s) :
    Ok (State.raiseAt s core slot cid pc e) := by
  unfold State.raiseAt
  repeat' first
    | extract_lets
    | with_reducible assumption
    | split
    | with_reducible apply freshNext_ok
    | with_reducible apply latch_ok
    | with_reducible apply latchIn_ok
    | with_reducible apply takeExc_ok
    | with_reducible apply updChain_ok

theorem raise_ok (s : State) (core : Nat) (slot : Nat) (e : Exc) (hZ : Ok s) :
    Ok (State.raise s core slot e) := by
  unfold State.raise
  repeat' first
    | extract_lets
    | with_reducible assumption
    | split
    | with_reducible apply raiseAt_ok

theorem loadExc_ok (s : State) (core : Nat) (slot : Nat) (idx : Nat) (cause : Nat) (hZ : Ok s) :
    Ok (State.loadExc s core slot idx cause) := by
  unfold State.loadExc
  repeat' first
    | extract_lets
    | with_reducible assumption
    | split
    | with_reducible apply raise_ok
    | with_reducible apply updChain_ok

theorem loadErr_ok (s : State) (core : Nat) (slot : Nat) (idx : Nat) (hZ : Ok s) :
    Ok (State.loadErr s core slot idx) := by
  unfold State.loadErr
  repeat' first
    | extract_lets
    | with_reducible assumption
    | split
    | with_reducible apply loadExc_ok

theorem retired_ok (s : State) (c : Chain) (hZ : Ok s) : Ok (State.retired s c) :=
  memOk_after (retired_same _ _ (rfl : 512 &&& 512 = 512) (Same.refl _ _)) rfl hZ

theorem act_ok (s : State) (core : Nat) (slot : Nat) (c : Chain) (a : Act) (ha : Act.safe a) (hZ : Ok s) :
    Ok (State.act s core slot c a) := by
  have hr : ∀ k, Ok ((s.updChain core slot (fun _ => k)).retired c) := fun k => retired_ok _ _ (updChain_ok _ _ _ _ hZ)
  cases a with
  | done k => exact hr k
  | with_ k g =>
    show Ok (if c.settled then g ((s.updChain core slot (fun _ => k)).retired c) else s)
    split
    · exact ha _ (hr k)
    · exact hZ
  | asks k g => exact ha _ (hr k)
  | exc e =>
    show Ok (if c.settled then s.raise core slot e else s)
    split
    · exact raise_ok _ _ _ _ hZ
    · exact hZ
  | hold k g => exact ha _ (updChain_ok _ _ _ _ hZ)
  | request g => exact ha _ hZ
  | wait => exact hZ

theorem fillCode_ok (s : State) (core : Nat) (c : Chain) (hZ : Ok s) : Ok (State.fillCode s core c) :=
  memOk_after (fillCode_same _ _ _ (rfl : 131072 &&& 131072 = 131072) (Same.refl _ _)) rfl hZ

theorem issue_ok (s : State) (r : ChainRef) (vs : List Nat) (us : List Nat) (f : Chain → Act) (hf : ∀ x0, Act.safe (f x0)) (hZ : Ok s) :
    Ok (State.issue s r vs us f) := by
  unfold State.issue
  repeat' first
    | extract_lets
    | with_reducible assumption
    | split
    | with_reducible apply act_ok
    | with_reducible apply fillCode_ok
    | with_reducible apply hf
    | with_reducible exact trivial
    | with_reducible apply Act.safe_exc
    | intro _

theorem vector_ok (s : State) (r : ChainRef) (pred : Fin 8) (neg : Bool) (illegal : Bool) (vs : List Nat) (us : List Nat) (f : Chain → W32 → Chain) (hZ : Ok s) :
    Ok (State.vector s r pred neg illegal vs us f) := by
  unfold State.vector
  repeat' first
    | extract_lets
    | with_reducible assumption
    | split
    | with_reducible apply issue_ok
    | with_reducible exact trivial
    | with_reducible apply Act.safe_done
    | with_reducible apply Act.safe_exc
    | intro _
    | dsimp +zetaDelta only

theorem whole_ok (s : State) (r : ChainRef) (pred : Fin 8) (neg : Bool) (vs : List Nat) (us : List Nat) (f : Chain → Act) (hf : ∀ x0, Act.safe (f x0)) (hZ : Ok s) :
    Ok (State.whole s r pred neg vs us f) := by
  unfold State.whole
  repeat' first
    | extract_lets
    | with_reducible assumption
    | split
    | with_reducible apply issue_ok
    | with_reducible apply hf
    | with_reducible exact trivial
    | with_reducible apply Act.safe_done
    | with_reducible apply Act.safe_exc
    | intro _

theorem acquired_ok (s : State) (core : Nat) (scope : Nat) (hZ : Ok s) : Ok (State.acquired s core scope) :=
  memOk_after (acquired_same _ _ _ (rfl : 131072 &&& 131072 = 131072) (Same.refl _ _)) rfl hZ

theorem v3_ok (s : State) (r : ChainRef) (i : V3) (useC : Bool) (readD : Bool) (illegal : Bool) (f : W32 → W32 → W32 → W32 → W32) (hZ : Ok s) :
    Ok (State.v3 s r i useC readD illegal f) := by
  unfold State.v3
  repeat' first
    | extract_lets
    | with_reducible assumption
    | split
    | with_reducible apply vector_ok

theorem vlane_ok (s : State) (r : ChainRef) (i : V3) (illegal : Bool) (vs : List Nat) (us : List Nat) (f : Chain → Nat → W32) (hZ : Ok s) :
    Ok (State.vlane s r i illegal vs us f) := by
  unfold State.vlane
  repeat' first
    | extract_lets
    | with_reducible assumption
    | split
    | with_reducible apply vector_ok

theorem exitAct_ok (core : Nat) (slot : Nat) (c : Chain) (p : W32) :
    Act.safe (exitAct core slot c p) := by
  unfold exitAct
  repeat' first
    | extract_lets
    | with_reducible assumption
    | split
    | with_reducible apply endChain_ok
    | with_reducible exact trivial
    | with_reducible apply Act.safe_done
    | with_reducible apply Act.safe_with
    | with_reducible apply Act.safe_exc
    | intro _
    | dsimp +zetaDelta only

theorem setMxSreg_ok (s : State) (core : Nat) (k : Nat) (v : Nat) (hZ : Ok s) :
    Ok (State.setMxSreg s core k v) := by
  unfold State.setMxSreg
  repeat' first
    | extract_lets
    | with_reducible assumption
    | split
    | with_reducible apply updCore_ok
    | with_reducible apply writeBytes_ok

theorem fenceAct_ok (c : Chain) (scope : Nat) :
    Act.safe (fenceAct c scope) := by
  unfold fenceAct
  repeat' first
    | extract_lets
    | with_reducible assumption
    | split
    | with_reducible exact trivial
    | with_reducible apply Act.safe_done
    | intro _

theorem arriveBar_ok (s : State) (core : Nat) (slot : Nat) (c : Chain) (id : Nat) (hZ : Ok s) : Ok (State.arriveBar s core slot c id) :=
  memOk_after (arriveBar_same _ _ _ _ _ (rfl : 393216 &&& 393216 = 393216) (Same.refl _ _)) rfl hZ

theorem takeObj_ok (s : State) (o : Option Nat × Nat) (hZ : Ok s) : Ok (State.takeObj s o) :=
  memOk_after (takeObj_same _ _ (rfl : 824636866560 &&& 824636866560 = 824636866560) (Same.refl _ _)) rfl hZ

theorem register_ok (s : State) (core : Nat) (slot : Nat) (c : Chain) (id : W64) (o : Option Nat × Nat) (phase : Nat) (hZ : Ok s) : Ok (State.register s core slot c id o phase) :=
  memOk_after (register_same _ _ _ _ _ _ _ (rfl : 655360 &&& 655360 = 655360) (Same.refl _ _)) rfl hZ

theorem eventMsg_ok (s : State) (core : Nat) (slot : Nat) (c : Chain) (id : W64) (pa : Nat) (kind : Nat) (hZ : Ok s) : Ok (State.eventMsg s core slot c id pa kind) :=
  memOk_after (eventMsg_same _ _ _ _ _ _ _ (rfl : 824633851904 &&& 824633851904 = 824633851904) (Same.refl _ _)) rfl hZ

theorem waitObj_ok (s : State) (core : Nat) (slot : Nat) (c : Chain) (id : W64) (o : Option Nat × Nat) (hZ : Ok s) :
    Ok (State.waitObj s core slot c id o) := by
  unfold State.waitObj
  repeat' first
    | extract_lets
    | with_reducible assumption
    | split
    | with_reducible apply acquired_ok
    | with_reducible apply eventMsg_ok
    | with_reducible apply objWrite_ok
    | with_reducible apply register_ok
    | with_reducible apply takeObj_ok

theorem signalObj_ok (s : State) (core : Nat) (slot : Nat) (c : Chain) (id : W64) (o : Option Nat × Nat) (hZ : Ok s) :
    Ok (State.signalObj s core slot c id o) := by
  unfold State.signalObj
  repeat' first
    | extract_lets
    | with_reducible assumption
    | split
    | with_reducible apply acquired_ok
    | with_reducible apply arriveBarrier_ok
    | with_reducible apply eventMsg_ok
    | with_reducible apply register_ok
    | with_reducible apply signalCount_ok
    | with_reducible apply takeObj_ok
    | dsimp +zetaDelta only

theorem joinMxq_ok (s : State) (core : Nat) (slot : Nat) (hZ : Ok s) : Ok (State.joinMxq s core slot) :=
  memOk_after (joinMxq_same _ _ _ (rfl : 131072 &&& 131072 = 131072) (Same.refl _ _)) rfl hZ

theorem mx_ok (s : State) (r : ChainRef) (i : MxI) (legal : Bool) (fmts : List Nat) (needs : Chain → LsNeed) (fails : Bool) (f : Chain → State → State) (hf : ∀ x0 x1, Ok x1 → Ok (f x0 x1)) (hZ : Ok s) :
    Ok (State.mx s r i legal fmts needs fails f) := by
  unfold State.mx
  repeat' first
    | extract_lets
    | with_reducible assumption
    | split
    | with_reducible apply joinMxq_ok
    | with_reducible apply leaveMxq_ok
    | with_reducible apply markSuspect_ok
    | with_reducible apply raise_ok
    | with_reducible apply updCore_ok
    | with_reducible apply wakeMx_ok
    | with_reducible apply whole_ok
    | with_reducible apply hf
    | with_reducible exact trivial
    | with_reducible apply Act.safe_with
    | with_reducible apply Act.safe_exc
    | with_reducible apply Act.safe_hold
    | with_reducible apply Act.safe_request
    | with_reducible apply Act.safe_wait
    | intro _
    | dsimp +zetaDelta only

theorem updUnit_ok (s : State) (core : Nat) (f : MxUnit → MxUnit) (hZ : Ok s) : Ok (State.updUnit s core f) :=
  memOk_after (updUnit_same _ _ _ (rfl : 131072 &&& 131072 = 131072) (Same.refl _ _)) rfl hZ

theorem pushEntries_ok (s : State) (core : Nat) (es : List SbEnt) (hZ : Ok s) : Ok (State.pushEntries s core es) :=
  memOk_after (pushEntries_same _ _ _ (rfl : 131072 &&& 131072 = 131072) (Same.refl _ _)) rfl hZ

theorem memory_ok (s : State) (r : ChainRef) (i : MemI) (illegal : Bool) (vs : List Nat) (us : List Nat) (f : Chain → W32 → Act) (hf : ∀ x0 x1, Act.safe (f x0 x1)) (hZ : Ok s) :
    Ok (State.memory s r i illegal vs us f) := by
  unfold State.memory
  repeat' first
    | extract_lets
    | with_reducible assumption
    | split
    | with_reducible apply issue_ok
    | with_reducible apply hf
    | with_reducible exact trivial
    | with_reducible apply Act.safe_done
    | with_reducible apply Act.safe_exc
    | intro _
    | dsimp +zetaDelta only

theorem askLane_ok (s : State) (core : Nat) (slot : Nat) (c : Chain) (l : Load) (hide : Nat) (a : Nat) (hZ : Ok s) :
    Ok (State.askLane s core slot c l hide a) := by
  unfold State.askLane
  repeat' first
    | extract_lets
    | with_reducible assumption
    | split
    | with_reducible apply askRead_ok
    | with_reducible apply emit_ok
    | with_reducible apply sendReq_ok
    | dsimp +zetaDelta only

theorem addLoad_ok (s : State) (core : Nat) (slot : Nat) (c : Chain) (k : Chain) (b : Nat) (l : Load) (ask : List LaneAcc) :
    Act.safe (State.addLoad s core slot c k b l ask) := by
  unfold State.addLoad
  repeat' first
    | extract_lets
    | with_reducible assumption
    | split
    | with_reducible apply askLane_ok
    | with_reducible apply memOk_foldl
    | with_reducible exact trivial
    | with_reducible apply Act.safe_asks
    | intro _

theorem andThen_ok (a : Act) (f : Chain → Act) (ha : Act.safe a) (hf : ∀ c, Act.safe (f c)) : Act.safe (Act.andThen a f) := by
  cases a with
  | done k => exact hf k
  | asks k g =>
    have h := hf k
    dsimp only [Act.andThen]
    revert h
    generalize f k = b
    intro h
    cases b with
    | done j => exact ha
    | asks j g2 => exact fun t ht => h _ (ha _ ht)
    | with_ j g2 => exact h
    | hold j g2 => exact h
    | request g2 => exact h
    | exc e => trivial
    | wait => trivial
  | with_ k g => exact ha
  | hold k g => exact ha
  | request g => exact ha
  | exc e => trivial
  | wait => trivial

theorem startLoad_ok (s : State) (core : Nat) (slot : Nat) (c : Chain) (i : MemI) (vd : Option Nat) (ud : Nat) (size : Nat) (b : Nat) (xs : List LaneAcc) :
    Act.safe (State.startLoad s core slot c i vd ud size b xs) := by
  unfold State.startLoad
  repeat' first
    | extract_lets
    | with_reducible assumption
    | split
    | with_reducible apply addLoad_ok
    | with_reducible apply andThen_ok
    | with_reducible apply memOk_foldl
    | with_reducible exact trivial
    | with_reducible apply Act.safe_done
    | with_reducible apply Act.safe_wait
    | intro _
    | dsimp +zetaDelta only

theorem local_ok (s : State) (r : ChainRef) (i : MemI) (illegal : Bool) (vs : List Nat) (bytes : Nat) (f : Chain → W32 → (Nat → Nat) → Act) (hf : ∀ x0 x1 x2, Act.safe (f x0 x1 x2)) (hZ : Ok s) :
    Ok (State.local s r i illegal vs bytes f) := by
  unfold State.local
  repeat' first
    | extract_lets
    | with_reducible assumption
    | split
    | with_reducible apply memory_ok
    | with_reducible apply hf
    | with_reducible exact trivial
    | with_reducible apply Act.safe_exc
    | with_reducible apply Act.safe_wait
    | intro _
    | dsimp +zetaDelta only

theorem localAtom_ok (s : State) (r : ChainRef) (op : AtomOp) (i : MemI) (c : Chain) (a : Nat) (t : Nat) (hZ : Ok s) :
    Ok (State.localAtom s r op i c a t) := by
  unfold State.localAtom
  repeat' first
    | extract_lets
    | with_reducible assumption
    | split
    | with_reducible apply lsStore_ok
    | with_reducible apply updChain_ok
    | dsimp +zetaDelta only

theorem fillLine_ok (s : State) (core : Nat) (line : Nat) (hZ : Ok s) : Ok (State.fillLine s core line) :=
  memOk_after (fillLine_same _ _ _ (rfl : 131072 &&& 131072 = 131072) (Same.refl _ _)) rfl hZ

theorem endStage_ok (s : State) (c : Cmd) (slot : Nat) (hZ : Ok s) :
    Ok (State.endStage s c slot) := by
  unfold State.endStage
  repeat' first
    | extract_lets
    | with_reducible assumption
    | split
    | with_reducible apply abandonStep_ok
    | with_reducible apply dropCmd_ok
    | with_reducible apply dropGroups_ok
    | with_reducible apply endStepCmd_ok
    | with_reducible apply progress_ok
    | with_reducible apply unqueue_ok
    | with_reducible apply updPlan_ok
    | dsimp +zetaDelta only

theorem leaveForeign_ok (s : State) (e : Nat) (cid : Nat) (hZ : Ok s) : Ok (State.leaveForeign s e cid) :=
  memOk_after (leaveForeign_same _ _ _ (rfl : 68719476736 &&& 68719476736 = 68719476736) (Same.refl _ _)) rfl hZ

theorem engineRecord_ok (s : State) (e : Nat) (kind : Nat) (hZ : Ok s) :
    Ok (State.engineRecord s e kind) := by
  unfold State.engineRecord
  repeat' first
    | extract_lets
    | with_reducible assumption
    | split
    | with_reducible apply postGlobal_ok

theorem endForeign_ok (s : State) (c : Cmd) (st : Nat) (hZ : Ok s) :
    Ok (State.endForeign s c st) := by
  unfold State.endForeign
  repeat' first
    | extract_lets
    | with_reducible assumption
    | split
    | with_reducible apply complete_ok
    | with_reducible apply endWrites_ok
    | with_reducible apply engineRecord_ok
    | with_reducible apply leaveForeign_ok
    | with_reducible apply updCmd_ok
    | with_reducible apply updEngine_ok
    | dsimp +zetaDelta only

theorem report_ok (s : State) (cid : Nat) (gen : Nat) (st : Nat) (hZ : Ok s) :
    Ok (State.report s cid gen st) := by
  unfold State.report
  repeat' first
    | extract_lets
    | with_reducible assumption
    | split
    | with_reducible apply complete_ok
    | with_reducible apply dropGroups_ok
    | with_reducible apply endForeign_ok
    | with_reducible apply endStage_ok
    | with_reducible apply leaveForeign_ok
    | with_reducible apply staleGen_ok
    | dsimp +zetaDelta only

theorem engineAtomic_ok (s : State) (e : Nat) (c : Cmd) (pa : Nat) (o : AtomOp) (wide : Bool) (v : W64) (k : W64) (hZ : Ok s) :
    Ok (State.engineAtomic s e c pa o wide v k) := by
  unfold State.engineAtomic
  repeat' first
    | extract_lets
    | with_reducible assumption
    | split
    | with_reducible apply askOwn_ok
    | with_reducible apply emit_ok
    | with_reducible apply homeAtom_ok
    | with_reducible apply sendReq_ok
    | with_reducible apply takeOwn_ok
    | with_reducible apply writeBytes_ok
    | dsimp +zetaDelta only

theorem engineAccess_ok (s : State) (e : Nat) (c : Cmd) (slot : Nat) (off : Nat) (op : EngOp) (hZ : Ok s) :
    Ok (State.engineAccess s e c slot off op) := by
  unfold State.engineAccess
  repeat' first
    | extract_lets
    | with_reducible assumption
    | split
    | with_reducible apply askReads_ok
    | with_reducible apply emit_ok
    | with_reducible apply engineAtomic_ok
    | with_reducible apply staleGen_ok
    | with_reducible apply writeExt_ok
    | dsimp +zetaDelta only

theorem linkRecord_ok (s : State) (port : Nat) (kind : Nat) (peer : Nat) (retries : Nat) (hZ : Ok s) :
    Ok (State.linkRecord s port kind peer retries) := by
  unfold State.linkRecord
  repeat' first
    | extract_lets
    | with_reducible assumption
    | split
    | with_reducible apply postGlobal_ok

theorem mapChanged_ok (s : State) (hZ : Ok s) : Ok (State.mapChanged s) :=
  memOk_after (mapChanged_same _ (rfl : 274877906944 &&& 274877906944 = 274877906944) (Same.refl _ _)) rfl hZ

theorem floodOwn_ok (s : State) (hZ : Ok s) : Ok (State.floodOwn s) :=
  memOk_after (floodOwn_same _ (rfl : 824633720832 &&& 824633720832 = 824633720832) (Same.refl _ _)) rfl hZ

theorem linksChanged_ok (s : State) (hZ : Ok s) : Ok (State.linksChanged s) :=
  memOk_after (linksChanged_same _ (rfl : 824633720832 &&& 824633720832 = 824633720832) (Same.refl _ _)) rfl hZ

theorem linkState_ok (s : State) (p : Nat) (st : LkSt) (hZ : Ok s) : Ok (State.linkState s p st) :=
  memOk_after (linkState_same _ _ _ (rfl : 275414908928 &&& 275414908928 = 275414908928) (Same.refl _ _)) rfl hZ

theorem linkDown_ok (s : State) (p : Nat) (st : LkSt) (hZ : Ok s) :
    Ok (State.linkDown s p st) := by
  unfold State.linkDown
  repeat' first
    | extract_lets
    | with_reducible assumption
    | split
    | with_reducible apply linkRecord_ok
    | with_reducible apply linkState_ok
    | with_reducible apply linksChanged_ok
    | with_reducible apply updLink_ok
    | dsimp +zetaDelta only

theorem linkUp_ok (s : State) (p : Nat) (node : Nat) (port : Nat) (hZ : Ok s) :
    Ok (State.linkUp s p node port) := by
  unfold State.linkUp
  repeat' first
    | extract_lets
    | with_reducible assumption
    | split
    | with_reducible apply emit_ok
    | with_reducible apply linkRecord_ok
    | with_reducible apply linkState_ok
    | with_reducible apply linksChanged_ok
    | with_reducible apply updLink_ok
    | with_reducible apply memOk_foldl
    | intro _
    | dsimp +zetaDelta only

theorem takeCredits_ok (s : State) (p : Nat) (word : Nat) (hZ : Ok s) : Ok (State.takeCredits s p word) :=
  memOk_after (takeCredits_same _ _ _ (rfl : 274877906944 &&& 274877906944 = 274877906944) (Same.refl _ _)) rfl hZ

theorem takeNak_ok (s : State) (p : Nat) (ack : Nat) (hZ : Ok s) :
    Ok (State.takeNak s p ack) := by
  unfold State.takeNak
  repeat' first
    | extract_lets
    | with_reducible assumption
    | split
    | with_reducible apply emit_ok
    | with_reducible apply latch_ok
    | with_reducible apply linkDown_ok
    | with_reducible apply linkRecord_ok
    | with_reducible apply updLink_ok
    | with_reducible apply memOk_foldl
    | intro _
    | dsimp +zetaDelta only

theorem takeFlit_ok (s : State) (p : Nat) (v : Nat) (hZ : Ok s) :
    Ok (State.takeFlit s p v) := by
  unfold State.takeFlit
  repeat' first
    | extract_lets
    | with_reducible assumption
    | split
    | with_reducible apply emit_ok
    | with_reducible apply pump_ok
    | with_reducible apply takeCredits_ok
    | with_reducible apply takeNak_ok
    | with_reducible apply updLink_ok
    | dsimp +zetaDelta only

theorem receiveFlit_ok (s : State) (p : Nat) (v : Nat) (bad : Bool) (hZ : Ok s) :
    Ok (State.receiveFlit s p v bad) := by
  unfold State.receiveFlit
  repeat' first
    | extract_lets
    | with_reducible assumption
    | split
    | with_reducible apply emit_ok
    | with_reducible apply takeFlit_ok
    | with_reducible apply updLink_ok

theorem dropReq_ok (s : State) (r : RReq) (hZ : Ok s) : Ok (State.dropReq s r) :=
  memOk_after (dropReq_same _ _ (rfl : 274877906944 &&& 274877906944 = 274877906944) (Same.refl _ _)) rfl hZ

theorem failCore_ok (s : State) (r : RReq) (core : Nat) (slot : Nat) (ref : Nat) (cause : Nat) (hZ : Ok s) :
    Ok (State.failCore s r core slot ref cause) := by
  unfold State.failCore
  repeat' first
    | extract_lets
    | with_reducible assumption
    | split
    | with_reducible apply loadExc_ok
    | with_reducible apply raiseAt_ok

theorem failReq_ok (s : State) (r : RReq) (perm : Bool) (hZ : Ok s) :
    Ok (State.failReq s r perm) := by
  unfold State.failReq
  repeat' first
    | extract_lets
    | with_reducible assumption
    | split
    | with_reducible apply chanPerm_ok
    | with_reducible apply dropReq_ok
    | with_reducible apply emit_ok
    | with_reducible apply failCore_ok
    | with_reducible apply haltMover_ok
    | with_reducible apply killCmd_ok
    | dsimp +zetaDelta only

theorem failNodes_ok (s : State) (p : Nat → Bool) (hZ : Ok s) :
    Ok (State.failNodes s p) := by
  unfold State.failNodes
  repeat' first
    | extract_lets
    | with_reducible assumption
    | split
    | with_reducible apply failReq_ok
    | with_reducible apply memOk_foldl
    | intro _

theorem dropSnoops_ok (s : State) (p : Nat → Bool) (hZ : Ok s) :
    Ok (State.dropSnoops s p) := by
  unfold State.dropSnoops
  repeat' first
    | extract_lets
    | with_reducible assumption
    | split
    | with_reducible apply snoopAck_ok
    | with_reducible apply memOk_foldl
    | intro _

theorem doGo_ok (s : State) (crc : W32) (table : Tbl Nat) (from_ : Option Nat) (hZ : Ok s) :
    Ok (State.doGo s crc table from_) := by
  unfold State.doGo
  repeat' first
    | extract_lets
    | with_reducible assumption
    | split
    | with_reducible apply emit_ok
    | with_reducible apply linkRecord_ok
    | with_reducible apply memOk_foldl
    | with_reducible apply ok_fab_upd
    | intro _
    | dsimp +zetaDelta only

theorem countReady_ok (s : State) (crc : W32) (table : Tbl Nat) (n : Nat) (hZ : Ok s) :
    Ok (State.countReady s crc table n) := by
  unfold State.countReady
  repeat' first
    | extract_lets
    | with_reducible assumption
    | split
    | with_reducible apply doGo_ok
    | with_reducible apply emit_ok
    | with_reducible apply ok_fab_upd
    | dsimp +zetaDelta only

theorem placeRoutes_ok (s : State) (hZ : Ok s) :
    Ok (State.placeRoutes s) := by
  unfold State.placeRoutes
  repeat' first
    | extract_lets
    | with_reducible assumption
    | split
    | with_reducible apply countReady_ok
    | with_reducible apply dropSnoops_ok
    | with_reducible apply failNodes_ok
    | with_reducible apply linkRecord_ok
    | with_reducible apply memOk_foldl
    | with_reducible apply ok_fab_upd
    | intro _
    | dsimp +zetaDelta only

theorem ownNewer_ok (s : State) (seq : W32) (hZ : Ok s) :
    Ok (State.ownNewer s seq) := by
  unfold State.ownNewer
  repeat' first
    | extract_lets
    | with_reducible assumption
    | split
    | with_reducible apply floodOwn_ok
    | with_reducible apply linkDown_ok
    | with_reducible apply linkRecord_ok
    | with_reducible apply memOk_foldl
    | with_reducible apply ok_fab_upd
    | intro _
    | dsimp +zetaDelta only

theorem takeRx_ok (s : State) (p : Nat) (m : LMsg) (hZ : Ok s) : Ok (State.takeRx s p m) :=
  memOk_after (takeRx_same _ _ _ (rfl : 274877906944 &&& 274877906944 = 274877906944) (Same.refl _ _)) rfl hZ

theorem forward_ok (s : State) (m : LMsg) (hZ : Ok s) : Ok (State.forward s m) :=
  memOk_after (forward_same _ _ (rfl : 824633720832 &&& 824633720832 = 824633720832) (Same.refl _ _)) rfl hZ

theorem onMsg_ok (s : State) (p : Nat) (m : LMsg) (k : Nat) (f : State → State) (hf : ∀ x0, Ok x0 → Ok (f x0)) (hZ : Ok s) :
    Ok (State.onMsg s p m k f) := by
  unfold State.onMsg
  repeat' first
    | extract_lets
    | with_reducible assumption
    | split
    | with_reducible apply forward_ok
    | with_reducible apply takeRx_ok
    | with_reducible apply hf
    | dsimp +zetaDelta only

theorem serveReq_ok (s : State) (p : Nat) (m : LMsg) (k : Nat) (kind : HomeKind) (hZ : Ok s) :
    Ok (State.serveReq s p m k kind) := by
  unfold State.serveReq
  repeat' first
    | extract_lets
    | with_reducible assumption
    | split
    | with_reducible apply errRsp_ok
    | with_reducible apply onMsg_ok
    | with_reducible apply requestOnce_ok
    | intro _

theorem updReq_ok (s : State) (tag : Nat) (f : RReq → RReq) (hZ : Ok s) : Ok (State.updReq s tag f) :=
  memOk_after (updReq_same _ _ _ (rfl : 274877906944 &&& 274877906944 = 274877906944) (Same.refl _ _)) rfl hZ

theorem onRsp_ok (s : State) (p : Nat) (m : LMsg) (k : Nat) (kinds : List Nat) (f : State → RReq → State) (hf : ∀ x0 x1, Ok x0 → Ok (f x0 x1)) (hZ : Ok s) :
    Ok (State.onRsp s p m k kinds f) := by
  unfold State.onRsp
  repeat' first
    | extract_lets
    | with_reducible assumption
    | split
    | with_reducible apply dropReq_ok
    | with_reducible apply lateFor_ok
    | with_reducible apply onMsg_ok
    | with_reducible apply updLink_ok
    | with_reducible apply hf
    | intro _

theorem learn_ok (s : State) (pa : Nat) (bs : List Byte) (hZ : Ok s) :
    Ok (State.learn s pa bs) := by
  unfold State.learn
  repeat' first
    | extract_lets
    | with_reducible assumption
    | split
    | with_reducible apply writeBytes_ok

theorem loadPart_ok (s : State) (core : Nat) (slot : Nat) (idx : Nat) (hZ : Ok s) : Ok (State.loadPart s core slot idx) :=
  memOk_after (loadPart_same _ _ _ _ (rfl : 131072 &&& 131072 = 131072) (Same.refl _ _)) rfl hZ

theorem signalled_ok (s : State) (r : RReq) (hZ : Ok s) :
    Ok (State.signalled s r) := by
  unfold State.signalled
  repeat' first
    | extract_lets
    | with_reducible assumption
    | split
    | with_reducible apply complete_ok
    | with_reducible apply dropReq_ok
    | with_reducible apply updReq_ok
    | dsimp +zetaDelta only

theorem fillCopy_ok (s : State) (r : RReq) (m : LMsg) (hZ : Ok s) :
    Ok (State.fillCopy s r m) := by
  unfold State.fillCopy
  repeat' first
    | extract_lets
    | with_reducible assumption
    | split
    | with_reducible apply learn_ok
    | with_reducible apply makeRoom_ok
    | with_reducible apply updLine_ok
    | with_reducible apply useLine_ok
    | dsimp +zetaDelta only

theorem wakeSaved_ok (s : State) (r : RReq) (hZ : Ok s) : Ok (State.wakeSaved s r) :=
  memOk_after (wakeSaved_same _ _ (rfl : 262144 &&& 262144 = 262144) (Same.refl _ _)) rfl hZ

theorem hostRefused_ok (s : State) (hZ : Ok s) : Ok (State.hostRefused s) :=
  memOk_after (hostRefused_same _ (rfl : 549755813888 &&& 549755813888 = 549755813888) (Same.refl _ _)) rfl hZ

theorem setPending_ok (s : State) (w : Nat) (bits : W64) (hZ : Ok s) : Ok (State.setPending s w bits) :=
  memOk_after (setPending_same _ _ _ (rfl : 537001984 &&& 537001984 = 537001984) (Same.refl _ _)) rfl hZ

theorem withdraw_ok (s : State) (w : Nat) (bits : W64) (hZ : Ok s) : Ok (State.withdraw s w bits) :=
  memOk_after (withdraw_same _ _ _ (rfl : 536870912 &&& 536870912 = 536870912) (Same.refl _ _)) rfl hZ

theorem ack_ok (s : State) (t : Nat) (hZ : Ok s) : Ok (State.ack s t) :=
  memOk_after (ack_same _ _ (rfl : 550292684800 &&& 550292684800 = 550292684800) (Same.refl _ _)) rfl hZ

theorem eoiMismatch_ok (s : State) (t : Nat) (n : Nat) (hZ : Ok s) :
    Ok (State.eoiMismatch s t n) := by
  unfold State.eoiMismatch
  repeat' first
    | extract_lets
    | with_reducible assumption
    | split
    | with_reducible apply latch_ok
    | with_reducible apply postGlobal_ok
    | with_reducible apply ok_eg_upd

theorem eoi_ok (s : State) (t : Nat) (n : Nat) (hZ : Ok s) :
    Ok (State.eoi s t n) := by
  unfold State.eoi
  repeat' first
    | extract_lets
    | with_reducible assumption
    | split
    | with_reducible apply eoiMismatch_ok
    | with_reducible apply updSrc_ok
    | with_reducible apply updTgt_ok

theorem journalWm_ok (s : State) (old : Nat) (new : Nat) (hZ : Ok s) :
    Ok (State.journalWm s old new) := by
  unfold State.journalWm
  repeat' first
    | extract_lets
    | with_reducible assumption
    | split
    | with_reducible apply freshNext_ok
    | with_reducible apply journal_ok

theorem clearSticky_ok (s : State) (n : Nat) (hZ : Ok s) : Ok (State.clearSticky s n) :=
  memOk_after (clearSticky_same _ _ (rfl : 1073741824 &&& 1073741824 = 1073741824) (Same.refl _ _)) rfl hZ

theorem updBox_ok (s : State) (c : Nat) (f : Mbox → Mbox) (hZ : Ok s) : Ok (State.updBox s c f) :=
  memOk_after (updBox_same _ _ _ (rfl : 2147483648 &&& 2147483648 = 2147483648) (Same.refl _ _)) rfl hZ

theorem boxIn_ok (s : State) (c : Nat) (v : W64) (hZ : Ok s) : Ok (State.boxIn s c v) :=
  memOk_after (boxIn_same _ _ _ (rfl : 2684485632 &&& 2684485632 = 2684485632) (Same.refl _ _)) rfl hZ

theorem boxOut_ok (s : State) (c : Nat) (v : W64) (hZ : Ok s) : Ok (State.boxOut s c v) :=
  memOk_after (boxOut_same _ _ _ (rfl : 2147483648 &&& 2147483648 = 2147483648) (Same.refl _ _)) rfl hZ

theorem boxTakeIn_ok (s : State) (c : Nat) (hZ : Ok s) : Ok (State.boxTakeIn s c) :=
  memOk_after (boxTakeIn_same _ _ (rfl : 2147483648 &&& 2147483648 = 2147483648) (Same.refl _ _)) rfl hZ

theorem boxTakeOut_ok (s : State) (c : Nat) (hZ : Ok s) : Ok (State.boxTakeOut s c) :=
  memOk_after (boxTakeOut_same _ _ (rfl : 2684485632 &&& 2684485632 = 2684485632) (Same.refl _ _)) rfl hZ

theorem moveNotice_ok (s : State) (hZ : Ok s) :
    Ok (State.moveNotice s) := by
  unfold State.moveNotice
  repeat' first
    | extract_lets
    | with_reducible assumption
    | split
    | with_reducible apply freshNext_ok
    | with_reducible apply postNotice_ok

theorem beginMove_ok (s : State) (f : Nat) (dst : Option Nat) (byManager : Bool) (hZ : Ok s) :
    Ok (State.beginMove s f dst byManager) := by
  unfold State.beginMove
  repeat' first
    | extract_lets
    | with_reducible assumption
    | split
    | with_reducible apply moveNotice_ok
    | with_reducible apply startMoves_ok
    | with_reducible apply ok_moves_upd
    | with_reducible apply ok_mgrMoved_upd
    | dsimp +zetaDelta only
    | with_reducible assumption
    | exact rfl
    | with_reducible apply memOk_mk

theorem drainGroups_ok (s : State) (f : Nat) (hZ : Ok s) :
    Ok (State.drainGroups s f) := by
  unfold State.drainGroups
  repeat' first
    | extract_lets
    | with_reducible assumption
    | split
    | with_reducible apply fenceCtx_ok
    | with_reducible apply preempt_ok
    | with_reducible apply memOk_foldl
    | intro _

theorem leaveSource_ok (s : State) (m : Move) (hZ : Ok s) :
    Ok (State.leaveSource s m) := by
  unfold State.leaveSource
  repeat' first
    | extract_lets
    | with_reducible assumption
    | split
    | with_reducible apply acreBoundary_ok
    | with_reducible apply furlongOff_ok
    | with_reducible apply returnAcre_ok
    | with_reducible apply scrubFurlong_ok
    | with_reducible apply setRun_ok
    | with_reducible apply updAcre_ok
    | with_reducible apply ok_moves_upd
    | dsimp +zetaDelta only

theorem clearFor_ok (s : State) (h : Nat) (w : Cmd × Option Group) (hZ : Ok s) : Ok (State.clearFor s h w) :=
  memOk_after (clearFor_same _ _ _ (rfl : 393216 &&& 393216 = 393216) (Same.refl _ _)) rfl hZ

theorem activateTable_ok (s : State) (h : Nat) (hZ : Ok s) : Ok (State.activateTable s h) :=
  memOk_after (activateTable_same _ _ (rfl : 4194304 &&& 4194304 = 4194304) (Same.refl _ _)) rfl hZ

theorem chargeQueue_ok (s : State) (fn : Nat) (q : Nat) (g : Nat) (hZ : Ok s) : Ok (State.chargeQueue s fn q g) :=
  memOk_after (chargeQueue_same _ _ _ _ (rfl : 128 &&& 128 = 128) (Same.refl _ _)) rfl hZ

theorem chargeCmd_ok (s : State) (c : Cmd) (hZ : Ok s) : Ok (State.chargeCmd s c) :=
  memOk_after (chargeCmd_same _ _ (rfl : 2176 &&& 2176 = 2176) (Same.refl _ _)) rfl hZ

theorem tickHide_ok (s : State) (h : Nat) (hZ : Ok s) : Ok (State.tickHide s h) :=
  memOk_after (tickHide_same _ _ (rfl : 4194304 &&& 4194304 = 4194304) (Same.refl _ _)) rfl hZ

theorem endWindow_ok (s : State) (c : Nat) (hindered : Nat) (hZ : Ok s) :
    Ok (State.endWindow s c hindered) := by
  unfold State.endWindow
  repeat' first
    | extract_lets
    | with_reducible assumption
    | split
    | with_reducible apply postNotice_ok
    | with_reducible apply updCtx_ok
    | dsimp +zetaDelta only

theorem endFence_ok (s : State) (c : Nat) (hZ : Ok s) :
    Ok (State.endFence s c) := by
  unfold State.endFence
  repeat' first
    | extract_lets
    | with_reducible assumption
    | split
    | with_reducible apply complete_ok
    | with_reducible apply dropGroups_ok
    | with_reducible apply recoveryRecord_ok
    | with_reducible apply retime_ok
    | with_reducible apply updCtx_ok
    | with_reducible apply memOk_foldl
    | intro _
    | dsimp +zetaDelta only

theorem setLive_ok (s : State) (idx : Nat) (sub : Nat) (v : Nat) (hZ : Ok s) :
    Ok (State.setLive s idx sub v) := by
  unfold State.setLive
  repeat' first
    | extract_lets
    | with_reducible assumption
    | split
    | with_reducible apply beginMove_ok
    | with_reducible apply refreshReady_ok
    | with_reducible apply rehome_ok
    | with_reducible apply setRun_ok
    | with_reducible apply wmCheck_ok
    | with_reducible apply ok_kod_upd
    | with_reducible apply ok_ao_upd
    | with_reducible apply ok_gov_upd
    | dsimp +zetaDelta only

theorem applyLive_ok (s : State) (idx : Nat) (sub : Nat) (v : Nat) (hZ : Ok s) :
    Ok (State.applyLive s idx sub v) := by
  unfold State.applyLive
  repeat' first
    | extract_lets
    | with_reducible assumption
    | split
    | with_reducible apply setLive_ok
    | with_reducible apply ok_kod_upd

theorem switchOne_ok (s : State) (p : Nat) (idx : Nat) (sub : Nat) (hZ : Ok s) :
    Ok (State.switchOne s p idx sub) := by
  unfold State.switchOne
  repeat' first
    | extract_lets
    | with_reducible assumption
    | split
    | with_reducible apply applyLive_ok
    | with_reducible apply journal_ok
    | with_reducible apply journalDefault_ok
    | dsimp +zetaDelta only

theorem switchLive_ok (s : State) (p : Nat) (hZ : Ok s) :
    Ok (State.switchLive s p) := by
  unfold State.switchLive
  repeat' first
    | extract_lets
    | with_reducible assumption
    | split
    | with_reducible apply switchOne_ok
    | with_reducible apply memOk_foldl
    | with_reducible apply ok_gov_upd
    | intro _
    | dsimp +zetaDelta only

theorem fallback_ok (s : State) (p : Nat) (hZ : Ok s) :
    Ok (State.fallback s p).1 := by
  unfold State.fallback
  repeat' first
    | extract_lets
    | with_reducible assumption
    | split
    | with_reducible apply storeAlarm_ok

theorem applyPending_ok (s : State) (hZ : Ok s) :
    Ok (State.applyPending s) := by
  unfold State.applyPending
  repeat' first
    | extract_lets
    | with_reducible assumption
    | split
    | with_reducible apply startFull_ok
    | with_reducible apply updHide_ok
    | with_reducible apply memOk_foldl
    | intro _

theorem switchTo_ok (s : State) (p : Nat) (apply : Bool) (hZ : Ok s) :
    Ok (State.switchTo s p apply) := by
  unfold State.switchTo
  repeat' first
    | extract_lets
    | with_reducible assumption
    | split
    | with_reducible apply applyPending_ok
    | with_reducible apply fallback_ok
    | with_reducible apply switchLive_ok
    | with_reducible apply ok_kod_upd
    | dsimp +zetaDelta only

theorem copyProfile_ok (s : State) (src : Nat) (dst : Nat) (hZ : Ok s) :
    Ok (State.copyProfile s src dst) := by
  unfold State.copyProfile
  repeat' first
    | extract_lets
    | with_reducible assumption
    | split
    | with_reducible apply switchLive_ok
    | with_reducible apply ok_kod_upd
    | dsimp +zetaDelta only

theorem commitFirmware_ok (s : State) (crc : Nat) (hZ : Ok s) :
    Ok (State.commitFirmware s crc) := by
  unfold State.commitFirmware
  repeat' first
    | extract_lets
    | with_reducible assumption
    | split
    | with_reducible apply flashWrite_ok
    | with_reducible apply storeAlarm_ok
    | with_reducible apply writeHeader_ok
    | with_reducible apply ok_kod_upd
    | dsimp +zetaDelta only

theorem commitShift_ok (s : State) (h : Nat) (hZ : Ok s) :
    Ok (State.commitShift s h) := by
  unfold State.commitShift
  repeat' first
    | extract_lets
    | with_reducible assumption
    | split
    | with_reducible apply acreBoundary_ok
    | with_reducible apply postGlobal_ok
    | with_reducible apply updAcre_ok
    | with_reducible apply updHide_ok
    | dsimp +zetaDelta only

theorem storeShift_ok (s : State) (h : Nat) (hZ : Ok s) : Ok (State.storeShift s h) :=
  memOk_after (storeShift_same _ _ (rfl : 554050781184 &&& 554050781184 = 554050781184) (Same.refl _ _)) rfl hZ

theorem kodCommand_ok (s : State) (r : KodReq) (v : Nat) (hZ : Ok s) :
    Ok (State.kodCommand s r v) := by
  unfold State.kodCommand
  repeat' first
    | extract_lets
    | with_reducible assumption
    | split
    | with_reducible apply commitFirmware_ok
    | with_reducible apply commitShift_ok
    | with_reducible apply copyProfile_ok
    | with_reducible apply setRun_ok
    | with_reducible apply startFull_ok
    | with_reducible apply startReset_ok
    | with_reducible apply storeShift_ok
    | with_reducible apply switchTo_ok
    | with_reducible apply updHide_ok
    | with_reducible apply ok_kod_upd
    | with_reducible apply ok_ao_upd

theorem kodPerform_ok (s : State) (e : KodEnt) (r : KodReq) (hZ : Ok s) :
    Ok (State.kodPerform s e r) := by
  unfold State.kodPerform
  repeat' first
    | extract_lets
    | with_reducible assumption
    | split
    | with_reducible apply applyLive_ok
    | with_reducible apply kodCommand_ok
    | with_reducible apply setStored_ok
    | dsimp +zetaDelta only

theorem kodWriteReq_ok (s : State) (source : Nat) (req : Nat) (r : KodReq) (hZ : Ok s) :
    Ok (State.kodWriteReq s source req r).1 := by
  unfold State.kodWriteReq
  repeat' first
    | extract_lets
    | with_reducible assumption
    | split
    | with_reducible apply journal_ok
    | with_reducible apply kodPerform_ok
    | dsimp +zetaDelta only

theorem kodAnswer_ok (s : State) (r : KodReq) (code : Nat) (data : List Byte) (hZ : Ok s) : Ok (State.kodAnswer s r code data) :=
  memOk_after (kodAnswer_same _ _ _ _ (rfl : 554050781184 &&& 554050781184 = 554050781184) (Same.refl _ _)) rfl hZ

theorem kodServe_ok (s : State) (op : Nat) (r : KodReq) (hZ : Ok s) :
    Ok (State.kodServe s op r) := by
  unfold State.kodServe
  repeat' first
    | extract_lets
    | with_reducible assumption
    | split
    | with_reducible apply kodAnswer_ok
    | with_reducible apply kodWriteReq_ok
    | dsimp +zetaDelta only

theorem kodRequest_ok (s : State) (op : Nat) (r : KodReq) (hZ : Ok s) :
    Ok (State.kodRequest s op r) := by
  unfold State.kodRequest
  repeat' first
    | extract_lets
    | with_reducible assumption
    | split
    | with_reducible apply emit_ok
    | with_reducible apply kodAnswer_ok
    | with_reducible apply kodServe_ok
    | with_reducible apply ok_kod_upd
    | dsimp +zetaDelta only

theorem serveStored_ok (s : State) (hZ : Ok s) :
    Ok (State.serveStored s) := by
  unfold State.serveStored
  repeat' first
    | extract_lets
    | with_reducible assumption
    | split
    | with_reducible apply kodServe_ok
    | with_reducible apply memOk_foldl
    | with_reducible apply ok_kod_upd
    | intro _

theorem writeCopy_ok (s : State) (p : Nat) (ok : Bool) (hZ : Ok s) : Ok (State.writeCopy s p ok) :=
  memOk_after (writeCopy_same _ _ _ (rfl : 554050781184 &&& 554050781184 = 554050781184) (Same.refl _ _)) rfl hZ

theorem loadProfiles_ok (s : State) (hZ : Ok s) : Ok (State.loadProfiles s) :=
  memOk_after (loadProfiles_same _ (rfl : 4294967296 &&& 4294967296 = 4294967296) (Same.refl _ _)) rfl hZ

theorem updGov_ok (s : State) (f : Gov → Gov) (hZ : Ok s) : Ok (State.updGov s f) :=
  memOk_after (updGov_same _ _ (rfl : 17179869184 &&& 17179869184 = 17179869184) (Same.refl _ _)) rfl hZ

theorem updPow_ok (s : State) (f : Power → Power) (hZ : Ok s) : Ok (State.updPow s f) :=
  memOk_after (updPow_same _ _ (rfl : 34359738368 &&& 34359738368 = 34359738368) (Same.refl _ _)) rfl hZ

theorem askVdd_ok (s : State) (v : Nat) (hZ : Ok s) : Ok (State.askVdd s v) :=
  memOk_after (askVdd_same _ _ (rfl : 566935683072 &&& 566935683072 = 566935683072) (Same.refl _ _)) rfl hZ

theorem avsFail_ok (s : State) (hZ : Ok s) : Ok (State.avsFail s) :=
  memOk_after (avsFail_same _ (rfl : 17716871172 &&& 17716871172 = 17716871172) (Same.refl _ _)) rfl hZ

theorem capDown_ok (s : State) (hZ : Ok s) : Ok (State.capDown s) :=
  memOk_after (capDown_same _ (rfl : 17179869184 &&& 17179869184 = 17179869184) (Same.refl _ _)) rfl hZ

theorem capUp_ok (s : State) (hZ : Ok s) : Ok (State.capUp s) :=
  memOk_after (capUp_same _ (rfl : 17179869184 &&& 17179869184 = 17179869184) (Same.refl _ _)) rfl hZ

theorem zeroiseAll_ok (s : State) (hZ : Ok s) :
    Ok (State.zeroiseAll s) := by
  unfold State.zeroiseAll
  repeat' first
    | extract_lets
    | with_reducible assumption
    | split
    | with_reducible apply rekey_ok
    | with_reducible apply updHide_ok
    | with_reducible apply updPow_ok
    | with_reducible apply memOk_foldl
    | intro _

theorem trip_ok (s : State) (hZ : Ok s) : Ok (State.trip s) :=
  memOk_after (trip_same _ (rfl : 576066813956 &&& 576066813956 = 576066813956) (Same.refl _ _)) rfl hZ

theorem untrip_ok (s : State) (hZ : Ok s) :
    Ok (State.untrip s) := by
  unfold State.untrip
  repeat' first
    | extract_lets
    | with_reducible assumption
    | split
    | with_reducible apply startFull_ok
    | with_reducible apply updGov_ok
    | with_reducible apply updHide_ok
    | with_reducible apply memOk_foldl
    | intro _

theorem aoAlarm_ok (s : State) (code : Nat) (hZ : Ok s) : Ok (State.aoAlarm s code) :=
  memOk_after (aoAlarm_same _ _ (rfl : 9126936580 &&& 9126936580 = 9126936580) (Same.refl _ _)) rfl hZ

theorem scrubSram_ok (s : State) (hZ : Ok s) : Ok (State.scrubSram s) :=
  memOk_after (scrubSram_same _ (rfl : 4410292992 &&& 4410292992 = 4410292992) (Same.refl _ _)) rfl hZ

theorem wipe_ok (s : State) (cold : Bool) (hZ : Ok s) : Ok (s.wipe cold) :=
  memOk_of rfl rfl (memOk_parts hZ).2.2

theorem deassert_ok (s : State) (profsel : BitVec 2) (hZ : Ok s) : Ok (State.deassert s profsel) :=
  memOk_after (deassert_same _ _ (rfl : 597000454144 &&& 597000454144 = 597000454144) (Same.refl _ _)) rfl hZ

theorem pickFirmware_ok (s : State) (hZ : Ok s) : Ok (State.pickFirmware s) :=
  memOk_after (pickFirmware_same _ (rfl : 554050781184 &&& 554050781184 = 554050781184) (Same.refl _ _)) rfl hZ

theorem readStore_ok (s : State) (hZ : Ok s) : Ok (State.readStore s) :=
  memOk_after (readStore_same _ (rfl : 549755813888 &&& 549755813888 = 549755813888) (Same.refl _ _)) rfl hZ

theorem activate_ok (s : State) (p : Nat) (hZ : Ok s) :
    Ok (State.activate s p) := by
  unfold State.activate
  repeat' first
    | extract_lets
    | with_reducible assumption
    | split
    | with_reducible apply capUnits_ok
    | with_reducible apply journalDefault_ok
    | with_reducible apply memOk_foldl
    | with_reducible apply ok_kod_upd
    | with_reducible apply ok_ao_upd
    | with_reducible apply ok_gov_upd
    | intro _
    | dsimp +zetaDelta only
    | with_reducible assumption
    | exact rfl
    | with_reducible apply memOk_mk

theorem powerUp_ok (s : State) (hZ : Ok s) :
    Ok (State.powerUp s) := by
  unfold State.powerUp
  repeat' first
    | extract_lets
    | with_reducible assumption
    | split
    | with_reducible apply linkRecord_ok
    | with_reducible apply linkState_ok
    | with_reducible apply powerPorts_ok
    | with_reducible apply updPow_ok
    | with_reducible apply memOk_foldl
    | intro _
    | dsimp +zetaDelta only

theorem startControl_ok (s : State) (hZ : Ok s) : Ok (State.startControl s) :=
  memOk_after (startControl_same _ (rfl : 131072 &&& 131072 = 131072) (Same.refl _ _)) rfl hZ

theorem latchHigh_ok (s : State) (hZ : Ok s) : Ok (State.latchHigh s) :=
  memOk_after (latchHigh_same _ (rfl : 537001988 &&& 537001988 = 537001988) (Same.refl _ _)) rfl hZ

theorem restartFirmware_ok (s : State) (x : Nat) (hZ : Ok s) : Ok (State.restartFirmware s x) :=
  memOk_after (restartFirmware_same _ _ (rfl : 45634158596 &&& 45634158596 = 45634158596) (Same.refl _ _)) rfl hZ

theorem presentAll_ok (s : State) (hZ : Ok s) : Ok (State.presentAll s) :=
  memOk_after (presentAll_same _ (rfl : 537001984 &&& 537001984 = 537001984) (Same.refl _ _)) rfl hZ

theorem startHide_ok (s : State) (h : Nat) (hZ : Ok s) :
    Ok (State.startHide s h) := by
  unfold State.startHide
  repeat' first
    | extract_lets
    | with_reducible assumption
    | split
    | with_reducible apply drawKey_ok
    | with_reducible apply presentAll_ok
    | with_reducible apply readShift_ok
    | with_reducible apply refreshAll_ok
    | with_reducible apply updHide_ok
    | with_reducible apply ok_scrubbed_upd
    | with_reducible apply ok_eg_upd
    | with_reducible apply ok_pow_upd
    | dsimp +zetaDelta only
    | with_reducible assumption
    | exact rfl
    | with_reducible apply memOk_mk

theorem updSport_ok (s : State) (p : Nat) (f : SPort → SPort) (hZ : Ok s) : Ok (State.updSport s p f) :=
  memOk_after (updSport_same _ _ _ (rfl : 137438953472 &&& 137438953472 = 137438953472) (Same.refl _ _)) rfl hZ

theorem stackRecord_ok (s : State) (p : Nat) (lane : Nat) (kind : Nat) (addr : Nat) (hZ : Ok s) :
    Ok (State.stackRecord s p lane kind addr) := by
  unfold State.stackRecord
  repeat' first
    | extract_lets
    | with_reducible assumption
    | split
    | with_reducible apply postGlobal_ok

theorem errorTo_ok (s : State) (who : HostWho) (source : Nat) (pa : Nat) (hZ : Ok s) :
    Ok (State.errorTo s who source pa) := by
  unfold State.errorTo
  repeat' first
    | extract_lets
    | with_reducible assumption
    | split
    | with_reducible apply failCmd_ok
    | with_reducible apply haltMover_ok
    | with_reducible apply loadErr_ok

theorem hostPart_ok (s : State) (core : Nat) (slot : Nat) (idx : Nat) (pa : Nat) (data : List Byte) (hZ : Ok s) :
    Ok (State.hostPart s core slot idx pa data) := by
  unfold State.hostPart
  repeat' first
    | extract_lets
    | with_reducible assumption
    | split
    | with_reducible apply atomLane_ok
    | with_reducible apply lateFor_ok
    | with_reducible apply loadPart_ok
    | with_reducible apply writeBytes_ok
    | dsimp +zetaDelta only

theorem writeFcp_ok (s : State) (n : Nat) (o : Nat) (off : Nat) (val : W64) (hZ : Ok s) :
    Ok (State.writeFcp s n o off val) := by
  unfold State.writeFcp
  repeat' first
    | extract_lets
    | with_reducible assumption
    | split
    | with_reducible apply ignored_ok
    | with_reducible apply startFnReset_ok
    | with_reducible apply writeVerSelect_ok

theorem writeEq_ok (s : State) (n : Nat) (err : Bool) (o : Nat) (off : Nat) (v : Nat) (hZ : Ok s) : Ok (State.writeEq s n err o off v) :=
  memOk_after (writeEq_same _ _ _ _ _ _ (rfl : 558345748608 &&& 558345748608 = 558345748608) (Same.refl _ _)) rfl hZ

theorem writeEqc_ok (s : State) (n : Nat) (o : Nat) (off : Nat) (size : Nat) (val : W64) (hZ : Ok s) : Ok (State.writeEqc s n o off size val) :=
  memOk_after (writeEqc_same _ _ _ _ _ _ (rfl : 558345748608 &&& 558345748608 = 558345748608) (Same.refl _ _)) rfl hZ

theorem setQueue_ok (s : State) (n : Nat) (q : Nat) (f : Queue → Queue) (hZ : Ok s) : Ok (State.setQueue s n q f) :=
  memOk_after (setQueue_same _ _ _ _ (rfl : 128 &&& 128 = 128) (Same.refl _ _)) rfl hZ

theorem writeQueue_ok (s : State) (n : Nat) (q : Nat) (o : Nat) (off : Nat) (size : Nat) (val : W64) (hZ : Ok s) :
    Ok (State.writeQueue s n q o off size val) := by
  unfold State.writeQueue
  repeat' first
    | extract_lets
    | with_reducible assumption
    | split
    | with_reducible apply abortQueue_ok
    | with_reducible apply cqSignal_ok
    | with_reducible apply ignored_ok
    | with_reducible apply ringDoorbell_ok
    | with_reducible apply setQueue_ok
    | with_reducible apply updQueue_ok
    | with_reducible apply writeCqHead_ok
    | with_reducible apply writeDisable_ok
    | with_reducible apply writeEnable_ok
    | dsimp +zetaDelta only

theorem writeVfm_ok (s : State) (n : Nat) (o : Nat) (off : Nat) (size : Nat) (val : W64) (hZ : Ok s) :
    Ok (State.writeVfm s n o off size val) := by
  unfold State.writeVfm
  repeat' first
    | extract_lets
    | with_reducible assumption
    | split
    | with_reducible apply kodWriteReq_ok
    | with_reducible apply updFn_ok
    | with_reducible apply memOk_foldl
    | intro _
    | dsimp +zetaDelta only

theorem writeSrc_ok (s : State) (n : Nat) (v : Nat) (hZ : Ok s) : Ok (State.writeSrc s n v) :=
  memOk_after (writeSrc_same _ _ _ (rfl : 537001984 &&& 537001984 = 537001984) (Same.refl _ _)) rfl hZ

theorem writeGrp_ok (s : State) (g : Nat) (v : Nat) (hZ : Ok s) : Ok (State.writeGrp s g v) :=
  memOk_after (writeGrp_same _ _ _ (rfl : 537001984 &&& 537001984 = 537001984) (Same.refl _ _)) rfl hZ

theorem writeMode_ok (s : State) (v : Nat) (hZ : Ok s) : Ok (State.writeMode s v) :=
  memOk_after (writeMode_same _ _ (rfl : 537001984 &&& 537001984 = 537001984) (Same.refl _ _)) rfl hZ

theorem writeMark_ok (s : State) (n : Nat) (v : Nat) (host : Bool) (hZ : Ok s) :
    Ok (State.writeMark s n v host) := by
  unfold State.writeMark
  repeat' first
    | extract_lets
    | with_reducible assumption
    | split
    | with_reducible apply journalWm_ok
    | with_reducible apply kodWriteReq_ok
    | with_reducible apply updWm_ok
    | with_reducible apply wmCheck_ok
    | dsimp +zetaDelta only

theorem writeWmCtrl_ok (s : State) (n : Nat) (off : Nat) (size : Nat) (val : W64) (host : Bool) (hZ : Ok s) :
    Ok (State.writeWmCtrl s n off size val host) := by
  unfold State.writeWmCtrl
  repeat' first
    | extract_lets
    | with_reducible assumption
    | split
    | with_reducible apply clearSticky_ok
    | with_reducible apply journalWm_ok
    | with_reducible apply updWm_ok
    | with_reducible apply wmCheck_ok
    | dsimp +zetaDelta only

theorem writeWm_ok (s : State) (n : Nat) (o : Nat) (off : Nat) (size : Nat) (val : W64) (host : Bool) (hZ : Ok s) :
    Ok (State.writeWm s n o off size val host) := by
  unfold State.writeWm
  repeat' first
    | extract_lets
    | with_reducible assumption
    | split
    | with_reducible apply writeMark_ok
    | with_reducible apply writeWmCtrl_ok

theorem writeBox_ok (s : State) (c : Nat) (o : Nat) (off : Nat) (size : Nat) (val : W64) (host : Bool) (hZ : Ok s) : Ok (State.writeBox s c o off size val host) :=
  memOk_after (writeBox_same _ _ _ _ _ _ _ (rfl : 2684485632 &&& 2684485632 = 2684485632) (Same.refl _ _)) rfl hZ

theorem writeTgt_ok (s : State) (t : Nat) (o : Nat) (off : Nat) (v : Nat) (hZ : Ok s) :
    Ok (State.writeTgt s t o off v) := by
  unfold State.writeTgt
  repeat' first
    | extract_lets
    | with_reducible assumption
    | split
    | with_reducible apply eoi_ok
    | with_reducible apply updTgt_ok

theorem writeEg_ok (s : State) (o : Nat) (off : Nat) (size : Nat) (val : W64) (hZ : Ok s) :
    Ok (State.writeEg s o off size val) := by
  unfold State.writeEg
  repeat' first
    | extract_lets
    | with_reducible assumption
    | split
    | with_reducible apply setPending_ok
    | with_reducible apply withdraw_ok
    | with_reducible apply writeBox_ok
    | with_reducible apply writeGrp_ok
    | with_reducible apply writeMode_ok
    | with_reducible apply writeSrc_ok
    | with_reducible apply writeTgt_ok
    | with_reducible apply writeWm_ok
    | dsimp +zetaDelta only

theorem writeEgHost_ok (s : State) (o : Nat) (off : Nat) (size : Nat) (val : W64) (hZ : Ok s) :
    Ok (State.writeEgHost s o off size val) := by
  unfold State.writeEgHost
  repeat' first
    | extract_lets
    | with_reducible assumption
    | split
    | with_reducible apply setPending_ok
    | with_reducible apply writeWm_ok

theorem writeKod_ok (s : State) (o : Nat) (off : Nat) (size : Nat) (val : W64) (hZ : Ok s) :
    Ok (State.writeKod s o off size val) := by
  unfold State.writeKod
  repeat' first
    | extract_lets
    | with_reducible assumption
    | split
    | with_reducible apply kodRequest_ok
    | with_reducible apply ok_kod_upd
    | dsimp +zetaDelta only

theorem writePf_ok (s : State) (trust : Bool) (off : Nat) (size : Nat) (val : W64) (hZ : Ok s) :
    Ok (State.writePf s trust off size val) := by
  unfold State.writePf
  repeat' first
    | extract_lets
    | with_reducible assumption
    | split
    | with_reducible apply emit_ok
    | with_reducible apply hostRefused_ok
    | with_reducible apply writeBox_ok
    | with_reducible apply writeEgHost_ok
    | with_reducible apply writeKod_ok
    | with_reducible apply writeVfm_ok
    | dsimp +zetaDelta only

theorem writeBar_ok (s : State) (n : Nat) (trust : Bool) (off : Nat) (size : Nat) (val : W64) (hZ : Ok s) :
    Ok (State.writeBar s n trust off size val) := by
  unfold State.writeBar
  repeat' first
    | extract_lets
    | with_reducible assumption
    | split
    | with_reducible apply emit_ok
    | with_reducible apply writeEqc_ok
    | with_reducible apply writeFcp_ok
    | with_reducible apply writePf_ok
    | with_reducible apply writePush_ok
    | with_reducible apply writeQueue_ok
    | dsimp +zetaDelta only

theorem writeChCtrl_ok (s : State) (m : Nat) (c : Nat) (v : Nat) (hZ : Ok s) :
    Ok (State.writeChCtrl s m c v) := by
  unfold State.writeChCtrl
  repeat' first
    | extract_lets
    | with_reducible assumption
    | split
    | with_reducible apply abortWrite_ok
    | with_reducible apply disableChan_ok
    | with_reducible apply enableChan_ok
    | with_reducible apply goOn_ok
    | with_reducible apply haltAtBurst_ok
    | with_reducible apply updChan_ok
    | dsimp +zetaDelta only

theorem setChan_ok (s : State) (m : Nat) (c : Nat) (f : Chan → Chan) (hZ : Ok s) : Ok (State.setChan s m c f) :=
  memOk_after (setChan_same _ _ _ _ (rfl : 268435456 &&& 268435456 = 268435456) (Same.refl _ _)) rfl hZ

theorem writeChan_ok (s : State) (m : Nat) (c : Nat) (o : Nat) (off : Nat) (size : Nat) (val : W64) (hZ : Ok s) :
    Ok (State.writeChan s m c o off size val) := by
  unfold State.writeChan
  repeat' first
    | extract_lets
    | with_reducible assumption
    | split
    | with_reducible apply fetchDesc_ok
    | with_reducible apply setChan_ok
    | with_reducible apply writeChCtrl_ok
    | dsimp +zetaDelta only

theorem writeMover_ok (s : State) (m : Nat) (o : Nat) (off : Nat) (size : Nat) (val : W64) (hZ : Ok s) :
    Ok (State.writeMover s m o off size val) := by
  unfold State.writeMover
  repeat' first
    | extract_lets
    | with_reducible assumption
    | split
    | with_reducible apply restartMover_ok
    | with_reducible apply writeChan_ok

theorem writeDev_ok {s : State} {off : Nat} {size : Nat} {val : W64} {t : State} (h : State.writeDev s off size val = some t) (hZ : Ok s) : Ok t := by
  unfold State.writeDev at h
  repeat' first
    | split at h
    | cases h
  repeat' first
    | extract_lets
    | with_reducible assumption
    | split
    | with_reducible apply writeEg_ok
    | with_reducible apply writeMover_ok

theorem readDev_ok {s : State} {off : Nat} {size : Nat} {t : State} {v : Nat} (h : State.readDev s off size = some (t, v)) (hZ : Ok s) : Ok t :=
  memOk_after (readDev_same h (rfl : 550292684800 &&& 550292684800 = 550292684800) (Same.refl _ _)) rfl hZ

theorem cacheStore_ok (s : State) (core : Nat) (e : SbEnt) (hZ : Ok s) : Ok (State.cacheStore s core e) :=
  memOk_after (cacheStore_same _ _ _ (rfl : 131072 &&& 131072 = 131072) (Same.refl _ _)) rfl hZ

theorem dropEntry_ok (s : State) (core : Nat) (k : Nat) (hZ : Ok s) : Ok (State.dropEntry s core k) :=
  memOk_after (dropEntry_same _ _ _ (rfl : 131072 &&& 131072 = 131072) (Same.refl _ _)) rfl hZ

theorem dropAtom_ok (s : State) (core : Nat) (k : Nat) (e : SbEnt) (hZ : Ok s) : Ok (State.dropAtom s core k e) :=
  memOk_after (dropAtom_same _ _ _ _ (rfl : 131072 &&& 131072 = 131072) (Same.refl _ _)) rfl hZ

theorem sendEntry_ok (s : State) (core : Nat) (e : SbEnt) (kind : Nat) (aux : Nat) (a : Nat) (data : List Byte) (ref : Nat) (hZ : Ok s) : Ok (State.sendEntry s core e kind aux a data ref) :=
  memOk_after (sendEntry_same _ _ _ _ _ _ _ _ (rfl : 824633720832 &&& 824633720832 = 824633720832) (Same.refl _ _)) rfl hZ

theorem toHost_ok (s : State) (e : SbEnt) (hZ : Ok s) :
    Ok (State.toHost s e) := by
  unfold State.toHost
  repeat' first
    | extract_lets
    | with_reducible assumption
    | split
    | with_reducible apply dropStore_ok
    | with_reducible apply emit_ok
    | with_reducible apply emitWrites_ok
    | with_reducible apply writeCells_ok
    | with_reducible apply memOk_foldl
    | intro _
    | dsimp +zetaDelta only

theorem toNode_ok (s : State) (core : Nat) (k : Nat) (e : SbEnt) (hZ : Ok s) :
    Ok (State.toNode s core k e) := by
  unfold State.toNode
  repeat' first
    | extract_lets
    | with_reducible assumption
    | split
    | with_reducible apply cacheStore_ok
    | with_reducible apply dropAtom_ok
    | with_reducible apply dropEntry_ok
    | with_reducible apply sendEntry_ok
    | with_reducible apply writeHeld_ok
    | with_reducible apply memOk_foldl
    | intro _
    | dsimp +zetaDelta only

theorem toHome_ok (s : State) (core : Nat) (k : Nat) (e : SbEnt) (hZ : Ok s) :
    Ok (State.toHome s core k e) := by
  unfold State.toHome
  repeat' first
    | extract_lets
    | with_reducible assumption
    | split
    | with_reducible apply cacheStore_ok
    | with_reducible apply dropEntry_ok
    | with_reducible apply requestOnce_ok
    | with_reducible apply updCore_ok
    | dsimp +zetaDelta only

theorem toDevice_ok {s : State} {core : Nat} {e : SbEnt} {t : State}
    (h : s.toDevice core e = some t) (hZ : Ok s) : Ok t := by
  unfold State.toDevice at h
  split at h
  · exact writeDev_ok h hZ
  · extract_lets off at h
    split at h
    · cases h
    · rename_i q
      have hq := readDev_ok q hZ
      rw [Option.map_eq_some_iff] at h
      obtain ⟨u, h1, rfl⟩ := h
      exact atomLane_ok _ _ _ _ _ _ (writeDev_ok h1 hq)

theorem leave_ok {s : State} {core k : Nat} {e : SbEnt} {t : State}
    (h : s.leave core k e = some t) (hZ : Ok s) : Ok t := by
  unfold State.leave at h
  repeat' first
    | exact toDevice_ok h (dropEntry_ok _ _ _ hZ)
    | split at h
    | cases h
  repeat' first
    | extract_lets
    | with_reducible assumption
    | split
    | with_reducible apply cacheStore_ok
    | with_reducible apply dropEntry_ok
    | with_reducible apply staleGen_ok
    | with_reducible refine toDevice_ok ‹_› ?_
    | with_reducible apply toHome_ok
    | with_reducible apply toHost_ok
    | with_reducible apply toNode_ok

theorem returnLoad_ok (s : State) (core : Nat) (slot : Nat) (l : Load) (hZ : Ok s) : Ok (State.returnLoad s core slot l) :=
  memOk_after (returnLoad_same _ _ _ _ (rfl : 131072 &&& 131072 = 131072) (Same.refl _ _)) rfl hZ

theorem readDevLanes_ok {s : State} {core : Nat} {slot : Nat} {l : Load} {a4 : List (Nat × Nat)} {t : State} (h : State.readDevLanes s core slot l a4 = .ok t) (hZ : Ok s) : Ok t :=
  memOk_after (readDevLanes_same h (rfl : 550292815872 &&& 550292815872 = 550292815872) (Same.refl _ _)) rfl hZ

theorem tick_ok (s : State) (hZ : Ok s) : Ok (State.tick s) :=
  memOk_after (tick_same _ (rfl : 25769803778 &&& 25769803778 = 25769803778) (Same.refl _ _)) rfl hZ

end Sys2Proof.Laws
end

