-- ==== Sys2Proof/Laws/MemExec.lean ====
section
/-! SUPPORT. Every command that answers a next state keeps the memories in canonical form. -/

namespace Sys2Proof.Laws

open Sys2Proof.Machine

theorem execRegisterWrite_ok {v : RegView} {off : Nat} {size : Nat} {val : W64} {s : State} {s1 : State} (h : execRegisterWrite v off size val s = .next s1) (hZ : Ok s) : Ok s1 := by
  unfold execRegisterWrite at h
  repeat' first
    | extract_lets at h
    | (injection h with h; subst h)
    | split at h
    | cases h
    | extract_lets
    | with_reducible assumption
    | split
    | with_reducible apply writeBar_ok
    | with_reducible refine writeDev_ok ‹_› ?_

theorem execVerSelectWrite_ok {fn : Fin 513} {val : W16} {s : State} {s1 : State} (h : execVerSelectWrite fn val s = .next s1) (hZ : Ok s) : Ok s1 := by
  exact memOk_after (execVerSelectWrite_same h) rfl hZ

theorem execFunctionReset_ok {fn : Fin 513} {s : State} {s1 : State} (h : execFunctionReset fn s = .next s1) (hZ : Ok s) : Ok s1 := by
  unfold execFunctionReset at h
  repeat' first
    | extract_lets at h
    | (injection h with h; subst h)
    | split at h
    | cases h
    | extract_lets
    | with_reducible assumption
    | split
    | with_reducible apply emit_ok
    | with_reducible apply startFnReset_ok

theorem execFlrReport_ok {fn : Fin 513} {s : State} {s1 : State} (h : execFlrReport fn s = .next s1) (hZ : Ok s) : Ok s1 := by
  unfold execFlrReport at h
  repeat' first
    | extract_lets at h
    | (injection h with h; subst h)
    | split at h
    | cases h
    | extract_lets
    | with_reducible assumption
    | split
    | with_reducible apply startFnReset_ok

theorem execFunctionResetEnd_ok {fn : Fin 513} {s : State} {s1 : State} (h : execFunctionResetEnd fn s = .next s1) (hZ : Ok s) : Ok s1 := by
  exact memOk_after (execFunctionResetEnd_same h) rfl hZ

theorem execQueueEnable_ok {fn : Fin 513} {q : Fin 64} {ctrl : W64} {s : State} {s1 : State} (h : execQueueEnable fn q ctrl s = .next s1) (hZ : Ok s) : Ok s1 := by
  unfold execQueueEnable at h
  repeat' first
    | extract_lets at h
    | (injection h with h; subst h)
    | split at h
    | cases h
    | extract_lets
    | with_reducible assumption
    | split
    | with_reducible apply writeEnable_ok

theorem execQueueDisable_ok {fn : Fin 513} {q : Fin 64} {ctrl : W64} {s : State} {s1 : State} (h : execQueueDisable fn q ctrl s = .next s1) (hZ : Ok s) : Ok s1 := by
  exact memOk_after (execQueueDisable_same h) rfl hZ

theorem execQueueDrainEnd_ok {fn : Fin 513} {q : Fin 64} {s : State} {s1 : State} (h : execQueueDrainEnd fn q s = .next s1) (hZ : Ok s) : Ok s1 := by
  unfold execQueueDrainEnd at h
  repeat' first
    | extract_lets at h
    | (injection h with h; subst h)
    | split at h
    | cases h
    | extract_lets
    | with_reducible assumption
    | split
    | with_reducible apply endDrain_ok

theorem execDoorbell_ok {fn : Fin 513} {q : Fin 64} {tail : W32} {s : State} {s1 : State} (h : execDoorbell fn q tail s = .next s1) (hZ : Ok s) : Ok s1 := by
  unfold execDoorbell at h
  repeat' first
    | extract_lets at h
    | (injection h with h; subst h)
    | split at h
    | cases h
    | extract_lets
    | with_reducible assumption
    | split
    | with_reducible apply ringDoorbell_ok

theorem execPushSlotWrite_ok {fn : Fin 513} {q : Fin 64} {off : Nat} {len : Nat} {data : Desc} {s : State} {s1 : State} (h : execPushSlotWrite fn q off len data s = .next s1) (hZ : Ok s) : Ok s1 := by
  exact memOk_after (execPushSlotWrite_same h) rfl hZ

theorem execContextLoad_ok {ctx : Fin 16384} {s : State} {s1 : State} (h : execContextLoad ctx s = .next s1) (hZ : Ok s) : Ok s1 := by
  unfold execContextLoad at h
  repeat' first
    | extract_lets at h
    | (injection h with h; subst h)
    | split at h
    | cases h
    | extract_lets
    | with_reducible assumption
    | split
    | with_reducible refine makeResident_ok ‹_› ?_
    | with_reducible apply wakeQueues_ok
    | dsimp +zetaDelta only

theorem execDescriptorFetchResponse_ok {fn : Fin 513} {q : Fin 64} {count : W32} {desc : Desc} {s : State} {s1 : State} (h : execDescriptorFetchResponse fn q count desc s = .next s1) (hZ : Ok s) : Ok s1 := by
  exact memOk_after (execDescriptorFetchResponse_same h) rfl hZ

theorem execRingFetchError_ok {fn : Fin 513} {q : Fin 64} {s : State} {s1 : State} (h : execRingFetchError fn q s = .next s1) (hZ : Ok s) : Ok s1 := by
  unfold execRingFetchError at h
  repeat' first
    | extract_lets at h
    | (injection h with h; subst h)
    | split at h
    | cases h
    | extract_lets
    | with_reducible assumption
    | split
    | with_reducible apply stopQueue_ok
    | dsimp +zetaDelta only

theorem execCommandAccept_ok {fn : Fin 513} {q : Fin 64} {s : State} {s1 : State} (h : execCommandAccept fn q s = .next s1) (hZ : Ok s) : Ok s1 := by
  unfold execCommandAccept at h
  repeat' first
    | extract_lets at h
    | (injection h with h; subst h)
    | split at h
    | cases h
    | extract_lets
    | with_reducible assumption
    | split
    | with_reducible apply accept_ok

theorem execMigrationCopyDone_ok {ctx : Fin 16384} {va : BitVec 52} {s : State} {s1 : State} (h : execMigrationCopyDone ctx va s = .next s1) (hZ : Ok s) : Ok s1 := by
  unfold execMigrationCopyDone at h
  repeat' first
    | extract_lets at h
    | (injection h with h; subst h)
    | split at h
    | cases h
    | extract_lets
    | with_reducible assumption
    | split
    | with_reducible apply applyVal_ok
    | with_reducible apply runShakes_ok
    | with_reducible apply updCtx_ok
    | with_reducible apply writeBytes_ok
    | with_reducible apply memOk_foldl
    | intro _
    | dsimp +zetaDelta only

theorem execAtsTranslationCompletion_ok {fn : Fin 513} {io : W64} {len : Nat} {ta : BitVec 55} {r : Bool} {w : Bool} {s : State} {s1 : State} (h : execAtsTranslationCompletion fn io len ta r w s = .next s1) (hZ : Ok s) : Ok s1 := by
  unfold execAtsTranslationCompletion at h
  repeat' first
    | extract_lets at h
    | (injection h with h; subst h)
    | split at h
    | cases h
    | extract_lets
    | with_reducible assumption
    | split
    | with_reducible apply applyVal_ok
    | with_reducible apply ringsGoOn_ok
    | with_reducible apply runShakes_ok
    | with_reducible apply memOk_foldl
    | with_reducible apply ok_ats_upd
    | intro _
    | dsimp +zetaDelta only

theorem execReservationAdmit_ok {fn : Fin 513} {q : Fin 64} {s : State} {s1 : State} (h : execReservationAdmit fn q s = .next s1) (hZ : Ok s) : Ok s1 := by
  unfold execReservationAdmit at h
  repeat' first
    | extract_lets at h
    | (injection h with h; subst h)
    | split at h
    | cases h
    | extract_lets
    | with_reducible assumption
    | split
    | with_reducible apply letIn_ok

theorem execCommandDispatch_ok {h : Fin 8} {s : State} {s1 : State} (h : execCommandDispatch h s = .next s1) (hZ : Ok s) : Ok s1 := by
  unfold execCommandDispatch at h
  repeat' first
    | extract_lets at h
    | (injection h with h; subst h)
    | split at h
    | cases h
    | extract_lets
    | with_reducible assumption
    | split
    | with_reducible apply schedule_ok

theorem execEndOfCommandReport_ok {cid : Nat} {gen : W16} {st : Byte} {s : State} {s1 : State} (h : execEndOfCommandReport cid gen st s = .next s1) (hZ : Ok s) : Ok s1 := by
  unfold execEndOfCommandReport at h
  repeat' first
    | extract_lets at h
    | (injection h with h; subst h)
    | split at h
    | cases h
    | extract_lets
    | with_reducible assumption
    | split
    | with_reducible apply report_ok
    | with_reducible apply retime_ok

theorem execCqWriteError_ok {fn : Fin 513} {q : Fin 64} {s : State} {s1 : State} (h : execCqWriteError fn q s = .next s1) (hZ : Ok s) : Ok s1 := by
  unfold execCqWriteError at h
  repeat' first
    | extract_lets at h
    | (injection h with h; subst h)
    | split at h
    | cases h
    | extract_lets
    | with_reducible assumption
    | split
    | with_reducible apply forget_ok
    | with_reducible apply stopQueue_ok
    | with_reducible apply updQueue_ok
    | dsimp +zetaDelta only

theorem execCompletionHeadWrite_ok {fn : Fin 513} {q : Fin 64} {val : W32} {s : State} {s1 : State} (h : execCompletionHeadWrite fn q val s = .next s1) (hZ : Ok s) : Ok s1 := by
  exact memOk_after (execCompletionHeadWrite_same h) rfl hZ

theorem execCompletionInterruptTimeout_ok {fn : Fin 513} {q : Fin 64} {s : State} {s1 : State} (h : execCompletionInterruptTimeout fn q s = .next s1) (hZ : Ok s) : Ok s1 := by
  exact memOk_after (execCompletionInterruptTimeout_same h) rfl hZ

theorem execQAbort_ok {fn : Fin 513} {q : Fin 64} {s : State} {s1 : State} (h : execQAbort fn q s = .next s1) (hZ : Ok s) : Ok s1 := by
  unfold execQAbort at h
  repeat' first
    | extract_lets at h
    | (injection h with h; subst h)
    | split at h
    | cases h
    | extract_lets
    | with_reducible assumption
    | split
    | with_reducible apply abortQueue_ok

theorem execEventQueueEnable_ok {fn : Fin 513} {err : Bool} {cfg : W64} {s : State} {s1 : State} (h : execEventQueueEnable fn err cfg s = .next s1) (hZ : Ok s) : Ok s1 := by
  exact memOk_after (execEventQueueEnable_same h) rfl hZ

theorem execEventQueueDisable_ok {fn : Fin 513} {err : Bool} {cfg : W64} {s : State} {s1 : State} (h : execEventQueueDisable fn err cfg s = .next s1) (hZ : Ok s) : Ok s1 := by
  exact memOk_after (execEventQueueDisable_same h) rfl hZ

theorem execEventQueueHeadWrite_ok {fn : Fin 513} {err : Bool} {val : W32} {s : State} {s1 : State} (h : execEventQueueHeadWrite fn err val s = .next s1) (hZ : Ok s) : Ok s1 := by
  exact memOk_after (execEventQueueHeadWrite_same h) rfl hZ

theorem execRecordWriteError_ok {fn : Fin 513} {err : Bool} {s : State} {s1 : State} (h : execRecordWriteError fn err s = .next s1) (hZ : Ok s) : Ok s1 := by
  unfold execRecordWriteError at h
  repeat' first
    | extract_lets at h
    | (injection h with h; subst h)
    | split at h
    | cases h
    | extract_lets
    | with_reducible assumption
    | split
    | with_reducible apply failRecord_ok

theorem execStagedRecordWrite_ok {d : Dest} {s : State} {s1 : State} (h : execStagedRecordWrite d s = .next s1) (hZ : Ok s) : Ok s1 := by
  unfold execStagedRecordWrite at h
  repeat' first
    | extract_lets at h
    | (injection h with h; subst h)
    | split at h
    | cases h
    | extract_lets
    | with_reducible assumption
    | split
    | with_reducible apply writeStaged_ok

theorem execNop_ok {cid : Nat} {s : State} {s1 : State} (h : execNop cid s = .next s1) (hZ : Ok s) : Ok s1 := by
  unfold execNop at h
  repeat' first
    | extract_lets at h
    | (injection h with h; subst h)
    | split at h
    | cases h
    | extract_lets
    | with_reducible assumption
    | split
    | with_reducible apply complete_ok

theorem execFence_ok {cid : Nat} {s : State} {s1 : State} (h : execFence cid s = .next s1) (hZ : Ok s) : Ok s1 := by
  unfold execFence at h
  repeat' first
    | extract_lets at h
    | (injection h with h; subst h)
    | split at h
    | cases h
    | extract_lets
    | with_reducible assumption
    | split
    | with_reducible apply complete_ok

theorem execSignal_ok {cid : Nat} {s : State} {s1 : State} (h : execSignal cid s = .next s1) (hZ : Ok s) : Ok s1 := by
  unfold execSignal at h
  repeat' first
    | extract_lets at h
    | (injection h with h; subst h)
    | split at h
    | cases h
    | extract_lets
    | with_reducible assumption
    | split
    | with_reducible apply arriveBarrier_ok
    | with_reducible apply askOwn_ok
    | with_reducible apply complete_ok
    | with_reducible apply sendEvent_ok
    | with_reducible apply signalCount_ok
    | with_reducible apply takeOwn_ok
    | with_reducible apply updCmd_ok
    | dsimp +zetaDelta only

theorem execWait_ok {cid : Nat} {s : State} {s1 : State} (h : execWait cid s = .next s1) (hZ : Ok s) : Ok s1 := by
  unfold execWait at h
  repeat' first
    | extract_lets at h
    | (injection h with h; subst h)
    | split at h
    | cases h
    | extract_lets
    | with_reducible assumption
    | split
    | with_reducible apply askOwn_ok
    | with_reducible apply complete_ok
    | with_reducible apply objWrite_ok
    | with_reducible apply sendEvent_ok
    | with_reducible apply takeOwn_ok
    | with_reducible apply updCmd_ok
    | with_reducible apply ok_waiters_upd
    | dsimp +zetaDelta only

theorem execCtxCreate_ok {cid : Nat} {s : State} {s1 : State} (h : execCtxCreate cid s = .next s1) (hZ : Ok s) : Ok s1 := by
  unfold execCtxCreate at h
  repeat' first
    | extract_lets at h
    | (injection h with h; subst h)
    | split at h
    | cases h
    | extract_lets
    | with_reducible assumption
    | split
    | with_reducible apply createCtx_ok

theorem execCtxDestroy_ok {cid : Nat} {s : State} {s1 : State} (h : execCtxDestroy cid s = .next s1) (hZ : Ok s) : Ok s1 := by
  unfold execCtxDestroy at h
  repeat' first
    | extract_lets at h
    | (injection h with h; subst h)
    | split at h
    | cases h
    | extract_lets
    | with_reducible assumption
    | split
    | with_reducible apply complete_ok
    | with_reducible apply destroyCtx_ok
    | with_reducible apply withCtx_ok
    | intro _

theorem execMap_ok {cid : Nat} {s : State} {s1 : State} (h : execMap cid s = .next s1) (hZ : Ok s) : Ok s1 := by
  unfold execMap at h
  repeat' first
    | extract_lets at h
    | (injection h with h; subst h)
    | split at h
    | cases h
    | extract_lets
    | with_reducible assumption
    | split
    | with_reducible apply mapCmd_ok
    | with_reducible apply withCtx_ok
    | intro _

theorem execUnmap_ok {cid : Nat} {s : State} {s1 : State} (h : execUnmap cid s = .next s1) (hZ : Ok s) : Ok s1 := by
  unfold execUnmap at h
  repeat' first
    | extract_lets at h
    | (injection h with h; subst h)
    | split at h
    | cases h
    | extract_lets
    | with_reducible assumption
    | split
    | with_reducible apply addShake_ok
    | with_reducible apply awaitShake_ok
    | with_reducible apply complete_ok
    | with_reducible apply withCtx_ok
    | intro _

theorem execInvalidate_ok {cid : Nat} {s : State} {s1 : State} (h : execInvalidate cid s = .next s1) (hZ : Ok s) : Ok s1 := by
  unfold execInvalidate at h
  repeat' first
    | extract_lets at h
    | (injection h with h; subst h)
    | split at h
    | cases h
    | extract_lets
    | with_reducible assumption
    | split
    | with_reducible apply addShake_ok
    | with_reducible apply awaitShake_ok
    | with_reducible apply complete_ok
    | with_reducible apply withCtx_ok
    | intro _

theorem execAtsInvalidateRequest_ok {fn : Fin 513} {io : W64} {len : Nat} {s : State} {s1 : State} (h : execAtsInvalidateRequest fn io len s = .next s1) (hZ : Ok s) : Ok s1 := by
  unfold execAtsInvalidateRequest at h
  repeat' first
    | extract_lets at h
    | (injection h with h; subst h)
    | split at h
    | cases h
    | extract_lets
    | with_reducible assumption
    | split
    | with_reducible apply dropAts_ok
    | with_reducible apply emit_ok
    | with_reducible apply runShakes_ok
    | with_reducible apply updCtx_ok
    | with_reducible apply memOk_foldl
    | intro _
    | dsimp +zetaDelta only

theorem execInvalidationAck_ok {ctx : Fin 16384} {s : State} {s1 : State} (h : execInvalidationAck ctx s = .next s1) (hZ : Ok s) : Ok s1 := by
  unfold execInvalidationAck at h
  repeat' first
    | extract_lets at h
    | (injection h with h; subst h)
    | split at h
    | cases h
    | extract_lets
    | with_reducible assumption
    | split
    | with_reducible apply runShakes_ok

theorem execQuery_ok {cid : Nat} {s : State} {s1 : State} (h : execQuery cid s = .next s1) (hZ : Ok s) : Ok s1 := by
  unfold execQuery at h
  repeat' first
    | extract_lets at h
    | (injection h with h; subst h)
    | split at h
    | cases h
    | extract_lets
    | with_reducible assumption
    | split
    | with_reducible apply endWrites_ok
    | with_reducible apply withCtx_ok
    | with_reducible apply writeResult_ok
    | intro _

theorem execCopy_ok {cid : Nat} {s : State} {s1 : State} (h : execCopy cid s = .next s1) (hZ : Ok s) : Ok s1 := by
  exact memOk_after (execCopy_same h) rfl hZ

theorem execFill_ok {cid : Nat} {s : State} {s1 : State} (h : execFill cid s = .next s1) (hZ : Ok s) : Ok s1 := by
  exact memOk_after (execFill_same h) rfl hZ

theorem execKernel_ok {cid : Nat} {s : State} {s1 : State} (h : execKernel cid s = .next s1) (hZ : Ok s) : Ok s1 := by
  exact memOk_after (execKernel_same h) rfl hZ

theorem execAcre_ok {cid : Nat} {s : State} {s1 : State} (h : execAcre cid s = .next s1) (hZ : Ok s) : Ok s1 := by
  exact memOk_after (execAcre_same h) rfl hZ

theorem execForeign_ok {cid : Nat} {s : State} {s1 : State} (h : execForeign cid s = .next s1) (hZ : Ok s) : Ok s1 := by
  unfold execForeign at h
  repeat' first
    | extract_lets at h
    | (injection h with h; subst h)
    | split at h
    | cases h
    | extract_lets
    | with_reducible assumption
    | split
    | with_reducible apply complete_ok
    | with_reducible apply emit_ok
    | with_reducible apply updCmd_ok
    | with_reducible apply updEngine_ok
    | with_reducible apply updHide_ok
    | dsimp +zetaDelta only

theorem execPlanLoad_ok {cid : Nat} {s : State} {s1 : State} (h : execPlanLoad cid s = .next s1) (hZ : Ok s) : Ok s1 := by
  unfold execPlanLoad at h
  repeat' first
    | extract_lets at h
    | (injection h with h; subst h)
    | split at h
    | cases h
    | extract_lets
    | with_reducible assumption
    | split
    | with_reducible apply loadPlan_ok

theorem execSeqOpen_ok {cid : Nat} {s : State} {s1 : State} (h : execSeqOpen cid s = .next s1) (hZ : Ok s) : Ok s1 := by
  unfold execSeqOpen at h
  repeat' first
    | extract_lets at h
    | (injection h with h; subst h)
    | split at h
    | cases h
    | extract_lets
    | with_reducible assumption
    | split
    | with_reducible apply openSeq_ok

theorem execSeqStep_ok {cid : Nat} {s : State} {s1 : State} (h : execSeqStep cid s = .next s1) (hZ : Ok s) : Ok s1 := by
  unfold execSeqStep at h
  repeat' first
    | extract_lets at h
    | (injection h with h; subst h)
    | split at h
    | cases h
    | extract_lets
    | with_reducible assumption
    | split
    | with_reducible apply startStep_ok

theorem execSeqClose_ok {cid : Nat} {s : State} {s1 : State} (h : execSeqClose cid s = .next s1) (hZ : Ok s) : Ok s1 := by
  unfold execSeqClose at h
  repeat' first
    | extract_lets at h
    | (injection h with h; subst h)
    | split at h
    | cases h
    | extract_lets
    | with_reducible assumption
    | split
    | with_reducible apply closeCmd_ok

theorem execSeqAdmit_ok {s : State} {s1 : State} (h : execSeqAdmit s = .next s1) (hZ : Ok s) : Ok s1 := by
  unfold execSeqAdmit at h
  repeat' first
    | extract_lets at h
    | (injection h with h; subst h)
    | split at h
    | cases h
    | extract_lets
    | with_reducible assumption
    | split
    | with_reducible apply admitPend_ok

theorem execStepBuild_ok {plan : Fin 256} {s : State} {s1 : State} (h : execStepBuild plan s = .next s1) (hZ : Ok s) : Ok s1 := by
  unfold execStepBuild at h
  repeat' first
    | extract_lets at h
    | (injection h with h; subst h)
    | split at h
    | cases h
    | extract_lets
    | with_reducible assumption
    | split
    | with_reducible apply stepBuild_ok

theorem execStageIssue_ok {plan : Fin 256} {s : State} {s1 : State} (h : execStageIssue plan s = .next s1) (hZ : Ok s) : Ok s1 := by
  exact memOk_after (execStageIssue_same h) rfl hZ

theorem execServingReserveStaging_ok {plan : Fin 256} {s : State} {s1 : State} (h : execServingReserveStaging plan s = .next s1) (hZ : Ok s) : Ok s1 := by
  exact memOk_after (execServingReserveStaging_same h) rfl hZ

theorem execStepCommit_ok {plan : Fin 256} {s : State} {s1 : State} (h : execStepCommit plan s = .next s1) (hZ : Ok s) : Ok s1 := by
  unfold execStepCommit at h
  repeat' first
    | extract_lets at h
    | (injection h with h; subst h)
    | split at h
    | cases h
    | extract_lets
    | with_reducible assumption
    | split
    | with_reducible apply commitStep_ok

theorem execAcreOperationStart_ok {h : Fin 8} {s : State} {s1 : State} (h : execAcreOperationStart h s = .next s1) (hZ : Ok s) : Ok s1 := by
  unfold execAcreOperationStart at h
  repeat' first
    | extract_lets at h
    | (injection h with h; subst h)
    | split at h
    | cases h
    | extract_lets
    | with_reducible assumption
    | split
    | with_reducible apply startAcre_ok
    | with_reducible apply wakeFurlong_ok
    | with_reducible apply memOk_foldl
    | intro _

theorem execAcreStepAbandon_ok {h : Fin 8} {s : State} {s1 : State} (h : execAcreStepAbandon h s = .next s1) (hZ : Ok s) : Ok s1 := by
  exact memOk_after (execAcreStepAbandon_same h) rfl hZ

theorem execAcreResume_ok {h : Fin 8} {s : State} {s1 : State} (h : execAcreResume h s = .next s1) (hZ : Ok s) : Ok s1 := by
  exact memOk_after (execAcreResume_same h) rfl hZ

theorem execAcreBBlockLoaded_ok {h : Fin 8} {s : State} {s1 : State} (h : execAcreBBlockLoaded h s = .next s1) (hZ : Ok s) : Ok s1 := by
  unfold execAcreBBlockLoaded at h
  repeat' first
    | extract_lets at h
    | (injection h with h; subst h)
    | split at h
    | cases h
    | extract_lets
    | with_reducible assumption
    | split
    | with_reducible apply acreFed_ok
    | with_reducible apply loadIdle_ok
    | with_reducible apply onStep_ok
    | with_reducible apply putAcre_ok
    | with_reducible apply updAcre_ok
    | intro _

theorem execAcreSliceEnd_ok {h : Fin 8} {bad : List (Fin 16 × Fin 16)} {s : State} {s1 : State} (h : execAcreSliceEnd h bad s = .next s1) (hZ : Ok s) : Ok s1 := by
  unfold execAcreSliceEnd at h
  repeat' first
    | extract_lets at h
    | (injection h with h; subst h)
    | split at h
    | cases h
    | extract_lets
    | with_reducible assumption
    | split
    | with_reducible apply endSlice_ok
    | with_reducible apply onStep_ok
    | intro _

theorem execAcreReadoutStep_ok {h : Fin 8} {s : State} {s1 : State} (h : execAcreReadoutStep h s = .next s1) (hZ : Ok s) : Ok s1 := by
  unfold execAcreReadoutStep at h
  repeat' first
    | extract_lets at h
    | (injection h with h; subst h)
    | split at h
    | cases h
    | extract_lets
    | with_reducible assumption
    | split
    | with_reducible apply onStep_ok
    | with_reducible apply stepAcre_ok
    | intro _

theorem execAcreStoreStep_ok {h : Fin 8} {s : State} {s1 : State} (h : execAcreStoreStep h s = .next s1) (hZ : Ok s) : Ok s1 := by
  unfold execAcreStoreStep at h
  repeat' first
    | extract_lets at h
    | (injection h with h; subst h)
    | split at h
    | cases h
    | extract_lets
    | with_reducible assumption
    | split
    | with_reducible apply onStep_ok
    | with_reducible apply storeStep_ok
    | intro _

theorem execAcreOperationEnd_ok {h : Fin 8} {s : State} {s1 : State} (h : execAcreOperationEnd h s = .next s1) (hZ : Ok s) : Ok s1 := by
  unfold execAcreOperationEnd at h
  repeat' first
    | extract_lets at h
    | (injection h with h; subst h)
    | split at h
    | cases h
    | extract_lets
    | with_reducible assumption
    | split
    | with_reducible apply endAcre_ok
    | with_reducible apply onStep_ok
    | intro _

theorem execCoreErr_ok {core : Fin 276} {s : State} {s1 : State} (h : execCoreErr core s = .next s1) (hZ : Ok s) : Ok s1 := by
  unfold execCoreErr at h
  repeat' first
    | extract_lets at h
    | (injection h with h; subst h)
    | split at h
    | cases h
    | extract_lets
    | with_reducible assumption
    | split
    | with_reducible apply failOnCore_ok
    | with_reducible apply latchIn_ok
    | with_reducible apply restartFirmware_ok
    | with_reducible apply startReset_ok
    | with_reducible apply updCore_ok
    | dsimp +zetaDelta only

theorem execGroupPlacement_ok {cid : Nat} {core : Fin 272} {s : State} {s1 : State} (h : execGroupPlacement cid core s = .next s1) (hZ : Ok s) : Ok s1 := by
  unfold execGroupPlacement at h
  repeat' first
    | extract_lets at h
    | (injection h with h; subst h)
    | split at h
    | cases h
    | extract_lets
    | with_reducible assumption
    | split
    | with_reducible apply tryPlace_ok

theorem execGroupSaveComplete_ok {cid : Nat} {g : Nat} {s : State} {s1 : State} (h : execGroupSaveComplete cid g s = .next s1) (hZ : Ok s) : Ok s1 := by
  unfold execGroupSaveComplete at h
  repeat' first
    | extract_lets at h
    | (injection h with h; subst h)
    | split at h
    | cases h
    | extract_lets
    | with_reducible assumption
    | split
    | with_reducible apply finishSave_ok

theorem execGroupResume_ok {cid : Nat} {g : Nat} {core : Fin 272} {s : State} {s1 : State} (h : execGroupResume cid g core s = .next s1) (hZ : Ok s) : Ok s1 := by
  unfold execGroupResume at h
  repeat' first
    | extract_lets at h
    | (injection h with h; subst h)
    | split at h
    | cases h
    | extract_lets
    | with_reducible assumption
    | split
    | with_reducible apply tryResume_ok

theorem execIaddIsub_ok {r : ChainRef} {sub : Bool} {i : V3} {s : State} {s1 : State} (h : execIaddIsub r sub i s = .next s1) (hZ : Ok s) : Ok s1 := by
  unfold execIaddIsub at h
  repeat' first
    | extract_lets at h
    | (injection h with h; subst h)
    | split at h
    | cases h
    | extract_lets
    | with_reducible assumption
    | split
    | with_reducible apply v3_ok

theorem execImulImulh_ok {r : ChainRef} {high : Bool} {i : V3} {s : State} {s1 : State} (h : execImulImulh r high i s = .next s1) (hZ : Ok s) : Ok s1 := by
  unfold execImulImulh at h
  repeat' first
    | extract_lets at h
    | (injection h with h; subst h)
    | split at h
    | cases h
    | extract_lets
    | with_reducible assumption
    | split
    | with_reducible apply v3_ok

theorem execImad_ok {r : ChainRef} {i : V3} {s : State} {s1 : State} (h : execImad r i s = .next s1) (hZ : Ok s) : Ok s1 := by
  unfold execImad at h
  repeat' first
    | extract_lets at h
    | (injection h with h; subst h)
    | split at h
    | cases h
    | extract_lets
    | with_reducible assumption
    | split
    | with_reducible apply v3_ok

theorem execIminImax_ok {r : ChainRef} {max : Bool} {i : V3} {s : State} {s1 : State} (h : execIminImax r max i s = .next s1) (hZ : Ok s) : Ok s1 := by
  unfold execIminImax at h
  repeat' first
    | extract_lets at h
    | (injection h with h; subst h)
    | split at h
    | cases h
    | extract_lets
    | with_reducible assumption
    | split
    | with_reducible apply v3_ok

theorem execMov_ok {r : ChainRef} {i : V3} {s : State} {s1 : State} (h : execMov r i s = .next s1) (hZ : Ok s) : Ok s1 := by
  unfold execMov at h
  repeat' first
    | extract_lets at h
    | (injection h with h; subst h)
    | split at h
    | cases h
    | extract_lets
    | with_reducible assumption
    | split
    | with_reducible apply vlane_ok

theorem execAndOrXorAndn_ok {r : ChainRef} {op : BitOp} {i : V3} {s : State} {s1 : State} (h : execAndOrXorAndn r op i s = .next s1) (hZ : Ok s) : Ok s1 := by
  unfold execAndOrXorAndn at h
  repeat' first
    | extract_lets at h
    | (injection h with h; subst h)
    | split at h
    | cases h
    | extract_lets
    | with_reducible assumption
    | split
    | with_reducible apply v3_ok

theorem execShlShrSar_ok {r : ChainRef} {op : ShOp} {i : V3} {s : State} {s1 : State} (h : execShlShrSar r op i s = .next s1) (hZ : Ok s) : Ok s1 := by
  unfold execShlShrSar at h
  repeat' first
    | extract_lets at h
    | (injection h with h; subst h)
    | split at h
    | cases h
    | extract_lets
    | with_reducible assumption
    | split
    | with_reducible apply v3_ok

theorem execPopcClzBrev_ok {r : ChainRef} {op : CntOp} {i : V3} {s : State} {s1 : State} (h : execPopcClzBrev r op i s = .next s1) (hZ : Ok s) : Ok s1 := by
  unfold execPopcClzBrev at h
  repeat' first
    | extract_lets at h
    | (injection h with h; subst h)
    | split at h
    | cases h
    | extract_lets
    | with_reducible assumption
    | split
    | with_reducible apply vlane_ok

theorem execBfeBfi_ok {r : ChainRef} {insert : Bool} {i : V3} {s : State} {s1 : State} (h : execBfeBfi r insert i s = .next s1) (hZ : Ok s) : Ok s1 := by
  unfold execBfeBfi at h
  repeat' first
    | extract_lets at h
    | (injection h with h; subst h)
    | split at h
    | cases h
    | extract_lets
    | with_reducible assumption
    | split
    | with_reducible apply v3_ok

theorem execFaddFmulFfma_ok {r : ChainRef} {op : FOp} {i : V3} {s : State} {s1 : State} (h : execFaddFmulFfma r op i s = .next s1) (hZ : Ok s) : Ok s1 := by
  unfold execFaddFmulFfma at h
  repeat' first
    | extract_lets at h
    | (injection h with h; subst h)
    | split at h
    | cases h
    | extract_lets
    | with_reducible assumption
    | split
    | with_reducible apply v3_ok

theorem execFminFmax_ok {r : ChainRef} {max : Bool} {i : V3} {s : State} {s1 : State} (h : execFminFmax r max i s = .next s1) (hZ : Ok s) : Ok s1 := by
  unfold execFminFmax at h
  repeat' first
    | extract_lets at h
    | (injection h with h; subst h)
    | split at h
    | cases h
    | extract_lets
    | with_reducible assumption
    | split
    | with_reducible apply v3_ok

theorem execSpecialFunction_ok {r : ChainRef} {op : SpecFn} {i : V3} {s : State} {s1 : State} (h : execSpecialFunction r op i s = .next s1) (hZ : Ok s) : Ok s1 := by
  unfold execSpecialFunction at h
  repeat' first
    | extract_lets at h
    | (injection h with h; subst h)
    | split at h
    | cases h
    | extract_lets
    | with_reducible assumption
    | split
    | with_reducible apply vlane_ok

theorem execCmp_ok {r : ChainRef} {i : V3} {s : State} {s1 : State} (h : execCmp r i s = .next s1) (hZ : Ok s) : Ok s1 := by
  unfold execCmp at h
  repeat' first
    | extract_lets at h
    | (injection h with h; subst h)
    | split at h
    | cases h
    | extract_lets
    | with_reducible assumption
    | split
    | with_reducible apply vector_ok
    | dsimp +zetaDelta only

theorem execSel_ok {r : ChainRef} {i : V3} {s : State} {s1 : State} (h : execSel r i s = .next s1) (hZ : Ok s) : Ok s1 := by
  unfold execSel at h
  repeat' first
    | extract_lets at h
    | (injection h with h; subst h)
    | split at h
    | cases h
    | extract_lets
    | with_reducible assumption
    | split
    | with_reducible apply vlane_ok

theorem execCvt_ok {r : ChainRef} {i : V3} {s : State} {s1 : State} (h : execCvt r i s = .next s1) (hZ : Ok s) : Ok s1 := by
  unfold execCvt at h
  repeat' first
    | extract_lets at h
    | (injection h with h; subst h)
    | split at h
    | cases h
    | extract_lets
    | with_reducible assumption
    | split
    | with_reducible apply vlane_ok

theorem execOscl_ok {r : ChainRef} {i : V3} {s : State} {s1 : State} (h : execOscl r i s = .next s1) (hZ : Ok s) : Ok s1 := by
  unfold execOscl at h
  repeat' first
    | extract_lets at h
    | (injection h with h; subst h)
    | split at h
    | cases h
    | extract_lets
    | with_reducible assumption
    | split
    | with_reducible apply vlane_ok

theorem execQnt_ok {r : ChainRef} {fmt : Fin 12} {i : V3} {s : State} {s1 : State} (h : execQnt r fmt i s = .next s1) (hZ : Ok s) : Ok s1 := by
  unfold execQnt at h
  repeat' first
    | extract_lets at h
    | (injection h with h; subst h)
    | split at h
    | cases h
    | extract_lets
    | with_reducible assumption
    | split
    | with_reducible apply vlane_ok

theorem execDq_ok {r : ChainRef} {fmt : Fin 12} {i : V3} {s : State} {s1 : State} (h : execDq r fmt i s = .next s1) (hZ : Ok s) : Ok s1 := by
  unfold execDq at h
  repeat' first
    | extract_lets at h
    | (injection h with h; subst h)
    | split at h
    | cases h
    | extract_lets
    | with_reducible assumption
    | split
    | with_reducible apply vlane_ok

theorem execShfl_ok {r : ChainRef} {i : V3} {s : State} {s1 : State} (h : execShfl r i s = .next s1) (hZ : Ok s) : Ok s1 := by
  unfold execShfl at h
  repeat' first
    | extract_lets at h
    | (injection h with h; subst h)
    | split at h
    | cases h
    | extract_lets
    | with_reducible assumption
    | split
    | with_reducible apply vlane_ok

theorem execVote_ok {r : ChainRef} {i : V3} {s : State} {s1 : State} (h : execVote r i s = .next s1) (hZ : Ok s) : Ok s1 := by
  unfold execVote at h
  repeat' first
    | extract_lets at h
    | (injection h with h; subst h)
    | split at h
    | cases h
    | extract_lets
    | with_reducible assumption
    | split
    | with_reducible apply vector_ok

theorem execRedu_ok {r : ChainRef} {i : V3} {s : State} {s1 : State} (h : execRedu r i s = .next s1) (hZ : Ok s) : Ok s1 := by
  unfold execRedu at h
  repeat' first
    | extract_lets at h
    | (injection h with h; subst h)
    | split at h
    | cases h
    | extract_lets
    | with_reducible assumption
    | split
    | with_reducible apply vector_ok

theorem execRdln_ok {r : ChainRef} {i : V3} {s : State} {s1 : State} (h : execRdln r i s = .next s1) (hZ : Ok s) : Ok s1 := by
  unfold execRdln at h
  repeat' first
    | extract_lets at h
    | (injection h with h; subst h)
    | split at h
    | cases h
    | extract_lets
    | with_reducible assumption
    | split
    | with_reducible apply vector_ok

theorem execViImmediate_ok {r : ChainRef} {op : ViOp} {i : VI} {s : State} {s1 : State} (h : execViImmediate r op i s = .next s1) (hZ : Ok s) : Ok s1 := by
  unfold execViImmediate at h
  repeat' first
    | extract_lets at h
    | (injection h with h; subst h)
    | split at h
    | cases h
    | extract_lets
    | with_reducible assumption
    | split
    | with_reducible apply vector_ok

theorem execLdg_ok {r : ChainRef} {i : MemI} {s : State} {s1 : State} (h : execLdg r i s = .next s1) (hZ : Ok s) : Ok s1 := by
  unfold execLdg at h
  repeat' first
    | extract_lets at h
    | (injection h with h; subst h)
    | split at h
    | cases h
    | extract_lets
    | with_reducible assumption
    | split
    | with_reducible apply memory_ok
    | with_reducible apply startLoad_ok
    | with_reducible exact trivial
    | with_reducible apply Act.safe_exc
    | intro _
    | dsimp +zetaDelta only

theorem execStg_ok {r : ChainRef} {i : MemI} {s : State} {s1 : State} (h : execStg r i s = .next s1) (hZ : Ok s) : Ok s1 := by
  unfold execStg at h
  repeat' first
    | extract_lets at h
    | (injection h with h; subst h)
    | split at h
    | cases h
    | extract_lets
    | with_reducible assumption
    | split
    | with_reducible apply memory_ok
    | with_reducible apply pushEntries_ok
    | with_reducible exact trivial
    | with_reducible apply Act.safe_with
    | with_reducible apply Act.safe_exc
    | with_reducible apply Act.safe_wait
    | intro _
    | dsimp +zetaDelta only

theorem execLdl_ok {r : ChainRef} {i : MemI} {s : State} {s1 : State} (h : execLdl r i s = .next s1) (hZ : Ok s) : Ok s1 := by
  unfold execLdl at h
  repeat' first
    | extract_lets at h
    | (injection h with h; subst h)
    | split at h
    | cases h
    | extract_lets
    | with_reducible assumption
    | split
    | with_reducible apply local_ok
    | with_reducible exact trivial
    | with_reducible apply Act.safe_done
    | intro _

theorem execStl_ok {r : ChainRef} {i : MemI} {s : State} {s1 : State} (h : execStl r i s = .next s1) (hZ : Ok s) : Ok s1 := by
  unfold execStl at h
  repeat' first
    | extract_lets at h
    | (injection h with h; subst h)
    | split at h
    | cases h
    | extract_lets
    | with_reducible assumption
    | split
    | with_reducible apply local_ok
    | with_reducible apply lsStore_ok
    | with_reducible apply memOk_foldl
    | with_reducible exact trivial
    | with_reducible apply Act.safe_with
    | intro _

theorem execLdu_ok {r : ChainRef} {i : MemI} {s : State} {s1 : State} (h : execLdu r i s = .next s1) (hZ : Ok s) : Ok s1 := by
  unfold execLdu at h
  repeat' first
    | extract_lets at h
    | (injection h with h; subst h)
    | split at h
    | cases h
    | extract_lets
    | with_reducible assumption
    | split
    | with_reducible apply memory_ok
    | with_reducible apply startLoad_ok
    | with_reducible exact trivial
    | with_reducible apply Act.safe_exc
    | intro _
    | dsimp +zetaDelta only

theorem execAtomg_ok {r : ChainRef} {op : AtomOp} {i : MemI} {s : State} {s1 : State} (h : execAtomg r op i s = .next s1) (hZ : Ok s) : Ok s1 := by
  unfold execAtomg at h
  repeat' first
    | extract_lets at h
    | (injection h with h; subst h)
    | split at h
    | cases h
    | extract_lets
    | with_reducible assumption
    | split
    | with_reducible apply memory_ok
    | with_reducible apply pushEntries_ok
    | with_reducible apply memOk_foldl
    | with_reducible exact trivial
    | with_reducible apply Act.safe_with
    | with_reducible apply Act.safe_exc
    | with_reducible apply Act.safe_wait
    | intro _
    | dsimp +zetaDelta only

theorem execAtoml_ok {r : ChainRef} {op : AtomOp} {i : MemI} {s : State} {s1 : State} (h : execAtoml r op i s = .next s1) (hZ : Ok s) : Ok s1 := by
  unfold execAtoml at h
  repeat' first
    | extract_lets at h
    | (injection h with h; subst h)
    | split at h
    | cases h
    | extract_lets
    | with_reducible assumption
    | split
    | with_reducible apply local_ok
    | with_reducible apply localAtom_ok
    | with_reducible apply memOk_foldl
    | with_reducible exact trivial
    | with_reducible apply Act.safe_with
    | intro _

theorem execPref_ok {r : ChainRef} {i : MemI} {s : State} {s1 : State} (h : execPref r i s = .next s1) (hZ : Ok s) : Ok s1 := by
  unfold execPref at h
  repeat' first
    | extract_lets at h
    | (injection h with h; subst h)
    | split at h
    | cases h
    | extract_lets
    | with_reducible assumption
    | split
    | with_reducible apply addLoad_ok
    | with_reducible apply memory_ok
    | with_reducible exact trivial
    | with_reducible apply Act.safe_done
    | with_reducible apply Act.safe_exc
    | with_reducible apply Act.safe_wait
    | intro _
    | dsimp +zetaDelta only

theorem execBra_ok {r : ChainRef} {i : BrI} {s : State} {s1 : State} (h : execBra r i s = .next s1) (hZ : Ok s) : Ok s1 := by
  unfold execBra at h
  repeat' first
    | extract_lets at h
    | (injection h with h; subst h)
    | split at h
    | cases h
    | extract_lets
    | with_reducible assumption
    | split
    | with_reducible apply whole_ok
    | with_reducible exact trivial
    | with_reducible apply Act.safe_done
    | intro _

theorem execBraD_ok {r : ChainRef} {i : BrI} {s : State} {s1 : State} (h : execBraD r i s = .next s1) (hZ : Ok s) : Ok s1 := by
  unfold execBraD at h
  repeat' first
    | extract_lets at h
    | (injection h with h; subst h)
    | split at h
    | cases h
    | extract_lets
    | with_reducible assumption
    | split
    | with_reducible apply issue_ok
    | with_reducible exact trivial
    | with_reducible apply Act.safe_done
    | with_reducible apply Act.safe_exc
    | intro _

theorem execJoin_ok {r : ChainRef} {i : BrI} {s : State} {s1 : State} (h : execJoin r i s = .next s1) (hZ : Ok s) : Ok s1 := by
  unfold execJoin at h
  repeat' first
    | extract_lets at h
    | (injection h with h; subst h)
    | split at h
    | cases h
    | extract_lets
    | with_reducible assumption
    | split
    | with_reducible apply whole_ok
    | with_reducible exact trivial
    | with_reducible apply Act.safe_done
    | with_reducible apply Act.safe_exc
    | intro _

theorem execCall_ok {r : ChainRef} {i : BrI} {s : State} {s1 : State} (h : execCall r i s = .next s1) (hZ : Ok s) : Ok s1 := by
  unfold execCall at h
  repeat' first
    | extract_lets at h
    | (injection h with h; subst h)
    | split at h
    | cases h
    | extract_lets
    | with_reducible assumption
    | split
    | with_reducible apply whole_ok
    | with_reducible exact trivial
    | with_reducible apply Act.safe_done
    | with_reducible apply Act.safe_exc
    | intro _

theorem execRet_ok {r : ChainRef} {i : BrI} {s : State} {s1 : State} (h : execRet r i s = .next s1) (hZ : Ok s) : Ok s1 := by
  unfold execRet at h
  repeat' first
    | extract_lets at h
    | (injection h with h; subst h)
    | split at h
    | cases h
    | extract_lets
    | with_reducible assumption
    | split
    | with_reducible apply whole_ok
    | with_reducible exact trivial
    | with_reducible apply Act.safe_done
    | with_reducible apply Act.safe_exc
    | intro _

theorem execExit_ok {r : ChainRef} {i : BrI} {s : State} {s1 : State} (h : execExit r i s = .next s1) (hZ : Ok s) : Ok s1 := by
  unfold execExit at h
  repeat' first
    | extract_lets at h
    | (injection h with h; subst h)
    | split at h
    | cases h
    | extract_lets
    | with_reducible assumption
    | split
    | with_reducible apply exitAct_ok
    | with_reducible apply issue_ok
    | with_reducible exact trivial
    | intro _

theorem execUArithmetic_ok {r : ChainRef} {op : UOp} {i : UI} {s : State} {s1 : State} (h : execUArithmetic r op i s = .next s1) (hZ : Ok s) : Ok s1 := by
  unfold execUArithmetic at h
  repeat' first
    | extract_lets at h
    | (injection h with h; subst h)
    | split at h
    | cases h
    | extract_lets
    | with_reducible assumption
    | split
    | with_reducible apply whole_ok
    | with_reducible exact trivial
    | with_reducible apply Act.safe_done
    | intro _

theorem execUcmp_ok {r : ChainRef} {i : UI} {s : State} {s1 : State} (h : execUcmp r i s = .next s1) (hZ : Ok s) : Ok s1 := by
  unfold execUcmp at h
  repeat' first
    | extract_lets at h
    | (injection h with h; subst h)
    | split at h
    | cases h
    | extract_lets
    | with_reducible assumption
    | split
    | with_reducible apply whole_ok
    | with_reducible exact trivial
    | with_reducible apply Act.safe_done
    | intro _

theorem execMld_ok {r : ChainRef} {i : MxI} {s : State} {s1 : State} (h : execMld r i s = .next s1) (hZ : Ok s) : Ok s1 := by
  unfold execMld at h
  repeat' first
    | extract_lets at h
    | (injection h with h; subst h)
    | split at h
    | cases h
    | extract_lets
    | with_reducible assumption
    | split
    | with_reducible apply mx_ok
    | with_reducible apply updUnit_ok
    | intro _
    | dsimp +zetaDelta only

theorem execMmul_ok {r : ChainRef} {i : MxI} {bad : Fin 3} {s : State} {s1 : State} (h : execMmul r i bad s = .next s1) (hZ : Ok s) : Ok s1 := by
  unfold execMmul at h
  repeat' first
    | extract_lets at h
    | (injection h with h; subst h)
    | split at h
    | cases h
    | extract_lets
    | with_reducible assumption
    | split
    | with_reducible apply mx_ok
    | with_reducible apply updUnit_ok
    | intro _
    | dsimp +zetaDelta only

theorem execMrd_ok {r : ChainRef} {i : MxI} {s : State} {s1 : State} (h : execMrd r i s = .next s1) (hZ : Ok s) : Ok s1 := by
  unfold execMrd at h
  repeat' first
    | extract_lets at h
    | (injection h with h; subst h)
    | split at h
    | cases h
    | extract_lets
    | with_reducible assumption
    | split
    | with_reducible apply lsStore_ok
    | with_reducible apply mx_ok
    | with_reducible apply updUnit_ok
    | intro _
    | dsimp +zetaDelta only

theorem execMclr_ok {r : ChainRef} {i : MxI} {s : State} {s1 : State} (h : execMclr r i s = .next s1) (hZ : Ok s) : Ok s1 := by
  unfold execMclr at h
  repeat' first
    | extract_lets at h
    | (injection h with h; subst h)
    | split at h
    | cases h
    | extract_lets
    | with_reducible assumption
    | split
    | with_reducible apply mx_ok
    | with_reducible apply updUnit_ok
    | intro _

theorem execMrel_ok {r : ChainRef} {i : MxI} {s : State} {s1 : State} (h : execMrel r i s = .next s1) (hZ : Ok s) : Ok s1 := by
  unfold execMrel at h
  repeat' first
    | extract_lets at h
    | (injection h with h; subst h)
    | split at h
    | cases h
    | extract_lets
    | with_reducible assumption
    | split
    | with_reducible apply mx_ok
    | with_reducible apply releaseUnit_ok
    | intro _

theorem execNopInstruction_ok {r : ChainRef} {i : SysI} {s : State} {s1 : State} (h : execNopInstruction r i s = .next s1) (hZ : Ok s) : Ok s1 := by
  unfold execNopInstruction at h
  repeat' first
    | extract_lets at h
    | (injection h with h; subst h)
    | split at h
    | cases h
    | extract_lets
    | with_reducible assumption
    | split
    | with_reducible apply whole_ok
    | with_reducible exact trivial
    | with_reducible apply Act.safe_done
    | intro _

theorem execS2vS2u_ok {r : ChainRef} {uni : Bool} {i : SysI} {s : State} {s1 : State} (h : execS2vS2u r uni i s = .next s1) (hZ : Ok s) : Ok s1 := by
  unfold execS2vS2u at h
  repeat' first
    | extract_lets at h
    | (injection h with h; subst h)
    | split at h
    | cases h
    | extract_lets
    | with_reducible assumption
    | split
    | with_reducible apply freshNext_ok
    | with_reducible apply whole_ok
    | with_reducible exact trivial
    | with_reducible apply Act.safe_asks
    | with_reducible apply Act.safe_exc
    | intro _
    | dsimp +zetaDelta only

theorem execU2s_ok {r : ChainRef} {i : SysI} {s : State} {s1 : State} (h : execU2s r i s = .next s1) (hZ : Ok s) : Ok s1 := by
  unfold execU2s at h
  repeat' first
    | extract_lets at h
    | (injection h with h; subst h)
    | split at h
    | cases h
    | extract_lets
    | with_reducible assumption
    | split
    | with_reducible apply setMxSreg_ok
    | with_reducible apply whole_ok
    | with_reducible exact trivial
    | with_reducible apply Act.safe_done
    | with_reducible apply Act.safe_with
    | intro _
    | dsimp +zetaDelta only

theorem execFenceInstruction_ok {r : ChainRef} {i : SysI} {s : State} {s1 : State} (h : execFenceInstruction r i s = .next s1) (hZ : Ok s) : Ok s1 := by
  unfold execFenceInstruction at h
  repeat' first
    | extract_lets at h
    | (injection h with h; subst h)
    | split at h
    | cases h
    | extract_lets
    | with_reducible assumption
    | split
    | with_reducible apply fenceAct_ok
    | with_reducible apply whole_ok
    | with_reducible exact trivial
    | with_reducible apply Act.safe_exc
    | intro _
    | dsimp +zetaDelta only

theorem execFenceComplete_ok {r : ChainRef} {s : State} {s1 : State} (h : execFenceComplete r s = .next s1) (hZ : Ok s) : Ok s1 := by
  exact memOk_after (execFenceComplete_same h) rfl hZ

theorem execFenceIo_ok {r : ChainRef} {i : SysI} {s : State} {s1 : State} (h : execFenceIo r i s = .next s1) (hZ : Ok s) : Ok s1 := by
  unfold execFenceIo at h
  repeat' first
    | extract_lets at h
    | (injection h with h; subst h)
    | split at h
    | cases h
    | extract_lets
    | with_reducible assumption
    | split
    | with_reducible apply fenceAct_ok
    | with_reducible apply whole_ok
    | with_reducible exact trivial
    | intro _

theorem execBar_ok {r : ChainRef} {i : SysI} {s : State} {s1 : State} (h : execBar r i s = .next s1) (hZ : Ok s) : Ok s1 := by
  unfold execBar at h
  repeat' first
    | extract_lets at h
    | (injection h with h; subst h)
    | split at h
    | cases h
    | extract_lets
    | with_reducible assumption
    | split
    | with_reducible apply arriveBar_ok
    | with_reducible apply whole_ok
    | with_reducible exact trivial
    | with_reducible apply Act.safe_with
    | with_reducible apply Act.safe_wait
    | intro _

theorem execEvwait_ok {r : ChainRef} {i : SysI} {s : State} {s1 : State} (h : execEvwait r i s = .next s1) (hZ : Ok s) : Ok s1 := by
  unfold execEvwait at h
  repeat' first
    | extract_lets at h
    | (injection h with h; subst h)
    | split at h
    | cases h
    | extract_lets
    | with_reducible assumption
    | split
    | with_reducible apply askOwn_ok
    | with_reducible apply waitObj_ok
    | with_reducible apply whole_ok
    | with_reducible exact trivial
    | with_reducible apply Act.safe_with
    | with_reducible apply Act.safe_exc
    | with_reducible apply Act.safe_request
    | with_reducible apply Act.safe_wait
    | intro _
    | dsimp +zetaDelta only

theorem execEvsig_ok {r : ChainRef} {i : SysI} {s : State} {s1 : State} (h : execEvsig r i s = .next s1) (hZ : Ok s) : Ok s1 := by
  unfold execEvsig at h
  repeat' first
    | extract_lets at h
    | (injection h with h; subst h)
    | split at h
    | cases h
    | extract_lets
    | with_reducible assumption
    | split
    | with_reducible apply askOwn_ok
    | with_reducible apply signalObj_ok
    | with_reducible apply whole_ok
    | with_reducible exact trivial
    | with_reducible apply Act.safe_with
    | with_reducible apply Act.safe_exc
    | with_reducible apply Act.safe_request
    | with_reducible apply Act.safe_wait
    | intro _
    | dsimp +zetaDelta only

theorem execSleep_ok {r : ChainRef} {i : SysI} {s : State} {s1 : State} (h : execSleep r i s = .next s1) (hZ : Ok s) : Ok s1 := by
  unfold execSleep at h
  repeat' first
    | extract_lets at h
    | (injection h with h; subst h)
    | split at h
    | cases h
    | extract_lets
    | with_reducible assumption
    | split
    | with_reducible apply whole_ok
    | with_reducible exact trivial
    | with_reducible apply Act.safe_done
    | with_reducible apply Act.safe_exc
    | intro _

theorem execYield_ok {r : ChainRef} {i : SysI} {s : State} {s1 : State} (h : execYield r i s = .next s1) (hZ : Ok s) : Ok s1 := by
  unfold execYield at h
  repeat' first
    | extract_lets at h
    | (injection h with h; subst h)
    | split at h
    | cases h
    | extract_lets
    | with_reducible assumption
    | split
    | with_reducible apply whole_ok
    | with_reducible exact trivial
    | with_reducible apply Act.safe_done
    | intro _

theorem execTrap_ok {r : ChainRef} {i : SysI} {s : State} {s1 : State} (h : execTrap r i s = .next s1) (hZ : Ok s) : Ok s1 := by
  unfold execTrap at h
  repeat' first
    | extract_lets at h
    | (injection h with h; subst h)
    | split at h
    | cases h
    | extract_lets
    | with_reducible assumption
    | split
    | with_reducible apply whole_ok
    | with_reducible exact trivial
    | with_reducible apply Act.safe_exc
    | intro _

theorem execStoreBufferEntryLeave_ok {core : Fin 276} {s : State} {s1 : State} (h : execStoreBufferEntryLeave core s = .next s1) (hZ : Ok s) : Ok s1 := by
  unfold execStoreBufferEntryLeave at h
  repeat' first
    | extract_lets at h
    | (injection h with h; subst h)
    | split at h
    | cases h
    | extract_lets
    | with_reducible assumption
    | split
    | with_reducible refine leave_ok ‹_› ?_

theorem execLoadDataReturn_ok {c : ChainRef} {idx : Nat} {err : Bool} {s : State} {s1 : State} (h : execLoadDataReturn c idx err s = .next s1) (hZ : Ok s) : Ok s1 := by
  unfold execLoadDataReturn at h
  repeat' first
    | extract_lets at h
    | (injection h with h; subst h)
    | split at h
    | cases h
    | extract_lets
    | with_reducible assumption
    | split
    | with_reducible apply askReads_ok
    | with_reducible apply invalidateDcache_ok
    | with_reducible apply loadErr_ok
    | with_reducible refine readDevLanes_ok ‹_› ?_
    | with_reducible apply returnLoad_ok
    | with_reducible apply updChain_ok
    | dsimp +zetaDelta only

theorem execHomeRequest_ok {who : HomeWho} {line : BitVec 56} {k : HomeKind} {s : State} {s1 : State} (h : execHomeRequest who line k s = .next s1) (hZ : Ok s) : Ok s1 := by
  unfold execHomeRequest at h
  repeat' first
    | extract_lets at h
    | (injection h with h; subst h)
    | split at h
    | cases h
    | extract_lets
    | with_reducible assumption
    | split
    | with_reducible apply requestLine_ok

theorem execHomeTransactionEnd_ok {line : BitVec 56} {s : State} {s1 : State} (h : execHomeTransactionEnd line s = .next s1) (hZ : Ok s) : Ok s1 := by
  unfold execHomeTransactionEnd at h
  repeat' first
    | extract_lets at h
    | (injection h with h; subst h)
    | split at h
    | cases h
    | extract_lets
    | with_reducible assumption
    | split
    | with_reducible apply endTx_ok

theorem execDeadlockEvaluationTick_ok {s : State} {s1 : State} (h : execDeadlockEvaluationTick s = .next s1) (hZ : Ok s) : Ok s1 := by
  exact memOk_after (execDeadlockEvaluationTick_same h) rfl hZ

theorem execDeadlockRaise_ok {ctx : Fin 16384} {s : State} {s1 : State} (h : execDeadlockRaise ctx s = .next s1) (hZ : Ok s) : Ok s1 := by
  unfold execDeadlockRaise at h
  repeat' first
    | extract_lets at h
    | (injection h with h; subst h)
    | split at h
    | cases h
    | extract_lets
    | with_reducible assumption
    | split
    | with_reducible apply endCmd_ok
    | with_reducible apply postErrs_ok
    | with_reducible apply retime_ok
    | with_reducible apply updCtx_ok
    | with_reducible apply memOk_foldl
    | intro _
    | dsimp +zetaDelta only

theorem execFurlongMoveRequest_ok {src : KodSrc} {f : Fin 16} {val : Byte} {s : State} {s1 : State} (h : execFurlongMoveRequest src f val s = .next s1) (hZ : Ok s) : Ok s1 := by
  unfold execFurlongMoveRequest at h
  repeat' first
    | extract_lets at h
    | (injection h with h; subst h)
    | split at h
    | cases h
    | extract_lets
    | with_reducible assumption
    | split
    | with_reducible apply kodRequest_ok

theorem execDrainWindowExpiry_ok {f : Fin 16} {s : State} {s1 : State} (h : execDrainWindowExpiry f s = .next s1) (hZ : Ok s) : Ok s1 := by
  unfold execDrainWindowExpiry at h
  repeat' first
    | extract_lets at h
    | (injection h with h; subst h)
    | split at h
    | cases h
    | extract_lets
    | with_reducible assumption
    | split
    | with_reducible apply drainGroups_ok
    | with_reducible apply leaveSource_ok
    | dsimp +zetaDelta only

theorem execFurlongJoin_ok {f : Fin 16} {s : State} {s1 : State} (h : execFurlongJoin f s = .next s1) (hZ : Ok s) : Ok s1 := by
  exact memOk_after (execFurlongJoin_same h) rfl hZ

theorem execVfManagementWrite_ok {vf : Fin 513} {off : Nat} {size : Nat} {val : W64} {s : State} {s1 : State} (h : execVfManagementWrite vf off size val s = .next s1) (hZ : Ok s) : Ok s1 := by
  unfold execVfManagementWrite at h
  repeat' first
    | extract_lets at h
    | (injection h with h; subst h)
    | split at h
    | cases h
    | extract_lets
    | with_reducible assumption
    | split
    | with_reducible apply emit_ok
    | with_reducible apply writeVfm_ok

theorem execSpanStart_ok {h : Fin 8} {s : State} {s1 : State} (h : execSpanStart h s = .next s1) (hZ : Ok s) : Ok s1 := by
  exact memOk_after (execSpanStart_same h) rfl hZ

theorem execGrainChargeTick_ok {s : State} {s1 : State} (h : execGrainChargeTick s = .next s1) (hZ : Ok s) : Ok s1 := by
  exact memOk_after (execGrainChargeTick_same h) rfl hZ

theorem execCoreSliceExpiry_ok {cid : Nat} {g : Nat} {s : State} {s1 : State} (h : execCoreSliceExpiry cid g s = .next s1) (hZ : Ok s) : Ok s1 := by
  exact memOk_after (execCoreSliceExpiry_same h) rfl hZ

theorem execSlowdownWindowEnd_ok {h : Fin 8} {hindered : List (Nat × Nat)} {s : State} {s1 : State} (h : execSlowdownWindowEnd h hindered s = .next s1) (hZ : Ok s) : Ok s1 := by
  unfold execSlowdownWindowEnd at h
  repeat' first
    | extract_lets at h
    | (injection h with h; subst h)
    | split at h
    | cases h
    | extract_lets
    | with_reducible assumption
    | split
    | with_reducible apply endWindow_ok
    | with_reducible apply memOk_foldl
    | intro _

theorem execRebalancePeriodEnd_ok {s : State} {s1 : State} (h : execRebalancePeriodEnd s = .next s1) (hZ : Ok s) : Ok s1 := by
  unfold execRebalancePeriodEnd at h
  repeat' first
    | extract_lets at h
    | (injection h with h; subst h)
    | split at h
    | cases h
    | extract_lets
    | with_reducible assumption
    | split
    | with_reducible apply beginMove_ok
    | with_reducible apply journal_ok
    | with_reducible apply updHide_ok
    | with_reducible apply memOk_foldl
    | with_reducible apply ok_mgrMoved_upd
    | intro _
    | dsimp +zetaDelta only

theorem execMigrationFenceEnd_ok {ctx : Fin 16384} {s : State} {s1 : State} (h : execMigrationFenceEnd ctx s = .next s1) (hZ : Ok s) : Ok s1 := by
  unfold execMigrationFenceEnd at h
  repeat' first
    | extract_lets at h
    | (injection h with h; subst h)
    | split at h
    | cases h
    | extract_lets
    | with_reducible assumption
    | split
    | with_reducible apply endFence_ok

theorem execMoverRestart_ok {m : Fin 16} {s : State} {s1 : State} (h : execMoverRestart m s = .next s1) (hZ : Ok s) : Ok s1 := by
  exact memOk_after (execMoverRestart_same h) rfl hZ

theorem execChannelEnable_ok {m : Fin 16} {c : Fin 32} {ctrl : W64} {s : State} {s1 : State} (h : execChannelEnable m c ctrl s = .next s1) (hZ : Ok s) : Ok s1 := by
  unfold execChannelEnable at h
  repeat' first
    | extract_lets at h
    | (injection h with h; subst h)
    | split at h
    | cases h
    | extract_lets
    | with_reducible assumption
    | split
    | with_reducible apply enableChan_ok

theorem execChannelDisable_ok {m : Fin 16} {c : Fin 32} {s : State} {s1 : State} (h : execChannelDisable m c s = .next s1) (hZ : Ok s) : Ok s1 := by
  unfold execChannelDisable at h
  repeat' first
    | extract_lets at h
    | (injection h with h; subst h)
    | split at h
    | cases h
    | extract_lets
    | with_reducible assumption
    | split
    | with_reducible apply disableChan_ok

theorem execChannelAbort_ok {m : Fin 16} {c : Fin 32} {s : State} {s1 : State} (h : execChannelAbort m c s = .next s1) (hZ : Ok s) : Ok s1 := by
  unfold execChannelAbort at h
  repeat' first
    | extract_lets at h
    | (injection h with h; subst h)
    | split at h
    | cases h
    | extract_lets
    | with_reducible assumption
    | split
    | with_reducible apply abortWrite_ok

theorem execChannelStop_ok {m : Fin 16} {c : Fin 32} {s : State} {s1 : State} (h : execChannelStop m c s = .next s1) (hZ : Ok s) : Ok s1 := by
  exact memOk_after (execChannelStop_same h) rfl hZ

theorem execChannelContinue_ok {m : Fin 16} {c : Fin 32} {s : State} {s1 : State} (h : execChannelContinue m c s = .next s1) (hZ : Ok s) : Ok s1 := by
  exact memOk_after (execChannelContinue_same h) rfl hZ

theorem execKick_ok {m : Fin 16} {c : Fin 32} {s : State} {s1 : State} (h : execKick m c s = .next s1) (hZ : Ok s) : Ok s1 := by
  unfold execKick at h
  repeat' first
    | extract_lets at h
    | (injection h with h; subst h)
    | split at h
    | cases h
    | extract_lets
    | with_reducible assumption
    | split
    | with_reducible apply fetchDesc_ok

theorem execMoverDescriptorFetch_ok {m : Fin 16} {c : Fin 32} {s : State} {s1 : State} (h : execMoverDescriptorFetch m c s = .next s1) (hZ : Ok s) : Ok s1 := by
  unfold execMoverDescriptorFetch at h
  repeat' first
    | extract_lets at h
    | (injection h with h; subst h)
    | split at h
    | cases h
    | extract_lets
    | with_reducible assumption
    | split
    | with_reducible apply fetchDesc_ok

theorem execMoverRunStart_ok {m : Fin 16} {s : State} {s1 : State} (h : execMoverRunStart m s = .next s1) (hZ : Ok s) : Ok s1 := by
  exact memOk_after (execMoverRunStart_same h) rfl hZ

theorem execMoverBurstComplete_ok {m : Fin 16} {c : Fin 32} {s : State} {s1 : State} (h : execMoverBurstComplete m c s = .next s1) (hZ : Ok s) : Ok s1 := by
  unfold execMoverBurstComplete at h
  repeat' first
    | extract_lets at h
    | (injection h with h; subst h)
    | split at h
    | cases h
    | extract_lets
    | with_reducible assumption
    | split
    | with_reducible apply burstDone_ok

theorem execInputStall_ok {m : Fin 16} {c : Fin 32} {s : State} {s1 : State} (h : execInputStall m c s = .next s1) (hZ : Ok s) : Ok s1 := by
  unfold execInputStall at h
  repeat' first
    | extract_lets at h
    | (injection h with h; subst h)
    | split at h
    | cases h
    | extract_lets
    | with_reducible assumption
    | split
    | with_reducible apply postNotice_ok
    | with_reducible apply updChan_ok
    | dsimp +zetaDelta only

theorem execMoverHalt_ok {m : Fin 16} {c : Fin 32} {addr : BitVec 56} {s : State} {s1 : State} (h : execMoverHalt m c addr s = .next s1) (hZ : Ok s) : Ok s1 := by
  unfold execMoverHalt at h
  repeat' first
    | extract_lets at h
    | (injection h with h; subst h)
    | split at h
    | cases h
    | extract_lets
    | with_reducible assumption
    | split
    | with_reducible apply haltMover_ok

theorem execMoverPermissionError_ok {m : Fin 16} {c : Fin 32} {s : State} {s1 : State} (h : execMoverPermissionError m c s = .next s1) (hZ : Ok s) : Ok s1 := by
  unfold execMoverPermissionError at h
  repeat' first
    | extract_lets at h
    | (injection h with h; subst h)
    | split at h
    | cases h
    | extract_lets
    | with_reducible assumption
    | split
    | with_reducible apply chanPerm_ok
    | dsimp +zetaDelta only

theorem execSourceLatch_ok {n : Fin 1024} {s : State} {s1 : State} (h : execSourceLatch n s = .next s1) (hZ : Ok s) : Ok s1 := by
  exact memOk_after (execSourceLatch_same h) rfl hZ

theorem execSrcSetpWrite_ok {host : Bool} {w : Fin 16} {bits : W64} {s : State} {s1 : State} (h : execSrcSetpWrite host w bits s = .next s1) (hZ : Ok s) : Ok s1 := by
  exact memOk_after (execSrcSetpWrite_same h) rfl hZ

theorem execSrcPendWrite_ok {w : Fin 16} {bits : W64} {s : State} {s1 : State} (h : execSrcPendWrite w bits s = .next s1) (hZ : Ok s) : Ok s1 := by
  exact memOk_after (execSrcPendWrite_same h) rfl hZ

theorem execHoldOffExpiry_ok {g : Fin 64} {s : State} {s1 : State} (h : execHoldOffExpiry g s = .next s1) (hZ : Ok s) : Ok s1 := by
  exact memOk_after (execHoldOffExpiry_same h) rfl hZ

theorem execCoalesceExpiry_ok {g : Fin 64} {s : State} {s1 : State} (h : execCoalesceExpiry g s = .next s1) (hZ : Ok s) : Ok s1 := by
  exact memOk_after (execCoalesceExpiry_same h) rfl hZ

theorem execAcknowledge_ok {t : Fin 4} {s : State} {s1 : State} (h : execAcknowledge t s = .next s1) (hZ : Ok s) : Ok s1 := by
  exact memOk_after (execAcknowledge_same h) rfl hZ

theorem execEndOfInterrupt_ok {t : Fin 4} {src : BitVec 10} {s : State} {s1 : State} (h : execEndOfInterrupt t src s = .next s1) (hZ : Ok s) : Ok s1 := by
  unfold execEndOfInterrupt at h
  repeat' first
    | extract_lets at h
    | (injection h with h; subst h)
    | split at h
    | cases h
    | extract_lets
    | with_reducible assumption
    | split
    | with_reducible apply eoi_ok

theorem execWatermarkStickyClear_ok {n : Fin 512} {host : Bool} {s : State} {s1 : State} (h : execWatermarkStickyClear n host s = .next s1) (hZ : Ok s) : Ok s1 := by
  unfold execWatermarkStickyClear at h
  repeat' first
    | extract_lets at h
    | (injection h with h; subst h)
    | split at h
    | cases h
    | extract_lets
    | with_reducible assumption
    | split
    | with_reducible apply clearSticky_ok
    | with_reducible apply hostRefused_ok
    | with_reducible apply journalWm_ok

theorem execMailboxInWrite_ok {ch : Fin 16} {trust : Bool} {val : W64} {s : State} {s1 : State} (h : execMailboxInWrite ch trust val s = .next s1) (hZ : Ok s) : Ok s1 := by
  exact memOk_after (execMailboxInWrite_same h) rfl hZ

theorem execMailboxOutWrite_ok {ch : Fin 16} {val : W64} {s : State} {s1 : State} (h : execMailboxOutWrite ch val s = .next s1) (hZ : Ok s) : Ok s1 := by
  exact memOk_after (execMailboxOutWrite_same h) rfl hZ

theorem execMailboxTakeInbound_ok {ch : Fin 16} {s : State} {s1 : State} (h : execMailboxTakeInbound ch s = .next s1) (hZ : Ok s) : Ok s1 := by
  exact memOk_after (execMailboxTakeInbound_same h) rfl hZ

theorem execMailboxTakeOutbound_ok {ch : Fin 16} {trust : Bool} {s : State} {s1 : State} (h : execMailboxTakeOutbound ch trust s = .next s1) (hZ : Ok s) : Ok s1 := by
  exact memOk_after (execMailboxTakeOutbound_same h) rfl hZ

theorem execWatchdogExpiry_ok {cid : Nat} {s : State} {s1 : State} (h : execWatchdogExpiry cid s = .next s1) (hZ : Ok s) : Ok s1 := by
  unfold execWatchdogExpiry at h
  repeat' first
    | extract_lets at h
    | (injection h with h; subst h)
    | split at h
    | cases h
    | extract_lets
    | with_reducible assumption
    | split
    | with_reducible apply endCmd_ok
    | with_reducible apply retime_ok
    | dsimp +zetaDelta only

theorem execDeadlineExpiry_ok {cid : Nat} {s : State} {s1 : State} (h : execDeadlineExpiry cid s = .next s1) (hZ : Ok s) : Ok s1 := by
  unfold execDeadlineExpiry at h
  repeat' first
    | extract_lets at h
    | (injection h with h; subst h)
    | split at h
    | cases h
    | extract_lets
    | with_reducible assumption
    | split
    | with_reducible apply endCmd_ok
    | with_reducible apply retime_ok
    | dsimp +zetaDelta only

theorem execStopTimeout_ok {cid : Nat} {s : State} {s1 : State} (h : execStopTimeout cid s = .next s1) (hZ : Ok s) : Ok s1 := by
  unfold execStopTimeout at h
  repeat' first
    | extract_lets at h
    | (injection h with h; subst h)
    | split at h
    | cases h
    | extract_lets
    | with_reducible assumption
    | split
    | with_reducible apply recoverCtx_ok

theorem execFenceDrainExpiry_ok {h : Fin 8} {s : State} {s1 : State} (h : execFenceDrainExpiry h s = .next s1) (hZ : Ok s) : Ok s1 := by
  unfold execFenceDrainExpiry at h
  repeat' first
    | extract_lets at h
    | (injection h with h; subst h)
    | split at h
    | cases h
    | extract_lets
    | with_reducible assumption
    | split
    | with_reducible apply cutRequests_ok
    | with_reducible apply updHide_ok
    | with_reducible apply memOk_foldl
    | intro _
    | dsimp +zetaDelta only

theorem execComputePartReset_ok {h : Fin 8} {trigger : Fin 5} {s : State} {s1 : State} (h : execComputePartReset h trigger s = .next s1) (hZ : Ok s) : Ok s1 := by
  unfold execComputePartReset at h
  repeat' first
    | extract_lets at h
    | (injection h with h; subst h)
    | split at h
    | cases h
    | extract_lets
    | with_reducible assumption
    | split
    | with_reducible apply latchIn_ok
    | with_reducible apply startReset_ok

theorem execSelfTestEnd_ok {h : Fin 8} {failing : List (Fin 272)} {s : State} {s1 : State} (h : execSelfTestEnd h failing s = .next s1) (hZ : Ok s) : Ok s1 := by
  unfold execSelfTestEnd at h
  repeat' first
    | extract_lets at h
    | (injection h with h; subst h)
    | split at h
    | cases h
    | extract_lets
    | with_reducible assumption
    | split
    | with_reducible apply testPosition_ok
    | with_reducible apply memOk_foldl
    | intro _

theorem execComputePartResetEnd_ok {h : Fin 8} {s : State} {s1 : State} (h : execComputePartResetEnd h s = .next s1) (hZ : Ok s) : Ok s1 := by
  unfold execComputePartResetEnd at h
  repeat' first
    | extract_lets at h
    | (injection h with h; subst h)
    | split at h
    | cases h
    | extract_lets
    | with_reducible assumption
    | split
    | with_reducible apply afterRecovery_ok
    | with_reducible apply endReset_ok

theorem execComputePartResetTimeout_ok {h : Fin 8} {s : State} {s1 : State} (h : execComputePartResetTimeout h s = .next s1) (hZ : Ok s) : Ok s1 := by
  unfold execComputePartResetTimeout at h
  repeat' first
    | extract_lets at h
    | (injection h with h; subst h)
    | split at h
    | cases h
    | extract_lets
    | with_reducible assumption
    | split
    | with_reducible apply startFull_ok

theorem execHideKeyGenerated_ok {h : Fin 8} {s : State} {s1 : State} (h : execHideKeyGenerated h s = .next s1) (hZ : Ok s) : Ok s1 := by
  unfold execHideKeyGenerated at h
  repeat' first
    | extract_lets at h
    | (injection h with h; subst h)
    | split at h
    | cases h
    | extract_lets
    | with_reducible assumption
    | split
    | with_reducible apply afterRecovery_ok
    | with_reducible apply drawKey_ok
    | with_reducible apply endFull_ok
    | with_reducible apply updHide_ok
    | dsimp +zetaDelta only

theorem execHideScrubEnd_ok {h : Fin 8} {s : State} {s1 : State} (h : execHideScrubEnd h s = .next s1) (hZ : Ok s) : Ok s1 := by
  unfold execHideScrubEnd at h
  repeat' first
    | extract_lets at h
    | (injection h with h; subst h)
    | split at h
    | cases h
    | extract_lets
    | with_reducible assumption
    | split
    | with_reducible apply afterRecovery_ok
    | with_reducible apply endFull_ok
    | with_reducible apply ok_scrubbed_upd
    | dsimp +zetaDelta only

theorem execKodRead_ok {r : KodReq} {s : State} {s1 : State} (h : execKodRead r s = .next s1) (hZ : Ok s) : Ok s1 := by
  unfold execKodRead at h
  repeat' first
    | extract_lets at h
    | (injection h with h; subst h)
    | split at h
    | cases h
    | extract_lets
    | with_reducible assumption
    | split
    | with_reducible apply kodRequest_ok

theorem execKodWrite_ok {r : KodReq} {s : State} {s1 : State} (h : execKodWrite r s = .next s1) (hZ : Ok s) : Ok s1 := by
  unfold execKodWrite at h
  repeat' first
    | extract_lets at h
    | (injection h with h; subst h)
    | split at h
    | cases h
    | extract_lets
    | with_reducible assumption
    | split
    | with_reducible apply kodRequest_ok

theorem execKodDescribe_ok {r : KodReq} {s : State} {s1 : State} (h : execKodDescribe r s = .next s1) (hZ : Ok s) : Ok s1 := by
  unfold execKodDescribe at h
  repeat' first
    | extract_lets at h
    | (injection h with h; subst h)
    | split at h
    | cases h
    | extract_lets
    | with_reducible assumption
    | split
    | with_reducible apply kodRequest_ok

theorem execMctpControl_ok {eid : Option Byte} {s : State} {s1 : State} (h : execMctpControl eid s = .next s1) (hZ : Ok s) : Ok s1 := by
  exact memOk_after (execMctpControl_same h) rfl hZ

theorem execProfileSwitch_ok {src : KodSrc} {val : Byte} {s : State} {s1 : State} (h : execProfileSwitch src val s = .next s1) (hZ : Ok s) : Ok s1 := by
  unfold execProfileSwitch at h
  repeat' first
    | extract_lets at h
    | (injection h with h; subst h)
    | split at h
    | cases h
    | extract_lets
    | with_reducible assumption
    | split
    | with_reducible apply kodRequest_ok

theorem execProfileCopy_ok {src : KodSrc} {val : W16} {s : State} {s1 : State} (h : execProfileCopy src val s = .next s1) (hZ : Ok s) : Ok s1 := by
  unfold execProfileCopy at h
  repeat' first
    | extract_lets at h
    | (injection h with h; subst h)
    | split at h
    | cases h
    | extract_lets
    | with_reducible assumption
    | split
    | with_reducible apply kodRequest_ok

theorem execFirmwareStage_ok {src : KodSrc} {off : Nat} {data : List Byte} {s : State} {s1 : State} (h : execFirmwareStage src off data s = .next s1) (hZ : Ok s) : Ok s1 := by
  unfold execFirmwareStage at h
  repeat' first
    | extract_lets at h
    | (injection h with h; subst h)
    | split at h
    | cases h
    | extract_lets
    | with_reducible assumption
    | split
    | with_reducible apply kodRequest_ok

theorem execFirmwareCommit_ok {src : KodSrc} {crc : W32} {s : State} {s1 : State} (h : execFirmwareCommit src crc s = .next s1) (hZ : Ok s) : Ok s1 := by
  unfold execFirmwareCommit at h
  repeat' first
    | extract_lets at h
    | (injection h with h; subst h)
    | split at h
    | cases h
    | extract_lets
    | with_reducible assumption
    | split
    | with_reducible apply kodRequest_ok

theorem execShiftProgramStage_ok {src : KodSrc} {h : Fin 8} {off : Nat} {data : List Byte} {s : State} {s1 : State} (h : execShiftProgramStage src h off data s = .next s1) (hZ : Ok s) : Ok s1 := by
  unfold execShiftProgramStage at h
  repeat' first
    | extract_lets at h
    | (injection h with h; subst h)
    | split at h
    | cases h
    | extract_lets
    | with_reducible assumption
    | split
    | with_reducible apply kodRequest_ok

theorem execShiftProgramCommit_ok {src : KodSrc} {h : Fin 8} {val : W32} {s : State} {s1 : State} (h : execShiftProgramCommit src h val s = .next s1) (hZ : Ok s) : Ok s1 := by
  unfold execShiftProgramCommit at h
  repeat' first
    | extract_lets at h
    | (injection h with h; subst h)
    | split at h
    | cases h
    | extract_lets
    | with_reducible assumption
    | split
    | with_reducible apply kodRequest_ok

theorem execShiftProgramStore_ok {src : KodSrc} {h : Fin 8} {s : State} {s1 : State} (h : execShiftProgramStore src h s = .next s1) (hZ : Ok s) : Ok s1 := by
  unfold execShiftProgramStore at h
  repeat' first
    | extract_lets at h
    | (injection h with h; subst h)
    | split at h
    | cases h
    | extract_lets
    | with_reducible assumption
    | split
    | with_reducible apply kodRequest_ok

theorem execHideReset_ok {src : KodSrc} {h : Fin 8} {kind : Byte} {s : State} {s1 : State} (h : execHideReset src h kind s = .next s1) (hZ : Ok s) : Ok s1 := by
  unfold execHideReset at h
  repeat' first
    | extract_lets at h
    | (injection h with h; subst h)
    | split at h
    | cases h
    | extract_lets
    | with_reducible assumption
    | split
    | with_reducible apply kodRequest_ok

theorem execPendingLiveApply_ok {idx : Nat} {sub : Nat} {s : State} {s1 : State} (h : execPendingLiveApply idx sub s = .next s1) (hZ : Ok s) : Ok s1 := by
  unfold execPendingLiveApply at h
  repeat' first
    | extract_lets at h
    | (injection h with h; subst h)
    | split at h
    | cases h
    | extract_lets
    | with_reducible assumption
    | split
    | with_reducible apply setLive_ok

theorem execConfigStoreCommit_ok {ok : Bool} {s : State} {s1 : State} (h : execConfigStoreCommit ok s = .next s1) (hZ : Ok s) : Ok s1 := by
  unfold execConfigStoreCommit at h
  repeat' first
    | extract_lets at h
    | (injection h with h; subst h)
    | split at h
    | cases h
    | extract_lets
    | with_reducible assumption
    | split
    | with_reducible apply storeAlarm_ok
    | with_reducible apply writeCopy_ok
    | with_reducible apply writeHeader_ok
    | with_reducible apply memOk_foldl
    | with_reducible apply ok_kod_upd
    | intro _
    | dsimp +zetaDelta only

theorem execJournalMirrorCopy_ok {ok : Bool} {s : State} {s1 : State} (h : execJournalMirrorCopy ok s = .next s1) (hZ : Ok s) : Ok s1 := by
  unfold execJournalMirrorCopy at h
  repeat' first
    | extract_lets at h
    | (injection h with h; subst h)
    | split at h
    | cases h
    | extract_lets
    | with_reducible assumption
    | split
    | with_reducible apply flashErase_ok
    | with_reducible apply flashProgram_ok
    | with_reducible apply flashRead_ok
    | with_reducible apply storeAlarm_ok
    | with_reducible apply ok_ao_upd
    | dsimp +zetaDelta only

theorem execPaceMeasurement_ok {rates : List Nat} {s : State} {s1 : State} (h : execPaceMeasurement rates s = .next s1) (hZ : Ok s) : Ok s1 := by
  exact memOk_after (execPaceMeasurement_same h) rfl hZ

theorem execAvsRequest_ok {ok : Bool} {s : State} {s1 : State} (h : execAvsRequest ok s = .next s1) (hZ : Ok s) : Ok s1 := by
  exact memOk_after (execAvsRequest_same h) rfl hZ

theorem execFloorMiss_ok {s : State} {s1 : State} (h : execFloorMiss s = .next s1) (hZ : Ok s) : Ok s1 := by
  exact memOk_after (execFloorMiss_same h) rfl hZ

theorem execAvsReadback_ok {ok : Bool} {volt : Nat} {cur : Nat} {stat : Nat} {temp : Option Int} {s : State} {s1 : State} (h : execAvsReadback ok volt cur stat temp s = .next s1) (hZ : Ok s) : Ok s1 := by
  exact memOk_after (execAvsReadback_same h) rfl hZ

theorem execAvsRetry_ok {ok : Bool} {s : State} {s1 : State} (h : execAvsRetry ok s = .next s1) (hZ : Ok s) : Ok s1 := by
  exact memOk_after (execAvsRetry_same h) rfl hZ

theorem execPowerCapAdjust_ok {rest : Nat} {s : State} {s1 : State} (h : execPowerCapAdjust rest s = .next s1) (hZ : Ok s) : Ok s1 := by
  exact memOk_after (execPowerCapAdjust_same h) rfl hZ

theorem execThermalSample_ok {tj : Int} {s : State} {s1 : State} (h : execThermalSample tj s = .next s1) (hZ : Ok s) : Ok s1 := by
  unfold execThermalSample at h
  repeat' first
    | extract_lets at h
    | (injection h with h; subst h)
    | split at h
    | cases h
    | extract_lets
    | with_reducible assumption
    | split
    | with_reducible apply trip_ok
    | with_reducible apply untrip_ok
    | with_reducible apply updGov_ok
    | dsimp +zetaDelta only

theorem execFurlongSleep_ok {f : Fin 16} {s : State} {s1 : State} (h : execFurlongSleep f s = .next s1) (hZ : Ok s) : Ok s1 := by
  exact memOk_after (execFurlongSleep_same h) rfl hZ

theorem execFurlongWake_ok {f : Fin 16} {s : State} {s1 : State} (h : execFurlongWake f s = .next s1) (hZ : Ok s) : Ok s1 := by
  exact memOk_after (execFurlongWake_same h) rfl hZ

theorem execRtcTrim_ok {s : State} {s1 : State} (h : execRtcTrim s = .next s1) (hZ : Ok s) : Ok s1 := by
  exact memOk_after (execRtcTrim_same h) rfl hZ

theorem execTimeRefLoss_ok {s : State} {s1 : State} (h : execTimeRefLoss s = .next s1) (hZ : Ok s) : Ok s1 := by
  exact memOk_after (execTimeRefLoss_same h) rfl hZ

theorem execPowerLossAlarm_ok {s : State} {s1 : State} (h : execPowerLossAlarm s = .next s1) (hZ : Ok s) : Ok s1 := by
  unfold execPowerLossAlarm at h
  repeat' first
    | extract_lets at h
    | (injection h with h; subst h)
    | split at h
    | cases h
    | extract_lets
    | with_reducible assumption
    | split
    | with_reducible apply aoAlarm_ok
    | with_reducible apply wipe_ok

theorem execVbatLow_ok {s : State} {s1 : State} (h : execVbatLow s = .next s1) (hZ : Ok s) : Ok s1 := by
  exact memOk_after (execVbatLow_same h) rfl hZ

theorem execTamper_ok {s : State} {s1 : State} (h : execTamper s = .next s1) (hZ : Ok s) : Ok s1 := by
  unfold execTamper at h
  repeat' first
    | extract_lets at h
    | (injection h with h; subst h)
    | split at h
    | cases h
    | extract_lets
    | with_reducible assumption
    | split
    | with_reducible apply aoAlarm_ok
    | with_reducible apply updHide_ok
    | with_reducible apply updPow_ok
    | with_reducible apply zeroiseAll_ok
    | with_reducible apply memOk_foldl
    | intro _
    | dsimp +zetaDelta only

theorem execAlarmPosting_ok {s : State} {s1 : State} (h : execAlarmPosting s = .next s1) (hZ : Ok s) : Ok s1 := by
  unfold execAlarmPosting at h
  repeat' first
    | extract_lets at h
    | (injection h with h; subst h)
    | split at h
    | cases h
    | extract_lets
    | with_reducible assumption
    | split
    | with_reducible apply postAlarms_ok

theorem execEntropyReady_ok {s : State} {s1 : State} (h : execEntropyReady s = .next s1) (hZ : Ok s) : Ok s1 := by
  exact memOk_after (execEntropyReady_same h) rfl hZ

theorem execEntropyHealthFailure_ok {s : State} {s1 : State} (h : execEntropyHealthFailure s = .next s1) (hZ : Ok s) : Ok s1 := by
  exact memOk_after (execEntropyHealthFailure_same h) rfl hZ

theorem execDebugRequest_ok {s : State} {s1 : State} (h : execDebugRequest s = .next s1) (hZ : Ok s) : Ok s1 := by
  unfold execDebugRequest at h
  repeat' first
    | extract_lets at h
    | (injection h with h; subst h)
    | split at h
    | cases h
    | extract_lets
    | with_reducible assumption
    | split
    | with_reducible apply updPow_ok
    | with_reducible apply zeroiseAll_ok

theorem execDebugOpen_ok {s : State} {s1 : State} (h : execDebugOpen s = .next s1) (hZ : Ok s) : Ok s1 := by
  exact memOk_after (execDebugOpen_same h) rfl hZ

theorem execClockedTestMode_ok {mult : Option (Fin 10)} {s : State} {s1 : State} (h : execClockedTestMode mult s = .next s1) (hZ : Ok s) : Ok s1 := by
  exact memOk_after (execClockedTestMode_same h) rfl hZ

theorem execTapBypass_ok {s : State} {s1 : State} (h : execTapBypass s = .next s1) (hZ : Ok s) : Ok s1 := by
  exact memOk_after (execTapBypass_same h) rfl hZ

theorem execTapIdcode_ok {s : State} {s1 : State} (h : execTapIdcode s = .next s1) (hZ : Ok s) : Ok s1 := by
  exact memOk_after (execTapIdcode_same h) rfl hZ

theorem execPowerOnReset_ok {profsel : BitVec 2} {s : State} {s1 : State} (h : execPowerOnReset profsel s = .next s1) (hZ : Ok s) : Ok s1 := by
  unfold execPowerOnReset at h
  repeat' first
    | extract_lets at h
    | (injection h with h; subst h)
    | split at h
    | cases h
    | extract_lets
    | with_reducible assumption
    | split
    | with_reducible apply deassert_ok
    | with_reducible apply wipe_ok

theorem execWarmReset_ok {profsel : BitVec 2} {s : State} {s1 : State} (h : execWarmReset profsel s = .next s1) (hZ : Ok s) : Ok s1 := by
  unfold execWarmReset at h
  repeat' first
    | extract_lets at h
    | (injection h with h; subst h)
    | split at h
    | cases h
    | extract_lets
    | with_reducible assumption
    | split
    | with_reducible apply deassert_ok
    | with_reducible apply wipe_ok

theorem execFirmwareStart_ok {s : State} {s1 : State} (h : execFirmwareStart s = .next s1) (hZ : Ok s) : Ok s1 := by
  unfold execFirmwareStart at h
  repeat' first
    | extract_lets at h
    | (injection h with h; subst h)
    | split at h
    | cases h
    | extract_lets
    | with_reducible assumption
    | split
    | with_reducible apply activate_ok
    | with_reducible apply fallback_ok
    | with_reducible apply latchHigh_ok
    | with_reducible apply loadProfiles_ok
    | with_reducible apply pickFirmware_ok
    | with_reducible apply powerUp_ok
    | with_reducible apply readStore_ok
    | with_reducible apply serveStored_ok
    | with_reducible apply startControl_ok
    | with_reducible apply updPow_ok
    | with_reducible apply ok_ao_upd
    | dsimp +zetaDelta only

theorem execHideStart_ok {h : Fin 8} {s : State} {s1 : State} (h : execHideStart h s = .next s1) (hZ : Ok s) : Ok s1 := by
  unfold execHideStart at h
  repeat' first
    | extract_lets at h
    | (injection h with h; subst h)
    | split at h
    | cases h
    | extract_lets
    | with_reducible assumption
    | split
    | with_reducible apply startHide_ok

theorem execFirmwareRestart_ok {cc : Fin 4} {s : State} {s1 : State} (h : execFirmwareRestart cc s = .next s1) (hZ : Ok s) : Ok s1 := by
  exact memOk_after (execFirmwareRestart_same h) rfl hZ

theorem execStackPortReady_ok {p : Fin 12} {s : State} {s1 : State} (h : execStackPortReady p s = .next s1) (hZ : Ok s) : Ok s1 := by
  unfold execStackPortReady at h
  repeat' first
    | extract_lets at h
    | (injection h with h; subst h)
    | split at h
    | cases h
    | extract_lets
    | with_reducible assumption
    | split
    | with_reducible apply startFull_ok
    | with_reducible apply updHide_ok
    | with_reducible apply updSport_ok
    | dsimp +zetaDelta only

theorem execStackPortDown_ok {p : Fin 12} {s : State} {s1 : State} (h : execStackPortDown p s = .next s1) (hZ : Ok s) : Ok s1 := by
  unfold execStackPortDown at h
  repeat' first
    | extract_lets at h
    | (injection h with h; subst h)
    | split at h
    | cases h
    | extract_lets
    | with_reducible assumption
    | split
    | with_reducible apply latchIn_ok
    | with_reducible apply loadErr_ok
    | with_reducible apply stackRecord_ok
    | with_reducible apply startFull_ok
    | with_reducible apply updHide_ok
    | with_reducible apply updSport_ok
    | with_reducible apply memOk_foldl
    | intro _
    | dsimp +zetaDelta only

theorem execStackReadResponse_ok {p : Fin 12} {lane : Fin 16} {wack : Bool} {resp : BitVec 2} {addr : BitVec 56} {who : HostWho} {s : State} {s1 : State} (h : execStackReadResponse p lane wack resp addr who s = .next s1) (hZ : Ok s) : Ok s1 := by
  unfold execStackReadResponse at h
  repeat' first
    | extract_lets at h
    | (injection h with h; subst h)
    | split at h
    | cases h
    | extract_lets
    | with_reducible assumption
    | split
    | with_reducible apply errorTo_ok
    | with_reducible apply latchIn_ok
    | with_reducible apply stackRecord_ok
    | with_reducible apply startFull_ok
    | with_reducible apply updSport_ok
    | dsimp +zetaDelta only

theorem execHostReadCompletion_ok {who : HostWho} {addr : Nat} {data : List Byte} {err : Bool} {s : State} {s1 : State} (h : execHostReadCompletion who addr data err s = .next s1) (hZ : Ok s) : Ok s1 := by
  unfold execHostReadCompletion at h
  repeat' first
    | extract_lets at h
    | (injection h with h; subst h)
    | split at h
    | cases h
    | extract_lets
    | with_reducible assumption
    | split
    | with_reducible apply errorTo_ok
    | with_reducible apply gotSide_ok
    | with_reducible apply hostPart_ok
    | with_reducible apply writeBytes_ok
    | dsimp +zetaDelta only

theorem execCxlMemRequest_ok {dpa : Nat} {wr : Option (List Byte)} {s : State} {s1 : State} (h : execCxlMemRequest dpa wr s = .next s1) (hZ : Ok s) : Ok s1 := by
  unfold execCxlMemRequest at h
  repeat' first
    | extract_lets at h
    | (injection h with h; subst h)
    | split at h
    | cases h
    | extract_lets
    | with_reducible assumption
    | split
    | with_reducible apply emit_ok
    | with_reducible apply requestOnce_ok
    | dsimp +zetaDelta only

theorem execEngineAttach_ok {e : Fin 4} {id : W64} {s : State} {s1 : State} (h : execEngineAttach e id s = .next s1) (hZ : Ok s) : Ok s1 := by
  exact memOk_after (execEngineAttach_same h) rfl hZ

theorem execEngineDetach_ok {e : Fin 4} {s : State} {s1 : State} (h : execEngineDetach e s = .next s1) (hZ : Ok s) : Ok s1 := by
  unfold execEngineDetach at h
  repeat' first
    | extract_lets at h
    | (injection h with h; subst h)
    | split at h
    | cases h
    | extract_lets
    | with_reducible assumption
    | split
    | with_reducible apply complete_ok
    | with_reducible apply retime_ok
    | with_reducible apply updCmd_ok
    | with_reducible apply updEngine_ok
    | with_reducible apply memOk_foldl
    | intro _
    | dsimp +zetaDelta only

theorem execEngineRequest_ok {e : Fin 4} {cid : Nat} {slot : Fin 16} {off : Nat} {op : EngOp} {s : State} {s1 : State} (h : execEngineRequest e cid slot off op s = .next s1) (hZ : Ok s) : Ok s1 := by
  unfold execEngineRequest at h
  repeat' first
    | extract_lets at h
    | (injection h with h; subst h)
    | split at h
    | cases h
    | extract_lets
    | with_reducible assumption
    | split
    | with_reducible apply emit_ok
    | with_reducible apply engineAccess_ok
    | with_reducible apply updCmd_ok
    | dsimp +zetaDelta only

theorem execEngineProgress_ok {cid : Nat} {s : State} {s1 : State} (h : execEngineProgress cid s = .next s1) (hZ : Ok s) : Ok s1 := by
  exact memOk_after (execEngineProgress_same h) rfl hZ

theorem execEngineHeld_ok {cid : Nat} {s : State} {s1 : State} (h : execEngineHeld cid s = .next s1) (hZ : Ok s) : Ok s1 := by
  exact memOk_after (execEngineHeld_same h) rfl hZ

theorem execEngineReleased_ok {cid : Nat} {s : State} {s1 : State} (h : execEngineReleased cid s = .next s1) (hZ : Ok s) : Ok s1 := by
  exact memOk_after (execEngineReleased_same h) rfl hZ

theorem execEnginePaused_ok {e : Fin 4} {ctx : Fin 16384} {s : State} {s1 : State} (h : execEnginePaused e ctx s = .next s1) (hZ : Ok s) : Ok s1 := by
  exact memOk_after (execEnginePaused_same h) rfl hZ

theorem execEngineDrainTimeout_ok {e : Fin 4} {cid : Nat} {s : State} {s1 : State} (h : execEngineDrainTimeout e cid s = .next s1) (hZ : Ok s) : Ok s1 := by
  unfold execEngineDrainTimeout at h
  repeat' first
    | extract_lets at h
    | (injection h with h; subst h)
    | split at h
    | cases h
    | extract_lets
    | with_reducible assumption
    | split
    | with_reducible apply engineRecord_ok
    | with_reducible apply leaveForeign_ok
    | with_reducible apply recoverCtx_ok
    | with_reducible apply updEngine_ok
    | dsimp +zetaDelta only

theorem execLinkPhyUp_ok {p : Fin 32} {s : State} {s1 : State} (h : execLinkPhyUp p s = .next s1) (hZ : Ok s) : Ok s1 := by
  unfold execLinkPhyUp at h
  repeat' first
    | extract_lets at h
    | (injection h with h; subst h)
    | split at h
    | cases h
    | extract_lets
    | with_reducible assumption
    | split
    | with_reducible apply linkRecord_ok
    | with_reducible apply linkState_ok
    | with_reducible apply updLink_ok
    | dsimp +zetaDelta only

theorem execLinkPhyDown_ok {p : Fin 32} {s : State} {s1 : State} (h : execLinkPhyDown p s = .next s1) (hZ : Ok s) : Ok s1 := by
  unfold execLinkPhyDown at h
  repeat' first
    | extract_lets at h
    | (injection h with h; subst h)
    | split at h
    | cases h
    | extract_lets
    | with_reducible assumption
    | split
    | with_reducible apply linkDown_ok
    | with_reducible apply updLink_ok
    | dsimp +zetaDelta only

theorem execFlitReceive_ok {p : Fin 32} {flit : BitVec 2048} {bad : Bool} {s : State} {s1 : State} (h : execFlitReceive p flit bad s = .next s1) (hZ : Ok s) : Ok s1 := by
  unfold execFlitReceive at h
  repeat' first
    | extract_lets at h
    | (injection h with h; subst h)
    | split at h
    | cases h
    | extract_lets
    | with_reducible assumption
    | split
    | with_reducible apply receiveFlit_ok

theorem execLinkAckTimeout_ok {p : Fin 32} {s : State} {s1 : State} (h : execLinkAckTimeout p s = .next s1) (hZ : Ok s) : Ok s1 := by
  unfold execLinkAckTimeout at h
  repeat' first
    | extract_lets at h
    | (injection h with h; subst h)
    | split at h
    | cases h
    | extract_lets
    | with_reducible assumption
    | split
    | with_reducible apply linkDown_ok
    | dsimp +zetaDelta only

theorem execHelloTimer_ok {p : Fin 32} {s : State} {s1 : State} (h : execHelloTimer p s = .next s1) (hZ : Ok s) : Ok s1 := by
  exact memOk_after (execHelloTimer_same h) rfl hZ

theorem execHello_ok {p : Fin 32} {node : BitVec 14} {port : Fin 32} {crc : W32} {s : State} {s1 : State} (h : execHello p node port crc s = .next s1) (hZ : Ok s) : Ok s1 := by
  unfold execHello at h
  repeat' first
    | extract_lets at h
    | (injection h with h; subst h)
    | split at h
    | cases h
    | extract_lets
    | with_reducible assumption
    | split
    | with_reducible apply linkDown_ok
    | with_reducible apply linkRecord_ok
    | with_reducible apply linkUp_ok
    | dsimp +zetaDelta only

theorem execLinkmap_ok {p : Fin 32} {r : LmRec} {s : State} {s1 : State} (h : execLinkmap p r s = .next s1) (hZ : Ok s) : Ok s1 := by
  unfold execLinkmap at h
  repeat' first
    | extract_lets at h
    | (injection h with h; subst h)
    | split at h
    | cases h
    | extract_lets
    | with_reducible assumption
    | split
    | with_reducible apply emit_ok
    | with_reducible apply mapChanged_ok
    | with_reducible apply ownNewer_ok
    | with_reducible apply memOk_foldl
    | with_reducible apply ok_fab_upd
    | intro _
    | dsimp +zetaDelta only

theorem execRouteCompute_ok {s : State} {s1 : State} (h : execRouteCompute s = .next s1) (hZ : Ok s) : Ok s1 := by
  exact memOk_after (execRouteCompute_same h) rfl hZ

theorem execRoutesInPlace_ok {s : State} {s1 : State} (h : execRoutesInPlace s = .next s1) (hZ : Ok s) : Ok s1 := by
  unfold execRoutesInPlace at h
  repeat' first
    | extract_lets at h
    | (injection h with h; subst h)
    | split at h
    | cases h
    | extract_lets
    | with_reducible assumption
    | split
    | with_reducible apply placeRoutes_ok

theorem execReady_ok {p : Fin 32} {crc : W32} {count : Nat} {s : State} {s1 : State} (h : execReady p crc count s = .next s1) (hZ : Ok s) : Ok s1 := by
  unfold execReady at h
  repeat' first
    | extract_lets at h
    | (injection h with h; subst h)
    | split at h
    | cases h
    | extract_lets
    | with_reducible assumption
    | split
    | with_reducible apply countReady_ok
    | with_reducible apply ok_fab_upd

theorem execGo_ok {p : Fin 32} {crc : W32} {s : State} {s1 : State} (h : execGo p crc s = .next s1) (hZ : Ok s) : Ok s1 := by
  unfold execGo at h
  repeat' first
    | extract_lets at h
    | (injection h with h; subst h)
    | split at h
    | cases h
    | extract_lets
    | with_reducible assumption
    | split
    | with_reducible apply doGo_ok

theorem execEpochTableExpiry_ok {s : State} {s1 : State} (h : execEpochTableExpiry s = .next s1) (hZ : Ok s) : Ok s1 := by
  exact memOk_after (execEpochTableExpiry_same h) rfl hZ

theorem execRd_ok {p : Fin 32} {m : LMsg} {s : State} {s1 : State} (h : execRd p m s = .next s1) (hZ : Ok s) : Ok s1 := by
  unfold execRd at h
  repeat' first
    | extract_lets at h
    | (injection h with h; subst h)
    | split at h
    | cases h
    | extract_lets
    | with_reducible assumption
    | split
    | with_reducible apply serveReq_ok

theorem execWr_ok {p : Fin 32} {m : LMsg} {s : State} {s1 : State} (h : execWr p m s = .next s1) (hZ : Ok s) : Ok s1 := by
  unfold execWr at h
  repeat' first
    | extract_lets at h
    | (injection h with h; subst h)
    | split at h
    | cases h
    | extract_lets
    | with_reducible assumption
    | split
    | with_reducible apply serveReq_ok

theorem execAtom_ok {p : Fin 32} {m : LMsg} {s : State} {s1 : State} (h : execAtom p m s = .next s1) (hZ : Ok s) : Ok s1 := by
  unfold execAtom at h
  repeat' first
    | extract_lets at h
    | (injection h with h; subst h)
    | split at h
    | cases h
    | extract_lets
    | with_reducible assumption
    | split
    | with_reducible apply serveReq_ok

theorem execCoh_ok {p : Fin 32} {m : LMsg} {s : State} {s1 : State} (h : execCoh p m s = .next s1) (hZ : Ok s) : Ok s1 := by
  unfold execCoh at h
  repeat' first
    | extract_lets at h
    | (injection h with h; subst h)
    | split at h
    | cases h
    | extract_lets
    | with_reducible assumption
    | split
    | with_reducible apply onMsg_ok
    | with_reducible apply serveReq_ok
    | with_reducible apply updLink_ok
    | intro _

theorem execMvw_ok {p : Fin 32} {m : LMsg} {s : State} {s1 : State} (h : execMvw p m s = .next s1) (hZ : Ok s) : Ok s1 := by
  unfold execMvw at h
  repeat' first
    | extract_lets at h
    | (injection h with h; subst h)
    | split at h
    | cases h
    | extract_lets
    | with_reducible assumption
    | split
    | with_reducible apply serveReq_ok

theorem execRemoteEvsig_ok {p : Fin 32} {m : LMsg} {s : State} {s1 : State} (h : execRemoteEvsig p m s = .next s1) (hZ : Ok s) : Ok s1 := by
  unfold execRemoteEvsig at h
  repeat' first
    | extract_lets at h
    | (injection h with h; subst h)
    | split at h
    | cases h
    | extract_lets
    | with_reducible assumption
    | split
    | with_reducible apply serveReq_ok

theorem execRemoteEvwait_ok {p : Fin 32} {m : LMsg} {s : State} {s1 : State} (h : execRemoteEvwait p m s = .next s1) (hZ : Ok s) : Ok s1 := by
  unfold execRemoteEvwait at h
  repeat' first
    | extract_lets at h
    | (injection h with h; subst h)
    | split at h
    | cases h
    | extract_lets
    | with_reducible assumption
    | split
    | with_reducible apply serveReq_ok

theorem execSnp_ok {p : Fin 32} {m : LMsg} {s : State} {s1 : State} (h : execSnp p m s = .next s1) (hZ : Ok s) : Ok s1 := by
  exact memOk_after (execSnp_same h) rfl hZ

theorem execRdRsp_ok {p : Fin 32} {m : LMsg} {s : State} {s1 : State} (h : execRdRsp p m s = .next s1) (hZ : Ok s) : Ok s1 := by
  unfold execRdRsp at h
  repeat' first
    | extract_lets at h
    | (injection h with h; subst h)
    | split at h
    | cases h
    | extract_lets
    | with_reducible assumption
    | split
    | with_reducible apply dropReq_ok
    | with_reducible apply gotSide_ok
    | with_reducible apply learn_ok
    | with_reducible apply loadPart_ok
    | with_reducible apply onRsp_ok
    | intro _
    | dsimp +zetaDelta only

theorem execWrAck_ok {p : Fin 32} {m : LMsg} {s : State} {s1 : State} (h : execWrAck p m s = .next s1) (hZ : Ok s) : Ok s1 := by
  unfold execWrAck at h
  repeat' first
    | extract_lets at h
    | (injection h with h; subst h)
    | split at h
    | cases h
    | extract_lets
    | with_reducible assumption
    | split
    | with_reducible apply dropReq_ok
    | with_reducible apply onRsp_ok
    | with_reducible apply signalled_ok
    | intro _

theorem execAtomRsp_ok {p : Fin 32} {m : LMsg} {s : State} {s1 : State} (h : execAtomRsp p m s = .next s1) (hZ : Ok s) : Ok s1 := by
  exact memOk_after (execAtomRsp_same h) rfl hZ

theorem execCohRsp_ok {p : Fin 32} {m : LMsg} {s : State} {s1 : State} (h : execCohRsp p m s = .next s1) (hZ : Ok s) : Ok s1 := by
  unfold execCohRsp at h
  repeat' first
    | extract_lets at h
    | (injection h with h; subst h)
    | split at h
    | cases h
    | extract_lets
    | with_reducible assumption
    | split
    | with_reducible apply dropReq_ok
    | with_reducible apply fillCopy_ok
    | with_reducible apply onRsp_ok
    | with_reducible apply updReq_ok
    | intro _

theorem execSnpAck_ok {p : Fin 32} {m : LMsg} {s : State} {s1 : State} (h : execSnpAck p m s = .next s1) (hZ : Ok s) : Ok s1 := by
  unfold execSnpAck at h
  repeat' first
    | extract_lets at h
    | (injection h with h; subst h)
    | split at h
    | cases h
    | extract_lets
    | with_reducible assumption
    | split
    | with_reducible apply onMsg_ok
    | with_reducible apply snoopAck_ok
    | intro _

theorem execReservedOk_ok {p : Fin 32} {m : LMsg} {s : State} {s1 : State} (h : execReservedOk p m s = .next s1) (hZ : Ok s) : Ok s1 := by
  exact memOk_after (execReservedOk_same h) rfl hZ

theorem execWake_ok {p : Fin 32} {m : LMsg} {s : State} {s1 : State} (h : execWake p m s = .next s1) (hZ : Ok s) : Ok s1 := by
  unfold execWake at h
  repeat' first
    | extract_lets at h
    | (injection h with h; subst h)
    | split at h
    | cases h
    | extract_lets
    | with_reducible assumption
    | split
    | with_reducible apply complete_ok
    | with_reducible apply dropReq_ok
    | with_reducible apply invalidateDcache_ok
    | with_reducible apply onRsp_ok
    | with_reducible apply postSignal_ok
    | with_reducible apply updChain_ok
    | with_reducible apply wakeSaved_ok
    | intro _
    | dsimp +zetaDelta only

theorem execErrRsp_ok {p : Fin 32} {m : LMsg} {s : State} {s1 : State} (h : execErrRsp p m s = .next s1) (hZ : Ok s) : Ok s1 := by
  unfold execErrRsp at h
  repeat' first
    | extract_lets at h
    | (injection h with h; subst h)
    | split at h
    | cases h
    | extract_lets
    | with_reducible assumption
    | split
    | with_reducible apply failReq_ok
    | with_reducible apply onRsp_ok
    | intro _

theorem execRemoteRequestTimeout_ok {tag : W16} {s : State} {s1 : State} (h : execRemoteRequestTimeout tag s = .next s1) (hZ : Ok s) : Ok s1 := by
  unfold execRemoteRequestTimeout at h
  repeat' first
    | extract_lets at h
    | (injection h with h; subst h)
    | split at h
    | cases h
    | extract_lets
    | with_reducible assumption
    | split
    | with_reducible apply failReq_ok

theorem execFlowControlCreditReturn_ok {p : PortId} {s : State} {s1 : State} (h : execFlowControlCreditReturn p s = .next s1) (hZ : Ok s) : Ok s1 := by
  exact memOk_after (execFlowControlCreditReturn_same h) rfl hZ

theorem execCreditSilenceExpiry_ok {m : Fin 16} {c : Fin 32} {s : State} {s1 : State} (h : execCreditSilenceExpiry m c s = .next s1) (hZ : Ok s) : Ok s1 := by
  exact memOk_after (execCreditSilenceExpiry_same h) rfl hZ

theorem execIllegalEncoding_ok {r : ChainRef} {s : State} {s1 : State} (h : execIllegalEncoding r s = .next s1) (hZ : Ok s) : Ok s1 := by
  unfold execIllegalEncoding at h
  repeat' first
    | extract_lets at h
    | (injection h with h; subst h)
    | split at h
    | cases h
    | extract_lets
    | with_reducible assumption
    | split
    | with_reducible apply issue_ok
    | with_reducible exact trivial
    | with_reducible apply Act.safe_exc
    | intro _

theorem execAlwaysOnPowerUp_ok {s : State} {s1 : State} (h : execAlwaysOnPowerUp s = .next s1) (hZ : Ok s) : Ok s1 := by
  unfold execAlwaysOnPowerUp at h
  repeat' first
    | extract_lets at h
    | (injection h with h; subst h)
    | split at h
    | cases h
    | extract_lets
    | with_reducible assumption
    | split
    | with_reducible apply wipe_ok
    | with_reducible apply ok_ao_upd
    | with_reducible apply ok_pow_upd
    | dsimp +zetaDelta only
    | with_reducible assumption
    | exact rfl
    | with_reducible apply memOk_mk

theorem execEntdaa_ok {addr : BitVec 7} {s : State} {s1 : State} (h : execEntdaa addr s = .next s1) (hZ : Ok s) : Ok s1 := by
  exact memOk_after (execEntdaa_same h) rfl hZ

theorem execVfEnableChange_ok {vf : Fin 513} {on : Bool} {s : State} {s1 : State} (h : execVfEnableChange vf on s = .next s1) (hZ : Ok s) : Ok s1 := by
  exact memOk_after (execVfEnableChange_same h) rfl hZ

theorem execWarmrstAssertion_ok {s : State} {s1 : State} (h : execWarmrstAssertion s = .next s1) (hZ : Ok s) : Ok s1 := by
  unfold execWarmrstAssertion at h
  repeat' first
    | extract_lets at h
    | (injection h with h; subst h)
    | split at h
    | cases h
    | extract_lets
    | with_reducible assumption
    | split
    | with_reducible apply wipe_ok

end Sys2Proof.Laws
end

