-- ==== Sys2Proof/Laws/State.lean ====
section
/-! SUPPORT. The fields of the state after each update: what the update leaves alone, and what is read back after it. -/

namespace Sys2Proof.Machine

variable (s : State)

/-! ## setRun -/

@[simp] theorem State.setRun_pending (idx sub v : Nat) : (s.setRun idx sub v).pending = s.pending := rfl
@[simp] theorem State.setRun_btime (idx sub v : Nat) : (s.setRun idx sub v).btime = s.btime := rfl
@[simp] theorem State.setRun_free (idx sub v : Nat) : (s.setRun idx sub v).free = s.free := rfl
@[simp] theorem State.setRun_mem (idx sub v : Nat) : (s.setRun idx sub v).mem = s.mem := rfl
@[simp] theorem State.setRun_exposed (idx sub v : Nat) : (s.setRun idx sub v).exposed = s.exposed := rfl
@[simp] theorem State.setRun_scrubbed (idx sub v : Nat) : (s.setRun idx sub v).scrubbed = s.scrubbed := rfl
@[simp] theorem State.setRun_ext (idx sub v : Nat) : (s.setRun idx sub v).ext = s.ext := rfl
@[simp] theorem State.setRun_fns (idx sub v : Nat) : (s.setRun idx sub v).fns = s.fns := rfl
@[simp] theorem State.setRun_store (idx sub v : Nat) : (s.setRun idx sub v).store = s.store := rfl
@[simp] theorem State.setRun_cmds (idx sub v : Nat) : (s.setRun idx sub v).cmds = s.cmds := rfl
@[simp] theorem State.setRun_nextCid (idx sub v : Nat) : (s.setRun idx sub v).nextCid = s.nextCid := rfl
@[simp] theorem State.setRun_ctxs (idx sub v : Nat) : (s.setRun idx sub v).ctxs = s.ctxs := rfl
@[simp] theorem State.setRun_live (idx sub v : Nat) : (s.setRun idx sub v).live = s.live := rfl
@[simp] theorem State.setRun_allocs (idx sub v : Nat) : (s.setRun idx sub v).allocs = s.allocs := rfl
@[simp] theorem State.setRun_nextObj (idx sub v : Nat) : (s.setRun idx sub v).nextObj = s.nextObj := rfl
@[simp] theorem State.setRun_tlb (idx sub v : Nat) : (s.setRun idx sub v).tlb = s.tlb := rfl
@[simp] theorem State.setRun_ats (idx sub v : Nat) : (s.setRun idx sub v).ats = s.ats := rfl
@[simp] theorem State.setRun_cores (idx sub v : Nat) : (s.setRun idx sub v).cores = s.cores := rfl
@[simp] theorem State.setRun_groups (idx sub v : Nat) : (s.setRun idx sub v).groups = s.groups := rfl
@[simp] theorem State.setRun_waiters (idx sub v : Nat) : (s.setRun idx sub v).waiters = s.waiters := rfl
@[simp] theorem State.setRun_lines (idx sub v : Nat) : (s.setRun idx sub v).lines = s.lines := rfl
@[simp] theorem State.setRun_dirClock (idx sub v : Nat) : (s.setRun idx sub v).dirClock = s.dirClock := rfl
@[simp] theorem State.setRun_hides (idx sub v : Nat) : (s.setRun idx sub v).hides = s.hides := rfl
@[simp] theorem State.setRun_moves (idx sub v : Nat) : (s.setRun idx sub v).moves = s.moves := rfl
@[simp] theorem State.setRun_mgrMoved (idx sub v : Nat) : (s.setRun idx sub v).mgrMoved = s.mgrMoved := rfl
@[simp] theorem State.setRun_plans (idx sub v : Nat) : (s.setRun idx sub v).plans = s.plans := rfl
@[simp] theorem State.setRun_seqs (idx sub v : Nat) : (s.setRun idx sub v).seqs = s.seqs := rfl
@[simp] theorem State.setRun_pendOrder (idx sub v : Nat) : (s.setRun idx sub v).pendOrder = s.pendOrder := rfl
@[simp] theorem State.setRun_movers (idx sub v : Nat) : (s.setRun idx sub v).movers = s.movers := rfl
@[simp] theorem State.setRun_eg (idx sub v : Nat) : (s.setRun idx sub v).eg = s.eg := rfl
@[simp] theorem State.setRun_wms (idx sub v : Nat) : (s.setRun idx sub v).wms = s.wms := rfl
@[simp] theorem State.setRun_boxes (idx sub v : Nat) : (s.setRun idx sub v).boxes = s.boxes := rfl
@[simp] theorem State.setRun_ao (idx sub v : Nat) : (s.setRun idx sub v).ao = s.ao := rfl
@[simp] theorem State.setRun_gov (idx sub v : Nat) : (s.setRun idx sub v).gov = s.gov := rfl
@[simp] theorem State.setRun_pow (idx sub v : Nat) : (s.setRun idx sub v).pow = s.pow := rfl
@[simp] theorem State.setRun_engines (idx sub v : Nat) : (s.setRun idx sub v).engines = s.engines := rfl
@[simp] theorem State.setRun_sports (idx sub v : Nat) : (s.setRun idx sub v).sports = s.sports := rfl
@[simp] theorem State.setRun_fab (idx sub v : Nat) : (s.setRun idx sub v).fab = s.fab := rfl
@[simp] theorem State.setRun_out (idx sub v : Nat) : (s.setRun idx sub v).out = s.out := rfl

/-! ## drawNext -/

@[simp] theorem State.drawNext_pending : (s.drawNext).pending = s.pending := rfl
@[simp] theorem State.drawNext_btime : (s.drawNext).btime = s.btime := rfl
@[simp] theorem State.drawNext_free : (s.drawNext).free = s.free := rfl
@[simp] theorem State.drawNext_mem : (s.drawNext).mem = s.mem := rfl
@[simp] theorem State.drawNext_exposed : (s.drawNext).exposed = s.exposed := rfl
@[simp] theorem State.drawNext_scrubbed : (s.drawNext).scrubbed = s.scrubbed := rfl
@[simp] theorem State.drawNext_ext : (s.drawNext).ext = s.ext := rfl
@[simp] theorem State.drawNext_fns : (s.drawNext).fns = s.fns := rfl
@[simp] theorem State.drawNext_store : (s.drawNext).store = s.store := rfl
@[simp] theorem State.drawNext_cmds : (s.drawNext).cmds = s.cmds := rfl
@[simp] theorem State.drawNext_nextCid : (s.drawNext).nextCid = s.nextCid := rfl
@[simp] theorem State.drawNext_ctxs : (s.drawNext).ctxs = s.ctxs := rfl
@[simp] theorem State.drawNext_live : (s.drawNext).live = s.live := rfl
@[simp] theorem State.drawNext_allocs : (s.drawNext).allocs = s.allocs := rfl
@[simp] theorem State.drawNext_nextObj : (s.drawNext).nextObj = s.nextObj := rfl
@[simp] theorem State.drawNext_tlb : (s.drawNext).tlb = s.tlb := rfl
@[simp] theorem State.drawNext_ats : (s.drawNext).ats = s.ats := rfl
@[simp] theorem State.drawNext_cores : (s.drawNext).cores = s.cores := rfl
@[simp] theorem State.drawNext_groups : (s.drawNext).groups = s.groups := rfl
@[simp] theorem State.drawNext_waiters : (s.drawNext).waiters = s.waiters := rfl
@[simp] theorem State.drawNext_lines : (s.drawNext).lines = s.lines := rfl
@[simp] theorem State.drawNext_dirClock : (s.drawNext).dirClock = s.dirClock := rfl
@[simp] theorem State.drawNext_hides : (s.drawNext).hides = s.hides := rfl
@[simp] theorem State.drawNext_moves : (s.drawNext).moves = s.moves := rfl
@[simp] theorem State.drawNext_mgrMoved : (s.drawNext).mgrMoved = s.mgrMoved := rfl
@[simp] theorem State.drawNext_plans : (s.drawNext).plans = s.plans := rfl
@[simp] theorem State.drawNext_seqs : (s.drawNext).seqs = s.seqs := rfl
@[simp] theorem State.drawNext_pendOrder : (s.drawNext).pendOrder = s.pendOrder := rfl
@[simp] theorem State.drawNext_movers : (s.drawNext).movers = s.movers := rfl
@[simp] theorem State.drawNext_eg : (s.drawNext).eg = s.eg := rfl
@[simp] theorem State.drawNext_wms : (s.drawNext).wms = s.wms := rfl
@[simp] theorem State.drawNext_boxes : (s.drawNext).boxes = s.boxes := rfl
@[simp] theorem State.drawNext_kod : (s.drawNext).kod = s.kod := rfl
@[simp] theorem State.drawNext_ao : (s.drawNext).ao = s.ao := rfl
@[simp] theorem State.drawNext_gov : (s.drawNext).gov = s.gov := rfl
@[simp] theorem State.drawNext_engines : (s.drawNext).engines = s.engines := rfl
@[simp] theorem State.drawNext_sports : (s.drawNext).sports = s.sports := rfl
@[simp] theorem State.drawNext_fab : (s.drawNext).fab = s.fab := rfl
@[simp] theorem State.drawNext_out : (s.drawNext).out = s.out := rfl

/-! ## freshNext -/

@[simp] theorem State.freshNext_pending : (s.freshNext).pending = s.pending := rfl
@[simp] theorem State.freshNext_btime : (s.freshNext).btime = s.btime := rfl
@[simp] theorem State.freshNext_mem : (s.freshNext).mem = s.mem := rfl
@[simp] theorem State.freshNext_exposed : (s.freshNext).exposed = s.exposed := rfl
@[simp] theorem State.freshNext_scrubbed : (s.freshNext).scrubbed = s.scrubbed := rfl
@[simp] theorem State.freshNext_ext : (s.freshNext).ext = s.ext := rfl
@[simp] theorem State.freshNext_fns : (s.freshNext).fns = s.fns := rfl
@[simp] theorem State.freshNext_store : (s.freshNext).store = s.store := rfl
@[simp] theorem State.freshNext_cmds : (s.freshNext).cmds = s.cmds := rfl
@[simp] theorem State.freshNext_nextCid : (s.freshNext).nextCid = s.nextCid := rfl
@[simp] theorem State.freshNext_ctxs : (s.freshNext).ctxs = s.ctxs := rfl
@[simp] theorem State.freshNext_live : (s.freshNext).live = s.live := rfl
@[simp] theorem State.freshNext_allocs : (s.freshNext).allocs = s.allocs := rfl
@[simp] theorem State.freshNext_nextObj : (s.freshNext).nextObj = s.nextObj := rfl
@[simp] theorem State.freshNext_tlb : (s.freshNext).tlb = s.tlb := rfl
@[simp] theorem State.freshNext_ats : (s.freshNext).ats = s.ats := rfl
@[simp] theorem State.freshNext_cores : (s.freshNext).cores = s.cores := rfl
@[simp] theorem State.freshNext_groups : (s.freshNext).groups = s.groups := rfl
@[simp] theorem State.freshNext_waiters : (s.freshNext).waiters = s.waiters := rfl
@[simp] theorem State.freshNext_lines : (s.freshNext).lines = s.lines := rfl
@[simp] theorem State.freshNext_dirClock : (s.freshNext).dirClock = s.dirClock := rfl
@[simp] theorem State.freshNext_hides : (s.freshNext).hides = s.hides := rfl
@[simp] theorem State.freshNext_moves : (s.freshNext).moves = s.moves := rfl
@[simp] theorem State.freshNext_mgrMoved : (s.freshNext).mgrMoved = s.mgrMoved := rfl
@[simp] theorem State.freshNext_plans : (s.freshNext).plans = s.plans := rfl
@[simp] theorem State.freshNext_seqs : (s.freshNext).seqs = s.seqs := rfl
@[simp] theorem State.freshNext_pendOrder : (s.freshNext).pendOrder = s.pendOrder := rfl
@[simp] theorem State.freshNext_movers : (s.freshNext).movers = s.movers := rfl
@[simp] theorem State.freshNext_eg : (s.freshNext).eg = s.eg := rfl
@[simp] theorem State.freshNext_wms : (s.freshNext).wms = s.wms := rfl
@[simp] theorem State.freshNext_boxes : (s.freshNext).boxes = s.boxes := rfl
@[simp] theorem State.freshNext_kod : (s.freshNext).kod = s.kod := rfl
@[simp] theorem State.freshNext_ao : (s.freshNext).ao = s.ao := rfl
@[simp] theorem State.freshNext_gov : (s.freshNext).gov = s.gov := rfl
@[simp] theorem State.freshNext_pow : (s.freshNext).pow = s.pow := rfl
@[simp] theorem State.freshNext_engines : (s.freshNext).engines = s.engines := rfl
@[simp] theorem State.freshNext_sports : (s.freshNext).sports = s.sports := rfl
@[simp] theorem State.freshNext_fab : (s.freshNext).fab = s.fab := rfl
@[simp] theorem State.freshNext_out : (s.freshNext).out = s.out := rfl

/-! ## emit -/

@[simp] theorem State.emit_pending (o : Out) : (s.emit o).pending = s.pending := rfl
@[simp] theorem State.emit_btime (o : Out) : (s.emit o).btime = s.btime := rfl
@[simp] theorem State.emit_free (o : Out) : (s.emit o).free = s.free := rfl
@[simp] theorem State.emit_mem (o : Out) : (s.emit o).mem = s.mem := rfl
@[simp] theorem State.emit_exposed (o : Out) : (s.emit o).exposed = s.exposed := rfl
@[simp] theorem State.emit_scrubbed (o : Out) : (s.emit o).scrubbed = s.scrubbed := rfl
@[simp] theorem State.emit_ext (o : Out) : (s.emit o).ext = s.ext := rfl
@[simp] theorem State.emit_fns (o : Out) : (s.emit o).fns = s.fns := rfl
@[simp] theorem State.emit_store (o : Out) : (s.emit o).store = s.store := rfl
@[simp] theorem State.emit_cmds (o : Out) : (s.emit o).cmds = s.cmds := rfl
@[simp] theorem State.emit_nextCid (o : Out) : (s.emit o).nextCid = s.nextCid := rfl
@[simp] theorem State.emit_ctxs (o : Out) : (s.emit o).ctxs = s.ctxs := rfl
@[simp] theorem State.emit_live (o : Out) : (s.emit o).live = s.live := rfl
@[simp] theorem State.emit_allocs (o : Out) : (s.emit o).allocs = s.allocs := rfl
@[simp] theorem State.emit_nextObj (o : Out) : (s.emit o).nextObj = s.nextObj := rfl
@[simp] theorem State.emit_tlb (o : Out) : (s.emit o).tlb = s.tlb := rfl
@[simp] theorem State.emit_ats (o : Out) : (s.emit o).ats = s.ats := rfl
@[simp] theorem State.emit_cores (o : Out) : (s.emit o).cores = s.cores := rfl
@[simp] theorem State.emit_groups (o : Out) : (s.emit o).groups = s.groups := rfl
@[simp] theorem State.emit_waiters (o : Out) : (s.emit o).waiters = s.waiters := rfl
@[simp] theorem State.emit_lines (o : Out) : (s.emit o).lines = s.lines := rfl
@[simp] theorem State.emit_dirClock (o : Out) : (s.emit o).dirClock = s.dirClock := rfl
@[simp] theorem State.emit_hides (o : Out) : (s.emit o).hides = s.hides := rfl
@[simp] theorem State.emit_moves (o : Out) : (s.emit o).moves = s.moves := rfl
@[simp] theorem State.emit_mgrMoved (o : Out) : (s.emit o).mgrMoved = s.mgrMoved := rfl
@[simp] theorem State.emit_plans (o : Out) : (s.emit o).plans = s.plans := rfl
@[simp] theorem State.emit_seqs (o : Out) : (s.emit o).seqs = s.seqs := rfl
@[simp] theorem State.emit_pendOrder (o : Out) : (s.emit o).pendOrder = s.pendOrder := rfl
@[simp] theorem State.emit_movers (o : Out) : (s.emit o).movers = s.movers := rfl
@[simp] theorem State.emit_eg (o : Out) : (s.emit o).eg = s.eg := rfl
@[simp] theorem State.emit_wms (o : Out) : (s.emit o).wms = s.wms := rfl
@[simp] theorem State.emit_boxes (o : Out) : (s.emit o).boxes = s.boxes := rfl
@[simp] theorem State.emit_kod (o : Out) : (s.emit o).kod = s.kod := rfl
@[simp] theorem State.emit_ao (o : Out) : (s.emit o).ao = s.ao := rfl
@[simp] theorem State.emit_gov (o : Out) : (s.emit o).gov = s.gov := rfl
@[simp] theorem State.emit_pow (o : Out) : (s.emit o).pow = s.pow := rfl
@[simp] theorem State.emit_engines (o : Out) : (s.emit o).engines = s.engines := rfl
@[simp] theorem State.emit_sports (o : Out) : (s.emit o).sports = s.sports := rfl
@[simp] theorem State.emit_fab (o : Out) : (s.emit o).fab = s.fab := rfl

/-! ## updHide -/

@[simp] theorem State.updHide_pending (h : Nat) (f : Hide → Hide) : (s.updHide h f).pending = s.pending := rfl
@[simp] theorem State.updHide_btime (h : Nat) (f : Hide → Hide) : (s.updHide h f).btime = s.btime := rfl
@[simp] theorem State.updHide_free (h : Nat) (f : Hide → Hide) : (s.updHide h f).free = s.free := rfl
@[simp] theorem State.updHide_mem (h : Nat) (f : Hide → Hide) : (s.updHide h f).mem = s.mem := rfl
@[simp] theorem State.updHide_exposed (h : Nat) (f : Hide → Hide) : (s.updHide h f).exposed = s.exposed := rfl
@[simp] theorem State.updHide_scrubbed (h : Nat) (f : Hide → Hide) : (s.updHide h f).scrubbed = s.scrubbed := rfl
@[simp] theorem State.updHide_ext (h : Nat) (f : Hide → Hide) : (s.updHide h f).ext = s.ext := rfl
@[simp] theorem State.updHide_fns (h : Nat) (f : Hide → Hide) : (s.updHide h f).fns = s.fns := rfl
@[simp] theorem State.updHide_store (h : Nat) (f : Hide → Hide) : (s.updHide h f).store = s.store := rfl
@[simp] theorem State.updHide_cmds (h : Nat) (f : Hide → Hide) : (s.updHide h f).cmds = s.cmds := rfl
@[simp] theorem State.updHide_nextCid (h : Nat) (f : Hide → Hide) : (s.updHide h f).nextCid = s.nextCid := rfl
@[simp] theorem State.updHide_ctxs (h : Nat) (f : Hide → Hide) : (s.updHide h f).ctxs = s.ctxs := rfl
@[simp] theorem State.updHide_live (h : Nat) (f : Hide → Hide) : (s.updHide h f).live = s.live := rfl
@[simp] theorem State.updHide_allocs (h : Nat) (f : Hide → Hide) : (s.updHide h f).allocs = s.allocs := rfl
@[simp] theorem State.updHide_nextObj (h : Nat) (f : Hide → Hide) : (s.updHide h f).nextObj = s.nextObj := rfl
@[simp] theorem State.updHide_tlb (h : Nat) (f : Hide → Hide) : (s.updHide h f).tlb = s.tlb := rfl
@[simp] theorem State.updHide_ats (h : Nat) (f : Hide → Hide) : (s.updHide h f).ats = s.ats := rfl
@[simp] theorem State.updHide_cores (h : Nat) (f : Hide → Hide) : (s.updHide h f).cores = s.cores := rfl
@[simp] theorem State.updHide_groups (h : Nat) (f : Hide → Hide) : (s.updHide h f).groups = s.groups := rfl
@[simp] theorem State.updHide_waiters (h : Nat) (f : Hide → Hide) : (s.updHide h f).waiters = s.waiters := rfl
@[simp] theorem State.updHide_lines (h : Nat) (f : Hide → Hide) : (s.updHide h f).lines = s.lines := rfl
@[simp] theorem State.updHide_dirClock (h : Nat) (f : Hide → Hide) : (s.updHide h f).dirClock = s.dirClock := rfl
@[simp] theorem State.updHide_moves (h : Nat) (f : Hide → Hide) : (s.updHide h f).moves = s.moves := rfl
@[simp] theorem State.updHide_mgrMoved (h : Nat) (f : Hide → Hide) : (s.updHide h f).mgrMoved = s.mgrMoved := rfl
@[simp] theorem State.updHide_plans (h : Nat) (f : Hide → Hide) : (s.updHide h f).plans = s.plans := rfl
@[simp] theorem State.updHide_seqs (h : Nat) (f : Hide → Hide) : (s.updHide h f).seqs = s.seqs := rfl
@[simp] theorem State.updHide_pendOrder (h : Nat) (f : Hide → Hide) : (s.updHide h f).pendOrder = s.pendOrder := rfl
@[simp] theorem State.updHide_movers (h : Nat) (f : Hide → Hide) : (s.updHide h f).movers = s.movers := rfl
@[simp] theorem State.updHide_eg (h : Nat) (f : Hide → Hide) : (s.updHide h f).eg = s.eg := rfl
@[simp] theorem State.updHide_wms (h : Nat) (f : Hide → Hide) : (s.updHide h f).wms = s.wms := rfl
@[simp] theorem State.updHide_boxes (h : Nat) (f : Hide → Hide) : (s.updHide h f).boxes = s.boxes := rfl
@[simp] theorem State.updHide_kod (h : Nat) (f : Hide → Hide) : (s.updHide h f).kod = s.kod := rfl
@[simp] theorem State.updHide_ao (h : Nat) (f : Hide → Hide) : (s.updHide h f).ao = s.ao := rfl
@[simp] theorem State.updHide_gov (h : Nat) (f : Hide → Hide) : (s.updHide h f).gov = s.gov := rfl
@[simp] theorem State.updHide_pow (h : Nat) (f : Hide → Hide) : (s.updHide h f).pow = s.pow := rfl
@[simp] theorem State.updHide_engines (h : Nat) (f : Hide → Hide) : (s.updHide h f).engines = s.engines := rfl
@[simp] theorem State.updHide_sports (h : Nat) (f : Hide → Hide) : (s.updHide h f).sports = s.sports := rfl
@[simp] theorem State.updHide_fab (h : Nat) (f : Hide → Hide) : (s.updHide h f).fab = s.fab := rfl
@[simp] theorem State.updHide_out (h : Nat) (f : Hide → Hide) : (s.updHide h f).out = s.out := rfl

/-! ## updFn -/

@[simp] theorem State.updFn_pending (n : Nat) (f : Fn → Fn) : (s.updFn n f).pending = s.pending := rfl
@[simp] theorem State.updFn_btime (n : Nat) (f : Fn → Fn) : (s.updFn n f).btime = s.btime := rfl
@[simp] theorem State.updFn_free (n : Nat) (f : Fn → Fn) : (s.updFn n f).free = s.free := rfl
@[simp] theorem State.updFn_mem (n : Nat) (f : Fn → Fn) : (s.updFn n f).mem = s.mem := rfl
@[simp] theorem State.updFn_exposed (n : Nat) (f : Fn → Fn) : (s.updFn n f).exposed = s.exposed := rfl
@[simp] theorem State.updFn_scrubbed (n : Nat) (f : Fn → Fn) : (s.updFn n f).scrubbed = s.scrubbed := rfl
@[simp] theorem State.updFn_ext (n : Nat) (f : Fn → Fn) : (s.updFn n f).ext = s.ext := rfl
@[simp] theorem State.updFn_store (n : Nat) (f : Fn → Fn) : (s.updFn n f).store = s.store := rfl
@[simp] theorem State.updFn_cmds (n : Nat) (f : Fn → Fn) : (s.updFn n f).cmds = s.cmds := rfl
@[simp] theorem State.updFn_nextCid (n : Nat) (f : Fn → Fn) : (s.updFn n f).nextCid = s.nextCid := rfl
@[simp] theorem State.updFn_ctxs (n : Nat) (f : Fn → Fn) : (s.updFn n f).ctxs = s.ctxs := rfl
@[simp] theorem State.updFn_live (n : Nat) (f : Fn → Fn) : (s.updFn n f).live = s.live := rfl
@[simp] theorem State.updFn_allocs (n : Nat) (f : Fn → Fn) : (s.updFn n f).allocs = s.allocs := rfl
@[simp] theorem State.updFn_nextObj (n : Nat) (f : Fn → Fn) : (s.updFn n f).nextObj = s.nextObj := rfl
@[simp] theorem State.updFn_tlb (n : Nat) (f : Fn → Fn) : (s.updFn n f).tlb = s.tlb := rfl
@[simp] theorem State.updFn_ats (n : Nat) (f : Fn → Fn) : (s.updFn n f).ats = s.ats := rfl
@[simp] theorem State.updFn_cores (n : Nat) (f : Fn → Fn) : (s.updFn n f).cores = s.cores := rfl
@[simp] theorem State.updFn_groups (n : Nat) (f : Fn → Fn) : (s.updFn n f).groups = s.groups := rfl
@[simp] theorem State.updFn_waiters (n : Nat) (f : Fn → Fn) : (s.updFn n f).waiters = s.waiters := rfl
@[simp] theorem State.updFn_lines (n : Nat) (f : Fn → Fn) : (s.updFn n f).lines = s.lines := rfl
@[simp] theorem State.updFn_dirClock (n : Nat) (f : Fn → Fn) : (s.updFn n f).dirClock = s.dirClock := rfl
@[simp] theorem State.updFn_hides (n : Nat) (f : Fn → Fn) : (s.updFn n f).hides = s.hides := rfl
@[simp] theorem State.updFn_moves (n : Nat) (f : Fn → Fn) : (s.updFn n f).moves = s.moves := rfl
@[simp] theorem State.updFn_mgrMoved (n : Nat) (f : Fn → Fn) : (s.updFn n f).mgrMoved = s.mgrMoved := rfl
@[simp] theorem State.updFn_plans (n : Nat) (f : Fn → Fn) : (s.updFn n f).plans = s.plans := rfl
@[simp] theorem State.updFn_seqs (n : Nat) (f : Fn → Fn) : (s.updFn n f).seqs = s.seqs := rfl
@[simp] theorem State.updFn_pendOrder (n : Nat) (f : Fn → Fn) : (s.updFn n f).pendOrder = s.pendOrder := rfl
@[simp] theorem State.updFn_movers (n : Nat) (f : Fn → Fn) : (s.updFn n f).movers = s.movers := rfl
@[simp] theorem State.updFn_eg (n : Nat) (f : Fn → Fn) : (s.updFn n f).eg = s.eg := rfl
@[simp] theorem State.updFn_wms (n : Nat) (f : Fn → Fn) : (s.updFn n f).wms = s.wms := rfl
@[simp] theorem State.updFn_boxes (n : Nat) (f : Fn → Fn) : (s.updFn n f).boxes = s.boxes := rfl
@[simp] theorem State.updFn_kod (n : Nat) (f : Fn → Fn) : (s.updFn n f).kod = s.kod := rfl
@[simp] theorem State.updFn_ao (n : Nat) (f : Fn → Fn) : (s.updFn n f).ao = s.ao := rfl
@[simp] theorem State.updFn_gov (n : Nat) (f : Fn → Fn) : (s.updFn n f).gov = s.gov := rfl
@[simp] theorem State.updFn_pow (n : Nat) (f : Fn → Fn) : (s.updFn n f).pow = s.pow := rfl
@[simp] theorem State.updFn_engines (n : Nat) (f : Fn → Fn) : (s.updFn n f).engines = s.engines := rfl
@[simp] theorem State.updFn_sports (n : Nat) (f : Fn → Fn) : (s.updFn n f).sports = s.sports := rfl
@[simp] theorem State.updFn_fab (n : Nat) (f : Fn → Fn) : (s.updFn n f).fab = s.fab := rfl
@[simp] theorem State.updFn_out (n : Nat) (f : Fn → Fn) : (s.updFn n f).out = s.out := rfl

/-! ## updQueue -/

@[simp] theorem State.updQueue_pending (n q : Nat) (f : Queue → Queue) : (s.updQueue n q f).pending = s.pending := rfl
@[simp] theorem State.updQueue_btime (n q : Nat) (f : Queue → Queue) : (s.updQueue n q f).btime = s.btime := rfl
@[simp] theorem State.updQueue_free (n q : Nat) (f : Queue → Queue) : (s.updQueue n q f).free = s.free := rfl
@[simp] theorem State.updQueue_mem (n q : Nat) (f : Queue → Queue) : (s.updQueue n q f).mem = s.mem := rfl
@[simp] theorem State.updQueue_exposed (n q : Nat) (f : Queue → Queue) : (s.updQueue n q f).exposed = s.exposed := rfl
@[simp] theorem State.updQueue_scrubbed (n q : Nat) (f : Queue → Queue) : (s.updQueue n q f).scrubbed = s.scrubbed := rfl
@[simp] theorem State.updQueue_ext (n q : Nat) (f : Queue → Queue) : (s.updQueue n q f).ext = s.ext := rfl
@[simp] theorem State.updQueue_store (n q : Nat) (f : Queue → Queue) : (s.updQueue n q f).store = s.store := rfl
@[simp] theorem State.updQueue_cmds (n q : Nat) (f : Queue → Queue) : (s.updQueue n q f).cmds = s.cmds := rfl
@[simp] theorem State.updQueue_nextCid (n q : Nat) (f : Queue → Queue) : (s.updQueue n q f).nextCid = s.nextCid := rfl
@[simp] theorem State.updQueue_ctxs (n q : Nat) (f : Queue → Queue) : (s.updQueue n q f).ctxs = s.ctxs := rfl
@[simp] theorem State.updQueue_live (n q : Nat) (f : Queue → Queue) : (s.updQueue n q f).live = s.live := rfl
@[simp] theorem State.updQueue_allocs (n q : Nat) (f : Queue → Queue) : (s.updQueue n q f).allocs = s.allocs := rfl
@[simp] theorem State.updQueue_nextObj (n q : Nat) (f : Queue → Queue) : (s.updQueue n q f).nextObj = s.nextObj := rfl
@[simp] theorem State.updQueue_tlb (n q : Nat) (f : Queue → Queue) : (s.updQueue n q f).tlb = s.tlb := rfl
@[simp] theorem State.updQueue_ats (n q : Nat) (f : Queue → Queue) : (s.updQueue n q f).ats = s.ats := rfl
@[simp] theorem State.updQueue_cores (n q : Nat) (f : Queue → Queue) : (s.updQueue n q f).cores = s.cores := rfl
@[simp] theorem State.updQueue_groups (n q : Nat) (f : Queue → Queue) : (s.updQueue n q f).groups = s.groups := rfl
@[simp] theorem State.updQueue_waiters (n q : Nat) (f : Queue → Queue) : (s.updQueue n q f).waiters = s.waiters := rfl
@[simp] theorem State.updQueue_lines (n q : Nat) (f : Queue → Queue) : (s.updQueue n q f).lines = s.lines := rfl
@[simp] theorem State.updQueue_dirClock (n q : Nat) (f : Queue → Queue) : (s.updQueue n q f).dirClock = s.dirClock := rfl
@[simp] theorem State.updQueue_hides (n q : Nat) (f : Queue → Queue) : (s.updQueue n q f).hides = s.hides := rfl
@[simp] theorem State.updQueue_moves (n q : Nat) (f : Queue → Queue) : (s.updQueue n q f).moves = s.moves := rfl
@[simp] theorem State.updQueue_mgrMoved (n q : Nat) (f : Queue → Queue) : (s.updQueue n q f).mgrMoved = s.mgrMoved := rfl
@[simp] theorem State.updQueue_plans (n q : Nat) (f : Queue → Queue) : (s.updQueue n q f).plans = s.plans := rfl
@[simp] theorem State.updQueue_seqs (n q : Nat) (f : Queue → Queue) : (s.updQueue n q f).seqs = s.seqs := rfl
@[simp] theorem State.updQueue_pendOrder (n q : Nat) (f : Queue → Queue) : (s.updQueue n q f).pendOrder = s.pendOrder := rfl
@[simp] theorem State.updQueue_movers (n q : Nat) (f : Queue → Queue) : (s.updQueue n q f).movers = s.movers := rfl
@[simp] theorem State.updQueue_eg (n q : Nat) (f : Queue → Queue) : (s.updQueue n q f).eg = s.eg := rfl
@[simp] theorem State.updQueue_wms (n q : Nat) (f : Queue → Queue) : (s.updQueue n q f).wms = s.wms := rfl
@[simp] theorem State.updQueue_boxes (n q : Nat) (f : Queue → Queue) : (s.updQueue n q f).boxes = s.boxes := rfl
@[simp] theorem State.updQueue_kod (n q : Nat) (f : Queue → Queue) : (s.updQueue n q f).kod = s.kod := rfl
@[simp] theorem State.updQueue_ao (n q : Nat) (f : Queue → Queue) : (s.updQueue n q f).ao = s.ao := rfl
@[simp] theorem State.updQueue_gov (n q : Nat) (f : Queue → Queue) : (s.updQueue n q f).gov = s.gov := rfl
@[simp] theorem State.updQueue_pow (n q : Nat) (f : Queue → Queue) : (s.updQueue n q f).pow = s.pow := rfl
@[simp] theorem State.updQueue_engines (n q : Nat) (f : Queue → Queue) : (s.updQueue n q f).engines = s.engines := rfl
@[simp] theorem State.updQueue_sports (n q : Nat) (f : Queue → Queue) : (s.updQueue n q f).sports = s.sports := rfl
@[simp] theorem State.updQueue_fab (n q : Nat) (f : Queue → Queue) : (s.updQueue n q f).fab = s.fab := rfl
@[simp] theorem State.updQueue_out (n q : Nat) (f : Queue → Queue) : (s.updQueue n q f).out = s.out := rfl

/-! ## updCtx -/

@[simp] theorem State.updCtx_pending (c : Nat) (f : Ctx → Ctx) : (s.updCtx c f).pending = s.pending := rfl
@[simp] theorem State.updCtx_btime (c : Nat) (f : Ctx → Ctx) : (s.updCtx c f).btime = s.btime := rfl
@[simp] theorem State.updCtx_free (c : Nat) (f : Ctx → Ctx) : (s.updCtx c f).free = s.free := rfl
@[simp] theorem State.updCtx_mem (c : Nat) (f : Ctx → Ctx) : (s.updCtx c f).mem = s.mem := rfl
@[simp] theorem State.updCtx_exposed (c : Nat) (f : Ctx → Ctx) : (s.updCtx c f).exposed = s.exposed := rfl
@[simp] theorem State.updCtx_scrubbed (c : Nat) (f : Ctx → Ctx) : (s.updCtx c f).scrubbed = s.scrubbed := rfl
@[simp] theorem State.updCtx_ext (c : Nat) (f : Ctx → Ctx) : (s.updCtx c f).ext = s.ext := rfl
@[simp] theorem State.updCtx_fns (c : Nat) (f : Ctx → Ctx) : (s.updCtx c f).fns = s.fns := rfl
@[simp] theorem State.updCtx_store (c : Nat) (f : Ctx → Ctx) : (s.updCtx c f).store = s.store := rfl
@[simp] theorem State.updCtx_cmds (c : Nat) (f : Ctx → Ctx) : (s.updCtx c f).cmds = s.cmds := rfl
@[simp] theorem State.updCtx_nextCid (c : Nat) (f : Ctx → Ctx) : (s.updCtx c f).nextCid = s.nextCid := rfl
@[simp] theorem State.updCtx_live (c : Nat) (f : Ctx → Ctx) : (s.updCtx c f).live = s.live := rfl
@[simp] theorem State.updCtx_allocs (c : Nat) (f : Ctx → Ctx) : (s.updCtx c f).allocs = s.allocs := rfl
@[simp] theorem State.updCtx_nextObj (c : Nat) (f : Ctx → Ctx) : (s.updCtx c f).nextObj = s.nextObj := rfl
@[simp] theorem State.updCtx_tlb (c : Nat) (f : Ctx → Ctx) : (s.updCtx c f).tlb = s.tlb := rfl
@[simp] theorem State.updCtx_ats (c : Nat) (f : Ctx → Ctx) : (s.updCtx c f).ats = s.ats := rfl
@[simp] theorem State.updCtx_cores (c : Nat) (f : Ctx → Ctx) : (s.updCtx c f).cores = s.cores := rfl
@[simp] theorem State.updCtx_groups (c : Nat) (f : Ctx → Ctx) : (s.updCtx c f).groups = s.groups := rfl
@[simp] theorem State.updCtx_waiters (c : Nat) (f : Ctx → Ctx) : (s.updCtx c f).waiters = s.waiters := rfl
@[simp] theorem State.updCtx_lines (c : Nat) (f : Ctx → Ctx) : (s.updCtx c f).lines = s.lines := rfl
@[simp] theorem State.updCtx_dirClock (c : Nat) (f : Ctx → Ctx) : (s.updCtx c f).dirClock = s.dirClock := rfl
@[simp] theorem State.updCtx_hides (c : Nat) (f : Ctx → Ctx) : (s.updCtx c f).hides = s.hides := rfl
@[simp] theorem State.updCtx_moves (c : Nat) (f : Ctx → Ctx) : (s.updCtx c f).moves = s.moves := rfl
@[simp] theorem State.updCtx_mgrMoved (c : Nat) (f : Ctx → Ctx) : (s.updCtx c f).mgrMoved = s.mgrMoved := rfl
@[simp] theorem State.updCtx_plans (c : Nat) (f : Ctx → Ctx) : (s.updCtx c f).plans = s.plans := rfl
@[simp] theorem State.updCtx_seqs (c : Nat) (f : Ctx → Ctx) : (s.updCtx c f).seqs = s.seqs := rfl
@[simp] theorem State.updCtx_pendOrder (c : Nat) (f : Ctx → Ctx) : (s.updCtx c f).pendOrder = s.pendOrder := rfl
@[simp] theorem State.updCtx_movers (c : Nat) (f : Ctx → Ctx) : (s.updCtx c f).movers = s.movers := rfl
@[simp] theorem State.updCtx_eg (c : Nat) (f : Ctx → Ctx) : (s.updCtx c f).eg = s.eg := rfl
@[simp] theorem State.updCtx_wms (c : Nat) (f : Ctx → Ctx) : (s.updCtx c f).wms = s.wms := rfl
@[simp] theorem State.updCtx_boxes (c : Nat) (f : Ctx → Ctx) : (s.updCtx c f).boxes = s.boxes := rfl
@[simp] theorem State.updCtx_kod (c : Nat) (f : Ctx → Ctx) : (s.updCtx c f).kod = s.kod := rfl
@[simp] theorem State.updCtx_ao (c : Nat) (f : Ctx → Ctx) : (s.updCtx c f).ao = s.ao := rfl
@[simp] theorem State.updCtx_gov (c : Nat) (f : Ctx → Ctx) : (s.updCtx c f).gov = s.gov := rfl
@[simp] theorem State.updCtx_pow (c : Nat) (f : Ctx → Ctx) : (s.updCtx c f).pow = s.pow := rfl
@[simp] theorem State.updCtx_engines (c : Nat) (f : Ctx → Ctx) : (s.updCtx c f).engines = s.engines := rfl
@[simp] theorem State.updCtx_sports (c : Nat) (f : Ctx → Ctx) : (s.updCtx c f).sports = s.sports := rfl
@[simp] theorem State.updCtx_fab (c : Nat) (f : Ctx → Ctx) : (s.updCtx c f).fab = s.fab := rfl
@[simp] theorem State.updCtx_out (c : Nat) (f : Ctx → Ctx) : (s.updCtx c f).out = s.out := rfl

/-! ## updCmd -/

@[simp] theorem State.updCmd_pending (cid : Nat) (f : Cmd → Cmd) : (s.updCmd cid f).pending = s.pending := rfl
@[simp] theorem State.updCmd_btime (cid : Nat) (f : Cmd → Cmd) : (s.updCmd cid f).btime = s.btime := rfl
@[simp] theorem State.updCmd_free (cid : Nat) (f : Cmd → Cmd) : (s.updCmd cid f).free = s.free := rfl
@[simp] theorem State.updCmd_mem (cid : Nat) (f : Cmd → Cmd) : (s.updCmd cid f).mem = s.mem := rfl
@[simp] theorem State.updCmd_exposed (cid : Nat) (f : Cmd → Cmd) : (s.updCmd cid f).exposed = s.exposed := rfl
@[simp] theorem State.updCmd_scrubbed (cid : Nat) (f : Cmd → Cmd) : (s.updCmd cid f).scrubbed = s.scrubbed := rfl
@[simp] theorem State.updCmd_ext (cid : Nat) (f : Cmd → Cmd) : (s.updCmd cid f).ext = s.ext := rfl
@[simp] theorem State.updCmd_fns (cid : Nat) (f : Cmd → Cmd) : (s.updCmd cid f).fns = s.fns := rfl
@[simp] theorem State.updCmd_store (cid : Nat) (f : Cmd → Cmd) : (s.updCmd cid f).store = s.store := rfl
@[simp] theorem State.updCmd_nextCid (cid : Nat) (f : Cmd → Cmd) : (s.updCmd cid f).nextCid = s.nextCid := rfl
@[simp] theorem State.updCmd_ctxs (cid : Nat) (f : Cmd → Cmd) : (s.updCmd cid f).ctxs = s.ctxs := rfl
@[simp] theorem State.updCmd_live (cid : Nat) (f : Cmd → Cmd) : (s.updCmd cid f).live = s.live := rfl
@[simp] theorem State.updCmd_allocs (cid : Nat) (f : Cmd → Cmd) : (s.updCmd cid f).allocs = s.allocs := rfl
@[simp] theorem State.updCmd_nextObj (cid : Nat) (f : Cmd → Cmd) : (s.updCmd cid f).nextObj = s.nextObj := rfl
@[simp] theorem State.updCmd_tlb (cid : Nat) (f : Cmd → Cmd) : (s.updCmd cid f).tlb = s.tlb := rfl
@[simp] theorem State.updCmd_ats (cid : Nat) (f : Cmd → Cmd) : (s.updCmd cid f).ats = s.ats := rfl
@[simp] theorem State.updCmd_cores (cid : Nat) (f : Cmd → Cmd) : (s.updCmd cid f).cores = s.cores := rfl
@[simp] theorem State.updCmd_groups (cid : Nat) (f : Cmd → Cmd) : (s.updCmd cid f).groups = s.groups := rfl
@[simp] theorem State.updCmd_waiters (cid : Nat) (f : Cmd → Cmd) : (s.updCmd cid f).waiters = s.waiters := rfl
@[simp] theorem State.updCmd_lines (cid : Nat) (f : Cmd → Cmd) : (s.updCmd cid f).lines = s.lines := rfl
@[simp] theorem State.updCmd_dirClock (cid : Nat) (f : Cmd → Cmd) : (s.updCmd cid f).dirClock = s.dirClock := rfl
@[simp] theorem State.updCmd_hides (cid : Nat) (f : Cmd → Cmd) : (s.updCmd cid f).hides = s.hides := rfl
@[simp] theorem State.updCmd_moves (cid : Nat) (f : Cmd → Cmd) : (s.updCmd cid f).moves = s.moves := rfl
@[simp] theorem State.updCmd_mgrMoved (cid : Nat) (f : Cmd → Cmd) : (s.updCmd cid f).mgrMoved = s.mgrMoved := rfl
@[simp] theorem State.updCmd_plans (cid : Nat) (f : Cmd → Cmd) : (s.updCmd cid f).plans = s.plans := rfl
@[simp] theorem State.updCmd_seqs (cid : Nat) (f : Cmd → Cmd) : (s.updCmd cid f).seqs = s.seqs := rfl
@[simp] theorem State.updCmd_pendOrder (cid : Nat) (f : Cmd → Cmd) : (s.updCmd cid f).pendOrder = s.pendOrder := rfl
@[simp] theorem State.updCmd_movers (cid : Nat) (f : Cmd → Cmd) : (s.updCmd cid f).movers = s.movers := rfl
@[simp] theorem State.updCmd_eg (cid : Nat) (f : Cmd → Cmd) : (s.updCmd cid f).eg = s.eg := rfl
@[simp] theorem State.updCmd_wms (cid : Nat) (f : Cmd → Cmd) : (s.updCmd cid f).wms = s.wms := rfl
@[simp] theorem State.updCmd_boxes (cid : Nat) (f : Cmd → Cmd) : (s.updCmd cid f).boxes = s.boxes := rfl
@[simp] theorem State.updCmd_kod (cid : Nat) (f : Cmd → Cmd) : (s.updCmd cid f).kod = s.kod := rfl
@[simp] theorem State.updCmd_ao (cid : Nat) (f : Cmd → Cmd) : (s.updCmd cid f).ao = s.ao := rfl
@[simp] theorem State.updCmd_gov (cid : Nat) (f : Cmd → Cmd) : (s.updCmd cid f).gov = s.gov := rfl
@[simp] theorem State.updCmd_pow (cid : Nat) (f : Cmd → Cmd) : (s.updCmd cid f).pow = s.pow := rfl
@[simp] theorem State.updCmd_engines (cid : Nat) (f : Cmd → Cmd) : (s.updCmd cid f).engines = s.engines := rfl
@[simp] theorem State.updCmd_sports (cid : Nat) (f : Cmd → Cmd) : (s.updCmd cid f).sports = s.sports := rfl
@[simp] theorem State.updCmd_fab (cid : Nat) (f : Cmd → Cmd) : (s.updCmd cid f).fab = s.fab := rfl
@[simp] theorem State.updCmd_out (cid : Nat) (f : Cmd → Cmd) : (s.updCmd cid f).out = s.out := rfl

/-! ## dropCmd -/

@[simp] theorem State.dropCmd_pending (cid : Nat) : (s.dropCmd cid).pending = s.pending := rfl
@[simp] theorem State.dropCmd_btime (cid : Nat) : (s.dropCmd cid).btime = s.btime := rfl
@[simp] theorem State.dropCmd_free (cid : Nat) : (s.dropCmd cid).free = s.free := rfl
@[simp] theorem State.dropCmd_mem (cid : Nat) : (s.dropCmd cid).mem = s.mem := rfl
@[simp] theorem State.dropCmd_exposed (cid : Nat) : (s.dropCmd cid).exposed = s.exposed := rfl
@[simp] theorem State.dropCmd_scrubbed (cid : Nat) : (s.dropCmd cid).scrubbed = s.scrubbed := rfl
@[simp] theorem State.dropCmd_ext (cid : Nat) : (s.dropCmd cid).ext = s.ext := rfl
@[simp] theorem State.dropCmd_fns (cid : Nat) : (s.dropCmd cid).fns = s.fns := rfl
@[simp] theorem State.dropCmd_store (cid : Nat) : (s.dropCmd cid).store = s.store := rfl
@[simp] theorem State.dropCmd_nextCid (cid : Nat) : (s.dropCmd cid).nextCid = s.nextCid := rfl
@[simp] theorem State.dropCmd_ctxs (cid : Nat) : (s.dropCmd cid).ctxs = s.ctxs := rfl
@[simp] theorem State.dropCmd_live (cid : Nat) : (s.dropCmd cid).live = s.live := rfl
@[simp] theorem State.dropCmd_allocs (cid : Nat) : (s.dropCmd cid).allocs = s.allocs := rfl
@[simp] theorem State.dropCmd_nextObj (cid : Nat) : (s.dropCmd cid).nextObj = s.nextObj := rfl
@[simp] theorem State.dropCmd_tlb (cid : Nat) : (s.dropCmd cid).tlb = s.tlb := rfl
@[simp] theorem State.dropCmd_ats (cid : Nat) : (s.dropCmd cid).ats = s.ats := rfl
@[simp] theorem State.dropCmd_cores (cid : Nat) : (s.dropCmd cid).cores = s.cores := rfl
@[simp] theorem State.dropCmd_groups (cid : Nat) : (s.dropCmd cid).groups = s.groups := rfl
@[simp] theorem State.dropCmd_waiters (cid : Nat) : (s.dropCmd cid).waiters = s.waiters := rfl
@[simp] theorem State.dropCmd_lines (cid : Nat) : (s.dropCmd cid).lines = s.lines := rfl
@[simp] theorem State.dropCmd_dirClock (cid : Nat) : (s.dropCmd cid).dirClock = s.dirClock := rfl
@[simp] theorem State.dropCmd_hides (cid : Nat) : (s.dropCmd cid).hides = s.hides := rfl
@[simp] theorem State.dropCmd_moves (cid : Nat) : (s.dropCmd cid).moves = s.moves := rfl
@[simp] theorem State.dropCmd_mgrMoved (cid : Nat) : (s.dropCmd cid).mgrMoved = s.mgrMoved := rfl
@[simp] theorem State.dropCmd_plans (cid : Nat) : (s.dropCmd cid).plans = s.plans := rfl
@[simp] theorem State.dropCmd_seqs (cid : Nat) : (s.dropCmd cid).seqs = s.seqs := rfl
@[simp] theorem State.dropCmd_pendOrder (cid : Nat) : (s.dropCmd cid).pendOrder = s.pendOrder := rfl
@[simp] theorem State.dropCmd_movers (cid : Nat) : (s.dropCmd cid).movers = s.movers := rfl
@[simp] theorem State.dropCmd_eg (cid : Nat) : (s.dropCmd cid).eg = s.eg := rfl
@[simp] theorem State.dropCmd_wms (cid : Nat) : (s.dropCmd cid).wms = s.wms := rfl
@[simp] theorem State.dropCmd_boxes (cid : Nat) : (s.dropCmd cid).boxes = s.boxes := rfl
@[simp] theorem State.dropCmd_kod (cid : Nat) : (s.dropCmd cid).kod = s.kod := rfl
@[simp] theorem State.dropCmd_ao (cid : Nat) : (s.dropCmd cid).ao = s.ao := rfl
@[simp] theorem State.dropCmd_gov (cid : Nat) : (s.dropCmd cid).gov = s.gov := rfl
@[simp] theorem State.dropCmd_pow (cid : Nat) : (s.dropCmd cid).pow = s.pow := rfl
@[simp] theorem State.dropCmd_engines (cid : Nat) : (s.dropCmd cid).engines = s.engines := rfl
@[simp] theorem State.dropCmd_sports (cid : Nat) : (s.dropCmd cid).sports = s.sports := rfl
@[simp] theorem State.dropCmd_fab (cid : Nat) : (s.dropCmd cid).fab = s.fab := rfl
@[simp] theorem State.dropCmd_out (cid : Nat) : (s.dropCmd cid).out = s.out := rfl

/-! ## updCore -/

@[simp] theorem State.updCore_pending (i : Nat) (f : Core → Core) : (s.updCore i f).pending = s.pending := rfl
@[simp] theorem State.updCore_btime (i : Nat) (f : Core → Core) : (s.updCore i f).btime = s.btime := rfl
@[simp] theorem State.updCore_free (i : Nat) (f : Core → Core) : (s.updCore i f).free = s.free := rfl
@[simp] theorem State.updCore_mem (i : Nat) (f : Core → Core) : (s.updCore i f).mem = s.mem := rfl
@[simp] theorem State.updCore_exposed (i : Nat) (f : Core → Core) : (s.updCore i f).exposed = s.exposed := rfl
@[simp] theorem State.updCore_scrubbed (i : Nat) (f : Core → Core) : (s.updCore i f).scrubbed = s.scrubbed := rfl
@[simp] theorem State.updCore_ext (i : Nat) (f : Core → Core) : (s.updCore i f).ext = s.ext := rfl
@[simp] theorem State.updCore_fns (i : Nat) (f : Core → Core) : (s.updCore i f).fns = s.fns := rfl
@[simp] theorem State.updCore_store (i : Nat) (f : Core → Core) : (s.updCore i f).store = s.store := rfl
@[simp] theorem State.updCore_cmds (i : Nat) (f : Core → Core) : (s.updCore i f).cmds = s.cmds := rfl
@[simp] theorem State.updCore_nextCid (i : Nat) (f : Core → Core) : (s.updCore i f).nextCid = s.nextCid := rfl
@[simp] theorem State.updCore_ctxs (i : Nat) (f : Core → Core) : (s.updCore i f).ctxs = s.ctxs := rfl
@[simp] theorem State.updCore_live (i : Nat) (f : Core → Core) : (s.updCore i f).live = s.live := rfl
@[simp] theorem State.updCore_allocs (i : Nat) (f : Core → Core) : (s.updCore i f).allocs = s.allocs := rfl
@[simp] theorem State.updCore_nextObj (i : Nat) (f : Core → Core) : (s.updCore i f).nextObj = s.nextObj := rfl
@[simp] theorem State.updCore_tlb (i : Nat) (f : Core → Core) : (s.updCore i f).tlb = s.tlb := rfl
@[simp] theorem State.updCore_ats (i : Nat) (f : Core → Core) : (s.updCore i f).ats = s.ats := rfl
@[simp] theorem State.updCore_groups (i : Nat) (f : Core → Core) : (s.updCore i f).groups = s.groups := rfl
@[simp] theorem State.updCore_waiters (i : Nat) (f : Core → Core) : (s.updCore i f).waiters = s.waiters := rfl
@[simp] theorem State.updCore_lines (i : Nat) (f : Core → Core) : (s.updCore i f).lines = s.lines := rfl
@[simp] theorem State.updCore_dirClock (i : Nat) (f : Core → Core) : (s.updCore i f).dirClock = s.dirClock := rfl
@[simp] theorem State.updCore_hides (i : Nat) (f : Core → Core) : (s.updCore i f).hides = s.hides := rfl
@[simp] theorem State.updCore_moves (i : Nat) (f : Core → Core) : (s.updCore i f).moves = s.moves := rfl
@[simp] theorem State.updCore_mgrMoved (i : Nat) (f : Core → Core) : (s.updCore i f).mgrMoved = s.mgrMoved := rfl
@[simp] theorem State.updCore_plans (i : Nat) (f : Core → Core) : (s.updCore i f).plans = s.plans := rfl
@[simp] theorem State.updCore_seqs (i : Nat) (f : Core → Core) : (s.updCore i f).seqs = s.seqs := rfl
@[simp] theorem State.updCore_pendOrder (i : Nat) (f : Core → Core) : (s.updCore i f).pendOrder = s.pendOrder := rfl
@[simp] theorem State.updCore_movers (i : Nat) (f : Core → Core) : (s.updCore i f).movers = s.movers := rfl
@[simp] theorem State.updCore_eg (i : Nat) (f : Core → Core) : (s.updCore i f).eg = s.eg := rfl
@[simp] theorem State.updCore_wms (i : Nat) (f : Core → Core) : (s.updCore i f).wms = s.wms := rfl
@[simp] theorem State.updCore_boxes (i : Nat) (f : Core → Core) : (s.updCore i f).boxes = s.boxes := rfl
@[simp] theorem State.updCore_kod (i : Nat) (f : Core → Core) : (s.updCore i f).kod = s.kod := rfl
@[simp] theorem State.updCore_ao (i : Nat) (f : Core → Core) : (s.updCore i f).ao = s.ao := rfl
@[simp] theorem State.updCore_gov (i : Nat) (f : Core → Core) : (s.updCore i f).gov = s.gov := rfl
@[simp] theorem State.updCore_pow (i : Nat) (f : Core → Core) : (s.updCore i f).pow = s.pow := rfl
@[simp] theorem State.updCore_engines (i : Nat) (f : Core → Core) : (s.updCore i f).engines = s.engines := rfl
@[simp] theorem State.updCore_sports (i : Nat) (f : Core → Core) : (s.updCore i f).sports = s.sports := rfl
@[simp] theorem State.updCore_fab (i : Nat) (f : Core → Core) : (s.updCore i f).fab = s.fab := rfl
@[simp] theorem State.updCore_out (i : Nat) (f : Core → Core) : (s.updCore i f).out = s.out := rfl

/-! ## msix -/

@[simp] theorem State.msix_pending (n v : Nat) : (s.msix n v).pending = s.pending := rfl
@[simp] theorem State.msix_btime (n v : Nat) : (s.msix n v).btime = s.btime := rfl
@[simp] theorem State.msix_free (n v : Nat) : (s.msix n v).free = s.free := rfl
@[simp] theorem State.msix_mem (n v : Nat) : (s.msix n v).mem = s.mem := rfl
@[simp] theorem State.msix_exposed (n v : Nat) : (s.msix n v).exposed = s.exposed := rfl
@[simp] theorem State.msix_scrubbed (n v : Nat) : (s.msix n v).scrubbed = s.scrubbed := rfl
@[simp] theorem State.msix_ext (n v : Nat) : (s.msix n v).ext = s.ext := rfl
@[simp] theorem State.msix_fns (n v : Nat) : (s.msix n v).fns = s.fns := rfl
@[simp] theorem State.msix_store (n v : Nat) : (s.msix n v).store = s.store := rfl
@[simp] theorem State.msix_cmds (n v : Nat) : (s.msix n v).cmds = s.cmds := rfl
@[simp] theorem State.msix_nextCid (n v : Nat) : (s.msix n v).nextCid = s.nextCid := rfl
@[simp] theorem State.msix_ctxs (n v : Nat) : (s.msix n v).ctxs = s.ctxs := rfl
@[simp] theorem State.msix_live (n v : Nat) : (s.msix n v).live = s.live := rfl
@[simp] theorem State.msix_allocs (n v : Nat) : (s.msix n v).allocs = s.allocs := rfl
@[simp] theorem State.msix_nextObj (n v : Nat) : (s.msix n v).nextObj = s.nextObj := rfl
@[simp] theorem State.msix_tlb (n v : Nat) : (s.msix n v).tlb = s.tlb := rfl
@[simp] theorem State.msix_ats (n v : Nat) : (s.msix n v).ats = s.ats := rfl
@[simp] theorem State.msix_cores (n v : Nat) : (s.msix n v).cores = s.cores := rfl
@[simp] theorem State.msix_groups (n v : Nat) : (s.msix n v).groups = s.groups := rfl
@[simp] theorem State.msix_waiters (n v : Nat) : (s.msix n v).waiters = s.waiters := rfl
@[simp] theorem State.msix_lines (n v : Nat) : (s.msix n v).lines = s.lines := rfl
@[simp] theorem State.msix_dirClock (n v : Nat) : (s.msix n v).dirClock = s.dirClock := rfl
@[simp] theorem State.msix_hides (n v : Nat) : (s.msix n v).hides = s.hides := rfl
@[simp] theorem State.msix_moves (n v : Nat) : (s.msix n v).moves = s.moves := rfl
@[simp] theorem State.msix_mgrMoved (n v : Nat) : (s.msix n v).mgrMoved = s.mgrMoved := rfl
@[simp] theorem State.msix_plans (n v : Nat) : (s.msix n v).plans = s.plans := rfl
@[simp] theorem State.msix_seqs (n v : Nat) : (s.msix n v).seqs = s.seqs := rfl
@[simp] theorem State.msix_pendOrder (n v : Nat) : (s.msix n v).pendOrder = s.pendOrder := rfl
@[simp] theorem State.msix_movers (n v : Nat) : (s.msix n v).movers = s.movers := rfl
@[simp] theorem State.msix_eg (n v : Nat) : (s.msix n v).eg = s.eg := rfl
@[simp] theorem State.msix_wms (n v : Nat) : (s.msix n v).wms = s.wms := rfl
@[simp] theorem State.msix_boxes (n v : Nat) : (s.msix n v).boxes = s.boxes := rfl
@[simp] theorem State.msix_kod (n v : Nat) : (s.msix n v).kod = s.kod := rfl
@[simp] theorem State.msix_ao (n v : Nat) : (s.msix n v).ao = s.ao := rfl
@[simp] theorem State.msix_gov (n v : Nat) : (s.msix n v).gov = s.gov := rfl
@[simp] theorem State.msix_pow (n v : Nat) : (s.msix n v).pow = s.pow := rfl
@[simp] theorem State.msix_engines (n v : Nat) : (s.msix n v).engines = s.engines := rfl
@[simp] theorem State.msix_sports (n v : Nat) : (s.msix n v).sports = s.sports := rfl
@[simp] theorem State.msix_fab (n v : Nat) : (s.msix n v).fab = s.fab := rfl

/-! ## evseqNext -/

@[simp] theorem State.evseqNext_pending : (s.evseqNext).pending = s.pending := rfl
@[simp] theorem State.evseqNext_btime : (s.evseqNext).btime = s.btime := rfl
@[simp] theorem State.evseqNext_free : (s.evseqNext).free = s.free := rfl
@[simp] theorem State.evseqNext_mem : (s.evseqNext).mem = s.mem := rfl
@[simp] theorem State.evseqNext_exposed : (s.evseqNext).exposed = s.exposed := rfl
@[simp] theorem State.evseqNext_scrubbed : (s.evseqNext).scrubbed = s.scrubbed := rfl
@[simp] theorem State.evseqNext_ext : (s.evseqNext).ext = s.ext := rfl
@[simp] theorem State.evseqNext_fns : (s.evseqNext).fns = s.fns := rfl
@[simp] theorem State.evseqNext_store : (s.evseqNext).store = s.store := rfl
@[simp] theorem State.evseqNext_cmds : (s.evseqNext).cmds = s.cmds := rfl
@[simp] theorem State.evseqNext_nextCid : (s.evseqNext).nextCid = s.nextCid := rfl
@[simp] theorem State.evseqNext_ctxs : (s.evseqNext).ctxs = s.ctxs := rfl
@[simp] theorem State.evseqNext_live : (s.evseqNext).live = s.live := rfl
@[simp] theorem State.evseqNext_allocs : (s.evseqNext).allocs = s.allocs := rfl
@[simp] theorem State.evseqNext_nextObj : (s.evseqNext).nextObj = s.nextObj := rfl
@[simp] theorem State.evseqNext_tlb : (s.evseqNext).tlb = s.tlb := rfl
@[simp] theorem State.evseqNext_ats : (s.evseqNext).ats = s.ats := rfl
@[simp] theorem State.evseqNext_cores : (s.evseqNext).cores = s.cores := rfl
@[simp] theorem State.evseqNext_groups : (s.evseqNext).groups = s.groups := rfl
@[simp] theorem State.evseqNext_waiters : (s.evseqNext).waiters = s.waiters := rfl
@[simp] theorem State.evseqNext_lines : (s.evseqNext).lines = s.lines := rfl
@[simp] theorem State.evseqNext_dirClock : (s.evseqNext).dirClock = s.dirClock := rfl
@[simp] theorem State.evseqNext_hides : (s.evseqNext).hides = s.hides := rfl
@[simp] theorem State.evseqNext_moves : (s.evseqNext).moves = s.moves := rfl
@[simp] theorem State.evseqNext_mgrMoved : (s.evseqNext).mgrMoved = s.mgrMoved := rfl
@[simp] theorem State.evseqNext_plans : (s.evseqNext).plans = s.plans := rfl
@[simp] theorem State.evseqNext_seqs : (s.evseqNext).seqs = s.seqs := rfl
@[simp] theorem State.evseqNext_pendOrder : (s.evseqNext).pendOrder = s.pendOrder := rfl
@[simp] theorem State.evseqNext_movers : (s.evseqNext).movers = s.movers := rfl
@[simp] theorem State.evseqNext_eg : (s.evseqNext).eg = s.eg := rfl
@[simp] theorem State.evseqNext_wms : (s.evseqNext).wms = s.wms := rfl
@[simp] theorem State.evseqNext_boxes : (s.evseqNext).boxes = s.boxes := rfl
@[simp] theorem State.evseqNext_kod : (s.evseqNext).kod = s.kod := rfl
@[simp] theorem State.evseqNext_gov : (s.evseqNext).gov = s.gov := rfl
@[simp] theorem State.evseqNext_pow : (s.evseqNext).pow = s.pow := rfl
@[simp] theorem State.evseqNext_engines : (s.evseqNext).engines = s.engines := rfl
@[simp] theorem State.evseqNext_sports : (s.evseqNext).sports = s.sports := rfl
@[simp] theorem State.evseqNext_fab : (s.evseqNext).fab = s.fab := rfl
@[simp] theorem State.evseqNext_out : (s.evseqNext).out = s.out := rfl

/-! ## updSrc -/

@[simp] theorem State.updSrc_pending (n : Nat) (f : Src → Src) : (s.updSrc n f).pending = s.pending := rfl
@[simp] theorem State.updSrc_btime (n : Nat) (f : Src → Src) : (s.updSrc n f).btime = s.btime := rfl
@[simp] theorem State.updSrc_free (n : Nat) (f : Src → Src) : (s.updSrc n f).free = s.free := rfl
@[simp] theorem State.updSrc_mem (n : Nat) (f : Src → Src) : (s.updSrc n f).mem = s.mem := rfl
@[simp] theorem State.updSrc_exposed (n : Nat) (f : Src → Src) : (s.updSrc n f).exposed = s.exposed := rfl
@[simp] theorem State.updSrc_scrubbed (n : Nat) (f : Src → Src) : (s.updSrc n f).scrubbed = s.scrubbed := rfl
@[simp] theorem State.updSrc_ext (n : Nat) (f : Src → Src) : (s.updSrc n f).ext = s.ext := rfl
@[simp] theorem State.updSrc_fns (n : Nat) (f : Src → Src) : (s.updSrc n f).fns = s.fns := rfl
@[simp] theorem State.updSrc_store (n : Nat) (f : Src → Src) : (s.updSrc n f).store = s.store := rfl
@[simp] theorem State.updSrc_cmds (n : Nat) (f : Src → Src) : (s.updSrc n f).cmds = s.cmds := rfl
@[simp] theorem State.updSrc_nextCid (n : Nat) (f : Src → Src) : (s.updSrc n f).nextCid = s.nextCid := rfl
@[simp] theorem State.updSrc_ctxs (n : Nat) (f : Src → Src) : (s.updSrc n f).ctxs = s.ctxs := rfl
@[simp] theorem State.updSrc_live (n : Nat) (f : Src → Src) : (s.updSrc n f).live = s.live := rfl
@[simp] theorem State.updSrc_allocs (n : Nat) (f : Src → Src) : (s.updSrc n f).allocs = s.allocs := rfl
@[simp] theorem State.updSrc_nextObj (n : Nat) (f : Src → Src) : (s.updSrc n f).nextObj = s.nextObj := rfl
@[simp] theorem State.updSrc_tlb (n : Nat) (f : Src → Src) : (s.updSrc n f).tlb = s.tlb := rfl
@[simp] theorem State.updSrc_ats (n : Nat) (f : Src → Src) : (s.updSrc n f).ats = s.ats := rfl
@[simp] theorem State.updSrc_cores (n : Nat) (f : Src → Src) : (s.updSrc n f).cores = s.cores := rfl
@[simp] theorem State.updSrc_groups (n : Nat) (f : Src → Src) : (s.updSrc n f).groups = s.groups := rfl
@[simp] theorem State.updSrc_waiters (n : Nat) (f : Src → Src) : (s.updSrc n f).waiters = s.waiters := rfl
@[simp] theorem State.updSrc_lines (n : Nat) (f : Src → Src) : (s.updSrc n f).lines = s.lines := rfl
@[simp] theorem State.updSrc_dirClock (n : Nat) (f : Src → Src) : (s.updSrc n f).dirClock = s.dirClock := rfl
@[simp] theorem State.updSrc_hides (n : Nat) (f : Src → Src) : (s.updSrc n f).hides = s.hides := rfl
@[simp] theorem State.updSrc_moves (n : Nat) (f : Src → Src) : (s.updSrc n f).moves = s.moves := rfl
@[simp] theorem State.updSrc_mgrMoved (n : Nat) (f : Src → Src) : (s.updSrc n f).mgrMoved = s.mgrMoved := rfl
@[simp] theorem State.updSrc_plans (n : Nat) (f : Src → Src) : (s.updSrc n f).plans = s.plans := rfl
@[simp] theorem State.updSrc_seqs (n : Nat) (f : Src → Src) : (s.updSrc n f).seqs = s.seqs := rfl
@[simp] theorem State.updSrc_pendOrder (n : Nat) (f : Src → Src) : (s.updSrc n f).pendOrder = s.pendOrder := rfl
@[simp] theorem State.updSrc_movers (n : Nat) (f : Src → Src) : (s.updSrc n f).movers = s.movers := rfl
@[simp] theorem State.updSrc_wms (n : Nat) (f : Src → Src) : (s.updSrc n f).wms = s.wms := rfl
@[simp] theorem State.updSrc_boxes (n : Nat) (f : Src → Src) : (s.updSrc n f).boxes = s.boxes := rfl
@[simp] theorem State.updSrc_kod (n : Nat) (f : Src → Src) : (s.updSrc n f).kod = s.kod := rfl
@[simp] theorem State.updSrc_ao (n : Nat) (f : Src → Src) : (s.updSrc n f).ao = s.ao := rfl
@[simp] theorem State.updSrc_gov (n : Nat) (f : Src → Src) : (s.updSrc n f).gov = s.gov := rfl
@[simp] theorem State.updSrc_pow (n : Nat) (f : Src → Src) : (s.updSrc n f).pow = s.pow := rfl
@[simp] theorem State.updSrc_engines (n : Nat) (f : Src → Src) : (s.updSrc n f).engines = s.engines := rfl
@[simp] theorem State.updSrc_sports (n : Nat) (f : Src → Src) : (s.updSrc n f).sports = s.sports := rfl
@[simp] theorem State.updSrc_fab (n : Nat) (f : Src → Src) : (s.updSrc n f).fab = s.fab := rfl
@[simp] theorem State.updSrc_out (n : Nat) (f : Src → Src) : (s.updSrc n f).out = s.out := rfl

/-! ## updGrp -/

@[simp] theorem State.updGrp_pending (n : Nat) (f : Grp → Grp) : (s.updGrp n f).pending = s.pending := rfl
@[simp] theorem State.updGrp_btime (n : Nat) (f : Grp → Grp) : (s.updGrp n f).btime = s.btime := rfl
@[simp] theorem State.updGrp_free (n : Nat) (f : Grp → Grp) : (s.updGrp n f).free = s.free := rfl
@[simp] theorem State.updGrp_mem (n : Nat) (f : Grp → Grp) : (s.updGrp n f).mem = s.mem := rfl
@[simp] theorem State.updGrp_exposed (n : Nat) (f : Grp → Grp) : (s.updGrp n f).exposed = s.exposed := rfl
@[simp] theorem State.updGrp_scrubbed (n : Nat) (f : Grp → Grp) : (s.updGrp n f).scrubbed = s.scrubbed := rfl
@[simp] theorem State.updGrp_ext (n : Nat) (f : Grp → Grp) : (s.updGrp n f).ext = s.ext := rfl
@[simp] theorem State.updGrp_fns (n : Nat) (f : Grp → Grp) : (s.updGrp n f).fns = s.fns := rfl
@[simp] theorem State.updGrp_store (n : Nat) (f : Grp → Grp) : (s.updGrp n f).store = s.store := rfl
@[simp] theorem State.updGrp_cmds (n : Nat) (f : Grp → Grp) : (s.updGrp n f).cmds = s.cmds := rfl
@[simp] theorem State.updGrp_nextCid (n : Nat) (f : Grp → Grp) : (s.updGrp n f).nextCid = s.nextCid := rfl
@[simp] theorem State.updGrp_ctxs (n : Nat) (f : Grp → Grp) : (s.updGrp n f).ctxs = s.ctxs := rfl
@[simp] theorem State.updGrp_live (n : Nat) (f : Grp → Grp) : (s.updGrp n f).live = s.live := rfl
@[simp] theorem State.updGrp_allocs (n : Nat) (f : Grp → Grp) : (s.updGrp n f).allocs = s.allocs := rfl
@[simp] theorem State.updGrp_nextObj (n : Nat) (f : Grp → Grp) : (s.updGrp n f).nextObj = s.nextObj := rfl
@[simp] theorem State.updGrp_tlb (n : Nat) (f : Grp → Grp) : (s.updGrp n f).tlb = s.tlb := rfl
@[simp] theorem State.updGrp_ats (n : Nat) (f : Grp → Grp) : (s.updGrp n f).ats = s.ats := rfl
@[simp] theorem State.updGrp_cores (n : Nat) (f : Grp → Grp) : (s.updGrp n f).cores = s.cores := rfl
@[simp] theorem State.updGrp_groups (n : Nat) (f : Grp → Grp) : (s.updGrp n f).groups = s.groups := rfl
@[simp] theorem State.updGrp_waiters (n : Nat) (f : Grp → Grp) : (s.updGrp n f).waiters = s.waiters := rfl
@[simp] theorem State.updGrp_lines (n : Nat) (f : Grp → Grp) : (s.updGrp n f).lines = s.lines := rfl
@[simp] theorem State.updGrp_dirClock (n : Nat) (f : Grp → Grp) : (s.updGrp n f).dirClock = s.dirClock := rfl
@[simp] theorem State.updGrp_hides (n : Nat) (f : Grp → Grp) : (s.updGrp n f).hides = s.hides := rfl
@[simp] theorem State.updGrp_moves (n : Nat) (f : Grp → Grp) : (s.updGrp n f).moves = s.moves := rfl
@[simp] theorem State.updGrp_mgrMoved (n : Nat) (f : Grp → Grp) : (s.updGrp n f).mgrMoved = s.mgrMoved := rfl
@[simp] theorem State.updGrp_plans (n : Nat) (f : Grp → Grp) : (s.updGrp n f).plans = s.plans := rfl
@[simp] theorem State.updGrp_seqs (n : Nat) (f : Grp → Grp) : (s.updGrp n f).seqs = s.seqs := rfl
@[simp] theorem State.updGrp_pendOrder (n : Nat) (f : Grp → Grp) : (s.updGrp n f).pendOrder = s.pendOrder := rfl
@[simp] theorem State.updGrp_movers (n : Nat) (f : Grp → Grp) : (s.updGrp n f).movers = s.movers := rfl
@[simp] theorem State.updGrp_wms (n : Nat) (f : Grp → Grp) : (s.updGrp n f).wms = s.wms := rfl
@[simp] theorem State.updGrp_boxes (n : Nat) (f : Grp → Grp) : (s.updGrp n f).boxes = s.boxes := rfl
@[simp] theorem State.updGrp_kod (n : Nat) (f : Grp → Grp) : (s.updGrp n f).kod = s.kod := rfl
@[simp] theorem State.updGrp_ao (n : Nat) (f : Grp → Grp) : (s.updGrp n f).ao = s.ao := rfl
@[simp] theorem State.updGrp_gov (n : Nat) (f : Grp → Grp) : (s.updGrp n f).gov = s.gov := rfl
@[simp] theorem State.updGrp_pow (n : Nat) (f : Grp → Grp) : (s.updGrp n f).pow = s.pow := rfl
@[simp] theorem State.updGrp_engines (n : Nat) (f : Grp → Grp) : (s.updGrp n f).engines = s.engines := rfl
@[simp] theorem State.updGrp_sports (n : Nat) (f : Grp → Grp) : (s.updGrp n f).sports = s.sports := rfl
@[simp] theorem State.updGrp_fab (n : Nat) (f : Grp → Grp) : (s.updGrp n f).fab = s.fab := rfl
@[simp] theorem State.updGrp_out (n : Nat) (f : Grp → Grp) : (s.updGrp n f).out = s.out := rfl

/-! ## updTgt -/

@[simp] theorem State.updTgt_pending (n : Nat) (f : Tgt → Tgt) : (s.updTgt n f).pending = s.pending := rfl
@[simp] theorem State.updTgt_btime (n : Nat) (f : Tgt → Tgt) : (s.updTgt n f).btime = s.btime := rfl
@[simp] theorem State.updTgt_free (n : Nat) (f : Tgt → Tgt) : (s.updTgt n f).free = s.free := rfl
@[simp] theorem State.updTgt_mem (n : Nat) (f : Tgt → Tgt) : (s.updTgt n f).mem = s.mem := rfl
@[simp] theorem State.updTgt_exposed (n : Nat) (f : Tgt → Tgt) : (s.updTgt n f).exposed = s.exposed := rfl
@[simp] theorem State.updTgt_scrubbed (n : Nat) (f : Tgt → Tgt) : (s.updTgt n f).scrubbed = s.scrubbed := rfl
@[simp] theorem State.updTgt_ext (n : Nat) (f : Tgt → Tgt) : (s.updTgt n f).ext = s.ext := rfl
@[simp] theorem State.updTgt_fns (n : Nat) (f : Tgt → Tgt) : (s.updTgt n f).fns = s.fns := rfl
@[simp] theorem State.updTgt_store (n : Nat) (f : Tgt → Tgt) : (s.updTgt n f).store = s.store := rfl
@[simp] theorem State.updTgt_cmds (n : Nat) (f : Tgt → Tgt) : (s.updTgt n f).cmds = s.cmds := rfl
@[simp] theorem State.updTgt_nextCid (n : Nat) (f : Tgt → Tgt) : (s.updTgt n f).nextCid = s.nextCid := rfl
@[simp] theorem State.updTgt_ctxs (n : Nat) (f : Tgt → Tgt) : (s.updTgt n f).ctxs = s.ctxs := rfl
@[simp] theorem State.updTgt_live (n : Nat) (f : Tgt → Tgt) : (s.updTgt n f).live = s.live := rfl
@[simp] theorem State.updTgt_allocs (n : Nat) (f : Tgt → Tgt) : (s.updTgt n f).allocs = s.allocs := rfl
@[simp] theorem State.updTgt_nextObj (n : Nat) (f : Tgt → Tgt) : (s.updTgt n f).nextObj = s.nextObj := rfl
@[simp] theorem State.updTgt_tlb (n : Nat) (f : Tgt → Tgt) : (s.updTgt n f).tlb = s.tlb := rfl
@[simp] theorem State.updTgt_ats (n : Nat) (f : Tgt → Tgt) : (s.updTgt n f).ats = s.ats := rfl
@[simp] theorem State.updTgt_cores (n : Nat) (f : Tgt → Tgt) : (s.updTgt n f).cores = s.cores := rfl
@[simp] theorem State.updTgt_groups (n : Nat) (f : Tgt → Tgt) : (s.updTgt n f).groups = s.groups := rfl
@[simp] theorem State.updTgt_waiters (n : Nat) (f : Tgt → Tgt) : (s.updTgt n f).waiters = s.waiters := rfl
@[simp] theorem State.updTgt_lines (n : Nat) (f : Tgt → Tgt) : (s.updTgt n f).lines = s.lines := rfl
@[simp] theorem State.updTgt_dirClock (n : Nat) (f : Tgt → Tgt) : (s.updTgt n f).dirClock = s.dirClock := rfl
@[simp] theorem State.updTgt_hides (n : Nat) (f : Tgt → Tgt) : (s.updTgt n f).hides = s.hides := rfl
@[simp] theorem State.updTgt_moves (n : Nat) (f : Tgt → Tgt) : (s.updTgt n f).moves = s.moves := rfl
@[simp] theorem State.updTgt_mgrMoved (n : Nat) (f : Tgt → Tgt) : (s.updTgt n f).mgrMoved = s.mgrMoved := rfl
@[simp] theorem State.updTgt_plans (n : Nat) (f : Tgt → Tgt) : (s.updTgt n f).plans = s.plans := rfl
@[simp] theorem State.updTgt_seqs (n : Nat) (f : Tgt → Tgt) : (s.updTgt n f).seqs = s.seqs := rfl
@[simp] theorem State.updTgt_pendOrder (n : Nat) (f : Tgt → Tgt) : (s.updTgt n f).pendOrder = s.pendOrder := rfl
@[simp] theorem State.updTgt_movers (n : Nat) (f : Tgt → Tgt) : (s.updTgt n f).movers = s.movers := rfl
@[simp] theorem State.updTgt_wms (n : Nat) (f : Tgt → Tgt) : (s.updTgt n f).wms = s.wms := rfl
@[simp] theorem State.updTgt_boxes (n : Nat) (f : Tgt → Tgt) : (s.updTgt n f).boxes = s.boxes := rfl
@[simp] theorem State.updTgt_kod (n : Nat) (f : Tgt → Tgt) : (s.updTgt n f).kod = s.kod := rfl
@[simp] theorem State.updTgt_ao (n : Nat) (f : Tgt → Tgt) : (s.updTgt n f).ao = s.ao := rfl
@[simp] theorem State.updTgt_gov (n : Nat) (f : Tgt → Tgt) : (s.updTgt n f).gov = s.gov := rfl
@[simp] theorem State.updTgt_pow (n : Nat) (f : Tgt → Tgt) : (s.updTgt n f).pow = s.pow := rfl
@[simp] theorem State.updTgt_engines (n : Nat) (f : Tgt → Tgt) : (s.updTgt n f).engines = s.engines := rfl
@[simp] theorem State.updTgt_sports (n : Nat) (f : Tgt → Tgt) : (s.updTgt n f).sports = s.sports := rfl
@[simp] theorem State.updTgt_fab (n : Nat) (f : Tgt → Tgt) : (s.updTgt n f).fab = s.fab := rfl
@[simp] theorem State.updTgt_out (n : Nat) (f : Tgt → Tgt) : (s.updTgt n f).out = s.out := rfl

/-! ## zeroRun -/

@[simp] theorem State.zeroRun_pending (a n : Nat) : (s.zeroRun a n).pending = s.pending := rfl
@[simp] theorem State.zeroRun_btime (a n : Nat) : (s.zeroRun a n).btime = s.btime := rfl
@[simp] theorem State.zeroRun_free (a n : Nat) : (s.zeroRun a n).free = s.free := rfl
@[simp] theorem State.zeroRun_exposed (a n : Nat) : (s.zeroRun a n).exposed = s.exposed := rfl
@[simp] theorem State.zeroRun_scrubbed (a n : Nat) : (s.zeroRun a n).scrubbed = s.scrubbed := rfl
@[simp] theorem State.zeroRun_ext (a n : Nat) : (s.zeroRun a n).ext = s.ext := rfl
@[simp] theorem State.zeroRun_fns (a n : Nat) : (s.zeroRun a n).fns = s.fns := rfl
@[simp] theorem State.zeroRun_store (a n : Nat) : (s.zeroRun a n).store = s.store := rfl
@[simp] theorem State.zeroRun_cmds (a n : Nat) : (s.zeroRun a n).cmds = s.cmds := rfl
@[simp] theorem State.zeroRun_nextCid (a n : Nat) : (s.zeroRun a n).nextCid = s.nextCid := rfl
@[simp] theorem State.zeroRun_ctxs (a n : Nat) : (s.zeroRun a n).ctxs = s.ctxs := rfl
@[simp] theorem State.zeroRun_live (a n : Nat) : (s.zeroRun a n).live = s.live := rfl
@[simp] theorem State.zeroRun_allocs (a n : Nat) : (s.zeroRun a n).allocs = s.allocs := rfl
@[simp] theorem State.zeroRun_nextObj (a n : Nat) : (s.zeroRun a n).nextObj = s.nextObj := rfl
@[simp] theorem State.zeroRun_tlb (a n : Nat) : (s.zeroRun a n).tlb = s.tlb := rfl
@[simp] theorem State.zeroRun_ats (a n : Nat) : (s.zeroRun a n).ats = s.ats := rfl
@[simp] theorem State.zeroRun_cores (a n : Nat) : (s.zeroRun a n).cores = s.cores := rfl
@[simp] theorem State.zeroRun_groups (a n : Nat) : (s.zeroRun a n).groups = s.groups := rfl
@[simp] theorem State.zeroRun_waiters (a n : Nat) : (s.zeroRun a n).waiters = s.waiters := rfl
@[simp] theorem State.zeroRun_lines (a n : Nat) : (s.zeroRun a n).lines = s.lines := rfl
@[simp] theorem State.zeroRun_dirClock (a n : Nat) : (s.zeroRun a n).dirClock = s.dirClock := rfl
@[simp] theorem State.zeroRun_hides (a n : Nat) : (s.zeroRun a n).hides = s.hides := rfl
@[simp] theorem State.zeroRun_moves (a n : Nat) : (s.zeroRun a n).moves = s.moves := rfl
@[simp] theorem State.zeroRun_mgrMoved (a n : Nat) : (s.zeroRun a n).mgrMoved = s.mgrMoved := rfl
@[simp] theorem State.zeroRun_plans (a n : Nat) : (s.zeroRun a n).plans = s.plans := rfl
@[simp] theorem State.zeroRun_seqs (a n : Nat) : (s.zeroRun a n).seqs = s.seqs := rfl
@[simp] theorem State.zeroRun_pendOrder (a n : Nat) : (s.zeroRun a n).pendOrder = s.pendOrder := rfl
@[simp] theorem State.zeroRun_movers (a n : Nat) : (s.zeroRun a n).movers = s.movers := rfl
@[simp] theorem State.zeroRun_eg (a n : Nat) : (s.zeroRun a n).eg = s.eg := rfl
@[simp] theorem State.zeroRun_wms (a n : Nat) : (s.zeroRun a n).wms = s.wms := rfl
@[simp] theorem State.zeroRun_boxes (a n : Nat) : (s.zeroRun a n).boxes = s.boxes := rfl
@[simp] theorem State.zeroRun_kod (a n : Nat) : (s.zeroRun a n).kod = s.kod := rfl
@[simp] theorem State.zeroRun_ao (a n : Nat) : (s.zeroRun a n).ao = s.ao := rfl
@[simp] theorem State.zeroRun_gov (a n : Nat) : (s.zeroRun a n).gov = s.gov := rfl
@[simp] theorem State.zeroRun_pow (a n : Nat) : (s.zeroRun a n).pow = s.pow := rfl
@[simp] theorem State.zeroRun_engines (a n : Nat) : (s.zeroRun a n).engines = s.engines := rfl
@[simp] theorem State.zeroRun_sports (a n : Nat) : (s.zeroRun a n).sports = s.sports := rfl
@[simp] theorem State.zeroRun_fab (a n : Nat) : (s.zeroRun a n).fab = s.fab := rfl
@[simp] theorem State.zeroRun_out (a n : Nat) : (s.zeroRun a n).out = s.out := rfl

/-! ## updWm -/

@[simp] theorem State.updWm_pending (n : Nat) (f : Wm → Wm) : (s.updWm n f).pending = s.pending := rfl
@[simp] theorem State.updWm_btime (n : Nat) (f : Wm → Wm) : (s.updWm n f).btime = s.btime := rfl
@[simp] theorem State.updWm_free (n : Nat) (f : Wm → Wm) : (s.updWm n f).free = s.free := rfl
@[simp] theorem State.updWm_mem (n : Nat) (f : Wm → Wm) : (s.updWm n f).mem = s.mem := rfl
@[simp] theorem State.updWm_exposed (n : Nat) (f : Wm → Wm) : (s.updWm n f).exposed = s.exposed := rfl
@[simp] theorem State.updWm_scrubbed (n : Nat) (f : Wm → Wm) : (s.updWm n f).scrubbed = s.scrubbed := rfl
@[simp] theorem State.updWm_ext (n : Nat) (f : Wm → Wm) : (s.updWm n f).ext = s.ext := rfl
@[simp] theorem State.updWm_fns (n : Nat) (f : Wm → Wm) : (s.updWm n f).fns = s.fns := rfl
@[simp] theorem State.updWm_store (n : Nat) (f : Wm → Wm) : (s.updWm n f).store = s.store := rfl
@[simp] theorem State.updWm_cmds (n : Nat) (f : Wm → Wm) : (s.updWm n f).cmds = s.cmds := rfl
@[simp] theorem State.updWm_nextCid (n : Nat) (f : Wm → Wm) : (s.updWm n f).nextCid = s.nextCid := rfl
@[simp] theorem State.updWm_ctxs (n : Nat) (f : Wm → Wm) : (s.updWm n f).ctxs = s.ctxs := rfl
@[simp] theorem State.updWm_live (n : Nat) (f : Wm → Wm) : (s.updWm n f).live = s.live := rfl
@[simp] theorem State.updWm_allocs (n : Nat) (f : Wm → Wm) : (s.updWm n f).allocs = s.allocs := rfl
@[simp] theorem State.updWm_nextObj (n : Nat) (f : Wm → Wm) : (s.updWm n f).nextObj = s.nextObj := rfl
@[simp] theorem State.updWm_tlb (n : Nat) (f : Wm → Wm) : (s.updWm n f).tlb = s.tlb := rfl
@[simp] theorem State.updWm_ats (n : Nat) (f : Wm → Wm) : (s.updWm n f).ats = s.ats := rfl
@[simp] theorem State.updWm_cores (n : Nat) (f : Wm → Wm) : (s.updWm n f).cores = s.cores := rfl
@[simp] theorem State.updWm_groups (n : Nat) (f : Wm → Wm) : (s.updWm n f).groups = s.groups := rfl
@[simp] theorem State.updWm_waiters (n : Nat) (f : Wm → Wm) : (s.updWm n f).waiters = s.waiters := rfl
@[simp] theorem State.updWm_lines (n : Nat) (f : Wm → Wm) : (s.updWm n f).lines = s.lines := rfl
@[simp] theorem State.updWm_dirClock (n : Nat) (f : Wm → Wm) : (s.updWm n f).dirClock = s.dirClock := rfl
@[simp] theorem State.updWm_hides (n : Nat) (f : Wm → Wm) : (s.updWm n f).hides = s.hides := rfl
@[simp] theorem State.updWm_moves (n : Nat) (f : Wm → Wm) : (s.updWm n f).moves = s.moves := rfl
@[simp] theorem State.updWm_mgrMoved (n : Nat) (f : Wm → Wm) : (s.updWm n f).mgrMoved = s.mgrMoved := rfl
@[simp] theorem State.updWm_plans (n : Nat) (f : Wm → Wm) : (s.updWm n f).plans = s.plans := rfl
@[simp] theorem State.updWm_seqs (n : Nat) (f : Wm → Wm) : (s.updWm n f).seqs = s.seqs := rfl
@[simp] theorem State.updWm_pendOrder (n : Nat) (f : Wm → Wm) : (s.updWm n f).pendOrder = s.pendOrder := rfl
@[simp] theorem State.updWm_movers (n : Nat) (f : Wm → Wm) : (s.updWm n f).movers = s.movers := rfl
@[simp] theorem State.updWm_eg (n : Nat) (f : Wm → Wm) : (s.updWm n f).eg = s.eg := rfl
@[simp] theorem State.updWm_boxes (n : Nat) (f : Wm → Wm) : (s.updWm n f).boxes = s.boxes := rfl
@[simp] theorem State.updWm_kod (n : Nat) (f : Wm → Wm) : (s.updWm n f).kod = s.kod := rfl
@[simp] theorem State.updWm_ao (n : Nat) (f : Wm → Wm) : (s.updWm n f).ao = s.ao := rfl
@[simp] theorem State.updWm_gov (n : Nat) (f : Wm → Wm) : (s.updWm n f).gov = s.gov := rfl
@[simp] theorem State.updWm_pow (n : Nat) (f : Wm → Wm) : (s.updWm n f).pow = s.pow := rfl
@[simp] theorem State.updWm_engines (n : Nat) (f : Wm → Wm) : (s.updWm n f).engines = s.engines := rfl
@[simp] theorem State.updWm_sports (n : Nat) (f : Wm → Wm) : (s.updWm n f).sports = s.sports := rfl
@[simp] theorem State.updWm_fab (n : Nat) (f : Wm → Wm) : (s.updWm n f).fab = s.fab := rfl
@[simp] theorem State.updWm_out (n : Nat) (f : Wm → Wm) : (s.updWm n f).out = s.out := rfl

/-! ## updSport -/

@[simp] theorem State.updSport_pending (p : Nat) (f : SPort → SPort) : (s.updSport p f).pending = s.pending := rfl
@[simp] theorem State.updSport_btime (p : Nat) (f : SPort → SPort) : (s.updSport p f).btime = s.btime := rfl
@[simp] theorem State.updSport_free (p : Nat) (f : SPort → SPort) : (s.updSport p f).free = s.free := rfl
@[simp] theorem State.updSport_mem (p : Nat) (f : SPort → SPort) : (s.updSport p f).mem = s.mem := rfl
@[simp] theorem State.updSport_exposed (p : Nat) (f : SPort → SPort) : (s.updSport p f).exposed = s.exposed := rfl
@[simp] theorem State.updSport_scrubbed (p : Nat) (f : SPort → SPort) : (s.updSport p f).scrubbed = s.scrubbed := rfl
@[simp] theorem State.updSport_ext (p : Nat) (f : SPort → SPort) : (s.updSport p f).ext = s.ext := rfl
@[simp] theorem State.updSport_fns (p : Nat) (f : SPort → SPort) : (s.updSport p f).fns = s.fns := rfl
@[simp] theorem State.updSport_store (p : Nat) (f : SPort → SPort) : (s.updSport p f).store = s.store := rfl
@[simp] theorem State.updSport_cmds (p : Nat) (f : SPort → SPort) : (s.updSport p f).cmds = s.cmds := rfl
@[simp] theorem State.updSport_nextCid (p : Nat) (f : SPort → SPort) : (s.updSport p f).nextCid = s.nextCid := rfl
@[simp] theorem State.updSport_ctxs (p : Nat) (f : SPort → SPort) : (s.updSport p f).ctxs = s.ctxs := rfl
@[simp] theorem State.updSport_live (p : Nat) (f : SPort → SPort) : (s.updSport p f).live = s.live := rfl
@[simp] theorem State.updSport_allocs (p : Nat) (f : SPort → SPort) : (s.updSport p f).allocs = s.allocs := rfl
@[simp] theorem State.updSport_nextObj (p : Nat) (f : SPort → SPort) : (s.updSport p f).nextObj = s.nextObj := rfl
@[simp] theorem State.updSport_tlb (p : Nat) (f : SPort → SPort) : (s.updSport p f).tlb = s.tlb := rfl
@[simp] theorem State.updSport_ats (p : Nat) (f : SPort → SPort) : (s.updSport p f).ats = s.ats := rfl
@[simp] theorem State.updSport_cores (p : Nat) (f : SPort → SPort) : (s.updSport p f).cores = s.cores := rfl
@[simp] theorem State.updSport_groups (p : Nat) (f : SPort → SPort) : (s.updSport p f).groups = s.groups := rfl
@[simp] theorem State.updSport_waiters (p : Nat) (f : SPort → SPort) : (s.updSport p f).waiters = s.waiters := rfl
@[simp] theorem State.updSport_lines (p : Nat) (f : SPort → SPort) : (s.updSport p f).lines = s.lines := rfl
@[simp] theorem State.updSport_dirClock (p : Nat) (f : SPort → SPort) : (s.updSport p f).dirClock = s.dirClock := rfl
@[simp] theorem State.updSport_hides (p : Nat) (f : SPort → SPort) : (s.updSport p f).hides = s.hides := rfl
@[simp] theorem State.updSport_moves (p : Nat) (f : SPort → SPort) : (s.updSport p f).moves = s.moves := rfl
@[simp] theorem State.updSport_mgrMoved (p : Nat) (f : SPort → SPort) : (s.updSport p f).mgrMoved = s.mgrMoved := rfl
@[simp] theorem State.updSport_plans (p : Nat) (f : SPort → SPort) : (s.updSport p f).plans = s.plans := rfl
@[simp] theorem State.updSport_seqs (p : Nat) (f : SPort → SPort) : (s.updSport p f).seqs = s.seqs := rfl
@[simp] theorem State.updSport_pendOrder (p : Nat) (f : SPort → SPort) : (s.updSport p f).pendOrder = s.pendOrder := rfl
@[simp] theorem State.updSport_movers (p : Nat) (f : SPort → SPort) : (s.updSport p f).movers = s.movers := rfl
@[simp] theorem State.updSport_eg (p : Nat) (f : SPort → SPort) : (s.updSport p f).eg = s.eg := rfl
@[simp] theorem State.updSport_wms (p : Nat) (f : SPort → SPort) : (s.updSport p f).wms = s.wms := rfl
@[simp] theorem State.updSport_boxes (p : Nat) (f : SPort → SPort) : (s.updSport p f).boxes = s.boxes := rfl
@[simp] theorem State.updSport_kod (p : Nat) (f : SPort → SPort) : (s.updSport p f).kod = s.kod := rfl
@[simp] theorem State.updSport_ao (p : Nat) (f : SPort → SPort) : (s.updSport p f).ao = s.ao := rfl
@[simp] theorem State.updSport_gov (p : Nat) (f : SPort → SPort) : (s.updSport p f).gov = s.gov := rfl
@[simp] theorem State.updSport_pow (p : Nat) (f : SPort → SPort) : (s.updSport p f).pow = s.pow := rfl
@[simp] theorem State.updSport_engines (p : Nat) (f : SPort → SPort) : (s.updSport p f).engines = s.engines := rfl
@[simp] theorem State.updSport_fab (p : Nat) (f : SPort → SPort) : (s.updSport p f).fab = s.fab := rfl
@[simp] theorem State.updSport_out (p : Nat) (f : SPort → SPort) : (s.updSport p f).out = s.out := rfl

/-! ## updEngine -/

@[simp] theorem State.updEngine_pending (e : Nat) (f : Engine → Engine) : (s.updEngine e f).pending = s.pending := rfl
@[simp] theorem State.updEngine_btime (e : Nat) (f : Engine → Engine) : (s.updEngine e f).btime = s.btime := rfl
@[simp] theorem State.updEngine_free (e : Nat) (f : Engine → Engine) : (s.updEngine e f).free = s.free := rfl
@[simp] theorem State.updEngine_mem (e : Nat) (f : Engine → Engine) : (s.updEngine e f).mem = s.mem := rfl
@[simp] theorem State.updEngine_exposed (e : Nat) (f : Engine → Engine) : (s.updEngine e f).exposed = s.exposed := rfl
@[simp] theorem State.updEngine_scrubbed (e : Nat) (f : Engine → Engine) : (s.updEngine e f).scrubbed = s.scrubbed := rfl
@[simp] theorem State.updEngine_ext (e : Nat) (f : Engine → Engine) : (s.updEngine e f).ext = s.ext := rfl
@[simp] theorem State.updEngine_fns (e : Nat) (f : Engine → Engine) : (s.updEngine e f).fns = s.fns := rfl
@[simp] theorem State.updEngine_store (e : Nat) (f : Engine → Engine) : (s.updEngine e f).store = s.store := rfl
@[simp] theorem State.updEngine_cmds (e : Nat) (f : Engine → Engine) : (s.updEngine e f).cmds = s.cmds := rfl
@[simp] theorem State.updEngine_nextCid (e : Nat) (f : Engine → Engine) : (s.updEngine e f).nextCid = s.nextCid := rfl
@[simp] theorem State.updEngine_ctxs (e : Nat) (f : Engine → Engine) : (s.updEngine e f).ctxs = s.ctxs := rfl
@[simp] theorem State.updEngine_live (e : Nat) (f : Engine → Engine) : (s.updEngine e f).live = s.live := rfl
@[simp] theorem State.updEngine_allocs (e : Nat) (f : Engine → Engine) : (s.updEngine e f).allocs = s.allocs := rfl
@[simp] theorem State.updEngine_nextObj (e : Nat) (f : Engine → Engine) : (s.updEngine e f).nextObj = s.nextObj := rfl
@[simp] theorem State.updEngine_tlb (e : Nat) (f : Engine → Engine) : (s.updEngine e f).tlb = s.tlb := rfl
@[simp] theorem State.updEngine_ats (e : Nat) (f : Engine → Engine) : (s.updEngine e f).ats = s.ats := rfl
@[simp] theorem State.updEngine_cores (e : Nat) (f : Engine → Engine) : (s.updEngine e f).cores = s.cores := rfl
@[simp] theorem State.updEngine_groups (e : Nat) (f : Engine → Engine) : (s.updEngine e f).groups = s.groups := rfl
@[simp] theorem State.updEngine_waiters (e : Nat) (f : Engine → Engine) : (s.updEngine e f).waiters = s.waiters := rfl
@[simp] theorem State.updEngine_lines (e : Nat) (f : Engine → Engine) : (s.updEngine e f).lines = s.lines := rfl
@[simp] theorem State.updEngine_dirClock (e : Nat) (f : Engine → Engine) : (s.updEngine e f).dirClock = s.dirClock := rfl
@[simp] theorem State.updEngine_hides (e : Nat) (f : Engine → Engine) : (s.updEngine e f).hides = s.hides := rfl
@[simp] theorem State.updEngine_moves (e : Nat) (f : Engine → Engine) : (s.updEngine e f).moves = s.moves := rfl
@[simp] theorem State.updEngine_mgrMoved (e : Nat) (f : Engine → Engine) : (s.updEngine e f).mgrMoved = s.mgrMoved := rfl
@[simp] theorem State.updEngine_plans (e : Nat) (f : Engine → Engine) : (s.updEngine e f).plans = s.plans := rfl
@[simp] theorem State.updEngine_seqs (e : Nat) (f : Engine → Engine) : (s.updEngine e f).seqs = s.seqs := rfl
@[simp] theorem State.updEngine_pendOrder (e : Nat) (f : Engine → Engine) : (s.updEngine e f).pendOrder = s.pendOrder := rfl
@[simp] theorem State.updEngine_movers (e : Nat) (f : Engine → Engine) : (s.updEngine e f).movers = s.movers := rfl
@[simp] theorem State.updEngine_eg (e : Nat) (f : Engine → Engine) : (s.updEngine e f).eg = s.eg := rfl
@[simp] theorem State.updEngine_wms (e : Nat) (f : Engine → Engine) : (s.updEngine e f).wms = s.wms := rfl
@[simp] theorem State.updEngine_boxes (e : Nat) (f : Engine → Engine) : (s.updEngine e f).boxes = s.boxes := rfl
@[simp] theorem State.updEngine_kod (e : Nat) (f : Engine → Engine) : (s.updEngine e f).kod = s.kod := rfl
@[simp] theorem State.updEngine_ao (e : Nat) (f : Engine → Engine) : (s.updEngine e f).ao = s.ao := rfl
@[simp] theorem State.updEngine_gov (e : Nat) (f : Engine → Engine) : (s.updEngine e f).gov = s.gov := rfl
@[simp] theorem State.updEngine_pow (e : Nat) (f : Engine → Engine) : (s.updEngine e f).pow = s.pow := rfl
@[simp] theorem State.updEngine_sports (e : Nat) (f : Engine → Engine) : (s.updEngine e f).sports = s.sports := rfl
@[simp] theorem State.updEngine_fab (e : Nat) (f : Engine → Engine) : (s.updEngine e f).fab = s.fab := rfl
@[simp] theorem State.updEngine_out (e : Nat) (f : Engine → Engine) : (s.updEngine e f).out = s.out := rfl

/-! ## updGroup -/

@[simp] theorem State.updGroup_pending (cid g : Nat) (f : Group → Group) : (s.updGroup cid g f).pending = s.pending := rfl
@[simp] theorem State.updGroup_btime (cid g : Nat) (f : Group → Group) : (s.updGroup cid g f).btime = s.btime := rfl
@[simp] theorem State.updGroup_free (cid g : Nat) (f : Group → Group) : (s.updGroup cid g f).free = s.free := rfl
@[simp] theorem State.updGroup_mem (cid g : Nat) (f : Group → Group) : (s.updGroup cid g f).mem = s.mem := rfl
@[simp] theorem State.updGroup_exposed (cid g : Nat) (f : Group → Group) : (s.updGroup cid g f).exposed = s.exposed := rfl
@[simp] theorem State.updGroup_scrubbed (cid g : Nat) (f : Group → Group) : (s.updGroup cid g f).scrubbed = s.scrubbed := rfl
@[simp] theorem State.updGroup_ext (cid g : Nat) (f : Group → Group) : (s.updGroup cid g f).ext = s.ext := rfl
@[simp] theorem State.updGroup_fns (cid g : Nat) (f : Group → Group) : (s.updGroup cid g f).fns = s.fns := rfl
@[simp] theorem State.updGroup_store (cid g : Nat) (f : Group → Group) : (s.updGroup cid g f).store = s.store := rfl
@[simp] theorem State.updGroup_cmds (cid g : Nat) (f : Group → Group) : (s.updGroup cid g f).cmds = s.cmds := rfl
@[simp] theorem State.updGroup_nextCid (cid g : Nat) (f : Group → Group) : (s.updGroup cid g f).nextCid = s.nextCid := rfl
@[simp] theorem State.updGroup_ctxs (cid g : Nat) (f : Group → Group) : (s.updGroup cid g f).ctxs = s.ctxs := rfl
@[simp] theorem State.updGroup_live (cid g : Nat) (f : Group → Group) : (s.updGroup cid g f).live = s.live := rfl
@[simp] theorem State.updGroup_allocs (cid g : Nat) (f : Group → Group) : (s.updGroup cid g f).allocs = s.allocs := rfl
@[simp] theorem State.updGroup_nextObj (cid g : Nat) (f : Group → Group) : (s.updGroup cid g f).nextObj = s.nextObj := rfl
@[simp] theorem State.updGroup_tlb (cid g : Nat) (f : Group → Group) : (s.updGroup cid g f).tlb = s.tlb := rfl
@[simp] theorem State.updGroup_ats (cid g : Nat) (f : Group → Group) : (s.updGroup cid g f).ats = s.ats := rfl
@[simp] theorem State.updGroup_cores (cid g : Nat) (f : Group → Group) : (s.updGroup cid g f).cores = s.cores := rfl
@[simp] theorem State.updGroup_waiters (cid g : Nat) (f : Group → Group) : (s.updGroup cid g f).waiters = s.waiters := rfl
@[simp] theorem State.updGroup_lines (cid g : Nat) (f : Group → Group) : (s.updGroup cid g f).lines = s.lines := rfl
@[simp] theorem State.updGroup_dirClock (cid g : Nat) (f : Group → Group) : (s.updGroup cid g f).dirClock = s.dirClock := rfl
@[simp] theorem State.updGroup_hides (cid g : Nat) (f : Group → Group) : (s.updGroup cid g f).hides = s.hides := rfl
@[simp] theorem State.updGroup_moves (cid g : Nat) (f : Group → Group) : (s.updGroup cid g f).moves = s.moves := rfl
@[simp] theorem State.updGroup_mgrMoved (cid g : Nat) (f : Group → Group) : (s.updGroup cid g f).mgrMoved = s.mgrMoved := rfl
@[simp] theorem State.updGroup_plans (cid g : Nat) (f : Group → Group) : (s.updGroup cid g f).plans = s.plans := rfl
@[simp] theorem State.updGroup_seqs (cid g : Nat) (f : Group → Group) : (s.updGroup cid g f).seqs = s.seqs := rfl
@[simp] theorem State.updGroup_pendOrder (cid g : Nat) (f : Group → Group) : (s.updGroup cid g f).pendOrder = s.pendOrder := rfl
@[simp] theorem State.updGroup_movers (cid g : Nat) (f : Group → Group) : (s.updGroup cid g f).movers = s.movers := rfl
@[simp] theorem State.updGroup_eg (cid g : Nat) (f : Group → Group) : (s.updGroup cid g f).eg = s.eg := rfl
@[simp] theorem State.updGroup_wms (cid g : Nat) (f : Group → Group) : (s.updGroup cid g f).wms = s.wms := rfl
@[simp] theorem State.updGroup_boxes (cid g : Nat) (f : Group → Group) : (s.updGroup cid g f).boxes = s.boxes := rfl
@[simp] theorem State.updGroup_kod (cid g : Nat) (f : Group → Group) : (s.updGroup cid g f).kod = s.kod := rfl
@[simp] theorem State.updGroup_ao (cid g : Nat) (f : Group → Group) : (s.updGroup cid g f).ao = s.ao := rfl
@[simp] theorem State.updGroup_gov (cid g : Nat) (f : Group → Group) : (s.updGroup cid g f).gov = s.gov := rfl
@[simp] theorem State.updGroup_pow (cid g : Nat) (f : Group → Group) : (s.updGroup cid g f).pow = s.pow := rfl
@[simp] theorem State.updGroup_engines (cid g : Nat) (f : Group → Group) : (s.updGroup cid g f).engines = s.engines := rfl
@[simp] theorem State.updGroup_sports (cid g : Nat) (f : Group → Group) : (s.updGroup cid g f).sports = s.sports := rfl
@[simp] theorem State.updGroup_fab (cid g : Nat) (f : Group → Group) : (s.updGroup cid g f).fab = s.fab := rfl
@[simp] theorem State.updGroup_out (cid g : Nat) (f : Group → Group) : (s.updGroup cid g f).out = s.out := rfl

/-! ## updSeq -/

@[simp] theorem State.updSeq_pending (e : Nat) (f : Seq → Seq) : (s.updSeq e f).pending = s.pending := rfl
@[simp] theorem State.updSeq_btime (e : Nat) (f : Seq → Seq) : (s.updSeq e f).btime = s.btime := rfl
@[simp] theorem State.updSeq_free (e : Nat) (f : Seq → Seq) : (s.updSeq e f).free = s.free := rfl
@[simp] theorem State.updSeq_mem (e : Nat) (f : Seq → Seq) : (s.updSeq e f).mem = s.mem := rfl
@[simp] theorem State.updSeq_exposed (e : Nat) (f : Seq → Seq) : (s.updSeq e f).exposed = s.exposed := rfl
@[simp] theorem State.updSeq_scrubbed (e : Nat) (f : Seq → Seq) : (s.updSeq e f).scrubbed = s.scrubbed := rfl
@[simp] theorem State.updSeq_ext (e : Nat) (f : Seq → Seq) : (s.updSeq e f).ext = s.ext := rfl
@[simp] theorem State.updSeq_fns (e : Nat) (f : Seq → Seq) : (s.updSeq e f).fns = s.fns := rfl
@[simp] theorem State.updSeq_store (e : Nat) (f : Seq → Seq) : (s.updSeq e f).store = s.store := rfl
@[simp] theorem State.updSeq_cmds (e : Nat) (f : Seq → Seq) : (s.updSeq e f).cmds = s.cmds := rfl
@[simp] theorem State.updSeq_nextCid (e : Nat) (f : Seq → Seq) : (s.updSeq e f).nextCid = s.nextCid := rfl
@[simp] theorem State.updSeq_ctxs (e : Nat) (f : Seq → Seq) : (s.updSeq e f).ctxs = s.ctxs := rfl
@[simp] theorem State.updSeq_live (e : Nat) (f : Seq → Seq) : (s.updSeq e f).live = s.live := rfl
@[simp] theorem State.updSeq_allocs (e : Nat) (f : Seq → Seq) : (s.updSeq e f).allocs = s.allocs := rfl
@[simp] theorem State.updSeq_nextObj (e : Nat) (f : Seq → Seq) : (s.updSeq e f).nextObj = s.nextObj := rfl
@[simp] theorem State.updSeq_tlb (e : Nat) (f : Seq → Seq) : (s.updSeq e f).tlb = s.tlb := rfl
@[simp] theorem State.updSeq_ats (e : Nat) (f : Seq → Seq) : (s.updSeq e f).ats = s.ats := rfl
@[simp] theorem State.updSeq_cores (e : Nat) (f : Seq → Seq) : (s.updSeq e f).cores = s.cores := rfl
@[simp] theorem State.updSeq_groups (e : Nat) (f : Seq → Seq) : (s.updSeq e f).groups = s.groups := rfl
@[simp] theorem State.updSeq_waiters (e : Nat) (f : Seq → Seq) : (s.updSeq e f).waiters = s.waiters := rfl
@[simp] theorem State.updSeq_lines (e : Nat) (f : Seq → Seq) : (s.updSeq e f).lines = s.lines := rfl
@[simp] theorem State.updSeq_dirClock (e : Nat) (f : Seq → Seq) : (s.updSeq e f).dirClock = s.dirClock := rfl
@[simp] theorem State.updSeq_hides (e : Nat) (f : Seq → Seq) : (s.updSeq e f).hides = s.hides := rfl
@[simp] theorem State.updSeq_moves (e : Nat) (f : Seq → Seq) : (s.updSeq e f).moves = s.moves := rfl
@[simp] theorem State.updSeq_mgrMoved (e : Nat) (f : Seq → Seq) : (s.updSeq e f).mgrMoved = s.mgrMoved := rfl
@[simp] theorem State.updSeq_plans (e : Nat) (f : Seq → Seq) : (s.updSeq e f).plans = s.plans := rfl
@[simp] theorem State.updSeq_pendOrder (e : Nat) (f : Seq → Seq) : (s.updSeq e f).pendOrder = s.pendOrder := rfl
@[simp] theorem State.updSeq_movers (e : Nat) (f : Seq → Seq) : (s.updSeq e f).movers = s.movers := rfl
@[simp] theorem State.updSeq_eg (e : Nat) (f : Seq → Seq) : (s.updSeq e f).eg = s.eg := rfl
@[simp] theorem State.updSeq_wms (e : Nat) (f : Seq → Seq) : (s.updSeq e f).wms = s.wms := rfl
@[simp] theorem State.updSeq_boxes (e : Nat) (f : Seq → Seq) : (s.updSeq e f).boxes = s.boxes := rfl
@[simp] theorem State.updSeq_kod (e : Nat) (f : Seq → Seq) : (s.updSeq e f).kod = s.kod := rfl
@[simp] theorem State.updSeq_ao (e : Nat) (f : Seq → Seq) : (s.updSeq e f).ao = s.ao := rfl
@[simp] theorem State.updSeq_gov (e : Nat) (f : Seq → Seq) : (s.updSeq e f).gov = s.gov := rfl
@[simp] theorem State.updSeq_pow (e : Nat) (f : Seq → Seq) : (s.updSeq e f).pow = s.pow := rfl
@[simp] theorem State.updSeq_engines (e : Nat) (f : Seq → Seq) : (s.updSeq e f).engines = s.engines := rfl
@[simp] theorem State.updSeq_sports (e : Nat) (f : Seq → Seq) : (s.updSeq e f).sports = s.sports := rfl
@[simp] theorem State.updSeq_fab (e : Nat) (f : Seq → Seq) : (s.updSeq e f).fab = s.fab := rfl
@[simp] theorem State.updSeq_out (e : Nat) (f : Seq → Seq) : (s.updSeq e f).out = s.out := rfl

/-! ## updBox -/

@[simp] theorem State.updBox_pending (c : Nat) (f : Mbox → Mbox) : (s.updBox c f).pending = s.pending := rfl
@[simp] theorem State.updBox_btime (c : Nat) (f : Mbox → Mbox) : (s.updBox c f).btime = s.btime := rfl
@[simp] theorem State.updBox_free (c : Nat) (f : Mbox → Mbox) : (s.updBox c f).free = s.free := rfl
@[simp] theorem State.updBox_mem (c : Nat) (f : Mbox → Mbox) : (s.updBox c f).mem = s.mem := rfl
@[simp] theorem State.updBox_exposed (c : Nat) (f : Mbox → Mbox) : (s.updBox c f).exposed = s.exposed := rfl
@[simp] theorem State.updBox_scrubbed (c : Nat) (f : Mbox → Mbox) : (s.updBox c f).scrubbed = s.scrubbed := rfl
@[simp] theorem State.updBox_ext (c : Nat) (f : Mbox → Mbox) : (s.updBox c f).ext = s.ext := rfl
@[simp] theorem State.updBox_fns (c : Nat) (f : Mbox → Mbox) : (s.updBox c f).fns = s.fns := rfl
@[simp] theorem State.updBox_store (c : Nat) (f : Mbox → Mbox) : (s.updBox c f).store = s.store := rfl
@[simp] theorem State.updBox_cmds (c : Nat) (f : Mbox → Mbox) : (s.updBox c f).cmds = s.cmds := rfl
@[simp] theorem State.updBox_nextCid (c : Nat) (f : Mbox → Mbox) : (s.updBox c f).nextCid = s.nextCid := rfl
@[simp] theorem State.updBox_ctxs (c : Nat) (f : Mbox → Mbox) : (s.updBox c f).ctxs = s.ctxs := rfl
@[simp] theorem State.updBox_live (c : Nat) (f : Mbox → Mbox) : (s.updBox c f).live = s.live := rfl
@[simp] theorem State.updBox_allocs (c : Nat) (f : Mbox → Mbox) : (s.updBox c f).allocs = s.allocs := rfl
@[simp] theorem State.updBox_nextObj (c : Nat) (f : Mbox → Mbox) : (s.updBox c f).nextObj = s.nextObj := rfl
@[simp] theorem State.updBox_tlb (c : Nat) (f : Mbox → Mbox) : (s.updBox c f).tlb = s.tlb := rfl
@[simp] theorem State.updBox_ats (c : Nat) (f : Mbox → Mbox) : (s.updBox c f).ats = s.ats := rfl
@[simp] theorem State.updBox_cores (c : Nat) (f : Mbox → Mbox) : (s.updBox c f).cores = s.cores := rfl
@[simp] theorem State.updBox_groups (c : Nat) (f : Mbox → Mbox) : (s.updBox c f).groups = s.groups := rfl
@[simp] theorem State.updBox_waiters (c : Nat) (f : Mbox → Mbox) : (s.updBox c f).waiters = s.waiters := rfl
@[simp] theorem State.updBox_lines (c : Nat) (f : Mbox → Mbox) : (s.updBox c f).lines = s.lines := rfl
@[simp] theorem State.updBox_dirClock (c : Nat) (f : Mbox → Mbox) : (s.updBox c f).dirClock = s.dirClock := rfl
@[simp] theorem State.updBox_hides (c : Nat) (f : Mbox → Mbox) : (s.updBox c f).hides = s.hides := rfl
@[simp] theorem State.updBox_moves (c : Nat) (f : Mbox → Mbox) : (s.updBox c f).moves = s.moves := rfl
@[simp] theorem State.updBox_mgrMoved (c : Nat) (f : Mbox → Mbox) : (s.updBox c f).mgrMoved = s.mgrMoved := rfl
@[simp] theorem State.updBox_plans (c : Nat) (f : Mbox → Mbox) : (s.updBox c f).plans = s.plans := rfl
@[simp] theorem State.updBox_seqs (c : Nat) (f : Mbox → Mbox) : (s.updBox c f).seqs = s.seqs := rfl
@[simp] theorem State.updBox_pendOrder (c : Nat) (f : Mbox → Mbox) : (s.updBox c f).pendOrder = s.pendOrder := rfl
@[simp] theorem State.updBox_movers (c : Nat) (f : Mbox → Mbox) : (s.updBox c f).movers = s.movers := rfl
@[simp] theorem State.updBox_eg (c : Nat) (f : Mbox → Mbox) : (s.updBox c f).eg = s.eg := rfl
@[simp] theorem State.updBox_wms (c : Nat) (f : Mbox → Mbox) : (s.updBox c f).wms = s.wms := rfl
@[simp] theorem State.updBox_kod (c : Nat) (f : Mbox → Mbox) : (s.updBox c f).kod = s.kod := rfl
@[simp] theorem State.updBox_ao (c : Nat) (f : Mbox → Mbox) : (s.updBox c f).ao = s.ao := rfl
@[simp] theorem State.updBox_gov (c : Nat) (f : Mbox → Mbox) : (s.updBox c f).gov = s.gov := rfl
@[simp] theorem State.updBox_pow (c : Nat) (f : Mbox → Mbox) : (s.updBox c f).pow = s.pow := rfl
@[simp] theorem State.updBox_engines (c : Nat) (f : Mbox → Mbox) : (s.updBox c f).engines = s.engines := rfl
@[simp] theorem State.updBox_sports (c : Nat) (f : Mbox → Mbox) : (s.updBox c f).sports = s.sports := rfl
@[simp] theorem State.updBox_fab (c : Nat) (f : Mbox → Mbox) : (s.updBox c f).fab = s.fab := rfl
@[simp] theorem State.updBox_out (c : Nat) (f : Mbox → Mbox) : (s.updBox c f).out = s.out := rfl

/-! ## updLine -/

@[simp] theorem State.updLine_pending (l : Nat) (f : Line → Line) : (s.updLine l f).pending = s.pending := rfl
@[simp] theorem State.updLine_btime (l : Nat) (f : Line → Line) : (s.updLine l f).btime = s.btime := rfl
@[simp] theorem State.updLine_free (l : Nat) (f : Line → Line) : (s.updLine l f).free = s.free := rfl
@[simp] theorem State.updLine_mem (l : Nat) (f : Line → Line) : (s.updLine l f).mem = s.mem := rfl
@[simp] theorem State.updLine_exposed (l : Nat) (f : Line → Line) : (s.updLine l f).exposed = s.exposed := rfl
@[simp] theorem State.updLine_scrubbed (l : Nat) (f : Line → Line) : (s.updLine l f).scrubbed = s.scrubbed := rfl
@[simp] theorem State.updLine_ext (l : Nat) (f : Line → Line) : (s.updLine l f).ext = s.ext := rfl
@[simp] theorem State.updLine_fns (l : Nat) (f : Line → Line) : (s.updLine l f).fns = s.fns := rfl
@[simp] theorem State.updLine_store (l : Nat) (f : Line → Line) : (s.updLine l f).store = s.store := rfl
@[simp] theorem State.updLine_cmds (l : Nat) (f : Line → Line) : (s.updLine l f).cmds = s.cmds := rfl
@[simp] theorem State.updLine_nextCid (l : Nat) (f : Line → Line) : (s.updLine l f).nextCid = s.nextCid := rfl
@[simp] theorem State.updLine_ctxs (l : Nat) (f : Line → Line) : (s.updLine l f).ctxs = s.ctxs := rfl
@[simp] theorem State.updLine_live (l : Nat) (f : Line → Line) : (s.updLine l f).live = s.live := rfl
@[simp] theorem State.updLine_allocs (l : Nat) (f : Line → Line) : (s.updLine l f).allocs = s.allocs := rfl
@[simp] theorem State.updLine_nextObj (l : Nat) (f : Line → Line) : (s.updLine l f).nextObj = s.nextObj := rfl
@[simp] theorem State.updLine_tlb (l : Nat) (f : Line → Line) : (s.updLine l f).tlb = s.tlb := rfl
@[simp] theorem State.updLine_ats (l : Nat) (f : Line → Line) : (s.updLine l f).ats = s.ats := rfl
@[simp] theorem State.updLine_cores (l : Nat) (f : Line → Line) : (s.updLine l f).cores = s.cores := rfl
@[simp] theorem State.updLine_groups (l : Nat) (f : Line → Line) : (s.updLine l f).groups = s.groups := rfl
@[simp] theorem State.updLine_waiters (l : Nat) (f : Line → Line) : (s.updLine l f).waiters = s.waiters := rfl
@[simp] theorem State.updLine_dirClock (l : Nat) (f : Line → Line) : (s.updLine l f).dirClock = s.dirClock := rfl
@[simp] theorem State.updLine_hides (l : Nat) (f : Line → Line) : (s.updLine l f).hides = s.hides := rfl
@[simp] theorem State.updLine_moves (l : Nat) (f : Line → Line) : (s.updLine l f).moves = s.moves := rfl
@[simp] theorem State.updLine_mgrMoved (l : Nat) (f : Line → Line) : (s.updLine l f).mgrMoved = s.mgrMoved := rfl
@[simp] theorem State.updLine_plans (l : Nat) (f : Line → Line) : (s.updLine l f).plans = s.plans := rfl
@[simp] theorem State.updLine_seqs (l : Nat) (f : Line → Line) : (s.updLine l f).seqs = s.seqs := rfl
@[simp] theorem State.updLine_pendOrder (l : Nat) (f : Line → Line) : (s.updLine l f).pendOrder = s.pendOrder := rfl
@[simp] theorem State.updLine_movers (l : Nat) (f : Line → Line) : (s.updLine l f).movers = s.movers := rfl
@[simp] theorem State.updLine_eg (l : Nat) (f : Line → Line) : (s.updLine l f).eg = s.eg := rfl
@[simp] theorem State.updLine_wms (l : Nat) (f : Line → Line) : (s.updLine l f).wms = s.wms := rfl
@[simp] theorem State.updLine_boxes (l : Nat) (f : Line → Line) : (s.updLine l f).boxes = s.boxes := rfl
@[simp] theorem State.updLine_kod (l : Nat) (f : Line → Line) : (s.updLine l f).kod = s.kod := rfl
@[simp] theorem State.updLine_ao (l : Nat) (f : Line → Line) : (s.updLine l f).ao = s.ao := rfl
@[simp] theorem State.updLine_gov (l : Nat) (f : Line → Line) : (s.updLine l f).gov = s.gov := rfl
@[simp] theorem State.updLine_pow (l : Nat) (f : Line → Line) : (s.updLine l f).pow = s.pow := rfl
@[simp] theorem State.updLine_engines (l : Nat) (f : Line → Line) : (s.updLine l f).engines = s.engines := rfl
@[simp] theorem State.updLine_sports (l : Nat) (f : Line → Line) : (s.updLine l f).sports = s.sports := rfl
@[simp] theorem State.updLine_fab (l : Nat) (f : Line → Line) : (s.updLine l f).fab = s.fab := rfl
@[simp] theorem State.updLine_out (l : Nat) (f : Line → Line) : (s.updLine l f).out = s.out := rfl

/-! ## updLink -/

@[simp] theorem State.updLink_pending (p : Nat) (f : Link → Link) : (s.updLink p f).pending = s.pending := rfl
@[simp] theorem State.updLink_btime (p : Nat) (f : Link → Link) : (s.updLink p f).btime = s.btime := rfl
@[simp] theorem State.updLink_free (p : Nat) (f : Link → Link) : (s.updLink p f).free = s.free := rfl
@[simp] theorem State.updLink_mem (p : Nat) (f : Link → Link) : (s.updLink p f).mem = s.mem := rfl
@[simp] theorem State.updLink_exposed (p : Nat) (f : Link → Link) : (s.updLink p f).exposed = s.exposed := rfl
@[simp] theorem State.updLink_scrubbed (p : Nat) (f : Link → Link) : (s.updLink p f).scrubbed = s.scrubbed := rfl
@[simp] theorem State.updLink_ext (p : Nat) (f : Link → Link) : (s.updLink p f).ext = s.ext := rfl
@[simp] theorem State.updLink_fns (p : Nat) (f : Link → Link) : (s.updLink p f).fns = s.fns := rfl
@[simp] theorem State.updLink_store (p : Nat) (f : Link → Link) : (s.updLink p f).store = s.store := rfl
@[simp] theorem State.updLink_cmds (p : Nat) (f : Link → Link) : (s.updLink p f).cmds = s.cmds := rfl
@[simp] theorem State.updLink_nextCid (p : Nat) (f : Link → Link) : (s.updLink p f).nextCid = s.nextCid := rfl
@[simp] theorem State.updLink_ctxs (p : Nat) (f : Link → Link) : (s.updLink p f).ctxs = s.ctxs := rfl
@[simp] theorem State.updLink_live (p : Nat) (f : Link → Link) : (s.updLink p f).live = s.live := rfl
@[simp] theorem State.updLink_allocs (p : Nat) (f : Link → Link) : (s.updLink p f).allocs = s.allocs := rfl
@[simp] theorem State.updLink_nextObj (p : Nat) (f : Link → Link) : (s.updLink p f).nextObj = s.nextObj := rfl
@[simp] theorem State.updLink_tlb (p : Nat) (f : Link → Link) : (s.updLink p f).tlb = s.tlb := rfl
@[simp] theorem State.updLink_ats (p : Nat) (f : Link → Link) : (s.updLink p f).ats = s.ats := rfl
@[simp] theorem State.updLink_cores (p : Nat) (f : Link → Link) : (s.updLink p f).cores = s.cores := rfl
@[simp] theorem State.updLink_groups (p : Nat) (f : Link → Link) : (s.updLink p f).groups = s.groups := rfl
@[simp] theorem State.updLink_waiters (p : Nat) (f : Link → Link) : (s.updLink p f).waiters = s.waiters := rfl
@[simp] theorem State.updLink_lines (p : Nat) (f : Link → Link) : (s.updLink p f).lines = s.lines := rfl
@[simp] theorem State.updLink_dirClock (p : Nat) (f : Link → Link) : (s.updLink p f).dirClock = s.dirClock := rfl
@[simp] theorem State.updLink_hides (p : Nat) (f : Link → Link) : (s.updLink p f).hides = s.hides := rfl
@[simp] theorem State.updLink_moves (p : Nat) (f : Link → Link) : (s.updLink p f).moves = s.moves := rfl
@[simp] theorem State.updLink_mgrMoved (p : Nat) (f : Link → Link) : (s.updLink p f).mgrMoved = s.mgrMoved := rfl
@[simp] theorem State.updLink_plans (p : Nat) (f : Link → Link) : (s.updLink p f).plans = s.plans := rfl
@[simp] theorem State.updLink_seqs (p : Nat) (f : Link → Link) : (s.updLink p f).seqs = s.seqs := rfl
@[simp] theorem State.updLink_pendOrder (p : Nat) (f : Link → Link) : (s.updLink p f).pendOrder = s.pendOrder := rfl
@[simp] theorem State.updLink_movers (p : Nat) (f : Link → Link) : (s.updLink p f).movers = s.movers := rfl
@[simp] theorem State.updLink_eg (p : Nat) (f : Link → Link) : (s.updLink p f).eg = s.eg := rfl
@[simp] theorem State.updLink_wms (p : Nat) (f : Link → Link) : (s.updLink p f).wms = s.wms := rfl
@[simp] theorem State.updLink_boxes (p : Nat) (f : Link → Link) : (s.updLink p f).boxes = s.boxes := rfl
@[simp] theorem State.updLink_kod (p : Nat) (f : Link → Link) : (s.updLink p f).kod = s.kod := rfl
@[simp] theorem State.updLink_ao (p : Nat) (f : Link → Link) : (s.updLink p f).ao = s.ao := rfl
@[simp] theorem State.updLink_gov (p : Nat) (f : Link → Link) : (s.updLink p f).gov = s.gov := rfl
@[simp] theorem State.updLink_pow (p : Nat) (f : Link → Link) : (s.updLink p f).pow = s.pow := rfl
@[simp] theorem State.updLink_engines (p : Nat) (f : Link → Link) : (s.updLink p f).engines = s.engines := rfl
@[simp] theorem State.updLink_sports (p : Nat) (f : Link → Link) : (s.updLink p f).sports = s.sports := rfl
@[simp] theorem State.updLink_out (p : Nat) (f : Link → Link) : (s.updLink p f).out = s.out := rfl

/-! ## updMover -/

@[simp] theorem State.updMover_pending (m : Nat) (f : Mover → Mover) : (s.updMover m f).pending = s.pending := rfl
@[simp] theorem State.updMover_btime (m : Nat) (f : Mover → Mover) : (s.updMover m f).btime = s.btime := rfl
@[simp] theorem State.updMover_free (m : Nat) (f : Mover → Mover) : (s.updMover m f).free = s.free := rfl
@[simp] theorem State.updMover_mem (m : Nat) (f : Mover → Mover) : (s.updMover m f).mem = s.mem := rfl
@[simp] theorem State.updMover_exposed (m : Nat) (f : Mover → Mover) : (s.updMover m f).exposed = s.exposed := rfl
@[simp] theorem State.updMover_scrubbed (m : Nat) (f : Mover → Mover) : (s.updMover m f).scrubbed = s.scrubbed := rfl
@[simp] theorem State.updMover_ext (m : Nat) (f : Mover → Mover) : (s.updMover m f).ext = s.ext := rfl
@[simp] theorem State.updMover_fns (m : Nat) (f : Mover → Mover) : (s.updMover m f).fns = s.fns := rfl
@[simp] theorem State.updMover_store (m : Nat) (f : Mover → Mover) : (s.updMover m f).store = s.store := rfl
@[simp] theorem State.updMover_cmds (m : Nat) (f : Mover → Mover) : (s.updMover m f).cmds = s.cmds := rfl
@[simp] theorem State.updMover_nextCid (m : Nat) (f : Mover → Mover) : (s.updMover m f).nextCid = s.nextCid := rfl
@[simp] theorem State.updMover_ctxs (m : Nat) (f : Mover → Mover) : (s.updMover m f).ctxs = s.ctxs := rfl
@[simp] theorem State.updMover_live (m : Nat) (f : Mover → Mover) : (s.updMover m f).live = s.live := rfl
@[simp] theorem State.updMover_allocs (m : Nat) (f : Mover → Mover) : (s.updMover m f).allocs = s.allocs := rfl
@[simp] theorem State.updMover_nextObj (m : Nat) (f : Mover → Mover) : (s.updMover m f).nextObj = s.nextObj := rfl
@[simp] theorem State.updMover_tlb (m : Nat) (f : Mover → Mover) : (s.updMover m f).tlb = s.tlb := rfl
@[simp] theorem State.updMover_ats (m : Nat) (f : Mover → Mover) : (s.updMover m f).ats = s.ats := rfl
@[simp] theorem State.updMover_cores (m : Nat) (f : Mover → Mover) : (s.updMover m f).cores = s.cores := rfl
@[simp] theorem State.updMover_groups (m : Nat) (f : Mover → Mover) : (s.updMover m f).groups = s.groups := rfl
@[simp] theorem State.updMover_waiters (m : Nat) (f : Mover → Mover) : (s.updMover m f).waiters = s.waiters := rfl
@[simp] theorem State.updMover_lines (m : Nat) (f : Mover → Mover) : (s.updMover m f).lines = s.lines := rfl
@[simp] theorem State.updMover_dirClock (m : Nat) (f : Mover → Mover) : (s.updMover m f).dirClock = s.dirClock := rfl
@[simp] theorem State.updMover_hides (m : Nat) (f : Mover → Mover) : (s.updMover m f).hides = s.hides := rfl
@[simp] theorem State.updMover_moves (m : Nat) (f : Mover → Mover) : (s.updMover m f).moves = s.moves := rfl
@[simp] theorem State.updMover_mgrMoved (m : Nat) (f : Mover → Mover) : (s.updMover m f).mgrMoved = s.mgrMoved := rfl
@[simp] theorem State.updMover_plans (m : Nat) (f : Mover → Mover) : (s.updMover m f).plans = s.plans := rfl
@[simp] theorem State.updMover_seqs (m : Nat) (f : Mover → Mover) : (s.updMover m f).seqs = s.seqs := rfl
@[simp] theorem State.updMover_pendOrder (m : Nat) (f : Mover → Mover) : (s.updMover m f).pendOrder = s.pendOrder := rfl
@[simp] theorem State.updMover_eg (m : Nat) (f : Mover → Mover) : (s.updMover m f).eg = s.eg := rfl
@[simp] theorem State.updMover_wms (m : Nat) (f : Mover → Mover) : (s.updMover m f).wms = s.wms := rfl
@[simp] theorem State.updMover_boxes (m : Nat) (f : Mover → Mover) : (s.updMover m f).boxes = s.boxes := rfl
@[simp] theorem State.updMover_kod (m : Nat) (f : Mover → Mover) : (s.updMover m f).kod = s.kod := rfl
@[simp] theorem State.updMover_ao (m : Nat) (f : Mover → Mover) : (s.updMover m f).ao = s.ao := rfl
@[simp] theorem State.updMover_gov (m : Nat) (f : Mover → Mover) : (s.updMover m f).gov = s.gov := rfl
@[simp] theorem State.updMover_pow (m : Nat) (f : Mover → Mover) : (s.updMover m f).pow = s.pow := rfl
@[simp] theorem State.updMover_engines (m : Nat) (f : Mover → Mover) : (s.updMover m f).engines = s.engines := rfl
@[simp] theorem State.updMover_sports (m : Nat) (f : Mover → Mover) : (s.updMover m f).sports = s.sports := rfl
@[simp] theorem State.updMover_fab (m : Nat) (f : Mover → Mover) : (s.updMover m f).fab = s.fab := rfl
@[simp] theorem State.updMover_out (m : Nat) (f : Mover → Mover) : (s.updMover m f).out = s.out := rfl

/-! ## updGov -/

@[simp] theorem State.updGov_pending (f : Gov → Gov) : (s.updGov f).pending = s.pending := rfl
@[simp] theorem State.updGov_btime (f : Gov → Gov) : (s.updGov f).btime = s.btime := rfl
@[simp] theorem State.updGov_free (f : Gov → Gov) : (s.updGov f).free = s.free := rfl
@[simp] theorem State.updGov_mem (f : Gov → Gov) : (s.updGov f).mem = s.mem := rfl
@[simp] theorem State.updGov_exposed (f : Gov → Gov) : (s.updGov f).exposed = s.exposed := rfl
@[simp] theorem State.updGov_scrubbed (f : Gov → Gov) : (s.updGov f).scrubbed = s.scrubbed := rfl
@[simp] theorem State.updGov_ext (f : Gov → Gov) : (s.updGov f).ext = s.ext := rfl
@[simp] theorem State.updGov_fns (f : Gov → Gov) : (s.updGov f).fns = s.fns := rfl
@[simp] theorem State.updGov_store (f : Gov → Gov) : (s.updGov f).store = s.store := rfl
@[simp] theorem State.updGov_cmds (f : Gov → Gov) : (s.updGov f).cmds = s.cmds := rfl
@[simp] theorem State.updGov_nextCid (f : Gov → Gov) : (s.updGov f).nextCid = s.nextCid := rfl
@[simp] theorem State.updGov_ctxs (f : Gov → Gov) : (s.updGov f).ctxs = s.ctxs := rfl
@[simp] theorem State.updGov_live (f : Gov → Gov) : (s.updGov f).live = s.live := rfl
@[simp] theorem State.updGov_allocs (f : Gov → Gov) : (s.updGov f).allocs = s.allocs := rfl
@[simp] theorem State.updGov_nextObj (f : Gov → Gov) : (s.updGov f).nextObj = s.nextObj := rfl
@[simp] theorem State.updGov_tlb (f : Gov → Gov) : (s.updGov f).tlb = s.tlb := rfl
@[simp] theorem State.updGov_ats (f : Gov → Gov) : (s.updGov f).ats = s.ats := rfl
@[simp] theorem State.updGov_cores (f : Gov → Gov) : (s.updGov f).cores = s.cores := rfl
@[simp] theorem State.updGov_groups (f : Gov → Gov) : (s.updGov f).groups = s.groups := rfl
@[simp] theorem State.updGov_waiters (f : Gov → Gov) : (s.updGov f).waiters = s.waiters := rfl
@[simp] theorem State.updGov_lines (f : Gov → Gov) : (s.updGov f).lines = s.lines := rfl
@[simp] theorem State.updGov_dirClock (f : Gov → Gov) : (s.updGov f).dirClock = s.dirClock := rfl
@[simp] theorem State.updGov_hides (f : Gov → Gov) : (s.updGov f).hides = s.hides := rfl
@[simp] theorem State.updGov_moves (f : Gov → Gov) : (s.updGov f).moves = s.moves := rfl
@[simp] theorem State.updGov_mgrMoved (f : Gov → Gov) : (s.updGov f).mgrMoved = s.mgrMoved := rfl
@[simp] theorem State.updGov_plans (f : Gov → Gov) : (s.updGov f).plans = s.plans := rfl
@[simp] theorem State.updGov_seqs (f : Gov → Gov) : (s.updGov f).seqs = s.seqs := rfl
@[simp] theorem State.updGov_pendOrder (f : Gov → Gov) : (s.updGov f).pendOrder = s.pendOrder := rfl
@[simp] theorem State.updGov_movers (f : Gov → Gov) : (s.updGov f).movers = s.movers := rfl
@[simp] theorem State.updGov_eg (f : Gov → Gov) : (s.updGov f).eg = s.eg := rfl
@[simp] theorem State.updGov_wms (f : Gov → Gov) : (s.updGov f).wms = s.wms := rfl
@[simp] theorem State.updGov_boxes (f : Gov → Gov) : (s.updGov f).boxes = s.boxes := rfl
@[simp] theorem State.updGov_kod (f : Gov → Gov) : (s.updGov f).kod = s.kod := rfl
@[simp] theorem State.updGov_ao (f : Gov → Gov) : (s.updGov f).ao = s.ao := rfl
@[simp] theorem State.updGov_pow (f : Gov → Gov) : (s.updGov f).pow = s.pow := rfl
@[simp] theorem State.updGov_engines (f : Gov → Gov) : (s.updGov f).engines = s.engines := rfl
@[simp] theorem State.updGov_sports (f : Gov → Gov) : (s.updGov f).sports = s.sports := rfl
@[simp] theorem State.updGov_fab (f : Gov → Gov) : (s.updGov f).fab = s.fab := rfl
@[simp] theorem State.updGov_out (f : Gov → Gov) : (s.updGov f).out = s.out := rfl

/-! ## updPow -/

@[simp] theorem State.updPow_pending (f : Power → Power) : (s.updPow f).pending = s.pending := rfl
@[simp] theorem State.updPow_btime (f : Power → Power) : (s.updPow f).btime = s.btime := rfl
@[simp] theorem State.updPow_free (f : Power → Power) : (s.updPow f).free = s.free := rfl
@[simp] theorem State.updPow_mem (f : Power → Power) : (s.updPow f).mem = s.mem := rfl
@[simp] theorem State.updPow_exposed (f : Power → Power) : (s.updPow f).exposed = s.exposed := rfl
@[simp] theorem State.updPow_scrubbed (f : Power → Power) : (s.updPow f).scrubbed = s.scrubbed := rfl
@[simp] theorem State.updPow_ext (f : Power → Power) : (s.updPow f).ext = s.ext := rfl
@[simp] theorem State.updPow_fns (f : Power → Power) : (s.updPow f).fns = s.fns := rfl
@[simp] theorem State.updPow_store (f : Power → Power) : (s.updPow f).store = s.store := rfl
@[simp] theorem State.updPow_cmds (f : Power → Power) : (s.updPow f).cmds = s.cmds := rfl
@[simp] theorem State.updPow_nextCid (f : Power → Power) : (s.updPow f).nextCid = s.nextCid := rfl
@[simp] theorem State.updPow_ctxs (f : Power → Power) : (s.updPow f).ctxs = s.ctxs := rfl
@[simp] theorem State.updPow_live (f : Power → Power) : (s.updPow f).live = s.live := rfl
@[simp] theorem State.updPow_allocs (f : Power → Power) : (s.updPow f).allocs = s.allocs := rfl
@[simp] theorem State.updPow_nextObj (f : Power → Power) : (s.updPow f).nextObj = s.nextObj := rfl
@[simp] theorem State.updPow_tlb (f : Power → Power) : (s.updPow f).tlb = s.tlb := rfl
@[simp] theorem State.updPow_ats (f : Power → Power) : (s.updPow f).ats = s.ats := rfl
@[simp] theorem State.updPow_cores (f : Power → Power) : (s.updPow f).cores = s.cores := rfl
@[simp] theorem State.updPow_groups (f : Power → Power) : (s.updPow f).groups = s.groups := rfl
@[simp] theorem State.updPow_waiters (f : Power → Power) : (s.updPow f).waiters = s.waiters := rfl
@[simp] theorem State.updPow_lines (f : Power → Power) : (s.updPow f).lines = s.lines := rfl
@[simp] theorem State.updPow_dirClock (f : Power → Power) : (s.updPow f).dirClock = s.dirClock := rfl
@[simp] theorem State.updPow_hides (f : Power → Power) : (s.updPow f).hides = s.hides := rfl
@[simp] theorem State.updPow_moves (f : Power → Power) : (s.updPow f).moves = s.moves := rfl
@[simp] theorem State.updPow_mgrMoved (f : Power → Power) : (s.updPow f).mgrMoved = s.mgrMoved := rfl
@[simp] theorem State.updPow_plans (f : Power → Power) : (s.updPow f).plans = s.plans := rfl
@[simp] theorem State.updPow_seqs (f : Power → Power) : (s.updPow f).seqs = s.seqs := rfl
@[simp] theorem State.updPow_pendOrder (f : Power → Power) : (s.updPow f).pendOrder = s.pendOrder := rfl
@[simp] theorem State.updPow_movers (f : Power → Power) : (s.updPow f).movers = s.movers := rfl
@[simp] theorem State.updPow_eg (f : Power → Power) : (s.updPow f).eg = s.eg := rfl
@[simp] theorem State.updPow_wms (f : Power → Power) : (s.updPow f).wms = s.wms := rfl
@[simp] theorem State.updPow_boxes (f : Power → Power) : (s.updPow f).boxes = s.boxes := rfl
@[simp] theorem State.updPow_kod (f : Power → Power) : (s.updPow f).kod = s.kod := rfl
@[simp] theorem State.updPow_ao (f : Power → Power) : (s.updPow f).ao = s.ao := rfl
@[simp] theorem State.updPow_gov (f : Power → Power) : (s.updPow f).gov = s.gov := rfl
@[simp] theorem State.updPow_engines (f : Power → Power) : (s.updPow f).engines = s.engines := rfl
@[simp] theorem State.updPow_sports (f : Power → Power) : (s.updPow f).sports = s.sports := rfl
@[simp] theorem State.updPow_fab (f : Power → Power) : (s.updPow f).fab = s.fab := rfl
@[simp] theorem State.updPow_out (f : Power → Power) : (s.updPow f).out = s.out := rfl

/-! ## dropReq -/

@[simp] theorem State.dropReq_pending (r : RReq) : (s.dropReq r).pending = s.pending := rfl
@[simp] theorem State.dropReq_btime (r : RReq) : (s.dropReq r).btime = s.btime := rfl
@[simp] theorem State.dropReq_free (r : RReq) : (s.dropReq r).free = s.free := rfl
@[simp] theorem State.dropReq_mem (r : RReq) : (s.dropReq r).mem = s.mem := rfl
@[simp] theorem State.dropReq_exposed (r : RReq) : (s.dropReq r).exposed = s.exposed := rfl
@[simp] theorem State.dropReq_scrubbed (r : RReq) : (s.dropReq r).scrubbed = s.scrubbed := rfl
@[simp] theorem State.dropReq_ext (r : RReq) : (s.dropReq r).ext = s.ext := rfl
@[simp] theorem State.dropReq_fns (r : RReq) : (s.dropReq r).fns = s.fns := rfl
@[simp] theorem State.dropReq_store (r : RReq) : (s.dropReq r).store = s.store := rfl
@[simp] theorem State.dropReq_cmds (r : RReq) : (s.dropReq r).cmds = s.cmds := rfl
@[simp] theorem State.dropReq_nextCid (r : RReq) : (s.dropReq r).nextCid = s.nextCid := rfl
@[simp] theorem State.dropReq_ctxs (r : RReq) : (s.dropReq r).ctxs = s.ctxs := rfl
@[simp] theorem State.dropReq_live (r : RReq) : (s.dropReq r).live = s.live := rfl
@[simp] theorem State.dropReq_allocs (r : RReq) : (s.dropReq r).allocs = s.allocs := rfl
@[simp] theorem State.dropReq_nextObj (r : RReq) : (s.dropReq r).nextObj = s.nextObj := rfl
@[simp] theorem State.dropReq_tlb (r : RReq) : (s.dropReq r).tlb = s.tlb := rfl
@[simp] theorem State.dropReq_ats (r : RReq) : (s.dropReq r).ats = s.ats := rfl
@[simp] theorem State.dropReq_cores (r : RReq) : (s.dropReq r).cores = s.cores := rfl
@[simp] theorem State.dropReq_groups (r : RReq) : (s.dropReq r).groups = s.groups := rfl
@[simp] theorem State.dropReq_waiters (r : RReq) : (s.dropReq r).waiters = s.waiters := rfl
@[simp] theorem State.dropReq_lines (r : RReq) : (s.dropReq r).lines = s.lines := rfl
@[simp] theorem State.dropReq_dirClock (r : RReq) : (s.dropReq r).dirClock = s.dirClock := rfl
@[simp] theorem State.dropReq_hides (r : RReq) : (s.dropReq r).hides = s.hides := rfl
@[simp] theorem State.dropReq_moves (r : RReq) : (s.dropReq r).moves = s.moves := rfl
@[simp] theorem State.dropReq_mgrMoved (r : RReq) : (s.dropReq r).mgrMoved = s.mgrMoved := rfl
@[simp] theorem State.dropReq_plans (r : RReq) : (s.dropReq r).plans = s.plans := rfl
@[simp] theorem State.dropReq_seqs (r : RReq) : (s.dropReq r).seqs = s.seqs := rfl
@[simp] theorem State.dropReq_pendOrder (r : RReq) : (s.dropReq r).pendOrder = s.pendOrder := rfl
@[simp] theorem State.dropReq_movers (r : RReq) : (s.dropReq r).movers = s.movers := rfl
@[simp] theorem State.dropReq_eg (r : RReq) : (s.dropReq r).eg = s.eg := rfl
@[simp] theorem State.dropReq_wms (r : RReq) : (s.dropReq r).wms = s.wms := rfl
@[simp] theorem State.dropReq_boxes (r : RReq) : (s.dropReq r).boxes = s.boxes := rfl
@[simp] theorem State.dropReq_kod (r : RReq) : (s.dropReq r).kod = s.kod := rfl
@[simp] theorem State.dropReq_ao (r : RReq) : (s.dropReq r).ao = s.ao := rfl
@[simp] theorem State.dropReq_gov (r : RReq) : (s.dropReq r).gov = s.gov := rfl
@[simp] theorem State.dropReq_pow (r : RReq) : (s.dropReq r).pow = s.pow := rfl
@[simp] theorem State.dropReq_engines (r : RReq) : (s.dropReq r).engines = s.engines := rfl
@[simp] theorem State.dropReq_sports (r : RReq) : (s.dropReq r).sports = s.sports := rfl
@[simp] theorem State.dropReq_out (r : RReq) : (s.dropReq r).out = s.out := rfl

/-! ## dropWaiter -/

@[simp] theorem State.dropWaiter_pending (w : Waiter) : (s.dropWaiter w).pending = s.pending := rfl
@[simp] theorem State.dropWaiter_btime (w : Waiter) : (s.dropWaiter w).btime = s.btime := rfl
@[simp] theorem State.dropWaiter_free (w : Waiter) : (s.dropWaiter w).free = s.free := rfl
@[simp] theorem State.dropWaiter_mem (w : Waiter) : (s.dropWaiter w).mem = s.mem := rfl
@[simp] theorem State.dropWaiter_exposed (w : Waiter) : (s.dropWaiter w).exposed = s.exposed := rfl
@[simp] theorem State.dropWaiter_scrubbed (w : Waiter) : (s.dropWaiter w).scrubbed = s.scrubbed := rfl
@[simp] theorem State.dropWaiter_ext (w : Waiter) : (s.dropWaiter w).ext = s.ext := rfl
@[simp] theorem State.dropWaiter_fns (w : Waiter) : (s.dropWaiter w).fns = s.fns := rfl
@[simp] theorem State.dropWaiter_store (w : Waiter) : (s.dropWaiter w).store = s.store := rfl
@[simp] theorem State.dropWaiter_cmds (w : Waiter) : (s.dropWaiter w).cmds = s.cmds := rfl
@[simp] theorem State.dropWaiter_nextCid (w : Waiter) : (s.dropWaiter w).nextCid = s.nextCid := rfl
@[simp] theorem State.dropWaiter_ctxs (w : Waiter) : (s.dropWaiter w).ctxs = s.ctxs := rfl
@[simp] theorem State.dropWaiter_live (w : Waiter) : (s.dropWaiter w).live = s.live := rfl
@[simp] theorem State.dropWaiter_allocs (w : Waiter) : (s.dropWaiter w).allocs = s.allocs := rfl
@[simp] theorem State.dropWaiter_nextObj (w : Waiter) : (s.dropWaiter w).nextObj = s.nextObj := rfl
@[simp] theorem State.dropWaiter_tlb (w : Waiter) : (s.dropWaiter w).tlb = s.tlb := rfl
@[simp] theorem State.dropWaiter_ats (w : Waiter) : (s.dropWaiter w).ats = s.ats := rfl
@[simp] theorem State.dropWaiter_cores (w : Waiter) : (s.dropWaiter w).cores = s.cores := rfl
@[simp] theorem State.dropWaiter_groups (w : Waiter) : (s.dropWaiter w).groups = s.groups := rfl
@[simp] theorem State.dropWaiter_lines (w : Waiter) : (s.dropWaiter w).lines = s.lines := rfl
@[simp] theorem State.dropWaiter_dirClock (w : Waiter) : (s.dropWaiter w).dirClock = s.dirClock := rfl
@[simp] theorem State.dropWaiter_hides (w : Waiter) : (s.dropWaiter w).hides = s.hides := rfl
@[simp] theorem State.dropWaiter_moves (w : Waiter) : (s.dropWaiter w).moves = s.moves := rfl
@[simp] theorem State.dropWaiter_mgrMoved (w : Waiter) : (s.dropWaiter w).mgrMoved = s.mgrMoved := rfl
@[simp] theorem State.dropWaiter_plans (w : Waiter) : (s.dropWaiter w).plans = s.plans := rfl
@[simp] theorem State.dropWaiter_seqs (w : Waiter) : (s.dropWaiter w).seqs = s.seqs := rfl
@[simp] theorem State.dropWaiter_pendOrder (w : Waiter) : (s.dropWaiter w).pendOrder = s.pendOrder := rfl
@[simp] theorem State.dropWaiter_movers (w : Waiter) : (s.dropWaiter w).movers = s.movers := rfl
@[simp] theorem State.dropWaiter_eg (w : Waiter) : (s.dropWaiter w).eg = s.eg := rfl
@[simp] theorem State.dropWaiter_wms (w : Waiter) : (s.dropWaiter w).wms = s.wms := rfl
@[simp] theorem State.dropWaiter_boxes (w : Waiter) : (s.dropWaiter w).boxes = s.boxes := rfl
@[simp] theorem State.dropWaiter_kod (w : Waiter) : (s.dropWaiter w).kod = s.kod := rfl
@[simp] theorem State.dropWaiter_ao (w : Waiter) : (s.dropWaiter w).ao = s.ao := rfl
@[simp] theorem State.dropWaiter_gov (w : Waiter) : (s.dropWaiter w).gov = s.gov := rfl
@[simp] theorem State.dropWaiter_pow (w : Waiter) : (s.dropWaiter w).pow = s.pow := rfl
@[simp] theorem State.dropWaiter_engines (w : Waiter) : (s.dropWaiter w).engines = s.engines := rfl
@[simp] theorem State.dropWaiter_sports (w : Waiter) : (s.dropWaiter w).sports = s.sports := rfl
@[simp] theorem State.dropWaiter_fab (w : Waiter) : (s.dropWaiter w).fab = s.fab := rfl
@[simp] theorem State.dropWaiter_out (w : Waiter) : (s.dropWaiter w).out = s.out := rfl

/-! ## retime -/

@[simp] theorem State.retime_pending : (s.retime).pending = s.pending := rfl
@[simp] theorem State.retime_btime : (s.retime).btime = s.btime := rfl
@[simp] theorem State.retime_free : (s.retime).free = s.free := rfl
@[simp] theorem State.retime_mem : (s.retime).mem = s.mem := rfl
@[simp] theorem State.retime_exposed : (s.retime).exposed = s.exposed := rfl
@[simp] theorem State.retime_scrubbed : (s.retime).scrubbed = s.scrubbed := rfl
@[simp] theorem State.retime_ext : (s.retime).ext = s.ext := rfl
@[simp] theorem State.retime_fns : (s.retime).fns = s.fns := rfl
@[simp] theorem State.retime_store : (s.retime).store = s.store := rfl
@[simp] theorem State.retime_nextCid : (s.retime).nextCid = s.nextCid := rfl
@[simp] theorem State.retime_ctxs : (s.retime).ctxs = s.ctxs := rfl
@[simp] theorem State.retime_live : (s.retime).live = s.live := rfl
@[simp] theorem State.retime_allocs : (s.retime).allocs = s.allocs := rfl
@[simp] theorem State.retime_nextObj : (s.retime).nextObj = s.nextObj := rfl
@[simp] theorem State.retime_tlb : (s.retime).tlb = s.tlb := rfl
@[simp] theorem State.retime_ats : (s.retime).ats = s.ats := rfl
@[simp] theorem State.retime_cores : (s.retime).cores = s.cores := rfl
@[simp] theorem State.retime_groups : (s.retime).groups = s.groups := rfl
@[simp] theorem State.retime_waiters : (s.retime).waiters = s.waiters := rfl
@[simp] theorem State.retime_lines : (s.retime).lines = s.lines := rfl
@[simp] theorem State.retime_dirClock : (s.retime).dirClock = s.dirClock := rfl
@[simp] theorem State.retime_hides : (s.retime).hides = s.hides := rfl
@[simp] theorem State.retime_moves : (s.retime).moves = s.moves := rfl
@[simp] theorem State.retime_mgrMoved : (s.retime).mgrMoved = s.mgrMoved := rfl
@[simp] theorem State.retime_plans : (s.retime).plans = s.plans := rfl
@[simp] theorem State.retime_seqs : (s.retime).seqs = s.seqs := rfl
@[simp] theorem State.retime_pendOrder : (s.retime).pendOrder = s.pendOrder := rfl
@[simp] theorem State.retime_movers : (s.retime).movers = s.movers := rfl
@[simp] theorem State.retime_eg : (s.retime).eg = s.eg := rfl
@[simp] theorem State.retime_wms : (s.retime).wms = s.wms := rfl
@[simp] theorem State.retime_boxes : (s.retime).boxes = s.boxes := rfl
@[simp] theorem State.retime_kod : (s.retime).kod = s.kod := rfl
@[simp] theorem State.retime_ao : (s.retime).ao = s.ao := rfl
@[simp] theorem State.retime_gov : (s.retime).gov = s.gov := rfl
@[simp] theorem State.retime_pow : (s.retime).pow = s.pow := rfl
@[simp] theorem State.retime_engines : (s.retime).engines = s.engines := rfl
@[simp] theorem State.retime_sports : (s.retime).sports = s.sports := rfl
@[simp] theorem State.retime_fab : (s.retime).fab = s.fab := rfl
@[simp] theorem State.retime_out : (s.retime).out = s.out := rfl

/-! ## updChan -/

@[simp] theorem State.updChan_pending (m c : Nat) (f : Chan → Chan) : (s.updChan m c f).pending = s.pending := rfl
@[simp] theorem State.updChan_btime (m c : Nat) (f : Chan → Chan) : (s.updChan m c f).btime = s.btime := rfl
@[simp] theorem State.updChan_free (m c : Nat) (f : Chan → Chan) : (s.updChan m c f).free = s.free := rfl
@[simp] theorem State.updChan_mem (m c : Nat) (f : Chan → Chan) : (s.updChan m c f).mem = s.mem := rfl
@[simp] theorem State.updChan_exposed (m c : Nat) (f : Chan → Chan) : (s.updChan m c f).exposed = s.exposed := rfl
@[simp] theorem State.updChan_scrubbed (m c : Nat) (f : Chan → Chan) : (s.updChan m c f).scrubbed = s.scrubbed := rfl
@[simp] theorem State.updChan_ext (m c : Nat) (f : Chan → Chan) : (s.updChan m c f).ext = s.ext := rfl
@[simp] theorem State.updChan_fns (m c : Nat) (f : Chan → Chan) : (s.updChan m c f).fns = s.fns := rfl
@[simp] theorem State.updChan_store (m c : Nat) (f : Chan → Chan) : (s.updChan m c f).store = s.store := rfl
@[simp] theorem State.updChan_cmds (m c : Nat) (f : Chan → Chan) : (s.updChan m c f).cmds = s.cmds := rfl
@[simp] theorem State.updChan_nextCid (m c : Nat) (f : Chan → Chan) : (s.updChan m c f).nextCid = s.nextCid := rfl
@[simp] theorem State.updChan_ctxs (m c : Nat) (f : Chan → Chan) : (s.updChan m c f).ctxs = s.ctxs := rfl
@[simp] theorem State.updChan_live (m c : Nat) (f : Chan → Chan) : (s.updChan m c f).live = s.live := rfl
@[simp] theorem State.updChan_allocs (m c : Nat) (f : Chan → Chan) : (s.updChan m c f).allocs = s.allocs := rfl
@[simp] theorem State.updChan_nextObj (m c : Nat) (f : Chan → Chan) : (s.updChan m c f).nextObj = s.nextObj := rfl
@[simp] theorem State.updChan_tlb (m c : Nat) (f : Chan → Chan) : (s.updChan m c f).tlb = s.tlb := rfl
@[simp] theorem State.updChan_ats (m c : Nat) (f : Chan → Chan) : (s.updChan m c f).ats = s.ats := rfl
@[simp] theorem State.updChan_cores (m c : Nat) (f : Chan → Chan) : (s.updChan m c f).cores = s.cores := rfl
@[simp] theorem State.updChan_groups (m c : Nat) (f : Chan → Chan) : (s.updChan m c f).groups = s.groups := rfl
@[simp] theorem State.updChan_waiters (m c : Nat) (f : Chan → Chan) : (s.updChan m c f).waiters = s.waiters := rfl
@[simp] theorem State.updChan_lines (m c : Nat) (f : Chan → Chan) : (s.updChan m c f).lines = s.lines := rfl
@[simp] theorem State.updChan_dirClock (m c : Nat) (f : Chan → Chan) : (s.updChan m c f).dirClock = s.dirClock := rfl
@[simp] theorem State.updChan_hides (m c : Nat) (f : Chan → Chan) : (s.updChan m c f).hides = s.hides := rfl
@[simp] theorem State.updChan_moves (m c : Nat) (f : Chan → Chan) : (s.updChan m c f).moves = s.moves := rfl
@[simp] theorem State.updChan_mgrMoved (m c : Nat) (f : Chan → Chan) : (s.updChan m c f).mgrMoved = s.mgrMoved := rfl
@[simp] theorem State.updChan_plans (m c : Nat) (f : Chan → Chan) : (s.updChan m c f).plans = s.plans := rfl
@[simp] theorem State.updChan_seqs (m c : Nat) (f : Chan → Chan) : (s.updChan m c f).seqs = s.seqs := rfl
@[simp] theorem State.updChan_pendOrder (m c : Nat) (f : Chan → Chan) : (s.updChan m c f).pendOrder = s.pendOrder := rfl
@[simp] theorem State.updChan_eg (m c : Nat) (f : Chan → Chan) : (s.updChan m c f).eg = s.eg := rfl
@[simp] theorem State.updChan_wms (m c : Nat) (f : Chan → Chan) : (s.updChan m c f).wms = s.wms := rfl
@[simp] theorem State.updChan_boxes (m c : Nat) (f : Chan → Chan) : (s.updChan m c f).boxes = s.boxes := rfl
@[simp] theorem State.updChan_kod (m c : Nat) (f : Chan → Chan) : (s.updChan m c f).kod = s.kod := rfl
@[simp] theorem State.updChan_ao (m c : Nat) (f : Chan → Chan) : (s.updChan m c f).ao = s.ao := rfl
@[simp] theorem State.updChan_gov (m c : Nat) (f : Chan → Chan) : (s.updChan m c f).gov = s.gov := rfl
@[simp] theorem State.updChan_pow (m c : Nat) (f : Chan → Chan) : (s.updChan m c f).pow = s.pow := rfl
@[simp] theorem State.updChan_engines (m c : Nat) (f : Chan → Chan) : (s.updChan m c f).engines = s.engines := rfl
@[simp] theorem State.updChan_sports (m c : Nat) (f : Chan → Chan) : (s.updChan m c f).sports = s.sports := rfl
@[simp] theorem State.updChan_fab (m c : Nat) (f : Chan → Chan) : (s.updChan m c f).fab = s.fab := rfl
@[simp] theorem State.updChan_out (m c : Nat) (f : Chan → Chan) : (s.updChan m c f).out = s.out := rfl

/-! ## updAcre -/

@[simp] theorem State.updAcre_pending (h : Nat) (f : Acre → Acre) : (s.updAcre h f).pending = s.pending := rfl
@[simp] theorem State.updAcre_btime (h : Nat) (f : Acre → Acre) : (s.updAcre h f).btime = s.btime := rfl
@[simp] theorem State.updAcre_free (h : Nat) (f : Acre → Acre) : (s.updAcre h f).free = s.free := rfl
@[simp] theorem State.updAcre_mem (h : Nat) (f : Acre → Acre) : (s.updAcre h f).mem = s.mem := rfl
@[simp] theorem State.updAcre_exposed (h : Nat) (f : Acre → Acre) : (s.updAcre h f).exposed = s.exposed := rfl
@[simp] theorem State.updAcre_scrubbed (h : Nat) (f : Acre → Acre) : (s.updAcre h f).scrubbed = s.scrubbed := rfl
@[simp] theorem State.updAcre_ext (h : Nat) (f : Acre → Acre) : (s.updAcre h f).ext = s.ext := rfl
@[simp] theorem State.updAcre_fns (h : Nat) (f : Acre → Acre) : (s.updAcre h f).fns = s.fns := rfl
@[simp] theorem State.updAcre_store (h : Nat) (f : Acre → Acre) : (s.updAcre h f).store = s.store := rfl
@[simp] theorem State.updAcre_cmds (h : Nat) (f : Acre → Acre) : (s.updAcre h f).cmds = s.cmds := rfl
@[simp] theorem State.updAcre_nextCid (h : Nat) (f : Acre → Acre) : (s.updAcre h f).nextCid = s.nextCid := rfl
@[simp] theorem State.updAcre_ctxs (h : Nat) (f : Acre → Acre) : (s.updAcre h f).ctxs = s.ctxs := rfl
@[simp] theorem State.updAcre_live (h : Nat) (f : Acre → Acre) : (s.updAcre h f).live = s.live := rfl
@[simp] theorem State.updAcre_allocs (h : Nat) (f : Acre → Acre) : (s.updAcre h f).allocs = s.allocs := rfl
@[simp] theorem State.updAcre_nextObj (h : Nat) (f : Acre → Acre) : (s.updAcre h f).nextObj = s.nextObj := rfl
@[simp] theorem State.updAcre_tlb (h : Nat) (f : Acre → Acre) : (s.updAcre h f).tlb = s.tlb := rfl
@[simp] theorem State.updAcre_ats (h : Nat) (f : Acre → Acre) : (s.updAcre h f).ats = s.ats := rfl
@[simp] theorem State.updAcre_cores (h : Nat) (f : Acre → Acre) : (s.updAcre h f).cores = s.cores := rfl
@[simp] theorem State.updAcre_groups (h : Nat) (f : Acre → Acre) : (s.updAcre h f).groups = s.groups := rfl
@[simp] theorem State.updAcre_waiters (h : Nat) (f : Acre → Acre) : (s.updAcre h f).waiters = s.waiters := rfl
@[simp] theorem State.updAcre_lines (h : Nat) (f : Acre → Acre) : (s.updAcre h f).lines = s.lines := rfl
@[simp] theorem State.updAcre_dirClock (h : Nat) (f : Acre → Acre) : (s.updAcre h f).dirClock = s.dirClock := rfl
@[simp] theorem State.updAcre_moves (h : Nat) (f : Acre → Acre) : (s.updAcre h f).moves = s.moves := rfl
@[simp] theorem State.updAcre_mgrMoved (h : Nat) (f : Acre → Acre) : (s.updAcre h f).mgrMoved = s.mgrMoved := rfl
@[simp] theorem State.updAcre_plans (h : Nat) (f : Acre → Acre) : (s.updAcre h f).plans = s.plans := rfl
@[simp] theorem State.updAcre_seqs (h : Nat) (f : Acre → Acre) : (s.updAcre h f).seqs = s.seqs := rfl
@[simp] theorem State.updAcre_pendOrder (h : Nat) (f : Acre → Acre) : (s.updAcre h f).pendOrder = s.pendOrder := rfl
@[simp] theorem State.updAcre_movers (h : Nat) (f : Acre → Acre) : (s.updAcre h f).movers = s.movers := rfl
@[simp] theorem State.updAcre_eg (h : Nat) (f : Acre → Acre) : (s.updAcre h f).eg = s.eg := rfl
@[simp] theorem State.updAcre_wms (h : Nat) (f : Acre → Acre) : (s.updAcre h f).wms = s.wms := rfl
@[simp] theorem State.updAcre_boxes (h : Nat) (f : Acre → Acre) : (s.updAcre h f).boxes = s.boxes := rfl
@[simp] theorem State.updAcre_kod (h : Nat) (f : Acre → Acre) : (s.updAcre h f).kod = s.kod := rfl
@[simp] theorem State.updAcre_ao (h : Nat) (f : Acre → Acre) : (s.updAcre h f).ao = s.ao := rfl
@[simp] theorem State.updAcre_gov (h : Nat) (f : Acre → Acre) : (s.updAcre h f).gov = s.gov := rfl
@[simp] theorem State.updAcre_pow (h : Nat) (f : Acre → Acre) : (s.updAcre h f).pow = s.pow := rfl
@[simp] theorem State.updAcre_engines (h : Nat) (f : Acre → Acre) : (s.updAcre h f).engines = s.engines := rfl
@[simp] theorem State.updAcre_sports (h : Nat) (f : Acre → Acre) : (s.updAcre h f).sports = s.sports := rfl
@[simp] theorem State.updAcre_fab (h : Nat) (f : Acre → Acre) : (s.updAcre h f).fab = s.fab := rfl
@[simp] theorem State.updAcre_out (h : Nat) (f : Acre → Acre) : (s.updAcre h f).out = s.out := rfl

/-! ## updReq -/

@[simp] theorem State.updReq_pending (tag : Nat) (f : RReq → RReq) : (s.updReq tag f).pending = s.pending := rfl
@[simp] theorem State.updReq_btime (tag : Nat) (f : RReq → RReq) : (s.updReq tag f).btime = s.btime := rfl
@[simp] theorem State.updReq_free (tag : Nat) (f : RReq → RReq) : (s.updReq tag f).free = s.free := rfl
@[simp] theorem State.updReq_mem (tag : Nat) (f : RReq → RReq) : (s.updReq tag f).mem = s.mem := rfl
@[simp] theorem State.updReq_exposed (tag : Nat) (f : RReq → RReq) : (s.updReq tag f).exposed = s.exposed := rfl
@[simp] theorem State.updReq_scrubbed (tag : Nat) (f : RReq → RReq) : (s.updReq tag f).scrubbed = s.scrubbed := rfl
@[simp] theorem State.updReq_ext (tag : Nat) (f : RReq → RReq) : (s.updReq tag f).ext = s.ext := rfl
@[simp] theorem State.updReq_fns (tag : Nat) (f : RReq → RReq) : (s.updReq tag f).fns = s.fns := rfl
@[simp] theorem State.updReq_store (tag : Nat) (f : RReq → RReq) : (s.updReq tag f).store = s.store := rfl
@[simp] theorem State.updReq_cmds (tag : Nat) (f : RReq → RReq) : (s.updReq tag f).cmds = s.cmds := rfl
@[simp] theorem State.updReq_nextCid (tag : Nat) (f : RReq → RReq) : (s.updReq tag f).nextCid = s.nextCid := rfl
@[simp] theorem State.updReq_ctxs (tag : Nat) (f : RReq → RReq) : (s.updReq tag f).ctxs = s.ctxs := rfl
@[simp] theorem State.updReq_live (tag : Nat) (f : RReq → RReq) : (s.updReq tag f).live = s.live := rfl
@[simp] theorem State.updReq_allocs (tag : Nat) (f : RReq → RReq) : (s.updReq tag f).allocs = s.allocs := rfl
@[simp] theorem State.updReq_nextObj (tag : Nat) (f : RReq → RReq) : (s.updReq tag f).nextObj = s.nextObj := rfl
@[simp] theorem State.updReq_tlb (tag : Nat) (f : RReq → RReq) : (s.updReq tag f).tlb = s.tlb := rfl
@[simp] theorem State.updReq_ats (tag : Nat) (f : RReq → RReq) : (s.updReq tag f).ats = s.ats := rfl
@[simp] theorem State.updReq_cores (tag : Nat) (f : RReq → RReq) : (s.updReq tag f).cores = s.cores := rfl
@[simp] theorem State.updReq_groups (tag : Nat) (f : RReq → RReq) : (s.updReq tag f).groups = s.groups := rfl
@[simp] theorem State.updReq_waiters (tag : Nat) (f : RReq → RReq) : (s.updReq tag f).waiters = s.waiters := rfl
@[simp] theorem State.updReq_lines (tag : Nat) (f : RReq → RReq) : (s.updReq tag f).lines = s.lines := rfl
@[simp] theorem State.updReq_dirClock (tag : Nat) (f : RReq → RReq) : (s.updReq tag f).dirClock = s.dirClock := rfl
@[simp] theorem State.updReq_hides (tag : Nat) (f : RReq → RReq) : (s.updReq tag f).hides = s.hides := rfl
@[simp] theorem State.updReq_moves (tag : Nat) (f : RReq → RReq) : (s.updReq tag f).moves = s.moves := rfl
@[simp] theorem State.updReq_mgrMoved (tag : Nat) (f : RReq → RReq) : (s.updReq tag f).mgrMoved = s.mgrMoved := rfl
@[simp] theorem State.updReq_plans (tag : Nat) (f : RReq → RReq) : (s.updReq tag f).plans = s.plans := rfl
@[simp] theorem State.updReq_seqs (tag : Nat) (f : RReq → RReq) : (s.updReq tag f).seqs = s.seqs := rfl
@[simp] theorem State.updReq_pendOrder (tag : Nat) (f : RReq → RReq) : (s.updReq tag f).pendOrder = s.pendOrder := rfl
@[simp] theorem State.updReq_movers (tag : Nat) (f : RReq → RReq) : (s.updReq tag f).movers = s.movers := rfl
@[simp] theorem State.updReq_eg (tag : Nat) (f : RReq → RReq) : (s.updReq tag f).eg = s.eg := rfl
@[simp] theorem State.updReq_wms (tag : Nat) (f : RReq → RReq) : (s.updReq tag f).wms = s.wms := rfl
@[simp] theorem State.updReq_boxes (tag : Nat) (f : RReq → RReq) : (s.updReq tag f).boxes = s.boxes := rfl
@[simp] theorem State.updReq_kod (tag : Nat) (f : RReq → RReq) : (s.updReq tag f).kod = s.kod := rfl
@[simp] theorem State.updReq_ao (tag : Nat) (f : RReq → RReq) : (s.updReq tag f).ao = s.ao := rfl
@[simp] theorem State.updReq_gov (tag : Nat) (f : RReq → RReq) : (s.updReq tag f).gov = s.gov := rfl
@[simp] theorem State.updReq_pow (tag : Nat) (f : RReq → RReq) : (s.updReq tag f).pow = s.pow := rfl
@[simp] theorem State.updReq_engines (tag : Nat) (f : RReq → RReq) : (s.updReq tag f).engines = s.engines := rfl
@[simp] theorem State.updReq_sports (tag : Nat) (f : RReq → RReq) : (s.updReq tag f).sports = s.sports := rfl
@[simp] theorem State.updReq_out (tag : Nat) (f : RReq → RReq) : (s.updReq tag f).out = s.out := rfl

/-! ## updPlan -/

@[simp] theorem State.updPlan_pending (p : Nat) (f : Plan → Plan) : (s.updPlan p f).pending = s.pending := by
  unfold State.updPlan; split <;> rfl
@[simp] theorem State.updPlan_btime (p : Nat) (f : Plan → Plan) : (s.updPlan p f).btime = s.btime := by
  unfold State.updPlan; split <;> rfl
@[simp] theorem State.updPlan_free (p : Nat) (f : Plan → Plan) : (s.updPlan p f).free = s.free := by
  unfold State.updPlan; split <;> rfl
@[simp] theorem State.updPlan_mem (p : Nat) (f : Plan → Plan) : (s.updPlan p f).mem = s.mem := by
  unfold State.updPlan; split <;> rfl
@[simp] theorem State.updPlan_exposed (p : Nat) (f : Plan → Plan) : (s.updPlan p f).exposed = s.exposed := by
  unfold State.updPlan; split <;> rfl
@[simp] theorem State.updPlan_scrubbed (p : Nat) (f : Plan → Plan) : (s.updPlan p f).scrubbed = s.scrubbed := by
  unfold State.updPlan; split <;> rfl
@[simp] theorem State.updPlan_ext (p : Nat) (f : Plan → Plan) : (s.updPlan p f).ext = s.ext := by
  unfold State.updPlan; split <;> rfl
@[simp] theorem State.updPlan_fns (p : Nat) (f : Plan → Plan) : (s.updPlan p f).fns = s.fns := by
  unfold State.updPlan; split <;> rfl
@[simp] theorem State.updPlan_store (p : Nat) (f : Plan → Plan) : (s.updPlan p f).store = s.store := by
  unfold State.updPlan; split <;> rfl
@[simp] theorem State.updPlan_cmds (p : Nat) (f : Plan → Plan) : (s.updPlan p f).cmds = s.cmds := by
  unfold State.updPlan; split <;> rfl
@[simp] theorem State.updPlan_nextCid (p : Nat) (f : Plan → Plan) : (s.updPlan p f).nextCid = s.nextCid := by
  unfold State.updPlan; split <;> rfl
@[simp] theorem State.updPlan_ctxs (p : Nat) (f : Plan → Plan) : (s.updPlan p f).ctxs = s.ctxs := by
  unfold State.updPlan; split <;> rfl
@[simp] theorem State.updPlan_live (p : Nat) (f : Plan → Plan) : (s.updPlan p f).live = s.live := by
  unfold State.updPlan; split <;> rfl
@[simp] theorem State.updPlan_allocs (p : Nat) (f : Plan → Plan) : (s.updPlan p f).allocs = s.allocs := by
  unfold State.updPlan; split <;> rfl
@[simp] theorem State.updPlan_nextObj (p : Nat) (f : Plan → Plan) : (s.updPlan p f).nextObj = s.nextObj := by
  unfold State.updPlan; split <;> rfl
@[simp] theorem State.updPlan_tlb (p : Nat) (f : Plan → Plan) : (s.updPlan p f).tlb = s.tlb := by
  unfold State.updPlan; split <;> rfl
@[simp] theorem State.updPlan_ats (p : Nat) (f : Plan → Plan) : (s.updPlan p f).ats = s.ats := by
  unfold State.updPlan; split <;> rfl
@[simp] theorem State.updPlan_cores (p : Nat) (f : Plan → Plan) : (s.updPlan p f).cores = s.cores := by
  unfold State.updPlan; split <;> rfl
@[simp] theorem State.updPlan_groups (p : Nat) (f : Plan → Plan) : (s.updPlan p f).groups = s.groups := by
  unfold State.updPlan; split <;> rfl
@[simp] theorem State.updPlan_waiters (p : Nat) (f : Plan → Plan) : (s.updPlan p f).waiters = s.waiters := by
  unfold State.updPlan; split <;> rfl
@[simp] theorem State.updPlan_lines (p : Nat) (f : Plan → Plan) : (s.updPlan p f).lines = s.lines := by
  unfold State.updPlan; split <;> rfl
@[simp] theorem State.updPlan_dirClock (p : Nat) (f : Plan → Plan) : (s.updPlan p f).dirClock = s.dirClock := by
  unfold State.updPlan; split <;> rfl
@[simp] theorem State.updPlan_hides (p : Nat) (f : Plan → Plan) : (s.updPlan p f).hides = s.hides := by
  unfold State.updPlan; split <;> rfl
@[simp] theorem State.updPlan_moves (p : Nat) (f : Plan → Plan) : (s.updPlan p f).moves = s.moves := by
  unfold State.updPlan; split <;> rfl
@[simp] theorem State.updPlan_mgrMoved (p : Nat) (f : Plan → Plan) : (s.updPlan p f).mgrMoved = s.mgrMoved := by
  unfold State.updPlan; split <;> rfl
@[simp] theorem State.updPlan_seqs (p : Nat) (f : Plan → Plan) : (s.updPlan p f).seqs = s.seqs := by
  unfold State.updPlan; split <;> rfl
@[simp] theorem State.updPlan_pendOrder (p : Nat) (f : Plan → Plan) : (s.updPlan p f).pendOrder = s.pendOrder := by
  unfold State.updPlan; split <;> rfl
@[simp] theorem State.updPlan_movers (p : Nat) (f : Plan → Plan) : (s.updPlan p f).movers = s.movers := by
  unfold State.updPlan; split <;> rfl
@[simp] theorem State.updPlan_eg (p : Nat) (f : Plan → Plan) : (s.updPlan p f).eg = s.eg := by
  unfold State.updPlan; split <;> rfl
@[simp] theorem State.updPlan_wms (p : Nat) (f : Plan → Plan) : (s.updPlan p f).wms = s.wms := by
  unfold State.updPlan; split <;> rfl
@[simp] theorem State.updPlan_boxes (p : Nat) (f : Plan → Plan) : (s.updPlan p f).boxes = s.boxes := by
  unfold State.updPlan; split <;> rfl
@[simp] theorem State.updPlan_kod (p : Nat) (f : Plan → Plan) : (s.updPlan p f).kod = s.kod := by
  unfold State.updPlan; split <;> rfl
@[simp] theorem State.updPlan_ao (p : Nat) (f : Plan → Plan) : (s.updPlan p f).ao = s.ao := by
  unfold State.updPlan; split <;> rfl
@[simp] theorem State.updPlan_gov (p : Nat) (f : Plan → Plan) : (s.updPlan p f).gov = s.gov := by
  unfold State.updPlan; split <;> rfl
@[simp] theorem State.updPlan_pow (p : Nat) (f : Plan → Plan) : (s.updPlan p f).pow = s.pow := by
  unfold State.updPlan; split <;> rfl
@[simp] theorem State.updPlan_engines (p : Nat) (f : Plan → Plan) : (s.updPlan p f).engines = s.engines := by
  unfold State.updPlan; split <;> rfl
@[simp] theorem State.updPlan_sports (p : Nat) (f : Plan → Plan) : (s.updPlan p f).sports = s.sports := by
  unfold State.updPlan; split <;> rfl
@[simp] theorem State.updPlan_fab (p : Nat) (f : Plan → Plan) : (s.updPlan p f).fab = s.fab := by
  unfold State.updPlan; split <;> rfl
@[simp] theorem State.updPlan_out (p : Nat) (f : Plan → Plan) : (s.updPlan p f).out = s.out := by
  unfold State.updPlan; split <;> rfl

/-! ## updRecq -/

@[simp] theorem State.updRecq_pending (d : Dest) (f : RecQueue → RecQueue) : (s.updRecq d f).pending = s.pending := by cases d <;> rfl
@[simp] theorem State.updRecq_btime (d : Dest) (f : RecQueue → RecQueue) : (s.updRecq d f).btime = s.btime := by cases d <;> rfl
@[simp] theorem State.updRecq_free (d : Dest) (f : RecQueue → RecQueue) : (s.updRecq d f).free = s.free := by cases d <;> rfl
@[simp] theorem State.updRecq_mem (d : Dest) (f : RecQueue → RecQueue) : (s.updRecq d f).mem = s.mem := by cases d <;> rfl
@[simp] theorem State.updRecq_exposed (d : Dest) (f : RecQueue → RecQueue) : (s.updRecq d f).exposed = s.exposed := by cases d <;> rfl
@[simp] theorem State.updRecq_scrubbed (d : Dest) (f : RecQueue → RecQueue) : (s.updRecq d f).scrubbed = s.scrubbed := by cases d <;> rfl
@[simp] theorem State.updRecq_ext (d : Dest) (f : RecQueue → RecQueue) : (s.updRecq d f).ext = s.ext := by cases d <;> rfl
@[simp] theorem State.updRecq_store (d : Dest) (f : RecQueue → RecQueue) : (s.updRecq d f).store = s.store := by cases d <;> rfl
@[simp] theorem State.updRecq_cmds (d : Dest) (f : RecQueue → RecQueue) : (s.updRecq d f).cmds = s.cmds := by cases d <;> rfl
@[simp] theorem State.updRecq_nextCid (d : Dest) (f : RecQueue → RecQueue) : (s.updRecq d f).nextCid = s.nextCid := by cases d <;> rfl
@[simp] theorem State.updRecq_ctxs (d : Dest) (f : RecQueue → RecQueue) : (s.updRecq d f).ctxs = s.ctxs := by cases d <;> rfl
@[simp] theorem State.updRecq_live (d : Dest) (f : RecQueue → RecQueue) : (s.updRecq d f).live = s.live := by cases d <;> rfl
@[simp] theorem State.updRecq_allocs (d : Dest) (f : RecQueue → RecQueue) : (s.updRecq d f).allocs = s.allocs := by cases d <;> rfl
@[simp] theorem State.updRecq_nextObj (d : Dest) (f : RecQueue → RecQueue) : (s.updRecq d f).nextObj = s.nextObj := by cases d <;> rfl
@[simp] theorem State.updRecq_tlb (d : Dest) (f : RecQueue → RecQueue) : (s.updRecq d f).tlb = s.tlb := by cases d <;> rfl
@[simp] theorem State.updRecq_ats (d : Dest) (f : RecQueue → RecQueue) : (s.updRecq d f).ats = s.ats := by cases d <;> rfl
@[simp] theorem State.updRecq_cores (d : Dest) (f : RecQueue → RecQueue) : (s.updRecq d f).cores = s.cores := by cases d <;> rfl
@[simp] theorem State.updRecq_groups (d : Dest) (f : RecQueue → RecQueue) : (s.updRecq d f).groups = s.groups := by cases d <;> rfl
@[simp] theorem State.updRecq_waiters (d : Dest) (f : RecQueue → RecQueue) : (s.updRecq d f).waiters = s.waiters := by cases d <;> rfl
@[simp] theorem State.updRecq_lines (d : Dest) (f : RecQueue → RecQueue) : (s.updRecq d f).lines = s.lines := by cases d <;> rfl
@[simp] theorem State.updRecq_dirClock (d : Dest) (f : RecQueue → RecQueue) : (s.updRecq d f).dirClock = s.dirClock := by cases d <;> rfl
@[simp] theorem State.updRecq_hides (d : Dest) (f : RecQueue → RecQueue) : (s.updRecq d f).hides = s.hides := by cases d <;> rfl
@[simp] theorem State.updRecq_moves (d : Dest) (f : RecQueue → RecQueue) : (s.updRecq d f).moves = s.moves := by cases d <;> rfl
@[simp] theorem State.updRecq_mgrMoved (d : Dest) (f : RecQueue → RecQueue) : (s.updRecq d f).mgrMoved = s.mgrMoved := by cases d <;> rfl
@[simp] theorem State.updRecq_plans (d : Dest) (f : RecQueue → RecQueue) : (s.updRecq d f).plans = s.plans := by cases d <;> rfl
@[simp] theorem State.updRecq_seqs (d : Dest) (f : RecQueue → RecQueue) : (s.updRecq d f).seqs = s.seqs := by cases d <;> rfl
@[simp] theorem State.updRecq_pendOrder (d : Dest) (f : RecQueue → RecQueue) : (s.updRecq d f).pendOrder = s.pendOrder := by cases d <;> rfl
@[simp] theorem State.updRecq_movers (d : Dest) (f : RecQueue → RecQueue) : (s.updRecq d f).movers = s.movers := by cases d <;> rfl
@[simp] theorem State.updRecq_eg (d : Dest) (f : RecQueue → RecQueue) : (s.updRecq d f).eg = s.eg := by cases d <;> rfl
@[simp] theorem State.updRecq_wms (d : Dest) (f : RecQueue → RecQueue) : (s.updRecq d f).wms = s.wms := by cases d <;> rfl
@[simp] theorem State.updRecq_boxes (d : Dest) (f : RecQueue → RecQueue) : (s.updRecq d f).boxes = s.boxes := by cases d <;> rfl
@[simp] theorem State.updRecq_kod (d : Dest) (f : RecQueue → RecQueue) : (s.updRecq d f).kod = s.kod := by cases d <;> rfl
@[simp] theorem State.updRecq_gov (d : Dest) (f : RecQueue → RecQueue) : (s.updRecq d f).gov = s.gov := by cases d <;> rfl
@[simp] theorem State.updRecq_pow (d : Dest) (f : RecQueue → RecQueue) : (s.updRecq d f).pow = s.pow := by cases d <;> rfl
@[simp] theorem State.updRecq_engines (d : Dest) (f : RecQueue → RecQueue) : (s.updRecq d f).engines = s.engines := by cases d <;> rfl
@[simp] theorem State.updRecq_sports (d : Dest) (f : RecQueue → RecQueue) : (s.updRecq d f).sports = s.sports := by cases d <;> rfl
@[simp] theorem State.updRecq_fab (d : Dest) (f : RecQueue → RecQueue) : (s.updRecq d f).fab = s.fab := by cases d <;> rfl
@[simp] theorem State.updRecq_out (d : Dest) (f : RecQueue → RecQueue) : (s.updRecq d f).out = s.out := by cases d <;> rfl

/-! ## updUnit -/

@[simp] theorem State.updUnit_pending (core : Nat) (f : MxUnit → MxUnit) : (s.updUnit core f).pending = s.pending := rfl
@[simp] theorem State.updUnit_btime (core : Nat) (f : MxUnit → MxUnit) : (s.updUnit core f).btime = s.btime := rfl
@[simp] theorem State.updUnit_free (core : Nat) (f : MxUnit → MxUnit) : (s.updUnit core f).free = s.free := rfl
@[simp] theorem State.updUnit_mem (core : Nat) (f : MxUnit → MxUnit) : (s.updUnit core f).mem = s.mem := rfl
@[simp] theorem State.updUnit_exposed (core : Nat) (f : MxUnit → MxUnit) : (s.updUnit core f).exposed = s.exposed := rfl
@[simp] theorem State.updUnit_scrubbed (core : Nat) (f : MxUnit → MxUnit) : (s.updUnit core f).scrubbed = s.scrubbed := rfl
@[simp] theorem State.updUnit_ext (core : Nat) (f : MxUnit → MxUnit) : (s.updUnit core f).ext = s.ext := rfl
@[simp] theorem State.updUnit_fns (core : Nat) (f : MxUnit → MxUnit) : (s.updUnit core f).fns = s.fns := rfl
@[simp] theorem State.updUnit_store (core : Nat) (f : MxUnit → MxUnit) : (s.updUnit core f).store = s.store := rfl
@[simp] theorem State.updUnit_cmds (core : Nat) (f : MxUnit → MxUnit) : (s.updUnit core f).cmds = s.cmds := rfl
@[simp] theorem State.updUnit_nextCid (core : Nat) (f : MxUnit → MxUnit) : (s.updUnit core f).nextCid = s.nextCid := rfl
@[simp] theorem State.updUnit_ctxs (core : Nat) (f : MxUnit → MxUnit) : (s.updUnit core f).ctxs = s.ctxs := rfl
@[simp] theorem State.updUnit_live (core : Nat) (f : MxUnit → MxUnit) : (s.updUnit core f).live = s.live := rfl
@[simp] theorem State.updUnit_allocs (core : Nat) (f : MxUnit → MxUnit) : (s.updUnit core f).allocs = s.allocs := rfl
@[simp] theorem State.updUnit_nextObj (core : Nat) (f : MxUnit → MxUnit) : (s.updUnit core f).nextObj = s.nextObj := rfl
@[simp] theorem State.updUnit_tlb (core : Nat) (f : MxUnit → MxUnit) : (s.updUnit core f).tlb = s.tlb := rfl
@[simp] theorem State.updUnit_ats (core : Nat) (f : MxUnit → MxUnit) : (s.updUnit core f).ats = s.ats := rfl
@[simp] theorem State.updUnit_groups (core : Nat) (f : MxUnit → MxUnit) : (s.updUnit core f).groups = s.groups := rfl
@[simp] theorem State.updUnit_waiters (core : Nat) (f : MxUnit → MxUnit) : (s.updUnit core f).waiters = s.waiters := rfl
@[simp] theorem State.updUnit_lines (core : Nat) (f : MxUnit → MxUnit) : (s.updUnit core f).lines = s.lines := rfl
@[simp] theorem State.updUnit_dirClock (core : Nat) (f : MxUnit → MxUnit) : (s.updUnit core f).dirClock = s.dirClock := rfl
@[simp] theorem State.updUnit_hides (core : Nat) (f : MxUnit → MxUnit) : (s.updUnit core f).hides = s.hides := rfl
@[simp] theorem State.updUnit_moves (core : Nat) (f : MxUnit → MxUnit) : (s.updUnit core f).moves = s.moves := rfl
@[simp] theorem State.updUnit_mgrMoved (core : Nat) (f : MxUnit → MxUnit) : (s.updUnit core f).mgrMoved = s.mgrMoved := rfl
@[simp] theorem State.updUnit_plans (core : Nat) (f : MxUnit → MxUnit) : (s.updUnit core f).plans = s.plans := rfl
@[simp] theorem State.updUnit_seqs (core : Nat) (f : MxUnit → MxUnit) : (s.updUnit core f).seqs = s.seqs := rfl
@[simp] theorem State.updUnit_pendOrder (core : Nat) (f : MxUnit → MxUnit) : (s.updUnit core f).pendOrder = s.pendOrder := rfl
@[simp] theorem State.updUnit_movers (core : Nat) (f : MxUnit → MxUnit) : (s.updUnit core f).movers = s.movers := rfl
@[simp] theorem State.updUnit_eg (core : Nat) (f : MxUnit → MxUnit) : (s.updUnit core f).eg = s.eg := rfl
@[simp] theorem State.updUnit_wms (core : Nat) (f : MxUnit → MxUnit) : (s.updUnit core f).wms = s.wms := rfl
@[simp] theorem State.updUnit_boxes (core : Nat) (f : MxUnit → MxUnit) : (s.updUnit core f).boxes = s.boxes := rfl
@[simp] theorem State.updUnit_kod (core : Nat) (f : MxUnit → MxUnit) : (s.updUnit core f).kod = s.kod := rfl
@[simp] theorem State.updUnit_ao (core : Nat) (f : MxUnit → MxUnit) : (s.updUnit core f).ao = s.ao := rfl
@[simp] theorem State.updUnit_gov (core : Nat) (f : MxUnit → MxUnit) : (s.updUnit core f).gov = s.gov := rfl
@[simp] theorem State.updUnit_pow (core : Nat) (f : MxUnit → MxUnit) : (s.updUnit core f).pow = s.pow := rfl
@[simp] theorem State.updUnit_engines (core : Nat) (f : MxUnit → MxUnit) : (s.updUnit core f).engines = s.engines := rfl
@[simp] theorem State.updUnit_sports (core : Nat) (f : MxUnit → MxUnit) : (s.updUnit core f).sports = s.sports := rfl
@[simp] theorem State.updUnit_fab (core : Nat) (f : MxUnit → MxUnit) : (s.updUnit core f).fab = s.fab := rfl
@[simp] theorem State.updUnit_out (core : Nat) (f : MxUnit → MxUnit) : (s.updUnit core f).out = s.out := rfl

/-! ## updChain -/

@[simp] theorem State.updChain_pending (core slot : Nat) (f : Chain → Chain) : (s.updChain core slot f).pending = s.pending := by
  unfold State.updChain; split <;> rfl
@[simp] theorem State.updChain_btime (core slot : Nat) (f : Chain → Chain) : (s.updChain core slot f).btime = s.btime := by
  unfold State.updChain; split <;> rfl
@[simp] theorem State.updChain_free (core slot : Nat) (f : Chain → Chain) : (s.updChain core slot f).free = s.free := by
  unfold State.updChain; split <;> rfl
@[simp] theorem State.updChain_mem (core slot : Nat) (f : Chain → Chain) : (s.updChain core slot f).mem = s.mem := by
  unfold State.updChain; split <;> rfl
@[simp] theorem State.updChain_exposed (core slot : Nat) (f : Chain → Chain) : (s.updChain core slot f).exposed = s.exposed := by
  unfold State.updChain; split <;> rfl
@[simp] theorem State.updChain_scrubbed (core slot : Nat) (f : Chain → Chain) : (s.updChain core slot f).scrubbed = s.scrubbed := by
  unfold State.updChain; split <;> rfl
@[simp] theorem State.updChain_ext (core slot : Nat) (f : Chain → Chain) : (s.updChain core slot f).ext = s.ext := by
  unfold State.updChain; split <;> rfl
@[simp] theorem State.updChain_fns (core slot : Nat) (f : Chain → Chain) : (s.updChain core slot f).fns = s.fns := by
  unfold State.updChain; split <;> rfl
@[simp] theorem State.updChain_store (core slot : Nat) (f : Chain → Chain) : (s.updChain core slot f).store = s.store := by
  unfold State.updChain; split <;> rfl
@[simp] theorem State.updChain_cmds (core slot : Nat) (f : Chain → Chain) : (s.updChain core slot f).cmds = s.cmds := by
  unfold State.updChain; split <;> rfl
@[simp] theorem State.updChain_nextCid (core slot : Nat) (f : Chain → Chain) : (s.updChain core slot f).nextCid = s.nextCid := by
  unfold State.updChain; split <;> rfl
@[simp] theorem State.updChain_ctxs (core slot : Nat) (f : Chain → Chain) : (s.updChain core slot f).ctxs = s.ctxs := by
  unfold State.updChain; split <;> rfl
@[simp] theorem State.updChain_live (core slot : Nat) (f : Chain → Chain) : (s.updChain core slot f).live = s.live := by
  unfold State.updChain; split <;> rfl
@[simp] theorem State.updChain_allocs (core slot : Nat) (f : Chain → Chain) : (s.updChain core slot f).allocs = s.allocs := by
  unfold State.updChain; split <;> rfl
@[simp] theorem State.updChain_nextObj (core slot : Nat) (f : Chain → Chain) : (s.updChain core slot f).nextObj = s.nextObj := by
  unfold State.updChain; split <;> rfl
@[simp] theorem State.updChain_tlb (core slot : Nat) (f : Chain → Chain) : (s.updChain core slot f).tlb = s.tlb := by
  unfold State.updChain; split <;> rfl
@[simp] theorem State.updChain_ats (core slot : Nat) (f : Chain → Chain) : (s.updChain core slot f).ats = s.ats := by
  unfold State.updChain; split <;> rfl
@[simp] theorem State.updChain_groups (core slot : Nat) (f : Chain → Chain) : (s.updChain core slot f).groups = s.groups := by
  unfold State.updChain; split <;> rfl
@[simp] theorem State.updChain_waiters (core slot : Nat) (f : Chain → Chain) : (s.updChain core slot f).waiters = s.waiters := by
  unfold State.updChain; split <;> rfl
@[simp] theorem State.updChain_lines (core slot : Nat) (f : Chain → Chain) : (s.updChain core slot f).lines = s.lines := by
  unfold State.updChain; split <;> rfl
@[simp] theorem State.updChain_dirClock (core slot : Nat) (f : Chain → Chain) : (s.updChain core slot f).dirClock = s.dirClock := by
  unfold State.updChain; split <;> rfl
@[simp] theorem State.updChain_hides (core slot : Nat) (f : Chain → Chain) : (s.updChain core slot f).hides = s.hides := by
  unfold State.updChain; split <;> rfl
@[simp] theorem State.updChain_moves (core slot : Nat) (f : Chain → Chain) : (s.updChain core slot f).moves = s.moves := by
  unfold State.updChain; split <;> rfl
@[simp] theorem State.updChain_mgrMoved (core slot : Nat) (f : Chain → Chain) : (s.updChain core slot f).mgrMoved = s.mgrMoved := by
  unfold State.updChain; split <;> rfl
@[simp] theorem State.updChain_plans (core slot : Nat) (f : Chain → Chain) : (s.updChain core slot f).plans = s.plans := by
  unfold State.updChain; split <;> rfl
@[simp] theorem State.updChain_seqs (core slot : Nat) (f : Chain → Chain) : (s.updChain core slot f).seqs = s.seqs := by
  unfold State.updChain; split <;> rfl
@[simp] theorem State.updChain_pendOrder (core slot : Nat) (f : Chain → Chain) : (s.updChain core slot f).pendOrder = s.pendOrder := by
  unfold State.updChain; split <;> rfl
@[simp] theorem State.updChain_movers (core slot : Nat) (f : Chain → Chain) : (s.updChain core slot f).movers = s.movers := by
  unfold State.updChain; split <;> rfl
@[simp] theorem State.updChain_eg (core slot : Nat) (f : Chain → Chain) : (s.updChain core slot f).eg = s.eg := by
  unfold State.updChain; split <;> rfl
@[simp] theorem State.updChain_wms (core slot : Nat) (f : Chain → Chain) : (s.updChain core slot f).wms = s.wms := by
  unfold State.updChain; split <;> rfl
@[simp] theorem State.updChain_boxes (core slot : Nat) (f : Chain → Chain) : (s.updChain core slot f).boxes = s.boxes := by
  unfold State.updChain; split <;> rfl
@[simp] theorem State.updChain_kod (core slot : Nat) (f : Chain → Chain) : (s.updChain core slot f).kod = s.kod := by
  unfold State.updChain; split <;> rfl
@[simp] theorem State.updChain_ao (core slot : Nat) (f : Chain → Chain) : (s.updChain core slot f).ao = s.ao := by
  unfold State.updChain; split <;> rfl
@[simp] theorem State.updChain_gov (core slot : Nat) (f : Chain → Chain) : (s.updChain core slot f).gov = s.gov := by
  unfold State.updChain; split <;> rfl
@[simp] theorem State.updChain_pow (core slot : Nat) (f : Chain → Chain) : (s.updChain core slot f).pow = s.pow := by
  unfold State.updChain; split <;> rfl
@[simp] theorem State.updChain_engines (core slot : Nat) (f : Chain → Chain) : (s.updChain core slot f).engines = s.engines := by
  unfold State.updChain; split <;> rfl
@[simp] theorem State.updChain_sports (core slot : Nat) (f : Chain → Chain) : (s.updChain core slot f).sports = s.sports := by
  unfold State.updChain; split <;> rfl
@[simp] theorem State.updChain_fab (core slot : Nat) (f : Chain → Chain) : (s.updChain core slot f).fab = s.fab := by
  unfold State.updChain; split <;> rfl
@[simp] theorem State.updChain_out (core slot : Nat) (f : Chain → Chain) : (s.updChain core slot f).out = s.out := by
  unfold State.updChain; split <;> rfl

/-! ## Reading back -/

@[simp] theorem State.fn_updFn (n m : Nat) (f : Fn → Fn) :
    (s.updFn n f).fn m = if m = n then f (s.fn n) else s.fn m := by
  simp [State.fn, State.updFn]
@[simp] theorem State.hide_updHide (n m : Nat) (f : Hide → Hide) :
    (s.updHide n f).hide m = if m = n then f (s.hide n) else s.hide m := by
  simp [State.hide, State.updHide]
@[simp] theorem State.ctx_updCtx (n m : Nat) (f : Ctx → Ctx) :
    (s.updCtx n f).ctx m = if m = n then f (s.ctx n) else s.ctx m := by
  simp [State.ctx, State.updCtx]
@[simp] theorem State.core_updCore (n m : Nat) (f : Core → Core) :
    (s.updCore n f).core m = if m = n then f (s.core n) else s.core m := by
  simp [State.core, State.updCore]
@[simp] theorem State.wm_updWm (n m : Nat) (f : Wm → Wm) :
    (s.updWm n f).wm m = if m = n then f (s.wm n) else s.wm m := by
  simp [State.wm, State.updWm]
@[simp] theorem State.tgt_updTgt (n m : Nat) (f : Tgt → Tgt) :
    (s.updTgt n f).tgt m = if m = n then f (s.tgt n) else s.tgt m := by
  simp [State.tgt, State.updTgt]
@[simp] theorem State.queue_updQueue (n q m p : Nat) (f : Queue → Queue) :
    (s.updQueue n q f).queue m p = if m = n ∧ p = q then f (s.queue n q) else s.queue m p := by
  simp only [State.queue, State.updQueue, State.fn_updFn]
  by_cases h : m = n
  · subst h; by_cases hp : p = q <;> simp [hp]
  · simp [h]

@[simp] theorem State.mover_updMover (n m : Nat) (f : Mover → Mover) :
    (s.updMover n f).mover m = if m = n then f (s.mover n) else s.mover m := by
  simp [State.mover, State.updMover]

@[simp] theorem State.chan_updChan (n q m p : Nat) (f : Chan → Chan) :
    (s.updChan n q f).chan m p = if m = n ∧ p = q then f (s.chan n q) else s.chan m p := by
  simp only [State.chan, State.updChan, State.mover_updMover]
  by_cases h : m = n
  · subst h; by_cases hp : p = q <;> simp [hp]
  · simp [h]

@[simp] theorem State.updChan_updChan (n q : Nat) (f g : Chan → Chan) :
    (s.updChan n q f).updChan n q g = s.updChan n q (fun x => g (f x)) := by
  simp [State.updChan, State.updMover]

@[simp] theorem State.updQueue_updQueue (n q : Nat) (f g : Queue → Queue) :
    (s.updQueue n q f).updQueue n q g = s.updQueue n q (fun x => g (f x)) := by
  simp [State.updQueue, State.updFn]

@[simp] theorem State.updFn_updFn (n : Nat) (f g : Fn → Fn) : (s.updFn n f).updFn n g = s.updFn n (fun x => g (f x)) := by
  simp [State.updFn]

@[simp] theorem State.updHide_updHide (n : Nat) (f g : Hide → Hide) :
    (s.updHide n f).updHide n g = s.updHide n (fun x => g (f x)) := by
  simp [State.updHide]

@[simp] theorem State.updCtx_updCtx (n : Nat) (f g : Ctx → Ctx) :
    (s.updCtx n f).updCtx n g = s.updCtx n (fun x => g (f x)) := by
  simp [State.updCtx]

@[simp] theorem State.updCore_updCore (n : Nat) (f g : Core → Core) :
    (s.updCore n f).updCore n g = s.updCore n (fun x => g (f x)) := by
  simp [State.updCore]

theorem State.updChan_congr (n q : Nat) {f g : Chan → Chan} (h : f (s.chan n q) = g (s.chan n q)) :
    s.updChan n q f = s.updChan n q g := by
  simp only [State.chan, State.mover] at h
  simp only [State.updChan, State.updMover, tupd, h]

theorem State.updQueue_congr (n q : Nat) {f g : Queue → Queue} (h : f (s.queue n q) = g (s.queue n q)) :
    s.updQueue n q f = s.updQueue n q g := by
  simp only [State.queue, State.fn] at h
  simp only [State.updQueue, State.updFn, tupd, h]

/-! ## Records that an update of another field leaves alone -/

@[simp] theorem State.setRun_fn_at (idx sub v : Nat) (k : Nat) : (s.setRun idx sub v).fn k = s.fn k := rfl
@[simp] theorem State.setRun_hide_at (idx sub v : Nat) (k : Nat) : (s.setRun idx sub v).hide k = s.hide k := rfl
@[simp] theorem State.setRun_ctx_at (idx sub v : Nat) (k : Nat) : (s.setRun idx sub v).ctx k = s.ctx k := rfl
@[simp] theorem State.setRun_core_at (idx sub v : Nat) (k : Nat) : (s.setRun idx sub v).core k = s.core k := rfl
@[simp] theorem State.setRun_wm_at (idx sub v : Nat) (k : Nat) : (s.setRun idx sub v).wm k = s.wm k := rfl
@[simp] theorem State.setRun_tgt_at (idx sub v : Nat) (k : Nat) : (s.setRun idx sub v).tgt k = s.tgt k := rfl
@[simp] theorem State.setRun_queue_at (idx sub v : Nat) (k j : Nat) : (s.setRun idx sub v).queue k j = s.queue k j := rfl
@[simp] theorem State.setRun_cmd_at (idx sub v : Nat) (k : Nat) : (s.setRun idx sub v).cmd? k = s.cmd? k := rfl
@[simp] theorem State.drawNext_fn_at (k : Nat) : (s.drawNext).fn k = s.fn k := rfl
@[simp] theorem State.drawNext_hide_at (k : Nat) : (s.drawNext).hide k = s.hide k := rfl
@[simp] theorem State.drawNext_ctx_at (k : Nat) : (s.drawNext).ctx k = s.ctx k := rfl
@[simp] theorem State.drawNext_core_at (k : Nat) : (s.drawNext).core k = s.core k := rfl
@[simp] theorem State.drawNext_wm_at (k : Nat) : (s.drawNext).wm k = s.wm k := rfl
@[simp] theorem State.drawNext_tgt_at (k : Nat) : (s.drawNext).tgt k = s.tgt k := rfl
@[simp] theorem State.drawNext_queue_at (k j : Nat) : (s.drawNext).queue k j = s.queue k j := rfl
@[simp] theorem State.drawNext_cmd_at (k : Nat) : (s.drawNext).cmd? k = s.cmd? k := rfl
@[simp] theorem State.drawNext_kodRun_at (k j : Nat) : (s.drawNext).kodRun k j = s.kodRun k j := rfl
@[simp] theorem State.freshNext_fn_at (k : Nat) : (s.freshNext).fn k = s.fn k := rfl
@[simp] theorem State.freshNext_hide_at (k : Nat) : (s.freshNext).hide k = s.hide k := rfl
@[simp] theorem State.freshNext_ctx_at (k : Nat) : (s.freshNext).ctx k = s.ctx k := rfl
@[simp] theorem State.freshNext_core_at (k : Nat) : (s.freshNext).core k = s.core k := rfl
@[simp] theorem State.freshNext_wm_at (k : Nat) : (s.freshNext).wm k = s.wm k := rfl
@[simp] theorem State.freshNext_tgt_at (k : Nat) : (s.freshNext).tgt k = s.tgt k := rfl
@[simp] theorem State.freshNext_queue_at (k j : Nat) : (s.freshNext).queue k j = s.queue k j := rfl
@[simp] theorem State.freshNext_cmd_at (k : Nat) : (s.freshNext).cmd? k = s.cmd? k := rfl
@[simp] theorem State.freshNext_kodRun_at (k j : Nat) : (s.freshNext).kodRun k j = s.kodRun k j := rfl
@[simp] theorem State.emit_fn_at (o : Out) (k : Nat) : (s.emit o).fn k = s.fn k := rfl
@[simp] theorem State.emit_hide_at (o : Out) (k : Nat) : (s.emit o).hide k = s.hide k := rfl
@[simp] theorem State.emit_ctx_at (o : Out) (k : Nat) : (s.emit o).ctx k = s.ctx k := rfl
@[simp] theorem State.emit_core_at (o : Out) (k : Nat) : (s.emit o).core k = s.core k := rfl
@[simp] theorem State.emit_wm_at (o : Out) (k : Nat) : (s.emit o).wm k = s.wm k := rfl
@[simp] theorem State.emit_tgt_at (o : Out) (k : Nat) : (s.emit o).tgt k = s.tgt k := rfl
@[simp] theorem State.emit_queue_at (o : Out) (k j : Nat) : (s.emit o).queue k j = s.queue k j := rfl
@[simp] theorem State.emit_cmd_at (o : Out) (k : Nat) : (s.emit o).cmd? k = s.cmd? k := rfl
@[simp] theorem State.emit_kodRun_at (o : Out) (k j : Nat) : (s.emit o).kodRun k j = s.kodRun k j := rfl
@[simp] theorem State.updHide_fn_at (h : Nat) (f : Hide → Hide) (k : Nat) : (s.updHide h f).fn k = s.fn k := rfl
@[simp] theorem State.updHide_ctx_at (h : Nat) (f : Hide → Hide) (k : Nat) : (s.updHide h f).ctx k = s.ctx k := rfl
@[simp] theorem State.updHide_core_at (h : Nat) (f : Hide → Hide) (k : Nat) : (s.updHide h f).core k = s.core k := rfl
@[simp] theorem State.updHide_wm_at (h : Nat) (f : Hide → Hide) (k : Nat) : (s.updHide h f).wm k = s.wm k := rfl
@[simp] theorem State.updHide_tgt_at (h : Nat) (f : Hide → Hide) (k : Nat) : (s.updHide h f).tgt k = s.tgt k := rfl
@[simp] theorem State.updHide_queue_at (h : Nat) (f : Hide → Hide) (k j : Nat) : (s.updHide h f).queue k j = s.queue k j := rfl
@[simp] theorem State.updHide_cmd_at (h : Nat) (f : Hide → Hide) (k : Nat) : (s.updHide h f).cmd? k = s.cmd? k := rfl
@[simp] theorem State.updHide_kodRun_at (h : Nat) (f : Hide → Hide) (k j : Nat) : (s.updHide h f).kodRun k j = s.kodRun k j := rfl
@[simp] theorem State.updFn_hide_at (n : Nat) (f : Fn → Fn) (k : Nat) : (s.updFn n f).hide k = s.hide k := rfl
@[simp] theorem State.updFn_ctx_at (n : Nat) (f : Fn → Fn) (k : Nat) : (s.updFn n f).ctx k = s.ctx k := rfl
@[simp] theorem State.updFn_core_at (n : Nat) (f : Fn → Fn) (k : Nat) : (s.updFn n f).core k = s.core k := rfl
@[simp] theorem State.updFn_wm_at (n : Nat) (f : Fn → Fn) (k : Nat) : (s.updFn n f).wm k = s.wm k := rfl
@[simp] theorem State.updFn_tgt_at (n : Nat) (f : Fn → Fn) (k : Nat) : (s.updFn n f).tgt k = s.tgt k := rfl
@[simp] theorem State.updFn_cmd_at (n : Nat) (f : Fn → Fn) (k : Nat) : (s.updFn n f).cmd? k = s.cmd? k := rfl
@[simp] theorem State.updFn_kodRun_at (n : Nat) (f : Fn → Fn) (k j : Nat) : (s.updFn n f).kodRun k j = s.kodRun k j := rfl
@[simp] theorem State.updQueue_hide_at (n q : Nat) (f : Queue → Queue) (k : Nat) : (s.updQueue n q f).hide k = s.hide k := rfl
@[simp] theorem State.updQueue_ctx_at (n q : Nat) (f : Queue → Queue) (k : Nat) : (s.updQueue n q f).ctx k = s.ctx k := rfl
@[simp] theorem State.updQueue_core_at (n q : Nat) (f : Queue → Queue) (k : Nat) : (s.updQueue n q f).core k = s.core k := rfl
@[simp] theorem State.updQueue_wm_at (n q : Nat) (f : Queue → Queue) (k : Nat) : (s.updQueue n q f).wm k = s.wm k := rfl
@[simp] theorem State.updQueue_tgt_at (n q : Nat) (f : Queue → Queue) (k : Nat) : (s.updQueue n q f).tgt k = s.tgt k := rfl
@[simp] theorem State.updQueue_cmd_at (n q : Nat) (f : Queue → Queue) (k : Nat) : (s.updQueue n q f).cmd? k = s.cmd? k := rfl
@[simp] theorem State.updQueue_kodRun_at (n q : Nat) (f : Queue → Queue) (k j : Nat) : (s.updQueue n q f).kodRun k j = s.kodRun k j := rfl
@[simp] theorem State.updCtx_fn_at (c : Nat) (f : Ctx → Ctx) (k : Nat) : (s.updCtx c f).fn k = s.fn k := rfl
@[simp] theorem State.updCtx_hide_at (c : Nat) (f : Ctx → Ctx) (k : Nat) : (s.updCtx c f).hide k = s.hide k := rfl
@[simp] theorem State.updCtx_core_at (c : Nat) (f : Ctx → Ctx) (k : Nat) : (s.updCtx c f).core k = s.core k := rfl
@[simp] theorem State.updCtx_wm_at (c : Nat) (f : Ctx → Ctx) (k : Nat) : (s.updCtx c f).wm k = s.wm k := rfl
@[simp] theorem State.updCtx_tgt_at (c : Nat) (f : Ctx → Ctx) (k : Nat) : (s.updCtx c f).tgt k = s.tgt k := rfl
@[simp] theorem State.updCtx_queue_at (c : Nat) (f : Ctx → Ctx) (k j : Nat) : (s.updCtx c f).queue k j = s.queue k j := rfl
@[simp] theorem State.updCtx_cmd_at (c : Nat) (f : Ctx → Ctx) (k : Nat) : (s.updCtx c f).cmd? k = s.cmd? k := rfl
@[simp] theorem State.updCtx_kodRun_at (c : Nat) (f : Ctx → Ctx) (k j : Nat) : (s.updCtx c f).kodRun k j = s.kodRun k j := rfl
@[simp] theorem State.updCmd_fn_at (cid : Nat) (f : Cmd → Cmd) (k : Nat) : (s.updCmd cid f).fn k = s.fn k := rfl
@[simp] theorem State.updCmd_hide_at (cid : Nat) (f : Cmd → Cmd) (k : Nat) : (s.updCmd cid f).hide k = s.hide k := rfl
@[simp] theorem State.updCmd_ctx_at (cid : Nat) (f : Cmd → Cmd) (k : Nat) : (s.updCmd cid f).ctx k = s.ctx k := rfl
@[simp] theorem State.updCmd_core_at (cid : Nat) (f : Cmd → Cmd) (k : Nat) : (s.updCmd cid f).core k = s.core k := rfl
@[simp] theorem State.updCmd_wm_at (cid : Nat) (f : Cmd → Cmd) (k : Nat) : (s.updCmd cid f).wm k = s.wm k := rfl
@[simp] theorem State.updCmd_tgt_at (cid : Nat) (f : Cmd → Cmd) (k : Nat) : (s.updCmd cid f).tgt k = s.tgt k := rfl
@[simp] theorem State.updCmd_queue_at (cid : Nat) (f : Cmd → Cmd) (k j : Nat) : (s.updCmd cid f).queue k j = s.queue k j := rfl
@[simp] theorem State.updCmd_kodRun_at (cid : Nat) (f : Cmd → Cmd) (k j : Nat) : (s.updCmd cid f).kodRun k j = s.kodRun k j := rfl
@[simp] theorem State.dropCmd_fn_at (cid : Nat) (k : Nat) : (s.dropCmd cid).fn k = s.fn k := rfl
@[simp] theorem State.dropCmd_hide_at (cid : Nat) (k : Nat) : (s.dropCmd cid).hide k = s.hide k := rfl
@[simp] theorem State.dropCmd_ctx_at (cid : Nat) (k : Nat) : (s.dropCmd cid).ctx k = s.ctx k := rfl
@[simp] theorem State.dropCmd_core_at (cid : Nat) (k : Nat) : (s.dropCmd cid).core k = s.core k := rfl
@[simp] theorem State.dropCmd_wm_at (cid : Nat) (k : Nat) : (s.dropCmd cid).wm k = s.wm k := rfl
@[simp] theorem State.dropCmd_tgt_at (cid : Nat) (k : Nat) : (s.dropCmd cid).tgt k = s.tgt k := rfl
@[simp] theorem State.dropCmd_queue_at (cid : Nat) (k j : Nat) : (s.dropCmd cid).queue k j = s.queue k j := rfl
@[simp] theorem State.dropCmd_kodRun_at (cid : Nat) (k j : Nat) : (s.dropCmd cid).kodRun k j = s.kodRun k j := rfl
@[simp] theorem State.updCore_fn_at (i : Nat) (f : Core → Core) (k : Nat) : (s.updCore i f).fn k = s.fn k := rfl
@[simp] theorem State.updCore_hide_at (i : Nat) (f : Core → Core) (k : Nat) : (s.updCore i f).hide k = s.hide k := rfl
@[simp] theorem State.updCore_ctx_at (i : Nat) (f : Core → Core) (k : Nat) : (s.updCore i f).ctx k = s.ctx k := rfl
@[simp] theorem State.updCore_wm_at (i : Nat) (f : Core → Core) (k : Nat) : (s.updCore i f).wm k = s.wm k := rfl
@[simp] theorem State.updCore_tgt_at (i : Nat) (f : Core → Core) (k : Nat) : (s.updCore i f).tgt k = s.tgt k := rfl
@[simp] theorem State.updCore_queue_at (i : Nat) (f : Core → Core) (k j : Nat) : (s.updCore i f).queue k j = s.queue k j := rfl
@[simp] theorem State.updCore_cmd_at (i : Nat) (f : Core → Core) (k : Nat) : (s.updCore i f).cmd? k = s.cmd? k := rfl
@[simp] theorem State.updCore_kodRun_at (i : Nat) (f : Core → Core) (k j : Nat) : (s.updCore i f).kodRun k j = s.kodRun k j := rfl
@[simp] theorem State.msix_fn_at (n v : Nat) (k : Nat) : (s.msix n v).fn k = s.fn k := rfl
@[simp] theorem State.msix_hide_at (n v : Nat) (k : Nat) : (s.msix n v).hide k = s.hide k := rfl
@[simp] theorem State.msix_ctx_at (n v : Nat) (k : Nat) : (s.msix n v).ctx k = s.ctx k := rfl
@[simp] theorem State.msix_core_at (n v : Nat) (k : Nat) : (s.msix n v).core k = s.core k := rfl
@[simp] theorem State.msix_wm_at (n v : Nat) (k : Nat) : (s.msix n v).wm k = s.wm k := rfl
@[simp] theorem State.msix_tgt_at (n v : Nat) (k : Nat) : (s.msix n v).tgt k = s.tgt k := rfl
@[simp] theorem State.msix_queue_at (n v : Nat) (k j : Nat) : (s.msix n v).queue k j = s.queue k j := rfl
@[simp] theorem State.msix_cmd_at (n v : Nat) (k : Nat) : (s.msix n v).cmd? k = s.cmd? k := rfl
@[simp] theorem State.msix_kodRun_at (n v : Nat) (k j : Nat) : (s.msix n v).kodRun k j = s.kodRun k j := rfl
@[simp] theorem State.evseqNext_fn_at (k : Nat) : (s.evseqNext).fn k = s.fn k := rfl
@[simp] theorem State.evseqNext_hide_at (k : Nat) : (s.evseqNext).hide k = s.hide k := rfl
@[simp] theorem State.evseqNext_ctx_at (k : Nat) : (s.evseqNext).ctx k = s.ctx k := rfl
@[simp] theorem State.evseqNext_core_at (k : Nat) : (s.evseqNext).core k = s.core k := rfl
@[simp] theorem State.evseqNext_wm_at (k : Nat) : (s.evseqNext).wm k = s.wm k := rfl
@[simp] theorem State.evseqNext_tgt_at (k : Nat) : (s.evseqNext).tgt k = s.tgt k := rfl
@[simp] theorem State.evseqNext_queue_at (k j : Nat) : (s.evseqNext).queue k j = s.queue k j := rfl
@[simp] theorem State.evseqNext_cmd_at (k : Nat) : (s.evseqNext).cmd? k = s.cmd? k := rfl
@[simp] theorem State.evseqNext_kodRun_at (k j : Nat) : (s.evseqNext).kodRun k j = s.kodRun k j := rfl
@[simp] theorem State.updSrc_fn_at (n : Nat) (f : Src → Src) (k : Nat) : (s.updSrc n f).fn k = s.fn k := rfl
@[simp] theorem State.updSrc_hide_at (n : Nat) (f : Src → Src) (k : Nat) : (s.updSrc n f).hide k = s.hide k := rfl
@[simp] theorem State.updSrc_ctx_at (n : Nat) (f : Src → Src) (k : Nat) : (s.updSrc n f).ctx k = s.ctx k := rfl
@[simp] theorem State.updSrc_core_at (n : Nat) (f : Src → Src) (k : Nat) : (s.updSrc n f).core k = s.core k := rfl
@[simp] theorem State.updSrc_wm_at (n : Nat) (f : Src → Src) (k : Nat) : (s.updSrc n f).wm k = s.wm k := rfl
@[simp] theorem State.updSrc_queue_at (n : Nat) (f : Src → Src) (k j : Nat) : (s.updSrc n f).queue k j = s.queue k j := rfl
@[simp] theorem State.updSrc_cmd_at (n : Nat) (f : Src → Src) (k : Nat) : (s.updSrc n f).cmd? k = s.cmd? k := rfl
@[simp] theorem State.updSrc_kodRun_at (n : Nat) (f : Src → Src) (k j : Nat) : (s.updSrc n f).kodRun k j = s.kodRun k j := rfl
@[simp] theorem State.updGrp_fn_at (n : Nat) (f : Grp → Grp) (k : Nat) : (s.updGrp n f).fn k = s.fn k := rfl
@[simp] theorem State.updGrp_hide_at (n : Nat) (f : Grp → Grp) (k : Nat) : (s.updGrp n f).hide k = s.hide k := rfl
@[simp] theorem State.updGrp_ctx_at (n : Nat) (f : Grp → Grp) (k : Nat) : (s.updGrp n f).ctx k = s.ctx k := rfl
@[simp] theorem State.updGrp_core_at (n : Nat) (f : Grp → Grp) (k : Nat) : (s.updGrp n f).core k = s.core k := rfl
@[simp] theorem State.updGrp_wm_at (n : Nat) (f : Grp → Grp) (k : Nat) : (s.updGrp n f).wm k = s.wm k := rfl
@[simp] theorem State.updGrp_queue_at (n : Nat) (f : Grp → Grp) (k j : Nat) : (s.updGrp n f).queue k j = s.queue k j := rfl
@[simp] theorem State.updGrp_cmd_at (n : Nat) (f : Grp → Grp) (k : Nat) : (s.updGrp n f).cmd? k = s.cmd? k := rfl
@[simp] theorem State.updGrp_kodRun_at (n : Nat) (f : Grp → Grp) (k j : Nat) : (s.updGrp n f).kodRun k j = s.kodRun k j := rfl
@[simp] theorem State.updTgt_fn_at (n : Nat) (f : Tgt → Tgt) (k : Nat) : (s.updTgt n f).fn k = s.fn k := rfl
@[simp] theorem State.updTgt_hide_at (n : Nat) (f : Tgt → Tgt) (k : Nat) : (s.updTgt n f).hide k = s.hide k := rfl
@[simp] theorem State.updTgt_ctx_at (n : Nat) (f : Tgt → Tgt) (k : Nat) : (s.updTgt n f).ctx k = s.ctx k := rfl
@[simp] theorem State.updTgt_core_at (n : Nat) (f : Tgt → Tgt) (k : Nat) : (s.updTgt n f).core k = s.core k := rfl
@[simp] theorem State.updTgt_wm_at (n : Nat) (f : Tgt → Tgt) (k : Nat) : (s.updTgt n f).wm k = s.wm k := rfl
@[simp] theorem State.updTgt_queue_at (n : Nat) (f : Tgt → Tgt) (k j : Nat) : (s.updTgt n f).queue k j = s.queue k j := rfl
@[simp] theorem State.updTgt_cmd_at (n : Nat) (f : Tgt → Tgt) (k : Nat) : (s.updTgt n f).cmd? k = s.cmd? k := rfl
@[simp] theorem State.updTgt_kodRun_at (n : Nat) (f : Tgt → Tgt) (k j : Nat) : (s.updTgt n f).kodRun k j = s.kodRun k j := rfl
@[simp] theorem State.zeroRun_fn_at (a n : Nat) (k : Nat) : (s.zeroRun a n).fn k = s.fn k := rfl
@[simp] theorem State.zeroRun_hide_at (a n : Nat) (k : Nat) : (s.zeroRun a n).hide k = s.hide k := rfl
@[simp] theorem State.zeroRun_ctx_at (a n : Nat) (k : Nat) : (s.zeroRun a n).ctx k = s.ctx k := rfl
@[simp] theorem State.zeroRun_core_at (a n : Nat) (k : Nat) : (s.zeroRun a n).core k = s.core k := rfl
@[simp] theorem State.zeroRun_wm_at (a n : Nat) (k : Nat) : (s.zeroRun a n).wm k = s.wm k := rfl
@[simp] theorem State.zeroRun_tgt_at (a n : Nat) (k : Nat) : (s.zeroRun a n).tgt k = s.tgt k := rfl
@[simp] theorem State.zeroRun_queue_at (a n : Nat) (k j : Nat) : (s.zeroRun a n).queue k j = s.queue k j := rfl
@[simp] theorem State.zeroRun_cmd_at (a n : Nat) (k : Nat) : (s.zeroRun a n).cmd? k = s.cmd? k := rfl
@[simp] theorem State.zeroRun_kodRun_at (a n : Nat) (k j : Nat) : (s.zeroRun a n).kodRun k j = s.kodRun k j := rfl
@[simp] theorem State.updWm_fn_at (n : Nat) (f : Wm → Wm) (k : Nat) : (s.updWm n f).fn k = s.fn k := rfl
@[simp] theorem State.updWm_hide_at (n : Nat) (f : Wm → Wm) (k : Nat) : (s.updWm n f).hide k = s.hide k := rfl
@[simp] theorem State.updWm_ctx_at (n : Nat) (f : Wm → Wm) (k : Nat) : (s.updWm n f).ctx k = s.ctx k := rfl
@[simp] theorem State.updWm_core_at (n : Nat) (f : Wm → Wm) (k : Nat) : (s.updWm n f).core k = s.core k := rfl
@[simp] theorem State.updWm_tgt_at (n : Nat) (f : Wm → Wm) (k : Nat) : (s.updWm n f).tgt k = s.tgt k := rfl
@[simp] theorem State.updWm_queue_at (n : Nat) (f : Wm → Wm) (k j : Nat) : (s.updWm n f).queue k j = s.queue k j := rfl
@[simp] theorem State.updWm_cmd_at (n : Nat) (f : Wm → Wm) (k : Nat) : (s.updWm n f).cmd? k = s.cmd? k := rfl
@[simp] theorem State.updWm_kodRun_at (n : Nat) (f : Wm → Wm) (k j : Nat) : (s.updWm n f).kodRun k j = s.kodRun k j := rfl
@[simp] theorem State.updSport_fn_at (p : Nat) (f : SPort → SPort) (k : Nat) : (s.updSport p f).fn k = s.fn k := rfl
@[simp] theorem State.updSport_hide_at (p : Nat) (f : SPort → SPort) (k : Nat) : (s.updSport p f).hide k = s.hide k := rfl
@[simp] theorem State.updSport_ctx_at (p : Nat) (f : SPort → SPort) (k : Nat) : (s.updSport p f).ctx k = s.ctx k := rfl
@[simp] theorem State.updSport_core_at (p : Nat) (f : SPort → SPort) (k : Nat) : (s.updSport p f).core k = s.core k := rfl
@[simp] theorem State.updSport_wm_at (p : Nat) (f : SPort → SPort) (k : Nat) : (s.updSport p f).wm k = s.wm k := rfl
@[simp] theorem State.updSport_tgt_at (p : Nat) (f : SPort → SPort) (k : Nat) : (s.updSport p f).tgt k = s.tgt k := rfl
@[simp] theorem State.updSport_queue_at (p : Nat) (f : SPort → SPort) (k j : Nat) : (s.updSport p f).queue k j = s.queue k j := rfl
@[simp] theorem State.updSport_cmd_at (p : Nat) (f : SPort → SPort) (k : Nat) : (s.updSport p f).cmd? k = s.cmd? k := rfl
@[simp] theorem State.updSport_kodRun_at (p : Nat) (f : SPort → SPort) (k j : Nat) : (s.updSport p f).kodRun k j = s.kodRun k j := rfl
@[simp] theorem State.updEngine_fn_at (e : Nat) (f : Engine → Engine) (k : Nat) : (s.updEngine e f).fn k = s.fn k := rfl
@[simp] theorem State.updEngine_hide_at (e : Nat) (f : Engine → Engine) (k : Nat) : (s.updEngine e f).hide k = s.hide k := rfl
@[simp] theorem State.updEngine_ctx_at (e : Nat) (f : Engine → Engine) (k : Nat) : (s.updEngine e f).ctx k = s.ctx k := rfl
@[simp] theorem State.updEngine_core_at (e : Nat) (f : Engine → Engine) (k : Nat) : (s.updEngine e f).core k = s.core k := rfl
@[simp] theorem State.updEngine_wm_at (e : Nat) (f : Engine → Engine) (k : Nat) : (s.updEngine e f).wm k = s.wm k := rfl
@[simp] theorem State.updEngine_tgt_at (e : Nat) (f : Engine → Engine) (k : Nat) : (s.updEngine e f).tgt k = s.tgt k := rfl
@[simp] theorem State.updEngine_queue_at (e : Nat) (f : Engine → Engine) (k j : Nat) : (s.updEngine e f).queue k j = s.queue k j := rfl
@[simp] theorem State.updEngine_cmd_at (e : Nat) (f : Engine → Engine) (k : Nat) : (s.updEngine e f).cmd? k = s.cmd? k := rfl
@[simp] theorem State.updEngine_kodRun_at (e : Nat) (f : Engine → Engine) (k j : Nat) : (s.updEngine e f).kodRun k j = s.kodRun k j := rfl
@[simp] theorem State.updGroup_fn_at (cid g : Nat) (f : Group → Group) (k : Nat) : (s.updGroup cid g f).fn k = s.fn k := rfl
@[simp] theorem State.updGroup_hide_at (cid g : Nat) (f : Group → Group) (k : Nat) : (s.updGroup cid g f).hide k = s.hide k := rfl
@[simp] theorem State.updGroup_ctx_at (cid g : Nat) (f : Group → Group) (k : Nat) : (s.updGroup cid g f).ctx k = s.ctx k := rfl
@[simp] theorem State.updGroup_core_at (cid g : Nat) (f : Group → Group) (k : Nat) : (s.updGroup cid g f).core k = s.core k := rfl
@[simp] theorem State.updGroup_wm_at (cid g : Nat) (f : Group → Group) (k : Nat) : (s.updGroup cid g f).wm k = s.wm k := rfl
@[simp] theorem State.updGroup_tgt_at (cid g : Nat) (f : Group → Group) (k : Nat) : (s.updGroup cid g f).tgt k = s.tgt k := rfl
@[simp] theorem State.updGroup_queue_at (cid g : Nat) (f : Group → Group) (k j : Nat) : (s.updGroup cid g f).queue k j = s.queue k j := rfl
@[simp] theorem State.updGroup_cmd_at (cid g : Nat) (f : Group → Group) (k : Nat) : (s.updGroup cid g f).cmd? k = s.cmd? k := rfl
@[simp] theorem State.updGroup_kodRun_at (cid g : Nat) (f : Group → Group) (k j : Nat) : (s.updGroup cid g f).kodRun k j = s.kodRun k j := rfl
@[simp] theorem State.updSeq_fn_at (e : Nat) (f : Seq → Seq) (k : Nat) : (s.updSeq e f).fn k = s.fn k := rfl
@[simp] theorem State.updSeq_hide_at (e : Nat) (f : Seq → Seq) (k : Nat) : (s.updSeq e f).hide k = s.hide k := rfl
@[simp] theorem State.updSeq_ctx_at (e : Nat) (f : Seq → Seq) (k : Nat) : (s.updSeq e f).ctx k = s.ctx k := rfl
@[simp] theorem State.updSeq_core_at (e : Nat) (f : Seq → Seq) (k : Nat) : (s.updSeq e f).core k = s.core k := rfl
@[simp] theorem State.updSeq_wm_at (e : Nat) (f : Seq → Seq) (k : Nat) : (s.updSeq e f).wm k = s.wm k := rfl
@[simp] theorem State.updSeq_tgt_at (e : Nat) (f : Seq → Seq) (k : Nat) : (s.updSeq e f).tgt k = s.tgt k := rfl
@[simp] theorem State.updSeq_queue_at (e : Nat) (f : Seq → Seq) (k j : Nat) : (s.updSeq e f).queue k j = s.queue k j := rfl
@[simp] theorem State.updSeq_cmd_at (e : Nat) (f : Seq → Seq) (k : Nat) : (s.updSeq e f).cmd? k = s.cmd? k := rfl
@[simp] theorem State.updSeq_kodRun_at (e : Nat) (f : Seq → Seq) (k j : Nat) : (s.updSeq e f).kodRun k j = s.kodRun k j := rfl
@[simp] theorem State.updBox_fn_at (c : Nat) (f : Mbox → Mbox) (k : Nat) : (s.updBox c f).fn k = s.fn k := rfl
@[simp] theorem State.updBox_hide_at (c : Nat) (f : Mbox → Mbox) (k : Nat) : (s.updBox c f).hide k = s.hide k := rfl
@[simp] theorem State.updBox_ctx_at (c : Nat) (f : Mbox → Mbox) (k : Nat) : (s.updBox c f).ctx k = s.ctx k := rfl
@[simp] theorem State.updBox_core_at (c : Nat) (f : Mbox → Mbox) (k : Nat) : (s.updBox c f).core k = s.core k := rfl
@[simp] theorem State.updBox_wm_at (c : Nat) (f : Mbox → Mbox) (k : Nat) : (s.updBox c f).wm k = s.wm k := rfl
@[simp] theorem State.updBox_tgt_at (c : Nat) (f : Mbox → Mbox) (k : Nat) : (s.updBox c f).tgt k = s.tgt k := rfl
@[simp] theorem State.updBox_queue_at (c : Nat) (f : Mbox → Mbox) (k j : Nat) : (s.updBox c f).queue k j = s.queue k j := rfl
@[simp] theorem State.updBox_cmd_at (c : Nat) (f : Mbox → Mbox) (k : Nat) : (s.updBox c f).cmd? k = s.cmd? k := rfl
@[simp] theorem State.updBox_kodRun_at (c : Nat) (f : Mbox → Mbox) (k j : Nat) : (s.updBox c f).kodRun k j = s.kodRun k j := rfl
@[simp] theorem State.updLine_fn_at (l : Nat) (f : Line → Line) (k : Nat) : (s.updLine l f).fn k = s.fn k := rfl
@[simp] theorem State.updLine_hide_at (l : Nat) (f : Line → Line) (k : Nat) : (s.updLine l f).hide k = s.hide k := rfl
@[simp] theorem State.updLine_ctx_at (l : Nat) (f : Line → Line) (k : Nat) : (s.updLine l f).ctx k = s.ctx k := rfl
@[simp] theorem State.updLine_core_at (l : Nat) (f : Line → Line) (k : Nat) : (s.updLine l f).core k = s.core k := rfl
@[simp] theorem State.updLine_wm_at (l : Nat) (f : Line → Line) (k : Nat) : (s.updLine l f).wm k = s.wm k := rfl
@[simp] theorem State.updLine_tgt_at (l : Nat) (f : Line → Line) (k : Nat) : (s.updLine l f).tgt k = s.tgt k := rfl
@[simp] theorem State.updLine_queue_at (l : Nat) (f : Line → Line) (k j : Nat) : (s.updLine l f).queue k j = s.queue k j := rfl
@[simp] theorem State.updLine_cmd_at (l : Nat) (f : Line → Line) (k : Nat) : (s.updLine l f).cmd? k = s.cmd? k := rfl
@[simp] theorem State.updLine_kodRun_at (l : Nat) (f : Line → Line) (k j : Nat) : (s.updLine l f).kodRun k j = s.kodRun k j := rfl
@[simp] theorem State.updLink_fn_at (p : Nat) (f : Link → Link) (k : Nat) : (s.updLink p f).fn k = s.fn k := rfl
@[simp] theorem State.updLink_hide_at (p : Nat) (f : Link → Link) (k : Nat) : (s.updLink p f).hide k = s.hide k := rfl
@[simp] theorem State.updLink_ctx_at (p : Nat) (f : Link → Link) (k : Nat) : (s.updLink p f).ctx k = s.ctx k := rfl
@[simp] theorem State.updLink_core_at (p : Nat) (f : Link → Link) (k : Nat) : (s.updLink p f).core k = s.core k := rfl
@[simp] theorem State.updLink_wm_at (p : Nat) (f : Link → Link) (k : Nat) : (s.updLink p f).wm k = s.wm k := rfl
@[simp] theorem State.updLink_tgt_at (p : Nat) (f : Link → Link) (k : Nat) : (s.updLink p f).tgt k = s.tgt k := rfl
@[simp] theorem State.updLink_queue_at (p : Nat) (f : Link → Link) (k j : Nat) : (s.updLink p f).queue k j = s.queue k j := rfl
@[simp] theorem State.updLink_cmd_at (p : Nat) (f : Link → Link) (k : Nat) : (s.updLink p f).cmd? k = s.cmd? k := rfl
@[simp] theorem State.updLink_kodRun_at (p : Nat) (f : Link → Link) (k j : Nat) : (s.updLink p f).kodRun k j = s.kodRun k j := rfl
@[simp] theorem State.updMover_fn_at (m : Nat) (f : Mover → Mover) (k : Nat) : (s.updMover m f).fn k = s.fn k := rfl
@[simp] theorem State.updMover_hide_at (m : Nat) (f : Mover → Mover) (k : Nat) : (s.updMover m f).hide k = s.hide k := rfl
@[simp] theorem State.updMover_ctx_at (m : Nat) (f : Mover → Mover) (k : Nat) : (s.updMover m f).ctx k = s.ctx k := rfl
@[simp] theorem State.updMover_core_at (m : Nat) (f : Mover → Mover) (k : Nat) : (s.updMover m f).core k = s.core k := rfl
@[simp] theorem State.updMover_wm_at (m : Nat) (f : Mover → Mover) (k : Nat) : (s.updMover m f).wm k = s.wm k := rfl
@[simp] theorem State.updMover_tgt_at (m : Nat) (f : Mover → Mover) (k : Nat) : (s.updMover m f).tgt k = s.tgt k := rfl
@[simp] theorem State.updMover_queue_at (m : Nat) (f : Mover → Mover) (k j : Nat) : (s.updMover m f).queue k j = s.queue k j := rfl
@[simp] theorem State.updMover_cmd_at (m : Nat) (f : Mover → Mover) (k : Nat) : (s.updMover m f).cmd? k = s.cmd? k := rfl
@[simp] theorem State.updMover_kodRun_at (m : Nat) (f : Mover → Mover) (k j : Nat) : (s.updMover m f).kodRun k j = s.kodRun k j := rfl
@[simp] theorem State.updGov_fn_at (f : Gov → Gov) (k : Nat) : (s.updGov f).fn k = s.fn k := rfl
@[simp] theorem State.updGov_hide_at (f : Gov → Gov) (k : Nat) : (s.updGov f).hide k = s.hide k := rfl
@[simp] theorem State.updGov_ctx_at (f : Gov → Gov) (k : Nat) : (s.updGov f).ctx k = s.ctx k := rfl
@[simp] theorem State.updGov_core_at (f : Gov → Gov) (k : Nat) : (s.updGov f).core k = s.core k := rfl
@[simp] theorem State.updGov_wm_at (f : Gov → Gov) (k : Nat) : (s.updGov f).wm k = s.wm k := rfl
@[simp] theorem State.updGov_tgt_at (f : Gov → Gov) (k : Nat) : (s.updGov f).tgt k = s.tgt k := rfl
@[simp] theorem State.updGov_queue_at (f : Gov → Gov) (k j : Nat) : (s.updGov f).queue k j = s.queue k j := rfl
@[simp] theorem State.updGov_cmd_at (f : Gov → Gov) (k : Nat) : (s.updGov f).cmd? k = s.cmd? k := rfl
@[simp] theorem State.updGov_kodRun_at (f : Gov → Gov) (k j : Nat) : (s.updGov f).kodRun k j = s.kodRun k j := rfl
@[simp] theorem State.updPow_fn_at (f : Power → Power) (k : Nat) : (s.updPow f).fn k = s.fn k := rfl
@[simp] theorem State.updPow_hide_at (f : Power → Power) (k : Nat) : (s.updPow f).hide k = s.hide k := rfl
@[simp] theorem State.updPow_ctx_at (f : Power → Power) (k : Nat) : (s.updPow f).ctx k = s.ctx k := rfl
@[simp] theorem State.updPow_core_at (f : Power → Power) (k : Nat) : (s.updPow f).core k = s.core k := rfl
@[simp] theorem State.updPow_wm_at (f : Power → Power) (k : Nat) : (s.updPow f).wm k = s.wm k := rfl
@[simp] theorem State.updPow_tgt_at (f : Power → Power) (k : Nat) : (s.updPow f).tgt k = s.tgt k := rfl
@[simp] theorem State.updPow_queue_at (f : Power → Power) (k j : Nat) : (s.updPow f).queue k j = s.queue k j := rfl
@[simp] theorem State.updPow_cmd_at (f : Power → Power) (k : Nat) : (s.updPow f).cmd? k = s.cmd? k := rfl
@[simp] theorem State.updPow_kodRun_at (f : Power → Power) (k j : Nat) : (s.updPow f).kodRun k j = s.kodRun k j := rfl
@[simp] theorem State.dropReq_fn_at (r : RReq) (k : Nat) : (s.dropReq r).fn k = s.fn k := rfl
@[simp] theorem State.dropReq_hide_at (r : RReq) (k : Nat) : (s.dropReq r).hide k = s.hide k := rfl
@[simp] theorem State.dropReq_ctx_at (r : RReq) (k : Nat) : (s.dropReq r).ctx k = s.ctx k := rfl
@[simp] theorem State.dropReq_core_at (r : RReq) (k : Nat) : (s.dropReq r).core k = s.core k := rfl
@[simp] theorem State.dropReq_wm_at (r : RReq) (k : Nat) : (s.dropReq r).wm k = s.wm k := rfl
@[simp] theorem State.dropReq_tgt_at (r : RReq) (k : Nat) : (s.dropReq r).tgt k = s.tgt k := rfl
@[simp] theorem State.dropReq_queue_at (r : RReq) (k j : Nat) : (s.dropReq r).queue k j = s.queue k j := rfl
@[simp] theorem State.dropReq_cmd_at (r : RReq) (k : Nat) : (s.dropReq r).cmd? k = s.cmd? k := rfl
@[simp] theorem State.dropReq_kodRun_at (r : RReq) (k j : Nat) : (s.dropReq r).kodRun k j = s.kodRun k j := rfl
@[simp] theorem State.dropWaiter_fn_at (w : Waiter) (k : Nat) : (s.dropWaiter w).fn k = s.fn k := rfl
@[simp] theorem State.dropWaiter_hide_at (w : Waiter) (k : Nat) : (s.dropWaiter w).hide k = s.hide k := rfl
@[simp] theorem State.dropWaiter_ctx_at (w : Waiter) (k : Nat) : (s.dropWaiter w).ctx k = s.ctx k := rfl
@[simp] theorem State.dropWaiter_core_at (w : Waiter) (k : Nat) : (s.dropWaiter w).core k = s.core k := rfl
@[simp] theorem State.dropWaiter_wm_at (w : Waiter) (k : Nat) : (s.dropWaiter w).wm k = s.wm k := rfl
@[simp] theorem State.dropWaiter_tgt_at (w : Waiter) (k : Nat) : (s.dropWaiter w).tgt k = s.tgt k := rfl
@[simp] theorem State.dropWaiter_queue_at (w : Waiter) (k j : Nat) : (s.dropWaiter w).queue k j = s.queue k j := rfl
@[simp] theorem State.dropWaiter_cmd_at (w : Waiter) (k : Nat) : (s.dropWaiter w).cmd? k = s.cmd? k := rfl
@[simp] theorem State.dropWaiter_kodRun_at (w : Waiter) (k j : Nat) : (s.dropWaiter w).kodRun k j = s.kodRun k j := rfl
@[simp] theorem State.retime_fn_at (k : Nat) : (s.retime).fn k = s.fn k := rfl
@[simp] theorem State.retime_hide_at (k : Nat) : (s.retime).hide k = s.hide k := rfl
@[simp] theorem State.retime_ctx_at (k : Nat) : (s.retime).ctx k = s.ctx k := rfl
@[simp] theorem State.retime_core_at (k : Nat) : (s.retime).core k = s.core k := rfl
@[simp] theorem State.retime_wm_at (k : Nat) : (s.retime).wm k = s.wm k := rfl
@[simp] theorem State.retime_tgt_at (k : Nat) : (s.retime).tgt k = s.tgt k := rfl
@[simp] theorem State.retime_queue_at (k j : Nat) : (s.retime).queue k j = s.queue k j := rfl
@[simp] theorem State.retime_kodRun_at (k j : Nat) : (s.retime).kodRun k j = s.kodRun k j := rfl
@[simp] theorem State.updChan_fn_at (m c : Nat) (f : Chan → Chan) (k : Nat) : (s.updChan m c f).fn k = s.fn k := rfl
@[simp] theorem State.updChan_hide_at (m c : Nat) (f : Chan → Chan) (k : Nat) : (s.updChan m c f).hide k = s.hide k := rfl
@[simp] theorem State.updChan_ctx_at (m c : Nat) (f : Chan → Chan) (k : Nat) : (s.updChan m c f).ctx k = s.ctx k := rfl
@[simp] theorem State.updChan_core_at (m c : Nat) (f : Chan → Chan) (k : Nat) : (s.updChan m c f).core k = s.core k := rfl
@[simp] theorem State.updChan_wm_at (m c : Nat) (f : Chan → Chan) (k : Nat) : (s.updChan m c f).wm k = s.wm k := rfl
@[simp] theorem State.updChan_tgt_at (m c : Nat) (f : Chan → Chan) (k : Nat) : (s.updChan m c f).tgt k = s.tgt k := rfl
@[simp] theorem State.updChan_queue_at (m c : Nat) (f : Chan → Chan) (k j : Nat) : (s.updChan m c f).queue k j = s.queue k j := rfl
@[simp] theorem State.updChan_cmd_at (m c : Nat) (f : Chan → Chan) (k : Nat) : (s.updChan m c f).cmd? k = s.cmd? k := rfl
@[simp] theorem State.updChan_kodRun_at (m c : Nat) (f : Chan → Chan) (k j : Nat) : (s.updChan m c f).kodRun k j = s.kodRun k j := rfl

end Sys2Proof.Machine
end

