-- ==== Sys2Proof/Tests/Slice0.lean ====
section
/-! SUPPORT. Tests: every statement's hypotheses are met by a concrete state and operands; ill-formed terms are refused; words of
each form decode to their instructions. -/

open Sys2Proof Sys2Proof.Machine Sys2Proof.Claims

namespace Sys2Proof.Tests

set_option Elab.async false

/-- A function that takes writes, with one queue. -/
def fnWith (q : Queue) : State := { fns := [(0, { ready := true, queues := [(0, q)] })] }
/-- An enabled queue. -/
def onQueue : Queue := { enabled := true, ctrl := 0x000404, sqBase := 0x1000, cqBase := 0x2000 }

/-- A state with one command, and a queue for it. -/
def withCmd (c : Cmd) : State := { fnWith onQueue with cmds := [c], nextCid := c.cid + 1 }

/-- A context-management command (context 0 of function 0) with its context. -/
def ctxState (c : Cmd) (x : Ctx) : State := { withCmd c with live := [0], ctxs := [(0, x)] }

/-- A mover 0 whose channel 0 is as given. -/
def chanState (x : Chan) : State := { movers := [(0, { chans := [(0, x)] })] }
/-- A descriptor of four bytes. -/
def smallDesc : MDesc := { count := 4 }

/-- Bytes of a number from an address on, without those that are 0. -/
def cells (a n v : Nat) : List (Nat × Byte) :=
  ((List.range n).map (fun i => (a + i, BitVec.ofNat 8 (v / 256 ^ i)))).filter (fun x => x.2 != 0)
/-- A plan header of one stage (R249), and its stage record with a kernel of one chain (R250). -/
def planHeader : Nat := 0x0100 + 2 ^ 16 + 2 ^ 32 + 4 * 2 ^ 48 + 2 ^ 128 + 2 ^ 160 + 0x1000 * 2 ^ 320 + 0x6000 * 2 ^ 384 + 0x6400 * 2 ^ 448 + 0x800 * 2 ^ 512
/-- A kernel of one chain. -/
def kernelDesc : Nat := 0x30 + 2 ^ 32 + 2 ^ 64 + 2 ^ 96 + 8 * 2 ^ 104 + 8 * 2 ^ 160 + 0x7000 * 2 ^ 192
/-- PLAN_LOAD of plan 0. -/
def planCmd : Cmd := { cid := 1, d0 := 0x50 + 0x400 * 2 ^ 64, phase := .dispatched, ctx := 3 }
/-- A context with one device mapping. -/
def devCtx : Ctx := { resident := true,
                      maps := [{ va := 0, len := 2 ^ 21, kind := 1, ro := false, io := false, psize := 2 ^ 21, base := 5 * 2 ^ 32,
                                 dev := none, node := 0, hide := 0, obj := 0, used := 0 }] }
/-- A state in which the PLAN_LOAD may run. -/
def planState : State := { cmds := [planCmd], live := [3], ctxs := [(3, devCtx)],
                           mem := cells (5 * 2 ^ 32 + 0x400) 128 planHeader ++ cells (5 * 2 ^ 32 + 0x800) 160 (2 + kernelDesc * 2 ^ 256) }
/-- What it loads. -/
def loaded : List Piece × Nat × List Stage := (Claims.planLoads planState planCmd).getD ([], 0, [])
/-- A plan of context 3 without stages. -/
def smallPlan : Plan :=
  { ctx := 3, num := 0, fn := 0, maxRows := 4, pageLog2 := 4, draftMax := 2, pageBytes := 0, poolPages := 4, maxPages := 4,
    chunk := 2, poolLow := 0, poolAddr := 0, plist := [], rowtab := [], tokout := [], pool := [], stages := [], free := [0, 1],
    step := none, queue := [], stale := false }
/-- A state with one command, its context, a plan and sequences. -/
def planWith (c : Cmd) (p : Plan) (q : List (Nat × Seq)) : State :=
  { cmds := [c], live := [3], ctxs := [(3, { resident := true })], plans := [(0, p)], seqs := q, hides := [(0, { started := true })],
    fns := [(0, { ready := true, queues := [(0, onQueue)] })], nextCid := 2 }
/-- A step that is built, of no rows. -/
def builtStep : Step := { cid := 1, rows := 1, built := true, sel := [], next := 0, stageCid := none, rerun := false, stagedUpTo := 0 }
/-- A kernel stage. -/
def kernelStage : Stage := { kind := 1, rowsPer := 0, kvOff := 0, kvLen := 0, d0 := BitVec.ofNat 512 kernelDesc, d1 := 0, pieces := [], ext := 0, buftab := 0, arg := 0 }

/-- An acre operation of one row, one column and one element of K. -/
def acreCmd : Cmd := { cid := 1, d0 := 0x40 + 2 ^ 64 + 2 ^ 96 + 2 ^ 128, phase := .running, ctx := 3 }
/-- A hide with that operation, its acre as given. -/
def acreState (a : Acre) : State :=
  { cmds := [acreCmd, { acreCmd with cid := 2, cls := 0, phase := .dispatched }], live := [3], ctxs := [(3, { resident := true })],
    hides := [(0, { started := true, acre := a })], kod := { run := [(kodKey 0x3000 0x0A, 1)] } }

/-- A kernel command of one chain, with its context. -/
def kernelCmd : Cmd := { cid := 1, d0 := BitVec.ofNat 512 kernelDesc, phase := .running, ctx := 3, cls := 2 }
/-- A state with that kernel, every furlong on. -/
def kernelState : State :=
  { cmds := [kernelCmd], live := [3], ctxs := [(3, { resident := true, saveLen := 2 ^ 21 })], hides := [(0, { started := true, engQ := [1] })],
    pow := { fOn := List.range 16 } }
/-- A group of the kernel on core 0, in slot 0. -/
def onCore0 : Group := { cid := 1, g := 0, ctx := 3, cls := 2, core := some 0, slots := [0] }
/-- The state with that group and its chain. -/
def placed (x : Group) (k : Chain) : State := { kernelState with groups := [x], cores := [(0, { chains := [(0, k)] })] }

/-- A block that is up. -/
def up : State := { pow := { boot := .service, fwUp := true } }

/-- A block in service, its firmware running. -/
def inService : State := { pow := { boot := .service, fwUp := true, fOn := List.range 16 } }

/-- Low bytes do not see what lies above them. -/
theorem leBytes_high (c : Nat) : ∀ n m, n ≤ m → leBytes n (c * 256 ^ m) = leBytes n 0
  | 0, _, _ => rfl
  | n + 1, 0, h => absurd h (by omega)
  | n + 1, m + 1, h => by
    have h1 : c * 256 ^ (m + 1) = 256 * (c * 256 ^ m) := by rw [Nat.pow_succ]; ac_rfl
    have h2 : BitVec.ofNat 8 (256 * (c * 256 ^ m)) = (BitVec.ofNat 8 0 : Byte) := by
      apply BitVec.eq_of_toNat_eq; simp [BitVec.toNat_ofNat]
    rw [h1]
    simp only [leBytes, h2, Nat.mul_div_cancel_left _ (show 0 < 256 by decide), Nat.zero_div]
    rw [leBytes_high c n m (by omega)]

/-- Some flit has the CRC that its bytes give. -/
theorem flit_ok : ∃ v : BitVec 2048, (crc32 (leBytes 252 v.toNat)).toNat = nbits v.toNat 2047 2016 := by
  have hb : (crc32 (leBytes 252 0)).toNat < 2 ^ 32 := BitVec.isLt _
  have key : ∀ k : Nat, k < 2 ^ 32 → (BitVec.ofNat 2048 (k * 256 ^ 252)).toNat = k * 256 ^ 252 ∧ nbits (k * 256 ^ 252) 2047 2016 = k := by
    intro k hk
    have e : (256 : Nat) ^ 252 = 2 ^ 2016 := by rw [show (256 : Nat) = 2 ^ 8 from rfl, ← Nat.pow_mul]
    rw [e]
    refine ⟨?_, ?_⟩
    · rw [BitVec.toNat_ofNat, Nat.mod_eq_of_lt]
      calc k * 2 ^ 2016 < 2 ^ 32 * 2 ^ 2016 := (Nat.mul_lt_mul_right (Nat.two_pow_pos _)).mpr hk
        _ = 2 ^ 2048 := by rw [← Nat.pow_add]
    · simp only [nbits]
      rw [Nat.mul_div_cancel _ (Nat.two_pow_pos _)]
      exact Nat.mod_eq_of_lt hk
  obtain ⟨k1, k2⟩ := key _ hb
  exact ⟨BitVec.ofNat 2048 ((crc32 (leBytes 252 0)).toNat * 256 ^ 252), by rw [k1, k2, leBytes_high _ 252 252 (Nat.le_refl _)]⟩
/-- A topology of two nodes in a ring of one dimension, port 0 to port 1, without its CRC (R536). -/
def topoBody : Nat := 0x0100 + 2 * 2 ^ 16 + 2 ^ 32 + 2 * 2 ^ 64 + 2 ^ 80 + 2 ^ 96 + 2 ^ 112 + 2 * 2 ^ 128 + (0x01000100 + 0xFF000001 * 2 ^ 32) * 2 ^ 256
/-- The topology with its CRC. -/
def topo2 : Nat := topoBody + (crc32 (leBytes 40 topoBody)).toNat * 2 ^ 160
/-- Node 0 of that fabric, its ports on, port 0 as given. -/
def node0 (l : Link) : State :=
  { pow := { boot := .service, fwUp := true, lka := true }, kod := { run := [(kodKey 0x8000 2, topo2), (kodKey 0x8000 3, 1)] }, fab := { links := [(0, l)] } }

/-- A message of a KIND from node 1 to node 0, at a byte of unit 5. -/
def msgOf (k : BitVec 8) : LMsg := { kind := k, vc := 0, len := 4, src := 1, addr := 0x500000000, data := [1, 2, 3, 4] }
/-- Node 0 with that message received on port 0. -/
def received (m : LMsg) : State := { fab := { links := [(0, { st := .up, rx := [m] })] } }
/-- A request of a KIND that is outstanding, with tag 0. -/
def reqKind (k : Nat) : RReq := { tag := 0, node := 1, kind := k, core := none, chan := none, cid := 0, ctx := 0, at_ := 0, addr := 0, epoch := false, msg := {} }
/-- Node 0 with a response received on port 0 and the request that it answers. -/
def answered (m : LMsg) (r : RReq) : State := { fab := { links := [(0, { st := .up, rx := [m] })], reqs := [r] } }

/-- A store-buffer entry of command 1 that writes one byte of unit 5. -/
def storeEnt : SbEnt := { slot := 0, cid := 1, ctx := 3, gen := 1, tag := 0, hide := 0, data := [(0x500000000, 7)], atoms := [], dev := false, retried := false }
/-- Core 0 with store-buffer entries. -/
def withStores (l : List SbEnt) : State := { live := [3], ctxs := [(3, { resident := true })], cores := [(0, { sb := l })] }
/-- A load of one lane into v1, complete but for its return. -/
def plainLoad : Load := { idx := 0, vd := some 1, ud := 0, size := 2, na := false, acq := false, lanes := [(0, 0x500000000)], atomic := false, dev := false, await := 0 }
/-- Core 0 with a chain that waits for that load. -/
def withLoad (l : Load) : State := { cores := [(0, { chains := [(0, { loads := [l] })] })] }

/-- A chain of the running kernel, with values in its registers. -/
def runner : Chain := { cid := 1, vregs := 32, v := [(32, 7), (33, 0xFFFFFFFF), (64, 9), (65, 1), (96, 3), (97, 0x80000001)], u := [(1, 0x8000000000000001), (2, 5)], p := [(0, 1), (1, 3)] }
/-- The kernel with that chain on core 0. -/
def running : State := placed onCore0 runner
/-- Chain slot 0 of core 0. -/
def at0 : ChainRef := { core := 0, slot := 0 }

/-- A chain with two u registers, and half of its threads active. -/
def half : Chain := { runner with u := [(1, 5), (2, 3)], active := 0xFFFF }
/-- The kernel with a chain. -/
def onChain (c : Chain) : State := placed onCore0 c

/-- A chain with addresses 16 · lane in v5, lanes 0 and 1 active. -/
def user : Chain := { runner with v := [(160, 0), (161, 16), (32, 7), (33, 0xFFFFFFFF), (64, 9), (65, 1)], u := [(1, 0x40)], active := 3 }
/-- Its group with 4096 bytes of local store. -/
def localState : State := { placed { onCore0 with lsSize := 4096 } user with cores := [(0, { chains := [(0, user)], ls := [(0x40, 5), (0x41, 6)] })] }
/-- A kernel with one buffer of 4096 bytes in slot 2. -/
def bufferCmd : Cmd := { kernelCmd with buftab := (2 ^ 120 + 0x1000 * 2 ^ 64 + 0x10000) * 2 ^ 256,
                                        pieces := [{ ext := 2, off := 0, len := 0x1000, va := 0x10000, pa := 0x500000000, ro := false, io := false, hide := 0, tag := 0, gen := 0 }] }
/-- The state with that kernel. -/
def bufferState : State := { placed onCore0 user with cmds := [bufferCmd] }
/-- A chain of control core 0, with the byte address of unit 5 in u1. -/
def ctlUser : Chain := { user with u := [(1, 0x500000000)], vregs := 56 }
/-- Control core 0 with it. -/
def ctlState : State := { pow := { fwUp := true }, cores := [(272, { chains := [(0, ctlUser)] })] }
/-- Chain slot 0 of control core 0. -/
def atCtl : ChainRef := { core := 272, slot := 0 }

/-- A group with a local store whose chain uses the matrix unit. -/
def mxState : State := { placed { onCore0 with lsSize := 65536 } runner with cores := [(0, { chains := [(0, { runner with u := [] })] })] }
/-- Its chain. -/
def mxChain : Chain := { runner with u := [] }
/-- The same with the unit held by another context. -/
def mxOther : State := { mxState with cores := [(0, { chains := [(0, mxChain)], unit := { owner := some 4 } })] }

/-- A chain with the identifier of a counting event at local offset 0x40 in u1, and of a barrier at 0x80 in u2. -/
def syncChain : Chain := { runner with u := [(1, 0x40), (2, 0x200000000080)] }
/-- Its group with a local store; the event holds 2. -/
def syncState : State := { placed { onCore0 with lsSize := 4096 } syncChain with cores := [(0, { chains := [(0, syncChain)], ls := [(0x40, 2)] })] }
/-- The same on a control core. -/
def ctlSync : State := { ctlState with cores := [(272, { chains := [(0, ctlUser)] })] }
/-- A chain that waits in a block fence. -/
def fenced : Chain := { runner with st := .fence 2 }

/-- A translation of the first gigabytes of function 0's I/O addresses. -/
def granted : AtsEnt := { fn := 0, io := 0, len := 2 ^ 32, ta := 0, r := true, w := true }
/-- A line with a transaction in progress. -/
def busyLine : Line := { cur := some { who := {}, kind := .read } }
/-- A piece of memory from an address on, at the start of an extent. -/
def pieceOf (ext pa : Nat) : Piece := { ext := ext, off := 0, len := 0x1000, va := 0x10000, pa := pa, ro := false, io := false, hide := 0, tag := 0, gen := 0 }
/-- A command of the Gate whose object is on node 1. -/
def farCmd (op : Desc) : Cmd := { cid := 1, d0 := op, phase := .dispatched, pieces := [pieceOf 0 0x10000000000] }
/-- Dictionary entries of a hide with unit 5 whose function 0 may create contexts. -/
def createKod (limit : Nat) : Kod :=
  { run := [(kodKey 0x3000 1, 1), (kodKey 0x3000 2, 1), (kodKey 0x3010 5, 0x10), (kodKey 0x7000 1, 0), (kodKey 0x7000 2, 1), (kodKey 0x7000 7, limit), (kodKey 0x7000 8, 4)] }
/-- A built step that has selected one sequence. -/
def pickedStep : Step := { builtStep with sel := [{ entry := 0, row := 0, rows := 1, took := [], drafts := [] }] }
/-- An acre command with a bias at address 0. -/
def biasCmd : Cmd := { acreCmd with pieces := [pieceOf 7 0] }
/-- An acre command of two passes. -/
def longCmd : Cmd := { acreCmd with d0 := 0x40 + 2 ^ 64 + 2 ^ 96 + 4096 * 2 ^ 128 }
/-- An atomic on host memory. -/
def hostAdd : SbAtom := { op := .add, size := 2, addr := 2 ^ 55, val := 1, cmp := 0, load := 0, lane := 0 }
/-- The kernel with a buffer of device registers. -/
def ioState : State := { bufferState with cmds := [{ bufferCmd with pieces := [{ pieceOf 2 0x500000000 with io := true }] }] }
/-- A record of a Stack Port and a latched source leave every hide as it was. -/
theorem hides_kept (s : State) (p k n a g : Nat) : ((s.stackRecord p k n a).latchIn g).hides = s.hides := by
  have h1 : ((s.stackRecord p k n a).latchIn g).hides = (s.stackRecord p k n a).hides :=
    (Laws.latchIn_same (K := 537001988) (s.stackRecord p k n a) g rfl (Laws.Same.refl _ _)).get .hides rfl
  have h2 : (s.stackRecord p k n a).hides = s.hides :=
    (Laws.stackRecord_same (K := 558345748696) s p k n a rfl (Laws.Same.refl _ _)).get .hides rfl
  rw [h1, h2]
/-- A hide on Stack Port 0. -/
def onePort : State := { hides := [(0, { started := true })], kod := { run := [(kodKey 0x3000 2, 1)] } }
/-- A NOP of context 3, in a state that accepts it. -/
def nopCmd : Cmd := { cid := 1, d0 := 1, ctx := 3 }
/-- The state with it. -/
def nopState : State := { withCmd nopCmd with kod := createKod 4, live := [3], ctxs := [(3, { resident := true })] }

/-! ## The hypotheses of the statements -/

theorem wit_EmptyQueuePassesTime_1 : ∃ (s : State),
    (s.pending = []) :=
  ⟨{}, by decide +kernel⟩

theorem wit_StepKeepsMemoryCanonical_1 : ∃ (s t : State),
    (s.memOk = true) ∧
    (step s = .next t) :=
  ⟨{ mem := [(5, 7)] }, State.tick { mem := [(5, 7)] }, by decide +kernel, rfl⟩

theorem wit_OnlyUndescribedDevicesStop_3 : ∃ (c : Instr) (s : State),
    ((∀ off size val, c ≠ .registerWrite .dev off size val)) ∧
    ((∀ core, c ≠ .storeBufferEntryLeave core)) ∧
    ((∀ r idx, c ≠ .loadDataReturn r idx false)) :=
  ⟨.routesInPlace, {}, by and_intros <;> (intros; simp)⟩

theorem wit_MemoryReadsWhatWasWritten_1 : ∃ (a k : Nat) (b : Byte) (s : State),
    (s.memOk = true) ∧
    (a.testBit 54 = false) ∧
    (k.testBit 54 = false) :=
  ⟨0x500000000, 0x500000001, 7, {}, by and_intros <;> decide +kernel⟩

theorem wit_MemoryReadsWhatWasWritten_2 : ∃ (l : List (Nat × Byte)) (k : Nat) (s : State),
    (s.memOk = true) ∧
    (k.testBit 54 = false) ∧
    ((∀ x ∈ l, x.1.testBit 54 = false)) :=
  ⟨[(0x500000000, 7), (0x500000001, 8)], 0x500000001, {}, by and_intros <;> decide +kernel⟩

theorem wit_MemoryReadsWhatWasWritten_3 : ∃ (a : Nat) (b : Byte) (s : State),
    (s.memOk = true) :=
  ⟨0x500000000, 7, {}, by decide +kernel⟩

theorem wit_MemoryReadsWhatWasWritten_4 : ∃ (a : Nat) (s : State),
    (s.memOk = true) ∧
    (s.isLocal a = true) ∧
    (s.unitKind (paOff a / 2 ^ 32) ≠ 2) :=
  ⟨0x500000000, {}, by decide +kernel⟩

theorem wit_InstructionWordsRoundTrip_1 : ∃ (i : Instr) (r : ChainRef) (w : BitVec 64),
    (i.wf = true) ∧
    (encodeRiku i = some (r, w)) :=
  ⟨.imad at0 { vd := 1, usel := 63 }, at0, wordV3 4 { vd := 1, usel := 63 }, by decide +kernel⟩

theorem wit_InstructionWordsRoundTrip_2 : ∃ (r : ChainRef) (w : BitVec 64),
    (decodeRiku r w ≠ .illegalEncoding r) :=
  ⟨at0, 0x7070, by decide +kernel⟩

theorem wit_InstructionWords_2 : ∃ (r : ChainRef) (w v : BitVec 64),
    (usedBits w = usedBits v) :=
  ⟨at0, 0, 0x4000000000000000, by decide +kernel⟩

theorem wit_CanonicalNaN_2 : ∃ (ff : FFmt) (rd : Rnd) (op : SpecFn) (a b c : Nat),
    (ff ∈ nanFormats) ∧
    (decodeFloat ff a = .nan) :=
  ⟨fF32, .rne, .rcp, 0x7FC00001, 0, 0, by decide +kernel⟩

theorem wit_CanonicalNaN_3 : ∃ (ff gg : FFmt) (src dst : Nat) (rd : Rnd) (a : Nat),
    (ff ∈ nanFormats) ∧
    (typeFloat src = some gg) ∧
    (typeFloat dst = some ff) ∧
    (decodeFloat gg a = .nan) :=
  ⟨fF16, fF32, 2, 3, .rtz, 0xFFC00001, by decide +kernel⟩

theorem wit_AtomicSizes_1 : ∃ (r : ChainRef) (op : AtomOp) (i : MemI) (c : Chain) (s : State),
    (s.chain? r.core.val r.slot.val = some c) ∧
    (s.mayIssue r.core.val c = true) ∧
    (s.pcOk r.core.val c = true) ∧
    (c.loads = []) ∧
    (c.lanesOf i.pred i.pneg ≠ 0) ∧
    (i.size ≠ 2) ∧
    (i.size ≠ 3) :=
  ⟨at0, .add, { size := 4 }, runner, running, by decide +kernel⟩

theorem wit_AtomicSizes_2 : ∃ (r : ChainRef) (op : AtomOp) (i : MemI) (c : Chain) (s : State),
    (accesses s r c i (atomRegs op i.vds.toNat i.size.toNat) []) ∧
    (i.size = 2 ∨ i.size = 3) ∧
    (localOk s r c i (memBytes i)) ∧
    (s.markOk r.core.val r.slot.val c i 1 = true) ∧
    (c.settled = true) :=
  ⟨at0, .max, { vds := 1, voff := 5, ubase := 1, size := 3 }, user, localState, by and_intros <;> decide +kernel⟩

theorem wit_AtomicSizes_3 : ∃ (r : ChainRef) (op : AtomOp) (i : MemI) (c : Chain) (s : State),
    (accesses s r c i (atomRegs op i.vds.toNat i.size.toNat) []) ∧
    (i.size = 2 ∨ i.size = 3) ∧
    (globalOk s r c i.buf.toNat (by_ c i) (offOf c i) (memBytes i) true) ∧
    (noDevice s r c i) ∧
    (hostAtomOk op = true ∨ (∀ x ∈ placesOf s r c i, isHostPa x.2 = false)) ∧
    ((s.core r.core.val).sb.length + (linesOf s r c i).length ≤ 64) ∧
    ((∀ x ∈ placesOf s r c i, c.loading x.2 (memBytes i) = false)) ∧
    (s.markOk r.core.val r.slot.val c i (s.maxScope ((placesOf s r c i).map (fun x => x.2))) = true) ∧
    (c.settled = true) :=
  ⟨at0, .min, { vds := 1, voff := 5, ubase := 0, buf := 2, size := 2 }, user, bufferState, by and_intros <;> decide +kernel⟩

theorem wit_AtomicSizes_4 : ∃ (w old v p : Nat),
    (w = 32 ∨ w = 64) ∧
    (old < 2 ^ w) ∧
    (v < 2 ^ w) :=
  ⟨32, 0xFFFFFFFF, 5, 0, by decide +kernel⟩

theorem wit_RegistersBeyondTheAllocation_1 : ∃ (x : Instr) (r : ChainRef) (pred : Fin 8) (neg : Bool) (l : List (BitVec 8)) (v : BitVec 8) (c : Chain) (s : State),
    (namesV x = some (r, pred, neg, l)) ∧
    (s.chain? r.core.val r.slot.val = some c) ∧
    (s.mayIssue r.core.val c = true) ∧
    (s.pcOk r.core.val c = true) ∧
    (c.loads = []) ∧
    (c.lanesOf pred neg ≠ 0) ∧
    (forChain x = false ∨ c.lanesOf pred neg = c.active) ∧
    (v ∈ l) ∧
    (v ≠ 255) ∧
    (c.vregs ≤ v.toNat) :=
  ⟨.ldg at0 { vds := 30, size := 4 }, at0, 7, false, [255, 30, 31, 32, 33], 32, runner, running, by decide +kernel⟩

theorem wit_DoorbellAndDescriptors_1 : ∃ (fn : Fin 513) (q : Fin 64) (tail : W32) (s : State),
    (takesQueue s fn.val q.val) ∧
    ((s.queue fn.val q.val).open = true) ∧
    (tail ≠ (s.queue fn.val q.val).sqTail) ∧
    ((tail - (s.queue fn.val q.val).sqHead).toNat ≤ (s.queue fn.val q.val).ringSize) ∧
    ((s.queue fn.val q.val).ctx = 0xFFFF) ∧
    ((s.queue fn.val q.val).isPush = false) ∧
    (tail ≠ (s.queue fn.val q.val).asked) ∧
    ((∀ k, k < (tail - (s.queue fn.val q.val).asked).toNat → s.ringAt fn.val (ringIo (s.queue fn.val q.val) ((s.queue fn.val q.val).asked + BitVec.ofNat 32 k)) false = .ok)) :=
  ⟨0, 0, 1, { fnWith onQueue with ats := [granted] }, by and_intros <;> decide +kernel⟩

theorem wit_DoorbellAndDescriptors_2 : ∃ (fn : Fin 513) (q : Fin 64) (tail : W32) (s : State),
    (takesQueue s fn.val q.val) ∧
    ((s.queue fn.val q.val).open = true) ∧
    (tail ≠ (s.queue fn.val q.val).sqTail) ∧
    ((tail - (s.queue fn.val q.val).sqHead).toNat ≤ (s.queue fn.val q.val).ringSize) ∧
    ((s.queue fn.val q.val).ctx = 0xFFFF) ∧
    ((s.queue fn.val q.val).isPush = false) ∧
    (tail ≠ (s.queue fn.val q.val).asked) :=
  ⟨0, 0, 1, fnWith onQueue, by and_intros <;> decide +kernel⟩

theorem wit_DoorbellAndDescriptors_3 : ∃ (fn : Fin 513) (q : Fin 64) (tail : W32) (s : State),
    (takesQueue s fn.val q.val) ∧
    ((s.queue fn.val q.val).open = true) ∧
    (tail ≠ (s.queue fn.val q.val).sqTail) ∧
    ((tail - (s.queue fn.val q.val).sqHead).toNat ≤ 16) ∧
    ((s.queue fn.val q.val).ctx = 0xFFFF) ∧
    ((s.queue fn.val q.val).isPush = true) :=
  ⟨0, 0, 1, fnWith { onQueue with ctrl := 0x000406 }, by decide +kernel⟩

theorem wit_DoorbellAndDescriptors_4 : ∃ (fn : Fin 513) (q : Fin 64) (tail : W32) (s : State),
    (takesQueue s fn.val q.val) ∧
    ((s.queue fn.val q.val).open = true) ∧
    (tail ≠ (s.queue fn.val q.val).sqTail) ∧
    ((s.queue fn.val q.val).ringSize < (tail - (s.queue fn.val q.val).sqHead).toNat) :=
  ⟨0, 0, 40, fnWith onQueue, by decide +kernel⟩

theorem wit_DoorbellAndDescriptors_5 : ∃ (fn : Fin 513) (q : Fin 64) (tail : W32) (s : State),
    (s.running = true) ∧
    ((s.queue fn.val q.val).open = false ∨ tail = (s.queue fn.val q.val).sqTail) :=
  ⟨0, 0, 0, {}, by and_intros <;> decide +kernel⟩

theorem wit_DoorbellAndDescriptors_6 : ∃ (fn : Fin 513) (q : Fin 64) (off len : Nat) (data : Desc) (s : State),
    (takesQueue s fn.val q.val) ∧
    (pushAccessOk off len = true) ∧
    (¬((s.queue fn.val q.val).isPush = true ∧ (s.queue fn.val q.val).ownsSlot (off / 64) = true)) :=
  ⟨0, 0, 64, 8, 5, fnWith onQueue, by decide +kernel⟩

theorem wit_DoorbellAndDescriptors_7 : ∃ (fn : Fin 513) (q : Fin 64) (off len : Nat) (data : Desc) (s : State),
    (takesQueue s fn.val q.val) ∧
    (pushAccessOk off len = true) ∧
    ((s.queue fn.val q.val).isPush = true) ∧
    ((s.queue fn.val q.val).ownsSlot (off / 64) = true) :=
  ⟨0, 0, 0, 8, 5, fnWith { onQueue with ctrl := 0x000406, sqTail := 1 }, by decide +kernel⟩

theorem wit_DoorbellAndDescriptors_8 : ∃ (fn : Fin 513) (q : Fin 64) (count : W32) (desc : Desc) (s : State),
    ((s.queue fn.val q.val).open = true) ∧
    ((s.queue fn.val q.val).isPush = false) ∧
    ((s.fn fn.val).resetting = false) ∧
    ((count - (s.queue fn.val q.val).sqHead).toNat < ((s.queue fn.val q.val).sqTail - (s.queue fn.val q.val).sqHead).toNat) :=
  ⟨0, 0, 0, 5, fnWith { onQueue with sqTail := 1 }, by decide +kernel⟩

theorem wit_DoorbellAndDescriptors_9 : ∃ (fn : Fin 513) (q : Fin 64) (s : State),
    ((s.queue fn.val q.val).open = true) ∧
    ((s.queue fn.val q.val).isPush = false) ∧
    ((s.fn fn.val).resetting = false) ∧
    ((s.queue fn.val q.val).sqTail ≠ (s.queue fn.val q.val).sqHead) :=
  ⟨0, 0, fnWith { onQueue with sqTail := 1 }, by decide +kernel⟩

theorem wit_VersionsAndFunctionReset_1 : ∃ (fn : Fin 513) (val : W16) (s : State),
    (s.fnTakes fn.val = true) ∧
    (s.fnCtxs fn.val = []) ∧
    (val = 0x0100) :=
  ⟨0, 0x0100, fnWith {}, by decide +kernel⟩

theorem wit_VersionsAndFunctionReset_2 : ∃ (fn : Fin 513) (val : W16) (s : State),
    (s.running = true) ∧
    (val ≠ 0x0100 ∨ s.fnCtxs fn.val ≠ []) :=
  ⟨0, 0x0200, {}, by and_intros <;> decide +kernel⟩

theorem wit_VersionsAndFunctionReset_3 : ∃ (fn : Fin 513) (val : W16) (s : State),
    (s.running = false) ∧
    (s.fnTakes fn.val = false) :=
  ⟨0, 0x0200, { pow := { boot := .off } }, by and_intros <;> decide +kernel⟩

theorem wit_VersionsAndFunctionReset_4 : ∃ (fn : Fin 513) (s : State),
    (s.running = true) ∧
    (s.fnPresent fn.val = true) ∧
    ((s.fn fn.val).ready = true) ∧
    ((s.fn fn.val).resetting = false) ∧
    (s.fnCtxs fn.val = []) ∧
    (s.cmds.filter (fun c => c.fn == fn.val && c.stage.isNone) = []) ∧
    (fn ≠ 0) :=
  ⟨1, { fns := [(1, { ready := true, sriov := true })], kod := { run := [(kodKey 0x7FFF 1, 1)] } }, by and_intros <;> decide +kernel⟩

theorem wit_VersionsAndFunctionReset_5 : ∃ (fn : Fin 513) (s : State),
    (s.fnPresent fn.val = true) ∧
    ((s.fn fn.val).resetting = false) ∧
    (s.fnCtxs fn.val = []) ∧
    (s.cmds.filter (fun c => c.fn == fn.val && c.stage.isNone) = []) ∧
    (fn ≠ 0) :=
  ⟨1, { fns := [(1, { ready := true, sriov := true })], kod := { run := [(kodKey 0x7FFF 1, 1)] } }, by decide +kernel⟩

theorem wit_VersionsAndFunctionReset_6 : ∃ (fn : Fin 513) (s : State),
    (s.running = true) ∧
    ((s.fn fn.val).resetting = true) :=
  ⟨0, { fns := [(0, { resetting := true })] }, by and_intros <;> decide +kernel⟩

theorem wit_VersionsAndFunctionReset_7 : ∃ (fn : Fin 513) (s : State),
    ((s.fn fn.val).resetting = true) :=
  ⟨0, { fns := [(0, { resetting := true })] }, by decide +kernel⟩

theorem wit_QueueEnableDisable_1 : ∃ (fn : Fin 513) (q : Fin 64) (ctrl : W64) (s : State),
    (takesQueue s fn.val q.val) ∧
    ((s.queue fn.val q.val).enabled = false) ∧
    ((s.queue fn.val q.val).ctx = 0xFFFF) ∧
    (s.ctxLive 0xFFFF = false) ∧
    ((s.updQueue fn.val q.val (fun r => { r with ctrl := (ctrl &&& 0x1F1F1F) ||| 1 })).enableOk fn.val q.val = true) :=
  ⟨0, 0, 0x04040C, { fnWith { sqBase := 0x1000, cqBase := 0x2000 } with kod := { run := [(kodKey 0x7000 3, 8)] } }, by decide +kernel⟩

theorem wit_QueueEnableDisable_2 : ∃ (fn : Fin 513) (q : Fin 64) (ctrl : W64) (s : State),
    (takesQueue s fn.val q.val) ∧
    ((s.queue fn.val q.val).enabled = false) ∧
    ((s.updQueue fn.val q.val (fun r => { r with ctrl := (ctrl &&& 0x1F1F1F) ||| 1 })).enableOk fn.val q.val = false) :=
  ⟨0, 0, 0x04040C, fnWith {}, by decide +kernel⟩

theorem wit_QueueEnableDisable_3 : ∃ (fn : Fin 513) (q : Fin 64) (ctrl : W64) (s : State),
    (takesQueue s fn.val q.val) ∧
    ((s.queue fn.val q.val).enabled = true) :=
  ⟨0, 0, 1, fnWith onQueue, by decide +kernel⟩

theorem wit_QueueEnableDisable_4 : ∃ (fn : Fin 513) (q : Fin 64) (ctrl : W64) (s : State),
    (takesQueue s fn.val q.val) ∧
    ((s.queue fn.val q.val).enabled = true) :=
  ⟨0, 0, 1, fnWith onQueue, by decide +kernel⟩

theorem wit_QueueEnableDisable_5 : ∃ (fn : Fin 513) (q : Fin 64) (ctrl : W64) (s : State),
    (takesQueue s fn.val q.val) ∧
    ((s.queue fn.val q.val).enabled = false) :=
  ⟨0, 0, 0, fnWith {}, by decide +kernel⟩

theorem wit_QueueEnableDisable_6 : ∃ (fn : Fin 513) (q : Fin 64) (s : State),
    ((s.queue fn.val q.val).enabled = true) ∧
    ((s.queue fn.val q.val).draining = true) ∧
    ((s.queue fn.val q.val).heldEnable = false) ∧
    (s.queueCmds fn.val q.val = []) ∧
    ((s.queue fn.val q.val).order = []) :=
  ⟨0, 0, fnWith { onQueue with draining := true }, by and_intros <;> decide +kernel⟩

theorem wit_QueueEnableDisable_7 : ∃ (fn : Fin 513) (q : Fin 64) (s : State),
    (s.queueCmds fn.val q.val ≠ [] ∨ (s.queue fn.val q.val).order ≠ []) :=
  ⟨0, 0, { cmds := [{}] }, by decide +kernel⟩

theorem wit_QueueEnableDisable_8 : ∃ (fn : Fin 513) (q : Fin 64) (s : State),
    (s.running = true) ∧
    (s.queueCmds fn.val q.val = []) :=
  ⟨0, 0, {}, by and_intros <;> decide +kernel⟩

theorem wit_QueueEnableDisable_9 : ∃ (fn : Fin 513) (q : Fin 64) (c : Cmd) (s : State),
    (takesQueue s fn.val q.val) ∧
    (s.queueCmds fn.val q.val = [c]) ∧
    (s.cmd? c.cid = some c) ∧
    (c.ctx = 0xFFFF) ∧
    (c.phase = .ready) :=
  ⟨0, 0, { cid := 1 }, { fnWith onQueue with cmds := [{ cid := 1 }] }, by decide +kernel⟩

theorem wit_EventAndErrorQueues_1 : ∃ (fn : Fin 513) (err : Bool) (cfg : W64) (s : State),
    (s.fnTakes fn.val = true) ∧
    ((s.recq (eqDest fn.val err)).enabled = false) ∧
    ((s.recq (eqDest fn.val err)).base ≠ 0) ∧
    (4 ≤ cfg.toNat % 32) ∧
    (cfg.toNat % 32 ≤ 16) ∧
    (err = false ∨ fn ≠ 0) :=
  ⟨0, false, 0x104, { fns := [(0, { ready := true, evq := { base := 0x1000 } })] }, by decide +kernel⟩

theorem wit_EventAndErrorQueues_2 : ∃ (fn : Fin 513) (err : Bool) (cfg : W64) (s : State),
    (s.fnTakes fn.val = true) ∧
    ((s.recq (eqDest fn.val err)).enabled = false) ∧
    ((s.recq (eqDest fn.val err)).base = 0 ∨ cfg.toNat % 32 < 4 ∨ 16 < cfg.toNat % 32) ∧
    (err = false ∨ fn ≠ 0) :=
  ⟨0, false, 0x104, fnWith {}, by decide +kernel⟩

theorem wit_EventAndErrorQueues_3 : ∃ (fn : Fin 513) (err : Bool) (cfg : W64) (s : State),
    (s.fnTakes fn.val = true) ∧
    ((s.recq (eqDest fn.val err)).enabled = true) ∧
    (err = false ∨ fn ≠ 0) :=
  ⟨0, false, 0, { fns := [(0, { ready := true, evq := { enabled := true } })] }, by decide +kernel⟩

theorem wit_EventAndErrorQueues_4 : ∃ (fn : Fin 513) (err : Bool) (val : W32) (s : State),
    (s.fnTakes fn.val = true) ∧
    ((s.recq (eqDest fn.val err)).tail = val) :=
  ⟨0, true, 0, fnWith {}, by decide +kernel⟩

theorem wit_EventAndErrorQueues_5 : ∃ (fn : Fin 513) (val : W32) (s : State),
    (s.fnTakes fn.val = true) ∧
    ((s.fn fn.val).evq.tail ≠ val) :=
  ⟨0, 0, { fns := [(0, { ready := true, evq := { enabled := true, tail := 1 } })] }, by and_intros <;> decide +kernel⟩

theorem wit_EventAndErrorQueues_6 : ∃ (fn : Fin 513) (err : Bool) (s : State),
    ((s.recq (eqDest fn.val err)).wrOpen ≠ 0) ∧
    ((s.recq (eqDest fn.val err)).enabled = true) :=
  ⟨0, false, { fns := [(0, { ready := true, evq := { enabled := true, tail := 1, wrOpen := 1 } })] }, by decide +kernel⟩

theorem wit_EventAndErrorQueues_7 : ∃ (d : Dest) (r : Rec) (rest : List Rec) (s : State),
    (destEnabled d (s.recq d) = true) ∧
    ((s.recq d).staged = r :: rest) ∧
    (destRoom d (s.recq d) r.words.length = true) ∧
    (s.destResetting d = false) ∧
    (s.recAsk d r.words.length = .ok) :=
  ⟨.journal, { words := [1] }, [], { ao := { jq := { staged := [{ words := [1] }] } } }, by and_intros <;> decide +kernel⟩

theorem wit_EventAndErrorQueues_8 : ∃ (d : Dest) (s : State),
    (destEnabled d (s.recq d) = true) ∧
    ((s.recq d).staged = []) ∧
    ((s.recq d).loss ≠ 0) ∧
    (destRoom d (s.recq d) 1 = true) ∧
    (s.destResetting d = false) ∧
    (s.masksLost d = false) ∧
    (s.recAsk d 1 = .ok) :=
  ⟨.journal, { ao := { jq := { loss := 3 } } }, by and_intros <;> decide +kernel⟩

theorem wit_RegisterWrites_1 : ∃ (fn : Fin 513) (q : Fin 64) (trust : Bool) (val : W64) (s : State),
    (s.running = true) ∧
    (takesQueue s fn.val q.val) ∧
    ((s.queue fn.val q.val).enabled = false) :=
  ⟨0, 0, true, 5, fnWith {}, by and_intros <;> decide +kernel⟩

theorem wit_RegisterWrites_2 : ∃ (fn : Fin 513) (q : Fin 64) (trust : Bool) (val : W64) (s : State),
    (s.running = true) ∧
    (takesQueue s fn.val q.val) ∧
    ((s.queue fn.val q.val).enabled = true) :=
  ⟨0, 0, true, 5, fnWith onQueue, by and_intros <;> decide +kernel⟩

theorem wit_RegisterWrites_3 : ∃ (fn : Fin 513) (trust : Bool) (off size : Nat) (val : W64) (s : State),
    (s.running = true) ∧
    (off < 0x2000) ∧
    (accessOk off size = false) :=
  ⟨0, true, 4, 8, 5, {}, by and_intros <;> decide +kernel⟩

theorem wit_RegisterWrites_4 : ∃ (fn : Fin 513) (trust : Bool) (off size : Nat) (val : W64) (s : State),
    (off < 0x2000) ∧
    (s.running = false) :=
  ⟨0, true, 4, 8, 5, { pow := { boot := .off } }, by and_intros <;> decide +kernel⟩

theorem wit_RegisterWrites_6 : ∃ (off size : Nat) (val : W64) (s : State),
    (off < 0x1000000 ∨ (0x1100000 ≤ off ∧ off < 0x2000000) ∨ 0x2010000 ≤ off) :=
  ⟨0, 8, 0, {}, by decide +kernel⟩

theorem wit_RegisterWrites_7 : ∃ (vf : Fin 513) (val : W64) (s : State),
    (vf.val ≠ 0) ∧
    (s.running = true) ∧
    (s.fnTakes 0 = true) ∧
    (val.getLsbD 1 = true) :=
  ⟨1, 2, fnWith {}, by and_intros <;> decide +kernel⟩

theorem wit_RegisterWrites_8 : ∃ (vf : Fin 513) (val : W64) (s : State),
    (vf.val ≠ 0) ∧
    (s.running = true) ∧
    (s.fnTakes 0 = true) ∧
    (val.toNat % 2 ^ 16 ≠ s.fnKod vf.val 7 % 2 ^ 16) ∧
    (val.toNat / 2 ^ 32 % 2 ^ 32 = s.fnKod vf.val 8 % 2 ^ 32) ∧
    (s.kodErr true (vfReq vf.val 7 (val.toNat % 2 ^ 16)) = none) :=
  ⟨1, 5, { fnWith {} with kod := { run := [(kodKey 0x7FFF 1, 1)] } }, by and_intros <;> decide +kernel⟩

theorem wit_RegisterWrites_9 : ∃ (vf : Fin 513) (val : W64) (s : State),
    (vf.val ≠ 0) ∧
    (s.running = true) ∧
    (s.fnTakes 0 = true) ∧
    (val.toNat % 2 ^ 16 ≠ s.fnKod vf.val 7 % 2 ^ 16) ∧
    (val.toNat / 2 ^ 32 % 2 ^ 32 = s.fnKod vf.val 8 % 2 ^ 32) ∧
    ((s.kodErr true (vfReq vf.val 7 (val.toNat % 2 ^ 16))).isSome = true) :=
  ⟨1, 20000, fnWith {}, by and_intros <;> decide +kernel⟩

theorem wit_RegisterWrites_10 : ∃ (vf : Fin 513) (on : Bool) (s : State),
    (vf.val ≠ 0) :=
  ⟨1, true, {}, by decide +kernel⟩

theorem wit_CommandAcceptance_1 : ∃ (fn : Fin 513) (q : Fin 64) (d0 : Desc) (s : State),
    ((s.queue fn.val q.val).open = true) ∧
    (s.fnTakes fn.val = true) ∧
    (s.cqRoom fn.val q.val = true) ∧
    ((s.queue fn.val q.val).ctx = 0xFFFF) ∧
    (s.ctxLive 0xFFFF = false) ∧
    ((s.queue fn.val q.val).nextCmd = some (d0, 0, 1)) ∧
    ((s.queue fn.val q.val).cls ≠ 0) :=
  ⟨0, 0, 0, fnWith { onQueue with sqTail := 1, fetched := [(0, 0)] }, by decide +kernel⟩

theorem wit_CommandAcceptance_2 : ∃ (fn : Fin 513) (q : Fin 64) (d0 : Desc) (s : State),
    ((s.queue fn.val q.val).open = true) ∧
    (s.fnTakes fn.val = true) ∧
    (s.cqRoom fn.val q.val = true) ∧
    ((s.queue fn.val q.val).ctx = 0xFFFF) ∧
    (s.ctxLive 0xFFFF = false) ∧
    ((s.queue fn.val q.val).nextCmd = some (d0, 0, 1)) ∧
    ((s.queue fn.val q.val).cls = 0) ∧
    (s.windowOpen fn.val q.val = false) :=
  ⟨0, 0, 0, fnWith { onQueue with ctrl := 0x000402, sqTail := 1 }, by decide +kernel⟩

theorem wit_CommandAcceptance_3 : ∃ (cid : Nat) (c : Cmd) (v : Val) (s : State),
    (s.cmd? cid = some c) ∧
    (s.cmdParked c = false) ∧
    (s.validate c = .ok v) ∧
    (s.shakeCovers c.ctx (fun rs => v.pieces.any (pieceIn rs)) = false) :=
  ⟨1, nopCmd, {}, nopState, by and_intros <;> decide +kernel⟩

theorem wit_CommandAcceptance_4 : ∃ (cid st : Nat) (e : ErrInfo) (c : Cmd) (s : State),
    (s.cmd? cid = some c) ∧
    (s.cmdParked c = false) ∧
    (s.validate c = .bad st e) :=
  ⟨1, _, _, { cid := 1 }, withCmd { cid := 1 }, by decide +kernel, by decide +kernel, rfl⟩

theorem wit_CommandAcceptance_5 : ∃ (fn : Fin 513) (q : Fin 64) (s : State),
    ((s.queue fn.val q.val).open = false ∨ (s.queue fn.val q.val).nextCmd = none ∨ s.cqRoom fn.val q.val = false) :=
  ⟨0, 0, {}, by decide +kernel⟩

theorem wit_CommandAcceptance_6 : ∃ (fn : Fin 513) (q : Fin 64) (c : Cmd) (rest : List Cmd) (s : State),
    (s.heldCmds fn.val q.val = c :: rest) ∧
    (s.windowOpen fn.val q.val = true) :=
  ⟨0, 0, { cid := 1, phase := .held }, [], { fnWith { onQueue with reserve := 0x10001 } with cmds := [{ cid := 1, phase := .held }] }, by decide +kernel⟩

theorem wit_CommandAcceptance_7 : ∃ (ctx : Fin 16384) (s : State),
    (s.ctxLive ctx.val = true) ∧
    ((s.ctx ctx.val).resident = false) ∧
    (s.ctxCmds ctx.val ≠ []) ∧
    (s.residents.length < 1024) ∧
    ((s.fn (s.ctx ctx.val).fn).queues.filter (fun q => q.2.dbPending && q.2.ctx.toNat == ctx.val) = []) :=
  ⟨3, { live := [3], cmds := [{ cid := 1, ctx := 3 }] }, by decide +kernel⟩

theorem wit_CommandAcceptance_8 : ∃ (ctx : Fin 16384) (s : State),
    ((s.ctx ctx.val).resident = true) :=
  ⟨3, { ctxs := [(3, { resident := true })] }, by decide +kernel⟩

theorem wit_CommandAcceptance_9 : ∃ (fn : Fin 513) (io : W64) (len : Nat) (ta : BitVec 55) (w : Bool) (s : State),
    (s.fnCtxs fn.val = []) ∧
    (s.cmds.all (fun c => c.phase == .ready) = true) ∧
    ((s.fn fn.val).queues = []) ∧
    ((s.fn fn.val).evq.enabled = false) ∧
    ((s.fn fn.val).erq.enabled = false) :=
  ⟨0, 4096, 4096, 8192, true, {}, by and_intros <;> decide +kernel⟩

theorem wit_CommandAcceptance_10 : ∃ (ctx : Fin 16384) (va : BitVec 52) (d : Nat) (m : Mapping) (s : State),
    ((s.ctx ctx.val).copying.find? (fun x => x.1 == va.toNat) = some (va.toNat, d)) ∧
    (s.mapAt ctx.val va.toNat = some m) ∧
    (s.cmds = []) ∧
    ((s.ctx ctx.val).shakes = []) :=
  ⟨3, 0, 0, { va := 0, len := 4096, kind := 4, ro := false, io := false, psize := 4096, base := 0, dev := none, node := 0, hide := 0, obj := 0, used := 0 }, { ctxs := [(3, { copying := [(0, 0)], maps := [{ va := 0, len := 4096, kind := 4, ro := false, io := false, psize := 4096, base := 0, dev := none, node := 0, hide := 0, obj := 0, used := 0 }] })] }, by decide +kernel⟩

theorem wit_DispatchAndCompletion_1 : ∃ (h : Fin 8) (x : Nat × Nat) (c : Cmd) (s : State),
    ((s.lookClass2 h.val).pickQueue h.val = some x) ∧
    ((s.lookClass2 h.val).headCmd x.1 x.2 = some c) ∧
    ((s.lookClass2 h.val).cmd? c.cid = some c) ∧
    (c.marked = false) ∧
    (c.phase = .ready) :=
  ⟨0, (0, 0), { cid := 1, cls := 2 }, { fns := [(0, { ready := true, queues := [(0, { onQueue with ctrl := 0x408, sched := 1 })] })], cmds := [{ cid := 1, cls := 2 }], kod := { run := [(kodKey 0x7000 2, 1)] } }, by and_intros <;> decide +kernel⟩

theorem wit_DispatchAndCompletion_2 : ∃ (c : Cmd) (s : State),
    (s.cmd? c.cid = some c) :=
  ⟨{ cid := 1 }, withCmd { cid := 1 }, by decide +kernel⟩

theorem wit_DispatchAndCompletion_3 : ∃ (h : Fin 8) (s : State),
    ((s.lookClass2 h.val).pickQueue h.val = none) :=
  ⟨0, {}, by decide +kernel⟩

theorem wit_DispatchAndCompletion_4 : ∃ (cid : Nat) (c : Cmd) (s : State),
    (onRowIs s cid 0x00 c) :=
  ⟨1, { cid := 1, phase := .dispatched }, withCmd { cid := 1, phase := .dispatched }, by decide +kernel⟩

theorem wit_DispatchAndCompletion_5 : ∃ (cid : Nat) (c : Cmd) (s : State),
    (s.cmd? cid = some c) ∧
    (c.cid = cid) ∧
    (c.stage = none) ∧
    ((s.fn c.fn).resetting = false) ∧
    ((s.queue c.fn c.q).stopped = false) ∧
    ((s.queue c.fn c.q).stopDue = false) ∧
    ((s.queue c.fn c.q).cqInt = 0) ∧
    ((s.queue c.fn c.q).order = []) ∧
    (s.ringAt c.fn ((s.queue c.fn c.q).cqIo (s.queue c.fn c.q).cqTail) true = .ok) :=
  ⟨1, { cid := 1, phase := .dispatched }, { withCmd { cid := 1, phase := .dispatched } with ats := [granted] }, by and_intros <;> decide +kernel⟩

theorem wit_DispatchAndCompletion_6 : ∃ (cid : Nat) (gen : W16) (st : Byte) (c : Cmd) (s : State),
    (s.cmd? cid = some c) ∧
    (c.phase = .ended) ∧
    (c.opcode ≠ 0x60) ∧
    (c.ctx = 0xFFFF ∨ (gen.toNat = s.genOf c.ctx ∧ (s.ctx c.ctx).fenced = false)) ∧
    (s.cmdQuiet cid = true) ∧
    (c.stage = none) ∧
    (s.groups.all (fun g => g.cid != cid) = true) :=
  ⟨1, 0, 0, { cid := 1, phase := .ended }, withCmd { cid := 1, phase := .ended }, by and_intros <;> decide +kernel⟩

theorem wit_DispatchAndCompletion_7 : ∃ (cid : Nat) (gen : W16) (st : Byte) (c : Cmd) (s : State),
    (s.cmd? cid = some c) ∧
    (c.phase = .ended) ∧
    (c.opcode ≠ 0x60) ∧
    (c.ctx ≠ 0xFFFF) ∧
    (gen.toNat ≠ s.genOf c.ctx) :=
  ⟨1, 0, 0, { cid := 1, phase := .ended, ctx := 3 }, withCmd { cid := 1, phase := .ended, ctx := 3 }, by decide +kernel⟩

theorem wit_DispatchAndCompletion_8 : ∃ (fn : Fin 513) (q : Fin 64) (s : State),
    ((s.queue fn.val q.val).wrOpen = true) ∧
    ((s.queue fn.val q.val).cqStopped = false) ∧
    ((s.fn fn.val).resetting = false) :=
  ⟨0, 0, fnWith { onQueue with wrOpen := true }, by and_intros <;> decide +kernel⟩

theorem wit_DispatchAndCompletion_9 : ∃ (fn : Fin 513) (q : Fin 64) (val : W32) (s : State),
    (takesQueue s fn.val q.val) :=
  ⟨0, 0, 3, fnWith {}, by decide +kernel⟩

theorem wit_DispatchAndCompletion_10 : ∃ (fn : Fin 513) (q : Fin 64) (s : State),
    ((s.queue fn.val q.val).cqInt.extractLsb' 0 8 ≠ 0) ∧
    (((s.queue fn.val q.val).cqInt.extractLsb' 8 10).toNat ≠ 0) ∧
    ((s.queue fn.val q.val).unsig ≠ 0) ∧
    ((s.queue fn.val q.val).unsigFrom + 1000 * ((s.queue fn.val q.val).cqInt.extractLsb' 8 10).toNat ≤ s.btime.toNat) :=
  ⟨0, 0, { fnWith { onQueue with cqInt := 0x108, unsig := 1 } with btime := 5000 }, by decide +kernel⟩

theorem wit_DispatchAndCompletion_11 : ∃ (fn : Fin 513) (q : Fin 64) (s : State),
    ((s.queue fn.val q.val).unsig = 0 ∨ s.btime.toNat < (s.queue fn.val q.val).unsigFrom + 1000 * ((s.queue fn.val q.val).cqInt.extractLsb' 8 10).toNat) :=
  ⟨0, 0, {}, by decide +kernel⟩

theorem wit_GateCommands_1 : ∃ (cid : Nat) (c : Cmd) (s : State),
    (onRowIs s cid 0x01 c) ∧
    (s.earlierDone c = true) :=
  ⟨1, { cid := 1, d0 := 1, phase := .dispatched }, withCmd { cid := 1, d0 := 1, phase := .dispatched }, by decide +kernel⟩

theorem wit_GateCommands_2 : ∃ (cid : Nat) (c : Cmd) (s : State),
    (onRowIs s cid 0x01 c) ∧
    (s.earlierDone c = false) :=
  ⟨2, { cid := 2, d0 := 1, phase := .dispatched }, { cmds := [{ cid := 1 }, { cid := 2, d0 := 1, phase := .dispatched }] }, by decide +kernel⟩

theorem wit_GateCommands_3 : ∃ (cid : Nat) (c : Cmd) (s : State),
    (onRowIs s cid 0x02 c) ∧
    (s.earlierDone c = true) ∧
    (isHostPa c.objPa = false) ∧
    (s.isLocal c.objPa = true) ∧
    (s.lineOwn gateWho (c.objPa / 128) = true) :=
  ⟨1, { cid := 1, d0 := 0x1000002, phase := .dispatched }, withCmd { cid := 1, d0 := 0x1000002, phase := .dispatched }, by and_intros <;> decide +kernel⟩

theorem wit_GateCommands_4 : ∃ (cid : Nat) (c : Cmd) (s : State),
    (onRowIs s cid 0x02 c) ∧
    (s.earlierDone c = true) ∧
    (isHostPa c.objPa = false) ∧
    (s.isLocal c.objPa = false) :=
  ⟨1, farCmd 2, withCmd (farCmd 2), by and_intros <;> decide +kernel⟩

theorem wit_GateCommands_5 : ∃ (cid : Nat) (c : Cmd) (s : State),
    (isHostPa c.objPa = false) ∧
    (s.isLocal c.objPa = true) ∧
    (s.lineOwn gateWho (c.objPa / 128) = false) :=
  ⟨1, { cid := 1, d0 := 2, phase := .dispatched }, { withCmd { cid := 1, d0 := 2, phase := .dispatched } with lines := [(0, busyLine)] }, by and_intros <;> decide +kernel⟩

theorem wit_GateCommands_6 : ∃ (cid : Nat) (c : Cmd) (s : State),
    (isHostPa c.objPa = true) :=
  ⟨1, { cid := 1, d0 := 3, phase := .dispatched, pieces := [{ ext := 0, off := 0, len := 4, va := 0, pa := 2 ^ 55, ro := false, io := false, hide := 0, tag := 0, gen := 0 }] }, withCmd { cid := 1, d0 := 3, phase := .dispatched, pieces := [{ ext := 0, off := 0, len := 4, va := 0, pa := 2 ^ 55, ro := false, io := false, hide := 0, tag := 0, gen := 0 }] }, by decide +kernel⟩

theorem wit_GateCommands_7 : ∃ (cid : Nat) (c : Cmd) (s : State),
    (onRowIs s cid 0x03 c) ∧
    (isHostPa c.objPa = false) ∧
    (s.isLocal c.objPa = true) ∧
    (s.lineOwn gateWho (c.objPa / 128) = true) ∧
    (c.barrier = false) ∧
    (s.objRead none c.objPa 4 ≠ 0) :=
  ⟨1, { cid := 1, d0 := 3, phase := .dispatched }, { withCmd { cid := 1, d0 := 3, phase := .dispatched } with mem := [(0, 5)] }, by and_intros <;> decide +kernel⟩

theorem wit_GateCommands_8 : ∃ (cid : Nat) (c : Cmd) (s : State),
    (onRowIs s cid 0x03 c) ∧
    (isHostPa c.objPa = false) ∧
    (s.isLocal c.objPa = true) ∧
    (s.lineOwn gateWho (c.objPa / 128) = true) ∧
    (c.barrier = true ∨ s.objRead none c.objPa 4 = 0) :=
  ⟨1, { cid := 1, d0 := 3, phase := .dispatched }, withCmd { cid := 1, d0 := 3, phase := .dispatched }, by and_intros <;> decide +kernel⟩

theorem wit_GateCommands_9 : ∃ (cid : Nat) (c : Cmd) (s : State),
    (onRowIs s cid 0x03 c) ∧
    (isHostPa c.objPa = false) ∧
    (s.isLocal c.objPa = false) :=
  ⟨1, farCmd 3, withCmd (farCmd 3), by and_intros <;> decide +kernel⟩

theorem wit_GateCommands_10 : ∃ (a n ctx : Nat) (s : State),
    (s.waiters = []) ∧
    (s.objRead none a 4 + n < 2 ^ 32) :=
  ⟨0x500000000, 1, 3, {}, by and_intros <;> decide +kernel⟩

theorem wit_ContextCommands_1 : ∃ (cid : Nat) (c : Cmd) (k h : Nat) (s : State),
    (onRowIs s cid 0x10 c) ∧
    (c.cid = cid) ∧
    (s.freeCtx = some k) ∧
    (s.fnHide c.fn = some h) ∧
    (s.fnCtxCount c.fn < s.ctxLimit c.fn) ∧
    (nbits c.ext 15 0 = 0) ∧
    (s.fnDev c.fn ≤ s.fnKod c.fn 8 * 4096) :=
  ⟨1, { cid := 1, d0 := 16, phase := .dispatched }, 0, 0, { withCmd { cid := 1, d0 := 16, phase := .dispatched } with kod := createKod 4 }, by and_intros <;> decide +kernel⟩

theorem wit_ContextCommands_2 : ∃ (cid : Nat) (c : Cmd) (k h n a : Nat) (s : State),
    (onRowIs s cid 0x10 c) ∧
    (c.cid = cid) ∧
    (s.freeCtx = some k) ∧
    (s.fnHide c.fn = some h) ∧
    (s.fnCtxCount c.fn < s.ctxLimit c.fn) ∧
    (n = nbits c.ext 15 0 * 4096) ∧
    (n ≠ 0) ∧
    (nbits c.ext 95 64 = 0 ∨ n ≤ nbits c.ext 95 64 * 4096) ∧
    (s.fnDev c.fn + n ≤ s.fnKod c.fn 8 * 4096) ∧
    (s.freeRun h n 4096 = some a) :=
  ⟨1, { cid := 1, d0 := 16, ext := 1, phase := .dispatched }, 0, 0, 4096, 2 ^ 32, { withCmd { cid := 1, d0 := 16, ext := 1, phase := .dispatched } with kod := { createKod 4 with run := (kodKey 0x3010 1, 0x10) :: (createKod 4).run } }, by and_intros <;> decide +kernel⟩

theorem wit_ContextCommands_3 : ∃ (cid : Nat) (c : Cmd) (k : Nat) (s : State),
    (onRowIs s cid 0x10 c) ∧
    (c.cid = cid) ∧
    (s.freeCtx = some k) ∧
    ((s.fnHide c.fn).isSome = true) ∧
    (s.ctxLimit c.fn ≤ s.fnCtxCount c.fn) :=
  ⟨1, { cid := 1, d0 := 16, phase := .dispatched }, 0, { withCmd { cid := 1, d0 := 16, phase := .dispatched } with kod := createKod 0 }, by and_intros <;> decide +kernel⟩

theorem wit_ContextCommands_4 : ∃ (cid : Nat) (c : Cmd) (s : State),
    (onRowIs s cid 0x10 c) ∧
    (c.cid = cid) ∧
    (s.freeCtx.isSome = true) ∧
    (s.fnHide c.fn = none) :=
  ⟨1, { cid := 1, d0 := 16, phase := .dispatched }, withCmd { cid := 1, d0 := 16, phase := .dispatched }, by and_intros <;> decide +kernel⟩

theorem wit_ContextCommands_5 : ∃ (cid : Nat) (c : Cmd) (k : Nat) (s : State),
    (namesCtx s cid 0x11 c k) :=
  ⟨1, { cid := 1, d0 := 17, phase := .dispatched }, 0, ctxState { cid := 1, d0 := 17, phase := .dispatched } {}, by decide +kernel⟩

theorem wit_ContextCommands_6 : ∃ (cid : Nat) (c : Cmd) (s : State),
    (onRowIs s cid 0x11 c) ∧
    (s.ctxLive c.ctxField = false) :=
  ⟨1, { cid := 1, d0 := 17, phase := .dispatched }, withCmd { cid := 1, d0 := 17, phase := .dispatched }, by decide +kernel⟩

theorem wit_ContextCommands_7 : ∃ (cid : Nat) (c : Cmd) (k : Nat) (e : MapEnt) (s : State),
    (namesCtx s cid 0x12 c k) ∧
    (c.cid = cid) ∧
    ((s.ctx k).shakes = []) ∧
    ((s.ctx k).range = false) ∧
    (s.mapOk c k = true) ∧
    (c.mapEnts false = [e]) ∧
    (e.kind = 0) ∧
    (s.pinned k = false) :=
  ⟨1, { cid := 1, d0 := 0x12 + 4096 * 2 ^ 64 + 4096 * 2 ^ 128, phase := .dispatched, ext := 1 + 4096 * 2 ^ (128 + 64) + 8192 * 2 ^ (128 + 128) }, 0, mapEnt (1 + 4096 * 2 ^ (128 + 64) + 8192 * 2 ^ (128 + 128)) false 0, ctxState { cid := 1, d0 := 0x12 + 4096 * 2 ^ 64 + 4096 * 2 ^ 128, phase := .dispatched, ext := 1 + 4096 * 2 ^ (128 + 64) + 8192 * 2 ^ (128 + 128) } {}, by decide +kernel⟩

theorem wit_ContextCommands_8 : ∃ (cid : Nat) (c : Cmd) (k : Nat) (s : State),
    (namesCtx s cid 0x12 c k) ∧
    (c.cid = cid) ∧
    ((s.ctx k).shakes = []) ∧
    (s.mapOk c k = false) :=
  ⟨1, { cid := 1, d0 := 18, phase := .dispatched }, 0, ctxState { cid := 1, d0 := 18, phase := .dispatched } {}, by decide +kernel⟩

theorem wit_ContextCommands_9 : ∃ (cid : Nat) (c : Cmd) (k : Nat) (s : State),
    (namesCtx s cid 0x13 c k) ∧
    (s.unmapOk c k = true) :=
  ⟨1, { cid := 1, d0 := 0x13 + 4096 * 2 ^ 64 + 4096 * 2 ^ 128, phase := .dispatched }, 0, ctxState { cid := 1, d0 := 0x13 + 4096 * 2 ^ 64 + 4096 * 2 ^ 128, phase := .dispatched } {}, by decide +kernel⟩

theorem wit_ContextCommands_10 : ∃ (cid : Nat) (c : Cmd) (k : Nat) (s : State),
    (namesCtx s cid 0x13 c k) ∧
    (s.unmapOk c k = false) :=
  ⟨1, { cid := 1, d0 := 0x13, phase := .dispatched }, 0, ctxState { cid := 1, d0 := 0x13, phase := .dispatched } {}, by decide +kernel⟩

theorem wit_ContextCommands_11 : ∃ (cid : Nat) (c : Cmd) (k : Nat) (s : State),
    (namesCtx s cid 0x14 c k) ∧
    (c.mapLen ≠ 0) :=
  ⟨1, { cid := 1, d0 := 0x14 + 4096 * 2 ^ 128, phase := .dispatched }, 0, ctxState { cid := 1, d0 := 0x14 + 4096 * 2 ^ 128, phase := .dispatched } {}, by decide +kernel⟩

theorem wit_ContextCommands_12 : ∃ (cid : Nat) (c : Cmd) (k : Nat) (s : State),
    (namesCtx s cid 0x15 c k) :=
  ⟨1, { cid := 1, d0 := 0x15, phase := .dispatched }, 0, ctxState { cid := 1, d0 := 0x15, phase := .dispatched } {}, by decide +kernel⟩

theorem wit_InvalidationHandshake_1 : ∃ (fn : Fin 513) (io : W64) (len : Nat) (s : State),
    (s.fnCtxs fn.val = []) :=
  ⟨0, 0, 4096, {}, by decide +kernel⟩

theorem wit_InvalidationHandshake_2 : ∃ (ctx : Fin 16384) (k : Shake) (io : Nat × Nat) (s : State),
    ((s.ctx ctx.val).shakes = [k]) ∧
    (k.begun = true) ∧
    (k.cid = none) ∧
    (k.io = some io) ∧
    (s.shakeQuiet ctx.val (s.shakeRanges ctx.val k) = true) ∧
    (s.shakeCmds ctx.val (s.shakeRanges ctx.val k) = []) ∧
    (s.cmds = []) ∧
    ((s.updCtx ctx.val (fun x => { x with shakes := [] })).atsOpen k.fn io = false) :=
  ⟨3, { cid := none, fn := 0, va := 0, len := 0, unmap := false, io := some (0, 4096), begun := true }, (0, 4096), { ctxs := [(3, { shakes := [{ cid := none, fn := 0, va := 0, len := 0, unmap := false, io := some (0, 4096), begun := true }] })], live := [3] }, by decide +kernel⟩

theorem wit_InvalidationHandshake_3 : ∃ (ctx : Fin 16384) (k : Shake) (cid : Nat) (s : State),
    ((s.ctx ctx.val).shakes = [k]) ∧
    (k.begun = true) ∧
    (k.cid = some cid) ∧
    (k.backed = true) ∧
    (s.shakeQuiet ctx.val (s.shakeRanges ctx.val k) = true) ∧
    (s.shakeCmds ctx.val (s.shakeRanges ctx.val k) = []) ∧
    (s.cmds.all (fun c => c.phase != .waitShake) = true) :=
  ⟨3, { cid := some 1, fn := 0, va := 0, len := 0, unmap := false, io := none, begun := true, backed := true }, 1, { ctxs := [(3, { shakes := [{ cid := some 1, fn := 0, va := 0, len := 0, unmap := false, io := none, begun := true, backed := true }] })], live := [3] }, by decide +kernel⟩

theorem wit_InvalidationHandshake_4 : ∃ (ctx : Fin 16384) (s : State),
    ((s.ctx ctx.val).shakes = []) :=
  ⟨3, {}, by decide +kernel⟩

theorem wit_EngineCommandsStart_1 : ∃ (cid : Nat) (c : Cmd) (mc : Nat × Nat) (s : State),
    (onRowIs s cid 0x20 c) ∧
    (s.engineOpen c.hide = true) ∧
    (c.copyDescs ≠ []) ∧
    (s.pickChan [] = some mc) :=
  ⟨1, { cid := 1, d0 := 0x20 + 2 ^ 32 + 8 * 2 ^ 192, phase := .dispatched }, (0, 0), { cmds := [{ cid := 1, d0 := 0x20 + 2 ^ 32 + 8 * 2 ^ 192, phase := .dispatched }], hides := [(0, { started := true })] }, by decide +kernel⟩

theorem wit_EngineCommandsStart_2 : ∃ (cid : Nat) (c : Cmd) (mc : Nat × Nat) (s : State),
    (onRowIs s cid 0x21 c) ∧
    (s.engineOpen c.hide = true) ∧
    (c.fillDescs ≠ []) ∧
    (s.pickChan [] = some mc) :=
  ⟨1, { cid := 1, d0 := 0x21 + 8 * 2 ^ 128, phase := .dispatched }, (0, 0), { cmds := [{ cid := 1, d0 := 0x21 + 8 * 2 ^ 128, phase := .dispatched }], hides := [(0, { started := true })] }, by decide +kernel⟩

theorem wit_EngineCommandsStart_3 : ∃ (cid : Nat) (c : Cmd) (s : State),
    (s.engineOpen c.hide = true) :=
  ⟨1, { cid := 1, d0 := 0x21, phase := .dispatched }, { cmds := [{ cid := 1, d0 := 0x21, phase := .dispatched }], hides := [(0, { started := true })] }, by decide +kernel⟩

theorem wit_EngineCommandsStart_4 : ∃ (cid : Nat) (c : Cmd) (s : State),
    (onRowIs s cid 0x30 c) ∧
    (s.engineOpen c.hide = true) ∧
    (s.ctxOpen c.ctx = true) :=
  ⟨1, { cid := 1, d0 := 0x30, phase := .dispatched, ctx := 3 }, { cmds := [{ cid := 1, d0 := 0x30, phase := .dispatched, ctx := 3 }], hides := [(0, { started := true })], ctxs := [(3, { resident := true })], live := [3] }, by decide +kernel⟩

theorem wit_EngineCommandsStart_5 : ∃ (cid : Nat) (c : Cmd) (s : State),
    (onRowIs s cid 0x40 c) ∧
    ((s.hide c.hide).engQ = [cid]) :=
  ⟨1, { cid := 1, d0 := 0x40, phase := .dispatched }, { cmds := [{ cid := 1, d0 := 0x40, phase := .dispatched }], hides := [(0, { engQ := [1] })] }, by decide +kernel⟩

theorem wit_EngineCommandsStart_6 : ∃ (cid : Nat) (c : Cmd) (s : State),
    (onRowIs s cid 0x60 c) ∧
    ((s.engine c.engine).present = true) ∧
    ((s.hide c.hide).engQ = [cid]) ∧
    (s.engineOpen c.hide = true) ∧
    (s.ctxOpen c.ctx = true) ∧
    ((s.engine c.engine).paused.contains c.ctx = false) ∧
    ((s.engine c.engine).pausing.contains c.ctx = false) ∧
    ((s.engine c.engine).cmds.length < (s.engine c.engine).maxCmd) :=
  ⟨1, { cid := 1, d0 := 0x60, phase := .dispatched, ctx := 3 }, { cmds := [{ cid := 1, d0 := 0x60, phase := .dispatched, ctx := 3 }], hides := [(0, { started := true, engQ := [1] })], ctxs := [(3, { resident := true })], live := [3], engines := [(({ cid := 1, d0 := 0x60 } : Cmd).engine, { present := true, maxCmd := 1 })] }, by decide +kernel⟩

theorem wit_EngineCommandsStart_7 : ∃ (cid : Nat) (c : Cmd) (s : State),
    (onRowIs s cid 0x60 c) ∧
    ((s.engine c.engine).present = false) :=
  ⟨1, { cid := 1, d0 := 0x60, phase := .dispatched }, { cmds := [{ cid := 1, d0 := 0x60, phase := .dispatched }] }, by decide +kernel⟩

theorem wit_MoverChannels_1 : ∃ (m : Fin 16) (c : Fin 32) (ctrl : W64) (s : State),
    ((s.chan m.val c.val).enable = false) ∧
    ((s.chan m.val c.val).cid = none) ∧
    ((s.mover m.val).halted = false) ∧
    (({ s.chan m.val c.val with ringLog2 := (ctrl.extractLsb' 4 4).toNat, pulseTo := (ctrl.extractLsb' 8 2).toNat } : Chan).cfgOk = true) :=
  ⟨0, 0, 0x41, chanState { ringBase := 0x10000 }, by decide +kernel⟩

theorem wit_MoverChannels_2 : ∃ (m : Fin 16) (c : Fin 32) (ctrl : W64) (s : State),
    ((s.chan m.val c.val).enable = false) ∧
    ((s.chan m.val c.val).cid = none) ∧
    ((s.chan m.val c.val).ringBase = 0 ∨ (s.mover m.val).halted = true) :=
  ⟨0, 0, 1, {}, by decide +kernel⟩

theorem wit_MoverChannels_3 : ∃ (m : Fin 16) (c : Fin 32) (ctrl : W64) (s : State),
    ((s.chan m.val c.val).enable = true) :=
  ⟨0, 0, 1, chanState { enable := true }, by decide +kernel⟩

theorem wit_MoverChannels_4 : ∃ (m : Fin 16) (c : Fin 32) (s : State),
    ((s.chan m.val c.val).cid = none) ∧
    ((s.chan m.val c.val).cur = none) :=
  ⟨0, 0, chanState { enable := true }, by decide +kernel⟩

theorem wit_MoverChannels_5 : ∃ (m : Fin 16) (c : Fin 32) (d : MDesc) (s : State),
    ((s.chan m.val c.val).cid = none) ∧
    ((s.chan m.val c.val).cur = some d) :=
  ⟨0, 0, smallDesc, chanState { enable := true, cur := some smallDesc }, by decide +kernel⟩

theorem wit_MoverChannels_6 : ∃ (m : Fin 16) (c : Fin 32) (s : State),
    ((s.chan m.val c.val).cid = none) ∧
    ((s.chan m.val c.val).cur = none) ∧
    ((s.chan m.val c.val).enable = true) :=
  ⟨0, 0, chanState { enable := true }, by decide +kernel⟩

theorem wit_MoverChannels_7 : ∃ (m : Fin 16) (c : Fin 32) (d : MDesc) (s : State),
    ((s.chan m.val c.val).cid = none) ∧
    ((s.chan m.val c.val).enable = true) ∧
    ((s.chan m.val c.val).cur = some d) :=
  ⟨0, 0, smallDesc, chanState { enable := true, cur := some smallDesc }, by decide +kernel⟩

theorem wit_MoverChannels_8 : ∃ (m : Fin 16) (c : Fin 32) (s : State),
    ((s.chan m.val c.val).issued = []) ∧
    ((s.chan m.val c.val).st = .running ∨ (s.chan m.val c.val).st = .waiting) :=
  ⟨0, 0, chanState { st := .running }, by decide +kernel⟩

theorem wit_MoverChannels_9 : ∃ (m : Fin 16) (c : Fin 32) (e : Nat) (r : List Nat) (s : State),
    ((s.chan m.val c.val).issued = e :: r) :=
  ⟨0, 0, 4, [], chanState { st := .running, issued := [4] }, by decide +kernel⟩

theorem wit_MoverChannels_10 : ∃ (m : Fin 16) (c : Fin 32) (d : MDesc) (s : State),
    ((s.chan m.val c.val).st = .stopped) ∧
    ((s.chan m.val c.val).cur = some d) :=
  ⟨0, 0, smallDesc, chanState { st := .stopped, cur := some smallDesc }, by decide +kernel⟩

theorem wit_MoverChannels_11 : ∃ (m : Fin 16) (s : State),
    ((List.range 32).any (fun c => (s.chan m.val c).enable || (s.chan m.val c).cid.isSome) = false) :=
  ⟨0, { movers := [(0, { halted := true })] }, by decide +kernel⟩

theorem wit_MoverChannels_12 : ∃ (m : Fin 16) (s : State),
    ((List.range 32).any (fun c => (s.chan m.val c).enable || (s.chan m.val c).cid.isSome) = true) :=
  ⟨0, chanState { enable := true }, by decide +kernel⟩

theorem wit_MoverTransfers_1 : ∃ (m : Fin 16) (c : Fin 32) (d : MDesc) (r : List MDesc) (s : State),
    ((s.chan m.val c.val).mayFetch = true) ∧
    ((s.mover m.val).halted = false) ∧
    ((s.chan m.val c.val).gate = d :: r) :=
  ⟨0, 0, smallDesc, [], chanState { enable := true, gate := [smallDesc] }, by decide +kernel⟩

theorem wit_MoverTransfers_2 : ∃ (m : Fin 16) (c : Fin 32) (s : State),
    ((s.chan m.val c.val).mayFetch = true) ∧
    ((s.mover m.val).halted = false) ∧
    ((s.chan m.val c.val).gate = []) ∧
    ((s.chan m.val c.val).enable = true) ∧
    ((mdescOf (s.readNum (chanDescAddr (s.chan m.val c.val)) 32)).own = true) :=
  ⟨0, 0, { chanState { enable := true, ringBase := 0x1000, ringLog2 := 4 } with mem := [(0x101F, 0x80)] }, by decide +kernel⟩

theorem wit_MoverTransfers_3 : ∃ (m : Fin 16) (c : Fin 32) (d : MDesc) (s : State),
    ((s.chan m.val c.val).cur = some d) :=
  ⟨0, 0, smallDesc, chanState { cur := some smallDesc }, by decide +kernel⟩

theorem wit_MoverTransfers_4 : ∃ (m : Fin 16) (c : Nat) (s : State),
    ((s.mover m.val).halted = false) ∧
    (s.pickRun m.val = some c) ∧
    ((s.chan m.val c).watch.getLsbD 63 = false) :=
  ⟨0, 0, chanState { enable := true, cur := some smallDesc, st := .running }, by decide +kernel⟩

theorem wit_MoverTransfers_5 : ∃ (m : Fin 16) (c : Fin 32) (d : MDesc) (e : Nat) (r : List Nat) (s : State),
    ((s.chan m.val c.val).cur = some d) ∧
    ((s.chan m.val c.val).issued = e :: r) ∧
    ((s.chan m.val c.val).cid = none) ∧
    ((s.chan m.val c.val).watch = 0) ∧
    ((s.chan m.val c.val).stop = false) ∧
    (e ≠ d.count) ∧
    (d.sig = false) ∧
    (s.burstReady m.val c.val = true) :=
  ⟨0, 0, smallDesc, 2, [4], chanState { enable := true, cur := some smallDesc, st := .running, issued := [2, 4] }, by and_intros <;> decide +kernel⟩

theorem wit_MoverTransfers_6 : ∃ (m : Fin 16) (c : Fin 32) (d : MDesc) (e : Nat) (r : List Nat) (s : State),
    ((s.chan m.val c.val).cur = some d) ∧
    ((s.chan m.val c.val).issued = e :: r) ∧
    (s.burstReady m.val c.val = false) :=
  ⟨0, 0, smallDesc, 4, [], { chanState { enable := true, cur := some smallDesc, issued := [4] } with lines := [(0, busyLine)] }, by and_intros <;> decide +kernel⟩

theorem wit_MoverTransfers_7 : ∃ (m : Fin 16) (c : Fin 32) (cid : Nat) (s : State),
    ((s.chan m.val c.val).cur = none) ∧
    ((s.chan m.val c.val).cid = some cid) ∧
    (s.acreChan m.val c.val = true) :=
  ⟨0, 0, 1, { chanState { st := .held, cid := some 1 } with cmds := [{ cid := 1, d0 := 0x40, phase := .running }], hides := [(0, { acre := { run := some { cid := 1 } } })] }, by decide +kernel⟩

theorem wit_MoverTransfers_8 : ∃ (m : Fin 16) (c : Fin 32) (p : Fin 2) (s : State),
    (s.acreFedOn m.val c.val = false) ∧
    (((List.range 16).flatMap (fun m => ((List.range 32).filter (fun c => s.chanOnPort (s.chan m c) (.host p) || s.acreOnPort m c (.host p))).map (fun c => (m, c)))) = [(m.val, c.val)]) ∧
    ((s.chan m.val c.val).st ≠ .held) :=
  ⟨0, 0, 0, chanState { enable := true, cur := some { smallDesc with src := 2 ^ 55 }, st := .running, issued := [4] }, by decide +kernel⟩

theorem wit_MoverTransfers_9 : ∃ (m : Fin 16) (c : Fin 32) (s : State),
    ((s.chan m.val c.val).st = .held) ∧
    ((s.chan m.val c.val).creditAt + 10000 ≤ s.btime.toNat) :=
  ⟨0, 0, { chanState { st := .held } with btime := 10000 }, by decide +kernel⟩

theorem wit_MoverTransfers_10 : ∃ (m : Fin 16) (c : Fin 32) (s : State),
    ((s.chan m.val c.val).st = .held) ∧
    ((s.chan m.val c.val).stallPosted = false) ∧
    ((s.chan m.val c.val).heldFrom + 1000 * s.classWindow (chanHide (s.chan m.val c.val)) (s.chanWho (s.chan m.val c.val)).2.2.1 ≤ s.btime.toNat) :=
  ⟨0, 0, { chanState { st := .held } with btime := 0x100000000 }, by decide +kernel⟩

theorem wit_MoverTransfers_11 : ∃ (m : Fin 16) (c : Fin 32) (addr : BitVec 56) (s : State),
    ((s.mover m.val).halted = false) ∧
    (s.chanBusy m.val c.val = true) :=
  ⟨0, 0, 0x40, chanState { enable := true }, by decide +kernel⟩

theorem wit_MoverTransfers_12 : ∃ (m : Fin 16) (c : Fin 32) (addr : BitVec 56) (s : State),
    ((s.mover m.val).halted = true) :=
  ⟨0, 0, 0x40, { movers := [(0, { halted := true })] }, by decide +kernel⟩

theorem wit_MoverTransfers_13 : ∃ (m : Fin 16) (c : Fin 32) (d : MDesc) (e : Nat) (r : List Nat) (s : State),
    ((s.chan m.val c.val).cur = some d) ∧
    ((s.chan m.val c.val).issued = e :: r) ∧
    ((s.chan m.val c.val).cid = none) :=
  ⟨0, 0, smallDesc, 4, [], chanState { enable := true, cur := some smallDesc, issued := [4] }, by decide +kernel⟩

theorem wit_PlansAndSequences_1 : ∃ (cid : Nat) (c : Cmd) (x : List Piece × Nat × List Stage) (i : Fin 256) (s : State),
    (onRowIs s cid 0x50 c) ∧
    (planLoads s c = some x) ∧
    (s.planSlot c.ctx c.planNum = none) ∧
    ((List.range 256).find? (fun j => (s.plan? j).isNone) = some i.val) :=
  ⟨1, planCmd, loaded, 0, planState, by decide +kernel⟩

theorem wit_PlansAndSequences_2 : ∃ (cid : Nat) (c : Cmd) (x : List Piece × Nat × List Stage) (i : Nat) (s : State),
    (onRowIs s cid 0x50 c) ∧
    (planLoads s c = some x) ∧
    (s.planSlot c.ctx c.planNum = some i) ∧
    (s.planBound c.ctx i c.planNum = false) :=
  ⟨1, planCmd, loaded, 0, { planState with plans := [(0, smallPlan)] }, by and_intros <;> decide +kernel⟩

theorem wit_PlansAndSequences_3 : ∃ (cid : Nat) (c : Cmd) (x : List Piece × Nat × List Stage) (i : Nat) (s : State),
    (onRowIs s cid 0x50 c) ∧
    (planLoads s c = some x) ∧
    (s.planSlot c.ctx c.planNum = some i) ∧
    (s.planBound c.ctx i c.planNum = true) :=
  ⟨1, planCmd, loaded, 0, { planState with plans := [(0, smallPlan)], seqs := [(0, { state := 2, ctx := 3 })] }, by decide +kernel⟩

theorem wit_PlansAndSequences_4 : ∃ (cid : Nat) (c : Cmd) (slot e : Nat) (p : Plan) (s : State),
    (onRowIs s cid 0x51 c) ∧
    (s.planSlot c.ctx c.planNum = some slot) ∧
    (s.plan? slot = some p) ∧
    (c.fld 330 328 ≤ p.draftMax) ∧
    (c.freshOpen = false ∨ s.pow.entropy = true) ∧
    (s.belowCap (s.ctx c.ctx).hide = true) ∧
    ((s.hide (s.ctx c.ctx).hide).pendSeqs = []) ∧
    (s.freeEntry = some e) :=
  ⟨1, { cid := 1, d0 := 0x51, phase := .dispatched, ctx := 3 }, 0, 0, smallPlan, planWith { cid := 1, d0 := 0x51, phase := .dispatched, ctx := 3 } smallPlan [], by decide +kernel⟩

theorem wit_PlansAndSequences_5 : ∃ (cid : Nat) (c : Cmd) (slot : Nat) (p : Plan) (s : State),
    (onRowIs s cid 0x51 c) ∧
    (s.planSlot c.ctx c.planNum = some slot) ∧
    (s.plan? slot = some p) ∧
    (c.fld 330 328 ≤ p.draftMax) ∧
    (c.freshOpen = false ∨ s.pow.entropy = true) ∧
    (s.belowCap (s.ctx c.ctx).hide = false) ∧
    ((s.hide (s.ctx c.ctx).hide).pendSeqs.length < 16384) :=
  ⟨1, { cid := 1, d0 := 0x51, phase := .dispatched, ctx := 3 }, 0, smallPlan, { planWith { cid := 1, d0 := 0x51, phase := .dispatched, ctx := 3 } smallPlan [] with kod := { run := [(kodKey 0x5000 0x0A, 0)] } }, by decide +kernel⟩

theorem wit_PlansAndSequences_6 : ∃ (cid : Nat) (c : Cmd) (slot : Nat) (p : Plan) (s : State),
    (onRowIs s cid 0x52 c) ∧
    (s.planSlot c.ctx c.planNum = some slot) ∧
    (s.plan? slot = some p) ∧
    (p.step = none) :=
  ⟨1, { cid := 1, d0 := 0x52, phase := .dispatched, ctx := 3 }, 0, smallPlan, planWith { cid := 1, d0 := 0x52, phase := .dispatched, ctx := 3 } smallPlan [], by decide +kernel⟩

theorem wit_PlansAndSequences_7 : ∃ (cid : Nat) (c : Cmd) (slot : Nat) (p : Plan) (s : State),
    (onRowIs s cid 0x52 c) ∧
    (s.planSlot c.ctx c.planNum = some slot) ∧
    (s.plan? slot = some p) ∧
    (p.step ≠ none) :=
  ⟨1, { cid := 1, d0 := 0x52, phase := .dispatched, ctx := 3 }, 0, { smallPlan with step := some (freshStep 7) }, planWith { cid := 1, d0 := 0x52, phase := .dispatched, ctx := 3 } { smallPlan with step := some (freshStep 7) } [], by decide +kernel⟩

theorem wit_PlansAndSequences_8 : ∃ (cid : Nat) (c : Cmd) (s : State),
    (s.planSlot c.ctx c.planNum = none) :=
  ⟨1, { cid := 1, d0 := 0x51, phase := .dispatched, ctx := 3 }, {}, by decide +kernel⟩

theorem wit_PlansAndSequences_9 : ∃ (cid : Nat) (c : Cmd) (ssb id : Nat) (s : State),
    (onRowIs s cid 0x53 c) ∧
    ((pieceAddr c.pieces 1 0).getD 0 = ssb) ∧
    (s.gateHas [] [ssb / 128] = true) ∧
    (s.readNum ssb 4 = id) ∧
    ((s.readPa (ssb + 4)).toNat % 8 ≠ 1) ∧
    ((s.seq (id % 4096)).state ≠ 0) ∧
    ((s.seq (id % 4096)).ctx = c.ctx) ∧
    ((s.seq (id % 4096)).tag = id / 4096) ∧
    ((s.seq (id % 4096)).inStep = false) :=
  ⟨1, { cid := 1, d0 := 0x53, phase := .dispatched, ctx := 3 }, 0, 0, planWith { cid := 1, d0 := 0x53, phase := .dispatched, ctx := 3 } smallPlan [(0, { state := 3, ctx := 3 })], by and_intros <;> decide +kernel⟩

theorem wit_PlansAndSequences_10 : ∃ (cid : Nat) (c : Cmd) (ssb id : Nat) (s : State),
    (onRowIs s cid 0x53 c) ∧
    ((pieceAddr c.pieces 1 0).getD 0 = ssb) ∧
    (s.gateHas [] [ssb / 128] = true) ∧
    (s.readNum ssb 4 = id) ∧
    ((s.readPa (ssb + 4)).toNat % 8 ≠ 1) ∧
    ((s.seq (id % 4096)).state ≠ 0) ∧
    ((s.seq (id % 4096)).ctx = c.ctx) ∧
    ((s.seq (id % 4096)).tag = id / 4096) ∧
    ((s.seq (id % 4096)).inStep = true) ∧
    ((s.seq (id % 4096)).closing = none) :=
  ⟨1, { cid := 1, d0 := 0x53, phase := .dispatched, ctx := 3 }, 0, 0, planWith { cid := 1, d0 := 0x53, phase := .dispatched, ctx := 3 } smallPlan [(0, { state := 3, ctx := 3, inStep := true })], by and_intros <;> decide +kernel⟩

theorem wit_PlansAndSequences_11 : ∃ (cid : Nat) (c : Cmd) (ssb : Nat) (s : State),
    (onRowIs s cid 0x53 c) ∧
    ((pieceAddr c.pieces 1 0).getD 0 = ssb) ∧
    (s.gateHas [] [ssb / 128] = false) :=
  ⟨1, { cid := 1, d0 := 0x53, phase := .dispatched, ctx := 3 }, 0, { planWith { cid := 1, d0 := 0x53, phase := .dispatched, ctx := 3 } smallPlan [] with lines := [(0, busyLine)] }, by and_intros <;> decide +kernel⟩

theorem wit_PlansAndSequences_12 : ∃ (h e : Nat) (r : PendSeq) (s : State),
    (s.nextPend = some (h, r)) ∧
    (s.freeEntry = some e) ∧
    (r.cmd.freshOpen = false ∨ s.pow.entropy = true) :=
  ⟨0, 0, { cmd := { cid := 1, d0 := 0x51, phase := .dispatched, ctx := 3 }, ssb := 0, ring := 0, prompt := 0, plan := 0, order := 0 }, { hides := [(0, { started := true, pendSeqs := [{ cmd := { cid := 1, d0 := 0x51, phase := .dispatched, ctx := 3 }, ssb := 0, ring := 0, prompt := 0, plan := 0, order := 0 }] })] }, by decide +kernel⟩

theorem wit_StepsOfAPlan_1 : ∃ (i : Fin 256) (p : Plan) (st : Step) (s : State),
    (s.plan? i.val = some p) ∧
    (p.step = some st) ∧
    (st.built = false) ∧
    (s.stepOpen p = true) ∧
    (p.stale = false) :=
  ⟨0, { smallPlan with step := some (freshStep 1) }, freshStep 1, planWith { cid := 1, d0 := 0x52, phase := .dispatched, ctx := 3 } { smallPlan with step := some (freshStep 1) } [], by decide +kernel⟩

theorem wit_StepsOfAPlan_2 : ∃ (i : Fin 256) (p : Plan) (st : Step) (s : State),
    (s.plan? i.val = some p) ∧
    (p.step = some st) ∧
    (st.built = false) ∧
    (s.stepOpen p = true) ∧
    (p.stale = false) ∧
    (s.buildOrder i.val = []) ∧
    (s.gateHas (s.buildReads i.val p) (s.buildOwns i.val p) = true) :=
  ⟨0, { smallPlan with step := some (freshStep 1) }, freshStep 1, planWith { cid := 1, d0 := 0x52, phase := .dispatched, ctx := 3 } { smallPlan with step := some (freshStep 1) } [], by and_intros <;> decide +kernel⟩

theorem wit_StepsOfAPlan_3 : ∃ (i : Fin 256) (p : Plan) (st : Step) (s : State),
    (s.plan? i.val = some p) ∧
    (p.step = some st) ∧
    (st.built = false) ∧
    (s.stepOpen p = true) ∧
    (p.stale = false) ∧
    (s.gateHas (s.buildReads i.val p) (s.buildOwns i.val p) = false) :=
  ⟨0, { smallPlan with step := some (freshStep 1) }, freshStep 1, { planWith { cid := 1, d0 := 0x52, phase := .dispatched, ctx := 3 } { smallPlan with step := some (freshStep 1) } [(0, { state := 2, ctx := 3 })] with lines := [(0, busyLine)] }, by and_intros <;> decide +kernel⟩

theorem wit_StepsOfAPlan_4 : ∃ (cid i : Nat) (p : Plan) (b : State × Build) (e : Nat),
    ((b.1.seq e).promptLeft ≠ 0) ∧
    (p.maxRows ≤ b.2.rows) :=
  ⟨0, 0, smallPlan, (({ seqs := [(0, { promptLeft := 1 })] } : State), { rows := 4 }), 0, by and_intros <;> decide +kernel⟩

theorem wit_StepsOfAPlan_5 : ∃ (i : Fin 256) (p : Plan) (st : Step) (g : Stage) (k : Cmd) (s : State),
    (s.plan? i.val = some p) ∧
    (p.step = some st) ∧
    (p.stages[st.next]? = some g) ∧
    (s.cmd? st.cid = some k) ∧
    (st.built = true) ∧
    (st.stageCid = none) ∧
    (s.stepOpen p = true) ∧
    (s.stageEnters (stageInstance k i.val st g s.nextCid s.btime.toNat) = true) ∧
    (k.cls ≠ 0) :=
  ⟨0, { smallPlan with step := some builtStep, stages := [kernelStage] }, builtStep, kernelStage, { cid := 1, d0 := 0x52, phase := .running, ctx := 3, cls := 2 }, planWith { cid := 1, d0 := 0x52, phase := .running, ctx := 3, cls := 2 } { smallPlan with step := some builtStep, stages := [kernelStage] } [], by decide +kernel⟩

theorem wit_StepsOfAPlan_6 : ∃ (i : Fin 256) (p : Plan) (st : Step) (g : Stage) (s : State),
    (s.plan? i.val = some p) ∧
    (p.step = some st) ∧
    (p.stages[st.stagedUpTo]? = some g) ∧
    ((((p.stages.take (st.stagedUpTo + 1)).drop st.next).map (fun g => s.stageBytes st g)).sum ≤ s.kodRun (0x3000 + (s.ctx p.ctx).hide) 0x0B * 2 ^ 21) ∧
    (s.kodRun (0x3000 + (s.ctx p.ctx).hide) 0x0B * 2 ^ 21 ≠ 0) ∧
    (st.built = true ∨ g.kvLen = 0) :=
  ⟨0, { smallPlan with step := some builtStep, stages := [kernelStage] }, builtStep, kernelStage, { planWith {} { smallPlan with step := some builtStep, stages := [kernelStage] } [] with kod := { run := [(kodKey 0x3000 0x0B, 1)] } }, by decide +kernel⟩

theorem wit_StepsOfAPlan_7 : ∃ (i : Fin 256) (p : Plan) (st : Step) (c : Cmd) (u : State) (s : State),
    (s.plan? i.val = some p) ∧
    (p.step = some st) ∧
    (st.built = true) ∧
    (st.stageCid = none) ∧
    (p.stages.length ≤ st.next) ∧
    (s.stepOpen p = true) ∧
    (s.gateHas (commitReads p st) (s.commitOwns st) = true) ∧
    (u = ((st.sel.foldl (fun t x => t.commitOne st.cid i.val p x) s).updCmd st.cid (fun c => { c with stepsDone := c.stepsDone + 1 })).wmCheck i.val) ∧
    (u.cmd? st.cid = some c) ∧
    (c.fld 63 32 ≠ 0 ∧ c.fld 63 32 ≤ c.stepsDone) :=
  ⟨0, { smallPlan with step := some builtStep }, builtStep, { cid := 1, d0 := 0x52 + 2 ^ 32, phase := .running, ctx := 3, stepsDone := 1 }, ((planWith { cid := 1, d0 := 0x52 + 2 ^ 32, phase := .running, ctx := 3 } { smallPlan with step := some builtStep } []).updCmd 1 (fun c => { c with stepsDone := c.stepsDone + 1 })).wmCheck 0, planWith { cid := 1, d0 := 0x52 + 2 ^ 32, phase := .running, ctx := 3 } { smallPlan with step := some builtStep } [], by and_intros <;> decide +kernel⟩

theorem wit_StepsOfAPlan_8 : ∃ (i : Fin 256) (p : Plan) (st : Step) (c : Cmd) (u : State) (s : State),
    (s.plan? i.val = some p) ∧
    (p.step = some st) ∧
    (st.built = true) ∧
    (st.stageCid = none) ∧
    (p.stages.length ≤ st.next) ∧
    (s.stepOpen p = true) ∧
    (s.gateHas (commitReads p st) (s.commitOwns st) = true) ∧
    (u = ((st.sel.foldl (fun t x => t.commitOne st.cid i.val p x) s).updCmd st.cid (fun c => { c with stepsDone := c.stepsDone + 1 })).wmCheck i.val) ∧
    (u.cmd? st.cid = some c) ∧
    (c.fld 63 32 = 0 ∨ c.stepsDone < c.fld 63 32) :=
  ⟨0, { smallPlan with step := some builtStep }, builtStep, { cid := 1, d0 := 0x52, phase := .running, ctx := 3, stepsDone := 1 }, ((planWith { cid := 1, d0 := 0x52, phase := .running, ctx := 3 } { smallPlan with step := some builtStep } []).updCmd 1 (fun c => { c with stepsDone := c.stepsDone + 1 })).wmCheck 0, planWith { cid := 1, d0 := 0x52, phase := .running, ctx := 3 } { smallPlan with step := some builtStep } [], by and_intros <;> decide +kernel⟩

theorem wit_StepsOfAPlan_9 : ∃ (i : Fin 256) (p : Plan) (st : Step) (s : State),
    (s.plan? i.val = some p) ∧
    (p.step = some st) ∧
    (st.built = true) ∧
    (st.stageCid = none) ∧
    (p.stages.length ≤ st.next) ∧
    (s.stepOpen p = true) ∧
    (s.gateHas (commitReads p st) (s.commitOwns st) = false) :=
  ⟨0, { smallPlan with step := some pickedStep }, pickedStep, { planWith { cid := 1, d0 := 0x52, phase := .running, ctx := 3 } { smallPlan with step := some pickedStep } [(0, { state := 2, ctx := 3 })] with lines := [(0, busyLine)] }, by and_intros <;> decide +kernel⟩

theorem wit_AcreSteps_1 : ∃ (h : Fin 8) (c : Cmd) (s : State),
    (s.engineOpen h.val = true) ∧
    ((s.hide h.val).acre.blocked = false) ∧
    (s.furlongsOf h.val ≠ []) ∧
    (s.nextAcre h.val = some c) ∧
    (s.ctxOpen c.ctx = true) ∧
    ((s.furlongsOf h.val).all s.furlongOn = true) :=
  ⟨0, { acreCmd with cid := 2, cls := 0, phase := .dispatched }, { acreState { wait := [2] } with pow := { fOn := List.range 16 } }, by decide +kernel⟩

theorem wit_AcreSteps_2 : ∃ (c : Cmd) (u s : State),
    (s.takeStreams c = some u) :=
  ⟨{ acreCmd with cid := 2, cls := 0, phase := .dispatched }, ((acreState { wait := [2] }).takeStreams { acreCmd with cid := 2, cls := 0, phase := .dispatched }).getD {}, acreState { wait := [2] }, by decide +kernel⟩

theorem wit_AcreSteps_3 : ∃ (h : Fin 8) (o : AcreOp) (s : State),
    ((s.hide h.val).acre.run = some o) ∧
    (s.acrePrio h.val = true) ∧
    (o.cls ≠ 0) ∧
    ((s.hide h.val).acre.pre = none) ∧
    ((s.waitingAcre h.val (fun c => c.cls == 0)).isSome = true) :=
  ⟨0, { cid := 1, cls := 2 }, acreState { run := some { cid := 1, cls := 2 }, wait := [2] }, by decide +kernel⟩

theorem wit_AcreSteps_4 : ∃ (h : Fin 8) (o : AcreOp) (s : State),
    ((s.hide h.val).acre.run = none) ∧
    ((s.hide h.val).acre.pre = some o) ∧
    (s.class0Due h.val = false) ∧
    (s.engineOpen h.val = true) :=
  ⟨0, {}, acreState { pre := some {} }, by and_intros <;> decide +kernel⟩

theorem wit_AcreSteps_5 : ∃ (h : Fin 8) (s : State),
    (s.class0Due h.val = true) :=
  ⟨0, acreState { wait := [2] }, by decide +kernel⟩

theorem wit_AcreSteps_6 : ∃ (h : Fin 8) (o : AcreOp) (c : Cmd) (bad : List (Fin 16 × Fin 16)) (s : State),
    (s.acreHas h.val (s.stepLines o c) = false) :=
  ⟨0, { cid := 1, step := .store }, biasCmd, [], { acreState {} with lines := [(0, busyLine)] }, by decide +kernel⟩

theorem wit_AcreSteps_7 : ∃ (h : Fin 8) (o : AcreOp) (c : Cmd) (s : State),
    (s.acreNow h.val .load = some (o, c)) ∧
    (s.acreHas h.val (s.stepLines o c) = true) ∧
    (s.mustYield h.val o = false) :=
  ⟨0, { cid := 1, step := .load }, acreCmd, acreState { run := some { cid := 1, step := .load } }, by and_intros <;> decide +kernel⟩

theorem wit_AcreSteps_8 : ∃ (h : Fin 8) (o : AcreOp) (c : Cmd) (n p : Nat) (sh : Bool) (s : State),
    (s.acreNow h.val .slice = some (o, c)) ∧
    (o.nextPass c = some (n, p, sh)) ∧
    (o.idle = none) ∧
    (s.mustYield h.val o = false) ∧
    (s.acreHas h.val (o.bLines c n p sh) = true) :=
  ⟨0, { cid := 1, step := .slice }, longCmd, 0, 1, false, { acreState { run := some { cid := 1, step := .slice } } with cmds := [longCmd] }, by and_intros <;> decide +kernel⟩

theorem wit_AcreSteps_9 : ∃ (h : Fin 8) (o : AcreOp) (c : Cmd) (s : State),
    (s.acreNow h.val .slice = some (o, c)) ∧
    (s.acreHas h.val (s.stepLines o c) = true) :=
  ⟨0, { cid := 1, step := .slice }, acreCmd, acreState { run := some { cid := 1, step := .slice } }, by and_intros <;> decide +kernel⟩

theorem wit_AcreSteps_10 : ∃ (h : Fin 8) (o : AcreOp) (c : Cmd) (f u : Fin 16) (s : State),
    (s.acreNow h.val .slice = some (o, c)) ∧
    (s.acreHas h.val (s.stepLines o c) = true) ∧
    (f.val < o.k ∧ u.val < o.w) ∧
    (o.rerun = false) ∧
    (s.mustYield h.val o = false) :=
  ⟨0, { cid := 1, step := .slice }, acreCmd, 0, 0, acreState { run := some { cid := 1, step := .slice } }, by and_intros <;> decide +kernel⟩

theorem wit_AcreSteps_11 : ∃ (h : Fin 8) (o : AcreOp) (c : Cmd) (f u : Fin 16) (s : State),
    (s.acreNow h.val .slice = some (o, c)) ∧
    (s.acreHas h.val (s.stepLines o c) = true) ∧
    (f.val < o.k ∧ u.val < o.w) ∧
    (o.rerun = false) ∧
    (s.mustYield h.val o = true) :=
  ⟨0, { cid := 1, cls := 2, step := .slice }, acreCmd, 0, 0, acreState { run := some { cid := 1, cls := 2, step := .slice }, wait := [2] }, by and_intros <;> decide +kernel⟩

theorem wit_AcreSteps_12 : ∃ (h : Fin 8) (o : AcreOp) (c : Cmd) (f u : Fin 16) (s : State),
    (s.acreNow h.val .slice = some (o, c)) ∧
    (s.acreHas h.val (s.stepLines o c) = true) ∧
    (f.val < o.k ∧ u.val < o.w) ∧
    (o.rerun = true) ∧
    (o.bad = [(f.val, u.val)]) :=
  ⟨0, { cid := 1, step := .slice, rerun := true, bad := [(0, 0)] }, acreCmd, 0, 0, acreState { run := some { cid := 1, step := .slice, rerun := true, bad := [(0, 0)] } }, by and_intros <;> decide +kernel⟩

theorem wit_AcreSteps_13 : ∃ (h : Fin 8) (bad : List (Fin 16 × Fin 16)) (s : State),
    ((s.hide h.val).acre.run = none) :=
  ⟨0, [], {}, by decide +kernel⟩

theorem wit_AcreSteps_14 : ∃ (core : Fin 276) (h : Nat) (s : State),
    (core.val < 272) ∧
    (s.coreHide core.val = some h) ∧
    (s.coreActive core.val = false) :=
  ⟨0, 0, { cores := [(0, { fused := true })] }, by decide +kernel⟩

theorem wit_AcreSteps_15 : ∃ (core : Fin 276) (h : Nat) (s : State),
    (core.val < 272) ∧
    (s.coreHide core.val = some h) ∧
    (s.coreActive core.val = true) ∧
    ((s.hide h).recovery = false) :=
  ⟨0, 0, {}, by decide +kernel⟩

theorem wit_AcreReadoutStoreReport_1 : ∃ (h : Fin 8) (o : AcreOp) (c : Cmd) (s : State),
    (s.acreNow h.val .readout = some (o, c)) ∧
    (s.acreHas h.val (s.stepLines o c) = true) :=
  ⟨0, { cid := 1, step := .readout }, acreCmd, acreState { run := some { cid := 1, step := .readout } }, by and_intros <;> decide +kernel⟩

theorem wit_AcreReadoutStoreReport_2 : ∃ (c : Cmd) (o : AcreOp) (i j : Nat) (s : State),
    (c.wide = false) ∧
    (c.fmtOut ≠ 15) ∧
    (winMin ≤ tget o.acc (elemKey i j) 0 ∧ tget o.acc (elemKey i j) 0 ≤ winMax) :=
  ⟨acreCmd, {}, 0, 0, {}, by decide +kernel⟩

theorem wit_AcreReadoutStoreReport_3 : ∃ (c : Cmd) (o : AcreOp) (i j : Nat) (s : State),
    (c.wide = false) ∧
    (c.fmtOut = 15) ∧
    (winMax < tget o.acc (elemKey i j) 0) :=
  ⟨{ acreCmd with d0 := 15 * 2 ^ 42 }, { acc := [(0, 2 ^ 112)] }, 0, 0, {}, by decide +kernel⟩

theorem wit_AcreReadoutStoreReport_4 : ∃ (o : AcreOp) (c : Cmd),
    (o.shadow = true ∨ ((shadowAt c.ext 0).addr = 0 ∧ (shadowAt c.ext 24).addr = 0) ∨ (o.tiles c).filter (fun t => o.overLimit c t) = []) :=
  ⟨{ cid := 1, step := .readout }, acreCmd, by decide +kernel⟩

theorem wit_AcreReadoutStoreReport_5 : ∃ (o : AcreOp) (c : Cmd) (ts : List (Nat × Nat)),
    (o.shadow = false) ∧
    ((shadowAt c.ext 0).addr ≠ 0 ∨ (shadowAt c.ext 24).addr ≠ 0) ∧
    (ts = (o.tiles c).filter (fun t => o.overLimit c t)) ∧
    (ts ≠ []) :=
  ⟨{ cid := 1, step := .readout, cnt := [(0, { satp := 9 })] }, { acreCmd with ext := 1 }, [(0, 0)], by and_intros <;> decide +kernel⟩

theorem wit_AcreReadoutStoreReport_6 : ∃ (h : Fin 8) (o : AcreOp) (c : Cmd) (s : State),
    (s.acreNow h.val .store = some (o, c)) ∧
    (s.acreHas h.val (s.stepLines o c) = true) ∧
    (o.factorsOk = true ∨ s.factorsOne c = true) :=
  ⟨0, { cid := 1, step := .store }, acreCmd, acreState { run := some { cid := 1, step := .store } }, by and_intros <;> decide +kernel⟩

theorem wit_AcreReadoutStoreReport_7 : ∃ (h : Fin 8) (o : AcreOp) (c : Cmd) (s : State),
    (s.acreNow h.val .store = some (o, c)) ∧
    (s.acreHas h.val (s.stepLines o c) = true) ∧
    (o.factorsOk = false) ∧
    (s.factorsOne c = false) :=
  ⟨0, { cid := 1, step := .store }, { acreCmd with d0 := acreCmd.d0 + 15 * 2 ^ 42, pieces := [{ ext := 6, off := 0, len := 4, va := 0, pa := 0, ro := false, io := false, hide := 0, tag := 0, gen := 0 }] }, { acreState { run := some { cid := 1, step := .store } } with cmds := [{ acreCmd with d0 := acreCmd.d0 + 15 * 2 ^ 42, pieces := [{ ext := 6, off := 0, len := 4, va := 0, pa := 0, ro := false, io := false, hide := 0, tag := 0, gen := 0 }] }] }, by and_intros <;> decide +kernel⟩

theorem wit_AcreReadoutStoreReport_8 : ∃ (h : Fin 8) (o : AcreOp) (c : Cmd) (u : State) (s : State),
    (s.acreNow h.val .done = some (o, c)) ∧
    (u = (if reportAddr c.ext = 0 then s else s.acreWrite c 12 0 (o.report c))) :=
  ⟨0, { cid := 1, step := .done }, acreCmd, acreState { run := some { cid := 1, step := .done } }, acreState { run := some { cid := 1, step := .done } }, by and_intros <;> decide +kernel⟩

theorem wit_ChainGroups_1 : ∃ (cid : Nat) (core : Fin 272) (c : Cmd) (s : State),
    (s.cmd? cid = some c) ∧
    (s.kernelOpen c = true) ∧
    (s.coreTakes c.hide core.val = true) ∧
    (s.furlongOn (core.val / 17) = true) ∧
    (s.nextFits c (s.groupsOn core.val) = true) ∧
    (s.earlierFits c core.val = false) :=
  ⟨1, 0, kernelCmd, kernelState, by decide +kernel⟩

theorem wit_ChainGroups_2 : ∃ (cid : Nat) (core : Fin 272) (c : Cmd) (s : State),
    (s.cmd? cid = some c) ∧
    (s.kernelOpen c = true) ∧
    (s.coreTakes c.hide core.val = true) ∧
    (s.furlongOn (core.val / 17) = false) :=
  ⟨1, 0, kernelCmd, { kernelState with pow := {} }, by decide +kernel⟩

theorem wit_ChainGroups_3 : ∃ (core : Nat) (c : Cmd) (s : State),
    ((∀ k, k < c.chainsIn c.nextGroup → (freshChain c c.nextGroup k).active ≠ 0)) :=
  ⟨0, kernelCmd, {}, by decide +kernel⟩

theorem wit_ChainGroups_5 : ∃ (core n : Nat) (s : State) (x : Group),
    (x ∈ s.groupsOn core) :=
  ⟨0, 1, placed onCore0 {}, onCore0, by decide +kernel⟩

theorem wit_ChainGroups_6 : ∃ (cid g : Nat) (i : Nat) (x : Group) (c : Cmd) (s : State),
    (s.group? cid g = some x) ∧
    (s.cmd? cid = some c) ∧
    (x.core = some i) ∧
    (x.cls = 2) ∧
    (x.saving = false) ∧
    (x.since + 1000 * s.kodRun (0x5000 + c.hide) 8 ≤ s.btime.toNat) ∧
    (s.recordFits x = true) ∧
    (s.sliceWanted x c i = true) :=
  ⟨1, 0, 0, { onCore0 with vregs := 256, chains := 14 }, kernelCmd, { placed { onCore0 with vregs := 256, chains := 14 } {} with btime := 1000000000, cmds := [kernelCmd, { kernelCmd with cid := 2, fn := 0, q := 1 }], fns := [(0, { ready := true, queues := [(0, { onQueue with v := 5 }), (1, onQueue)] })] }, by decide +kernel⟩

theorem wit_ChainGroups_7 : ∃ (cid g : Nat) (x : Group) (s : State),
    (s.group? cid g = some x) ∧
    (x.saving = true) ∧
    (s.groupQuiet x = true) ∧
    ((s.cmd? cid).any (fun c => c.phase == .running) = true) ∧
    (x.toReset = true ∨ s.recordFits x = true) :=
  ⟨1, 0, { onCore0 with saving := true }, placed { onCore0 with saving := true } {}, by and_intros <;> decide +kernel⟩

theorem wit_ChainGroups_8 : ∃ (cid g : Nat) (x : Group) (s : State),
    (s.group? cid g = some x) ∧
    (s.groupQuiet x = false) :=
  ⟨1, 0, onCore0, placed onCore0 { loads := [{ idx := 0, vd := none, ud := 0, size := 4, na := false, acq := false, lanes := [], atomic := false, dev := false, await := 0 }] }, by decide +kernel⟩

theorem wit_ChainGroups_9 : ∃ (cid g i : Nat) (x : Group) (s : State),
    (s.group? cid g = some x) ∧
    (x.core = some i) :=
  ⟨1, 0, 0, onCore0, placed onCore0 {}, by decide +kernel⟩

theorem wit_ChainGroups_10 : ∃ (cid g : Nat) (core : Fin 272) (x : Group) (c : Cmd) (s : State),
    (s.group? cid g = some x) ∧
    (s.cmd? cid = some c) ∧
    (s.mayResume x c core.val = true) ∧
    (s.furlongOn (core.val / 17) = true) ∧
    (s.fitsBeside c.hide x.cls x.chains x.vregs x.lsSize (s.groupsOn core.val) = true) :=
  ⟨1, 0, 0, { onCore0 with core := none, slots := [] }, kernelCmd, { kernelState with groups := [{ onCore0 with core := none, slots := [] }] }, by decide +kernel⟩

theorem wit_FurlongMoves_1 : ∃ (f : Fin 16) (val : Byte) (s : State),
    (s.ctlUp = true) ∧
    (s.pow.boot ≠ .warmHeld) ∧
    (s.pow.fwUp = true) ∧
    (s.kodErr true (kodSet .firmware 0x3020 f.val 1 1 0 val.toNat) = none) ∧
    (ownerOf (val.toNat &&& 0x8F) ≠ s.owner f.val) :=
  ⟨1, 0x81, { pow := { boot := .service, fwUp := true }, kod := { run := [(kodKey 0x3001 1, 1), (kodKey 0x3001 2, 2), (kodKey 0x3020 0, 0x80), (kodKey 0x3020 1, 0x80), (kodKey 0x3020 2, 0x80)] } }, by decide +kernel⟩

theorem wit_FurlongMoves_2 : ∃ (f : Fin 16) (m : Move) (s : State),
    (s.moves.find? (fun x => x.f == f.val && x.step == 1) = some m) ∧
    (m.from_ + 1000 * s.kodRun (0x5000 + m.src) 6 ≤ s.btime.toNat) ∧
    (s.groupsOnFurlong f.val = []) ∧
    ((List.range 17).all (fun c => (s.core (coreIdx f.val c)).sb.isEmpty) = true) :=
  ⟨1, { f := 1, src := 0, dst := some 1, from_ := 0, step := 1, byManager := true }, { moves := [{ f := 1, src := 0, dst := some 1, from_ := 0, step := 1, byManager := true }], btime := 1000000000 }, by decide +kernel⟩

theorem wit_FurlongMoves_3 : ∃ (f : Fin 16) (m : Move) (x : Group) (s : State),
    (s.moves.find? (fun x => x.f == f.val && x.step == 1) = some m) ∧
    (m.from_ + 1000 * s.kodRun (0x5000 + m.src) 6 ≤ s.btime.toNat) ∧
    (s.groupsOnFurlong f.val = [x]) ∧
    (s.group? x.cid x.g = some x) ∧
    (x.saving = false) ∧
    (s.recordFits x = true) :=
  ⟨1, { f := 1, src := 0, dst := some 1, from_ := 0, step := 1, byManager := true }, { onCore0 with core := some 17 }, { kernelState with groups := [{ onCore0 with core := some 17 }], cores := [(17, { chains := [(0, runner)] })], moves := [{ f := 1, src := 0, dst := some 1, from_ := 0, step := 1, byManager := true }], btime := 1000000000 }, by and_intros <;> decide +kernel⟩

theorem wit_FurlongMoves_4 : ∃ (f : Fin 16) (m : Move) (s : State),
    (s.moves.find? (fun x => x.f == f.val && x.step == 1) = some m) ∧
    (s.btime.toNat < m.from_ + 1000 * s.kodRun (0x5000 + m.src) 6) :=
  ⟨1, { f := 1, src := 0, dst := some 1, from_ := 0, step := 1, byManager := true }, { moves := [{ f := 1, src := 0, dst := some 1, from_ := 0, step := 1, byManager := true }], kod := { run := [(kodKey 0x5000 6, 5)] } }, by decide +kernel⟩

theorem wit_FurlongMoves_5 : ∃ (f : Fin 16) (m : Move) (d : Nat) (s : State),
    (s.moves.find? (fun x => x.f == f.val && x.step == 2) = some m) ∧
    (m.dst = some d) :=
  ⟨1, { f := 1, src := 0, dst := some 1, from_ := 0, step := 2, byManager := true }, 1, { moves := [{ f := 1, src := 0, dst := some 1, from_ := 0, step := 2, byManager := true }] }, by decide +kernel⟩

theorem wit_FurlongMoves_6 : ∃ (a b f : Nat) (s : State),
    (s.donor = some a) ∧
    (s.recipient = some b) ∧
    ((s.furlongsOf a).getLast? = some f) ∧
    (s.mgrMoved = false) ∧
    (a ≠ b) :=
  ⟨1, 0, 1, { hides := [(0, { waited := 5, busyTicks := 100, ticks := 10 }), (1, { ticks := 10 })], kod := { run := [(kodKey 0x3000 0x06, 16), (kodKey 0x3000 0x0E, 1), (kodKey 0x3001 1, 1), (kodKey 0x3001 2, 2), (kodKey 0x3001 5, 1), (kodKey 0x3001 6, 16), (kodKey 0x3001 0x0E, 1), (kodKey 0x3020 0, 0x81), (kodKey 0x3020 1, 0x81)] } }, by decide +kernel⟩

theorem wit_FurlongMoves_7 : ∃ (s : State),
    (s.donor = none ∨ s.recipient = none ∨ s.mgrMoved = true) :=
  ⟨{}, by decide +kernel⟩

theorem wit_FurlongMoves_8 : ∃ (ctx : Fin 16384) (s : State),
    (s.ctxLive ctx.val = true) ∧
    ((s.ctx ctx.val).fenced = true) ∧
    (s.fenceQuiet ctx.val = true) :=
  ⟨3, { live := [3], ctxs := [(3, { fenced := true })] }, by decide +kernel⟩

theorem wit_FurlongMoves_9 : ∃ (ctx : Fin 16384) (s : State),
    (s.ctxLive ctx.val = true) ∧
    ((s.ctx ctx.val).fenced = true) ∧
    (s.fenceQuiet ctx.val = true) ∧
    ((s.ctx ctx.val).recovering = false) ∧
    (s.ctxCmds ctx.val = []) :=
  ⟨3, { live := [3], ctxs := [(3, { fenced := true })] }, by decide +kernel⟩

theorem wit_SpansGrainsDeadlock_1 : ∃ (h : Fin 8) (s : State),
    (s.btime.toNat % (1000 * (s.hide h.val).spanLen) < 1000) ∧
    (s.spanNow h.val = 0) ∧
    ((s.activateTable h.val).spanWaits h.val = []) :=
  ⟨0, {}, by decide +kernel⟩

theorem wit_SpansGrainsDeadlock_2 : ∃ (h : Fin 8) (s : State),
    (1000 ≤ s.btime.toNat % (1000 * (s.hide h.val).spanLen)) :=
  ⟨0, { btime := 1000 }, by decide +kernel⟩

theorem wit_SpansGrainsDeadlock_3 : ∃ (s : State),
    (s.cmds = []) ∧
    (s.residents = []) :=
  ⟨{}, by decide +kernel⟩

theorem wit_SpansGrainsDeadlock_4 : ∃ (c : Cmd) (s : State),
    (c.cls = 2) ∧
    (c.ctx = 0xFFFF) :=
  ⟨{ cls := 2 }, {}, by decide +kernel⟩

theorem wit_SpansGrainsDeadlock_5 : ∃ (c : Cmd) (s : State),
    (s.cmds = [c]) ∧
    ((s.chargeCmd c).residents = []) :=
  ⟨{ cls := 2 }, { cmds := [{ cls := 2 }] }, by decide +kernel⟩

theorem wit_SpansGrainsDeadlock_6 : ∃ (h : Fin 8) (c n : Nat) (s : State),
    (s.residents.filter (fun k => (s.ctx k).hide == h.val) = [c]) :=
  ⟨0, 3, 5, { live := [3], ctxs := [(3, { resident := true })] }, by decide +kernel⟩

theorem wit_SpansGrainsDeadlock_7 : ∃ (c n : Nat) (s : State),
    (n < (s.ctx c).busy) :=
  ⟨3, 5, { ctxs := [(3, { busy := 8 })] }, by decide +kernel⟩

theorem wit_SpansGrainsDeadlock_8 : ∃ (c : Nat) (s : State),
    (s.live = [c]) :=
  ⟨3, { live := [3] }, by decide +kernel⟩

theorem wit_SpansGrainsDeadlock_9 : ∃ (ctx : Fin 16384) (s : State),
    (s.ctxLive ctx.val = true) ∧
    ((s.ctx ctx.val).resident = true) ∧
    (s.quiet ctx.val = true) ∧
    ((s.ctx ctx.val).quietSince + 1000 * s.kodRun (0x5000 + (s.ctx ctx.val).hide) 5 < s.btime.toNat) :=
  ⟨3, { placed onCore0 { cid := 1, st := .atBarrier 0 } with btime := 2000000000000, cmds := [{ kernelCmd with nextGroup := 1 }] }, by decide +kernel⟩

theorem wit_SpansGrainsDeadlock_10 : ∃ (ctx : Fin 16384) (s : State),
    (s.quiet ctx.val = false ∨ s.btime.toNat ≤ (s.ctx ctx.val).quietSince + 1000 * s.kodRun (0x5000 + (s.ctx ctx.val).hide) 5) :=
  ⟨3, {}, by decide +kernel⟩

theorem wit_EventGatherer_1 : ∃ (n : Fin 1024) (s : State),
    (s.ctlUp = true) :=
  ⟨5, up, by decide +kernel⟩

theorem wit_EventGatherer_2 : ∃ (n : Nat) (s : State),
    ((s.src n).pending = true) :=
  ⟨5, { eg := { srcs := [(5, { pending := true })] } }, by decide +kernel⟩

theorem wit_EventGatherer_3 : ∃ (n : Nat) (s : State),
    ((s.src n).pending = false) ∧
    ((s.src n).enable = true) ∧
    ((s.grp (n / 16)).tgtEn ≠ 0) ∧
    (s.inHoldOff (n / 16) = false) ∧
    (s.inCoalescing (n / 16) = false) ∧
    (n < 1008) :=
  ⟨5, { eg := { srcs := [(5, { enable := true })], mode := 0, grps := [(0, { tgtEn := 1 })] } }, by decide +kernel⟩

theorem wit_EventGatherer_4 : ∃ (w : Fin 16) (bits : W64) (s : State),
    (s.running = true) :=
  ⟨0, 5, up, by decide +kernel⟩

theorem wit_EventGatherer_6 : ∃ (w : Fin 16) (bits : W64) (s : State),
    (s.ctlUp = true) :=
  ⟨3, 5, up, by decide +kernel⟩

theorem wit_EventGatherer_7 : ∃ (g : Fin 64) (s : State),
    (s.inHoldOff g.val = true) ∧
    ((s.grp g.val).latches ≠ 0) ∧
    ((s.grp g.val).first + 1000 * max 1 (s.grp g.val).holdUs ≤ s.btime.toNat) :=
  ⟨0, { eg := { mode := 0, grps := [(0, { hold := true, latches := 1 })] }, btime := 100000000 }, by decide +kernel⟩

theorem wit_EventGatherer_8 : ∃ (g : Fin 64) (s : State),
    (s.inCoalescing g.val = true) ∧
    ((s.grp g.val).latches ≠ 0) ∧
    ((s.grp g.val).coalTime ≠ 0) ∧
    ((s.grp g.val).first + 1000 * (s.grp g.val).coalTime ≤ s.btime.toNat) :=
  ⟨0, { eg := { mode := 0, grps := [(0, { hold := false, coalTime := 5, latches := 1 })] }, btime := 100000000 }, by decide +kernel⟩

theorem wit_EventGatherer_9 : ∃ (g : Fin 64) (s : State),
    ((s.grp g.val).latches = 0) :=
  ⟨0, {}, by decide +kernel⟩

theorem wit_EventGatherer_10 : ∃ (t : Fin 4) (n : Nat) (s : State),
    (s.ctlUp = true) ∧
    (s.bestSource t.val = some n) :=
  ⟨0, 5, { up with eg := { srcs := [(5, { pending := true, enable := true, presented := true })] } }, by decide +kernel⟩

theorem wit_EventGatherer_11 : ∃ (t n m : Nat) (s : State),
    (s.bestSource t = some n) ∧
    (s.eligible t m = true) ∧
    (m ∈ s.eg.srcs.map (fun e => e.1)) ∧
    (twf s.eg.srcs = true) :=
  ⟨0, 5, 5, { up with eg := { srcs := [(5, { pending := true, enable := true, presented := true })] } }, by decide +kernel⟩

theorem wit_EventGatherer_12 : ∃ (t : Fin 4) (s : State),
    (s.ctlUp = true) ∧
    (s.bestSource t.val = none) :=
  ⟨0, up, by decide +kernel⟩

theorem wit_EventGatherer_13 : ∃ (t : Fin 4) (src : BitVec 10) (l : Nat) (rest : List (Nat × Nat)) (s : State),
    (s.ctlUp = true) ∧
    ((s.tgt t.val).stack = (src.toNat, l) :: rest) :=
  ⟨0, 5, 2, [], { up with eg := { tgts := [(0, { stack := [(5, 2)] })] } }, by decide +kernel⟩

theorem wit_EventGatherer_14 : ∃ (t : Fin 4) (src : BitVec 10) (s : State),
    (s.ctlUp = true) ∧
    ((∀ e ∈ (s.tgt t.val).stack.head?, e.1 ≠ src.toNat)) :=
  ⟨0, 5, up, by and_intros <;> decide +kernel⟩

theorem wit_WatermarksAndMailboxes_1 : ∃ (n : Fin 512) (s : State),
    (s.ctlUp = true) ∧
    (n.val < 272) :=
  ⟨5, up, by decide +kernel⟩

theorem wit_WatermarksAndMailboxes_2 : ∃ (n : Fin 512) (s : State),
    (s.running = true) ∧
    ((s.fn 0).resetting = false) ∧
    (n.val < 272) :=
  ⟨5, up, by and_intros <;> decide +kernel⟩

theorem wit_WatermarksAndMailboxes_3 : ∃ (n : Fin 512) (host : Bool) (s : State),
    (s.running = true) ∧
    (272 ≤ n.val) :=
  ⟨300, true, {}, by and_intros <;> decide +kernel⟩

theorem wit_WatermarksAndMailboxes_4 : ∃ (ch : Fin 16) (trust : Bool) (v : W64) (s : State),
    (s.running = true) ∧
    ((s.fn 0).resetting = false) ∧
    (8 ≤ ch.val ∨ trust = true) ∧
    ((s.box ch.val).inFull = false) :=
  ⟨9, false, 5, up, by and_intros <;> decide +kernel⟩

theorem wit_WatermarksAndMailboxes_5 : ∃ (ch : Fin 16) (trust : Bool) (v : W64) (s : State),
    (s.running = true) ∧
    ((s.fn 0).resetting = false) ∧
    (8 ≤ ch.val ∨ trust = true) ∧
    ((s.box ch.val).inFull = true) :=
  ⟨9, false, 5, { up with boxes := [(9, { inFull := true })] }, by and_intros <;> decide +kernel⟩

theorem wit_WatermarksAndMailboxes_6 : ∃ (ch : Fin 16) (v : W64) (s : State),
    (s.ctlUp = true) :=
  ⟨3, 5, up, by decide +kernel⟩

theorem wit_WatermarksAndMailboxes_7 : ∃ (ch : Fin 16) (s : State),
    (s.running = true) ∧
    ((s.fn 0).resetting = false) ∧
    ((s.box ch.val).outFull = true) :=
  ⟨3, { up with boxes := [(3, { outFull := true })] }, by and_intros <;> decide +kernel⟩

theorem wit_WatermarksAndMailboxes_8 : ∃ (ch : Fin 16) (v : W64) (s : State),
    (s.running = true) ∧
    ((s.fn 0).resetting = false) ∧
    (ch.val < 8) :=
  ⟨3, 5, up, by and_intros <;> decide +kernel⟩

theorem wit_HangsAndResets_1 : ∃ (cid : Nat) (c : Cmd) (s : State),
    (s.cmd? cid = some c) ∧
    (c.started = true ∧ c.tOn = true ∧ c.phase ≠ .stopping ∧ c.stage = none) ∧
    (s.cmdFrozen c = false) ∧
    (s.cmdHeld c = false) ∧
    (1000 * s.classWindow c.hide c.cls ≤ s.timerOf c) :=
  ⟨1, { cid := 1, d0 := 0x30, ctx := 3, phase := .running, dispAt := 1, tOn := true, nextGroup := 1 }, { cmds := [{ cid := 1, d0 := 0x30, ctx := 3, phase := .running, dispAt := 1, tOn := true, nextGroup := 1 }], live := [3], ctxs := [(3, { resident := true })], hides := [(0, { started := true })], btime := 100000000000000 }, by decide +kernel⟩

theorem wit_HangsAndResets_2 : ∃ (cid : Nat) (c : Cmd) (s : State),
    (s.cmd? cid = some c) ∧
    (s.timerOf c < 1000 * s.classWindow c.hide c.cls) :=
  ⟨1, { cid := 1 }, { cmds := [{ cid := 1 }] }, by decide +kernel⟩

theorem wit_HangsAndResets_3 : ∃ (cid : Nat) (c : Cmd) (s : State),
    (s.cmd? cid = some c) ∧
    (c.ctx ≠ 0xFFFF ∧ (s.ctx c.ctx).deadline ≠ 0 ∧ c.phase ≠ .stopping ∧ c.phase ≠ .ended ∧ c.stage = none) ∧
    (c.accAt + 1000 * (s.ctx c.ctx).deadline ≤ s.btime.toNat) :=
  ⟨1, { cid := 1, ctx := 3 }, { cmds := [{ cid := 1, ctx := 3 }], live := [3], ctxs := [(3, { deadline := 5 })], btime := 100000000 }, by decide +kernel⟩

theorem wit_HangsAndResets_4 : ∃ (cid : Nat) (c : Cmd) (s : State),
    (s.cmd? cid = some c) ∧
    (c.phase = .stopping) ∧
    (s.cmdQuiet cid = false) ∧
    (c.stopAt + 2000 ≤ s.btime.toNat) :=
  ⟨1, { cid := 1, ctx := 3, phase := .stopping }, { cmds := [{ cid := 1, ctx := 3, phase := .stopping }], cores := [(0, { sb := [storeEnt] })], btime := 5000 }, by and_intros <;> decide +kernel⟩

theorem wit_HangsAndResets_5 : ∃ (h : Fin 8) (t : Nat) (s : State),
    ((s.hide h.val).recovery = true) ∧
    ((s.hide h.val).fenceFrom = some t) ∧
    (t + 2000 ≤ s.btime.toNat) ∧
    (s.groupsLeft h.val = false) :=
  ⟨0, 0, { hides := [(0, { recovery := true, fenceFrom := some 0 })], btime := 5000 }, by and_intros <;> decide +kernel⟩

theorem wit_HangsAndResets_6 : ∃ (h : Fin 8) (t : Nat) (s : State),
    ((s.hide h.val).recovery = true) ∧
    ((s.hide h.val).fenceFrom = some t) ∧
    (t + 2000 ≤ s.btime.toNat) ∧
    (s.groupsLeft h.val = true) :=
  ⟨0, 0, { placed onCore0 runner with hides := [(0, { recovery := true, fenceFrom := some 0 })], btime := 5000 }, by and_intros <;> decide +kernel⟩

theorem wit_HangsAndResets_7 : ∃ (h : Fin 8) (t : Nat) (s : State),
    ((s.hide h.val).recovery = true) ∧
    ((s.hide h.val).fenceFrom = some t) ∧
    (s.btime.toNat < t + 2000) :=
  ⟨0, 0, { hides := [(0, { recovery := true, fenceFrom := some 0 })], btime := 1999 }, by and_intros <;> decide +kernel⟩

theorem wit_HangsAndResets_8 : ∃ (h : Nat) (p : Cmd → Bool) (c : Cmd) (s : State),
    (s.cmds = [c]) ∧
    (p c = true) :=
  ⟨0, fun _ => true, {}, { cmds := [{}] }, by and_intros <;> decide +kernel⟩

theorem wit_HangsAndResets_9 : ∃ (h : Fin 8) (trigger : Fin 5) (f : Nat) (s : State),
    (s.hideExists h.val = true) ∧
    ((s.hide h.val).started = true) ∧
    ((s.hide h.val).recovery = false) ∧
    ((s.furlongsOf h.val).head? = some f) :=
  ⟨0, 2, 0, { hides := [(0, { started := true })] }, by decide +kernel⟩

theorem wit_HangsAndResets_10 : ∃ (h : Fin 8) (trigger : Fin 5) (s : State),
    ((s.hide h.val).recovery = true) :=
  ⟨0, 2, { hides := [(0, { recovery := true })] }, by decide +kernel⟩

theorem wit_HangsAndResets_11 : ∃ (h : Fin 8) (l : List (Fin 272)) (s : State),
    ((s.hide h.val).recovery = true) ∧
    (s.noGroups h.val = true) :=
  ⟨0, [], { hides := [(0, { recovery := true })] }, by decide +kernel⟩

theorem wit_HangsAndResets_12 : ∃ (h core : Nat) (s : State),
    ((s.core core).failed = false) ∧
    ((s.core core).suspect = true) ∧
    ((s.core core).passes = []) ∧
    ((s.core core).suspects < 3) :=
  ⟨0, 5, { cores := [(5, { suspect := true })] }, by decide +kernel⟩

theorem wit_HangsAndResets_13 : ∃ (h core : Nat) (fails : Bool) (s : State),
    ((s.core core).failed = true) :=
  ⟨0, 5, true, { cores := [(5, { failed := true })] }, by decide +kernel⟩

theorem wit_HangsAndResets_14 : ∃ (h : Fin 8) (s : State),
    ((s.hide h.val).recKind = 1) ∧
    (s.noGroups h.val = true) ∧
    ((s.hideCores h.val).all (fun i => !(s.core i).failed && !(s.core i).suspect) = true) :=
  ⟨0, { hides := [(0, { recovery := true, recKind := 1 })] }, by decide +kernel⟩

theorem wit_HangsAndResets_15 : ∃ (h : Fin 8) (s : State),
    ((s.hide h.val).recKind = 1) ∧
    ((s.hide h.val).recFrom + 60000 ≤ s.btime.toNat) :=
  ⟨0, { hides := [(0, { recovery := true, recKind := 1 })], btime := 60000 }, by decide +kernel⟩

theorem wit_FullHideReset_1 : ∃ (h trigger : Nat) (s : State),
    ((s.hide h).recKind = 2) :=
  ⟨0, 1, { hides := [(0, { recKind := 2 })] }, by decide +kernel⟩

theorem wit_FullHideReset_2 : ∃ (h : Nat) (s : State),
    ((s.hide h).recKind ≠ 2) ∧
    (s.pow.zeroised = false) ∧
    (s.live = []) ∧
    (h < 8) :=
  ⟨0, {}, by decide +kernel⟩

theorem wit_FullHideReset_3 : ∃ (h : Fin 8) (s : State),
    ((s.hide h.val).recKind = 2) ∧
    ((s.hide h.val).fullStep = 1) ∧
    (s.pow.entropy = true) ∧
    (s.kodRun (0x3000 + h.val) 0x0D ≠ 1) :=
  ⟨0, { hides := [(0, { recKind := 2, fullStep := 1 })], pow := { entropy := true }, kod := { run := [(kodKey 0x3000 0x0D, 0)] } }, by decide +kernel⟩

theorem wit_FullHideReset_4 : ∃ (h : Fin 8) (s : State),
    ((s.hide h.val).recKind = 2) ∧
    ((s.hide h.val).fullStep = 1) ∧
    (s.pow.entropy = true) ∧
    (s.kodRun (0x3000 + h.val) 0x0D = 1) :=
  ⟨0, { hides := [(0, { recKind := 2, fullStep := 1 })], pow := { entropy := true }, kod := { run := [(kodKey 0x3000 0x0D, 1)] } }, by decide +kernel⟩

theorem wit_FullHideReset_5 : ∃ (h : Fin 8) (s : State),
    (s.pow.entropy = false) :=
  ⟨0, {}, by decide +kernel⟩

theorem wit_FullHideReset_7 : ∃ (h : Fin 8) (s : State),
    ((s.hide h.val).recKind = 2) ∧
    ((s.hide h.val).fullStep = 2) ∧
    ((s.portsOfHide h.val).all (fun p => (tget s.sports p {}).ready) = true) :=
  ⟨0, { hides := [(0, { recKind := 2, fullStep := 2 })], kod := { run := [(kodKey 0x3000 2, 0)] } }, by decide +kernel⟩

theorem wit_FullHideReset_8 : ∃ (h : Nat) (s : State),
    (h < 8) :=
  ⟨0, {}, by decide +kernel⟩

theorem wit_DictionaryRequests_1 : ∃ (r : KodReq) (s : State),
    (serves s r.src) ∧
    (s.kodErr false r = none) :=
  ⟨{ src := .firmware, prof := 7, idx := 0x1000, sub := 1, ty := 2, len := 2, off := 0, data := [] }, inService, by decide +kernel⟩

theorem wit_DictionaryRequests_2 : ∃ (r : KodReq) (code : Nat) (s : State),
    (serves s r.src) ∧
    (s.kodErr false r = some code) :=
  ⟨{ src := .firmware, prof := 7, idx := 0, sub := 1, ty := 2, len := 2, off := 0, data := [] }, 0x10, inService, by decide +kernel⟩

theorem wit_DictionaryRequests_3 : ∃ (wr : Bool) (r : KodReq) (s : State),
    (r.prof < 4 ∨ r.prof = 7) ∧
    (kodEntry r.idx r.sub = none) :=
  ⟨true, { src := .firmware, prof := 7, idx := 0, sub := 1, ty := 2, len := 2, off := 0, data := [] }, {}, by decide +kernel⟩

theorem wit_DictionaryRequests_4 : ∃ (r : KodReq) (e : KodEnt) (code : Nat) (s : State),
    (serves s r.src) ∧
    (kodEntry r.idx r.sub = some e) ∧
    (s.kodErr true r = some code) ∧
    (r.ty < 7) :=
  ⟨{ src := .firmware, prof := 7, idx := 0x1000, sub := 1, ty := 2, len := 2, off := 0, data := [5, 6] }, { ty := 2, size := 2, acc := 0, hi := 65535, mask := 65535 }, 0x11, inService, by decide +kernel⟩

theorem wit_DictionaryRequests_5 : ∃ (r : KodReq) (e : KodEnt) (s : State),
    (serves s r.src) ∧
    (kodEntry r.idx r.sub = some e) ∧
    (s.kodErr true r = none) ∧
    (e.ty < 7) :=
  ⟨{ src := .firmware, prof := 7, idx := 0x4000, sub := 1, ty := 2, len := 2, off := 0, data := [0x2C, 1] }, { ty := 2, size := 2, acc := 2, persist := true, lo := 250, hi := 1050, mask := 65535 }, inService, by decide +kernel⟩

theorem wit_DictionaryRequests_6 : ∃ (r : KodReq) (e : KodEnt) (s : State),
    (kodEntry r.idx r.sub = some e) ∧
    (e.persist = true ∧ e.kind = 0 ∧ e.ty < 7 ∧ e.acc = 2) ∧
    (r.prof = 7) ∧
    (0x5010 ≤ r.idx ∧ r.idx < 0x6000) :=
  ⟨{ src := .firmware, prof := 7, idx := 0x5010, sub := 1, ty := 1, len := 1, off := 0, data := [3] }, (kodEntry 0x5010 1).getD { ty := 0, size := 0, acc := 0, hi := 0, mask := 0 }, {}, by decide +kernel⟩

theorem wit_DictionaryRequests_7 : ∃ (r : KodReq) (e : KodEnt) (s : State),
    (serves s r.src) ∧
    (r.prof < 4 ∨ r.prof = 7) ∧
    (kodEntry r.idx r.sub = some e) :=
  ⟨{ src := .firmware, prof := 7, idx := 0x1000, sub := 1, ty := 2, len := 2, off := 0, data := [] }, { ty := 2, size := 2, acc := 0, hi := 65535, mask := 65535 }, inService, by decide +kernel⟩

theorem wit_DictionaryRequests_8 : ∃ (r : KodReq) (s : State),
    (s.ctlUp = true) ∧
    (s.pow.boot ≠ .warmHeld) ∧
    (s.pow.fwUp = true) ∧
    (s.kodOpen .window = true) ∧
    (r.src = .window) ∧
    (s.kod.busy = false) ∧
    ((s.fn 0).resetting = false) ∧
    (s.kodErr false r = none) :=
  ⟨{ src := .window, prof := 7, idx := 0x1000, sub := 1, ty := 2, len := 2, off := 0, data := [] }, inService, by and_intros <;> decide +kernel⟩

theorem wit_DictionaryRequests_9 : ∃ (r : KodReq) (s : State),
    (s.running = true) ∧
    (r.src = .window) ∧
    (s.kod.busy = true) :=
  ⟨{ src := .window, prof := 7, idx := 0x1000, sub := 1, ty := 2, len := 2, off := 0, data := [] }, { kod := { busy := true } }, by and_intros <;> decide +kernel⟩

theorem wit_DictionaryRequests_10 : ∃ (r : KodReq) (s : State),
    (s.ctlUp = true) ∧
    (s.pow.boot ≠ .warmHeld) ∧
    (s.pow.fwUp = false) ∧
    (s.kodOpen r.src = true) ∧
    (r.src ≠ .window) :=
  ⟨{ src := .firmware, prof := 7, idx := 0x1000, sub := 1, ty := 2, len := 2, off := 0, data := [] }, {}, by decide +kernel⟩

theorem wit_DictionaryRequests_11 : ∃ (r : KodReq) (s : State),
    (s.running = false) :=
  ⟨{ src := .firmware, prof := 7, idx := 0x1000, sub := 1, ty := 2, len := 2, off := 0, data := [] }, { pow := { boot := .off } }, by decide +kernel⟩

theorem wit_DictionaryRequests_12 : ∃ (e : Byte) (s : State),
    (s.ctlUp = true) :=
  ⟨5, {}, by decide +kernel⟩

theorem wit_ProfilesImagesAndStores_1 : ∃ (src : KodSrc) (val : Byte) (s : State),
    (serves s src) ∧
    (s.kodErr true (kodSet src 0x2000 2 1 1 0 val.toNat) = none) :=
  ⟨.firmware, 1, inService, by decide +kernel⟩

theorem wit_ProfilesImagesAndStores_2 : ∃ (src : KodSrc) (val : W16) (s : State),
    (serves s src) ∧
    (s.kodErr true (kodSet src 0x2000 6 2 2 0 val.toNat) = none) :=
  ⟨.firmware, 0x100, inService, by decide +kernel⟩

theorem wit_ProfilesImagesAndStores_3 : ∃ (src : KodSrc) (off : Nat) (data : List Byte) (s : State),
    (serves s src) ∧
    (s.kodErr true { kodSet src 0x1040 1 8 data.length off 0 with data := data } = none) :=
  ⟨.firmware, 4, [1, 2], inService, by decide +kernel⟩

theorem wit_ProfilesImagesAndStores_4 : ∃ (src : KodSrc) (crc : W32) (s : State),
    (serves s src) ∧
    (s.kodErr true (kodSet src 0x1040 2 3 4 0 crc.toNat) = none) :=
  ⟨.firmware, 7, inService, by decide +kernel⟩

theorem wit_ProfilesImagesAndStores_5 : ∃ (crc : Nat) (s : State),
    (stagedBytes s.kod.fwStage ≠ []) ∧
    ((crc32 (stagedBytes s.kod.fwStage)).toNat = crc) ∧
    (s.kod.fwRun = 0) :=
  ⟨(crc32 [1]).toNat, { kod := { fwStage := [(0, 1)] } }, by decide +kernel⟩

theorem wit_ProfilesImagesAndStores_6 : ∃ (src : KodSrc) (h : Fin 8) (off : Nat) (data : List Byte) (s : State),
    (serves s src) ∧
    (s.kodErr true { kodSet src (0x3030 + h.val) 1 8 data.length off 0 with data := data } = none) :=
  ⟨.firmware, 0, 4, [1, 2], inService, by decide +kernel⟩

theorem wit_ProfilesImagesAndStores_7 : ∃ (src : KodSrc) (h : Fin 8) (val : W32) (s : State),
    (serves s src) ∧
    (s.kodErr true (kodSet src (0x3030 + h.val) 2 3 4 0 val.toNat) = none) :=
  ⟨.firmware, 0, 7, inService, by decide +kernel⟩

theorem wit_ProfilesImagesAndStores_8 : ∃ (src : KodSrc) (h : Fin 8) (s : State),
    (serves s src) ∧
    (s.kodErr true (kodSet src (0x3030 + h.val) 3 0 1 0 1) = none) :=
  ⟨.firmware, 0, inService, by decide +kernel⟩

theorem wit_ProfilesImagesAndStores_9 : ∃ (src : KodSrc) (h : Fin 8) (s : State),
    (serves s src) ∧
    (s.kodErr true (kodSet src (0x3000 + h.val) 0x10 1 1 0 1) = none) :=
  ⟨.firmware, 0, inService, by decide +kernel⟩

theorem wit_ProfilesImagesAndStores_10 : ∃ (src : KodSrc) (h : Fin 8) (s : State),
    (serves s src) ∧
    (s.kodErr true (kodSet src (0x3000 + h.val) 0x10 1 1 0 2) = none) :=
  ⟨.firmware, 0, inService, by decide +kernel⟩

theorem wit_ProfilesImagesAndStores_11 : ∃ (idx sub v : Nat) (s : State),
    (tfind s.kod.heldLive (kodKey idx sub) = some v) :=
  ⟨0x3000, 7, 0, { kod := { heldLive := [(kodKey 0x3000 7, 0)] } }, by decide +kernel⟩

theorem wit_ProfilesImagesAndStores_12 : ∃ (p : Nat) (s : State),
    (s.pow.fwUp = true) ∧
    (s.kod.dirty = [p]) :=
  ⟨2, { inService with kod := { dirty := [2] } }, by decide +kernel⟩

theorem wit_ProfilesImagesAndStores_13 : ∃ (p : Nat) (s : State),
    (s.pow.fwUp = true) ∧
    (s.kod.dirty = [p]) :=
  ⟨2, { inService with kod := { dirty := [2] } }, by decide +kernel⟩

theorem wit_ProfilesImagesAndStores_14 : ∃ (p : Nat) (ok : Bool) (s : State),
    (s.goodCopy p = some 0) :=
  ⟨1, true, { kod := { copies := [(2, { valid := true })] } }, by decide +kernel⟩

theorem wit_ProfilesImagesAndStores_15 : ∃ (s : State),
    (s.pow.fwUp = true) ∧
    (s.ao.jq.head ≠ s.ao.jq.tail) :=
  ⟨{ inService with ao := { jq := { tail := 1 } } }, by decide +kernel⟩

theorem wit_ProfilesImagesAndStores_16 : ∃ (s : State),
    (s.pow.fwUp = true) ∧
    (s.ao.jq.head ≠ s.ao.jq.tail) :=
  ⟨{ inService with ao := { jq := { tail := 1 } } }, by decide +kernel⟩

theorem wit_PacePowerAndSleep_1 : ∃ (p : Nat) (r : List Nat) (s : State),
    (s.running = true) ∧
    (100 * (r.foldl min p) < 103 * paceFloor) ∧
    (s.gov.avsStopped = false) :=
  ⟨1000, [1200], up, by decide +kernel⟩

theorem wit_PacePowerAndSleep_2 : ∃ (p : Nat) (r : List Nat) (s : State),
    (s.running = true) ∧
    (103 * paceFloor ≤ 100 * (r.foldl min p)) :=
  ⟨2000, [2200], up, by decide +kernel⟩

theorem wit_PacePowerAndSleep_3 : ∃ (s : State),
    (s.running = true) ∧
    (s.gov.avsStopped = false) ∧
    (s.gov.tripped = false) :=
  ⟨up, by decide +kernel⟩

theorem wit_PacePowerAndSleep_5 : ∃ (s : State),
    (s.gov.avsStopped = false) :=
  ⟨{}, by decide +kernel⟩

theorem wit_PacePowerAndSleep_6 : ∃ (s : State),
    (s.running = true) ∧
    (s.gov.avsStopped = false) :=
  ⟨up, by decide +kernel⟩

theorem wit_PacePowerAndSleep_7 : ∃ (t : Nat) (s : State),
    (s.gov.belowFrom = some t) ∧
    (s.gov.floorMiss = false) ∧
    (t + 1000 < s.btime.toNat) :=
  ⟨0, { gov := { belowFrom := some 0 }, btime := 2000 }, by decide +kernel⟩

theorem wit_PacePowerAndSleep_8 : ∃ (s : State),
    (s.gov.belowFrom = none) :=
  ⟨{}, by decide +kernel⟩

theorem wit_PacePowerAndSleep_9 : ∃ (v c st : Nat) (temp : Option Int) (s : State),
    (s.running = true) :=
  ⟨700, 5, 0, none, up, by decide +kernel⟩

theorem wit_PacePowerAndSleep_10 : ∃ (s : State),
    (s.running = true) ∧
    (s.gov.avsStopped = true) :=
  ⟨{ up with gov := { avsStopped := true } }, by decide +kernel⟩

theorem wit_PacePowerAndSleep_11 : ∃ (rest : Nat) (s : State),
    (s.running = true) ∧
    (s.kodRun 0x4000 1 < s.gov.volt * s.gov.cur / 1000 + rest) :=
  ⟨5000, up, by decide +kernel⟩

theorem wit_PacePowerAndSleep_12 : ∃ (s : State),
    (s.gov.avsStopped = false) :=
  ⟨{}, by decide +kernel⟩

theorem wit_PacePowerAndSleep_13 : ∃ (tj : Int) (s : State),
    (s.running = true) ∧
    (115 < tj) ∧
    (s.gov.tripped = false) :=
  ⟨120, up, by decide +kernel⟩

theorem wit_PacePowerAndSleep_14 : ∃ (tj : Int) (s : State),
    (s.running = true) ∧
    (tj ≤ 115) ∧
    (s.gov.tripped = false) :=
  ⟨90, up, by decide +kernel⟩

theorem wit_PacePowerAndSleep_15 : ∃ (f : Fin 16) (h : Nat) (s : State),
    (s.furlongHide f.val = some h) ∧
    (s.kodRun 0x4000 (0x0C + h) ≠ 0) ∧
    (s.kodRun (0x3000 + h) 7 = 0) ∧
    (s.groupsOnFurlong f.val = []) ∧
    ((s.hide h).acre.run = none ∧ (s.hide h).acre.pre = none) ∧
    ((s.hide h).acre.idleFrom + 1000 * s.kodRun 0x4000 (0x0C + h) < s.btime.toNat) ∧
    (s.furlongOn f.val = true) :=
  ⟨0, 0, { inService with kod := { run := [(kodKey 0x3000 7, 0), (kodKey 0x4000 0x0C, 1)] }, btime := 5000 }, by decide +kernel⟩

theorem wit_PacePowerAndSleep_16 : ∃ (f : Fin 16) (s : State),
    (f.val ∈ s.pow.waking) :=
  ⟨0, { pow := { waking := [0] } }, by decide +kernel⟩

theorem wit_AlwaysOnEntropyAndDebug_2 : ∃ (s : State),
    (s.pow.boot ≠ .off) ∧
    (s.pow.timeRefLost = false) :=
  ⟨up, by decide +kernel⟩

theorem wit_AlwaysOnEntropyAndDebug_3 : ∃ (s : State),
    (s.pow.aoUp = true) ∧
    (s.pow.boot ≠ .off) :=
  ⟨up, by decide +kernel⟩

theorem wit_AlwaysOnEntropyAndDebug_4 : ∃ (s : State),
    (s.pow.aoUp = true) :=
  ⟨{}, by decide +kernel⟩

theorem wit_AlwaysOnEntropyAndDebug_5 : ∃ (s : State),
    (s.pow.aoUp = true) ∧
    (s.pow.boot = .off ∨ s.ao.tamperAct ≠ 1) :=
  ⟨{}, by decide +kernel⟩

theorem wit_AlwaysOnEntropyAndDebug_6 : ∃ (s : State),
    (s.pow.aoUp = true) ∧
    (s.pow.boot ≠ .off) ∧
    (s.ao.tamperAct = 1) :=
  ⟨{ up with ao := { tamperAct := 1 } }, by decide +kernel⟩

theorem wit_AlwaysOnEntropyAndDebug_7 : ∃ (s : State),
    (s.running = true) :=
  ⟨up, by decide +kernel⟩

theorem wit_AlwaysOnEntropyAndDebug_8 : ∃ (s : State),
    (s.running = true) :=
  ⟨up, by decide +kernel⟩

theorem wit_AlwaysOnEntropyAndDebug_9 : ∃ (s : State),
    (s.pow.boot ≠ .off) ∧
    (s.pow.debug = 0) :=
  ⟨up, by decide +kernel⟩

theorem wit_AlwaysOnEntropyAndDebug_10 : ∃ (s : State),
    (s.pow.debug = 1) :=
  ⟨{ pow := { debug := 1 } }, by decide +kernel⟩

theorem wit_AlwaysOnEntropyAndDebug_11 : ∃ (m : Option (Fin 10)) (s : State),
    (s.pow.debug = 0) :=
  ⟨none, {}, by decide +kernel⟩

theorem wit_AlwaysOnEntropyAndDebug_12 : ∃ (m : Option (Fin 10)) (s : State),
    (s.pow.debug = 2) :=
  ⟨some 3, { pow := { debug := 2 } }, by decide +kernel⟩

theorem wit_ResetsAndStartUp_2 : ∃ (pins : BitVec 2) (s : State),
    (s.pow.boot ≠ .off) :=
  ⟨1, up, by decide +kernel⟩

theorem wit_ResetsAndStartUp_3 : ∃ (s : State),
    (s.pow.boot ≠ .off) :=
  ⟨up, by decide +kernel⟩

theorem wit_ResetsAndStartUp_5 : ∃ (a : BitVec 7) (s : State),
    (s.ctlUp = true) :=
  ⟨5, up, by decide +kernel⟩

theorem wit_ResetsAndStartUp_6 : ∃ (s : State),
    (s.running = true) ∧
    (s.pow.fwUp = false) ∧
    (s.pow.debug = 0) ∧
    (s.pow.boot = .image) :=
  ⟨{ pow := { boot := .image } }, by decide +kernel⟩

theorem wit_ResetsAndStartUp_8 : ∃ (s : State),
    (s.pow.fwUp = true ∨ s.pow.boot = .off) :=
  ⟨up, by decide +kernel⟩

theorem wit_ResetsAndStartUp_9 : ∃ (cc : Fin 4) (s : State),
    (s.running = true) ∧
    (s.pow.debug = 0) :=
  ⟨0, up, by decide +kernel⟩

theorem wit_ResetsAndStartUp_10 : ∃ (h : Fin 8) (s : State),
    (s.pow.boot = .starting ∨ s.pow.boot = .service) ∧
    (s.pow.fwUp = true) ∧
    (s.hideExists h.val = true) ∧
    ((s.hide h.val).started = false) ∧
    ((s.hide h.val).recovery = false) ∧
    ((s.portsOfHide h.val).all (fun p => (tget s.sports p {}).ready) = true) ∧
    (s.pow.entropy = true) ∧
    (s.pow.zeroised = false) :=
  ⟨0, { pow := { boot := .starting, fwUp := true, entropy := true }, sports := (List.range 12).map (fun p => (p, { ready := true })) }, by decide +kernel⟩

theorem wit_ResetsAndStartUp_11 : ∃ (h : Nat) (s : State),
    ((∀ k ∈ s.hideList, k = h ∨ (s.hide k).started = true)) ∧
    (s.hideExists h = true) :=
  ⟨0, {}, by and_intros <;> decide +kernel⟩

theorem wit_StackPortsHostAndEngines_1 : ∃ (p : Fin 12) (s : State),
    (s.hides.all (fun e => e.2.fullStep != 3) = true) :=
  ⟨0, {}, by decide +kernel⟩

theorem wit_StackPortsHostAndEngines_2 : ∃ (p : Fin 12) (h : Nat) (u : State) (s : State),
    (u = s.updSport p.val (fun x => { x with ready := true })) ∧
    (u.portHide p.val = some h) ∧
    ((u.hide h).fullStep = 3) ∧
    ((u.portsOfHide h).all (fun q => (tget u.sports q {}).ready) = true) :=
  ⟨0, 0, ({ hides := [(0, { fullStep := 3 })], kod := { run := [(kodKey 0x3000 2, 1)] } } : State).updSport 0 (fun x => { x with ready := true }), { hides := [(0, { fullStep := 3 })], kod := { run := [(kodKey 0x3000 2, 1)] } }, by decide +kernel⟩

theorem wit_StackPortsHostAndEngines_3 : ∃ (p : Fin 12) (h : Nat) (u v : State) (s : State),
    (u = s.updSport p.val (fun x => { x with ready := false })) ∧
    (u.portHide p.val = some h) ∧
    (v = ((((u.loadsOnPort h p.val).foldl (fun t l => t.loadErr l.1 l.2.1 l.2.2) u).stackRecord p.val 0 3 0).latchIn (16 + p.val))) ∧
    ((v.hide h).started = true) ∧
    ((v.hide h).fullStep ≠ 2) :=
  ⟨0, 0, _, _, onePort, rfl, by decide +kernel, rfl, by simp only [State.hide, hides_kept]; decide +kernel,
   by simp only [State.hide, hides_kept]; decide +kernel⟩

theorem wit_StackPortsHostAndEngines_5 : ∃ (p : Fin 12) (lane : Fin 16) (wack : Bool) (a : BitVec 56) (who : HostWho) (n : Nat) (s : State),
    (stackAnswers s p lane a) ∧
    (n = tget (tget s.sports p.val {}).corrected lane.val 0 + 1) :=
  ⟨0, 0, false, 0, .other, 1, {}, by and_intros <;> decide +kernel⟩

theorem wit_StackPortsHostAndEngines_6 : ∃ (p : Fin 12) (lane : Fin 16) (a : BitVec 56) (who : HostWho) (s : State),
    (stackAnswers s p lane a) :=
  ⟨0, 0, 0x500000000, .other, { kod := { run := [(kodKey 0x3000 2, 1)] } }, by decide +kernel⟩

theorem wit_StackPortsHostAndEngines_7 : ∃ (p : Fin 12) (lane : Fin 16) (wack : Bool) (resp : BitVec 2) (a : BitVec 56) (who : HostWho) (s : State),
    (s.isLocal a.toNat = true) ∧
    ((s.stackPlace (paOff a.toNat)).port ≠ p.val ∨ (s.stackPlace (paOff a.toNat)).lane ≠ lane.val) :=
  ⟨0, 0, false, 0, 0x500000400, .other, { kod := { run := [(kodKey 0x3000 2, 3)] } }, by and_intros <;> decide +kernel⟩

theorem wit_StackPortsHostAndEngines_9 : ∃ (dpa off : Nat) (d : List Byte) (s : State),
    (s.dpaOff (dpa / 64 * 64) = some off) :=
  ⟨0, ((({ kod := { run := [(kodKey 0x3010 7, 0x20)] }, hides := [(0, { key := 2 })] } : State).dpaOff 0).getD 0), [1], { kod := { run := [(kodKey 0x3010 7, 0x20)] }, hides := [(0, { key := 2 })] }, by decide +kernel⟩

theorem wit_StackPortsHostAndEngines_10 : ∃ (dpa off : Nat) (d : List Byte) (s : State),
    (s.dpaOff (dpa / 64 * 64) = some off) ∧
    (s.line (s.localPa off / 128) = {}) ∧
    ((s.heldIn (lineSlice (s.localPa off / 128))).length < 16384) ∧
    ((∀ e ∈ s.lines, e.2.queued = [])) :=
  ⟨0, ((({ kod := { run := [(kodKey 0x3010 7, 0x20)] }, hides := [(0, { key := 2 })] } : State).dpaOff 0).getD 0), [1], { kod := { run := [(kodKey 0x3010 7, 0x20)] }, hides := [(0, { key := 2 })] }, by and_intros <;> decide +kernel⟩

theorem wit_StackPortsHostAndEngines_11 : ∃ (dpa : Nat) (wr : Option (List Byte)) (s : State),
    (s.dpaOff (dpa / 64 * 64) = none) :=
  ⟨2 ^ 50, none, {}, by decide +kernel⟩

theorem wit_StackPortsHostAndEngines_13 : ∃ (e : Fin 4) (s : State),
    (s.cmds.filter (fun c => c.opcode == 0x60 && c.engine == e.val + 1 && c.onEngine) = []) :=
  ⟨0, {}, by decide +kernel⟩

theorem wit_StackPortsHostAndEngines_14 : ∃ (e : Fin 4) (c : Cmd) (s : State),
    (s.cmds.filter (fun c => c.opcode == 0x60 && c.engine == e.val + 1 && c.onEngine) = [c]) ∧
    ((s.ctx c.ctx).fenced = false) ∧
    (c.status = none) :=
  ⟨0, { cid := 1, d0 := 0x60 + 2 ^ 16, phase := .running }, { cmds := [{ cid := 1, d0 := 0x60 + 2 ^ 16, phase := .running }] }, by decide +kernel⟩

theorem wit_StackPortsHostAndEngines_15 : ∃ (e : Fin 4) (cid : Nat) (slot : Fin 16) (off n : Nat) (c : Cmd) (s : State),
    (s.cmd? cid = some c) ∧
    (cid ∈ (s.engine (e.val + 1)).cmds) ∧
    (c.engine = e.val + 1) ∧
    (n ≤ 128) ∧
    (slotCovers c slot.val off n false = true) ∧
    ((∀ l ∈ extLines c.pieces slot.val off n, s.canRead (engWho (e.val + 1)) l = true)) :=
  ⟨0, 1, 0, 0, 4, { cid := 1, d0 := 0x60 + 2 ^ 16, phase := .running, buftab := 2 ^ 128 - 1 }, { cmds := [{ cid := 1, d0 := 0x60 + 2 ^ 16, phase := .running, buftab := 2 ^ 128 - 1 }], engines := [(1, { present := true, cmds := [1] })] }, by and_intros <;> decide +kernel⟩

theorem wit_StackPortsHostAndEngines_16 : ∃ (e : Fin 4) (cid : Nat) (slot : Fin 16) (off : Nat) (d : List Byte) (c : Cmd) (s : State),
    (s.cmd? cid = some c) ∧
    (cid ∈ (s.engine (e.val + 1)).cmds) ∧
    (c.engine = e.val + 1) ∧
    (d.length ≤ 128) ∧
    (slotCovers c slot.val off d.length true = true) ∧
    (c.genAt = s.genOf c.ctx) :=
  ⟨0, 1, 0, 0, [1], { cid := 1, d0 := 0x60 + 2 ^ 16, phase := .running, buftab := 2 ^ 120 + 0x1000 * 2 ^ 64 }, { cmds := [{ cid := 1, d0 := 0x60 + 2 ^ 16, phase := .running, buftab := 2 ^ 120 + 0x1000 * 2 ^ 64 }], engines := [(1, { present := true, cmds := [1] })] }, by and_intros <;> decide +kernel⟩

theorem wit_StackPortsHostAndEngines_17 : ∃ (e : Fin 4) (cid : Nat) (slot : Fin 16) (off : Nat) (d : List Byte) (c : Cmd) (s : State),
    (s.cmd? cid = some c) ∧
    (cid ∈ (s.engine (e.val + 1)).cmds) ∧
    (c.engine = e.val + 1) ∧
    (slotCovers c slot.val off d.length true = false) :=
  ⟨0, 1, 0, 0, [1], { cid := 1, d0 := 0x60 + 2 ^ 16, phase := .running }, { cmds := [{ cid := 1, d0 := 0x60 + 2 ^ 16, phase := .running }], engines := [(1, { present := true, cmds := [1] })] }, by decide +kernel⟩

theorem wit_StackPortsHostAndEngines_18 : ∃ (cid : Nat) (s : State),
    ((s.heldBy cid).isSome = true) :=
  ⟨1, { engines := [(1, { cmds := [1] })] }, by decide +kernel⟩

theorem wit_StackPortsHostAndEngines_19 : ∃ (e : Fin 4) (ctx : Fin 16384) (s : State),
    (ctx.val ∈ (s.engine (e.val + 1)).pausing) :=
  ⟨0, 3, { engines := [(1, { pausing := [3] })] }, by decide +kernel⟩

theorem wit_StackPortsHostAndEngines_20 : ∃ (e : Fin 4) (cid t : Nat) (c : Cmd) (s : State),
    (s.cmd? cid = some c) ∧
    ((cid, t) ∈ (s.engine (e.val + 1)).aborting) ∧
    (t + 1000 * (s.engine (e.val + 1)).drainUs ≤ s.btime.toNat) :=
  ⟨0, 1, 0, { cid := 1, ctx := 3 }, { cmds := [{ cid := 1, ctx := 3 }], engines := [(1, { aborting := [(1, 0)] })] }, by decide +kernel⟩

theorem wit_LinkDiscoveryAndFlits_1 : ∃ (p : Fin 32) (s : State),
    (s.portOn p.val = true) ∧
    (s.fab.dupDown = false) ∧
    ((s.link p.val).phy = false) ∧
    (topoValid s.topo = true) :=
  ⟨0, node0 {}, by decide +kernel⟩

theorem wit_LinkDiscoveryAndFlits_2 : ∃ (p : Fin 32) (s : State),
    (s.portOn p.val = true) ∧
    (s.fab.dupDown = false) ∧
    ((s.link p.val).phy = false) ∧
    (topoValid s.topo = false) :=
  ⟨0, { node0 {} with kod := { run := [(kodKey 0x8000 3, 1)] } }, by decide +kernel⟩

theorem wit_LinkDiscoveryAndFlits_3 : ∃ (p : Fin 32) (s : State),
    ((s.link p.val).phy = true) ∧
    (s.portOn p.val = true) ∧
    (s.fab.dupDown = false) :=
  ⟨0, node0 { phy := true }, by decide +kernel⟩

theorem wit_LinkDiscoveryAndFlits_4 : ∃ (p : Nat) (st : LkSt) (s : State),
    ((s.link p).st ≠ .up) :=
  ⟨0, .hello, {}, by decide +kernel⟩

theorem wit_LinkDiscoveryAndFlits_5 : ∃ (p : Fin 32) (s : State),
    ((s.link p.val).phy = true) ∧
    ((s.link p.val).st ≠ .down) :=
  ⟨0, node0 { phy := true, st := .hello }, by decide +kernel⟩

theorem wit_LinkDiscoveryAndFlits_6 : ∃ (p : Fin 32) (n : BitVec 14) (q : Fin 32) (crc : W32) (s : State),
    ((s.link p.val).phy = true) ∧
    ((s.link p.val).st = .hello ∨ (s.link p.val).st = .miswired) ∧
    (crc.toNat = nbits s.topo 191 160) ∧
    (topoPeer s.topo s.nodeId p.val = some (n.toNat, q.val)) :=
  ⟨0, 1, 1, BitVec.ofNat 32 (nbits topo2 191 160), node0 { phy := true, st := .hello }, by decide +kernel⟩

theorem wit_LinkDiscoveryAndFlits_7 : ∃ (p : Fin 32) (n : BitVec 14) (q : Fin 32) (crc : W32) (s : State),
    ((s.link p.val).phy = true) ∧
    ((s.link p.val).st = .hello ∨ (s.link p.val).st = .up) ∧
    (crc.toNat ≠ nbits s.topo 191 160 ∨ topoPeer s.topo s.nodeId p.val ≠ some (n.toNat, q.val)) :=
  ⟨0, 1, 3, BitVec.ofNat 32 (nbits topo2 191 160), node0 { phy := true, st := .hello }, by decide +kernel⟩

theorem wit_LinkDiscoveryAndFlits_8 : ∃ (p n q : Nat) (s : State),
    ((s.link p).st = .hello) ∧
    (p < 32) :=
  ⟨0, 1, 1, node0 { phy := true, st := .hello }, by decide +kernel⟩

theorem wit_LinkDiscoveryAndFlits_9 : ∃ (p : Fin 32) (r : LmRec) (s : State),
    ((s.link p.val).st = .up) ∧
    (r.node ≠ s.nodeId) ∧
    ((tfind s.fab.map r.node).all (fun o => seqNewer r.seq o.seq) = true) :=
  ⟨0, { node := 1 }, node0 { phy := true, st := .up }, by decide +kernel⟩

theorem wit_LinkDiscoveryAndFlits_10 : ∃ (p : Fin 32) (r o : LmRec) (s : State),
    (r.node ≠ s.nodeId) ∧
    (tfind s.fab.map r.node = some o) ∧
    (seqNewer r.seq o.seq = false) :=
  ⟨0, { node := 1 }, { node := 1 }, { fab := { map := [(1, { node := 1 })] } }, by decide +kernel⟩

theorem wit_LinkDiscoveryAndFlits_11 : ∃ (p : Fin 32) (v : BitVec 2048) (bad : Bool) (s : State),
    ((s.link p.val).st = .up) ∧
    (bad = true ∨ (crc32 (leBytes 252 v.toNat)).toNat ≠ nbits v.toNat 2047 2016) :=
  ⟨0, 0, true, node0 { phy := true, st := .up }, by decide +kernel⟩

theorem wit_LinkDiscoveryAndFlits_12 : ∃ (p : Fin 32) (v : BitVec 2048) (s : State),
    ((s.link p.val).st = .up) ∧
    ((crc32 (leBytes 252 v.toNat)).toNat = nbits v.toNat 2047 2016) :=
  by
    obtain ⟨v, h⟩ := flit_ok
    exact ⟨0, v, node0 { phy := true, st := .up }, by decide +kernel, h⟩

theorem wit_LinkDiscoveryAndFlits_13 : ∃ (p v : Nat) (s : State),
    ((s.link p).st = .up) ∧
    (nbit v 64 = false) ∧
    (nbit v 65 = false) ∧
    (nbits v 11 0 = (s.link p).rxSeq.toNat) :=
  ⟨0, 0, node0 { phy := true, st := .up }, by and_intros <;> decide +kernel⟩

theorem wit_LinkDiscoveryAndFlits_14 : ∃ (n room v : Nat),
    (16 ≤ room) ∧
    (v % 256 ≠ 0) ∧
    ((parseHeader v).len ≤ 128) ∧
    (16 + (parseHeader v).len ≤ room) ∧
    (kindBuffered (parseHeader v).kind.toNat = true) :=
  ⟨0, 240, 1, by and_intros <;> decide +kernel⟩

theorem wit_LinkDiscoveryAndFlits_15 : ∃ (a b : List (Nat × List LMsg)) (e : Nat × List LMsg),
    ((∀ x ∈ a, x.1 ≠ e.1)) :=
  ⟨[(0, [])], [(2, [])], (1, []), by decide +kernel⟩

theorem wit_LinkDiscoveryAndFlits_16 : ∃ (p : Fin 32) (s : State),
    ((s.link p.val).st = .up) ∧
    ((s.link p.val).retry ≠ []) ∧
    ((s.link p.val).ackAt + 100000 ≤ s.btime.toNat) :=
  ⟨0, { node0 { phy := true, st := .up, retry := [(0, [])] } with btime := 100000 }, by decide +kernel⟩

theorem wit_FabricRoutes_1 : ∃ (s : State),
    (s.fab.state = 1) ∧
    (s.fab.mapAt + 10000000 ≤ s.btime.toNat) :=
  ⟨{ fab := { state := 1 }, btime := 10000000 }, by decide +kernel⟩

theorem wit_FabricRoutes_2 : ∃ (s : State),
    (s.btime.toNat < s.fab.mapAt + 10000000) :=
  ⟨{}, by decide +kernel⟩

theorem wit_FabricRoutes_3 : ∃ (lv : Tbl Nat) (a b : Nat),
    (a ≠ b) :=
  ⟨[], 0, 1, by decide +kernel⟩

theorem wit_FabricRoutes_4 : ∃ (crc : W32) (s : State),
    (s.fab.computed = some (crc, [])) ∧
    (s.fab.next = []) ∧
    (s.mapNodes = [s.nodeId]) ∧
    (s.fab.reqs = []) ∧
    (s.lines = []) :=
  ⟨0, { fab := { computed := some (0, []) } }, by decide +kernel⟩

theorem wit_FabricRoutes_5 : ∃ (crc : W32) (table : Tbl Nat) (u : State) (s : State),
    (s.fab.computed = some (crc, table)) ∧
    ((∀ e ∈ s.fab.next, (tfind table e.1).isSome = true)) ∧
    ((∀ e ∈ table, (tfind s.fab.next e.1).isSome = true)) ∧
    (u = { s with fab := { s.fab with computed := none, placed := some (crc, table), heldReady := [], readyCount := 0, next := if s.fab.wasReady then s.fab.next else table, mapCrc := if s.fab.wasReady then s.fab.mapCrc else crc } }) :=
  ⟨0, [], { fab := { computed := none, placed := some (0, []), next := [], mapCrc := 0 } }, { fab := { computed := some (0, []) } }, by and_intros <;> decide +kernel⟩

theorem wit_FabricRoutes_6 : ∃ (r : RReq) (s : State),
    (s.fab.reqs = [r]) ∧
    (s.leftMap r.node = true) :=
  ⟨reqKind 7, { fab := { reqs := [reqKind 7] } }, by and_intros <;> decide +kernel⟩

theorem wit_FabricRoutes_7 : ∃ (p : Fin 32) (crc : W32) (n : Nat) (table : Tbl Nat) (s : State),
    ((s.link p.val).st = .up) ∧
    (s.fab.placed = some (crc, table)) :=
  ⟨0, 5, 1, [], { node0 { phy := true, st := .up } with fab := { links := [(0, { st := .up })], placed := some (5, []) } }, by decide +kernel⟩

theorem wit_FabricRoutes_8 : ∃ (p : Fin 32) (crc own : W32) (n : Nat) (table : Tbl Nat) (s : State),
    (s.fab.placed = some (own, table)) ∧
    (own ≠ crc) :=
  ⟨0, 5, 6, 1, [], { fab := { placed := some (6, []) } }, by decide +kernel⟩

theorem wit_FabricRoutes_9 : ∃ (p : Fin 32) (crc : W32) (n : Nat) (s : State),
    ((s.link p.val).st = .up) ∧
    (s.fab.placed = none) ∧
    (s.fab.state ≠ 3) :=
  ⟨0, 5, 1, node0 { st := .up }, by decide +kernel⟩

theorem wit_FabricRoutes_10 : ∃ (crc : W32) (table : Tbl Nat) (n : Nat) (s : State),
    (s.mapRoot = s.nodeId) :=
  ⟨0, [], 1, {}, by decide +kernel⟩

theorem wit_FabricRoutes_11 : ∃ (p : Fin 32) (crc : W32) (table : Tbl Nat) (s : State),
    ((s.link p.val).st = .up) ∧
    (s.fab.placed = some (crc, table)) :=
  ⟨0, 5, [], { node0 {} with fab := { links := [(0, { st := .up })], placed := some (5, []) } }, by decide +kernel⟩

theorem wit_FabricRoutes_13 : ∃ (p : Fin 32) (crc : W32) (s : State),
    (s.fab.placed = none) :=
  ⟨0, 5, {}, by decide +kernel⟩

theorem wit_FabricRoutes_14 : ∃ (s : State),
    (s.fab.oldNext.isSome = true) ∧
    (s.fab.goAt + 10000000 ≤ s.btime.toNat) :=
  ⟨{ fab := { oldNext := some [] }, btime := 10000000 }, by decide +kernel⟩

theorem wit_FabricRoutes_15 : ∃ (tag : W16) (r : RReq) (s : State),
    (s.reqOf tag = some r) ∧
    (r.waits = false) ∧
    (r.at_ + 1000 * s.kodRun 0x8000 4 ≤ s.btime.toNat) :=
  ⟨0, { tag := 0, node := 1, kind := 1, core := none, chan := none, cid := 0, ctx := 0, at_ := 0, addr := 0, epoch := false, msg := {} }, { fab := { reqs := [{ tag := 0, node := 1, kind := 1, core := none, chan := none, cid := 0, ctx := 0, at_ := 0, addr := 0, epoch := false, msg := {} }] }, btime := 2 ^ 60 }, by decide +kernel⟩

theorem wit_FabricRoutes_16 : ∃ (tag : W16) (r : RReq) (s : State),
    (s.reqOf tag = some r) ∧
    (r.waits = true) ∧
    (r.timed = false) :=
  ⟨0, { tag := 0, node := 1, kind := 7, core := none, chan := none, cid := 0, ctx := 0, at_ := 0, addr := 0, epoch := false, msg := {} }, { fab := { next := [(1, 1)], links := [(0, { st := .up, peer := 1, peerPort := 1 })], map := [(0, { node := 0, links := [(0, 1, 1)] }), (1, { node := 1, links := [(1, 0, 0)] })], reqs := [{ tag := 0, node := 1, kind := 7, core := none, chan := none, cid := 0, ctx := 0, at_ := 0, addr := 0, epoch := false, msg := {} }] }, btime := 2 ^ 60 }, by and_intros <;> decide +kernel⟩

theorem wit_RemoteRequests_1 : ∃ (p : Fin 32) (m : LMsg) (s : State),
    (arrived s p.val m 1) ∧
    (mayServe (s.takeRx p.val m) m) :=
  ⟨0, msgOf 1, received (msgOf 1), by decide +kernel⟩

theorem wit_RemoteRequests_2 : ∃ (p : Fin 32) (m : LMsg) (s : State),
    (arrived s p.val m 2) ∧
    (mayServe (s.takeRx p.val m) m) :=
  ⟨0, msgOf 2, received (msgOf 2), by decide +kernel⟩

theorem wit_RemoteRequests_3 : ∃ (p : Fin 32) (m : LMsg) (s : State),
    (arrived s p.val m 3) ∧
    (mayServe (s.takeRx p.val m) m) :=
  ⟨0, msgOf 3, received (msgOf 3), by decide +kernel⟩

theorem wit_RemoteRequests_4 : ∃ (p : Fin 32) (m : LMsg) (s : State),
    (arrived s p.val m 4) ∧
    (mayServe (s.takeRx p.val m) m) ∧
    (m.aux.toNat ≤ 3) :=
  ⟨0, msgOf 4, received (msgOf 4), by decide +kernel⟩

theorem wit_RemoteRequests_5 : ∃ (p : Fin 32) (m : LMsg) (s : State),
    (arrived s p.val m 5) ∧
    (mayServe (s.takeRx p.val m) m) :=
  ⟨0, msgOf 5, received (msgOf 5), by decide +kernel⟩

theorem wit_RemoteRequests_6 : ∃ (p : Fin 32) (m : LMsg) (s : State),
    (arrived s p.val m 6) ∧
    (mayServe (s.takeRx p.val m) m) :=
  ⟨0, msgOf 6, received (msgOf 6), by decide +kernel⟩

theorem wit_RemoteRequests_7 : ∃ (p : Fin 32) (m : LMsg) (s : State),
    (arrived s p.val m 7) ∧
    (mayServe (s.takeRx p.val m) m) :=
  ⟨0, msgOf 7, received (msgOf 7), by decide +kernel⟩

theorem wit_RemoteRequests_8 : ∃ (p : Fin 32) (m : LMsg) (s : State),
    (arrived s p.val m 1) :=
  ⟨0, msgOf 1, received (msgOf 1), by decide +kernel⟩

theorem wit_RemoteRequests_9 : ∃ (p : Fin 32) (m : LMsg) (s : State),
    (arrived s p.val m 4) ∧
    (3 < m.aux.toNat) :=
  ⟨0, { msgOf 4 with aux := 9 }, received { msgOf 4 with aux := 9 }, by decide +kernel⟩

theorem wit_RemoteRequests_10 : ∃ (p : Fin 32) (m : LMsg) (s : State),
    (m ∈ (s.link p.val).rx) ∧
    (m.kind.toNat = 1) ∧
    (m.dst.toNat ≠ s.nodeId) :=
  ⟨0, { msgOf 1 with dst := 5 }, received { msgOf 1 with dst := 5 }, by decide +kernel⟩

theorem wit_RemoteRequests_12 : ∃ (p : Fin 32) (m : LMsg) (l : Nat) (u : State) (s : State),
    (arrived s p.val m 1) ∧
    (u = s.takeRx p.val m) ∧
    (mayServe u m) ∧
    (l = s.localPa m.addr.toNat / 128) ∧
    (u.line l = {}) ∧
    ((∀ e ∈ u.lines, e.2.queued = [])) :=
  ⟨0, msgOf 1, 0x500000000 / 128, (received (msgOf 1)).takeRx 0 (msgOf 1), received (msgOf 1), by and_intros <;> decide +kernel⟩

theorem wit_RemoteRequests_13 : ∃ (p : Fin 32) (m : LMsg) (l : Nat) (u : State) (s : State),
    (arrived s p.val m 2) ∧
    (u = s.takeRx p.val m) ∧
    (mayServe u m) ∧
    (l = s.localPa m.addr.toNat / 128) ∧
    (u.line l = {}) ∧
    ((∀ e ∈ u.lines, e.2.queued = [])) ∧
    (s.waiters = []) :=
  ⟨0, msgOf 2, 0x500000000 / 128, (received (msgOf 2)).takeRx 0 (msgOf 2), received (msgOf 2), by and_intros <;> decide +kernel⟩

theorem wit_RemoteRequests_14 : ∃ (p : Fin 32) (m : LMsg) (u : State) (s : State),
    (arrived s p.val m 8) ∧
    (u = s.takeRx p.val m) ∧
    (u.fab.reqs = []) :=
  ⟨0, msgOf 8, (received (msgOf 8)).takeRx 0 (msgOf 8), received (msgOf 8), by and_intros <;> decide +kernel⟩

theorem wit_RemoteRequests_15 : ∃ (p : Fin 32) (m : LMsg) (s : State),
    (arrived s p.val m 0x14) :=
  ⟨0, msgOf 0x14, received (msgOf 0x14), by decide +kernel⟩

theorem wit_RemoteRequests_16 : ∃ (l n : Nat) (tx : HomeTx) (s : State),
    ((s.line l).snoops = [n]) ∧
    ((s.line l).cur = some tx) ∧
    ((s.line l).performed = false) :=
  ⟨3, 1, { who := {}, kind := .read }, { lines := [(3, { snoops := [1], cur := some { who := {}, kind := .read } })] }, by decide +kernel⟩

theorem wit_RemoteResponses_1 : ∃ (p : Fin 32) (m : LMsg) (r : RReq) (core slot idx : Nat) (s : State),
    (answers s p.val m 0x10 r) ∧
    (r.kind = 1) ∧
    (r.core = some (core, slot, idx)) :=
  ⟨0, msgOf 0x10, { reqKind 1 with core := some (0, 0, 0) }, 0, 0, 0, answered (msgOf 0x10) { reqKind 1 with core := some (0, 0, 0) }, by decide +kernel⟩

theorem wit_RemoteResponses_2 : ∃ (p : Fin 32) (m : LMsg) (r : RReq) (s : State),
    (answers s p.val m 0x10 r) ∧
    (r.kind = 1) ∧
    (r.core = none) :=
  ⟨0, msgOf 0x10, reqKind 1, answered (msgOf 0x10) (reqKind 1), by decide +kernel⟩

theorem wit_RemoteResponses_3 : ∃ (p : Fin 32) (m : LMsg) (r : RReq) (s : State),
    (answers s p.val m 0x11 r) ∧
    (r.kind = 2 ∨ r.kind = 5) :=
  ⟨0, msgOf 0x11, reqKind 2, answered (msgOf 0x11) (reqKind 2), by decide +kernel⟩

theorem wit_RemoteResponses_4 : ∃ (p : Fin 32) (m : LMsg) (r : RReq) (s : State),
    (answers s p.val m 0x11 r) ∧
    (r.kind = 6) ∧
    (r.core = none) ∧
    (r.withdrawn = false) ∧
    (r.chan = none) ∧
    (r.cid ≠ 0) :=
  ⟨0, msgOf 0x11, { reqKind 6 with cid := 1 }, answered (msgOf 0x11) { reqKind 6 with cid := 1 }, by and_intros <;> decide +kernel⟩

theorem wit_RemoteResponses_5 : ∃ (p : Fin 32) (m : LMsg) (r : RReq) (s : State),
    (answers s p.val m 0x11 r) ∧
    (r.kind = 6) ∧
    (r.core.isSome = true) :=
  ⟨0, msgOf 0x11, { reqKind 6 with core := some (0, 0, 0) }, answered (msgOf 0x11) { reqKind 6 with core := some (0, 0, 0) }, by and_intros <;> decide +kernel⟩

theorem wit_RemoteResponses_6 : ∃ (p : Fin 32) (m : LMsg) (r : RReq) (core slot x : Nat) (s : State),
    (answers s p.val m 0x12 r) ∧
    (r.kind = 3) ∧
    (r.core = some (core, slot, x)) :=
  ⟨0, msgOf 0x12, { reqKind 3 with core := some (0, 0, 0) }, 0, 0, 0, answered (msgOf 0x12) { reqKind 3 with core := some (0, 0, 0) }, by decide +kernel⟩

theorem wit_RemoteResponses_7 : ∃ (p : Fin 32) (m : LMsg) (r : RReq) (c : Cmd) (s : State),
    (answers s p.val m 0x12 r) ∧
    (r.kind = 3) ∧
    (r.core = none) ∧
    (s.cmd? r.cid = some c) :=
  ⟨0, msgOf 0x12, { reqKind 3 with cid := 1 }, { cid := 1 }, { answered (msgOf 0x12) { reqKind 3 with cid := 1 } with cmds := [{ cid := 1 }] }, by and_intros <;> decide +kernel⟩

theorem wit_RemoteResponses_8 : ∃ (p : Fin 32) (m : LMsg) (r : RReq) (s : State),
    (answers s p.val m 0x13 r) ∧
    (m.aux.getLsbD 0 = false) ∧
    (r.kind = 4) :=
  ⟨0, msgOf 0x13, reqKind 4, answered (msgOf 0x13) (reqKind 4), by and_intros <;> decide +kernel⟩

theorem wit_RemoteResponses_9 : ∃ (r : RReq) (m : LMsg) (s : State),
    (r.snooped = false) ∧
    (m.data.length = 128) :=
  ⟨reqKind 4, { msgOf 0x13 with data := List.replicate 128 0 }, {}, by and_intros <;> decide +kernel⟩

theorem wit_RemoteResponses_10 : ∃ (p : Fin 32) (m : LMsg) (r : RReq) (s : State),
    (answers s p.val m 0x13 r) ∧
    (m.aux.getLsbD 0 = true) ∧
    (1 ≤ r.kind ∧ r.kind ≤ 7) :=
  ⟨0, { msgOf 0x13 with aux := 1 }, reqKind 1, answered { msgOf 0x13 with aux := 1 } (reqKind 1), by and_intros <;> decide +kernel⟩

theorem wit_RemoteResponses_11 : ∃ (p : Fin 32) (m : LMsg) (r : RReq) (s : State),
    (answers s p.val m 0x15 r) ∧
    (1 ≤ r.kind ∧ r.kind ≤ 7) ∧
    (r.retried = true) :=
  ⟨0, msgOf 0x15, { reqKind 1 with retried := true }, answered (msgOf 0x15) { reqKind 1 with retried := true }, by and_intros <;> decide +kernel⟩

theorem wit_RemoteResponses_12 : ∃ (p : Fin 32) (m : LMsg) (r : RReq) (s : State),
    (answers s p.val m 0x16 r) ∧
    (r.kind = 7) ∧
    (r.withdrawn = false) ∧
    (r.saved = false) :=
  ⟨0, msgOf 0x16, reqKind 7, answered (msgOf 0x16) (reqKind 7), by and_intros <;> decide +kernel⟩

theorem wit_RemoteResponses_13 : ∃ (p : Fin 32) (m : LMsg) (r : RReq) (s : State),
    (answers s p.val m 0x1F r) ∧
    (1 ≤ r.kind ∧ r.kind ≤ 7) :=
  ⟨0, msgOf 0x1F, reqKind 1, answered (msgOf 0x1F) (reqKind 1), by decide +kernel⟩

theorem wit_RemoteResponses_14 : ∃ (p : Fin 32) (m : LMsg) (r : RReq) (h : Nat) (s : State),
    (arrived s p.val m 0x10) ∧
    (s.reqOf m.tag = some r) ∧
    (r.late = some h) :=
  ⟨0, msgOf 0x10, { reqKind 1 with late := some 0 }, 0, answered (msgOf 0x10) { reqKind 1 with late := some 0 }, by and_intros <;> decide +kernel⟩

theorem wit_RemoteResponses_15 : ∃ (p : Fin 32) (m : LMsg) (s : State),
    (arrived s p.val m 0x10) ∧
    ((∀ r, s.reqOf m.tag = some r → r.late = none ∧ r.kind ≠ 1)) :=
  ⟨0, msgOf 0x10, received (msgOf 0x10), by and_intros <;> decide +kernel⟩

theorem wit_StoresAndLoadsOfACore_1 : ∃ (core : Fin 276) (s : State),
    (s.leaveIdx core.val [] (s.core core.val).sb 0 = none) :=
  ⟨0, {}, by decide +kernel⟩

theorem wit_StoresAndLoadsOfACore_2 : ∃ (core : Fin 276) (k : Nat) (e : SbEnt) (s : State),
    (s.leaveIdx core.val [] (s.core core.val).sb 0 = some k) ∧
    ((s.core core.val).sb[k]? = some e) ∧
    (e.gen ≠ s.genOf e.ctx) :=
  ⟨0, 0, { storeEnt with gen := 9 }, withStores [{ storeEnt with gen := 9 }], by decide +kernel⟩

theorem wit_StoresAndLoadsOfACore_3 : ∃ (core : Fin 276) (k : Nat) (e : SbEnt) (s : State),
    (s.leaveIdx core.val [] (s.core core.val).sb 0 = some k) ∧
    ((s.core core.val).sb[k]? = some e) ∧
    (e.gen = s.genOf e.ctx) ∧
    (isHostPa e.at_ = true) ∧
    (e.atoms = []) ∧
    (e.dev = false) :=
  ⟨0, 0, { storeEnt with data := [(2 ^ 55, 7)] }, withStores [{ storeEnt with data := [(2 ^ 55, 7)] }], by and_intros <;> decide +kernel⟩

theorem wit_StoresAndLoadsOfACore_4 : ∃ (core : Fin 276) (k : Nat) (e : SbEnt) (x : SbAtom) (s : State),
    (s.leaveIdx core.val [] (s.core core.val).sb 0 = some k) ∧
    ((s.core core.val).sb[k]? = some e) ∧
    (e.gen = s.genOf e.ctx) ∧
    (isHostPa e.at_ = true) ∧
    (e.data = []) ∧
    (e.atoms = [x]) ∧
    (e.dev = false) :=
  ⟨0, 0, { storeEnt with data := [], atoms := [hostAdd] }, hostAdd, withStores [{ storeEnt with data := [], atoms := [hostAdd] }], by and_intros <;> decide +kernel⟩

theorem wit_StoresAndLoadsOfACore_5 : ∃ (core : Fin 276) (k : Nat) (e : SbEnt) (s : State),
    (s.leaveIdx core.val [] (s.core core.val).sb 0 = some k) ∧
    ((s.core core.val).sb[k]? = some e) ∧
    (e.gen = s.genOf e.ctx) ∧
    (isHostPa e.at_ = false) ∧
    (s.isLocal e.at_ = true) ∧
    (e.dev = false) :=
  ⟨0, 0, storeEnt, withStores [storeEnt], by decide +kernel⟩

theorem wit_StoresAndLoadsOfACore_6 : ∃ (core : Fin 276) (k : Nat) (e : SbEnt) (s : State),
    ((s.core core.val).sb[k]? = some e) ∧
    (s.line (e.at_ / 128) = {}) ∧
    ((∀ x ∈ s.lines, x.2.queued = [])) ∧
    (e.atoms = []) ∧
    (s.waiters = []) :=
  ⟨0, 0, storeEnt, withStores [storeEnt], by and_intros <;> decide +kernel⟩

theorem wit_StoresAndLoadsOfACore_7 : ∃ (core : Fin 276) (k : Nat) (e : SbEnt) (s : State),
    (s.leaveIdx core.val [] (s.core core.val).sb 0 = some k) ∧
    ((s.core core.val).sb[k]? = some e) ∧
    (e.gen = s.genOf e.ctx) ∧
    (isHostPa e.at_ = false) ∧
    (s.isLocal e.at_ = false) ∧
    (e.dev = false) ∧
    (e.atoms = []) :=
  ⟨0, 0, { storeEnt with data := [(2 ^ 40, 7)] }, withStores [{ storeEnt with data := [(2 ^ 40, 7)] }], by and_intros <;> decide +kernel⟩

theorem wit_StoresAndLoadsOfACore_8 : ∃ (core : Fin 276) (k : Nat) (e : SbEnt) (s : State),
    (s.leaveIdx core.val [] (s.core core.val).sb 0 = some k) ∧
    ((s.core core.val).sb[k]? = some e) ∧
    (e.gen = s.genOf e.ctx) ∧
    (e.dev = true) ∧
    (s.inWindow core.val e.at_ = true) ∧
    (e.atoms = []) ∧
    (deviceAt (devOff e.at_) = none) :=
  ⟨272, 0, { storeEnt with data := [(0xFF00000000, 7)], dev := true, ctx := 0xFFFF, gen := 0 }, { cores := [(272, { sb := [{ storeEnt with data := [(0xFF00000000, 7)], dev := true, ctx := 0xFFFF, gen := 0 }] })] }, by and_intros <;> decide +kernel⟩

theorem wit_StoresAndLoadsOfACore_9 : ∃ (c : ChainRef) (idx : Nat) (k : Chain) (l : Load) (s : State),
    (s.chain? c.core.val c.slot.val = some k) ∧
    (k.loads.find? (fun x => x.idx == idx && !x.atomic) = some l) ∧
    (l.await = 0) ∧
    (l.dev = false) ∧
    ((∀ n ∈ s.loadLines c.core.val l, s.canRead (loadWho c.core.val c.slot.val) n = true ∧ s.storeOut c.core.val n = false)) :=
  ⟨⟨0, 0⟩, 0, { loads := [plainLoad] }, plainLoad, withLoad plainLoad, by and_intros <;> decide +kernel⟩

theorem wit_StoresAndLoadsOfACore_10 : ∃ (core slot lane a vd : Nat) (k : Chain) (l : Load) (s : State),
    (s.chain? core slot = some k) ∧
    (k.loads = [l]) ∧
    (l.lanes = [(lane, a)]) ∧
    (l.vd = some vd) ∧
    (l.size = 2) ∧
    (vd ≠ 255) ∧
    (lane < 32) ∧
    (l.acq = false) :=
  ⟨0, 0, 0, 0x500000000, 1, { loads := [plainLoad] }, plainLoad, withLoad plainLoad, by and_intros <;> decide +kernel⟩

theorem wit_StoresAndLoadsOfACore_11 : ∃ (core a : Nat) (l : Load) (s : State),
    ((s.core core).dcache = []) :=
  ⟨0, 5, plainLoad, {}, by decide +kernel⟩

theorem wit_StoresAndLoadsOfACore_12 : ∃ (c : ChainRef) (idx : Nat) (k : Chain) (l : Load) (s : State),
    (s.chain? c.core.val c.slot.val = some k) ∧
    (k.loads.find? (fun x => x.idx == idx && !x.atomic) = some l) ∧
    (l.await ≠ 0) :=
  ⟨⟨0, 0⟩, 0, { loads := [{ plainLoad with await := 1 }] }, { plainLoad with await := 1 }, withLoad { plainLoad with await := 1 }, by decide +kernel⟩

theorem wit_StoresAndLoadsOfACore_13 : ∃ (c : ChainRef) (idx : Nat) (k : Chain) (l : Load) (s : State),
    (s.chain? c.core.val c.slot.val = some k) ∧
    (k.loads.find? (fun x => x.idx == idx && !x.atomic) = some l) :=
  ⟨⟨0, 0⟩, 0, { loads := [plainLoad] }, plainLoad, withLoad plainLoad, by decide +kernel⟩

theorem wit_StoresAndLoadsOfACore_14 : ∃ (core slot idx : Nat) (k : Chain) (l : Load) (s : State),
    (s.chain? core slot = some k) ∧
    (k.loads.find? (fun x => x.idx == idx) = some l) ∧
    (l.pref = false) :=
  ⟨0, 0, 0, { loads := [plainLoad] }, plainLoad, withLoad plainLoad, by and_intros <;> decide +kernel⟩

theorem wit_HomesOfLines_1 : ∃ (who : HomeWho) (line : BitVec 56) (k : HomeKind) (s : State),
    (s.isLocal line.toNat = false) :=
  ⟨{}, 2 ^ 40, .read, {}, by decide +kernel⟩

theorem wit_HomesOfLines_2 : ∃ (who : HomeWho) (line : BitVec 56) (k : HomeKind) (s : State),
    (s.isLocal line.toNat = true) ∧
    (s.line (line.toNat / 128) = {}) ∧
    (who.remote = false ∨ s.dirFull (lineSlice (line.toNat / 128)) = false) :=
  ⟨{}, 0x500000000, .read, {}, by and_intros <;> decide +kernel⟩

theorem wit_HomesOfLines_3 : ∃ (who : HomeWho) (line : BitVec 56) (d : List (Nat × Byte)) (s : State),
    (s.isLocal line.toNat = true) ∧
    (s.line (line.toNat / 128) = {}) ∧
    (s.waiters = []) :=
  ⟨{}, 0x500000000, [], {}, by decide +kernel⟩

theorem wit_HomesOfLines_4 : ∃ (who : HomeWho) (line : BitVec 56) (k : HomeKind) (ts : List Nat) (s : State),
    (s.isLocal line.toNat = true) ∧
    ((s.line (line.toNat / 128)).cur = none) ∧
    ((s.line (line.toNat / 128)).reserved = []) ∧
    (s.snoopTargets (s.line (line.toNat / 128)) { who := who, kind := k } = ts) ∧
    (ts ≠ []) :=
  ⟨{}, 0x500000000, .write [], [1], { lines := [(0x500000000 / 128, { st := .shared, holders := [1] })], fab := { next := [(1, 1)], links := [(0, { st := .up, peer := 1, peerPort := 1 })], map := [(0, { node := 0, links := [(0, 1, 1)] }), (1, { node := 1, links := [(1, 0, 0)] })] } }, by decide +kernel⟩

theorem wit_HomesOfLines_5 : ∃ (who : HomeWho) (line : BitVec 56) (k : HomeKind) (s : State),
    (s.isLocal line.toNat = true) ∧
    ((s.line (line.toNat / 128)).cur.isSome = true) :=
  ⟨{}, 0x500000000, .read, { lines := [(0x500000000 / 128, busyLine)] }, by and_intros <;> decide +kernel⟩

theorem wit_HomesOfLines_6 : ∃ (line : BitVec 56) (s : State),
    ((s.line (line.toNat / 128)).performed = false) :=
  ⟨5, {}, by decide +kernel⟩

theorem wit_HomesOfLines_7 : ∃ (line : BitVec 56) (tx : HomeTx) (s : State),
    ((s.line (line.toNat / 128)).cur = some tx) ∧
    ((s.line (line.toNat / 128)).performed = true) ∧
    ((s.line (line.toNat / 128)).reserved = []) ∧
    ((∀ e ∈ s.lines, e.2.queued = [])) :=
  ⟨0x500000000, { who := {}, kind := .read }, { lines := [(0x500000000 / 128, { cur := some { who := {}, kind := .read }, performed := true })] }, by and_intros <;> decide +kernel⟩

theorem wit_HomesOfLines_8 : ∃ (line : BitVec 56) (tx w : HomeTx) (m : LMsg) (r : List HomeTx) (s : State),
    ((s.line (line.toNat / 128)).cur = some tx) ∧
    ((s.line (line.toNat / 128)).performed = true) ∧
    ((if tx.credit then (s.line (line.toNat / 128)).reserved.drop 1 else (s.line (line.toNat / 128)).reserved) = w :: r) ∧
    (w.msg = some m) :=
  ⟨0x500000000, { who := {}, kind := .read }, { who := {}, kind := .read, msg := some {} }, {}, [], { lines := [(0x500000000 / 128, { cur := some { who := {}, kind := .read }, performed := true, reserved := [{ who := {}, kind := .read, msg := some {} }] })] }, by and_intros <;> decide +kernel⟩

theorem wit_HomesOfLines_9 : ∃ (line : BitVec 56) (tx w : HomeTx) (r : List HomeTx) (s : State),
    ((s.line (line.toNat / 128)).cur = some tx) ∧
    ((s.line (line.toNat / 128)).performed = true) ∧
    ((s.line (line.toNat / 128)).reserved = []) ∧
    ((s.line (line.toNat / 128)).queued = w :: r) :=
  ⟨0x500000000, { who := {}, kind := .read }, { who := {}, kind := .read }, [], { lines := [(0x500000000 / 128, { cur := some { who := {}, kind := .read }, performed := true, queued := [{ who := {}, kind := .read }] })] }, by decide +kernel⟩

theorem wit_HomesOfLines_10 : ∃ (x : Line) (tx : HomeTx),
    (tx.who.remote = true) :=
  ⟨{}, { who := { remote := true }, kind := .read }, by decide +kernel⟩

theorem wit_HomesOfLines_11 : ∃ (x : Line) (n : Nat) (s : State),
    (n < 16384) ∧
    (n ∈ s.fab.map.map (fun e => e.1)) :=
  ⟨{ holders := [1, 2, 3, 4] }, 0, { fab := { map := [(0, {})] } }, by decide +kernel⟩

theorem wit_VectorIntegers_1 : ∃ (r : ChainRef) (sub : Bool) (i : V3) (c : Chain) (s : State),
    (issues s r c (v3Regs i true true false true) (v3Uregs i)) ∧
    (inLanes c i.pred i.pneg (v3Regs i true true false true)) ∧
    (v3Reserved i = false) ∧
    (typeInt i.ty.toNat = true) :=
  ⟨at0, true, { vd := 4, va := 1, vb := 2, vc := 3, ty := 1 }, runner, running, by decide +kernel⟩

theorem wit_VectorIntegers_2 : ∃ (r : ChainRef) (high : Bool) (i : V3) (c : Chain) (s : State),
    (issues s r c (v3Regs i true true false true) (v3Uregs i)) ∧
    (inLanes c i.pred i.pneg (v3Regs i true true false true)) ∧
    (v3Reserved i = false) ∧
    (typeInt i.ty.toNat = true) :=
  ⟨at0, true, { vd := 4, va := 1, vb := 2, vc := 3, ty := 1 }, runner, running, by decide +kernel⟩

theorem wit_VectorIntegers_3 : ∃ (r : ChainRef) (i : V3) (c : Chain) (s : State),
    (issues s r c (v3Regs i true true true true) (v3Uregs i)) ∧
    (inLanes c i.pred i.pneg (v3Regs i true true true true)) ∧
    (v3Reserved i = false) ∧
    (typeInt i.ty.toNat = true) :=
  ⟨at0, { vd := 4, va := 1, vb := 2, vc := 3, ty := 1 }, runner, running, by decide +kernel⟩

theorem wit_VectorIntegers_4 : ∃ (r : ChainRef) (max : Bool) (i : V3) (c : Chain) (s : State),
    (issues s r c (v3Regs i true true false true) (v3Uregs i)) ∧
    (inLanes c i.pred i.pneg (v3Regs i true true false true)) ∧
    (v3Reserved i = false) ∧
    (typeInt i.ty.toNat = true) :=
  ⟨at0, true, { vd := 4, va := 1, vb := 2, vc := 3, ty := 1 }, runner, running, by decide +kernel⟩

theorem wit_VectorIntegers_5 : ∃ (ty e : Nat) (f : Nat → Nat → Nat → Nat) (a b c : W32),
    (ty < 8) ∧
    (e < 32 / typeWidth ty) :=
  ⟨6, 3, addElem 6 false false, 0x7F000000, 0x01000000, 0, by decide +kernel⟩

theorem wit_VectorIntegers_6 : ∃ (ty : Nat) (a b c : W32),
    (ty < 2) :=
  ⟨0, 5, 7, 0, by decide +kernel⟩

theorem wit_VectorIntegers_7 : ∃ (ty : Nat) (a b c : W32),
    (ty < 2) :=
  ⟨0, 5, 7, 0, by decide +kernel⟩

theorem wit_VectorBitsAndMoves_1 : ∃ (r : ChainRef) (i : V3) (c : Chain) (s : State),
    (issues s r c (v3Regs i false true false true) (v3Uregs i)) ∧
    (inLanes c i.pred i.pneg (v3Regs i false true false true)) ∧
    (v3Reserved i = false) :=
  ⟨at0, { vd := 4, va := 1, vb := 2, vc := 3, ty := 1 }, runner, running, by decide +kernel⟩

theorem wit_VectorBitsAndMoves_2 : ∃ (r : ChainRef) (op : BitOp) (i : V3) (c : Chain) (s : State),
    (issues s r c (v3Regs i true true false true) (v3Uregs i)) ∧
    (inLanes c i.pred i.pneg (v3Regs i true true false true)) ∧
    (v3Reserved i = false) :=
  ⟨at0, .andn, { vd := 4, va := 1, vb := 2, vc := 3, ty := 1 }, runner, running, by decide +kernel⟩

theorem wit_VectorBitsAndMoves_3 : ∃ (r : ChainRef) (op : ShOp) (i : V3) (c : Chain) (s : State),
    (issues s r c (v3Regs i true true false true) (v3Uregs i)) ∧
    (inLanes c i.pred i.pneg (v3Regs i true true false true)) ∧
    (v3Reserved i = false) :=
  ⟨at0, .sar, { vd := 4, va := 1, vb := 2, vc := 3, ty := 1 }, runner, running, by decide +kernel⟩

theorem wit_VectorBitsAndMoves_4 : ∃ (r : ChainRef) (op : CntOp) (i : V3) (c : Chain) (s : State),
    (issues s r c (v3Regs i true false false true) ([])) ∧
    (inLanes c i.pred i.pneg (v3Regs i true false false true)) ∧
    (v3Reserved i = false) :=
  ⟨at0, .popc, { vd := 4, va := 1, vb := 2, vc := 3, ty := 1 }, runner, running, by decide +kernel⟩

theorem wit_VectorBitsAndMoves_6 : ∃ (r : ChainRef) (ins : Bool) (i : V3) (c : Chain) (s : State),
    (issues s r c (v3Regs i true true true true) (v3Uregs i)) ∧
    (inLanes c i.pred i.pneg (v3Regs i true true true true)) ∧
    (v3Reserved i = false) :=
  ⟨at0, true, { vd := 4, va := 1, vb := 2, vc := 3, ty := 1 }, runner, running, by decide +kernel⟩

theorem wit_VectorBitsAndMoves_7 : ∃ (ty n : Nat) (a b w d : W32),
    (n < 32) ∧
    (w.toNat % 64 ≤ 32) :=
  ⟨0, 7, 0xF5, 4, 5, 0xFFFF, by decide +kernel⟩

theorem wit_VectorBitsAndMoves_8 : ∃ (r : ChainRef) (i : V3) (c : Chain) (s : State),
    (issues s r c (v3Regs i true true false true) (v3Uregs i)) ∧
    (inLanes c i.pred i.pneg (v3Regs i true true false true)) ∧
    (v3Reserved i = false) :=
  ⟨at0, { vd := 4, va := 1, vb := 2, vc := 0, ty := 1 }, runner, running, by decide +kernel⟩

theorem wit_VectorFloats_1 : ∃ (r : ChainRef) (op : FOp) (ff : FFmt) (i : V3) (c : Chain) (s : State),
    (issues s r c (v3Regs i true true (op == .ffma) true) (v3Uregs i)) ∧
    (inLanes c i.pred i.pneg (v3Regs i true true (op == .ffma) true)) ∧
    (v3Reserved i = false) ∧
    (typeFloat i.ty.toNat = some ff) ∧
    (i.round ≠ 2) :=
  ⟨at0, .ffma, fF32, { vd := 4, va := 1, vb := 2, vc := 3, ty := 2 }, runner, running, by decide +kernel⟩

theorem wit_VectorFloats_2 : ∃ (r : ChainRef) (max : Bool) (ff : FFmt) (i : V3) (c : Chain) (s : State),
    (issues s r c (v3Regs i true true false true) (v3Uregs i)) ∧
    (inLanes c i.pred i.pneg (v3Regs i true true false true)) ∧
    (v3Reserved i = false) ∧
    (typeFloat i.ty.toNat = some ff) ∧
    (i.round ≠ 2) :=
  ⟨at0, true, fF32, { vd := 4, va := 1, vb := 2, vc := 3, ty := 2 }, runner, running, by decide +kernel⟩

theorem wit_VectorFloats_3 : ∃ (ff : FFmt) (max : Bool) (a b : Nat),
    (decodeFloat ff a = .nan) :=
  ⟨fF32, true, 0x7FC00001, 5, by decide +kernel⟩

theorem wit_VectorFloats_4 : ∃ (r : ChainRef) (op : SpecFn) (ff : FFmt) (i : V3) (c : Chain) (s : State),
    (issues s r c (v3Regs i true false false true) ([])) ∧
    (inLanes c i.pred i.pneg (v3Regs i true false false true)) ∧
    (v3Reserved i = false) ∧
    (typeFloat i.ty.toNat = some ff) ∧
    (i.round ≠ 2) :=
  ⟨at0, .rcp, fF32, { vd := 4, va := 1, vb := 2, vc := 3, ty := 2 }, runner, running, by decide +kernel⟩

theorem wit_VectorFloats_5 : ∃ (op : SpecFn) (n : Bool) (m : Nat) (e : Int),
    (m ≠ 0) :=
  ⟨.tanh, true, 3, 5, by decide +kernel⟩

theorem wit_VectorFloats_6 : ∃ (r : ChainRef) (i : V3) (c : Chain) (s : State),
    (issues s r c (v3Regs i true false false true ++ srRegs i) (srUregs i)) ∧
    (inLanes c i.pred i.pneg (v3Regs i true false false true ++ srRegs i)) ∧
    (v3Reserved i = false) ∧
    (i.vc.toNat % 16 < 8) ∧
    (typeWidth (i.vc.toNat % 16) = typeWidth i.ty.toNat) :=
  ⟨at0, { vd := 4, va := 1, vc := 1, ty := 2, round := 1 }, runner, running, by decide +kernel⟩

theorem wit_VectorFloats_7 : ∃ (r : ChainRef) (i : V3) (c : Chain) (s : State),
    (issues s r c (v3Regs i true false false true ++ srRegs i) (srUregs i)) ∧
    (inLanes c i.pred i.pneg (v3Regs i true false false true ++ srRegs i)) ∧
    (v3Reserved i = false) ∧
    (i.vc.toNat % 16 < 8) ∧
    (i.vd ≠ 255) :=
  ⟨at0, { vd := 4, va := 1, vc := 3, ty := 2, round := 1 }, runner, running, by decide +kernel⟩

theorem wit_VectorFloats_8 : ∃ (src dst : Nat) (rd : Rnd) (a : Nat),
    (src < 8) ∧
    (dst < 8) :=
  ⟨2, 0, .rtz, 0x7FC00000, by decide +kernel⟩

theorem wit_VectorFloats_9 : ∃ (r : ChainRef) (i : V3) (c : Chain) (s : State),
    (issues s r c (v3Regs i true false false true) ([])) ∧
    (inLanes c i.pred i.pneg (v3Regs i true false false true)) ∧
    (v3Reserved i = false) ∧
    (i.ty = 1 ∨ i.ty = 2) ∧
    (fmtExact (i.vc.toNat % 32) = true) ∧
    (fmtOutput (i.vc.toNat % 32) = true) ∧
    ((∀ l, l < 32 → (c.lanesOf i.pred i.pneg).getLsbD l = true → (decodeFloat fF32 (c.vreg i.va.toNat l).toNat).lt (.fin false 0 0) = false)) :=
  ⟨at0, { vd := 4, va := 1, vc := 9, ty := 1 }, runner, running, by and_intros <;> decide +kernel⟩

theorem wit_VectorFloats_10 : ∃ (r : ChainRef) (i : V3) (c : Chain) (s : State),
    (issues s r c (v3Regs i true false false true) ([])) ∧
    (c.lanesOf i.pred i.pneg ≠ 0) ∧
    (c.settled = true) ∧
    (16 ≤ i.vc.toNat % 32) :=
  ⟨at0, { vd := 4, va := 1, vc := 0x10, ty := 2, round := 1 }, runner, running, by and_intros <;> decide +kernel⟩

theorem wit_VectorFloats_11 : ∃ (r : ChainRef) (fmt : Fin 12) (i : V3) (c : Chain) (s : State),
    (issues s r c (v3Regs i true true false true ++ srRegs i) (v3Uregs i ++ srUregs i)) ∧
    (inLanes c i.pred i.pneg (v3Regs i true true false true ++ srRegs i)) ∧
    (v3Reserved i = false) ∧
    (fmt.val ≠ 6) ∧
    (fmt.val ≠ 0) ∧
    ((fmt.val = 1 → ∀ l, l < 32 → (c.lanesOf i.pred i.pneg).getLsbD l = true → qntQuot (c.vreg i.va.toNat l) (c.opB i l) ≠ .nan)) :=
  ⟨at0, 9, { vd := 4, va := 1, vb := 2, vc := 3, ty := 2, round := 2, usel := 1 }, runner, running, by and_intros <;> decide +kernel⟩

theorem wit_VectorFloats_12 : ∃ (r : ChainRef) (fmt : Fin 12) (i : V3) (c : Chain) (s : State),
    (issues s r c (v3Regs i true true false true ++ srRegs i) (v3Uregs i ++ srUregs i)) ∧
    (inLanes c i.pred i.pneg (v3Regs i true true false true ++ srRegs i)) ∧
    (v3Reserved i = false) ∧
    (fmt.val = 0) ∧
    ((∀ l, l < 32 → (c.lanesOf i.pred i.pneg).getLsbD l = true → (quantiseB1 (c.convRnd i l) (qntQuot (c.vreg i.va.toNat l) (c.opB i l))).isSome = true)) :=
  ⟨at0, 0, { vd := 4, va := 1, vb := 2, vc := 3, ty := 2 }, { runner with active := 1 }, onChain { runner with active := 1 }, by and_intros <;> decide +kernel⟩

theorem wit_VectorFloats_13 : ∃ (neg : Bool) (n d : Nat) (e : Int),
    (d ≠ 0) :=
  ⟨true, 3, 5, 0, by decide +kernel⟩

theorem wit_VectorFloats_14 : ∃ (r : ChainRef) (fmt : Fin 12) (i : V3) (c : Chain) (s : State),
    (issues s r c (v3Regs i true true false true ++ srRegs i) (v3Uregs i ++ srUregs i)) ∧
    (inLanes c i.pred i.pneg (v3Regs i true true false true ++ srRegs i)) ∧
    (v3Reserved i = false) ∧
    (fmt.val ≠ 6) :=
  ⟨at0, 9, { vd := 4, va := 1, vb := 2, vc := 3, ty := 2 }, runner, running, by decide +kernel⟩

theorem wit_VectorFloats_15 : ∃ (c : Chain) (i : V3) (l : Nat),
    (i.round = 2) :=
  ⟨runner, { round := 2 }, 0, by decide +kernel⟩

theorem wit_VectorCompareAndExchange_1 : ∃ (r : ChainRef) (i : V3) (c : Chain) (s : State),
    (issues s r c (v3Regs i true true false false) (v3Uregs i)) ∧
    (inLanes c i.pred i.pneg (v3Regs i true true false false)) ∧
    (v3Reserved i = false) ∧
    (i.ty.toNat < 3) :=
  ⟨at0, { vd := 0, va := 1, vb := 2, vc := 2, ty := 1 }, runner, running, by decide +kernel⟩

theorem wit_VectorCompareAndExchange_2 : ∃ (ty : Nat) (a b : W32),
    (ty < 2) :=
  ⟨0, 1, 0xFFFFFFFF, by decide +kernel⟩

theorem wit_VectorCompareAndExchange_3 : ∃ (cc : Nat) (a b : W32),
    (cc < 8) ∧
    (decodeFloat fF32 a.toNat = .nan ∨ decodeFloat fF32 b.toNat = .nan) :=
  ⟨6, 0x7FC00000, 0, by decide +kernel⟩

theorem wit_VectorCompareAndExchange_4 : ∃ (r : ChainRef) (i : V3) (c : Chain) (s : State),
    (issues s r c (v3Regs i true true false true) (v3Uregs i)) ∧
    (inLanes c i.pred i.pneg (v3Regs i true true false true)) ∧
    (v3Reserved i = false) ∧
    ((∀ l, l < 32 → (c.opB i l).toNat < 32 ∧ (i.vc.toNat % 4 = 1 → (c.opB i l).toNat ≤ l) ∧ (i.vc.toNat % 4 = 2 → l + (c.opB i l).toNat < 32))) :=
  ⟨at0, { vd := 4, va := 1, vb := 2, vc := 3, ty := 1 }, runner, running, by and_intros <;> decide +kernel⟩

theorem wit_VectorCompareAndExchange_5 : ∃ (r : ChainRef) (i : V3) (c : Chain) (s : State),
    (issues s r c (v3Regs i false false false true) ([])) ∧
    (inLanes c i.pred i.pneg (v3Regs i false false false true)) ∧
    (v3Reserved i = false) :=
  ⟨at0, { vd := 4, va := 1, vb := 2, vc := 3, ty := 1 }, runner, running, by decide +kernel⟩

theorem wit_VectorCompareAndExchange_6 : ∃ (r : ChainRef) (i : V3) (c : Chain) (s : State),
    (issues s r c (v3Regs i true false false false) ([i.usel.toNat])) ∧
    (inLanes c i.pred i.pneg (v3Regs i true false false false)) ∧
    (v3Reserved i = false) ∧
    (i.ty.toNat < 3) ∧
    (i.vc.toNat % 4 < 3) :=
  ⟨at0, { va := 1, vc := 0, ty := 1, usel := 3 }, runner, running, by decide +kernel⟩

theorem wit_VectorCompareAndExchange_7 : ∃ (l : List Nat),
    (l.length = 32) :=
  ⟨(List.range 32), by decide +kernel⟩

theorem wit_VectorCompareAndExchange_8 : ∃ (r : ChainRef) (i : V3) (c : Chain) (s : State),
    (issues s r c (v3Regs i true false false false) ([i.usel.toNat])) ∧
    (inLanes c i.pred i.pneg (v3Regs i true false false false)) ∧
    (v3Reserved i = false) :=
  ⟨at0, { va := 1, usel := 3, pred := 1 }, runner, running, by decide +kernel⟩

theorem wit_ImmediatesUniformsAndSpecialRegisters_1 : ∃ (r : ChainRef) (op : ViOp) (i : VI) (c : Chain) (s : State),
    (issues s r c ((if op = .movi then [] else [i.va.toNat]) ++ [i.vd.toNat]) ([])) ∧
    (inLanes c i.pred i.pneg ((if op = .movi then [] else [i.va.toNat]) ++ [i.vd.toNat])) :=
  ⟨at0, .iaddi, { vd := 4, va := 1, imm := 0xFFFFFFFE }, runner, running, by decide +kernel⟩

theorem wit_ImmediatesUniformsAndSpecialRegisters_2 : ∃ (r : ChainRef) (op : UOp) (b : W64) (i : UI) (c : Chain) (s : State),
    (wholeOf s r c i.pred i.pneg ([]) (uRegs i true (op != .mov))) ∧
    (uOperand c i b) :=
  ⟨at0, .mul, 7, { ud := 3, ua := 1, useImm := true, imm := 7 }, runner, onChain (runner), by decide +kernel⟩

theorem wit_ImmediatesUniformsAndSpecialRegisters_3 : ∃ (r : ChainRef) (b : W64) (i : UI) (c : Chain) (s : State),
    (wholeOf s r c i.pred i.pneg ([]) (uRegs i false true)) ∧
    (uOperand c i b) ∧
    (i.ud.toNat / 8 < 2 ∨ 6 ≤ i.ud.toNat / 8 ∨ (c.ureg i.ua.toNat).getLsbD 63 = b.getLsbD 63) :=
  ⟨at0, 7, { ud := 17, ua := 2, useImm := true, imm := 7 }, runner, onChain (runner), by decide +kernel⟩

theorem wit_ImmediatesUniformsAndSpecialRegisters_4 : ∃ (r : ChainRef) (x : W64) (i : SysI) (c : Chain) (s : State),
    (wholeOf s r c i.pred i.pneg ([]) ([i.ud.toNat])) ∧
    (s.sregVal r.core.val r.slot.val c i.sreg.toNat 0 = some x) :=
  ⟨at0, 2, { ud := 9, sreg := 0x00B }, runner, onChain (runner), by decide +kernel⟩

theorem wit_ImmediatesUniformsAndSpecialRegisters_5 : ∃ (r : ChainRef) (f : Nat → W64) (i : SysI) (c : Chain) (s : State),
    (wholeOf s r c i.pred i.pneg ([i.vd.toNat]) ([])) ∧
    (c.outOfRange [i.vd.toNat] = false) ∧
    ((∀ l, l < 32 → s.sregVal r.core.val r.slot.val c i.sreg.toNat l = some (f l))) :=
  ⟨at0, (fun l => BitVec.ofNat 64 l), { vd := 4, sreg := 0 }, runner, onChain (runner), by and_intros <;> decide +kernel⟩

theorem wit_ImmediatesUniformsAndSpecialRegisters_6 : ∃ (core slot l : Nat) (c : Chain) (k : Cmd) (s : State),
    (s.chainCmd c = some k) ∧
    (isControl core = false) :=
  ⟨0, 0, 5, runner, kernelCmd, running, by decide +kernel⟩

theorem wit_ImmediatesUniformsAndSpecialRegisters_7 : ∃ (r : ChainRef) (i : SysI) (c : Chain) (s : State),
    (wholeOf s r c i.pred i.pneg ([]) ([i.ud.toNat])) ∧
    (0x010 ≤ i.sreg.toNat) ∧
    (i.sreg.toNat ≤ 0x014) ∧
    (isControl r.core.val = false) ∧
    (c.settled = true) ∧
    (s.cntInSlot r.core.val = none) :=
  ⟨at0, { ud := 2, sreg := 0x012 }, runner, { running with cores := [(0, { chains := [(0, runner)], unit := { owner := some 3 } })] }, by and_intros <;> decide +kernel⟩

theorem wit_ImmediatesUniformsAndSpecialRegisters_8 : ∃ (r : ChainRef) (i : SysI) (c : Chain) (pa : Nat) (s : State),
    (wholeOf s r c i.pred i.pneg ([]) ([i.ud.toNat])) ∧
    (0x010 ≤ i.sreg.toNat) ∧
    (i.sreg.toNat ≤ 0x014) ∧
    (isControl r.core.val = false) ∧
    (c.settled = true) ∧
    (s.cntInSlot r.core.val = some pa) :=
  ⟨at0, { ud := 2, sreg := 0x012 }, runner, 0, { running with cores := [(0, { chains := [(0, runner)], unit := { owner := some 3 } })], hides := [(0, { started := true, acre := { run := some { cid := 1 } } })] }, by and_intros <;> decide +kernel⟩

theorem wit_ImmediatesUniformsAndSpecialRegisters_9 : ∃ (r : ChainRef) (i : SysI) (c : Chain) (s : State),
    (wholeOf s r c i.pred i.pneg ([]) ([i.ud.toNat])) ∧
    (i.sreg.toNat < 0x010 ∨ 0x014 < i.sreg.toNat ∨ isControl r.core.val = true) :=
  ⟨at0, { ud := 2, sreg := 0x009 }, runner, onChain (runner), by and_intros <;> decide +kernel⟩

theorem wit_ImmediatesUniformsAndSpecialRegisters_10 : ∃ (r : ChainRef) (i : SysI) (c : Chain) (s : State),
    (wholeOf s r c i.pred i.pneg ([]) ([])) :=
  ⟨at0, {}, runner, onChain (runner), by decide +kernel⟩

theorem wit_ImmediatesUniformsAndSpecialRegisters_11 : ∃ (r : ChainRef) (i : SysI) (c : Chain) (s : State),
    (wholeOf s r c i.pred i.pneg ([]) ([])) :=
  ⟨at0, {}, runner, onChain (runner), by decide +kernel⟩

theorem wit_BranchesAndTheReconvergenceStack_1 : ∃ (r : ChainRef) (i : BrI) (c : Chain) (s : State),
    (wholeOf s r c i.pred i.pneg ([]) ([])) :=
  ⟨at0, { target := 0xFFFFFF }, half, onChain (half), by decide +kernel⟩

theorem wit_BranchesAndTheReconvergenceStack_2 : ∃ (r : ChainRef) (i : BrI) (c : Chain) (s : State),
    (issues s r c [] []) ∧
    (c.active &&& c.predOf i.pred i.pneg ≠ 0) ∧
    (c.active &&& ~~~(c.predOf i.pred i.pneg) ≠ 0) ∧
    (roomFor s c 2) :=
  ⟨at0, { pred := 1, target := 5, rpc := 9 }, half, onChain half, by decide +kernel⟩

theorem wit_BranchesAndTheReconvergenceStack_3 : ∃ (r : ChainRef) (i : BrI) (c : Chain) (s : State),
    (issues s r c [] []) ∧
    (c.active &&& c.predOf i.pred i.pneg ≠ 0) ∧
    (c.active &&& ~~~(c.predOf i.pred i.pneg) = 0) ∧
    (roomFor s c 1) :=
  ⟨at0, { target := 5, rpc := 9 }, half, onChain half, by decide +kernel⟩

theorem wit_BranchesAndTheReconvergenceStack_4 : ∃ (r : ChainRef) (i : BrI) (c : Chain) (s : State),
    (issues s r c [] []) ∧
    (c.active &&& c.predOf i.pred i.pneg = 0) ∧
    (roomFor s c 1) :=
  ⟨at0, { pneg := true, target := 5, rpc := 9 }, half, onChain half, by decide +kernel⟩

theorem wit_BranchesAndTheReconvergenceStack_5 : ∃ (r : ChainRef) (i : BrI) (c : Chain) (s : State),
    (issues s r c [] []) ∧
    (¬ roomFor s c 1 ∨ (c.active &&& c.predOf i.pred i.pneg ≠ 0 ∧ c.active &&& ~~~(c.predOf i.pred i.pneg) ≠ 0 ∧ ¬ roomFor s c 2)) ∧
    (c.settled = true) :=
  ⟨at0, { pred := 1, target := 5, rpc := 9 }, { half with stack := List.replicate 55 { mask := 1, pc := 0, kind := 0 } }, onChain { half with stack := List.replicate 55 { mask := 1, pc := 0, kind := 0 } }, by and_intros <;> decide +kernel⟩

theorem wit_BranchesAndTheReconvergenceStack_6 : ∃ (r : ChainRef) (pre rest : List StkEnt) (e : StkEnt) (i : BrI) (c : Chain) (s : State),
    (wholeOf s r c i.pred i.pneg ([]) ([])) ∧
    (c.stack = pre ++ e :: rest) ∧
    ((∀ x ∈ pre, x.kind ≠ 2 ∧ x.mask &&& ~~~c.exited = 0)) ∧
    (e.kind ≠ 2) ∧
    (e.mask &&& ~~~c.exited ≠ 0) :=
  ⟨at0, [{ mask := 1, pc := 3, kind := 1 }], [], { mask := 3, pc := 7, kind := 0 }, {}, { half with exited := 1, stack := [{ mask := 1, pc := 3, kind := 1 }, { mask := 3, pc := 7, kind := 0 }] }, onChain ({ half with exited := 1, stack := [{ mask := 1, pc := 3, kind := 1 }, { mask := 3, pc := 7, kind := 0 }] }), by and_intros <;> decide +kernel⟩

theorem wit_BranchesAndTheReconvergenceStack_7 : ∃ (r : ChainRef) (pre : List StkEnt) (rest : List StkEnt) (i : BrI) (c : Chain) (s : State),
    (wholeOf s r c i.pred i.pneg ([]) ([])) ∧
    (c.stack = pre ++ rest) ∧
    ((∀ x ∈ pre, x.kind ≠ 2 ∧ x.mask &&& ~~~c.exited = 0)) ∧
    (rest = [] ∨ (rest.head?.map (fun x => x.kind)) = some 2) ∧
    (c.settled = true) :=
  ⟨at0, [{ mask := 1, pc := 3, kind := 1 }], [{ mask := 3, pc := 7, kind := 2 }], {}, { half with exited := 1, stack := [{ mask := 1, pc := 3, kind := 1 }, { mask := 3, pc := 7, kind := 2 }] }, onChain ({ half with exited := 1, stack := [{ mask := 1, pc := 3, kind := 1 }, { mask := 3, pc := 7, kind := 2 }] }), by and_intros <;> decide +kernel⟩

theorem wit_BranchesAndTheReconvergenceStack_8 : ∃ (r : ChainRef) (i : BrI) (c : Chain) (s : State),
    (wholeOf s r c i.pred i.pneg ([]) ([])) ∧
    (roomFor s c 1) :=
  ⟨at0, { target := 5 }, half, onChain (half), by decide +kernel⟩

theorem wit_BranchesAndTheReconvergenceStack_9 : ∃ (r : ChainRef) (i : BrI) (c : Chain) (s : State),
    (wholeOf s r c i.pred i.pneg ([]) ([])) ∧
    (¬ roomFor s c 1) ∧
    (c.settled = true) :=
  ⟨at0, { target := 5 }, { half with stack := List.replicate 56 { mask := 1, pc := 0, kind := 0 } }, onChain ({ half with stack := List.replicate 56 { mask := 1, pc := 0, kind := 0 } }), by and_intros <;> decide +kernel⟩

theorem wit_BranchesAndTheReconvergenceStack_10 : ∃ (r : ChainRef) (e : StkEnt) (rest : List StkEnt) (i : BrI) (c : Chain) (s : State),
    (wholeOf s r c i.pred i.pneg ([]) ([])) ∧
    (c.stack = e :: rest) ∧
    (e.kind = 2) :=
  ⟨at0, { mask := 3, pc := 7, kind := 2 }, [], {}, { half with stack := [{ mask := 3, pc := 7, kind := 2 }] }, onChain ({ half with stack := [{ mask := 3, pc := 7, kind := 2 }] }), by decide +kernel⟩

theorem wit_BranchesAndTheReconvergenceStack_11 : ∃ (r : ChainRef) (i : BrI) (c : Chain) (s : State),
    (wholeOf s r c i.pred i.pneg ([]) ([])) ∧
    ((c.stack.head?.map (fun x => x.kind)) ≠ some 2) ∧
    (c.settled = true) :=
  ⟨at0, {}, half, onChain (half), by and_intros <;> decide +kernel⟩

theorem wit_BranchesAndTheReconvergenceStack_12 : ∃ (r : ChainRef) (i : BrI) (c : Chain) (s : State),
    (issues s r c [] []) ∧
    (c.active &&& ~~~(c.predOf i.pred i.pneg) ≠ 0) ∧
    (c.active &&& c.exited = 0) :=
  ⟨at0, { pred := 1 }, half, onChain half, by decide +kernel⟩

theorem wit_BranchesAndTheReconvergenceStack_13 : ∃ (r : ChainRef) (i : BrI) (c : Chain) (e : StkEnt) (rest : List StkEnt) (s : State),
    (issues s r c [] []) ∧
    (c.active &&& ~~~(c.predOf i.pred i.pneg) = 0) ∧
    (c.exited ||| c.active ≠ 0xFFFFFFFF) ∧
    (c.stack = e :: rest) ∧
    (e.kind ≠ 2) ∧
    (e.mask &&& ~~~(c.exited ||| c.active) ≠ 0) :=
  ⟨at0, {}, { half with stack := [{ mask := 0xFFFFFFFF, pc := 7, kind := 0 }] }, { mask := 0xFFFFFFFF, pc := 7, kind := 0 }, [], onChain { half with stack := [{ mask := 0xFFFFFFFF, pc := 7, kind := 0 }] }, by decide +kernel⟩

theorem wit_BranchesAndTheReconvergenceStack_14 : ∃ (r : ChainRef) (i : BrI) (c : Chain) (s : State),
    (issues s r c [] []) ∧
    (c.active &&& ~~~(c.predOf i.pred i.pneg) = 0) ∧
    (c.exited ||| c.active = 0xFFFFFFFF) ∧
    (c.loads = []) :=
  ⟨at0, {}, runner, running, by decide +kernel⟩

theorem wit_BranchesAndTheReconvergenceStack_15 : ∃ (core slot : Nat) (s : State) (c : Chain),
    (s.chain? core slot = some c) ∧
    (twf (s.core core).chains = true) ∧
    (s.group? c.cid c.group = none) :=
  ⟨272, 0, { cores := [(272, { chains := [(0, runner)] })] }, runner, by and_intros <;> decide +kernel⟩

theorem wit_LocalAccesses_1 : ∃ (r : ChainRef) (i : MemI) (c : Chain) (s : State),
    (accesses s r c i (dataRegs i.vds.toNat (memBytes i)) ([])) ∧
    (localOk s r c i (memBytes i)) ∧
    (s.markOk r.core.val r.slot.val c i 1 = true) :=
  ⟨at0, { vds := 1, voff := 5, ubase := 1, size := 2, imm := 0 }, user, localState, by decide +kernel⟩

theorem wit_LocalAccesses_2 : ∃ (r : ChainRef) (i : MemI) (c : Chain) (s : State),
    (accesses s r c i (dataRegs i.vds.toNat (memBytes i)) ([])) ∧
    (localOk s r c i (memBytes i)) ∧
    (s.markOk r.core.val r.slot.val c i 1 = true) ∧
    (c.settled = true) :=
  ⟨at0, { vds := 1, voff := 5, ubase := 1, size := 2, imm := 0 }, user, localState, by and_intros <;> decide +kernel⟩

theorem wit_LocalAccesses_3 : ∃ (c : Chain) (v l n : Nat),
    (n ≤ 16) ∧
    (v ≠ 255) :=
  ⟨runner, 1, 1, 8, by decide +kernel⟩

theorem wit_LocalAccesses_4 : ∃ (core a : Nat) (bs : List Byte) (s : State),
    (s.waiters = []) :=
  ⟨0, 5, [1, 2], running, by decide +kernel⟩

theorem wit_LocalAccesses_5 : ∃ (core a : Nat) (bs : List Byte) (s : State),
    ((∀ w ∈ s.waiters, w.lsCore = some core → w.addr + 8 ≤ a ∨ a + bs.length ≤ w.addr)) :=
  ⟨0, 5, [1, 2], running, by decide +kernel⟩

theorem wit_LocalAccesses_6 : ∃ (r : ChainRef) (op : AtomOp) (i : MemI) (c : Chain) (s : State),
    (accesses s r c i (atomRegs op i.vds.toNat i.size.toNat) ([])) ∧
    (i.size = 2 ∨ i.size = 3) ∧
    (localOk s r c i (memBytes i)) ∧
    (s.markOk r.core.val r.slot.val c i 1 = true) ∧
    (c.settled = true) :=
  ⟨at0, .add, { vds := 1, voff := 5, ubase := 1, size := 2, imm := 0 }, user, localState, by and_intros <;> decide +kernel⟩

theorem wit_LocalAccesses_7 : ∃ (r : ChainRef) (op : AtomOp) (i : MemI) (c d : Chain) (a l : Nat) (s : State),
    (s.waiters = []) ∧
    (i.size = 2) ∧
    (i.vds ≠ 255) ∧
    (s.chain? r.core.val r.slot.val = some d) :=
  ⟨at0, .cas, { vds := 1, voff := 5, ubase := 1, size := 2, imm := 0 }, user, user, 0x40, 0, localState, by decide +kernel⟩

theorem wit_LocalAccesses_8 : ∃ (w old v p : Nat),
    (old < 2 ^ w) ∧
    (v < 2 ^ w) :=
  ⟨32, 5, 7, 5, by decide +kernel⟩

theorem wit_LocalAccesses_9 : ∃ (r : ChainRef) (i : MemI) (c : Chain) (s : State),
    (accesses s r c i (dataRegs i.vds.toNat (memBytes i)) ([])) ∧
    (localOk s r c i (memBytes i)) ∧
    (s.markOk r.core.val r.slot.val c i 1 = false) :=
  ⟨at0, { vds := 1, voff := 5, ubase := 1, size := 2, ord := 2 }, { user with acquiring := true }, { localState with cores := [(0, { chains := [(0, { user with acquiring := true })] })] }, by decide +kernel⟩

theorem wit_GlobalAccesses_1 : ∃ (r : ChainRef) (dev : Bool) (i : MemI) (c : Chain) (s : State),
    (accesses s r c i (dataRegs i.vds.toNat (memBytes i)) ([])) ∧
    (globalOk s r c i.buf.toNat (by_ c i) (offOf c i) (memBytes i) false) ∧
    (allDevice s r c i dev (accsOf s r c i)) ∧
    (clearOf s r c dev (accsOf s r c i) (memBytes i)) ∧
    (marksLet s r c i (accsOf s r c i)) :=
  ⟨at0, false, { vds := 1, voff := 5, ubase := 0, buf := 2, size := 2 }, user, bufferState, by and_intros <;> decide +kernel⟩

theorem wit_GlobalAccesses_2 : ∃ (core b off : Nat) (c : Chain) (k : Cmd) (p : Piece) (s : State),
    (s.chainCmd c = some k) ∧
    (isControl core = false) ∧
    (k.pieces.find? (fun p => p.ext == b && decide (p.off ≤ off) && decide (off < p.off + p.len)) = some p) :=
  ⟨0, 2, 16, user, bufferCmd, { ext := 2, off := 0, len := 0x1000, va := 0x10000, pa := 0x500000000, ro := false, io := false, hide := 0, tag := 0, gen := 0 }, bufferState, by decide +kernel⟩

theorem wit_GlobalAccesses_4 : ∃ (core slot hide a : Nat) (c : Chain) (l : Load) (s : State),
    (s.isLocal a = false) ∧
    (isHostPa a = false) :=
  ⟨0, 0, 0, 0x10000000000, user, plainLoad, {}, by and_intros <;> decide +kernel⟩

theorem wit_GlobalAccesses_5 : ∃ (r : ChainRef) (l : Nat) (bs : List Byte) (i : MemI) (c : Chain) (s : State),
    (accesses s r c i (dataRegs i.vds.toNat (memBytes i)) ([])) ∧
    (globalOk s r c i.buf.toNat (by_ c i) (offOf c i) (memBytes i) false) ∧
    (lanes (by_ c i) = [l]) ∧
    (i.size.toNat ≤ 2) ∧
    (allDevice s r c i false (accsOf s r c i)) ∧
    (i.ord.toNat % 2 = 0) ∧
    (forward (s.core r.core.val).sb r.slot.val c (s.globalPa r.core.val c i.buf.toNat (offOf c i l)) (memBytes i) = .bytes bs) ∧
    (marksLet s r c i (accsOf s r c i)) :=
  ⟨at0, 0, [1, 2, 3, 4], { vds := 1, voff := 5, ubase := 0, buf := 2, size := 2 }, { user with active := 1 }, { bufferState with cores := [(0, { chains := [(0, { user with active := 1 })], sb := [{ storeEnt with data := [(0x500000000, 1), (0x500000001, 2), (0x500000002, 3), (0x500000003, 4)] }] })] }, by and_intros <;> decide +kernel⟩

theorem wit_GlobalAccesses_6 : ∃ (sb : List SbEnt) (c : Chain) (slot a n : Nat),
    (0 < n) :=
  ⟨[storeEnt], runner, 0, 0x500000000, 1, by decide +kernel⟩

theorem wit_GlobalAccesses_7 : ∃ (r : ChainRef) (dev : Bool) (i : MemI) (c : Chain) (s : State),
    (accesses s r c i ([]) ([i.vds.toNat])) ∧
    (i.voff = 255) ∧
    (globalOk s r c i.buf.toNat (by_ c i) (fun _ => offOf c i 0) 8 false) ∧
    (allDevice s r c i dev [lduAcc s r c i]) ∧
    (clearOf s r c dev [lduAcc s r c i] 8) ∧
    (marksLet s r c i [lduAcc s r c i]) :=
  ⟨at0, false, { voff := 255, ubase := 0, buf := 2, size := 2 }, user, bufferState, by and_intros <;> decide +kernel⟩

theorem wit_GlobalAccesses_9 : ∃ (r : ChainRef) (i : MemI) (c : Chain) (s : State),
    (accesses s r c i (dataRegs i.vds.toNat (memBytes i)) ([])) ∧
    (globalOk s r c i.buf.toNat (by_ c i) (offOf c i) (memBytes i) true) ∧
    (allDevice s r c i false (accsOf s r c i)) ∧
    ((s.core r.core.val).sb.length + (storeEntries s r c i).length ≤ 64) ∧
    ((∀ x ∈ accsOf s r c i, c.loading x.pa (memBytes i) = false)) ∧
    (marksLet s r c i (accsOf s r c i)) ∧
    (c.settled = true) :=
  ⟨at0, { vds := 1, voff := 5, ubase := 0, buf := 2, size := 2 }, user, { bufferState with cores := [(0, { chains := [(0, user)], sb := List.replicate 63 storeEnt })] }, by and_intros <;> decide +kernel⟩

theorem wit_GlobalAccesses_10 : ∃ (r : ChainRef) (i : MemI) (c : Chain) (s : State),
    (accesses s r c i (dataRegs i.vds.toNat (memBytes i)) ([])) ∧
    (globalOk s r c i.buf.toNat (by_ c i) (offOf c i) (memBytes i) true) ∧
    (allDevice s r c i true (accsOf s r c i)) ∧
    (s.deviceBusy r.core.val r.slot.val c false = false) ∧
    ((s.core r.core.val).sb.length + (accsOf s r c i).length ≤ 64) ∧
    ((∀ x ∈ accsOf s r c i, c.loading x.pa (memBytes i) = false)) ∧
    (marksLet s r c i (accsOf s r c i)) ∧
    (c.settled = true) :=
  ⟨atCtl, { vds := 1, voff := 5, ubase := 1, size := 2 }, { ctlUser with u := [(1, 0xFF02000000)] }, { ctlState with cores := [(272, { chains := [(0, { ctlUser with u := [(1, 0xFF02000000)] })] })] }, by and_intros <;> decide +kernel⟩

theorem wit_GlobalAccesses_12 : ∃ (c : Chain) (k : Cmd) (slot hide : Nat) (mask : W32) (dev : Bool) (d : List (Nat × Byte)) (x : List SbAtom) (s : State),
    (s.chainCmd c = some k) :=
  ⟨user, bufferCmd, 0, 0, 1, false, [], [], bufferState, by decide +kernel⟩

theorem wit_GlobalAccesses_13 : ∃ (r : ChainRef) (op : AtomOp) (i : MemI) (c : Chain) (s : State),
    (accesses s r c i (atomRegs op i.vds.toNat i.size.toNat) ([])) ∧
    (i.size = 2 ∨ i.size = 3) ∧
    (globalOk s r c i.buf.toNat (by_ c i) (offOf c i) (memBytes i) true) ∧
    ((∀ x ∈ accsOf s r c i, hostAtomOk op = true ∨ isHostPa x.pa = false)) ∧
    (allDevice s r c i false (accsOf s r c i)) ∧
    ((s.core r.core.val).sb.length + (atomEntries s r c op i).length ≤ 64) ∧
    ((∀ x ∈ accsOf s r c i, c.loading x.pa (memBytes i) = false)) ∧
    (marksLet s r c i (accsOf s r c i)) ∧
    (c.settled = true) :=
  ⟨at0, .cas, { vds := 1, voff := 5, ubase := 0, buf := 2, size := 2 }, user, bufferState, by and_intros <;> decide +kernel⟩

theorem wit_GlobalAccesses_14 : ∃ (r : ChainRef) (op : AtomOp) (i : MemI) (c : Chain) (s : State),
    (accesses s r c i (atomRegs op i.vds.toNat i.size.toNat) ([])) ∧
    (i.size = 2 ∨ i.size = 3) ∧
    (globalOk s r c i.buf.toNat (by_ c i) (offOf c i) (memBytes i) true) ∧
    ((∀ x ∈ accsOf s r c i, hostAtomOk op = true ∨ isHostPa x.pa = false)) ∧
    (allDevice s r c i true (accsOf s r c i)) ∧
    (s.deviceBusy r.core.val r.slot.val c false = false) ∧
    ((s.core r.core.val).sb.length + (accsOf s r c i).length ≤ 64) ∧
    ((∀ x ∈ accsOf s r c i, c.loading x.pa (memBytes i) = false)) ∧
    (marksLet s r c i (accsOf s r c i)) ∧
    (c.settled = true) :=
  ⟨at0, .cas, { vds := 1, voff := 5, ubase := 0, buf := 2, size := 2 }, user, ioState, by and_intros <;> decide +kernel⟩

theorem wit_GlobalAccesses_15 : ∃ (c : Chain) (op : AtomOp) (v l : Nat),
    (v < 254) :=
  ⟨user, .cas, 1, 0, by decide +kernel⟩

theorem wit_GlobalAccesses_16 : ∃ (r : ChainRef) (i : MemI) (c : Chain) (s : State),
    (accesses s r c i ([]) ([])) ∧
    (globalOk s r c i.buf.toNat (by_ c i) (offOf c i) (memBytes i) false) ∧
    (c.acquiring = false) ∧
    (i.na = true ∨ prefAccs s r c i = []) :=
  ⟨at0, { voff := 5, ubase := 0, buf := 2, size := 2, na := true }, user, bufferState, by and_intros <;> decide +kernel⟩

theorem wit_GlobalAccesses_17 : ∃ (r : ChainRef) (i : MemI) (c : Chain) (s : State),
    (accesses s r c i ([]) ([])) ∧
    (globalOk s r c i.buf.toNat (by_ c i) (offOf c i) (memBytes i) false) ∧
    (c.acquiring = false) ∧
    (i.na = false) ∧
    (prefAccs s r c i ≠ []) :=
  ⟨at0, { voff := 5, ubase := 0, buf := 2, size := 2 }, user, bufferState, by and_intros <;> decide +kernel⟩

theorem wit_GlobalAccesses_19 : ∃ (r : ChainRef) (i : MemI) (c : Chain) (s : State),
    (accesses s r c i (dataRegs i.vds.toNat (memBytes i)) ([])) ∧
    (globalOk s r c i.buf.toNat (by_ c i) (offOf c i) (memBytes i) true) ∧
    ((s.core r.core.val).sb.length = 64) :=
  ⟨at0, { vds := 1, voff := 5, ubase := 0, buf := 2, size := 2 }, user, { bufferState with cores := [(0, { chains := [(0, user)], sb := List.replicate 64 storeEnt })] }, by decide +kernel⟩

theorem wit_MatrixUnitUse_1 : ∃ (r : ChainRef) (i : MxI) (c : Chain) (k : Cmd) (a : Nat) (s : State),
    (mxIssues s r c k i) ∧
    (mxLegal i.fmtA.toNat i.modeA.toNat) ∧
    (mxLegal i.fmtB.toNat i.modeB.toNat) ∧
    (permits s k i.fmtA.toNat) ∧
    (permits s k i.fmtB.toNat) ∧
    (lsFits s r c (c.ureg i.uaddr.toNat).toNat (128 * mxRowLen i.fmtB.toNat (pairDepth i))) ∧
    (lsFits s r c (c.ureg i.uaux.toNat).toNat (128 * mxScaleLen i.modeB.toNat (pairDepth i))) ∧
    (mxMine s r c k a) :=
  ⟨at0, { fmtA := 0x09, fmtB := 0x09 }, mxChain, kernelCmd, 1998784, mxState, by and_intros <;> decide +kernel⟩

theorem wit_MatrixUnitUse_2 : ∃ (core a sa fmt mode d col n : Nat) (s : State),
    (col < 128) ∧
    (n < 128 * d) ∧
    (d ≤ 4) ∧
    (fmtPlanes fmt = false) :=
  ⟨0, 0, 0, 9, 0, 1, 3, 5, mxState, by decide +kernel⟩

theorem wit_MatrixUnitUse_3 : ∃ (r : ChainRef) (bad : Fin 3) (i : MxI) (c : Chain) (k : Cmd) (a : Nat) (s : State),
    (mxIssues s r c k i) ∧
    (mxLegal i.fmtA.toNat i.modeA.toNat) ∧
    (mxLegal i.fmtB.toNat i.modeB.toNat) ∧
    (permits s k i.fmtA.toNat) ∧
    (permits s k i.fmtB.toNat) ∧
    (lsFits s r c (c.ureg i.uaddr.toNat).toNat ((i.rows.toNat + 1) * mxRowLen i.fmtA.toNat (pairDepth i))) ∧
    (lsFits s r c (c.ureg i.uaux.toNat).toNat ((i.rows.toNat + 1) * mxScaleLen i.modeA.toNat (pairDepth i))) ∧
    (mxMine s r c k a) ∧
    (bad ≠ 2) :=
  ⟨at0, 0, { fmtA := 0x09, fmtB := 0x09, rows := 1 }, mxChain, kernelCmd, 1998784, mxState, by and_intros <;> decide +kernel⟩

theorem wit_MatrixUnitUse_4 : ∃ (u : MxUnit) (fmtB modeB d : Nat) (rows : List (List (FV × Bool))),
    ((u.swap).b0.fmt = fmtB) ∧
    ((u.swap).b0.mode = modeB) ∧
    ((u.swap).b0.d = d) ∧
    ((∀ n j, n < rows.length → j < 128 → -(2 ^ 127 : Int) ≤ tget u.acc (n * 128 + j) 0 + (dotProduct (rows.getD n []) ((List.range (128 * d)).map (fun e => (u.swap).b0.elem j e))).1 ∧ tget u.acc (n * 128 + j) 0 + (dotProduct (rows.getD n []) ((List.range (128 * d)).map (fun e => (u.swap).b0.elem j e))).1 < 2 ^ 127)) :=
  ⟨{}, 0, 0, 1, [[]], by decide +kernel, by decide +kernel, by decide +kernel, by intro n j _ _; cases n <;> simp [Machine.dotProduct, tget, tfind]⟩

theorem wit_MatrixUnitUse_6 : ∃ (r : ChainRef) (i : MxI) (c : Chain) (k : Cmd) (a : Nat) (s : State),
    (mxIssues s r c k i) ∧
    (mxLegal i.fmtA.toNat i.modeA.toNat) ∧
    (mxLegal i.fmtB.toNat i.modeB.toNat) ∧
    (permits s k i.fmtA.toNat) ∧
    (permits s k i.fmtB.toNat) ∧
    (lsFits s r c (c.ureg i.uaddr.toNat).toNat ((i.rows.toNat + 1) * mxRowLen i.fmtA.toNat (pairDepth i))) ∧
    (lsFits s r c (c.ureg i.uaux.toNat).toNat ((i.rows.toNat + 1) * mxScaleLen i.modeA.toNat (pairDepth i))) ∧
    (mxMine s r c k a) :=
  ⟨at0, { fmtA := 0x09, fmtB := 0x09, rows := 1 }, mxChain, kernelCmd, 1998784, mxState, by and_intros <;> decide +kernel⟩

theorem wit_MatrixUnitUse_7 : ∃ (r : ChainRef) (i : MxI) (c : Chain) (k : Cmd) (a : Nat) (s : State),
    (mxIssues s r c k i) ∧
    (i.fmtA = 0x0E ∨ i.fmtA = 0x0F) ∧
    (i.modeA.toNat < 5) ∧
    (i.modeB.toNat < 5) ∧
    (lsFits s r c (c.ureg i.uaddr.toNat).toNat (512 * (i.rows.toNat + 1))) ∧
    (mxMine s r c k a) :=
  ⟨at0, { fmtA := 0x0E, rows := 1 }, mxChain, kernelCmd, 1998784, mxState, by and_intros <;> decide +kernel⟩

theorem wit_MatrixUnitUse_8 : ∃ (r : ChainRef) (i : MxI) (c : Chain) (k : Cmd) (a : Nat) (s : State),
    (mxIssues s r c k i) ∧
    (i.modeA.toNat < 5) ∧
    (i.modeB.toNat < 5) ∧
    (mxMine s r c k a) :=
  ⟨at0, {}, mxChain, kernelCmd, 1998784, mxState, by and_intros <;> decide +kernel⟩

theorem wit_MatrixUnitUse_9 : ∃ (r : ChainRef) (i : MxI) (c : Chain) (k : Cmd) (a : Nat) (s : State),
    (mxIssues s r c k i) ∧
    (i.modeA.toNat < 5) ∧
    (i.modeB.toNat < 5) ∧
    (mxMine s r c k a) :=
  ⟨at0, {}, mxChain, kernelCmd, 1998784, mxState, by and_intros <;> decide +kernel⟩

theorem wit_MatrixUnitUse_10 : ∃ (core slot : Nat) (c : Chain) (s : State),
    (s.chain? core slot = some c) ∧
    ((∀ x ∈ s.groupsOn core, x.savedMx = none)) :=
  ⟨0, 0, mxChain, mxState, by and_intros <;> decide +kernel⟩

theorem wit_MatrixUnitUse_11 : ∃ (core : Nat) (x : Group) (u : MxUnit) (s : State),
    ((s.groupsOn core).find? (fun y => y.savedMx.isSome) = some x) ∧
    (x.savedMx = some u) :=
  ⟨0, { onCore0 with savedMx := some {} }, {}, placed { onCore0 with savedMx := some {} } runner, by and_intros <;> decide +kernel⟩

theorem wit_MatrixUnitUse_12 : ∃ (r : ChainRef) (i : MxI) (c : Chain) (k : Cmd) (x : Instr) (s : State),
    (mxIssues s r c k i) ∧
    (x = .mclr r i ∨ x = .mrel r i) ∧
    (i.modeA.toNat < 5) ∧
    (i.modeB.toNat < 5) ∧
    (s.acreHolds k.hide = true ∨ ((s.core r.core.val).unit.owner ≠ none ∧ (s.core r.core.val).unit.owner ≠ some k.ctx)) :=
  ⟨at0, {}, mxChain, kernelCmd, .mrel at0 {}, mxOther, by decide +kernel⟩

theorem wit_MatrixUnitUse_13 : ∃ (r : ChainRef) (i : MxI) (c : Chain) (k : Cmd) (x : Instr) (s : State),
    (mxIssues s r c k i) ∧
    (x = .mclr r i ∨ x = .mrel r i) ∧
    (i.modeA.toNat < 5) ∧
    (i.modeB.toNat < 5) ∧
    (s.unitTaken r.core.val r.slot.val c k = false) ∧
    ((s.core r.core.val).unit.owner = none) ∧
    (s.freeSlot k.ctx = none) :=
  ⟨at0, {}, mxChain, kernelCmd, .mrel at0 {}, { mxState with ctxs := [(3, { resident := true })] }, by and_intros <;> decide +kernel⟩

theorem wit_MatrixUnitUse_14 : ∃ (r : ChainRef) (i : MxI) (c : Chain) (k : Cmd) (x : Instr) (s : State),
    (mxIssues s r c k i) ∧
    (x = .mld r i ∨ x = .mmul r i 0) ∧
    (¬ mxLegal i.fmtA.toNat i.modeA.toNat ∨ ¬ mxLegal i.fmtB.toNat i.modeB.toNat) :=
  ⟨at0, { fmtA := 6, fmtB := 9 }, mxChain, kernelCmd, .mld at0 { fmtA := 6, fmtB := 9 }, mxState, by decide +kernel⟩

theorem wit_MatrixUnitUse_15 : ∃ (r : ChainRef) (i : MxI) (c : Chain) (k : Cmd) (x : Instr) (s : State),
    (mxIssues s r c k i) ∧
    (x = .mld r i ∨ x = .mmul r i 0) ∧
    (mxLegal i.fmtA.toNat i.modeA.toNat) ∧
    (mxLegal i.fmtB.toNat i.modeB.toNat) ∧
    (¬ permits s k i.fmtA.toNat ∨ ¬ permits s k i.fmtB.toNat) :=
  ⟨at0, { fmtA := 9, fmtB := 9 }, mxChain, kernelCmd, .mld at0 { fmtA := 9, fmtB := 9 }, { mxState with kod := { run := [(kodKey 0x3000 4, 1)] } }, by decide +kernel⟩

theorem wit_FencesBarriersAndEvents_1 : ∃ (r : ChainRef) (i : SysI) (c : Chain) (s : State),
    (wholeOf s r c i.pred i.pneg ([]) ([])) ∧
    (i.imm.toNat % 8 < 4) :=
  ⟨at0, { imm := 2 }, syncChain, syncState, by decide +kernel⟩

theorem wit_FencesBarriersAndEvents_2 : ∃ (r : ChainRef) (i : SysI) (c : Chain) (s : State),
    (wholeOf s r c i.pred i.pneg ([]) ([])) ∧
    (4 ≤ i.imm.toNat % 8) ∧
    (c.settled = true) :=
  ⟨at0, { imm := 5 }, syncChain, syncState, by and_intros <;> decide +kernel⟩

theorem wit_FencesBarriersAndEvents_3 : ∃ (r : ChainRef) (i : SysI) (c : Chain) (s : State),
    (wholeOf s r c i.pred i.pneg ([]) ([])) :=
  ⟨at0, {}, syncChain, syncState, by decide +kernel⟩

theorem wit_FencesBarriersAndEvents_4 : ∃ (r : ChainRef) (c : Chain) (scope : Nat) (s : State),
    (fencing s r c scope) ∧
    (c.settled = true) ∧
    (performedAt s r c scope) :=
  ⟨at0, fenced, 2, onChain fenced, by and_intros <;> decide +kernel⟩

theorem wit_FencesBarriersAndEvents_5 : ∃ (r : ChainRef) (c : Chain) (scope : Nat) (s : State),
    (fencing s r c scope) ∧
    (c.settled = false ∨ ¬ performedAt s r c scope) :=
  ⟨at0, fenced, 2, { onChain fenced with cores := [(0, { chains := [(0, fenced)], sb := [storeEnt] })] }, by and_intros <;> decide +kernel⟩

theorem wit_FencesBarriersAndEvents_6 : ∃ (r : ChainRef) (i : SysI) (c : Chain) (s : State),
    (wholeOf s r c i.pred i.pneg ([]) ([])) ∧
    (performedAt s r c 1) ∧
    (c.settled = true) :=
  ⟨at0, { imm := 3 }, syncChain, syncState, by and_intros <;> decide +kernel⟩

theorem wit_FencesBarriersAndEvents_7 : ∃ (r : ChainRef) (i : SysI) (c : Chain) (s : State),
    (wholeOf s r c i.pred i.pneg ([]) ([])) ∧
    (¬ performedAt s r c 1) :=
  ⟨at0, { imm := 3 }, syncChain, { syncState with cores := [(0, { chains := [(0, syncChain)], sb := [storeEnt] })] }, by decide +kernel⟩

theorem wit_FencesBarriersAndEvents_8 : ∃ (core slot id : Nat) (c k : Chain) (j : Nat) (g : Group) (s : State),
    (s.group? c.cid c.group = some g) ∧
    (g.core = some core) ∧
    (g.barId = none ∨ g.barId = some id) ∧
    (j ∈ g.slots) ∧
    (s.chain? core j = some k) ∧
    (k.inGroup ∉ g.arrived) ∧
    (k.inGroup ≠ c.inGroup) :=
  ⟨0, 0, 5, syncChain, { syncChain with inGroup := 1 }, 1, { onCore0 with slots := [0, 1] }, { placed { onCore0 with slots := [0, 1] } syncChain with cores := [(0, { chains := [(0, syncChain), (1, { syncChain with inGroup := 1 })] })] }, by decide +kernel⟩

theorem wit_FencesBarriersAndEvents_9 : ∃ (core slot id : Nat) (c : Chain) (g : Group) (s : State),
    (s.group? c.cid c.group = some g) ∧
    (g.core = some core) ∧
    (g.barId = none ∨ g.barId = some id) ∧
    (g.slots = [slot]) ∧
    (s.chain? core slot = some c) ∧
    (c.st = .atBarrier id) :=
  ⟨0, 0, 5, { syncChain with st := .atBarrier 5 }, onCore0, placed onCore0 { syncChain with st := .atBarrier 5 }, by decide +kernel⟩

theorem wit_FencesBarriersAndEvents_10 : ∃ (r : ChainRef) (i : SysI) (c : Chain) (s : State),
    (wholeOf s r c i.pred i.pneg ([]) ([i.ud.toNat])) ∧
    (objFree s r c i true) ∧
    (s.objBuffered r.core.val (idOf c i) (whereOf s r c i).2 = false) ∧
    ((idOf c i).getLsbD 45 = false) ∧
    (objMine s r (whereOf s r c i)) ∧
    (s.objRead (whereOf s r c i).1 (whereOf s r c i).2 4 ≠ 0) :=
  ⟨at0, { ud := 1 }, syncChain, syncState, by and_intros <;> decide +kernel⟩

theorem wit_FencesBarriersAndEvents_11 : ∃ (r : ChainRef) (i : SysI) (c : Chain) (s : State),
    (wholeOf s r c i.pred i.pneg ([]) ([i.ud.toNat])) ∧
    (objFree s r c i true) ∧
    (s.objBuffered r.core.val (idOf c i) (whereOf s r c i).2 = false) ∧
    ((idOf c i).getLsbD 45 = false) ∧
    (objMine s r (whereOf s r c i)) ∧
    (s.objRead (whereOf s r c i).1 (whereOf s r c i).2 4 = 0) :=
  ⟨at0, { ud := 1, imm := 1 }, syncChain, syncState, by and_intros <;> decide +kernel⟩

theorem wit_FencesBarriersAndEvents_12 : ∃ (r : ChainRef) (i : SysI) (c : Chain) (s : State),
    (wholeOf s r c i.pred i.pneg ([]) ([i.ud.toNat])) ∧
    (objFree s r c i false) ∧
    (s.objBuffered r.core.val (idOf c i) (whereOf s r c i).2 = false) ∧
    ((idOf c i).getLsbD 45 = true) ∧
    (objMine s r (whereOf s r c i)) :=
  ⟨at0, { ud := 2 }, syncChain, syncState, by and_intros <;> decide +kernel⟩

theorem wit_FencesBarriersAndEvents_13 : ∃ (r : ChainRef) (i : SysI) (c : Chain) (s : State),
    (wholeOf s r c i.pred i.pneg ([]) ([i.ud.toNat])) ∧
    (objFree s r c i (!(idOf c i).getLsbD 45)) ∧
    (s.objBuffered r.core.val (idOf c i) (whereOf s r c i).2 = false) ∧
    ((whereOf s r c i).1 = none) ∧
    (s.isLocal (whereOf s r c i).2 = false) :=
  ⟨at0, { ud := 2 }, { user with u := [(2, 0x120000000080)] }, { onChain { user with u := [(2, 0x120000000080)] } with cmds := [{ bufferCmd with pieces := [{ ext := 2, off := 0, len := 0x1000, va := 0x10000, pa := 0x10000000000, ro := false, io := false, hide := 0, tag := 0, gen := 0 }] }] }, by and_intros <;> decide +kernel⟩

theorem wit_FencesBarriersAndEvents_14 : ∃ (r : ChainRef) (i : SysI) (c : Chain) (s : State),
    (wholeOf s r c i.pred i.pneg ([]) ([i.ud.toNat])) ∧
    (objFree s r c i true) ∧
    (s.released r.core.val r.slot.val c (s.objScope (idOf c i) (whereOf s r c i).2) = true) ∧
    ((idOf c i).getLsbD 45 = false) ∧
    (objMine s r (whereOf s r c i)) :=
  ⟨at0, { ud := 1 }, syncChain, syncState, by and_intros <;> decide +kernel⟩

theorem wit_FencesBarriersAndEvents_15 : ∃ (ls : Option Nat) (a ctx : Nat) (s : State),
    (s.waiters = []) ∧
    (s.objRead ls a 4 + 1 < 2 ^ 32) :=
  ⟨some 0, 0x40, 3, syncState, by decide +kernel⟩

theorem wit_FencesBarriersAndEvents_16 : ∃ (r : ChainRef) (i : SysI) (c : Chain) (s : State),
    (wholeOf s r c i.pred i.pneg ([]) ([i.ud.toNat])) ∧
    (objFree s r c i true) ∧
    (s.released r.core.val r.slot.val c (s.objScope (idOf c i) (whereOf s r c i).2) = true) ∧
    ((idOf c i).getLsbD 45 = true) ∧
    (objMine s r (whereOf s r c i)) ∧
    (nbits (s.objRead (whereOf s r c i).1 (whereOf s r c i).2 8) 55 28 + 1 < nbits (s.objRead (whereOf s r c i).1 (whereOf s r c i).2 8) 27 0) :=
  ⟨at0, { ud := 2 }, syncChain, { syncState with cores := [(0, { chains := [(0, syncChain)], ls := [(0x80, 2)] })] }, by and_intros <;> decide +kernel⟩

theorem wit_FencesBarriersAndEvents_17 : ∃ (r : ChainRef) (i : SysI) (c : Chain) (s : State),
    (wholeOf s r c i.pred i.pneg ([]) ([i.ud.toNat])) ∧
    (objFree s r c i true) ∧
    ((whereOf s r c i).1 = none) ∧
    (s.isLocal (whereOf s r c i).2 = true) ∧
    (s.lineOwn { id := r.core.val, node := r.slot.val + 64 } ((whereOf s r c i).2 / 128) = false) :=
  ⟨at0, { ud := 2 }, { user with u := [(2, 0x120000000080)] }, { onChain { user with u := [(2, 0x120000000080)] } with cmds := [bufferCmd], lines := [(0x500000080 / 128, busyLine)] }, by and_intros <;> decide +kernel⟩

theorem wit_FencesBarriersAndEvents_18 : ∃ (r : ChainRef) (i : SysI) (c : Chain) (s : State),
    (wholeOf s r c i.pred i.pneg ([]) ([i.ud.toNat])) ∧
    (objFree s r c i true) ∧
    (s.released r.core.val r.slot.val c (s.objScope (idOf c i) (whereOf s r c i).2) = true) ∧
    ((whereOf s r c i).1 = none) ∧
    (s.isLocal (whereOf s r c i).2 = false) :=
  ⟨at0, { ud := 2 }, { user with u := [(2, 0x120000000080)] }, { onChain { user with u := [(2, 0x120000000080)] } with cmds := [{ bufferCmd with pieces := [{ ext := 2, off := 0, len := 0x1000, va := 0x10000, pa := 0x10000000000, ro := false, io := false, hide := 0, tag := 0, gen := 0 }] }] }, by decide +kernel⟩

theorem wit_FencesBarriersAndEvents_19 : ∃ (r : ChainRef) (e : Exc) (i : SysI) (c : Chain) (s : State),
    (wholeOf s r c i.pred i.pneg ([]) ([i.ud.toNat])) ∧
    (s.objExc r.core.val c (idOf c i) (!(idOf c i).getLsbD 45) = some e) ∧
    (c.settled = true) :=
  ⟨at0, { cause := 5, lanes := 0xFFFFFFFF }, { ud := 1 }, { runner with u := [(1, 0x41)] }, { placed { onCore0 with lsSize := 4096 } { runner with u := [(1, 0x41)] } with btime := 0 }, by and_intros <;> decide +kernel⟩

theorem wit_FencesBarriersAndEvents_20 : ∃ (r : ChainRef) (i : SysI) (c : Chain) (s : State),
    (wholeOf s r c i.pred i.pneg [] ([])) ∧
    (isControl r.core.val = true) :=
  ⟨atCtl, {}, ctlUser, ctlSync, by decide +kernel⟩

theorem wit_FencesBarriersAndEvents_21 : ∃ (t n : Nat) (x : Src) (s : State),
    ((n, x) ∈ s.eg.srcs) ∧
    ((s.src n).pending = true) ∧
    ((s.src n).enable = true) ∧
    ((s.src n).presented = true) ∧
    ((s.src n).target = t) :=
  ⟨0, 5, { pending := true, enable := true, presented := true, target := 0 }, { eg := { srcs := [(5, { pending := true, enable := true, presented := true, target := 0 })] } }, by and_intros <;> decide +kernel⟩

theorem wit_FencesBarriersAndEvents_22 : ∃ (r : ChainRef) (i : SysI) (c : Chain) (s : State),
    (wholeOf s r c i.pred i.pneg ([]) ([])) ∧
    (isControl r.core.val = false) ∧
    (c.settled = true) :=
  ⟨at0, {}, syncChain, syncState, by and_intros <;> decide +kernel⟩

theorem wit_TrapsAndExceptions_1 : ∃ (r : ChainRef) (i : SysI) (c : Chain) (s : State),
    (wholeOf s r c i.pred i.pneg ([]) ([])) ∧
    (c.settled = true) :=
  ⟨at0, { imm := 7 }, syncChain, syncState, by and_intros <;> decide +kernel⟩

theorem wit_TrapsAndExceptions_2 : ∃ (r : ChainRef) (c : Chain) (s : State),
    (issues s r c [] []) ∧
    (c.settled = true) :=
  ⟨at0, runner, running, by and_intros <;> decide +kernel⟩

theorem wit_TrapsAndExceptions_3 : ∃ (r : ChainRef) (c : Chain) (i : V3) (j : SysI) (x : Instr) (s : State),
    (s.chain? r.core.val r.slot.val = some c) ∧
    (s.mayIssue r.core.val c = true) ∧
    (s.pcOk r.core.val c = false) ∧
    (x = .mov r i ∨ x = .nopInstruction r j ∨ x = .illegalEncoding r) ∧
    (c.settled = true) :=
  ⟨at0, { runner with pc := 1 }, {}, {}, .mov at0 {}, onChain { runner with pc := 1 }, by and_intros <;> decide +kernel⟩

theorem wit_TrapsAndExceptions_4 : ∃ (r : ChainRef) (c : Chain) (i : V3) (s : State),
    (issues s r c (v3Regs i true true false true) (v3Uregs i)) ∧
    (c.lanesOf i.pred i.pneg ≠ 0) ∧
    (8 ≤ i.ty.toNat ∨ i.round = 3) ∧
    (c.settled = true) :=
  ⟨at0, runner, { ty := 8 }, running, by and_intros <;> decide +kernel⟩

theorem wit_TrapsAndExceptions_5 : ∃ (r : ChainRef) (c : Chain) (i : V3) (op : FOp) (s : State),
    (issues s r c (v3Regs i true true (op == .ffma) true) (v3Uregs i)) ∧
    (c.lanesOf i.pred i.pneg ≠ 0) ∧
    (i.round = 2) ∧
    (c.settled = true) :=
  ⟨at0, runner, { ty := 2, round := 2 }, .fmul, running, by and_intros <;> decide +kernel⟩

theorem wit_TrapsAndExceptions_6 : ∃ (r : ChainRef) (c : Chain) (i : V3) (s : State),
    (issues s r c (v3Regs i false true false true) (v3Uregs i)) ∧
    (c.lanesOf i.pred i.pneg ≠ 0) ∧
    (v3Reserved i = false) ∧
    ((c.vregs ≤ i.vd.toNat ∧ i.vd ≠ 255) ∨ (c.vregs ≤ i.vb.toNat ∧ i.vb ≠ 255 ∧ i.ub = false)) ∧
    (c.settled = true) :=
  ⟨at0, runner, { vd := 32 }, running, by and_intros <;> decide +kernel⟩

theorem wit_TrapsAndExceptions_7 : ∃ (r : ChainRef) (c : Chain) (i : V3) (j : MemI) (op : BitOp) (s : State),
    (issues s r c (v3Regs i true true false true ++ dataRegs j.vds.toNat (memBytes j) ++ [j.voff.toNat]) (v3Uregs i ++ [j.ubase.toNat])) ∧
    (c.lanesOf i.pred i.pneg = 0) ∧
    (c.lanesOf j.pred j.pneg = 0) :=
  ⟨at0, runner, { pneg := true, vd := 200, ty := 9 }, { pneg := true }, .and, running, by decide +kernel⟩

theorem wit_TrapsAndExceptions_8 : ∃ (r : ChainRef) (c : Chain) (i : BrI) (j : SysI) (s : State),
    (issues s r c [] []) ∧
    (i.pred = j.pred) ∧
    (i.pneg = j.pneg) ∧
    (c.lanesOf i.pred i.pneg ≠ c.active) ∧
    (c.settled = true) :=
  ⟨at0, runner, { pred := 1 }, { pred := 1 }, running, by and_intros <;> decide +kernel⟩

theorem wit_TrapsAndExceptions_9 : ∃ (r : ChainRef) (c : Chain) (i : MemI) (e : Exc) (s : State),
    (accesses s r c i (dataRegs i.vds.toNat (memBytes i)) []) ∧
    (c.settled = true) :=
  ⟨at0, user, { vds := 1, voff := 5, ubase := 0, buf := 2, size := 2 }, { cause := 5, lanes := 2 }, bufferState, by and_intros <;> decide +kernel⟩

theorem wit_TrapsAndExceptions_10 : ∃ (r : ChainRef) (c : Chain) (k : Cmd) (b bytes : Nat) (m : W32) (off : Nat → Nat) (write : Bool) (s : State),
    (s.chainCmd c = some k) ∧
    (isControl r.core.val = false) :=
  ⟨at0, user, bufferCmd, 2, 4, 3, (fun l => l), true, bufferState, by decide +kernel⟩

theorem wit_TrapsAndExceptions_11 : ∃ (r : ChainRef) (i : SysI) (c : Chain) (s : State),
    (wholeOf s r c i.pred i.pneg ([]) ([])) ∧
    (c.settled = false) :=
  ⟨at0, { imm := 7 }, { syncChain with loads := [plainLoad] }, onChain { syncChain with loads := [plainLoad] }, by and_intros <;> decide +kernel⟩

theorem wit_TrapsAndExceptions_12 : ∃ (core slot : Nat) (e : Exc) (c : Chain) (k : Cmd) (s : State),
    (s.chain? core slot = some c) ∧
    (core < 272) ∧
    (s.cmd? c.cid = some k) ∧
    (k.phase ≠ .ended) ∧
    (k.phase ≠ .stopping) :=
  ⟨0, 0, { cause := 5 }, runner, kernelCmd, running, by and_intros <;> decide +kernel⟩

theorem wit_TrapsAndExceptions_13 : ∃ (core slot : Nat) (e : Exc) (c : Chain) (k : Cmd) (s : State),
    (s.chain? core slot = some c) ∧
    (core < 272) ∧
    (s.cmd? c.cid = some k) ∧
    (k.phase = .stopping ∨ (k.phase = .ended ∧ k.status.getD 0 ≠ 0)) :=
  ⟨0, 0, { cause := 5 }, runner, { kernelCmd with phase := .stopping }, { running with cmds := [{ kernelCmd with phase := .stopping }] }, by and_intros <;> decide +kernel⟩

theorem wit_TrapsAndExceptions_14 : ∃ (core slot : Nat) (e : Exc) (c : Chain) (s : State),
    (s.chain? core slot = some c) ∧
    (272 ≤ core) ∧
    (c.st ≠ .sleeping) :=
  ⟨272, 0, { cause := 5 }, ctlUser, ctlState, by and_intros <;> decide +kernel⟩

/-! ## Instruction words, bit by bit from R173, R174 and R178 -/

/-- A word from its common bits (FORM, OPC, PRED, PNEG) and its bits 63:16. -/
def word (form opc pred pneg rest : Nat) : BitVec 64 := BitVec.ofNat 64 (form + opc * 2 ^ 4 + pred * 2 ^ 12 + pneg * 2 ^ 15 + rest * 2 ^ 16)

theorem test_word_v3 : decodeRiku at0 (word 0 0x22 2 1 (0x10 + 0x11 * 2 ^ 8 + 0x12 * 2 ^ 16 + 0x13 * 2 ^ 24 + 2 * 2 ^ 32 + 1 * 2 ^ 36)) =
    .faddFmulFfma at0 .ffma { pred := 2, pneg := true, vd := 0x10, va := 0x11, vb := 0x12, vc := 0x13, ty := 2, round := 1 } := by decide
theorem test_word_qnt : decodeRiku at0 (word 0 0x4B 7 0 (1 + 2 * 2 ^ 8 + 3 * 2 ^ 16 + 4 * 2 ^ 24 + 2 * 2 ^ 36 + 5 * 2 ^ 40)) =
    .qnt at0 11 { vd := 1, va := 2, vb := 3, vc := 4, round := 2, usel := 5 } := by decide
theorem test_word_vi : decodeRiku at0 (word 1 0x04 7 0 (1 + 2 * 2 ^ 8 + 0x12345678 * 2 ^ 16)) =
    .viImmediate at0 .xori { vd := 1, va := 2, imm := 0x12345678 } := by decide
theorem test_word_mem : decodeRiku at0 (word 2 0x17 7 0 (9 + 0xFF * 2 ^ 8 + 3 * 2 ^ 16 + 3 * 2 ^ 22 + 15 * 2 ^ 24 + 3 * 2 ^ 28 + 0x8000 * 2 ^ 32)) =
    .atoml at0 .cas { vds := 9, voff := 0xFF, ubase := 3, ord := 3, buf := 15, size := 3, imm := 0x8000 } := by decide
theorem test_word_br : decodeRiku at0 (word 3 0x01 1 0 (0x000010 + 0x000020 * 2 ^ 24)) =
    .braD at0 { pred := 1, target := 0x10, rpc := 0x20 } := by decide
theorem test_word_u_register : decodeRiku at0 (word 4 0x06 7 0 (1 + 2 * 2 ^ 8 + 3 * 2 ^ 16)) =
    .uArithmetic at0 .shl { ud := 1, ua := 2, ub := 3 } := by decide
theorem test_word_u_immediate : decodeRiku at0 (word 4 0x08 7 0 (1 + 1 * 2 ^ 15 + 0xFFFFFFFF * 2 ^ 16)) =
    .uArithmetic at0 .mov { ud := 1, useImm := true, imm := 0xFFFFFFFF } := by decide
theorem test_word_mx : decodeRiku at0 (word 5 0x02 7 0 (0x0E + 1 * 2 ^ 24 + 2 * 2 ^ 32 + 3 * 2 ^ 40)) =
    .mrd at0 { fmtA := 0x0E, uaddr := 1, uaux := 2, rows := 3 } := by decide
theorem test_word_sys : decodeRiku at0 (word 6 0x0C 7 0 (1 * 2 ^ 8 + 0xABCD * 2 ^ 32)) = .evsig at0 { ud := 1, imm := 0xABCD } := by decide
theorem test_word_reserved_form : decodeRiku at0 (word 7 0 7 0 0) = .illegalEncoding at0 := by decide
theorem test_word_unassigned : decodeRiku at0 (word 0 0x25 7 0 0) = .illegalEncoding at0 := by decide

/-! ## Ill-formed commands are refused -/

theorem test_wf_size : Instr.wf (.registerWrite .dev 0 3 0) = false := by decide
theorem test_wf_aligned : Instr.wf (.vfManagementWrite 1 4 8 0) = false := by decide
theorem test_wf_push_empty : Instr.wf (.pushSlotWrite 0 0 0 0 0) = false := by decide
theorem test_wf_push_end : Instr.wf (.pushSlotWrite 0 0 1020 8 0) = false := by decide
theorem test_wf_imm_without_ub : Instr.wf (.uArithmetic at0 .add { useImm := true, ub := 1 }) = false := by decide
theorem test_wf_ub_without_imm : Instr.wf (.ucmp at0 { ub := 1, imm := 1 }) = false := by decide
theorem test_wf_kod_len : KodReq.wf { src := .window, prof := 0, idx := 0, sub := 0, len := 4097, off := 0, data := [] } = false := by decide
theorem test_wf_kod_data : KodReq.wf { src := .window, prof := 0, idx := 0, sub := 0, len := 1, off := 0, data := [1, 2] } = false := by decide
theorem test_wf_kod_prof : KodReq.wf { src := .window, prof := 5, idx := 0, sub := 0, len := 0, off := 0, data := [] } = false := by decide
theorem test_wf_kod_idx : KodReq.wf { src := .window, prof := 0, idx := 65536, sub := 0, len := 0, off := 0, data := [] } = false := by decide
theorem test_wf_kod_sub : KodReq.wf { src := .window, prof := 0, idx := 0, sub := 256, len := 0, off := 0, data := [] } = false := by decide
theorem test_wf_msg_len : LMsg.wf { len := 129, data := List.replicate 129 0 } = false := by decide
theorem test_wf_msg_data : LMsg.wf { len := 2, data := [1] } = false := by decide
theorem test_wf_map_node : LmRec.wf { node := 16384 } = false := by decide
theorem test_wf_map_port : LmRec.wf { node := 0, links := [(32, 0, 0)] } = false := by decide
theorem test_wf_map_far_node : LmRec.wf { node := 0, links := [(0, 16384, 0)] } = false := by decide
theorem test_wf_map_far_port : LmRec.wf { node := 0, links := [(0, 0, 32)] } = false := by decide

/-! ## Reset -/

theorem test_reset_memOk : State.reset.memOk = true := by decide
theorem test_reset_queueOk : State.reset.queueOk = true := by decide

end Sys2Proof.Tests
end

section
/-! Proofs about the instruction words of the Riku ISA: which are illegal, and which of their bits are read
(R173 to R175, R178). -/

namespace Sys2Proof.Proofs

open Sys2Proof.Machine Sys2Proof.Claims

/-! ## Unassigned operations, form by form (R175, R178)

In each form the last case of the decoder is the one that takes every other OPC. -/

theorem decodeV3_illegal_iff (r : ChainRef) (opc : Nat) (i : V3) :
    decodeV3 r opc i = .illegalEncoding r ↔ assignedOpc 0 opc = false := by
  unfold decodeV3
  split
  case h_40 =>
    simp only [imp_false] at *
    split
    case isTrue hq =>
      simp [assignedOpc]
      omega
    case isFalse hq =>
      split
      case isTrue hd =>
        simp [assignedOpc]
        omega
      case isFalse hd =>
        simp [assignedOpc]
        omega
  all_goals simp [assignedOpc]

theorem decodeVi_illegal_iff (r : ChainRef) (opc : Nat) (i : VI) :
    decodeVi r opc i = .illegalEncoding r ↔ assignedOpc 1 opc = false := by
  unfold decodeVi
  split
  case h_6 =>
    simp only [imp_false] at *
    simp [assignedOpc]
    omega
  all_goals simp [assignedOpc]

theorem decodeMem_illegal_iff (r : ChainRef) (opc : Nat) (i : MemI) :
    decodeMem r opc i = .illegalEncoding r ↔ assignedOpc 2 opc = false := by
  unfold decodeMem
  split
  case h_23 =>
    simp only [imp_false] at *
    simp [assignedOpc]
    omega
  all_goals simp [assignedOpc]

theorem decodeBr_illegal_iff (r : ChainRef) (opc : Nat) (i : BrI) :
    decodeBr r opc i = .illegalEncoding r ↔ assignedOpc 3 opc = false := by
  unfold decodeBr
  split
  case h_7 =>
    simp only [imp_false] at *
    simp [assignedOpc]
    omega
  all_goals simp [assignedOpc]

theorem decodeU_illegal_iff (r : ChainRef) (opc : Nat) (i : UI) :
    decodeU r opc i = .illegalEncoding r ↔ assignedOpc 4 opc = false := by
  unfold decodeU
  split
  case h_11 =>
    simp only [imp_false] at *
    simp [assignedOpc]
    omega
  all_goals simp [assignedOpc]

theorem decodeMx_illegal_iff (r : ChainRef) (opc : Nat) (i : MxI) :
    decodeMx r opc i = .illegalEncoding r ↔ assignedOpc 5 opc = false := by
  unfold decodeMx
  split
  case h_6 =>
    simp only [imp_false] at *
    simp [assignedOpc]
    omega
  all_goals simp [assignedOpc]

theorem decodeSys_illegal_iff (r : ChainRef) (opc : Nat) (i : SysI) :
    decodeSys r opc i = .illegalEncoding r ↔ assignedOpc 6 opc = false := by
  unfold decodeSys
  split
  case h_13 =>
    simp only [imp_false] at *
    simp [assignedOpc]
    omega
  all_goals simp [assignedOpc]

theorem decodeRiku_illegal_iff (r : ChainRef) (w : BitVec 64) :
    decodeRiku r w = .illegalEncoding r ↔ assignedOpc (w.extractLsb' 0 4).toNat (opcOf w) = false := by
  unfold decodeRiku
  split
  case h_1 h => rw [h]; exact decodeV3_illegal_iff ..
  case h_2 h => rw [h]; exact decodeVi_illegal_iff ..
  case h_3 h => rw [h]; exact decodeMem_illegal_iff ..
  case h_4 h => rw [h]; exact decodeBr_illegal_iff ..
  case h_5 h => rw [h]; exact decodeU_illegal_iff ..
  case h_6 h => rw [h]; exact decodeMx_illegal_iff ..
  case h_7 h => rw [h]; exact decodeSys_illegal_iff ..
  case h_8 => simp [-BitVec.extractLsb'_toNat, assignedOpc]

/-! ## Reserved bits (R173, R174)

A mask that keeps every bit of a field leaves what is read of the field. -/

theorem extractLsb'_and_of_ones {lo n : Nat} (w m : BitVec 64) (h : m.extractLsb' lo n = BitVec.allOnes n) :
    (w &&& m).extractLsb' lo n = w.extractLsb' lo n := by
  rw [BitVec.extractLsb'_and, h, BitVec.and_allOnes]

theorem getLsbD_and_of_one {k : Nat} (w m : BitVec 64) (h : m.getLsbD k = true) :
    (w &&& m).getLsbD k = w.getLsbD k := by
  rw [BitVec.getLsbD_and, h, Bool.and_true]

theorem v3Of_and (w : BitVec 64) : v3Of (w &&& 0x3FFFFFFFFFFFFFFF#64) = v3Of w := by
  simp (disch := decide) only [v3Of, predOf, extractLsb'_and_of_ones, getLsbD_and_of_one]

theorem opcOf_and {m : BitVec 64} (w : BitVec 64) (h : m.extractLsb' 4 8 = BitVec.allOnes 8) : opcOf (w &&& m) = opcOf w := by
  simp only [opcOf, extractLsb'_and_of_ones w m h]

theorem mxOf_and (w : BitVec 64) : mxOf (w &&& 0x1F3F3F3F1F1FFFFF#64) = mxOf w := by
  simp (disch := decide) only [mxOf, predOf, extractLsb'_and_of_ones, getLsbD_and_of_one]

theorem sysOf_and (w : BitVec 64) : sysOf (w &&& 0xFFFF0FFF3FFFFFFF#64) = sysOf w := by
  simp (disch := decide) only [sysOf, predOf, extractLsb'_and_of_ones, getLsbD_and_of_one]

theorem uiOf_and_imm (w : BitVec 64) (h : w.getLsbD 31 = true) : uiOf (w &&& 0xFFFFFFFFBF3FFFFF#64) = uiOf w := by
  simp (disch := decide) only [uiOf, predOf, extractLsb'_and_of_ones, getLsbD_and_of_one, h, if_true]

theorem uiOf_and_reg (w : BitVec 64) (h : w.getLsbD 31 = false) : uiOf (w &&& 0x0000003FBF3FFFFF#64) = uiOf w := by
  simp (disch := decide) only [uiOf, predOf, extractLsb'_and_of_ones, getLsbD_and_of_one, h, Bool.false_eq_true, if_false]

/-- The decoder reads no reserved bit. -/
theorem decodeRiku_usedBits (r : ChainRef) (w : BitVec 64) : decodeRiku r (usedBits w) = decodeRiku r w := by
  unfold usedBits
  split
  case h_1 h => simp (disch := decide) only [decodeRiku, extractLsb'_and_of_ones, opcOf_and, h, v3Of_and]
  case h_2 h =>
    split
    case isTrue hi => simp (disch := decide) only [decodeRiku, extractLsb'_and_of_ones, opcOf_and, h, uiOf_and_imm w hi]
    case isFalse hi =>
      simp (disch := decide) only [decodeRiku, extractLsb'_and_of_ones, opcOf_and, h, uiOf_and_reg w (Bool.eq_false_iff.mpr hi)]
  case h_3 h => simp (disch := decide) only [decodeRiku, extractLsb'_and_of_ones, opcOf_and, h, mxOf_and]
  case h_4 h => simp (disch := decide) only [decodeRiku, extractLsb'_and_of_ones, opcOf_and, h, sysOf_and]
  case h_5 => rfl

/-- Settles O10. The decoder's last cases are the unassigned encodings, and it reads the used bits alone; the words of
the tables evaluate. -/
theorem instructionWords : Obligations.InstructionWords := by
  unfold Obligations.InstructionWords
  refine ⟨decodeRiku_illegal_iff, fun r w v h => ?_, fun r => ?_⟩
  · rw [← decodeRiku_usedBits r w, h, decodeRiku_usedBits]
  · and_intros <;> rfl

end Sys2Proof.Proofs
end

section
/-! Proofs about the issue of a Riku instruction: what the shared issue operations do with a chain that may issue
(R162, R164, R176, R177, R193, R194). -/

namespace Sys2Proof.Proofs

open Sys2Proof.Machine Sys2Proof.Claims

/-! ## The scoreboard and the registers named (R162, R164) -/

/-- An instruction that names fewer registers is released as well. -/
theorem free_of_subset {c : Chain} {vs us ws xs : List Nat} (h : c.free vs us = true) (hv : ws ⊆ vs) (hu : xs ⊆ us) :
    c.free ws xs = true := by
  simp only [Chain.free, Bool.and_eq_true, Bool.not_eq_true', List.any_eq_false] at h ⊢
  obtain ⟨hvs, hus⟩ := h
  exact ⟨fun v m => hvs v (hv m), fun u m => hus u (hu m)⟩

theorem issues_of_subset {s : State} {r : ChainRef} {c : Chain} {vs us ws xs : List Nat} (h : issues s r c vs us)
    (hv : ws ⊆ vs) (hu : xs ⊆ us) : issues s r c ws xs := by
  obtain ⟨hc, hi, hp, hf⟩ := h
  exact ⟨hc, hi, hp, free_of_subset hf hv hu⟩

theorem outOfRange_of_mem {c : Chain} {vs : List Nat} {v : Nat} (hm : v ∈ vs) (hz : v ≠ 0xFF) (hv : c.vregs ≤ v) :
    c.outOfRange vs = true :=
  List.any_eq_true.mpr ⟨v, hm, by simp [hz, hv]⟩

section
variable {s : State} {r : ChainRef} {c : Chain} {vs us : List Nat}

/-! ## Actions after the fetch -/

theorem act_done (k : Chain) : (fetched s r c).act r.core.val r.slot.val c (.done k) = retire s r c k := rfl

theorem act_exc {e : Exc} (hs : c.settled = true) :
    (fetched s r c).act r.core.val r.slot.val c (.exc e) = raised s r c e := if_pos hs

/-- An exception waits while an earlier load may still raise one (R193). -/
theorem act_exc_waits {e : Exc} (hs : c.settled = false) :
    (fetched s r c).act r.core.val r.slot.val c (.exc e) = fetched s r c := by
  simp only [State.act, hs, Bool.false_eq_true, if_false]

/-! ## Issue -/

theorem issue_act (h : issues s r c vs us) (f : Chain → Act) :
    s.issue r vs us f = (fetched s r c).act r.core.val r.slot.val c (f c) := by
  obtain ⟨hc, hi, hp, hf⟩ := h
  simp only [State.issue, hc, hi, hp, hf, Bool.not_true, Bool.false_eq_true, if_false, fetched]

/-- FETCH comes before everything that an instruction asks for (R194). -/
theorem issue_outside_code (hc : s.chain? r.core.val r.slot.val = some c) (hi : s.mayIssue r.core.val c = true)
    (hp : s.pcOk r.core.val c = false) (hs : c.settled = true) (f : Chain → Act) :
    s.issue r vs us f = s.raise r.core.val r.slot.val { cause := 7, lanes := c.active } := by
  simp only [State.issue, State.act, hc, hi, hp, hs, Bool.not_true, Bool.not_false, Bool.false_eq_true, if_false, if_true]

/-! ## V3 and VI instructions (R176) -/

section
variable {pred : Fin 8} {neg : Bool}

theorem vector_idle (h : issues s r c vs us) (hm : c.lanesOf pred neg = 0) (illegal : Bool) (f : Chain → W32 → Chain) :
    s.vector r pred neg illegal vs us f = retire s r c (stepped c) := by
  rw [State.vector, issue_act h]
  simp only [hm, if_true]
  exact act_done _

theorem vector_illegal (h : issues s r c vs us) (hm : c.lanesOf pred neg ≠ 0) (hs : c.settled = true) {illegal : Bool}
    (hl : illegal = true) (f : Chain → W32 → Chain) :
    s.vector r pred neg illegal vs us f = raised s r c { cause := 1, lanes := c.lanesOf pred neg } := by
  rw [State.vector, issue_act h]
  simp only [hm, if_false, firstExc, hl, if_true]
  exact act_exc hs

theorem vector_outOfRange (h : issues s r c vs us) (hm : c.lanesOf pred neg ≠ 0) (hs : c.settled = true) {illegal : Bool}
    (hl : illegal = false) (ho : c.outOfRange vs = true) (f : Chain → W32 → Chain) :
    s.vector r pred neg illegal vs us f = raised s r c { cause := 2, lanes := c.lanesOf pred neg } := by
  rw [State.vector, issue_act h]
  simp only [hm, if_false, firstExc, hl, Bool.false_eq_true, ho, if_true]
  exact act_exc hs

/-! ## Instructions of the chain as a whole (R177) -/

theorem whole_act (h : wholeOf s r c pred neg vs us) (f : Chain → Act) :
    s.whole r pred neg vs us f = (fetched s r c).act r.core.val r.slot.val c (f c) := by
  rw [State.whole, issue_act h.1]
  simp only [Chain.uniform, h.2, if_true]

theorem whole_idle (h : issues s r c vs us) (ha : c.lanesOf pred neg ≠ c.active) (hm : c.lanesOf pred neg = 0)
    (f : Chain → Act) : s.whole r pred neg vs us f = retire s r c (stepped c) := by
  rw [State.whole, issue_act h]
  simp only [Chain.uniform, if_neg ha, if_pos hm]
  exact act_done _

theorem whole_diverge (h : issues s r c vs us) (ha : c.lanesOf pred neg ≠ c.active) (hm : c.lanesOf pred neg ≠ 0)
    (hs : c.settled = true) (f : Chain → Act) :
    s.whole r pred neg vs us f = raised s r c { cause := 3, lanes := c.active } := by
  rw [State.whole, issue_act h]
  simp only [Chain.uniform, if_neg ha, if_neg hm]
  exact act_exc hs

end

/-! ## MEM instructions (R167 to R169, R176) -/

/-- The model's address of a thread is the one of R167. -/
theorem memAddr_eq_offOf (c : Chain) (i : MemI) : c.memAddr i = offOf c i := by
  funext t
  simp [Chain.memAddr, sext16, offOf]

theorem memory_idle {i : MemI} (h : issues s r c (vs ++ [i.voff.toNat]) ([i.ubase.toNat] ++ us))
    (hm : c.lanesOf i.pred i.pneg = 0) (illegal : Bool) (f : Chain → W32 → Act) :
    s.memory r i illegal vs us f = retire s r c (stepped c) := by
  rw [State.memory, issue_act h]
  simp only [hm, if_true]
  exact act_done _

theorem local_idle {i : MemI} (h : issues s r c (vs ++ [i.voff.toNat]) [i.ubase.toNat]) (hm : c.lanesOf i.pred i.pneg = 0)
    (illegal : Bool) (bytes : Nat) (f : Chain → W32 → (Nat → Nat) → Act) :
    s.local r i illegal vs bytes f = retire s r c (stepped c) := by
  rw [State.local]
  exact memory_idle h hm illegal _

theorem memory_act {i : MemI} (h : accesses s r c i vs us) (f : Chain → W32 → Act) :
    s.memory r i false vs us f = (fetched s r c).act r.core.val r.slot.val c (f c (by_ c i)) := by
  obtain ⟨hi, ⟨hm, ho⟩, hz⟩ := h
  have hz' : ¬ 5 ≤ i.size.toNat := by omega
  rw [State.memory, issue_act hi]
  simp only [hm, if_false, firstExc, hz', decide_false, Bool.or_false, Bool.false_eq_true, ho]

theorem memory_exc {i : MemI} {e : Exc} (h : accesses s r c i vs us) (hs : c.settled = true) {f : Chain → W32 → Act}
    (hf : f c (by_ c i) = .exc e) : s.memory r i false vs us f = raised s r c e := by
  rw [memory_act h, hf]
  exact act_exc hs

/-- A local access whose address raises an exception raises that one. -/
theorem local_exc {i : MemI} {bytes : Nat} {e : Exc} (h : accesses s r c i vs []) (hs : c.settled = true)
    (he : s.localExc r.core.val c (by_ c i) (offOf c i) bytes = some e) (f : Chain → W32 → (Nat → Nat) → Act) :
    s.local r i false vs bytes f = raised s r c e := by
  rw [State.local]
  exact memory_exc h hs (by simp only [memAddr_eq_offOf, he])

theorem execLdg_exc {i : MemI} {e : Exc} (h : accesses s r c i (dataRegs i.vds.toNat (memBytes i)) [])
    (hs : c.settled = true)
    (he : s.globalExc r.core.val c i.buf.toNat (by_ c i) (offOf c i) (memBytes i) false = some e) :
    execLdg r i s = .next (raised s r c e) :=
  congrArg _ (memory_exc h hs (by simp only [memAddr_eq_offOf, he]))

theorem execStg_exc {i : MemI} {e : Exc} (h : accesses s r c i (dataRegs i.vds.toNat (memBytes i)) [])
    (hs : c.settled = true)
    (he : s.globalExc r.core.val c i.buf.toNat (by_ c i) (offOf c i) (memBytes i) true = some e) :
    execStg r i s = .next (raised s r c e) :=
  congrArg _ (memory_exc h hs (by simp only [memAddr_eq_offOf, he]))

end

end Sys2Proof.Proofs
end

section
/-! Proofs about exceptions: the threads that an address check finds, and what an exception does to the command or the
chain (R167, R168, R193 to R197, R203, R432, R441). -/

namespace Sys2Proof.Proofs

open Sys2Proof.Machine Sys2Proof.Claims

/-! ## The lanes of a mask for which a test holds -/

theorem mem_lanes {m : W32} {l : Nat} : l ∈ lanes m ↔ l < 32 ∧ m.getLsbD l = true := by
  simp only [lanes, List.mem_filter, List.mem_range]

/-- Bit l of a mask built lane by lane. -/
theorem getLsbD_foldl_lanes (f : Nat → Bool) {l : Nat} (hl : l < 32) (xs : List Nat) (hx : ∀ t ∈ xs, t < 32) (a : W32) :
    (xs.foldl (fun a t => if f t then a ||| (1#32 <<< t) else a) a).getLsbD l
      = (a.getLsbD l || (decide (l ∈ xs) && f l)) := by
  induction xs generalizing a with
  | nil => simp
  | cons t xs ih =>
    rw [List.foldl_cons, ih (fun u hu => hx u (List.mem_cons_of_mem _ hu))]
    by_cases ht : l = t
    · subst ht
      cases hf : f l <;> simp [hl]
    · have hb : (1#32 <<< t).getLsbD l = false := by
        rw [BitVec.getLsbD_shiftLeft, BitVec.getLsbD_one]
        simp
        omega
      cases hf : f t <;> simp [ht, hb, -BitVec.getLsbD_shiftLeft]

theorem getLsbD_lanesWhere (m : W32) (f : Nat → Bool) {l : Nat} (hl : l < 32) :
    (lanesWhere m f).getLsbD l = (m.getLsbD l && f l) := by
  rw [lanesWhere, getLsbD_foldl_lanes f hl _ (fun t ht => (mem_lanes.mp ht).1)]
  simp [mem_lanes, hl]

theorem eq_zero_iff_getLsbD (m : W32) : m = 0 ↔ ∀ l, l < 32 → m.getLsbD l = false := by
  constructor
  · rintro rfl l -
    simp
  · intro h
    exact BitVec.eq_of_getLsbD_eq (fun l hl => by simpa using h l hl)

theorem lanesWhere_eq_zero_iff (m : W32) (f : Nat → Bool) :
    lanesWhere m f = 0 ↔ ∀ l, l < 32 → m.getLsbD l = true → f l = false := by
  rw [eq_zero_iff_getLsbD]
  refine forall₂_congr fun l hl => ?_
  rw [getLsbD_lanesWhere m f hl]
  cases m.getLsbD l <;> simp

/-! ## Global addresses on a compute core (R167, R168) -/

/-- The threads whose address in slot b is not aligned. -/
def misaligned (tab b : Nat) (m : W32) (off : Nat → Nat) (bytes : Nat) : W32 :=
  lanesWhere m (fun l => (bufBase tab b + off l) % bytes != 0)

/-- The threads whose bytes are not in a bound buffer. -/
def unbound (tab b : Nat) (m : W32) (off : Nat → Nat) (bytes : Nat) : W32 :=
  lanesWhere m (fun l => !bufBound tab b || decide (bufLen tab b < off l + bytes))

/-- The threads that write where nothing may be written. -/
def forbidden (tab b : Nat) (m : W32) (write : Bool) : W32 := if !write || !bufRo tab b then 0 else m

theorem globalExc_of_compute {s : State} {core : Nat} {c : Chain} {k : Cmd} (hk : s.chainCmd c = some k)
    (hc : isControl core = false) (b : Nat) (m : W32) (off : Nat → Nat) (bytes : Nat) (write : Bool) :
    s.globalExc core c b m off bytes write =
      if misaligned k.buftab b m off bytes ≠ 0 then some { cause := 5, lanes := misaligned k.buftab b m off bytes }
      else if unbound k.buftab b m off bytes ≠ 0 then some { cause := 8, lanes := unbound k.buftab b m off bytes }
      else if forbidden k.buftab b m write ≠ 0 then some { cause := 9, lanes := forbidden k.buftab b m write }
      else none := by
  simp only [State.globalExc, hk, hc, Bool.false_eq_true, if_false, Bool.false_or, misaligned, unbound, forbidden]
  rfl

section
variable {tab b bytes : Nat} {m : W32} {off : Nat → Nat} {write : Bool}

theorem misaligned_eq_zero_iff :
    misaligned tab b m off bytes = 0 ↔ ∀ l, l < 32 → m.getLsbD l = true → (bufBase tab b + off l) % bytes = 0 := by
  simp only [misaligned, lanesWhere_eq_zero_iff, bne_eq_false_iff_eq]

theorem getLsbD_misaligned {l : Nat} (hl : l < 32) :
    (misaligned tab b m off bytes).getLsbD l = (m.getLsbD l && decide ((bufBase tab b + off l) % bytes ≠ 0)) := by
  have hb : ((bufBase tab b + off l) % bytes != 0) = decide ((bufBase tab b + off l) % bytes ≠ 0) := by
    rw [Bool.eq_iff_iff, bne_iff_ne, decide_eq_true_eq]
  rw [misaligned, getLsbD_lanesWhere m _ hl, hb]

theorem unbound_eq_zero_iff :
    unbound tab b m off bytes = 0 ↔
      ∀ l, l < 32 → m.getLsbD l = true → bufBound tab b = true ∧ off l + bytes ≤ bufLen tab b := by
  rw [unbound, lanesWhere_eq_zero_iff]
  simp

theorem forbidden_eq_zero_iff :
    forbidden tab b m write = 0 ↔ ∀ l, l < 32 → m.getLsbD l = true → write = true → bufRo tab b = false := by
  unfold forbidden
  rw [eq_zero_iff_getLsbD]
  cases write <;> cases bufRo tab b <;> simp

theorem eq_of_forbidden_ne_zero (h : forbidden tab b m write ≠ 0) :
    write = true ∧ bufRo tab b = true ∧ forbidden tab b m write = m := by
  cases hw : write <;> cases hr : bufRo tab b <;> simp_all [forbidden]

end

/-- No exception on a compute core exactly where every thread's bytes are in order. -/
theorem globalExc_eq_none_iff {s : State} {r : ChainRef} {c : Chain} {k : Cmd} (hk : s.chainCmd c = some k)
    (hc : isControl r.core.val = false) (b : Nat) (m : W32) (off : Nat → Nat) (bytes : Nat) (write : Bool) :
    s.globalExc r.core.val c b m off bytes write = none ↔ globalOk s r c b m off bytes write := by
  have ht : tabOf s c = k.buftab := by simp [tabOf, hk]
  have hn : s.globalExc r.core.val c b m off bytes write = none ↔
      misaligned k.buftab b m off bytes = 0 ∧ unbound k.buftab b m off bytes = 0 ∧ forbidden k.buftab b m write = 0 := by
    rw [globalExc_of_compute hk hc]
    by_cases ha : misaligned k.buftab b m off bytes = 0
    · by_cases hb : unbound k.buftab b m off bytes = 0
      · by_cases hp : forbidden k.buftab b m write = 0
        · simp only [ne_eq, ha, hb, hp, not_true_eq_false, if_false, and_self]
        · simp only [ne_eq, ha, hb, hp, not_true_eq_false, not_false_eq_true, if_false, if_true, reduceCtorEq, and_false]
      · simp only [ne_eq, ha, hb, not_true_eq_false, not_false_eq_true, if_false, if_true, reduceCtorEq, false_and, and_false]
    · simp only [ne_eq, ha, not_false_eq_true, if_true, reduceCtorEq, false_and]
  rw [hn, misaligned_eq_zero_iff, unbound_eq_zero_iff, forbidden_eq_zero_iff]
  simp only [globalOk, ht, hc, Bool.false_eq_true, false_and, false_or, true_and]
  constructor
  · rintro ⟨ha, hb, hp⟩ l hl hm
    exact ⟨ha l hl hm, (hb l hl hm).1, (hb l hl hm).2, hp l hl hm⟩
  · intro h
    exact ⟨fun l hl hm => (h l hl hm).1, fun l hl hm => ⟨(h l hl hm).2.1, (h l hl hm).2.2.1⟩,
      fun l hl hm => (h l hl hm).2.2.2⟩

/-- The exception of a compute core's address: ALIGN for the misaligned threads, else BOUNDS, else PERM. -/
theorem globalExc_cases {s : State} {core : Nat} {c : Chain} {k : Cmd} (hk : s.chainCmd c = some k)
    (hc : isControl core = false) {b : Nat} {m : W32} {off : Nat → Nat} {bytes : Nat} {write : Bool} {e : Exc}
    (h : s.globalExc core c b m off bytes write = some e) :
    (misaligned k.buftab b m off bytes ≠ 0 ∧ e = { cause := 5, lanes := misaligned k.buftab b m off bytes }) ∨
    (misaligned k.buftab b m off bytes = 0 ∧
      (e = { cause := 8, lanes := unbound k.buftab b m off bytes } ∨
        (write = true ∧ bufRo k.buftab b = true ∧ e = { cause := 9, lanes := m }))) := by
  rw [globalExc_of_compute hk hc] at h
  split at h
  case isTrue ha => exact .inl ⟨ha, (Option.some.inj h).symm⟩
  case isFalse ha =>
    refine .inr ⟨Decidable.not_not.mp ha, ?_⟩
    split at h
    case isTrue hb => exact .inl (Option.some.inj h).symm
    case isFalse hb =>
      split at h
      case isTrue hp =>
        obtain ⟨hw, hr, hm⟩ := eq_of_forbidden_ne_zero hp
        rw [hm] at h
        exact .inr ⟨hw, hr, (Option.some.inj h).symm⟩
      case isFalse hp => exact nomatch h

/-- ALIGN names the misaligned threads where there are any; BOUNDS or PERM comes only where there are none. -/
theorem globalExc_order {s : State} {core : Nat} {c : Chain} {k : Cmd} (hk : s.chainCmd c = some k)
    (hc : isControl core = false) {b : Nat} {m : W32} {off : Nat → Nat} {bytes : Nat} {write : Bool} {e : Exc}
    (h : s.globalExc core c b m off bytes write = some e) :
    e.trap = 0 ∧
      ((∃ l, l < 32 ∧ m.getLsbD l = true ∧ (bufBase k.buftab b + off l) % bytes ≠ 0) → e.cause = 5 ∧
        ∀ l, l < 32 → e.lanes.getLsbD l = (m.getLsbD l && decide ((bufBase k.buftab b + off l) % bytes ≠ 0))) ∧
      ((∀ l, l < 32 → m.getLsbD l = true → (bufBase k.buftab b + off l) % bytes = 0) →
        e.cause = 8 ∨ (e.cause = 9 ∧ write = true ∧ bufRo k.buftab b = true ∧ e.lanes = m)) := by
  obtain ⟨ha, rfl⟩ | ⟨ha, he⟩ := globalExc_cases hk hc h
  · refine ⟨rfl, fun _ => ⟨rfl, fun l hl => getLsbD_misaligned hl⟩, fun hn => ?_⟩
    exact absurd (misaligned_eq_zero_iff.mpr hn) ha
  · have hn : ¬ ∃ l, l < 32 ∧ m.getLsbD l = true ∧ (bufBase k.buftab b + off l) % bytes ≠ 0 :=
      fun ⟨l, hl, hm, hx⟩ => hx (misaligned_eq_zero_iff.mp ha l hl hm)
    obtain rfl | ⟨hw, hr, rfl⟩ := he
    · exact ⟨rfl, fun hx => absurd hx hn, fun _ => .inl rfl⟩
    · exact ⟨rfl, fun hx => absurd hx hn, fun _ => .inr ⟨rfl, hw, hr, rfl⟩⟩

/-! ## An exception on a compute core (R194 to R197) -/

theorem latchIn_cmd? (s : State) (g cid : Nat) : (s.latchIn g).cmd? cid = s.cmd? cid := by
  have h : (s.latchIn g).cmds = s.cmds := (Laws.latchIn_same s g rfl (Laws.Same.refl 537001988 s)).get .cmds rfl
  rw [State.cmd?, State.cmd?, h]

theorem raise_of_compute {s : State} {core slot : Nat} {e : Exc} {c : Chain} (hc : s.chain? core slot = some c)
    (h : core < 272) :
    s.raise core slot e = (s.latchIn (core / 17)).takeExc c.cid (causeStatus e.cause) (excErr e core slot c.pc) := by
  have hn : isControl core = false := decide_eq_false (by omega)
  simp only [State.raise, hc, State.raiseAt, hn, Bool.false_eq_true, if_false]

theorem takeExc_of_undecided {s : State} {cid st : Nat} {err : ErrInfo} {k : Cmd} (hk : s.cmd? cid = some k)
    (he : k.phase ≠ .ended) (hs : k.phase ≠ .stopping) :
    s.takeExc cid st err = (s.failCmd cid st (some err)).retime := by
  simp only [State.takeExc, hk, he, hs, false_and, or_false, if_false]

theorem takeExc_of_decided {s : State} {cid st : Nat} {err : ErrInfo} {k : Cmd} (hk : s.cmd? cid = some k)
    (h : k.phase = .stopping ∨ (k.phase = .ended ∧ k.status.getD 0 ≠ 0)) :
    s.takeExc cid st err = s.updCmd cid Cmd.oneMore := by
  obtain hs | ⟨he, hst⟩ := h
  · simp [State.takeExc, hk, hs]
  · simp [State.takeExc, hk, he, hst]

/-! ## An exception on a control core (R203)

A source that latches may be presented at once and wakes the chains asleep on a control core; any other chain stays as it
is (R437, R441). -/

theorem tfind_map {α : Type} (t : Tbl α) (f : α → α) (k : Nat) :
    tfind (t.map (fun e => (e.1, f e.2))) k = (tfind t k).map f := by
  induction t with
  | nil => rfl
  | cons e t ih =>
    simp only [List.map_cons, tfind]
    split
    · rfl
    · exact ih

theorem chain?_updChain_self (s : State) (core slot : Nat) (f : Chain → Chain) :
    (s.updChain core slot f).chain? core slot = (s.chain? core slot).map f := by
  unfold State.updChain
  cases h : s.chain? core slot with
  | none => simpa using h
  | some c => simp [State.chain?]

/-- A chain after a source has fired at its control core. -/
def wakened (c : Chain) : Chain := if c.st = .sleeping then { c with st := .ready } else c

section
variable {s : State} {core slot : Nat} {c : Chain} (hc : s.chain? core slot = some c) (hs : c.st ≠ .sleeping)
include hc hs

theorem chain?_wakeControl (t : Nat) : (s.wakeControl t).chain? core slot = some c := by
  rw [State.chain?, State.wakeControl, State.core_updCore]
  split
  case isTrue h =>
    subst h
    have hw : tfind ((s.core (272 + t)).chains.map (fun e => (e.1, wakened e.2))) slot = some (wakened c) := by
      rw [tfind_map, show tfind (s.core (272 + t)).chains slot = some c from hc, Option.map_some]
    rw [show wakened c = c from if_neg hs] at hw
    exact hw
  case isFalse => exact hc

theorem chain?_presentSrc (n : Nat) : (s.presentSrc n).chain? core slot = some c := by
  unfold State.presentSrc
  extract_lets r g
  split
  · exact hc
  split
  · exact chain?_wakeControl hc hs _
  split
  · exact chain?_wakeControl hc hs _
  split
  · exact hc
  · exact chain?_wakeControl hc hs _

theorem chain?_presentGrp (g : Nat) : (s.presentGrp g).chain? core slot = some c := by
  have h : ((List.range 16).foldl (fun a i => a.presentSrc (16 * g + i)) s).chain? core slot = some c := by
    refine List.foldlRecOn (motive := fun (a : State) => a.chain? core slot = some c) (List.range 16) _ hc ?_
    intro a ha i _
    exact chain?_presentSrc ha hs _
  exact h

theorem chain?_moderate (g : Nat) : (s.moderate g).chain? core slot = some c := by
  unfold State.moderate
  split
  · exact hc
  split
  · split
    · exact chain?_presentGrp hc hs _
    · exact hc
  · exact chain?_presentGrp hc hs _

theorem chain?_latch (n : Nat) : (s.latch n).chain? core slot = some c := by
  unfold State.latch
  split
  · exact hc
  · refine chain?_moderate ?_ hs _
    exact hc

end

/-- An exception on a control core latches a source and stops the chain. -/
theorem raise_of_control {s : State} {core slot : Nat} {e : Exc} {c : Chain} (hc : s.chain? core slot = some c)
    (h : 272 ≤ core) :
    s.raise core slot e =
      ((s.freshNext).latch (s.freshVal 10).toNat).updChain core slot (fun k => { k with halted := true }) := by
  have hn : isControl core = true := decide_eq_true h
  simp only [State.raise, hc, State.raiseAt, hn, if_true]

theorem raise_of_control_halts {s : State} {core slot : Nat} {e : Exc} {c : Chain} (hc : s.chain? core slot = some c)
    (h : 272 ≤ core) (hs : c.st ≠ .sleeping) :
    (s.raise core slot e).chain? core slot = some { c with halted := true } := by
  have hl : ((s.freshNext).latch (s.freshVal 10).toNat).chain? core slot = some c := chain?_latch (s := s.freshNext) hc hs _
  rw [raise_of_control hc h, chain?_updChain_self, hl]
  rfl

theorem raise_of_control_same {s : State} {core slot : Nat} {e : Exc} {c : Chain} (hc : s.chain? core slot = some c)
    (h : 272 ≤ core) : Same (fields [.cores, .eg, .free]) s (s.raise core slot e) := by
  rw [raise_of_control hc h]
  exact Laws.updChain_same _ _ _ _ rfl (Laws.latch_same _ _ rfl (Laws.freshNext_same _ rfl (Laws.Same.refl _ _)))

/-! ## The statement -/

/-- Settles O60. Each clause is the rule of the operation that its instruction issues through: the instruction acts, or
raises its exception, on the chain that has fetched it; `globalExc_order` and the rules of `raise` give the rest. -/
theorem trapsAndExceptions : Obligations.TrapsAndExceptions := by
  unfold Obligations.TrapsAndExceptions
  refine ⟨?trap, ?illegal, ?fetch, ?reserved, ?stochastic, ?range, ?idle, ?diverge, ?access, ?which, ?waits, ?compute,
    ?further, ?control, fun _ => ⟨rfl, rfl, rfl, rfl, rfl, rfl, rfl, rfl, rfl, rfl⟩⟩
  case trap =>
    intro r i c s h hs
    exact congrArg _ ((whole_act h _).trans (act_exc hs))
  case illegal =>
    intro r c s h hs
    exact congrArg _ ((issue_act h _).trans (act_exc hs))
  case fetch =>
    intro r c i j x s hc hi hp hx hs
    obtain rfl | rfl | rfl := hx
    all_goals exact congrArg _ (issue_outside_code hc hi hp hs _)
  case reserved =>
    intro r c i s h hm hb hs
    have hr : (v3Reserved i || false) = true := by
      obtain hty | hrd := hb
      · simp [v3Reserved, hty]
      · simp [v3Reserved, hrd]
    exact congrArg _ (vector_illegal h hm hs hr _)
  case stochastic =>
    intro r c i op s h hm hr hs
    have hl : (v3Reserved i || i.round == 2) = true := by simp [hr]
    exact congrArg _ (vector_illegal h hm hs hl _)
  case range =>
    intro r c i s h hm hr hv hs
    have hl : (v3Reserved i || false) = false := by simp [hr]
    have ho : c.outOfRange (v3Regs i false true false true) = true := by
      obtain ⟨hd, hz⟩ | ⟨hb, hz, hu⟩ := hv
      · exact outOfRange_of_mem (v := i.vd.toNat) (by simp [v3Regs]) (fun h => hz (BitVec.eq_of_toNat_eq h)) hd
      · exact outOfRange_of_mem (v := i.vb.toNat) (by simp [v3Regs, hu]) (fun h => hz (BitVec.eq_of_toNat_eq h)) hb
    exact congrArg _ (vector_outOfRange h hm hs hl ho _)
  case idle =>
    intro r c i j op s h hi hj
    have hv := issues_of_subset h (ws := v3Regs i true true false true) (xs := v3Uregs i) (by simp) (by simp)
    have hm := issues_of_subset h (ws := dataRegs j.vds.toNat (memBytes j) ++ [j.voff.toNat]) (xs := [j.ubase.toNat])
      (by simp) (by simp)
    exact ⟨congrArg _ (vector_idle hv hi _ _), congrArg _ (memory_idle hm hj _ _), congrArg _ (local_idle hm hj _ _ _)⟩
  case diverge =>
    intro r c i j s h hp hn ha hs
    have ha' : c.lanesOf j.pred j.pneg ≠ c.active := hp ▸ hn ▸ ha
    refine ⟨fun hz => ?_, fun hz => ?_⟩
    · have hz' : c.lanesOf j.pred j.pneg = 0 := hp ▸ hn ▸ hz
      exact ⟨congrArg _ (whole_idle h ha hz _), congrArg _ (whole_idle h ha' hz' _)⟩
    · have hz' : c.lanesOf j.pred j.pneg ≠ 0 := hp ▸ hn ▸ hz
      exact ⟨congrArg _ (whole_diverge h ha hz hs _), congrArg _ (whole_diverge h ha' hz' hs _)⟩
  case access =>
    intro r c i e s h hs
    exact ⟨execLdg_exc h hs, execStg_exc h hs,
      fun he => ⟨congrArg _ (local_exc h hs he _), congrArg _ (local_exc h hs he _)⟩⟩
  case which =>
    intro r c k b bytes m off write s hk hc
    exact ⟨globalExc_eq_none_iff hk hc b m off bytes write, fun e => globalExc_order hk hc⟩
  case waits =>
    intro r i c s h hs
    exact congrArg _ ((whole_act h _).trans (act_exc_waits hs))
  case compute =>
    intro core slot e c k s hc h hk he hs
    rw [raise_of_compute hc h]
    exact takeExc_of_undecided ((latchIn_cmd? ..).trans hk) he hs
  case further =>
    intro core slot e c k s hc h hk hd
    rw [raise_of_compute hc h]
    exact takeExc_of_decided ((latchIn_cmd? ..).trans hk) hd
  case control =>
    intro core slot e c s hc h hs
    exact ⟨raise_of_control_halts hc h hs, raise_of_control_same hc h⟩

end Sys2Proof.Proofs
end

section
/-! Proofs about the V3 instructions that write a v register: the chain after the instruction, and what each of its
registers holds (R163, R174, R176, R457). -/

namespace Sys2Proof.Proofs

open Sys2Proof.Machine Sys2Proof.Claims

/-! ## The chain in its place after the instruction (R171, R457) -/

@[simp] theorem chain?_fillCode (s : State) (core : Nat) (c : Chain) (n slot : Nat) :
    (s.fillCode core c).chain? n slot = s.chain? n slot := by
  unfold State.fillCode
  split
  · rfl
  split
  · rfl
  extract_lets e
  split
  · rfl
  · rw [State.chain?, State.core_updCore]
    split
    case isTrue hn => rw [hn]; rfl
    case isFalse => rfl

@[simp] theorem chain?_retired (s : State) (c : Chain) (n slot : Nat) : (s.retired c).chain? n slot = s.chain? n slot := by
  unfold State.retired
  split <;> rfl

theorem there_retire {s : State} {r : ChainRef} {c : Chain} (hc : s.chain? r.core.val r.slot.val = some c) (k : Chain) :
    there (retire s r c k) r = k := by
  have hf : (fetched s r c).chain? r.core.val r.slot.val = some c := (chain?_fillCode ..).trans hc
  rw [there, retire, chain?_retired, chain?_updChain_self, hf]
  rfl

/-! ## Writing a v register lane by lane (R163) -/

theorem setV_eq_with (c : Chain) (n t : Nat) (x : W32) : c.setV n t x = { c with v := (c.setV n t x).v } := by
  unfold Chain.setV
  split <;> rfl

/-- The write is read back in its own register and thread; vz discards it and reads 0. -/
theorem vreg_setV (c : Chain) {n t m l : Nat} (x : W32) (ht : t < 32) (hl : l < 32) :
    (c.setV n t x).vreg m l = if m = n ∧ n ≠ 255 ∧ l = t then x else c.vreg m l := by
  by_cases hn : n = 255
  · simp [Chain.setV, hn]
  · by_cases hm : m = 255
    · simp [Chain.vreg, hm, Ne.symm hn]
    · have hk : 32 * m + l = 32 * n + t ↔ m = n ∧ l = t := by omega
      simp only [Chain.setV, Chain.vreg, hn, hm, if_false, Laws.tget_tset, hk, ne_eq, not_false_eq_true, true_and]

theorem foldl_setV_eq_with (vd : Nat) (f : Nat → W32) (xs : List Nat) (c : Chain) :
    xs.foldl (fun k t => k.setV vd t (f t)) c = { c with v := (xs.foldl (fun k t => k.setV vd t (f t)) c).v } := by
  induction xs generalizing c with
  | nil => rfl
  | cons t xs ih =>
    rw [List.foldl_cons, ih, setV_eq_with]

theorem vreg_foldl_setV (vd : Nat) (f : Nat → W32) {m l : Nat} (hl : l < 32) (xs : List Nat) (hx : ∀ t ∈ xs, t < 32)
    (c : Chain) : (xs.foldl (fun k t => k.setV vd t (f t)) c).vreg m l =
      if m = vd ∧ vd ≠ 255 ∧ l ∈ xs then f l else c.vreg m l := by
  induction xs generalizing c with
  | nil => simp
  | cons t xs ih =>
    rw [List.foldl_cons, ih (fun u hu => hx u (List.mem_cons_of_mem _ hu)), vreg_setV c (f t) (hx t List.mem_cons_self) hl]
    by_cases hv : m = vd ∧ vd ≠ 255
    · by_cases ht : l = t
      · simp [hv, ht]
      · simp [hv, ht]
    · simp only [← and_assoc, hv, false_and, if_false]

theorem eachLane_setV_eq_with (c : Chain) (m : W32) (vd : Nat) (f : Nat → W32) :
    c.eachLane m (fun k t => k.setV vd t (f t)) = { c with v := (c.eachLane m (fun k t => k.setV vd t (f t))).v } :=
  foldl_setV_eq_with vd f (lanes m) c

theorem vreg_eachLane_setV (c : Chain) (m : W32) (vd : Nat) (f : Nat → W32) {n l : Nat} (hl : l < 32) :
    (c.eachLane m (fun k t => k.setV vd t (f t))).vreg n l =
      if n = vd ∧ vd ≠ 255 ∧ m.getLsbD l = true then f l else c.vreg n l := by
  rw [Chain.eachLane, vreg_foldl_setV vd f hl (lanes m) (fun t ht => (mem_lanes.mp ht).1)]
  simp only [mem_lanes, hl, true_and]

/-! ## Instructions that write a v register (R174, R176) -/

section
variable {s : State} {r : ChainRef} {c : Chain} {vs us : List Nat}

theorem vector_act {pred : Fin 8} {neg illegal : Bool} (h : issues s r c vs us) (hl : inLanes c pred neg vs)
    (hi : illegal = false) (f : Chain → W32 → Chain) :
    s.vector r pred neg illegal vs us f = retire s r c (nextPc (f c (c.lanesOf pred neg))) := by
  obtain ⟨hm, ho⟩ := hl
  rw [State.vector, issue_act h]
  simp only [hm, if_false, firstExc, hi, Bool.false_eq_true, ho]
  exact act_done _

/-- An instruction that writes a v register lane by lane writes that register's lanes and nothing else. -/
theorem wroteV_retire (h : issues s r c vs us) (m : W32) (vd : Nat) {f g : Nat → W32}
    (hfg : ∀ l, l < 32 → m.getLsbD l = true → f l = g l) :
    wroteV s r c (retire s r c (nextPc (c.eachLane m (fun k t => k.setV vd t (f t))))) m vd g := by
  obtain ⟨hc, -⟩ := h
  rw [wroteV, there_retire hc]
  refine ⟨rfl, ?_, fun n _ l hl => ?_⟩
  · rw [eachLane_setV_eq_with]
    rfl
  · refine (vreg_eachLane_setV c m vd f hl).trans ?_
    split
    case isTrue hw => exact hfg l hl hw.2.2
    case isFalse => rfl

section
variable {i : V3} {illegal : Bool} {g : Nat → W32}

theorem vlane_wroteV (h : issues s r c vs us) (hl : inLanes c i.pred i.pneg vs) (hr : v3Reserved i = false)
    (hi : illegal = false) {f : Chain → Nat → W32}
    (hfg : ∀ l, l < 32 → (c.lanesOf i.pred i.pneg).getLsbD l = true → f c l = g l) :
    wroteV s r c (s.vlane r i illegal vs us f) (c.lanesOf i.pred i.pneg) i.vd.toNat g := by
  have hill : (v3Reserved i || illegal) = false := by rw [hr, hi]; rfl
  rw [State.vlane, vector_act h hl hill]
  exact wroteV_retire h _ _ hfg

theorem v3_wroteV {useC readD : Bool} (h : issues s r c (v3Regs i true true useC true) (v3Uregs i))
    (hl : inLanes c i.pred i.pneg (v3Regs i true true useC true)) (hr : v3Reserved i = false) (hi : illegal = false)
    {f : W32 → W32 → W32 → W32 → W32}
    (hfg : ∀ l, l < 32 → f (c.vreg i.va.toNat l) (c.opB i l) (if useC then c.vreg i.vc.toNat l else 0)
      (if readD then c.vreg i.vd.toNat l else 0) = g l) :
    wroteV s r c (s.v3 r i useC readD illegal f) (c.lanesOf i.pred i.pneg) i.vd.toNat g := by
  have hill : (v3Reserved i || illegal) = false := by rw [hr, hi]; rfl
  rw [State.v3, vector_act h hl hill]
  exact wroteV_retire h _ _ (fun l hl _ => hfg l hl)

end

end

end Sys2Proof.Proofs
end

section
/-! Proofs about NaN: what the exact operations do with a NaN operand, and the code that a rounding gives it (R62, R75,
R91, R179, R180). -/

namespace Sys2Proof.Proofs

open Sys2Proof.Machine Sys2Proof.Claims

/-! ## Exact operations with a NaN operand (R75) -/

@[simp] theorem exactAdd_nan_left (x : FV) : exactAdd .nan x = .nan := rfl

@[simp] theorem exactAdd_nan_right (x : FV) : exactAdd x .nan = .nan := by cases x <;> rfl

@[simp] theorem exactMul_nan_left (x : FV) : exactMul .nan x = .nan := rfl

@[simp] theorem exactMul_nan_right (x : FV) : exactMul x .nan = .nan := by cases x <;> rfl

@[simp] theorem specialQ_nan (op : SpecFn) : specialQ op .nan = .nan := by cases op <;> rfl

@[simp] theorem toQ_nan : FV.toQ .nan = .nan := rfl

/-! ## Rounded results (R62, R91, R179, R180) -/

@[simp] theorem roundIeee_nan (ff : FFmt) (rd : Rnd) : roundIeee ff rd .nan = canonNaN ff := rfl

theorem decodeFloat_canonNaN {ff : FFmt} (h : ff ∈ nanFormats) : decodeFloat ff (canonNaN ff) = .nan := by
  have hall : ∀ f ∈ nanFormats, decodeFloat f (canonNaN f) = .nan := by decide
  exact hall ff h

section
variable {ff : FFmt} {a : Nat} (h : decodeFloat ff a = .nan)
include h

theorem fAdd_nan_left (rd : Rnd) (b : Nat) : fAdd ff rd a b = canonNaN ff := by simp [fAdd, h]

theorem fAdd_nan_right (rd : Rnd) (b : Nat) : fAdd ff rd b a = canonNaN ff := by simp [fAdd, h]

theorem fMul_nan_left (rd : Rnd) (b : Nat) : fMul ff rd a b = canonNaN ff := by simp [fMul, h]

theorem fMul_nan_right (rd : Rnd) (b : Nat) : fMul ff rd b a = canonNaN ff := by simp [fMul, h]

theorem fFma_nan_left (rd : Rnd) (b c : Nat) : fFma ff rd a b c = canonNaN ff := by simp [fFma, h]

theorem fFma_nan_mid (rd : Rnd) (b c : Nat) : fFma ff rd b a c = canonNaN ff := by simp [fFma, h]

theorem fFma_nan_addend (rd : Rnd) (b c : Nat) : fFma ff rd b c a = canonNaN ff := by simp [fFma, h]

theorem specialElem_nan (op : SpecFn) (b c : Nat) : specialElem op ff a b c = canonNaN ff := by simp [specialElem, h]

/-- A NaN operand of a minimum or maximum yields the other one (R179). -/
theorem fMinMax_nan_left (max : Bool) (b : Nat) :
    fMinMax ff max a b = if decodeFloat ff b = .nan then canonNaN ff else b := by
  simp only [fMinMax, h, if_true]

theorem fMinMax_nan_right (max : Bool) (b : Nat) :
    fMinMax ff max b a = if decodeFloat ff b = .nan then canonNaN ff else b := by
  simp only [fMinMax, h, if_true]

end

/-! ## Conversions of an element (R90, R91) -/

theorem cvtElem_float_float {src dst : Nat} {ff gg : FFmt} (hs : typeFloat src = some gg) (hd : typeFloat dst = some ff)
    (rd : Rnd) (a : Nat) : cvtElem src dst rd a = roundIeee ff rd (decodeFloat gg a).toQ := by
  simp only [cvtElem, hs, hd]

theorem cvtElem_int_float {src dst : Nat} {ff : FFmt} (hs : typeFloat src = none) (hd : typeFloat dst = some ff)
    (rd : Rnd) (a : Nat) : cvtElem src dst rd a = roundIeee ff rd (FV.ofInt (elemInt src a)).toQ := by
  simp only [cvtElem, hs, hd]

/-- A NaN becomes the integer 0 (R90). -/
theorem cvtElem_nan_int {src dst : Nat} {gg : FFmt} (hs : typeFloat src = some gg) (hd : typeFloat dst = none) (rd : Rnd)
    {a : Nat} (h : decodeFloat gg a = .nan) : cvtElem src dst rd a = 0 := by
  simp [cvtElem, hs, hd, h, roundRange, ofSigned]

/-- Settles O11. The exact result of an operation with a NaN operand is NaN, and every rounding of NaN is the canonical
code. -/
theorem canonicalNaN : Obligations.CanonicalNaN := by
  unfold Obligations.CanonicalNaN
  refine ⟨fun _ => ⟨rfl, rfl, rfl, rfl, rfl⟩, ?operations, ?conversions⟩
  case operations =>
    intro ff rd op a b c _ ha
    refine ⟨fAdd_nan_left ha rd b, fAdd_nan_right ha rd b, fMul_nan_left ha rd b, fMul_nan_right ha rd b,
      fFma_nan_left ha rd b c, fFma_nan_mid ha rd b c, fFma_nan_addend ha rd b c, specialElem_nan ha op b c, ?_⟩
    intro hb max
    rw [fMinMax_nan_left ha, if_pos hb]
  case conversions =>
    intro ff gg src dst rd a hff hs hd ha
    refine ⟨roundIeee_nan ff rd, ?_, decodeFloat_canonNaN hff⟩
    rw [cvtElem_float_float hs hd, ha, toQ_nan, roundIeee_nan]

end Sys2Proof.Proofs
end

section
/-! Proofs about the elements of a lane and the floating-point operations on them (R90, R92, R174, R179 to R182). -/

namespace Sys2Proof.Proofs

open Sys2Proof.Machine Sys2Proof.Claims

/-! ## The elements of a lane (R174) -/

/-- The elements of a TYPE fill the lane. -/
theorem typeWidth_mul_count (ty : Nat) : typeWidth ty * (32 / typeWidth ty) = 32 := by
  unfold typeWidth
  split <;> rfl

theorem joinElems_lt (w : Nat) (xs : List Nat) : joinElems w xs < 2 ^ (w * xs.length) := by
  induction xs with
  | nil => simp [joinElems]
  | cons a xs ih =>
    have ha : a % 2 ^ w < 2 ^ w := Nat.mod_lt _ (Nat.two_pow_pos w)
    calc joinElems w (a :: xs) < 2 ^ w * (joinElems w xs + 1) := by rw [joinElems, Nat.mul_add]; omega
      _ ≤ 2 ^ w * 2 ^ (w * xs.length) := Nat.mul_le_mul_left _ ih
      _ = 2 ^ (w * (a :: xs).length) := by rw [← Nat.pow_add, List.length_cons, Nat.mul_add, Nat.mul_one, Nat.add_comm]

theorem joinElems_div_mod (w : Nat) (xs : List Nat) {e : Nat} (he : e < xs.length) :
    joinElems w xs / 2 ^ (w * e) % 2 ^ w = xs[e] % 2 ^ w := by
  induction xs generalizing e with
  | nil => exact absurd he (Nat.not_lt_zero e)
  | cons a xs ih =>
    have ha : a % 2 ^ w < 2 ^ w := Nat.mod_lt _ (Nat.two_pow_pos w)
    cases e with
    | zero => simp [joinElems]
    | succ e =>
      have hd : joinElems w (a :: xs) / 2 ^ w = joinElems w xs := by
        rw [joinElems, Nat.add_mul_div_left _ _ (Nat.two_pow_pos w), Nat.div_eq_of_lt ha, Nat.zero_add]
      rw [Nat.mul_add, Nat.mul_one, Nat.add_comm, Nat.pow_add, ← Nat.div_div_eq_div_mul, hd]
      exact ih (Nat.lt_of_succ_lt_succ he)

/-- What is read of a lane that was put together from its elements. -/
theorem elemOf_joinElems {w : Nat} {xs : List Nat} (hw : w * xs.length ≤ 32) {e : Nat} (he : e < xs.length) :
    elemOf w (BitVec.ofNat 32 (joinElems w xs)) e = xs[e] % 2 ^ w := by
  have hlt : joinElems w xs < 2 ^ 32 := Nat.lt_of_lt_of_le (joinElems_lt w xs) (Nat.pow_le_pow_right (by decide) hw)
  rw [elemOf, BitVec.toNat_ofNat, Nat.mod_eq_of_lt hlt, joinElems_div_mod w xs he]

/-! ## Lanes of a floating-point TYPE (R179) -/

theorem floatLane_of_float {op ty : Nat} {ff : FFmt} (h : typeFloat ty = some ff) (f : FFmt → Nat → Nat → Nat → Nat)
    (a b c : W32) : floatLane op ty f a b c = perElem ty (f ff) a b c := by
  simp only [floatLane, h]

/-! ## Conversions of a lane (R182) -/

theorem cvtLane_of_same_width {src dst : Nat} (h : typeWidth dst = typeWidth src) (rd : Rnd) (a : W32) :
    cvtLane src dst rd a = perElem src (fun x _ _ => cvtElem src dst rd x) a 0 0 := by
  unfold cvtLane perElem
  extract_lets ws wd rest
  rw [show wd = ws from h]
  refine congrArg (fun xs => BitVec.ofNat 32 (joinElems ws xs)) (List.map_congr_left fun e he => ?_)
  exact if_pos (List.mem_range.mp he)

/-- An element of a converted lane is the conversion of the element at its place, where there is one. -/
theorem elemOf_cvtLane {src dst : Nat} (rd : Rnd) (a : W32) {e : Nat} (hs : e < 32 / typeWidth src)
    (hd : e < 32 / typeWidth dst) :
    elemOf (typeWidth dst) (cvtLane src dst rd a) e =
      cvtElem src dst rd (elemOf (typeWidth src) a e) % 2 ^ typeWidth dst := by
  unfold cvtLane
  extract_lets ws wd rest
  rw [elemOf_joinElems (by simp [wd, typeWidth_mul_count]) (by simpa using hd)]
  simp [ws, hs]

/-! ## Scale codes (R92) -/

/-- An amax that is not negative has a scale code in an exact output format. -/
theorem osclLane_of_amax {ty fmt : Nat} {a : W32} (hty : ty = 1 ∨ ty = 2) (he : fmtExact fmt = true)
    (ho : fmtOutput fmt = true) (ha : (decodeFloat fF32 a.toNat).lt (.fin false 0 0) = false) :
    osclLane ty fmt a = BitVec.ofNat 32 (if ty = 1 then scaleS32 fmt (decodeFloat fF32 a.toNat)
      else scaleS16 fmt (decodeFloat fF32 a.toNat)) := by
  have hg : ¬ (!(fmtExact fmt && fmtOutput fmt) || (decodeFloat fF32 a.toNat).lt (.fin false 0 0)) = true := by
    simp [he, ho, ha]
  refine (if_neg hg).trans ?_
  obtain rfl | rfl := hty <;> rfl

/-! ## Quantisation (R90, R182) -/

theorem qntLane_of_value {fmt : Nat} (h0 : fmt ≠ 0) (rd : Rnd) {a b : W32} (h1 : fmt = 1 → qntQuot a b ≠ .nan) :
    qntLane fmt rd a b =
      BitVec.ofNat 32 (quantiseBy fmt rd (decodeFloat fF32 a.toNat) (decodeFloat fF32 b.toNat)).1 := by
  have hg : ¬ (fmt = 1 ∧ qntQuot a b = .nan) := fun ⟨hf, hq⟩ => h1 hf hq
  simp only [qntLane, h0, hg, if_false]

theorem qntLane_b1 {rd : Rnd} {a b : W32} (h : (quantiseB1 rd (qntQuot a b)).isSome = true) :
    qntLane 0 rd a b = BitVec.ofNat 32 ((quantiseB1 rd (qntQuot a b)).getD 0) := by
  obtain ⟨x, hx⟩ := Option.isSome_iff_exists.mp h
  simp only [qntLane, if_true, hx, Option.getD_some]

/-- Under RNE every number has a code of B1: the sign of one that is not zero. -/
theorem quantiseB1_rne (neg : Bool) (n : Nat) {d : Nat} (e : Int) (hd : d ≠ 0) :
    quantiseB1 .rne (.fin neg n d e) = some (if neg = true ∧ n ≠ 0 then 1 else 0) := by
  simp only [quantiseB1]
  split
  case isTrue hle =>
    have hpos : 0 < (overUnit n d e 0).2 := Nat.mul_pos (Nat.pos_of_ne_zero hd) (Nat.two_pow_pos _)
    have hn : n ≠ 0 := by
      rintro rfl
      have hzero : (overUnit 0 d e 0).1 = 0 := Nat.zero_mul _
      omega
    simp [hn]
  case isFalse => simp

end Sys2Proof.Proofs
end

section
/-! Proofs about the floating-point instructions of the V3 form: what each writes into its register, and what is ILLEGAL
(R92, R176 to R182). -/

namespace Sys2Proof.Proofs

open Sys2Proof.Machine Sys2Proof.Claims

section
variable {s : State} {r : ChainRef} {c : Chain} {i : V3}

theorem convRnd_of_sr {l : Nat} (h : i.round = 2) :
    c.convRnd i l =
      .sr (srDraw (c.ureg i.usel.toNat) ((c.ureg (i.usel.toNat + 1)).toNat % 2 ^ 32) (c.vreg i.vc.toNat l).toNat) :=
  if_pos h

/-! ## Arithmetic and special functions (R179, R180) -/

/-- The exact result of fadd, fmul or ffma before its rounding. -/
def exactResult (op : FOp) (ff : FFmt) (a b d : Nat) : FV :=
  match op with
  | .fadd => exactAdd (decodeFloat ff a) (decodeFloat ff b)
  | .fmul => exactMul (decodeFloat ff a) (decodeFloat ff b)
  | .ffma => exactAdd (exactMul (decodeFloat ff a) (decodeFloat ff b)) (decodeFloat ff d)

/-- The exact result is rounded once. -/
theorem floatElem_eq_round (op : FOp) (rd : Rnd) (ff : FFmt) :
    floatElem op rd ff = fun a b d => roundIeee ff rd (exactResult op ff a b d).toQ := by
  cases op <;> rfl

theorem execFaddFmulFfma_wroteV {op : FOp} {ff : FFmt}
    (h : issues s r c (v3Regs i true true (op == .ffma) true) (v3Uregs i))
    (hl : inLanes c i.pred i.pneg (v3Regs i true true (op == .ffma) true)) (hr : v3Reserved i = false)
    (ht : typeFloat i.ty.toNat = some ff) (hsr : i.round ≠ 2) :
    ∃ t : State, execFaddFmulFfma r op i s = .next t ∧ wroteV s r c t (c.lanesOf i.pred i.pneg) i.vd.toNat (fun l =>
      perElem i.ty.toNat (fun a b d => roundIeee ff (arithRnd i) (exactResult op ff a b d).toQ)
        (c.vreg i.va.toNat l) (c.opB i l) (if op = .ffma then c.vreg i.vc.toNat l else 0)) := by
  refine ⟨_, rfl, v3_wroteV h hl hr (by simpa using hsr) fun l _ => ?_⟩
  rw [floatLane_of_float ht, floatElem_eq_round]
  simp only [beq_iff_eq]

theorem execFminFmax_wroteV {max : Bool} {ff : FFmt} (h : issues s r c (v3Regs i true true false true) (v3Uregs i))
    (hl : inLanes c i.pred i.pneg (v3Regs i true true false true)) (hr : v3Reserved i = false)
    (ht : typeFloat i.ty.toNat = some ff) (hsr : i.round ≠ 2) :
    ∃ t : State, execFminFmax r max i s = .next t ∧ wroteV s r c t (c.lanesOf i.pred i.pneg) i.vd.toNat (fun l =>
      perElem i.ty.toNat (fun a b _ => fMinMax ff max a b) (c.vreg i.va.toNat l) (c.opB i l) 0) :=
  ⟨_, rfl, v3_wroteV h hl hr (by simpa using hsr) fun _ _ => floatLane_of_float ht _ _ _ _⟩

theorem execSpecialFunction_wroteV {op : SpecFn} {ff : FFmt} (h : issues s r c (v3Regs i true false false true) [])
    (hl : inLanes c i.pred i.pneg (v3Regs i true false false true)) (hr : v3Reserved i = false)
    (ht : typeFloat i.ty.toNat = some ff) (hsr : i.round ≠ 2) :
    ∃ t : State, execSpecialFunction r op i s = .next t ∧
      wroteV s r c t (c.lanesOf i.pred i.pneg) i.vd.toNat (fun l =>
        perElem i.ty.toNat (specialElem op ff) (c.vreg i.va.toNat l) 0 0) :=
  ⟨_, rfl, vlane_wroteV h hl hr (by simpa using hsr) fun _ _ _ => floatLane_of_float ht _ _ _ _⟩

/-! ## Conversions, scale codes and quantisation (R92, R182) -/

theorem execCvt_wroteV {g : Nat → W32} (h : issues s r c (v3Regs i true false false true ++ srRegs i) (srUregs i))
    (hl : inLanes c i.pred i.pneg (v3Regs i true false false true ++ srRegs i)) (hr : v3Reserved i = false)
    (hd : i.vc.toNat % 16 < 8)
    (hg : ∀ l, cvtLane i.ty.toNat (i.vc.toNat % 16) (c.convRnd i l) (c.vreg i.va.toNat l) = g l) :
    ∃ t : State, execCvt r i s = .next t ∧ wroteV s r c t (c.lanesOf i.pred i.pneg) i.vd.toNat g :=
  ⟨_, rfl, vlane_wroteV h hl hr (decide_eq_false (Nat.not_le.mpr hd)) fun l _ _ => hg l⟩

theorem execQnt_wroteV {fmt : Fin 12} {g : Nat → W32}
    (h : issues s r c (v3Regs i true true false true ++ srRegs i) (v3Uregs i ++ srUregs i))
    (hl : inLanes c i.pred i.pneg (v3Regs i true true false true ++ srRegs i)) (hr : v3Reserved i = false)
    (hf : fmt.val ≠ 6)
    (hg : ∀ l, l < 32 → (c.lanesOf i.pred i.pneg).getLsbD l = true →
      qntLane fmt.val (c.convRnd i l) (c.vreg i.va.toNat l) (c.opB i l) = g l) :
    ∃ t : State, execQnt r fmt i s = .next t ∧ wroteV s r c t (c.lanesOf i.pred i.pneg) i.vd.toNat g :=
  ⟨_, rfl, vlane_wroteV h hl hr (by simpa using hf) hg⟩

theorem execOscl_wroteV {g : Nat → W32} (h : issues s r c (v3Regs i true false false true) [])
    (hl : inLanes c i.pred i.pneg (v3Regs i true false false true)) (hr : v3Reserved i = false)
    (hf : i.vc.toNat % 32 < 16)
    (hg : ∀ l, l < 32 → (c.lanesOf i.pred i.pneg).getLsbD l = true →
      osclLane i.ty.toNat (i.vc.toNat % 32) (c.vreg i.va.toNat l) = g l) :
    ∃ t : State, execOscl r i s = .next t ∧ wroteV s r c t (c.lanesOf i.pred i.pneg) i.vd.toNat g :=
  ⟨_, rfl, vlane_wroteV h hl hr (decide_eq_false (Nat.not_le.mpr hf)) hg⟩

end

/-- An exact format's code is not held back (R53, R55). -/
theorem lt_of_fmtExact {f : Nat} (h : fmtExact f = true) : f < 16 := by
  have := of_decide_eq_true h
  omega

/-- Settles O52. Each instruction writes its lanes alone (`vlane_wroteV`, `v3_wroteV`); what it writes there is the rule
of its lane. -/
theorem vectorFloats : Obligations.VectorFloats := by
  unfold Obligations.VectorFloats
  refine ⟨?arith, fun r max ff i c s => execFminFmax_wroteV, ?minMaxNaN, fun r op ff i c s => execSpecialFunction_wroteV,
    fun op n m e _ => ⟨specialQ_nan op, rfl⟩, ?cvtSame, ?cvtOther, ?cvtElem, ?oscl, ?osclHeld, ?qnt, ?qntB1,
    fun neg n d e => quantiseB1_rne neg n e, ?dq, fun c i l => convRnd_of_sr⟩
  case arith =>
    intro r op ff i c s h hl hr ht hsr
    exact execFaddFmulFfma_wroteV h hl hr ht hsr
  case minMaxNaN =>
    intro ff max a b ha
    exact ⟨fMinMax_nan_left ha max b, fMinMax_nan_right ha max b⟩
  case cvtSame =>
    intro r i c s h hl hr hd hw
    exact execCvt_wroteV h hl hr hd fun l => cvtLane_of_same_width hw _ _
  case cvtOther =>
    intro r i c s h hl hr hd hvd
    obtain ⟨t, ht, hx, hthere, hv⟩ := execCvt_wroteV h hl hr hd fun _ => rfl
    have hvd' : i.vd.toNat ≠ 255 := fun hz => hvd (BitVec.eq_of_toNat_eq hz)
    have hlane : ∀ l, l < 32 → (c.lanesOf i.pred i.pneg).getLsbD l = true → (there t r).vreg i.vd.toNat l =
        cvtLane i.ty.toNat (i.vc.toNat % 16) (c.convRnd i l) (c.vreg i.va.toNat l) :=
      fun l h32 hm => (hv i.vd.toNat i.vd.isLt l h32).trans (if_pos ⟨rfl, hvd', hm⟩)
    refine ⟨t, ht, ⟨hx, hthere, fun n hn l h32 => (hv n hn l h32).trans ?_⟩, fun l h32 hm e hes hed => ?_⟩
    · split
      case isTrue hw => exact (hlane l h32 hw.2.2).symm
      case isFalse => rfl
    · rw [hlane l h32 hm]
      exact elemOf_cvtLane _ _ hes hed
  case cvtElem =>
    intro src dst rd a _ _
    exact ⟨fun ff hs hd => cvtElem_int_float hs hd rd a, fun ff gg hs hd => cvtElem_float_float hs hd rd a,
      fun gg hs hd => cvtElem_nan_int hs hd rd⟩
  case oscl =>
    intro r i c s h hl hr hty he ho ha
    refine execOscl_wroteV h hl hr (lt_of_fmtExact he) fun l h32 hm => ?_
    have hty' : i.ty.toNat = 1 ∨ i.ty.toNat = 2 := hty.imp (congrArg BitVec.toNat) (congrArg BitVec.toNat)
    have h1 : i.ty.toNat = 1 ↔ i.ty = 1 := ⟨fun h => BitVec.eq_of_toNat_eq h, congrArg BitVec.toNat⟩
    rw [osclLane_of_amax hty' he ho (ha l h32 hm)]
    simp only [h1]
  case osclHeld =>
    intro r i c s h hm hs hf
    have hill : (v3Reserved i || decide (16 ≤ i.vc.toNat % 32)) = true := by simp [hf]
    exact congrArg _ (vector_illegal h hm hs hill _)
  case qnt =>
    intro r fmt i c s h hl hr h6 h0 hn
    exact execQnt_wroteV h hl hr h6 fun l h32 hm => qntLane_of_value h0 _ fun h1 => hn h1 l h32 hm
  case qntB1 =>
    intro r fmt i c s h hl hr h0 hsome
    refine execQnt_wroteV h hl hr (by omega) fun l h32 hm => ?_
    rw [h0]
    exact qntLane_b1 (hsome l h32 hm)
  case dq =>
    intro r fmt i c s h hl hr h6
    exact ⟨_, rfl, vlane_wroteV h hl hr (by simpa using h6) fun _ _ _ => rfl⟩

end Sys2Proof.Proofs
end

section
/-! Proofs about the acre's readout, store and end of an operation (R74, R76, R83 to R87, R109 to R112, R119, R122, R586). -/

namespace Sys2Proof.Proofs

open Sys2Proof.Machine Sys2Proof.Claims

/-! ## Steps of the operation on the acre (R109) -/

section
variable {s : State} {h : Nat} {step : AcreStep} {o : AcreOp} {c : Cmd}

theorem acreNow_step (hn : s.acreNow h step = some (o, c)) : o.step = step := by
  unfold State.acreNow at hn
  split at hn
  case h_1 x hx =>
    split at hn
    case isTrue hc =>
      obtain ⟨k, -, hk⟩ := Option.map_eq_some_iff.mp hn
      obtain ⟨hstep, -⟩ := hc
      rw [← (Prod.mk.inj hk).1]
      exact hstep
    case isFalse => exact nomatch hn
  case h_2 => exact nomatch hn

/-- The operation acts at its step once what it reads in it is there. -/
theorem onStep_of_now (hn : s.acreNow h step = some (o, c)) (hl : s.acreHas h (s.stepLines o c) = true)
    (f : AcreOp → Cmd → State) : s.onStep h step f = f o c := by
  simp only [State.onStep, hn, hl, if_true]

/-- The end of an operation reads nothing. -/
theorem acreHas_stepLines_done (hd : o.step = .done) : s.acreHas h (s.stepLines o c) = true := by
  simp [State.stepLines, hd, State.acreHas]

/-! ## The readout of an element (R74, R76) -/

variable {i j : Nat}

theorem readElem_within (hw : c.wide = false) (hf : c.fmtOut ≠ 15) (hlo : winMin ≤ tget o.acc (elemKey i j) 0)
    (hhi : tget o.acc (elemKey i j) 0 ≤ winMax) :
    s.readElem c o i j = { o with y := tset o.y (elemKey i j) ((fMul fF32 .rne (fMul fF32 .rne
      (roundIeee fF32 .rne (fixedQ (tget o.acc (elemKey i j) 0))) (s.factorA c i)) (s.factorB c j) : Nat) : Int) } := by
  simp only [State.readElem, hw, hf, Int.not_lt.mpr hlo, Int.not_lt.mpr hhi, Bool.false_eq_true, if_false, if_true]

/-- A sum above the window reads as the window's largest value, and the tile's SATS counts it (R74). -/
theorem readElem_above (hw : c.wide = false) (hf : c.fmtOut = 15) (hv : winMax < tget o.acc (elemKey i j) 0) :
    s.readElem c o i j = { o.count (i / 128) (j / 128) (fun k => k.add { sats := 1 }) with
      y := tset o.y (elemKey i j) winMax } := by
  simp only [State.readElem, hw, hf, hv, Int.ne_of_lt hv, Bool.false_eq_true, if_false, if_true, AcreOp.count]

end

/-! ## Escalation (R83 to R86, R111) -/

section
variable (o : AcreOp)

@[simp] theorem enterPass_shadow : o.enterPass.shadow = o.shadow := by unfold AcreOp.enterPass; split <;> rfl
@[simp] theorem enterPass_esc : o.enterPass.esc = o.esc := by unfold AcreOp.enterPass; split <;> rfl
@[simp] theorem enterPass_p : o.enterPass.p = o.p := by unfold AcreOp.enterPass; split <;> rfl

end

/-- A shadow is given for operand A or B (R85). -/
def hasShadow (c : Cmd) : Bool := (shadowAt c.ext 0).addr != 0 || (shadowAt c.ext 24).addr != 0

/-- The tiles of the group whose clip count is over the threshold (R84). -/
def overTiles (o : AcreOp) (c : Cmd) : List (Nat × Nat) := (o.tiles c).filter (fun t => o.overLimit c t)

section
variable {o : AcreOp} {c : Cmd}

theorem escalate_stores (h : o.shadow = true ∨ hasShadow c = false ∨ overTiles o c = []) :
    o.escalate c = { o with step := .store, s := 0, tj := 0, shadow := false } := by
  have hg : (o.shadow || !hasShadow c || (overTiles o c).isEmpty) = true := by
    simpa [or_assoc] using h
  exact if_pos hg

theorem escalate_recomputes (hr : o.shadow = false) (hs : hasShadow c = true) (ht : overTiles o c ≠ []) :
    (o.escalate c).shadow = true ∧ (o.escalate c).esc = overTiles o c ∧ (o.escalate c).p = 0 := by
  have hg : ¬ (o.shadow || !hasShadow c || (overTiles o c).isEmpty) = true := by
    simp [hr, hs, ht]
  obtain ⟨q, hq, hqs, hqe, hqp⟩ :
      ∃ q : AcreOp, o.escalate c = q.enterPass ∧ q.shadow = true ∧ q.esc = overTiles o c ∧ q.p = 0 :=
    ⟨_, if_neg hg, rfl, rfl, rfl⟩
  rw [hq, enterPass_shadow, enterPass_esc, enterPass_p]
  exact ⟨hqs, hqe, hqp⟩

/-- A recompute computes the tiles that escalate, and only they (R86). -/
theorem wants_of_shadow (h : o.shadow = true) (i j : Nat) : o.wants i j = o.esc.contains (i / 128, j / 128) := by
  simp only [AcreOp.wants, h, Bool.not_true, Bool.false_or]

end

/-! ## Store steps (R119, R586) -/

section
variable {s : State} {o : AcreOp} {c : Cmd}

theorem storeStep_of_factors (h : Nat) (hf : o.factorsOk = true ∨ s.factorsOne c = true) :
    s.storeStep h o c = ((o.rowsAt c).foldl (fun t i => t.storeRow c o i) s).stepAcre h
      (({ s.countQsat c o with factorsOk := true } : AcreOp).nextStore c) := by
  have hg : ¬ (!o.factorsOk && !s.factorsOne c) = true := by
    obtain hf | hf := hf <;> simp [hf]
  exact if_neg hg

theorem storeStep_of_bad_factor (h : Nat) (ho : o.factorsOk = false) (hf : s.factorsOne c = false) :
    s.storeStep h o c = s.failCmd o.cid 0x14 (some (descErr 4 96 0)) := by
  have hg : (!o.factorsOk && !s.factorsOne c) = true := by simp [ho, hf]
  exact if_pos hg

end

/-- Settles O30. Each command takes its step where its lines are there; the readout of an element, the escalation and the
store step are the rules above. -/
theorem acreReadoutStoreReport : Obligations.AcreReadoutStoreReport := by
  unfold Obligations.AcreReadoutStoreReport
  refine ⟨?readout, fun c o i j s hw hf hv => readElem_within hw hf hv.1 hv.2, ?above, ?stored, ?recomputed, ?store,
    ?badFactor, ?done⟩
  case readout =>
    intro h o c s hn hl
    exact congrArg _ (onStep_of_now hn hl _)
  case above =>
    intro c o i j s hw hf hv
    rw [readElem_above hw hf hv]
    exact ⟨by simp, rfl, by simp [AcreOp.count]⟩
  case stored =>
    intro o c h
    refine escalate_stores (h.imp_right (Or.imp_left ?_))
    rintro ⟨ha, hb⟩
    simp [hasShadow, ha, hb]
  case recomputed =>
    rintro o c _ hr hs rfl ht
    obtain ⟨hsh, hesc, hp⟩ := escalate_recomputes hr (by simpa [hasShadow] using hs) ht
    refine ⟨hsh, hesc, hp, fun i j => ?_⟩
    rw [wants_of_shadow hsh, hesc, overTiles]
  case store =>
    intro h o c s hn hl hf
    exact congrArg _ ((onStep_of_now hn hl _).trans (storeStep_of_factors h.val hf))
  case badFactor =>
    intro h o c s hn hl ho hf
    exact congrArg _ ((onStep_of_now hn hl _).trans (storeStep_of_bad_factor h.val ho hf))
  case done =>
    rintro h o c _ s hn rfl
    exact congrArg _ (onStep_of_now hn (acreHas_stepLines_done (acreNow_step hn)) _)

end Sys2Proof.Proofs
end

section
/-! Proofs about the writes that the KOD server performs as commands, the config store and the journal mirror (R135, R136,
R477 to R479, R483, R486, R488, R490 to R497). -/

namespace Sys2Proof.Proofs

open Sys2Proof.Machine Sys2Proof.Claims

/-! ## Numbers as bytes and bits -/

theorem leNat_leBytes (n v : Nat) : leNat (leBytes n v) = v % 256 ^ n := by
  induction n generalizing v with
  | zero => simp [leBytes, leNat, Nat.mod_one]
  | succ n ih =>
    have hlow : (BitVec.ofNat 8 v).toNat = v % 256 := BitVec.toNat_ofNat v 8
    rw [leBytes, leNat, ih, hlow, Nat.pow_succ', Nat.mod_mul]

@[simp] theorem length_leBytes (n v : Nat) : (leBytes n v).length = n := by
  induction n generalizing v with
  | zero => rfl
  | succ n ih => rw [leBytes, List.length_cons, ih]

/-- A mask that keeps every bit of a field leaves what is read of the field. -/
theorem nbits_and_of_ones {m hi lo : Nat} (v : Nat) (h : nbits m hi lo = 2 ^ (hi + 1 - lo) - 1) :
    nbits (v &&& m) hi lo = nbits v hi lo := by
  simp only [nbits, ← Nat.shiftRight_eq_div_pow] at h ⊢
  rw [Nat.shiftRight_and_distrib, Nat.and_mod_two_pow, h, Nat.and_two_pow_sub_one_eq_mod, Nat.mod_mod]

theorem nbits_one_zero (v : Nat) : nbits v 1 0 = v % 4 := by
  simp [nbits]

theorem nbit_eq_testBit (v i : Nat) : nbit v i = v.testBit i := by
  rw [nbit, Nat.testBit_eq_decide_div_mod_eq]
  rfl

theorem hide_of_hides {s t : State} (h : t.hides = s.hides) (n : Nat) : t.hide n = s.hide n := by
  rw [State.hide, State.hide, h]

/-! ## The request (R477, R478) -/

theorem reqVal_kodSet (src : KodSrc) (idx sub ty off : Nat) {len v : Nat} (h : v < 256 ^ len) :
    reqVal (kodSet src idx sub ty len off v) = v := by
  have ht : (leBytes len v).take len = leBytes len v := List.take_of_length_le (Nat.le_of_eq (length_leBytes len v))
  rw [reqVal, kodSet, ht, leNat_leBytes, Nat.mod_eq_of_lt h]

section
variable {s : State} {r : KodReq} {e : KodEnt}

/-- A request that the server takes now is performed whole. -/
theorem kodRequest_of_serves (h : serves s r.src) (op : Nat) : s.kodRequest op r = s.kodServe op r := by
  obtain ⟨hctl, hheld, hfw, hopen, hsrc⟩ := h
  have hrun : s.running = true := by
    simpa [State.running, State.ctlUp, hheld] using hctl
  simp [State.kodRequest, hrun, hopen, hsrc, hfw]

/-- A write of an entry that is not persistent is journaled and performed (R477, R496). -/
theorem kodServe_write (he : kodEntry r.idx r.sub = some e) (hp : e.persist = false) (hr : s.kodErr true r = none) :
    s.kodServe opWrite r = ((s.journal (s.kodSource r.src).1 r.prof (s.kodSource r.src).2 r.idx r.sub 0
      (journalForm e (s.oldOf e r)) (s.newForm e r)).kodPerform e r).kodAnswer r 0 [] := by
  have hw : s.kodWriteReq (s.kodSource r.src).1 (s.kodSource r.src).2 r = ((s.journal (s.kodSource r.src).1 r.prof
      (s.kodSource r.src).2 r.idx r.sub 0 (journalForm e (s.oldOf e r)) (s.newForm e r)).kodPerform e r, 0) := by
    simp [State.kodWriteReq, he, hr, hp]
  have hop : opWrite ≠ opRead := by decide
  rw [State.kodServe, if_neg hop, if_pos rfl, hw]

/-- A write-only entry that is not persistent: its write is a command (R476, R477). -/
def isCommand (e : KodEnt) : Prop := e.acc = 3 ∧ e.persist = false

theorem kodPerform_of_command (h : isCommand e) (t : State) : t.kodPerform e r = t.kodCommand r (e.keep (reqVal r)) := by
  obtain ⟨hacc, hp⟩ := h
  simp [State.kodPerform, hacc, hp]

end

section
variable {s : State} {src : KodSrc} {idx sub ty len v : Nat} {e : KodEnt}

/-- A command's number: the journal holds what the entry keeps of it, behind an OLD of zero (R497). -/
theorem kodRequest_kodSet (h : serves s src) (he : kodEntry idx sub = some e) (hc : isCommand e) (hty : e.ty < 7)
    (hv : v < 256 ^ len) (hr : s.kodErr true (kodSet src idx sub ty len 0 v) = none) :
    s.kodRequest opWrite (kodSet src idx sub ty len 0 v) = ((s.journal (s.kodSource src).1 7 (s.kodSource src).2 idx sub 0 0
      (e.keep v)).kodCommand (kodSet src idx sub ty len 0 v) (e.keep v)).kodAnswer (kodSet src idx sub ty len 0 v) 0 [] := by
  obtain ⟨hacc, hp⟩ := id hc
  have hv' := reqVal_kodSet src idx sub ty 0 hv
  have hold : journalForm e (s.oldOf e (kodSet src idx sub ty len 0 v)) = 0 := by
    simp [State.oldOf, journalForm, hacc, hty]
  have hnew : s.newForm e (kodSet src idx sub ty len 0 v) = e.keep v := by
    have h7 : ¬ 7 ≤ e.ty := by omega
    simp [State.newForm, journalForm, newVal, hty, h7, hv']
  rw [kodRequest_of_serves h, kodServe_write he hp hr, kodPerform_of_command hc, hold, hnew, hv']
  rfl

end

/-- A write of such an entry is its command on a state whose dictionary and hides the journal has not changed. -/
theorem kodRequest_command {s : State} {r : KodReq} {e : KodEnt} (h : serves s r.src) (he : kodEntry r.idx r.sub = some e)
    (hc : isCommand e) (hr : s.kodErr true r = none) :
    ∃ t w, s.kodRequest opWrite r = (t.kodCommand r w).kodAnswer r 0 [] ∧
      Same (fields [.mem, .exposed, .ext, .fns, .ao, .out]) s t := by
  have hw := (kodRequest_of_serves h opWrite).trans (kodServe_write he hc.2 hr)
  rw [kodPerform_of_command hc] at hw
  exact ⟨_, _, hw, Laws.journal_same s _ _ _ _ _ _ _ _ rfl (Laws.Same.refl _ s)⟩

/-! ## The entries of the commands (R484, R486, R488) -/

theorem keep_of_full {e : KodEnt} (h : e.mask + 1 = 2 ^ (8 * e.size)) (v : Nat) : e.keep v = v := if_pos h

/-- The range of the hides and resources has its own entries. -/
theorem kodEntry_hides {idx : Nat} (h : 0x3000 ≤ idx ∧ idx < 0x4000) (sub : Nat) : kodEntry idx sub = entHides idx sub := by
  obtain ⟨hlo, hhi⟩ := h
  unfold kodEntry
  rw [if_neg (by omega), if_neg (by omega), if_neg (by omega), if_pos hhi]

theorem kodEntry_hide (h : Fin 8) (sub : Nat) : kodEntry (0x3000 + h.val) sub = entHide sub := by
  rw [kodEntry_hides (by omega)]
  exact if_pos (by omega)

/-- The entries of a hide's shift program: staging, commit and store. -/
theorem kodEntry_shift (h : Fin 8) :
    kodEntry (0x3030 + h.val) 1 = some (kodBlob (16 * 2 ^ 10) 3) ∧
      kodEntry (0x3030 + h.val) 2 = some (kodPlain 3 3) ∧ kodEntry (0x3030 + h.val) 3 = some (kodPlain 0 3) := by
  have hrange : 0x3000 ≤ 0x3030 + h.val ∧ 0x3030 + h.val < 0x4000 := by omega
  have h1 : ¬ 0x3030 + h.val < 0x3008 := by omega
  have h2 : ¬ 0x3030 + h.val = 0x3010 := by omega
  have h3 : ¬ 0x3030 + h.val = 0x3020 := by omega
  have h4 : 0x3030 ≤ 0x3030 + h.val ∧ 0x3030 + h.val < 0x3038 := by omega
  simp only [kodEntry_hides hrange, entHides, if_neg h1, if_neg h2, if_neg h3, if_pos h4, and_self]

/-! ## What the commands do (R477, R486, R488) -/

section
variable {s : State} {r : KodReq} (v : Nat)

theorem kodCommand_switch (hi : r.idx = 0x2000) (hs : r.sub = 2) : s.kodCommand r v = s.switchTo (v % 4) (nbit v 7) := by
  simp [State.kodCommand, hi, hs]

theorem kodCommand_copy (hi : r.idx = 0x2000) (hs : r.sub = 6) :
    s.kodCommand r v = s.copyProfile (v % 4) (nbits v 9 8) := by
  simp [State.kodCommand, hi, hs]

theorem kodCommand_firmwareStage (hi : r.idx = 0x1040) (hs : r.sub = 1) :
    s.kodCommand r v = { s with kod := { s.kod with fwStage := stagePut s.kod.fwStage r.off (r.data.take r.len) } } := by
  simp [State.kodCommand, hi, hs]

theorem kodCommand_firmwareCommit (hi : r.idx = 0x1040) (hs : r.sub = 2) : s.kodCommand r v = s.commitFirmware v := by
  simp [State.kodCommand, hi, hs]

variable {h : Nat} (hh : h < 8)
include hh

theorem kodCommand_reset (hi : r.idx = 0x3000 + h) :
    s.kodCommand r v = if v = 1 then s.startReset h 4 else s.startFull h 0 := by
  unfold State.kodCommand
  rw [if_neg (by omega), if_neg (by omega), if_pos (by omega), hi, Nat.add_sub_cancel_left]

theorem kodCommand_shift (hi : r.idx = 0x3030 + h) : s.kodCommand r v =
    if r.sub = 1 then s.updHide h (fun x => { x with shiftStage := stagePut x.shiftStage r.off (r.data.take r.len) })
    else if r.sub = 2 then s.commitShift h
    else if v = 1 then s.storeShift h else s := by
  unfold State.kodCommand
  rw [if_neg (by omega), if_neg (by omega), if_neg (by omega), if_pos (by omega), hi, Nat.add_sub_cancel_left]

theorem kodCommand_shiftStage (hi : r.idx = 0x3030 + h) (hs : r.sub = 1) : s.kodCommand r v =
    s.updHide h (fun x => { x with shiftStage := stagePut x.shiftStage r.off (r.data.take r.len) }) := by
  rw [kodCommand_shift v hh hi, if_pos hs]

theorem kodCommand_shiftCommit (hi : r.idx = 0x3030 + h) (hs : r.sub = 2) : s.kodCommand r v = s.commitShift h := by
  simp [kodCommand_shift v hh hi, hs]

theorem kodCommand_shiftStore (hi : r.idx = 0x3030 + h) (hs : r.sub = 3) (hv : v = 1) :
    s.kodCommand r v = s.storeShift h := by
  rw [kodCommand_shift v hh hi, hs, if_neg (by decide), if_neg (by decide), if_pos hv]

end

/-! ## The flash and the config store (R492 to R495, R568)

Operations of the flash leave on the Config Port; the dictionary and PD_AO stay as they are. -/

section
variable (s : State)

@[simp] theorem flashWrite_kod (a : Nat) (bs : List Byte) : (s.flashWrite a bs).kod = s.kod :=
  (Laws.flashWrite_same s a bs rfl (Laws.Same.refl (fields [.out]) s)).get .kod rfl

@[simp] theorem flashWrite_ao (a : Nat) (bs : List Byte) : (s.flashWrite a bs).ao = s.ao :=
  (Laws.flashWrite_same s a bs rfl (Laws.Same.refl (fields [.out]) s)).get .ao rfl

theorem mirrorWrite_ao : (mirrorWrite s).ao = s.ao := by
  have h : Same (fields [.out]) s (mirrorWrite s) := by
    unfold mirrorWrite
    refine Laws.flashRead_same _ _ _ rfl (Laws.flashProgram_same _ _ _ rfl ?_)
    split
    · exact Laws.flashErase_same _ _ _ rfl (Laws.Same.refl _ s)
    · exact Laws.Same.refl _ s
  exact h.get .ao rfl

theorem writeHeader_kod (ok : Bool) : (s.writeHeader ok).kod =
    if ok then { s.kod with hdrAt := 1 - s.kod.hdrAt, hdrSeq := s.kod.hdrSeq + 1 } else s.kod := by
  cases ok <;> simp [State.writeHeader]

@[simp] theorem writeHeader_ao (ok : Bool) : (s.writeHeader ok).ao = s.ao := by
  cases ok <;> simp [State.writeHeader]

@[simp] theorem writeCopy_ao (p : Nat) (ok : Bool) : (s.writeCopy p ok).ao = s.ao := by
  simp [State.writeCopy]

/-- A new copy of a profile changes the copies alone. -/
theorem writeCopy_kod (p : Nat) (ok : Bool) : ∃ cs, (s.writeCopy p ok).kod = { s.kod with copies := cs } :=
  ⟨_, flashWrite_kod _ _ _⟩

variable {s}

/-- Where the first copy is the one in use, the second takes the profile, with the next SEQ. -/
theorem writeCopy_copies {p : Nat} (h : s.goodCopy p = some 0) (ok : Bool) :
    (s.writeCopy p ok).kod.copies = tset s.kod.copies (2 * p + 1) {
      valid := ok, seq := (s.copyAt p 0).seq + 1, lastEvseq := s.ao.newest.toNat, vals := tget s.kod.stored p [] } := by
  simp [State.writeCopy, h]

/-- A commit of one changed profile writes its copy and the header, which then tell of the profile in use and the newest
journal entry (R493, R495). -/
theorem execConfigStoreCommit_done {p : Nat} (hf : s.pow.fwUp = true) (hd : s.kod.dirty = [p]) :
    ∃ t, execConfigStoreCommit true s = .next t ∧ t.kod = { ((s.writeCopy p true).writeHeader true).kod with
      dirty := [], invalid := s.kod.invalid.filter (fun x => x != p), hdrActive := s.kod.active,
      hdrEvseq := s.ao.newest.toNat } := by
  obtain ⟨cs, hk⟩ := writeCopy_kod s p true
  have hinv : s.kod.invalid.filter (fun q => !([p].contains q)) = s.kod.invalid.filter (fun x => x != p) :=
    List.filter_congr fun x _ => by
      rw [List.contains_cons, List.contains_nil, Bool.or_false]
      rfl
  refine ⟨_, rfl, ?_⟩
  simp only [hf, hd, writeHeader_kod, writeHeader_ao, writeCopy_ao, hk, hinv, Bool.not_true, Bool.false_eq_true, if_false,
    if_true, List.foldl_cons, List.foldl_nil]

theorem execConfigStoreCommit_failed {p : Nat} (hf : s.pow.fwUp = true) (hd : s.kod.dirty = [p]) :
    execConfigStoreCommit false s = .next (((s.writeCopy p false).writeHeader false).storeAlarm) := by
  simp [execConfigStoreCommit, hf, hd]

/-- The mirror takes the oldest entry once it reads back as written, else an alarm is raised (R492, R495). -/
theorem execJournalMirrorCopy_of_waiting (hf : s.pow.fwUp = true) (hq : s.ao.jq.head ≠ s.ao.jq.tail) (ok : Bool) :
    execJournalMirrorCopy ok s = .next (if ok then
      { mirrorWrite s with ao := { s.ao with
        mirror := tset s.ao.mirror s.ao.mirrorPos (tget s.ao.journal (s.ao.jq.head.toNat % 512) 0)
        mirrorPos := (s.ao.mirrorPos + 1) % 16384
        mirrored := (tget s.ao.journal (s.ao.jq.head.toNat % 512) 0).setWidth 64
        journal := terase s.ao.journal (s.ao.jq.head.toNat % 512)
        jq := { s.ao.jq with head := s.ao.jq.head + 1 } } }
      else (mirrorWrite s).storeAlarm) := by
  have hopen : ¬ (!s.pow.fwUp || s.ao.jq.head == s.ao.jq.tail) = true := by
    simp [hf, hq]
  have hao := mirrorWrite_ao s
  unfold mirrorWrite at hao
  simp only [execJournalMirrorCopy, if_neg hopen, mirrorWrite, hao]

/-- A value that is held takes effect unless it still waits (R491). -/
theorem execPendingLiveApply_of_held {idx sub v : Nat} (hv : tfind s.kod.heldLive (kodKey idx sub) = some v) :
    execPendingLiveApply idx sub s = .next (if s.liveWaits idx sub v then s else s.setLive idx sub v) := by
  simp only [execPendingLiveApply, hv]

/-- An image whose CRC is right goes to the slot that does not run, which starts next (R494). -/
theorem commitFirmware_kod {crc : Nat} (hb : stagedBytes s.kod.fwStage ≠ [])
    (hc : (crc32 (stagedBytes s.kod.fwStage)).toNat = crc) (hr : s.kod.fwRun = 0) :
    (s.commitFirmware crc).kod = { s.kod with
      fwStage := [], fwOk1 := true, fwImg1 := 2 + crc, fwNext := 1, hdrAt := 1 - s.kod.hdrAt, hdrSeq := s.kod.hdrSeq + 1 } := by
  have hok : (!(stagedBytes s.kod.fwStage).isEmpty && (crc32 (stagedBytes s.kod.fwStage)).toNat == crc) = true := by
    simp [hb, hc]
  simp only [State.commitFirmware, hok, hr, if_true, writeHeader_kod, flashWrite_kod]

end

/-- Settles O39. A write is journaled and performed as its entry's command (`kodRequest_kodSet`, `kodRequest_command`); the
config store's copies, its header and the mirror change their own fields alone. -/
theorem profilesImagesAndStores : Obligations.ProfilesImagesAndStores := by
  unfold Obligations.ProfilesImagesAndStores
  refine ⟨?switch, ?copy, ?piece, ?commit, ?image, ?shiftPiece, ?shiftCommit, ?shiftStore, ?reset, ?full, ?held, ?stored,
    ?failed, ?older, ?mirror, ?mirrorFails⟩
  case switch =>
    intro src val s h hr
    have hk : ({ kodPlain 1 3 with mask := 0x83 } : KodEnt).keep val.toNat = val.toNat &&& 0x83 := rfl
    have h0 : (val.toNat &&& 0x83) % 4 = val.toNat % 4 := by
      rw [← nbits_one_zero, nbits_and_of_ones _ rfl, nbits_one_zero]
    have h7 : nbit (val.toNat &&& 0x83) 7 = val.getLsbD 7 := by
      rw [nbit_eq_testBit, Nat.testBit_and]
      exact Bool.and_true _
    refine congrArg _ ((kodRequest_kodSet h rfl ⟨rfl, rfl⟩ (by decide) val.isLt hr).trans ?_)
    rw [kodCommand_switch _ rfl rfl, hk, h0, h7]
  case copy =>
    intro src val s h hr
    have hk : ({ kodPlain 2 3 with mask := 0x303 } : KodEnt).keep val.toNat = val.toNat &&& 0x303 := rfl
    have h0 : (val.toNat &&& 0x303) % 4 = val.toNat % 4 := by
      rw [← nbits_one_zero, nbits_and_of_ones _ rfl, nbits_one_zero]
    have h8 : nbits (val.toNat &&& 0x303) 9 8 = val.toNat / 256 % 4 := nbits_and_of_ones _ rfl
    refine congrArg _ ((kodRequest_kodSet h rfl ⟨rfl, rfl⟩ (by decide) val.isLt hr).trans ?_)
    rw [kodCommand_copy _ rfl rfl, hk, h0, h8]
  case piece =>
    intro src off data s h hr
    obtain ⟨t, w, hx, ht⟩ := kodRequest_command h (rfl : kodEntry 0x1040 1 = some (kodBlob (12 * 2 ^ 20) 3)) ⟨rfl, rfl⟩ hr
    have hkod : t.kod = s.kod := ht.get .kod rfl
    refine ⟨_, congrArg _ hx, ?_⟩
    rw [kodCommand_firmwareStage _ rfl rfl, hkod]
    exact ⟨congrArg _ (List.take_length ..), rfl, rfl⟩
  case commit =>
    intro src crc s h hr
    refine congrArg _ ((kodRequest_kodSet h rfl ⟨rfl, rfl⟩ (by decide) crc.isLt hr).trans ?_)
    rw [kodCommand_firmwareCommit _ rfl rfl, keep_of_full rfl]
  case image =>
    intro crc s hb hc hr
    rw [commitFirmware_kod hb hc hr]
    exact ⟨rfl, rfl, hr, rfl⟩
  case shiftPiece =>
    intro src h off data s hs hr
    obtain ⟨hstage, -, -⟩ := kodEntry_shift h
    obtain ⟨t, w, hx, ht⟩ := kodRequest_command hs hstage ⟨rfl, rfl⟩ hr
    have hhide : t.hide h.val = s.hide h.val := hide_of_hides (ht.get .hides rfl) h.val
    refine ⟨_, congrArg _ hx, ?_⟩
    rw [kodCommand_shiftStage _ h.isLt rfl rfl, State.hide_updHide, if_pos rfl, hhide]
    exact ⟨congrArg _ (List.take_length ..), rfl⟩
  case shiftCommit =>
    intro src h val s hs hr
    obtain ⟨-, hcommit, -⟩ := kodEntry_shift h
    refine congrArg _ ((kodRequest_kodSet hs hcommit ⟨rfl, rfl⟩ (by decide) val.isLt hr).trans ?_)
    rw [kodCommand_shiftCommit _ h.isLt rfl rfl, keep_of_full rfl]
  case shiftStore =>
    intro src h s hs hr
    obtain ⟨-, -, hstore⟩ := kodEntry_shift h
    refine congrArg _ ((kodRequest_kodSet hs hstore ⟨rfl, rfl⟩ (by decide) (by decide) hr).trans ?_)
    rw [keep_of_full rfl, kodCommand_shiftStore _ h.isLt rfl rfl rfl]
  case reset =>
    intro src h s hs hr
    refine congrArg _ ((kodRequest_kodSet hs (kodEntry_hide h 0x10) ⟨rfl, rfl⟩ (by decide) (by decide) hr).trans ?_)
    rw [kodCommand_reset _ h.isLt rfl, keep_of_full rfl]
    rfl
  case full =>
    intro src h s hs hr
    refine congrArg _ ((kodRequest_kodSet hs (kodEntry_hide h 0x10) ⟨rfl, rfl⟩ (by decide) (by decide) hr).trans ?_)
    rw [kodCommand_reset _ h.isLt rfl, keep_of_full rfl]
    rfl
  case held =>
    intro idx sub v s hv
    exact execPendingLiveApply_of_held hv
  case stored =>
    intro p s hf hd
    obtain ⟨cs, hk⟩ := writeCopy_kod s p true
    obtain ⟨t, ht, hkod⟩ := execConfigStoreCommit_done hf hd
    rw [writeHeader_kod, if_pos rfl, hk] at hkod
    rw [hk]
    exact ⟨t, ht, by rw [hkod], by rw [hkod], by rw [hkod], by rw [hkod], by rw [hkod], by rw [hkod]⟩
  case failed =>
    intro p s hf hd
    exact execConfigStoreCommit_failed hf hd
  case older =>
    intro p ok s hg
    simp [State.copyAt, writeCopy_copies hg]
  case mirror =>
    intro s hf hq
    exact execJournalMirrorCopy_of_waiting hf hq true
  case mirrorFails =>
    intro s hf hq
    exact execJournalMirrorCopy_of_waiting hf hq false

end Sys2Proof.Proofs
end

section
/-! Proofs about the acre: starting an operation, stepping aside for one of class 0, loads and slices with their checks,
and failing cores (R100, R101, R109, R113, R125 to R132, R146, R469). -/

namespace Sys2Proof.Proofs

open Sys2Proof.Machine Sys2Proof.Claims

/-! ## Starting an operation (R113, R131, R142) -/

/-- An operation with its four streams placed runs on its hide's acre, and waits no more. -/
theorem startAcre_acre {s u : State} {c : Cmd} (hu : s.takeStreams c = some u) :
    ((s.startAcre c).hide c.hide).acre.run = some (s.newAcreOp c) ∧
      ((s.startAcre c).hide c.hide).acre.wait = (s.hide c.hide).acre.wait.filter (fun i => i != c.cid) := by
  have placed : Same (fields [.mem, .exposed, .ext, .cmds, .movers]) s u :=
    Laws.takeStreams_same hu rfl (Laws.Same.refl _ s)
  obtain ⟨t, ht, hsame⟩ : ∃ t, s.startAcre c = ((t.updAcre c.hide (fun a => { a with
      pre := if a.run.isSome then a.run.map AcreOp.putAside else a.pre, run := some (s.newAcreOp c)
      wait := a.wait.filter (fun i => i != c.cid) })).updCmd c.cid (fun k => { k with phase := .running })).retime ∧
      Same (fields [.mem, .exposed, .ext, .cmds, .movers]) s t := by
    unfold State.startAcre
    rw [hu]
    refine ⟨_, rfl, ?_⟩
    have claimed : Same (fields [.mem, .exposed, .ext, .cmds, .movers]) s
        (if s.acreHolds c.hide then u else u.claimUnits c.hide) := by
      split
      · exact placed
      · exact Laws.claimUnits_same _ _ rfl placed
    split
    · exact Laws.acreFed_same _ _ rfl claimed
    · exact claimed
  have hhide : t.hide c.hide = s.hide c.hide := hide_of_hides (hsame.get .hides rfl) c.hide
  rw [ht, State.retime_hide_at, State.updCmd_hide_at, State.updAcre, State.hide_updHide, if_pos rfl, hhide]
  exact ⟨rfl, rfl⟩

theorem execAcreOperationStart_of_next {s : State} {h : Fin 8} {c : Cmd} (he : s.engineOpen h.val = true)
    (hb : (s.hide h.val).acre.blocked = false) (hf : s.furlongsOf h.val ≠ []) (hn : s.nextAcre h.val = some c)
    (hc : s.ctxOpen c.ctx = true) (ho : (s.furlongsOf h.val).all s.furlongOn = true) :
    execAcreOperationStart h s = .next (s.startAcre c) := by
  have hopen : (s.engineOpen h.val && !(s.hide h.val).acre.blocked && !(s.furlongsOf h.val).isEmpty) = true := by
    simp [he, hb, hf]
  simp only [execAcreOperationStart, hopen, hn, hc, ho, Bool.not_true, Bool.false_eq_true, if_false, if_true]

/-! ## Stepping aside for class 0, and resuming (R129 to R132) -/

section
variable {s : State} {h : Fin 8} {o : AcreOp}

theorem execAcreStepAbandon_of_waiting (hr : (s.hide h.val).acre.run = some o) (hp : s.acrePrio h.val = true)
    (hc : o.cls ≠ 0) (hn : (s.hide h.val).acre.pre = none)
    (hw : (s.waitingAcre h.val (fun c => c.cls == 0)).isSome = true) :
    execAcreStepAbandon h s =
      .next (((s.updAcre h.val (fun x => { x with run := none, pre := some o.putAside })).acreFed o.cid).retime) := by
  have hgive : (s.acrePrio h.val && o.cls != 0 && (s.hide h.val).acre.pre.isNone
      && (s.waitingAcre h.val (fun c => c.cls == 0)).isSome) = true := by
    simp [hp, hc, hn, hw]
  simp only [execAcreStepAbandon, hr, hgive, if_true]

theorem execAcreResume_of_free (hr : (s.hide h.val).acre.run = none) (hp : (s.hide h.val).acre.pre = some o)
    (hd : s.class0Due h.val = false) (he : s.engineOpen h.val = true) :
    execAcreResume h s = .next ((s.updAcre h.val (fun x => { x with run := some o, pre := none })).retime) := by
  simp [execAcreResume, hr, hp, hd, he]

theorem execAcreResume_of_due (hd : s.class0Due h.val = true) : execAcreResume h s = .next s := by
  unfold execAcreResume
  extract_lets a
  split
  · simp [hd]
  · rfl

end

/-! ## Tile boundaries (R129, R131) -/

section
variable {s : State} {h : Nat} {o : AcreOp}

/-- At a tile boundary an operation that need not give way goes on. -/
theorem putAcre_of_stays (hy : s.mustYield h o = false) :
    s.putAcre h o = s.updAcre h (fun a => { a with run := some { o with fed := [] } }) := by
  simp only [State.putAcre, hy, Bool.false_eq_true, if_false]

theorem putAcre_of_yields (hy : s.mustYield h o = true) :
    s.putAcre h o = (s.updAcre h (fun a => { a with run := none, pre := some o.putAside })).retime :=
  if_pos hy

end

/-! ## The step that an operation is at (R109) -/

section
variable {s : State} {h : Nat} {step : AcreStep} {o : AcreOp} {c : Cmd}

theorem acreNow_run (hn : s.acreNow h step = some (o, c)) : (s.hide h).acre.run = some o := by
  unfold State.acreNow at hn
  split at hn
  case h_1 x hx =>
    split at hn
    case isTrue =>
      obtain ⟨k, -, hk⟩ := Option.map_eq_some_iff.mp hn
      rw [hx, (Prod.mk.inj hk).1]
    case isFalse => exact nomatch hn
  case h_2 => exact nomatch hn

/-- An operation is at one step only. -/
theorem acreNow_of_other {other : AcreStep} (hn : s.acreNow h step = some (o, c)) (hs : step ≠ other) :
    s.acreNow h other = none := by
  have ho : ¬ (o.step = other ∧ !o.hold ∧ s.engineOpen h) := fun ⟨hstep, _⟩ => hs ((acreNow_step hn).symm.trans hstep)
  simp only [State.acreNow, acreNow_run hn, if_neg ho]

theorem acreNow_idle (hr : (s.hide h).acre.run = none) (step : AcreStep) : s.acreNow h step = none := by
  simp only [State.acreNow, hr]

theorem onStep_of_idle (hr : (s.hide h).acre.run = none) (step : AcreStep) (f : AcreOp → Cmd → State) :
    s.onStep h step f = s := by
  simp only [State.onStep, acreNow_idle hr]

/-- What the operation reads in its step is not there yet: it asks for it (R48, R226). -/
theorem onStep_asks (hn : s.acreNow h step = some (o, c)) (hl : s.acreHas h (s.stepLines o c) = false)
    (f : AcreOp → Cmd → State) : s.onStep h step f = s.acreAsk h c (s.stepLines o c) := by
  simp only [State.onStep, hn, hl, Bool.false_eq_true, if_false]

end

/-! ## B blocks (R100, R101) -/

section
variable {s : State} {h : Fin 8}

/-- Outside a slice, a block is loaded for the pass itself. -/
theorem execAcreBBlockLoaded_of_no_slice (hn : s.acreNow h.val .slice = none) : execAcreBBlockLoaded h s =
    .next (s.onStep h.val .load (fun o c =>
      if s.mustYield h.val o then (s.putAcre h.val o).acreFed o.cid
      else (s.updAcre h.val (fun a => { a with
        run := some { o with b0 := s.bBlock c o o.n o.p o.shadow, step := .slice, fed := [] } })).acreFed o.cid)) := by
  simp only [execAcreBBlockLoaded, hn]

theorem execAcreBBlockLoaded_of_slice {o : AcreOp} {c : Cmd} (hn : s.acreNow h.val .slice = some (o, c)) :
    execAcreBBlockLoaded h s = .next (s.loadIdle h.val o c) := by
  simp only [execAcreBBlockLoaded, hn]

theorem loadIdle_of_next {h : Nat} {o : AcreOp} {c : Cmd} {n p : Nat} {sh : Bool} (hp : o.nextPass c = some (n, p, sh))
    (hi : o.idle = none) (hy : s.mustYield h o = false) (hl : s.acreHas h (o.bLines c n p sh) = true) :
    s.loadIdle h o c = s.updAcre h (fun a => { a with
      run := some { o with b1 := s.bBlock c o n p sh, idle := some (n, p, sh) } }) := by
  simp [State.loadIdle, hp, hi, hy, hl]

end

/-! ## The end of a slice (R125 to R129) -/

section
variable {s : State} {h : Nat} {o : AcreOp} {c : Cmd} {f u : Fin 16}

/-- The operation behind the first mismatch of a slice: the slice runs again. -/
def rerunFor (o : AcreOp) (f u : Fin 16) : AcreOp :=
  { o with rerun := true, bad := [(f.val, u.val)], chkRetries := o.chkRetries + 1 }

theorem endSlice_of_first_mismatch (hb : f.val < o.k ∧ u.val < o.w) (hr : o.rerun = false) :
    s.endSlice h [(f, u)] o c = (s.putAcre h (rerunFor o f u)).acreFed o.cid := by
  simp [State.endSlice, hb, hr, rerunFor]

theorem endSlice_of_second_mismatch (hb : f.val < o.k ∧ u.val < o.w) (hr : o.rerun = true)
    (ho : o.bad = [(f.val, u.val)]) : s.endSlice h [(f, u)] o c =
      (s.failCmd o.cid 0x17 (some (checksumErr (coreField (s.unitCore h f.val u.val)) 2 1))).markSuspect
        (s.unitCore h f.val u.val) := by
  have hone : [(f.val, u.val), (f.val, u.val)].eraseDups = [(f.val, u.val)] := by
    simp [List.eraseDups_cons]
  simp [State.endSlice, hb, hr, ho, hone]

end

/-! ## Failing cores (R146) -/

/-- A compute core of a hide that fails is latched; one of the active part starts the compute part's reset. -/
theorem execCoreErr_of_hide {s : State} {core : Fin 276} {h : Nat} (hc : core.val < 272) (hh : s.coreHide core.val = some h)
    (hr : s.coreActive core.val = true → (s.hide h).recovery = false) :
    execCoreErr core s = .next (if s.coreActive core.val then
      ((s.updCore core.val (fun k => { k with failed := true })).latchIn (core.val / 17)).startReset h 0
      else (s.updCore core.val (fun k => { k with failed := true })).latchIn (core.val / 17)) := by
  have hn : ¬ 272 ≤ core.val := by omega
  cases ha : s.coreActive core.val with
  | false => simp [execCoreErr, hn, hh, ha]
  | true => simp [execCoreErr, hn, hh, ha, hr ha]

/-- Settles O29. Each command acts on the operation that `acreNow` finds at its step; what it does there is the rule of that
step. -/
theorem acreSteps : Obligations.AcreSteps := by
  unfold Obligations.AcreSteps
  refine ⟨?start, ?started, ?aside, ?resume, ?due, ?asks, ?load, ?idleLoad, ?slice, ?first, ?preempts, ?second, ?idle,
    ?failed, ?reset⟩
  case start =>
    intro h c s he hb hf hn hc ho
    exact execAcreOperationStart_of_next he hb hf hn hc ho
  case started =>
    intro c u s hu
    obtain ⟨hrun, hwait⟩ := startAcre_acre hu
    exact ⟨_, rfl, hrun, hwait, rfl, rfl⟩
  case aside =>
    intro h o s hr hp hc hn hw
    exact execAcreStepAbandon_of_waiting hr hp hc hn hw
  case resume =>
    intro h o s hr hp hd he
    exact execAcreResume_of_free hr hp hd he
  case due =>
    intro h s hd
    exact execAcreResume_of_due hd
  case asks =>
    intro h o c bad s hl
    refine ⟨fun hn => ?_, fun hn => congrArg _ (onStep_asks hn hl _), fun hn => congrArg _ (onStep_asks hn hl _),
      fun hn => congrArg _ (onStep_asks hn hl _)⟩
    exact (execAcreBBlockLoaded_of_no_slice (acreNow_of_other hn (by decide))).trans (congrArg _ (onStep_asks hn hl _))
  case load =>
    intro h o c s hn hl hy
    refine (execAcreBBlockLoaded_of_no_slice (acreNow_of_other hn (by decide))).trans (congrArg _ ?_)
    simp only [onStep_of_now hn hl, hy, Bool.false_eq_true, if_false]
  case idleLoad =>
    intro h o c n p sh s hn hp hi hy hl
    exact (execAcreBBlockLoaded_of_slice hn).trans (congrArg _ (loadIdle_of_next hp hi hy hl))
  case slice =>
    intro h o c s hn hl
    exact congrArg _ (onStep_of_now hn hl _)
  case first =>
    intro h o c f u s hn hl hb hr hy
    refine congrArg _ ((onStep_of_now hn hl _).trans ((endSlice_of_first_mismatch hb hr).trans ?_))
    rw [putAcre_of_stays (o := rerunFor o f u) hy]
    rfl
  case preempts =>
    intro h o c f u s hn hl hb hr hy
    refine congrArg _ ((onStep_of_now hn hl _).trans ((endSlice_of_first_mismatch hb hr).trans ?_))
    rw [putAcre_of_yields (o := rerunFor o f u) hy]
    rfl
  case second =>
    intro h o c f u s hn hl hb hr ho
    exact congrArg _ ((onStep_of_now hn hl _).trans (endSlice_of_second_mismatch hb hr ho))
  case idle =>
    intro h bad s hr
    exact ⟨congrArg _ (onStep_of_idle hr ..),
      (execAcreBBlockLoaded_of_no_slice (acreNow_idle hr _)).trans (congrArg _ (onStep_of_idle hr ..)),
      congrArg _ (onStep_of_idle hr ..), congrArg _ (onStep_of_idle hr ..), congrArg _ (onStep_of_idle hr ..)⟩
  case failed =>
    intro core h s hc hh ha
    refine (execCoreErr_of_hide hc hh fun hx => absurd (hx.symm.trans ha) (by decide)).trans ?_
    rw [ha]
    rfl
  case reset =>
    intro core h s hc hh ha hr
    refine (execCoreErr_of_hide hc hh fun _ => hr).trans ?_
    rw [ha]
    rfl

end Sys2Proof.Proofs
end

section
/-! Proofs about the use of a matrix unit by a context: the issue of an MX instruction, the unit's registers and
accumulators, and the release of a unit (R99, R143, R177, R186 to R194). -/

namespace Sys2Proof.Proofs

open Sys2Proof.Machine Sys2Proof.Claims

/-! ## Formats and depth (R99, R187) -/

theorem mxOk_iff (fmt mode : Nat) : mxOk fmt mode = true ↔ mxLegal fmt mode := by
  simp [mxOk, fmtExact, mxLegal, and_assoc]

theorem mxPairOk_iff (i : MxI) :
    mxPairOk i = true ↔ mxLegal i.fmtA.toNat i.modeA.toNat ∧ mxLegal i.fmtB.toNat i.modeB.toNat := by
  rw [mxPairOk, Bool.and_eq_true, mxOk_iff, mxOk_iff]

theorem mxD_eq_pairDepth (i : MxI) : mxD i = pairDepth i := by
  simp [mxD, mxDepth, fmtPlanes]

theorem mxModes_of_lt {i : MxI} (ha : i.modeA.toNat < 5) (hb : i.modeB.toNat < 5) : mxModes i = true := by
  simp [mxModes, ha, hb]

/-! ## The issue of an MX instruction (R143, R177, R187, R190, R193)

`mxAllowed`: the checks that come before the wait for the unit are passed. -/

/-- The hide's profile permits the formats, and the local bytes lie in the group's usable store. -/
def mxAllowed (s : State) (r : ChainRef) (c : Chain) (k : Cmd) (fmts : List Nat) (needs : LsNeed) : Prop :=
  (∀ x ∈ fmts, permits s k x) ∧ ∀ n ∈ needs, lsFits s r c n.1 n.2

section
variable {s : State} {r : ChainRef} {c : Chain} {k : Cmd} {i : MxI} {legal fails : Bool} {fmts : List Nat}
  {needs : Chain → LsNeed} {f : Chain → State → State} {a : Nat}

theorem permitted_iff : fmts.all (fun x => nbit (s.kodRun (0x3000 + k.hide) 4) x) = true ↔ ∀ x ∈ fmts, permits s k x := by
  simp only [List.all_eq_true, nbit_eq_testBit]

theorem mx_illegal (h : mxIssues s r c k i) (hl : legal = false) :
    s.mx r i legal fmts needs fails f = raised s r c { cause := 1, lanes := c.active } := by
  obtain ⟨hw, hk, -, -, hs⟩ := h
  rw [State.mx, whole_act hw]
  simp only [hk, hl, Bool.not_false, Bool.or_true, if_true]
  exact act_exc hs

theorem mx_not_permitted (h : mxIssues s r c k i) (hl : legal = true) (hf : ¬ ∀ x ∈ fmts, permits s k x) :
    s.mx r i legal fmts needs fails f = raised s r c { cause := 0x0B, lanes := c.active } := by
  obtain ⟨hw, hk, hc, -, hs⟩ := h
  have hp := mt permitted_iff.mp hf
  rw [State.mx, whole_act hw]
  simp only [hk, hc, hl, hp, Bool.not_true, Bool.or_false, Bool.false_eq_true, if_false, Bool.not_false, if_true]
  exact act_exc hs

/-- An instruction without operands has none to check. -/
theorem mxAllowed_nil : mxAllowed s r c k [] [] :=
  ⟨List.forall_mem_nil _, List.forall_mem_nil _⟩

/-- An operand's rows and scales fit, and the profile permits both formats. -/
theorem mxAllowed_of_operand {fmt mode n : Nat} (hA : permits s k i.fmtA.toNat) (hB : permits s k i.fmtB.toNat)
    (hrows : lsFits s r c (c.ureg i.uaddr.toNat).toNat (n * mxRowLen fmt (pairDepth i)))
    (hscales : lsFits s r c (c.ureg i.uaux.toNat).toNat (n * mxScaleLen mode (pairDepth i))) :
    mxAllowed s r c k [i.fmtA.toNat, i.fmtB.toNat] (mxNeeds c i fmt mode (mxD i) n) := by
  rw [mxD_eq_pairDepth]
  exact ⟨List.forall_mem_cons.mpr ⟨hA, List.forall_mem_singleton.mpr hB⟩,
    List.forall_mem_cons.mpr ⟨hrows, List.forall_mem_singleton.mpr hscales⟩⟩

/-- What an MX instruction does once its checks are passed: it waits for the unit, or acts on it, owned before or taken now,
unless the unit's own check fails again. -/
def mxAct (s : State) (r : ChainRef) (c : Chain) (k : Cmd) (fails : Bool) (f : Chain → State → State) : Act :=
  let go := fun (t : State) => (f c (t.leaveMxq r.core.val r.slot.val)).wakeMx r.core.val
  let check : Act := if c.settled then .request (fun t =>
      (t.raise r.core.val r.slot.val { cause := 0x0C, lanes := c.active }).markSuspect r.core.val) else .wait
  if s.unitTaken r.core.val r.slot.val c k then
    .hold { c with st := .mxWait } (fun t => t.joinMxq r.core.val r.slot.val)
  else if (s.core r.core.val).unit.owner.isSome then (if fails then check else .with_ (nextPc c) go)
  else
    match s.freeSlot k.ctx with
    | none => .exc { cause := 0x0F, lanes := c.active }
    | some a =>
      if fails then check
      else .with_ (nextPc c) (fun t => go (t.updCore r.core.val (fun x => { x with
        unit := { x.unit with owner := some k.ctx, slotAt := a } })))

theorem mx_checked (h : mxIssues s r c k i) (hl : legal = true) (hn : mxAllowed s r c k fmts (needs c)) :
    s.mx r i legal fmts needs fails f = (fetched s r c).act r.core.val r.slot.val c (mxAct s r c k fails f) := by
  obtain ⟨hw, hk, hc, ha, -⟩ := h
  have hp := permitted_iff.mpr hn.1
  have hfit : (needs c).any (fun n => decide (0 < n.2) && decide (s.lsUse r.core.val c < n.1 + n.2)) = false := by
    refine List.any_eq_false.mpr fun n hmem => ?_
    have := hn.2 n hmem
    simp only [Bool.and_eq_true, decide_eq_true_eq]
    omega
  rw [State.mx, whole_act hw]
  simp only [mxAct, hk, hc, hl, hp, hfit, ha, Bool.not_true, Bool.or_false, Bool.false_eq_true, if_false] <;> rfl

theorem unitTaken_of_held (h : s.acreHolds k.hide = true ∨
    ((s.core r.core.val).unit.owner ≠ none ∧ (s.core r.core.val).unit.owner ≠ some k.ctx)) :
    s.unitTaken r.core.val r.slot.val c k = true := by
  obtain ha | ⟨hn, ho⟩ := h
  · simp [State.unitTaken, ha]
  · simp [State.unitTaken, Option.isSome_iff_ne_none, hn, ho]

/-- The unit serves another context or the acre: the chain waits in issue order (R143, R191). -/
theorem mx_waits (h : mxIssues s r c k i) (hl : legal = true) (hn : mxAllowed s r c k fmts (needs c))
    (ht : s.unitTaken r.core.val r.slot.val c k = true) : s.mx r i legal fmts needs fails f =
      ((fetched s r c).updChain r.core.val r.slot.val (fun _ => { c with st := .mxWait })).joinMxq r.core.val r.slot.val := by
  rw [mx_checked h hl hn, mxAct, if_pos ht]
  rfl

/-- An unowned unit whose state has no place in the save area is not taken (R190). -/
theorem mx_no_slot (h : mxIssues s r c k i) (hl : legal = true) (hn : mxAllowed s r c k fmts (needs c))
    (ht : s.unitTaken r.core.val r.slot.val c k = false) (ho : (s.core r.core.val).unit.owner = none)
    (hf : s.freeSlot k.ctx = none) :
    s.mx r i legal fmts needs fails f = raised s r c { cause := 0x0F, lanes := c.active } := by
  obtain ⟨-, -, -, -, hs⟩ := id h
  rw [mx_checked h hl hn]
  simp only [mxAct, ht, ho, hf, Option.isSome_none, Bool.false_eq_true, if_false]
  exact act_exc hs

/-- The check of the unit fails for the second time (R143, R188). -/
theorem mx_fails (h : mxIssues s r c k i) (hl : legal = true) (hn : mxAllowed s r c k fmts (needs c))
    (hm : mxMine s r c k a) (hf : fails = true) : s.mx r i legal fmts needs fails f =
      (raised s r c { cause := 0x0C, lanes := c.active }).markSuspect r.core.val := by
  obtain ⟨-, -, -, -, hs⟩ := id h
  obtain ⟨ht, ho | ⟨ho, hslot⟩⟩ := hm
  · rw [mx_checked h hl hn]
    simp only [mxAct, ht, ho, hs, hf, Bool.false_eq_true, if_false, if_true, Option.isSome_some]
    rfl
  · rw [mx_checked h hl hn]
    simp only [mxAct, ht, ho, hslot, hs, hf, Bool.false_eq_true, if_false, if_true, Option.isSome_none]
    rfl

/-- The instruction acts on the unit of its context, and the chains that wait for the unit try again (R190, R191). -/
theorem mx_acts (h : mxIssues s r c k i) (hl : legal = true) (hn : mxAllowed s r c k fmts (needs c))
    (hm : mxMine s r c k a) (hf : fails = false) :
    s.mx r i legal fmts needs fails f = (f c (mxTaken s r c k a)).wakeMx r.core.val := by
  obtain ⟨-, -, -, -, hs⟩ := id h
  obtain ⟨ht, ho | ⟨ho, hslot⟩⟩ := hm
  · rw [mx_checked h hl hn]
    simp only [mxAct, ht, ho, hf, hs, Bool.false_eq_true, if_false, if_true, Option.isSome_some, State.act, mxTaken]
    rfl
  · rw [mx_checked h hl hn]
    simp only [mxAct, ht, ho, hslot, hf, hs, Bool.false_eq_true, if_false, if_true, Option.isSome_none, State.act, mxTaken]
    rfl

end

/-! ## What the unit and the local store are once the unit is the context's

Taking the unit leaves the local stores, the accumulators and the groups as they are. -/

section
variable {s : State} {r : ChainRef} {c : Chain} {k : Cmd} {a : Nat}

/-- What an MX instruction reads of a core: the local store and the accumulators. -/
def mxView (k : Core) : Tbl Byte × Tbl Int := (k.ls, k.unit.acc)

theorem mxView_updCore (s : State) (core n : Nat) {f : Core → Core} (hf : ∀ k, mxView (f k) = mxView k) :
    mxView ((s.updCore core f).core n) = mxView (s.core n) := by
  rw [State.core_updCore]
  split
  case isTrue hn => rw [hf, hn]
  case isFalse => rfl

theorem mxView_retire (s : State) (r : ChainRef) (c k : Chain) (n : Nat) :
    mxView ((retire s r c k).core n) = mxView (s.core n) := by
  have hfill : mxView ((fetched s r c).core n) = mxView (s.core n) := by
    unfold fetched State.fillCode
    split
    · rfl
    split
    · rfl
    extract_lets e
    split
    · rfl
    · exact mxView_updCore _ _ _ fun _ => rfl
  have hchain : mxView (((fetched s r c).updChain r.core.val r.slot.val (fun _ => k)).core n) =
      mxView ((fetched s r c).core n) := by
    unfold State.updChain
    split
    · exact mxView_updCore _ _ _ fun _ => rfl
    · rfl
  rw [← hfill, ← hchain]
  unfold retire State.retired
  split <;> rfl

theorem mxView_mxTaken (n : Nat) : mxView ((mxTaken s r c k a).core n) = mxView (s.core n) := by
  unfold mxTaken State.leaveMxq
  refine (mxView_updCore _ _ _ ?_).trans ?_
  · exact fun _ => rfl
  split
  · exact mxView_retire ..
  · refine (mxView_updCore _ _ _ ?_).trans (mxView_retire ..)
    exact fun _ => rfl

theorem mxTaken_ls (n : Nat) : ((mxTaken s r c k a).core n).ls = (s.core n).ls :=
  congrArg Prod.fst (mxView_mxTaken n)

theorem mxTaken_acc (n : Nat) : ((mxTaken s r c k a).core n).unit.acc = (s.core n).unit.acc :=
  congrArg Prod.snd (mxView_mxTaken n)

theorem mxTaken_same : Same (fields [.cmds, .cores]) s (mxTaken s r c k a) := by
  have hr : Same (fields [.cmds, .cores]) s (retire s r c (stepped c)) :=
    Laws.retired_same _ _ rfl (Laws.updChain_same _ _ _ _ rfl (Laws.fillCode_same _ _ _ rfl (Laws.Same.refl _ s)))
  unfold mxTaken
  refine Laws.leaveMxq_same _ _ _ rfl ?_
  split
  · exact hr
  · exact Laws.updCore_same _ _ _ rfl hr

theorem mxTaken_lsBaseOf (core : Nat) : (mxTaken s r c k a).lsBaseOf core c = s.lsBaseOf core c := by
  rw [State.lsBaseOf, State.lsBaseOf, State.group?, State.group?, mxTaken_same.get .groups rfl]

end

/-! ## Operands in the local store (R63, R64, R186) -/

section
variable {s t : State} {core : Nat} (h : (t.core core).ls = (s.core core).ls)
include h

theorem lsNum_of_ls (a n : Nat) : t.lsNum core a n = s.lsNum core a n := by
  have hb : t.lsBytes core a n = s.lsBytes core a n := by
    induction n generalizing a with
    | zero => rfl
    | succ n ih => rw [State.lsBytes, State.lsBytes, h, ih]
  rw [State.lsNum, State.lsNum, hb]

theorem readBlock_of_ls (a sa fmt mode d : Nat) : t.readBlock core a sa fmt mode d = s.readBlock core a sa fmt mode d := by
  simp only [State.readBlock, lsNum_of_ls h]

theorem readRow_of_ls (a sa fmt mode d : Nat) : t.readRow core a sa fmt mode d = s.readRow core a sa fmt mode d := by
  simp only [State.readRow, lsNum_of_ls h]

end

/-! ### Tables built column by column -/

theorem tfind_append {α : Type} (t u : Tbl α) (k : Nat) : tfind (t ++ u) k = (tfind t k).or (tfind u k) := by
  induction t with
  | nil => rfl
  | cons e t ih =>
    rw [List.cons_append, tfind, tfind]
    split
    · rfl
    · exact ih

theorem tfind_map_range {α : Type} (f : Nat → α) (b m j : Nat) :
    tfind ((List.range m).map (fun k => (b + k, f k))) j = if b ≤ j ∧ j < b + m then some (f (j - b)) else none := by
  induction m with
  | zero =>
    rw [if_neg (by omega)]
    rfl
  | succ m ih =>
    rw [List.range_succ, List.map_append, tfind_append, ih, List.map_singleton, tfind, tfind]
    by_cases hj : b + m = j
    · subst hj
      simp
    · have hiff : (b ≤ j ∧ j < b + (m + 1)) ↔ (b ≤ j ∧ j < b + m) := by omega
      simp only [hj, hiff, if_false, Option.or_none]

/-- Columns of m entries each, w keys apart. -/
theorem tfind_columns {α : Type} (f : Nat → Nat → α) {w m n : Nat} (hm : m ≤ w) (hn : n < w) (cols col : Nat) :
    tfind ((List.range cols).flatMap (fun i => (List.range m).map (fun k => (i * w + k, f i k)))) (col * w + n) =
      if col < cols ∧ n < m then some (f col n) else none := by
  induction cols with
  | zero => simp [tfind]
  | succ cols ih =>
    rw [List.range_succ, List.flatMap_append, tfind_append, ih, List.flatMap_singleton, tfind_map_range]
    obtain hlt | rfl | hgt := Nat.lt_trichotomy col cols
    · have hle : (col + 1) * w ≤ cols * w := Nat.mul_le_mul_right w hlt
      rw [Nat.add_mul, Nat.one_mul] at hle
      have hout : ¬ (cols * w ≤ col * w + n ∧ col * w + n < cols * w + m) := by omega
      have hcol : col < cols + 1 := by omega
      simp only [hout, hlt, hcol, if_false, true_and, Option.or_none]
    · have hin : (col * w ≤ col * w + n ∧ col * w + n < col * w + m) ↔ n < m := by omega
      simp only [hin, Nat.lt_irrefl, Nat.lt_succ_self, false_and, true_and, if_false, Option.none_or,
        Nat.add_sub_cancel_left]
    · have hle : (cols + 1) * w ≤ col * w := Nat.mul_le_mul_right w hgt
      rw [Nat.add_mul, Nat.one_mul] at hle
      have hout : ¬ (cols * w ≤ col * w + n ∧ col * w + n < cols * w + m) := by omega
      have hcol : ¬ col < cols := by omega
      have hcol' : ¬ col < cols + 1 := by omega
      simp only [hout, hcol, hcol', if_false, false_and, Option.or_none]

/-! ### Rows, columns and their stone scales -/

section
variable {s : State} {core a sa fmt mode d col n : Nat}

theorem readBlock_code (hc : col < 128) (hn : n < 128 * d) (hd : d ≤ 4) (hf : fmtPlanes fmt = false) :
    tget (s.readBlock core a sa fmt mode d).codes (col * 512 + n) 0 =
      nbits (leNat (s.lsBytes core (a + col * mxRowLen fmt d) (mxRowLen fmt d))) (fmtWidth fmt * n + fmtWidth fmt - 1)
        (fmtWidth fmt * n) := by
  have h512 : 128 * d ≤ 512 := by omega
  rw [tget, State.readBlock, tfind_columns _ h512 (Nat.lt_of_lt_of_le hn h512), if_pos ⟨hc, hn⟩]
  simp only [Option.getD_some, mxCode, hf, Bool.false_eq_true, if_false]
  rfl

theorem readBlock_scale (hc : col < 128) (hn : n < mxScaleLen mode 1) :
    tget (s.readBlock core a sa fmt mode 1).scales (col * 32 + n) 0 =
      (tget (s.core core).ls (sa + col * mxScaleLen mode 1 + n) 0).toNat := by
  have h32 : mxScaleLen mode 1 ≤ 32 := by
    unfold mxScaleLen stoneOf
    split
    · omega
    split <;> omega
  rw [tget, State.readBlock, tfind_columns _ h32 (Nat.lt_of_lt_of_le hn h32), if_pos ⟨hc, hn⟩]
  simp [State.lsNum, State.lsBytes, leNat]

end

/-! ## The accumulators (R186, R188) -/

/-- Add the sum of one column to its accumulator. -/
def addCell (row : Nat) (v : MxUnit) (x : Nat × Int × Nat × Nat) : MxUnit :=
  { v with acc := tset v.acc (row * 128 + x.1) (keep128 (row * 128 + x.1) (tget v.acc (row * 128 + x.1) 0 + x.2.1)),
           cnt := v.cnt.add { undp := x.2.2.1, satp := x.2.2.2 } }

theorem foldl_addCell_eq_with (row : Nat) (xs : List (Nat × Int × Nat × Nat)) (u : MxUnit) :
    xs.foldl (addCell row) u = { u with acc := (xs.foldl (addCell row) u).acc, cnt := (xs.foldl (addCell row) u).cnt } := by
  induction xs generalizing u with
  | nil => rfl
  | cons x xs ih =>
    rw [List.foldl_cons, ih]
    rfl

/-- Column j takes its sum; the accumulators of other rows and columns stay as they are. -/
theorem tget_foldl_addCell (row : Nat) (g : Nat → Int × Nat × Nat) (m : Nat) (u : MxUnit) (key : Nat) :
    tget (((List.range m).map (fun j => (j, g j))).foldl (addCell row) u).acc key 0 =
      if row * 128 ≤ key ∧ key < row * 128 + m then keep128 key (tget u.acc key 0 + (g (key - row * 128)).1)
      else tget u.acc key 0 := by
  induction m with
  | zero =>
    rw [if_neg (by omega)]
    rfl
  | succ m ih =>
    rw [List.range_succ, List.map_append, List.foldl_append, List.map_singleton, List.foldl_cons, List.foldl_nil, addCell,
      Laws.tget_tset]
    by_cases hk : key = row * 128 + m
    · subst hk
      rw [if_pos rfl, ih, if_neg (by omega), if_pos (by omega), Nat.add_sub_cancel_left]
    · have hiff : (row * 128 ≤ key ∧ key < row * 128 + (m + 1)) ↔ (row * 128 ≤ key ∧ key < row * 128 + m) := by omega
      simp only [if_neg hk, ih, hiff]

theorem mapIdx_map_range {α β : Type} (f : Nat → α) (g : Nat → α → β) (n : Nat) :
    ((List.range n).map f).mapIdx g = (List.range n).map (fun i => g i (f i)) :=
  List.ext_getElem (by simp) fun i _ _ => by simp

/-- The 128 columns of B as an mmul reads them. -/
def columnsOf (b : BReg) (d : Nat) : List (List (FV × Bool)) :=
  (List.range 128).map (fun j => (List.range (128 * d)).map (fun e => b.elem j e))

section
variable (u : MxUnit) (col : Nat → List (FV × Bool)) (row : Nat) (a : List (FV × Bool))

theorem addRow_eq_foldl : u.addRow ((List.range 128).map col) row a =
    ((List.range 128).map (fun j => (j, Machine.dotProduct a (col j)))).foldl (addCell row)
      { u with cnt := u.cnt.add { spec := specCount a } } := by
  rw [MxUnit.addRow, mapIdx_map_range]
  rfl

theorem addRow_eq_with (cols : List (List (FV × Bool))) :
    u.addRow cols row a = { u with acc := (u.addRow cols row a).acc, cnt := (u.addRow cols row a).cnt } :=
  foldl_addCell_eq_with row _ _

/-- Each accumulator of the row takes its column's sum. -/
theorem tget_addRow (key : Nat) : tget (u.addRow ((List.range 128).map col) row a).acc key 0 =
    if key / 128 = row then keep128 key (tget u.acc key 0 + (Machine.dotProduct a (col (key % 128))).1)
    else tget u.acc key 0 := by
  have hiff : (row * 128 ≤ key ∧ key < row * 128 + 128) ↔ key / 128 = row := by omega
  rw [addRow_eq_foldl, tget_foldl_addCell]
  simp only [hiff]
  split
  case isTrue hr =>
    have hsub : key - row * 128 = key % 128 := by omega
    rw [hsub]
  case isFalse => rfl

end

/-- The first n rows of A enter the accumulators one by one. -/
def addRows (cols : List (List (FV × Bool))) (row : Nat → List (FV × Bool)) (n : Nat) (u : MxUnit) : MxUnit :=
  ((List.range n).map (fun i => (i, row i))).foldl (fun t x => t.addRow cols x.1 x.2) u

theorem addRows_succ (cols : List (List (FV × Bool))) (row : Nat → List (FV × Bool)) (n : Nat) (u : MxUnit) :
    addRows cols row (n + 1) u = (addRows cols row n u).addRow cols n (row n) := by
  rw [addRows, List.range_succ, List.map_append, List.foldl_append]
  rfl

theorem addRows_eq_with (cols : List (List (FV × Bool))) (row : Nat → List (FV × Bool)) (n : Nat) (u : MxUnit) :
    addRows cols row n u = { u with acc := (addRows cols row n u).acc, cnt := (addRows cols row n u).cnt } := by
  induction n with
  | zero => rfl
  | succ n ih => rw [addRows_succ, addRow_eq_with, ih]

/-- An accumulator of one of the rows takes the sum of its row and column; the others stay as they are. -/
theorem tget_addRows (col row : Nat → List (FV × Bool)) (n : Nat) (u : MxUnit) (key : Nat) :
    tget (addRows ((List.range 128).map col) row n u).acc key 0 =
      if key / 128 < n then keep128 key (tget u.acc key 0 + (Machine.dotProduct (row (key / 128)) (col (key % 128))).1)
      else tget u.acc key 0 := by
  induction n with
  | zero => rfl
  | succ n ih =>
    rw [addRows_succ, tget_addRow, ih]
    by_cases hk : key / 128 = n
    · rw [if_pos hk, if_neg (by omega), if_pos (by omega), hk]
    · have hiff : key / 128 < n + 1 ↔ key / 128 < n := by omega
      simp only [if_neg hk, hiff]

theorem keep128_of_fits (key : Nat) {x : Int} (h : -(2 ^ 127 : Int) ≤ x ∧ x < 2 ^ 127) : keep128 key x = x := if_pos h

theorem dotProduct_sum (a b : List (FV × Bool)) :
    (Machine.dotProduct a b).1 = ((a.zip b).map (fun x => (placeProduct (exactMul x.1.1 x.2.1)).1)).sum := by
  induction a generalizing b with
  | nil => simp [Machine.dotProduct]
  | cons x a ih =>
    cases b with
    | nil => simp [Machine.dotProduct]
    | cons y b => simp [Machine.dotProduct, ih]

/-- The block that was loaded comes first (R186). -/
theorem swap_of_loaded {u : MxUnit} (h : u.loaded = true) : u.swap.b0 = u.b1 ∧ u.swap.b1 = u.b0 := by
  simp [MxUnit.swap, h]

theorem swap_of_not_loaded {u : MxUnit} (h : u.loaded = false) : u.swap = u := by
  simp [MxUnit.swap, h]

@[simp] theorem swap_acc (u : MxUnit) : u.swap.acc = u.acc := by
  unfold MxUnit.swap
  split <;> rfl

@[simp] theorem swap_owner (u : MxUnit) : u.swap.owner = u.owner := by
  unfold MxUnit.swap
  split <;> rfl

theorem mapIdx_pair_eq_range {α : Type} (l : List α) (d : α) :
    l.mapIdx (fun i a => (i, a)) = (List.range l.length).map (fun i => (i, l.getD i d)) :=
  List.ext_getElem (by simp) fun i hi _ => by
    rw [List.length_mapIdx] at hi
    simp [hi]

/-- On the loaded block's own format, an mmul adds its rows. -/
theorem multiply_eq_addRows {u : MxUnit} {fmtB modeB d : Nat} (hf : u.swap.b0.fmt = fmtB) (hm : u.swap.b0.mode = modeB)
    (hd : u.swap.b0.d = d) (rows : List (List (FV × Bool))) : ∃ cnt, u.multiply fmtB modeB d rows =
      addRows (columnsOf u.swap.b0 d) (fun i => rows.getD i []) rows.length { u.swap with cnt := cnt } := by
  exact ⟨_, (if_pos ⟨hf, hm, hd⟩).trans (congrArg (List.foldl _ _) (mapIdx_pair_eq_range rows []))⟩

/-! ## The release of a unit (R190) -/

/-- A chain after the unit that it may wait for has come free. -/
def tryingAgain (c : Chain) : Chain := if c.st = .mxWait then { c with st := .ready } else c

theorem chain?_wakeMx (s : State) (core slot : Nat) :
    (s.wakeMx core).chain? core slot = (s.chain? core slot).map tryingAgain := by
  rw [State.chain?, State.wakeMx, State.core_updCore, if_pos rfl]
  exact tfind_map _ tryingAgain slot

theorem unit_wakeMx (s : State) (core : Nat) : ((s.wakeMx core).core core).unit = (s.core core).unit := by
  rw [State.wakeMx, State.core_updCore, if_pos rfl]

theorem core_of_cores {s t : State} (h : t.cores = s.cores) (n : Nat) : t.core n = s.core n := by
  rw [State.core, State.core, h]

section
variable {s : State} {core : Nat}

theorem installMx_of_none (h : ∀ x ∈ s.groupsOn core, x.savedMx = none) : s.installMx core = s := by
  have hfind : (s.groupsOn core).find? (fun x => x.savedMx.isSome) = none :=
    List.find?_eq_none.mpr fun x hx => by simp [h x hx]
  simp only [State.installMx, hfind]

/-- The first group whose matrix state waits takes the unit for its context. -/
theorem unit_installMx {x : Group} {u : MxUnit} (hx : (s.groupsOn core).find? (fun y => y.savedMx.isSome) = some x)
    (hu : x.savedMx = some u) :
    ((s.installMx core).core core).unit = { u with owner := some x.ctx, slotAt := x.mxSlot.getD 0 } := by
  obtain ⟨t, ht, hcores⟩ : ∃ t, s.installMx core = t ∧ t.cores = (s.updCore core (fun k => { k with
      unit := { x.savedMx.getD {} with owner := some x.ctx, slotAt := x.mxSlot.getD 0 } })).cores := by
    refine ⟨_, rfl, ?_⟩
    simp only [State.installMx, hx]
    split
    · split
      · exact (Laws.writeSlot_same _ _ rfl (Laws.Same.refl (fields [.mem, .exposed, .ext]) _)).get .cores rfl
      · rfl
    · rfl
  rw [ht, core_of_cores hcores, State.core_updCore, if_pos rfl, hu]
  rfl

/-- A released unit holds nothing where no group's matrix state waits for it. -/
theorem releaseUnit_of_none (h : ∀ x ∈ s.groupsOn core, x.savedMx = none) :
    s.releaseUnit core = (s.updCore core (fun k => { k with unit := {} })).wakeMx core := by
  have hi := installMx_of_none (s := s.updCore core (fun k => { k with unit := {} })) h
  rw [State.releaseUnit, hi]

end

/-- Settles O58. An MX instruction is refused by its checks, waits for the unit, or acts on it (`mx_illegal` to `mx_acts`);
what it reads there is as it was before it took the unit, and an mmul adds its rows one by one (`tget_addRows`). -/
theorem matrixUnitUse : Obligations.MatrixUnitUse := by
  unfold Obligations.MatrixUnitUse
  refine ⟨?mld, ?element, ?mmul, ?sums, dotProduct_sum, ?mismatch, ?mrd, ?mclr, ?mrel, ?released, ?taken, ?waits, ?noSlot,
    ?illegal, ?notPermitted⟩
  case mld =>
    intro r i c k a s h hA hB hpA hpB hls hsc hm
    refine congrArg _ ((mx_acts h ((mxPairOk_iff i).mpr ⟨hA, hB⟩) (mxAllowed_of_operand hpA hpB hls hsc) hm rfl).trans ?_)
    simp only [mxTaken_lsBaseOf, readBlock_of_ls (mxTaken_ls _), mxD_eq_pairDepth]
  case element =>
    intro core a sa fmt mode d col n s hc hn hd hf
    refine ⟨readBlock_code hc hn hd hf, fun hsc h1 => ?_⟩
    subst h1
    exact readBlock_scale hc hsc
  case mmul =>
    intro r bad i c k a s h hA hB hpA hpB hls hsc hm hbad
    have hok : (bad == 2) = false := by simpa using hbad
    refine congrArg _ ((mx_acts h ((mxPairOk_iff i).mpr ⟨hA, hB⟩) (mxAllowed_of_operand hpA hpB hls hsc) hm hok).trans ?_)
    simp only [mxTaken_lsBaseOf, readRow_of_ls (mxTaken_ls _), mxD_eq_pairDepth, mxRows]
  case sums =>
    intro u fmtB modeB d rows hf hmo hd hfits
    obtain ⟨cnt, hmul⟩ := multiply_eq_addRows hf hmo hd rows
    refine ⟨swap_of_loaded, swap_of_not_loaded, fun n j hn hj => ?_, fun n hn => ?_, ?_, ?_⟩
    · have hrow : (n * 128 + j) / 128 = n := by omega
      have hcol : (n * 128 + j) % 128 = j := by omega
      rw [hmul, columnsOf, tget_addRows, hrow, hcol, if_pos hn, swap_acc]
      exact keep128_of_fits _ (hfits n j hn hj)
    · rw [hmul, columnsOf, tget_addRows, if_neg (by omega), swap_acc]
    · rw [hmul, addRows_eq_with]
    · rw [hmul, addRows_eq_with, swap_owner]
  case mismatch =>
    intro r i c k a s h hA hB hpA hpB hls hsc hm
    exact congrArg _ (mx_fails h ((mxPairOk_iff i).mpr ⟨hA, hB⟩) (mxAllowed_of_operand hpA hpB hls hsc) hm rfl)
  case mrd =>
    intro r i c k a s h hf hA hB hls hm
    have hl : ((i.fmtA == 0x0E || i.fmtA == 0x0F) && decide (i.modeA.toNat < 5) && decide (i.modeB.toNat < 5)) = true := by
      simpa [hA, hB] using hf
    have hn : mxAllowed s r c k [] [((c.ureg i.uaddr.toNat).toNat, 512 * mxRows i)] :=
      ⟨List.forall_mem_nil _, List.forall_mem_singleton.mpr hls⟩
    refine congrArg _ ((mx_acts h hl hn hm rfl).trans ?_)
    simp only [mxTaken_lsBaseOf, mxTaken_acc, mxRows, List.flatMap_map, List.filter_map, List.length_map]
    rfl
  case mclr =>
    intro r i c k a s h hA hB hm
    exact congrArg _ (mx_acts h (mxModes_of_lt hA hB) mxAllowed_nil hm rfl)
  case mrel =>
    intro r i c k a s h hA hB hm
    exact congrArg _ (mx_acts h (mxModes_of_lt hA hB) mxAllowed_nil hm rfl)
  case released =>
    intro core slot c s hc hnone
    have hkeeps : (s.updCore core (fun k => { k with unit := {} })).chain? core slot = some c := by
      rw [State.chain?, State.core_updCore, if_pos rfl]
      exact hc
    rw [releaseUnit_of_none hnone, unit_wakeMx, chain?_wakeMx, hkeeps, State.core_updCore, if_pos rfl]
    exact ⟨rfl, rfl, Laws.wakeMx_same _ _ rfl (Laws.updCore_same _ _ _ rfl (Laws.Same.refl _ s))⟩
  case taken =>
    intro core x u s hx hu
    rw [State.releaseUnit, unit_wakeMx]
    exact unit_installMx (s := s.updCore core (fun k => { k with unit := {} })) hx hu
  case waits =>
    intro r i c k x s h hx hA hB ht
    obtain rfl | rfl := hx
    · exact congrArg _ (mx_waits h (mxModes_of_lt hA hB) mxAllowed_nil (unitTaken_of_held ht))
    · exact congrArg _ (mx_waits h (mxModes_of_lt hA hB) mxAllowed_nil (unitTaken_of_held ht))
  case noSlot =>
    intro r i c k x s h hx hA hB ht ho hf
    obtain rfl | rfl := hx
    · exact congrArg _ (mx_no_slot h (mxModes_of_lt hA hB) mxAllowed_nil ht ho hf)
    · exact congrArg _ (mx_no_slot h (mxModes_of_lt hA hB) mxAllowed_nil ht ho hf)
  case illegal =>
    intro r i c k x s h hx hl
    have hpair : mxPairOk i = false := Bool.eq_false_iff.mpr fun hp => by
      obtain ⟨hA, hB⟩ := (mxPairOk_iff i).mp hp
      exact hl.elim (absurd hA) (absurd hB)
    obtain rfl | rfl := hx
    · exact congrArg _ (mx_illegal h hpair)
    · exact congrArg _ (mx_illegal h hpair)
  case notPermitted =>
    intro r i c k x s h hx hA hB hp
    have hnot : ¬ ∀ y ∈ [i.fmtA.toNat, i.fmtB.toNat], permits s k y := by
      intro hall
      obtain ⟨hpA, hpB⟩ := List.forall_mem_cons.mp hall
      exact hp.elim (absurd hpA) (absurd (List.forall_mem_singleton.mp hpB))
    obtain rfl | rfl := hx
    · exact congrArg _ (mx_not_permitted h ((mxPairOk_iff i).mpr ⟨hA, hB⟩) hnot)
    · exact congrArg _ (mx_not_permitted h ((mxPairOk_iff i).mpr ⟨hA, hB⟩) hnot)

end Sys2Proof.Proofs
end

section
/-! Proofs about the serving engine: plans and sequences, and the build, the stages and the commit of a step (R248 to R280). -/

namespace Sys2Proof.Proofs

open Sys2Proof.Machine Sys2Proof.Claims

/-! ## Plans and sequence-table entries, read back -/

theorem plan?_putPlan (s : State) (slot : Nat) (p : Plan) : (s.putPlan slot p).plan? slot = some p := by
  simp [State.putPlan, State.plan?]

@[simp] theorem seq_updSeq (s : State) (e n : Nat) (f : Seq → Seq) :
    (s.updSeq e f).seq n = if n = e then f (s.seq e) else s.seq n := by
  simp [State.seq, State.updSeq]

theorem seq_of_seqs {s t : State} (h : t.seqs = s.seqs) (e : Nat) : t.seq e = s.seq e := by
  rw [State.seq, State.seq, h]

@[simp] theorem seq_wmCheck (s : State) (n e : Nat) : (s.wmCheck n).seq e = s.seq e :=
  seq_of_seqs ((Laws.wmCheck_same s n rfl
    (Laws.Same.refl (fields [.mem, .exposed, .ext, .fns, .wms, .ao, .out]) s)).get .seqs rfl) e

/-- The fields that the Gate's write of an SSB may change. -/
def ssbFields : Nat :=
  fields [.mem, .exposed, .ext, .fns, .store, .cmds, .ctxs, .cores, .waiters, .lines, .dirClock, .hides, .ao, .fab, .out]

@[simp] theorem seq_seqSsb (s : State) (cid e n : Nat) : (s.seqSsb cid e).seq n = s.seq n :=
  seq_of_seqs ((Laws.seqSsb_same s cid e rfl (Laws.Same.refl ssbFields s)).get .seqs rfl) n

@[simp] theorem pendOrder_putSsb (s : State) (cid c pa id state hold pos emitted : Nat) (stopped : Bool) :
    (s.putSsb cid c pa id state hold pos emitted stopped).pendOrder = s.pendOrder :=
  (Laws.putSsb_same s cid c pa id state hold pos emitted stopped rfl (Laws.Same.refl ssbFields s)).get .pendOrder rfl

/-! ## PLAN_LOAD (R248 to R251) -/

section
variable {s : State} {cid i : Nat} {c : Cmd} {x : List Piece × Nat × List Stage}

theorem execPlanLoad_of_row (h : onRowIs s cid 0x50 c) : execPlanLoad cid s = .next (s.loadPlan c) := by
  rw [execPlanLoad, h]

theorem planVal_of_loads (hx : planLoads s c = some x) : s.planVal c c.who = .ok x := by
  unfold planLoads at hx
  split at hx
  case h_1 y hy => rw [hy, Option.some.inj hx]
  case h_2 => exact nomatch hx

theorem loadPlan_of_new (hx : planLoads s c = some x) (hs : s.planSlot c.ctx c.planNum = none)
    (hf : (List.range 256).find? (fun j => (s.plan? j).isNone) = some i) :
    s.loadPlan c = ((s.putPlan i (planOf c x.2.1 x.1 x.2.2 none)).complete c.cid 0 none).wmCheck i := by
  simp only [State.loadPlan, planVal_of_loads hx, hs, hf]

/-- A plan of that number is loaded already: it is replaced unless sequences are bound to it. -/
theorem loadPlan_of_loaded (hx : planLoads s c = some x) (hs : s.planSlot c.ctx c.planNum = some i) :
    s.loadPlan c = if s.planBound c.ctx i c.planNum then s.complete c.cid 0x14 (some (badBit 24))
      else ((s.putPlan i (planOf c x.2.1 x.1 x.2.2 (s.plan? i))).complete c.cid 0 none).wmCheck i := by
  simp only [State.loadPlan, planVal_of_loads hx, hs]

end

/-! ## SEQ_OPEN and admission (R256 to R261) -/

section
variable {s : State} {cid slot e : Nat} {c : Cmd} {p : Plan}

theorem execSeqOpen_of_row (h : onRowIs s cid 0x51 c) : execSeqOpen cid s = .next (s.openSeq c) := by
  rw [execSeqOpen, h]

/-- An open that draws its seed needs entropy; any other does not. -/
theorem seedReady_of (hr : c.freshOpen = false ∨ s.pow.entropy = true) : (c.freshOpen && !s.pow.entropy) = false := by
  obtain h | h := hr <;> simp [h]

/-- What an entry holds once an open has filled it. -/
theorem seq_fillSeq (s : State) (c : Cmd) (e slot ssb ring prompt : Nat) :
    ((s.fillSeq c e slot ssb ring prompt).seq e) = { (s.fillSeq c e slot ssb ring prompt).seq e with
      state := 2, tag := ((s.seq e).tag + 1) % 2 ^ 20, plan := slot, ctx := c.ctx, pos := 0, emitted := 0, pages := []
      promptLeft := c.fld 63 32, maxNew := c.fld 95 64, stopToken := c.fld 127 96
      seed := if c.freshOpen then s.drawVal else BitVec.ofNat 64 (c.fld 447 384) } := by
  have hdraw : (if c.freshOpen then s.drawNext else s).seq e = s.seq e := by
    split <;> rfl
  simp only [State.fillSeq, seq_wmCheck, seq_seqSsb, seq_updSeq, if_pos, hdraw]

section
variable (hs : s.planSlot c.ctx c.planNum = some slot) (hp : s.plan? slot = some p) (hd : c.fld 330 328 ≤ p.draftMax)
  (hr : c.freshOpen = false ∨ s.pow.entropy = true)
include hs hp hd hr

theorem openSeq_of_room (hb : s.belowCap (s.ctx c.ctx).hide = true) (hq : (s.hide (s.ctx c.ctx).hide).pendSeqs = [])
    (he : s.freeEntry = some e) :
    s.openSeq c = (s.fillSeq c e slot ((pieceAddr c.pieces 1 0).getD 0) ((pieceAddr c.pieces 2 0).getD 0)
      ((pieceAddr c.pieces 0 0).getD 0)).endWrites c.cid 0 none := by
  simp [State.openSeq, hs, hp, Nat.not_lt.mpr hd, seedReady_of hr, hb, hq, he]

theorem openSeq_of_capped (hb : s.belowCap (s.ctx c.ctx).hide = false)
    (hq : (s.hide (s.ctx c.ctx).hide).pendSeqs.length < 16384) :
    ∃ r : PendSeq, r.cmd = c ∧ r.plan = slot ∧ r.order = s.pendOrder ∧
      s.openSeq c = (({ (s.putSsb c.cid c.ctx ((pieceAddr c.pieces 1 0).getD 0) 0 1 0 0 0 false).updHide (s.ctx c.ctx).hide
        (fun x => { x with pendSeqs := x.pendSeqs ++ [r] }) with pendOrder := s.pendOrder + 1 } : State).endWrites c.cid 2
        none).wmCheck (264 + (s.ctx c.ctx).hide) := by
  refine ⟨{
    cmd := c, plan := slot, order := s.pendOrder, ssb := (pieceAddr c.pieces 1 0).getD 0
    ring := (pieceAddr c.pieces 2 0).getD 0, prompt := (pieceAddr c.pieces 0 0).getD 0 }, rfl, rfl, rfl, ?_⟩
  simp [State.openSeq, hs, hp, Nat.not_lt.mpr hd, seedReady_of hr, hb, Nat.not_le.mpr hq]

end

theorem openSeq_of_no_plan (hs : s.planSlot c.ctx c.planNum = none) :
    s.openSeq c = s.complete c.cid 0x14 (some (badBit 24)) := by
  simp only [State.openSeq, hs]

theorem admitPend_of_next {h : Nat} {r : PendSeq} (hn : s.nextPend = some (h, r)) (he : s.freeEntry = some e)
    (hr : r.cmd.freshOpen = false ∨ s.pow.entropy = true) :
    ∃ u : State, u = (s.updHide h (fun x => { x with pendSeqs := x.pendSeqs.tail })).fillSeq r.cmd e r.plan r.ssb r.ring
        r.prompt ∧
      s.admitPend = if nbit r.cmd.d0.toNat 9 then
        u.postNotice r.cmd.fn 6 r.cmd.ctx (seqId e (u.seq e).tag) r.cmd.ssn r.cmd.q else u := by
  refine ⟨_, rfl, ?_⟩
  simp only [State.admitPend, hn, he, seedReady_of hr, Bool.false_eq_true, if_false]

end

/-! ## SEQ_STEP (R265) -/

section
variable {s : State} {cid slot : Nat} {c : Cmd} {p : Plan}

theorem execSeqStep_of_row (h : onRowIs s cid 0x52 c) : execSeqStep cid s = .next (s.startStep c) := by
  rw [execSeqStep, h]

theorem startStep_of_idle (hs : s.planSlot c.ctx c.planNum = some slot) (hp : s.plan? slot = some p) (hn : p.step = none) :
    s.startStep c = (s.updPlan slot (fun x => { x with step := some (freshStep c.cid) })).updCmd c.cid
      (fun k => { k with phase := .running }) := by
  simp only [State.startStep, hs, hp, hn, Option.isNone_none, if_true]

theorem startStep_of_stepping (hs : s.planSlot c.ctx c.planNum = some slot) (hp : s.plan? slot = some p)
    (hn : p.step ≠ none) :
    s.startStep c = (s.updPlan slot (fun x => { x with queue := x.queue ++ [c.cid] })).updCmd c.cid
      (fun k => { k with phase := .waiting }) := by
  simp [State.startStep, hs, hp, hn]

theorem startStep_of_no_plan (hs : s.planSlot c.ctx c.planNum = none) :
    s.startStep c = s.complete c.cid 0x14 (some (badBit 24)) := by
  simp only [State.startStep, hs]

end

/-! ## SEQ_CLOSE (R263, R280) -/

section
variable {s : State} {cid ssb id : Nat} {c : Cmd}

theorem execSeqClose_of_row (h : onRowIs s cid 0x53 c) : execSeqClose cid s = .next (s.closeCmd c) := by
  rw [execSeqClose, h]

theorem closeCmd_asks (ha : (pieceAddr c.pieces 1 0).getD 0 = ssb) (hl : s.gateHas [] [ssb / 128] = false) :
    s.closeCmd c = s.gateAsk c.cid c.ctx [] [ssb / 128] := by
  simp only [State.closeCmd, ha, hl, Bool.not_false, if_true]

/-- An SSB that is writable and names a live entry of the context: the entry is closed, now or once its step has ended. -/
theorem closeCmd_of_entry (ha : (pieceAddr c.pieces 1 0).getD 0 = ssb) (hl : s.gateHas [] [ssb / 128] = true)
    (hi : s.readNum ssb 4 = id) (hd : (s.readPa (ssb + 4)).toNat % 8 ≠ 1) (hs : (s.seq (id % 4096)).state ≠ 0)
    (hc : (s.seq (id % 4096)).ctx = c.ctx) (ht : (s.seq (id % 4096)).tag = id / 4096) :
    s.closeCmd c = if (s.seq (id % 4096)).inStep then
        if (s.seq (id % 4096)).closing.isSome then s
        else (s.updSeq (id % 4096) (fun q => { q with closing := some c.cid })).updCmd c.cid
          (fun k => { k with phase := .waiting })
      else (s.closeSeq c.cid (id % 4096)).endWrites c.cid 0 none := by
  simp only [State.closeCmd, ha, hl, hi, if_neg hd, if_pos (And.intro hs (And.intro hc ht)), Bool.not_true, Bool.false_eq_true,
    if_false]

end

/-- Settles O27. Each serving command acts on the plan slot or the entry that it names, by the rule of its case. -/
theorem plansAndSequences : Obligations.PlansAndSequences := by
  unfold Obligations.PlansAndSequences
  refine ⟨?new, ?replaced, ?bound, ?opened, ?deferred, ?begins, ?waits, ?noPlan, ?closed, ?closing, ?asks, ?admitted⟩
  case new =>
    intro cid c x i s h hx hs hf
    refine ⟨(execPlanLoad_of_row h).trans (congrArg _ (loadPlan_of_new hx hs hf)), ?_⟩
    rw [plan?_putPlan]
    rfl
  case replaced =>
    intro cid c x i s h hx hs hb
    refine (execPlanLoad_of_row h).trans (congrArg _ ((loadPlan_of_loaded hx hs).trans ?_))
    rw [hb]
    rfl
  case bound =>
    intro cid c x i s h hx hs hb
    exact (execPlanLoad_of_row h).trans (congrArg _ ((loadPlan_of_loaded hx hs).trans (if_pos hb)))
  case opened =>
    intro cid c slot e p s h hs hp hd hr hb hq he
    refine ⟨_, (execSeqOpen_of_row h).trans (congrArg _ (openSeq_of_room hs hp hd hr hb hq he)), ?_⟩
    rw [seq_fillSeq]
    exact ⟨rfl, rfl, rfl, rfl, rfl, rfl, rfl, rfl, rfl, rfl, fun hfresh => if_neg (by simp [hfresh])⟩
  case deferred =>
    intro cid c slot p s h hs hp hd hr hb hq
    obtain ⟨r, hcmd, hplan, horder, hopen⟩ := openSeq_of_capped hs hp hd hr hb hq
    exact ⟨r, hcmd, hplan, horder, (execSeqOpen_of_row h).trans (congrArg _ hopen)⟩
  case begins =>
    intro cid c slot p s h hs hp hn
    exact (execSeqStep_of_row h).trans (congrArg _ (startStep_of_idle hs hp hn))
  case waits =>
    intro cid c slot p s h hs hp hn
    exact (execSeqStep_of_row h).trans (congrArg _ (startStep_of_stepping hs hp hn))
  case noPlan =>
    intro cid c s hs
    exact ⟨fun h => (execSeqOpen_of_row h).trans (congrArg _ (openSeq_of_no_plan hs)),
      fun h => (execSeqStep_of_row h).trans (congrArg _ (startStep_of_no_plan hs))⟩
  case closed =>
    intro cid c ssb id s h ha hl hi hd hs hc ht hn
    refine (execSeqClose_of_row h).trans (congrArg _ ((closeCmd_of_entry ha hl hi hd hs hc ht).trans ?_))
    rw [hn]
    rfl
  case closing =>
    intro cid c ssb id s h ha hl hi hd hs hc ht hn hw
    refine (execSeqClose_of_row h).trans (congrArg _ ((closeCmd_of_entry ha hl hi hd hs hc ht).trans ?_))
    rw [hn, hw]
    rfl
  case asks =>
    intro cid c ssb s h ha hl
    exact (execSeqClose_of_row h).trans (congrArg _ (closeCmd_asks ha hl))
  case admitted =>
    intro h e r s hn he hr
    obtain ⟨u, hu, hadmit⟩ := admitPend_of_next hn he hr
    exact ⟨u, hu, congrArg _ hadmit⟩

/-! ## The build of a step (R266, R271) -/

section
variable {s : State} {slot : Nat} {p : Plan} {st : Step}

theorem stepBuild_of_open (hp : s.plan? slot = some p) (hst : p.step = some st) (hb : st.built = false)
    (ho : s.stepOpen p = true) (hf : p.stale = false) : s.stepBuild slot = s.buildStep slot p st := by
  simp [State.stepBuild, hp, hst, hb, ho, hf]

theorem buildStep_asks (hl : s.gateHas (s.buildReads slot p) (s.buildOwns slot p) = false) :
    s.buildStep slot p st = s.gateAsk st.cid p.ctx (s.buildReads slot p) (s.buildOwns slot p) := by
  simp only [State.buildStep, hl, Bool.not_false, if_true]

theorem buildStep_of_no_entries (hl : s.gateHas (s.buildReads slot p) (s.buildOwns slot p) = true)
    (he : s.buildOrder slot = []) : s.buildStep slot p st = s.endStepCmd slot st.cid 0 none := by
  simp only [State.buildStep, hl, he, List.foldl_nil, Bool.not_true, Bool.false_eq_true, if_false, if_true]

/-- No row is left: a prefilling entry only waits longer. -/
theorem buildOne_of_full {cid : Nat} {b : State × Build} {e : Nat} (hq : (b.1.seq e).promptLeft ≠ 0)
    (hr : p.maxRows ≤ b.2.rows) : State.buildOne cid slot p b e =
      (b.1.updSeq e (fun q => { q with waited := min (q.waited + 1) 0xFFFF }),
        { b.2 with undo := b.2.undo ++ [(e, b.1.seq e, b.1.readBytes (b.1.seq e).ssbPa 64)] }) := by
  have hnone : min (b.1.seq e).promptLeft (min p.chunk (p.maxRows - b.2.rows)) = 0 := by omega
  simp [State.buildOne, hq, hnone]

end

/-! ## Stages (R271, R272, R278, R279) -/

section
variable {s : State} {slot : Nat} {p : Plan} {st : Step} {g : Stage}

theorem issueStage_of_next {k c : Cmd} (hp : s.plan? slot = some p) (hst : p.step = some st)
    (hg : p.stages[st.next]? = some g) (hk : s.cmd? st.cid = some k) (hb : st.built = true) (hn : st.stageCid = none)
    (ho : s.stepOpen p = true) (hi : c = stageInstance k slot st g s.nextCid s.btime.toNat)
    (he : s.stageEnters c = true) (hc : k.cls ≠ 0) :
    s.issueStage slot = (({ s with cmds := s.cmds ++ [c], nextCid := s.nextCid + 1 } : State).updPlan slot
      (fun x => { x with step := some { st with stageCid := some s.nextCid } })).enterQueue c := by
  have hcls : c.cls ≠ 0 := hi ▸ hc
  have hcid : c.cid = s.nextCid := hi ▸ rfl
  simp [State.issueStage, hp, hst, hg, hk, hb, hn, ho, ← hi, he, hcls, hcid]

theorem stageAhead_of_room (hp : s.plan? slot = some p) (hst : p.step = some st)
    (hg : p.stages[st.stagedUpTo]? = some g)
    (hh : (((p.stages.take (st.stagedUpTo + 1)).drop st.next).map (fun g => s.stageBytes st g)).sum
      ≤ s.kodRun (0x3000 + (s.ctx p.ctx).hide) 0x0B * 2 ^ 21)
    (hr : s.kodRun (0x3000 + (s.ctx p.ctx).hide) 0x0B * 2 ^ 21 ≠ 0) (hk : st.built = true ∨ g.kvLen = 0) :
    s.stageAhead slot = s.updPlan slot (fun x => { x with step := some { st with stagedUpTo := st.stagedUpTo + 1 } }) := by
  simp only [State.stageAhead, hp, hst, hg, if_pos (And.intro hh (And.intro hr hk))]

end

/-! ## The commit (R265, R274) -/

section
variable {s : State} {slot : Nat} {p : Plan} {st : Step}
variable (hp : s.plan? slot = some p) (hst : p.step = some st) (hb : st.built = true) (hn : st.stageCid = none)
  (hlast : p.stages.length ≤ st.next) (ho : s.stepOpen p = true)
include hp hst hb hn hlast ho

theorem commitStep_asks (hl : s.gateHas (commitReads p st) (s.commitOwns st) = false) :
    s.commitStep slot = s.gateAsk st.cid p.ctx (commitReads p st) (s.commitOwns st) := by
  simp [State.commitStep, hp, hst, hb, hn, Nat.not_lt.mpr hlast, ho, hl]

/-- A step whose lines the Gate has commits as a whole, and its SEQ_STEP ends or goes on. -/
theorem commitStep_of_lines {u : State} {c : Cmd} (hl : s.gateHas (commitReads p st) (s.commitOwns st) = true)
    (hu : u = ((st.sel.foldl (fun t x => t.commitOne st.cid slot p x) s).updCmd st.cid
      (fun c => { c with stepsDone := c.stepsDone + 1 })).wmCheck slot) (hc : u.cmd? st.cid = some c) :
    s.commitStep slot = if c.fld 63 32 ≠ 0 ∧ c.fld 63 32 ≤ c.stepsDone then u.endStepCmd slot st.cid 0 none
      else u.updPlan slot (fun x => { x with step := some (freshStep st.cid) }) := by
  have hdue : (!st.built || st.stageCid.isSome || decide (st.next < p.stages.length) || !s.stepOpen p) = false := by
    simp [hb, hn, Nat.not_lt.mpr hlast, ho]
  simp only [State.commitStep, hp, hst, hdue, hl, ← hu, hc, Bool.not_true, Bool.false_eq_true, if_false]

end

/-- Settles O28. Each command of a step finds its plan and the step there, and what it does is the rule of that point of
the step. -/
theorem stepsOfAPlan : Obligations.StepsOfAPlan := by
  unfold Obligations.StepsOfAPlan
  refine ⟨?build, ?empty, ?buildAsks, ?full, ?issue, ?staging, ?last, ?earlier, ?commitAsks⟩
  case build =>
    intro i p st s hp hst hb ho hf
    exact congrArg _ (stepBuild_of_open hp hst hb ho hf)
  case empty =>
    intro i p st s hp hst hb ho hf he hl
    exact congrArg _ ((stepBuild_of_open hp hst hb ho hf).trans (buildStep_of_no_entries hl he))
  case buildAsks =>
    intro i p st s hp hst hb ho hf hl
    exact congrArg _ ((stepBuild_of_open hp hst hb ho hf).trans (buildStep_asks hl))
  case full =>
    intro cid i p b e hq hr
    rw [buildOne_of_full hq hr]
    exact ⟨rfl, rfl, rfl⟩
  case issue =>
    intro i p st g k s hp hst hg hk hb hn ho he hc
    exact congrArg _ (issueStage_of_next hp hst hg hk hb hn ho rfl he hc)
  case staging =>
    intro i p st g s hp hst hg hh hr hk
    exact congrArg _ (stageAhead_of_room hp hst hg hh hr hk)
  case last =>
    intro i p st c u s hp hst hb hn hlast ho hl hu hc hsteps
    exact congrArg _ ((commitStep_of_lines hp hst hb hn hlast ho hl hu hc).trans (if_pos hsteps))
  case earlier =>
    intro i p st c u s hp hst hb hn hlast ho hl hu hc hsteps
    have hmore : ¬ (c.fld 63 32 ≠ 0 ∧ c.fld 63 32 ≤ c.stepsDone) := by omega
    exact congrArg _ ((commitStep_of_lines hp hst hb hn hlast ho hl hu hc).trans (if_neg hmore))
  case commitAsks =>
    intro i p st s hp hst hb hn hlast ho hl
    exact congrArg _ (commitStep_asks hp hst hb hn hlast ho hl)

end Sys2Proof.Proofs
end

section
/-! Proofs about the invalidation handshake: the requests that no context's mappings meet, and the acknowledgement of a
handshake that affects no command (R366, R367). -/

namespace Sys2Proof.Proofs

open Sys2Proof.Machine Sys2Proof.Claims

/-! ## What the completion of a command leaves alone (R44) -/

/-- The fields that change with a command's records and with its place in its hide's queues. -/
def recordFields : Nat := fields [.mem, .exposed, .ext, .fns, .hides, .ao, .out]

section
variable {s : State} {cid st : Nat} {err : Option ErrInfo}

/-- Apart from records and its place in the queues, a command that completes is counted in its context and dropped. -/
theorem complete_counts_and_drops {c : Cmd} (hc : s.cmd? cid = some c) :
    ∃ (t : State) (va : Nat), Same recordFields s t ∧
      Same recordFields ((t.countCompletion c.ctx st va).dropCmd cid) (s.complete cid st err) := by
  rw [State.complete, hc]
  refine ⟨_, _, ?_, Laws.stopRecord_same _ _ _ rfl (Laws.payCq_same _ _ _ rfl (Laws.unqueue_same _ _ _ rfl
    (Laws.Same.refl recordFields _)))⟩
  have hrec : Same recordFields s (match err with
      | some e => s.postErr c.fn c.ctx c.ssn c.q st e.typ e.body
      | none => s) := by
    cases err with
    | none => exact Laws.Same.refl _ s
    | some e => exact Laws.postErr_same _ _ _ _ _ _ _ _ rfl (Laws.Same.refl _ s)
  split
  · exact hrec
  · exact Laws.oweCq_same _ _ _ _ _ rfl (Laws.decided_same _ _ rfl hrec)

theorem complete_of_unknown (hc : s.cmd? cid = none) : s.complete cid st err = s := by
  rw [State.complete, hc]

theorem mem_cmds_of_mem_complete {m : Cmd} (hm : m ∈ (s.complete cid st err).cmds) : m ∈ s.cmds := by
  cases hc : s.cmd? cid with
  | none => rwa [complete_of_unknown hc] at hm
  | some c =>
    obtain ⟨t, va, hst, htc⟩ := complete_counts_and_drops (st := st) (err := err) hc
    have hcount : (t.countCompletion c.ctx st va).cmds = t.cmds :=
      (Laws.countCompletion_same t c.ctx st va rfl (Laws.Same.refl (fields [.ctxs]) t)).get .cmds rfl
    have hcmds : t.cmds = s.cmds := hst.get .cmds rfl
    have hdrop : (s.complete cid st err).cmds = ((t.countCompletion c.ctx st va).dropCmd cid).cmds := htc.get .cmds rfl
    rw [hdrop, State.dropCmd, hcount, hcmds] at hm
    exact (List.mem_filter.1 hm).1

theorem shakes_countCompletion (s : State) (c st va n : Nat) :
    ((s.countCompletion c st va).ctx n).shakes = (s.ctx n).shakes := by
  unfold State.countCompletion
  split
  · rfl
  · rw [State.ctx_updCtx]
    split
    case isTrue h => rw [h]
    case isFalse => rfl

theorem ctx_of_ctxs {s t : State} (h : t.ctxs = s.ctxs) (n : Nat) : t.ctx n = s.ctx n := by
  rw [State.ctx, State.ctx, h]

@[simp] theorem shakes_complete (n : Nat) : ((s.complete cid st err).ctx n).shakes = (s.ctx n).shakes := by
  cases hc : s.cmd? cid with
  | none => rw [complete_of_unknown hc]
  | some c =>
    obtain ⟨t, va, hst, htc⟩ := complete_counts_and_drops (st := st) (err := err) hc
    rw [ctx_of_ctxs (htc.get .ctxs rfl), State.dropCmd_ctx_at, shakes_countCompletion, ctx_of_ctxs (hst.get .ctxs rfl)]

end

/-! ## The steps of a handshake (R367) -/

section
variable {s : State} {c : Nat} {k : Shake}

theorem updCtx_congr {f g : Ctx → Ctx} (h : f (s.ctx c) = g (s.ctx c)) : s.updCtx c f = s.updCtx c g := by
  simp only [State.ctx] at h
  simp only [State.updCtx, tupd, h]

theorem runShakes_of_none (h : (s.ctx c).shakes = []) (n : Nat) : s.runShakes c n = s := by
  cases n with
  | zero => rfl
  | succ n => simp only [State.runShakes, h]

theorem backPages_of_done (h : k.backed ∨ k.io.isSome) : s.backPages c k = s := if_pos h

/-- A handshake under way, with quiet engines, pages written back and no command to resume, ends. -/
theorem runShakes_of_quiet (h : (s.ctx c).shakes = [k]) (hb : k.begun = true) (hd : k.backed ∨ k.io.isSome)
    (hq : s.shakeQuiet c (s.shakeRanges c k) = true) (hn : s.shakeCmds c (s.shakeRanges c k) = []) (n : Nat) :
    s.runShakes c (n + 1) = ((s.endShake c k).freeWaiters c).runShakes c n := by
  simp [State.runShakes, h, hb, hq, hn, backPages_of_done hd, State.askRetranslate]

theorem freeWaiters_of_none (h : ∀ m ∈ s.cmds, m.phase ≠ .waitShake) : s.freeWaiters c = s := by
  have hw : (s.ctxCmds c).filter (fun m => m.phase == .waitShake) = [] :=
    List.filter_eq_nil_iff.2 (fun m hm => by simpa using h m (List.mem_filter.1 hm).1)
  rw [State.freeWaiters, hw, List.foldl_nil]

/-- The last handshake of a context leaves it none. -/
theorem updCtx_tail_of_last (h : (s.ctx c).shakes = [k]) :
    s.updCtx c (fun x => { x with shakes := x.shakes.tail }) = s.updCtx c (fun x => { x with shakes := [] }) :=
  updCtx_congr (by rw [h, List.tail_cons])

theorem endShake_of_cmd {cid : Nat} (h : (s.ctx c).shakes = [k]) (hc : k.cid = some cid) :
    s.endShake c k = (s.updCtx c (fun x => { x with shakes := [] })).complete cid 0 none := by
  simp only [State.endShake, hc, updCtx_tail_of_last h]

/-- The Invalidate Completion waits for the request's handshakes in other contexts. -/
theorem endShake_of_request {io : Nat × Nat} (h : (s.ctx c).shakes = [k]) (hc : k.cid = none) (hio : k.io = some io)
    (ho : (s.updCtx c (fun x => { x with shakes := [] })).atsOpen k.fn io = false) :
    s.endShake c k = (s.updCtx c (fun x => { x with shakes := [] })).emit (.invalidateCompletion k.fn) := by
  simp [State.endShake, hc, hio, updCtx_tail_of_last h, ho]

end

/-! ## The commands (R366, R367) -/

/-- The handshake that an ATS invalidate request asks of a context. -/
def requestShake (fn : Fin 513) (io : W64) (len : Nat) : Shake :=
  { cid := none, fn := fn.val, va := 0, len := 0, unmap := false, io := some (io.toNat, len) }

theorem execAtsInvalidateRequest_of_unmapped {s : State} {fn : Fin 513} {io : W64} {len : Nat}
    (h : ∀ c ∈ s.fnCtxs fn.val, s.shakeRanges c (requestShake fn io len) = []) :
    execAtsInvalidateRequest fn io len s =
      .next ((s.dropAts fn.val io.toNat len).emit (.invalidateCompletion fn.val)) := by
  have hcs : (s.fnCtxs fn.val).filter (fun c => !(s.shakeRanges c (requestShake fn io len)).isEmpty) = [] :=
    List.filter_eq_nil_iff.2 (fun c hc => by simp [h c hc])
  rw [requestShake] at hcs
  simp only [execAtsInvalidateRequest, hcs, List.isEmpty_nil, if_true]

section
variable {s : State} {ctx : Fin 16384} {k : Shake}

theorem execInvalidationAck_of_none (h : (s.ctx ctx.val).shakes = []) : execInvalidationAck ctx s = .next s :=
  congrArg _ (runShakes_of_none h _)

/-- The acknowledgement ends the context's one handshake where that leaves no handshake and no command to go on. -/
theorem execInvalidationAck_of_last (h : (s.ctx ctx.val).shakes = [k]) (hb : k.begun = true)
    (hd : k.backed ∨ k.io.isSome) (hq : s.shakeQuiet ctx.val (s.shakeRanges ctx.val k) = true)
    (hn : s.shakeCmds ctx.val (s.shakeRanges ctx.val k) = [])
    (hs : ((s.endShake ctx.val k).ctx ctx.val).shakes = [])
    (hw : ∀ m ∈ (s.endShake ctx.val k).cmds, m.phase ≠ .waitShake) :
    execInvalidationAck ctx s = .next (s.endShake ctx.val k) := by
  rw [execInvalidationAck, runShakes_of_quiet h hb hd hq hn, freeWaiters_of_none hw, runShakes_of_none hs]

end

/-- Settles O23. A request without mappings has no handshake to begin (`execAtsInvalidateRequest_of_unmapped`); one without
commands ends with its acknowledgement (`execInvalidationAck_of_last`), since neither the answer nor the completion adds a
handshake or a command that waits for one. -/
theorem invalidationHandshake : Obligations.InvalidationHandshake := by
  unfold Obligations.InvalidationHandshake
  refine ⟨?unmapped, ?request, ?command, ?none⟩
  case unmapped =>
    intro fn io len s hf
    exact execAtsInvalidateRequest_of_unmapped (by simp [hf])
  case request =>
    intro ctx k io s hk hb hc hio hq hn hcmds ho
    have he := endShake_of_request hk hc hio ho
    rw [← he]
    exact execInvalidationAck_of_last hk hb (.inr (by simp [hio])) hq hn (by simp [he]) (by simp [he, hcmds])
  case command =>
    intro ctx k cid s hk hb hc hbk hq hn hw
    have he := endShake_of_cmd hk hc
    refine ⟨_, execInvalidationAck_of_last hk hb (.inl hbk) hq hn (by simp [he]) ?waits, he⟩
    case waits =>
      intro m hm
      rw [he] at hm
      have hm' := mem_cmds_of_mem_complete hm
      rw [State.updCtx_cmds] at hm'
      simpa using List.all_eq_true.1 hw m hm'
  case none =>
    intro ctx s hk
    exact execInvalidationAck_of_none hk

end Sys2Proof.Proofs
end

section
/-! Proofs about the channels of a streaming mover: what a burst, the end of a descriptor and an abort leave of a channel,
and the writes of its registers (R412 to R417, R421 to R426, R429). -/

namespace Sys2Proof.Proofs

open Sys2Proof.Machine

/-! ## Operations on other fields leave the movers alone -/

/-- Every field of the state but one. -/
def allBut (f : Field) : Nat := 2 ^ 40 - 1 - 2 ^ f.idx

theorem chan_of_same {s t : State} (h : Same (allBut .movers) s t) (m c : Nat) : t.chan m c = s.chan m c := by
  rw [State.chan, State.chan, State.mover, State.mover, h.get .movers rfl]

@[simp] theorem chan_post (s : State) (id : Nat) (a : Asker) (na : Bool) (cells : List (Nat × Byte)) (m c : Nat) :
    (s.post id a na cells).chan m c = s.chan m c :=
  chan_of_same (Laws.post_same s id a na cells rfl (Laws.Same.refl _ s)) m c

@[simp] theorem chan_postSignal (s : State) (id : Nat) (a : Asker) (pa n m c : Nat) :
    (s.postSignal id a pa n).chan m c = s.chan m c :=
  chan_of_same (Laws.postSignal_same s id a pa n rfl (Laws.Same.refl _ s)) m c

@[simp] theorem chan_chanWrite (s : State) (n p a : Nat) (bs : List Byte) (m c : Nat) :
    (s.chanWrite n p a bs).chan m c = s.chan m c :=
  chan_of_same (Laws.chanWrite_same s n p a bs rfl (Laws.Same.refl _ s)) m c

@[simp] theorem chan_paceCount (s : State) (n p src dst m c : Nat) : (s.paceCount n p src dst).chan m c = s.chan m c :=
  chan_of_same (Laws.paceCount_same s n p src dst rfl (Laws.Same.refl _ s)) m c

@[simp] theorem chan_writeSome (s : State) (n p : Nat) (na : Bool) (cells : List (Nat × Byte)) (m c : Nat) :
    (s.writeSome n p na cells).chan m c = s.chan m c :=
  chan_of_same (Laws.writeSome_same s n p na cells rfl (Laws.Same.refl _ s)) m c

@[simp] theorem chan_latch (s : State) (n m c : Nat) : (s.latch n).chan m c = s.chan m c :=
  chan_of_same (Laws.latch_same s n rfl (Laws.Same.refl _ s)) m c

@[simp] theorem chan_freshNext (s : State) (m c : Nat) : s.freshNext.chan m c = s.chan m c := rfl

@[simp] theorem chan_retime (s : State) (m c : Nat) : s.retime.chan m c = s.chan m c := rfl

section
variable {s : State} {m c : Nat} {d : MDesc}

/-! ## A burst, and the end of a descriptor (R417, R421, R423) -/

/-- The oldest burst is counted, its elements are done, and a HELD channel goes on. -/
theorem chan_writeBurst {e : Nat} {r : List Nat} (hd : (s.chan m c).cur = some d) (hi : (s.chan m c).issued = e :: r) :
    (s.writeBurst m c).chan m c = { s.chan m c with
      done := e, issued := r, bursts := (s.chan m c).bursts + 1
      satc := (s.chan m c).satc + s.countSat (s.chan m c) d (s.chan m c).done (e - (s.chan m c).done)
      heldBytes := 0, stallPosted := false
      st := if (s.chan m c).st = .held then .running else (s.chan m c).st } := by
  simp only [State.writeBurst, hd, hi]
  split <;> split <;> simp [hd]

theorem writeBurst_of_none_issued (hi : (s.chan m c).issued = []) : s.writeBurst m c = s := by
  simp [State.writeBurst, hi]

/-- The channel has no descriptor any more; one of its ring gives its slot back. -/
theorem chan_endDesc (hd : (s.chan m c).cur = some d) (st residue : Nat) :
    ∃ src dst : Nat, (s.endDesc m c st residue).chan m c = { s.chan m c with
      head := if d.gate then (s.chan m c).head else (s.chan m c).head + 1
      cur := none, done := 0, issued := [], satc := 0, heldBytes := 0, stallPosted := false
      srcBit := src, dstBit := dst } := by
  refine ⟨((s.endDesc m c st residue).chan m c).srcBit, ((s.endDesc m c st residue).chan m c).dstBit, ?_⟩
  simp only [State.endDesc, hd]
  cases d.gate <;> split <;> simp

/-! ## Taking a descriptor (R417, R418) -/

/-- The channel is enabled as before, on its ring; RING_HEAD has gone on by one descriptor at most. -/
structure KeepsRing (a b : Chan) : Prop where
  /-- enabled or not as before -/
  enable : b.enable = a.enable
  /-- CFG_ERR as before -/
  cfgErr : b.cfgErr = a.cfgErr
  /-- the ring as before -/
  ringBase : b.ringBase = a.ringBase
  /-- one descriptor at most has ended -/
  head : b.head = a.head ∨ b.head = a.head + 1

theorem takeDesc_keepsRing (hc : (s.chan m c).cid = none) (d : MDesc) :
    KeepsRing (s.chan m c) ((s.takeDesc m c d).chan m c) := by
  cases hok : d.ok with
  | true => constructor <;> simp [State.takeDesc, hok]
  | false =>
    simp only [State.takeDesc, hok, State.failChan, hc, Bool.false_eq_true, if_false, State.updChan_updChan]
    generalize ht : s.updChan m c _ = t
    have hd : (t.chan m c).cur = some d := by simp [← ht]
    obtain ⟨src, dst, hend⟩ := chan_endDesc hd 4 d.count
    rw [hend]
    constructor <;> cases d.gate <;> simp [← ht]

/-- A channel that may fetch, on a mover that runs, takes first what the Gate has queued. -/
theorem fetchDesc_of_gate {r : List MDesc} (hf : (s.chan m c).mayFetch = true) (hh : (s.mover m).halted = false)
    (hg : (s.chan m c).gate = d :: r) :
    s.fetchDesc m c = (s.updChan m c (fun x => { x with gate := r })).takeDesc m c d := by
  simp only [State.fetchDesc, hf, hh, hg, Bool.not_true, Bool.or_self, Bool.false_eq_true, if_false]

/-- With nothing queued an enabled channel reads its ring, and waits where the descriptor there is not its own. -/
theorem fetchDesc_of_ring (hf : (s.chan m c).mayFetch = true) (hh : (s.mover m).halted = false)
    (hg : (s.chan m c).gate = []) (he : (s.chan m c).enable = true) :
    s.fetchDesc m c = if (mdescOf (s.readNum (chanDescAddr (s.chan m c)) 32)).own
      then s.takeDesc m c (mdescOf (s.readNum (chanDescAddr (s.chan m c)) 32))
      else s.updChan m c (fun x => { x with st := .waiting }) := by
  simp only [State.fetchDesc, hf, hh, hg, he, Bool.not_true, Bool.or_self, Bool.false_eq_true, if_false]

theorem fetchDesc_of_barred (hf : (s.chan m c).mayFetch = false) : s.fetchDesc m c = s := by
  simp [State.fetchDesc, hf]

theorem mayFetch_of_cur (hd : (s.chan m c).cur = some d) : (s.chan m c).mayFetch = false := by
  simp [Chan.mayFetch, hd]

theorem fetchDesc_keepsRing (hc : (s.chan m c).cid = none) (hh : (s.mover m).halted = false)
    (he : (s.chan m c).enable = true) : KeepsRing (s.chan m c) ((s.fetchDesc m c).chan m c) := by
  cases hf : (s.chan m c).mayFetch with
  | false =>
    rw [fetchDesc_of_barred hf]
    exact ⟨rfl, rfl, rfl, .inl rfl⟩
  | true =>
    cases hg : (s.chan m c).gate with
    | cons d r =>
      rw [fetchDesc_of_gate hf hh hg]
      have hk := takeDesc_keepsRing (s := s.updChan m c (fun x => { x with gate := r })) (m := m) (c := c)
        (by simp [hc]) d
      simp only [State.chan_updChan] at hk
      exact ⟨hk.enable, hk.cfgErr, hk.ringBase, hk.head⟩
    | nil =>
      rw [fetchDesc_of_ring hf hh hg he]
      split
      case isTrue => exact takeDesc_keepsRing hc _
      case isFalse => constructor <;> simp

/-! ## CH_CTRL (R414, R415, R425, R426) -/

/-- The fields that a write of CH_CTRL sets with ENABLE = 1, whether or not the channel is then enabled. -/
def ctrlSet (ctrl : W64) (ch : Chan) : Chan :=
  { ch with drain := ctrl.getLsbD 3, ringLog2 := (ctrl.extractLsb' 4 4).toNat
            pulseTo := (ctrl.extractLsb' 8 2).toNat, stop := ctrl.getLsbD 2 }

/-- The channel as a write of CH_CTRL with ENABLE = 1 starts it anew. -/
def opened (ctrl : W64) (ch : Chan) : Chan :=
  { ctrlSet ctrl ch with
    enable := true, cfgErr := false, head := 0, st := .waiting, cur := none, done := 0, issued := [], satc := 0
    srcBit := 0, dstBit := 0, paced := false }

theorem enableChan_of_enabled {ctrl : W64} (he : (s.chan m c).enable = true) : s.enableChan m c ctrl = s := by
  simp [State.enableChan, he]

theorem cfgOk_of_no_ring {ch : Chan} (h : ch.ringBase = 0) : ch.cfgOk = false := by simp [Chan.cfgOk, h]

/-- A disabled channel without a command starts anew on a good configuration and a running mover, else it has CFG_ERR. -/
theorem enableChan_of_disabled {ctrl : W64} (he : (s.chan m c).enable = false) (hc : (s.chan m c).cid = none) :
    s.enableChan m c ctrl = if (ctrlSet ctrl (s.chan m c)).cfgOk && !(s.mover m).halted then
        (s.updChan m c (opened ctrl)).fetchDesc m c
      else s.updChan m c (fun x => { ctrlSet ctrl x with cfgErr := true }) := by
  simp only [State.enableChan, he, hc, Option.isSome_none, Bool.or_self, Bool.false_eq_true, if_false,
    State.chan_updChan, and_self, if_true, State.updChan_updChan]
  rfl

/-- The first fetch of a channel that starts anew leaves it enabled on its ring. -/
theorem fetchDesc_of_opened (hc : (s.chan m c).cid = none) (hh : (s.mover m).halted = false) (ctrl : W64) :
    KeepsRing (opened ctrl (s.chan m c)) (((s.updChan m c (opened ctrl)).fetchDesc m c).chan m c) := by
  have ho : (s.updChan m c (opened ctrl)).chan m c = opened ctrl (s.chan m c) := by simp
  rw [← ho]
  exact fetchDesc_keepsRing (by rw [ho]; exact hc) (by simp [State.updChan, hh]) (by rw [ho]; rfl)

/-! ### An abort (R426) -/

theorem abortChan_of_idle (hd : (s.chan m c).cur = none) :
    s.abortChan m c = s.updChan m c (fun x => { x with gate := [] }) := by
  simp [State.abortChan, hd]

/-- A burst leaves the channel its descriptor, and bound and enabled as it was. -/
theorem writeBurst_binding (hd : (s.chan m c).cur = some d) :
    ((s.writeBurst m c).chan m c).cur = some d ∧ ((s.writeBurst m c).chan m c).enable = (s.chan m c).enable ∧
    ((s.writeBurst m c).chan m c).cid = (s.chan m c).cid := by
  cases hi : (s.chan m c).issued with
  | nil => simp [writeBurst_of_none_issued hi, hd]
  | cons e r => simp [chan_writeBurst hd hi, hd]

/-- The channel has no descriptor and no burst outstanding, and is enabled and bound as before. -/
structure Released (a b : Chan) : Prop where
  /-- no descriptor in transfer -/
  cur : b.cur = none
  /-- no burst outstanding -/
  issued : b.issued = []
  /-- enabled or not as before -/
  enable : b.enable = a.enable
  /-- bound as before -/
  cid : b.cid = a.cid

theorem endDesc_releases {a : Chan} (hd : (s.chan m c).cur = some d) (he : (s.chan m c).enable = a.enable)
    (hc : (s.chan m c).cid = a.cid) (st residue : Nat) : Released a ((s.endDesc m c st residue).chan m c) := by
  obtain ⟨src, dst, hend⟩ := chan_endDesc hd st residue
  rw [hend]
  exact ⟨rfl, rfl, he, hc⟩

/-- In either tracking mode an abort ends the descriptor in transfer. -/
theorem abortChan_releases (hd : (s.chan m c).cur = some d) : Released (s.chan m c) ((s.abortChan m c).chan m c) := by
  obtain ⟨hcur, hen, hcid⟩ := writeBurst_binding hd
  simp only [State.abortChan, hd]
  split
  case isTrue =>
    rw [chan_latch]
    split
    case isTrue => exact endDesc_releases (d := d) (by simp [hd]) (by simp) (by simp) _ _
    case isFalse => exact endDesc_releases (d := d) (by simp [hcur]) (by simp [hen]) (by simp [hcid]) _ _
  case isFalse => exact endDesc_releases (d := d) (by simp [hd]) (by simp) (by simp) _ _

theorem abortWrite_of_unplaced (hc : (s.chan m c).cid = none) : s.abortWrite m c =
    (s.abortChan m c).updChan m c (fun x => { x with st := if x.enable then .waiting else x.st }) := by
  simp only [State.abortWrite, hc]

theorem abortWrite_of_idle (hc : (s.chan m c).cid = none) (hd : (s.chan m c).cur = none) : s.abortWrite m c =
    s.updChan m c (fun x => { x with gate := [], st := if x.enable then .waiting else x.st }) := by
  rw [abortWrite_of_unplaced hc, abortChan_of_idle hd, State.updChan_updChan]

theorem abortWrite_releases (hc : (s.chan m c).cid = none) (hd : (s.chan m c).cur = some d) :
    Released (s.chan m c) ((s.abortWrite m c).chan m c) := by
  have h := abortChan_releases hd
  rw [abortWrite_of_unplaced hc, State.chan_updChan, if_pos ⟨rfl, rfl⟩]
  exact ⟨h.cur, h.issued, h.enable, h.cid⟩

end

/-! ## The statement -/

/-- Settles O25. An enable starts the channel anew (`enableChan_of_disabled`), and its first fetch keeps the ring
(`fetchDesc_keepsRing`); an abort, alone or as part of a disable, releases the channel (`abortWrite_releases`). -/
theorem moverChannels : Obligations.MoverChannels := by
  unfold Obligations.MoverChannels
  refine ⟨?enable, ?invalid, ?enabled, ?disableIdle, ?disable, ?abortIdle, ?abort, ?stop, ?stopLater, ?goOn, ?restart,
    ?restartBusy⟩
  case enable =>
    intro m c ctrl s he hc hh hk
    have hgood : ((ctrlSet ctrl (s.chan m c)).cfgOk && !(s.mover m).halted) = true := by
      rw [hh, Bool.not_false, Bool.and_true]
      exact hk
    have h := fetchDesc_of_opened hc hh ctrl
    refine ⟨_, rfl, ?_⟩
    rw [enableChan_of_disabled he hc, hgood, if_pos rfl]
    refine ⟨h.enable, h.cfgErr, ?_, h.ringBase⟩
    obtain hhead | hhead := h.head <;> simp [hhead, opened]
  case invalid =>
    intro m c ctrl s he hc hr
    have hbad : ((ctrlSet ctrl (s.chan m c)).cfgOk && !(s.mover m).halted) = false := by
      obtain hr | hh := hr
      · rw [cfgOk_of_no_ring (show (ctrlSet ctrl (s.chan m c)).ringBase = 0 from hr), Bool.false_and]
      · rw [hh, Bool.not_true, Bool.and_false]
    refine congrArg Host.Outcome.next ((enableChan_of_disabled he hc).trans ?_)
    rw [hbad]
    rfl
  case enabled =>
    intro m c ctrl s he
    exact congrArg Host.Outcome.next (enableChan_of_enabled he)
  case disableIdle =>
    intro m c s hc hd
    refine congrArg Host.Outcome.next ?_
    rw [State.disableChan, abortWrite_of_idle hc hd, State.updChan_updChan]
    apply State.updChan_congr
    simp [hc]
  case disable =>
    intro m c d s hc hd
    have h := abortWrite_releases hc hd
    refine ⟨_, rfl, ?_⟩
    simp [State.disableChan, h.cur, h.issued, h.cid, hc]
  case abortIdle =>
    intro m c s hc hd he
    refine congrArg Host.Outcome.next ((abortWrite_of_idle hc hd).trans ?_)
    apply State.updChan_congr
    simp [he]
  case abort =>
    intro m c d s hc he hd
    have h := abortWrite_releases hc hd
    refine ⟨_, rfl, h.enable.trans he, ?_, h.cur⟩
    rw [abortWrite_of_unplaced hc, State.chan_updChan, if_pos ⟨rfl, rfl⟩]
    exact if_pos ((abortChan_releases hd).enable.trans he)
  case stop =>
    intro m c s hi hst
    refine congrArg Host.Outcome.next ?_
    apply State.updChan_congr
    simp [hi, hst]
  case stopLater =>
    intro m c e r s hi
    refine congrArg Host.Outcome.next ?_
    apply State.updChan_congr
    simp [hi]
  case goOn =>
    intro m c d s hst hd
    refine congrArg Host.Outcome.next ?_
    apply State.updChan_congr
    simp [hst, hd]
  case restart =>
    intro m s h
    exact congrArg Host.Outcome.next (by simp only [State.restartMover, h, Bool.false_eq_true, if_false])
  case restartBusy =>
    intro m s h
    exact congrArg Host.Outcome.next (if_pos h)

end Sys2Proof.Proofs
end

section
/-! Proofs about the transfers of a streaming mover: runs, bursts, held channels and errors (R409, R417, R420 to R428). -/

namespace Sys2Proof.Proofs

open Sys2Proof.Machine

/-! ## Memory across operations on other fields -/

@[simp] theorem readPa_updChan (s : State) (m c : Nat) (f : Chan → Chan) (a : Nat) :
    (s.updChan m c f).readPa a = s.readPa a := rfl

@[simp] theorem readPa_retime (s : State) (a : Nat) : s.retime.readPa a = s.readPa a := rfl

section
variable {s : State} {m c : Nat} {d : MDesc}

/-! ## Bursts (R420, R421) -/

section
variable {e : Nat} {r : List Nat} (hd : (s.chan m c).cur = some d) (hi : (s.chan m c).issued = e :: r)
include hd hi

/-- A burst whose lines are not readable yet asks for them. -/
theorem burstDone_asks (hb : s.burstReady m c = false) : s.burstDone m c =
    s.askReads { id := moverId m c } (s.chanAsker m c) (s.burstLines (s.chan m c) d (s.chan m c).done e) := by
  simp only [State.burstDone, hd, hi, hb, Bool.not_false, if_true, State.askBurst, State.nextLines]

variable (hc : (s.chan m c).cid = none) (hw : (s.chan m c).watch = 0)
include hc hw

/-- A channel that serves no command and paces by no queue writes its burst's bytes and nothing beside them. -/
theorem readPa_writeBurst (hs : d.sig = false) (a : Nat) : (s.writeBurst m c).readPa a =
    (s.post (moverId m c) (s.chanAsker m c) d.na (s.burstCells (s.chan m c) d (s.chan m c).done e)).readPa a := by
  simp [State.writeBurst, hd, hi, hc, hs, State.paceCount, hw]

/-- A burst that is not the descriptor's last leaves the descriptor in transfer. -/
theorem burstDone_of_more (hb : s.burstReady m c = true) (hs : (s.chan m c).stop = false) (he : e ≠ d.count) :
    s.burstDone m c = (s.writeBurst m c).retime := by
  have hch := chan_writeBurst hd hi
  simp [State.burstDone, hd, hi, hb, hc, hch, he, hs, hw]

end

theorem burstDone_of_acre {cid : Nat} (hd : (s.chan m c).cur = none) (hc : (s.chan m c).cid = some cid)
    (ha : s.acreChan m c = true) : s.burstDone m c = ((s.acreBurst m c).progress cid).retime := by
  simp only [State.burstDone, hd, hc, ha, if_true]

/-! ## Held channels (R427) -/

/-- A channel that becomes HELD notes the time and how many bytes are missing. -/
theorem creditChan_of_unfed (ha : s.acreFedOn m c = false) (hs : (s.chan m c).st ≠ .held) :
    s.creditChan m c = (s.updChan m c (fun x => { x with
      st := .held, heldFrom := s.btime.toNat, creditAt := s.btime.toNat
      heldBytes := 1 + (s.freshVal 14).toNat % max 1 (s.chan m c).burstBytes })).freshNext := by
  simp [State.creditChan, ha, State.holdChan, hs]

/-! ## Errors (R428) -/

/-- Without a command to fail, only the descriptor ends. -/
theorem chanPerm_of_unbound (hd : (s.chan m c).cur = some d) (hc : (s.chan m c).cid = none) (va : Nat) (far : Bool) :
    s.chanPerm m c va far =
      (s.updChan m c (fun x => { x with gate := [], st := .waiting })).endDesc m c 5 (d.count - (s.chan m c).done) := by
  simp only [State.chanPerm, hd, State.failChan, hc]

end

/-! ## The statement -/

/-- Settles O26. Each command of a mover does what the rule of its case says of the channel: a fetch (`fetchDesc_of_gate`,
`fetchDesc_of_ring`), a burst (`burstDone_of_more`, `burstDone_asks`, `burstDone_of_acre`), credits (`creditChan_of_unfed`)
and a permission error (`chanPerm_of_unbound`). -/
theorem moverTransfers : Obligations.MoverTransfers := by
  unfold Obligations.MoverTransfers
  refine ⟨?gate, ?ring, ?busy, ?run, ?burst, ?asks, ?acre, ?credits, ?silence, ?stall, ?halt, ?halted, ?perm⟩
  case gate =>
    intro m c d r s hf hh hg
    have h := fetchDesc_of_gate hf hh hg
    exact ⟨congrArg Host.Outcome.next h, congrArg Host.Outcome.next h⟩
  case ring =>
    intro m c s hf hh hg he ho
    have h := (fetchDesc_of_ring hf hh hg he).trans (if_pos ho)
    exact ⟨congrArg Host.Outcome.next h, congrArg Host.Outcome.next h⟩
  case busy =>
    intro m c d s hd
    have h := fetchDesc_of_barred (mayFetch_of_cur hd)
    exact ⟨congrArg Host.Outcome.next h, congrArg Host.Outcome.next h⟩
  case run =>
    intro m c s hh hp hw
    change execMoverRunStart m s = _
    simp only [execMoverRunStart, hh, hp, State.levelRead, hw, Bool.false_eq_true, if_false]
  case burst =>
    intro m c d e r s hd hi hc hw hs he hsig hb
    refine ⟨_, congrArg Host.Outcome.next (burstDone_of_more hd hi hc hw hb hs he), ?_⟩
    rw [chan_retime, chan_writeBurst hd hi]
    exact ⟨rfl, rfl, rfl, readPa_writeBurst hd hi hc hw hsig⟩
  case asks =>
    intro m c d e r s hd hi hb
    exact congrArg Host.Outcome.next (burstDone_asks hd hi hb)
  case acre =>
    intro m c cid s hd hc ha
    exact congrArg Host.Outcome.next (burstDone_of_acre hd hc ha)
  case credits =>
    intro m c p s ha hone hs
    change execFlowControlCreditReturn (.host p) s = _
    simp only [execFlowControlCreditReturn, hone, List.foldl_cons, List.foldl_nil, creditChan_of_unfed ha hs]
  case silence =>
    intro m c s hs ht
    exact congrArg Host.Outcome.next (if_pos (by simp [hs, ht]))
  case stall =>
    intro m c s hs hp ht
    exact congrArg Host.Outcome.next (if_pos (by simp [hs, hp, ht]))
  case halt =>
    intro m c addr s hh hb
    exact congrArg Host.Outcome.next (if_pos (by simp [hh, hb]))
  case halted =>
    intro m c addr s hh
    exact congrArg Host.Outcome.next (if_neg (by simp [hh]))
  case perm =>
    intro m c d e r s hd hi hc
    change execMoverPermissionError m c s = _
    simp [execMoverPermissionError, hd, hi, chanPerm_of_unbound hd hc]

end Sys2Proof.Proofs
end

section
/-! Proofs about the Event Gatherer: latching and moderation, withdrawal, acknowledge and end of interrupt (R432, R433,
R437 to R440, R442, R450). -/

namespace Sys2Proof.Proofs

open Sys2Proof.Machine Sys2Proof.Claims

section
variable {s : State} {n g : Nat}

/-! ## Sources and groups after a change of one (R440)

A change that does not depend on ENABLE, LEVEL and the other fields that the last group has fixed reads back as it was
written. -/

theorem src_updSrc {f : Src → Src}
    (hf : ∀ x, f { x with enable := true, level := 0 } = { f x with enable := true, level := 0 })
    (m : Nat) : (s.updSrc n f).src m = if m = n then f (s.src n) else s.src m := by
  simp only [State.src, State.updSrc, Laws.tget_tupd]
  by_cases h : m = n
  · subst h
    simp only [if_true]
    split
    case isTrue => exact (hf _).symm
    case isFalse => rfl
  · simp only [h, if_false]

theorem grp_updGrp {f : Grp → Grp}
    (hf : ∀ x, f { x with tgtEn := 0xF, coalCnt := 0, coalTime := 0, hold := false } =
      { f x with tgtEn := 0xF, coalCnt := 0, coalTime := 0, hold := false })
    (k : Nat) : (s.updGrp g f).grp k = if k = g then f (s.grp g) else s.grp k := by
  simp only [State.grp, State.updGrp, Laws.tget_tupd]
  by_cases h : k = g
  · subst h
    simp only [if_true]
    split
    case isTrue => exact (hf _).symm
    case isFalse => rfl
  · simp only [h, if_false]

@[simp] theorem src_updGrp (f : Grp → Grp) (m : Nat) : (s.updGrp g f).src m = s.src m := rfl

@[simp] theorem grp_updSrc (f : Src → Src) (k : Nat) : (s.updSrc n f).grp k = s.grp k := rfl

@[simp] theorem mode_updGrp (f : Grp → Grp) : (s.updGrp g f).eg.mode = s.eg.mode := rfl

/-! ## Presentation of one source (R437) -/

/-- A source that waits at a target. -/
def presentedAt (t : Nat) (x : Src) : Src := { x with presented := true, target := t }

/-- The Event Gatherer with a source presented at a target, as the group's last assignment. -/
def presentedState (s : State) (n t : Nat) : State :=
  (s.updSrc n (presentedAt t)).updGrp (n / 16) (fun x => { x with rrLast := t })

theorem src_presentedAt (t m : Nat) :
    (s.updSrc n (presentedAt t)).src m = if m = n then presentedAt t (s.src n) else s.src m :=
  src_updSrc (fun _ => rfl) m

/-- Presenting a source leaves the Event Gatherer, or assigns the source to a target. -/
theorem eg_presentSrc (s : State) (n : Nat) :
    (s.presentSrc n).eg = s.eg ∨ (∃ t, (s.presentSrc n).eg = (s.updSrc n (presentedAt t)).eg) ∨
    (∃ t, (s.presentSrc n).eg = (presentedState s n t).eg) := by
  unfold State.presentSrc
  extract_lets r g
  split
  · exact .inl rfl
  split
  · exact .inl rfl
  split
  · exact .inr (.inl ⟨_, rfl⟩)
  split
  · exact .inl rfl
  · exact .inr (.inr ⟨_, rfl⟩)

theorem src_of_eg {t : State} (h : t.eg = s.eg) (m : Nat) : t.src m = s.src m := by rw [State.src, State.src, h]

theorem grp_of_eg {t : State} (h : t.eg = s.eg) (k : Nat) : t.grp k = s.grp k := by rw [State.grp, State.grp, h]

/-- A presentation leaves a source as it is, or makes it wait at a target. -/
theorem src_presentSrc (s : State) (n m : Nat) :
    (s.presentSrc n).src m = s.src m ∨ ∃ t, (s.presentSrc n).src m = presentedAt t (s.src m) := by
  obtain h | ⟨t, h⟩ | ⟨t, h⟩ := eg_presentSrc s n
  · exact .inl (src_of_eg h m)
  all_goals
    have hm : (s.presentSrc n).src m = (s.updSrc n (presentedAt t)).src m := src_of_eg h m
    rw [hm, src_presentedAt]
    split
    case isTrue hm =>
      rw [hm]
      exact .inr ⟨t, rfl⟩
    case isFalse => exact .inl rfl

@[simp] theorem tgtEn_presentSrc (s : State) (n k : Nat) : ((s.presentSrc n).grp k).tgtEn = (s.grp k).tgtEn := by
  obtain h | ⟨t, h⟩ | ⟨t, h⟩ := eg_presentSrc s n
  · rw [grp_of_eg h]
  · rw [grp_of_eg h, grp_updSrc]
  · rw [grp_of_eg h, presentedState, grp_updGrp (fun _ => rfl), grp_updSrc, grp_updSrc]
    split
    case isTrue hk => rw [hk]
    case isFalse => rfl

@[simp] theorem mode_presentSrc (s : State) (n : Nat) : (s.presentSrc n).eg.mode = s.eg.mode := by
  obtain h | ⟨t, h⟩ | ⟨t, h⟩ := eg_presentSrc s n <;> rw [h] <;> rfl

/-- A group with an enabled target assigns one. -/
theorem nextTarget_isSome {en : BitVec 4} (h : en ≠ 0) (last : Nat) : ∃ t, nextTarget en last = some t := by
  rw [← Option.isSome_iff_exists, ← Option.ne_none_iff_isSome]
  intro hn
  have hbits : ∀ i ∈ [1, 2, 3, 4], en.getLsbD ((last + i) % 4) = false := by
    simpa [nextTarget, -BitVec.getLsbD_eq_getElem] using hn
  refine h (BitVec.eq_of_getLsbD_eq fun k hk => ?_)
  obtain ⟨i, hi, rfl⟩ : ∃ i ∈ [1, 2, 3, 4], k = (last + i) % 4 := by
    simp only [List.mem_cons, List.not_mem_nil, or_false, exists_eq_or_imp, exists_eq_left]
    omega
  rw [hbits i hi]
  simp

/-- A source that a presentation of its group makes wait at a target. -/
structure Presentable (s : State) (n : Nat) : Prop where
  /-- it has fired -/
  pending : (s.src n).pending = true
  /-- it is enabled -/
  enable : (s.src n).enable = true
  /-- its group has an enabled target -/
  targets : (s.grp (n / 16)).tgtEn ≠ 0

theorem Presentable.presentSrc (h : Presentable s n) (m : Nat) : Presentable (s.presentSrc m) n := by
  obtain hm | ⟨t, hm⟩ := src_presentSrc s m n
  all_goals
    have ht : ((s.presentSrc m).grp (n / 16)).tgtEn ≠ 0 := by rw [tgtEn_presentSrc]; exact h.targets
    exact ⟨by rw [hm]; exact h.pending, by rw [hm]; exact h.enable, ht⟩

theorem presented_presentSrc (h : (s.src n).presented = true) (m : Nat) :
    ((s.presentSrc m).src n).presented = true := by
  obtain hm | ⟨t, hm⟩ := src_presentSrc s m n
  · rw [hm, h]
  · rw [hm]
    rfl

theorem Presentable.presented (h : Presentable s n) : ((s.presentSrc n).src n).presented = true := by
  obtain ⟨t, ht⟩ := nextTarget_isSome h.targets (s.grp (n / 16)).rrLast
  have hat : ∀ t, ((s.updSrc n (presentedAt t)).src n).presented = true := fun t => by
    rw [src_presentedAt, if_pos rfl]
    rfl
  unfold State.presentSrc
  extract_lets r g
  rw [show (!r.pending || !r.enable) = false by simp [r, h.pending, h.enable], if_neg Bool.false_ne_true, ht]
  split
  case isTrue hp => exact (Bool.and_eq_true_iff.1 hp).1
  case isFalse =>
    split
    case isTrue => exact hat _
    case isFalse => exact hat t

/-! ## Presentation of a group (R437, R442) -/

/-- Presenting a list of sources makes each that can be presented wait at its target. -/
theorem presented_foldl_presentSrc {l : List Nat} (b : Nat) (h : Presentable s n) (hn : ∃ i ∈ l, n = b + i) :
    Presentable (l.foldl (fun a i => a.presentSrc (b + i)) s) n ∧
    ((l.foldl (fun a i => a.presentSrc (b + i)) s).src n).presented = true := by
  obtain ⟨i, hi, rfl⟩ := hn
  obtain ⟨before, after, rfl⟩ := List.append_of_mem hi
  have hbefore : Presentable (before.foldl (fun a i => a.presentSrc (b + i)) s) (b + i) :=
    List.foldlRecOn (motive := fun a => Presentable a (b + i)) before _ h fun _ ha j _ => ha.presentSrc (b + j)
  rw [List.foldl_append, List.foldl_cons]
  exact List.foldlRecOn (motive := fun a => Presentable a (b + i) ∧ (a.src (b + i)).presented = true) after _
    ⟨hbefore.presentSrc _, hbefore.presented⟩ fun _ ha j _ => ⟨ha.1.presentSrc _, presented_presentSrc ha.2 _⟩

theorem Presentable.presentGrp (h : Presentable s n) :
    ((s.presentGrp (n / 16)).src n).pending = true ∧ ((s.presentGrp (n / 16)).src n).presented = true ∧
    ((s.presentGrp (n / 16)).grp (n / 16)).latches = 0 := by
  obtain ⟨hp, hq⟩ := presented_foldl_presentSrc (l := List.range 16) (16 * (n / 16)) h
    ⟨n % 16, List.mem_range.2 (Nat.mod_lt n (by decide)), by omega⟩
  rw [State.presentGrp, src_updGrp, grp_updGrp (fun _ => rfl), if_pos rfl]
  exact ⟨hp.pending, hq, rfl⟩

@[simp] theorem mode_presentGrp (s : State) (g : Nat) : (s.presentGrp g).eg.mode = s.eg.mode := by
  rw [State.presentGrp, mode_updGrp]
  exact List.foldlRecOn (motive := fun a : State => a.eg.mode = s.eg.mode) (List.range 16) _ rfl
    fun a ha i _ => (mode_presentSrc a (16 * g + i)).trans ha

/-! ## Latching (R432, R442) -/

theorem latch_of_pending (h : (s.src n).pending = true) : s.latch n = s := if_pos h

/-- The state in which a source has fired and its group has counted it, before the group's moderation. -/
def fired (s : State) (n : Nat) : State :=
  (s.updSrc n (fun x => { x with pending := true, presented := false })).updGrp (n / 16)
    (fun g => { g with latches := g.latches + 1, first := if g.latches = 0 then s.btime.toNat else g.first })

theorem latch_of_idle (h : (s.src n).pending = false) : s.latch n = (fired s n).moderate (n / 16) :=
  if_neg (by rw [h]; exact Bool.false_ne_true)

theorem src_fired : (fired s n).src n = { s.src n with pending := true, presented := false } := by
  rw [fired, src_updGrp, src_updSrc (fun _ => rfl), if_pos rfl]

theorem grp_fired (k : Nat) : (fired s n).grp k = if k = n / 16 then
    { s.grp (n / 16) with
      latches := (s.grp (n / 16)).latches + 1
      first := if (s.grp (n / 16)).latches = 0 then s.btime.toNat else (s.grp (n / 16)).first }
    else s.grp k := by
  rw [fired, grp_updGrp (fun _ => rfl), grp_updSrc, grp_updSrc]

theorem inHoldOff_fired : (fired s n).inHoldOff (n / 16) = s.inHoldOff (n / 16) := by
  rw [State.inHoldOff, State.inHoldOff, grp_fired, if_pos rfl]
  rfl

theorem inCoalescing_fired : (fired s n).inCoalescing (n / 16) = s.inCoalescing (n / 16) := by
  rw [State.inCoalescing, State.inCoalescing, inHoldOff_fired, grp_fired, if_pos rfl]

/-- A group in neither hold-off nor coalescing presents at once. -/
theorem moderate_of_neither (hh : s.inHoldOff g = false) (hc : s.inCoalescing g = false) :
    s.moderate g = s.presentGrp g := by
  simp only [State.moderate, hh, hc, Bool.false_eq_true, if_false]

theorem presentable_fired (he : (s.src n).enable = true) (ht : (s.grp (n / 16)).tgtEn ≠ 0) :
    Presentable (fired s n) n :=
  ⟨by rw [src_fired], by rw [src_fired]; exact he, by rw [grp_fired, if_pos rfl]; exact ht⟩

/-! ## Withdrawal and SRC_SETP (R433, R450) -/

/-- A source without its pending firing. -/
def withdrawn (x : Src) : Src := { x with pending := false, presented := false }

theorem src_foldl_withdrawn (l : List Nat) (s : State) (m : Nat) :
    (l.foldl (fun t n => t.updSrc n withdrawn) s).src m = if m ∈ l then withdrawn (s.src m) else s.src m := by
  induction l generalizing s with
  | nil => rfl
  | cons n l ih =>
    rw [List.foldl_cons, ih, src_updSrc (fun _ => rfl)]
    by_cases hn : m = n
    · subst hn
      simp [withdrawn]
    · simp [hn]

theorem mem_wordSources {w i : Nat} {bits : W64} (hi : i < 64) :
    64 * w + i ∈ wordSources w bits ↔ bits.getLsbD i = true := by
  simp [wordSources, hi]

theorem src_withdraw (w : Nat) (bits : W64) {i : Nat} (hi : i < 64) : (s.withdraw w bits).src (64 * w + i) =
    if bits.getLsbD i = true then withdrawn (s.src (64 * w + i)) else s.src (64 * w + i) := by
  rw [show s.withdraw w bits = (wordSources w bits).foldl (fun t n => t.updSrc n withdrawn) s from rfl,
    src_foldl_withdrawn]
  simp only [mem_wordSources hi]

theorem wordSources_zero (w : Nat) : wordSources w 0 = [] := by simp [wordSources]

/-! ## The source that an acknowledge takes (R438) -/

/-- The lower of the best source so far and another: the one of the lower level, the earlier one within a level. -/
def lowerOf (s : State) (b : Option Nat) (n : Nat) : Option Nat :=
  match b with
  | none => some n
  | some m => if (s.src n).level < (s.src m).level then some n else some m

/-- The level of the first source is lower, or it is the same and the source has no higher number. -/
def Precedes (s : State) (n m : Nat) : Prop :=
  (s.src n).level < (s.src m).level ∨ (s.src n).level = (s.src m).level ∧ n ≤ m

/-- The best of a rising list of sources is one of them and precedes each. -/
theorem precedes_of_foldl_lower {l : List Nat} {b : Nat} (hl : (b :: l).Pairwise (· < ·))
    (hn : l.foldl (lowerOf s) (some b) = some n) : n ∈ b :: l ∧ ∀ m ∈ b :: l, Precedes s n m := by
  induction l generalizing b with
  | nil =>
    obtain rfl : b = n := Option.some.inj hn
    simp [Precedes]
  | cons a l ih =>
    rw [List.foldl_cons, lowerOf] at hn
    simp only [List.pairwise_cons, List.mem_cons, forall_eq_or_imp] at hl
    obtain ⟨⟨hba, hbl⟩, hal, hl⟩ := hl
    split at hn
    case isTrue hlt =>
      obtain ⟨hmem, hbest⟩ := ih (List.pairwise_cons.2 ⟨hal, hl⟩) hn
      refine ⟨List.mem_cons_of_mem _ hmem, List.forall_mem_cons.2 ⟨?_, hbest⟩⟩
      have ha := hbest a List.mem_cons_self
      unfold Precedes at ha ⊢
      omega
    case isFalse hge =>
      obtain ⟨hmem, hbest⟩ := ih (List.pairwise_cons.2 ⟨hbl, hl⟩) hn
      obtain ⟨hb, hrest⟩ := List.forall_mem_cons.1 hbest
      refine ⟨?_, List.forall_mem_cons.2 ⟨hb, List.forall_mem_cons.2 ⟨?_, hrest⟩⟩⟩
      · obtain rfl | h := List.mem_cons.1 hmem
        · exact List.mem_cons_self
        · exact List.mem_cons_of_mem _ (List.mem_cons_of_mem _ h)
      · unfold Precedes at hb ⊢
        omega

theorem keys_pairwise_of_twf {α : Type} {t : Tbl α} (h : twf t = true) :
    (t.map (fun e => e.1)).Pairwise (· < ·) := by
  induction t with
  | nil => exact List.Pairwise.nil
  | cons e t ih =>
    refine List.pairwise_cons.2 ⟨?_, ih (Laws.twf_tail h)⟩
    simp only [List.mem_map, forall_exists_index, and_imp]
    rintro k x hx rfl
    exact Laws.twf_lt h x.1 x.2 hx

/-- The sources that a target may take, in ascending order of the table. -/
def eligibleSources (s : State) (t : Nat) : List Nat := (s.eg.srcs.map (fun e => e.1)).filter (s.eligible t)

theorem bestSource_eq (t : Nat) : s.bestSource t = (eligibleSources s t).foldl (lowerOf s) none := rfl

theorem precedes_of_bestSource {t : Nat} (hw : twf s.eg.srcs = true) (hb : s.bestSource t = some n) :
    n ∈ eligibleSources s t ∧ ∀ m ∈ eligibleSources s t, Precedes s n m := by
  have hsorted : (eligibleSources s t).Pairwise (· < ·) := (keys_pairwise_of_twf hw).filter _
  rw [bestSource_eq] at hb
  cases hl : eligibleSources s t with
  | nil =>
    rw [hl] at hb
    exact nomatch hb
  | cons b l =>
    rw [hl] at hb hsorted
    exact precedes_of_foldl_lower hsorted hb

/-! ## Acknowledge and end of interrupt (R438, R439) -/

theorem ack_of_best {t : Nat} (h : s.bestSource t = some n) : s.ack t =
    ((s.updSrc n (fun x => { x with pending := false, presented := false, insvc := true })).updTgt t (fun x => { x with
      stack := (n, (s.src n).level) :: x.stack })).emit (.tgtAck t (BitVec.ofNat 32 (n + (s.src n).level * 2 ^ 16))) := by
  simp only [State.ack, h]

theorem ack_of_none {t : Nat} (h : s.bestSource t = none) : s.ack t = s.emit (.tgtAck t 0x80000000) := by
  simp only [State.ack, h]

theorem eoi_of_top {t l : Nat} {rest : List (Nat × Nat)} (h : (s.tgt t).stack = (n, l) :: rest) : s.eoi t n =
    (s.updTgt t (fun x => { x with stack := rest })).updSrc n (fun x => { x with insvc := false }) := by
  simp only [State.eoi, h, if_true]

theorem eoi_of_mismatch {t : Nat} (h : ∀ e ∈ (s.tgt t).stack.head?, e.1 ≠ n) : s.eoi t n = s.eoiMismatch t n := by
  unfold State.eoi
  split
  case h_1 hs =>
    rw [hs] at h
    exact if_neg (h _ rfl)
  case h_2 => rfl

end

/-! ## What the domain's power and the host view take (R37, R292, R335, R450, R454) -/

section
variable {s : State}

theorem ctlUp_of_running (h : s.running = true) : s.ctlUp = true := (Bool.and_eq_true_iff.1 h).1

theorem hostCtl_of_running (h : s.running = true) (hr : (s.fn 0).resetting = false) : s.hostCtl = true := by
  simp [State.hostCtl, h, hr]

theorem hostCtl_of_resetting (hr : (s.fn 0).resetting = true) : s.hostCtl = false := by simp [State.hostCtl, hr]

theorem hostCtl_of_down (h : s.running = false) : s.hostCtl = false := by simp [State.hostCtl, h]

theorem hostRefused_of_running (h : s.running = true) : s.hostRefused = s := if_pos h

theorem hostRefused_of_down (h : s.running = false) : s.hostRefused = s.emit (.hostError 0) := by
  simp [State.hostRefused, h]

theorem execSrcSetpWrite_of_control (w : Fin 16) (bits : W64) (hc : s.ctlUp = true) :
    execSrcSetpWrite false w bits s = .next (s.setPending w.val bits) := by
  simp [execSrcSetpWrite, hc]

theorem execSrcSetpWrite_of_host (w : Fin 16) (bits : W64) (hh : s.hostCtl = true) (hc : s.ctlUp = true) :
    execSrcSetpWrite true w bits s = .next (s.setPending w.val (hostSetpMask w.val bits)) := by
  simp [execSrcSetpWrite, hh, hc]

theorem execSrcSetpWrite_of_refused (w : Fin 16) (bits : W64) (hh : s.hostCtl = false) :
    execSrcSetpWrite true w bits s = .next s.hostRefused := by
  simp [execSrcSetpWrite, hh]

end

theorem hostSetpMask_of_other {w : Fin 16} (h : w ≠ 15) (bits : W64) : hostSetpMask w.val bits = 0 :=
  if_neg (fun hw => h (Fin.ext hw))

/-- Settles O34. A group that does not moderate presents a latched source at once (`Presentable.presentGrp`); a
withdrawal changes the sources of its bits alone (`src_withdraw`); an acknowledge takes the source that precedes every
eligible one (`precedes_of_bestSource`). -/
theorem eventGatherer : Obligations.EventGatherer := by
  unfold Obligations.EventGatherer
  refine ⟨?edge, fun n s => latch_of_pending, ?presents, ?setp, ?setpRefused, ?withdraw, ?holdOff, ?coalesce, ?early,
    ?ack, ?best, ?ackNone, ?eoi, ?mismatch⟩
  case edge =>
    intro n s hc
    exact congrArg Host.Outcome.next (if_pos hc)
  case presents =>
    intro n s hp he ht hh hc _
    rw [latch_of_idle hp, moderate_of_neither (inHoldOff_fired.trans hh) (inCoalescing_fired.trans hc)]
    exact (presentable_fired he ht).presentGrp
  case setp =>
    intro w bits s hr
    have hc := ctlUp_of_running hr
    refine ⟨execSrcSetpWrite_of_control w bits hc, fun hw => ?_, fun hf =>
      execSrcSetpWrite_of_host 15 bits (hostCtl_of_running hr hf) hc⟩
    change execSrcSetpWrite true w bits s = _
    cases hf : (s.fn 0).resetting with
    | true =>
      rw [execSrcSetpWrite_of_refused w bits (hostCtl_of_resetting hf), hostRefused_of_running hr]
    | false =>
      rw [execSrcSetpWrite_of_host w bits (hostCtl_of_running hr hf) hc, hostSetpMask_of_other hw, State.setPending,
        wordSources_zero, List.foldl_nil]
  case setpRefused =>
    intro w bits s
    refine ⟨fun hr hf => ?_, fun hr => ?_⟩
    · exact (execSrcSetpWrite_of_refused w bits (hostCtl_of_resetting hf)).trans
        (congrArg _ (hostRefused_of_running hr))
    · exact (execSrcSetpWrite_of_refused w bits (hostCtl_of_down hr)).trans (congrArg _ (hostRefused_of_down hr))
  case withdraw =>
    intro w bits s hc
    refine ⟨s.withdraw w.val bits, congrArg Host.Outcome.next (if_pos hc), fun i hi hb => ?_, fun i hi hb => ?_,
      Laws.withdraw_same s w.val bits rfl (Laws.Same.refl _ s)⟩
    · rw [src_withdraw w.val bits hi, if_pos hb]
      exact ⟨rfl, rfl⟩
    · rw [src_withdraw w.val bits hi, hb, if_neg Bool.false_ne_true]
  case holdOff =>
    intro g s hh hl ht
    exact congrArg Host.Outcome.next (if_pos (by simp [hh, hl, ht]))
  case coalesce =>
    intro g s hc hl hz ht
    exact congrArg Host.Outcome.next (if_pos (by simp [hc, hl, hz, ht]))
  case early =>
    intro g s hl
    exact ⟨congrArg Host.Outcome.next (if_neg (by simp [hl])), congrArg Host.Outcome.next (if_neg (by simp [hl]))⟩
  case ack =>
    intro t n s hc hb
    exact congrArg Host.Outcome.next ((if_pos hc).trans (ack_of_best hb))
  case best =>
    intro t n m s hb hm hin hw
    obtain ⟨hn, hbest⟩ := precedes_of_bestSource hw hb
    exact ⟨(List.mem_filter.1 hn).2, hbest m (List.mem_filter.2 ⟨hin, hm⟩)⟩
  case ackNone =>
    intro t s hc hb
    exact congrArg Host.Outcome.next ((if_pos hc).trans (ack_of_none hb))
  case eoi =>
    intro t src l rest s hc hs
    exact congrArg Host.Outcome.next ((if_pos hc).trans (eoi_of_top hs))
  case mismatch =>
    intro t src s hc hs
    exact congrArg Host.Outcome.next ((if_pos hc).trans (eoi_of_mismatch hs))

end Sys2Proof.Proofs
end

section
/-! Proofs about the sticky bits of watermarks and the mailboxes (R447 to R451, R453). -/

namespace Sys2Proof.Proofs

open Sys2Proof.Machine Sys2Proof.Claims

section
variable {s : State}

/-! ## Watermarks (R448, R450) -/

theorem execWatermarkStickyClear_of_control {n : Fin 512} (hc : s.ctlUp = true) (hn : n.val < 272) :
    execWatermarkStickyClear n false s = .next (s.clearSticky n.val) := by
  simp [execWatermarkStickyClear, hc, hn]

theorem execWatermarkStickyClear_of_host {n : Fin 512} (hh : s.hostCtl = true) (hc : s.ctlUp = true)
    (hn : n.val < 272) :
    execWatermarkStickyClear n true s =
      .next ((s.clearSticky n.val).journalWm (s.wmCtrl n.val) ((s.clearSticky n.val).wmCtrl n.val)) := by
  simp [execWatermarkStickyClear, hh, hc, hn]

theorem execWatermarkStickyClear_of_refused (n : Fin 512) (hh : s.hostCtl = false) :
    execWatermarkStickyClear n true s = .next s.hostRefused := by
  simp [execWatermarkStickyClear, hh]

/-- There are 272 watermarks. -/
theorem execWatermarkStickyClear_of_absent {n : Fin 512} (host : Bool) (hr : s.running = true) (hn : 272 ≤ n.val) :
    execWatermarkStickyClear n host s = .next s := by
  simp [execWatermarkStickyClear, hostRefused_of_running hr, Nat.not_lt.2 hn]

/-! ## Mailboxes (R449, R451, R453) -/

section
variable {c : Nat}

theorem boxAllowed_of_open_or_trust {trust : Bool} (h : 8 ≤ c ∨ trust = true) : boxAllowed c trust = true := by
  simpa [boxAllowed] using h

theorem boxAllowed_of_secure (h : c < 8) : boxAllowed c false = false := by simp [boxAllowed, Nat.not_le.2 h]

theorem boxIn_of_full (v : W64) (h : (s.box c).inFull = true) :
    s.boxIn c v = s.updBox c (fun b => { b with drops := stickAdd 64 b.drops 1 }) := if_pos h

theorem boxIn_of_empty (v : W64) (h : (s.box c).inFull = false) : s.boxIn c v =
    (s.updBox c (fun b => { b with inWord := v, inGen := (s.fn 0).gen, inFull := true })).latch (704 + c) :=
  if_neg (by simp [h])

theorem boxTakeOut_of_full (h : (s.box c).outFull = true) :
    s.boxTakeOut c = (s.updBox c (fun b => { b with outFull := false })).latch (720 + c) := if_pos h

end

section
variable {ch : Fin 16} {trust : Bool} (v : W64)

theorem execMailboxInWrite_of_allowed (hh : s.hostCtl = true) (ha : boxAllowed ch.val trust = true) :
    execMailboxInWrite ch trust v s = .next (s.boxIn ch.val v) := by
  simp [execMailboxInWrite, hh, ha]

theorem execMailboxInWrite_of_untrusted (hh : s.hostCtl = true) (ha : boxAllowed ch.val trust = false) :
    execMailboxInWrite ch trust v s = .next (s.emit (.hostError 0)) := by
  simp [execMailboxInWrite, hh, ha]

theorem execMailboxInWrite_of_refused (hh : s.hostCtl = false) :
    execMailboxInWrite ch trust v s = .next s.hostRefused := by
  simp [execMailboxInWrite, hh]

theorem execMailboxTakeOutbound_of_allowed (hh : s.hostCtl = true) (ha : boxAllowed ch.val trust = true) :
    execMailboxTakeOutbound ch trust s = .next (s.boxTakeOut ch.val) := by
  simp [execMailboxTakeOutbound, hh, ha]

theorem execMailboxTakeOutbound_of_untrusted (hh : s.hostCtl = true) (ha : boxAllowed ch.val trust = false) :
    execMailboxTakeOutbound ch trust s = .next (s.emit (.hostError 0)) := by
  simp [execMailboxTakeOutbound, hh, ha]

theorem execMailboxTakeOutbound_of_refused (hh : s.hostCtl = false) :
    execMailboxTakeOutbound ch trust s = .next s.hostRefused := by
  simp [execMailboxTakeOutbound, hh]

end

end

/-- Settles O35. Each host access is taken, refused for want of trust, or refused with its region (the `exec` rules
above); what a taken one does to its channel is the channel's rule. -/
theorem watermarksAndMailboxes : Obligations.WatermarksAndMailboxes := by
  unfold Obligations.WatermarksAndMailboxes
  refine ⟨fun n s => execWatermarkStickyClear_of_control, ?wmHost,
    fun n host s => execWatermarkStickyClear_of_absent host, ?inEmpty, ?inFull, ?out, ?takes, ?secure, ?refused⟩
  case wmHost =>
    intro n s hr hf hn
    exact execWatermarkStickyClear_of_host (hostCtl_of_running hr hf) (ctlUp_of_running hr) hn
  case inEmpty =>
    intro ch trust v s hr hf ha he
    exact (execMailboxInWrite_of_allowed v (hostCtl_of_running hr hf) (boxAllowed_of_open_or_trust ha)).trans
      (congrArg _ (boxIn_of_empty v he))
  case inFull =>
    intro ch trust v s hr hf ha he
    exact (execMailboxInWrite_of_allowed v (hostCtl_of_running hr hf) (boxAllowed_of_open_or_trust ha)).trans
      (congrArg _ (boxIn_of_full v he))
  case out =>
    intro ch v s hc
    exact congrArg Host.Outcome.next (if_pos hc)
  case takes =>
    intro ch s hr hf ho
    exact ⟨congrArg Host.Outcome.next (if_pos (ctlUp_of_running hr)),
      (execMailboxTakeOutbound_of_allowed (hostCtl_of_running hr hf) (boxAllowed_of_open_or_trust (.inr rfl))).trans
        (congrArg _ (boxTakeOut_of_full ho))⟩
  case secure =>
    intro ch v s hr hf hs
    have hh := hostCtl_of_running hr hf
    exact ⟨execMailboxInWrite_of_untrusted v hh (boxAllowed_of_secure hs),
      execMailboxTakeOutbound_of_untrusted hh (boxAllowed_of_secure hs)⟩
  case refused =>
    intro ch n trust v s
    have hall : ∀ {t : State}, s.hostCtl = false → s.hostRefused = t →
        exec (.mailboxInWrite ch trust v) s = .next t ∧ exec (.mailboxTakeOutbound ch trust) s = .next t ∧
        exec (.watermarkStickyClear n true) s = .next t := by
      rintro t hh rfl
      exact ⟨execMailboxInWrite_of_refused v hh, execMailboxTakeOutbound_of_refused hh,
        execWatermarkStickyClear_of_refused n hh⟩
    exact ⟨fun hr hf => hall (hostCtl_of_resetting hf) (hostRefused_of_running hr),
      fun hr => hall (hostCtl_of_down hr) (hostRefused_of_down hr)⟩

end Sys2Proof.Proofs
end

section
/-! Proofs about resets, the start of firmware, its restart and the start of a hide (R452, R471, R489, R494, R511, R522,
R527 to R530, R569, R571). -/

namespace Sys2Proof.Proofs

open Sys2Proof.Machine Sys2Proof.Claims

/-! ## Tables whose entries are changed one by one

The change may depend on the key: a restart of firmware empties the control cores alone. -/

theorem tfind_mapByKey {α : Type} (t : Tbl α) (f : Nat → α → α) (k : Nat) :
    tfind (t.map (fun e => (e.1, f e.1 e.2))) k = (tfind t k).map (f k) := by
  induction t with
  | nil => rfl
  | cons e t ih =>
    simp only [List.map_cons, tfind]
    split
    case isTrue h =>
      rw [h]
      rfl
    case isFalse => exact ih

/-- A change that keeps the default of a missing entry is a change of every entry. -/
theorem tget_mapByKey {α : Type} (t : Tbl α) (f : Nat → α → α) (k : Nat) {d : α} (hd : f k d = d) :
    tget (t.map (fun e => (e.1, f e.1 e.2))) k d = f k (tget t k d) := by
  rw [tget, tget, tfind_mapByKey]
  cases tfind t k with
  | none => exact hd.symm
  | some a => rfl

section
variable {s : State}

/-! ## Resets (R477, R511, R522, R528, R571) -/

theorem core_wipe (cold : Bool) (i : Nat) : (s.wipe cold).core i = coreAfter cold (s.core i) :=
  tget_mapByKey s.cores (fun _ => coreAfter cold) i (by cases cold <;> rfl)

theorem hide_wipe (cold : Bool) (h : Nat) : (s.wipe cold).hide h = hideAfter cold (s.hide h) :=
  tget_mapByKey s.hides (fun _ => hideAfter cold) h (by cases cold <;> rfl)

/-- A reset leaves every hide stopped and without a key. -/
theorem hideAfter_stopped (cold : Bool) (x : Hide) :
    (hideAfter cold x).key = 0 ∧ (hideAfter cold x).started = false := by
  cases cold <;> exact ⟨rfl, rfl⟩

/-- A reset leaves every core empty and keeps its fuses and its retirement. -/
theorem coreAfter_emptied (cold : Bool) (k : Core) : (coreAfter cold k).chains = [] ∧
    (coreAfter cold k).retired = k.retired ∧ (coreAfter cold k).fused = k.fused := by
  cases cold <;> exact ⟨rfl, rfl, rfl⟩

theorem deassert_only (s : State) (pins : BitVec 2) : Same (fields [.kod, .ao, .pow, .out]) s (s.deassert pins) :=
  Laws.deassert_same s pins rfl (Laws.Same.refl _ s)

theorem hide_deassert (pins : BitVec 2) (h : Nat) : (s.deassert pins).hide h = s.hide h := by
  rw [State.hide, State.hide, (deassert_only s pins).get .hides rfl]

theorem core_deassert (pins : BitVec 2) (i : Nat) : (s.deassert pins).core i = s.core i := by
  rw [State.core, State.core, (deassert_only s pins).get .cores rfl]

theorem execWarmReset_of_powered (pins : BitVec 2) (hb : s.pow.boot ≠ .off) :
    execWarmReset pins s = .next ((s.wipe false).deassert pins) :=
  congrArg _ (if_neg hb)

theorem execWarmrstAssertion_of_powered (hb : s.pow.boot ≠ .off) : execWarmrstAssertion s = .next (s.wipe false) :=
  congrArg _ (if_pos (by simp [hb]))

/-! ## The start of firmware (R451, R489, R494, R527) -/

/-- The slot that firmware runs from: the one named next where it checks, else the other. -/
theorem fwRun_pickFirmware (s : State) : s.pickFirmware.kod.fwRun =
    if (if s.kod.fwNext = 0 then s.kod.fwOk0 else s.kod.fwOk1) = true then s.kod.fwNext else 1 - s.kod.fwNext := rfl

/-- The state with its image chosen and the next firmware generation. -/
def imagedState (s : State) : State := { s.pickFirmware with ao := { s.ao with fwGen := nextFwGen s.ao.fwGen } }

/-- The state in which the control cores run the image. -/
def bootedState (s : State) : State := (imagedState s).startControl.updPow (fun p => { p with fwUp := true })

/-- The profile to start with, after a fallback from one that does not check: the last active one, or the pins'. -/
def checkedProfile (t : State) : State × Nat :=
  t.fallback (if t.kod.bootSource = 1 then t.kod.lastActive else t.kod.pins.toNat)

/-- A start-up: the profiles are loaded and checked, one is activated, and its domains power up. -/
def activatedState (t : State) : State :=
  ((checkedProfile t.loadProfiles).1.activate (checkedProfile t.loadProfiles).2).powerUp

theorem readStore_only (s : State) : Same (fields [.out]) s s.readStore :=
  Laws.readStore_same s rfl (Laws.Same.refl _ s)

theorem startControl_only (s : State) : Same (fields [.cores]) s s.startControl :=
  Laws.startControl_same s rfl (Laws.Same.refl _ s)

theorem pow_imagedState (s : State) : (imagedState s).pow = s.pow :=
  (Laws.pickFirmware_same s rfl (Laws.Same.refl (fields [.kod, .out]) s)).get .pow rfl

theorem pow_bootedState (s : State) : (bootedState s).pow = { s.pow with fwUp := true } := by
  have hpow : (imagedState s).startControl.pow = s.pow :=
    ((startControl_only (imagedState s)).get .pow rfl).trans (pow_imagedState s)
  rw [bootedState, State.updPow, hpow]

theorem ao_bootedState (s : State) : (bootedState s).ao = { s.ao with fwGen := nextFwGen s.ao.fwGen } :=
  (startControl_only (imagedState s)).get .ao rfl

theorem kod_bootedState (s : State) : (bootedState s).kod = s.pickFirmware.kod :=
  (startControl_only (imagedState s)).get .kod rfl

/-- A change that gives a core its chains gives them to each control core of a list. -/
theorem chains_foldl_updCore {f : Core → Core} {cs : Tbl Chain} (hf : ∀ k, (f k).chains = cs) {i : Nat}
    (l : List Nat) (h : i ∈ l ∨ (s.core (272 + i)).chains = cs) :
    ((l.foldl (fun t j => t.updCore (272 + j) f) s).core (272 + i)).chains = cs := by
  induction l generalizing s with
  | nil => exact h.resolve_left List.not_mem_nil
  | cons j l ih =>
    refine ih ?_
    rw [State.core_updCore]
    split
    case isTrue => exact .inr (hf _)
    case isFalse hij =>
      refine h.imp_left fun hi => (List.mem_cons.1 hi).resolve_left fun e => hij ?_
      rw [e]

/-- A control core that starts firmware. -/
def firmwareCore (k : Core) : Core :=
  { k with
    chains := (List.range 64).map (fun j => (j, firmwareChain)), sb := [], dcache := [], icache := [], mxq := [] }

/-- Every slot of a control core runs firmware. -/
theorem chain?_startControl {i j : Nat} (hi : i < 4) (hj : j < 64) :
    s.startControl.chain? (272 + i) j = some firmwareChain := by
  have hc : (s.startControl.core (272 + i)).chains = (List.range 64).map (fun j => (j, firmwareChain)) :=
    chains_foldl_updCore (f := firmwareCore) (fun _ => rfl) (List.range 4) (.inl (List.mem_range.2 hi))
  rw [State.chain?, hc]
  have hslots := tfind_map_range (fun _ => firmwareChain) 0 64 j
  simp only [Nat.zero_add] at hslots
  rw [hslots, if_pos ⟨Nat.zero_le j, hj⟩]

theorem chain?_of_cores {t : State} (h : t.cores = s.cores) (core slot : Nat) :
    t.chain? core slot = s.chain? core slot := by
  rw [State.chain?, State.chain?, State.core, State.core, h]

theorem chain?_bootedState {i j : Nat} (hi : i < 4) (hj : j < 64) :
    (bootedState s).chain? (272 + i) j = some firmwareChain :=
  (chain?_of_cores (s := (imagedState s).startControl) rfl _ _).trans (chain?_startControl hi hj)

theorem execFirmwareStart_of_startUp (hr : s.running = true) (hf : s.pow.fwUp = false) (hd : s.pow.debug = 0)
    (hb : s.pow.boot = .image) :
    execFirmwareStart s = .next (activatedState (bootedState s).readStore).serveStored := by
  have hguard : ¬ (!s.running || s.pow.fwUp || s.pow.debug != 0) = true := by simp [hr, hf, hd]
  have hboot : (bootedState s).pow.boot = .image := by rw [pow_bootedState, hb]
  exact congrArg _ ((if_neg hguard).trans (if_pos hboot))

theorem execFirmwareStart_of_barred (h : s.pow.fwUp = true ∨ s.pow.boot = .off) : execFirmwareStart s = .next s := by
  refine congrArg _ (if_pos ?_)
  obtain h | h := h <;> simp [h, State.running]

/-! ## A restart of firmware (R452, R470, R530) -/

theorem discardIn_inFull (b : Mbox) : (discardIn b).inFull = false := by
  unfold discardIn
  split
  case isTrue => rfl
  case isFalse h => exact Bool.eq_false_iff.2 h

theorem discardIn_outFull (b : Mbox) : (discardIn b).outFull = b.outFull := by
  unfold discardIn
  split <;> rfl

/-- A source without firing and service. -/
def clearedSrc (x : Src) : Src := { x with pending := false, presented := false, insvc := false }

/-- A control core is emptied; a compute core is left alone. -/
def restartedCore (i : Nat) (k : Core) : Core :=
  if 272 ≤ i then { k with chains := [], sb := [], dcache := [], icache := [], mxq := [], failed := false } else k

theorem logAlarm_only (s : State) (code : Nat) : Same (fields [.free, .ao]) s (s.logAlarm code) :=
  Laws.logAlarm_same s code rfl (Laws.Same.refl _ s)

section
variable (cc : Nat)

theorem src_restartFirmware (n : Nat) :
    ((s.restartFirmware cc).src n).pending = false ∧ ((s.restartFirmware cc).src n).insvc = false := by
  have h : tget (s.restartFirmware cc).eg.srcs n {} = clearedSrc (tget (s.logAlarm 5).eg.srcs n {}) :=
    tget_mapByKey _ (fun _ => clearedSrc) n rfl
  rw [State.src, h]
  split <;> exact ⟨rfl, rfl⟩

theorem stack_restartFirmware (k : Nat) : ((s.restartFirmware cc).tgt k).stack = [] :=
  congrArg Tgt.stack (tget_mapByKey (s.logAlarm 5).eg.tgts (fun _ x => { x with stack := [] }) k (d := {}) rfl)

theorem box_restartFirmware (c : Nat) : (s.restartFirmware cc).box c = discardIn (s.box c) := by
  have hbox : (s.restartFirmware cc).box c = discardIn ((s.logAlarm 5).box c) :=
    tget_mapByKey _ (fun _ => discardIn) c rfl
  rw [hbox, State.box, State.box, (logAlarm_only s 5).get .boxes rfl]

theorem chains_restartFirmware (i : Nat) : ((s.restartFirmware cc).core (272 + i)).chains = [] := by
  have hcore : (s.restartFirmware cc).core (272 + i) = restartedCore (272 + i) ((s.logAlarm 5).core (272 + i)) :=
    tget_mapByKey _ restartedCore (272 + i) (if_pos (Nat.le_add_right 272 i))
  rw [hcore, restartedCore, if_pos (Nat.le_add_right 272 i)]

theorem mem_restartFirmware : (s.restartFirmware cc).mem = s.mem := (logAlarm_only s 5).get .mem rfl

end

/-! ## The start of a hide (R135, R466, R522, R527, R529) -/

/-- A hide with a key drawn for it. -/
def keyedHide (s : State) (x : Hide) : Hide := { x with key := 2, keyDraw := s.pow.draws }

/-- A hide started with its profile's span and its slot's program. -/
def startedHide (s : State) (h : Nat) (x : Hide) : Hide :=
  { x with
    started := true
    spanLen := s.kodRun (0x5000 + h) 7
    table := ((List.range 256).map (fun i => (i, s.kodRun (0x5010 + h) i))).filter (fun e => e.2 != 0)
    acre := { x.acre with bankA := tfind s.kod.shiftSlots h } }

/-- The state in which a hide has its key, its program is being read, and its exposed units are scrubbed if the profile
asks for it. -/
def loadedState (s : State) (h : Nat) : State :=
  let us := (List.range 0xC0).filter (fun u => s.unitKind u == 2 && s.unitHide u == h)
  let s1 := (s.drawKey h).readShift h
  if s.kodRun (0x3000 + h) 0x0D = 1 then { s1 with scrubbed := s1.scrubbed ++ us } else s1

/-- The state in which a hide has started. -/
def openedState (s : State) (h : Nat) : State := (loadedState s h).updHide h (startedHide s h)

/-- Every hide of the profile has started. -/
def allStarted (s : State) : Bool := s.hideList.all (fun k => (s.hide k).started)

/-- The block in service once every hide has started. -/
def servingState (s : State) : State :=
  if allStarted s then
    ({ s with eg := { s.eg with mode := 0 }, pow := { s.pow with boot := .service } } : State).presentAll
  else s

theorem startHide_eq (h : Nat) : s.startHide h = (servingState (openedState s h)).refreshAll := rfl

theorem refreshAll_only (s : State) : Same (fields [.fns]) s s.refreshAll :=
  Laws.refreshAll_same s rfl (Laws.Same.refl _ s)

theorem presentAll_only (s : State) : Same (fields [.cores, .eg]) s s.presentAll :=
  Laws.presentAll_same s rfl (Laws.Same.refl _ s)

theorem mode_presentAll (s : State) : s.presentAll.eg.mode = s.eg.mode := by
  refine List.foldlRecOn (motive := fun a : State => a.eg.mode = s.eg.mode) (List.range 64) _ rfl ?_
  intro a ha g _
  split
  case isTrue => exact ha
  case isFalse => exact (mode_presentGrp a g).trans ha

theorem hides_servingState (s : State) : (servingState s).hides = s.hides := by
  unfold servingState
  split
  case isTrue => exact (presentAll_only _).get .hides rfl
  case isFalse => rfl

theorem hide_startHide (h k : Nat) : (s.startHide h).hide k = (openedState s h).hide k := by
  rw [startHide_eq, State.hide, (refreshAll_only _).get .hides rfl, hides_servingState, State.hide]

theorem hide_loadedState (h k : Nat) :
    (loadedState s h).hide k = if k = h then keyedHide s (s.hide h) else s.hide k := by
  have hides : (loadedState s h).hides = (s.updHide h (keyedHide s)).hides := by
    unfold loadedState
    split <;> rfl
  rw [State.hide, hides]
  exact State.hide_updHide s h k (keyedHide s)

/-- A hide that starts has a key of its own and its profile's span; the others stay as they are. -/
theorem hide_openedState (h k : Nat) : (openedState s h).hide k =
    if k = h then startedHide s h (keyedHide s (s.hide h)) else s.hide k := by
  rw [openedState, State.hide_updHide, hide_loadedState, hide_loadedState, if_pos rfl]
  split <;> rfl

theorem kod_openedState (h : Nat) : (openedState s h).kod = s.kod := by
  change (loadedState s h).kod = s.kod
  unfold loadedState
  split <;> rfl

theorem hideExists_of_kod {t : State} (hk : t.kod = s.kod) (h : Nat) : t.hideExists h = s.hideExists h := by
  simp only [State.hideExists, State.kodRun, hk]

theorem hideList_openedState (h : Nat) : (openedState s h).hideList = s.hideList := by
  rw [State.hideList, State.hideList]
  exact List.filter_congr fun k _ => hideExists_of_kod (kod_openedState h) k

theorem allStarted_openedState {h : Nat} (hs : ∀ k ∈ s.hideList, k = h ∨ (s.hide k).started = true) :
    allStarted (openedState s h) = true := by
  rw [allStarted, hideList_openedState, List.all_eq_true]
  intro k hk
  rw [hide_openedState]
  split
  case isTrue => rfl
  case isFalse hne => exact (hs k hk).resolve_left hne

/-- With its last hide the block is in service. -/
theorem startHide_of_last {h : Nat} (hs : ∀ k ∈ s.hideList, k = h ∨ (s.hide k).started = true) :
    (s.startHide h).pow.boot = .service ∧ (s.startHide h).eg.mode = 0 := by
  rw [startHide_eq, (refreshAll_only _).get .pow rfl, (refreshAll_only _).get .eg rfl, servingState,
    if_pos (allStarted_openedState hs), (presentAll_only _).get .pow rfl, mode_presentAll]
  exact ⟨rfl, rfl⟩

end

/-- Settles O42. A reset changes every core and every hide alike (`core_wipe`, `hide_wipe`); a start of firmware is a
boot and an activation (`execFirmwareStart_of_startUp`); a restart and the start of a hide are read field by field. -/
theorem resetsAndStartUp : Obligations.ResetsAndStartUp := by
  unfold Obligations.ResetsAndStartUp
  refine ⟨?porst, ?warmrst, ?asserted, ?powerUp, ?entdaa, ?firmware, ?image, ?barred, ?restart, ?hide, ?last⟩
  case porst =>
    intro pins s
    refine ⟨_, rfl, rfl, rfl, rfl, rfl, rfl, rfl, rfl, rfl, rfl, fun h => ?_, fun i => ?_, rfl, rfl⟩
    · rw [hide_deassert, hide_wipe]
      exact hideAfter_stopped true _
    · rw [core_deassert, core_wipe]
      exact coreAfter_emptied true _
  case warmrst =>
    intro pins s hb
    refine ⟨_, execWarmReset_of_powered pins hb, rfl, rfl, rfl, rfl, rfl, rfl, rfl, fun h => ?_, fun i => ?_, rfl,
      rfl⟩
    · rw [hide_deassert, hide_wipe]
      exact hideAfter_stopped false _
    · rw [core_deassert, core_wipe]
      obtain ⟨hchains, hretired, -⟩ := coreAfter_emptied false (s.core i)
      exact ⟨hchains, hretired⟩
  case asserted =>
    intro s hb
    refine ⟨_, execWarmrstAssertion_of_powered hb, rfl, rfl, rfl, fun h => ?_, rfl⟩
    rw [hide_wipe]
    exact (hideAfter_stopped false _).1
  case powerUp =>
    intro s
    exact ⟨_, rfl, rfl, rfl, rfl, rfl, rfl, rfl, rfl⟩
  case entdaa =>
    intro a s hc
    exact congrArg Host.Outcome.next (if_pos hc)
  case firmware =>
    intro s hr hf hd hb
    have hread := readStore_only (bootedState s)
    refine ⟨(bootedState s).readStore, activatedState (bootedState s).readStore,
      execFirmwareStart_of_startUp hr hf hd hb, ?_, ?_, ?_, fun i hi j hj => ?_, rfl⟩
    · rw [hread.get .kod rfl, kod_bootedState]
    · rw [hread.get .ao rfl, ao_bootedState]
    · rw [hread.get .pow rfl, pow_bootedState]
    · rw [chain?_of_cores (hread.get .cores rfl), chain?_bootedState hi hj]
  case image =>
    intro s
    simp +contextual [fwRun_pickFirmware]
  case barred =>
    intro s h
    exact execFirmwareStart_of_barred h
  case restart =>
    intro cc s hr hd
    exact ⟨_, congrArg Host.Outcome.next (if_pos (by simp [hr, hd])), rfl, src_restartFirmware cc.val,
      stack_restartFirmware cc.val, fun c => by rw [box_restartFirmware, discardIn_inFull],
      fun c => by rw [box_restartFirmware, discardIn_outFull], fun i _ => chains_restartFirmware cc.val i,
      mem_restartFirmware cc.val⟩
  case hide =>
    intro h s hb hf he hs hr hp hn hz
    have hboot : (s.pow.boot == .starting || s.pow.boot == .service) = true := by
      obtain hb | hb := hb <;> simp [hb]
    refine ⟨congrArg Host.Outcome.next (if_pos (by simp only [hboot, hf, he, hs, hr, hp, hn, hz]; rfl)), ?_⟩
    rw [hide_startHide, hide_openedState, if_pos rfl]
    exact ⟨rfl, rfl, rfl⟩
  case last =>
    intro h s hs _
    exact startHide_of_last hs

end Sys2Proof.Proofs
end

section
/-! Proofs about the step as a whole: it runs the front command, and each command changes only its fields. -/

namespace Sys2Proof.Proofs

open Sys2Proof.Machine Sys2Proof.Claims

/-- What a command answers differs from the state in the command's fields alone. -/
theorem exec_same {c : Instr} {s t : State} (h : exec c s = .next t) : Same (fields (mayChange c)) s t := by
  cases c with
  | registerWrite => exact Laws.execRegisterWrite_same h
  | verSelectWrite => exact Laws.execVerSelectWrite_same h
  | functionReset => exact Laws.execFunctionReset_same h
  | flrReport => exact Laws.execFlrReport_same h
  | functionResetEnd => exact Laws.execFunctionResetEnd_same h
  | queueEnable => exact Laws.execQueueEnable_same h
  | queueDisable => exact Laws.execQueueDisable_same h
  | queueDrainEnd => exact Laws.execQueueDrainEnd_same h
  | doorbell => exact Laws.execDoorbell_same h
  | pushSlotWrite => exact Laws.execPushSlotWrite_same h
  | contextLoad => exact Laws.execContextLoad_same h
  | descriptorFetchResponse => exact Laws.execDescriptorFetchResponse_same h
  | ringFetchError => exact Laws.execRingFetchError_same h
  | commandAccept => exact Laws.execCommandAccept_same h
  | migrationCopyDone => exact Laws.execMigrationCopyDone_same h
  | atsTranslationCompletion => exact Laws.execAtsTranslationCompletion_same h
  | reservationAdmit => exact Laws.execReservationAdmit_same h
  | commandDispatch => exact Laws.execCommandDispatch_same h
  | endOfCommandReport => exact Laws.execEndOfCommandReport_same h
  | cqWriteError => exact Laws.execCqWriteError_same h
  | completionHeadWrite => exact Laws.execCompletionHeadWrite_same h
  | completionInterruptTimeout => exact Laws.execCompletionInterruptTimeout_same h
  | qAbort => exact Laws.execQAbort_same h
  | eventQueueEnable => exact Laws.execEventQueueEnable_same h
  | eventQueueDisable => exact Laws.execEventQueueDisable_same h
  | eventQueueHeadWrite => exact Laws.execEventQueueHeadWrite_same h
  | recordWriteError => exact Laws.execRecordWriteError_same h
  | stagedRecordWrite => exact Laws.execStagedRecordWrite_same h
  | nop => exact Laws.execNop_same h
  | fence => exact Laws.execFence_same h
  | signal => exact Laws.execSignal_same h
  | wait => exact Laws.execWait_same h
  | ctxCreate => exact Laws.execCtxCreate_same h
  | ctxDestroy => exact Laws.execCtxDestroy_same h
  | map => exact Laws.execMap_same h
  | unmap => exact Laws.execUnmap_same h
  | invalidate => exact Laws.execInvalidate_same h
  | atsInvalidateRequest => exact Laws.execAtsInvalidateRequest_same h
  | invalidationAck => exact Laws.execInvalidationAck_same h
  | query => exact Laws.execQuery_same h
  | copy => exact Laws.execCopy_same h
  | fill => exact Laws.execFill_same h
  | kernel => exact Laws.execKernel_same h
  | acre => exact Laws.execAcre_same h
  | foreign => exact Laws.execForeign_same h
  | planLoad => exact Laws.execPlanLoad_same h
  | seqOpen => exact Laws.execSeqOpen_same h
  | seqStep => exact Laws.execSeqStep_same h
  | seqClose => exact Laws.execSeqClose_same h
  | seqAdmit => exact Laws.execSeqAdmit_same h
  | stepBuild => exact Laws.execStepBuild_same h
  | stageIssue => exact Laws.execStageIssue_same h
  | servingReserveStaging => exact Laws.execServingReserveStaging_same h
  | stepCommit => exact Laws.execStepCommit_same h
  | acreOperationStart => exact Laws.execAcreOperationStart_same h
  | acreStepAbandon => exact Laws.execAcreStepAbandon_same h
  | acreResume => exact Laws.execAcreResume_same h
  | acreBBlockLoaded => exact Laws.execAcreBBlockLoaded_same h
  | acreSliceEnd => exact Laws.execAcreSliceEnd_same h
  | acreReadoutStep => exact Laws.execAcreReadoutStep_same h
  | acreStoreStep => exact Laws.execAcreStoreStep_same h
  | acreOperationEnd => exact Laws.execAcreOperationEnd_same h
  | coreErr => exact Laws.execCoreErr_same h
  | groupPlacement => exact Laws.execGroupPlacement_same h
  | groupSaveComplete => exact Laws.execGroupSaveComplete_same h
  | groupResume => exact Laws.execGroupResume_same h
  | iaddIsub => exact Laws.execIaddIsub_same h
  | imulImulh => exact Laws.execImulImulh_same h
  | imad => exact Laws.execImad_same h
  | iminImax => exact Laws.execIminImax_same h
  | mov => exact Laws.execMov_same h
  | andOrXorAndn => exact Laws.execAndOrXorAndn_same h
  | shlShrSar => exact Laws.execShlShrSar_same h
  | popcClzBrev => exact Laws.execPopcClzBrev_same h
  | bfeBfi => exact Laws.execBfeBfi_same h
  | faddFmulFfma => exact Laws.execFaddFmulFfma_same h
  | fminFmax => exact Laws.execFminFmax_same h
  | specialFunction => exact Laws.execSpecialFunction_same h
  | cmp => exact Laws.execCmp_same h
  | sel => exact Laws.execSel_same h
  | cvt => exact Laws.execCvt_same h
  | oscl => exact Laws.execOscl_same h
  | qnt => exact Laws.execQnt_same h
  | dq => exact Laws.execDq_same h
  | shfl => exact Laws.execShfl_same h
  | vote => exact Laws.execVote_same h
  | redu => exact Laws.execRedu_same h
  | rdln => exact Laws.execRdln_same h
  | viImmediate => exact Laws.execViImmediate_same h
  | ldg => exact Laws.execLdg_same h
  | stg => exact Laws.execStg_same h
  | ldl => exact Laws.execLdl_same h
  | stl => exact Laws.execStl_same h
  | ldu => exact Laws.execLdu_same h
  | atomg => exact Laws.execAtomg_same h
  | atoml => exact Laws.execAtoml_same h
  | pref => exact Laws.execPref_same h
  | bra => exact Laws.execBra_same h
  | braD => exact Laws.execBraD_same h
  | join => exact Laws.execJoin_same h
  | call => exact Laws.execCall_same h
  | ret => exact Laws.execRet_same h
  | exit => exact Laws.execExit_same h
  | uArithmetic => exact Laws.execUArithmetic_same h
  | ucmp => exact Laws.execUcmp_same h
  | mld => exact Laws.execMld_same h
  | mmul => exact Laws.execMmul_same h
  | mrd => exact Laws.execMrd_same h
  | mclr => exact Laws.execMclr_same h
  | mrel => exact Laws.execMrel_same h
  | nopInstruction => exact Laws.execNopInstruction_same h
  | s2vS2u => exact Laws.execS2vS2u_same h
  | u2s => exact Laws.execU2s_same h
  | fenceInstruction => exact Laws.execFenceInstruction_same h
  | fenceComplete => exact Laws.execFenceComplete_same h
  | fenceIo => exact Laws.execFenceIo_same h
  | bar => exact Laws.execBar_same h
  | evwait => exact Laws.execEvwait_same h
  | evsig => exact Laws.execEvsig_same h
  | sleep => exact Laws.execSleep_same h
  | yield => exact Laws.execYield_same h
  | trap => exact Laws.execTrap_same h
  | storeBufferEntryLeave => exact Laws.execStoreBufferEntryLeave_same h
  | loadDataReturn => exact Laws.execLoadDataReturn_same h
  | homeRequest => exact Laws.execHomeRequest_same h
  | homeTransactionEnd => exact Laws.execHomeTransactionEnd_same h
  | deadlockEvaluationTick => exact Laws.execDeadlockEvaluationTick_same h
  | deadlockRaise => exact Laws.execDeadlockRaise_same h
  | furlongMoveRequest => exact Laws.execFurlongMoveRequest_same h
  | drainWindowExpiry => exact Laws.execDrainWindowExpiry_same h
  | furlongJoin => exact Laws.execFurlongJoin_same h
  | vfManagementWrite => exact Laws.execVfManagementWrite_same h
  | spanStart => exact Laws.execSpanStart_same h
  | grainChargeTick => exact Laws.execGrainChargeTick_same h
  | coreSliceExpiry => exact Laws.execCoreSliceExpiry_same h
  | slowdownWindowEnd => exact Laws.execSlowdownWindowEnd_same h
  | rebalancePeriodEnd => exact Laws.execRebalancePeriodEnd_same h
  | migrationFenceEnd => exact Laws.execMigrationFenceEnd_same h
  | moverRestart => exact Laws.execMoverRestart_same h
  | channelEnable => exact Laws.execChannelEnable_same h
  | channelDisable => exact Laws.execChannelDisable_same h
  | channelAbort => exact Laws.execChannelAbort_same h
  | channelStop => exact Laws.execChannelStop_same h
  | channelContinue => exact Laws.execChannelContinue_same h
  | kick => exact Laws.execKick_same h
  | moverDescriptorFetch => exact Laws.execMoverDescriptorFetch_same h
  | moverRunStart => exact Laws.execMoverRunStart_same h
  | moverBurstComplete => exact Laws.execMoverBurstComplete_same h
  | inputStall => exact Laws.execInputStall_same h
  | moverHalt => exact Laws.execMoverHalt_same h
  | moverPermissionError => exact Laws.execMoverPermissionError_same h
  | sourceLatch => exact Laws.execSourceLatch_same h
  | srcSetpWrite => exact Laws.execSrcSetpWrite_same h
  | srcPendWrite => exact Laws.execSrcPendWrite_same h
  | holdOffExpiry => exact Laws.execHoldOffExpiry_same h
  | coalesceExpiry => exact Laws.execCoalesceExpiry_same h
  | acknowledge => exact Laws.execAcknowledge_same h
  | endOfInterrupt => exact Laws.execEndOfInterrupt_same h
  | watermarkStickyClear => exact Laws.execWatermarkStickyClear_same h
  | mailboxInWrite => exact Laws.execMailboxInWrite_same h
  | mailboxOutWrite => exact Laws.execMailboxOutWrite_same h
  | mailboxTakeInbound => exact Laws.execMailboxTakeInbound_same h
  | mailboxTakeOutbound => exact Laws.execMailboxTakeOutbound_same h
  | watchdogExpiry => exact Laws.execWatchdogExpiry_same h
  | deadlineExpiry => exact Laws.execDeadlineExpiry_same h
  | stopTimeout => exact Laws.execStopTimeout_same h
  | fenceDrainExpiry => exact Laws.execFenceDrainExpiry_same h
  | computePartReset => exact Laws.execComputePartReset_same h
  | selfTestEnd => exact Laws.execSelfTestEnd_same h
  | computePartResetEnd => exact Laws.execComputePartResetEnd_same h
  | computePartResetTimeout => exact Laws.execComputePartResetTimeout_same h
  | hideKeyGenerated => exact Laws.execHideKeyGenerated_same h
  | hideScrubEnd => exact Laws.execHideScrubEnd_same h
  | kodRead => exact Laws.execKodRead_same h
  | kodWrite => exact Laws.execKodWrite_same h
  | kodDescribe => exact Laws.execKodDescribe_same h
  | mctpControl => exact Laws.execMctpControl_same h
  | profileSwitch => exact Laws.execProfileSwitch_same h
  | profileCopy => exact Laws.execProfileCopy_same h
  | firmwareStage => exact Laws.execFirmwareStage_same h
  | firmwareCommit => exact Laws.execFirmwareCommit_same h
  | shiftProgramStage => exact Laws.execShiftProgramStage_same h
  | shiftProgramCommit => exact Laws.execShiftProgramCommit_same h
  | shiftProgramStore => exact Laws.execShiftProgramStore_same h
  | hideReset => exact Laws.execHideReset_same h
  | pendingLiveApply => exact Laws.execPendingLiveApply_same h
  | configStoreCommit => exact Laws.execConfigStoreCommit_same h
  | journalMirrorCopy => exact Laws.execJournalMirrorCopy_same h
  | paceMeasurement => exact Laws.execPaceMeasurement_same h
  | avsRequest => exact Laws.execAvsRequest_same h
  | floorMiss => exact Laws.execFloorMiss_same h
  | avsReadback => exact Laws.execAvsReadback_same h
  | avsRetry => exact Laws.execAvsRetry_same h
  | powerCapAdjust => exact Laws.execPowerCapAdjust_same h
  | thermalSample => exact Laws.execThermalSample_same h
  | furlongSleep => exact Laws.execFurlongSleep_same h
  | furlongWake => exact Laws.execFurlongWake_same h
  | rtcTrim => exact Laws.execRtcTrim_same h
  | timeRefLoss => exact Laws.execTimeRefLoss_same h
  | powerLossAlarm => exact Laws.execPowerLossAlarm_same h
  | vbatLow => exact Laws.execVbatLow_same h
  | tamper => exact Laws.execTamper_same h
  | alarmPosting => exact Laws.execAlarmPosting_same h
  | entropyReady => exact Laws.execEntropyReady_same h
  | entropyHealthFailure => exact Laws.execEntropyHealthFailure_same h
  | debugRequest => exact Laws.execDebugRequest_same h
  | debugOpen => exact Laws.execDebugOpen_same h
  | clockedTestMode => exact Laws.execClockedTestMode_same h
  | tapBypass => exact Laws.execTapBypass_same h
  | tapIdcode => exact Laws.execTapIdcode_same h
  | powerOnReset => exact Laws.execPowerOnReset_same h
  | warmReset => exact Laws.execWarmReset_same h
  | firmwareStart => exact Laws.execFirmwareStart_same h
  | hideStart => exact Laws.execHideStart_same h
  | firmwareRestart => exact Laws.execFirmwareRestart_same h
  | stackPortReady => exact Laws.execStackPortReady_same h
  | stackPortDown => exact Laws.execStackPortDown_same h
  | stackReadResponse => exact Laws.execStackReadResponse_same h
  | hostReadCompletion => exact Laws.execHostReadCompletion_same h
  | cxlMemRequest => exact Laws.execCxlMemRequest_same h
  | engineAttach => exact Laws.execEngineAttach_same h
  | engineDetach => exact Laws.execEngineDetach_same h
  | engineRequest => exact Laws.execEngineRequest_same h
  | engineProgress => exact Laws.execEngineProgress_same h
  | engineHeld => exact Laws.execEngineHeld_same h
  | engineReleased => exact Laws.execEngineReleased_same h
  | enginePaused => exact Laws.execEnginePaused_same h
  | engineDrainTimeout => exact Laws.execEngineDrainTimeout_same h
  | linkPhyUp => exact Laws.execLinkPhyUp_same h
  | linkPhyDown => exact Laws.execLinkPhyDown_same h
  | flitReceive => exact Laws.execFlitReceive_same h
  | linkAckTimeout => exact Laws.execLinkAckTimeout_same h
  | helloTimer => exact Laws.execHelloTimer_same h
  | hello => exact Laws.execHello_same h
  | linkmap => exact Laws.execLinkmap_same h
  | routeCompute => exact Laws.execRouteCompute_same h
  | routesInPlace => exact Laws.execRoutesInPlace_same h
  | ready => exact Laws.execReady_same h
  | go => exact Laws.execGo_same h
  | epochTableExpiry => exact Laws.execEpochTableExpiry_same h
  | rd => exact Laws.execRd_same h
  | wr => exact Laws.execWr_same h
  | atom => exact Laws.execAtom_same h
  | coh => exact Laws.execCoh_same h
  | mvw => exact Laws.execMvw_same h
  | remoteEvsig => exact Laws.execRemoteEvsig_same h
  | remoteEvwait => exact Laws.execRemoteEvwait_same h
  | snp => exact Laws.execSnp_same h
  | rdRsp => exact Laws.execRdRsp_same h
  | wrAck => exact Laws.execWrAck_same h
  | atomRsp => exact Laws.execAtomRsp_same h
  | cohRsp => exact Laws.execCohRsp_same h
  | snpAck => exact Laws.execSnpAck_same h
  | reservedOk => exact Laws.execReservedOk_same h
  | wake => exact Laws.execWake_same h
  | errRsp => exact Laws.execErrRsp_same h
  | remoteRequestTimeout => exact Laws.execRemoteRequestTimeout_same h
  | flowControlCreditReturn => exact Laws.execFlowControlCreditReturn_same h
  | creditSilenceExpiry => exact Laws.execCreditSilenceExpiry_same h
  | illegalEncoding => exact Laws.execIllegalEncoding_same h
  | alwaysOnPowerUp => exact Laws.execAlwaysOnPowerUp_same h
  | entdaa => exact Laws.execEntdaa_same h
  | vfEnableChange => exact Laws.execVfEnableChange_same h
  | warmrstAssertion => exact Laws.execWarmrstAssertion_same h

/-- The queue of waiting commands is in no command's list. -/
theorem testBit_pending_mayChange (c : Instr) : (fields (mayChange c)).testBit Field.pending.idx = false := by
  unfold mayChange
  split <;> rfl

/-- Settles O6. Each command's frame is the one of its `exec` (`exec_same`); the queue is in no command's list
(`testBit_pending_mayChange`). -/
theorem everyCommandChangesOnlyItsFields : Obligations.EveryCommandChangesOnlyItsFields :=
  ⟨fun _ _ _ => exec_same, fun c _ _ h => (exec_same h).get .pending (testBit_pending_mayChange c)⟩

/-- Settles O1. The step takes the front command off the queue before it runs it. -/
theorem stepRunsTheFrontCommand : Obligations.StepRunsTheFrontCommand := fun _ _ => rfl

/-- Settles O4. At reset local memory, the exposed units and the known bytes of other memory are empty. -/
theorem resetMemoryIsCanonical : Obligations.ResetMemoryIsCanonical := by
  unfold Obligations.ResetMemoryIsCanonical State.memOk
  have hmem : State.reset.mem.wf = true := rfl
  have hexposed : twf State.reset.exposed = true := rfl
  have hext : twf State.reset.ext = true := rfl
  rw [hmem, hexposed, hext]
  rfl

end Sys2Proof.Proofs
end

section
/-! Proofs about the sleep of a furlong (R35, R510, R578). -/

namespace Sys2Proof.Proofs

open Sys2Proof.Machine Sys2Proof.Claims

section
variable {s t : State} {f : Fin 16}

/-- Going to sleep changes the power state's furlong lists alone; a test mode stays (R510, R578). -/
theorem testMode_execFurlongSleep (h : execFurlongSleep f s = .next t) : t.pow.testMode = s.pow.testMode := by
  have hcores (g : Nat → Core → Core) (l : List Nat) :
      (l.foldl (fun u c => u.updCore (coreIdx f.val c) (g c)) s).pow = s.pow :=
    List.foldlRecOn (motive := fun u : State => u.pow = s.pow) l _ rfl fun _ hu _ _ => hu
  injection h with h
  subst h
  split
  case h_1 => rfl
  case h_2 =>
    dsimp only
    split
    case isTrue =>
      rw [State.updPow, hcores]
    case isFalse => rfl

/-- Under test every furlong counts as powered (R578). -/
theorem furlongOn_of_testMode (h : s.pow.testMode.isSome = true) (n : Nat) : s.furlongOn n = true := by
  simp [State.furlongOn, h]

theorem furlongOn_after_sleep_under_test (hm : s.pow.testMode.isSome = true) (h : exec (.furlongSleep f) s = .next t)
    (n : Nat) : t.furlongOn n = true :=
  furlongOn_of_testMode (by rw [testMode_execFurlongSleep h, hm]) n

end

/-- A block in a clocked test mode whose furlong 0 is idle for longer than the sleep delay of its hide. -/
def idleUnderTest : State :=
  { kod := { run := [(kodKey 0x3000 7, 0), (kodKey 0x4000 0x0C, 1)] }, btime := 5000, pow := { testMode := some none } }

/-- Refutes O40: in a clocked test mode a furlong that goes to sleep still counts as powered, since every furlong does
there (`furlongOn_after_sleep_under_test`); the statement says that a furlong which has gone to sleep does not. -/
theorem not_pacePowerAndSleep : ¬ Obligations.PacePowerAndSleep := by
  unfold Obligations.PacePowerAndSleep
  rintro ⟨-, -, -, -, -, -, -, -, -, -, -, -, -, -, hsleep, -⟩
  obtain ⟨t, ht, hoff, -⟩ := hsleep 0 0 idleUnderTest (by decide +kernel) (by decide +kernel) (by decide +kernel)
    rfl ⟨rfl, rfl⟩ (by decide +kernel) rfl
  have hon : t.furlongOn (0 : Fin 16).val = true := furlongOn_after_sleep_under_test rfl ht _
  exact Bool.noConfusion (hoff.symm.trans hon)

end Sys2Proof.Proofs
end

section
/-! Proofs about the always-on domain, entropy, debug entry and the test access port (R511 to R518, R522, R523, R571, R577,
R578). -/

namespace Sys2Proof.Proofs

open Sys2Proof.Machine Sys2Proof.Claims

section
variable {s : State}

/-! ## Alarms of PD_AO (R513, R514) -/

theorem aoAlarm_only (s : State) (code : Nat) : Same (fields [.free, .cores, .eg, .ao]) s (s.aoAlarm code) :=
  Laws.aoAlarm_same s code rfl (Laws.Same.refl _ s)

/-! ## Every hide stops at once (R516, R523) -/

/-- A hide without its key, held out of service. -/
def zeroisedHide (x : Hide) : Hide := { x with key := 0, heldOut := true, recKind := 0, fullStep := 0 }

/-- A hide is zeroised, and what its memory held cannot be recovered. -/
def zeroiseHide (s : State) (h : Nat) : State := (s.updHide h zeroisedHide).rekey h

theorem zeroiseAll_eq (s : State) :
    s.zeroiseAll = (List.range 8).foldl zeroiseHide (s.updPow (fun p => { p with zeroised := true })) := rfl

theorem rekey_only (s : State) (h : Nat) : Same (fields [.mem, .exposed, .scrubbed]) s (s.rekey h) :=
  Laws.rekey_same s h rfl (Laws.Same.refl _ s)

/-- A change that settles a property of each hide of a list, and undoes it for none. -/
theorem hide_of_foldl_settles {P : Hide → Prop} {f : State → Nat → State} {l : List Nat} {h : Nat}
    (hset : ∀ t k, P ((f t k).hide k)) (hkeep : ∀ t k, P (t.hide h) → P ((f t k).hide h))
    (hh : h ∈ l ∨ P (s.hide h)) : P ((l.foldl f s).hide h) := by
  induction l generalizing s with
  | nil => exact hh.resolve_left List.not_mem_nil
  | cons k l ih =>
    rw [List.foldl_cons]
    refine ih ?_
    by_cases hk : h = k
    · rw [hk]
      exact .inr (hset s k)
    · exact hh.imp (fun hm => (List.mem_cons.1 hm).resolve_left hk) (hkeep s k)

/-- A hide that has no key and is held out of service. -/
def Zeroised (x : Hide) : Prop := x.key = 0 ∧ x.heldOut = true

theorem hide_zeroiseHide (h k : Nat) :
    (zeroiseHide s h).hide k = if k = h then zeroisedHide (s.hide h) else s.hide k := by
  rw [zeroiseHide, hide_of_hides ((rekey_only _ h).get .hides rfl), State.hide_updHide]

theorem zeroised_zeroiseAll {h : Nat} (hh : h < 8) : Zeroised (s.zeroiseAll.hide h) := by
  rw [zeroiseAll_eq]
  refine hide_of_foldl_settles (fun t k => ?_) (fun t k hz => ?_) (.inl (List.mem_range.2 hh))
  · rw [hide_zeroiseHide, if_pos rfl]
    exact ⟨rfl, rfl⟩
  · rw [hide_zeroiseHide]
    split
    · exact ⟨rfl, rfl⟩
    · exact hz

theorem pow_zeroiseAll (s : State) : s.zeroiseAll.pow = { s.pow with zeroised := true } := by
  rw [zeroiseAll_eq]
  exact List.foldlRecOn (motive := fun t : State => t.pow = { s.pow with zeroised := true }) (List.range 8) _ rfl
    fun t ht h _ => ((rekey_only (t.updHide h zeroisedHide) h).get .pow rfl).trans ht

theorem zeroiseAll_only (s : State) : Same (fields [.mem, .exposed, .scrubbed, .hides, .pow]) s s.zeroiseAll :=
  Laws.zeroiseAll_same s rfl (Laws.Same.refl _ s)

theorem pow_updPow (s : State) (f : Power → Power) : (s.updPow f).pow = f s.pow := rfl

/-! ## A tamper (R516) -/

/-- The state in which a tamper is logged. -/
def tamperedState (s : State) : State := (s.updPow (fun p => { p with tamperLow := true })).aoAlarm 2

/-- A hide is stopped by its recovery. -/
def stoppedState (s : State) (h : Nat) : State := s.updHide h (fun x => { x with recovery := true })

theorem pow_tamperedState (s : State) : (tamperedState s).pow = { s.pow with tamperLow := true } :=
  (aoAlarm_only (s.updPow (fun p => { p with tamperLow := true })) 2).get .pow rfl

theorem zeroised_stoppedState {h : Nat} (k : Nat) (hz : Zeroised (s.hide h)) : Zeroised ((stoppedState s k).hide h) := by
  rw [stoppedState, State.hide_updHide]
  split
  case isTrue hk =>
    rw [hk] at hz
    exact hz
  case isFalse => exact hz

theorem execTamper_of_logged (ha : s.pow.aoUp = true) (h : s.pow.boot = .off ∨ s.ao.tamperAct ≠ 1) :
    execTamper s = .next (tamperedState s) := by
  have hoff : ¬ (s.pow.boot != .off && s.ao.tamperAct == 1) = true := by
    obtain h | h := h <;> simp [h]
  simp only [execTamper, ha, Bool.not_true, Bool.false_eq_true, if_false, if_neg hoff, tamperedState]

theorem execTamper_of_stop (ha : s.pow.aoUp = true) (hb : s.pow.boot ≠ .off) (ht : s.ao.tamperAct = 1) :
    execTamper s = .next ((tamperedState s).zeroiseAll.hideList.foldl stoppedState (tamperedState s).zeroiseAll) := by
  have hon : (s.pow.boot != .off && s.ao.tamperAct == 1) = true := by simp [hb, ht]
  simp only [execTamper, ha, Bool.not_true, Bool.false_eq_true, if_false, hon, if_true]
  rfl

theorem pow_foldl_stoppedState (l : List Nat) : (l.foldl stoppedState s).pow = s.pow :=
  List.foldlRecOn (motive := fun t : State => t.pow = s.pow) l _ rfl fun _ ht _ _ => ht

theorem zeroised_foldl_stoppedState (l : List Nat) {h : Nat} (hz : Zeroised (s.hide h)) :
    Zeroised ((l.foldl stoppedState s).hide h) := by
  induction l generalizing s with
  | nil => exact hz
  | cons k l ih => exact ih (zeroised_stoppedState k hz)

/-! ## The scrub of debug entry (R523) -/

/-- A core whose SRAM reads as zero. -/
def scrubbedCore (k : Core) : Core :=
  { k with chains := [], sb := [], dcache := [], icache := [], mxq := [], ls := [], unit := {} }

theorem core_scrubSram (i : Nat) : s.scrubSram.core i = scrubbedCore (s.core i) :=
  tget_mapByKey s.cores (fun _ => scrubbedCore) i rfl

end

/-! ## The IDCODE (R577) -/

/-- A nibble, a half word, 11 bits and the lowest bit are 32 bits. -/
theorem idcode_fields_lt {stepping jedec : Nat} (hs : stepping < 2 ^ 8) (hj : jedec < 2 ^ 11) :
    stepping / 16 * 2 ^ 28 + 0x4B31 * 2 ^ 12 + jedec * 2 + 1 < 2 ^ 32 := by omega

theorem toNat_idcode : idcode.toNat =
    Config.stepping.toNat / 16 * 2 ^ 28 + 0x4B31 * 2 ^ 12 + Config.jedec.toNat * 2 + 1 :=
  (BitVec.toNat_ofNat _ 32).trans (Nat.mod_eq_of_lt (idcode_fields_lt Config.stepping.isLt Config.jedec.isLt))

/-- The lowest bit is 1, and bits 27:12 are the part number. -/
theorem idcode_fields {stepping jedec : Nat} (hj : jedec < 2 ^ 11) :
    (stepping / 16 * 2 ^ 28 + 0x4B31 * 2 ^ 12 + jedec * 2 + 1) % 2 = 1 ∧
      (stepping / 16 * 2 ^ 28 + 0x4B31 * 2 ^ 12 + jedec * 2 + 1) / 2 ^ 12 % 2 ^ 16 = 0x4B31 := by omega

/-- Settles O41. An alarm changes its own fields alone (`aoAlarm_only`); a zeroisation takes the key of every hide
(`zeroised_zeroiseAll`); the scrub empties every core alike (`core_scrubSram`). -/
theorem alwaysOnEntropyAndDebug : Obligations.AlwaysOnEntropyAndDebug := by
  unfold Obligations.AlwaysOnEntropyAndDebug
  refine ⟨fun _ => rfl, ?timeRef, ?power, ?cell, fun s => execTamper_of_logged, ?tamper, ?posting, ?entropy, ?request, ?opens,
    ?closed, ?mode, ?tap⟩
  case timeRef =>
    intro s hb hl
    exact congrArg Host.Outcome.next (if_neg (by simp [hb, hl]))
  case power =>
    intro s ha hb
    have halarm := aoAlarm_only (s.wipe true) 4
    refine ⟨_, congrArg Host.Outcome.next (if_pos (by simp [ha, hb])), ?_, ?_, ?_, ?_, fun h => ?_, ?_⟩
    · rw [halarm.get .pow rfl]
      rfl
    · exact halarm.get .mem rfl
    · exact halarm.get .live rfl
    · exact halarm.get .cmds rfl
    · rw [hide_of_hides (halarm.get .hides rfl), hide_wipe]
      exact (hideAfter_stopped true _).1
    · rw [halarm.get .kod rfl]
      rfl
  case cell =>
    intro s ha
    exact congrArg Host.Outcome.next (if_pos ha)
  case tamper =>
    intro s ha hb ht
    refine ⟨_, execTamper_of_stop ha hb ht, ?_, ?_, fun h hh => ?_⟩
    · rw [pow_foldl_stoppedState, pow_zeroiseAll]
    · rw [pow_foldl_stoppedState, pow_zeroiseAll, pow_tamperedState]
    · have hz : Zeroised ((tamperedState s).zeroiseAll.hide h) := zeroised_zeroiseAll hh
      exact zeroised_foldl_stoppedState _ hz
  case posting =>
    intro s hr
    exact congrArg Host.Outcome.next (if_pos hr)
  case entropy =>
    intro s hr
    exact ⟨congrArg Host.Outcome.next (if_pos hr), congrArg Host.Outcome.next (if_pos hr)⟩
  case request =>
    intro s hb hd
    have hall := zeroiseAll_only s
    refine ⟨_, congrArg Host.Outcome.next (if_neg (by simp [hb, hd])), ?_⟩
    rw [State.updPow_cmds, State.updPow_kod, pow_updPow, pow_zeroiseAll]
    refine ⟨rfl, rfl, fun h hh => ?_, hall.get .cmds rfl, hall.get .kod rfl⟩
    rw [State.updPow_hide_at]
    exact zeroised_zeroiseAll hh
  case opens =>
    intro s hd
    refine ⟨_, congrArg Host.Outcome.next (if_pos (by simp [hd])), rfl, rfl, rfl, rfl, rfl, rfl, fun i => ?_⟩
    rw [State.updPow_core_at, core_scrubSram]
    exact ⟨rfl, rfl, rfl, rfl⟩
  case closed =>
    intro m s hd
    exact ⟨congrArg Host.Outcome.next (if_neg (by simp [hd])), congrArg Host.Outcome.next (if_neg (by simp [hd]))⟩
  case mode =>
    intro m s hd
    exact congrArg Host.Outcome.next (if_pos (by simp [hd]))
  case tap =>
    intro s
    refine ⟨rfl, rfl, ?_⟩
    rw [toNat_idcode]
    exact idcode_fields Config.jedec.isLt

end Sys2Proof.Proofs
end

section
/-! Proofs about requests to the object dictionary (R476 to R487, R496). -/

namespace Sys2Proof.Proofs

open Sys2Proof.Machine Sys2Proof.Claims

section
variable {s : State} {r : KodReq} {e : KodEnt}

/-! ## What the server does with a request (R478, R482) -/

/-- A profile that a request can name: one of the four, or the values in effect (R478). -/
def namesProfile (r : KodReq) : Prop := r.prof < 4 ∨ r.prof = 7

theorem not_profile_error (h : namesProfile r) : ¬ (4 ≤ r.prof ∧ r.prof ≠ 7) := by
  unfold namesProfile at h
  omega

theorem kodServe_read_of_ok (h : s.kodErr false r = none) : s.kodServe opRead r = s.kodAnswer r 0 (s.kodBytes r) := by
  simp [State.kodServe, h]

theorem kodServe_read_of_err {code : Nat} (h : s.kodErr false r = some code) :
    s.kodServe opRead r = s.kodAnswer r code [] := by
  simp [State.kodServe, h]

theorem kodServe_write_eq (s : State) (r : KodReq) : s.kodServe opWrite r =
    (s.kodWriteReq (s.kodSource r.src).1 (s.kodSource r.src).2 r).1.kodAnswer r
      (s.kodWriteReq (s.kodSource r.src).1 (s.kodSource r.src).2 r).2 [] := rfl

theorem kodServe_describe (hp : namesProfile r) (he : kodEntry r.idx r.sub = some e) :
    s.kodServe opDescribe r = s.kodAnswer r 0 (s.kodDescription e r.idx r.sub) := by
  have hop : opDescribe ≠ opRead ∧ opDescribe ≠ opWrite := by decide
  rw [State.kodServe, if_neg hop.1, if_neg hop.2, if_pos rfl, if_neg (not_profile_error hp), he]

theorem kodErr_of_absent (wr : Bool) (hp : namesProfile r) (he : kodEntry r.idx r.sub = none) :
    s.kodErr wr r = some 0x10 := by
  rw [State.kodErr, if_neg (not_profile_error hp), he]

/-! ## A write and its journal entry (R479, R496, R497) -/

theorem kodWriteReq_of_err {code : Nat} (he : kodEntry r.idx r.sub = some e) (hr : s.kodErr true r = some code)
    (hty : r.ty < 7) (source req : Nat) : s.kodWriteReq source req r =
      (s.journal source r.prof req r.idx r.sub code (journalForm e (s.oldOf e r)) (reqVal r), code) := by
  simp [State.kodWriteReq, he, hr, hty]

/-- An accepted write answers 1 where the value waits for a restart, else 0 (R479). -/
def writeCode (e : KodEnt) (r : KodReq) : Nat := if r.prof = 7 ∧ e.persist ∧ e.kind ≠ 0 then 1 else 0

theorem writeCode_le (e : KodEnt) (r : KodReq) : writeCode e r = 0 ∨ writeCode e r = 1 := by
  unfold writeCode
  split
  · exact .inr rfl
  · exact .inl rfl

theorem journalForm_of_number (hty : e.ty < 7) (v : Nat) : journalForm e v = v := if_pos hty

theorem newVal_of_number (hty : e.ty < 7) (old : Nat) : newVal e old r = e.keep (reqVal r) := if_pos hty

theorem newForm_of_number (hty : e.ty < 7) : s.newForm e r = e.keep (reqVal r) := by
  have hblob : ¬ (e.acc = 3 ∧ 7 ≤ e.ty) := by omega
  rw [State.newForm, if_neg hblob, journalForm_of_number hty, newVal_of_number hty]

theorem kodWriteReq_of_ok (he : kodEntry r.idx r.sub = some e) (hr : s.kodErr true r = none) (hty : e.ty < 7)
    (source req : Nat) : s.kodWriteReq source req r =
      ((s.journal source r.prof req r.idx r.sub (writeCode e r) (s.oldOf e r) (e.keep (reqVal r))).kodPerform e r,
        writeCode e r) := by
  rw [State.kodWriteReq, he, hr]
  dsimp only
  rw [journalForm_of_number hty, newForm_of_number hty]
  rfl

/-! ## Live values (R477, R487, R491) -/

/-- A value of the scheduling range behind the hides' own takes effect at once, and asks for nothing else. -/
theorem applyLive_of_sched {idx : Nat} (h : 0x5010 ≤ idx ∧ idx < 0x6000) (sub v : Nat) :
    s.applyLive idx sub v =
      ({ s with kod := { s.kod with heldLive := terase s.kod.heldLive (kodKey idx sub) } } : State).setRun idx sub v := by
  have hhide : ¬ (0x3000 ≤ idx ∧ idx < 0x3008) := by omega
  have hmove : idx ≠ 0x3020 := by omega
  have hpace : idx ≠ 0x4000 := by omega
  have hao : idx ≠ 0x4010 := by omega
  have hfn : ¬ (0x7000 ≤ idx) := by omega
  have hsched : ¬ (idx < 0x5008) := by omega
  simp only [State.applyLive, State.liveWaits, Bool.false_eq_true, if_false, State.setLive, if_neg hmove, hpace,
    hao, hfn, hsched, false_and, and_false, ← and_assoc, hhide]

/-- A live number written to the values in effect is stored in the active profile too. -/
theorem kodPerform_of_live (hl : e.persist = true ∧ e.kind = 0) (hty : e.ty < 7) (hp : r.prof = 7) :
    s.kodPerform e r = (s.setStored s.kod.active r.idx r.sub (e.keep (reqVal r))).applyLive r.idx r.sub
      (e.keep (reqVal r)) := by
  obtain ⟨hpers, hkind⟩ := hl
  simp [State.kodPerform, hpers, hkind, hp, newVal_of_number hty]

/-! ## The register window (R481) -/

/-- The window holds the request until it is answered. -/
def windowTaken (s : State) (op : Nat) (r : KodReq) : State :=
  { s with kod := { s.kod with kwReq := kodHeader op r r.len, busy := true, done := false } }

theorem kodErr_windowTaken (op : Nat) (wr : Bool) : (windowTaken s op r).kodErr wr r = s.kodErr wr r := rfl

theorem kodBytes_windowTaken (op : Nat) : (windowTaken s op r).kodBytes r = s.kodBytes r := rfl

/-- The management controller runs: PD_CTL is up, and WARMRST_N does not hold it (R37). -/
theorem running_of_ctlUp (hc : s.ctlUp = true) (hb : s.pow.boot ≠ .warmHeld) : s.running = true := by
  simpa [State.running, State.ctlUp, hb] using hc

/-- The window takes a request while it is not busy and the PF is not being reset (R292). -/
theorem kodRequest_of_window (hrun : s.running = true) (hfw : s.pow.fwUp = true) (hopen : s.kodOpen .window = true)
    (hsrc : r.src = .window) (hbusy : s.kod.busy = false) (hreset : (s.fn 0).resetting = false) (op : Nat) :
    s.kodRequest op r = (windowTaken s op r).kodServe op r := by
  have htaken : (!s.kodOpen r.src || (r.src == .window && (s.kod.busy || (s.fn 0).resetting))) = false := by
    simp [hsrc, hopen, hbusy, hreset]
  simp only [State.kodRequest, hrun, htaken, if_pos hsrc, if_pos hfw, Bool.not_true, Bool.false_eq_true, if_false, windowTaken]

theorem kodRequest_of_busy (hrun : s.running = true) (hsrc : r.src = .window) (hbusy : s.kod.busy = true) (op : Nat) :
    s.kodRequest op r = s := by
  simp [State.kodRequest, hrun, hsrc, hbusy]

theorem kodRequest_of_stopped (h : s.running = false) (op : Nat) :
    s.kodRequest op r = s.emit (.transportError (some r.src)) := by
  simp [State.kodRequest, h]

/-- Without firmware a request from another transport is kept, where there is a place for it (R482, R530). -/
theorem kodRequest_of_kept (hrun : s.running = true) (hfw : s.pow.fwUp = false) (hopen : s.kodOpen r.src = true)
    (hsrc : r.src ≠ .window) (op : Nat) : s.kodRequest op r =
      if s.kod.reqs.length < 16 then { s with kod := { s.kod with reqs := s.kod.reqs ++ [(op, r)] } }
      else s.kodAnswer r 0x16 [] := by
  simp [State.kodRequest, hrun, hopen, hsrc, hfw]

end

/-- Settles O38. The server's answers come from `kodServe` alone, a write's journal entry from `kodWriteReq`
(`kodWriteReq_of_err`, `kodWriteReq_of_ok`); what the window holds while it is busy changes no answer
(`kodErr_windowTaken`, `kodBytes_windowTaken`). -/
theorem dictionaryRequests : Obligations.DictionaryRequests := by
  unfold Obligations.DictionaryRequests
  refine ⟨?read, ?readFails, fun wr r s => kodErr_of_absent wr, ?refused, ?accepted, ?live, ?describe, ?window, ?busy, ?kept,
    ?stopped, ?mctp⟩
  case read =>
    intro r s h hr
    rw [← kodServe_read_of_ok hr, ← kodRequest_of_serves h]
    rfl
  case readFails =>
    intro r code s h hr
    rw [← kodServe_read_of_err hr, ← kodRequest_of_serves h]
    rfl
  case refused =>
    intro r e code s h he hr hty
    have hserved := (kodRequest_of_serves h opWrite).trans (kodServe_write_eq s r)
    rw [kodWriteReq_of_err he hr hty] at hserved
    exact congrArg Host.Outcome.next hserved
  case accepted =>
    intro r e s h he hr hty
    have hserved := (kodRequest_of_serves h opWrite).trans (kodServe_write_eq s r)
    rw [kodWriteReq_of_ok he hr hty] at hserved
    exact ⟨writeCode e r, writeCode_le e r, congrArg Host.Outcome.next hserved⟩
  case live =>
    rintro r e s - ⟨hpers, hkind, hty, -⟩ hp hidx
    rw [kodPerform_of_live ⟨hpers, hkind⟩ hty hp, applyLive_of_sched hidx]
    simp [State.setRun, State.setStored]
  case describe =>
    intro r e s h hp he
    rw [← kodServe_describe hp he, ← kodRequest_of_serves h]
    rfl
  case window =>
    intro r s hc hb hfw hopen hsrc hbusy hreset hr
    have hserved := kodRequest_of_window (running_of_ctlUp hc hb) hfw hopen hsrc hbusy hreset opRead
    rw [kodServe_read_of_ok ((kodErr_windowTaken opRead false).trans hr), kodBytes_windowTaken] at hserved
    refine ⟨_, congrArg Host.Outcome.next hserved, ?_⟩
    rw [State.kodAnswer, hsrc]
    exact ⟨rfl, rfl, rfl, rfl, rfl, rfl, rfl⟩
  case busy =>
    intro r s hrun hsrc hbusy
    exact ⟨congrArg _ (kodRequest_of_busy hrun hsrc hbusy opRead), congrArg _ (kodRequest_of_busy hrun hsrc hbusy opWrite),
      congrArg _ (kodRequest_of_busy hrun hsrc hbusy opDescribe)⟩
  case kept =>
    intro r s hc hb hfw hopen hsrc
    exact congrArg Host.Outcome.next (kodRequest_of_kept (running_of_ctlUp hc hb) hfw hopen hsrc opRead)
  case stopped =>
    intro r s hrun
    exact ⟨congrArg _ (kodRequest_of_stopped hrun opRead), congrArg _ (kodRequest_of_stopped hrun opWrite),
      congrArg _ (kodRequest_of_stopped hrun opDescribe)⟩
  case mctp =>
    intro e s hc
    have hup : ¬ (!s.ctlUp) = true := by simp [hc]
    exact ⟨congrArg Host.Outcome.next (if_neg hup), congrArg Host.Outcome.next (if_neg hup)⟩

end Sys2Proof.Proofs
end

section
/-! Proofs about link states, HELLO, the link-state map and flits (R531 to R539, R562). -/

namespace Sys2Proof.Proofs

open Sys2Proof.Machine Sys2Proof.Claims

section
variable {s t : State} {p : Nat}

/-! ## A Link Port's record -/

theorem link_updLink (s : State) (p k : Nat) (f : Link → Link) :
    (s.updLink p f).link k = if k = p then f (s.link p) else s.link k  := Laws.tget_tupd s.fab.links p k {} f

@[simp] theorem link_updLink_self (s : State) (p : Nat) (f : Link → Link) : (s.updLink p f).link p = f (s.link p) :=
  (link_updLink s p p f).trans (if_pos rfl)

theorem link_of_fab (h : t.fab = s.fab) (p : Nat) : t.link p = s.link p := by
  rw [State.link, State.link, h]

theorem link_emit (s : State) (o : Out) (p : Nat) : (s.emit o).link p = s.link p := rfl

theorem latch_only (s : State) (n : Nat) : Same (fields [.cores, .eg]) s (s.latch n) :=
  Laws.latch_same s n rfl (Laws.Same.refl _ s)

theorem fab_latch (s : State) (n : Nat) : (s.latch n).fab = s.fab := (latch_only s n).get .fab rfl

theorem linkRecord_only (s : State) (port kind peer retries : Nat) :
    Same (fields [.mem, .exposed, .ext, .fns, .ao, .out]) s (s.linkRecord port kind peer retries) :=
  Laws.linkRecord_same s port kind peer retries rfl (Laws.Same.refl _ s)

theorem fab_linkRecord (s : State) (port kind peer retries : Nat) : (s.linkRecord port kind peer retries).fab = s.fab :=
  (linkRecord_only s port kind peer retries).get .fab rfl

/-- A port in another link state. -/
def inState (st : LkSt) (l : Link) : Link := { l with st := st }

/-- A change of link state changes that state alone in the fabric. -/
theorem fab_linkState (s : State) (st : LkSt) (h : (s.link p).st ≠ st) :
    (s.linkState p st).fab = (s.updLink p (inState st)).fab := by
  rw [State.linkState, if_neg h, fab_latch]
  rfl

theorem link_linkState (s : State) (p : Nat) (st : LkSt) : (s.linkState p st).link p = inState st (s.link p) := by
  by_cases h : (s.link p).st = st
  · rw [State.linkState, if_pos h, inState, ← h]
  · rw [link_of_fab (fab_linkState s st h), link_updLink_self]

theorem seq_linkState (s : State) (p : Nat) (st : LkSt) : (s.linkState p st).fab.seq = s.fab.seq := by
  by_cases h : (s.link p).st = st
  · rw [State.linkState, if_pos h]
  · rw [fab_linkState s st h]
    rfl

/-! ## Messages that leave on several ports -/

theorem foldl_emit_only {α : Type} (f : α → Out) (l : List α) (s : State) :
    Same (fields [.out]) s (l.foldl (fun t a => t.emit (f a)) s) :=
  Laws.Same.foldl l (fun t a => Laws.emit_same t (f a) rfl) (Laws.Same.refl _ s)

theorem mem_out_foldl_emit {α : Type} (f : α → Out) (l : List α) (s : State) {o : Out}
    (h : o ∈ s.out ∨ ∃ a ∈ l, o = f a) : o ∈ (l.foldl (fun t a => t.emit (f a)) s).out := by
  induction l generalizing s with
  | nil => simpa using h
  | cons b l ih =>
    refine ih (s.emit (f b)) ?_
    obtain h | ⟨a, ha, rfl⟩ := h
    · exact .inl (List.mem_cons_of_mem _ h)
    · obtain rfl | ha := List.mem_cons.1 ha
      · exact .inl List.mem_cons_self
      · exact .inr ⟨a, ha, rfl⟩

/-! ## A link that goes down, and one that comes up (R534, R537 to R539) -/

/-- A port that keeps nothing of what was under way. -/
def cleared (l : Link) : Link :=
  { l with heardOk := false, txSeq := 0, rxSeq := 0, retry := [], txq := [], nakSent := false, naks := 0, credits := [],
           owed := [] }

theorem linkDown_of_not_up (s : State) (st : LkSt) (h : (s.link p).st ≠ .up) :
    s.linkDown p st = (s.linkState p st).updLink p cleared := if_neg h

/-- The map with a node's record. -/
def mapWith (s : State) (r : LmRec) : State :=
  ({ s with fab := { s.fab with map := tset s.fab.map r.node r } } : State).mapChanged

theorem mapWith_only (s : State) (r : LmRec) : Same (fields [.fab]) s (mapWith s r) :=
  Laws.mapChanged_same _ rfl (Laws.Same.fab_upd rfl (Laws.Same.refl _ s))

/-- The own record's next number. -/
def numbered (s : State) : State := { s with fab := { s.fab with seq := s.fab.seq + 1 } }

theorem linksChanged_eq (s : State) : s.linksChanged =
    (mapWith (numbered s) (numbered s).ownRec).upPorts.foldl (fun t q => t.emit (.linkmap q (numbered s).ownRec))
      (mapWith (numbered s) (numbered s).ownRec) := rfl

/-- The own record goes out with the next number; the links themselves stay. -/
theorem fab_linksChanged (s : State) : s.linksChanged.fab.seq = s.fab.seq + 1 ∧ s.linksChanged.fab.state = 1 ∧
    s.linksChanged.fab.links = s.fab.links := by
  rw [linksChanged_eq, (foldl_emit_only _ _ _).get .fab rfl]
  exact ⟨rfl, rfl, rfl⟩

/-- A port whose peer has said HELLO. -/
def greeted (node port : Nat) (at_ : Nat) (l : Link) : Link :=
  { l with peer := node, peerPort := port, heardOk := true, txSeq := 0, rxSeq := 0, retry := [], nakSent := false, naks := 0,
           credits := freshCredits, owed := [], ackAt := at_ }

/-- The port is UP and its record is out; its peer does not yet have the map. -/
def linkGreeted (s : State) (p node port : Nat) : State :=
  ((s.linkState p .up).updLink p (greeted node port s.btime.toNat)).linkRecord p 0 node
    (((s.linkState p .up).updLink p (greeted node port s.btime.toNat)).link p).replays

theorem linkUp_eq (s : State) (p node port : Nat) : s.linkUp p node port =
    (((linkGreeted s p node port).fab.map.filter (fun e => e.1 != s.nodeId)).foldl (fun t e => t.emit (.linkmap p e.2))
      (linkGreeted s p node port)).linksChanged := rfl

theorem link_linkGreeted (s : State) (p node port : Nat) :
    (linkGreeted s p node port).link p = greeted node port s.btime.toNat (inState .up (s.link p)) := by
  rw [linkGreeted, link_of_fab (fab_linkRecord _ _ _ _ _), link_updLink_self, link_linkState]

theorem seq_linkGreeted (s : State) (p node port : Nat) : (linkGreeted s p node port).fab.seq = s.fab.seq := by
  rw [linkGreeted, fab_linkRecord]
  exact seq_linkState s p .up

theorem fab_linkUp (s : State) (p node port : Nat) :
    (s.linkUp p node port).link p = greeted node port s.btime.toNat (inState .up (s.link p)) ∧
      (s.linkUp p node port).fab.seq = s.fab.seq + 1 ∧ (s.linkUp p node port).fab.state = 1 := by
  have hsent := (foldl_emit_only (fun e : Nat × LmRec => .linkmap p e.2)
    ((linkGreeted s p node port).fab.map.filter (fun e => e.1 != s.nodeId)) (linkGreeted s p node port)).get .fab rfl
  obtain ⟨hseq, hstate, hlinks⟩ := fab_linksChanged
    (((linkGreeted s p node port).fab.map.filter (fun e => e.1 != s.nodeId)).foldl (fun t e => t.emit (.linkmap p e.2))
      (linkGreeted s p node port))
  rw [linkUp_eq]
  refine ⟨?_, ?_, hstate⟩
  · rw [← link_linkGreeted, State.link, State.link, hlinks, hsent]
  · rw [hseq, hsent, seq_linkGreeted]

/-! ## HELLO (R538) -/

/-- The HELLO is that of the peer which the descriptor gives. -/
def goodHello (s : State) (p n q : Nat) (crc : W32) : Bool :=
  crc.toNat == nbits s.topo 191 160 && topoPeer s.topo s.nodeId p == some (n, q)

theorem execHello_eq (p : Fin 32) (n : BitVec 14) (q : Fin 32) (crc : W32) (s : State) : execHello p n q crc s =
    .next (if !(s.link p.val).phy || (s.link p.val).st == .down || (s.link p.val).st == .training then s
      else if goodHello s p.val n.toNat q.val crc then
        (if (s.link p.val).st == .up then s else s.linkUp p.val n.toNat q.val)
      else if (s.link p.val).st == .miswired then s
      else (s.linkDown p.val .miswired).linkRecord p.val 3 n.toNat 0) := rfl

theorem goodHello_of_peer {n q : Nat} {crc : W32} (hc : crc.toNat = nbits s.topo 191 160)
    (hp : topoPeer s.topo s.nodeId p = some (n, q)) : goodHello s p n q crc = true := by
  simp [goodHello, hc, hp]

theorem goodHello_of_other {n q : Nat} {crc : W32}
    (h : crc.toNat ≠ nbits s.topo 191 160 ∨ topoPeer s.topo s.nodeId p ≠ some (n, q)) : goodHello s p n q crc = false := by
  rw [goodHello, Bool.and_eq_false_iff]
  exact h.imp beq_false_of_ne beq_false_of_ne

/-! ## The link-state map (R539) -/

/-- A record is new, or newer than the one held. -/
def isNewer (s : State) (r : LmRec) : Bool :=
  match tfind s.fab.map r.node with
  | some old => seqNewer r.seq old.seq
  | none => true

theorem isNewer_eq_all (s : State) (r : LmRec) :
    isNewer s r = (tfind s.fab.map r.node).all (fun o => seqNewer r.seq o.seq) := by
  unfold isNewer
  cases tfind s.fab.map r.node <;> rfl

/-- A record goes on over every other link that is up. -/
def floodOn (s : State) (p : Nat) (r : LmRec) : State :=
  (s.upPorts.filter (fun q => q != p)).foldl (fun t q => t.emit (.linkmap q r)) s

theorem execLinkmap_eq (p : Fin 32) (r : LmRec) (s : State) : execLinkmap p r s =
    .next (if (s.link p.val).st != .up then s
      else if r.node = s.nodeId then (if seqNewer r.seq s.fab.seq then s.ownNewer r.seq else s)
      else if isNewer s r then floodOn (mapWith s r) p.val r else s) := rfl

theorem floodOn_only (s : State) (p : Nat) (r : LmRec) : Same (fields [.out]) s (floodOn s p r) := foldl_emit_only _ _ s

theorem mem_out_floodOn {q : Nat} (r : LmRec) (hq : q ∈ s.upPorts) (hp : q ≠ p) : Out.linkmap q r ∈ (floodOn s p r).out :=
  mem_out_foldl_emit _ _ s (.inr ⟨q, List.mem_filter.2 ⟨hq, bne_iff_ne.2 hp⟩, rfl⟩)

/-! ## Flits (R531 to R534) -/

/-- Nothing that a flit's receiver looks at differs between two records of a port. -/
def SameReceiver (a b : Link) : Prop := b.st = a.st ∧ b.rx = a.rx ∧ b.rxSeq = a.rxSeq

/-- Credits that come back change the counters of credits alone. -/
theorem link_takeCredits (s : State) (p word : Nat) : ∃ c, (s.takeCredits p word).link p = { s.link p with credits := c } := by
  refine List.foldlRecOn (motive := fun t : State => ∃ c, t.link p = { s.link p with credits := c }) (List.range 4) _
    ⟨_, rfl⟩ fun t ht v _ => ?_
  obtain ⟨c, hc⟩ := ht
  rw [link_updLink_self, hc]
  exact ⟨_, rfl⟩

theorem pump_of_empty (h : (s.link p).txq = []) (n : Nat) : s.pump p n = s := by
  cases n with
  | zero => rfl
  | succ n => rw [State.pump, h]

/-- What a port sends changes nothing that its receiver looks at. -/
theorem sameReceiver_pump (s : State) (p n : Nat) : SameReceiver (s.link p) ((s.pump p n).link p) := by
  induction n generalizing s with
  | zero => exact ⟨rfl, rfl, rfl⟩
  | succ n ih =>
    rw [State.pump]
    split
    case h_1 => exact ⟨rfl, rfl, rfl⟩
    case h_2 m r hq =>
      split
      case isTrue => exact ⟨rfl, rfl, rfl⟩
      case isFalse =>
        obtain ⟨hst, hrx, hseq⟩ := ih ((s.updLink p (fun l => { l with
          txq := r, credits := tset l.credits (msgChan m) (tget l.credits (msgChan m) 0 - msgCost m),
          retry := l.retry ++ [(l.txSeq.toNat, [m])], txSeq := l.txSeq + 1, owed := credRest l.owed,
          ackAt := if l.retry.isEmpty then s.btime.toNat else l.ackAt })).emit (.link p m (credWord (s.link p).owed)))
        rw [link_emit, link_updLink_self] at hst hrx hseq
        exact ⟨hst, hrx, hseq⟩

/-- A port's record after the messages of a flit's body. -/
def received (b : List LMsg × Nat) (l : Link) : Link :=
  { l with rxSeq := l.rxSeq + 1, nakSent := false, rx := l.rx ++ b.1, protoErr := stickAdd 32 l.protoErr b.2 }

/-- A port's record after an ACK that leaves the rest of a retry buffer of some length. -/
def acked (rest : List (Nat × List LMsg)) (len at_ : Nat) (l : Link) : Link :=
  { l with retry := rest, ackAt := if rest.length < len then at_ else l.ackAt, naks := if rest.length < len then 0 else l.naks }

/-- A flit's ACK is taken. -/
def ackSeen (s : State) (p v : Nat) : State :=
  s.updLink p (acked (ackRetry (s.link p).retry (nbits v 27 16)) (s.link p).retry.length s.btime.toNat)

/-- A flit's ACK and CRED are taken, and what can go now has gone. -/
def ackTaken (s : State) (p v : Nat) : State :=
  ((ackSeen s p v).takeCredits p (nbits v 63 32)).pump p (((ackSeen s p v).link p).txq.length + 1)

/-- A flit's body is taken where it is in order, and asked for again where it is not. -/
def bodyTaken (s : State) (p v : Nat) : State :=
  if nbit v 65 ∨ (s.link p).st ≠ .up then s
  else if nbits v 11 0 = (s.link p).rxSeq.toNat then
    s.updLink p (received (parseBody 15 240 (v / 256 ^ 12 % 256 ^ 240)))
  else if (s.link p).nakSent then s
  else (s.updLink p (fun l => { l with nakSent := true })).emit (.nak p ((s.link p).rxSeq - 1).toNat)

theorem takeFlit_eq (s : State) (p v : Nat) : s.takeFlit p v =
    bodyTaken (if nbit v 64 then (ackTaken s p v).takeNak p (nbits v 27 16) else ackTaken s p v) p v := rfl

theorem link_credited (s : State) (p v : Nat) :
    ∃ c, ((ackSeen s p v).takeCredits p (nbits v 63 32)).link p =
      { acked (ackRetry (s.link p).retry (nbits v 27 16)) (s.link p).retry.length s.btime.toNat (s.link p) with
        credits := c } := by
  have h := link_takeCredits (ackSeen s p v) p (nbits v 63 32)
  rwa [ackSeen, link_updLink_self] at h

theorem sameReceiver_ackTaken (s : State) (p v : Nat) : SameReceiver (s.link p) ((ackTaken s p v).link p) := by
  obtain ⟨c, hc⟩ := link_credited s p v
  have hp := sameReceiver_pump ((ackSeen s p v).takeCredits p (nbits v 63 32)) p (((ackSeen s p v).link p).txq.length + 1)
  rw [hc] at hp
  exact hp

theorem retry_ackTaken (v : Nat) (h : (s.link p).txq = []) :
    ((ackTaken s p v).link p).retry = ackRetry (s.link p).retry (nbits v 27 16) := by
  obtain ⟨c, hc⟩ := link_credited s p v
  have hq : (((ackSeen s p v).takeCredits p (nbits v 63 32)).link p).txq = [] := by
    rw [hc]
    exact h
  rw [ackTaken, pump_of_empty hq, hc]
  rfl

/-- A flit in order, without a NAK and not of ACK and CRED alone. -/
theorem takeFlit_in_order {v : Nat} (hup : (s.link p).st = .up) (hnak : nbit v 64 = false) (honly : nbit v 65 = false)
    (hseq : nbits v 11 0 = (s.link p).rxSeq.toNat) :
    s.takeFlit p v = (ackTaken s p v).updLink p (received (parseBody 15 240 (v / 256 ^ 12 % 256 ^ 240))) := by
  obtain ⟨hst, -, hrxSeq⟩ := sameReceiver_ackTaken s p v
  have hnak' : ¬ nbit v 64 = true := by simp [hnak]
  have htaken : (if nbit v 64 = true then (ackTaken s p v).takeNak p (nbits v 27 16) else ackTaken s p v) = ackTaken s p v :=
    if_neg hnak'
  have hgo : ¬ (nbit v 65 = true ∨ ((ackTaken s p v).link p).st ≠ .up) := by simp [honly, hst, hup]
  have horder : nbits v 11 0 = ((ackTaken s p v).link p).rxSeq.toNat := by rw [hseq, hrxSeq]
  rw [takeFlit_eq, htaken, bodyTaken, if_neg hgo, if_pos horder]

/-! ## Messages of a body, and the retry buffer (R532, R534) -/

theorem parseBody_buffered {n room v : Nat} (hroom : 16 ≤ room) (hv : v % 256 ≠ 0) (hlen : (parseHeader v).len ≤ 128)
    (hfit : 16 + (parseHeader v).len ≤ room) (hk : kindBuffered (parseHeader v).kind.toNat = true) :
    (parseBody (n + 1) room v).1 = { parseHeader v with data := leBytes (parseHeader v).len (v / 256 ^ 16) } ::
      (parseBody n (room - 16 - (parseHeader v).len) (v / 256 ^ (16 + (parseHeader v).len))).1 := by
  have hmore : ¬ (room < 16 ∨ v % 256 = 0) := by omega
  have hwhole : ¬ (128 < (parseHeader v).len ∨ room < 16 + (parseHeader v).len) := by omega
  rw [parseBody, if_neg hmore, if_neg hwhole, if_pos hk]

theorem parseHeader_fields (v : Nat) : (parseHeader v).kind.toNat = v % 256 ∧
    (parseHeader v).dst.toNat = v / 2 ^ 32 % 2 ^ 14 ∧ (parseHeader v).addr.toNat = v / 2 ^ 88 % 2 ^ 40 :=
  ⟨BitVec.toNat_ofNat v 8, BitVec.toNat_ofNat (v / 2 ^ 32) 14, BitVec.toNat_ofNat (v / 2 ^ 88) 40⟩

theorem ackRetry_append {a b : List (Nat × List LMsg)} {e : Nat × List LMsg} (h : ∀ x ∈ a, x.1 ≠ e.1) :
    ackRetry (a ++ e :: b) e.1 = b := by
  have hany : (a ++ e :: b).any (fun x => x.1 == e.1) = true := by simp
  have hdrop : (a ++ e :: b).dropWhile (fun x => x.1 != e.1) = e :: b := by
    rw [List.dropWhile_append_of_pos fun x hx => bne_iff_ne.2 (h x hx)]
    exact List.dropWhile_cons_of_neg (by simp)
  rw [ackRetry, if_pos hany, hdrop]
  rfl

end

/-- Settles O44. Latches and records leave the fabric as it is (`fab_latch`, `fab_linkRecord`); credits and what a port
sends leave what its receiver looks at (`sameReceiver_ackTaken`). -/
theorem linkDiscoveryAndFlits : Obligations.LinkDiscoveryAndFlits := by
  unfold Obligations.LinkDiscoveryAndFlits
  refine ⟨?phyUp, ?invalid, ?phyDown, ?down, ?helloTimer, ?goodHello, ?otherHello, ?up, ?newer, ?older, ?badFlit, ?goodFlit,
    ?inOrder, ?body, fun a b e => ackRetry_append, ?ackTimeout⟩
  case phyUp =>
    intro p s hon hdup hphy hv
    exact congrArg Host.Outcome.next ((if_neg (by simp [hon, hdup, hphy])).trans (if_pos hv))
  case invalid =>
    intro p s hon hdup hphy hv
    exact congrArg Host.Outcome.next ((if_neg (by simp [hon, hdup, hphy])).trans (if_neg (by simp [hv])))
  case phyDown =>
    intro p s hphy hon hdup
    have hst : (if s.portOn p.val && !s.fab.dupDown then LkSt.training else .down) = .training := if_pos (by simp [hon, hdup])
    have hexec : execLinkPhyDown p s = .next ((s.updLink p.val (fun l => { l with phy := false })).linkDown p.val
        (if s.portOn p.val && !s.fab.dupDown then .training else .down)) := congrArg Host.Outcome.next (if_pos hphy)
    rw [hst] at hexec
    exact hexec
  case down =>
    intro p st s h
    rw [linkDown_of_not_up s st h, link_updLink_self, link_linkState]
    exact ⟨rfl, rfl, rfl, rfl, rfl⟩
  case helloTimer =>
    intro p s hphy hst
    exact congrArg Host.Outcome.next (if_pos (by simp [hphy, hst]))
  case goodHello =>
    intro p n q crc s hphy hst hcrc hpeer
    have hup : (s.link p.val).st ≠ .up := by
      obtain h | h := hst <;> simp [h]
    have hon : ¬ (!(s.link p.val).phy || (s.link p.val).st == .down || (s.link p.val).st == .training) = true := by
      obtain h | h := hst <;> simp [h, hphy]
    refine (execHello_eq p n q crc s).trans ?_
    rw [if_neg hon, if_pos (goodHello_of_peer hcrc hpeer), if_neg (by simp [hup])]
  case otherHello =>
    intro p n q crc s hphy hst hother
    have hmis : (s.link p.val).st ≠ .miswired := by
      obtain h | h := hst <;> simp [h]
    have hon : ¬ (!(s.link p.val).phy || (s.link p.val).st == .down || (s.link p.val).st == .training) = true := by
      obtain h | h := hst <;> simp [h, hphy]
    refine (execHello_eq p n q crc s).trans ?_
    rw [if_neg hon, if_neg (by simp [goodHello_of_other hother]), if_neg (by simp [hmis])]
  case up =>
    intro p n q s _ _
    obtain ⟨hlink, hseq, hstate⟩ := fab_linkUp s p n q
    rw [hlink]
    exact ⟨rfl, rfl, rfl, hseq, hstate⟩
  case newer =>
    intro p r s hup hnode hnew
    have hflood := floodOn_only (mapWith s r) p.val r
    have hports : (mapWith s r).upPorts = s.upPorts := rfl
    refine ⟨floodOn (mapWith s r) p.val r, ?_, ?_, ?_, ?_, ?_, fun q hq hp => ?_, ?_⟩
    · refine (execLinkmap_eq p r s).trans ?_
      rw [if_neg (by simp [hup]), if_neg hnode, if_pos ((isNewer_eq_all s r).trans hnew)]
    · rw [hflood.get .fab rfl]
      exact (Laws.tfind_tset s.fab.map r.node r.node r).trans (if_pos rfl)
    · rw [hflood.get .fab rfl]
      rfl
    · rw [hflood.get .fab rfl]
      rfl
    · rw [hflood.get .fab rfl]
      rfl
    · exact mem_out_floodOn r (hports ▸ hq) hp
    · exact Laws.Same.after hflood rfl (Laws.Same.weaken (mapWith_only s r) rfl)
  case older =>
    intro p r o s hnode hheld hold
    have hnot : isNewer s r = false := by rw [isNewer_eq_all, hheld, Option.all_some, hold]
    refine (execLinkmap_eq p r s).trans ?_
    rw [if_neg hnode, hnot, if_neg Bool.false_ne_true, ite_self]
  case badFlit =>
    intro p v bad s hup hbad
    have hbad' : (bad || (crc32 (leBytes 252 v.toNat)).toNat != nbits v.toNat 2047 2016) = true := by
      rw [Bool.or_eq_true]
      exact hbad.imp_right bne_iff_ne.2
    exact congrArg Host.Outcome.next ((if_neg (not_not_intro hup)).trans (if_pos hbad'))
  case goodFlit =>
    intro p v s hup hcrc
    exact congrArg Host.Outcome.next ((if_neg (not_not_intro hup)).trans (if_neg (by simp [hcrc])))
  case inOrder =>
    intro p v s hup hnak honly hseq
    obtain ⟨-, hrx, hrxSeq⟩ := sameReceiver_ackTaken s p v
    rw [takeFlit_in_order hup hnak honly hseq, link_updLink_self, ← hrx, ← hrxSeq]
    exact ⟨rfl, rfl, rfl, retry_ackTaken v⟩
  case body =>
    intro n room v hroom hv hlen hfit hk
    exact ⟨parseBody_buffered hroom hv hlen hfit hk, parseHeader_fields v⟩
  case ackTimeout =>
    intro p s hup hretry hlate
    exact congrArg Host.Outcome.next (if_pos (by simp [hup, hretry, hlate]))

end Sys2Proof.Proofs
end

section
/-! Proofs about the full reset of a hide (R466 to R468, R520). -/

namespace Sys2Proof.Proofs

open Sys2Proof.Machine Sys2Proof.Claims

/-! ## Hides that differ in their queues alone -/

/-- Two records of a hide differ at most in its engine queues and its acre. -/
def SameButQueues (a b : Hide) : Prop := ∃ engQ acre, b = { a with engQ := engQ, acre := acre }

/-- Every hide differs at most in its engine queues and its acre. -/
def HidesKept (s t : State) : Prop := ∀ h, SameButQueues (s.hide h) (t.hide h)

theorem SameButQueues.trans {a b c : Hide} (hab : SameButQueues a b) (hbc : SameButQueues b c) : SameButQueues a c := by
  obtain ⟨_, _, rfl⟩ := hab
  obtain ⟨q, w, rfl⟩ := hbc
  exact ⟨q, w, rfl⟩

section
variable {s t u : State} {h : Nat}

theorem hidesKept_of_hides (ht : t.hides = s.hides) : HidesKept s t := fun h => ⟨_, _, hide_of_hides ht h⟩

theorem HidesKept.trans (hst : HidesKept s t) (htu : HidesKept t u) : HidesKept s u := fun h => (hst h).trans (htu h)

theorem HidesKept.foldl {α : Type} {f : State → α → State} (l : List α) (hf : ∀ t a, HidesKept t (f t a)) (s : State) :
    HidesKept s (l.foldl f s) :=
  List.foldlRecOn (motive := HidesKept s) l f (hidesKept_of_hides rfl) fun t ht a _ => ht.trans (hf t a)

theorem hidesKept_updHide {f : Hide → Hide} (hf : ∀ x, SameButQueues x (f x)) : HidesKept s (s.updHide h f) := by
  intro k
  rw [State.hide_updHide]
  split
  case isTrue hk => exact hk ▸ hf (s.hide h)
  case isFalse => exact ⟨_, _, rfl⟩

theorem hidesKept_unqueue (cid : Nat) : HidesKept s (s.unqueue cid h) := hidesKept_updHide fun _ => ⟨_, _, rfl⟩

theorem hidesKept_updAcre (f : Acre → Acre) : HidesKept s (s.updAcre h f) := hidesKept_updHide fun _ => ⟨_, _, rfl⟩

/-- The fields that a completion changes, its hide's queues apart. -/
def completionFields : Nat := fields [.mem, .exposed, .ext, .fns, .cmds, .ctxs, .ao, .out]

/-- Of a hide's record a command that completes changes its place in the queues alone. -/
theorem complete_unqueues {c : Cmd} {cid : Nat} (hc : s.cmd? cid = some c) (st : Nat) (err : Option ErrInfo) :
    ∃ v, Same completionFields s v ∧ Same completionFields (v.unqueue cid c.hide) (s.complete cid st err) := by
  rw [State.complete, hc]
  refine ⟨_, Laws.dropCmd_same _ _ rfl (Laws.countCompletion_same _ _ _ _ rfl ?_), Laws.stopRecord_same _ _ _ rfl
    (Laws.payCq_same _ _ _ rfl (Laws.Same.refl completionFields _))⟩
  have hrec : Same completionFields s (match err with
      | some e => s.postErr c.fn c.ctx c.ssn c.q st e.typ e.body
      | none => s) := by
    cases err with
    | none => exact Laws.Same.refl _ s
    | some e => exact Laws.postErr_same _ _ _ _ _ _ _ _ rfl (Laws.Same.refl _ s)
  split
  · exact hrec
  · exact Laws.oweCq_same _ _ _ _ _ rfl (Laws.decided_same _ _ rfl hrec)

theorem hidesKept_complete (cid st : Nat) (err : Option ErrInfo) : HidesKept s (s.complete cid st err) := by
  cases hc : s.cmd? cid with
  | none => exact hidesKept_of_hides (congrArg State.hides (complete_of_unknown hc))
  | some c =>
    obtain ⟨v, hsv, hvt⟩ := complete_unqueues hc st err
    exact (hidesKept_of_hides (hsv.get .hides rfl)).trans
      ((hidesKept_unqueue cid).trans (hidesKept_of_hides (hvt.get .hides rfl)))

theorem hidesKept_rehome (n : Nat) : HidesKept s (s.rehome n) := by
  refine HidesKept.foldl _ (fun t c => ?_) s
  split
  case h_1 => exact hidesKept_complete c.cid 0x19 _
  case h_2 =>
    split
    · exact hidesKept_of_hides rfl
    · exact hidesKept_of_hides rfl

/-! ## The start of a full reset (R466) -/

theorem holdGroups_only (s : State) (h : Nat) (on : Bool) : Same (fields [.cores, .eg]) s (s.holdGroups h on) :=
  Laws.holdGroups_same s h on rfl (Laws.Same.refl _ s)

/-- A hide whose full reset starts. -/
def enteredFull (s : State) (trigger : Nat) (x y : Hide) : Hide :=
  { y with recovery := true, recKind := 2, recFrom := if x.recovery then x.recFrom else s.btime.toNat, recTrigger := trigger,
           recFailed := if x.recovery then x.recFailed else 0, fullStep := 1, fenceFrom := none, key := 1 }

/-- The reset has started, and the groups of the hide are held. -/
def fullStarted (s : State) (h trigger : Nat) : State :=
  (s.updHide h (enteredFull s trigger (s.hide h))).holdGroups h true

/-- The contexts of a hide are destroyed. -/
def contextsGone (s : State) (h : Nat) : State :=
  (s.live.filter (fun c => (s.ctx c).hide == h)).foldl (fun t c => t.destroyCtx c 0x1B (some (commandErr 7 0)) none) s

/-- A hide with the next epoch, empty queues and an empty acre that holds the image of its slot. -/
def emptiedHide (img : Option Shift) (n : Nat) (y : Hide) : Hide :=
  { y with recFailed := y.recFailed + n, epoch := y.epoch + 1, engQ := [], resetSave := 0, pendSeqs := [],
           acre := { bankA := img, bankI := none, blocked := true } }

/-- The hide's cores are zero, its restart values are in effect, and its functions' commands have followed them. -/
def valuesApplied (s : State) (h : Nat) : State := (s.fnsOf h).foldl (fun t n => t.rehome n) ((s.scrubCores h).applyHide h)

/-- The rest of the start: Stack Ports are reset, and readiness and timers follow. -/
def portsReset (s : State) (h : Nat) : State :=
  ((s.portsOfHide h).foldl (fun t p => t.emit (.stackReset p)) (s.readShift h)).refreshAll.retime

/-- Commands of a hide that a full reset ends. -/
def fullCount (s : State) (h : Nat) : Nat := (s.cmds.filter (fun c => c.hide == h && c.stage.isNone)).length

theorem startFull_eq (trigger : Nat) (hkind : (s.hide h).recKind ≠ 2) (hz : s.pow.zeroised = false) : s.startFull h trigger =
    portsReset ((valuesApplied (contextsGone (fullStarted s h trigger) h) h).updHide h
      (emptiedHide (tfind s.kod.shiftSlots h) (fullCount (fullStarted s h trigger) h))) h :=
  if_neg (by simp [hkind, hz])

theorem contextsGone_of_none (hl : s.live = []) : contextsGone s h = s := by
  rw [contextsGone, hl]
  rfl

theorem hidesKept_valuesApplied : HidesKept s (valuesApplied s h) := by
  have hscrub : (s.scrubCores h).hides = s.hides :=
    (Laws.scrubCores_same s h rfl (Laws.Same.refl (fields [.cores]) s)).get .hides rfl
  have happly : ((s.scrubCores h).applyHide h).hides = (s.scrubCores h).hides :=
    (Laws.applyHide_same _ h rfl (Laws.Same.refl (fields [.mem, .exposed, .scrubbed, .ext, .fns, .kod, .ao, .pow, .out])
      (s.scrubCores h))).get .hides rfl
  exact (hidesKept_of_hides (happly.trans hscrub)).trans (HidesKept.foldl _ (fun _ n => hidesKept_rehome n) _)

theorem hides_retime (s : State) : s.retime.hides = s.hides := rfl

theorem hides_portsReset : (portsReset s h).hides = s.hides := by
  have hread : Same (fields [.out]) s (s.readShift h) := Laws.readShift_same s h rfl (Laws.Same.refl _ s)
  rw [portsReset, hides_retime, (refreshAll_only _).get .hides rfl, (foldl_emit_only _ _ _).get .hides rfl, hread.get .hides rfl]

/-- The hide of a full reset that has started, where the block has no context. -/
theorem hide_startFull (trigger : Nat) (hkind : (s.hide h).recKind ≠ 2) (hz : s.pow.zeroised = false) (hl : s.live = []) :
    ∃ img n y, SameButQueues (enteredFull s trigger (s.hide h) (s.hide h)) y ∧
      (s.startFull h trigger).hide h = emptiedHide img n y := by
  have hheld := holdGroups_only (s.updHide h (enteredFull s trigger (s.hide h))) h true
  have hentered : (fullStarted s h trigger).hide h = enteredFull s trigger (s.hide h) (s.hide h) := by
    rw [fullStarted, hide_of_hides (hheld.get .hides rfl), State.hide_updHide, if_pos rfl]
  have hlive : (fullStarted s h trigger).live = [] := (hheld.get .live rfl).trans hl
  rw [startFull_eq trigger hkind hz, contextsGone_of_none hlive, hide_of_hides hides_portsReset, State.hide_updHide, if_pos rfl,
    ← hentered]
  exact ⟨_, _, _, hidesKept_valuesApplied h, rfl⟩

/-! ## The new key (R467, R520) -/

theorem get_clear (m : Memory) (b n a : Nat) : (m.clear b n).get a = if b ≤ a ∧ a < b + n then 0 else m.get a := by
  induction m with
  | nil => exact (ite_self _).symm
  | cons c m ih =>
    obtain ⟨j, x⟩ := c
    have hclear : Memory.clear ((j, x) :: m) b n =
        if j < b ∨ b + n ≤ j then (j, x) :: Memory.clear m b n else Memory.clear m b n := by
      simp only [Memory.clear, List.filter_cons, Bool.or_eq_true, decide_eq_true_eq]
    rw [hclear]
    by_cases hj : j = a
    · subst hj
      split
      case isTrue hout =>
        have hin : ¬ (b ≤ j ∧ j < b + n) := by omega
        rw [if_neg hin]
        exact (if_pos rfl).trans (if_pos rfl).symm
      case isFalse hin => rw [ih, if_pos (by omega), if_pos (by omega)]
    · have hget (r : Memory) : Memory.get ((j, x) :: r) a = r.get a := if_neg hj
      rw [hget]
      split
      · rw [hget, ih]
      · exact ih

/-- The list of the units that are cleared holds the address, or the byte was zero already. -/
theorem get_foldl_clear {us : List Nat} {m : Memory} {a : Nat} (h : a / 2 ^ 32 ∈ us ∨ m.get a = 0) :
    (us.foldl (fun m u => m.clear (u * 2 ^ 32) (2 ^ 32)) m).get a = 0 := by
  induction us generalizing m with
  | nil => exact h.resolve_left List.not_mem_nil
  | cons u us ih =>
    refine ih ?_
    rw [get_clear]
    by_cases hu : a / 2 ^ 32 = u
    · exact .inr (if_pos (by omega))
    · obtain h | h := h
      · exact .inl ((List.mem_cons.1 h).resolve_left hu)
      · exact .inr (by rw [h, ite_self])

/-- Nothing that a unit of the hide held is recovered under a new key. -/
theorem get_mem_rekey {a : Nat} (hu : a / 2 ^ 32 < 0xC0) (hk : s.unitKind (a / 2 ^ 32) ≠ 0) (hh : s.unitHide (a / 2 ^ 32) = h) :
    (s.rekey h).mem.get a = 0 :=
  get_foldl_clear (.inl (List.mem_filter.2 ⟨List.mem_range.2 hu, Bool.and_eq_true_iff.2 ⟨bne_iff_ne.2 hk, beq_iff_eq.2 hh⟩⟩))

/-- A hide whose key pair is a draw of the DRBG. -/
def newlyKeyed (draw : Nat) (y : Hide) : Hide := { y with key := 2, keyDraw := draw }

/-- A hide's new key pair has been drawn. -/
def keyDrawn (s : State) (h : Nat) : State := (s.updHide h (newlyKeyed s.pow.draws)).drawNext

theorem hide_keyDrawn (s : State) (h : Nat) : (keyDrawn s h).hide h = newlyKeyed s.pow.draws (s.hide h) :=
  (State.hide_updHide s h h (newlyKeyed s.pow.draws)).trans (if_pos rfl)

theorem drawKey_eq (s : State) (h : Nat) : s.drawKey h = (keyDrawn s h).rekey h := rfl

/-! ## The end of a full reset (R466) -/

theorem hidesKept_startMoves : HidesKept s s.startMoves := by
  refine (hidesKept_of_hides ?_).trans (HidesKept.foldl _ (fun t m => ?_) _)
  · rfl
  · split
    · exact hidesKept_updAcre _
    · exact hidesKept_of_hides rfl

/-- A hide whose full reset has ended. -/
def leftFull (on blocked : Bool) (y : Hide) : Hide :=
  { y with recovery := false, recKind := 0, fullStep := 0, started := on, key := if on then y.key else 0,
           acre := { y.acre with blocked := blocked } }

theorem hide_endFull : ∃ blocked,
    SameButQueues (leftFull (s.hideExists h) blocked (s.hide h)) ((s.endFull h).hide h) := by
  refine ⟨s.drainsFor h, ?_⟩
  have hheld := holdGroups_only (s.updHide h (leftFull (s.hideExists h) (s.drainsFor h))) h false
  have hrec (v : State) (n g i k j : Nat) : (v.recoveryRecord n g i k j).hides = v.hides :=
    (Laws.recoveryRecord_same v n g i k j rfl (Laws.Same.refl (fields [.mem, .exposed, .ext, .fns, .ao, .out]) v)).get .hides rfl
  have hkept : HidesKept (s.updHide h (leftFull (s.hideExists h) (s.drainsFor h))) (s.endFull h) :=
    (hidesKept_of_hides (hheld.get .hides rfl)).trans ((hidesKept_of_hides (hrec _ 2 h _ _ _)).trans
      (hidesKept_startMoves.trans (hidesKept_of_hides ((refreshAll_only _).get .hides rfl))))
  have hk := hkept h
  rwa [State.hide_updHide, if_pos rfl] at hk

end

/-- Settles O37. Of a hide's record a completion changes the queues alone (`hidesKept_complete`), so that what the reset
sets stands when it waits for its key; a new key clears the units of the hide (`get_mem_rekey`). -/
theorem fullHideReset : Obligations.FullHideReset := by
  unfold Obligations.FullHideReset
  refine ⟨?again, ?start, ?noScrub, ?scrub, ?waits, ?newKey, ?scrubEnd, ?ends⟩
  case again =>
    intro h trigger s hk
    exact if_pos (.inl hk)
  case start =>
    intro h s hkind hz hl _
    obtain ⟨img, n, y, ⟨q, w, rfl⟩, hy⟩ := hide_startFull 0 hkind hz hl
    rw [hy]
    exact ⟨rfl, rfl, rfl, rfl, rfl, rfl, rfl⟩
  case noScrub =>
    intro h s hkind hstep hent hscrub
    exact congrArg Host.Outcome.next ((if_pos (by simp [hkind, hstep, hent])).trans (if_neg hscrub))
  case scrub =>
    intro h s hkind hstep hent hscrub
    exact congrArg Host.Outcome.next ((if_pos (by simp [hkind, hstep, hent])).trans (if_pos hscrub))
  case waits =>
    intro h s hent
    exact congrArg Host.Outcome.next (if_neg (by simp [hent]))
  case newKey =>
    intro h s
    have hrekey := rekey_only (keyDrawn s h) h
    rw [drawKey_eq, hide_of_hides (hrekey.get .hides rfl), hrekey.get .pow rfl, hide_keyDrawn]
    refine ⟨rfl, rfl, rfl, ?_⟩
    rintro u hu hk hh a rfl
    exact get_mem_rekey hu hk hh
  case scrubEnd =>
    intro h s hkind hstep hready
    exact congrArg Host.Outcome.next (if_pos (by simp only [hkind, hstep, hready]; decide))
  case ends =>
    intro h s _
    obtain ⟨blocked, q, w, hy⟩ := hide_endFull (s := s) (h := h)
    rw [hy]
    exact ⟨rfl, rfl, rfl⟩

end Sys2Proof.Proofs
end

section
/-! SUPPORT. What no command that ends changes in a core: whether the position is retired, and whether it has failed. -/

namespace Sys2Proof.Proofs

open Sys2Proof.Machine Sys2Proof.Claims

/-- What the self-test and the retirement of a position alone change (R146 to R149). -/
def wear (k : Core) : Bool × Bool := (k.retired, k.failed)

section
variable {s t : State} {n : Nat}

/-! ## What leaves every core as it is -/

theorem core_of_kept (h : Same (allBut .cores) s t) : t.core n = s.core n := core_of_cores (h.get .cores rfl) n

@[simp] theorem core_writeBytes (pa : Nat) (bs : List Byte) : (s.writeBytes pa bs).core n = s.core n :=
  core_of_kept (Laws.writeBytes_same s _ _ rfl (Laws.Same.refl _ s))

@[simp] theorem core_writeCells (xs : List (Nat × Byte)) : (s.writeCells xs).core n = s.core n :=
  core_of_kept (Laws.writeCells_same s _ rfl (Laws.Same.refl _ s))

@[simp] theorem core_emitWrites (fn : Nat) (runs : List (Nat × List Byte)) : (s.emitWrites fn runs).core n = s.core n :=
  core_of_kept (Laws.emitWrites_same s _ _ rfl (Laws.Same.refl _ s))

@[simp] theorem core_dropStore (as : List Nat) : (s.dropStore as).core n = s.core n :=
  core_of_kept (Laws.dropStore_same s _ rfl (Laws.Same.refl _ s))

@[simp] theorem core_decided (cid : Nat) : (s.decided cid).core n = s.core n :=
  core_of_kept (Laws.decided_same s _ rfl (Laws.Same.refl _ s))

@[simp] theorem core_unqueue (cid h : Nat) : (s.unqueue cid h).core n = s.core n :=
  core_of_kept (Laws.unqueue_same s _ _ rfl (Laws.Same.refl _ s))

@[simp] theorem core_complete (cid st : Nat) (err : Option ErrInfo) : (s.complete cid st err).core n = s.core n :=
  core_of_kept (Laws.complete_same s _ _ _ rfl (Laws.Same.refl _ s))

@[simp] theorem core_sendMsg (m : LMsg) : (s.sendMsg m).core n = s.core n :=
  core_of_kept (Laws.sendMsg_same s _ rfl (Laws.Same.refl _ s))

@[simp] theorem core_sendReq (m : LMsg) (core : Option (Nat × Nat × Nat)) (chan : Option (Nat × Nat)) (cid ctx : Nat) :
    (s.sendReq m core chan cid ctx).core n = s.core n :=
  core_of_kept (Laws.sendReq_same s _ _ _ _ _ rfl (Laws.Same.refl _ s))

@[simp] theorem core_lostSignal (c : Nat) : (s.lostSignal c).core n = s.core n :=
  core_of_kept (Laws.lostSignal_same s _ rfl (Laws.Same.refl _ s))

@[simp] theorem core_makeRoom (l : Nat) : (s.makeRoom l).core n = s.core n :=
  core_of_kept (Laws.makeRoom_same s _ rfl (Laws.Same.refl _ s))

@[simp] theorem core_useLine (l : Nat) : (s.useLine l).core n = s.core n :=
  core_of_kept (Laws.useLine_same s _ rfl (Laws.Same.refl _ s))

@[simp] theorem core_addRemoteWaiter (pa kind phase : Nat) (m : LMsg) :
    (s.addRemoteWaiter pa kind phase m).core n = s.core n :=
  core_of_kept (Laws.addRemoteWaiter_same s _ _ _ _ rfl (Laws.Same.refl _ s))

@[simp] theorem core_sendSnoops (l aux : Nat) (ts : List Nat) : (s.sendSnoops l aux ts).core n = s.core n :=
  core_of_kept (Laws.sendSnoops_same s _ _ _ rfl (Laws.Same.refl _ s))

@[simp] theorem core_cxlAnswer (tx : HomeTx) : (s.cxlAnswer tx).core n = s.core n :=
  core_of_kept (Laws.cxlAnswer_same s _ rfl (Laws.Same.refl _ s))

@[simp] theorem core_writeHeld (line : Nat) (cells : List (Nat × Byte)) : (s.writeHeld line cells).core n = s.core n :=
  core_of_kept (Laws.writeHeld_same s _ _ rfl (Laws.Same.refl _ s))

@[simp] theorem core_freeChan (m c : Nat) : (s.freeChan m c).core n = s.core n :=
  core_of_kept (Laws.freeChan_same s _ _ rfl (Laws.Same.refl _ s))

@[simp] theorem core_writeSlot (core : Nat) : (s.writeSlot core).core n = s.core n :=
  core_of_kept (Laws.writeSlot_same s _ rfl (Laws.Same.refl _ s))

@[simp] theorem core_dropChainWaiters (core slot : Nat) : (s.dropChainWaiters core slot).core n = s.core n :=
  core_of_kept (Laws.dropChainWaiters_same s _ _ rfl (Laws.Same.refl _ s))

@[simp] theorem core_acreBoundary (h : Nat) : (s.acreBoundary h).core n = s.core n :=
  core_of_kept (Laws.acreBoundary_same s _ rfl (Laws.Same.refl _ s))

@[simp] theorem core_wmCheck (d : Nat) : (s.wmCheck d).core n = s.core n :=
  core_of_kept (Laws.wmCheck_same s _ rfl (Laws.Same.refl _ s))

@[simp] theorem core_endWrites (cid st : Nat) (err : Option ErrInfo) : (s.endWrites cid st err).core n = s.core n :=
  core_of_kept (Laws.endWrites_same s _ _ _ rfl (Laws.Same.refl _ s))

@[simp] theorem core_abortForeign (c : Cmd) : (s.abortForeign c).core n = s.core n :=
  core_of_kept (Laws.abortForeign_same s _ rfl (Laws.Same.refl _ s))

@[simp] theorem core_unitRecord (core event h : Nat) : (s.unitRecord core event h).core n = s.core n :=
  core_of_kept (Laws.unitRecord_same s _ _ _ rfl (Laws.Same.refl _ s))

@[simp] theorem core_updAcre (h : Nat) (f : Acre → Acre) : (s.updAcre h f).core n = s.core n := rfl

@[simp] theorem core_updPlan (p : Nat) (f : Plan → Plan) : (s.updPlan p f).core n = s.core n :=
  core_of_kept (Laws.updPlan_same s _ _ rfl (Laws.Same.refl _ s))

/-! ## Ways to build a change of the state -/

@[simp] theorem wear_ite (c : Prop) [Decidable c] (a b : State) :
    wear ((if c then a else b).core n) = if c then wear (a.core n) else wear (b.core n) := by
  split <;> rfl

@[simp] theorem wear_foldl {α : Type} {f : State → α → State} (hf : ∀ t a, wear ((f t a).core n) = wear (t.core n))
    (l : List α) (s : State) : wear ((l.foldl f s).core n) = wear (s.core n) :=
  List.foldlRecOn (motive := fun t : State => wear (t.core n) = wear (s.core n)) l f rfl fun t ht a _ => (hf t a).trans ht

@[simp] theorem wear_updCore {f : Core → Core} (hr : ∀ k, (f k).retired = k.retired) (hf : ∀ k, (f k).failed = k.failed)
    (i : Nat) : wear ((s.updCore i f).core n) = wear (s.core n) := by
  rw [State.core_updCore]
  split
  case isTrue hn => rw [wear, hr, hf, hn, wear]
  case isFalse => rfl


/-! ## The Event Gatherer (R431 to R442) -/

@[simp] theorem wear_wakeControl (t : Nat) : wear ((s.wakeControl t).core n) = wear (s.core n) := by
  simp [State.wakeControl, -State.core_updCore]

@[simp] theorem wear_presentSrc (k : Nat) : wear ((s.presentSrc k).core n) = wear (s.core n) := by
  unfold State.presentSrc
  dsimp only
  split
  · rfl
  · split
    · simp
    · split
      · simp
      · split <;> simp

@[simp] theorem wear_presentGrp (g : Nat) : wear ((s.presentGrp g).core n) = wear (s.core n) := by
  simp [State.presentGrp]

@[simp] theorem wear_moderate (g : Nat) : wear ((s.moderate g).core n) = wear (s.core n) := by
  simp [State.moderate]

@[simp] theorem wear_latch (k : Nat) : wear ((s.latch k).core n) = wear (s.core n) := by
  simp [State.latch]

/-! ## Waiters and the objects that they wait on (R231 to R237) -/

@[simp] theorem wear_updChain (core slot : Nat) (f : Chain → Chain) :
    wear ((s.updChain core slot f).core n) = wear (s.core n) := by
  unfold State.updChain
  split
  · simp [-State.core_updCore]
  · rfl

@[simp] theorem wear_invalidateDcache (core : Nat) : wear ((s.invalidateDcache core).core n) = wear (s.core n) := by
  simp [State.invalidateDcache, -State.core_updCore]

@[simp] theorem wear_lsWrite (core a : Nat) (bs : List Byte) : wear ((s.lsWrite core a bs).core n) = wear (s.core n) := by
  simp [State.lsWrite, -State.core_updCore]

@[simp] theorem wear_objWrite (lsCore : Option Nat) (a k v : Nat) :
    wear ((s.objWrite lsCore a k v).core n) = wear (s.core n) := by
  unfold State.objWrite
  split <;> simp

@[simp] theorem wear_release (w : Waiter) : wear ((s.release w).core n) = wear (s.core n) := by
  unfold State.release
  split <;> simp

@[simp] theorem wear_serveCounting (lsCore : Option Nat) (a k : Nat) :
    wear ((s.serveCounting lsCore a k).core n) = wear (s.core n) := by
  induction k generalizing s with
  | zero => rfl
  | succ k ih =>
    rw [State.serveCounting]
    split
    · rfl
    · split
      · rfl
      · simp [ih]

@[simp] theorem wear_serveBarrier (lsCore : Option Nat) (a k : Nat) :
    wear ((s.serveBarrier lsCore a k).core n) = wear (s.core n) := by
  induction k generalizing s with
  | zero => rfl
  | succ k ih =>
    rw [State.serveBarrier]
    split
    · rfl
    · simp [ih]

@[simp] theorem wear_serveObj (w : Waiter) : wear ((s.serveObj w).core n) = wear (s.core n) := by
  simp [State.serveObj]

@[simp] theorem wear_serveWrites (lsCore : Option Nat) (as : List Nat) :
    wear ((s.serveWrites lsCore as).core n) = wear (s.core n) := by
  simp [State.serveWrites]

/-! ## Writes and transactions at the home of a line (R28, R356) -/

@[simp] theorem wear_homeWrite (cells : List (Nat × Byte)) : wear ((s.homeWrite cells).core n) = wear (s.core n) := by
  simp [State.homeWrite]

@[simp] theorem wear_signalCount (lsCore : Option Nat) (a k ctx : Nat) :
    wear ((s.signalCount lsCore a k ctx).core n) = wear (s.core n) := by
  simp [State.signalCount]

@[simp] theorem wear_arriveBarrier (lsCore : Option Nat) (a : Nat) :
    wear ((s.arriveBarrier lsCore a).core n) = wear (s.core n) := by
  simp [State.arriveBarrier]

@[simp] theorem wear_atomLane (core slot idx lane : Nat) (bs : List Byte) :
    wear ((s.atomLane core slot idx lane bs).core n) = wear (s.core n) := by
  unfold State.atomLane
  split
  · rfl
  · split
    · rfl
    · simp

@[simp] theorem wear_homeAtom (op : AtomOp) (size pa val cmp : Nat) :
    wear ((s.homeAtom op size pa val cmp).core n) = wear (s.core n) := by
  simp [State.homeAtom]

@[simp] theorem wear_coreAtom (core slot : Nat) (x : SbAtom) : wear ((s.coreAtom core slot x).core n) = wear (s.core n) := by
  simp [State.coreAtom]

@[simp] theorem wear_performMsg (m : LMsg) (grant : Nat) (holds : Bool) :
    wear ((s.performMsg m grant holds).core n) = wear (s.core n) := by
  unfold State.performMsg
  split <;> simp

@[simp] theorem wear_actTx (tx : HomeTx) (holds : Bool) : wear ((s.actTx tx holds).core n) = wear (s.core n) := by
  unfold State.actTx
  split
  · simp
  · simp
  · simp
  · split <;> simp

@[simp] theorem wear_serveLine (l : Nat) : wear ((s.serveLine l).core n) = wear (s.core n) := by
  simp [State.serveLine]

@[simp] theorem wear_performTx (l : Nat) (tx : HomeTx) : wear ((s.performTx l tx).core n) = wear (s.core n) := by
  simp [State.performTx]

@[simp] theorem wear_startTx (l : Nat) (tx : HomeTx) : wear ((s.startTx l tx).core n) = wear (s.core n) := by
  simp [State.startTx]

@[simp] theorem wear_startWaiting (slice : Nat) : wear ((s.startWaiting slice).core n) = wear (s.core n) := by
  unfold State.startWaiting
  split
  · split <;> simp
  · rfl

@[simp] theorem wear_evictEntry (slice : Nat) : wear ((s.evictEntry slice).core n) = wear (s.core n) := by
  unfold State.evictEntry
  dsimp only
  split
  · split <;> simp
  · rfl

@[simp] theorem wear_admitTx (l : Nat) (tx : HomeTx) : wear ((s.admitTx l tx).core n) = wear (s.core n) := by
  simp [State.admitTx]

@[simp] theorem wear_requestLine (l : Nat) (tx : HomeTx) : wear ((s.requestLine l tx).core n) = wear (s.core n) := by
  unfold State.requestLine
  dsimp only
  split
  · split
    · split <;> simp
    · simp
  · split <;> simp

@[simp] theorem wear_endTx (l : Nat) : wear ((s.endTx l).core n) = wear (s.core n) := by
  unfold State.endTx
  split
  · rfl
  · split
    · rfl
    · dsimp only
      split
      · split <;> simp
      · simp
      · simp

@[simp] theorem wear_requestOnce (l : Nat) (tx : HomeTx) : wear ((s.requestOnce l tx).core n) = wear (s.core n) := by
  simp [State.requestOnce]

/-! ## Posted writes -/

@[simp] theorem wear_postLine (id : Nat) (a : Asker) (na : Bool) (cells : List (Nat × Byte)) :
    wear ((s.postLine id a na cells).core n) = wear (s.core n) := by
  simp [State.postLine]

@[simp] theorem wear_post (id : Nat) (a : Asker) (na : Bool) (cells : List (Nat × Byte)) :
    wear ((s.post id a na cells).core n) = wear (s.core n) := by
  simp [State.post]

@[simp] theorem wear_postBytes (id : Nat) (a : Asker) (na : Bool) (pa : Nat) (bs : List Byte) :
    wear ((s.postBytes id a na pa bs).core n) = wear (s.core n) := by
  simp [State.postBytes]

@[simp] theorem wear_postSignal (id : Nat) (a : Asker) (pa k : Nat) :
    wear ((s.postSignal id a pa k).core n) = wear (s.core n) := by
  simp [State.postSignal]

/-! ## Movers (R412 to R426) -/

@[simp] theorem wear_chanWrite (m c a : Nat) (bs : List Byte) : wear ((s.chanWrite m c a bs).core n) = wear (s.core n) := by
  simp [State.chanWrite]

@[simp] theorem wear_endDesc (m c st residue : Nat) : wear ((s.endDesc m c st residue).core n) = wear (s.core n) := by
  unfold State.endDesc
  dsimp only
  split
  · rfl
  · simp

@[simp] theorem wear_paceCount (m c : Nat) (srcBytes dstBytes : Nat) :
    wear ((s.paceCount m c srcBytes dstBytes).core n) = wear (s.core n) := by
  simp [State.paceCount]

@[simp] theorem wear_writeBurst (m c : Nat) : wear ((s.writeBurst m c).core n) = wear (s.core n) := by
  unfold State.writeBurst
  dsimp only
  split
  · simp
  · rfl

@[simp] theorem wear_writeSome (m c : Nat) (na : Bool) (cells : List (Nat × Byte)) :
    wear ((s.writeSome m c na cells).core n) = wear (s.core n) := by
  simp [State.writeSome]

@[simp] theorem wear_abortChan (m c : Nat) : wear ((s.abortChan m c).core n) = wear (s.core n) := by
  unfold State.abortChan
  dsimp only
  split
  · simp
  · simp

/-! ## Groups, and what they hold of a core (R223, R244) -/

@[simp] theorem wear_wakeMx (core : Nat) : wear ((s.wakeMx core).core n) = wear (s.core n) := by
  simp [State.wakeMx, -State.core_updCore]

@[simp] theorem wear_installMx (core : Nat) : wear ((s.installMx core).core n) = wear (s.core n) := by
  unfold State.installMx
  split
  · rfl
  · dsimp only
    split <;> simp [-State.core_updCore]

@[simp] theorem wear_releaseUnit (core : Nat) : wear ((s.releaseUnit core).core n) = wear (s.core n) := by
  simp [State.releaseUnit, -State.core_updCore]

@[simp] theorem wear_leaveMxq (core slot : Nat) : wear ((s.leaveMxq core slot).core n) = wear (s.core n) := by
  simp [State.leaveMxq, -State.core_updCore]

@[simp] theorem wear_clearSlots (i : Nat) (l : List Nat) : wear ((s.clearSlots i l).core n) = wear (s.core n) := by
  induction l generalizing s with
  | nil => rfl
  | cons j l ih => simp [State.clearSlots, ih, -State.core_updCore]

@[simp] theorem wear_dropGroup (cid g : Nat) : wear ((s.dropGroup cid g).core n) = wear (s.core n) := by
  unfold State.dropGroup
  split
  · rfl
  · dsimp only
    split
    · rfl
    · split
      · exact (wear_releaseUnit _).trans (wear_clearSlots _ _)
      · exact wear_clearSlots _ _

@[simp] theorem wear_stopGroups (cid : Nat) : wear ((s.stopGroups cid).core n) = wear (s.core n) := by
  unfold State.stopGroups
  refine wear_foldl (fun t x => ?_) _ s
  split <;> simp

@[simp] theorem wear_dropGroups (cid : Nat) : wear ((s.dropGroups cid).core n) = wear (s.core n) := by
  simp [State.dropGroups]

@[simp] theorem wear_releaseUnits (h : Nat) : wear ((s.releaseUnits h).core n) = wear (s.core n) := by
  simp [State.releaseUnits, -State.core_updCore]

@[simp] theorem wear_acreLeft (h : Nat) : wear ((s.acreLeft h).core n) = wear (s.core n) := by
  simp [State.acreLeft]

@[simp] theorem wear_dropAcre (h cid : Nat) : wear ((s.dropAcre h cid).core n) = wear (s.core n) := by
  simp [State.dropAcre]

@[simp] theorem wear_dropChans (cid : Nat) : wear ((s.dropChans cid).core n) = wear (s.core n) := by
  simp [State.dropChans]

/-! ## Steps of plans (R280) -/

@[simp] theorem wear_freeSsb (cid c pa : Nat) : wear ((s.freeSsb cid c pa).core n) = wear (s.core n) := by
  simp [State.freeSsb]

@[simp] theorem wear_closeSeq (cid e : Nat) : wear ((s.closeSeq cid e).core n) = wear (s.core n) := by
  simp [State.closeSeq]

@[simp] theorem wear_closeWaiting (e : Nat) : wear ((s.closeWaiting e).core n) = wear (s.core n) := by
  unfold State.closeWaiting
  split <;> simp

@[simp] theorem wear_undoOne (cid : Nat) (x : Nat × Seq × List Byte) :
    wear ((s.undoOne cid x).core n) = wear (s.core n) := by
  simp [State.undoOne]

@[simp] theorem wear_abandonStep (p : Nat) : wear ((s.abandonStep p).core n) = wear (s.core n) := by
  unfold State.abandonStep
  split
  · rfl
  · split
    · rfl
    · simp

/-! ## Commands that end -/

@[simp] theorem wear_leaveEngine (cid : Nat) : wear ((s.leaveEngine cid).core n) = wear (s.core n) := by
  unfold State.leaveEngine
  split
  case h_1 => rfl
  case h_2 c _ =>
    change wear (((((s.dropGroups cid).dropAcre c.hide cid).dropChans cid).abortForeign c).core n) = _
    simp

@[simp] theorem wear_leaveStep (cid : Nat) : wear ((s.leaveStep cid).core n) = wear (s.core n) := by
  unfold State.leaveStep
  dsimp only
  split
  · rfl
  · rw [wear_abandonStep]
    split
    · rw [core_unqueue, State.dropCmd_core_at, wear_leaveEngine]
      rfl
    · rfl

@[simp] theorem wear_killCmd (cid st : Nat) (err : Option ErrInfo) :
    wear ((s.killCmd cid st err).core n) = wear (s.core n) := by
  simp [State.killCmd]

@[simp] theorem wear_stopCmd (cid st : Nat) (err : Option ErrInfo) :
    wear ((s.stopCmd cid st err).core n) = wear (s.core n) := by
  unfold State.stopCmd
  split <;> simp

@[simp] theorem wear_settle (cid : Nat) : wear ((s.settle cid).core n) = wear (s.core n) := by
  unfold State.settle
  split <;> simp

@[simp] theorem wear_endCmd (cid st : Nat) (err : Option ErrInfo) :
    wear ((s.endCmd cid st err).core n) = wear (s.core n) := by
  unfold State.endCmd
  split <;> simp

@[simp] theorem wear_failCmd (cid st : Nat) (err : Option ErrInfo) :
    wear ((s.failCmd cid st err).core n) = wear (s.core n) := by
  unfold State.failCmd
  split <;> simp

@[simp] theorem wear_endEngineZero (h : Nat) : wear ((s.endEngineZero h).core n) = wear (s.core n) := by
  simp [State.endEngineZero]


end

end Sys2Proof.Proofs
end

section
/-! Proofs about hangs, fences, the self-test and the reset of a hide's compute part (R146 to R151, R460 to R469). -/

namespace Sys2Proof.Proofs

open Sys2Proof.Machine Sys2Proof.Claims

section
variable {s : State} {h core : Nat}

/-! ## The retirement of a position (R146 to R150) -/

theorem wear_scrubFurlong (f n : Nat) : wear ((s.scrubFurlong f).core n) = wear (s.core n) := by
  simp [State.scrubFurlong, -State.core_updCore]

theorem core_furlongOff (f n : Nat) : (s.furlongOff f).core n = s.core n := rfl

theorem wear_leaveHide (f n : Nat) : wear ((s.leaveHide f h).core n) = wear (s.core n) := by
  rw [State.leaveHide, wear_endEngineZero, core_furlongOff, wear_scrubFurlong, State.setRun_core_at]

/-- A retired position. -/
def retiredCore (k : Core) : Core := { k with retired := true, failed := false, suspect := false }

/-- A position is retired, with its record. -/
def retiredState (s : State) (h core : Nat) : State := (s.updCore core retiredCore).unitRecord core 2 h

theorem retire_eq (s : State) (h core : Nat) : s.retire h core =
    if 17 ≤ s.usable (core / 17) then (retiredState s h core).unitRecord core 3 h
    else if s.usable (core / 17) = 16 then (retiredState s h core).unitRecord core 4 h
    else ((retiredState s h core).leaveHide (core / 17) h).unitRecord core 5 h := rfl

/-- Whatever takes the position's place, it is retired, and has no failure outstanding. -/
theorem wear_retire : wear ((s.retire h core).core core) = (true, false) := by
  have hretired : wear ((retiredState s h core).core core) = (true, false) := by
    rw [retiredState, core_unitRecord, State.core_updCore, if_pos rfl]
    rfl
  rw [retire_eq]
  split
  · rw [core_unitRecord, hretired]
  · split
    · rw [core_unitRecord, hretired]
    · rw [core_unitRecord, wear_leaveHide, hretired]

/-! ## The self-test of a position (R148, R469) -/

theorem testPosition_of_failed (fails : Bool) (hf : (s.core core).failed = true) :
    s.testPosition h core fails = s.retire h core :=
  if_pos (by simp [hf])

/-- A suspect position that has passed its test at a time. -/
def passedCore (at_ : Nat) (k : Core) : Core :=
  { k with suspect := false, passes := [at_], suspects := min 3 (k.suspects + 1) }

theorem testPosition_of_first_pass (hf : (s.core core).failed = false) (hs : (s.core core).suspect = true)
    (hp : (s.core core).passes = []) :
    s.testPosition h core false = (s.updCore core (passedCore s.btime.toNat)).unitRecord core 1 h := by
  simp only [State.testPosition, hf, hs, hp]
  rfl

/-! ## What a fence cuts (R463) -/

/-- A core without the store-buffer entries of a set of commands. -/
def cutStores (mine : Nat → Bool) (k : Core) : Core := { k with sb := k.sb.filter (fun e => !mine e.cid) }

theorem cores_cutRequests (s : State) (h : Nat) (p : Cmd → Bool) : (s.cutRequests h p).cores =
    (s.failOutstanding p).cores.map (fun k => (k.1, cutStores (fun i => s.cmds.any (fun c => c.cid == i && p c)) k.2)) := by
  refine List.foldlRecOn (motive := fun t : State => t.cores = _) _ _ rfl fun t ht c _ => ?_
  exact List.foldlRecOn (motive := fun t : State => t.cores = _) _ _ ht fun u hu mc _ => hu

/-- A command that is cut leaves no store behind. -/
theorem cid_ne_of_mem_cutRequests {p : Cmd → Bool} {c : Cmd} (hc : c ∈ s.cmds) (hp : p c = true) {k : Nat × Core}
    (hk : k ∈ (s.cutRequests h p).cores) {e : SbEnt} (he : e ∈ k.2.sb) : e.cid ≠ c.cid := by
  rw [cores_cutRequests] at hk
  obtain ⟨k, -, rfl⟩ := List.mem_map.1 hk
  intro heq
  have hmine : s.cmds.any (fun c => c.cid == e.cid && p c) = true :=
    List.any_eq_true.2 ⟨c, hc, by simp [heq, hp]⟩
  have hout := (List.mem_filter.1 he).2
  simp [hmine] at hout

end

/-- Settles O36. What a furlong that leaves its hide ends changes no position's wear (`wear_leaveHide`), so that a failed
position is retired in each case (`wear_retire`); a cut filters the store buffers by their commands
(`cid_ne_of_mem_cutRequests`). -/
theorem hangsAndResets : Obligations.HangsAndResets := by
  unfold Obligations.HangsAndResets
  refine ⟨?watchdog, ?early, ?deadline, ?stop, ?cutAll, ?cutStopped, ?draining, ?stores, ?starts, ?absorbed, ?selfTest,
    ?passes, ?fails, ?ends, ?late⟩
  case watchdog =>
    rintro cid c s hc ⟨hstart, hon, hphase, hstage⟩ hfrozen hheld htime
    change execWatchdogExpiry cid s = _
    simp [execWatchdogExpiry, hc, hstart, hon, hphase, hstage, hfrozen, hheld, htime]
  case early =>
    intro cid c s hc htime
    change execWatchdogExpiry cid s = _
    simp [execWatchdogExpiry, hc, Nat.not_le.2 htime]
  case deadline =>
    rintro cid c s hc ⟨hctx, hd, hphase, hend, hstage⟩ htime
    change execDeadlineExpiry cid s = _
    simp [execDeadlineExpiry, hc, hctx, hd, hphase, hend, hstage, htime]
  case stop =>
    intro cid c s hc hphase hquiet htime
    change execStopTimeout cid s = _
    simp [execStopTimeout, hc, hphase, hquiet, htime]
  case cutAll =>
    intro h t s hrec hfence htime hleft
    change execFenceDrainExpiry h s = _
    simp [execFenceDrainExpiry, hrec, hfence, htime, hleft]
  case cutStopped =>
    intro h t s hrec hfence htime hleft
    change execFenceDrainExpiry h s = _
    simp [execFenceDrainExpiry, hrec, hfence, htime, hleft]
  case draining =>
    intro h t s hrec hfence htime
    change execFenceDrainExpiry h s = _
    simp [execFenceDrainExpiry, hrec, hfence, Nat.not_le.2 htime]
  case stores =>
    intro h p c s hcmds hp k hk e he
    exact cid_ne_of_mem_cutRequests (hcmds ▸ List.mem_singleton.2 rfl) hp hk he
  case starts =>
    intro h trigger f s hex hstart hrec hhead
    change execComputePartReset h trigger s = _
    simp [execComputePartReset, hex, hstart, hrec, hhead]
  case absorbed =>
    intro h trigger s hrec
    exact ⟨congrArg Host.Outcome.next (if_neg (by simp [hrec])), fun _ => if_pos hrec⟩
  case selfTest =>
    intro h l s hrec hnone
    exact congrArg Host.Outcome.next (if_pos (by simp [hrec, hnone]))
  case passes =>
    intro h core s hf hs hp hcount
    rw [testPosition_of_first_pass hf hs hp, core_unitRecord, State.core_updCore, if_pos rfl]
    exact ⟨rfl, Nat.min_eq_right hcount, rfl⟩
  case fails =>
    intro h core fails s hf
    rw [testPosition_of_failed fails hf]
    exact Prod.mk.inj (wear_retire (s := s) (h := h) (core := core))
  case ends =>
    intro h s hkind hnone hcores
    exact congrArg Host.Outcome.next (if_pos (by simp only [hkind, hnone, hcores]; decide))
  case late =>
    intro h s hkind htime
    exact congrArg Host.Outcome.next (if_pos (by simp [hkind, htime]))

end Sys2Proof.Proofs
end
